-- ==== Sys2Proof/Syntax.lean ====
section
/-!
DEFINITION. The instructions and steps of the Scaindax Wenryn: one constructor of `Instr` for each row of the opcode
table.  An encoded row carries its fields: register numbers, raw immediates and the other non-register fields as
natural numbers below their field's bound (`Instr.wf`), the width field as the coding of R68 that the row reads.
A row without an encoding is a whole step of another agent of the machine (an event); it carries what identifies it.
-/

namespace Sys2Proof

/-- The integer coding of the width field w (03 R68); code 7 is reserved and decodes to nothing. -/
inductive IW where
  | i8 | i16 | i32 | i64 | n8 | n16 | n32
deriving DecidableEq, Repr

/-- The float coding of the width field w (03 R68): FP64, FP32, FP16, BF16, FP8E4, FP8E5 and code 6, which names the
register image (07 R163) or, as a source of `fcvt`, the block scale E8S (05 R127). -/
inductive FW where
  | f64 | f32 | f16 | bf16 | e4 | e5 | img
deriving DecidableEq, Repr

def IW.code : IW → Nat
  | .i8 => 0 | .i16 => 1 | .i32 => 2 | .i64 => 3 | .n8 => 4 | .n16 => 5 | .n32 => 6

def FW.code : FW → Nat
  | .f64 => 0 | .f32 => 1 | .f16 => 2 | .bf16 => 3 | .e4 => 4 | .e5 => 5 | .img => 6

/-- The instructions (rows with an encoding) and the other steps of the machine (rows without one). -/
inductive Instr where
  /-- R107 -/
  | add (w : IW) (d a b : Nat)
  /-- R107 -/
  | sub (w : IW) (d a b : Nat)
  /-- R107 -/
  | and (w : IW) (d a b : Nat)
  /-- R107 -/
  | or (w : IW) (d a b : Nat)
  /-- R107 -/
  | xor (w : IW) (d a b : Nat)
  /-- R107 -/
  | andn (w : IW) (d a b : Nat)
  /-- R107 -/
  | orn (w : IW) (d a b : Nat)
  /-- R107 -/
  | min (w : IW) (d a b : Nat)
  /-- R107 -/
  | max (w : IW) (d a b : Nat)
  /-- R107 -/
  | minn (w : IW) (d a b : Nat)
  /-- R107 -/
  | maxn (w : IW) (d a b : Nat)
  /-- R107 -/
  | adds (w : IW) (d a b : Nat)
  /-- R107 -/
  | subs (w : IW) (d a b : Nat)
  /-- R107 -/
  | absd (w : IW) (d a b : Nat)
  /-- R108 -/
  | addi (d a imm : Nat)
  /-- R108 -/
  | andi (d a imm : Nat)
  /-- R108 -/
  | ori (d a imm : Nat)
  /-- R108 -/
  | xori (d a imm : Nat)
  /-- R108 -/
  | mini (d a imm : Nat)
  /-- R108 -/
  | maxi (d a imm : Nat)
  /-- R109 -/
  | sll (w : IW) (d a b : Nat)
  /-- R109 -/
  | sllImm (w : IW) (d a imm hi : Nat)
  /-- R109 -/
  | srl (w : IW) (d a b : Nat)
  /-- R109 -/
  | srlImm (w : IW) (d a imm hi : Nat)
  /-- R109 -/
  | sra (w : IW) (d a b : Nat)
  /-- R109 -/
  | sraImm (w : IW) (d a imm hi : Nat)
  /-- R109 -/
  | rol (w : IW) (d a b : Nat)
  /-- R109 -/
  | rolImm (w : IW) (d a imm hi : Nat)
  /-- R109 -/
  | ror (w : IW) (d a b : Nat)
  /-- R109 -/
  | rorImm (w : IW) (d a imm hi : Nat)
  /-- R110 -/
  | ext (d a b : Nat)
  /-- R110 -/
  | extn (d a b : Nat)
  /-- R110 -/
  | ins (d a b : Nat)
  /-- R109 -/
  | clz (w : IW) (d a : Nat)
  /-- R109 -/
  | ctz (w : IW) (d a : Nat)
  /-- R109 -/
  | pop (w : IW) (d a : Nat)
  /-- R109 -/
  | brev (w : IW) (d a : Nat)
  /-- R109 -/
  | bswap (w : IW) (d a : Nat)
  /-- R111 -/
  | cmp (w : IW) (d a b x : Nat)
  /-- R112 -/
  | csel (d a b x : Nat)
  /-- R113 -/
  | mul (w : IW) (d a b la : Nat)
  /-- R113 -/
  | mulh (w : IW) (d a b la : Nat)
  /-- R113 -/
  | mulhn (w : IW) (d a b la : Nat)
  /-- R114 -/
  | div (w : IW) (d a b la : Nat)
  /-- R114 -/
  | divn (w : IW) (d a b la : Nat)
  /-- R114 -/
  | rem (w : IW) (d a b la : Nat)
  /-- R114 -/
  | remn (w : IW) (d a b la : Nat)
  /-- R115 -/
  | ldhi (d imm : Nat)
  /-- R115 -/
  | pcrel (d imm : Nat)
  /-- R116 -/
  | ptag (d a b : Nat)
  /-- R117 -/
  | padd (d a b : Nat)
  /-- R117 -/
  | psub (d a b : Nat)
  /-- R116 -/
  | pfmt (d a : Nat)
  /-- R116 -/
  | pclr (d a : Nat)
  /-- R118 -/
  | beq (a b imm : Nat)
  /-- R118 -/
  | bne (a b imm : Nat)
  /-- R118 -/
  | blt (a b imm : Nat)
  /-- R118 -/
  | bge (a b imm : Nat)
  /-- R118 -/
  | bltn (a b imm : Nat)
  /-- R118 -/
  | bgen (a b imm : Nat)
  /-- R118 -/
  | bbs (a b imm : Nat)
  /-- R118 -/
  | bbc (a b imm : Nat)
  /-- R119 -/
  | jl (d imm : Nat)
  /-- R119 -/
  | jlr (d a imm : Nat)
  /-- R120 -/
  | cMv (d src : Nat)
  /-- R120 -/
  | cAdd (d src : Nat)
  /-- R120 -/
  | cSub (d src : Nat)
  /-- R120 -/
  | cXor (d src : Nat)
  /-- R120 -/
  | cAddi (d imm : Nat)
  /-- R120 -/
  | cLi (d imm : Nat)
  /-- R120 -/
  | cLd (d off : Nat)
  /-- R120 -/
  | cSt (b off : Nat)
  /-- R120 -/
  | cBz (a imm : Nat)
  /-- R120 -/
  | cBnz (a imm : Nat)
  /-- R121 -/
  | cSk (a cond cnt : Nat)
  /-- R120 -/
  | cSll (d imm : Nat)
  /-- R120 -/
  | cSrl (d imm : Nat)
  /-- R120 -/
  | cSra (d imm : Nat)
  /-- R120 -/
  | cAndi (d imm : Nat)
  /-- R120 -/
  | cJ (imm : Nat)
  /-- R120 -/
  | cJr (src : Nat)
  /-- R120 -/
  | cJlr (d src : Nat)
  /-- R125 -/
  | fadd (w : FW) (d a b x : Nat)
  /-- R125 -/
  | fsub (w : FW) (d a b x : Nat)
  /-- R125 -/
  | fmul (w : FW) (d a b x : Nat)
  /-- R125 -/
  | fmin (w : FW) (d a b x : Nat)
  /-- R125 -/
  | fmax (w : FW) (d a b x : Nat)
  /-- R125 -/
  | fsgn (w : FW) (d a b : Nat)
  /-- R126 -/
  | ffma (w : FW) (d a b la : Nat)
  /-- R126 -/
  | fdiv (w : FW) (d a b la : Nat)
  /-- R126 -/
  | fsqrt (w : FW) (d a la : Nat)
  /-- R128 -/
  | fcvt (w : FW) (d a tgt x : Nat)
  /-- R128 -/
  | fcvti (w : FW) (d a tgt x : Nat)
  /-- R128 -/
  | icvtf (w : IW) (d a tgt x : Nat)
  /-- R128 -/
  | fin (w : FW) (d a rm : Nat)
  /-- R129 -/
  | feq (w : FW) (d a b : Nat)
  /-- R129 -/
  | flt (w : FW) (d a b : Nat)
  /-- R129 -/
  | fle (w : FW) (d a b : Nat)
  /-- R130 -/
  | fclass (w : FW) (d a : Nat)
  /-- R131 -/
  | tget (d a : Nat)
  /-- R131 -/
  | tset (d a b : Nat)
  /-- R162 -/
  | ld (w : IW) (d a off la : Nat)
  /-- R162 -/
  | lda (w : IW) (d a off sc la : Nat)
  /-- R162 -/
  | st (w : IW) (a b off hn : Nat)
  /-- R162 -/
  | str (w : IW) (a b off sc : Nat)
  /-- R163 -/
  | stf (w : FW) (a b off rm : Nat)
  /-- R164 -/
  | ldx (w : IW) (d a b la : Nat)
  /-- R164 -/
  | stx (w : IW) (d a b : Nat)
  /-- R141 -/
  | ldxr (w : IW) (d a b la : Nat)
  /-- R166 -/
  | lde (w d a b la : Nat)
  /-- R167 -/
  | ste (w d a b : Nat)
  /-- R169 -/
  | amoswap (a b wd sem sc la : Nat)
  /-- R169 -/
  | amoadd (a b wd sem sc la : Nat)
  /-- R169 -/
  | amoand (a b wd sem sc la : Nat)
  /-- R169 -/
  | amoor (a b wd sem sc la : Nat)
  /-- R169 -/
  | amoxor (a b wd sem sc la : Nat)
  /-- R169 -/
  | amomin (a b wd sem sc la : Nat)
  /-- R169 -/
  | amomax (a b wd sem sc la : Nat)
  /-- R169 -/
  | amominn (a b wd sem sc la : Nat)
  /-- R169 -/
  | amomaxn (a b wd sem sc la : Nat)
  /-- R169 -/
  | amocas (a b wd sem sc la : Nat)
  /-- R172 -/
  | amfadd (a b wd sem sc la : Nat)
  /-- R172 -/
  | amfmin (a b wd sem sc la : Nat)
  /-- R172 -/
  | amfmax (a b wd sem sc la : Nat)
  /-- R173 -/
  | radd (a b wd la : Nat)
  /-- R175 -/
  | rflush (a sc la : Nat)
  /-- R176 -/
  | ldres (a b wd sem sc la : Nat)
  /-- R176 -/
  | stcond (a b wd sem sc la : Nat)
  /-- R174 -/
  | raddi (a b wd la : Nat)
  /-- R179 -/
  | fence (sc pred succ : Nat)
  /-- R180 -/
  | tlwait (a kind : Nat)
  /-- R180 -/
  | tltest (d a kind : Nat)
  /-- R79 -/
  | hint (k rest : Nat)
  /-- R183 -/
  | cpy (d a b q la : Nat)
  /-- R184 -/
  | cpyt (d a b q la : Nat)
  /-- R186 -/
  | cpyg (d a b q la : Nat)
  /-- R189 -/
  | trread (d a : Nat)
  /-- R191 -/
  | vclaim (d a imm : Nat)
  /-- R191 -/
  | vrel
  /-- R191 -/
  | vlen (d a imm : Nat)
  /-- R191 -/
  | vsplat (d a imm : Nat)
  /-- R198 -/
  | vadd (w : IW) (d a b m : Nat)
  /-- R198 -/
  | vsub (w : IW) (d a b m : Nat)
  /-- R198 -/
  | vand (w : IW) (d a b m : Nat)
  /-- R198 -/
  | vor (w : IW) (d a b m : Nat)
  /-- R198 -/
  | vxor (w : IW) (d a b m : Nat)
  /-- R198 -/
  | vmin (w : IW) (d a b m : Nat)
  /-- R198 -/
  | vmax (w : IW) (d a b m : Nat)
  /-- R198 -/
  | vadds (w : IW) (d a b m : Nat)
  /-- R198 -/
  | vsubs (w : IW) (d a b m : Nat)
  /-- R198 -/
  | vmul (w : IW) (d a b m : Nat)
  /-- R198 -/
  | vsll (w : IW) (d a b m : Nat)
  /-- R198 -/
  | vsrl (w : IW) (d a b m : Nat)
  /-- R198 -/
  | vsra (w : IW) (d a b m : Nat)
  /-- R199 -/
  | vcmpeq (w : IW) (d a b m : Nat)
  /-- R199 -/
  | vcmplt (w : IW) (d a b m : Nat)
  /-- R199 -/
  | vcmple (w : IW) (d a b m : Nat)
  /-- R200 -/
  | vfadd (w : FW) (d a b m : Nat)
  /-- R200 -/
  | vfsub (w : FW) (d a b m : Nat)
  /-- R200 -/
  | vfmul (w : FW) (d a b m : Nat)
  /-- R200 -/
  | vfmin (w : FW) (d a b m : Nat)
  /-- R200 -/
  | vfmax (w : FW) (d a b m : Nat)
  /-- R200 -/
  | vfsgn (w : FW) (d a b m : Nat)
  /-- R199 -/
  | vfeq (w : FW) (d a b m : Nat)
  /-- R199 -/
  | vflt (w : FW) (d a b m : Nat)
  /-- R199 -/
  | vfle (w : FW) (d a b m : Nat)
  /-- R201 -/
  | vffma (w : FW) (d a b la : Nat)
  /-- R201 -/
  | vfdiv (w : FW) (d a b la : Nat)
  /-- R201 -/
  | vfsqrt (w : FW) (d a la : Nat)
  /-- R202 -/
  | vcvt (w : FW) (d a tgt m : Nat)
  /-- R202 -/
  | vicvtf (w : IW) (d a tgt m : Nat)
  /-- R202 -/
  | vfcvti (w : FW) (d a tgt m : Nat)
  /-- R202 -/
  | vfin (w : FW) (d a rm m : Nat)
  /-- R202 -/
  | vtget (d a m : Nat)
  /-- R202 -/
  | vtset (d a b m : Nat)
  /-- R204 -/
  | vperm (d a b m : Nat)
  /-- R204 -/
  | vslide (d a b m : Nat)
  /-- R204 -/
  | vbcast (d a b m : Nat)
  /-- R217 -/
  | vnbr (d a m o : Nat)
  /-- R204 -/
  | vcomp (d a m : Nat)
  /-- R204 -/
  | vexpd (d a m : Nat)
  /-- R204 -/
  | vget (d a b m : Nat)
  /-- R204 -/
  | vput (d a b m : Nat)
  /-- R205 -/
  | vred (w : IW) (d a b la : Nat)
  /-- R205 -/
  | vfred (w : FW) (d a b la : Nat)
  /-- R205 -/
  | vscan (w : IW) (d a b la : Nat)
  /-- R205 -/
  | vfscan (w : FW) (d a b la : Nat)
  /-- R206 -/
  | vsort (w : FW) (d a b la : Nat)
  /-- R206 -/
  | vsorti (w : IW) (d a b la : Nat)
  /-- R206 -/
  | vtopk (w : FW) (d a b la : Nat)
  /-- R207 -/
  | vld (w : FW) (d a b la : Nat)
  /-- R207 -/
  | vst (w : FW) (d a b : Nat)
  /-- R207 -/
  | vlds (w : FW) (d a b la : Nat)
  /-- R208 -/
  | vstf (w : FW) (d a rm srcf : Nat)
  /-- R209 -/
  | vgat (d a b la : Nat)
  /-- R209 -/
  | vsca (d a b : Nat)
  /-- R210 -/
  | vldt (d a b la : Nat)
  /-- R220 -/
  | vpoly (d a la : Nat)
  /-- R219 -/
  | ppload (a : Nat)
  /-- R213 -/
  | gang (a b : Nat)
  /-- R215 -/
  | gmeet (a : Nat)
  /-- R216 -/
  | gleave
  /-- R233 -/
  | mloads (d a b la : Nat)
  /-- R235 -/
  | mswap (d la : Nat)
  /-- R236 -/
  | mstream (d a b acc la : Nat)
  /-- R239 -/
  | mzero (d acc la : Nat)
  /-- R241 -/
  | mread (d a acc la : Nat)
  /-- R240 -/
  | mstore (d a b acc la : Nat)
  /-- R239 -/
  | mscale (d acc la : Nat)
  /-- R244 -/
  | mweight (imm : Nat)
  /-- R244 -/
  | mstat (d : Nat)
  /-- R264 -/
  | send (w d a b la : Nat)
  /-- R264 -/
  | sendw (w d a b la : Nat)
  /-- R275 -/
  | halt
  /-- R273 -/
  | nop
  /-- R273 -/
  | yield
  /-- R273 -/
  | brk
  /-- R259 -/
  | hret
  /-- R280 -/
  | cnew (d a b la : Nat)
  /-- R279 -/
  | cdec (a : Nat)
  /-- R282 -/
  | cspawn (w d a b la : Nat)
  /-- R283 -/
  | cjoin (d a b la : Nat)
  /-- R285 -/
  | cdone (a : Nat)
  /-- R304 -/
  | binit (a b : Nat)
  /-- R304 -/
  | barr (d a na : Nat)
  /-- R304 -/
  | bwait (a b : Nat)
  /-- R304 -/
  | btest (d a b : Nat)
  /-- R323 -/
  | pacq (d a nw : Nat)
  /-- R323 -/
  | prel (a b : Nat)
  /-- R325 -/
  | pfill (d a b q : Nat)
  /-- R338 -/
  | qlaunch (d a b la : Nat)
  /-- R338 -/
  | qstat (d a q la : Nat)
  /-- R355 -/
  | spstat (d a b la : Nat)
  /-- R355 -/
  | spstatClr (d a b la : Nat)
  /-- R355 -/
  | spstatSt (d a la : Nat)
  /-- R396 -/
  | nload (d a b q la : Nat)
  /-- R389 -/
  | nstore (d a b q la : Nat)
  /-- R399 -/
  | ndel (d a b q la : Nat)
  /-- R407 -/
  | ninit (d a b la : Nat)
  /-- R407 -/
  | nsnap (d a la : Nat)
  /-- R407 -/
  | nsnapRel (d a b la : Nat)
  /-- R407 -/
  | nfree (d a la : Nat)
  /-- R407 -/
  | nstat (d a q la : Nat)
  /-- R378 -/
  | ptload (d a b : Nat)
  /-- R379 -/
  | rngset (d a b : Nat)
  /-- R417 -/
  | tlbinv (d a b : Nat)
  /-- R435 -/
  | l1inv
  /-- R435 -/
  | l2wb (d a b : Nat)
  /-- R435 -/
  | heatrd (d a b : Nat)
  /-- R435 -/
  | heatage (d a b : Nat)
  /-- R423 -/
  | pfreplay (d a b : Nat)
  /-- R435 -/
  | ckpt (d a b : Nat)
  /-- R451 -/
  | trap (imm : Nat)
  /-- R451 -/
  | tret (d a : Nat)
  /-- R451 -/
  | tretKill (d a : Nat)
  /-- R451 -/
  | tretFrz (d a : Nat)
  /-- R66 -/
  | mfs (d imm : Nat)
  /-- R66 -/
  | mts (a imm : Nat)
  /-- R447 -/
  | cfreeze (d a : Nat)
  /-- R447 -/
  | cthaw (d a : Nat)
  /-- R444 -/
  | cswapIn (d a : Nat)
  /-- R444 -/
  | cswapFast (d a : Nat)
  /-- R444 -/
  | cswapOut (d a : Nat)
  /-- R439 -/
  | cswapCreate (d a : Nat)
  /-- R451 -/
  | cswapSeal (d a : Nat)
  /-- R446 -/
  | cswapReset (d a : Nat)
  /-- R451 -/
  | wpset (d a imm : Nat)
  /-- R469 -/
  | lstat (d a : Nat)
  /-- R468 -/
  | lstatQuiesce (d a : Nat)
  /-- R468 -/
  | lstatResume (d a : Nat)
  /-- R468 -/
  | lstatIsolate (d a : Nat)
  /-- R468 -/
  | lstatRetrain (d a : Nat)
  /-- R468 -/
  | lstatRelink (d a : Nat)
  /-- R468 -/
  | lstatClr (d a : Nat)
  /-- R470 -/
  | lstatDquiesce (d a : Nat)
  /-- R470 -/
  | lstatDflush (d a : Nat)
  /-- R470 -/
  | lstatDreset (d a : Nat)
  /-- R470 -/
  | lstatDadmit (d a : Nat)
  /-- R452 -/
  | qcmdOpen (ctx q : Nat)
  /-- R330 -/
  | qcmdHalt (ctx q : Nat)
  /-- R330 -/
  | qcmdResume (ctx q : Nat)
  /-- R330 -/
  | qcmdClose (ctx q : Nat)
  /-- R139 -/
  | carveWrite (die v : Nat)
  /-- R452 -/
  | shallotWrite (ctx v : Nat)
  /-- R331 -/
  | doorbell (q tail : Nat)
  /-- R472 -/
  | devnumWrite (v : Nat)
  /-- R472 -/
  | replay (ctx grp : Nat)
  /-- R472 -/
  | replayCancel (ctx grp : Nat)
  /-- R472 -/
  | registerWrite (off v : Nat)
  /-- R476 -/
  | doeIdent
  /-- R476 -/
  | doeReport (nonce ctx : Nat)
  /-- R476 -/
  | doeInvalidObject (ty len : Nat)
  /-- R471 -/
  | coldReset (failStep code : Nat)
  /-- R258 -/
  | messageArrival (n : Nat)
  /-- R284 -/
  | clauseStart (core : Nat)
  /-- R267 -/
  | activationPark (core : Nat)
  /-- R268 -/
  | activationResume (core : Nat)
  /-- R255 -/
  | waitEnd (act : Nat)
  /-- R269 -/
  | watchdogExpiry (act : Nat)
  /-- R76 -/
  | longLatencyResult (act n : Nat)
  /-- R424 -/
  | errorReply (eng who seq sub addr : Nat)
  /-- R187 -/
  | copyCommandComplete (core seq : Nat)
  /-- R229 -/
  | arrayGrant (cluster : Nat)
  /-- R230 -/
  | matrixCommandComplete (core : Nat)
  /-- R248 -/
  | planeRefetch (core plane : Nat)
  /-- R221 -/
  | vpolyRequestTake (cluster : Nat)
  /-- R302 -/
  | barrierPhaseComplete (key : Nat)
  /-- R332 -/
  | launchTakeUp (q : Nat)
  /-- R292 -/
  | groupPlace (ctx : Nat)
  /-- R293 -/
  | wakeBegin (ctx : Nat)
  /-- R293 -/
  | clusterAwake (cluster : Nat)
  /-- R294 -/
  | clusterGate (cluster : Nat)
  /-- R297 -/
  | sliceRotation (cluster pos : Nat)
  /-- R334 -/
  | launchComplete (q lseq : Nat)
  /-- R344 -/
  | shadowStart (q : Nat)
  /-- R353 -/
  | shadowCommit (q : Nat)
  /-- R363 -/
  | reqr (die line : Nat)
  /-- R363 -/
  | reqw (die line : Nat)
  /-- R363 -/
  | wb (die line : Nat)
  /-- R364 -/
  | push (die line : Nat)
  /-- R363 -/
  | fwdrd (die line : Nat)
  /-- R363 -/
  | fwdwr (die line : Nat)
  /-- R363 -/
  | inv (die line : Nat)
  /-- R363 -/
  | recall (die line : Nat)
  /-- R364 -/
  | updin (die line : Nat)
  /-- R363 -/
  | data (die line : Nat)
  /-- R382 -/
  | dataex (die line : Nat)
  /-- R363 -/
  | ack (die line : Nat)
  /-- R372 -/
  | wbdone (die line : Nat)
  /-- R372 -/
  | nack (die line : Nat)
  /-- R363 -/
  | evi (die line : Nat)
  /-- R418 -/
  | atsCompletion (ctx page pa perm : Nat)
  /-- R418 -/
  | atsInvalidation (ctx page npages : Nat)
  /-- R422 -/
  | faultRingRecheck (ctx : Nat)
  /-- R389 -/
  | indexAccept (core seq : Nat)
  /-- R391 -/
  | indexApply (ctx base : Nat)
  /-- R405 -/
  | nloadComplete (core seq : Nat)
  /-- R400 -/
  | indexReclaim (ctx base : Nat)
  /-- R432 -/
  | checkpointComplete (stat : Nat)
  /-- R446 -/
  | contextResetDone (ctx : Nat)
  /-- R457 -/
  | linkTrained (kind idx : Nat)
  /-- R457 -/
  | linkTrainingTimeout (kind idx : Nat)
  /-- R457 -/
  | linkRetryLimit (kind idx : Nat)
  /-- R457 -/
  | retrainRequest (kind idx : Nat)
  /-- R457 -/
  | linkDeclaredDown (kind idx : Nat)
  /-- R457 -/
  | linkAutoRetrain (kind idx : Nat)
  /-- R467 -/
  | podBarrierLoss (b : Nat)
  /-- R470 -/
  | dieResetDone (die : Nat)
  /-- R474 -/
  | powerSample (draw : Nat)
  /-- R475 -/
  | thermalSample (t0 t1 t2 t3 : Nat)
  /-- R81 -/
  | illegalInstruction (word : Nat)
  /-- R57 -/
  | fetchFault
deriving DecidableEq, Repr

end Sys2Proof
end

