-- ==== Sys2Proof/WellFormed.lean ====
section
/-!
DEFINITION. Which terms of `Instr` are words of the machine: every field below its bound, and no field value that the
owning chapter declares reserved (R80 step 2).  A row without an encoding has no word and is always well formed.
-/

namespace Sys2Proof

/-- Width in bits of a float coding (02 R25, R26). -/
def fwBits : FW → Nat
  | .f64 => 64 | .f32 => 32 | .f16 => 16 | .bf16 => 16 | .e4 => 8 | .e5 => 8 | .img => 128

/-- Width in bits of an integer coding (05 R105). -/
def iwBits : IW → Nat
  | .i8 => 8 | .i16 => 16 | .i32 => 32 | .i64 => 64 | .n8 => 8 | .n16 => 16 | .n32 => 32

/-- Width in bits of a format code (02 R25); 0 for a reserved code. -/
def fmtBits (c : Nat) : Nat :=
  if c = 0 then 8 else if c ≤ 2 then 8 else if c ≤ 4 then 16 else if c ≤ 6 then 32 else if c ≤ 9 then 64
  else if c = 10 then 32 else if c ≤ 12 then 16 else if c ≤ 14 then 8 else if c ≤ 16 then 6 else if c ≤ 19 then 4
  else if c ≤ 22 then 8 else if c ≤ 24 then 6 else if c = 25 then 4 else if c = 26 then 8
  else if c = 31 then 128 else 0

/-- A term that is a word of the machine, or a step without a word. -/
def Instr.wf : Instr → Bool
  | .add _ d a b => decide (d < 32 ∧ a < 32 ∧ b < 32)
  | .sub _ d a b => decide (d < 32 ∧ a < 32 ∧ b < 32)
  | .and _ d a b => decide (d < 32 ∧ a < 32 ∧ b < 32)
  | .or _ d a b => decide (d < 32 ∧ a < 32 ∧ b < 32)
  | .xor _ d a b => decide (d < 32 ∧ a < 32 ∧ b < 32)
  | .andn _ d a b => decide (d < 32 ∧ a < 32 ∧ b < 32)
  | .orn _ d a b => decide (d < 32 ∧ a < 32 ∧ b < 32)
  | .min _ d a b => decide (d < 32 ∧ a < 32 ∧ b < 32)
  | .max _ d a b => decide (d < 32 ∧ a < 32 ∧ b < 32)
  | .minn _ d a b => decide (d < 32 ∧ a < 32 ∧ b < 32)
  | .maxn _ d a b => decide (d < 32 ∧ a < 32 ∧ b < 32)
  | .adds _ d a b => decide (d < 32 ∧ a < 32 ∧ b < 32)
  | .subs _ d a b => decide (d < 32 ∧ a < 32 ∧ b < 32)
  | .absd _ d a b => decide (d < 32 ∧ a < 32 ∧ b < 32)
  | .addi d a imm => decide (d < 32 ∧ a < 32 ∧ imm < 4096)
  | .andi d a imm => decide (d < 32 ∧ a < 32 ∧ imm < 4096)
  | .ori d a imm => decide (d < 32 ∧ a < 32 ∧ imm < 4096)
  | .xori d a imm => decide (d < 32 ∧ a < 32 ∧ imm < 4096)
  | .mini d a imm => decide (d < 32 ∧ a < 32 ∧ imm < 4096)
  | .maxi d a imm => decide (d < 32 ∧ a < 32 ∧ imm < 4096)
  | .sll _ d a b => decide (d < 32 ∧ a < 32 ∧ b < 32)
  | .sllImm _ d a imm hi => decide (d < 32 ∧ a < 32 ∧ imm < 32 ∧ hi < 2)
  | .srl _ d a b => decide (d < 32 ∧ a < 32 ∧ b < 32)
  | .srlImm _ d a imm hi => decide (d < 32 ∧ a < 32 ∧ imm < 32 ∧ hi < 2)
  | .sra _ d a b => decide (d < 32 ∧ a < 32 ∧ b < 32)
  | .sraImm _ d a imm hi => decide (d < 32 ∧ a < 32 ∧ imm < 32 ∧ hi < 2)
  | .rol _ d a b => decide (d < 32 ∧ a < 32 ∧ b < 32)
  | .rolImm _ d a imm hi => decide (d < 32 ∧ a < 32 ∧ imm < 32 ∧ hi < 2)
  | .ror _ d a b => decide (d < 32 ∧ a < 32 ∧ b < 32)
  | .rorImm _ d a imm hi => decide (d < 32 ∧ a < 32 ∧ imm < 32 ∧ hi < 2)
  | .ext d a b => decide (d < 32 ∧ a < 32 ∧ b < 32)
  | .extn d a b => decide (d < 32 ∧ a < 32 ∧ b < 32)
  | .ins d a b => decide (d < 32 ∧ a < 32 ∧ b < 32)
  | .clz _ d a => decide (d < 32 ∧ a < 32)
  | .ctz _ d a => decide (d < 32 ∧ a < 32)
  | .pop _ d a => decide (d < 32 ∧ a < 32)
  | .brev _ d a => decide (d < 32 ∧ a < 32)
  | .bswap _ d a => decide (d < 32 ∧ a < 32)
  | .cmp _ d a b x => decide (d < 32 ∧ a < 32 ∧ b < 32 ∧ x < 8 ∧ x < 7)
  | .csel d a b x => decide (d < 32 ∧ a < 32 ∧ b < 32 ∧ x < 8 ∧ x < 6)
  | .mul _ d a b la => decide (d < 32 ∧ a < 32 ∧ b < 32 ∧ la < 16)
  | .mulh _ d a b la => decide (d < 32 ∧ a < 32 ∧ b < 32 ∧ la < 16)
  | .mulhn _ d a b la => decide (d < 32 ∧ a < 32 ∧ b < 32 ∧ la < 16)
  | .div _ d a b la => decide (d < 32 ∧ a < 32 ∧ b < 32 ∧ la < 16)
  | .divn _ d a b la => decide (d < 32 ∧ a < 32 ∧ b < 32 ∧ la < 16)
  | .rem _ d a b la => decide (d < 32 ∧ a < 32 ∧ b < 32 ∧ la < 16)
  | .remn _ d a b la => decide (d < 32 ∧ a < 32 ∧ b < 32 ∧ la < 16)
  | .ldhi d imm => decide (d < 32 ∧ imm < 1048576)
  | .pcrel d imm => decide (d < 32 ∧ imm < 1048576)
  | .ptag d a b => decide (d < 32 ∧ a < 32 ∧ b < 32)
  | .padd d a b => decide (d < 32 ∧ a < 32 ∧ b < 32)
  | .psub d a b => decide (d < 32 ∧ a < 32 ∧ b < 32)
  | .pfmt d a => decide (d < 32 ∧ a < 32)
  | .pclr d a => decide (d < 32 ∧ a < 32)
  | .beq a b imm => decide (a < 32 ∧ b < 32 ∧ imm < 4096)
  | .bne a b imm => decide (a < 32 ∧ b < 32 ∧ imm < 4096)
  | .blt a b imm => decide (a < 32 ∧ b < 32 ∧ imm < 4096)
  | .bge a b imm => decide (a < 32 ∧ b < 32 ∧ imm < 4096)
  | .bltn a b imm => decide (a < 32 ∧ b < 32 ∧ imm < 4096)
  | .bgen a b imm => decide (a < 32 ∧ b < 32 ∧ imm < 4096)
  | .bbs a b imm => decide (a < 32 ∧ b < 32 ∧ imm < 4096)
  | .bbc a b imm => decide (a < 32 ∧ b < 32 ∧ imm < 4096)
  | .jl d imm => decide (d < 32 ∧ imm < 1048576)
  | .jlr d a imm => decide (d < 32 ∧ a < 32 ∧ imm < 4096)
  | .cMv d src => decide (d < 32 ∧ src < 32 ∧ d ≠ 0)
  | .cAdd d src => decide (d < 32 ∧ src < 32 ∧ d ≠ 0)
  | .cSub d src => decide (d < 32 ∧ src < 32 ∧ d ≠ 0)
  | .cXor d src => decide (d < 32 ∧ src < 32 ∧ d ≠ 0)
  | .cAddi d imm => decide (d < 32 ∧ imm < 64 ∧ d ≠ 0)
  | .cLi d imm => decide (d < 32 ∧ imm < 64 ∧ d ≠ 0)
  | .cLd d off => decide (d < 32 ∧ off < 64 ∧ d ≠ 0)
  | .cSt b off => decide (b < 32 ∧ off < 64)
  | .cBz a imm => decide (a < 32 ∧ imm < 64)
  | .cBnz a imm => decide (a < 32 ∧ imm < 64)
  | .cSk a cond cnt => decide (a < 32 ∧ cond < 8 ∧ cnt < 8 ∧ cond < 6)
  | .cSll d imm => decide (d < 32 ∧ imm < 32 ∧ d ≠ 0)
  | .cSrl d imm => decide (d < 32 ∧ imm < 32 ∧ d ≠ 0)
  | .cSra d imm => decide (d < 32 ∧ imm < 32 ∧ d ≠ 0)
  | .cAndi d imm => decide (d < 32 ∧ imm < 32 ∧ d ≠ 0)
  | .cJ imm => decide (imm < 2048)
  | .cJr src => decide (src < 32)
  | .cJlr d src => decide (d < 32 ∧ src < 32 ∧ d ≠ 0)
  | .fadd w d a b x => decide (d < 32 ∧ a < 32 ∧ b < 32 ∧ x < 8 ∧ w.code < 4)
  | .fsub w d a b x => decide (d < 32 ∧ a < 32 ∧ b < 32 ∧ x < 8 ∧ w.code < 4)
  | .fmul w d a b x => decide (d < 32 ∧ a < 32 ∧ b < 32 ∧ x < 8 ∧ w.code < 4)
  | .fmin w d a b x => decide (d < 32 ∧ a < 32 ∧ b < 32 ∧ x < 8 ∧ w.code < 4)
  | .fmax w d a b x => decide (d < 32 ∧ a < 32 ∧ b < 32 ∧ x < 8 ∧ w.code < 4)
  | .fsgn w d a b => decide (d < 32 ∧ a < 32 ∧ b < 32 ∧ w.code < 4)
  | .ffma w d a b la => decide (d < 32 ∧ a < 32 ∧ b < 32 ∧ la < 16 ∧ w.code < 4)
  | .fdiv w d a b la => decide (d < 32 ∧ a < 32 ∧ b < 32 ∧ la < 16 ∧ w.code < 4)
  | .fsqrt w d a la => decide (d < 32 ∧ a < 32 ∧ la < 16 ∧ w.code < 4)
  | .fcvt _ d a tgt x => decide (d < 32 ∧ a < 32 ∧ tgt < 32 ∧ x < 8 ∧ ((9 ≤ tgt ∧ tgt ≤ 14) ∨ (15 ≤ tgt ∧ tgt ≤ 17 ∧ x ≠ 0) ∨ (tgt = 20 ∧ x ≠ 0)))
  | .fcvti w d a tgt x => decide (d < 32 ∧ a < 32 ∧ tgt < 32 ∧ x < 8 ∧ w.code < 6 ∧ ((1 ≤ tgt ∧ tgt ≤ 8) ∨ tgt = 18 ∨ tgt = 19) ∧ x ≠ 0 ∧ x ≠ 6)
  | .icvtf _ d a tgt x => decide (d < 32 ∧ a < 32 ∧ tgt < 32 ∧ x < 8 ∧ ((9 ≤ tgt ∧ tgt ≤ 14) ∨ (15 ≤ tgt ∧ tgt ≤ 17 ∧ x ≠ 0)))
  | .fin w d a rm => decide (d < 32 ∧ a < 32 ∧ rm < 8 ∧ w.code < 6)
  | .feq w d a b => decide (d < 32 ∧ a < 32 ∧ b < 32 ∧ w.code < 6)
  | .flt w d a b => decide (d < 32 ∧ a < 32 ∧ b < 32 ∧ w.code < 6)
  | .fle w d a b => decide (d < 32 ∧ a < 32 ∧ b < 32 ∧ w.code < 6)
  | .fclass w d a => decide (d < 32 ∧ a < 32 ∧ w.code < 6)
  | .tget d a => decide (d < 32 ∧ a < 32)
  | .tset d a b => decide (d < 32 ∧ a < 32 ∧ b < 32)
  | .ld _ d a off la => decide (d < 32 ∧ a < 32 ∧ off < 256 ∧ la < 16)
  | .lda _ d a off sc la => decide (d < 32 ∧ a < 32 ∧ off < 64 ∧ sc < 4 ∧ la < 16)
  | .st _ a b off hn => decide (a < 32 ∧ b < 32 ∧ off < 1024 ∧ hn < 4 ∧ hn < 2)
  | .str _ a b off sc => decide (a < 32 ∧ b < 32 ∧ off < 1024 ∧ sc < 4)
  | .stf w a b off rm => decide (a < 32 ∧ b < 32 ∧ off < 1024 ∧ rm < 4 ∧ (w.code ≠ 6 ∨ rm = 0))
  | .ldx _ d a b la => decide (d < 32 ∧ a < 32 ∧ b < 32 ∧ la < 16)
  | .stx _ d a b => decide (d < 32 ∧ a < 32 ∧ b < 32)
  | .ldxr _ d a b la => decide (d < 32 ∧ a < 32 ∧ b < 32 ∧ la < 16)
  | .lde w d a b la => decide (w < 8 ∧ d < 32 ∧ a < 32 ∧ b < 32 ∧ la < 16)
  | .ste w d a b => decide (w < 8 ∧ d < 32 ∧ a < 32 ∧ b < 32)
  | .amoswap a b wd sem sc la => decide (a < 32 ∧ b < 32 ∧ wd < 2 ∧ sem < 4 ∧ sc < 4 ∧ la < 16)
  | .amoadd a b wd sem sc la => decide (a < 32 ∧ b < 32 ∧ wd < 2 ∧ sem < 4 ∧ sc < 4 ∧ la < 16)
  | .amoand a b wd sem sc la => decide (a < 32 ∧ b < 32 ∧ wd < 2 ∧ sem < 4 ∧ sc < 4 ∧ la < 16)
  | .amoor a b wd sem sc la => decide (a < 32 ∧ b < 32 ∧ wd < 2 ∧ sem < 4 ∧ sc < 4 ∧ la < 16)
  | .amoxor a b wd sem sc la => decide (a < 32 ∧ b < 32 ∧ wd < 2 ∧ sem < 4 ∧ sc < 4 ∧ la < 16)
  | .amomin a b wd sem sc la => decide (a < 32 ∧ b < 32 ∧ wd < 2 ∧ sem < 4 ∧ sc < 4 ∧ la < 16)
  | .amomax a b wd sem sc la => decide (a < 32 ∧ b < 32 ∧ wd < 2 ∧ sem < 4 ∧ sc < 4 ∧ la < 16)
  | .amominn a b wd sem sc la => decide (a < 32 ∧ b < 32 ∧ wd < 2 ∧ sem < 4 ∧ sc < 4 ∧ la < 16)
  | .amomaxn a b wd sem sc la => decide (a < 32 ∧ b < 32 ∧ wd < 2 ∧ sem < 4 ∧ sc < 4 ∧ la < 16)
  | .amocas a b wd sem sc la => decide (a < 32 ∧ b < 32 ∧ wd < 2 ∧ sem < 4 ∧ sc < 4 ∧ la < 16 ∧ b % 2 = 0)
  | .amfadd a b wd sem sc la => decide (a < 32 ∧ b < 32 ∧ wd < 2 ∧ sem < 4 ∧ sc < 4 ∧ la < 16)
  | .amfmin a b wd sem sc la => decide (a < 32 ∧ b < 32 ∧ wd < 2 ∧ sem < 4 ∧ sc < 4 ∧ la < 16)
  | .amfmax a b wd sem sc la => decide (a < 32 ∧ b < 32 ∧ wd < 2 ∧ sem < 4 ∧ sc < 4 ∧ la < 16)
  | .radd a b wd la => decide (a < 32 ∧ b < 32 ∧ wd < 2 ∧ la < 16)
  | .rflush a sc la => decide (a < 32 ∧ sc < 4 ∧ la < 16)
  | .ldres a b wd sem sc la => decide (a < 32 ∧ b < 32 ∧ wd < 2 ∧ sem < 4 ∧ sc < 4 ∧ la < 16 ∧ sem < 2)
  | .stcond a b wd sem sc la => decide (a < 32 ∧ b < 32 ∧ wd < 2 ∧ sem < 4 ∧ sc < 4 ∧ la < 16 ∧ (sem = 0 ∨ sem = 2))
  | .raddi a b wd la => decide (a < 32 ∧ b < 32 ∧ wd < 2 ∧ la < 16)
  | .fence sc pred succ => decide (sc < 8 ∧ pred < 256 ∧ succ < 256 ∧ sc < 7)
  | .tlwait a kind => decide (a < 32 ∧ kind < 8 ∧ kind < 3)
  | .tltest d a kind => decide (d < 32 ∧ a < 32 ∧ kind < 8 ∧ kind < 3)
  | .hint k rest => decide (k < 8 ∧ rest < 1048576)
  | .cpy d a b q la => decide (d < 32 ∧ a < 32 ∧ b < 32 ∧ q < 8 ∧ la < 16)
  | .cpyt d a b q la => decide (d < 32 ∧ a < 32 ∧ b < 32 ∧ q < 8 ∧ la < 16)
  | .cpyg d a b q la => decide (d < 32 ∧ a < 32 ∧ b < 32 ∧ q < 8 ∧ la < 16)
  | .trread d a => decide (d < 32 ∧ a < 32)
  | .vclaim d a imm => decide (d < 32 ∧ a < 32 ∧ imm < 4096)
  | .vrel => true
  | .vlen d a imm => decide (d < 32 ∧ a < 32 ∧ imm < 4096 ∧ (imm = 8 ∨ imm = 16 ∨ imm = 32 ∨ imm = 64))
  | .vsplat d a imm => decide (d < 32 ∧ a < 32 ∧ imm < 4096 ∧ imm < 2)
  | .vadd w d a b m => decide (d < 32 ∧ a < 32 ∧ b < 32 ∧ m < 8 ∧ w.code ≠ 3)
  | .vsub w d a b m => decide (d < 32 ∧ a < 32 ∧ b < 32 ∧ m < 8 ∧ w.code ≠ 3)
  | .vand w d a b m => decide (d < 32 ∧ a < 32 ∧ b < 32 ∧ m < 8 ∧ w.code ≠ 3)
  | .vor w d a b m => decide (d < 32 ∧ a < 32 ∧ b < 32 ∧ m < 8 ∧ w.code ≠ 3)
  | .vxor w d a b m => decide (d < 32 ∧ a < 32 ∧ b < 32 ∧ m < 8 ∧ w.code ≠ 3)
  | .vmin w d a b m => decide (d < 32 ∧ a < 32 ∧ b < 32 ∧ m < 8 ∧ w.code ≠ 3)
  | .vmax w d a b m => decide (d < 32 ∧ a < 32 ∧ b < 32 ∧ m < 8 ∧ w.code ≠ 3)
  | .vadds w d a b m => decide (d < 32 ∧ a < 32 ∧ b < 32 ∧ m < 8 ∧ w.code ≠ 3)
  | .vsubs w d a b m => decide (d < 32 ∧ a < 32 ∧ b < 32 ∧ m < 8 ∧ w.code ≠ 3)
  | .vmul w d a b m => decide (d < 32 ∧ a < 32 ∧ b < 32 ∧ m < 8 ∧ w.code ≠ 3)
  | .vsll w d a b m => decide (d < 32 ∧ a < 32 ∧ b < 32 ∧ m < 8 ∧ w.code ≠ 3)
  | .vsrl w d a b m => decide (d < 32 ∧ a < 32 ∧ b < 32 ∧ m < 8 ∧ w.code ≠ 3)
  | .vsra w d a b m => decide (d < 32 ∧ a < 32 ∧ b < 32 ∧ m < 8 ∧ w.code ≠ 3)
  | .vcmpeq w d a b m => decide (d < 32 ∧ a < 32 ∧ b < 32 ∧ m < 8 ∧ (w.code = 2 ∨ w.code = 6))
  | .vcmplt w d a b m => decide (d < 32 ∧ a < 32 ∧ b < 32 ∧ m < 8 ∧ (w.code = 2 ∨ w.code = 6))
  | .vcmple w d a b m => decide (d < 32 ∧ a < 32 ∧ b < 32 ∧ m < 8 ∧ (w.code = 2 ∨ w.code = 6))
  | .vfadd w d a b m => decide (d < 32 ∧ a < 32 ∧ b < 32 ∧ m < 8 ∧ w.code < 4)
  | .vfsub w d a b m => decide (d < 32 ∧ a < 32 ∧ b < 32 ∧ m < 8 ∧ w.code < 4)
  | .vfmul w d a b m => decide (d < 32 ∧ a < 32 ∧ b < 32 ∧ m < 8 ∧ w.code < 4)
  | .vfmin w d a b m => decide (d < 32 ∧ a < 32 ∧ b < 32 ∧ m < 8 ∧ w.code < 4)
  | .vfmax w d a b m => decide (d < 32 ∧ a < 32 ∧ b < 32 ∧ m < 8 ∧ w.code < 4)
  | .vfsgn w d a b m => decide (d < 32 ∧ a < 32 ∧ b < 32 ∧ m < 8 ∧ w.code < 4)
  | .vfeq w d a b m => decide (d < 32 ∧ a < 32 ∧ b < 32 ∧ m < 8 ∧ w.code < 2)
  | .vflt w d a b m => decide (d < 32 ∧ a < 32 ∧ b < 32 ∧ m < 8 ∧ w.code < 2)
  | .vfle w d a b m => decide (d < 32 ∧ a < 32 ∧ b < 32 ∧ m < 8 ∧ w.code < 2)
  | .vffma w d a b la => decide (d < 32 ∧ a < 32 ∧ b < 32 ∧ la < 16 ∧ w.code < 4)
  | .vfdiv w d a b la => decide (d < 32 ∧ a < 32 ∧ b < 32 ∧ la < 16 ∧ w.code < 4)
  | .vfsqrt w d a la => decide (d < 32 ∧ a < 32 ∧ la < 16 ∧ w.code < 4)
  | .vcvt w d a tgt m => decide (d < 32 ∧ a < 32 ∧ tgt < 32 ∧ m < 8 ∧ w.code < 4 ∧ 9 ≤ tgt ∧ tgt ≤ 12 ∧ (m = 0 ∨ fwBits w = fmtBits tgt))
  | .vicvtf w d a tgt m => decide (d < 32 ∧ a < 32 ∧ tgt < 32 ∧ m < 8 ∧ (w.code = 1 ∨ w.code = 2 ∨ w.code = 5 ∨ w.code = 6) ∧ 9 ≤ tgt ∧ tgt ≤ 12 ∧ (m = 0 ∨ iwBits w = fmtBits tgt))
  | .vfcvti w d a tgt m => decide (d < 32 ∧ a < 32 ∧ tgt < 32 ∧ m < 8 ∧ w.code < 4 ∧ 3 ≤ tgt ∧ tgt ≤ 6 ∧ (m = 0 ∨ fwBits w = fmtBits tgt))
  | .vfin w d a rm m => decide (d < 32 ∧ a < 32 ∧ rm < 8 ∧ m < 8 ∧ w.code < 4)
  | .vtget d a m => decide (d < 32 ∧ a < 32 ∧ m < 8)
  | .vtset d a b m => decide (d < 32 ∧ a < 32 ∧ b < 32 ∧ m < 8)
  | .vperm d a b m => decide (d < 32 ∧ a < 32 ∧ b < 32 ∧ m < 8)
  | .vslide d a b m => decide (d < 32 ∧ a < 32 ∧ b < 32 ∧ m < 8)
  | .vbcast d a b m => decide (d < 32 ∧ a < 32 ∧ b < 32 ∧ m < 8)
  | .vnbr d a m o => decide (d < 32 ∧ a < 32 ∧ m < 8 ∧ o < 8 ∧ 1 ≤ o ∧ o < 4)
  | .vcomp d a m => decide (d < 32 ∧ a < 32 ∧ m < 8)
  | .vexpd d a m => decide (d < 32 ∧ a < 32 ∧ m < 8)
  | .vget d a b m => decide (d < 32 ∧ a < 32 ∧ b < 32 ∧ m < 8)
  | .vput d a b m => decide (d < 32 ∧ a < 32 ∧ b < 32 ∧ m < 8)
  | .vred w d a b la => decide (d < 32 ∧ a < 32 ∧ b < 32 ∧ la < 16 ∧ w.code ≠ 3)
  | .vfred w d a b la => decide (d < 32 ∧ a < 32 ∧ b < 32 ∧ la < 16 ∧ w.code < 4)
  | .vscan w d a b la => decide (d < 32 ∧ a < 32 ∧ b < 32 ∧ la < 16 ∧ w.code ≠ 3)
  | .vfscan w d a b la => decide (d < 32 ∧ a < 32 ∧ b < 32 ∧ la < 16 ∧ w.code < 4)
  | .vsort w d a b la => decide (d < 32 ∧ a < 32 ∧ b < 32 ∧ la < 16 ∧ w.code = 1)
  | .vsorti w d a b la => decide (d < 32 ∧ a < 32 ∧ b < 32 ∧ la < 16 ∧ (w.code = 2 ∨ w.code = 6))
  | .vtopk w d a b la => decide (d < 32 ∧ a < 32 ∧ b < 32 ∧ la < 16 ∧ w.code = 1)
  | .vld w d a b la => decide (d < 32 ∧ a < 32 ∧ b < 32 ∧ la < 16 ∧ w.code < 6)
  | .vst w d a b => decide (d < 32 ∧ a < 32 ∧ b < 32 ∧ w.code < 4)
  | .vlds w d a b la => decide (d < 32 ∧ a < 32 ∧ b < 32 ∧ la < 16 ∧ w.code < 6)
  | .vstf w d a rm srcf => decide (d < 32 ∧ a < 32 ∧ rm < 8 ∧ srcf < 4 ∧ w.code < 6)
  | .vgat d a b la => decide (d < 32 ∧ a < 32 ∧ b < 32 ∧ la < 16)
  | .vsca d a b => decide (d < 32 ∧ a < 32 ∧ b < 32)
  | .vldt d a b la => decide (d < 32 ∧ a < 32 ∧ b < 32 ∧ la < 16)
  | .vpoly d a la => decide (d < 32 ∧ a < 32 ∧ la < 16)
  | .ppload a => decide (a < 32)
  | .gang a b => decide (a < 32 ∧ b < 32)
  | .gmeet a => decide (a < 32)
  | .gleave => true
  | .mloads d a b la => decide (d < 32 ∧ a < 32 ∧ b < 32 ∧ la < 16)
  | .mswap d la => decide (d < 32 ∧ la < 16)
  | .mstream d a b acc la => decide (d < 32 ∧ a < 32 ∧ b < 32 ∧ acc < 2 ∧ la < 16)
  | .mzero d acc la => decide (d < 32 ∧ acc < 2 ∧ la < 16)
  | .mread d a acc la => decide (d < 32 ∧ a < 32 ∧ acc < 2 ∧ la < 16)
  | .mstore d a b acc la => decide (d < 32 ∧ a < 32 ∧ b < 32 ∧ acc < 2 ∧ la < 16)
  | .mscale d acc la => decide (d < 32 ∧ acc < 2 ∧ la < 16)
  | .mweight imm => decide (imm < 4096 ∧ 1 ≤ imm ∧ imm < 5)
  | .mstat d => decide (d < 32)
  | .send w d a b la => decide (w < 8 ∧ d < 32 ∧ a < 32 ∧ b < 32 ∧ la < 16 ∧ (w ≠ 0 ∨ b = 0) ∧ (w = 0 ∨ b + w ≤ 32))
  | .sendw w d a b la => decide (w < 8 ∧ d < 32 ∧ a < 32 ∧ b < 32 ∧ la < 16 ∧ (w ≠ 0 ∨ b = 0) ∧ (w = 0 ∨ b + w ≤ 32))
  | .halt => true
  | .nop => true
  | .yield => true
  | .brk => true
  | .hret => true
  | .cnew d a b la => decide (d < 32 ∧ a < 32 ∧ b < 32 ∧ la < 16)
  | .cdec a => decide (a < 32)
  | .cspawn w d a b la => decide (w < 8 ∧ d < 32 ∧ a < 32 ∧ b < 32 ∧ la < 16 ∧ w < 4 ∧ (w ≠ 0 ∨ b = 0) ∧ (w = 0 ∨ b + w ≤ 32))
  | .cjoin d a b la => decide (d < 32 ∧ a < 32 ∧ b < 32 ∧ la < 16)
  | .cdone a => decide (a < 32)
  | .binit a b => decide (a < 32 ∧ b < 32)
  | .barr d a na => decide (d < 32 ∧ a < 32 ∧ na < 2)
  | .bwait a b => decide (a < 32 ∧ b < 32)
  | .btest d a b => decide (d < 32 ∧ a < 32 ∧ b < 32)
  | .pacq d a nw => decide (d < 32 ∧ a < 32 ∧ nw < 2)
  | .prel a b => decide (a < 32 ∧ b < 32)
  | .pfill d a b q => decide (d < 32 ∧ a < 32 ∧ b < 32 ∧ q < 8)
  | .qlaunch d a b la => decide (d < 32 ∧ a < 32 ∧ b < 32 ∧ la < 16)
  | .qstat d a q la => decide (d < 32 ∧ a < 32 ∧ q < 8 ∧ la < 16 ∧ q < 3)
  | .spstat d a b la => decide (d < 32 ∧ a < 32 ∧ b < 32 ∧ la < 16)
  | .spstatClr d a b la => decide (d < 32 ∧ a < 32 ∧ b < 32 ∧ la < 16)
  | .spstatSt d a la => decide (d < 32 ∧ a < 32 ∧ la < 16)
  | .nload d a b q la => decide (d < 32 ∧ a < 32 ∧ b < 32 ∧ q < 8 ∧ la < 16)
  | .nstore d a b q la => decide (d < 32 ∧ a < 32 ∧ b < 32 ∧ q < 8 ∧ la < 16)
  | .ndel d a b q la => decide (d < 32 ∧ a < 32 ∧ b < 32 ∧ q < 8 ∧ la < 16)
  | .ninit d a b la => decide (d < 32 ∧ a < 32 ∧ b < 32 ∧ la < 16)
  | .nsnap d a la => decide (d < 32 ∧ a < 32 ∧ la < 16)
  | .nsnapRel d a b la => decide (d < 32 ∧ a < 32 ∧ b < 32 ∧ la < 16)
  | .nfree d a la => decide (d < 32 ∧ a < 32 ∧ la < 16)
  | .nstat d a q la => decide (d < 32 ∧ a < 32 ∧ q < 8 ∧ la < 16 ∧ q < 5)
  | .ptload d a b => decide (d < 32 ∧ a < 32 ∧ b < 32)
  | .rngset d a b => decide (d < 32 ∧ a < 32 ∧ b < 32)
  | .tlbinv d a b => decide (d < 32 ∧ a < 32 ∧ b < 32)
  | .l1inv => true
  | .l2wb d a b => decide (d < 32 ∧ a < 32 ∧ b < 32)
  | .heatrd d a b => decide (d < 32 ∧ a < 32 ∧ b < 32)
  | .heatage d a b => decide (d < 32 ∧ a < 32 ∧ b < 32)
  | .pfreplay d a b => decide (d < 32 ∧ a < 32 ∧ b < 32)
  | .ckpt d a b => decide (d < 32 ∧ a < 32 ∧ b < 32)
  | .trap imm => decide (imm < 4096)
  | .tret d a => decide (d < 32 ∧ a < 32)
  | .tretKill d a => decide (d < 32 ∧ a < 32)
  | .tretFrz d a => decide (d < 32 ∧ a < 32)
  | .mfs d imm => decide (d < 32 ∧ imm < 4096 ∧ (imm < 12 ∨ (256 ≤ imm ∧ imm < 768)))
  | .mts a imm => decide (a < 32 ∧ imm < 4096 ∧ (imm < 12 ∨ (256 ≤ imm ∧ imm < 768)))
  | .cfreeze d a => decide (d < 32 ∧ a < 32)
  | .cthaw d a => decide (d < 32 ∧ a < 32)
  | .cswapIn d a => decide (d < 32 ∧ a < 32)
  | .cswapFast d a => decide (d < 32 ∧ a < 32)
  | .cswapOut d a => decide (d < 32 ∧ a < 32)
  | .cswapCreate d a => decide (d < 32 ∧ a < 32)
  | .cswapSeal d a => decide (d < 32 ∧ a < 32)
  | .cswapReset d a => decide (d < 32 ∧ a < 32)
  | .wpset d a imm => decide (d < 32 ∧ a < 32 ∧ imm < 4096)
  | .lstat d a => decide (d < 32 ∧ a < 32)
  | .lstatQuiesce d a => decide (d < 32 ∧ a < 32)
  | .lstatResume d a => decide (d < 32 ∧ a < 32)
  | .lstatIsolate d a => decide (d < 32 ∧ a < 32)
  | .lstatRetrain d a => decide (d < 32 ∧ a < 32)
  | .lstatRelink d a => decide (d < 32 ∧ a < 32)
  | .lstatClr d a => decide (d < 32 ∧ a < 32)
  | .lstatDquiesce d a => decide (d < 32 ∧ a < 32)
  | .lstatDflush d a => decide (d < 32 ∧ a < 32)
  | .lstatDreset d a => decide (d < 32 ∧ a < 32)
  | .lstatDadmit d a => decide (d < 32 ∧ a < 32)
  | .qcmdOpen _ _ => true
  | .qcmdHalt _ _ => true
  | .qcmdResume _ _ => true
  | .qcmdClose _ _ => true
  | .carveWrite _ _ => true
  | .shallotWrite _ _ => true
  | .doorbell _ _ => true
  | .devnumWrite _ => true
  | .replay _ _ => true
  | .replayCancel _ _ => true
  | .registerWrite _ _ => true
  | .doeIdent => true
  | .doeReport _ _ => true
  | .doeInvalidObject _ _ => true
  | .coldReset _ _ => true
  | .messageArrival _ => true
  | .clauseStart _ => true
  | .activationPark _ => true
  | .activationResume _ => true
  | .waitEnd _ => true
  | .watchdogExpiry _ => true
  | .longLatencyResult _ _ => true
  | .errorReply _ _ _ _ _ => true
  | .copyCommandComplete _ _ => true
  | .arrayGrant _ => true
  | .matrixCommandComplete _ => true
  | .planeRefetch _ _ => true
  | .vpolyRequestTake _ => true
  | .barrierPhaseComplete _ => true
  | .launchTakeUp _ => true
  | .groupPlace _ => true
  | .wakeBegin _ => true
  | .clusterAwake _ => true
  | .clusterGate _ => true
  | .sliceRotation _ _ => true
  | .launchComplete _ _ => true
  | .shadowStart _ => true
  | .shadowCommit _ => true
  | .reqr _ _ => true
  | .reqw _ _ => true
  | .wb _ _ => true
  | .push _ _ => true
  | .fwdrd _ _ => true
  | .fwdwr _ _ => true
  | .inv _ _ => true
  | .recall _ _ => true
  | .updin _ _ => true
  | .data _ _ => true
  | .dataex _ _ => true
  | .ack _ _ => true
  | .wbdone _ _ => true
  | .nack _ _ => true
  | .evi _ _ => true
  | .atsCompletion _ _ _ _ => true
  | .atsInvalidation _ _ _ => true
  | .faultRingRecheck _ => true
  | .indexAccept _ _ => true
  | .indexApply _ _ => true
  | .nloadComplete _ _ => true
  | .indexReclaim _ _ => true
  | .checkpointComplete _ => true
  | .contextResetDone _ => true
  | .linkTrained _ _ => true
  | .linkTrainingTimeout _ _ => true
  | .linkRetryLimit _ _ => true
  | .retrainRequest _ _ => true
  | .linkDeclaredDown _ _ => true
  | .linkAutoRetrain _ _ => true
  | .podBarrierLoss _ => true
  | .dieResetDone _ => true
  | .powerSample _ => true
  | .thermalSample _ _ _ _ => true
  | .illegalInstruction _ => true
  | .fetchFault => true

end Sys2Proof
end

