-- ==== Sys2Proof/Decode.lean ====
section
/-!
DEFINITION. The decoder, total on any bytes and rejecting by name (03 R55, R67, R71, R77, R78, R80, R81), and after it
the encoder written from the same tables.  A word is a natural number: bit 0 is the least significant bit of the first
halfword.  A word of a row whose must-be-zero bits or field values are wrong is no instruction, so the step that meets it
traps IOP (`Instr.illegalInstruction`).  (`noncomputable` marks what builds a constructor past the runtime's
limit of 244 object tags; the kernel evaluates these definitions like any other.)
-/

namespace Sys2Proof

/-- Why a word is no instruction. -/
inductive DecodeError where
  | tooShort        -- fewer bytes than the length that bit 0 of the first halfword selects (R55)
  | reservedMajor   -- a major that R77 or R78 marks reserved, or major 0x3F (R81)
  | noSuchForm      -- an unused fn value, or a field that must be zero is not (R70, R80)
  | reservedValue   -- a field value the owning chapter does not accept (R68, R80)
deriving DecidableEq, Repr

/-- The `n` bits of `w` from bit `lo` up. -/
def fld (w lo n : Nat) : Nat := w / 2 ^ lo % 2 ^ n

def IW.ofCode? : Nat → Option IW
  | 0 => some .i8 | 1 => some .i16 | 2 => some .i32 | 3 => some .i64 | 4 => some .n8 | 5 => some .n16 | 6 => some .n32
  | _ => none

def FW.ofCode? : Nat → Option FW
  | 0 => some .f64 | 1 => some .f32 | 2 => some .f16 | 3 => some .bf16 | 4 => some .e4 | 5 => some .e5 | 6 => some .img
  | _ => none
/-- 32-bit major 0x00 (R77). -/
def decMajor00 (w : Nat) : Option Instr :=
  if fld w 25 7 = 0 then (IW.ofCode? (fld w 22 3)).map fun w' => .add w' (fld w 7 5) (fld w 12 5) (fld w 17 5)
  else
  if fld w 25 7 = 1 then (IW.ofCode? (fld w 22 3)).map fun w' => .sub w' (fld w 7 5) (fld w 12 5) (fld w 17 5)
  else
  if fld w 25 7 = 2 then (IW.ofCode? (fld w 22 3)).map fun w' => .and w' (fld w 7 5) (fld w 12 5) (fld w 17 5)
  else
  if fld w 25 7 = 3 then (IW.ofCode? (fld w 22 3)).map fun w' => .or w' (fld w 7 5) (fld w 12 5) (fld w 17 5)
  else
  if fld w 25 7 = 4 then (IW.ofCode? (fld w 22 3)).map fun w' => .xor w' (fld w 7 5) (fld w 12 5) (fld w 17 5)
  else
  if fld w 25 7 = 5 then (IW.ofCode? (fld w 22 3)).map fun w' => .andn w' (fld w 7 5) (fld w 12 5) (fld w 17 5)
  else
  if fld w 25 7 = 6 then (IW.ofCode? (fld w 22 3)).map fun w' => .orn w' (fld w 7 5) (fld w 12 5) (fld w 17 5)
  else
  if fld w 25 7 = 7 then (IW.ofCode? (fld w 22 3)).map fun w' => .min w' (fld w 7 5) (fld w 12 5) (fld w 17 5)
  else
  if fld w 25 7 = 8 then (IW.ofCode? (fld w 22 3)).map fun w' => .max w' (fld w 7 5) (fld w 12 5) (fld w 17 5)
  else
  if fld w 25 7 = 9 then (IW.ofCode? (fld w 22 3)).map fun w' => .minn w' (fld w 7 5) (fld w 12 5) (fld w 17 5)
  else
  if fld w 25 7 = 10 then (IW.ofCode? (fld w 22 3)).map fun w' => .maxn w' (fld w 7 5) (fld w 12 5) (fld w 17 5)
  else
  if fld w 25 7 = 11 then (IW.ofCode? (fld w 22 3)).map fun w' => .adds w' (fld w 7 5) (fld w 12 5) (fld w 17 5)
  else
  if fld w 25 7 = 12 then (IW.ofCode? (fld w 22 3)).map fun w' => .subs w' (fld w 7 5) (fld w 12 5) (fld w 17 5)
  else
  if fld w 25 7 = 13 then (IW.ofCode? (fld w 22 3)).map fun w' => .absd w' (fld w 7 5) (fld w 12 5) (fld w 17 5)
  else
  none
/-- 32-bit major 0x01 (R77). -/
def decMajor01 (w : Nat) : Option Instr :=
  if fld w 17 3 = 0 then some (.addi (fld w 7 5) (fld w 12 5) (fld w 20 12))
  else
  if fld w 17 3 = 1 then some (.andi (fld w 7 5) (fld w 12 5) (fld w 20 12))
  else
  if fld w 17 3 = 2 then some (.ori (fld w 7 5) (fld w 12 5) (fld w 20 12))
  else
  if fld w 17 3 = 3 then some (.xori (fld w 7 5) (fld w 12 5) (fld w 20 12))
  else
  if fld w 17 3 = 4 then some (.mini (fld w 7 5) (fld w 12 5) (fld w 20 12))
  else
  if fld w 17 3 = 5 then some (.maxi (fld w 7 5) (fld w 12 5) (fld w 20 12))
  else
  none
/-- 32-bit major 0x02 (R77). -/
def decMajor02 (w : Nat) : Option Instr :=
  if fld w 25 7 = 0 then (IW.ofCode? (fld w 22 3)).map fun w' => .sll w' (fld w 7 5) (fld w 12 5) (fld w 17 5)
  else
  if fld w 25 5 = 16 ∧ fld w 31 1 = 0 then (IW.ofCode? (fld w 22 3)).map fun w' => .sllImm w' (fld w 7 5) (fld w 12 5) (fld w 17 5) (fld w 30 1)
  else
  if fld w 25 7 = 1 then (IW.ofCode? (fld w 22 3)).map fun w' => .srl w' (fld w 7 5) (fld w 12 5) (fld w 17 5)
  else
  if fld w 25 5 = 17 ∧ fld w 31 1 = 0 then (IW.ofCode? (fld w 22 3)).map fun w' => .srlImm w' (fld w 7 5) (fld w 12 5) (fld w 17 5) (fld w 30 1)
  else
  if fld w 25 7 = 2 then (IW.ofCode? (fld w 22 3)).map fun w' => .sra w' (fld w 7 5) (fld w 12 5) (fld w 17 5)
  else
  if fld w 25 5 = 18 ∧ fld w 31 1 = 0 then (IW.ofCode? (fld w 22 3)).map fun w' => .sraImm w' (fld w 7 5) (fld w 12 5) (fld w 17 5) (fld w 30 1)
  else
  if fld w 25 7 = 3 then (IW.ofCode? (fld w 22 3)).map fun w' => .rol w' (fld w 7 5) (fld w 12 5) (fld w 17 5)
  else
  if fld w 25 5 = 19 ∧ fld w 31 1 = 0 then (IW.ofCode? (fld w 22 3)).map fun w' => .rolImm w' (fld w 7 5) (fld w 12 5) (fld w 17 5) (fld w 30 1)
  else
  if fld w 25 7 = 4 then (IW.ofCode? (fld w 22 3)).map fun w' => .ror w' (fld w 7 5) (fld w 12 5) (fld w 17 5)
  else
  if fld w 25 5 = 20 ∧ fld w 31 1 = 0 then (IW.ofCode? (fld w 22 3)).map fun w' => .rorImm w' (fld w 7 5) (fld w 12 5) (fld w 17 5) (fld w 30 1)
  else
  if fld w 22 10 = 40 then some (.ext (fld w 7 5) (fld w 12 5) (fld w 17 5))
  else
  if fld w 22 10 = 48 then some (.extn (fld w 7 5) (fld w 12 5) (fld w 17 5))
  else
  if fld w 22 10 = 56 then some (.ins (fld w 7 5) (fld w 12 5) (fld w 17 5))
  else
  if fld w 17 5 = 0 ∧ fld w 25 7 = 8 then (IW.ofCode? (fld w 22 3)).map fun w' => .clz w' (fld w 7 5) (fld w 12 5)
  else
  if fld w 17 5 = 0 ∧ fld w 25 7 = 9 then (IW.ofCode? (fld w 22 3)).map fun w' => .ctz w' (fld w 7 5) (fld w 12 5)
  else
  if fld w 17 5 = 0 ∧ fld w 25 7 = 10 then (IW.ofCode? (fld w 22 3)).map fun w' => .pop w' (fld w 7 5) (fld w 12 5)
  else
  if fld w 17 5 = 0 ∧ fld w 25 7 = 11 then (IW.ofCode? (fld w 22 3)).map fun w' => .brev w' (fld w 7 5) (fld w 12 5)
  else
  if fld w 17 5 = 0 ∧ fld w 25 7 = 12 then (IW.ofCode? (fld w 22 3)).map fun w' => .bswap w' (fld w 7 5) (fld w 12 5)
  else
  none
/-- 32-bit major 0x03 (R77). -/
def decMajor03 (w : Nat) : Option Instr :=
  if fld w 25 4 = 0 then (IW.ofCode? (fld w 22 3)).map fun w' => .cmp w' (fld w 7 5) (fld w 12 5) (fld w 17 5) (fld w 29 3)
  else
  if fld w 22 7 = 8 then some (.csel (fld w 7 5) (fld w 12 5) (fld w 17 5) (fld w 29 3))
  else
  none
/-- 32-bit major 0x04 (R77). -/
def decMajor04 (w : Nat) : Option Instr :=
  if fld w 25 3 = 0 then (IW.ofCode? (fld w 22 3)).map fun w' => .mul w' (fld w 7 5) (fld w 12 5) (fld w 17 5) (fld w 28 4)
  else
  if fld w 25 3 = 1 then (IW.ofCode? (fld w 22 3)).map fun w' => .mulh w' (fld w 7 5) (fld w 12 5) (fld w 17 5) (fld w 28 4)
  else
  if fld w 25 3 = 2 then (IW.ofCode? (fld w 22 3)).map fun w' => .mulhn w' (fld w 7 5) (fld w 12 5) (fld w 17 5) (fld w 28 4)
  else
  if fld w 25 3 = 3 then (IW.ofCode? (fld w 22 3)).map fun w' => .div w' (fld w 7 5) (fld w 12 5) (fld w 17 5) (fld w 28 4)
  else
  if fld w 25 3 = 4 then (IW.ofCode? (fld w 22 3)).map fun w' => .divn w' (fld w 7 5) (fld w 12 5) (fld w 17 5) (fld w 28 4)
  else
  if fld w 25 3 = 5 then (IW.ofCode? (fld w 22 3)).map fun w' => .rem w' (fld w 7 5) (fld w 12 5) (fld w 17 5) (fld w 28 4)
  else
  if fld w 25 3 = 6 then (IW.ofCode? (fld w 22 3)).map fun w' => .remn w' (fld w 7 5) (fld w 12 5) (fld w 17 5) (fld w 28 4)
  else
  none
/-- 32-bit major 0x05 (R77). -/
def decMajor05 (w : Nat) : Option Instr :=
  some (.ldhi (fld w 7 5) (fld w 12 20))
/-- 32-bit major 0x06 (R77). -/
def decMajor06 (w : Nat) : Option Instr :=
  some (.pcrel (fld w 7 5) (fld w 12 20))
/-- 32-bit major 0x07 (R77). -/
def decMajor07 (w : Nat) : Option Instr :=
  if fld w 22 10 = 0 then some (.ptag (fld w 7 5) (fld w 12 5) (fld w 17 5))
  else
  if fld w 22 10 = 8 then some (.padd (fld w 7 5) (fld w 12 5) (fld w 17 5))
  else
  if fld w 22 10 = 16 then some (.psub (fld w 7 5) (fld w 12 5) (fld w 17 5))
  else
  if fld w 17 15 = 768 then some (.pfmt (fld w 7 5) (fld w 12 5))
  else
  if fld w 17 15 = 1024 then some (.pclr (fld w 7 5) (fld w 12 5))
  else
  none
/-- 32-bit major 0x08 (R77). -/
def decMajor08 (w : Nat) : Option Instr :=
  if fld w 17 3 = 0 then some (.beq (fld w 7 5) (fld w 12 5) (fld w 20 12))
  else
  if fld w 17 3 = 1 then some (.bne (fld w 7 5) (fld w 12 5) (fld w 20 12))
  else
  if fld w 17 3 = 2 then some (.blt (fld w 7 5) (fld w 12 5) (fld w 20 12))
  else
  if fld w 17 3 = 3 then some (.bge (fld w 7 5) (fld w 12 5) (fld w 20 12))
  else
  if fld w 17 3 = 4 then some (.bltn (fld w 7 5) (fld w 12 5) (fld w 20 12))
  else
  if fld w 17 3 = 5 then some (.bgen (fld w 7 5) (fld w 12 5) (fld w 20 12))
  else
  if fld w 17 3 = 6 then some (.bbs (fld w 7 5) (fld w 12 5) (fld w 20 12))
  else
  if fld w 17 3 = 7 then some (.bbc (fld w 7 5) (fld w 12 5) (fld w 20 12))
  else
  none
/-- 32-bit major 0x09 (R77). -/
def decMajor09 (w : Nat) : Option Instr :=
  some (.jl (fld w 7 5) (fld w 12 20))
/-- 32-bit major 0x0A (R77). -/
def decMajor0A (w : Nat) : Option Instr :=
  if fld w 17 3 = 0 then some (.jlr (fld w 7 5) (fld w 12 5) (fld w 20 12))
  else
  none
/-- 32-bit major 0x0B (R77). -/
def decMajor0B (w : Nat) : Option Instr :=
  if fld w 25 3 = 0 then (IW.ofCode? (fld w 22 3)).map fun w' => .ldx w' (fld w 7 5) (fld w 12 5) (fld w 17 5) (fld w 28 4)
  else
  if fld w 25 7 = 1 then (IW.ofCode? (fld w 22 3)).map fun w' => .stx w' (fld w 7 5) (fld w 12 5) (fld w 17 5)
  else
  if fld w 25 3 = 2 then (IW.ofCode? (fld w 22 3)).map fun w' => .ldxr w' (fld w 7 5) (fld w 12 5) (fld w 17 5) (fld w 28 4)
  else
  if fld w 25 3 = 3 then some (.lde (fld w 22 3) (fld w 7 5) (fld w 12 5) (fld w 17 5) (fld w 28 4))
  else
  if fld w 25 7 = 4 then some (.ste (fld w 22 3) (fld w 7 5) (fld w 12 5) (fld w 17 5))
  else
  none
/-- 32-bit major 0x0C (R77). -/
def decMajor0C (w : Nat) : Option Instr :=
  if fld w 7 5 = 0 ∧ fld w 22 10 = 0 then some (.gang (fld w 12 5) (fld w 17 5))
  else
  if fld w 7 5 = 0 ∧ fld w 17 15 = 256 then some (.gmeet (fld w 12 5))
  else
  if fld w 7 25 = 524288 then some (.gleave)
  else
  none
/-- 32-bit major 0x0D (R77). -/
def decMajor0D (w : Nat) : Option Instr :=
  if fld w 25 3 = 0 then some (.send (fld w 22 3) (fld w 7 5) (fld w 12 5) (fld w 17 5) (fld w 28 4))
  else
  if fld w 25 3 = 1 then some (.sendw (fld w 22 3) (fld w 7 5) (fld w 12 5) (fld w 17 5) (fld w 28 4))
  else
  if fld w 7 25 = 524288 then some (.halt)
  else
  none
/-- 32-bit major 0x0E (R77). -/
def decMajor0E (w : Nat) : Option Instr :=
  if fld w 22 6 = 0 then some (.cnew (fld w 7 5) (fld w 12 5) (fld w 17 5) (fld w 28 4))
  else
  if fld w 7 5 = 0 ∧ fld w 17 15 = 256 then some (.cdec (fld w 12 5))
  else
  if fld w 25 3 = 2 then some (.cspawn (fld w 22 3) (fld w 7 5) (fld w 12 5) (fld w 17 5) (fld w 28 4))
  else
  if fld w 22 6 = 24 then some (.cjoin (fld w 7 5) (fld w 12 5) (fld w 17 5) (fld w 28 4))
  else
  if fld w 7 5 = 0 ∧ fld w 17 15 = 1024 then some (.cdone (fld w 12 5))
  else
  none
/-- 32-bit major 0x10 (R77). -/
def decMajor10 (w : Nat) : Option Instr :=
  (IW.ofCode? (fld w 17 3)).map fun w' => .ld w' (fld w 7 5) (fld w 12 5) (fld w 24 8) (fld w 20 4)
/-- 32-bit major 0x11 (R77). -/
def decMajor11 (w : Nat) : Option Instr :=
  (IW.ofCode? (fld w 17 3)).map fun w' => .lda w' (fld w 7 5) (fld w 12 5) (fld w 26 6) (fld w 20 2) (fld w 22 4)
/-- 32-bit major 0x12 (R77). -/
def decMajor12 (w : Nat) : Option Instr :=
  (IW.ofCode? (fld w 17 3)).map fun w' => .st w' (fld w 12 5) (fld w 7 5) (fld w 22 10) (fld w 20 2)
/-- 32-bit major 0x13 (R77). -/
def decMajor13 (w : Nat) : Option Instr :=
  (IW.ofCode? (fld w 17 3)).map fun w' => .str w' (fld w 12 5) (fld w 7 5) (fld w 22 10) (fld w 20 2)
/-- 32-bit major 0x14 (R77). -/
def decMajor14 (w : Nat) : Option Instr :=
  (FW.ofCode? (fld w 17 3)).map fun w' => .stf w' (fld w 12 5) (fld w 7 5) (fld w 22 10) (fld w 20 2)
/-- 32-bit major 0x15 (R77). -/
def decMajor15 (w : Nat) : Option Instr :=
  if fld w 17 4 = 0 ∧ fld w 30 2 = 0 then some (.amoswap (fld w 12 5) (fld w 7 5) (fld w 21 1) (fld w 22 2) (fld w 24 2) (fld w 26 4))
  else
  if fld w 17 4 = 1 ∧ fld w 30 2 = 0 then some (.amoadd (fld w 12 5) (fld w 7 5) (fld w 21 1) (fld w 22 2) (fld w 24 2) (fld w 26 4))
  else
  if fld w 17 4 = 2 ∧ fld w 30 2 = 0 then some (.amoand (fld w 12 5) (fld w 7 5) (fld w 21 1) (fld w 22 2) (fld w 24 2) (fld w 26 4))
  else
  if fld w 17 4 = 3 ∧ fld w 30 2 = 0 then some (.amoor (fld w 12 5) (fld w 7 5) (fld w 21 1) (fld w 22 2) (fld w 24 2) (fld w 26 4))
  else
  if fld w 17 4 = 4 ∧ fld w 30 2 = 0 then some (.amoxor (fld w 12 5) (fld w 7 5) (fld w 21 1) (fld w 22 2) (fld w 24 2) (fld w 26 4))
  else
  if fld w 17 4 = 5 ∧ fld w 30 2 = 0 then some (.amomin (fld w 12 5) (fld w 7 5) (fld w 21 1) (fld w 22 2) (fld w 24 2) (fld w 26 4))
  else
  if fld w 17 4 = 6 ∧ fld w 30 2 = 0 then some (.amomax (fld w 12 5) (fld w 7 5) (fld w 21 1) (fld w 22 2) (fld w 24 2) (fld w 26 4))
  else
  if fld w 17 4 = 7 ∧ fld w 30 2 = 0 then some (.amominn (fld w 12 5) (fld w 7 5) (fld w 21 1) (fld w 22 2) (fld w 24 2) (fld w 26 4))
  else
  if fld w 17 4 = 8 ∧ fld w 30 2 = 0 then some (.amomaxn (fld w 12 5) (fld w 7 5) (fld w 21 1) (fld w 22 2) (fld w 24 2) (fld w 26 4))
  else
  if fld w 17 4 = 9 ∧ fld w 30 2 = 0 then some (.amocas (fld w 12 5) (fld w 7 5) (fld w 21 1) (fld w 22 2) (fld w 24 2) (fld w 26 4))
  else
  none
/-- 32-bit major 0x16 (R77). -/
def decMajor16 (w : Nat) : Option Instr :=
  if fld w 17 4 = 0 ∧ fld w 30 2 = 0 then some (.amfadd (fld w 12 5) (fld w 7 5) (fld w 21 1) (fld w 22 2) (fld w 24 2) (fld w 26 4))
  else
  if fld w 17 4 = 1 ∧ fld w 30 2 = 0 then some (.amfmin (fld w 12 5) (fld w 7 5) (fld w 21 1) (fld w 22 2) (fld w 24 2) (fld w 26 4))
  else
  if fld w 17 4 = 2 ∧ fld w 30 2 = 0 then some (.amfmax (fld w 12 5) (fld w 7 5) (fld w 21 1) (fld w 22 2) (fld w 24 2) (fld w 26 4))
  else
  if fld w 17 4 = 3 ∧ fld w 22 4 = 0 ∧ fld w 30 2 = 0 then some (.radd (fld w 12 5) (fld w 7 5) (fld w 21 1) (fld w 26 4))
  else
  if fld w 7 5 = 0 ∧ fld w 17 7 = 4 ∧ fld w 30 2 = 0 then some (.rflush (fld w 12 5) (fld w 24 2) (fld w 26 4))
  else
  if fld w 17 4 = 5 ∧ fld w 30 2 = 0 then some (.ldres (fld w 12 5) (fld w 7 5) (fld w 21 1) (fld w 22 2) (fld w 24 2) (fld w 26 4))
  else
  if fld w 17 4 = 6 ∧ fld w 30 2 = 0 then some (.stcond (fld w 12 5) (fld w 7 5) (fld w 21 1) (fld w 22 2) (fld w 24 2) (fld w 26 4))
  else
  if fld w 17 4 = 7 ∧ fld w 22 4 = 0 ∧ fld w 30 2 = 0 then some (.raddi (fld w 12 5) (fld w 7 5) (fld w 21 1) (fld w 26 4))
  else
  none
/-- 32-bit major 0x17 (R77). -/
def decMajor17 (w : Nat) : Option Instr :=
  if fld w 7 5 = 0 ∧ fld w 31 1 = 0 then some (.fence (fld w 28 3) (fld w 12 8) (fld w 20 8))
  else
  if fld w 7 5 = 1 ∧ fld w 20 12 = 0 then some (.tlwait (fld w 12 5) (fld w 17 3))
  else
  if fld w 7 5 = 2 ∧ fld w 25 7 = 0 then some (.tltest (fld w 20 5) (fld w 12 5) (fld w 17 3))
  else
  if fld w 10 2 = 3 then some (.hint (fld w 7 3) (fld w 12 20))
  else
  none
/-- 32-bit major 0x18 (R77). -/
def decMajor18 (w : Nat) : Option Instr :=
  if fld w 25 4 = 0 then (FW.ofCode? (fld w 22 3)).map fun w' => .fadd w' (fld w 7 5) (fld w 12 5) (fld w 17 5) (fld w 29 3)
  else
  if fld w 25 4 = 1 then (FW.ofCode? (fld w 22 3)).map fun w' => .fsub w' (fld w 7 5) (fld w 12 5) (fld w 17 5) (fld w 29 3)
  else
  if fld w 25 4 = 2 then (FW.ofCode? (fld w 22 3)).map fun w' => .fmul w' (fld w 7 5) (fld w 12 5) (fld w 17 5) (fld w 29 3)
  else
  if fld w 25 4 = 3 then (FW.ofCode? (fld w 22 3)).map fun w' => .fmin w' (fld w 7 5) (fld w 12 5) (fld w 17 5) (fld w 29 3)
  else
  if fld w 25 4 = 4 then (FW.ofCode? (fld w 22 3)).map fun w' => .fmax w' (fld w 7 5) (fld w 12 5) (fld w 17 5) (fld w 29 3)
  else
  if fld w 25 7 = 5 then (FW.ofCode? (fld w 22 3)).map fun w' => .fsgn w' (fld w 7 5) (fld w 12 5) (fld w 17 5)
  else
  none
/-- 32-bit major 0x19 (R77). -/
def decMajor19 (w : Nat) : Option Instr :=
  if fld w 25 3 = 0 then (FW.ofCode? (fld w 22 3)).map fun w' => .ffma w' (fld w 7 5) (fld w 12 5) (fld w 17 5) (fld w 28 4)
  else
  if fld w 25 3 = 1 then (FW.ofCode? (fld w 22 3)).map fun w' => .fdiv w' (fld w 7 5) (fld w 12 5) (fld w 17 5) (fld w 28 4)
  else
  if fld w 17 5 = 0 ∧ fld w 25 3 = 2 then (FW.ofCode? (fld w 22 3)).map fun w' => .fsqrt w' (fld w 7 5) (fld w 12 5) (fld w 28 4)
  else
  none
/-- 32-bit major 0x1A (R77). -/
def decMajor1A (w : Nat) : Option Instr :=
  if fld w 25 4 = 0 then (FW.ofCode? (fld w 22 3)).map fun w' => .fcvt w' (fld w 7 5) (fld w 12 5) (fld w 17 5) (fld w 29 3)
  else
  if fld w 25 4 = 1 then (FW.ofCode? (fld w 22 3)).map fun w' => .fcvti w' (fld w 7 5) (fld w 12 5) (fld w 17 5) (fld w 29 3)
  else
  if fld w 25 4 = 2 then (IW.ofCode? (fld w 22 3)).map fun w' => .icvtf w' (fld w 7 5) (fld w 12 5) (fld w 17 5) (fld w 29 3)
  else
  if fld w 20 2 = 0 ∧ fld w 25 7 = 3 then (FW.ofCode? (fld w 22 3)).map fun w' => .fin w' (fld w 7 5) (fld w 12 5) (fld w 17 3)
  else
  none
/-- 32-bit major 0x1B (R77). -/
def decMajor1B (w : Nat) : Option Instr :=
  if fld w 25 7 = 0 then (FW.ofCode? (fld w 22 3)).map fun w' => .feq w' (fld w 7 5) (fld w 12 5) (fld w 17 5)
  else
  if fld w 25 7 = 1 then (FW.ofCode? (fld w 22 3)).map fun w' => .flt w' (fld w 7 5) (fld w 12 5) (fld w 17 5)
  else
  if fld w 25 7 = 2 then (FW.ofCode? (fld w 22 3)).map fun w' => .fle w' (fld w 7 5) (fld w 12 5) (fld w 17 5)
  else
  if fld w 17 5 = 0 ∧ fld w 25 7 = 3 then (FW.ofCode? (fld w 22 3)).map fun w' => .fclass w' (fld w 7 5) (fld w 12 5)
  else
  none
/-- 32-bit major 0x1C (R77). -/
def decMajor1C (w : Nat) : Option Instr :=
  if fld w 17 15 = 0 then some (.tget (fld w 7 5) (fld w 12 5))
  else
  if fld w 22 10 = 8 then some (.tset (fld w 7 5) (fld w 12 5) (fld w 17 5))
  else
  none
/-- 32-bit major 0x20 (R77). -/
def decMajor20 (w : Nat) : Option Instr :=
  if fld w 17 3 = 0 then some (.vclaim (fld w 7 5) (fld w 12 5) (fld w 20 12))
  else
  if fld w 7 25 = 1024 then some (.vrel)
  else
  if fld w 17 3 = 2 then some (.vlen (fld w 7 5) (fld w 12 5) (fld w 20 12))
  else
  if fld w 17 3 = 3 then some (.vsplat (fld w 7 5) (fld w 12 5) (fld w 20 12))
  else
  none
/-- 32-bit major 0x21 (R77). -/
def decMajor21 (w : Nat) : Option Instr :=
  if fld w 25 4 = 0 then (IW.ofCode? (fld w 22 3)).map fun w' => .vadd w' (fld w 7 5) (fld w 12 5) (fld w 17 5) (fld w 29 3)
  else
  if fld w 25 4 = 1 then (IW.ofCode? (fld w 22 3)).map fun w' => .vsub w' (fld w 7 5) (fld w 12 5) (fld w 17 5) (fld w 29 3)
  else
  if fld w 25 4 = 2 then (IW.ofCode? (fld w 22 3)).map fun w' => .vand w' (fld w 7 5) (fld w 12 5) (fld w 17 5) (fld w 29 3)
  else
  if fld w 25 4 = 3 then (IW.ofCode? (fld w 22 3)).map fun w' => .vor w' (fld w 7 5) (fld w 12 5) (fld w 17 5) (fld w 29 3)
  else
  if fld w 25 4 = 4 then (IW.ofCode? (fld w 22 3)).map fun w' => .vxor w' (fld w 7 5) (fld w 12 5) (fld w 17 5) (fld w 29 3)
  else
  if fld w 25 4 = 5 then (IW.ofCode? (fld w 22 3)).map fun w' => .vmin w' (fld w 7 5) (fld w 12 5) (fld w 17 5) (fld w 29 3)
  else
  if fld w 25 4 = 6 then (IW.ofCode? (fld w 22 3)).map fun w' => .vmax w' (fld w 7 5) (fld w 12 5) (fld w 17 5) (fld w 29 3)
  else
  if fld w 25 4 = 7 then (IW.ofCode? (fld w 22 3)).map fun w' => .vadds w' (fld w 7 5) (fld w 12 5) (fld w 17 5) (fld w 29 3)
  else
  if fld w 25 4 = 8 then (IW.ofCode? (fld w 22 3)).map fun w' => .vsubs w' (fld w 7 5) (fld w 12 5) (fld w 17 5) (fld w 29 3)
  else
  if fld w 25 4 = 9 then (IW.ofCode? (fld w 22 3)).map fun w' => .vmul w' (fld w 7 5) (fld w 12 5) (fld w 17 5) (fld w 29 3)
  else
  if fld w 25 4 = 10 then (IW.ofCode? (fld w 22 3)).map fun w' => .vsll w' (fld w 7 5) (fld w 12 5) (fld w 17 5) (fld w 29 3)
  else
  if fld w 25 4 = 11 then (IW.ofCode? (fld w 22 3)).map fun w' => .vsrl w' (fld w 7 5) (fld w 12 5) (fld w 17 5) (fld w 29 3)
  else
  if fld w 25 4 = 12 then (IW.ofCode? (fld w 22 3)).map fun w' => .vsra w' (fld w 7 5) (fld w 12 5) (fld w 17 5) (fld w 29 3)
  else
  if fld w 25 4 = 13 then (IW.ofCode? (fld w 22 3)).map fun w' => .vcmpeq w' (fld w 7 5) (fld w 12 5) (fld w 17 5) (fld w 29 3)
  else
  if fld w 25 4 = 14 then (IW.ofCode? (fld w 22 3)).map fun w' => .vcmplt w' (fld w 7 5) (fld w 12 5) (fld w 17 5) (fld w 29 3)
  else
  if fld w 25 4 = 15 then (IW.ofCode? (fld w 22 3)).map fun w' => .vcmple w' (fld w 7 5) (fld w 12 5) (fld w 17 5) (fld w 29 3)
  else
  none
/-- 32-bit major 0x22 (R77). -/
def decMajor22 (w : Nat) : Option Instr :=
  if fld w 25 4 = 0 then (FW.ofCode? (fld w 22 3)).map fun w' => .vfadd w' (fld w 7 5) (fld w 12 5) (fld w 17 5) (fld w 29 3)
  else
  if fld w 25 4 = 1 then (FW.ofCode? (fld w 22 3)).map fun w' => .vfsub w' (fld w 7 5) (fld w 12 5) (fld w 17 5) (fld w 29 3)
  else
  if fld w 25 4 = 2 then (FW.ofCode? (fld w 22 3)).map fun w' => .vfmul w' (fld w 7 5) (fld w 12 5) (fld w 17 5) (fld w 29 3)
  else
  if fld w 25 4 = 3 then (FW.ofCode? (fld w 22 3)).map fun w' => .vfmin w' (fld w 7 5) (fld w 12 5) (fld w 17 5) (fld w 29 3)
  else
  if fld w 25 4 = 4 then (FW.ofCode? (fld w 22 3)).map fun w' => .vfmax w' (fld w 7 5) (fld w 12 5) (fld w 17 5) (fld w 29 3)
  else
  if fld w 25 4 = 5 then (FW.ofCode? (fld w 22 3)).map fun w' => .vfsgn w' (fld w 7 5) (fld w 12 5) (fld w 17 5) (fld w 29 3)
  else
  if fld w 25 4 = 6 then (FW.ofCode? (fld w 22 3)).map fun w' => .vfeq w' (fld w 7 5) (fld w 12 5) (fld w 17 5) (fld w 29 3)
  else
  if fld w 25 4 = 7 then (FW.ofCode? (fld w 22 3)).map fun w' => .vflt w' (fld w 7 5) (fld w 12 5) (fld w 17 5) (fld w 29 3)
  else
  if fld w 25 4 = 8 then (FW.ofCode? (fld w 22 3)).map fun w' => .vfle w' (fld w 7 5) (fld w 12 5) (fld w 17 5) (fld w 29 3)
  else
  none
/-- 32-bit major 0x23 (R77). -/
def decMajor23 (w : Nat) : Option Instr :=
  if fld w 25 3 = 0 then (FW.ofCode? (fld w 22 3)).map fun w' => .vffma w' (fld w 7 5) (fld w 12 5) (fld w 17 5) (fld w 28 4)
  else
  if fld w 25 3 = 1 then (FW.ofCode? (fld w 22 3)).map fun w' => .vfdiv w' (fld w 7 5) (fld w 12 5) (fld w 17 5) (fld w 28 4)
  else
  if fld w 17 5 = 0 ∧ fld w 25 3 = 2 then (FW.ofCode? (fld w 22 3)).map fun w' => .vfsqrt w' (fld w 7 5) (fld w 12 5) (fld w 28 4)
  else
  none
/-- 32-bit major 0x24 (R77). -/
def decMajor24 (w : Nat) : Option Instr :=
  if fld w 25 4 = 0 then (FW.ofCode? (fld w 22 3)).map fun w' => .vcvt w' (fld w 7 5) (fld w 12 5) (fld w 17 5) (fld w 29 3)
  else
  if fld w 25 4 = 1 then (IW.ofCode? (fld w 22 3)).map fun w' => .vicvtf w' (fld w 7 5) (fld w 12 5) (fld w 17 5) (fld w 29 3)
  else
  if fld w 25 4 = 2 then (FW.ofCode? (fld w 22 3)).map fun w' => .vfcvti w' (fld w 7 5) (fld w 12 5) (fld w 17 5) (fld w 29 3)
  else
  if fld w 20 2 = 0 ∧ fld w 25 4 = 3 then (FW.ofCode? (fld w 22 3)).map fun w' => .vfin w' (fld w 7 5) (fld w 12 5) (fld w 17 3) (fld w 29 3)
  else
  if fld w 17 12 = 1024 then some (.vtget (fld w 7 5) (fld w 12 5) (fld w 29 3))
  else
  if fld w 22 7 = 40 then some (.vtset (fld w 7 5) (fld w 12 5) (fld w 17 5) (fld w 29 3))
  else
  none
/-- 32-bit major 0x25 (R77). -/
def decMajor25 (w : Nat) : Option Instr :=
  if fld w 22 7 = 0 then some (.vperm (fld w 7 5) (fld w 12 5) (fld w 17 5) (fld w 29 3))
  else
  if fld w 22 7 = 8 then some (.vslide (fld w 7 5) (fld w 12 5) (fld w 17 5) (fld w 29 3))
  else
  if fld w 22 7 = 16 then some (.vbcast (fld w 7 5) (fld w 12 5) (fld w 17 5) (fld w 29 3))
  else
  if fld w 17 5 = 0 ∧ fld w 25 4 = 3 then some (.vnbr (fld w 7 5) (fld w 12 5) (fld w 29 3) (fld w 22 3))
  else
  if fld w 17 12 = 1024 then some (.vcomp (fld w 7 5) (fld w 12 5) (fld w 29 3))
  else
  if fld w 17 12 = 1280 then some (.vexpd (fld w 7 5) (fld w 12 5) (fld w 29 3))
  else
  if fld w 22 7 = 48 then some (.vget (fld w 7 5) (fld w 12 5) (fld w 17 5) (fld w 29 3))
  else
  if fld w 22 7 = 56 then some (.vput (fld w 7 5) (fld w 12 5) (fld w 17 5) (fld w 29 3))
  else
  none
/-- 32-bit major 0x26 (R77). -/
def decMajor26 (w : Nat) : Option Instr :=
  if fld w 25 3 = 0 then (IW.ofCode? (fld w 22 3)).map fun w' => .vred w' (fld w 7 5) (fld w 12 5) (fld w 17 5) (fld w 28 4)
  else
  if fld w 25 3 = 1 then (FW.ofCode? (fld w 22 3)).map fun w' => .vfred w' (fld w 7 5) (fld w 12 5) (fld w 17 5) (fld w 28 4)
  else
  if fld w 25 3 = 2 then (IW.ofCode? (fld w 22 3)).map fun w' => .vscan w' (fld w 7 5) (fld w 12 5) (fld w 17 5) (fld w 28 4)
  else
  if fld w 25 3 = 3 then (FW.ofCode? (fld w 22 3)).map fun w' => .vfscan w' (fld w 7 5) (fld w 12 5) (fld w 17 5) (fld w 28 4)
  else
  if fld w 25 3 = 4 then (FW.ofCode? (fld w 22 3)).map fun w' => .vsort w' (fld w 7 5) (fld w 12 5) (fld w 17 5) (fld w 28 4)
  else
  if fld w 25 3 = 5 then (IW.ofCode? (fld w 22 3)).map fun w' => .vsorti w' (fld w 7 5) (fld w 12 5) (fld w 17 5) (fld w 28 4)
  else
  if fld w 25 3 = 6 then (FW.ofCode? (fld w 22 3)).map fun w' => .vtopk w' (fld w 7 5) (fld w 12 5) (fld w 17 5) (fld w 28 4)
  else
  none
/-- 32-bit major 0x27 (R77). -/
def decMajor27 (w : Nat) : Option Instr :=
  if fld w 25 3 = 0 then (FW.ofCode? (fld w 22 3)).map fun w' => .vld w' (fld w 7 5) (fld w 12 5) (fld w 17 5) (fld w 28 4)
  else
  if fld w 25 7 = 1 then (FW.ofCode? (fld w 22 3)).map fun w' => .vst w' (fld w 7 5) (fld w 12 5) (fld w 17 5)
  else
  if fld w 25 3 = 2 then (FW.ofCode? (fld w 22 3)).map fun w' => .vlds w' (fld w 7 5) (fld w 12 5) (fld w 17 5) (fld w 28 4)
  else
  if fld w 25 7 = 3 then (FW.ofCode? (fld w 22 3)).map fun w' => .vstf w' (fld w 7 5) (fld w 12 5) (fld w 17 3) (fld w 20 2)
  else
  none
/-- 32-bit major 0x28 (R77). -/
def decMajor28 (w : Nat) : Option Instr :=
  if fld w 22 6 = 0 then some (.vgat (fld w 7 5) (fld w 12 5) (fld w 17 5) (fld w 28 4))
  else
  if fld w 22 10 = 8 then some (.vsca (fld w 7 5) (fld w 12 5) (fld w 17 5))
  else
  if fld w 22 6 = 16 then some (.vldt (fld w 7 5) (fld w 12 5) (fld w 17 5) (fld w 28 4))
  else
  none
/-- 32-bit major 0x29 (R77). -/
def decMajor29 (w : Nat) : Option Instr :=
  if fld w 17 11 = 32 then some (.vpoly (fld w 7 5) (fld w 12 5) (fld w 28 4))
  else
  if fld w 7 5 = 0 ∧ fld w 17 15 = 256 then some (.ppload (fld w 12 5))
  else
  none
/-- 32-bit major 0x2C (R77). -/
def decMajor2C (w : Nat) : Option Instr :=
  if fld w 22 6 = 0 then some (.mloads (fld w 7 5) (fld w 12 5) (fld w 17 5) (fld w 28 4))
  else
  if fld w 12 16 = 1024 then some (.mswap (fld w 7 5) (fld w 28 4))
  else
  none
/-- 32-bit major 0x2D (R77). -/
def decMajor2D (w : Nat) : Option Instr :=
  if fld w 22 3 = 0 ∧ fld w 26 2 = 0 then some (.mstream (fld w 7 5) (fld w 12 5) (fld w 17 5) (fld w 25 1) (fld w 28 4))
  else
  none
/-- 32-bit major 0x2E (R77). -/
def decMajor2E (w : Nat) : Option Instr :=
  if fld w 12 13 = 0 ∧ fld w 26 2 = 0 then some (.mzero (fld w 7 5) (fld w 25 1) (fld w 28 4))
  else
  if fld w 17 8 = 32 ∧ fld w 26 2 = 0 then some (.mread (fld w 7 5) (fld w 12 5) (fld w 25 1) (fld w 28 4))
  else
  if fld w 22 3 = 2 ∧ fld w 26 2 = 0 then some (.mstore (fld w 7 5) (fld w 12 5) (fld w 17 5) (fld w 25 1) (fld w 28 4))
  else
  if fld w 12 13 = 3072 ∧ fld w 26 2 = 0 then some (.mscale (fld w 7 5) (fld w 25 1) (fld w 28 4))
  else
  none
/-- 32-bit major 0x2F (R77). -/
def decMajor2F (w : Nat) : Option Instr :=
  if fld w 7 13 = 0 then some (.mweight (fld w 20 12))
  else
  if fld w 12 20 = 32 then some (.mstat (fld w 7 5))
  else
  none
/-- 32-bit major 0x34 (R77). -/
def decMajor34 (w : Nat) : Option Instr :=
  if fld w 22 3 = 0 then some (.cpy (fld w 7 5) (fld w 12 5) (fld w 17 5) (fld w 25 3) (fld w 28 4))
  else
  if fld w 22 3 = 1 then some (.cpyt (fld w 7 5) (fld w 12 5) (fld w 17 5) (fld w 25 3) (fld w 28 4))
  else
  if fld w 22 3 = 2 then some (.cpyg (fld w 7 5) (fld w 12 5) (fld w 17 5) (fld w 25 3) (fld w 28 4))
  else
  none
/-- 32-bit major 0x35 (R77). -/
def decMajor35 (w : Nat) : Option Instr :=
  if fld w 17 8 = 0 ∧ fld w 26 6 = 0 then some (.pacq (fld w 7 5) (fld w 12 5) (fld w 25 1))
  else
  if fld w 7 5 = 0 ∧ fld w 22 10 = 1 then some (.prel (fld w 12 5) (fld w 17 5))
  else
  if fld w 22 3 = 2 ∧ fld w 28 4 = 0 then some (.pfill (fld w 7 5) (fld w 12 5) (fld w 17 5) (fld w 25 3))
  else
  none
/-- 32-bit major 0x36 (R77). -/
def decMajor36 (w : Nat) : Option Instr :=
  if fld w 22 3 = 0 then some (.nload (fld w 7 5) (fld w 12 5) (fld w 17 5) (fld w 25 3) (fld w 28 4))
  else
  if fld w 22 3 = 1 then some (.nstore (fld w 7 5) (fld w 12 5) (fld w 17 5) (fld w 25 3) (fld w 28 4))
  else
  if fld w 22 3 = 2 then some (.ndel (fld w 7 5) (fld w 12 5) (fld w 17 5) (fld w 25 3) (fld w 28 4))
  else
  none
/-- 32-bit major 0x37 (R77). -/
def decMajor37 (w : Nat) : Option Instr :=
  if fld w 22 6 = 0 then some (.ninit (fld w 7 5) (fld w 12 5) (fld w 17 5) (fld w 28 4))
  else
  if fld w 17 11 = 32 then some (.nsnap (fld w 7 5) (fld w 12 5) (fld w 28 4))
  else
  if fld w 22 6 = 9 then some (.nsnapRel (fld w 7 5) (fld w 12 5) (fld w 17 5) (fld w 28 4))
  else
  if fld w 17 11 = 64 then some (.nfree (fld w 7 5) (fld w 12 5) (fld w 28 4))
  else
  if fld w 17 8 = 96 then some (.nstat (fld w 7 5) (fld w 12 5) (fld w 25 3) (fld w 28 4))
  else
  none
/-- 32-bit major 0x38 (R77). -/
def decMajor38 (w : Nat) : Option Instr :=
  if fld w 7 5 = 0 ∧ fld w 22 10 = 0 then some (.binit (fld w 12 5) (fld w 17 5))
  else
  if fld w 17 12 = 256 ∧ fld w 30 2 = 0 then some (.barr (fld w 7 5) (fld w 12 5) (fld w 29 1))
  else
  if fld w 7 5 = 0 ∧ fld w 22 10 = 16 then some (.bwait (fld w 12 5) (fld w 17 5))
  else
  if fld w 22 10 = 24 then some (.btest (fld w 7 5) (fld w 12 5) (fld w 17 5))
  else
  none
/-- 32-bit major 0x39 (R77). -/
def decMajor39 (w : Nat) : Option Instr :=
  if fld w 22 6 = 0 then some (.qlaunch (fld w 7 5) (fld w 12 5) (fld w 17 5) (fld w 28 4))
  else
  if fld w 17 8 = 32 then some (.qstat (fld w 7 5) (fld w 12 5) (fld w 25 3) (fld w 28 4))
  else
  if fld w 22 6 = 7 then some (.spstat (fld w 7 5) (fld w 12 5) (fld w 17 5) (fld w 28 4))
  else
  if fld w 22 6 = 15 then some (.spstatClr (fld w 7 5) (fld w 12 5) (fld w 17 5) (fld w 28 4))
  else
  if fld w 17 11 = 736 then some (.spstatSt (fld w 7 5) (fld w 12 5) (fld w 28 4))
  else
  none
/-- 32-bit major 0x3A (R77). -/
def decMajor3A (w : Nat) : Option Instr :=
  if fld w 17 15 = 0 then some (.trread (fld w 7 5) (fld w 12 5))
  else
  none
/-- 32-bit major 0x3C (R77). -/
noncomputable def decMajor3C (w : Nat) : Option Instr :=
  if fld w 7 13 = 0 then some (.trap (fld w 20 12))
  else
  if fld w 17 15 = 1 then some (.tret (fld w 7 5) (fld w 12 5))
  else
  if fld w 17 15 = 9 then some (.tretKill (fld w 7 5) (fld w 12 5))
  else
  if fld w 17 15 = 17 then some (.tretFrz (fld w 7 5) (fld w 12 5))
  else
  none
/-- 32-bit major 0x3D (R77). -/
noncomputable def decMajor3D (w : Nat) : Option Instr :=
  if fld w 12 8 = 0 then some (.mfs (fld w 7 5) (fld w 20 12))
  else
  if fld w 7 5 = 0 ∧ fld w 17 3 = 1 then some (.mts (fld w 12 5) (fld w 20 12))
  else
  if fld w 17 15 = 2 then some (.cfreeze (fld w 7 5) (fld w 12 5))
  else
  if fld w 17 15 = 3 then some (.cthaw (fld w 7 5) (fld w 12 5))
  else
  if fld w 17 15 = 4 then some (.cswapIn (fld w 7 5) (fld w 12 5))
  else
  if fld w 17 15 = 12 then some (.cswapFast (fld w 7 5) (fld w 12 5))
  else
  if fld w 17 15 = 20 then some (.cswapOut (fld w 7 5) (fld w 12 5))
  else
  if fld w 17 15 = 28 then some (.cswapCreate (fld w 7 5) (fld w 12 5))
  else
  if fld w 17 15 = 36 then some (.cswapSeal (fld w 7 5) (fld w 12 5))
  else
  if fld w 17 15 = 44 then some (.cswapReset (fld w 7 5) (fld w 12 5))
  else
  if fld w 17 3 = 5 then some (.wpset (fld w 7 5) (fld w 12 5) (fld w 20 12))
  else
  if fld w 17 15 = 7 then some (.lstat (fld w 7 5) (fld w 12 5))
  else
  if fld w 17 15 = 15 then some (.lstatQuiesce (fld w 7 5) (fld w 12 5))
  else
  if fld w 17 15 = 23 then some (.lstatResume (fld w 7 5) (fld w 12 5))
  else
  if fld w 17 15 = 31 then some (.lstatIsolate (fld w 7 5) (fld w 12 5))
  else
  if fld w 17 15 = 39 then some (.lstatRetrain (fld w 7 5) (fld w 12 5))
  else
  if fld w 17 15 = 47 then some (.lstatRelink (fld w 7 5) (fld w 12 5))
  else
  if fld w 17 15 = 55 then some (.lstatClr (fld w 7 5) (fld w 12 5))
  else
  if fld w 17 15 = 71 then some (.lstatDquiesce (fld w 7 5) (fld w 12 5))
  else
  if fld w 17 15 = 79 then some (.lstatDflush (fld w 7 5) (fld w 12 5))
  else
  if fld w 17 15 = 87 then some (.lstatDreset (fld w 7 5) (fld w 12 5))
  else
  if fld w 17 15 = 95 then some (.lstatDadmit (fld w 7 5) (fld w 12 5))
  else
  none
/-- 32-bit major 0x3E (R77). -/
noncomputable def decMajor3E (w : Nat) : Option Instr :=
  if fld w 22 10 = 64 then some (.ptload (fld w 7 5) (fld w 12 5) (fld w 17 5))
  else
  if fld w 22 10 = 72 then some (.rngset (fld w 7 5) (fld w 12 5) (fld w 17 5))
  else
  if fld w 22 10 = 0 then some (.tlbinv (fld w 7 5) (fld w 12 5) (fld w 17 5))
  else
  if fld w 7 25 = 262144 then some (.l1inv)
  else
  if fld w 22 10 = 16 then some (.l2wb (fld w 7 5) (fld w 12 5) (fld w 17 5))
  else
  if fld w 22 10 = 24 then some (.heatrd (fld w 7 5) (fld w 12 5) (fld w 17 5))
  else
  if fld w 22 10 = 32 then some (.heatage (fld w 7 5) (fld w 12 5) (fld w 17 5))
  else
  if fld w 22 10 = 40 then some (.pfreplay (fld w 7 5) (fld w 12 5) (fld w 17 5))
  else
  if fld w 22 10 = 48 then some (.ckpt (fld w 7 5) (fld w 12 5) (fld w 17 5))
  else
  none
/-- 16-bit major 0 (R78). -/
def decShort0 (w : Nat) : Option Instr :=
  if fld w 15 1 = 0 then some (.cMv (fld w 5 5) (fld w 10 5))
  else
  if fld w 15 1 = 1 then some (.cAdd (fld w 5 5) (fld w 10 5))
  else
  none
/-- 16-bit major 1 (R78). -/
def decShort1 (w : Nat) : Option Instr :=
  if fld w 15 1 = 0 then some (.cSub (fld w 5 5) (fld w 10 5))
  else
  if fld w 15 1 = 1 then some (.cXor (fld w 5 5) (fld w 10 5))
  else
  none
/-- 16-bit major 2 (R78). -/
def decShort2 (w : Nat) : Option Instr :=
  some (.cAddi (fld w 5 5) (fld w 10 6))
/-- 16-bit major 3 (R78). -/
def decShort3 (w : Nat) : Option Instr :=
  some (.cLi (fld w 5 5) (fld w 10 6))
/-- 16-bit major 4 (R78). -/
def decShort4 (w : Nat) : Option Instr :=
  some (.cLd (fld w 5 5) (fld w 10 6))
/-- 16-bit major 5 (R78). -/
def decShort5 (w : Nat) : Option Instr :=
  some (.cSt (fld w 5 5) (fld w 10 6))
/-- 16-bit major 6 (R78). -/
def decShort6 (w : Nat) : Option Instr :=
  some (.cBz (fld w 5 5) (fld w 10 6))
/-- 16-bit major 7 (R78). -/
def decShort7 (w : Nat) : Option Instr :=
  some (.cBnz (fld w 5 5) (fld w 10 6))
/-- 16-bit major 8 (R78). -/
def decShort8 (w : Nat) : Option Instr :=
  some (.cSk (fld w 5 5) (fld w 13 3) (fld w 10 3))
/-- 16-bit major 9 (R78). -/
def decShort9 (w : Nat) : Option Instr :=
  if fld w 15 1 = 0 then some (.cSll (fld w 5 5) (fld w 10 5))
  else
  if fld w 15 1 = 1 then some (.cSrl (fld w 5 5) (fld w 10 5))
  else
  none
/-- 16-bit major 10 (R78). -/
def decShort10 (w : Nat) : Option Instr :=
  if fld w 15 1 = 0 then some (.cSra (fld w 5 5) (fld w 10 5))
  else
  if fld w 15 1 = 1 then some (.cAndi (fld w 5 5) (fld w 10 5))
  else
  none
/-- 16-bit major 11 (R78). -/
def decShort11 (w : Nat) : Option Instr :=
  some (.cJ (fld w 5 11))
/-- 16-bit major 12 (R78). -/
def decShort12 (w : Nat) : Option Instr :=
  if fld w 5 5 = 0 ∧ fld w 15 1 = 0 then some (.cJr (fld w 10 5))
  else
  if fld w 15 1 = 1 then some (.cJlr (fld w 5 5) (fld w 10 5))
  else
  none
/-- 16-bit major 13 (R78). -/
def decShort13 (w : Nat) : Option Instr :=
  if fld w 5 11 = 0 then some (.nop)
  else
  if fld w 5 11 = 256 then some (.yield)
  else
  if fld w 5 11 = 512 then some (.brk)
  else
  if fld w 5 11 = 768 then some (.hret)
  else
  none
/-- The forms of a 32-bit word by its major opcode (R77); none where the major is reserved. -/
noncomputable def decode32? (w : Nat) : Option (Option Instr) :=
  match fld w 1 6 with
  | 0 => some (decMajor00 w)
  | 1 => some (decMajor01 w)
  | 2 => some (decMajor02 w)
  | 3 => some (decMajor03 w)
  | 4 => some (decMajor04 w)
  | 5 => some (decMajor05 w)
  | 6 => some (decMajor06 w)
  | 7 => some (decMajor07 w)
  | 8 => some (decMajor08 w)
  | 9 => some (decMajor09 w)
  | 10 => some (decMajor0A w)
  | 11 => some (decMajor0B w)
  | 12 => some (decMajor0C w)
  | 13 => some (decMajor0D w)
  | 14 => some (decMajor0E w)
  | 16 => some (decMajor10 w)
  | 17 => some (decMajor11 w)
  | 18 => some (decMajor12 w)
  | 19 => some (decMajor13 w)
  | 20 => some (decMajor14 w)
  | 21 => some (decMajor15 w)
  | 22 => some (decMajor16 w)
  | 23 => some (decMajor17 w)
  | 24 => some (decMajor18 w)
  | 25 => some (decMajor19 w)
  | 26 => some (decMajor1A w)
  | 27 => some (decMajor1B w)
  | 28 => some (decMajor1C w)
  | 32 => some (decMajor20 w)
  | 33 => some (decMajor21 w)
  | 34 => some (decMajor22 w)
  | 35 => some (decMajor23 w)
  | 36 => some (decMajor24 w)
  | 37 => some (decMajor25 w)
  | 38 => some (decMajor26 w)
  | 39 => some (decMajor27 w)
  | 40 => some (decMajor28 w)
  | 41 => some (decMajor29 w)
  | 44 => some (decMajor2C w)
  | 45 => some (decMajor2D w)
  | 46 => some (decMajor2E w)
  | 47 => some (decMajor2F w)
  | 52 => some (decMajor34 w)
  | 53 => some (decMajor35 w)
  | 54 => some (decMajor36 w)
  | 55 => some (decMajor37 w)
  | 56 => some (decMajor38 w)
  | 57 => some (decMajor39 w)
  | 58 => some (decMajor3A w)
  | 60 => some (decMajor3C w)
  | 61 => some (decMajor3D w)
  | 62 => some (decMajor3E w)
  | _ => none
/-- The forms of a 16-bit word by its major (R78). -/
def decode16? (w : Nat) : Option (Option Instr) :=
  match fld w 1 4 with
  | 0 => some (decShort0 w)
  | 1 => some (decShort1 w)
  | 2 => some (decShort2 w)
  | 3 => some (decShort3 w)
  | 4 => some (decShort4 w)
  | 5 => some (decShort5 w)
  | 6 => some (decShort6 w)
  | 7 => some (decShort7 w)
  | 8 => some (decShort8 w)
  | 9 => some (decShort9 w)
  | 10 => some (decShort10 w)
  | 11 => some (decShort11 w)
  | 12 => some (decShort12 w)
  | 13 => some (decShort13 w)
  | _ => none

/-- A form found for a word is an instruction when its field values are all accepted (R80 step 2). -/
def checkForm : Option (Option Instr) → Except DecodeError Instr
  | none => .error .reservedMajor
  | some none => .error .noSuchForm
  | some (some i) => if i.wf then .ok i else .error .reservedValue

/-- Decoding of one word; bit 0 selects the length (R55). [DEDUCED, notes/assumptions/17.md] -/
noncomputable def decodeWord (w : Nat) : Except DecodeError Instr :=
  if w % 2 = 1 then checkForm (decode32? w) else checkForm (decode16? w)

/-- The value of little-endian bytes (R7). -/
def bytesVal : List (BitVec 8) → Nat
  | [] => 0
  | b :: bs => b.toNat + 256 * bytesVal bs

/-- Decoding of the bytes at the PC: the instruction and how many bytes it takes (R55). -/
noncomputable def decode (bs : List (BitVec 8)) : Except DecodeError (Instr × Nat) :=
  match bs with
  | b0 :: b1 :: rest =>
    if b0.toNat % 2 = 1 then
      match rest with
      | b2 :: b3 :: _ => (decodeWord (bytesVal [b0, b1, b2, b3])).map fun i => (i, 4)
      | _ => .error .tooShort
    else (decodeWord (bytesVal [b0, b1])).map fun i => (i, 2)
  | _ => .error .tooShort

/-- Little-endian bytes of a value. -/
def valBytes : Nat → Nat → List (BitVec 8)
  | 0, _ => []
  | n + 1, v => BitVec.ofNat 8 v :: valBytes n (v / 256)

/-- The word of an instruction and its length in bits, from the encoding tables of R67 and R71; none for a step that has
no word. -/
def encodeWord : Instr → Option (Nat × Nat)
  | .add w d a b => some (32, 0x1 + d * 128 + a * 4096 + b * 131072 + w.code * 4194304)
  | .sub w d a b => some (32, 0x2000001 + d * 128 + a * 4096 + b * 131072 + w.code * 4194304)
  | .and w d a b => some (32, 0x4000001 + d * 128 + a * 4096 + b * 131072 + w.code * 4194304)
  | .or w d a b => some (32, 0x6000001 + d * 128 + a * 4096 + b * 131072 + w.code * 4194304)
  | .xor w d a b => some (32, 0x8000001 + d * 128 + a * 4096 + b * 131072 + w.code * 4194304)
  | .andn w d a b => some (32, 0xA000001 + d * 128 + a * 4096 + b * 131072 + w.code * 4194304)
  | .orn w d a b => some (32, 0xC000001 + d * 128 + a * 4096 + b * 131072 + w.code * 4194304)
  | .min w d a b => some (32, 0xE000001 + d * 128 + a * 4096 + b * 131072 + w.code * 4194304)
  | .max w d a b => some (32, 0x10000001 + d * 128 + a * 4096 + b * 131072 + w.code * 4194304)
  | .minn w d a b => some (32, 0x12000001 + d * 128 + a * 4096 + b * 131072 + w.code * 4194304)
  | .maxn w d a b => some (32, 0x14000001 + d * 128 + a * 4096 + b * 131072 + w.code * 4194304)
  | .adds w d a b => some (32, 0x16000001 + d * 128 + a * 4096 + b * 131072 + w.code * 4194304)
  | .subs w d a b => some (32, 0x18000001 + d * 128 + a * 4096 + b * 131072 + w.code * 4194304)
  | .absd w d a b => some (32, 0x1A000001 + d * 128 + a * 4096 + b * 131072 + w.code * 4194304)
  | .addi d a imm => some (32, 0x3 + d * 128 + a * 4096 + imm * 1048576)
  | .andi d a imm => some (32, 0x20003 + d * 128 + a * 4096 + imm * 1048576)
  | .ori d a imm => some (32, 0x40003 + d * 128 + a * 4096 + imm * 1048576)
  | .xori d a imm => some (32, 0x60003 + d * 128 + a * 4096 + imm * 1048576)
  | .mini d a imm => some (32, 0x80003 + d * 128 + a * 4096 + imm * 1048576)
  | .maxi d a imm => some (32, 0xA0003 + d * 128 + a * 4096 + imm * 1048576)
  | .sll w d a b => some (32, 0x5 + d * 128 + a * 4096 + b * 131072 + w.code * 4194304)
  | .sllImm w d a imm hi => some (32, 0x20000005 + d * 128 + a * 4096 + imm * 131072 + w.code * 4194304 + hi * 1073741824)
  | .srl w d a b => some (32, 0x2000005 + d * 128 + a * 4096 + b * 131072 + w.code * 4194304)
  | .srlImm w d a imm hi => some (32, 0x22000005 + d * 128 + a * 4096 + imm * 131072 + w.code * 4194304 + hi * 1073741824)
  | .sra w d a b => some (32, 0x4000005 + d * 128 + a * 4096 + b * 131072 + w.code * 4194304)
  | .sraImm w d a imm hi => some (32, 0x24000005 + d * 128 + a * 4096 + imm * 131072 + w.code * 4194304 + hi * 1073741824)
  | .rol w d a b => some (32, 0x6000005 + d * 128 + a * 4096 + b * 131072 + w.code * 4194304)
  | .rolImm w d a imm hi => some (32, 0x26000005 + d * 128 + a * 4096 + imm * 131072 + w.code * 4194304 + hi * 1073741824)
  | .ror w d a b => some (32, 0x8000005 + d * 128 + a * 4096 + b * 131072 + w.code * 4194304)
  | .rorImm w d a imm hi => some (32, 0x28000005 + d * 128 + a * 4096 + imm * 131072 + w.code * 4194304 + hi * 1073741824)
  | .ext d a b => some (32, 0xA000005 + d * 128 + a * 4096 + b * 131072)
  | .extn d a b => some (32, 0xC000005 + d * 128 + a * 4096 + b * 131072)
  | .ins d a b => some (32, 0xE000005 + d * 128 + a * 4096 + b * 131072)
  | .clz w d a => some (32, 0x10000005 + d * 128 + a * 4096 + w.code * 4194304)
  | .ctz w d a => some (32, 0x12000005 + d * 128 + a * 4096 + w.code * 4194304)
  | .pop w d a => some (32, 0x14000005 + d * 128 + a * 4096 + w.code * 4194304)
  | .brev w d a => some (32, 0x16000005 + d * 128 + a * 4096 + w.code * 4194304)
  | .bswap w d a => some (32, 0x18000005 + d * 128 + a * 4096 + w.code * 4194304)
  | .cmp w d a b x => some (32, 0x7 + d * 128 + a * 4096 + b * 131072 + w.code * 4194304 + x * 536870912)
  | .csel d a b x => some (32, 0x2000007 + d * 128 + a * 4096 + b * 131072 + x * 536870912)
  | .mul w d a b la => some (32, 0x9 + d * 128 + a * 4096 + b * 131072 + w.code * 4194304 + la * 268435456)
  | .mulh w d a b la => some (32, 0x2000009 + d * 128 + a * 4096 + b * 131072 + w.code * 4194304 + la * 268435456)
  | .mulhn w d a b la => some (32, 0x4000009 + d * 128 + a * 4096 + b * 131072 + w.code * 4194304 + la * 268435456)
  | .div w d a b la => some (32, 0x6000009 + d * 128 + a * 4096 + b * 131072 + w.code * 4194304 + la * 268435456)
  | .divn w d a b la => some (32, 0x8000009 + d * 128 + a * 4096 + b * 131072 + w.code * 4194304 + la * 268435456)
  | .rem w d a b la => some (32, 0xA000009 + d * 128 + a * 4096 + b * 131072 + w.code * 4194304 + la * 268435456)
  | .remn w d a b la => some (32, 0xC000009 + d * 128 + a * 4096 + b * 131072 + w.code * 4194304 + la * 268435456)
  | .ldhi d imm => some (32, 0xB + d * 128 + imm * 4096)
  | .pcrel d imm => some (32, 0xD + d * 128 + imm * 4096)
  | .ptag d a b => some (32, 0xF + d * 128 + a * 4096 + b * 131072)
  | .padd d a b => some (32, 0x200000F + d * 128 + a * 4096 + b * 131072)
  | .psub d a b => some (32, 0x400000F + d * 128 + a * 4096 + b * 131072)
  | .pfmt d a => some (32, 0x600000F + d * 128 + a * 4096)
  | .pclr d a => some (32, 0x800000F + d * 128 + a * 4096)
  | .beq a b imm => some (32, 0x11 + a * 128 + b * 4096 + imm * 1048576)
  | .bne a b imm => some (32, 0x20011 + a * 128 + b * 4096 + imm * 1048576)
  | .blt a b imm => some (32, 0x40011 + a * 128 + b * 4096 + imm * 1048576)
  | .bge a b imm => some (32, 0x60011 + a * 128 + b * 4096 + imm * 1048576)
  | .bltn a b imm => some (32, 0x80011 + a * 128 + b * 4096 + imm * 1048576)
  | .bgen a b imm => some (32, 0xA0011 + a * 128 + b * 4096 + imm * 1048576)
  | .bbs a b imm => some (32, 0xC0011 + a * 128 + b * 4096 + imm * 1048576)
  | .bbc a b imm => some (32, 0xE0011 + a * 128 + b * 4096 + imm * 1048576)
  | .jl d imm => some (32, 0x13 + d * 128 + imm * 4096)
  | .jlr d a imm => some (32, 0x15 + d * 128 + a * 4096 + imm * 1048576)
  | .cMv d src => some (16, 0x0 + d * 32 + src * 1024)
  | .cAdd d src => some (16, 0x8000 + d * 32 + src * 1024)
  | .cSub d src => some (16, 0x2 + d * 32 + src * 1024)
  | .cXor d src => some (16, 0x8002 + d * 32 + src * 1024)
  | .cAddi d imm => some (16, 0x4 + d * 32 + imm * 1024)
  | .cLi d imm => some (16, 0x6 + d * 32 + imm * 1024)
  | .cLd d off => some (16, 0x8 + d * 32 + off * 1024)
  | .cSt b off => some (16, 0xA + b * 32 + off * 1024)
  | .cBz a imm => some (16, 0xC + a * 32 + imm * 1024)
  | .cBnz a imm => some (16, 0xE + a * 32 + imm * 1024)
  | .cSk a cond cnt => some (16, 0x10 + a * 32 + cnt * 1024 + cond * 8192)
  | .cSll d imm => some (16, 0x12 + d * 32 + imm * 1024)
  | .cSrl d imm => some (16, 0x8012 + d * 32 + imm * 1024)
  | .cSra d imm => some (16, 0x14 + d * 32 + imm * 1024)
  | .cAndi d imm => some (16, 0x8014 + d * 32 + imm * 1024)
  | .cJ imm => some (16, 0x16 + imm * 32)
  | .cJr src => some (16, 0x18 + src * 1024)
  | .cJlr d src => some (16, 0x8018 + d * 32 + src * 1024)
  | .fadd w d a b x => some (32, 0x31 + d * 128 + a * 4096 + b * 131072 + w.code * 4194304 + x * 536870912)
  | .fsub w d a b x => some (32, 0x2000031 + d * 128 + a * 4096 + b * 131072 + w.code * 4194304 + x * 536870912)
  | .fmul w d a b x => some (32, 0x4000031 + d * 128 + a * 4096 + b * 131072 + w.code * 4194304 + x * 536870912)
  | .fmin w d a b x => some (32, 0x6000031 + d * 128 + a * 4096 + b * 131072 + w.code * 4194304 + x * 536870912)
  | .fmax w d a b x => some (32, 0x8000031 + d * 128 + a * 4096 + b * 131072 + w.code * 4194304 + x * 536870912)
  | .fsgn w d a b => some (32, 0xA000031 + d * 128 + a * 4096 + b * 131072 + w.code * 4194304)
  | .ffma w d a b la => some (32, 0x33 + d * 128 + a * 4096 + b * 131072 + w.code * 4194304 + la * 268435456)
  | .fdiv w d a b la => some (32, 0x2000033 + d * 128 + a * 4096 + b * 131072 + w.code * 4194304 + la * 268435456)
  | .fsqrt w d a la => some (32, 0x4000033 + d * 128 + a * 4096 + w.code * 4194304 + la * 268435456)
  | .fcvt w d a tgt x => some (32, 0x35 + d * 128 + a * 4096 + tgt * 131072 + w.code * 4194304 + x * 536870912)
  | .fcvti w d a tgt x => some (32, 0x2000035 + d * 128 + a * 4096 + tgt * 131072 + w.code * 4194304 + x * 536870912)
  | .icvtf w d a tgt x => some (32, 0x4000035 + d * 128 + a * 4096 + tgt * 131072 + w.code * 4194304 + x * 536870912)
  | .fin w d a rm => some (32, 0x6000035 + d * 128 + a * 4096 + rm * 131072 + w.code * 4194304)
  | .feq w d a b => some (32, 0x37 + d * 128 + a * 4096 + b * 131072 + w.code * 4194304)
  | .flt w d a b => some (32, 0x2000037 + d * 128 + a * 4096 + b * 131072 + w.code * 4194304)
  | .fle w d a b => some (32, 0x4000037 + d * 128 + a * 4096 + b * 131072 + w.code * 4194304)
  | .fclass w d a => some (32, 0x6000037 + d * 128 + a * 4096 + w.code * 4194304)
  | .tget d a => some (32, 0x39 + d * 128 + a * 4096)
  | .tset d a b => some (32, 0x2000039 + d * 128 + a * 4096 + b * 131072)
  | .ld w d a off la => some (32, 0x21 + d * 128 + a * 4096 + w.code * 131072 + la * 1048576 + off * 16777216)
  | .lda w d a off sc la => some (32, 0x23 + d * 128 + a * 4096 + w.code * 131072 + sc * 1048576 + la * 4194304 + off * 67108864)
  | .st w a b off hn => some (32, 0x25 + b * 128 + a * 4096 + w.code * 131072 + hn * 1048576 + off * 4194304)
  | .str w a b off sc => some (32, 0x27 + b * 128 + a * 4096 + w.code * 131072 + sc * 1048576 + off * 4194304)
  | .stf w a b off rm => some (32, 0x29 + b * 128 + a * 4096 + w.code * 131072 + rm * 1048576 + off * 4194304)
  | .ldx w d a b la => some (32, 0x17 + d * 128 + a * 4096 + b * 131072 + w.code * 4194304 + la * 268435456)
  | .stx w d a b => some (32, 0x2000017 + d * 128 + a * 4096 + b * 131072 + w.code * 4194304)
  | .ldxr w d a b la => some (32, 0x4000017 + d * 128 + a * 4096 + b * 131072 + w.code * 4194304 + la * 268435456)
  | .lde w d a b la => some (32, 0x6000017 + d * 128 + a * 4096 + b * 131072 + w * 4194304 + la * 268435456)
  | .ste w d a b => some (32, 0x8000017 + d * 128 + a * 4096 + b * 131072 + w * 4194304)
  | .amoswap a b wd sem sc la => some (32, 0x2B + b * 128 + a * 4096 + wd * 2097152 + sem * 4194304 + sc * 16777216 + la * 67108864)
  | .amoadd a b wd sem sc la => some (32, 0x2002B + b * 128 + a * 4096 + wd * 2097152 + sem * 4194304 + sc * 16777216 + la * 67108864)
  | .amoand a b wd sem sc la => some (32, 0x4002B + b * 128 + a * 4096 + wd * 2097152 + sem * 4194304 + sc * 16777216 + la * 67108864)
  | .amoor a b wd sem sc la => some (32, 0x6002B + b * 128 + a * 4096 + wd * 2097152 + sem * 4194304 + sc * 16777216 + la * 67108864)
  | .amoxor a b wd sem sc la => some (32, 0x8002B + b * 128 + a * 4096 + wd * 2097152 + sem * 4194304 + sc * 16777216 + la * 67108864)
  | .amomin a b wd sem sc la => some (32, 0xA002B + b * 128 + a * 4096 + wd * 2097152 + sem * 4194304 + sc * 16777216 + la * 67108864)
  | .amomax a b wd sem sc la => some (32, 0xC002B + b * 128 + a * 4096 + wd * 2097152 + sem * 4194304 + sc * 16777216 + la * 67108864)
  | .amominn a b wd sem sc la => some (32, 0xE002B + b * 128 + a * 4096 + wd * 2097152 + sem * 4194304 + sc * 16777216 + la * 67108864)
  | .amomaxn a b wd sem sc la => some (32, 0x10002B + b * 128 + a * 4096 + wd * 2097152 + sem * 4194304 + sc * 16777216 + la * 67108864)
  | .amocas a b wd sem sc la => some (32, 0x12002B + b * 128 + a * 4096 + wd * 2097152 + sem * 4194304 + sc * 16777216 + la * 67108864)
  | .amfadd a b wd sem sc la => some (32, 0x2D + b * 128 + a * 4096 + wd * 2097152 + sem * 4194304 + sc * 16777216 + la * 67108864)
  | .amfmin a b wd sem sc la => some (32, 0x2002D + b * 128 + a * 4096 + wd * 2097152 + sem * 4194304 + sc * 16777216 + la * 67108864)
  | .amfmax a b wd sem sc la => some (32, 0x4002D + b * 128 + a * 4096 + wd * 2097152 + sem * 4194304 + sc * 16777216 + la * 67108864)
  | .radd a b wd la => some (32, 0x6002D + b * 128 + a * 4096 + wd * 2097152 + la * 67108864)
  | .rflush a sc la => some (32, 0x8002D + a * 4096 + sc * 16777216 + la * 67108864)
  | .ldres a b wd sem sc la => some (32, 0xA002D + b * 128 + a * 4096 + wd * 2097152 + sem * 4194304 + sc * 16777216 + la * 67108864)
  | .stcond a b wd sem sc la => some (32, 0xC002D + b * 128 + a * 4096 + wd * 2097152 + sem * 4194304 + sc * 16777216 + la * 67108864)
  | .raddi a b wd la => some (32, 0xE002D + b * 128 + a * 4096 + wd * 2097152 + la * 67108864)
  | .fence sc pred succ => some (32, 0x2F + pred * 4096 + succ * 1048576 + sc * 268435456)
  | .tlwait a kind => some (32, 0xAF + a * 4096 + kind * 131072)
  | .tltest d a kind => some (32, 0x12F + a * 4096 + kind * 131072 + d * 1048576)
  | .hint k rest => some (32, 0xC2F + k * 128 + rest * 4096)
  | .cpy d a b q la => some (32, 0x69 + d * 128 + a * 4096 + b * 131072 + q * 33554432 + la * 268435456)
  | .cpyt d a b q la => some (32, 0x400069 + d * 128 + a * 4096 + b * 131072 + q * 33554432 + la * 268435456)
  | .cpyg d a b q la => some (32, 0x800069 + d * 128 + a * 4096 + b * 131072 + q * 33554432 + la * 268435456)
  | .trread d a => some (32, 0x75 + d * 128 + a * 4096)
  | .vclaim d a imm => some (32, 0x41 + d * 128 + a * 4096 + imm * 1048576)
  | .vrel  => some (32, 0x20041)
  | .vlen d a imm => some (32, 0x40041 + d * 128 + a * 4096 + imm * 1048576)
  | .vsplat d a imm => some (32, 0x60041 + d * 128 + a * 4096 + imm * 1048576)
  | .vadd w d a b m => some (32, 0x43 + d * 128 + a * 4096 + b * 131072 + w.code * 4194304 + m * 536870912)
  | .vsub w d a b m => some (32, 0x2000043 + d * 128 + a * 4096 + b * 131072 + w.code * 4194304 + m * 536870912)
  | .vand w d a b m => some (32, 0x4000043 + d * 128 + a * 4096 + b * 131072 + w.code * 4194304 + m * 536870912)
  | .vor w d a b m => some (32, 0x6000043 + d * 128 + a * 4096 + b * 131072 + w.code * 4194304 + m * 536870912)
  | .vxor w d a b m => some (32, 0x8000043 + d * 128 + a * 4096 + b * 131072 + w.code * 4194304 + m * 536870912)
  | .vmin w d a b m => some (32, 0xA000043 + d * 128 + a * 4096 + b * 131072 + w.code * 4194304 + m * 536870912)
  | .vmax w d a b m => some (32, 0xC000043 + d * 128 + a * 4096 + b * 131072 + w.code * 4194304 + m * 536870912)
  | .vadds w d a b m => some (32, 0xE000043 + d * 128 + a * 4096 + b * 131072 + w.code * 4194304 + m * 536870912)
  | .vsubs w d a b m => some (32, 0x10000043 + d * 128 + a * 4096 + b * 131072 + w.code * 4194304 + m * 536870912)
  | .vmul w d a b m => some (32, 0x12000043 + d * 128 + a * 4096 + b * 131072 + w.code * 4194304 + m * 536870912)
  | .vsll w d a b m => some (32, 0x14000043 + d * 128 + a * 4096 + b * 131072 + w.code * 4194304 + m * 536870912)
  | .vsrl w d a b m => some (32, 0x16000043 + d * 128 + a * 4096 + b * 131072 + w.code * 4194304 + m * 536870912)
  | .vsra w d a b m => some (32, 0x18000043 + d * 128 + a * 4096 + b * 131072 + w.code * 4194304 + m * 536870912)
  | .vcmpeq w d a b m => some (32, 0x1A000043 + d * 128 + a * 4096 + b * 131072 + w.code * 4194304 + m * 536870912)
  | .vcmplt w d a b m => some (32, 0x1C000043 + d * 128 + a * 4096 + b * 131072 + w.code * 4194304 + m * 536870912)
  | .vcmple w d a b m => some (32, 0x1E000043 + d * 128 + a * 4096 + b * 131072 + w.code * 4194304 + m * 536870912)
  | .vfadd w d a b m => some (32, 0x45 + d * 128 + a * 4096 + b * 131072 + w.code * 4194304 + m * 536870912)
  | .vfsub w d a b m => some (32, 0x2000045 + d * 128 + a * 4096 + b * 131072 + w.code * 4194304 + m * 536870912)
  | .vfmul w d a b m => some (32, 0x4000045 + d * 128 + a * 4096 + b * 131072 + w.code * 4194304 + m * 536870912)
  | .vfmin w d a b m => some (32, 0x6000045 + d * 128 + a * 4096 + b * 131072 + w.code * 4194304 + m * 536870912)
  | .vfmax w d a b m => some (32, 0x8000045 + d * 128 + a * 4096 + b * 131072 + w.code * 4194304 + m * 536870912)
  | .vfsgn w d a b m => some (32, 0xA000045 + d * 128 + a * 4096 + b * 131072 + w.code * 4194304 + m * 536870912)
  | .vfeq w d a b m => some (32, 0xC000045 + d * 128 + a * 4096 + b * 131072 + w.code * 4194304 + m * 536870912)
  | .vflt w d a b m => some (32, 0xE000045 + d * 128 + a * 4096 + b * 131072 + w.code * 4194304 + m * 536870912)
  | .vfle w d a b m => some (32, 0x10000045 + d * 128 + a * 4096 + b * 131072 + w.code * 4194304 + m * 536870912)
  | .vffma w d a b la => some (32, 0x47 + d * 128 + a * 4096 + b * 131072 + w.code * 4194304 + la * 268435456)
  | .vfdiv w d a b la => some (32, 0x2000047 + d * 128 + a * 4096 + b * 131072 + w.code * 4194304 + la * 268435456)
  | .vfsqrt w d a la => some (32, 0x4000047 + d * 128 + a * 4096 + w.code * 4194304 + la * 268435456)
  | .vcvt w d a tgt m => some (32, 0x49 + d * 128 + a * 4096 + tgt * 131072 + w.code * 4194304 + m * 536870912)
  | .vicvtf w d a tgt m => some (32, 0x2000049 + d * 128 + a * 4096 + tgt * 131072 + w.code * 4194304 + m * 536870912)
  | .vfcvti w d a tgt m => some (32, 0x4000049 + d * 128 + a * 4096 + tgt * 131072 + w.code * 4194304 + m * 536870912)
  | .vfin w d a rm m => some (32, 0x6000049 + d * 128 + a * 4096 + rm * 131072 + w.code * 4194304 + m * 536870912)
  | .vtget d a m => some (32, 0x8000049 + d * 128 + a * 4096 + m * 536870912)
  | .vtset d a b m => some (32, 0xA000049 + d * 128 + a * 4096 + b * 131072 + m * 536870912)
  | .vperm d a b m => some (32, 0x4B + d * 128 + a * 4096 + b * 131072 + m * 536870912)
  | .vslide d a b m => some (32, 0x200004B + d * 128 + a * 4096 + b * 131072 + m * 536870912)
  | .vbcast d a b m => some (32, 0x400004B + d * 128 + a * 4096 + b * 131072 + m * 536870912)
  | .vnbr d a m o => some (32, 0x600004B + d * 128 + a * 4096 + o * 4194304 + m * 536870912)
  | .vcomp d a m => some (32, 0x800004B + d * 128 + a * 4096 + m * 536870912)
  | .vexpd d a m => some (32, 0xA00004B + d * 128 + a * 4096 + m * 536870912)
  | .vget d a b m => some (32, 0xC00004B + d * 128 + a * 4096 + b * 131072 + m * 536870912)
  | .vput d a b m => some (32, 0xE00004B + d * 128 + a * 4096 + b * 131072 + m * 536870912)
  | .vred w d a b la => some (32, 0x4D + d * 128 + a * 4096 + b * 131072 + w.code * 4194304 + la * 268435456)
  | .vfred w d a b la => some (32, 0x200004D + d * 128 + a * 4096 + b * 131072 + w.code * 4194304 + la * 268435456)
  | .vscan w d a b la => some (32, 0x400004D + d * 128 + a * 4096 + b * 131072 + w.code * 4194304 + la * 268435456)
  | .vfscan w d a b la => some (32, 0x600004D + d * 128 + a * 4096 + b * 131072 + w.code * 4194304 + la * 268435456)
  | .vsort w d a b la => some (32, 0x800004D + d * 128 + a * 4096 + b * 131072 + w.code * 4194304 + la * 268435456)
  | .vsorti w d a b la => some (32, 0xA00004D + d * 128 + a * 4096 + b * 131072 + w.code * 4194304 + la * 268435456)
  | .vtopk w d a b la => some (32, 0xC00004D + d * 128 + a * 4096 + b * 131072 + w.code * 4194304 + la * 268435456)
  | .vld w d a b la => some (32, 0x4F + d * 128 + a * 4096 + b * 131072 + w.code * 4194304 + la * 268435456)
  | .vst w d a b => some (32, 0x200004F + d * 128 + a * 4096 + b * 131072 + w.code * 4194304)
  | .vlds w d a b la => some (32, 0x400004F + d * 128 + a * 4096 + b * 131072 + w.code * 4194304 + la * 268435456)
  | .vstf w d a rm srcf => some (32, 0x600004F + d * 128 + a * 4096 + rm * 131072 + srcf * 1048576 + w.code * 4194304)
  | .vgat d a b la => some (32, 0x51 + d * 128 + a * 4096 + b * 131072 + la * 268435456)
  | .vsca d a b => some (32, 0x2000051 + d * 128 + a * 4096 + b * 131072)
  | .vldt d a b la => some (32, 0x4000051 + d * 128 + a * 4096 + b * 131072 + la * 268435456)
  | .vpoly d a la => some (32, 0x400053 + d * 128 + a * 4096 + la * 268435456)
  | .ppload a => some (32, 0x2000053 + a * 4096)
  | .gang a b => some (32, 0x19 + a * 4096 + b * 131072)
  | .gmeet a => some (32, 0x2000019 + a * 4096)
  | .gleave  => some (32, 0x4000019)
  | .mloads d a b la => some (32, 0x59 + d * 128 + a * 4096 + b * 131072 + la * 268435456)
  | .mswap d la => some (32, 0x400059 + d * 128 + la * 268435456)
  | .mstream d a b acc la => some (32, 0x5B + d * 128 + a * 4096 + b * 131072 + acc * 33554432 + la * 268435456)
  | .mzero d acc la => some (32, 0x5D + d * 128 + acc * 33554432 + la * 268435456)
  | .mread d a acc la => some (32, 0x40005D + d * 128 + a * 4096 + acc * 33554432 + la * 268435456)
  | .mstore d a b acc la => some (32, 0x80005D + d * 128 + a * 4096 + b * 131072 + acc * 33554432 + la * 268435456)
  | .mscale d acc la => some (32, 0xC0005D + d * 128 + acc * 33554432 + la * 268435456)
  | .mweight imm => some (32, 0x5F + imm * 1048576)
  | .mstat d => some (32, 0x2005F + d * 128)
  | .send w d a b la => some (32, 0x1B + d * 128 + a * 4096 + b * 131072 + w * 4194304 + la * 268435456)
  | .sendw w d a b la => some (32, 0x200001B + d * 128 + a * 4096 + b * 131072 + w * 4194304 + la * 268435456)
  | .halt  => some (32, 0x400001B)
  | .nop  => some (16, 0x1A)
  | .yield  => some (16, 0x201A)
  | .brk  => some (16, 0x401A)
  | .hret  => some (16, 0x601A)
  | .cnew d a b la => some (32, 0x1D + d * 128 + a * 4096 + b * 131072 + la * 268435456)
  | .cdec a => some (32, 0x200001D + a * 4096)
  | .cspawn w d a b la => some (32, 0x400001D + d * 128 + a * 4096 + b * 131072 + w * 4194304 + la * 268435456)
  | .cjoin d a b la => some (32, 0x600001D + d * 128 + a * 4096 + b * 131072 + la * 268435456)
  | .cdone a => some (32, 0x800001D + a * 4096)
  | .binit a b => some (32, 0x71 + a * 4096 + b * 131072)
  | .barr d a na => some (32, 0x2000071 + d * 128 + a * 4096 + na * 536870912)
  | .bwait a b => some (32, 0x4000071 + a * 4096 + b * 131072)
  | .btest d a b => some (32, 0x6000071 + d * 128 + a * 4096 + b * 131072)
  | .pacq d a nw => some (32, 0x6B + d * 128 + a * 4096 + nw * 33554432)
  | .prel a b => some (32, 0x40006B + a * 4096 + b * 131072)
  | .pfill d a b q => some (32, 0x80006B + d * 128 + a * 4096 + b * 131072 + q * 33554432)
  | .qlaunch d a b la => some (32, 0x73 + d * 128 + a * 4096 + b * 131072 + la * 268435456)
  | .qstat d a q la => some (32, 0x400073 + d * 128 + a * 4096 + q * 33554432 + la * 268435456)
  | .spstat d a b la => some (32, 0x1C00073 + d * 128 + a * 4096 + b * 131072 + la * 268435456)
  | .spstatClr d a b la => some (32, 0x3C00073 + d * 128 + a * 4096 + b * 131072 + la * 268435456)
  | .spstatSt d a la => some (32, 0x5C00073 + d * 128 + a * 4096 + la * 268435456)
  | .nload d a b q la => some (32, 0x6D + d * 128 + a * 4096 + b * 131072 + q * 33554432 + la * 268435456)
  | .nstore d a b q la => some (32, 0x40006D + d * 128 + a * 4096 + b * 131072 + q * 33554432 + la * 268435456)
  | .ndel d a b q la => some (32, 0x80006D + d * 128 + a * 4096 + b * 131072 + q * 33554432 + la * 268435456)
  | .ninit d a b la => some (32, 0x6F + d * 128 + a * 4096 + b * 131072 + la * 268435456)
  | .nsnap d a la => some (32, 0x40006F + d * 128 + a * 4096 + la * 268435456)
  | .nsnapRel d a b la => some (32, 0x240006F + d * 128 + a * 4096 + b * 131072 + la * 268435456)
  | .nfree d a la => some (32, 0x80006F + d * 128 + a * 4096 + la * 268435456)
  | .nstat d a q la => some (32, 0xC0006F + d * 128 + a * 4096 + q * 33554432 + la * 268435456)
  | .ptload d a b => some (32, 0x1000007D + d * 128 + a * 4096 + b * 131072)
  | .rngset d a b => some (32, 0x1200007D + d * 128 + a * 4096 + b * 131072)
  | .tlbinv d a b => some (32, 0x7D + d * 128 + a * 4096 + b * 131072)
  | .l1inv  => some (32, 0x200007D)
  | .l2wb d a b => some (32, 0x400007D + d * 128 + a * 4096 + b * 131072)
  | .heatrd d a b => some (32, 0x600007D + d * 128 + a * 4096 + b * 131072)
  | .heatage d a b => some (32, 0x800007D + d * 128 + a * 4096 + b * 131072)
  | .pfreplay d a b => some (32, 0xA00007D + d * 128 + a * 4096 + b * 131072)
  | .ckpt d a b => some (32, 0xC00007D + d * 128 + a * 4096 + b * 131072)
  | .trap imm => some (32, 0x79 + imm * 1048576)
  | .tret d a => some (32, 0x20079 + d * 128 + a * 4096)
  | .tretKill d a => some (32, 0x120079 + d * 128 + a * 4096)
  | .tretFrz d a => some (32, 0x220079 + d * 128 + a * 4096)
  | .mfs d imm => some (32, 0x7B + d * 128 + imm * 1048576)
  | .mts a imm => some (32, 0x2007B + a * 4096 + imm * 1048576)
  | .cfreeze d a => some (32, 0x4007B + d * 128 + a * 4096)
  | .cthaw d a => some (32, 0x6007B + d * 128 + a * 4096)
  | .cswapIn d a => some (32, 0x8007B + d * 128 + a * 4096)
  | .cswapFast d a => some (32, 0x18007B + d * 128 + a * 4096)
  | .cswapOut d a => some (32, 0x28007B + d * 128 + a * 4096)
  | .cswapCreate d a => some (32, 0x38007B + d * 128 + a * 4096)
  | .cswapSeal d a => some (32, 0x48007B + d * 128 + a * 4096)
  | .cswapReset d a => some (32, 0x58007B + d * 128 + a * 4096)
  | .wpset d a imm => some (32, 0xA007B + d * 128 + a * 4096 + imm * 1048576)
  | .lstat d a => some (32, 0xE007B + d * 128 + a * 4096)
  | .lstatQuiesce d a => some (32, 0x1E007B + d * 128 + a * 4096)
  | .lstatResume d a => some (32, 0x2E007B + d * 128 + a * 4096)
  | .lstatIsolate d a => some (32, 0x3E007B + d * 128 + a * 4096)
  | .lstatRetrain d a => some (32, 0x4E007B + d * 128 + a * 4096)
  | .lstatRelink d a => some (32, 0x5E007B + d * 128 + a * 4096)
  | .lstatClr d a => some (32, 0x6E007B + d * 128 + a * 4096)
  | .lstatDquiesce d a => some (32, 0x8E007B + d * 128 + a * 4096)
  | .lstatDflush d a => some (32, 0x9E007B + d * 128 + a * 4096)
  | .lstatDreset d a => some (32, 0xAE007B + d * 128 + a * 4096)
  | .lstatDadmit d a => some (32, 0xBE007B + d * 128 + a * 4096)
  | .qcmdOpen _ _ => none
  | .qcmdHalt _ _ => none
  | .qcmdResume _ _ => none
  | .qcmdClose _ _ => none
  | .carveWrite _ _ => none
  | .shallotWrite _ _ => none
  | .doorbell _ _ => none
  | .devnumWrite _ => none
  | .replay _ _ => none
  | .replayCancel _ _ => none
  | .registerWrite _ _ => none
  | .doeIdent => none
  | .doeReport _ _ => none
  | .doeInvalidObject _ _ => none
  | .coldReset _ _ => none
  | .messageArrival _ => none
  | .clauseStart _ => none
  | .activationPark _ => none
  | .activationResume _ => none
  | .waitEnd _ => none
  | .watchdogExpiry _ => none
  | .longLatencyResult _ _ => none
  | .errorReply _ _ _ _ _ => none
  | .copyCommandComplete _ _ => none
  | .arrayGrant _ => none
  | .matrixCommandComplete _ => none
  | .planeRefetch _ _ => none
  | .vpolyRequestTake _ => none
  | .barrierPhaseComplete _ => none
  | .launchTakeUp _ => none
  | .groupPlace _ => none
  | .wakeBegin _ => none
  | .clusterAwake _ => none
  | .clusterGate _ => none
  | .sliceRotation _ _ => none
  | .launchComplete _ _ => none
  | .shadowStart _ => none
  | .shadowCommit _ => none
  | .reqr _ _ => none
  | .reqw _ _ => none
  | .wb _ _ => none
  | .push _ _ => none
  | .fwdrd _ _ => none
  | .fwdwr _ _ => none
  | .inv _ _ => none
  | .recall _ _ => none
  | .updin _ _ => none
  | .data _ _ => none
  | .dataex _ _ => none
  | .ack _ _ => none
  | .wbdone _ _ => none
  | .nack _ _ => none
  | .evi _ _ => none
  | .atsCompletion _ _ _ _ => none
  | .atsInvalidation _ _ _ => none
  | .faultRingRecheck _ => none
  | .indexAccept _ _ => none
  | .indexApply _ _ => none
  | .nloadComplete _ _ => none
  | .indexReclaim _ _ => none
  | .checkpointComplete _ => none
  | .contextResetDone _ => none
  | .linkTrained _ _ => none
  | .linkTrainingTimeout _ _ => none
  | .linkRetryLimit _ _ => none
  | .retrainRequest _ _ => none
  | .linkDeclaredDown _ _ => none
  | .linkAutoRetrain _ _ => none
  | .podBarrierLoss _ => none
  | .dieResetDone _ => none
  | .powerSample _ => none
  | .thermalSample _ _ _ _ => none
  | .illegalInstruction _ => none
  | .fetchFault => none

/-- The bytes of an instruction, as the machine stores them. -/
def encode (i : Instr) : Option (List (BitVec 8)) :=
  (encodeWord i).map fun p => valBytes (p.1 / 8) p.2

/-- What the decoder reads from a word of the opcode table, laid out as the hardware stores it. -/
noncomputable def decodeTableWord (nbits w : Nat) : Option Instr :=
  match decode (valBytes (max 4 (nbits / 8)) w) with
  | .ok (i, _) => some i
  | .error _ => none

end Sys2Proof
end

