-- ==== Sys2Proof/Word.lean ====
section
/-!
DEFINITION. The smallest units: a byte of memory, and an address.  Register contents, control words and encodings are
natural numbers below a power of two, which is how the manual's own pseudocode computes with them (05 R105); they are
read from and written to bytes.
-/

namespace Sys2Proof

/-- A byte of memory. -/
abbrev Byte := BitVec 8

/-- The bits [63:0] of a natural number. -/
abbrev w64 (n : Nat) : Nat := n % 18446744073709551616

end Sys2Proof
end

