-- ==== Sys2Proof/Config.lean ====
section
/-!
DEFINITION. What is fixed for the machine, and the free values.  An opaque constant has no body that a proof could
see: it stands for a value the manual leaves open, applied to the state's counter of free values or to the operands it
depends on (DESIGN CHOICE, notes/assumptions/5.md).
-/

namespace Sys2Proof.Config

/-- The free value with a number: an unpredictable choice (00 R2) reads it at the state's counter of free values. -/
opaque freeBits : Nat → Nat

/-- Whether a core of a control or management cluster code runs at firmware level; bring-up sets it (24 R436) and no
rule says to what. -/
opaque coreIsFirmware : Nat → Bool

/-- The candidate LZ4 block of a page (23 R430): the encoder is a fixed function that the manual does not give. -/
opaque lz4Encoder : List Byte → List Byte

/-- The device's ML-DSA-44 public key and certificate chain (27 R476). -/
opaque publicKey : List Byte

opaque certificates : List Byte

/-- The ML-DSA-44 signature over a message (27 R476). -/
opaque signature : List Byte → List Byte

/-- SHA3-256 of the firmware images (27 R476). -/
opaque firmwareHash : List Byte

/-- The words of boot ROM for the egress filter of a core: EGB0, EGL0, and so on (24 R448). -/
opaque egressRom : Nat → List Nat

/-- The far-tier addresses, as first and last, that dynamic-capacity devices report as outside their committed extents
(26 R461). -/
opaque farUncommitted : Nat → List (Nat × Nat)

/-- What CXL discovery finds at bring-up (26 R460): the decoders as base, limit and ports. -/
opaque farDecoders : Nat → List (Nat × Nat × List Nat)

/-- The bytes of a context's area for access records (RECORD) that the hardware needs, beside L2, to hold a number of them
(06 R158). -/
opaque recordSpill : Nat → Nat

/-- The same of its area for buffered contributions (REDUCE, 19 R365). -/
opaque reduceSpill : Nat → Nat

/-- The L2 slice of a die that a line is held in (06 R139). -/
opaque lineSlice : Nat → Nat

/-- The L2 slice of its die that is nearest to a cluster, by die × 1024 + cluster (06 R141). -/
opaque nearestSlice : Nat → Nat

/-- The bytes that a core's matrix and polynomial state takes in an image of its group (12 R297). -/
opaque coreImage : Nat

/-- Whether the Type 3 device of a port reports persistence at write completion (23 R432). -/
opaque portPersistent : Nat → Bool

/-- The coolant inlet temperature, °C, that TEMP shows at a time (27 R472). -/
opaque coolantInlet : Nat → Nat

/-- How many cycles beyond the first pass on a die in a step (03 R66; DESIGN CHOICE, notes/assumptions/8.md). -/
opaque cycles : Nat → Nat

end Sys2Proof.Config
end

