-- ==== Sys2Proof/Machine/Bits.lean ====
section
/-!
DEFINITION. Bit fields, sign readings and little-endian bytes (00 R7, 05 R105).
-/

namespace Sys2Proof.Machine

/-- Bits [lo + n - 1 : lo] of a value. -/
def bits (v lo n : Nat) : Nat := v / 2 ^ lo % 2 ^ n

/-- Bit `k` of a value. -/
def bit (v k : Nat) : Bool := v / 2 ^ k % 2 == 1

/-- 1 or 0. -/
def b2n (b : Bool) : Nat := if b then 1 else 0

/-- The low `n` bits of a value read in two's complement. -/
def sint (v n : Nat) : Int :=
  let u := v % 2 ^ n
  if u < 2 ^ (n - 1) then u else (u : Int) - 2 ^ n

/-- The residue of an integer modulo 2^n: its `n`-bit two's complement pattern. -/
def imod (y : Int) (n : Nat) : Nat := (y % (2 ^ n : Nat)).toNat

/-- The 64-bit pattern of an integer. -/
def wint (y : Int) : Nat := (y % 18446744073709551616).toNat

/-- A field of `n` bits sign-extended to 64 bits. -/
def sext (v n : Nat) : Nat := wint (sint v n)

/-- `v` with bits [lo + n - 1 : lo] replaced by `f`. -/
def setBits (v lo n f : Nat) : Nat :=
  v % 2 ^ lo + 2 ^ lo * (f % 2 ^ n) + 2 ^ (lo + n) * (v / 2 ^ (lo + n))

/-- Little-endian bytes of a value, `n` of them (R7). -/
def toBytes (n v : Nat) : List Byte := valBytes n v

/-- The value of little-endian bytes (R7). -/
def ofBytes (bs : List Byte) : Nat := bytesVal bs

/-- The number of one bits among the low `n`. -/
def popc : Nat → Nat → Nat
  | 0, _ => 0
  | n + 1, v => v % 2 + popc n (v / 2)

/-- The low `n` bits in reverse order. -/
def brevN : Nat → Nat → Nat
  | 0, _ => 0
  | n + 1, v => v % 2 * 2 ^ n + brevN n (v / 2)

/-- The low `n` bytes in reverse order. -/
def bswapN : Nat → Nat → Nat
  | 0, _ => 0
  | n + 1, v => v % 256 * 256 ^ n + bswapN n (v / 256)

/-- Trailing zero bits among the low `n`; `n` when there is no one bit. -/
def ctzN : Nat → Nat → Nat
  | 0, _ => 0
  | n + 1, v => if v % 2 = 1 then 0 else 1 + ctzN n (v / 2)

/-- Leading zero bits of the low `n` bits. -/
def clzN (n v : Nat) : Nat :=
  let u := v % 2 ^ n
  if u = 0 then n else n - 1 - Nat.log2 u

/-- Rounded up quotient. -/
def ceilDiv (a b : Nat) : Nat := (a + b - 1) / b

/-- The index of the lowest number below `n` for which `p` holds. -/
def findBelow (p : Nat → Bool) (n : Nat) : Option Nat := (List.range n).find? p

/-- The bits of a list of truth values, the first one lowest. -/
def maskOf : List Bool → Nat
  | [] => 0
  | b :: bs => b2n b + 2 * maskOf bs

end Sys2Proof.Machine
end

