-- ==== Sys2Proof/Machine/State.lean ====
section
/-!
DEFINITION. The state of the machine, as plain data: memory, the activations, the cores and clusters, the contexts, the
work in flight (launches, groups, queues, barriers, messages), coherence, links and the device's own registers, and the
plan that says which agent moves next.  Every register and counter is a natural number below the bound its rule
gives; the rule is named beside the field.  Where the manual gives no reset value the assumption log names one
(DESIGN CHOICE, notes/assumptions/6.md).
-/

namespace Sys2Proof.Machine

/-- Why a step stops with a fault. -/
inductive Fault where
  /-- A control or management core (which uses physical addresses, 24 R436) accesses a physical address that 23 R411
  gives no memory.  Raised by the physical accesses.  Safe: the machine stops where the hardware does something the
  manual does not describe. -/
  | noPhysicalMemory (pa : Nat)
deriving DecidableEq, Repr

/-- Why the model has no meaning to give. -/
inductive Refusal where
  /-- The instruction has no meaning in the model yet.  Raised only by the arms of `exec` that say so.  Safe. -/
  | notModelled (mnemonic : String)
deriving DecidableEq, Repr

/-- A finite map from numbers, as a list with strictly rising keys. -/
abbrev FMap (α : Type) := List (Nat × α)

/-- The level of an activation (24 R436). -/
inductive Level where
  | user | sup | fw
deriving DecidableEq, Repr

/-- The blocking waits of R254, each with what ends it. -/
inductive Wait where
  /-- `sendw`: the target word and payload, and the register written 1 (10 R264). -/
  | send (d target : Nat) (payload : List Nat) (late : Bool)
  /-- `tlwait` for counter `kind` to reach `n` (07 R180). -/
  | tl (kind n : Nat)
  /-- `barr` or `bwait` on a barrier, until `phase` completes (13 R304); `d` is the register of `barr`, 0 for none. -/
  | barrier (key phase d word : Nat)
  /-- `gang` with a tag and member mask (08 R213). -/
  | gang (tag mask : Nat)
  /-- `gmeet` with a tag (08 R215). -/
  | gmeet (tag : Nat)
  /-- `pacq` waiting for a slot of a pipe (15 R323). -/
  | pacq (d pipe : Nat) (order : Nat)
  /-- `pfill` waiting for a slot (15 R325): source, count and completion class. -/
  | pfill (d pipe src count q : Nat) (order : Nat)
  /-- `mts` to QCMD whose read of QDESC faulted (24 R452). -/
  | qcmd (queue op grp : Nat)
  /-- `lstat` waiting for a link to reach a state (26 R468). -/
  | link (d kind idx : Nat)
  /-- `tlbinv` waiting for the requests translated before it (23 R417, R434): its context and range. -/
  | drain (d ctx lo hi : Nat)
  /-- A thread that a supervisor killed waits for its commands; it has ended when they have (10 R255, 12 R299). -/
  | killed
deriving DecidableEq, Repr

/-- Where an activation stands (10 R254).  Pre-empted is not listed: it is having a higher level above it in the slot. -/
inductive Run where
  | ready
  | waiting (w : Wait)
  | faultWait (grp : Nat)
  | trapWait
deriving DecidableEq, Repr

/-- A reservation (07 R176): the line it covers, as a memory key divided by 128, and whether the line is translated. -/
structure Resv where
  line : Nat
deriving DecidableEq, Repr

/-- An open lookahead window (03 R72 to R74): the registers it covers with their old values and tails. -/
structure Win where
  n : Nat                       -- its number
  pc : Nat := 0                 -- address of the instruction that opened it
  left : Nat                    -- instructions still inside
  old : List (Nat × Nat × Nat)  -- register (32 + v × 64 + lane for a lane of vv), other bits and tail that may be read
  remote : Option (Nat × Nat) := none   -- link that carries its read, and the address read (26 R461, R466)
  landed : Bool := false        -- its read has completed (23 R417)
deriving DecidableEq, Repr

/-- An error not yet raised (03 R75, 07 R187): cause, sub-cause, trap value; `kind` and `n` name an engine command. -/
structure Late where
  code : Nat
  sub : Nat
  tval : Nat
  kind : Nat                    -- 0 copy, 1 matrix, 2 index, 3 none
  n : Nat
deriving DecidableEq, Repr

/-- The launch an activation belongs to (15 R315). -/
structure LaunchId where
  q : Nat
  lseq : Nat
  grp : Nat
  thr : Nat
  kern : Nat := 0                        -- kernel index in its phrase
deriving DecidableEq, Repr

/-- An activation: what the hardware itself keeps of one (10). -/
structure Act where
  id : Nat := 0
  ctx : Nat := 0
  die : Nat := 0
  cluster : Nat := 0
  core : Nat := 0
  slot : Nat := 0
  wp : Nat := 0                          -- 03 R64
  level : Level := .user
  pri : Nat := 0                         -- 10 R252
  orig : Nat := 0                        -- 10 R253
  det : Bool := false
  run : Run := .ready
  live : Bool := false                   -- false: ended, no activation
  parked : Option Nat := none            -- memory key of its park record, 10 R268
  launch : Option LaunchId := none
  clauseRec : Option Nat := none         -- record index in the clause area, 11 R276
  hasRoot : Bool := true                 -- whether ROOT names a thread, 11 R280
  inb : Option Nat := none               -- inbound entry of a handler, 10 R261
  grant : Nat := 0                       -- 08 R190
  saved : Nat := 0                       -- lanes written to the save area, 08 R193
  laneAt : Nat := 0                      -- where they were written
  vr : FMap Nat := []                    -- lanes: register × 64 + lane ↦ bits + 2^32 × tail, 08 R194
  resv : Option Resv := none             -- 07 R176
  wins : List Win := []
  late : List Late := []
  arrivals : List (Nat × Nat) := []      -- pending arrivals (barrier key, phase), 13 R305
  gang : Option Nat := none              -- gang number, 08 R213
  attached : Bool := false
  behind : Bool := false                 -- an attached follower that has not completed the leader's last instruction (08 R214)
  wd : Nat := 0                          -- its die's CYCLE when the watchdog's count last began, 10 R269
  wsp : Bool := false                    -- in trap-wait with cause WSP, 03 R64
  lastPc : Nat := 0                      -- 10 R269
  lost : Nat := 0                        -- 26 R464
  posted : Nat := 0                      -- posted writes not acknowledged, 26 R464
  roots : Nat := 0                       -- cnew count of a thread, 11 R280
  sends : Nat := 0                       -- 13 R308
  view : List Nat := [0, 0, 0, 0, 0, 0, 0]  -- by scope: clock up to which its later accesses see what others had made visible (06 R146)
  sawAt : Nat := 0                       -- clock at which a load of it last met a write on record (06 R145)
  fenced : List Nat := [0, 0, 0, 0, 0, 0]  -- clock below which its stores are ordered before later cr, cw, mr, mw, nr, nw (06 R145)
  loadFenced : List Nat := [0, 0, 0, 0, 0, 0]  -- the same for what its loads had seen
  shadow : Option Nat := none            -- queue whose shadow it belongs to, 17 R345
  atYield : Bool := false                -- its last instruction was a yield point, 10 R266
  remote : Option (Nat × Nat) := none    -- link and address of the last read over a link by this instruction
  parkOrder : Nat := 0
  parkVa : Nat := 0                      -- virtual address of its park record, 10 R268
  failing : Option (Nat × Nat) := none   -- an error reply on its way: sub-case, and address divided by 128 (23 R424)
deriving DecidableEq, Repr

/-- A plane of the matrix unit (09 R222): its stored elements by column × 256 + k, block scales, selection nibbles, and
the record it was loaded from. -/
structure Plane where
  state : Nat := 0                       -- 0 empty, 1 dense, 2 sparse
  fmt : Nat := 0
  map : List Nat := []                   -- the eight words of its tensor map
  ctl : Nat := 0
  nibbles : Nat := 0                     -- address of the selection metadata
  elems : FMap Nat := []                 -- column × 256 + k ↦ bits, present elements only
  scales : FMap Nat := []                -- column × 16 + block ↦ E8S code
  sel : FMap Nat := []                   -- column × 128 + group ↦ nibble
  refetch : Bool := false                -- must be refetched before its next use, 09 R248
  at_ : Nat := 0                         -- clock of its load, which names it
  level : Level := .user                 -- level of the activation that loaded it (23 R415)
  broken : Nat := 0                      -- error of a refetch, 0 for none, with its SUB and address
  brokenSub : Nat := 0
  brokenAt : Nat := 0
deriving DecidableEq, Repr

/-- A command of an engine with what it captured at issue (07 R182, 09 R227). -/
structure Cmd where
  n : Nat                                -- number on its timeline
  op : Nat                               -- copy: 0 cpy, 1 cpyt, 2 cpyg, 3 pfill; matrix: fn codes; index: fn codes
  q : Nat := 0
  act : Nat := 0                         -- issuing activation
  ctx : Nat := 0
  level : Level := .user
  det : Bool := false
  launch : Option LaunchId := none
  args : List Nat := []                  -- operands captured at issue
  grp : Option Nat := none               -- replay group it waits on
  pc : Nat := 0                          -- address of the issuing instruction
  shadow : Option Nat := none
  prog : Nat := 0                        -- accesses already performed
  stuck : List (Nat × Nat) := []         -- of those, what waits for a replay: first, and one above the last (23 R420)
  flags : Nat := 0                       -- flags its elements have raised
  place : List Nat := []                 -- die, cluster, core, slot it was issued from
  ident : List Nat := []                 -- the accessor its accesses are charged to, 06 R156
  born : Nat := 0                        -- clock of its issue (15 R327)
  since : List Nat := [0, 0]             -- clock below which its issuer's stores are ordered before its reads and its writes
  low : List Nat := [0, 0]               -- the same for what its issuer's loads had seen
  view : List Nat := []                  -- its issuer's view when it was issued (06 R146)
  lost : Option Nat := none              -- address of a posted write of it that has been lost (26 R465)
deriving DecidableEq, Repr

/-- A segment table of the polynomial unit (08 R218): BP, C0 to C3 of each segment. -/
structure PolySeg where
  bp : Nat
  c0 : Nat
  c1 : Nat
  c2 : Nat
  c3 : Nat
deriving DecidableEq, Repr

/-- A request in the polynomial unit's queue (08 R220). -/
structure PolyReq where
  core : Nat
  act : Nat
  vd : Nat
  lanes : List Nat                       -- bits + 2^32 × tail, one for each lane of the grant at issue
  pc : Nat
  win : Nat := 0                         -- one above the number of its lookahead window, 0 for none
deriving DecidableEq, Repr

/-- A message on its way to a core, or waiting there (10 R258, R261). -/
structure Msg where
  n : Nat
  die : Nat := 0
  cluster : Nat := 0
  core : Nat := 0
  cls : Nat := 0
  words : List Nat := []                 -- eight words of the entry
  det : Bool := false
  sup : Bool := false                    -- a class-24 message to a cluster core
  ctx : Nat := 0
  act : Nat := 0                         -- for a completion message: the issuing activation (10 R260)
  err : Option Late := none              -- for a completion message: its error
  entry : Nat := 0                       -- inbound entry once written
  pri : Nat := 0                         -- dispatch entry as read at delivery
  wsn : Nat := 0
  addr : Nat := 0
  key : Nat × Nat × Nat := (0, 0, 0)     -- sender group, thread and sequence of a held message (13 R308)
  stamp : Nat × Nat := (0, 0)            -- gb and lb of the sender (13 R308)
  lid : Nat := 0                         -- launch it is held for: queue × 2^64 + LSEQ
  cap : Bool := false                    -- its dispatch entry was read when it was accepted (10 R264)
  own : Bool := false                    -- to the sender's own group
  snd : Nat := 0                         -- the activation that sent it, 0 for the hardware
deriving DecidableEq, Repr

/-- What the hardware keeps of the launch that a clause record belongs to (10 R253, 07 R480, 17 R340). -/
structure RecInfo where
  launch : Option LaunchId := none
  ctx : Nat := 0                         -- context of its maker
  det : Bool := false
  shadow : Option Nat := none
deriving DecidableEq, Repr

/-- A core (01 R13). -/
structure Core where
  seed : Nat := 0                        -- 02 R45
  tl : List Nat := [0, 0, 0]             -- tc, tm, tn (06 R150)
  issued : List Nat := [0, 0, 0]
  doneOut : List (Nat × Nat) := []       -- (kind, number) completed above the counter
  sc : List Nat := [0, 0, 0, 0]          -- 09 R243
  weight : Nat := 1                      -- 09 R244
  copies : List Cmd := []                -- 07 R187
  index : List Cmd := []                 -- 21 R401
  mq : List Cmd := []                    -- 09 R227
  active : Plane := {}
  shadowP : Plane := {}
  viewActive : List Nat := [0, 0, 0]     -- issue-time view of the active plane: state, format, extent (09 R228)
  viewShadow : List Nat := [0, 0, 0]
  acc : FMap Nat := []                   -- accumulator × 1024 + row × 64 + column ↦ bits + 2^32 × tail (09 R222)
  poly : List PolySeg := []              -- 08 R218
  inbound : List Nat := []               -- entries held (10 R261)
  queue : List Msg := []                 -- messages in inbound entries not started (10 R258)
  pend : List Msg := []                  -- messages that wait for a free entry
  cur : List Nat := [7, 7, 7, 7]         -- slot issued from last, by level (10 R257)
  roots : Nat := 0                       -- 11 R280
  arrival : Nat := 0                     -- 06 R154
  csel : Nat := 0                        -- 24 R452
  egress : List Nat := []                -- EGB0, EGL0, … (24 R448)
  sealed : Nat := 0
  reserved : List Nat := []              -- slots the distributor has reserved (12 R292)
  recs : FMap RecInfo := []              -- clause records in use: index ↦ what it belongs to
  l1 : FMap Nat := []                    -- L1: line ↦ its 128 bytes as filled (06 R142)
  parks : Nat := 0                       -- parked so far (orders R268)
  started : List Nat := []               -- launches in progress of which it has started a group (08 R218, 09 R223)
  frozen : Bool := false                 -- an egress violation froze the core (24 R448)
deriving DecidableEq, Repr

/-- A cluster (12 R292 to R294). -/
structure Cluster where
  awake : Nat := 1                       -- 0 gated, 1 awake, 2 waking
  wake293 : Bool := false                -- woken under R293
  lastCore : Nat := 7                    -- 09 R229
  tiles : Nat := 0                       -- consecutive tiles granted to it
  polyQ : List PolyReq := []             -- 08 R221
  owner : Option Nat := none             -- context that holds it (24 R440)
deriving DecidableEq, Repr

/-- A barrier (13 R302). -/
structure Barrier where
  v : Bool := false
  count : Nat := 0
  arrived : Nat := 0
  phase : Nat := 0
deriving DecidableEq, Repr

/-- A pipe of a phrase instance (15 R320). -/
structure Pipe where
  fromK : Nat := 0
  toK : Nat := 0
  slots : Nat := 0
  slotb : Nat := 0
  base : Nat := 0                        -- window-1 address of slot 0
  st : List Nat := []                    -- 0 empty, 1 filling, 2 filling with a copy in flight, 3 full, 4 draining
  pc : Nat := 0
  cc : Nat := 0
  closed : Bool := false
  abandoned : Bool := false
deriving DecidableEq, Repr

/-- A kernel descriptor as read (04 R96). -/
structure Kernel where
  entry : Nat := 0
  group : Nat := 1
  slots : Nat := 1
  tcmb : Nat := 0
  spadb : Nat := 0
  narg : Nat := 0
  flags : Nat := 0
  splitarg : Nat := 0
  phrase : Nat := 0
  mtch : Nat := 0
deriving DecidableEq, Repr

/-- A launch that has been taken up and has not completed (15, 16). -/
structure Launch where
  ctx : Nat := 0
  q : Nat := 0
  lseq : Nat := 0
  ng : Nat := 0                          -- groups or instances to run, after a split
  split : Nat := 1
  kernels : List Kernel := []
  pipes : List (List Nat) := []          -- id, SLOTS, SLOTB, FROM, TO of each pipe (04 R99)
  phrase : Bool := false
  det : Bool := false
  placed : Nat := 0                      -- groups placed so far
  ended : Nat := 0
  killed : Bool := false
  lb : Nat := 0                          -- 06 R156
  lbar : Option Nat := none              -- launch barrier (13 R303)
  cores : Bool := false
  prog : Bool := false
  admitted : Bool := true
  positions : List Nat := []             -- R296: the positions held
  assign : List Nat := []                -- R298: the position of each group
  argsIn : Bool := false                 -- its argument blocks are written (15 R315)
  partsAt : List Nat := []               -- blocks of its parts after the first, in the launch area (16 R337)
  begun : List Nat := []                 -- groups placed, where each has a position of its own (12 R298)
  args : List Nat := []
  recNg : Nat := 0                       -- NG of its record
  shadow : Bool := false
  nextAt : List Nat := []                -- groups started at each position (12 R296, R298)
  lastAt : List Nat := []                -- one above the last group that ran at each position (12 R296)
  acq : List (Nat × Nat) := []           -- what its take-up acquired, as ranges of places (16 R335, R338)
deriving DecidableEq, Repr

/-- A request parked for replay, or a thread's group (23 R420). -/
structure Parked where
  grp : Nat
  who : Nat                              -- 0 thread, 1 copy, 2 matrix, 3 index, 6 queue, 7 QCMD, 8 plane refetch, 9 reclamation
  id : Nat                               -- activation, or core key × 2^64 + number or clock of a plane's load, or queue, or index base
  cause : Nat
  addr : Nat
  pages : List Nat := []                 -- further faulting addresses of the request
  eng : Nat := 0                         -- its engine code (23 R421)
  die : Nat := 8                         -- die whose replay buffer holds it, 8 for none or as its number says (23 R420)
deriving DecidableEq, Repr

/-- A group that is resident, or swapped out under R297. -/
structure Group where
  ctx : Nat := 0
  q : Nat := 0
  lseq : Nat := 0
  g : Nat := 0
  kern : Nat := 0                        -- kernel index in its phrase
  die : Nat := 0
  cluster : Nat := 0
  c0 : Nat := 0
  f : Nat := 1
  alive : Nat := 0                       -- threads not ended
  gb : Nat := 0                          -- 06 R156
  start : Bool := true                   -- false while it waits for its slots (12 R292)
  out : Bool := false                    -- swapped out (12 R297)
  position : Nat := 0
  saved : List (Nat × Nat) := []         -- bytes saved by a rotation (12 R297): key, value
  savedActs : List Act := []
  savedCores : List (Nat × Core) := []
  savedBar : Option Barrier := none
  image : Nat × Nat := (0, 0)            -- offset and bytes of its image in the group swap area (12 R297)
  replays : List (Bool × Parked) := []   -- requests of its threads replayed, or cancelled (true), while it was out
  trets : List (Nat × Nat) := []         -- trapped threads and the `tret` operation given to them while it was out
  shadow : Option Nat := none
deriving DecidableEq, Repr

/-- One entry of a predictor's history (17 R341). -/
structure Hist where
  kdesc : Nat
  entry : Nat
  ng : Nat
  mtch : Nat
  args : List Nat
  ok : Bool := true                      -- a launch like it may be predicted (17 R339)
deriving DecidableEq, Repr

/-- What the distributor has begun for a queue (15 R312, R315; 16 R332, R334). -/
structure Job where
  n : Nat                                -- LSEQ of the launch
  stage : Nat                            -- 0 HEAD, 1 the record, 2 descriptors, 3 the launch, 4 completion record, 5 TLC, 6 argument blocks
  status : Nat := 0
  word : Nat := 0                        -- the record as it was read
  got : List Nat := []                   -- descriptors and phrase records read, in order
  part : Nat := 0                        -- argument blocks written
  seen : Nat := 0                        -- TLC of the queue that the record waited on, when it was taken up
deriving DecidableEq, Repr

/-- A transition of a predictor (17 R341), most recently used first in its list. -/
structure Trans where
  src : Nat
  dst : Nat
  conf : Nat
deriving DecidableEq, Repr

/-- A shadow launch (17). -/
structure Shadow where
  st : Nat := 0                          -- 0 none, 1 running, 2 held, 3 adopted, 4 committing
  lseq : Nat := 0
  kdesc : Nat := 0
  ng : Nat := 0
  args : List Nat := []
  kernel : Kernel := {}
  store : FMap Nat := []                 -- byte key ↦ value: the shadow store (R347)
  lines : List (Nat × Nat × Nat) := []   -- lines charged, the die each is charged to, and an address of each
  regs : List Nat := []                  -- lines registered (R348)
  vas : List (Nat × Nat) := []           -- pages read or written: virtual page number, 1 when written
  waiting : List (Nat × Nat) := []       -- groups that wait for their position to be free: group, position
  dies : List Nat := []                  -- dies that its groups use
  wasAdopted : Bool := false
deriving DecidableEq, Repr

/-- A queue (16 R329). -/
structure Queue where
  ctx : Nat := 0
  st : Nat := 0                          -- 0 closed, 1 open, 2 halted
  desc : Nat := 0                        -- address of its descriptor
  pri : Nat := 0
  det : Bool := false
  hn : Bool := false
  dev : Bool := false
  err : Nat := 0
  ring : Nat := 0
  nrec : Nat := 0
  tail : Nat := 0
  head : Nat := 0
  tlc : Nat := 0
  cstat : Nat := 0
  idx : Nat := 0                         -- queue index (24 R440)
  done : List Nat := []                  -- launches completed above TLC
  stalled : Option Nat := none           -- replay group of a device access that faulted (16 R334)
  stallKind : Nat := 0                   -- 0 read of a record, 1 read of a descriptor, 2 a write of its own
  cancelled : Nat := 0                   -- status of the launch whose record or descriptor could not be read, 0 for none
  waits : Option Nat := none             -- the queue on whose counter its next record has been found to wait (16 R332)
  tailDue : Bool := false                -- TAIL is still to be written into its descriptor (16 R334)
  parts : FMap (List Nat) := []          -- launches that TLC has not reached ↦ blocks of their parts (15 R315)
  job : Option Job := none
  key : Option Nat := none               -- memory key of its descriptor, as its open read it
  hist : List Hist := []
  trans : List Trans := []
  counters : List Nat := []              -- 17 R354
  shadow : Shadow := {}
  predicted : Option (Nat × Nat × Nat × List Nat) := none   -- KDESC, NG, LSEQ, arguments (17 R343)
deriving DecidableEq, Repr

/-- A range-table entry (19 R369). -/
structure Range where
  base : Nat := 0
  npg : Nat := 0
  pid : Nat := 0
  det : Bool := false
deriving DecidableEq, Repr

/-- A row of a protocol table (04 R101). -/
structure PRow where
  st : Nat
  ev : Nat
  nx : Nat
  cls : Nat
  act : Nat
deriving DecidableEq, Repr

/-- A loaded protocol table (19 R378). -/
structure PTable where
  attrs : List Nat := []
  rows : List PRow := []
  upd : Bool := false
deriving DecidableEq, Repr

/-- An accepted operation of an index that has not been applied (21 R391). -/
structure IdxOp where
  seq : Nat
  ins : Bool
  slot : Nat := 0
  level : Nat := 0
  lists : List Nat := []
  ident : Nat
  pay : Nat := 0
  vec : List Nat := []
  core : Nat := 0                        -- core key and number of its command
  n : Nat := 0
deriving DecidableEq, Repr

/-- What the engines keep of an index beside its region's records (21 R389, R400): the working area's content. -/
structure Index where
  size : Nat := 0                        -- bytes of its region
  tpl : Nat := 0                         -- its template as `ninit` read it
  frames : List Nat := []                -- physical pages of its region, as `ninit` found them
  ops : List IdxOp := []                 -- accepted and not applied, rising
  slots : List Nat := []                 -- entry slots in use or reserved
  pool : List Nat := []                  -- lists in use or reserved
  broken : Bool := false
  foreign : Bool := false                -- another party has written into its region (21 R388)
  recl : Option Nat := none              -- replay group of a reclamation access
deriving DecidableEq, Repr

/-- A contribution to an ordered-reduce range (07 R173, 19 R365). -/
structure Contrib where
  key : Nat                              -- memory key of the location
  order : List Nat                       -- the sort key of R173 and R480
  keyed : Bool
  q : Nat
  lseq : Nat
  kind : Nat                             -- 0 FP64, 1 FP32, 2 I64, 3 I32
  bits : Nat
  tail : Nat
  va : Nat
  seqNo : Nat                            -- arrival at the home
  act : Nat
deriving DecidableEq, Repr

/-- An access record (06 R156). -/
structure AccRec where
  first : List Nat                       -- the first accessor: group, thread and clause path
  gb : Nat
  lb : Nat
  other : Bool
  written : Bool
deriving DecidableEq, Repr

/-- A context (24). -/
structure Ctx where
  st : Nat := 0                          -- CSTAT code (24 R452)
  fast : Bool := false
  before : Nat := 0
  reason : Nat := 0
  frzval : Nat := 0
  everFrozen : Bool := false
  desc : List Nat := []                  -- the 32 words of its descriptor (24 R439)
  root : Nat := 0                        -- 23 R412
  swapped : Bool := false                -- has been swapped in since it was created (24 R442)
  wdog : Nat := 28
  slice : Nat := 20
  shallot : Nat := 0
  qdesc : Nat := 0
  qres : Nat := 0
  ranges : FMap Range := []
  tables : FMap PTable := []             -- 6 and 7
  grpNo : Nat := 1                       -- next replay group (23 R420)
  held : List (List Nat) := []           -- fault records held (23 R422)
  meas : Nat := 0                        -- 24 R451
  parked : List Parked := []             -- 23 R420
  indexes : FMap Index := []
  contribs : List Contrib := []
  recs : FMap AccRec := []               -- launch × 2^64 + line
  clov : FMap Nat := []                  -- overflow slot ↦ 2 × core key for a record, 2 × address + 1 for a forward (11 R286)
  clovInfo : FMap RecInfo := []          -- overflow slot ↦ what its record belongs to
  cloOrder : List Nat := []              -- overflow records in the order they were made
  heldMsgs : List Msg := []              -- 13 R308
  savedActs : List Act := []             -- activations of a switched-out context
  savedCores : List (Nat × Core) := []
  savedBytes : List (Nat × Nat) := []    -- workspaces, and after a full swap-out TCM and scratchpad: key, value
  savedGroups : List Group := []
  savedBars : FMap Barrier := []         -- barriers of its cores and clusters
  dropped : List (Nat × Nat) := []       -- groups replayed (0) or cancelled (1) while it was out (24 R443)
  trets : List (Nat × Nat) := []         -- activations resumed (0), killed (1) or reported to (2) while it was out
  lastQ : List Nat := [1023, 1023, 1023, 1023]   -- queue served last, by PRI (16 R333)
deriving DecidableEq, Repr

/-- A protocol message in flight (19 R360, R372): the event it raises and where. -/
structure CohMsg where
  ev : Nat                               -- 0 reqr, 1 reqw, 2 wb, 3 push, 4 to 7 fwdrd … recall, 8 updin, 9 data, …
  die : Nat                              -- the die it concerns
  line : Nat
  src : Nat := 0                         -- the die it comes from
  pid : Nat := 0
  owner : Nat := 0
  bytes : List (Nat × Nat) := []         -- pushed bytes: offset and value
  n : Nat := 0                           -- number of the write it pushes; the event that an acknowledgement answers
  ctx : Nat := 64                        -- of a request: its context, 64 for none, and its address (19 R360)
  va : Nat := 0
  quiet : Bool := false                  -- its fill is not counted (23 R426)
  bare : Bool := false                   -- a grant that carries no bytes (20 R382)
deriving DecidableEq, Repr

/-- What a die's L2 has of a line (19 R358, R362): the state number of its protocol, a transient one while it waits. -/
structure Copy where
  st : Nat
  pid : Nat
  owner : Nat                            -- owning context of ids 6 and 7
  own : Bool := false                    -- the last stable state was dirty or exclusive
  pend : List CohMsg := []               -- local accesses that wait (R374)
  got : Nat := 0                         -- of an ownership request: 1 the owner's data has come, 2 the grant has (20 R382)
  ready : List Nat := []                 -- waiting accesses that a loaded table's row has performed
deriving DecidableEq, Repr

/-- A write under the update class that a holder does not read yet (06 R149). -/
structure UpdWrite where
  n : Nat                                -- its place in the order of such writes
  act : Nat := 0                         -- the activation that made it
  cmd : Option (Nat × Nat × Nat) := none -- core key, kind and number of the command that made it, until its core has waited for it
  launch : Option (Nat × Nat) := none    -- queue and LSEQ of its launch
  rel : List (Nat × Nat × Nat) := []     -- releases of its writer after it: where it can be acquired, scope, core key
  fen : List (Nat × Nat) := []           -- fences of its writer after it: activation and scope
  bytes : List (Nat × Nat)               -- offset and value
deriving DecidableEq, Repr

/-- What a die that holds a line under the update class reads of it (06 R149): the bytes, and the writes still to come. -/
structure UpdView where
  base : Nat
  pend : List UpdWrite := []
deriving DecidableEq, Repr

/-- A line's request in progress at its home (19 R360). -/
structure HomeBusy where
  req : CohMsg
  acks : Nat                             -- acknowledgements still awaited
  grant : Option Bool := none            -- after the last one ownership is granted, without bytes or with them; none: it is served anew
  waiting : List CohMsg := []
deriving DecidableEq, Repr

/-- Coherence, translation caches and the update class (19, 23 R416). -/
structure Coh where
  copies : FMap Copy := []               -- line × 8 + die
  busy : FMap HomeBusy := []
  msgs : List CohMsg := []
  stale : List Nat := []                 -- lines whose memory device copy is older than their value
  poison : List Nat := []                -- poisoned lines (26 R461)
  tlb : FMap (List Nat) := []            -- ((die × 64 + context) × 4 + level) × 2^40 + page number ↦ table entries its TLBs hold
  ats : FMap (Nat × Nat) := []           -- context × 2^64 + host page ↦ physical page and permissions
  fills : List Nat := [0, 0, 0, 0, 0, 0] -- 23 R426
  upd : FMap UpdView := []               -- update class: line × 8 + die ↦ what that die reads (06 R149)
  writes : Nat := 0                      -- writes so far under the update class
  used : FMap Nat := []                  -- line ↦ clock of the last request its home served (19 R359)
  repl : FMap (List Nat) := []           -- replicas: launch × 2^80 + (line × 4 + die) × 64 + slice ↦ contents held since the first fill (06 R141)
  pages : FMap Nat := []                 -- decompressed copies: descriptor address ↦ parity of its index (23 R429)
  pageVas : FMap (List Nat) := []        -- the same ↦ context × 2^40 + page number of each address that named the page
  arrivals : Nat := 0                    -- arrivals of contributions
  code : FMap (List Nat) := []           -- launch × 2^80 + halfword ↦ what it held before stores of that launch (03 R58)
deriving DecidableEq, Repr

/-- A write that some access may still miss, as what bytes of an aligned 8-byte word held before it (06 R147, R151,
07 R188). -/
structure Past where
  word : Nat                             -- memory key divided by 8
  lo : Nat                               -- its first byte and how many
  len : Nat
  old : Nat                              -- what they held
  at_ : Nat                              -- clock of the write
  act : Nat                              -- the activation that wrote, 0 for the hardware
  ck : Nat := 0                          -- core key of the writer
  cmd : Option (Nat × Nat × Nat) := none -- core key, kind and number of the command that wrote
  launch : Option (Nat × Nat) := none    -- queue and LSEQ of its launch
  mca : Bool := true                     -- it becomes visible to every other party at one moment (06 R148)
  known : List Nat := []                 -- parties that have seen it
  miss : List Nat := []                  -- commands whose reads of the word have missed it
  rel : List (Nat × Nat × Nat) := []     -- releases after it: where they can be acquired, scope, core key
  fen : List (Nat × Nat) := []           -- fences after it: activation and scope
  vis : List (Nat × Nat × Nat) := []     -- instances in which it is visible, by scope and core key, and since which clock
deriving DecidableEq, Repr

/-- A posted write on its way (26 R464): who made it, and what its bytes held before and after. -/
structure Posted where
  act : Nat
  ctx : Nat
  key : Nat
  n : Nat
  old : Nat
  new : Nat
  va : Nat := 0
  cmd : Option (Nat × Nat × Nat) := none -- core key, kind and number of the command that wrote
deriving DecidableEq, Repr

/-- A link (26 R457, R469). -/
structure Link where
  st : Nat := 0                          -- 0 down, 1 training, 2 up, 3 retraining, 4 quiesced, 5 isolated, 6 failed
  lost : Nat := 0
  retr : Nat := 0
  rate : Nat := 0
  width : Nat := 0
  mode : Nat := 0
  fails : Nat := 0                       -- failed trainings in a row
  declared : Bool := false               -- declared down since it was last up
  posted : List Posted := []             -- unacknowledged
deriving DecidableEq, Repr

/-- A die, for resets (26 R470) and its carve-out (06 R139). -/
structure Die where
  dstate : Nat := 0
  carve : Nat := 0
  cycle : Nat := 0                       -- 03 R66
deriving DecidableEq, Repr

/-- The device's own registers (27 R472). -/
structure Dev where
  ready : Bool := false
  bootStep : Nat := 0
  bootErr : Nat := 0
  throt : Bool := false
  capped : Bool := false
  trip : Bool := false
  devnum : Nat := 0
  devSet : Bool := false
  pcap : Nat := 3200
  power : Nat := 0
  clock : Nat := 1900                    -- as the power controller asks
  tclock : Nat := 1900                   -- as the thermal controller asks (27 R475)
  cool : Nat := 0                        -- thermal samples since a die last read 95 or more
  below : Nat := 0                       -- samples since the draw last exceeded PCAP - 50 (27 R474)
  temp : Nat := 0
  awake : Nat := 0
  repres : Nat := 0
  heath : Nat := 0
  heatf : Nat := 0
  logBase : Nat := 0
  logHead : Nat := 0
  logTail : Nat := 0
  logDrop : Nat := 0
  route : FMap Nat := []
  filter : FMap Nat := []
  pbroot : FMap Nat := []
  doe : List Nat := []                   -- bytes of the last DOE response, its type first (27 R476)
  msix : List Nat := []                  -- vectors signalled, newest first (27 R478)
  ckpt : Option (List Nat) := none       -- running checkpoint (23 R431): mask, SRC, LEN, DST, MAP; of STAT: key, kind, page descriptor, context, address
  ckptMem : List Host.Cell := []         -- its source when it started
  ckptAt : Nat := 0                      -- clock of its start
  decoders : List (Nat × Nat × List Nat) := []   -- 26 R460: base, limit, ports
  uncommitted : List (Nat × Nat) := []   -- far-tier addresses that dynamic-capacity devices have not committed (26 R461): first, last
  persist : List Nat := []               -- far-tier ports whose devices report persistence at write completion (23 R432)
deriving DecidableEq, Repr

/-- Launches, groups, queues, barriers and messages. -/
structure Work where
  launches : List Launch := []
  groups : List Group := []
  queues : FMap Queue := []
  barriers : FMap Barrier := []          -- key of Barrier.lean
  pipes : FMap Pipe := []
  msgs : List Msg := []                  -- messages in flight
  nextMsg : Nat := 0
  gangs : FMap (Nat × List Nat) := []    -- gang ↦ leader, members
deriving DecidableEq, Repr

/-- A turn that the plan gives to an agent: a step of another agent than a core, or the issue of one instruction by a
core (its core key). -/
inductive Turn where
  | event (i : Instr)
  | issue (core : Nat)
deriving DecidableEq, Repr

/-- Which agent moves next, and the counters that number free values. -/
structure Sched where
  plan : List Turn := []                 -- turns still to come, first one next (DESIGN CHOICE, notes/assumptions/4.md)
  free : Nat := 0                        -- how many free values have been drawn
  clock : Nat := 0                       -- steps so far, for orders of arrival
  nextAct : Nat := 1                     -- next activation number
  nextWin : Nat := 0
  snap : List (Nat × FMap Nat) := []     -- vector registers of gangs' members before the instruction (08 R217)
deriving DecidableEq, Repr

/-- The machine. -/
structure State where
  mem : List Host.Cell := []             -- every memory and every workspace, in one canonical list
  cur : Act := {}                        -- the activation that issues
  acts : FMap Act := []                  -- the other activations
  cores : FMap Core := []                -- cores that differ from their reset value
  clusters : FMap Cluster := []
  ctxs : FMap Ctx := []
  work : Work := {}
  coh : Coh := {}
  links : FMap Link := []                -- kind × 256 + index
  dies : FMap Die := []
  dev : Dev := {}
  race : List Past := []                 -- oldest first (06 R151)
  sched : Sched := {}
deriving DecidableEq, Repr

/-- The machine right after cold reset: every field at the value its rule gives, or the one that
notes/assumptions/6.md names (DESIGN CHOICE); memory with nothing listed. -/
def State.reset : State := {}

end Sys2Proof.Machine
end

