-- ==== Sys2Proof/Machine/Update.lean ====
section
/-!
DEFINITION. Finite maps, and one named update for each field of State.
-/

namespace Sys2Proof.Machine

/-- The value of a key. -/
def FMap.get? {α : Type} : FMap α → Nat → Option α
  | [], _ => none
  | (k, v) :: m, x => if k = x then some v else FMap.get? m x

/-- The value of a key, or a default. -/
def FMap.getD {α : Type} (m : FMap α) (x : Nat) (d : α) : α := (FMap.get? m x).getD d

/-- The map with a key set. -/
def FMap.put {α : Type} : FMap α → Nat → α → FMap α
  | [], x, v => [(x, v)]
  | (k, w) :: m, x, v =>
    if x < k then (x, v) :: (k, w) :: m else if x = k then (x, v) :: m else (k, w) :: FMap.put m x v

/-- The map without a key. -/
def FMap.del {α : Type} (m : FMap α) (x : Nat) : FMap α := m.filter fun p => p.1 != x

/-- The values of a map, by rising key. -/
def FMap.vals {α : Type} (m : FMap α) : List α := m.map (·.2)

/-- The map with every value changed. -/
def FMap.mapV {α β : Type} (f : Nat → α → β) (m : FMap α) : FMap β := m.map fun p => (p.1, f p.1 p.2)

/-- Whether the keys rise strictly. -/
def FMap.wf {α : Type} : FMap α → Bool
  | [] => true
  | [_] => true
  | p :: q :: m => decide (p.1 < q.1) && FMap.wf (q :: m)

def State.setMem (s : State) (v : List Host.Cell) : State := { s with mem := v }
def State.setCur (s : State) (v : Act) : State := { s with cur := v }
def State.setActs (s : State) (v : FMap Act) : State := { s with acts := v }
def State.setCores (s : State) (v : FMap Core) : State := { s with cores := v }
def State.setClusters (s : State) (v : FMap Cluster) : State := { s with clusters := v }
def State.setCtxs (s : State) (v : FMap Ctx) : State := { s with ctxs := v }
def State.setWork (s : State) (v : Work) : State := { s with work := v }
def State.setCoh (s : State) (v : Coh) : State := { s with coh := v }
def State.setLinks (s : State) (v : FMap Link) : State := { s with links := v }
def State.setDies (s : State) (v : FMap Die) : State := { s with dies := v }
def State.setDev (s : State) (v : Dev) : State := { s with dev := v }
def State.setRace (s : State) (v : List Past) : State := { s with race := v }
def State.setSched (s : State) (v : Sched) : State := { s with sched := v }

/-- The activation that issues, changed. -/
def State.modCur (s : State) (f : Act → Act) : State := s.setCur (f s.cur)

/-- The state of a core (its reset value when nothing has changed it). -/
def State.core (s : State) (k : Nat) : Core := s.cores.getD k {}

def State.modCore (s : State) (k : Nat) (f : Core → Core) : State := s.setCores (s.cores.put k (f (s.core k)))

/-- The state of a cluster, by die × 1024 + cluster. -/
def State.cluster (s : State) (k : Nat) : Cluster := s.clusters.getD k {}

def State.modCluster (s : State) (k : Nat) (f : Cluster → Cluster) : State :=
  s.setClusters (s.clusters.put k (f (s.cluster k)))

/-- The state of a context. -/
def State.ctx (s : State) (c : Nat) : Ctx := s.ctxs.getD c {}

def State.modCtx (s : State) (c : Nat) (f : Ctx → Ctx) : State := s.setCtxs (s.ctxs.put c (f (s.ctx c)))

def State.modWork (s : State) (f : Work → Work) : State := s.setWork (f s.work)

def State.modCoh (s : State) (f : Coh → Coh) : State := s.setCoh (f s.coh)

def State.modDev (s : State) (f : Dev → Dev) : State := s.setDev (f s.dev)

def State.modSched (s : State) (f : Sched → Sched) : State := s.setSched (f s.sched)

/-- The state of a link, by kind × 256 + index. -/
def State.link (s : State) (k : Nat) : Link := s.links.getD k {}

def State.modLink (s : State) (k : Nat) (f : Link → Link) : State := s.setLinks (s.links.put k (f (s.link k)))

def State.die (s : State) (k : Nat) : Die := s.dies.getD k {}

def State.modDie (s : State) (k : Nat) (f : Die → Die) : State := s.setDies (s.dies.put k (f (s.die k)))

/-- The state of a queue. -/
def State.queue (s : State) (q : Nat) : Queue := s.work.queues.getD q {}

def State.modQueue (s : State) (q : Nat) (f : Queue → Queue) : State :=
  s.modWork fun w => { w with queues := w.queues.put q (f (s.queue q)) }

end Sys2Proof.Machine
end

