-- ==== Sys2Proof/Machine/Ops.lean ====
section
/-!
DEFINITION. The named operations: memory, registers as workspace words, the status word, messages on their way,
freezing a context, discarding a shadow, and taking a trap.
-/

namespace Sys2Proof.Machine

/-- What a step answers. -/
abbrev Out := Host.Outcome State Fault Refusal

/-- The result of a part of an instruction: a value and the state, a stop already taken (a trap, or a fault-wait), or
an address that does not exist. -/
inductive Res (α : Type) where
  | ok (a : α) (s : State)
  | stop (s : State)
  | fault (f : Fault)

def Res.bind {α β : Type} (r : Res α) (f : α → State → Res β) : Res β :=
  match r with
  | .ok a s => f a s
  | .stop s => .stop s
  | .fault e => .fault e

/-- The end of an instruction: what it does to the state with the value it has found. -/
def Res.done {α : Type} (r : Res α) (f : α → State → State) : Out :=
  match r with
  | .ok a s => .next (f a s)
  | .stop s => .next s
  | .fault e => .fault e

/-- The end of an instruction that may still stop. -/
def Res.out {α : Type} (r : Res α) (f : α → State → Out) : Out :=
  match r with
  | .ok a s => f a s
  | .stop s => .next s
  | .fault e => .fault e

/-- A stop or an address that does not exist, as the end of an instruction. -/
def Res.halt {α : Type} (r : Res α) : Out :=
  match r with
  | .ok _ s => .next s
  | .stop s => .next s
  | .fault e => .fault e

/-! ### Memory -/

/-- The byte at an address; a byte that is not listed reads 0 (DESIGN CHOICE, notes/assumptions/1.md). -/
def Memory.read : List Host.Cell → Nat → Byte
  | [], _ => 0
  | (k, b) :: m, a => if k = a then b else Memory.read m a

/-- Insert a cell by its address. -/
def Memory.insert : List Host.Cell → Nat → Byte → List Host.Cell
  | [], a, b => [(a, b)]
  | (k, c) :: m, a, b => if a < k then (a, b) :: (k, c) :: m else (k, c) :: Memory.insert m a b

/-- Write a byte; the byte that an unlisted address reads as is not listed. -/
def Memory.write (m : List Host.Cell) (a : Nat) (b : Byte) : List Host.Cell :=
  if b = 0 then m.filter (fun p => p.1 != a) else Memory.insert (m.filter (fun p => p.1 != a)) a b

/-- The canonical form: addresses strictly rising, and no byte equal to what an unlisted address reads as. -/
def Memory.wf : List Host.Cell → Bool
  | [] => true
  | [p] => p.2 != 0
  | p :: q :: m => p.2 != 0 && decide (p.1 < q.1) && Memory.wf (q :: m)

/-- `n` bytes from an address, as a little-endian value. -/
def Memory.readN (m : List Host.Cell) (a : Nat) : Nat → Nat
  | 0 => 0
  | n + 1 => (Memory.read m a).toNat + 256 * Memory.readN m (a + 1) n

/-- Write the low `n` bytes of a value. -/
def Memory.writeN (m : List Host.Cell) (a : Nat) : Nat → Nat → List Host.Cell
  | 0, _ => m
  | n + 1, v => Memory.writeN (Memory.write m a (BitVec.ofNat 8 v)) (a + 1) n (v / 256)

/-- The cells outside [lo, hi): everything inside reads zero again. -/
def Memory.zero (m : List Host.Cell) (lo hi : Nat) : List Host.Cell := m.filter fun p => decide (p.1 < lo ∨ hi ≤ p.1)

def State.rd (s : State) (a : Nat) : Byte := Memory.read s.mem a
def State.rdN (s : State) (a n : Nat) : Nat := Memory.readN s.mem a n
def State.wrN (s : State) (a n v : Nat) : State := s.setMem (Memory.writeN s.mem a n v)

/-- `n` bytes from an address. -/
def State.rdBytes (s : State) (a : Nat) : Nat → List Byte
  | 0 => []
  | n + 1 => s.rd a :: s.rdBytes (a + 1) n

/-- The keys of the memories: physical addresses are their own keys; the rest lie above 2^52 (DESIGN CHOICE, notes/assumptions/1.md). -/
def tcmKey (die cluster core off : Nat) : Nat :=
  0xF2000000000000 + die * 2 ^ 46 + cluster * 2 ^ 36 + core * 2 ^ 33 + off

def spadKey (die cluster off : Nat) : Nat := 0xF3000000000000 + die * 2 ^ 46 + cluster * 2 ^ 36 + off

def sramKey (die off : Nat) : Nat := 0xF4000000000000 + die * 2 ^ 46 + off

def hostKey (a : Nat) : Nat := 2 ^ 60 + a

def peerKey (dev pa : Nat) : Nat := 2 ^ 61 + dev * 2 ^ 52 + pa

/-- The decompressed copy of a page, by its descriptor's physical address (23 R429).
[DESIGN CHOICE, notes/assumptions/1.md] -/
def compKey (desc off : Nat) : Nat := 2 ^ 70 + desc * 65536 + off

/-- Core and cluster numbers of the maps. -/
def clusterKey (die cluster : Nat) : Nat := die * 1024 + cluster
def coreKey (die cluster core : Nat) : Nat := (die * 1024 + cluster) * 8 + core

/-- The cluster codes of the control cores and of the management cores (DESIGN CHOICE, notes/assumptions/10.md). -/
def ctlCluster : Nat := 1000
def mgmtCluster : Nat := 1001

def Act.coreKey (a : Act) : Nat := Machine.coreKey a.die a.cluster a.core
def Act.clusterKey (a : Act) : Nat := Machine.clusterKey a.die a.cluster

/-- Whether an activation runs on a control or management core (24 R436). [DESIGN CHOICE, notes/assumptions/10.md] -/
def Act.onControl (a : Act) : Bool := decide (ctlCluster ≤ a.cluster)

/-! ### Registers as workspace words (03 R59 to R61) -/

/-- The first byte of an activation's workspace: in its core's TCM, or its park record (10 R268). -/
def Act.wsKey (a : Act) : Nat :=
  match a.parked with
  | some k => k
  | none => tcmKey a.die a.cluster a.core a.wp

def State.ws (s : State) (off n : Nat) : Nat := s.rdN (s.cur.wsKey + off) n
def State.setWs (s : State) (off n v : Nat) : State := s.wrN (s.cur.wsKey + off) n v

/-- reg(k): x0 reads 0. [DEDUCED, notes/assumptions/11.md] -/
def State.reg (s : State) (k : Nat) : Nat := if k = 0 then 0 else s.ws (8 * k) 8

/-- tb(k): the tail byte of xk. -/
def State.tb (s : State) (k : Nat) : Nat := if k = 0 then 0 else s.ws (0x100 + k) 1

/-- setreg(k, v, t): one write of the 64 bits and the tail byte; a write to x0 is discarded.
[DEDUCED, notes/assumptions/11.md] -/
def State.setReg (s : State) (k v t : Nat) : State :=
  if k = 0 then s else (s.setWs (8 * k) 8 v).setWs (0x100 + k) 1 t

/-- The PC word, whose bits [63:56] read 0 (03 R56). -/
def State.pc (s : State) : Nat := s.ws 0 8 % 2 ^ 56

def State.setPc (s : State) (v : Nat) : State := s.setWs 0 8 (v % 2 ^ 56)

/-- The instruction is complete: the PC moves past its `n` bytes. [DEDUCED, notes/assumptions/12.md] -/
def State.retire (s : State) (n : Nat) : State := s.setPc (s.pc + n)

/-- The status word (02 R44, 10 R253). -/
def State.st (s : State) : Nat := s.ws 0x120 8

/-- ST.RM. -/
def State.rm (s : State) : Nat := s.st % 8

/-- OR flags into ST (02 R44). -/
def State.orFlags (s : State) (f : Nat) : State :=
  if f = 0 then s else s.setWs 0x120 2 (Nat.lor (s.st % 65536) f)

/-- Set or clear a hardware bit of ST (10 R253). -/
def State.setStBit (s : State) (k : Nat) (b : Bool) : State := s.setWs 0x120 8 (setBits s.st k 1 (b2n b))

/-- The core that issues. -/
def State.myCore (s : State) : Core := s.core s.cur.coreKey
def State.modMyCore (s : State) (f : Core → Core) : State := s.modCore s.cur.coreKey f

/-- The context that issues. -/
def State.myCtx (s : State) : Ctx := s.ctx s.cur.ctx

/-- The place word of the issuer without the device (01 R13, 10 R261). -/
def Act.place (a : Act) : Nat := a.die * 65536 + a.cluster * 64 + a.core * 8 + a.slot

/-! ### Activations -/

/-- Make an activation the one that issues; the one that issued goes back among the others. -/
def State.focusOn (s : State) (id : Nat) : State :=
  if s.cur.id = id then s
  else
    match s.acts.get? id with
    | none => s
    | some a =>
      let rest := s.acts.del id
      (s.setActs (if s.cur.live then rest.put s.cur.id s.cur else rest)).setCur a

/-- Act as another activation and come back. -/
def State.onAct (s : State) (id : Nat) (f : State → State) : State :=
  let c := s.cur.id
  if c = id then f s
  else
    match s.acts.get? id with
    | none => s
    | some _ => (f (s.focusOn id)).focusOn c

/-- Every live activation. -/
def State.allActs (s : State) : List Act := (if s.cur.live then [s.cur] else []) ++ s.acts.vals

/-- An activation by number. -/
def State.act? (s : State) (id : Nat) : Option Act :=
  if s.cur.id = id && s.cur.live then some s.cur else s.acts.get? id

/-- Change every activation. -/
def State.mapActs (s : State) (f : Act → Act) : State :=
  (s.setCur (f s.cur)).setActs (s.acts.mapV fun _ a => f a)

/-- Change every activation that a swap or a rotation keeps away (24 R443, 12 R297). -/
def State.mapAway (s : State) (f : Act → Act) : State :=
  let g := fun (x : Group) => { x with savedActs := x.savedActs.map f }
  (s.modWork fun w => { w with groups := w.groups.map g }).setCtxs
    (s.ctxs.mapV fun _ x => { x with savedActs := x.savedActs.map f, savedGroups := x.savedGroups.map g })

/-- Whether an activation holds a slot. -/
def Act.inSlot (a : Act) : Bool := a.live && a.parked.isNone

/-- The activations of a slot. -/
def State.slotActs (s : State) (ck slot : Nat) : List Act :=
  s.allActs.filter fun a => a.inSlot && a.coreKey == ck && a.slot == slot

/-- Whether a slot of a core holds nothing. -/
def State.slotFree (s : State) (ck slot : Nat) : Bool := (s.slotActs ck slot).isEmpty

/-- Whether an activation is the top of its slot's stack (10 R250). -/
def State.isTop (s : State) (a : Act) : Bool :=
  (s.slotActs a.coreKey a.slot).all fun b => decide (b.pri ≤ a.pri)

/-! ### Free values -/

/-- The next free value. [DESIGN CHOICE, notes/assumptions/5.md] -/
def State.draw (s : State) : Nat × State :=
  (Config.freeBits s.sched.free, s.modSched fun q => { q with free := q.free + 1 })

/-- A free choice between two. [DESIGN CHOICE, notes/assumptions/5.md] -/
def State.flip (s : State) : Bool × State :=
  (decide (Config.freeBits s.sched.free % 2 = 1), s.modSched fun q => { q with free := q.free + 1 })

/-! ### The context's descriptor (24 R439) -/

def Ctx.word (c : Ctx) (off : Nat) : Nat := c.desc.getD (off / 8) 0

/-- An area word's base and size in bytes. -/
def Ctx.area (c : Ctx) (off : Nat) : Nat × Nat :=
  let w := c.word off
  (bits w 16 40 * 65536, w % 65536 * 65536)

/-- The run of a die: first cluster and count (24 R440). -/
def Ctx.runOf (c : Ctx) (die : Nat) : Nat × Nat :=
  let w := bits (if die < 2 then c.word 0 else c.word 0xF0) (32 * (die % 2)) 32
  (w % 1024, bits w 16 10)

/-- Whether a cluster belongs to the partition. -/
def Ctx.hasCluster (c : Ctx) (die cluster : Nat) : Bool :=
  let r := c.runOf die
  decide (die < 4 ∧ r.1 ≤ cluster ∧ cluster < r.1 + r.2)

/-- The clusters of the partition in ascending (die, cluster). -/
def Ctx.clusterList (c : Ctx) : List (Nat × Nat) :=
  (List.range 4).flatMap fun d =>
    let r := c.runOf d
    (List.range r.2).map fun k => (d, r.1 + k)

/-- The number of a core within the partition (24 R439). -/
def Ctx.coreIndex (c : Ctx) (die cluster core : Nat) : Nat :=
  let before := (List.range die).foldl (fun n d => n + (c.runOf d).2) 0
  (before + (cluster - (c.runOf die).1)) * 8 + core

/-- The number of cores NC of the partition. -/
def Ctx.nCores (c : Ctx) : Nat := (List.range 4).foldl (fun n d => n + (c.runOf d).2) 0 * 8

/-! ### Hardware messages and notices -/

/-- Put a message on its way; MESSAGE_ARRIVAL delivers it (10 R258). -/
def State.post (s : State) (m : Msg) : State :=
  s.modWork fun w => { w with msgs := w.msgs ++ [{ m with n := w.nextMsg }], nextMsg := w.nextMsg + 1 }

/-- A message of class 24 to a context's SUP control core (24 R439 NOTE, R450). -/
def State.postSup (s : State) (c : Nat) (words : List Nat) : State :=
  let note := (s.ctx c).word 0x98
  s.post { n := 0, die := bits note 20 2, cluster := ctlCluster, core := bits note 22 2, cls := 24, words := words, ctx := c }

/-- A notice to the supervisor core (24 R449): CODE 0 with a sub-code; the host too where the context names it. -/
def State.notice (s : State) (c sub tval : Nat) : State :=
  let s := s.postSup c [c * 2 ^ 41, sub * 256, tval, 0, 0, 0, 0, 0]
  if bit ((s.ctx c).word 0x98) 16 then s.modDev fun d => { d with msix := ((s.ctx c).word 0x98) % 65536 :: d.msix } else s

/-- CYCLE of a die (03 R66). [DESIGN CHOICE, notes/assumptions/8.md] -/
def State.cycle (s : State) (die : Nat) : Nat := (s.die die).cycle

/-! ### Timelines and barrier keys -/

/-- A counter moves over the numbers completed above it. -/
def tlAdvance (dones : List (Nat × Nat)) (kind : Nat) : Nat → Nat → Nat
  | 0, t => t
  | n + 1, t => if dones.contains (kind, t + 1) then tlAdvance dones kind n (t + 1) else t

/-- Count a number as completed (R150). -/
def Core.complete (c : Core) (kind n : Nat) : Core :=
  let dones := (kind, n) :: c.doneOut
  let t := tlAdvance dones kind dones.length (c.tl.getD kind 0)
  { c with tl := c.tl.set kind t, doneOut := dones.filter fun p => !(p.1 == kind && decide (p.2 ≤ t)) }

/-- The key of a barrier: kind 0 named, 1 group, 2 launch; scope; instance; id. -/
def barKey (kind scope inst id : Nat) : Nat := ((kind * 8 + scope) * 2 ^ 24 + inst) * 256 + id

def groupBarKey (die cluster c0 : Nat) : Nat := barKey 1 2 (clusterKey die cluster) c0
/-! ### Shadows (17 R350) -/

/-- Count an event of a queue's shadows (17 R354). -/
def Queue.count (q : Queue) (i : Nat) : Queue :=
  { q with counters := (List.range 13).map fun k => w64 (q.counters.getD k 0 + b2n (k == i)) }

/-- A core without what a shadow owns on it: its commands are cancelled, and their numbers count (06 R150), and its clause
records are free. -/
def Core.dropShadow (c : Core) (q : Nat) : Core :=
  let mine := fun (x : Cmd) => x.shadow == some q
  let nums := (c.copies.filter mine).map (fun x => (0, x.n)) ++ (c.mq.filter mine).map (fun x => (1, x.n))
    ++ (c.index.filter mine).map (fun x => (2, x.n))
  let keep := fun (x : Cmd) => !mine x
  let c := { c with copies := c.copies.filter keep, index := c.index.filter keep, mq := c.mq.filter keep,
                    recs := c.recs.filter fun r => r.2.shadow != some q }
  nums.foldl (fun c n => c.complete n.1 n.2) c

/-- A window-0 address (06 R134). -/
def win0 (off : Nat) : Nat := 0x00F0000000000000 + off

/-- A window-1 address. -/
def win1 (off : Nat) : Nat := 0x00F1000000000000 + off

/-- A window-2 address. -/
def win2 (die cluster core off : Nat) : Nat :=
  0x00F2000000000000 + die * 2 ^ 46 + cluster * 2 ^ 36 + core * 2 ^ 33 + off

/-- A record leaves the ready ring of its core (11 R278). -/
def State.ringDrop (s : State) (ck i : Nat) : State :=
  let t := fun (off : Nat) => tcmKey (ck / 8192) (ck / 8 % 1024) (ck % 8) off
  let hd := s.rdN (t 0x2800) 2
  let n := min 64 ((s.rdN (t 0x2802) 2 + 65536 - hd) % 65536)
  let es := (List.range n).map fun j => s.rdN (t (0x2804 + 2 * ((hd + j) % 64))) 2
  let keep := es.filter fun e => e % 64 != i
  if keep.length = n then s
  else
    (((List.range keep.length).zip keep).foldl (fun s p => s.wrN (t (0x2804 + 2 * ((hd + p.1) % 64))) 2 p.2) s).wrN
      (t 0x2802) 2 (hd + keep.length)

/-- The clause records of a shadow become free: they leave the ready rings, and forwards to them go (11 R286). -/
def State.freeShadowRecs (s : State) (q : Nat) : State :=
  let gone := s.cores.flatMap fun c => (c.2.recs.filter fun r => r.2.shadow == some q).map fun r => (c.1, r.1)
  let fwd := gone.map fun p => 2 * win2 (p.1 / 8192) (p.1 / 8 % 1024) (p.1 % 8) (0x1800 + 64 * p.2) + 1
  let s := gone.foldl (fun s p =>
    (s.ringDrop p.1 p.2).wrN (tcmKey (p.1 / 8192) (p.1 / 8 % 1024) (p.1 % 8) (0x1800 + 64 * p.2 + 12)) 4 0) s
  if gone.isEmpty then s
  else s.modCtx (s.queue q).ctx fun c => { c with clov := c.clov.filter fun p => !fwd.contains p.2 }

/-- A context without what a shadow leaves in it: overflow records (11 R286), access records and held messages. -/
def Ctx.dropShadow (c : Ctx) (q lseq : Nat) : Ctx :=
  let gone := (c.clovInfo.filter fun r => r.2.shadow == some q).map (·.1)
  { c with clov := c.clov.filter fun p => !gone.contains p.1
           clovInfo := c.clovInfo.filter fun p => !gone.contains p.1
           cloOrder := c.cloOrder.filter fun j => !gone.contains j
           recs := c.recs.filter fun p => p.1 / 2 ^ 80 != (q * 2 + 1) * 2 ^ 64 + lseq
           heldMsgs := c.heldMsgs.filter fun m => m.lid != q * 2 ^ 64 + lseq + 1 }

/-- Discard a queue's shadow with a reason, the counter's index: its threads end, its commands are cancelled, its store
and registrations are released, and an adopted launch is left to be placed normally (17 R350, R352). -/
def State.discardShadow (s : State) (q reason : Nat) : State :=
  let qu := s.queue q
  if qu.shadow.st = 0 then s
  else
    let adopted := decide (qu.shadow.st = 3 ∨ qu.shadow.st = 4)
    let lseq := qu.shadow.lseq
    let s := s.modQueue q fun x => { (x.count reason) with shadow := {} }
    let mine := (s.allActs.filter fun a => a.shadow == some q).map (·.id)
    let s := (s.freeShadowRecs q).modCtx qu.ctx fun c => c.dropShadow q lseq
    let s := s.setClusters (s.clusters.mapV fun _ k => { k with polyQ := k.polyQ.filter fun r => !mine.contains r.act })
    let s := s.setActs (s.acts.filter fun p => p.2.shadow != some q)
    let s := if s.cur.shadow = some q then s.modCur fun a => { a with live := false, shadow := none } else s
    let no := 2 * (q * 2 ^ 64 + lseq) + 1
    let s := s.setCores (s.cores.mapV fun _ c => { (c.dropShadow q) with started := c.started.filter (· != no) })
    let gone := s.work.groups.filter fun g => g.shadow == some q
    let held := fun (ck : Nat) => gone.any fun g =>
      !g.start && g.die == ck / 8192 && g.cluster == ck / 8 % 1024 && decide (g.c0 ≤ ck % 8 ∧ ck % 8 < g.c0 + g.f)
    let s := s.setCores (s.cores.mapV fun ck c => if held ck then { c with reserved := [] } else c)
    let place := fun (l : Launch) => if adopted ∧ l.q = q ∧ l.lseq = lseq then { l with placed := 0, begun := [], ended := 0, shadow := false, argsIn := false } else l
    s.modWork fun w =>
      { w with
        groups := w.groups.filter fun g => g.shadow != some q
        gangs := w.gangs.filter fun g => !mine.contains g.1
        barriers := gone.foldl (fun b g => FMap.del b (groupBarKey g.die g.cluster g.c0)) w.barriers
        launches := w.launches.map place }

/-- 17 R351: a shadow whose last group has ended, with every command of it complete, is held, or commits when it was adopted. -/
def State.shadowAdvance (s : State) (q : Nat) : State :=
  let h := (s.queue q).shadow
  let mine := fun (c : Cmd) => c.shadow == some q
  if (h.st = 1 ∨ h.st = 3) ∧ h.waiting.isEmpty ∧ !(s.work.groups.any fun g => g.shadow == some q)
      ∧ !(s.cores.any fun c => c.2.copies.any mine || c.2.mq.any mine || c.2.index.any mine) then
    s.modQueue q fun x => { x with shadow := { x.shadow with st := if h.st = 1 then 2 else 4 } }
  else s

/-- Mark a shadow as killed (17 R348): it is discarded at the same moment (R350). -/
def State.killShadows (s : State) (p : Queue → Bool) (reason : Nat) : State :=
  s.work.queues.foldl (fun s e => if e.2.shadow.st != 0 && p e.2 then s.discardShadow e.1 reason else s) s

/-- The effects of any write of `n` bytes on other parties: reservations on its lines are cancelled, but for those of the
writer (07 R177), and shadows registered on them are killed (17 R348). -/
def State.disturbKey (s : State) (own : Act → Bool) (key n : Nat) : State :=
  let hit := fun (l : Nat) => decide (key / 128 ≤ l ∧ l ≤ (key + n - 1) / 128)
  let drop := fun (a : Act) => if (a.resv.map fun r => hit r.line) == some true && !own a then { a with resv := none } else a
  ((s.mapActs drop).mapAway drop).killShadows (fun q => q.shadow.regs.any hit) 4

/-- A write of the hardware itself to memory. -/
def State.hwWrite (s : State) (key n v : Nat) : State := (s.wrN key n v).disturbKey (fun _ => false) key n

/-- Write a record to the error log (27 R477). -/
def State.log (s : State) (cls sub ctx die link addr : Nat) : State :=
  let d := s.dev
  let n := bits d.logBase 56 8
  if n < 4 ∨ 16 < n then s
  else if (d.logHead + (2 ^ 64 - d.logTail % 2 ^ 64)) % 2 ^ 64 = 2 ^ n then s.modDev fun d => { d with logDrop := 1, msix := 0 :: d.msix }
  else
    let a := hostKey (bits d.logBase 5 51 * 32 + 32 * (d.logHead % 2 ^ n))
    let info := cls + sub % 256 * 256 + ctx % 64 * 65536 + die % 4 * 2 ^ 22 + link % 256 * 2 ^ 24
    let s := s.hwWrite a 32 (s.cycle 4 % 2 ^ 64 + 2 ^ 64 * (addr % 2 ^ 64) + 2 ^ 128 * (info % 2 ^ 64))
    s.modDev fun d => { d with logHead := d.logHead + 1, msix := 0 :: d.msix }

/-- A queue's state and error code, in the device and in the queue's descriptor (16 R329).  A record that waits on the counter of
a queue that closes is then taken up and refused with BADR (R332). -/
def State.putQueueSt (s : State) (q st err : Nat) : State :=
  let s := s.modQueue q fun x => { x with st := st, err := err }
  let refuse := fun (x : Queue) => if st = 0 ∧ x.waits = some q then { x with waits := none, cancelled := 2 } else x
  let s := s.modWork fun w => { w with queues := w.queues.mapV fun _ x => refuse x }
  match (s.queue q).key with
  | none => s
  | some k => s.hwWrite k 8 (setBits (s.rdN k 4) 0 2 st + 2 ^ 32 * err)

/-- Halt an open queue (16 R330), with an error code or 0 to keep the one it has; its shadow is discarded (17 R350). -/
def State.haltQueue (s : State) (q err : Nat) : State :=
  let x := s.queue q
  if x.st ≠ 1 then s else (s.discardShadow q 12).putQueueSt q 2 (if err = 0 then x.err else err)

/-! ### Freezing a context (24 R447) -/

/-- Whether a context is switched out, or was when it was frozen: its activations are away (24 R444). -/
def Ctx.isOut (c : Ctx) : Bool := c.st == 4 || (c.st == 5 && c.before == 4)

/-- Freeze a context: its queues are halted, its shadows discarded, and the supervisor is told. -/
def State.freeze (s : State) (c reason val : Nat) : State :=
  let x := s.ctx c
  if x.st = 0 ∨ x.st = 5 ∨ x.st = 6 then s
  else
    let s := s.modCtx c fun x => { x with before := x.st, st := 5, reason := reason, frzval := val, everFrozen := true }
    let s := s.killShadows (fun q => q.ctx == c) 9
    let s := s.work.queues.foldl (fun s e => if e.2.ctx = c ∧ e.2.st = 1 then s.putQueueSt e.1 2 e.2.err else s) s
    s.notice c 2 reason

/-! ### Taking a trap (03 R60, R75; 10 R272; 24 R450) -/

/-- The HANDLE of an activation (24 R450). -/
def Act.handle (a : Act) : Nat := a.ctx % 64 * 2 ^ 41 + a.wp % 32768 * 2 ^ 26 + a.place

/-- Send the class-24 message of a trap: to the trapping core when TRAPH.V = 1, else, or when the activation is itself
at supervisor level, to the SUP control core. -/
def State.trapMessage (s : State) (cause tval pc : Nat) : State :=
  let a := s.cur
  let words := [a.handle, cause, tval, pc, 0, 0, 0, 0]
  if bit ((s.ctx a.ctx).word 0x90) 63 && a.level == .user then
    s.post { n := 0, die := a.die, cluster := a.cluster, core := a.core, cls := 24, words := words, sup := true, ctx := a.ctx }
  else s.postSup a.ctx words

/-- The activation goes into trap-wait: its reservation is cancelled (07 R177) and it detaches from its gang (08 R214). -/
def State.enterTrapWait (s : State) : State :=
  s.modCur fun a => { a with run := .trapWait, resv := none, attached := false, wins := [] }

/-- The activation that issues is ready, and its watchdog's count begins (10 R255, R269). -/
def State.goOn (s : State) : State := let c := s.cycle s.cur.die; s.modCur fun a => { a with run := .ready, wd := c }

/-- Whether the hardware accepts an activation's WP (03 R64). -/
def Act.wpOk (a : Act) : Bool := a.parked.isSome || (a.wp % 8 == 0 && decide (a.wp + 0x140 ≤ 0x8000))

/-- Take a trap of the issuing activation: CAUSE, TVAL and the PC word are written, then the message leaves.  In a shadow
nothing is raised and the shadow ends with reason TRAP (17 R349). -/
def State.trap (s : State) (code sub tval pc : Nat) : State :=
  match s.cur.shadow with
  | some q => s.discardShadow q 8
  | none =>
    let s := ((s.setWs 0x128 8 (code + 256 * sub)).setWs 0x130 8 (w64 tval)).setPc pc
    (s.enterTrapWait).trapMessage (code + 256 * sub) (w64 tval) (pc % 2 ^ 56)

/-- The trap of a rejected WP: no workspace is written (03 R64). -/
def State.trapWsp (s : State) : State :=
  ((s.enterTrapWait).modCur fun a => { a with wsp := true }).trapMessage 0x16 s.cur.wp 0

/-- A trap at the instruction that is executing. -/
def State.trapHere (s : State) (code sub tval : Nat) : State := s.trap code sub tval s.pc

/-- A trap whose value no rule states: TVAL is a free value (DESIGN CHOICE, notes/assumptions/5.md). -/
def State.trapFree (s : State) (code sub : Nat) : State := let v := s.draw; v.2.trapHere code sub v.1

/-- Trap causes (24 R449). -/
def cIOP : Nat := 0x01
def cPRIV : Nat := 0x02
def cALIGN : Nat := 0x03
def cPDENY : Nat := 0x05
def cTAGOV : Nat := 0x06
def cBOVER : Nat := 0x08
def cCONFLICT : Nat := 0x09
def cRANGE : Nat := 0x0A
def cSHAPE : Nat := 0x0B
def cWDOG : Nat := 0x0C
def cLINKLOST : Nat := 0x0D
def cVGRANT : Nat := 0x0E
def cBRK : Nat := 0x10
def cSYSC : Nat := 0x11
def cDATAERR : Nat := 0x12
def cFREEZE : Nat := 0x13
def cTMAP : Nat := 0x15

/-- Return from a trap (24 R451): the activation in trap-wait is ready again at its PC word. -/
def State.resume (s : State) (id : Nat) : State :=
  s.onAct id fun s => s.goOn.modCur fun a => { a with atYield := false, wsp := false }

/-- A PRIV trap of R80 step 3: TVAL is the instruction word `w` (03 R82). -/
def State.trapPriv (s : State) (w : Nat) : State := s.trapHere cPRIV 0 w

/-- An IOP trap that an owning chapter raises beyond decoding (03 R82). -/
def State.trapIop (s : State) (w : Nat) : State := s.trapHere cIOP 0 w

/-- Supervisor or firmware level. -/
def State.privileged (s : State) : Bool := s.cur.level != .user

/-! ### The update class (06 R149) -/

/-- Replace bytes of a line value. -/
def patchLine (v off n x : Nat) : Nat := setBits v (8 * off) (8 * n) x

/-- The scope code of a two-bit sc field (03 R68). -/
def sc2 (sc : Nat) : Nat := if sc = 0 then 2 else sc + 3

/-- A yield point (10 R266): the reservation is cancelled (07 R177), windows close (03 R72) and the watchdog's count
restarts (R269). -/
def State.yieldPoint (s : State) : State :=
  let c := s.cycle s.cur.die
  s.modCur fun a => { a with resv := none, wd := c, atYield := true, wins := [] }

/-- Enter a blocking wait that is a yield point. [DEDUCED, notes/assumptions/15.md] -/
def State.block (s : State) (w : Wait) : State := s.yieldPoint.modCur fun a => { a with run := .waiting w }

end Sys2Proof.Machine
end

