-- ==== Sys2Proof/Machine/Order.lean ====
section
/-!
DEFINITION. The order of accesses (06 R143 to R151): what a party must see of the writes on record, and what fences,
releases and acquires do about it.  Memory holds the newest content; a write on record may still be missed by a party to
which nothing has made it visible, and a party may choose to miss it (07 R188, 15 R327).

A release leaves its mark on the writes before it: the place at which it can be acquired, which is the word it stores to or
a number of the hardware's own (a barrier, a message, a record, a slot of a pipe, a queue).  When a party reads that place,
the marked writes become visible in the release's instance; when it acquires there, it sees them.
[DEDUCED, notes/assumptions/48.md]
-/

namespace Sys2Proof.Machine

/-- Who makes an access: an activation, an engine for it, or the device. -/
structure Who where
  ctx : Nat := 0
  die : Nat := 0
  cluster : Nat := 0
  core : Nat := 0
  slot : Nat := 0
  act : Nat := 0
  level : Level := .user
  eng : Nat := 0                         -- 23 R421: 0 core, 1 copy, 2 matrix, 3 index, 4 polynomial, 6 distributor
  shadow : Option Nat := none
  launch : Option LaunchId := none
  ident : List Nat := []                 -- accessor of 06 R156
  det : Bool := false
  cmd : Option (Nat × Nat) := none       -- kind and number of the command that makes it
  fill : Option Nat := none              -- that command is a `pfill`, issued at this clock
  since : List Nat := [0, 0]             -- what is ordered before that command (06 R145), as in `Cmd`
  low : List Nat := [0, 0]
  quiet : Bool := false                  -- its fills are not counted (23 R426)
  view : List Nat := []                  -- what the activation, or the command's issuer at its issue, has acquired
deriving DecidableEq, Repr

def Who.coreKey (w : Who) : Nat := Machine.coreKey w.die w.cluster w.core

/-! ### Instances and places -/

/-- Whether two cores lie in one instance of a scope (01 R15). -/
def inside (sc ck x : Nat) : Bool :=
  if 4 ≤ sc then true
  else
    let d := if sc = 0 then 1 else if sc = 1 then 4 else if sc = 2 then 8 else 8192
    ck / d == x / d

/-- The places at which hardware releases and acquires, above every word of memory: a phase of a barrier, a message, a launch of a
queue, a record appended to it, a clause record, a slot of a pipe. -/
def ptBar (key phase : Nat) : Nat := 2 ^ 100 + key * 2 ^ 32 + phase
def ptMsg (n : Nat) : Nat := 2 ^ 101 + n
def ptQueue (q n : Nat) : Nat := 2 ^ 102 + q * 2 ^ 70 + n
def ptDoor (q n : Nat) : Nat := 2 ^ 102 + 2 ^ 90 + q * 2 ^ 70 + n
def ptRec (key : Nat) : Nat := 2 ^ 102 + 2 ^ 95 + key
def ptSlot (pipe k : Nat) : Nat := 2 ^ 103 + pipe * 2 ^ 16 + k

/-! ### Parties -/

/-- The number of a party: an activation, or a command. -/
def Who.party (w : Who) : Nat :=
  match w.cmd with
  | none => 2 * w.act
  | some (k, n) => 2 * ((w.coreKey * 4 + k) * 2 ^ 64 + n) + 1

/-- The clock up to which an access sees what has become visible in an instance around `ck`; `wr` says that it is a write. -/
def Who.floor (w : Who) (wr : Bool) (ck : Nat) : Nat :=
  (List.range 7).foldl (fun m sc => if inside sc w.coreKey ck then max m (w.view.getD sc 0) else m) (w.low.getD (b2n wr) 0)

/-- Whether an access sees a write whatever happens: a thread its own; a command those of its issuer that are ordered before
it; either what it has seen, and what became visible to it before it last acquired; and a `pfill` reads what its source has held
since its issue (15 R327). -/
def Who.mustSee (w : Who) (wr : Bool) (p : Past) : Bool :=
  (p.act == w.act && p.cmd.isNone && (w.cmd.isNone || decide (p.at_ < w.since.getD (b2n wr) 0)))
    || p.known.contains w.party || (match w.fill with | some t => decide (p.at_ < t) | none => false)
    || p.vis.any fun v => inside v.1 w.coreKey v.2.1 && decide (v.2.2 ≤ w.floor wr v.2.1)

/-- The issuing activation as a party. -/
def State.party (s : State) : Who :=
  let a := s.cur
  { ctx := a.ctx, die := a.die, cluster := a.cluster, core := a.core, act := a.id, view := a.view }

/-! ### Marks on the writes on record -/

/-- A list with one more member. -/
def insertNew {α : Type} [DecidableEq α] (x : α) (l : List α) : List α := if l.contains x then l else l ++ [x]

/-- A write is visible in the instance of a scope around a core from now on. -/
def Past.show (p : Past) (sc ck now : Nat) : Past :=
  if p.vis.any fun v => v.1 == sc && v.2.1 == ck then p else { p with vis := p.vis ++ [(sc, ck, now)] }

/-- A party has seen a write, which is then visible to every party but in an update-class range (06 R148, R149). -/
def Past.seen (p : Past) (party now : Nat) : Past :=
  let p := { p with known := insertNew party p.known }
  if p.mca then p.show 6 p.ck now else p

def State.mapRace (s : State) (f : Past → Past) : State := s.setRace (s.race.map f)

/-- The pending writes of the update class, changed. -/
def State.mapUpd (s : State) (f : UpdWrite → UpdWrite) : State :=
  s.modCoh fun h => { h with upd := h.upd.mapV fun _ v => { v with pend := v.pend.map f } }

/-- What was released at a place is there at another too. -/
def State.movePoint (s : State) (x y : Nat) : State :=
  let f := fun (l : List (Nat × Nat × Nat)) => l ++ (l.filter (·.1 == x)).map fun r => (y, r.2)
  (s.mapRace fun p => { p with rel := f p.rel }).mapUpd fun p => { p with rel := f p.rel }

/-- A place begins anew: nothing that was released there can be acquired there any more. -/
def State.clearPoint (s : State) (x : Nat) : State :=
  let f := fun (l : List (Nat × Nat × Nat)) => l.filter (·.1 != x)
  (s.mapRace fun p => { p with rel := f p.rel }).mapUpd fun p => { p with rel := f p.rel }

/-- Whether a place lies in one of some ranges, each given by its first and its last. -/
def amid (xs : List (Nat × Nat)) (x : Nat) : Bool := xs.any fun r => decide (r.1 ≤ x ∧ x ≤ r.2)

/-- Places have been read: what was released there becomes visible in the release's instance (06 R148). -/
def State.observe (s : State) (xs : List (Nat × Nat)) : State :=
  let now := s.sched.clock
  s.mapRace fun p => if p.mca then (p.rel.filter fun r => amid xs r.1).foldl (fun p r => p.show r.2.1 r.2.2 now) p else p

/-- A plain store to a word: what was released there can no longer be acquired there; but what its writer's fences have
ordered before it now can (06 R145). -/
def State.cutPoint (s : State) (w : Who) (x : Nat) (rmw : Bool) : State :=
  let cut := fun (l : List (Nat × Nat × Nat)) => if rmw then l else l.filter (·.1 != x)
  let add := fun (fen : List (Nat × Nat)) (l : List (Nat × Nat × Nat)) =>
    (fen.filter fun f => f.1 == w.act && w.cmd.isNone).foldl (fun l f => insertNew (x, f.2, w.coreKey) l) l
  (s.mapRace fun p => { p with rel := add p.fen (cut p.rel) }).mapUpd fun p => { p with rel := add p.fen (cut p.rel) }

/-! ### The update class: what a die reads (06 R149) -/

/-- Bytes put into a line value. -/
def patchBytes (v : Nat) (bs : List (Nat × Nat)) : Nat := bs.foldl (fun v b => patchLine v b.1 1 b.2) v

/-- A write without bytes that a later one has overwritten; none when nothing of it is left. -/
def UpdWrite.minus (w : UpdWrite) (bs : List (Nat × Nat)) : Option UpdWrite :=
  let left := w.bytes.filter fun b => !(bs.any fun x => x.1 == b.1)
  if left.isEmpty then none else some { w with bytes := left }

/-- Bytes reach a holder: it reads them, and no earlier write to them any more (06 R144). -/
def UpdView.apply (v : UpdView) (bs : List (Nat × Nat)) : UpdView :=
  { base := patchBytes v.base bs, pend := v.pend.filterMap fun w => w.minus bs }

/-- The writes that `p` names reach a holder, in their order. -/
def UpdView.take (p : UpdWrite → Bool) (v : UpdView) : UpdView :=
  v.pend.foldl (fun r w => if p w then r.apply w.bytes else { r with pend := r.pend ++ [w] }) { base := v.base }

/-- The same at every line that `q` names, by line × 8 + die; what has no write to come is as memory is. -/
def Coh.takeUpd (h : Coh) (q : Nat → Bool) (p : UpdWrite → Bool) : Coh :=
  let f (e : Nat × UpdView) : Option (Nat × UpdView) :=
    if q e.1 then (let v := e.2.take p; if v.pend.isEmpty then none else some (e.1, v)) else some e
  { h with upd := h.upd.filterMap f }

/-- The writes of a core's commands that are ordered before what its activations do next belong to the issuing activation
from now on: its releases release them (06 R150). -/
def State.ownCmds (s : State) (p : Nat → Nat → Bool) : State :=
  let ck := s.cur.coreKey
  let id := s.cur.id
  let f (w : UpdWrite) : UpdWrite :=
    match w.cmd with
    | some (k, kind, n) => if k = ck ∧ p kind n then { w with act := id, cmd := none } else w
    | none => w
  s.mapUpd f

/-- Invalidate the L1 of a core (06 R142). -/
def State.l1Clear (s : State) (ck : Nat) : State := s.modCore ck fun c => { c with l1 := [] }

/-! ### Releases, acquires and fences -/

/-- A release by the issuing activation at a place (06 R146): what it must see of MCA memory, whoever wrote it, and its own
writes under the update class (R148, R149). -/
def State.releaseTo (s : State) (x sc : Nat) : State :=
  let me := s.party
  let r := (x, sc, me.coreKey)
  (s.mapRace fun p => if (p.mca && me.mustSee false p) || (p.act == me.act && p.cmd.isNone) then { p with rel := insertNew r p.rel } else p).mapUpd
    fun p => if p.act == me.act && p.cmd.isNone then { p with rel := insertNew r p.rel } else p

/-- The completion of a command releases its writes (07 R187, 15 R326). -/
def State.releaseCmd (s : State) (ck kind n x sc : Nat) : State :=
  let mine := fun (c : Option (Nat × Nat × Nat)) => c == some (ck, kind, n)
  (s.mapRace fun p => if mine p.cmd then { p with rel := insertNew (x, sc, ck) p.rel } else p).mapUpd
    fun p => if mine p.cmd then { p with rel := insertNew (x, sc, ck) p.rel } else p

/-- The completion of a launch releases every write of it at package scope (16 R335). -/
def State.releaseLaunch (s : State) (l : Nat × Nat) (x : Nat) : State :=
  let r := (x, 4, 2 ^ 20)
  (s.mapRace fun p => if p.launch == some l then { p with rel := insertNew r p.rel } else p).mapUpd
    fun p => if p.launch == some l then { p with rel := insertNew r p.rel } else p

/-- The issuing activation acquires at ranges of places, at a scope (06 R146, R147): it sees what was released there by a party inside
its scope for an instance that holds it, and what it has read there; its view moves on; its die takes the released writes of
the update class (R149); and its L1 is invalidated at quad scope or wider (R142). -/
def State.syncAt (s : State) (xs : List (Nat × Nat)) (sc : Nat) : State :=
  let me := s.party
  let ck := me.coreKey
  let now := s.sched.clock
  let got := fun (rel : List (Nat × Nat × Nat)) => rel.any fun r => amid xs r.1 && inside r.2.1 r.2.2 ck && inside sc ck r.2.2
  let s := s.observe xs
  let s := s.mapRace fun p =>
    if got p.rel || (amid xs p.word && me.mustSee false p) then { p.show 0 ck now with known := insertNew me.party p.known } else p
  let s := (s.modCur fun a => { a with view := a.view.set sc (max (a.view.getD sc 0) now) }).modCoh fun h =>
    h.takeUpd (fun k => k % 8 == me.die) fun w => got w.rel
  if sc = 0 then s else s.l1Clear ck

/-- The same for an activation that starts, at package scope (10 R265, 11 R288, 16 R335). -/
def State.syncAct (s : State) (id : Nat) (xs : List (Nat × Nat)) : State := s.onAct id fun s => s.syncAt xs 4

/-- The same for the device, whose accesses read memory: the copies of a die take the writes of the update class that were
released at these places at package scope (16 R338). -/
def State.syncDev (s : State) (die : Nat) (xs : List (Nat × Nat)) : State :=
  s.modCoh fun h => h.takeUpd (fun k => k % 8 == die) fun w => w.rel.any fun r => amid xs r.1 && decide (4 ≤ r.2.1)

/-- The acquire of a load that has read a word: it synchronises when what it read is what stands there. -/
def State.syncWord (s : State) (x sc : Nat) : State :=
  let me := s.party
  match (s.race.filter (·.word == x)).getLast? with
  | some p => if me.mustSee false p then s.syncAt [(x, x)] sc else s.syncAt [] sc
  | none => s.syncAt [(x, x)] sc

/-- The writes of the issuing core's commands that `q` names happen before what its issuing activation does next (06 R145,
R150). -/
def State.takeCmds (s : State) (q : Nat → Nat → Bool) : State :=
  let me := s.party
  let ck := me.coreKey
  let now := s.sched.clock
  let mine := fun (c : Option (Nat × Nat × Nat)) => match c with
    | some (k, kind, n) => k == ck && q kind n
    | none => false
  ((s.mapRace fun p => if mine p.cmd then { p.show 0 ck now with known := insertNew me.party p.known } else p).ownCmds q).modCur
    fun a => { a with view := a.view.set 0 (max (a.view.getD 0 0) now) }

/-- What a fence orders (06 R145): `pred` and `succ` are sets of the eight kinds r, w, cr, cw, mr, mw, nr, nw. -/
def State.fenceOrder (s : State) (sc pred succ : Nat) : State :=
  let me := s.party
  let ck := me.coreKey
  let now := s.sched.clock
  let own := fun (act : Nat) (cmd : Option (Nat × Nat × Nat)) => act == me.act && cmd.isNone
  let engs := bits succ 2 6
  let upTo := fun (l : List Nat) (v : Nat) => (List.range 6).map fun k => if bit engs k then max (l.getD k 0) v else l.getD k 0
  let kinds := (List.range 3).filter fun k => bits pred (2 + 2 * k) 2 != 0
  let issued := (s.core ck).issued
  let look := fun (a : Act) (v : Nat) => { a with view := a.view.set sc (max (a.view.getD sc 0) v) }
  let s := if bit pred 1 then s.modCur fun a => { a with fenced := upTo a.fenced (now + 1) } else s
  let s := if bit pred 1 && bit succ 1 then
      (s.mapRace fun p => if own p.act p.cmd then { p with fen := insertNew (me.act, sc) p.fen } else p).mapUpd
        fun p => if own p.act p.cmd then { p with fen := insertNew (me.act, sc) p.fen } else p
    else s
  let s := if bit pred 1 && bit succ 0 then
      (s.mapRace fun p => if own p.act p.cmd && p.mca then p.show sc ck now else p).modCur fun a => look a now
    else s
  let s := if bit pred 0 then s.modCur fun a => { a with loadFenced := upTo a.loadFenced a.sawAt } else s
  let s := if bit pred 0 && bit succ 0 then s.modCur fun a => look a a.sawAt else s
  if kinds.isEmpty then s
  else
    let s := s.takeCmds fun k n => kinds.contains k && decide (n ≤ issued.getD k 0)
    if bit succ 0 then s.l1Clear ck else s

/-- The end of a wait for the commands of a kind up to a number: an acquire of their accesses at core scope, which
invalidates the L1 (06 R142, R150). -/
def State.tlAcquire (s : State) (kind n : Nat) : State :=
  (s.takeCmds fun k m => k == kind && decide (m ≤ n)).l1Clear s.cur.coreKey

/-! ### Past contents of memory -/

/-- Whether past contents of memory are kept: for a plane that may be fetched again (09 R249), or for a checkpoint that runs
(23 R432). -/
def State.watches (s : State) : Bool :=
  s.dev.ckpt.isSome || s.cores.any (fun c => c.2.active.state != 0 || c.2.shadowP.state != 0) || s.ctxs.any (fun c => c.2.isOut)
    || s.work.groups.any (·.out)

/-- The contents that memory has had since a clock, latest first, before each write that is on record. -/
def State.pastMems (s : State) (since : Nat) : List (List Host.Cell) :=
  let back := fun (r : List Host.Cell × List (List Host.Cell)) (p : Past) =>
    let m := Memory.writeN r.1 (p.word * 8 + p.lo) p.len p.old
    (m, r.2 ++ [m])
  ((s.race.filter fun p => decide (since ≤ p.at_)).reverse.foldl back (s.mem, [])).2

end Sys2Proof.Machine
end

