-- ==== Sys2Proof/Machine/Coherence.lean ====
section
/-!
DEFINITION. Copies of lines and the protocol tables that step them (19 R357 to R374, 20 R382): the tables of the resident
protocols, a row taken on an event, and the fills that are counted (23 R425, R426).  These steps move copies and messages only:
memory holds each line's coherent value.
-/

namespace Sys2Proof.Machine

/-! ### Homes -/

/-- The HBM and far-tier rows of R411. -/
def inHbm (pa : Nat) : Bool := decide (pa / 2 ^ 42 < 4 ∧ pa % 2 ^ 42 < 2 ^ 38)
def inFar (pa : Nat) : Bool := decide (2 ^ 44 ≤ pa ∧ pa < 2 ^ 44 + 2 ^ 43)

/-- The home of a physical line (19 R357): dies 0 to 3, 4 for io0 and 5 for io1. -/
def homeOf (tier pa : Nat) : Nat :=
  if tier = 0 then pa / 2 ^ 42 else if popc 36 (bits pa 16 36) % 2 = 0 then 4 else 5

/-- The home of a line by its memory key (19 R357); 6 for a peer's line, which its device homes.  A compressed page's line
has the home that its request carries (23 R429). -/
def homeOfLine (line : Nat) : Nat :=
  let a := line * 128
  if 2 ^ 61 ≤ a then 6
  else if 2 ^ 60 ≤ a then homeOf 2 (a - 2 ^ 60)
  else if inHbm a then homeOf 0 a else homeOf 1 a

/-! ### Fills and heat (23 R425, R426) -/

def heatH : Nat := 0x0C3FFE000000
def heatF : Nat := 0x0C3FEE000000

/-- The address of the heat word of a physical HBM or far-tier page. -/
def heatOf (tier p : Nat) : Nat :=
  if tier = 0 then heatH + 2 * (2 ^ 22 * (p / 2 ^ 42) + p % 2 ^ 42 / 65536) else heatF + 2 * ((p - 2 ^ 44) / 65536)

/-- The address of the heat word of a line's page; none for host and peer lines. -/
def lineHeat (line : Nat) : Option Nat :=
  let a := line * 128
  if 2 ^ 70 ≤ a then some ((a - 2 ^ 70) / 65536 + 2)
  else if inHbm a then some (heatOf 0 (a / 65536 * 65536))
  else if inFar a then some (heatOf 1 (a / 65536 * 65536)) else none

/-- One more read or write in a heat word, saturating. -/
def bumpHeat (w : Nat) (write : Bool) : Nat :=
  if write then w / 256 * 256 + min 255 (w % 256 + 1) else min 255 (w / 256 + 1) * 256 + w % 256

/-- Count a fill of a die; the one that brings its count to 0 is sampled. [DEDUCED, notes/assumptions/36.md] -/
def State.fill (s : State) (die line : Nat) (write : Bool) : State :=
  match lineHeat line with
  | none => s
  | some a =>
    let n := (s.coh.fills.getD die 0 + 1) % 64
    let s := s.modCoh fun h => { h with fills := h.fills.set die n }
    if n = 0 then s.wrN a 2 (bumpHeat (s.rdN a 2) write) else s

/-! ### Tables (R362 to R364, R371 to R374) -/

/-- The row of a table for a state and an event. -/
def PTable.row? (t : PTable) (st ev : Nat) : Option PRow := t.rows.find? fun r => r.st == st && r.ev == ev

/-- Whether a state is stable (R371). -/
def PTable.stable (t : PTable) (st : Nat) : Bool := bit (t.attrs.getD st 0) 0

/-- The row taken: where none is listed the state is kept and nothing is sent, and in a transient state local accesses wait. -/
def PTable.rowAt (t : PTable) (st ev : Nat) : PRow :=
  (t.row? st ev).getD { st := st, ev := ev, nx := st, cls := 0, act := if t.stable st then 0 else 128 }

/-- Rows of one state: event, next state, message class, actions (R374). -/
def rowsAt (st : Nat) (rs : List (Nat × Nat × Nat × Nat)) : List PRow :=
  rs.map fun r => { st := st, ev := r.1, nx := r.2.1, cls := r.2.2.1, act := r.2.2.2 }

/-- The rows of a state that acknowledges every forward and invalidation. -/
def ackRows (st act : Nat) : List PRow := rowsAt st [(4, st, 7, act), (5, st, 7, act), (6, st, 7, act)]

/-- R363, the rows of protocol 0 in its stable states. -/
def moesiStable : List PRow :=
  rowsAt 0 [(0, 5, 1, 256), (1, 6, 1, 512), (2, 6, 1, 512)] ++ ackRows 0 0
  ++ rowsAt 1 [(0, 1, 0, 64), (1, 7, 1, 512), (2, 7, 1, 512), (5, 0, 7, 8), (6, 0, 7, 8), (7, 0, 0, 8), (3, 0, 0, 8)]
  ++ rowsAt 2 [(0, 2, 0, 64), (1, 4, 0, 64), (2, 4, 0, 64), (4, 1, 4, 1), (5, 0, 4, 9), (6, 0, 4, 9), (7, 0, 0, 8), (3, 0, 0, 8)]
  ++ rowsAt 3 [(0, 3, 0, 64), (1, 7, 1, 512), (2, 7, 1, 512), (4, 3, 4, 1), (5, 0, 4, 9), (6, 0, 4, 9), (7, 0, 5, 10), (3, 0, 5, 2)]
  ++ rowsAt 4 [(0, 4, 0, 64), (1, 4, 0, 64), (2, 4, 0, 64), (4, 3, 4, 1), (5, 0, 4, 9), (6, 0, 4, 9), (7, 0, 5, 10), (3, 0, 5, 2)]

/-- IM_D and SM_A of protocol 0: an owner's data is installed, and the grant performs the access (20 R382).  In a transient state
a forward that finds no copy is acknowledged and a recall drops what is there. [DEDUCED, notes/assumptions/29.md] -/
def moesiOwning : List PRow :=
  ackRows 6 128 ++ rowsAt 6 [(7, 0, 0, 8), (9, 6, 0, 132), (10, 4, 0, 68), (11, 4, 0, 64)]
  ++ rowsAt 7 [(4, 7, 4, 129), (5, 6, 4, 9), (6, 6, 7, 8), (7, 0, 5, 10), (9, 7, 0, 132), (10, 4, 0, 64), (11, 4, 0, 64)]

/-- R362: the attributes of protocol 0's states. -/
def moesiAttrs : List Nat := [0x01, 0x05, 0x17, 0x0D, 0x1F, 0x00, 0x00, 0x04]

/-- Protocol 0 (R362, R363). -/
def moesi : PTable :=
  { attrs := moesiAttrs, rows := moesiStable ++ ackRows 5 128 ++ rowsAt 5 [(7, 0, 0, 8), (9, 1, 0, 68), (10, 2, 0, 68), (11, 1, 0, 64)] ++ moesiOwning }

/-- Protocol 2 (R364): a read miss is granted the line in M. -/
def migratory : PTable :=
  { attrs := moesiAttrs, rows := moesiStable ++ ackRows 5 128 ++ rowsAt 5 [(7, 0, 0, 8), (9, 5, 0, 132), (10, 4, 0, 68), (11, 4, 0, 64)] ++ moesiOwning }

/-- The rows of a protocol that holds lines shared only: I, S and a read under way. -/
def sharedRows (write : Nat → List PRow) : List PRow :=
  rowsAt 0 [(0, 2, 1, 256)] ++ ackRows 0 0 ++ write 0
  ++ rowsAt 1 [(0, 1, 0, 64), (5, 0, 7, 8), (6, 0, 7, 8), (7, 0, 0, 8), (3, 0, 0, 8), (8, 1, 0, 16)] ++ write 1
  ++ ackRows 2 128 ++ rowsAt 2 [(7, 0, 0, 8), (9, 1, 0, 68), (10, 1, 0, 68), (11, 1, 0, 64)] ++ write 2

/-- Protocol 1 (R364): a write is sent to the home. -/
def updating : PTable :=
  { attrs := [1, 5, 0], rows := sharedRows fun k => let a := if k = 2 then 224 else 96; rowsAt k [(1, k, 6, a), (2, k, 6, a)] }

/-- Protocol 3 (R364): a write is requested of the home, which performs it. -/
def writeOnce : PTable :=
  { attrs := [1, 5, 0], rows := sharedRows fun k => let a := if k = 2 then 640 else 512; rowsAt k [(1, k, 1, a), (2, k, 1, a)] }

/-- The table that a copy is stepped by. -/
def State.tableOf (s : State) (c : Copy) : PTable :=
  if c.pid = 0 then moesi else if c.pid = 1 then updating else if c.pid = 2 then migratory else if c.pid = 3 then writeOnce
  else if c.pid < 6 then { attrs := [1] } else (s.ctx c.owner).tables.getD c.pid { attrs := [1] }

/-! ### Copies -/

/-- No copy, under an identity. -/
def noCopy (pid owner : Nat) : Copy := { st := 0, pid := pid, owner := owner }

/-- A die's copy of a line, if it is of an identity. -/
def State.copyOf (s : State) (die line pid owner : Nat) : Copy :=
  match s.coh.copies.get? (line * 8 + die) with
  | some c => if c.pid = pid ∧ c.owner = owner then c else noCopy pid owner
  | none => noCopy pid owner

/-- Whether a die holds the line: not while its first request is under way. -/
def State.holds (s : State) (c : Copy) : Bool :=
  let a := (s.tableOf c).attrs.getD c.st 0
  c.st != 0 && (bit a 0 || bit a 2)

/-- The dies that hold a line, with their copies. -/
def State.holders (s : State) (line : Nat) : List (Nat × Copy) :=
  (s.coh.copies.filter fun p => p.1 / 8 == line && s.holds p.2).map fun p => (p.1 % 8, p.2)

/-- Whether a copy is the one that answers requests: it is dirty or exclusive, or was in the last stable state. -/
def State.owns (s : State) (c : Copy) : Bool :=
  let t := s.tableOf c
  if t.stable c.st then (let a := t.attrs.getD c.st 0; bit a 3 || bit a 4) else c.own

/-- Whether a copy must be written back. -/
def State.dirtyCopy (s : State) (c : Copy) : Bool := bit ((s.tableOf c).attrs.getD c.st 0) 3

/-- Set what a die has of a line; with nothing left it is forgotten, and what the die read of an older value goes with the copy. -/
def State.setCopy (s : State) (die line : Nat) (c : Copy) : State :=
  s.modCoh fun h =>
    let k := line * 8 + die
    let h := if c.st = 0 then { h with upd := h.upd.del k } else h
    if c.st = 0 ∧ c.pend = [] ∧ c.ready = [] then { h with copies := h.copies.del k } else { h with copies := h.copies.put k c }

def State.sendCoh (s : State) (m : CohMsg) : State := s.modCoh fun h => { h with msgs := h.msgs ++ [m] }

/-! ### A row is taken (R374) -/

/-- A die's answer to the home, for an event. -/
def ackMsg (die line ev : Nat) : CohMsg := { ev := 11, die := die, line := line, n := ev }

/-- The message of a row: `m` is the access or message that raised the event, `req` the access that a request is for. -/
def PRow.sends (r : PRow) (die ev : Nat) (c : Copy) (m req : CohMsg) : List CohMsg :=
  let ask := { req with die := die, line := m.line, src := die, pid := c.pid, owner := c.owner }
  let from_ : CohMsg := { ev := 9, die := m.src, line := m.line, src := die, pid := c.pid, owner := c.owner }
  if bit r.act 8 then [{ ask with ev := 0, bytes := [] }]
  else if bit r.act 9 then [{ ask with ev := 1, bytes := [] }]
  else if bit r.act 5 then [{ ask with ev := 3 }]
  else if bit r.act 0 then (if 4 ≤ ev ∧ ev ≤ 8 then [from_] else [])
  else if bit r.act 1 then [{ from_ with ev := 2, die := die, src := if ev = 7 then 8 else die }]
  else if r.cls = 7 then [ackMsg die m.line ev]
  else if r.cls = 3 then [{ from_ with ev := 13 }]
  else []

/-- The accesses that wait at a copy after a row: `perf` performs the access itself, or the first that waits. -/
def PRow.waiting (r : PRow) (stable : Bool) (die ev : Nat) (c : Copy) (m : CohMsg) : List CohMsg :=
  if 2 < ev then (if bit r.act 6 then c.pend.drop 1 else c.pend)
  else if bit r.act 6 ∨ (stable ∧ !bit r.act 7) ∨ c.pend.any (·.ev == ev) then c.pend
  else c.pend ++ [{ m with ev := ev, die := die }]

/-- A copy takes its table's row on an event: a local access (events 0 to 2) or a message. -/
def State.present (s : State) (die ev : Nat) (c : Copy) (m : CohMsg) : State :=
  let t := s.tableOf c
  let r := t.rowAt c.st ev
  let stable := t.stable r.nx
  let a := t.attrs.getD r.nx 0
  let front := c.pend.headD m
  let x := { c with
    st := r.nx, pend := r.waiting stable die ev c m
    own := if stable then bit a 3 || bit a 4 else c.own
    got := if stable then 0 else c.got
    ready := if 2 < ev ∧ bit r.act 6 ∧ 6 ≤ c.pid ∧ !c.ready.contains front.ev then c.ready ++ [front.ev] else c.ready }
  let s := s.setCopy die m.line x
  let s := if bit r.act 4 then s.modCoh fun h => h.takeUpd (fun k => k == m.line * 8 + die) fun w => w.n == m.n else s
  let s := if bit r.act 2 ∧ stable ∧ !front.quiet then s.fill die m.line (front.ev != 0) else s
  s.modCoh fun h => { h with msgs := h.msgs ++ r.sends die ev c m (if ev ≤ 2 then m else front) }

/-- A local access of a die at its line.  At a line that it has under another identity only the request goes to the home, which
recalls that copy first (R370); an access that a loaded table's row has performed is done. -/
def State.localAccess (s : State) (m : CohMsg) : State :=
  match s.coh.copies.get? (m.line * 8 + m.die) with
  | some c =>
    if c.pid = m.pid ∧ c.owner = m.owner then
      (if c.ready.contains m.ev then s.setCopy m.die m.line { c with ready := c.ready.erase m.ev } else s.present m.die m.ev c m)
    else
      let n := noCopy m.pid m.owner
      s.modCoh fun h => { h with msgs := h.msgs ++ ((s.tableOf n).rowAt 0 m.ev).sends m.die m.ev n m m }
  | none => s.present m.die m.ev (noCopy m.pid m.owner) m

/-- The accesses that wait at a die's line are presented again (R374). -/
def State.again (s : State) (die line : Nat) : State :=
  match s.coh.copies.get? (line * 8 + die) with
  | none => s
  | some c => c.pend.foldl (fun s m => s.localAccess { m with die := die, line := line }) (s.setCopy die line { c with pend := [] })

end Sys2Proof.Machine
end

