-- ==== Sys2Proof/Machine/Lz4.lean ====
section
/-!
DEFINITION. Compressed pages (23 R427 to R430): the LZ4 block format under the restrictions of R428, and CRC-32C.
-/

namespace Sys2Proof.Machine

/-- A length extended by bytes of 255 (LZ4 block format). -/
def lz4Ext : List Nat → Nat → Option (Nat × List Nat)
  | [], _ => none
  | b :: bs, n => if b = 255 then lz4Ext bs (n + 255) else some (n + b, bs)

/-- A length of a nibble, extended when it is 15. -/
def lz4Len (nib : Nat) (bs : List Nat) : Option (Nat × List Nat) := if nib = 15 then lz4Ext bs 15 else some (nib, bs)

/-- Copy `n` bytes from `off` back; the output is held newest first. -/
def lz4Copy (off : Nat) : Nat → List Nat → List Nat
  | 0, out => out
  | n + 1, out => lz4Copy off n (out.getD (off - 1) 0 :: out)

/-- Sequences until the input ends after literals.  Answers the output, newest first, the literals of the last sequence
and the position of the last match. -/
def lz4Go : Nat → List Nat → List Nat → Nat → Option (List Nat × Nat × Option Nat)
  | 0, _, _, _ => none
  | _ + 1, [], _, _ => none
  | f + 1, tok :: bs, out, lastMatch =>
    match lz4Len (tok / 16) bs with
    | none => none
    | some (nl, bs) =>
      if bs.length < nl then none
      else
        let out := (bs.take nl).reverse ++ out
        let bs := bs.drop nl
        match bs with
        | [] => some (out, nl, if lastMatch = 0 then none else some (lastMatch - 1))
        | lo :: hi :: bs =>
          let off := lo + 256 * hi
          if off = 0 ∨ out.length < off then none
          else
            match lz4Len (tok % 16) bs with
            | none => none
            | some (ml, bs) =>
              if 65536 < out.length + ml + 4 then none
              else lz4Go f bs (lz4Copy off (ml + 4) out) (out.length + 1)
        | _ => none

/-- The page a block decodes to, under the restrictions of R428. -/
def lz4Decode (blk : List Nat) : Option (List Nat) :=
  match lz4Go (blk.length + 1) blk [] 0 with
  | none => none
  | some (out, nl, lm) =>
    if out.length != 65536 then none
    else
      match lm with
      | none => some out.reverse
      | some p => if 5 ≤ nl ∧ p + 12 ≤ 65536 then some out.reverse else none

/-- One bit of CRC-32C, reflected. -/
def crcStep (c : Nat) : Nat := if c % 2 = 1 then Nat.xor (c / 2) 0x82F63B78 else c / 2

def crcByte (c b : Nat) : Nat :=
  let x := Nat.xor c b
  crcStep (crcStep (crcStep (crcStep (crcStep (crcStep (crcStep (crcStep x)))))))

/-- CRC-32C (Castagnoli) of bytes. -/
def crc32c (bs : List Nat) : Nat := Nat.xor (bs.foldl crcByte 0xFFFFFFFF) 0xFFFFFFFF

/-- The literal bytes of a length above 14 in the LZ4 block format. -/
def lz4LitLen : Nat → Nat → List Nat
  | 0, _ => []
  | f + 1, n => if n < 255 then [n] else 255 :: lz4LitLen f (n - 255)

/-- The block of a page (23 R430).  The manual fixes no encoder: the candidate of `Config.lz4Encoder` is taken when it
decodes to the page, and otherwise the page as one run of literals, which never fits (DESIGN CHOICE, notes/assumptions/5.md). -/
def lz4Encode (page : List Nat) : List Nat :=
  let c := (Config.lz4Encoder (page.map (BitVec.ofNat 8))).map (·.toNat)
  if lz4Decode c = some page then c else (240 :: lz4LitLen 300 (page.length - 15)) ++ page

end Sys2Proof.Machine
end

