-- ==== Sys2Proof/Machine/Access.lean ====
section
/-!
DEFINITION. Where an access goes and what it does there: local windows (06 R134 to R137, 03 R63), translation
(23 R412 to R418), paths over links (26), protocols by range (19 R369), deterministic conflict detection (06 R156), the
trace ring (06 R153), fault records (23 R420 to R422), and the reads and writes themselves.
-/

namespace Sys2Proof.Machine

/-- Why an access is not performed. -/
inductive AErr where
  | trap (code sub tval : Nat)
  | xlat (cause level addr : Nat)        -- a translation fault (23 R419); level 8: the walker met it in an ATS refill (R421)
  | data (sub addr : Nat)                -- an error reply (23 R424)
  | stall                                -- it waits at its sender (26 R458, 23 R418)
  | shadowEnd (reason : Nat)             -- a refused operation of a shadow (17 R340, R347)
  | nomem (pa : Nat)
  | egress (pa : Nat)                    -- a firmware request outside its core's egress filter (24 R448)
  | turn (m : CohMsg)                    -- it waits at its line: for a row of its table (19 R374), or for a way of the filter (17 R348)
deriving DecidableEq, Repr

/-- The access kinds of 23 R421. -/
def aRead : Nat := 0
def aWrite : Nat := 1
def aExec : Nat := 2
def aAtomic : Nat := 3

/-- Where an access goes. -/
structure Loc where
  key : Nat                              -- memory key of its first byte
  va : Nat := 0
  kind : Nat := 0                        -- 0 TCM, 1 scratchpad, 2 die SRAM, 3 HBM, 4 far, 5 host, 6 peer, 7 compressed
  pid : Nat := 0
  owner : Nat := 0
  upd : Bool := false                    -- its range is of the update class
  det : Bool := false
  dev : Nat := 0
  pa : Nat := 0
  leaf : Nat := 0                        -- physical address of the leaf entry
  desc : Nat := 0                        -- descriptor of a compressed page
  tier : Nat := 0
  home : Nat × Nat × Nat := (0, 0, 0)    -- die, cluster and core of a TCM or a scratchpad
deriving DecidableEq, Repr

/-- The accessor of R156: a thread by group and thread, each clause apart from every other (11 R287).
[DEDUCED, notes/assumptions/28.md] -/
def Act.accessor (a : Act) : List Nat :=
  match a.launch with
  | none => []
  | some l =>
    match a.clauseRec with
    | none => [l.grp + 2 ^ 32 * l.kern, l.thr]
    | some _ => [l.grp + 2 ^ 32 * l.kern, l.thr, a.id + 1]

def State.whoOf (_ : State) (a : Act) : Who :=
  { ctx := a.ctx, die := a.die, cluster := a.cluster, core := a.core, slot := a.slot, act := a.id, level := a.level,
    shadow := a.shadow, launch := a.launch, ident := a.accessor, det := a.det && a.launch.isSome, view := a.view }

/-- The issuing activation. -/
def State.me (s : State) : Who := s.whoOf s.cur

/-- The device's own accesses for a context, at supervisor level (23 R415). -/
def devWho (c die : Nat) : Who := { ctx := c, die := die, level := .sup, eng := 6 }

def Who.onControl (w : Who) : Bool := decide (ctlCluster ≤ w.cluster)

/-- The node that a requester sits at: its die, or the I/O die of a management core (4 and 5). -/
def Who.node (w : Who) : Nat := if w.cluster = mgmtCluster then 4 + w.die else w.die

def Who.place (w : Who) : Nat := w.die * 65536 + w.cluster * 64 + w.core * 8 + w.slot

def isWr (acc : Nat) : Bool := acc == aWrite || acc == aAtomic

/-- Whether two byte ranges meet. -/
def overlaps (a n b m : Nat) : Bool := decide (a < b + m ∧ b < a + n)

/-! ### Local windows -/

/-- Whether a store reaches A0 to A2 of a pending clause record of the core (11 R277). -/
def State.pendingArgs (s : State) (w : Who) (off size : Nat) : Bool :=
  let r := (off - 0x1800) / 64
  let k := tcmKey w.die w.cluster w.core (0x1800 + 64 * r)
  decide (0x1800 ≤ off ∧ off < 0x2800 ∧ 0x28 ≤ off % 64 ∧ off % 64 + size ≤ 64) && s.rdN (k + 12) 4 % 4 == 1

/-- Whether a store would reach the workspace of a running activation of the core `ck` other than its issuer (03 R63): one
that holds a slot entry in any state other than trap-wait, wherever its WP lies (03 R64). -/
def State.runningWs (s : State) (w : Who) (ck off size : Nat) : Bool :=
  s.allActs.any fun a =>
    a.inSlot && a.coreKey == ck && a.id != w.act && (a.run != .trapWait || !s.isTop a) && overlaps off size a.wp 0x140

/-- The checks of 03 R63, 06 R137 and 11 R277 on a write into the TCM of a core `ck`.  A window-2 address of the issuer's own
TCM counts as its window-0 address, for its own workspace and its pending records too (R134).
[DESIGN CHOICE, notes/assumptions/49.md] -/
def State.tcmWriteOk (s : State) (w : Who) (ck : Nat) (acc off size : Nat) : Bool :=
  let inWs := decide (off < 0xF00)
  let own := ck == w.coreKey
  let free := !s.runningWs w ck off size
  let inHw := decide (off < 0x2900) && !inWs
  if w.eng != 0 then !inWs && !(inHw && w.level == .user)
  else if own then
    free && (inWs || !(inHw && w.level == .user) || (acc == aWrite && s.pendingArgs w off size))
  else free && !inWs && !(inHw && w.level == .user)

/-- Whether an address lies in window 2, 3 or 4, which no access of a shadow may name (17 R340). -/
def farWindow (va : Nat) : Bool := bits va 52 4 == 15 && decide (2 ≤ bits va 48 4 ∧ bits va 48 4 ≤ 4)

/-! ### Paths (26) -/

def Link.usable (l : Link) : Bool := l.st == 2 || l.st == 1 || l.st == 3 || l.st == 4
/-- Whether a new request waits at its sender (26 R458). -/
def Link.holds (l : Link) : Bool := l.st == 1 || l.st == 3 || l.st == 4

/-- The die links (26 R455); node 4 is io0 and node 5 io1. -/
def dieLinks : List (Nat × Nat × Nat) :=
  [(0, 0, 1), (1, 1, 3), (2, 3, 2), (3, 2, 0), (4, 0, 4), (5, 1, 4), (6, 2, 5), (7, 3, 5)]

/-- The nodes reached from `ns` over one usable die link. -/
def State.reachStep (s : State) (ns : List Nat) : List Nat :=
  dieLinks.foldl (fun r l =>
    if !(s.link l.1).usable then r
    else
      let r := if r.contains l.2.1 && !r.contains l.2.2 then l.2.2 :: r else r
      if r.contains l.2.2 && !r.contains l.2.1 then l.2.1 :: r else r) ns

/-- Whether one die can reach another over links that are not down (26 R459). -/
def State.reaches (s : State) (a b : Nat) : Bool :=
  (s.reachStep (s.reachStep (s.reachStep (s.reachStep (s.reachStep [a]))))).contains b

/-- The far-tier port of a physical address (26 R460); none for one that its device reports as lying outside its committed
capacity (R461). -/
def State.farPort? (s : State) (pa : Nat) : Option Nat :=
  match (if s.dev.uncommitted.any fun d => decide (d.1 ≤ pa ∧ pa ≤ d.2) then none
         else s.dev.decoders.find? (fun d => decide (d.1 ≤ pa ∧ pa ≤ d.2.1))) with
  | none => none
  | some d => if d.2.2.isEmpty then none else some (d.2.2.getD (pa / 65536 % d.2.2.length) 0)

def farLink (p : Nat) : Nat := 2 * 256 + p
def hostLink : Nat := 256
def frerathLink (p : Nat) : Nat := 3 * 256 + p

/-- The I/O die that an outside link belongs to (01 R11): far-tier ports 0 to 9, Frerath ports 0 to 8 and the host link to
io0, the others to io1. -/
def ioOf (l : Nat) : Nat := if (l / 256 = 2 ∧ 10 ≤ l % 256) ∨ (l / 256 = 3 ∧ 9 ≤ l % 256) then 5 else 4

/-- The up ports of a peer's route, rising: a port that retrains or is quiesced keeps its lines; with none up, those that train,
at which requests wait (26 R458, R462). [DEDUCED, notes/assumptions/38.md] -/
def State.peerPorts (s : State) (dev : Nat) : List Nat :=
  let ps := (List.range 18).filter fun p => bit (s.dev.route.getD dev 0) p && (s.link (frerathLink p)).usable
  let up := ps.filter fun p => (s.link (frerathLink p)).st != 1
  if up.isEmpty then ps else up

/-- The port that carries a line of a peer (26 R462). -/
def State.peerPort? (s : State) (dev pa : Nat) : Option Nat :=
  let ps := s.peerPorts dev
  if ps.isEmpty then none else some (ps.getD (pa / 128 % ps.length) 0)

/-- The links of the way that R459 names between two nodes, and for two dies the other way round the ring. -/
def wayOf (a b : Nat) : List Nat × List Nat :=
  let x := min a b
  let y := max a b
  match x, y with
  | 0, 1 => ([0], [3, 2, 1])
  | 0, 2 => ([3], [0, 1, 2])
  | 1, 3 => ([1], [0, 3, 2])
  | 2, 3 => ([2], [3, 0, 1])
  | 0, 3 => ([0, 1], [3, 2])
  | 1, 2 => ([0, 3], [1, 2])
  | 0, 4 => ([4], [])
  | 1, 4 => ([5], [])
  | 2, 4 => ([3, 4], [])
  | 3, 4 => ([1, 5], [])
  | 0, 5 => ([3, 6], [])
  | 1, 5 => ([1, 7], [])
  | 2, 5 => ([6], [])
  | 3, 5 => ([7], [])
  | _, _ => ([], [])

/-- Whether one node reaches another over links that are up. -/
def State.reachesUp (s : State) (a b : Nat) : Bool :=
  let down := s.setLinks (s.links.mapV fun k l => if k < 256 ∧ l.st ≠ 2 then { l with st := 0 } else l)
  down.reaches a b

/-- What a path between two nodes is (26 R458, R459), for a message that a link holds up when `hold` says so: 0 open, 1 the message
waits at its sender, 2 unreachable. -/
def State.pathFor (s : State) (hold : Link → Bool) (a b : Nat) : Nat :=
  if a = b then 0
  else
    let w := wayOf a b
    let whole := fun (p : List Nat) => !p.isEmpty && p.all fun l => (s.link l).usable
    let way := if whole w.1 then w.1 else w.2
    if whole way then (if way.any fun l => hold (s.link l) then 1 else 0)
    else if s.reachesUp a b then 0
    else if s.reaches a b then 1 else 2

/-- The same for a request. -/
def State.pathState (s : State) (a b : Nat) : Nat := s.pathFor Link.holds a b

/-- What a request from a node to a home answers: none when it can go (26 R458, R459, R470). -/
def State.pathErr (s : State) (src home addr : Nat) : Option AErr :=
  let dst := if home < 4 then (s.die home).dstate else 0
  let own := if src < 4 then (s.die src).dstate else 0
  if src = home then none
  else if 3 ≤ dst ∨ s.pathState src home = 2 then some (.data 5 addr)
  else if dst ≠ 0 ∨ own ≠ 0 ∨ s.pathState src home = 1 then some .stall
  else none

/-- What a request answers that goes from a node by way of `mid`, its home, over an outside link: the die links to the I/O
die of that link are part of its path (01 R10, R11, 26 R458). -/
def State.tierErr (s : State) (src mid l addr : Nat) : Option AErr :=
  let es := [s.pathErr src mid addr, s.pathErr mid (ioOf l) addr].filterMap id
  if !(s.link l).usable || es.any (fun e => match e with | .data _ _ => true | _ => false) then some (.xlat 4 0 addr)
  else if (s.link l).holds || !es.isEmpty then some .stall else none

/-- A local window address (06 R134, R135).  A control or management core, which has no partition, may name every cluster and
all die SRAM that is carved out, and has no window 1.  An access to another die crosses the die links (26 R458).
[DESIGN CHOICE, notes/assumptions/49.md] [DEDUCED, notes/assumptions/23.md] -/
def State.window (s : State) (w : Who) (va size acc : Nat) : Except AErr Loc :=
  let deny := Except.error (AErr.trap cPDENY 0 va)
  let k := bits va 48 4
  let die := bits va 46 2
  let cl := bits va 36 10
  let co := bits va 33 3
  let inPart := if w.onControl then decide (cl < 528) else (s.ctx w.ctx).hasCluster die cl
  let across := fun (d : Nat) (r : Except AErr Loc) => match s.pathErr w.node d va with | some e => Except.error e | none => r
  let tcm := fun (home d c n off : Nat) =>
    if isWr acc && !s.tcmWriteOk w (Machine.coreKey d c n) acc off size then Except.error (AErr.trap cPRIV 0 va)
    else across home <| Except.ok { key := tcmKey d c n off, va := va, kind := 0, home := (d, c, n) }
  if k = 0 then
    if bits va 15 33 != 0 || decide (0x8000 < va % 0x8000 + size) then deny else tcm w.node w.die w.cluster w.core (va % 0x8000)
  else if k = 1 then
    if bits va 19 29 != 0 || w.onControl || decide (0x80000 < va % 0x80000 + size) then deny
    else .ok { key := spadKey w.die w.cluster (va % 0x80000), va := va, kind := 1, home := (w.die, w.cluster, 0) }
  else if w.shadow.isSome && farWindow va then .error (.shadowEnd 10)
  else if k = 2 then
    if bits va 15 18 != 0 || decide (528 ≤ cl) || !inPart || decide (0x8000 < va % 0x8000 + size) then deny
    else tcm die die cl co (va % 0x8000)
  else if k = 3 then
    if bits va 19 17 != 0 || decide (528 ≤ cl) || !inPart || decide (0x80000 < va % 0x80000 + size) then deny
    else across die <| .ok { key := spadKey die cl (va % 0x80000), va := va, kind := 1, home := (die, cl, 0) }
  else if k = 4 then
    let off := va % 2 ^ 26
    let a := bits ((s.ctx w.ctx).word 0x78) (10 * die) 10
    let lo := a % 32 * 0x200000
    let hi := lo + a / 32 * 0x200000
    let assigned := w.onControl || decide (lo ≤ off ∧ off + size ≤ hi)
    if bits va 26 20 != 0 || !assigned || decide ((s.die die).carve * 0x200000 < off + size) then deny
    else across die <| .ok { key := sramKey die off, va := va, kind := 2 }
  else deny

/-! ### Coherence traffic (19): messages an access causes; they move no bytes of `mem` -/

/-! ### The snoop filter (19 R358, R359) -/

/-- The set of a line in its home's filter. -/
def filterSet (line : Nat) : Nat :=
  ((line % 2 ^ 17) ^^^ (line / 2 ^ 17 % 2 ^ 17)) % (if homeOfLine line < 4 then 131072 else 65536)

/-- Whether a request needs an entry of its home's snoop filter (R358): it brings a copy to another die. -/
def CohMsg.enters (m : CohMsg) : Bool :=
  m.ev ≤ 1 && m.pid != 4 && m.pid != 5 && !((m.pid == 1 || m.pid == 3) && m.ev == 1) && decide (m.line < 2 ^ 63) && m.die != homeOfLine m.line

/-- Whether the request at the head of a line waits at another line for a way of the filter (R359). -/
def State.waitsWay (s : State) (line : Nat) (b : HomeBusy) : Bool :=
  s.coh.busy.any fun x => x.1 != line && x.2.waiting.contains b.req

/-- The lines with an entry in the set of `line`: a die other than the home holds them, a request for them is being served, or a
shadow is registered there. -/
def State.filterEntries (s : State) (line : Nat) : List Nat :=
  let mine := fun (l : Nat) => decide (l < 2 ^ 63) && homeOfLine l == homeOfLine line && filterSet l == filterSet line
  let held := (s.coh.copies.filter fun p => s.holds p.2 && p.1 % 8 != homeOfLine (p.1 / 8)).map (·.1 / 8)
  let begun := (s.coh.busy.filter fun b => b.2.req.enters && !s.waitsWay b.1 b.2).map (·.1)
  ((held ++ begun ++ s.work.queues.flatMap fun q => q.2.shadow.regs).filter mine).eraseDups

/-- Where a line without an entry finds its set full, the line whose way it gets: by least recent use, among stable entries
without a shadow's registration, else among stable ones; else one in a transient state, whose end is waited for.
[DEDUCED, notes/assumptions/29.md] -/
def State.wayVictim (s : State) (line : Nat) : Option Nat :=
  let es := s.filterEntries line
  if es.contains line ∨ es.length < 16 then none
  else
    let free := es.filter fun l => (s.coh.busy.get? l).isNone
    let plain := free.filter fun l => !(s.work.queues.any fun q => q.2.shadow.regs.contains l)
    let pool := if plain.isEmpty then (if free.isEmpty then es else free) else plain
    pool.foldl (fun (r : Option Nat) l => match r with
      | none => some l
      | some x => if s.coh.used.getD l 0 < s.coh.used.getD x 0 then some l else some x) none

/-- The home's message to itself that begins a back-invalidation (19 R359). -/
def evictMsg (line : Nat) : CohMsg := { ev := 7, die := homeOfLine line, line := line, src := 9 }

/-- A shadow's registration takes an entry of the filter; in a full set a line is back-invalidated for it (17 R348). -/
def State.makeWay (s : State) (line : Nat) : State :=
  match s.wayVictim line with
  | none => s
  | some v =>
    if (s.coh.busy.get? v).isSome then s
    else s.modCoh fun h => { h with busy := h.busy.put v { req := evictMsg v, acks := 1 }, msgs := h.msgs ++ [evictMsg v] }

/-- Whether a write is pushed to the other holders (19 R364, R374): where the row says so that its die's copy takes. -/
def State.pushes (s : State) (w : Who) (loc : Loc) (acc : Nat) : Bool :=
  let c := s.copyOf w.die (loc.key / 128) loc.pid loc.owner
  loc.upd && bit ((s.tableOf c).rowAt c.st (if acc = aAtomic then 2 else 1)).act 5

/-- An access as its line's table and home see it. -/
def Who.accMsg (w : Who) (loc : Loc) (acc n : Nat) (bytes : List (Nat × Nat)) : CohMsg :=
  { ev := if acc = aAtomic then 2 else b2n (isWr acc), die := w.die, line := loc.key / 128, src := w.die, pid := loc.pid,
    owner := loc.owner, bytes := bytes, n := n, ctx := if w.onControl then 64 else w.ctx, va := loc.va, quiet := w.quiet }

/-- What an access brings about between the dies (19 R363, R364): its die's copy takes a row, or its home performs it.
[DEDUCED, notes/assumptions/29.md] -/
def State.cohAccess (s : State) (w : Who) (loc : Loc) (acc : Nat) (bytes : List (Nat × Nat)) : State :=
  if loc.kind < 3 then s
  else
    let line := loc.key / 128
    let m := w.accMsg loc acc (if isWr acc then s.coh.writes else 0) bytes
    let s := if isWr acc ∧ loc.kind ≤ 4 then s.modCoh fun h => { h with stale := if h.stale.contains line then h.stale else line :: h.stale } else s
    if loc.kind = 7 then
      let idx := loc.desc / 128 - bits ((s.ctx w.ctx).word 0x70) 7 45
      s.sendCoh { m with ev := b2n (isWr acc), src := 4 + idx % 2 }
    else if loc.pid = 4 ∨ loc.pid = 5 then s.sendCoh { m with ev := b2n (isWr acc) }
    else s.localAccess m

/-- What an access waits for at its line before it is performed: under a loaded table a row that performs it (19 R361, R374); a
shadow's read, a way of the filter for its registration (17 R348).  The device's own accesses do not wait. -/
def State.waitsFor (s : State) (w : Who) (loc : Loc) (size acc : Nat) : Option CohMsg :=
  let line := loc.key / 128
  match w.shadow with
  | some q =>
    let h := (s.queue q).shadow
    if isWr acc ∨ h.regs.contains line ∨ (List.range size).all (fun i => (h.store.get? (loc.key + i)).isSome) then none
    else (s.wayVictim line).map fun _ => { ev := 7, die := w.die, line := line }
  | none =>
    if loc.pid < 6 ∨ loc.kind = 7 ∨ w.eng = 6 then none
    else
      let m := w.accMsg loc acc 0 []
      let c := s.copyOf w.die line loc.pid loc.owner
      if c.ready.contains m.ev ∨ bit ((s.tableOf c).rowAt c.st m.ev).act 6 then none else some m

/-- Such an access is presented to its line, or a way is made for it. -/
def State.askLine (s : State) (m : CohMsg) : State := if m.ev = 7 then s.makeWay m.line else s.localAccess m

/-! ### Translation -/

def Ctx.frames (c : Ctx) : List (Nat × Nat) :=
  (List.range 4).map fun k => (bits (c.word (0xB0 + 16 * k)) 16 36 * 65536, c.word (0xB8 + 16 * k) * 65536)

/-- Whether physical bytes lie in a FRAME extent (24 R441). -/
def Ctx.inFrames (c : Ctx) (pa n : Nat) : Bool := c.frames.any fun f => decide (f.1 ≤ pa ∧ pa + n ≤ f.1 + f.2)

def eTier (e : Nat) : Nat := bits e 9 2
def eComp (e : Nat) : Bool := bit e 11

/-- Whether `n` bytes at a physical address lie in a row of R411. -/
def rowed (row : Nat → Bool) (pa n : Nat) : Bool := row pa && row (pa + n - 1)

/-- Whether an entry with V = 1 is malformed at a level (23 R414); a peer's frame lies in the rows of the peer's own map, which is
laid out as this one (R411). -/
def malformed (e l : Nat) : Bool :=
  if bit e 1 then
    let frame := bits e 16 36
    let tier := eTier e
    let comp := eComp e
    l == 3 || bits e 61 3 != 0 || bits e 13 3 != 0 || bit e 8 || ((bit e 3 || bit e 4) && !bit e 2)
      || (bits e 52 9 != 0 && tier != 3)
      || (comp && (l != 0 || decide (2 ≤ tier) || bit e 12 || decide (2 ^ 32 ≤ frame)))
      || (!comp && (frame % 2 ^ (10 * l) != 0
          || (tier == 0 && !rowed inHbm (frame * 65536) (2 ^ (16 + 10 * l)))
          || (tier == 1 && !rowed inFar (frame * 65536) (2 ^ (16 + 10 * l)))
          || (tier == 3 && !rowed inHbm (frame * 65536) (2 ^ (16 + 10 * l)) && !rowed inFar (frame * 65536) (2 ^ (16 + 10 * l)))))
  else l == 0 || bits e 52 12 != 0 || bits e 2 11 != 0 || !(inHbm (bits e 13 39 * 8192) || inFar (bits e 13 39 * 8192))

/-- A leaf found by a walk. -/
structure Leaf where
  e : Nat
  lvl : Nat
  loc : Nat                              -- physical address of the entry
deriving DecidableEq, Repr

/-- The key of a table entry in the translation caches of a die (01 R12, 23 R416). -/
def tlbKey (die c l va : Nat) : Nat := ((die * 64 + c) * 4 + l) * 2 ^ 40 + va / 2 ^ (16 + 10 * l)

/-- An entry is cached; of the 32,768 entries of a die one that is drawn makes room (01 R12). -/
def State.tlbPut (s : State) (k e : Nat) : State :=
  let l := FMap.getD s.coh.tlb k []
  let mine := s.coh.tlb.filter fun p => p.1 / 2 ^ 48 == k / 2 ^ 48
  if l.contains e then s
  else if !l.isEmpty || decide (mine.length < 32768) then s.modCoh fun h => { h with tlb := h.tlb.put k (l ++ [e]) }
  else
    let d := s.draw
    let gone := (mine.getD (d.1 % 32768) (0, [])).1
    d.2.modCoh fun h => { h with tlb := (h.tlb.del gone).put k [e] }

/-- What a request from a node to HBM or far-tier memory at a physical address answers; none when it can go (01 R10, 26 R458,
R461). -/
def State.memErr (s : State) (src pa va : Nat) : Option AErr :=
  if inHbm pa then s.pathErr src (homeOf 0 pa) va
  else
    match s.farPort? pa with
    | none => some (.xlat 5 0 va)
    | some p => s.tierErr src (homeOf 1 pa) (farLink p) va

/-- The walk of R412 from level `l - 1` down, on a die, of a node in the context's FRAME extents (24 R441).  An entry that a TLB
or walker of the die cached and that memory no longer holds may be used in place of memory's (23 R416), and must be where
memory's cannot be reached; `fresh` says that the caches are passed by.  A leaf without one of the bits `need` is not cached
(R415). [DESIGN CHOICE, notes/assumptions/7.md] [DEDUCED, notes/assumptions/30.md] -/
def State.walkGo (s : State) (die c va : Nat) (fresh : Bool) (need : Nat) : Nat → Nat → Except AErr Leaf × State
  | 0, _ => (.error (.xlat 5 0 va), s)
  | l + 1, n =>
    let a := n + 8 * bits va (16 + 10 * l) 10
    let ck := tlbKey die c l va
    let kept := if fresh then [] else FMap.getD s.coh.tlb ck []
    let way := s.memErr die a va
    if !(s.ctx c).inFrames n 8192 then (.error (.xlat 2 0 va), s)
    else if way.isSome && kept.isEmpty then (.error (way.getD .stall), s)
    else
      let m := s.rdN a 8
      let ps := if way.isSome then kept else m :: kept.filter (· != m)
      let pick := if ps.length ≤ 1 then (0, s) else s.draw
      let s := pick.2
      let p := ps.getD (pick.1 % ps.length) m
      if p % 2 = 0 then (.error (.xlat 1 l va), s)
      else if malformed p l then (.error (.xlat 5 l va), s)
      else
        let s := if bit p 1 && Nat.land p need != need then s else s.tlbPut ck p
        if bit p 1 then (.ok { e := p, lvl := l, loc := a }, s)
        else State.walkGo s die c va fresh need l (bits p 13 39 * 8192)

/-- The permission check of R415. -/
def permOk (e acc : Nat) (lvl : Level) : Bool :=
  (if acc = aRead then bit e 2 else if acc = aWrite then bit e 3 else if acc = aExec then bit e 4 else bit e 2 && bit e 3)
    && (lvl != .user || bit e 5)

/-- Whether an address lies in the context's LAUNCH area, which no user-level store may write (15 R315). -/
def Ctx.inLaunch (c : Ctx) (va size : Nat) : Bool :=
  let a := c.area 0x20
  decide (0 < a.2) && overlaps va size a.1 a.2

/-- Set A and D of a leaf (23 R415): the entry is written at its home; a swap that finds another value restarts the
walk from the root, past the caches.  A shadow sets neither. [DEDUCED, notes/assumptions/30.md] -/
def State.touchLeaf (s : State) (w : Who) (va acc : Nat) (f : Leaf) : Except AErr Leaf × State :=
  let need := !bit f.e 6 || (isWr acc && !bit f.e 7)
  if w.shadow.isSome || !need then (.ok f, s)
  else
    let upd := fun (s : State) (f : Leaf) =>
      let e := Nat.lor f.e (if isWr acc then 0xC0 else 0x40)
      let s := s.hwWrite f.loc 8 e
      (Except.ok { f with e := e }, s.tlbPut (tlbKey w.node w.ctx f.lvl va) e)
    if s.rdN f.loc 8 = f.e then upd s f
    else
      match s.walkGo w.node w.ctx va true 0 4 (s.ctx w.ctx).root with
      | (.error e, s) => (.error e, s)
      | (.ok f, s) => if permOk f.e acc w.level then upd s f else (.error (.xlat 2 0 va), s)

/-- The range entry that holds an address (19 R369); protocol 0 without DET when none does. -/
def Ctx.rangeAt (c : Ctx) (va : Nat) : Range :=
  (c.ranges.vals.find? fun r => decide (0 < r.npg ∧ r.base ≤ va ∧ va < r.base + r.npg * 65536)).getD {}

/-- Whether a protocol identity is of the update class (19 R361, R376). -/
def Ctx.updClass (c : Ctx) (pid : Nat) : Bool := pid == 1 || (decide (6 ≤ pid) && (c.tables.getD pid {}).upd)

/-- Put a run of bytes over a key range. -/
def Memory.splice (m : List Host.Cell) (lo : Nat) (bs : List Nat) : List Host.Cell :=
  let cells := ((List.range bs.length).zip bs).filterMap fun p =>
    if p.2 % 256 = 0 then none else some (lo + p.1, BitVec.ofNat 8 p.2)
  (m.filter fun p => decide (p.1 < lo)) ++ cells ++ (m.filter fun p => decide (lo + bs.length ≤ p.1))

/-- The bytes of a compressed page's block, from its sectors in order (23 R428). -/
def State.compBlock (s : State) (desc clen : Nat) : List Nat :=
  (List.range clen).map fun j =>
    (s.rd (bits (s.rdN (desc + 0x10 + 5 * (j / 4096)) 5) 0 40 * 4096 + j % 4096)).toNat

/-- A home keeps decompressed copies of 1,024 pages: of more, one that is drawn goes (23 R429).  A copy is held with the
parity of its page's index, which names its home. -/
def State.fitPages (s : State) (io : Nat) : State :=
  let mine := s.coh.pages.filter fun p => p.2 % 2 == io
  if mine.length < 1024 then s
  else
    let d := s.draw
    let gone := (mine.getD (d.1 % mine.length) (0, 0)).1
    (d.2.setMem (Memory.zero d.2.mem (compKey gone 0) (compKey gone 65536))).modCoh fun h =>
      { h with pages := h.pages.del gone, pageVas := h.pageVas.del gone }

/-- A page address of a context names a compressed page whose copy its home holds: a `tlbinv` of the address drops the copy
(23 R429). -/
def State.notePage (s : State) (desc c va : Nat) : State :=
  let x := c * 2 ^ 40 + va / 65536
  let l := FMap.getD s.coh.pageVas desc []
  if l.contains x then s else s.modCoh fun h => { h with pageVas := h.pageVas.put desc (x :: l) }

/-- What an access to a compressed page answers before its home serves it: the way to the I/O die of its compression engine
(23 R429), and from there to its sectors; a sector on the far tier needs its port (R419). -/
def State.compErr (s : State) (w : Who) (desc idx va : Nat) : Option AErr :=
  let io := 4 + idx % 2
  let secs := (List.range (min 15 (s.rdN desc 1))).map fun k => bits (s.rdN (desc + 0x10 + 5 * k) 5) 0 40 * 4096
  match s.pathErr w.node io va with
  | some e => some e
  | none => (secs.filter fun pa => inHbm pa || inFar pa).findSome? fun pa => s.memErr io pa va

/-- The decompressed copy of a page at its home, or none when a check of R428 fails. -/
def State.decompress (s : State) (desc io : Nat) : Option State :=
  if (s.coh.pages.get? desc).isSome then some s
  else
    let nsec := s.rdN desc 1
    let clen := s.rdN (desc + 4) 4
    let reserved := s.rdN (desc + 1) 1 + s.rdN (desc + 6) 2 + s.rdN (desc + 12) 4 + s.rdN (desc + 0x5B) 0x25
    if nsec < 1 ∨ 15 < nsec ∨ clen < (nsec - 1) * 4096 + 1 ∨ nsec * 4096 < clen ∨ reserved ≠ 0 then none
    else
      match lz4Decode (s.compBlock desc clen) with
      | none => none
      | some page =>
        if crc32c page != s.rdN (desc + 8) 4 then none
        else
          let s := s.fitPages io
          let s := s.setMem (Memory.splice s.mem (compKey desc 0) page)
          some (s.modCoh fun h => { h with pages := h.pages.put desc io })

/-- The place a leaf maps an address to: tier, path, protocol. -/
def State.place (s : State) (w : Who) (va acc : Nat) (f : Leaf) : Except AErr Loc × State :=
  let c := s.ctx w.ctx
  let r := c.rangeAt va
  let frame := bits f.e 16 36 * 65536
  let off := va % 2 ^ (16 + 10 * f.lvl)
  let base : Loc := { key := 0, va := va, pid := r.pid, owner := if 6 ≤ r.pid then w.ctx else 0, upd := c.updClass r.pid,
                      det := r.det, leaf := f.loc, tier := eTier f.e }
  let tier := eTier f.e
  if w.shadow.isSome && decide (2 ≤ tier) then (.error (.shadowEnd 10), s)
  else if 2 ≤ tier ∧ r.pid ≠ 0 ∧ r.pid ≠ 5 then (.error (.trap cRANGE 0 va), s)
  else if eComp f.e then
    let desc := bits (c.word 0x70) 7 45 * 128 + 128 * bits f.e 16 32
    if w.shadow.isSome && isWr acc then (.error (.shadowEnd 7), s)
    else
      match s.compErr w desc (bits f.e 16 32) va with
      | some e => (.error e, s)
      | none =>
        match s.decompress desc (bits f.e 16 32 % 2) with
        | none => (.error (.data 1 va), s)
        | some s => (.ok { base with key := compKey desc off, kind := 7, desc := desc, pa := desc }, s.notePage desc w.ctx va)
  else if tier = 0 then
    match s.pathErr w.node (homeOf 0 (frame + off)) va with
    | some e => (.error e, s)
    | none => (.ok { base with key := frame + off, kind := 3, pa := frame + off }, s)
  else if tier = 1 then
    match s.farPort? (frame + off) with
    | none => (.error (.xlat 5 f.lvl va), s)
    | some p =>
      match s.tierErr w.node (homeOf 1 (frame + off)) (farLink p) va with
      | some e => (.error e, s)
      | none => (.ok { base with key := frame + off, kind := 4, pa := frame + off }, s)
  else if tier = 2 then
    match s.tierErr w.node w.node hostLink va with
    | some e => (.error e, s)
    | none =>
      let ak := w.ctx * 2 ^ 64 + (frame + off) / 4096
      match s.coh.ats.get? ak with
      | none => (.error .stall, s)
      | some (pa, perm) =>
        let s' := s.modCoh fun h => { h with ats := h.ats.del ak }
        let hp := pa * 4096 + off % 4096
        if 2 ^ 40 ≤ pa then (.error (.xlat 4 8 va), s')
        else if (acc != aWrite && !bit perm 0) || (isWr acc && !bit perm 1) then (.error (.xlat 6 8 va), s')
        else
          match s.tierErr w.node (homeOf 2 hp) hostLink va with
          | some e => (.error e, s)
          | none => (.ok { base with key := hostKey hp, kind := 5, pa := hp }, s)
  else
    let dev := bits f.e 52 9
    if 431 < dev ∨ dev = s.dev.devnum then (.error (.xlat 4 0 va), s)
    else
      match s.peerPort? dev (frame + off) with
      | none => (.error (.xlat 4 0 va), s)
      | some p =>
        match s.tierErr w.node (ioOf (frerathLink p)) (frerathLink p) va with
        | some e => (.error e, s)
        | none => (.ok { base with key := peerKey dev (frame + off), kind := 6, dev := dev, pa := frame + off }, s)

/-- Translation of an access (23 R412, R415), which may wait for its turn at its line (19 R374). -/
def State.translate (s : State) (w : Who) (va size acc : Nat) : Except AErr Loc × State :=
  let need := if w.shadow.isNone then 0 else if isWr acc then 0xC0 else 0x40
  match s.walkGo w.node w.ctx va false need 4 (s.ctx w.ctx).root with
  | (.error e, s) => (.error e, s)
  | (.ok f, s) =>
    let c := s.ctx w.ctx
    if !permOk f.e acc w.level || (w.level == .user && isWr acc && c.inLaunch va size) then (.error (.xlat 2 0 va), s)
    else if !eComp f.e && decide (eTier f.e < 2) && !c.inFrames (bits f.e 16 36 * 65536) (2 ^ (16 + 10 * f.lvl)) then
      (.error (.xlat 2 0 va), s)
    else
      match s.touchLeaf w va acc f with
      | (.error e, s) => (.error e, s)
      | (.ok f, s) =>
        match s.place w va acc f with
        | (.error e, s) => (.error e, s)
        | (.ok loc, s) => ((match s.waitsFor w loc size acc with | some m => .error (.turn m) | none => .ok loc), s)

/-- The egress filter of a firmware-level core (24 R448). -/
def Core.egressOk (c : Core) (pa size acc : Nat) : Bool :=
  (List.range 16).any fun k =>
    let b := c.egress.getD (2 * k) 0
    let l := c.egress.getD (2 * k + 1) 0
    decide (bits b 12 40 * 4096 ≤ pa ∧ pa + size ≤ bits l 12 40 * 4096 + 4096)
      && (if isWr acc then bit b 1 && (acc != aAtomic || bit b 0) else bit b 0)

/-- A physical access of a control or management core (24 R436); one whose way is unreachable receives an error reply.
[DESIGN CHOICE, notes/assumptions/10.md] -/
def State.physical (s : State) (w : Who) (va size acc : Nat) : Except AErr Loc × State :=
  let pa := va % 2 ^ 52
  if w.level == .fw && !(s.core w.coreKey).egressOk pa size acc then
    (.error (.egress pa), s)
  else if inHbm pa then
    match s.pathErr w.node (homeOf 0 pa) va with
    | some e => (.error e, s)
    | none => (.ok { key := pa, va := va, kind := 3, pa := pa }, s)
  else if inFar pa then
    match s.farPort? pa with
    | none => (.error (.nomem pa), s)
    | some p =>
      match s.tierErr w.node (homeOf 1 pa) (farLink p) va with
      | some (.xlat _ _ _) => (.error (.data 3 va), s)
      | some e => (.error e, s)
      | none => (.ok { key := pa, va := va, kind := 4, pa := pa, tier := 1 }, s)
  else (.error (.nomem pa), s)

/-- Where an access of `size` bytes at a 56-bit address goes, after the local-window checks or translation
(07 R160 steps 3 and 4). -/
def State.locate (s : State) (w : Who) (va size acc : Nat) : Except AErr Loc × State :=
  if bits va 52 4 = 15 then (s.window w va size acc, s)
  else if w.onControl then s.physical w va size acc
  else s.translate w va size acc

/-! ### Launches and groups, as accesses need them -/

def State.launch? (s : State) (q lseq : Nat) : Option Launch := s.work.launches.find? fun l => l.q == q && l.lseq == lseq

def State.group? (s : State) (l : LaunchId) : Option Group :=
  s.work.groups.find? fun x => x.q == l.q && x.lseq == l.lseq && x.g == l.grp && x.kern == l.kern

/-- The interval stamp of an accessor (06 R156). [DEDUCED, notes/assumptions/28.md] -/
def State.stamp (s : State) (l : LaunchId) : Nat × Nat :=
  (((s.group? l).map (·.gb)).getD 0, ((s.launch? l.q l.lseq).map (·.lb)).getD 0)

/-- The key of a launch's record of a line; a shadow's records are a set of their own (17 R349). -/
def recKey (l : LaunchId) (shadow : Bool) (line : Nat) : Nat :=
  (((l.q * 2 + b2n shadow) * 2 ^ 64 + l.lseq) * 2 ^ 80) + line

/-! ### Reading -/

/-- The 128 bytes of a line as one number. -/
def State.lineVal (s : State) (line : Nat) : Nat := s.rdN (line * 128) 128

/-- Whether an access is held in an L1 (06 R133, R142, 19 R364, 23 R429): a translated one of a thread. -/
def cachable (w : Who) (loc : Loc) : Bool :=
  w.eng == 0 && !w.onControl && w.shadow.isNone && decide (3 ≤ loc.kind ∧ loc.kind ≤ 6) && loc.pid != 4 && loc.pid != 5
    && !loc.det

/-- Fill a line of a core's L1; of its 128 lines one that is drawn makes room (06 R142). -/
def State.l1Fill (s : State) (ck line v : Nat) : State :=
  let l1 := (s.core ck).l1
  if l1.length < 128 || (l1.get? line).isSome then s.modCore ck fun k => { k with l1 := k.l1.put line v }
  else
    let d := s.draw
    let gone := (l1[d.1 % 128]?.getD (0, 0)).1
    d.2.modCore ck fun k => { k with l1 := (k.l1.del gone).put line v }

/-! ### What an access that is not ordered may read or leave (06 R147, R151, 07 R188) -/

/-- The word as it was before a write. -/
def Past.undo (v : Nat) (p : Past) : Nat := patchLine v p.lo p.len p.old

/-- The writes on record to a word that an access may miss: those after the last one that it must see. -/
def State.missable (s : State) (w : Who) (wr : Bool) (word : Nat) : List Past :=
  ((s.race.filter (·.word == word)).reverse.takeWhile fun p => !w.mustSee wr p).reverse

/-- How many of some writes, the first ones, an access may see: a command's writes of one step to one word are seen together
(06 R144), and a command reads a word once. -/
def cuts (w : Who) (ps : List Past) : List Nat :=
  let n := (ps.takeWhile fun p => !p.miss.contains w.party).length
  (List.range (n + 1)).filter fun k =>
    (k == 0 || k == n) || (match ps[k - 1]?, ps[k]? with
      | some p, some q => p.cmd.isNone || p.cmd != q.cmd || p.at_ != q.at_
      | _, _ => true)

/-- The part of one word in a read of `n` bytes at a key, of which `r` is what has been found so far: how many of the writes
on record it sees is a free choice (06 R147).  What a party has seen it sees again (R144), and in MCA ranges so does every
other party from then on (R148). -/
def State.readWord (w : Who) (key n : Nat) (r : Nat × State) (word : Nat) : Nat × State :=
  let all := r.2.race.filter (·.word == word)
  if all.isEmpty then r
  else
    let ps := r.2.missable w false word
    let ks := cuts w ps
    let d := if ks.length ≤ 1 then (0, r.2) else r.2.draw
    let k := ks.getD (d.1 % ks.length) 0
    let lo := max key (word * 8)
    let m := min (key + n) (word * 8 + 8) - lo
    let now := patchLine (d.2.rdN (word * 8) 8) (lo - word * 8) m (bits r.1 (8 * (lo - key)) (8 * m))
    let v := (ps.drop k).reverse.foldl Past.undo now
    let out := ps.drop k
    let clk := d.2.sched.clock
    let s := d.2.mapRace fun p =>
      if p.word ≠ word then p
      else if out.contains p then (if w.cmd.isSome then { p with miss := insertNew w.party p.miss } else p)
      else p.seen w.party clk
    let s := if out.isEmpty then s.observe [(word, word)] else s
    let s := if w.cmd.isNone ∧ s.cur.id = w.act then s.modCur fun a => { a with sawAt := clk } else s
    (patchLine r.1 (lo - key) m (bits v (8 * (lo - word * 8)) (8 * m)), s)

/-- The aligned words that `n` bytes at a key lie in. -/
def wordsOf (key n : Nat) : List Nat := (List.range ((key + n + 7) / 8 - key / 8)).map fun i => key / 8 + i

/-- What an access reads of bytes whose present value is `v`: each aligned word apart (06 R144). -/
def State.readRace (s : State) (w : Who) (key n v : Nat) : Nat × State :=
  if s.race.isEmpty then (v, s) else (wordsOf key n).foldl (State.readWord w key n) (v, s)

/-- The part of one word in a command's write: bytes that a store of its issuer, or another command of its core, has put
there without an order between them may stay (07 R188).  A `pfill` leaves nothing but what it copies (15 R327), and in a TCM
what arrives from elsewhere stays only until the next write arrives (06 R152). -/
def State.writeWord (w : Who) (key n : Nat) (r : Nat × State) (word : Nat) : Nat × State :=
  let lo := max key (word * 8)
  let hi := min (key + n) (word * 8 + 8)
  let tcm := decide (tcmKey 0 0 0 0 ≤ key ∧ key < spadKey 0 0 0)
  let ps := (r.2.missable w true word).filter fun p =>
    p.ck == w.coreKey && (p.act == w.act || p.cmd.isSome) && (!tcm || p.cmd.isNone)
      && p.cmd != w.cmd.map (fun c => (w.coreKey, c)) && overlaps (word * 8 + p.lo) p.len lo (hi - lo)
  if ps.isEmpty then r
  else
    let d := r.2.draw
    let keep := fun (v : Nat) (p : Past) =>
      let a := max lo (word * 8 + p.lo)
      let b := min hi (word * 8 + p.lo + p.len)
      patchLine v (a - key) (b - a) (d.2.rdN a (b - a))
    ((ps.drop (d.1 % (ps.length + 1))).foldl keep r.1, d.2)

/-- What a command's write of `v` leaves in its bytes. -/
def State.writeRace (s : State) (w : Who) (key n v : Nat) : Nat × State :=
  if w.cmd.isNone || w.fill.isSome || s.race.isEmpty then (v, s) else (wordsOf key n).foldl (State.writeWord w key n) (v, s)

/-- A write goes on record with what its bytes held, for accesses that are not ordered after it (06 R151), and stands at its
words in place of what was released there. -/
def State.keepPast (s : State) (w : Who) (mca rmw : Bool) (key n : Nat) : State :=
  let hw := w.cmd.isNone && w.eng != 0
  if hw && !s.watches then s
  else
    let one := fun (word : Nat) =>
      let lo := max key (word * 8)
      let hi := min (key + n) (word * 8 + 8)
      ({ word := word, lo := lo - word * 8, len := hi - lo, old := s.rdN lo (hi - lo), at_ := s.sched.clock, act := w.act,
         ck := w.coreKey, cmd := w.cmd.map fun c => (w.coreKey, c), launch := w.launch.map fun l => (l.q, l.lseq), mca := mca,
         vis := if hw then [(6, 0, 0)] else [] } : Past)
    let s := (wordsOf key n).foldl (fun s x => s.cutPoint w x rmw) s
    s.setRace (s.race ++ (wordsOf key n).map one)

/-- What a party reads of bytes inside one line: its shadow's store over memory, the shadow being registered on a line of which it
reads memory (17 R348), its die's copy under an update-class
protocol, a stale or a fresh L1 copy (06 R142). [DESIGN CHOICE, notes/assumptions/3.md]
[DEDUCED, notes/assumptions/29.md] -/
def State.readLine (s : State) (w : Who) (loc : Loc) (n : Nat) : Nat × State :=
  let line := loc.key / 128
  let o := loc.key % 128
  match w.shadow with
  | some q =>
    if loc.kind < 3 then s.readRace w loc.key n (s.rdN loc.key n)
    else
      let sh := (s.queue q).shadow
      let own := (List.range n).all fun i => (sh.store.get? (loc.key + i)).isSome
      let v := (List.range n).foldr (fun i v => (sh.store.get? (loc.key + i)).getD (s.rd (loc.key + i)).toNat + 256 * v) 0
      let s := if own then s else (s.makeWay line).modQueue q fun x => { x with shadow := { x.shadow with
        regs := if x.shadow.regs.contains line then x.shadow.regs else line :: x.shadow.regs
        vas := if x.shadow.vas.any (·.1 == loc.va / 65536) then x.shadow.vas else (loc.va / 65536, 0) :: x.shadow.vas } }
      (v, s)
  | none =>
    let whole := if loc.upd then ((s.coh.upd.get? (line * 8 + w.die)).map (·.base)).getD (s.lineVal line) else 0
    let fresh := if loc.upd then bits whole (8 * o) (8 * n) else s.rdN loc.key n
    let new := fun (s : State) => s.readRace w loc.key n fresh
    if !cachable w loc then new s
    else
      let l1 := (s.core w.coreKey).l1
      match l1.get? line with
      | some v =>
        let old := bits v (8 * o) (8 * n)
        if old = fresh then new s
        else
          let c := s.flip
          if c.1 then (old, c.2)
          else new (c.2.l1Fill w.coreKey line (if loc.upd then whole else s.lineVal line))
      | none => new (s.l1Fill w.coreKey line (if loc.upd then whole else s.lineVal line))

/-- The link that carries an access beyond the package's dies: of its far-tier port, the host, or a Frerath port. -/
def State.linkOf (s : State) (loc : Loc) : Option Nat :=
  if loc.kind = 4 then (s.farPort? loc.pa).map farLink
  else if loc.kind = 5 then some hostLink
  else if loc.kind = 6 then (s.peerPort? loc.dev loc.pa).map frerathLink
  else none

/-- A read of the issuer over such a link is remembered while its instruction lasts: a lookahead window keeps it. -/
def State.noteRemote (s : State) (w : Who) (loc : Loc) : State :=
  match (if w.eng = 0 ∧ s.cur.id = w.act then s.linkOf loc else none) with
  | some l => s.modCur fun a => { a with remote := some (l, loc.va) }
  | none => s

/-- Bytes of a TCM as a party that is not on its core reads them: a register of an open window is there as its old or as its
new value, whole (03 R73). -/
def State.readWins (s : State) (w : Who) (loc : Loc) (n v : Nat) : Nat × State :=
  let ck := Machine.coreKey loc.home.1 loc.home.2.1 loc.home.2.2
  if ck = w.coreKey ∧ w.eng = 0 then (v, s)
  else
    let part := fun (v a m x : Nat) =>
      let lo := max loc.key a
      let hi := min (loc.key + n) (a + m)
      if lo < hi then patchLine v (lo - loc.key) (hi - lo) (bits x (8 * (lo - a)) (8 * (hi - lo))) else v
    let one := fun (k : Nat) (p : Nat × State) (r : Nat × Nat × Nat) =>
      if 32 ≤ r.1 ∨ !(overlaps (k + 8 * r.1) 8 loc.key n || overlaps (k + 0x100 + r.1) 1 loc.key n) then p
      else
        let f := p.2.flip
        (if f.1 then part (part p.1 (k + 8 * r.1) 8 r.2.1) (k + 0x100 + r.1) 1 r.2.2 else p.1, f.2)
    (s.allActs.filter fun a => a.coreKey == ck && a.parked.isNone).foldl (fun p a =>
      a.wins.foldl (fun p x => x.old.foldl (one a.wsKey) p) p) (v, s)

/-- The index of a context whose region holds an address. -/
def Ctx.indexAt (c : Ctx) (va : Nat) : Option Nat :=
  (c.indexes.find? fun p => decide (p.1 ≤ va ∧ va < p.1 + p.2.size)).map (·.1)

/-- Whether a read is of the engines' working area in an index's control page: it finds what they have put there, which no rule
gives (21 R384). [DESIGN CHOICE, notes/assumptions/32.md] -/
def State.workArea (s : State) (w : Who) (loc : Loc) : Bool :=
  w.eng != 3 && decide (3 ≤ loc.kind) &&
    (match (s.ctx w.ctx).indexAt loc.va with
     | some b => decide (b + 0x300 ≤ loc.va ∧ loc.va < b + 0x10000)
     | none => false)

/-- A read at a place, of bytes inside one line. -/
def State.readAt (s : State) (w : Who) (loc : Loc) (n : Nat) : Nat × State :=
  let r := s.readLine w loc n
  let r := if s.workArea w loc then (let d := r.2.draw; (d.1 % 256 ^ n, d.2)) else r
  let r := if loc.kind = 0 then r.2.readWins w loc n r.1 else r
  (r.1, if w.shadow.isSome then r.2 else (r.2.noteRemote w loc).cohAccess w loc aRead [])

/-- An atomic or a reserving load reads the newest value; the copies that its party reads do not stay behind it
(06 R144). -/
def State.catchUp (s : State) (w : Who) (loc : Loc) (n : Nat) : State :=
  let line := loc.key / 128
  let o := loc.key % 128
  let hit := fun (x : UpdWrite) => x.bytes.any fun b => decide (o ≤ b.1 ∧ b.1 < o + n)
  let s := if loc.upd then s.modCoh fun h => h.takeUpd (fun k => k == line * 8 + w.die) hit else s
  let now := s.sched.clock
  let words := wordsOf loc.key n
  let s := s.mapRace fun p => if words.contains p.word then p.seen w.party now else p
  let s := s.observe (words.map fun x => (x, x))
  let s := if s.cur.id = w.act then s.modCur fun a => { a with sawAt := now } else s
  if ((s.core w.coreKey).l1.get? line).isSome then s.modCore w.coreKey fun k => { k with l1 := k.l1.del line } else s

/-! ### Loads with the replicate hint -/

/-- A load with the replicate hint (06 R141): one of the values the location has held since the requester's nearest L2 slice
was filled with it in its launch; outside a launch the hint is ignored.  Which slice is nearest is a constant of the
machine. [DESIGN CHOICE, notes/assumptions/3.md] -/
def State.readHinted (s : State) (w : Who) (loc : Loc) (n : Nat) : Nat × State :=
  if loc.kind < 3 ∨ loc.upd ∨ loc.pid = 4 ∨ loc.pid = 5 ∨ loc.det ∨ w.shadow.isSome ∨ loc.kind = 7 ∨ w.launch.isNone then
    s.readAt w loc n
  else
    let line := loc.key / 128
    let slice := Config.nearestSlice (Machine.clusterKey w.die w.cluster) % 48
    let k := (match w.launch with | some l => l.q * 2 ^ 64 + l.lseq + 1 | none => 0) * 2 ^ 80 + line * 256 + w.die * 64 + slice
    let vs := (s.coh.repl.get? k).getD [s.lineVal line]
    let s := if (s.coh.repl.get? k).isSome then s else s.fill w.die line false
    let s := s.modCoh fun h => { h with repl := h.repl.put k vs }
    let pick := if vs.length ≤ 1 then (0, s) else s.draw
    let v := vs.getD (pick.1 % vs.length) 0
    (bits v (8 * (loc.key % 128)) (8 * n), pick.2)

/-! ### Writing -/

/-- The live activation of a core whose workspace holds a TCM offset, with the offset inside it. -/
def State.wsAt (s : State) (die cluster core off : Nat) : Option Nat :=
  (s.allActs.find? fun a => a.inSlot && a.die == die && a.cluster == cluster && a.core == core && a.wpOk && decide (a.wp ≤ off ∧ off < a.wp + 0x140)).map
    fun a => off - a.wp

/-- Bytes of a workspace that a store leaves unchanged: PC[63:56] and ST[63:16] (03 R56, 10 R253). -/
def roByte (rel : Nat) : Bool := rel == 7 || decide (0x122 ≤ rel ∧ rel < 0x128)

/-- Write bytes of a TCM, leaving the read-only bytes of live workspaces. [DEDUCED, notes/assumptions/12.md] -/
def State.tcmStore (s : State) (die cluster core off : Nat) : Nat → Nat → State
  | 0, _ => s
  | n + 1, v =>
    let ro := (match s.wsAt die cluster core off with | some r => roByte r | none => false)
    State.tcmStore (if ro then s else s.wrN (tcmKey die cluster core off) 1 (v % 256)) die cluster core (off + 1) n (v / 256)

/-- The effects of any write to a line on other parties: reservations are cancelled (07 R177) and shadows registered on
it are killed (17 R348). -/
def State.disturb (s : State) (w : Who) (key n : Nat) : State :=
  s.disturbKey (fun a => a.id == w.act && w.eng == 0) key n

/-- Shadows whose cores or clusters a window-2 or window-3 write reaches are killed (17 R348). -/
def State.disturbLocal (s : State) (w : Who) (die cluster : Nat) (core : Option Nat) : State :=
  if w.shadow.isSome then s
  else
    let holds := fun (g : Group) => g.shadow.isSome && g.die == die && g.cluster == cluster &&
      (match core with | some c => decide (g.c0 ≤ c ∧ c < g.c0 + g.f) | none => true)
    match s.work.groups.find? holds with
    | some g => (match g.shadow with | some q => s.discardShadow q 4 | none => s)
    | none => s

/-- What a TCM write is logged as (06 R154): a write of the matrix unit or of an index engine as the copy engine's.
[DESIGN CHOICE, notes/assumptions/49.md] -/
def Who.traceKind (w : Who) (acc : Nat) : Nat := if w.eng != 0 then 2 else if acc = aAtomic then 1 else 0

/-- A location the device itself reaches for a context; none when it does not translate, or is a local window (23 R412). -/
def State.devLoc (s : State) (c die va size acc : Nat) : Option Loc × State :=
  if bits va 52 4 = 15 then (none, s)
  else
    match s.translate (devWho c die) (va % 2 ^ 56) size acc with
    | (.ok l, s) => (some l, s)
    | (.error _, s) => (none, s)

/-- The device writes an image to a context's memory, `k` lines from `va`.  The manual gives no layout of it: the bytes are
free values. [DESIGN CHOICE, notes/assumptions/34.md] -/
def State.writeImage (s : State) (c die va : Nat) : Nat → State
  | 0 => s
  | k + 1 =>
    match s.devLoc c die va 128 aWrite with
    | (none, s) => s
    | (some loc, s) => (let f := s.draw; f.2.hwWrite loc.key 128 f.1).writeImage c die (va + 128) k

/-- What L2 does not hold lies in an area of the context, at descriptor offset `off`, of which `need` bytes are then in use:
the last line of them is written (06 R158; 19 R365).  A context whose area has less room is frozen with reason AREA, and
nothing is lost (24 R441, R447). [DESIGN CHOICE, notes/assumptions/28.md] -/
def State.spill (s : State) (c die off need : Nat) : State :=
  let a := (s.ctx c).area off
  if need = 0 then s
  else if a.2 < need then s.freeze c 4 off
  else s.writeImage c die (a.1 + (need - 1) / 128 * 128) 1

/-- The access of R156 to a deterministic line; none when it conflicts. [DEDUCED, notes/assumptions/28.md] -/
def State.record (s : State) (w : Who) (loc : Loc) (isWrite : Bool) : Option State :=
  match w.launch with
  | none => some s
  | some l =>
    if !(loc.det && w.det) then some s
    else
      let k := recKey l w.shadow.isSome (loc.key / 128)
      let st := s.stamp l
      let fresh : AccRec := { first := w.ident, gb := st.1, lb := st.2, other := false, written := false }
      let r :=
        match (s.ctx w.ctx).recs.get? k with
        | none => fresh
        | some r => if r.lb < st.2 ∨ (w.ident.head? = r.first.head? ∧ r.gb < st.1) then fresh else r
      let other := r.other || w.ident != r.first
      let written := r.written || isWrite
      if other && written then none
      else
        let new := ((s.ctx w.ctx).recs.get? k).isNone
        let s := s.modCtx w.ctx fun c => { c with recs := c.recs.put k { r with other := other, written := written } }
        some (if new && w.shadow.isNone then s.spill w.ctx w.die 0x48 (Config.recordSpill (s.ctx w.ctx).recs.length) else s)

/-- Replicas keep every content a line has held since they were filled (06 R141). -/
def State.growReplicas (s : State) (line : Nat) : State :=
  s.modCoh fun h => { h with repl := h.repl.mapV fun k vs => if k % 2 ^ 80 / 256 = line then vs ++ [s.lineVal line] else vs }

/-- A shadow's write into its store (17 R347); refused when its share of the die's lines is used up. -/
def State.shadowStore (s : State) (w : Who) (q : Nat) (loc : Loc) (n v : Nat) : Except AErr State :=
  let line := loc.key / 128
  let new := !((s.queue q).shadow.lines.any (·.1 == line))
  let share := fun (e : Nat × Queue) => if e.2.ctx = w.ctx then (e.2.shadow.lines.filter (·.2.1 == w.die)).length else 0
  let held := s.work.queues.foldl (fun k e => k + share e) 0
  if new && decide (bits (s.ctx w.ctx).shallot (6 * w.die) 6 * 8192 ≤ held) then .error (.shadowEnd 6)
  else
    .ok (s.modQueue q fun x =>
      let h := x.shadow
      let store := (List.range n).foldl (fun m i => m.put (loc.key + i) (v / 256 ^ i % 256)) h.store
      let lines := if new then (line, w.die, loc.va) :: h.lines else h.lines
      let vas := (loc.va / 65536, 1) :: h.vas.filter (·.1 != loc.va / 65536)
      { x with shadow := { h with store := store, lines := lines, vas := vas } })

/-- The key of a halfword that a launch's stores have changed. -/
def codeKey (q lseq half : Nat) : Nat := (q * 2 ^ 64 + lseq) * 2 ^ 80 + half

/-- Halfwords that a store during a launch changes keep their old content for the fetches of that launch's clusters
(03 R58). [DEDUCED, notes/assumptions/44.md] -/
def State.keepCode (s : State) (key n : Nat) (old : Nat → Nat) : State :=
  let halves := ((List.range ((key + n - 1) / 2 - key / 2 + 1)).map fun i => key / 2 + i).filter fun a => s.rdN (2 * a) 2 != old a
  s.work.launches.foldl (fun s l =>
    s.modCoh fun h =>
      { h with code := halves.foldl (fun m a =>
          let k := codeKey l.q l.lseq a
          FMap.put m k (FMap.getD m k [] ++ [old a])) h.code }) s

/-- A write into an index's region by another party than an index engine, through whatever mapping (21 R388).
[DEDUCED, notes/assumptions/32.md] -/
def State.markForeign (s : State) (w : Who) (loc : Loc) : State :=
  if w.eng = 3 ∨ s.ctxs.all (fun c => c.2.indexes.isEmpty) then s
  else
    let here := (s.ctx w.ctx).indexAt loc.va
    s.setCtxs (s.ctxs.mapV fun c x => { x with indexes := x.indexes.mapV fun b k =>
      if (c = w.ctx ∧ here = some b) ∨ k.frames.contains (loc.key / 65536) then { k with foreign := true } else k })

/-- A write to a decompressed copy: its page is recompressed; when the block does not fit its sectors the write is not
performed (23 R430).  A block that leaves sectors unused is written too, and fails the check of CLEN (R428) when it is next
decompressed. [DEDUCED, notes/assumptions/53.md] -/
def State.writeComp (s : State) (w : Who) (loc : Loc) (n v acc : Nat) : Except AErr State :=
  let s' := s.wrN loc.key n v
  let page := (s'.rdBytes (compKey loc.desc 0) 65536).map (·.toNat)
  let blk := lz4Encode page
  let nsec := s.rdN loc.desc 1
  if nsec * 4096 < blk.length then .error (.xlat 3 0 loc.va)
  else
    let sector := fun (k : Nat) => bits (s.rdN (loc.desc + 0x10 + 5 * k) 5) 0 40 * 4096
    let s' := (List.range nsec).foldl
      (fun s k => s.setMem (Memory.splice s.mem (sector k) ((blk.drop (4096 * k)).take 4096))) s'
    let s' := (s'.wrN (loc.desc + 4) 4 blk.length).wrN (loc.desc + 8) 4 (crc32c page)
    let s' := s'.keepCode loc.key n fun a => s.rdN (2 * a) 2
    .ok (((s'.markForeign w loc).disturb w loc.key n).cohAccess w loc acc [])

/-- Before a write under the update class: every other holder keeps what it reads until its update arrives (06 R149).
[DEDUCED, notes/assumptions/29.md] -/
def State.keepUpd (s : State) (w : Who) (loc : Loc) (n v : Nat) : State :=
  let line := loc.key / 128
  let others := s.coh.copies.filter fun p => p.1 / 8 == line && p.1 % 8 != w.die && s.holds p.2
  let old := s.lineVal line
  let x : UpdWrite :=
    { n := s.coh.writes + 1, act := w.act, cmd := w.cmd.map fun c => (w.coreKey, c),
      launch := w.launch.map fun l => (l.q, l.lseq),
      bytes := (List.range n).map fun i => (loc.key % 128 + i, v / 256 ^ i % 256) }
  let add := fun (m : FMap UpdView) (p : Nat × Copy) =>
    let u := (FMap.get? m p.1).getD { base := old }
    FMap.put m p.1 { u with pend := u.pend ++ [x] }
  s.modCoh fun h => { h with upd := others.foldl add h.upd, writes := h.writes + 1 }

/-- After a write, the copies that the writer itself reads hold the new bytes: its die's copy under the update class and
its core's L1 (06 R142, R149). -/
def State.patchOwn (s : State) (w : Who) (loc : Loc) (n v : Nat) : State :=
  let line := loc.key / 128
  let o := loc.key % 128
  let s :=
    match (if loc.upd then s.coh.upd.get? (line * 8 + w.die) else none) with
    | some x =>
      let x := x.apply ((List.range n).map fun i => (o + i, v / 256 ^ i % 256))
      s.modCoh fun h =>
        { h with upd := if x.pend.isEmpty then h.upd.del (line * 8 + w.die) else h.upd.put (line * 8 + w.die) x }
    | none => s
  match (if w.eng = 0 then (s.core w.coreKey).l1.get? line else none) with
  | some x => s.modCore w.coreKey fun k => { k with l1 := k.l1.put line (patchLine x o n v) }
  | none => s

/-- A posted write of a thread or of a command on its way over the host or a Frerath link (26 R464), until it is acknowledged;
its activation counts it. -/
def State.postLink (s : State) (w : Who) (loc : Loc) (n v old : Nat) : State :=
  if w.eng ≠ 0 ∧ w.cmd.isNone then s
  else
    let lk := (s.linkOf loc).getD hostLink
    let p : Posted := { act := w.act, ctx := w.ctx, key := loc.key, n := n, old := old, new := v, va := loc.va,
                        cmd := w.cmd.map fun c => (w.coreKey, c.1, c.2) }
    let s := s.modLink lk fun l => { l with posted := l.posted ++ [p] }
    if s.cur.id = w.act then s.modCur fun a => { a with posted := a.posted + 1 }
    else s.mapActs fun a => if a.id = w.act then { a with posted := a.posted + 1 } else a

/-- A write of the hardware itself at a place that it has translated, `off` bytes on; none when it is to a compressed page that
it no longer fits (23 R430). -/
def State.devPut (s : State) (w : Who) (loc : Loc) (off n v : Nat) : Option State :=
  if loc.kind = 7 then
    (match s.writeComp w { loc with key := loc.key + off, va := loc.va + off } n v aWrite with
     | .ok s => some s
     | .error _ => none)
  else some (s.hwWrite (loc.key + off) n v)

/-- The same where nothing else depends on it. -/
def State.devKeep (s : State) (w : Who) (loc : Loc) (off n v : Nat) : State := (s.devPut w loc off n v).getD s

/-- The trace record of bytes that arrived in a TCM from another core or an engine, in the ring of the context that the core
works for (06 R153 to R155). [DEDUCED, notes/assumptions/41.md] -/
def State.traceOne (s : State) (w : Who) (die cluster core off size kind : Nat) : State :=
  let ck := Machine.coreKey die cluster core
  let n := (s.core ck).arrival
  let s := s.modCore ck fun c => { c with arrival := (n + 1) % 2 ^ 32 }
  let c := ((s.cluster (Machine.clusterKey die cluster)).owner).getD w.ctx
  let d := devWho c die
  let hdr := bits ((s.ctx c).word 0x08) 6 50 * 64 + 64
  if (s.ctx c).word 0x08 = 0 then s
  else
    match s.devLoc c die hdr 64 aWrite with
    | (none, s) => s
    | (some h, s) =>
      let base := s.rdN h.key 8
      let head := s.rdN (h.key + 8) 8
      let tail := s.rdN (h.key + 16) 8
      let flags := s.rdN (h.key + 24) 8
      let nrec := base / 2 ^ 56
      if flags % 2 = 0 then s
      else if nrec < 4 ∨ 24 < nrec ∨ base % 16 ≠ 0 ∨ 4 ≤ flags ∨ s.rdN (h.key + 0x28) 24 ≠ 0 then
        s.devKeep d h 24 8 (Nat.lor flags 2)
      else if head - tail = 2 ^ nrec then
        s.devKeep d h 24 16 (Nat.lor flags 2 + 2 ^ 64 * min (s.rdN (h.key + 32) 8 + 1) (2 ^ 64 - 1))
      else
        match s.devLoc c die (base % 2 ^ 56 + 16 * (head % 2 ^ nrec)) 16 aWrite with
        | (none, s) => s
        | (some r, s) =>
          let src := w.die * 65536 + w.cluster * 64 + w.core * 8 + (if w.eng = 0 then w.slot else 0)
          let v := off + Nat.log2 size * 2 ^ 16 + kind * 2 ^ 24 + src * 2 ^ 32
            + (die * 65536 + cluster * 64 + core * 8) * 2 ^ 64 + n * 2 ^ 96
          ((s.devPut d r 0 16 v).bind fun s => s.devPut d h 8 8 (head + 1)).getD s

/-- The power of two that one record can name: the largest at `off` that is aligned there and at most `n` bytes. -/
def traceSize (off n : Nat) : Nat := ((List.range 8).reverse.find? fun k => off % 2 ^ k == 0 && decide (2 ^ k ≤ n)).getD 0

/-- The records of a write, one for each aligned power of two of its bytes (R154). -/
def State.traceGo (w : Who) (die cluster core kind : Nat) : Nat → Nat → Nat → State → State
  | 0, _, _, s => s
  | fuel + 1, off, n, s =>
    if n = 0 then s
    else
      let k := 2 ^ traceSize off n
      State.traceGo w die cluster core kind fuel (off + k) (n - k) (s.traceOne w die cluster core off k kind)

def State.trace (s : State) (w : Who) (die cluster core off size kind : Nat) : State :=
  State.traceGo w die cluster core kind size off size s

/-- A write to translated memory. -/
def State.writeLine (s : State) (w : Who) (loc : Loc) (n v acc : Nat) : State :=
  let line := loc.key / 128
  let old := s.rdN loc.key n
  let s := if s.pushes w loc acc then s.keepUpd w loc n v else s
  let was := fun (a : Nat) => s.rdN (2 * a) 2
  let s := ((s.wrN loc.key n v).keepCode loc.key n was).patchOwn w loc n v
  let s := if (s.coh.repl.any fun p => p.1 % 2 ^ 80 / 256 == line) then s.growReplicas line else s
  let s := if n = 128 then s.modCoh fun h => { h with poison := h.poison.filter (· != line) } else s
  let s := if loc.kind < 5 then s else s.postLink w loc n v old
  let bytes := (List.range n).map fun i => (loc.key % 128 + i, v / 256 ^ i % 256)
  ((s.markForeign w loc).disturb w loc.key n).cohAccess w loc acc bytes

/-- A write into a local memory: a TCM, where it arrives (06 R152) and is traced when it comes from elsewhere, a scratchpad or
the die SRAM. -/
def State.writeLocal (s : State) (w : Who) (loc : Loc) (n v acc : Nat) : State :=
  let die := loc.home.1
  let cl := loc.home.2.1
  let co := loc.home.2.2
  if loc.kind = 0 then
    let off := loc.va % 0x8000
    let s := (s.tcmStore die cl co off n v).disturb w loc.key n
    let s :=
      if Machine.coreKey die cl co = w.coreKey ∧ w.eng = 0 then s.modCore w.coreKey fun c => { c with arrival := (c.arrival + 1) % 2 ^ 32 }
      else s.trace w die cl co off n (w.traceKind acc)
    if bits loc.va 48 4 = 2 then s.disturbLocal w die cl (some co) else s
  else
    let s := (s.wrN loc.key n v).disturb w loc.key n
    if bits loc.va 48 4 = 3 then s.disturbLocal w die cl none else s

/-- A write of bytes inside one line, with everything it brings about. -/
def State.writeAt (s : State) (w : Who) (loc : Loc) (n v acc : Nat) : Except AErr State :=
  let r := s.writeRace w loc.key n v
  let t := r.2.keepPast w (!loc.upd) (acc == aAtomic) loc.key n
  if loc.kind < 3 then .ok (t.writeLocal w loc n r.1 acc)
  else
    match w.shadow with
    | some q => s.shadowStore w q loc n v
    | none => if loc.kind = 7 then t.writeComp w loc n r.1 acc else .ok (t.writeLine w loc n r.1 acc)

/-! ### Fault records (23 R420 to R422) -/

/-- Write one record to the ring, or hold it while there is no room. [DEDUCED, notes/assumptions/41.md] -/
def State.ringPut (s : State) (c : Nat) (rec : List Nat) : State :=
  let hold := fun (s : State) => s.modCtx c fun x => { x with held := x.held ++ [rec] }
  let hdr := bits ((s.ctx c).word 0x08) 6 50 * 64
  match s.devLoc c 0 hdr 64 aWrite with
  | (none, s) => hold s
  | (some h, s) =>
    let base := s.rdN h.key 8
    let head := s.rdN (h.key + 8) 8
    let tail := s.rdN (h.key + 16) 8
    let nrec := base / 2 ^ 56
    let w := devWho c 0
    let waiting := fun (s : State) => (hold s).devKeep w h 24 8 ((s.ctx c).held.length + 1)
    if nrec < 4 ∨ 20 < nrec ∨ base % 32 ≠ 0 ∨ s.rdN (h.key + 0x20) 32 ≠ 0 ∨ head - tail = 2 ^ nrec then waiting s
    else
      match s.devLoc c 0 (base % 2 ^ 56 + 32 * (head % 2 ^ nrec)) 32 aWrite with
      | (none, s) => waiting s
      | (some r, s) =>
        let part := fun (i n : Nat) => rec.getD i 0 % 2 ^ n
        let v := part 0 64 + 2 ^ 64 * part 1 32 + 2 ^ 96 * part 2 32 + 2 ^ 128 * part 3 32 + 2 ^ 192 * (head % 2 ^ 64)
        match (s.devPut w r 0 32 v).bind fun s => s.devPut w h 8 8 (head + 1) with
        | none => waiting s
        | some s => if head = tail then s.notice c 1 0 else s

/-- A record: records already held go first (R422). [DEDUCED, notes/assumptions/41.md] -/
def State.faultRecord (s : State) (c : Nat) (rec : List Nat) : State :=
  if (s.ctx c).held.isEmpty then s.ringPut c rec
  else
    let s := s.modCtx c fun x => { x with held := x.held ++ [rec] }
    let hdr := bits ((s.ctx c).word 0x08) 6 50 * 64
    match s.devLoc c 0 hdr 64 aWrite with
    | (none, s) => s
    | (some h, s) => s.devKeep (devWho c 0) h 24 8 (s.ctx c).held.length

/-- The INFO word of R421: engine 5 for a fault that the walker met in an ATS refill. -/
def faultInfo (c eng acc cause level : Nat) : Nat :=
  c % 64 + (if level = 8 then 5 else eng) * 256 + acc * 4096 + cause * 65536 + level % 8 * 2 ^ 24

/-- Write the records of faults in one group: one for each 64 KiB page (R420). -/
def State.faultRecords (s : State) (w : Who) (src grp acc : Nat) : List (Nat × Nat × Nat) → List Nat → State
  | [], _ => s
  | (cause, level, addr) :: fs, seen =>
    if seen.contains (addr / 65536) then State.faultRecords s w src grp acc fs seen
    else
      State.faultRecords (s.faultRecord w.ctx [addr, grp % 2 ^ 32, src, faultInfo w.ctx w.eng acc cause level]) w src grp acc fs
        (addr / 65536 :: seen)

/-- Open a replay group of a context. -/
def State.openGroup (s : State) (c : Nat) : Nat × State :=
  ((s.ctx c).grpNo, s.modCtx c fun x => { x with grpNo := x.grpNo + 1 })

/-- The die whose replay buffer holds a parked request; none for a thread's access or the device's own for a queue (23 R420). -/
def Parked.bufferDie (p : Parked) : Option Nat :=
  if (1 ≤ p.who ∧ p.who ≤ 3) ∨ p.who = 8 then some (p.id / 2 ^ 64 / 8192)
  else if p.die = 8 then none else some p.die

/-- Engine requests of a die that wait for a replay (23 R420). -/
def State.replayHeld (s : State) (die : Nat) : Nat :=
  s.ctxs.foldl (fun n c => n + (c.2.parked.filter fun p => p.bufferDie == some die).length) 0

/-- The issuing thread goes into fault-wait for the faults it met (23 R420, 10 R271). -/
def State.faultWait (s : State) (w : Who) (acc : Nat) (fs : List (Nat × Nat × Nat)) : State :=
  let g := s.openGroup w.ctx
  let f := fs.headD (1, 0, 0)
  let s := g.2.faultRecords w w.place g.1 acc fs []
  let s := s.modCtx w.ctx fun x => { x with parked := x.parked ++
    [{ grp := g.1, who := 0, id := w.act, cause := f.1, addr := f.2.2, pages := (fs.drop 1).map (·.2.2), eng := w.eng,
       die := if w.eng = 0 then 8 else w.die }] }
  s.yieldPoint.modCur fun a => { a with run := .faultWait g.1 }

/-! ### What a thread takes when an access fails -/

/-- DATAERR of a thread (03 R75, 23 R424): the PC moves past the instruction, the trap names it, and its context is
frozen. -/
def State.dataErr (s : State) (len sub addr : Nat) : State :=
  match s.cur.shadow with
  | some q => s.discardShadow q 8
  | none =>
    let pc := s.pc
    let c := s.cur.ctx
    let s := s.modCur fun a => { a with failing := none }
    ((s.trap cDATAERR sub pc (pc + len)).log 1 sub c s.cur.die 0 addr).freeze c 2 addr

/-- The outcome of a failed access of the issuing thread by an instruction of `len` bytes; an engine's request that finds the replay
buffer full waits (23 R420). -/
def State.failAcc {α : Type} (s : State) (w : Who) (len acc : Nat) (e : AErr) : Res α :=
  match e with
  | .trap code sub tval => .stop (s.trapHere code sub tval)
  | .xlat cause level addr =>
    match w.shadow with
    | some q => .stop (s.discardShadow q 7)
    | none =>
      if w.eng ≠ 0 ∧ 512 ≤ s.replayHeld w.die then .stop s else .stop (s.faultWait w acc [(cause, level, addr)])
  | .data sub addr => .stop (s.dataErr len sub addr)
  | .stall => .stop s
  | .turn m => .stop (s.askLine m)
  | .shadowEnd r => .stop (match w.shadow with | some q => s.discardShadow q r | none => s)
  | .nomem pa => .fault (.noPhysicalMemory pa)
  | .egress pa => .stop ((s.modCore w.coreKey fun c => { c with frozen := true }).log 3 w.core 0 w.die 0 pa)

/-! ### Effective addresses and single accesses of a thread -/

/-- `ea` (07 R159): the address, or the sum that left the tag. -/
def ea (base : Nat) (off : Int) : Except Nat Nat :=
  let x := wint (base + off)
  if x / 2 ^ 56 = base / 2 ^ 56 then .ok (x % 2 ^ 56) else .error x

/-- Whether an error reply answers the issuing thread's read of an address (23 R424). -/
def State.answered (s : State) (w : Who) (va : Nat) : Bool :=
  w.eng == 0 && w.act == s.cur.id && (s.cur.failing.map (·.2)) == some (va / 128)

/-- The checks of R160 for one access of the issuing thread: `ea`, alignment, window or translation, poison, and the
access record of R156. -/
def State.checkE (s : State) (w : Who) (base : Nat) (off : Int) (size align acc : Nat) : Except AErr (Loc × State) :=
  match ea base off with
  | .error x => .error (.trap cTAGOV 0 x)
  | .ok va =>
    if w.shadow.isSome ∧ farWindow va then .error (.shadowEnd 10)
    else if va % align ≠ 0 then .error (.trap cALIGN 0 va)
    else
      match s.locate w va size acc with
      | (.error e, _) => .error e
      | (.ok loc, s) =>
        if loc.kind ≥ 3 ∧ s.coh.poison.contains (loc.key / 128) ∧ acc ≠ aWrite then .error (.data 3 va)
        else if s.answered w va ∧ loc.kind ≥ 3 ∧ acc ≠ aWrite then .error (.data ((s.cur.failing.map (·.1)).getD 0) va)
        else
          match s.record w loc (isWr acc) with
          | none => .error (if w.shadow.isSome then .shadowEnd 8 else .trap cCONFLICT 0 va)
          | some s => .ok (loc, s)

/-- The same, with what the thread takes when a check fails. -/
def State.check (s : State) (len base : Nat) (off : Int) (size align acc : Nat) : Res Loc :=
  match s.checkE s.me base off size align acc with
  | .error e => s.failAcc s.me len acc e
  | .ok (loc, s) => .ok loc s

/-- A load: the value of `size` bytes. -/
def State.load (s : State) (len base : Nat) (off : Int) (size align : Nat) : Res Nat :=
  (s.check len base off size align aRead).bind fun loc s =>
    let r := s.readAt s.me loc size
    .ok r.1 r.2

/-- The end of an instruction that writes `size` bytes at a place already checked: it retires and raises its flags, then
the bytes are written, so that a store to the PC word or to ST decides what they hold (03 R62).
[DEDUCED, notes/assumptions/12.md] -/
def State.commit (s : State) (len : Nat) (loc : Loc) (size v acc fl : Nat) : Res Unit :=
  match ((s.retire len).orFlags fl).writeAt s.me loc size v acc with
  | .error e => s.failAcc s.me len acc e
  | .ok s => .ok () s

/-- A store of `size` bytes that raises flags. -/
def State.store (s : State) (len base : Nat) (off : Int) (size align v fl : Nat) : Res Unit :=
  (s.check len base off size align aWrite).bind fun loc s => s.commit len loc size v aWrite fl

/-- The word that an access names, as a place of releases and acquires. -/
def Loc.word (l : Loc) : Nat := l.key / 8

/-- The posted writes that `p` names are acknowledged, but for those on a link that retrains; and whether one waits there
(26 R464, R465). -/
def State.ackPosted (s : State) (p : Posted → Bool) : Bool × State :=
  let left := fun (l : Link) => if l.st = 3 then l.posted else l.posted.filter fun x => !p x
  let gone := s.links.flatMap fun e => if e.2.st = 3 then [] else e.2.posted.filter p
  let count := fun (a : Act) => { a with posted := a.posted - (gone.filter fun x => x.act == a.id).length }
  (s.links.any fun e => e.2.st == 3 && e.2.posted.any p,
   ((s.setLinks (s.links.mapV fun _ l => { l with posted := left l })).mapActs count).mapAway count)

/-- What a release or fence at a scope does about the issuer's earlier writes: its posted writes (26 R465) it waits for while
one is on a retraining link, it traps when one is lost, and otherwise all are acknowledged. -/
def State.settle (s : State) (scope : Nat) (k : State → Out) : Out :=
  if scope < 5 then k s
  else
    let mine := fun (p : Posted) => p.act == s.cur.id
    if s.links.any fun e => e.2.st == 3 && e.2.posted.any mine then .next s
    else if s.cur.lost ≠ 0 then
      let n := s.cur.lost
      .next ((s.modCur fun a => { a with lost := 0 }).trapHere cLINKLOST 1 n)
    else
      let s := s.setLinks (s.links.mapV fun _ l => { l with posted := l.posted.filter fun p => !mine p })
      k (s.modCur fun a => { a with posted := 0 })

/-- A window closes: an earlier one that is still open over a register of it reads, in place of the value before both, what this
one has left to be read (03 R74). [DEDUCED, notes/assumptions/14.md] -/
def closeWin (ws : List Win) (w : Win) : List Win :=
  let left := fun (r : Nat × Nat × Nat) => (w.old.find? (·.1 == r.1)).getD r
  (ws.filter (·.n != w.n)).map fun x => if x.n < w.n then { x with old := x.old.map left } else x

/-- Open a lookahead window of `la` instructions over registers, whose values it remembers (03 R72, R73).
[DEDUCED, notes/assumptions/14.md] -/
def State.openWin (s : State) (la : Nat) (ds : List Nat) : State :=
  let ds := ds.filter (· != 0)
  if la = 0 ∨ ds.isEmpty then s
  else
    let w : Win := { n := s.sched.nextWin, pc := s.pc - 4, left := la, old := ds.map fun d => (d, s.reg d, s.tb d),
                     remote := s.cur.remote }
    (s.modSched fun q => { q with nextWin := q.nextWin + 1 }).modCur fun a => { a with wins := a.wins ++ [w] }

/-- The same over vector registers. [DEDUCED, notes/assumptions/14.md] -/
def State.openWinV (s : State) (la : Nat) (vs : List Nat) : State :=
  if la = 0 then s
  else
    let keys := vs.flatMap fun v => (List.range s.cur.grant).map fun i => v * 64 + i
    let old := keys.map fun k => let x := FMap.getD s.cur.vr k 0; (32 + k, x % 2 ^ 32, x / 2 ^ 32)
    let w : Win := { n := s.sched.nextWin, pc := s.pc - 4, left := la, old := old, remote := s.cur.remote }
    (s.modSched fun q => { q with nextWin := q.nextWin + 1 }).modCur fun a => { a with wins := a.wins ++ [w] }

/-- Write a result with lookahead: the window opens over the old value, then the register is written. -/
def State.setRegLa (s : State) (la d v t : Nat) : State := (s.openWin la [d]).setReg d v t

end Sys2Proof.Machine
end

