-- ==== Sys2Proof/Machine/Float.lean ====
section
/-!
DEFINITION. Numbers, images and tails (02).  A floating-point value is exact: a sign, a natural number and a power of
two.  An image is an encoding with its two-bit tail.  Flags are collected as the bits of ST they set (R44).
-/

namespace Sys2Proof.Machine

/-- A floating-point format of R26. -/
structure Fmt where
  ebits : Nat
  mbits : Nat
  bias : Nat
  maxEnc : Nat      -- magnitude encoding of the largest finite value
  nanEnc : Nat      -- canonical NaN (R27); 0 where the format has none
  hasInf : Bool
  hasNaN : Bool
deriving DecidableEq, Repr

def fp64 : Fmt := ⟨11, 52, 1023, 0x7FEFFFFFFFFFFFFF, 0x7FF8000000000000, true, true⟩
def fp32 : Fmt := ⟨8, 23, 127, 0x7F7FFFFF, 0x7FC00000, true, true⟩
def fp16 : Fmt := ⟨5, 10, 15, 0x7BFF, 0x7E00, true, true⟩
def bf16 : Fmt := ⟨8, 7, 127, 0x7F7F, 0x7FC0, true, true⟩
def fp8e4 : Fmt := ⟨4, 3, 7, 0x7E, 0x7F, false, true⟩
def fp8e5 : Fmt := ⟨5, 2, 15, 0x7B, 0x7E, true, true⟩
def fp6e3 : Fmt := ⟨3, 2, 3, 0x1F, 0, false, false⟩
def fp6e2 : Fmt := ⟨2, 3, 1, 0x1F, 0, false, false⟩
def fp4e2 : Fmt := ⟨2, 1, 1, 0x7, 0, false, false⟩

/-- Width in bits of a floating-point format. -/
def Fmt.width (f : Fmt) : Nat := 1 + f.ebits + f.mbits

/-- The floating-point format of a code of R25. -/
def fmtOf? (c : Nat) : Option Fmt :=
  if c = 9 then some fp64 else if c = 10 then some fp32 else if c = 11 then some fp16 else if c = 12 then some bf16
  else if c = 13 then some fp8e4 else if c = 14 then some fp8e5 else if c = 15 then some fp6e3
  else if c = 16 then some fp6e2 else if c = 17 then some fp4e2 else none

/-- The format of a float coding of w (R68). -/
def fwFmt : FW → Fmt
  | .f64 => fp64 | .f32 => fp32 | .f16 => fp16 | .bf16 => bf16 | .e4 => fp8e4 | .e5 => fp8e5 | .img => fp64

/-- An exact value: NaN, an infinity, or (-1)^neg × m × 2^e. -/
inductive Val where
  | nan
  | inf (neg : Bool)
  | fin (neg : Bool) (m : Nat) (e : Int)
deriving DecidableEq, Repr

/-- An image: encoding bits and the tail pair, e1 above e0 (R37). -/
structure Image where
  bits : Nat
  tail : Nat
deriving DecidableEq, Repr

/-- The flag bits of ST (R44). -/
def fNX : Nat := 8
def fUF : Nat := 16
def fOF : Nat := 32
def fDZ : Nat := 64
def fNV : Nat := 128
def fIO : Nat := 256

def Fmt.signBit (f : Fmt) (neg : Bool) : Nat := if neg then 2 ^ (f.ebits + f.mbits) else 0

/-- The canonical NaN of a format as an image; +0 where it has none (R27, R29). -/
def Fmt.nan (f : Fmt) : Image := ⟨f.nanEnc, 0⟩

/-- The infinity encoding of a format. -/
def Fmt.infEnc (f : Fmt) : Nat := (2 ^ f.ebits - 1) * 2 ^ f.mbits

/-- Whether a magnitude encoding is a NaN of the format. -/
def Fmt.isNaNEnc (f : Fmt) (mag : Nat) : Bool :=
  f.hasNaN && (if f.hasInf then decide (f.infEnc < mag) else mag == f.nanEnc)

/-- The value of an image (R26, R37): the significand with its two extension bits. -/
def imgVal (f : Fmt) (i : Image) : Val :=
  let neg := bit i.bits (f.ebits + f.mbits)
  let mag := i.bits % 2 ^ (f.ebits + f.mbits)
  if f.isNaNEnc mag then .nan
  else if f.hasInf && mag == f.infEnc then .inf neg
  else
    let ex := mag / 2 ^ f.mbits
    let fr := mag % 2 ^ f.mbits
    let sg := if ex = 0 then fr else fr + 2 ^ f.mbits
    let k : Int := (if ex = 0 then 1 else (ex : Int)) - f.bias
    .fin neg (4 * sg + i.tail % 4) (k - f.mbits - 2)

/-- The value of an encoding with tail 00. -/
def encVal (f : Fmt) (b : Nat) : Val := imgVal f ⟨b % 2 ^ f.width, 0⟩

def overflowImage (f : Fmt) (neg : Bool) : Image := ⟨f.signBit neg + f.maxEnc, 3⟩

/-- m × 2^sh, truncated toward zero, and whether anything was lost. -/
def shiftTrunc (m : Nat) (sh : Int) : Nat × Bool :=
  match sh with
  | .ofNat n => (m * 2 ^ n, false)
  | .negSucc n => (m / 2 ^ (n + 1), m % 2 ^ (n + 1) != 0)

/-- `rto(x, f)` (R38): round to odd at the image precision of `f`; the flags raised beside it.
[DEDUCED, notes/assumptions/42.md] -/
def rto (f : Fmt) : Val → Image × Nat
  | .nan => if f.hasNaN then (f.nan, 0) else (⟨0, 0⟩, fNV)
  | .inf neg => if f.hasInf then (⟨f.signBit neg + f.infEnc, 0⟩, 0) else (overflowImage f neg, fIO)
  | .fin neg m e =>
    if m = 0 then (⟨f.signBit neg, 0⟩, 0)
    else
      let emin : Int := 1 - f.bias
      let k : Int := max ((Nat.log2 m : Int) + e) emin
      let t := shiftTrunc m (e - (k - f.mbits - 2))
      let n := if t.2 && t.1 % 2 == 0 then t.1 + 1 else t.1
      let sg := n / 4
      let mag := if sg < 2 ^ f.mbits then sg else (k + f.bias).toNat * 2 ^ f.mbits + (sg - 2 ^ f.mbits)
      if f.maxEnc < mag then (overflowImage f neg, fIO) else (⟨f.signBit neg + mag, n % 4⟩, 0)

/-- Whether mode `m` chooses the neighbour away from zero (R42), from the tail value 2·e1 + e0 (not 0), the last bit of
the truncated value and the hash `h` of R45. -/
def choosesHi (m : Nat) (neg odd : Bool) (tail h : Nat) : Bool :=
  if m = 1 then false else if m = 2 then neg else if m = 3 then !neg
  else if m = 4 then decide (2 ≤ tail) else if m = 5 then decide (4 ≤ tail + h)
  else if m = 6 then !odd else decide (tail = 3) || (decide (tail = 2) && odd)

/-- The mode that a mode code selects, given ST.RM (R42). -/
def effMode (m rm : Nat) : Nat := if m = 7 then (if rm = 7 then 0 else rm) else m

/-- `fin(i, m, f)` (R43) under an effective mode: the encoding and the flags. [DEDUCED, notes/assumptions/42.md] -/
def fin (f : Fmt) (m h : Nat) (i : Image) : Nat × Nat :=
  let neg := bit i.bits (f.ebits + f.mbits)
  let mag := i.bits % 2 ^ (f.ebits + f.mbits)
  if f.isNaNEnc mag then (f.nanEnc, 0)
  else if f.hasInf && mag == f.infEnc then (f.signBit neg + f.infEnc, 0)
  else if i.tail % 4 = 0 then (i.bits % 2 ^ f.width, 0)
  else
    let fl := fNX ||| (if mag < 2 ^ f.mbits then fUF else 0)
    if choosesHi m neg (mag % 2 == 1) (i.tail % 4) h then
      if mag = f.maxEnc then
        (f.signBit neg + (if f.hasInf then f.infEnc else f.maxEnc), fl ||| fOF)
      else (f.signBit neg + mag + 1, fl)
    else (f.signBit neg + mag, fl)

/-- Final conversion of a value (R46, R128): an infinity into a format without infinities is decided by R29. -/
def finVal (f : Fmt) (m h : Nat) (v : Val) : Nat × Nat :=
  match v with
  | .inf neg =>
    if f.hasInf then (f.signBit neg + f.infEnc, 0) else (f.signBit neg + f.maxEnc, fOF)
  | v =>
    let r := rto f v
    let g := fin f m h r.1
    (g.1, r.2 ||| g.2)

/-- Arithmetic under the fin modifier (R42): the result of `fin(rto(x))` with the flags of one IEEE rounding of x. -/
def finArith (f : Fmt) (m h : Nat) (v : Val) : Nat × Nat :=
  let r := rto f v
  let g := fin f m h r.1
  (g.1, if r.2 &&& fIO != 0 then fOF ||| fNX else g.2)

/-- Sign of a value. -/
def Val.neg? : Val → Bool
  | .nan => false | .inf n => n | .fin n _ _ => n

def Val.isZero : Val → Bool
  | .fin _ m _ => m == 0
  | _ => false

def Val.isNaN : Val → Bool
  | .nan => true
  | _ => false

def Val.negate : Val → Val
  | .nan => .nan | .inf n => .inf (!n) | .fin n m e => .fin (!n) m e

/-- The signed integer mantissa of a finite value at exponent `e0 ≤ e`. -/
def scaled (neg : Bool) (m : Nat) (e e0 : Int) : Int :=
  let n : Int := m * 2 ^ (e - e0).toNat
  if neg then -n else n

/-- A + B (R125); `rdn` says that an exact zero sum of opposite signs is -0 (R42). -/
def vAdd (rdn : Bool) : Val → Val → Val × Nat
  | .nan, _ => (.nan, 0)
  | _, .nan => (.nan, 0)
  | .inf a, .inf b => if a == b then (.inf a, 0) else (.nan, fNV)
  | .inf a, _ => (.inf a, 0)
  | _, .inf b => (.inf b, 0)
  | .fin n1 m1 e1, .fin n2 m2 e2 =>
    if m1 = 0 ∧ m2 = 0 then (.fin (if n1 == n2 then n1 else rdn) 0 0, 0)
    else if m1 = 0 then (.fin n2 m2 e2, 0)
    else if m2 = 0 then (.fin n1 m1 e1, 0)
    else
      let e0 := min e1 e2
      let y := scaled n1 m1 e1 e0 + scaled n2 m2 e2 e0
      if y = 0 then (.fin rdn 0 0, 0) else (.fin (decide (y < 0)) y.natAbs e0, 0)

/-- A × B (R125). -/
def vMul : Val → Val → Val × Nat
  | .nan, _ => (.nan, 0)
  | _, .nan => (.nan, 0)
  | .inf a, .inf b => (.inf (a != b), 0)
  | .inf a, .fin n m _ => if m = 0 then (.nan, fNV) else (.inf (a != n), 0)
  | .fin n m _, .inf b => if m = 0 then (.nan, fNV) else (.inf (n != b), 0)
  | .fin n1 m1 e1, .fin n2 m2 e2 => (.fin (n1 != n2) (m1 * m2) (e1 + e2), 0)

/-- A / B (R126), with a sticky last bit that stands for the rest of the expansion. -/
def vDiv : Val → Val → Val × Nat
  | .nan, _ => (.nan, 0)
  | _, .nan => (.nan, 0)
  | .inf _, .inf _ => (.nan, fNV)
  | .inf a, .fin n _ _ => (.inf (a != n), 0)
  | .fin n _ _, .inf b => (.fin (n != b) 0 0, 0)
  | .fin n1 m1 e1, .fin n2 m2 e2 =>
    if m2 = 0 then (if m1 = 0 then (.nan, fNV) else (.inf (n1 != n2), fDZ))
    else
      let s := 72 + Nat.log2 m2
      let q := m1 * 2 ^ s / m2
      let st := if m1 * 2 ^ s % m2 = 0 then 0 else 1
      (.fin (n1 != n2) (2 * q + st) (e1 - e2 - s - 1), 0)

/-- The integer square root, bit by bit: the largest r below acc + 2^n with r² ≤ x. -/
def isqrtGo (x : Nat) : Nat → Nat → Nat
  | 0, acc => acc
  | n + 1, acc => isqrtGo x n (if (acc + 2 ^ n) * (acc + 2 ^ n) ≤ x then acc + 2 ^ n else acc)

def isqrt (x : Nat) : Nat := isqrtGo x (Nat.log2 x / 2 + 1) 0

/-- √A (R126), with a sticky last bit. -/
def vSqrt : Val → Val × Nat
  | .nan => (.nan, 0)
  | .inf false => (.inf false, 0)
  | .inf true => (.nan, fNV)
  | .fin n m e =>
    if m = 0 then (.fin n 0 0, 0)
    else if n then (.nan, fNV)
    else
      let odd := decide (e % 2 ≠ 0)
      let x := m * (if odd then 2 else 1) * 2 ^ 144
      let r := isqrt x
      let st := if r * r = x then 0 else 1
      (.fin false (2 * r + st) ((if odd then e - 1 else e) / 2 - 72 - 1), 0)

/-- Three-way comparison of two values that are not NaN: less, equal or greater (R53). -/
def vCmp : Val → Val → Ordering
  | .nan, _ => .eq
  | _, .nan => .eq
  | .inf a, .inf b => if a == b then .eq else if a then .lt else .gt
  | .inf a, _ => if a then .lt else .gt
  | _, .inf b => if b then .gt else .lt
  | .fin n1 m1 e1, .fin n2 m2 e2 =>
    let e0 := min e1 e2
    let x := scaled n1 m1 e1 e0
    let y := scaled n2 m2 e2 e0
    if x < y then .lt else if x = y then .eq else .gt

/-- `feq`, `flt`, `fle` on values (R53, R129): a NaN makes each false. -/
def vEq (a b : Val) : Bool := !a.isNaN && !b.isNaN && vCmp a b == .eq
def vLt (a b : Val) : Bool := !a.isNaN && !b.isNaN && vCmp a b == .lt
def vLe (a b : Val) : Bool := !a.isNaN && !b.isNaN && vCmp a b != .gt

/-- The smaller value; of -0 and +0, -0; equal non-zero values give the first (R125). -/
def vMin (a b : Val) : Val :=
  if a.isNaN || b.isNaN then .nan
  else match vCmp a b with
    | .lt => a
    | .gt => b
    | .eq => if a.isZero && b.neg? then b else a

/-- The larger value; of -0 and +0, +0 (R125). -/
def vMax (a b : Val) : Val :=
  if a.isNaN || b.isNaN then .nan
  else match vCmp a b with
    | .lt => b
    | .gt => a
    | .eq => if a.isZero && !b.neg? then b else a

/-- Rounding of an exact value to an integer under an effective mode (R479): the integer and whether it was inexact.
A NaN or infinity is decided by the caller. -/
def roundInt (m h : Nat) (neg : Bool) (mt : Nat) (e : Int) : Int × Bool :=
  let q := shiftTrunc mt (e + 2)                  -- in quarters
  let n := if q.2 && q.1 % 2 == 0 then q.1 + 1 else q.1
  let lo := n / 4
  let t := n % 4
  if t = 0 then ((if neg then -(lo : Int) else lo), false)
  else
    let r := if choosesHi m neg (lo % 2 == 1) t h then lo + 1 else lo
    ((if neg then -(r : Int) else r), true)

/-- Clamp to a range. -/
def clampInt (y lo hi : Int) : Int := if y < lo then lo else if hi < y then hi else y

/-- Float to integer (R46): NaN gives 0 with NV, a value out of range the nearest bound with NV, else NX when inexact. -/
def vToInt (m h : Nat) (lo hi : Int) : Val → Int × Nat
  | .nan => (0, fNV)
  | .inf neg => (if neg then lo else hi, fNV)
  | .fin neg mt e =>
    let r := roundInt m h neg mt e
    if r.1 < lo then (lo, fNV) else if hi < r.1 then (hi, fNV) else (r.1, if r.2 then fNX else 0)

/-- An integer as an exact value. -/
def intVal (y : Int) : Val := .fin (decide (y < 0)) y.natAbs 0

/-- The mode of a float-to-integer conversion that reads ST.RM (R479): dynamic 5, 6 and 7 act as RNE. -/
def intMode (m rm : Nat) : Nat := if m = 7 then (if 5 ≤ rm then 0 else rm) else m

/-- The range of an integer format code of R25, and whether it is signed. -/
def intRange? (c : Nat) : Option (Int × Int × Nat) :=
  if c = 1 then some (-128, 127, 8) else if c = 2 then some (0, 255, 8)
  else if c = 3 then some (-32768, 32767, 16) else if c = 4 then some (0, 65535, 16)
  else if c = 5 then some (-2147483648, 2147483647, 32) else if c = 6 then some (0, 4294967295, 32)
  else if c = 7 then some (-9223372036854775808, 9223372036854775807, 64)
  else if c = 8 then some (0, 18446744073709551615, 64)
  else if c = 0x12 then some (-8, 7, 4) else if c = 0x13 then some (0, 15, 4) else none

/-- Whether an integer format code is signed. -/
def intSigned (c : Nat) : Bool := c == 1 || c == 3 || c == 5 || c == 7 || c == 0x12

/-- The integer that the bits of an integer format hold. -/
def intOf (c b : Nat) : Int :=
  match intRange? c with
  | some (_, _, n) => if intSigned c then sint b n else (b % 2 ^ n : Nat)
  | none => 0

/-- Float to E8S (R46): the code and the flags. -/
def toE8S : Val → Nat × Nat
  | .nan => (255, fNV)
  | .inf _ => (255, fNV)
  | .fin _ m e =>
    if m = 0 then (0, 0)
    else
      let k : Int := Nat.log2 m + e
      let c := clampInt k (-127) 127
      let exact := decide (m = 2 ^ Nat.log2 m) && decide (c = k)
      ((c + 127).toNat, if exact then 0 else fNX)

/-- E8S to a value (R33, R46). -/
def e8sVal (c : Nat) : Val := if c % 256 = 255 then .nan else .fin false 1 ((c % 256 : Nat) - 127)

/-- Multiply by a block scale; a NaN scale makes a NaN (R34). -/
def scaleVal (v : Val) (s : Val) : Val :=
  match v, s with
  | _, .nan => .nan
  | .nan, _ => .nan
  | .inf n, _ => .inf n
  | .fin n m e, .fin _ _ e' => .fin n m (e + e')
  | .fin _ _ _, .inf _ => .nan

/-- z of R45, from an address and a seed. -/
def mixZ (a seed : Nat) : Nat :=
  let z0 := w64 (Nat.xor a (w64 (seed * 4294967296 + seed)))
  let z1 := w64 (Nat.xor z0 (z0 / 8589934592) * 0xFF51AFD7ED558CCD)
  let z2 := w64 (Nat.xor z1 (z1 / 8589934592) * 0xC4CEB9FE1A85EC53)
  Nat.xor z2 (z2 / 8589934592)

/-- The hash of R45 for RSH: the top two bits of z. -/
def rshHash (a seed : Nat) : Nat := mixZ a seed / 2 ^ 62 % 4

/-- The address that R45 hashes for a rounding into register `d` at a lane. -/
def rshRegAddr (lane d : Nat) : Nat := 0x1000000000000000 + 32 * lane + d

/-- One level of the tree of R49 over present and absent images. -/
def treePair (f : Fmt) : List (Option Image) → List (Option Image) × Nat
  | a :: b :: rest =>
    let r := treePair f rest
    match b with
    | none => (a :: r.1, r.2)
    | some bi =>
      match a with
      | none => (some bi :: r.1, r.2)
      | some ai =>
        let s := vAdd false (imgVal f ai) (imgVal f bi)
        let t := rto f s.1
        (some t.1 :: r.1, r.2 ||| s.2 ||| t.2)
  | l => (l, 0)

/-- Levels of the tree, enough of them for the list. -/
def treeLevels (f : Fmt) : Nat → List (Option Image) → List (Option Image) × Nat
  | 0, l => (l, 0)
  | n + 1, l =>
    if l.length ≤ 1 then (l, 0)
    else
      let r := treePair f l
      let t := treeLevels f n r.1
      (t.1, r.2 ||| t.2)

/-- `tree_sum` (R49): the image and the flags its roundings raise. -/
def treeSum (f : Fmt) (l : List (Option Image)) : Image × Nat :=
  let t := treeLevels f (Nat.log2 l.length + 1) l
  match t.1 with
  | some i :: _ => (i, t.2)
  | _ => (⟨0, 0⟩, t.2)

/-- The key of the total order of R54: negative infinity first, NaN last; equal keys compare equal. -/
def sortLe (a b : Val) : Bool :=
  if a.isNaN then b.isNaN else if b.isNaN then true else vCmp a b != .gt

end Sys2Proof.Machine
end

