-- ==== Sys2Proof/Machine/Operands.lean ====
section
/-!
DEFINITION. Operand forms of the scalar families: the integer readings and results of 05 R105, images in registers
(02 R36, 05 R123), shift amounts (05 R109), and how an instruction that only writes a register ends.
-/

namespace Sys2Proof.Machine

/-- The width in bits that w selects (R105). -/
def nbits : IW → Nat
  | .i8 => 8 | .i16 => 16 | .i32 => 32 | .i64 => 64 | .n8 => 8 | .n16 => 16 | .n32 => 32

/-- Whether w is one of the signed codings 0 to 3. -/
def wSigned : IW → Bool
  | .i8 => true | .i16 => true | .i32 => true | .i64 => true | .n8 => false | .n16 => false | .n32 => false

/-- `res(y, w)`: y modulo 2^n, sign- or zero-extended to 64 bits (R105). -/
def res (w : IW) (y : Int) : Nat :=
  if wSigned w then sext (imod y (nbits w)) (nbits w) else imod y (nbits w)

/-- `sat(y, w)`: y clamped to `lim(w)`, as `res` (R105). -/
def sat (w : IW) (y : Int) : Nat :=
  let n := nbits w
  if wSigned w then res w (clampInt y (-(2 ^ (n - 1))) (2 ^ (n - 1) - 1)) else res w (clampInt y 0 (2 ^ n - 1))

/-- `sv(reg(k), w)`. -/
def State.sreg (s : State) (w : IW) (k : Nat) : Int := sint (s.reg k) (nbits w)

/-- `uv(reg(k), w)`. -/
def State.ureg (s : State) (w : IW) (k : Nat) : Nat := s.reg k % 2 ^ nbits w

/-- The reading that the signedness of w names, for the saturating forms and `absd` (R107). -/
def State.wreg (s : State) (w : IW) (k : Nat) : Int := if wSigned w then s.sreg w k else (s.ureg w k : Int)

/-- reg(k) as a signed 64-bit integer. -/
def State.ireg (s : State) (k : Nat) : Int := sint (s.reg k) 64

/-- Bitwise not within n bits. -/
def notN (n v : Nat) : Nat := 2 ^ n - 1 - v % 2 ^ n

/-- Floor division by a power of two. -/
def shrI (y : Int) (n : Nat) : Int := y / (2 ^ n : Nat)

/-- The end of an instruction of `n` bytes that writes one scalar register. -/
def State.put (s : State) (n d v t : Nat) : Out := .next ((s.retire n).setReg d v t)

/-- The same for a long-latency instruction with a window of `la` instructions (03 R72). -/
def State.putLa (s : State) (la d v t : Nat) : Out := .next ((s.retire 4).setRegLa la d v t)

/-- The image of format `f` in a scalar register (R123). -/
def State.imgReg (s : State) (f : Fmt) (k : Nat) : Image := ⟨s.reg k % 2 ^ f.width, s.tb k % 4⟩

/-- Its value. -/
def State.fval (s : State) (f : Fmt) (k : Nat) : Val := imgVal f (s.imgReg f k)

/-- Bytes of an integer access of width w (07 R161). -/
def accBytes (w : IW) : Nat := nbits w / 8

/-- A loaded value, sign- or zero-extended by w. -/
def loadExt (w : IW) (v : Nat) : Nat := if wSigned w then sext v (nbits w) else v % 2 ^ nbits w

end Sys2Proof.Machine
end

