-- ==== Sys2Proof/Machine/Flags.lean ====
section
/-!
DEFINITION. Conditions and flags: the conditions of `cmp`, `csel`, `c.sk` and the branches (05 R111, R112, R118), the
final-rounding field and the flags it raises (02 R42 to R46, 05 R124), and the class mask (05 R130).
-/

namespace Sys2Proof.Machine

/-- The condition codes of `cmp` (R111). -/
def cmpHolds (x : Nat) (A B : Int) (Au Bu : Nat) : Bool :=
  if x = 0 then decide (A = B) else if x = 1 then decide (A ≠ B) else if x = 2 then decide (A < B)
  else if x = 3 then decide (B ≤ A) else if x = 4 then decide (Au < Bu) else if x = 5 then decide (Bu ≤ Au)
  else decide (Nat.land Au Bu ≠ 0)

/-- The condition codes of `csel` and `c.sk` (R112, R121). -/
def selHolds (x v : Nat) : Bool :=
  if x = 0 then v != 0 else if x = 1 then v == 0 else if x = 2 then bit v 63 else if x = 3 then !bit v 63
  else if x = 4 then bit v 0 else !bit v 0

/-- The codes of `c.sk`: 0 z and 1 nz, the others as in `csel` (R121). -/
def skHolds (x v : Nat) : Bool := if x = 0 then v == 0 else if x = 1 then v != 0 else selHolds x v

/-- The mode that a nonzero fin field names (R124). -/
def finMode (x : Nat) : Nat := if x = 6 then 5 else if x = 7 then 7 else x - 1

/-- The hash of R45 for a final rounding into register `d` at a lane. -/
def State.hashReg (s : State) (lane d : Nat) : Nat := rshHash (rshRegAddr lane d) s.myCore.seed

/-- The hash of R45 for a final store: eight times the address plus the bit offset. -/
def State.hashMem (s : State) (bitAddr : Nat) : Nat := rshHash (w64 bitAddr) s.myCore.seed

/-- Whether an exact zero sum is -0: the modifier under rounding down (R42). -/
def State.rdnZero (s : State) (x : Nat) : Bool := decide (x ≠ 0) && effMode (finMode x) s.rm == 2

/-- An arithmetic result under the fin field: the image and the flags (R124, R39, R42). -/
def State.roundArith (s : State) (f : Fmt) (x lane d : Nat) (v : Val) : Image × Nat :=
  if x = 0 then rto f v
  else
    let r := finArith f (effMode (finMode x) s.rm) (s.hashReg lane d) v
    (⟨r.1, 0⟩, r.2)

/-- A conversion's result under its x field: the image and the flags (R128, R29). -/
def State.roundConv (s : State) (f : Fmt) (x lane d : Nat) (v : Val) : Image × Nat :=
  if x = 0 then rto f v
  else
    let r := finVal f (effMode (finMode x) s.rm) (s.hashReg lane d) v
    (⟨r.1, 0⟩, r.2)

/-- The end of a floating-point instruction: the flags are ORed into ST and the image is written (R44, R123). -/
def State.putFp (s : State) (d : Nat) (i : Image) (fl : Nat) : Out :=
  .next (((s.retire 4).orFlags fl).setReg d i.bits i.tail)

/-- The same with a window. -/
def State.putFpLa (s : State) (la d : Nat) (i : Image) (fl : Nat) : Out :=
  .next (((s.retire 4).orFlags fl).setRegLa la d i.bits i.tail)

/-- The bit mask of `fclass` (R130). -/
def classMask (f : Fmt) (i : Image) : Nat :=
  let neg := bit i.bits (f.ebits + f.mbits)
  let mag := i.bits % 2 ^ (f.ebits + f.mbits)
  if f.isNaNEnc mag then 256
  else if f.hasInf && mag == f.infEnc then (if neg then 1 else 128)
  else
    let tailed := i.tail % 4 != 0
    let base :=
      if mag = 0 ∧ !tailed then (if neg then 8 else 16)
      else if mag < 2 ^ f.mbits then (if neg then 4 else 32)
      else if neg then 2 else 64
    base + 512 * b2n tailed + 1024 * b2n (tailed && mag == 0)

end Sys2Proof.Machine
end

