-- ==== Sys2Proof/Machine/Atomics.lean ====
section
/-!
DEFINITION. Atomics, ordered-reduce contributions and reservations (07 R169 to R177, R480), and the read of a
deterministic access record (07 R189).
-/

namespace Sys2Proof.Machine

/-- The bytes that wd names (R169). -/
def wdBytes (wd : Nat) : Nat := if wd = 1 then 4 else 8

/-- The old value as b receives it: sign-extended from 32 bits (R169). -/
def wdExt (wd v : Nat) : Nat := if wd = 1 then sext v 32 else v

/-- The scope at which an atomic releases, 0 for none (R170). -/
def relScope (sem sc : Nat) : Nat := if 2 ≤ sem then sc2 sc else 0

/-- The release of an atomic at a word it has written, and its acquire there (R170); one that is both orders what comes before
it with what comes after it, commands included (06 R146). -/
def State.semAt (s : State) (word sem sc : Nat) : State :=
  let s := if 2 ≤ sem then s.releaseTo word (sc2 sc) else s
  let s := if sem = 1 ∨ sem = 3 then s.syncWord word (sc2 sc) else s
  if sem = 3 then s.fenceOrder (sc2 sc) 3 0xFF else s

/-- Whether an access of a shadow goes to a translated address, which R340 of 17 refuses for atomics, or through a window that it
refuses for every access. -/
def State.impureAt (s : State) (base : Nat) : Bool := s.cur.shadow.isSome && (bits base 52 4 != 15 || farWindow base)

/-- End the shadow that issued a refused operation (17 R340). [DEDUCED, notes/assumptions/23.md] -/
def State.impure (s : State) : State :=
  match s.cur.shadow with
  | some q => s.discardShadow q 10
  | none => s

/-- The range of the issuing context that holds an address; a local window address lies in none (19 R369). -/
def State.inReduce (s : State) (va : Nat) : Bool := bits va 52 4 != 15 && (s.myCtx.rangeAt va).pid == 4

/-- One indivisible operation on `n` bytes (R169): `f` gives the new value and the flags from the old one, and `ext` what
b receives.  `fl` says that it is a float atomic, refused in an ordered-reduce range (R172) before R160's checks of window
and translation. [DESIGN CHOICE, notes/assumptions/50.md] -/
def State.atomic (s : State) (a b wd sem sc la : Nat) (fl : Bool) (ext : Nat → Nat) (f : Nat → Nat × Nat) : Out :=
  let n := wdBytes wd
  let p := s.reg a % 2 ^ 56
  if s.impureAt p then .next s.impure
  else if p % n ≠ 0 then .next (s.trapHere cALIGN 0 p)
  else if fl && s.inReduce p then .next (s.trapHere cRANGE 0 p)
  else
    match s.check 4 (s.reg a) 0 n n aAtomic with
    | .fault e => .fault e
    | .stop s => .next s
    | .ok _ _ =>
      s.settle (relScope sem sc) fun s =>
        ((s.check 4 (s.reg a) 0 n n aAtomic).bind fun loc s =>
          let old := if s.cur.shadow.isSome then s.readLine s.me loc n else (s.rdN loc.key n, s)
          let r := f old.1
          ((old.2.catchUp s.me loc n).commit 4 loc n r.1 aAtomic r.2).bind fun _ s => .ok old.1 (s.semAt loc.word sem sc)).done
            fun v s => s.setRegLa la b (ext v) 0

/-- An integer atomic: `g` gives the new value from the old one and v, within the width in bits. -/
def State.amo (s : State) (a b wd sem sc la : Nat) (g : Nat → Nat → Nat → Nat) : Out :=
  let n := 8 * wdBytes wd
  let v := s.reg b % 2 ^ n
  s.atomic a b wd sem sc la false (wdExt wd) fun old => (g n old v % 2 ^ n, 0)

/-- R169. -/
def execAmoswap (a b wd sem sc la : Nat) (s : State) : Out := s.amo a b wd sem sc la fun _ _ v => v
/-- R169. -/
def execAmoadd (a b wd sem sc la : Nat) (s : State) : Out := s.amo a b wd sem sc la fun _ old v => old + v
/-- R169. -/
def execAmoand (a b wd sem sc la : Nat) (s : State) : Out := s.amo a b wd sem sc la fun _ old v => Nat.land old v
/-- R169. -/
def execAmoor (a b wd sem sc la : Nat) (s : State) : Out := s.amo a b wd sem sc la fun _ old v => Nat.lor old v
/-- R169. -/
def execAmoxor (a b wd sem sc la : Nat) (s : State) : Out := s.amo a b wd sem sc la fun _ old v => Nat.xor old v
/-- R169. -/
def execAmomin (a b wd sem sc la : Nat) (s : State) : Out :=
  s.amo a b wd sem sc la fun n old v => if sint v n < sint old n then v else old
/-- R169. -/
def execAmomax (a b wd sem sc la : Nat) (s : State) : Out :=
  s.amo a b wd sem sc la fun n old v => if sint old n < sint v n then v else old
/-- R169. -/
def execAmominn (a b wd sem sc la : Nat) (s : State) : Out := s.amo a b wd sem sc la fun _ old v => min old v
/-- R169. -/
def execAmomaxn (a b wd sem sc la : Nat) (s : State) : Out := s.amo a b wd sem sc la fun _ old v => max old v
/-- R169: reg(b + 1) replaces a value equal to reg(b). -/
def execAmocas (a b wd sem sc la : Nat) (s : State) : Out :=
  s.amo a b wd sem sc la fun _ old v => if old = v then s.reg (b + 1) else old

/-! ### Float atomics (R171, R172) -/

/-- FP64 or FP32. -/
def wdFmt (wd : Nat) : Fmt := if wd = 1 then fp32 else fp64

/-- A float atomic: `g` gives the exact new value and the flags of its operation. -/
def State.amof (s : State) (a b wd sem sc la : Nat) (g : Val → Val → Val × Nat) : Out :=
  let f := wdFmt wd
  let v := s.fval f b
  s.atomic a b wd sem sc la true id fun old =>
    let r := g (encVal f old) v
    let t := finVal f 0 0 r.1
    (t.1, r.2 ||| t.2)

/-- R172. -/
def execAmfadd (a b wd sem sc la : Nat) (s : State) : Out := s.amof a b wd sem sc la (vAdd false)
/-- R172. -/
def execAmfmin (a b wd sem sc la : Nat) (s : State) : Out := s.amof a b wd sem sc la fun x y => (vMin x y, 0)
/-- R172. -/
def execAmfmax (a b wd sem sc la : Nat) (s : State) : Out := s.amof a b wd sem sc la fun x y => (vMax x y, 0)

/-! ### Ordered reduce (R173 to R175, R480) -/

/-- The sort key of a contributor (R480): a launched thread by queue, launch sequence, group and thread; a clause by
the same four fields and then its root number and path; none for a party that belongs to no launch. -/
def State.sortKey (s : State) (a : Act) : Option (List Nat) :=
  match a.launch with
  | none => none
  | some l =>
    match a.clauseRec with
    | none => some [l.q, l.lseq, l.grp, l.thr]
    | some r =>
      let k := tcmKey a.die a.cluster a.core (0x1800 + 64 * r)
      let root := s.rdN (k + 0x18) 8
      let path := s.rdN (k + 0x10) 8
      let kids := (List.range (path / 2 ^ 60)).map fun i => bits path (6 * i) 6 + 1
      if a.hasRoot then some ([l.q, l.lseq, l.grp, l.thr, bits root 38 10 + 1] ++ kids) else none

/-- A contribution: the checks of R160, then that of R173 and R174, then the record at the home.  A local window lies
outside every range, and a compressed page takes none (23 R429). -/
def State.contribute (s : State) (a wd kind bits_ tail_ : Nat) : Out :=
  let n := wdBytes wd
  let p := s.reg a % 2 ^ 56
  if s.impureAt p then .next s.impure
  else if p % n ≠ 0 then .next (s.trapHere cALIGN 0 p)
  else if bits p 52 4 = 15 then .next (s.trapHere cRANGE 0 p)
  else
    match s.locate s.me p n aAtomic with
    | (.error e, s) => (s.failAcc (α := Unit) s.me 4 aAtomic e).done fun _ s => s
    | (.ok loc, s) =>
      if !s.inReduce p ∨ loc.kind = 7 then .next (s.trapHere cRANGE 0 p)
      else
        let key := s.sortKey s.cur
        let c : Contrib :=
          { key := loc.key, order := key.getD [], keyed := key.isSome, q := (s.cur.launch.map (·.q)).getD 0,
            lseq := (s.cur.launch.map (·.lseq)).getD 0, kind := kind, bits := bits_, tail := tail_, va := p,
            seqNo := s.coh.arrivals, act := s.cur.id }
        let s := s.modCoh fun h => { h with arrivals := h.arrivals + 1 }
        let s := s.modCtx s.cur.ctx fun x => { x with contribs := x.contribs ++ [c] }
        let s := s.spill s.cur.ctx s.cur.die 0x40 (Config.reduceSpill s.myCtx.contribs.length)
        .next ((s.cohAccess s.me loc aWrite []).retire 4)

/-- R173: the image in reg(b), tail included. [DEDUCED, notes/assumptions/19.md] -/
def execRadd (a b wd la : Nat) (s : State) : Out :=
  let _ := la
  let i := s.imgReg (wdFmt wd) b
  s.contribute a wd wd i.bits i.tail

/-- R174: the integer in reg(b). [DEDUCED, notes/assumptions/19.md] -/
def execRaddi (a b wd la : Nat) (s : State) : Out :=
  let _ := la
  s.contribute a wd (2 + wd) (s.reg b % 2 ^ (8 * wdBytes wd)) 0

/-- Whether one key sorts before another; a prefix sorts first (R480). -/
def keyLt : List Nat → List Nat → Bool
  | [], [] => false
  | [], _ => true
  | _, [] => false
  | x :: xs, y :: ys => if x < y then true else if y < x then false else keyLt xs ys

/-- The order in which contributions are applied: keyed ones by key, then the others; equal ones by arrival. -/
def contribLe (a b : Contrib) : Bool :=
  if a.keyed != b.keyed then a.keyed
  else if a.keyed && keyLt a.order b.order then true
  else if a.keyed && keyLt b.order a.order then false
  else decide (a.seqNo ≤ b.seqNo)

/-- Insert into a sorted list. -/
def contribInsert (c : Contrib) : List Contrib → List Contrib
  | [] => [c]
  | d :: ds => if contribLe c d then c :: d :: ds else d :: contribInsert c ds

/-- The new contents of a location (R173, R174) and the flags. -/
def Contrib.apply (c : Contrib) (old : Nat) : Nat × Nat :=
  if 2 ≤ c.kind then ((old + c.bits) % 2 ^ (if c.kind = 2 then 64 else 32), 0)
  else
    let f := wdFmt c.kind
    let r := vAdd false (encVal f old) (imgVal f ⟨c.bits, c.tail⟩)
    let t := finVal f 0 0 r.1
    (t.1, r.2 ||| t.2)

/-- Apply one contribution of a context at its home; no access is performed anew (23 R426). -/
def State.applyContrib (s : State) (ctx : Nat) (c : Contrib) : Nat × State :=
  let n := if c.kind % 2 = 0 then 8 else 4
  let r := c.apply (s.rdN c.key n)
  let loc : Loc := { key := c.key, va := c.va, pid := 4, kind := if inFar c.key then 4 else 3, pa := c.key }
  match s.writeAt { devWho ctx 0 with act := c.act, quiet := true } loc n r.1 aWrite with
  | .ok s => (r.2, s)
  | .error _ => (r.2, s)

/-- Apply the contributions of a context that are chosen, in their order; the flags they raise (R173). -/
def State.flushContribs (s : State) (c : Nat) (p : Contrib → Bool) : Nat × State :=
  let cs := (s.ctx c).contribs
  let s := s.modCtx c fun x => { x with contribs := cs.filter fun d => !p d }
  ((cs.filter p).foldr contribInsert []).foldl
    (fun (r : Nat × State) d => let t := r.2.applyContrib c d; (r.1 ||| t.1, t.2)) (0, s)

/-- R175: apply every contribution to the range that holds p, then release.  TVAL of its RANGE trap is p.
[DEDUCED, notes/assumptions/19.md] [DESIGN CHOICE, notes/assumptions/50.md] -/
def execRflush (a sc la : Nat) (s : State) : Out :=
  let _ := la
  let p := s.reg a % 2 ^ 56
  if s.impureAt p then .next s.impure
  else if !s.inReduce p then .next (s.trapHere cRANGE 0 p)
  else
    s.settle (sc2 sc) fun s =>
      let r := s.myCtx.rangeAt p
      let t := s.flushContribs s.cur.ctx fun c => decide (r.base ≤ c.va ∧ c.va < r.base + r.npg * 65536)
      .next ((t.2.retire 4).orFlags t.1)

/-! ### Reservations (R176, R177) -/

/-- R176: a load that places a reservation on its line. -/
def execLdres (a b wd sem sc la : Nat) (s : State) : Out :=
  let n := wdBytes wd
  let p := s.reg a % 2 ^ 56
  if s.impureAt p then .next s.impure
  else if p % n ≠ 0 then .next (s.trapHere cALIGN 0 p)
  else
    ((s.check 4 (s.reg a) 0 n n aRead).bind fun loc s =>
      let r := if s.cur.shadow.isSome then s.readLine s.me loc n else (s.rdN loc.key n, (s.catchUp s.me loc n).cohAccess s.me loc aRead [])
      let t := r.2.modCur fun x => { x with resv := some { line := loc.key / 128 } }
      .ok r.1 (if sem = 1 ∨ sem = 3 then t.syncWord loc.word (sc2 sc) else t)).done fun v s =>
        (s.retire 4).setRegLa la b (wdExt wd v) 0

/-- R176: the store, and 0 in b, when a live reservation covers p; 1 otherwise.  Either way the reservation ends. -/
def execStcond (a b wd sem sc la : Nat) (s : State) : Out :=
  let n := wdBytes wd
  let p := s.reg a % 2 ^ 56
  if s.impureAt p then .next s.impure
  else if p % n ≠ 0 then .next (s.trapHere cALIGN 0 p)
  else
    match s.check 4 (s.reg a) 0 n n aWrite with
    | .fault e => .fault e
    | .stop s => .next s
    | .ok _ _ =>
      s.settle (relScope sem sc) fun s =>
        ((s.check 4 (s.reg a) 0 n n aWrite).bind fun loc s =>
          let live := s.cur.resv == some { line := loc.key / 128 }
          let t := s.modCur fun x => { x with resv := none }
          if live then
            match t.commit 4 loc n (s.reg b % 2 ^ (8 * n)) aWrite 0 with
            | .ok _ s => .ok 0 (if 2 ≤ sem then s.releaseTo loc.word (sc2 sc) else s)
            | .stop s => .stop s
            | .fault e => .fault e
          else
            let t := t.retire 4
            .ok 1 (if 2 ≤ sem then t.fenceOrder (sc2 sc) 3 0xFF else t)).done fun v s => s.setRegLa la b v 0

/-! ### Access records, major 0x3A (R189) -/

/-- The record word of R189, 0 when the launch has none in its current interval. -/
def State.recWord (s : State) (loc : Loc) : Nat :=
  match s.cur.launch with
  | none => 0
  | some l =>
    let st := s.stamp l
    match s.myCtx.recs.get? (recKey l s.cur.shadow.isSome (loc.key / 128)) with
    | none => 0
    | some r =>
      if !loc.det || decide (r.lb < st.2) || (s.cur.accessor.head? == r.first.head? && decide (r.gb < st.1)) then 0
      else 2 ^ 63 + b2n r.written * 2 ^ 62 + b2n r.other * 2 ^ 61 + r.first.getD 1 0 % 64 * 2 ^ 32 + r.first.getD 0 0 % 2 ^ 32

/-- R189; the read is not an access under 06 R156. -/
def execTrread (d a : Nat) (s : State) : Out :=
  match s.locate s.me (s.reg a % 2 ^ 56) 1 aRead with
  | (.error e, s) => (s.failAcc (α := Unit) s.me 4 aRead e).done fun _ s => s
  | (.ok loc, s) => s.put 4 d (s.recWord loc) 0

end Sys2Proof.Machine
end

