-- ==== Sys2Proof/Machine/Fence.lean ====
section
/-!
DEFINITION. Fences, timeline waits and hints (07 R178 to R181, 03 R79).
-/

namespace Sys2Proof.Machine

/-- Whether a core has commands of an engine that have not completed: 0 copy, 1 matrix, 2 index. -/
def Core.busy (c : Core) (kind : Nat) : Bool := decide (c.tl.getD kind 0 < c.issued.getD kind 0)

/-- Whether a plane waits for its refetch, which is a read of the matrix unit (09 R231). -/
def Core.refetches (c : Core) : Bool := (c.active.refetch && c.active.state != 0) || (c.shadowP.refetch && c.shadowP.state != 0)

/-- R179, 06 R145: a predecessor set with an engine's kind waits for every earlier command of that engine; a successor
set with r invalidates the L1 at quad scope or wider, and at core scope when it follows an engine's accesses; windows close
(03 R72). -/
def execFence (sc pred succ : Nat) (s : State) : Out :=
  let c := s.myCore
  let engines := ((List.range 3).any fun k => bits pred (2 + 2 * k) 2 != 0 && c.busy k) || (bit pred 4 && c.refetches)
  if engines then .next s
  else
    s.settle (if bit pred 1 then sc else 0) fun s =>
      let s := ((s.retire 4).modCur fun a => { a with wins := [] }).fenceOrder sc pred succ
      .next (if bit succ 0 && sc != 0 then s.l1Clear s.cur.coreKey else s)

/-- The first unraised error of a command of a kind numbered `n` or below, lowest number first (R181). -/
def Act.errorOf (a : Act) (kind n : Nat) : Option Late :=
  (a.late.filter fun e => e.kind == kind && decide (e.n ≤ n)).foldl
    (fun r e => match r with | none => some e | some x => if e.n < x.n then some e else some x) none

/-- Raise an unraised error at the present PC. [DEDUCED, notes/assumptions/16.md] -/
def State.raiseLate (s : State) (e : Late) : State :=
  (s.modCur fun a => { a with late := a.late.erase e }).trapHere e.code e.sub e.tval

/-- What a clause may not execute traps RANGE with SUB 7 (11 R284). [DEDUCED, notes/assumptions/18.md] -/
def State.unlessClause (s : State) (k : Out) : Out := if s.cur.orig = 2 then .next (s.trapHere cRANGE 7 0) else k

/-- R180, R181. -/
def execTlwait (a kind : Nat) (s : State) : Out :=
  s.unlessClause
    (let n := s.reg a
     let c := s.myCore
     if c.issued.getD kind 0 < n then .next (s.trapHere cRANGE 0 n)
     else
       match s.cur.errorOf kind n with
       | some e => .next (s.raiseLate e)
       | none =>
         if n ≤ c.tl.getD kind 0 then .next (((s.retire 4).modCur fun a => { a with wins := [] }).tlAcquire kind n)
         else .next (s.block (.tl kind n)))

/-- R180, R181. -/
def execTltest (d a kind : Nat) (s : State) : Out :=
  let n := s.reg a
  let c := s.myCore
  if c.issued.getD kind 0 < n then .next (s.trapHere cRANGE 0 n)
  else if n ≤ c.tl.getD kind 0 then
    match s.cur.errorOf kind n with
    | some e => .next (s.raiseLate e)
    | none => .next (((s.retire 4).setReg d 1 0).tlAcquire kind n)
  else s.put 4 d 0 0

/-- 03 R79: no effect but the PC's advance. -/
def execHint (k rest : Nat) (s : State) : Out :=
  let _ := k + rest
  .next (s.retire 4)

end Sys2Proof.Machine
end

