-- ==== Sys2Proof/Machine/Memory.lean ====
section
/-!
DEFINITION. Loads and stores (07 R162 to R168): plain, acquiring and releasing, final and image stores, long-offset
forms, and element access through a pointer's tag.
-/

namespace Sys2Proof.Machine

/-! ### Loads and stores, majors 0x10 to 0x14 -/

/-- The end of an integer load into `d`. -/
def State.loadInt (s : State) (len base : Nat) (off : Int) (w : IW) (d la : Nat) : Out :=
  (s.load len base off (accBytes w) (accBytes w)).done fun v s => (s.retire len).setRegLa la d (loadExt w v) 0

/-- The end of an integer store. -/
def State.storeInt (s : State) (len base : Nat) (off : Int) (w : IW) (v : Nat) : Out :=
  (s.store len base off (accBytes w) (accBytes w) (v % 2 ^ nbits w) 0).done fun _ s => s

/-- A field of `n` bits as an offset in elements. -/
def offOf (off n size : Nat) : Int := sint off n * size

/-- R162. -/
def execLd (w : IW) (d a off la : Nat) (s : State) : Out := s.loadInt 4 (s.reg a) (offOf off 8 (accBytes w)) w d la

/-- R162: an acquire at its scope. -/
def execLda (w : IW) (d a off sc la : Nat) (s : State) : Out :=
  ((s.check 4 (s.reg a) (offOf off 6 (accBytes w)) (accBytes w) (accBytes w) aRead).bind fun loc s =>
    let r := s.readAt s.me loc (accBytes w)
    .ok r.1 (r.2.syncWord loc.word (sc2 sc))).done fun v s => (s.retire 4).setRegLa la d (loadExt w v) 0

/-- R162; the hint changes timing only. -/
def execSt (w : IW) (a b off hn : Nat) (s : State) : Out :=
  let _ := hn
  s.storeInt 4 (s.reg a) (offOf off 10 (accBytes w)) w (s.reg b)

/-- R162: a release at its scope; the store is not performed when a posted write is lost (26 R465). -/
def execStr (w : IW) (a b off sc : Nat) (s : State) : Out :=
  match s.check 4 (s.reg a) (offOf off 10 (accBytes w)) (accBytes w) (accBytes w) aWrite with
  | .fault e => .fault e
  | .stop s => .next s
  | .ok _ _ =>
    s.settle (sc2 sc) fun s =>
      ((s.check 4 (s.reg a) (offOf off 10 (accBytes w)) (accBytes w) (accBytes w) aWrite).bind fun loc s =>
        (s.commit 4 loc (accBytes w) (s.reg b % 2 ^ nbits w) aWrite 0).bind fun _ s => .ok loc s).done fun loc s =>
          s.releaseTo loc.word (sc2 sc)

/-- R120: `c.ld`. -/
def execCLd (d off : Nat) (s : State) : Out := s.loadInt 2 (s.reg 2) (off * 8 : Nat) .i64 d 0

/-- R120: `c.st`. -/
def execCSt (b off : Nat) (s : State) : Out := s.storeInt 2 (s.reg 2) (off * 8 : Nat) .i64 (s.reg b)

/-- The modes of `stf`: dyn, rne, rtz, rsh (R163). -/
def stfMode (rm : Nat) : Nat := if rm = 0 then 7 else if rm = 1 then 0 else if rm = 2 then 1 else 5

/-- The 16-byte slot of a register (02 R32). -/
def slotVal (v t : Nat) : Nat := v + t * 2 ^ 64

/-- R163: the final store of an image, or the image store for w = 6. -/
def execStf (w : FW) (a b off rm : Nat) (s : State) : Out :=
  match w with
  | .img => (s.store 4 (s.reg a) (offOf off 10 16) 16 16 (slotVal (s.reg b) (s.tb b)) 0).done fun _ s => s
  | w =>
    let f := fwFmt w
    let n := f.width / 8
    let o := offOf off 10 n
    let r := fin f (effMode (stfMode rm) s.rm) (s.hashMem (wint (s.reg a + o) % 2 ^ 56 * 8)) (s.imgReg f b)
    (s.store 4 (s.reg a) o n n r.1 r.2).done fun _ s => s

/-! ### Long offsets, major 0x0B -/

/-- R164. -/
def execLdx (w : IW) (d a b la : Nat) (s : State) : Out := s.loadInt 4 (s.reg a) (s.ireg b) w d la

/-- R164. -/
def execStx (w : IW) (d a b : Nat) (s : State) : Out := s.storeInt 4 (s.reg a) (s.ireg b) w (s.reg d)

/-- R164: a load with the replicate hint (06 R141). -/
def execLdxr (w : IW) (d a b la : Nat) (s : State) : Out :=
  ((s.check 4 (s.reg a) (s.ireg b) (accBytes w) (accBytes w) aRead).bind fun loc s =>
    let r := s.readHinted s.me loc (accBytes w)
    .ok r.1 r.2).done fun v s => (s.retire 4).setRegLa la d (loadExt w v) 0

/-! ### Element access (R165 to R168) -/

/-- Bits of an element of a format code (02 R25); an MX format's element has the width of its element format. -/
def codeBits (c : Nat) : Nat :=
  match fmtOf? c with
  | some f => f.width
  | none =>
    match intRange? c with
    | some (_, _, n) => n
    | none =>
      if c = 0 ∨ c = 0x14 then 8 else if c = 0x15 ∨ c = 0x16 ∨ c = 0x1A then 8 else if c = 0x17 ∨ c = 0x18 then 6
      else if c = 0x19 then 4 else if c = 0x1F then 128 else 0

/-- Whether a code names an MX format, and the element format of the floating-point ones. -/
def isMx (c : Nat) : Bool := decide (0x15 ≤ c ∧ c ≤ 0x1A)
def mxElem (c : Nat) : Fmt :=
  if c = 0x15 then fp8e4 else if c = 0x16 then fp8e5 else if c = 0x17 then fp6e3 else if c = 0x18 then fp6e2 else fp4e2

/-- The value of an MX element under its block's scale code (02 R33, R34). -/
def mxVal (c scale b : Nat) : Val :=
  let v := if c = 0x1A then Val.fin (bit b 7) (sint b 8).natAbs (-6) else encVal (mxElem c) b
  scaleVal v (e8sVal scale)

/-- Where an element lies: the bit offset from the base, and the byte offset of its block's scale (R165). -/
def elemAt (c : Nat) (i : Int) : Int × Option Int :=
  let wb := codeBits c
  if isMx c then
    let k := i / 32
    let blk := k * (1 + 4 * wb : Nat)
    (blk * 8 + 8 + i % 32 * wb, some blk)
  else (i * wb, none)

/-- The checks of a pointer's tag (R165): the trap that it takes, if any. -/
def tagBad (p : Nat) : Bool :=
  let c := p / 2 ^ 59
  decide (0x1B ≤ c ∧ c ≤ 0x1E) || (isMx c && bits p 56 3 != 3)

/-- Load `n` bytes one at a time. -/
def State.loadBytes (s : State) (base : Nat) (off : Int) : Nat → Res Nat
  | 0 => .ok 0 s
  | n + 1 => (s.load 4 base off 1 1).bind fun b s => (s.loadBytes base (off + 1) n).bind fun v s => .ok (b + 256 * v) s

/-- The bits of an element: whole bytes outside MX blocks as one aligned access, narrower elements byte by byte. -/
def State.loadElem (s : State) (base : Nat) (bo : Int) (wb : Nat) (mx : Bool) : Res Nat :=
  let sh := (bo % 8).toNat
  if wb % 8 = 0 && sh == 0 && !mx then s.load 4 base (bo / 8) (wb / 8) (wb / 8)
  else (s.loadBytes base (bo / 8) ((sh + wb + 7) / 8)).bind fun v s => .ok (bits v sh wb) s

/-- Replace bits of the aligned 8-byte word at a place: the read-modify-write of R168. -/
def State.patchWord (s : State) (w : Who) (loc : Loc) (lo n v : Nat) : Except AErr State :=
  let old := if w.shadow.isSome then s.readLine w loc 8 else (s.rdN loc.key 8, s)
  old.2.writeAt w loc 8 (setBits old.1 lo n v) aWrite

/-- The read-modify-writes of an element narrower than its bytes, at bit address `ba` (R168): both words are checked
before either is written.  A trap or a fault record names the aligned word. [DESIGN CHOICE, notes/assumptions/49.md] -/
def State.storeBits (s : State) (base ba wb v fl : Nat) : Res Unit :=
  let tag := base / 2 ^ 56 * 2 ^ 56
  let w0 := ba / 64
  let lo := ba % 64
  (s.check 4 (tag + w0 * 8) 0 8 8 aWrite).bind fun l0 s =>
    let done := fun (r : Except AErr State) (t : State) =>
      match r with
      | .error e => t.failAcc t.me 4 aWrite e
      | .ok s => Res.ok () s
    let s' := (s.retire 4).orFlags fl
    if lo + wb ≤ 64 then done (s'.patchWord s.me l0 lo wb v) s
    else
      (s.check 4 (tag + w0 * 8 + 8) 0 8 8 aWrite).bind fun l1 s =>
        match ((s.retire 4).orFlags fl).patchWord s.me l0 lo (64 - lo) v with
        | .error e => s.failAcc s.me 4 aWrite e
        | .ok t => done (t.patchWord s.me l1 0 (wb - (64 - lo)) (v / 2 ^ (64 - lo))) s

/-- Store the bits of an element. -/
def State.storeElem (s : State) (base : Nat) (bo : Int) (wb v fl : Nat) (mx : Bool) : Res Unit :=
  let sh := (bo % 8).toNat
  if wb % 8 = 0 && sh == 0 && !mx then s.store 4 base (bo / 8) (wb / 8) (wb / 8) v fl
  else
    match ea base (bo / 8), ea base (bo / 8 + (sh + wb + 7) / 8 - 1) with
    | .error x, _ => .stop (s.trapHere cTAGOV 0 x)
    | _, .error x => .stop (s.trapHere cTAGOV 0 x)
    | .ok va, .ok _ =>
      if wb % 8 = 0 && sh == 0 then s.store 4 base (bo / 8) (wb / 8) 1 v fl else s.storeBits base (va * 8 + sh) wb v fl

/-- What `lde` writes for an element of a class: the register image and its flags (R166). -/
def ldeImage (c w scale b : Nat) : Image × Nat :=
  match fmtOf? c with
  | some f => rto (fwFmt ((FW.ofCode? w).getD .f64)) (encVal f b)
  | none =>
    let W := fwFmt ((FW.ofCode? w).getD .f64)
    if c = 0x14 then rto W (e8sVal b) else rto W (mxVal c scale b)

/-- Whether a format code is read by `lde` and `ste` under the integer coding of w. -/
def intClass (c : Nat) : Bool := c == 0 || (intRange? c).isSome

/-- The integer of an element; raw as N8. -/
def elemInt (c b : Nat) : Int := if c = 0 then (b % 256 : Nat) else intOf c b

/-- The instruction word of a long-offset form, for the IOP of a w that a pointer's class does not accept. -/
def wordLong (fn w d a b la : Nat) : Nat :=
  1 + 2 * 0x0B + 128 * d + 4096 * a + 2 ^ 17 * b + 2 ^ 22 * w + 2 ^ 25 * fn + 2 ^ 28 * la

/-- R166: an element load. -/
def execLde (w d a b la : Nat) (s : State) : Out :=
  let p := s.reg a
  let c := p / 2 ^ 59
  let i := s.ireg b
  let wb := codeBits c
  let at_ := elemAt c i
  let bad := if intClass c then w == 7 else if c == 0x1F then false else decide (4 ≤ w)
  if bad && !decide (0x1B ≤ c ∧ c ≤ 0x1E) then .next (s.trapIop (wordLong 3 w d a b la))
  else if tagBad p then .next (s.trapHere cTMAP 1 p)
  else if c = 0x1F then
    (s.load 4 p (i * 16) 16 16).done fun v s => (s.retire 4).setRegLa la d (v % 2 ^ 64) (bits v 64 8)
  else if intClass c then
    (s.loadElem p at_.1 wb false).done fun v s =>
      (s.retire 4).setRegLa la d (sat ((IW.ofCode? w).getD .i64) (elemInt c v)) 0
  else
    ((match at_.2 with
      | some o => s.load 4 p o 1 1
      | none => .ok 0 s).bind fun x s =>
        (s.loadElem p at_.1 wb (isMx c)).bind fun v s => .ok (ldeImage c w x v) s).done fun r s =>
          ((s.retire 4).orFlags r.2).setRegLa la d r.1.bits r.1.tail

/-- An MXI8 element of a value under a scale (R167): the code and the flags. -/
def mxi8Elem (m h : Nat) : Val → Nat × Nat
  | .nan => (0, fNV)
  | .inf neg => (if neg then 128 else 127, fOF)
  | .fin neg mt e =>
    let r := roundInt m h neg mt (e + 6)
    let c := clampInt r.1 (-128) 127
    (imod c 8, (if r.2 then fNX else 0) ||| (if c = r.1 then 0 else fOF ||| fNX))

/-- What `ste` stores into an MX element (R167): the element becomes v / X; the scale is never changed. -/
def steMx (c m h mi scale : Nat) (v : Val) : Nat × Nat :=
  if scale = 255 then (0, fNV)
  else
    let q := scaleVal v (.fin false 1 (127 - scale))
    if c = 0x1A then mxi8Elem mi h q else finVal (mxElem c) m h q

/-- R167: an element store.  An ST.RM of 5 or 6 acts as RNE for an MXI8 element too (02 R479).
[DESIGN CHOICE, notes/assumptions/50.md] -/
def execSte (w d a b : Nat) (s : State) : Out :=
  let p := s.reg a
  let c := p / 2 ^ 59
  let i := s.ireg b
  let wb := codeBits c
  let at_ := elemAt c i
  let bad := if intClass c then w == 7 else if c == 0x1F then false else decide (6 ≤ w)
  if bad && !decide (0x1B ≤ c ∧ c ≤ 0x1E) then .next (s.trapIop (wordLong 4 w d a b 0))
  else if tagBad p then .next (s.trapHere cTMAP 1 p)
  else if c = 0x1F then (s.store 4 p (i * 16) 16 16 (slotVal (s.reg d) (s.tb d)) 0).done fun _ s => s
  else if intClass c then
    let x := s.wreg ((IW.ofCode? w).getD .i64) d
    let r := match intRange? c with
      | some (lo, hi, n) => imod (clampInt x lo hi) n
      | none => imod (clampInt x 0 255) 8
    (s.storeElem p at_.1 wb r 0 false).done fun _ s => s
  else
    let f := fwFmt ((FW.ofCode? w).getD .f64)
    let v := s.fval f d
    let m := effMode 7 s.rm
    let h := s.hashMem (wint (p + at_.1 / 8) % 2 ^ 56 * 8 + (at_.1 % 8).toNat)
    ((match at_.2 with
      | some o => s.load 4 p o 1 1
      | none => .ok 0 s).bind fun x s =>
        let r :=
          match fmtOf? c with
          | some g => finVal g m h v
          | none => if c = 0x14 then toE8S v else steMx c m h (intMode 7 s.rm) x v
        s.storeElem p at_.1 wb r.1 r.2 (isMx c)).done fun _ s => s

end Sys2Proof.Machine
end

