-- ==== Sys2Proof/Machine/Maps.lean ====
section
/-!
DEFINITION. Tensor maps (04 R97, 09 R224), final conversions of elements (02 R46), MX blocks (02 R35), and the engines'
accesses to memory, split where a line ends.
-/

namespace Sys2Proof.Machine

/-! ### Tensor maps, as their eight words -/

def mapBase (m : List Nat) : Nat := m.getD 0 0
def mapFmt (m : List Nat) : Nat := mapBase m / 2 ^ 59
def mapDim (m : List Nat) (k : Nat) : Nat := bits (m.getD (1 + k / 2) 0) (32 * (k % 2)) 32
def mapStr (m : List Nat) (k : Nat) : Nat := bits (m.getD (3 + (k - 1) / 2) 0) (32 * ((k - 1) % 2)) 32
def mapCtl (m : List Nat) : Nat := m.getD 4 0 / 2 ^ 32
def mapRank (m : List Nat) : Nat := mapCtl m % 8
def mapScale (m : List Nat) : Nat := m.getD 5 0

/-- Whether a map breaks R97. -/
def mapBad (m : List Nat) : Bool :=
  let r := mapRank m
  let c := mapFmt m
  let wb := codeBits c
  m.getD 6 0 != 0 || m.getD 7 0 != 0 || mapCtl m / 8 != 0 || r == 0 || decide (4 < r)
    || c == 0 || decide (0x1B ≤ c)
    || (List.range 4).any (fun k => if k < r then mapDim m k == 0 else mapDim m k != 0)
    || (List.range 3).any (fun k => decide (k + 1 < r) && mapStr m (k + 1) * 8 % wb != 0)
    || (if isMx c then mapScale m == 0 else mapScale m != 0)

/-- Whether an element is present (R224). -/
def mapHas (m : List Nat) (ix : List Nat) : Bool :=
  (List.range 4).all fun k => if k < mapRank m then decide (ix.getD k 0 < mapDim m k) else ix.getD k 0 == 0

/-- `bitaddr` (R224); none when the sum leaves 2^56. -/
def mapBit (m : List Nat) (ix : List Nat) : Option Nat :=
  let byte := mapBase m % 2 ^ 56 + ix.getD 1 0 * mapStr m 1 + ix.getD 2 0 * mapStr m 2 + ix.getD 3 0 * mapStr m 3
  let b := byte * 8 + ix.getD 0 0 * codeBits (mapFmt m)
  if b < 2 ^ 59 then some b else none

/-- The address of an element beyond 2^56, as a trap reports it (R187, R211). -/
def mapFar (m : List Nat) (ix : List Nat) : Nat :=
  w64 (mapBase m + ix.getD 1 0 * mapStr m 1 + ix.getD 2 0 * mapStr m 2 + ix.getD 3 0 * mapStr m 3
    + ix.getD 0 0 * codeBits (mapFmt m) / 8)

/-- `scaleaddr` (R224), with the logical extent of dimension 0. -/
def mapScaleAt (m : List Nat) (l0 : Nat) (ix : List Nat) : Nat :=
  let nb := ceilDiv l0 32
  mapScale m + ((ix.getD 3 0 * max (mapDim m 2) 1 + ix.getD 2 0) * max (mapDim m 1) 1 + ix.getD 1 0) * nb + ix.getD 0 0 / 32

/-- Words at an address, read by the issuing thread; no alignment is asked of them. -/
def State.loadWords (s : State) (base : Nat) (off : Int) : Nat → Res (List Nat)
  | 0 => .ok [] s
  | n + 1 => (s.loadBytes base off 8).bind fun x s => (s.loadWords base (off + 8) n).bind fun xs s => .ok (x :: xs) s

/-! ### Final conversion of an element (R46) -/

/-- An element as a value: floating point, block scale, MX under its scale, or integer. -/
def elemVal (c scale b : Nat) : Val :=
  match fmtOf? c with
  | some f => encVal f b
  | none => if c = 0x14 then e8sVal b else if isMx c then mxVal c scale b else intVal (elemInt c b)

/-- The final conversion of a value into a format that is not an MX format: the bits and the flags.  `m` is the
effective mode for a floating-point target and `mi` the one for an integer target (R479). -/
def finalTo (c m mi h : Nat) (v : Val) : Nat × Nat :=
  match fmtOf? c with
  | some f => finVal f m h v
  | none =>
    if c = 0x14 then toE8S v
    else
      match intRange? c with
      | some (lo, hi, n) => let r := vToInt mi h lo hi v; (imod r.1 n, r.2)
      | none => (0, 0)

/-- Integer to integer saturates without a flag; every other pair is a final conversion.  Between an integer and E8S, for which the
table of R46 has no row, it goes by value. [DESIGN CHOICE, notes/assumptions/54.md] -/
def convElem (src dst m mi h scale b : Nat) : Nat × Nat :=
  match intRange? src, intRange? dst with
  | some _, some (lo, hi, n) => (imod (clampInt (intOf src b) lo hi) n, 0)
  | _, _ => finalTo dst m mi h (elemVal src scale b)

/-- The exponent of the largest element of an MX format (R35). -/
def mxEmax (c : Nat) : Int :=
  if c = 0x15 then 8 else if c = 0x16 then 15 else if c = 0x17 then 4 else if c = 0x18 ∨ c = 0x19 then 2 else 0

/-- The exponent ⌊log2 |v|⌋ of a finite value that is not zero. -/
def vLog : Val → Int
  | .fin _ m e => Nat.log2 m + e
  | _ => 0

/-- One element of an MX block under the exponent e of its scale (R35 steps 4 to 6). -/
def mxPut (c m h : Nat) (e : Int) (v : Val) : Nat × Nat :=
  let q := scaleVal v (.fin false 1 (-e))
  if c = 0x1A then mxi8Elem m h q
  else
    let f := mxElem c
    let r := finVal f m h q
    if f.hasInf && r.1 % 2 ^ (f.ebits + f.mbits) == f.infEnc then (r.1 / 2 ^ 7 * 2 ^ 7 + f.maxEnc, r.2) else r

/-- R35: the values that are present become a scale code and element codes; `h` gives each position's hash. -/
def mxBlock (c m : Nat) (h : Nat → Nat) (vs : List (Nat × Val)) : Nat × List (Nat × Nat) × Nat :=
  let finite := fun (v : Val) => match v with | .fin _ _ _ => true | _ => false
  if !(vs.all fun p => finite p.2) then (255, vs.map fun p => (p.1, 0), fNV)
  else
    match vs.filter (fun p => !p.2.isZero) with
    | [] => (0, vs.map fun p => (p.1, 0), 0)
    | p :: ps =>
      let top := ps.foldl (fun k q => max k (vLog q.2)) (vLog p.2)
      let e := clampInt (top - mxEmax c) (-127) 127
      let rs := vs.map fun q => (q.1, mxPut c m (h q.1) e q.2)
      ((e + 127).toNat, rs.map (fun r => (r.1, r.2.1)), rs.foldl (fun f r => f ||| r.2.2) 0)

/-! ### An engine's accesses -/

/-- The issuer of a command, as its accesses carry it; `eng` is the engine of 23 R421. -/
def Cmd.who (c : Cmd) (eng : Nat) : Who :=
  { ctx := c.ctx, die := c.place.getD 0 0, cluster := c.place.getD 1 0, core := c.place.getD 2 0, act := c.act,
    level := c.level, eng := eng, shadow := c.shadow, launch := c.launch, ident := c.ident,
    det := c.det && c.launch.isSome, cmd := some (eng - 1, c.n), fill := if eng = 1 ∧ c.op = 3 then some c.born else none,
    since := c.since, low := c.low, view := c.view }

/-- Where an engine's access inside one line goes, with the checks of 07 R187. -/
def State.engAt (s : State) (w : Who) (va n acc : Nat) : Except AErr (Loc × State) :=
  if 2 ^ 56 < va + n then .error (.trap cTAGOV 0 (w64 (va + n - 1)))
  else
    match s.locate w va n acc with
    | (.error e, _) => .error e
    | (.ok loc, s) =>
      if loc.kind ≥ 3 ∧ s.coh.poison.contains (loc.key / 128) ∧ acc ≠ aWrite then .error (.data 3 va)
      else
        match s.record w loc (isWr acc) with
        | none => .error (if w.shadow.isSome then .shadowEnd 8 else .trap cCONFLICT 0 va)
        | some s => .ok (loc, s)

/-- The bytes of an access that lie in the line of its first byte. -/
def chunk (va n : Nat) : Nat := min n (128 - va % 128)

/-- Read `n` bytes, at most `fuel` lines of them. -/
def State.engRead (s : State) (w : Who) : Nat → Nat → Nat → Except AErr (Nat × State)
  | 0, _, _ => .ok (0, s)
  | fuel + 1, va, n =>
    if n = 0 then .ok (0, s)
    else
      let k := chunk va n
      match s.engAt w va k aRead with
      | .error e => .error e
      | .ok (loc, s) =>
        let r := s.readAt w loc k
        match State.engRead r.2 w fuel (va + k) (n - k) with
        | .error e => .error e
        | .ok (v, s) => .ok (r.1 + 256 ^ k * v, s)

/-- Write `n` bytes, at most `fuel` lines of them. -/
def State.engWrite (s : State) (w : Who) : Nat → Nat → Nat → Nat → Except AErr State
  | 0, _, _, _ => .ok s
  | fuel + 1, va, n, v =>
    if n = 0 then .ok s
    else
      let k := chunk va n
      match s.engAt w va k aWrite with
      | .error e => .error e
      | .ok (loc, s) =>
        match s.writeAt w loc k (v % 256 ^ k) aWrite with
        | .error e => .error e
        | .ok s => State.engWrite s w fuel (va + k) (n - k) (v / 256 ^ k)

/-- The bits of an element at a bit address. -/
def State.engElem (s : State) (w : Who) (ba wb : Nat) : Except AErr (Nat × State) :=
  match s.engRead w 2 (ba / 8) ((ba % 8 + wb + 7) / 8) with
  | .error e => .error e
  | .ok (v, s) => .ok (bits v (ba % 8) wb, s)

/-- Replace the bits of the aligned word at a bit address, up to its end (07 R168). -/
def State.engPatch (s : State) (w : Who) (ba n v : Nat) : Except AErr State :=
  match s.engAt w (ba / 64 * 8) 8 aWrite with
  | .error e => .error e
  | .ok (loc, s) => s.patchWord w loc (ba % 64) n v

/-- Write the bits of an element at a bit address. -/
def State.engPutElem (s : State) (w : Who) (ba wb v : Nat) : Except AErr State :=
  if ba % 8 = 0 ∧ wb % 8 = 0 then s.engWrite w 2 (ba / 8) (wb / 8) v
  else
    let k := min wb (64 - ba % 64)
    match s.engPatch w ba k v with
    | .error e => .error e
    | .ok s => if k = wb then .ok s else s.engPatch w (ba + k) (wb - k) (v / 2 ^ k)

/-- An element of a map with its block's scale: none when it is absent.  `l0` is the logical extent of dimension 0 and
`lx` its logical index there. -/
def State.engMapElem (s : State) (w : Who) (m ix : List Nat) (l0 lx : Nat) : Except AErr (Option (Nat × Nat) × State) :=
  if !mapHas m ix then .ok (none, s)
  else
    match mapBit m ix with
    | none => .error (.trap cTAGOV 0 (mapFar m ix))
    | some ba =>
      match s.engElem w ba (codeBits (mapFmt m)) with
      | .error e => .error e
      | .ok (b, s) =>
        if isMx (mapFmt m) then
          match s.engRead w 1 (mapScaleAt m l0 (lx :: ix.drop 1)) 1 with
          | .error e => .error e
          | .ok (x, s) => .ok (some (b, x), s)
        else .ok (some (b, 0), s)

end Sys2Proof.Machine
end

