-- ==== Sys2Proof/Machine/Engine.lean ====
section
/-!
DEFINITION. What the engines share (06 R150, 07 R187, 23 R420 to R424): the numbers of the timelines, the issue of a
command, a request that waits for a replay, and the completion of a command with or without an error.
-/

namespace Sys2Proof.Machine

/-- Whether a context runs its activations and engines (24 R442). -/
def State.running (s : State) (c : Nat) : Bool := (s.ctx c).st == 3

/-- The next number of a timeline of the issuing core: 0 copy, 1 matrix, 2 index. -/
def Core.next (c : Core) (kind : Nat) : Nat := c.issued.getD kind 0 + 1

/-- Count a number as issued. -/
def Core.issue (c : Core) (kind : Nat) : Core :=
  { c with issued := c.issued.set kind (c.next kind) }

/-- A command as its issuer makes it. -/
def State.newCmd (s : State) (kind op q : Nat) (args : List Nat) : Cmd :=
  let a := s.cur
  { n := s.myCore.next kind, op := op, q := q, act := a.id, ctx := a.ctx, level := a.level, det := a.det,
    launch := a.launch, args := args, pc := s.pc, shadow := a.shadow, place := [a.die, a.cluster, a.core, a.slot],
    ident := a.accessor, born := s.sched.clock, since := (List.range 2).map fun i => a.fenced.getD (2 * kind + i) 0,
    low := (List.range 2).map fun i => a.loadFenced.getD (2 * kind + i) 0, view := a.view }

/-- The list of commands of a kind, and its replacement. -/
def Core.cmds (c : Core) (kind : Nat) : List Cmd := if kind = 0 then c.copies else if kind = 1 then c.mq else c.index

def Core.setCmds (c : Core) (kind : Nat) (l : List Cmd) : Core :=
  if kind = 0 then { c with copies := l } else if kind = 1 then { c with mq := l } else { c with index := l }

/-- The end of an engine instruction: the command is queued, its number written to d with tail 0. -/
def State.enqueue (s : State) (kind d : Nat) (c : Cmd) : Out :=
  let s := s.modMyCore fun k => (k.issue kind).setCmds kind (k.cmds kind ++ [c])
  .next ((s.retire 4).setReg d c.n 0)

/-- A command of a core. -/
def State.cmd? (s : State) (ck kind n : Nat) : Option Cmd := ((s.core ck).cmds kind).find? (·.n == n)

def State.modCmd (s : State) (ck kind n : Nat) (f : Cmd → Cmd) : State :=
  s.modCore ck fun k => k.setCmds kind ((k.cmds kind).map fun c => if c.n = n then f c else c)

/-- An error becomes unraised at an activation. [DEDUCED, notes/assumptions/16.md] -/
def State.addLate (s : State) (id : Nat) (e : Late) : State :=
  s.onAct id fun s => s.modCur fun a => { a with late := a.late ++ [e] }

/-- The flags of a command reach the ST of its issuing activation, running or not (03 R76), unless its WP is rejected
(03 R64). -/
def State.flagAct (s : State) (id fl : Nat) : State :=
  if fl = 0 then s else s.onAct id fun s => if s.cur.wpOk then s.orFlags fl else s

/-- The end of a command (07 R187): its number counts, its flags land, and an error is left unraised at its activation, or
a completion message of its class goes to the core, which releases its writes there. -/
def State.endCmd (s : State) (ck kind : Nat) (c : Cmd) (err : Option (Nat × Nat × Nat)) (done : Nat) : State :=
  let s := s.modCore ck fun k => (k.setCmds kind ((k.cmds kind).filter (·.n != c.n))).complete kind c.n
  let s := s.modCtx c.ctx fun x =>
    { x with parked := x.parked.filter fun p => !(p.who == 1 + kind && p.id == ck * 2 ^ 64 + c.n) }
  let s := s.flagAct c.act c.flags
  let late := err.map fun e => ({ code := e.1, sub := e.2.1, tval := e.2.2, kind := kind, n := c.n } : Late)
  match c.shadow, err with
  | some q, some _ => s.discardShadow q 8
  | _, _ =>
    let s := match c.shadow with | some q => s.shadowAdvance q | none => s
    if c.q = 0 then (match late with | some e => s.addLate c.act e | none => s)
    else
      let e := err.getD (0, 0, 0)
      let s := s.releaseCmd ck kind c.n (ptMsg s.work.nextMsg) 0
      s.post { n := 0, die := c.place.getD 0 0, cluster := c.place.getD 1 0, core := c.place.getD 2 0, cls := 24 + c.q,
               words := [c.n, e.1, e.2.2, done, 0, 0, 0, 0], ctx := c.ctx, act := c.act, err := late }

/-- Whether a posted write of a command is on its way (26 R464). -/
def State.cmdPosted (s : State) (ck kind n : Nat) : Bool := s.links.any fun e => e.2.posted.any fun p => p.cmd == some (ck, kind, n)

/-- Whether a command that has made all its accesses completes: the posted ones among them have been acknowledged, which they
may be at any moment but while one waits at a link that retrains (26 R464, R465). [DEDUCED, notes/assumptions/38.md] -/
def State.cmdAcked (s : State) (ck kind n : Nat) : Bool × State :=
  if !s.cmdPosted ck kind n then (true, s)
  else
    let f := s.flip
    if !f.1 then (false, f.2)
    else
      let r := f.2.ackPosted fun p => p.cmd == some (ck, kind, n)
      (!r.1, r.2)

/-- The DONE field of a command's message: bytes, elements or records fully written (R187). -/
def Cmd.done (c : Cmd) : Nat :=
  let n := c.prog - (c.stuck.map fun x => x.2 - x.1).sum
  if c.op = 1 then (if isMx (mapFmt c.args) then 32 * n else n)
  else if c.op = 2 then n / max 1 (c.args.getD 4 1) else n

/-- A completed `pfill` copy makes its slot full, when it is still filling by that copy (15 R320), and releases its writes at
cluster scope (R326). -/
def State.fillSlot (s : State) (c : Cmd) (ok : Bool) : State :=
  if c.op ≠ 3 then s
  else
    let key := c.args.getD 3 0
    let k := c.args.getD 4 0
    match s.work.pipes.get? key with
    | none => s
    | some p =>
      let ck := coreKey (c.place.getD 0 0) (c.place.getD 1 0) (c.place.getD 2 0)
      let s := if ok then s.releaseCmd ck 0 c.n (ptSlot key k) 2 else s
      if p.st.getD k 0 = 2 then s.modWork fun w => { w with pipes := w.pipes.put key { p with st := p.st.set k (if ok then 3 else 1) } }
      else s

/-- What the end of a command with an error leaves beside it, once the command is there no more: the slot that its copy was
filling may be released (15 R320), the plane that it was loading is empty (09 R230), and a broken plane has been reported
(R248). -/
def State.cmdFailed (s : State) (ck kind : Nat) (c : Cmd) : State :=
  if (s.cmd? ck kind c.n).isSome then s
  else if kind = 0 then s.fillSlot c false
  else if kind = 1 then
    s.modCore ck fun k =>
      if c.op = 0 then { k with shadowP := {} }
      else if c.op = 2 then { k with active := { k.active with broken := 0 } } else k
  else s

/-- A command of which a posted write has been lost ends with error LINKLOST (26 R465). [DEDUCED, notes/assumptions/38.md] -/
def State.loseCmd (s : State) (ck kind : Nat) (c : Cmd) (done va : Nat) : State :=
  (s.endCmd ck kind c (some (cLINKLOST, 1, va)) done).cmdFailed ck kind c

/-- What a failed access does to the command that made it: it parks for a replay, waits, ends with an error, or ends its
shadow; one outside a firmware core's egress filter freezes and logs the core (24 R448). -/
def State.failCmd (s : State) (ck kind eng acc : Nat) (c : Cmd) (done : Nat) (e : AErr) : State :=
  let w := c.who eng
  match e with
  | .trap code sub a => s.endCmd ck kind c (some (code, sub, a)) done
  | .data sub a =>
    match c.shadow with
    | some q => s.discardShadow q 8
    | none => ((s.endCmd ck kind c (some (cDATAERR, sub, a)) done).log 1 sub c.ctx w.die 0 a).freeze c.ctx 2 a
  | .xlat cause level a =>
    match c.shadow with
    | some q => s.discardShadow q 7
    | none =>
      if 512 ≤ s.replayHeld w.die then s
      else
      let id := ck * 2 ^ 64 + c.n
      match (s.ctx c.ctx).parked.find? fun p => p.who == 1 + kind && p.id == id with
      | some p =>
        let s := s.faultRecords w w.place p.grp acc [(cause, level, a)] ((p.addr :: p.pages).map (· / 65536))
        let s := s.modCtx c.ctx fun x =>
          { x with parked := x.parked.map fun y =>
              if y.who = 1 + kind ∧ y.id = id then { y with cause := cause, addr := a, pages := y.addr :: y.pages } else y }
        s.modCmd ck kind c.n fun x => { x with grp := some p.grp }
      | none =>
        let g := s.openGroup c.ctx
        let s := g.2.faultRecords w w.place g.1 acc [(cause, level, a)] []
        let s := s.modCtx c.ctx fun x =>
          { x with parked := x.parked ++ [{ grp := g.1, who := 1 + kind, id := id, cause := cause, addr := a }] }
        s.modCmd ck kind c.n fun x => { x with grp := some g.1 }
  | .stall => s
  | .turn m => s.askLine m
  | .shadowEnd r => match c.shadow with | some q => s.discardShadow q r | none => s
  | .nomem _ => s
  | .egress pa => (s.modCore ck fun k => { k with frozen := true }).log 3 w.core 0 w.die 0 pa

end Sys2Proof.Machine
end

