-- ==== Sys2Proof/Machine/Fp.lean ====
section
/-!
DEFINITION. Scalar floating point (05 R123 to R131): arithmetic, long operations, conversions, compare and class, and the
tail operations.
-/

namespace Sys2Proof.Machine

/-- An arithmetic instruction of R125: an exact value with the flags of its operation, rounded under the fin field. -/
def State.fpArith (s : State) (w : FW) (d x : Nat) (r : Val × Nat) : Out :=
  let t := s.roundArith (fwFmt w) x 0 d r.1
  s.putFp d t.1 (r.2 ||| t.2)

/-- A long operation of R126: rounded once to odd. -/
def State.fpLong (s : State) (w : FW) (la d : Nat) (r : Val × Nat) : Out :=
  let t := rto (fwFmt w) r.1
  s.putFpLa la d t.1 (r.2 ||| t.2)

/-- |A| with sign(A) xor sign(B); a NaN operand gives a NaN (R125). -/
def vSgn (f : Fmt) (a b : Image) : Val :=
  match imgVal f a, imgVal f b with
  | .nan, _ => .nan
  | _, .nan => .nan
  | v, _ => if bit b.bits (f.ebits + f.mbits) then v.negate else v

/-- R125. -/
def execFadd (w : FW) (d a b x : Nat) (s : State) : Out :=
  s.fpArith w d x (vAdd (s.rdnZero x) (s.fval (fwFmt w) a) (s.fval (fwFmt w) b))

/-- R125. -/
def execFsub (w : FW) (d a b x : Nat) (s : State) : Out :=
  s.fpArith w d x (vAdd (s.rdnZero x) (s.fval (fwFmt w) a) (s.fval (fwFmt w) b).negate)

/-- R125. -/
def execFmul (w : FW) (d a b x : Nat) (s : State) : Out :=
  s.fpArith w d x (vMul (s.fval (fwFmt w) a) (s.fval (fwFmt w) b))

/-- R125. -/
def execFmin (w : FW) (d a b x : Nat) (s : State) : Out :=
  s.fpArith w d x ((vMin (s.fval (fwFmt w) a) (s.fval (fwFmt w) b), 0))

/-- R125. -/
def execFmax (w : FW) (d a b x : Nat) (s : State) : Out :=
  s.fpArith w d x ((vMax (s.fval (fwFmt w) a) (s.fval (fwFmt w) b), 0))

/-- R125. -/
def execFsgn (w : FW) (d a b : Nat) (s : State) : Out :=
  s.fpArith w d 0 (vSgn (fwFmt w) (s.imgReg (fwFmt w) a) (s.imgReg (fwFmt w) b), 0)

/-- R126: A × B + D, rounded once.  A product of 0 and infinity with a NaN addend gives the NaN and raises NV (02 R44).
[DESIGN CHOICE, notes/assumptions/50.md] -/
def execFfma (w : FW) (d a b la : Nat) (s : State) : Out :=
  let f := fwFmt w
  let p := vMul (s.fval f a) (s.fval f b)
  let r := vAdd false p.1 (s.fval f d)
  s.fpLong w la d (r.1, p.2 ||| r.2)

/-- R126. -/
def execFdiv (w : FW) (d a b la : Nat) (s : State) : Out :=
  s.fpLong w la d (vDiv (s.fval (fwFmt w) a) (s.fval (fwFmt w) b))

/-- R126. -/
def execFsqrt (w : FW) (d a la : Nat) (s : State) : Out := s.fpLong w la d (vSqrt (s.fval (fwFmt w) a))

/-- The source value of `fcvt`: w = 6 names E8S (R127). -/
def State.cvtSrc (s : State) (w : FW) (a : Nat) : Val :=
  match w with
  | .img => e8sVal (s.reg a % 256)
  | w => s.fval (fwFmt w) a

/-- A conversion to the floating-point format or the block scale of a code (R128, 02 R46). -/
def State.convTo (s : State) (tgt x lane d : Nat) (v : Val) : Image × Nat :=
  match fmtOf? tgt with
  | some f => s.roundConv f x lane d v
  | none => let r := toE8S v; (⟨r.1, 0⟩, r.2)

/-- R127, R128. -/
def execFcvt (w : FW) (d a tgt x : Nat) (s : State) : Out :=
  let r := s.convTo tgt x 0 d (s.cvtSrc w a)
  s.putFp d r.1 r.2

/-- Float to integer under a mode code (R128, R479). -/
def State.convInt (s : State) (tgt m lane d : Nat) (v : Val) : Int × Nat :=
  match intRange? tgt with
  | some (lo, hi, _) => vToInt (intMode m s.rm) (s.hashReg lane d) lo hi v
  | none => (0, 0)

/-- R128: an integer, written sign- or zero-extended with tail 0. -/
def execFcvti (w : FW) (d a tgt x : Nat) (s : State) : Out :=
  let r := s.convInt tgt (finMode x) 0 d (s.fval (fwFmt w) a)
  s.putFp d ⟨wint r.1, 0⟩ r.2

/-- R128. -/
def execIcvtf (w : IW) (d a tgt x : Nat) (s : State) : Out :=
  let r := s.convTo tgt x 0 d (intVal (s.wreg w a))
  s.putFp d r.1 r.2

/-- R128: the final rounding of an image. -/
def execFin (w : FW) (d a rm : Nat) (s : State) : Out :=
  let f := fwFmt w
  let r := fin f (effMode rm s.rm) (s.hashReg 0 d) (s.imgReg f a)
  s.putFp d ⟨r.1, 0⟩ r.2

/-- R129. -/
def execFeq (w : FW) (d a b : Nat) (s : State) : Out :=
  s.put 4 d (b2n (vEq (s.fval (fwFmt w) a) (s.fval (fwFmt w) b))) 0

/-- R129. -/
def execFlt (w : FW) (d a b : Nat) (s : State) : Out :=
  s.put 4 d (b2n (vLt (s.fval (fwFmt w) a) (s.fval (fwFmt w) b))) 0

/-- R129. -/
def execFle (w : FW) (d a b : Nat) (s : State) : Out :=
  s.put 4 d (b2n (vLe (s.fval (fwFmt w) a) (s.fval (fwFmt w) b))) 0

/-- R130. -/
def execFclass (w : FW) (d a : Nat) (s : State) : Out := s.put 4 d (classMask (fwFmt w) (s.imgReg (fwFmt w) a)) 0

/-- R131: the tail byte of a register. -/
def execTget (d a : Nat) (s : State) : Out := s.put 4 d (s.tb a) 0

/-- R131: a register with a given tail byte. -/
def execTset (d a b : Nat) (s : State) : Out := s.put 4 d (s.reg a) (s.reg b % 256)

end Sys2Proof.Machine
end

