-- ==== Sys2Proof/Machine/Vector.lean ====
section
/-!
DEFINITION. Vector lanes (08 R190 to R206): claims and grants, elements and groups, the elementwise families, moves between
lanes, reductions, scans, sorts and top-k.
-/

namespace Sys2Proof.Machine

/-! ### Lanes and elements (R194, R195) -/

/-- Lane `i` of register `v`: its 32 bits, and its tail above them. -/
def laneOf (vr : FMap Nat) (v i : Nat) : Nat := FMap.getD vr (v * 64 + i) 0

def State.lane (s : State) (v i : Nat) : Nat := laneOf s.cur.vr v i

/-- Elements of a width in one register, under a grant. -/
def perReg (wd g : Nat) : Nat := g * 32 / wd

/-- The lane that holds element `j`, whose mask bit governs it (R196). -/
def laneIx (wd j : Nat) : Nat := j * wd / 32

/-- Element `j` of a register. -/
def elemOf (vr : FMap Nat) (wd v j : Nat) : Image :=
  if wd = 64 then
    let lo := laneOf vr v (2 * j)
    ⟨lo % 2 ^ 32 + 2 ^ 32 * (laneOf vr v (2 * j + 1) % 2 ^ 32), bits lo 32 2⟩
  else if wd = 32 then let x := laneOf vr v j; ⟨x % 2 ^ 32, bits x 32 2⟩
  else if wd = 16 then let x := laneOf vr v (j / 2); ⟨bits x (16 * (j % 2)) 16, bits x (32 + 2 * (j % 2)) 2⟩
  else ⟨bits (laneOf vr v (j / 4)) (8 * (j % 4)) 8, 0⟩

/-- Write element `j` of a register with its tail; pairs that belong to no element become 0. -/
def putElem (vr : FMap Nat) (wd v j : Nat) (x : Image) : FMap Nat :=
  if wd = 64 then
    FMap.put (FMap.put vr (v * 64 + 2 * j) (x.bits % 2 ^ 32 + 2 ^ 32 * (x.tail % 4))) (v * 64 + 2 * j + 1) (bits x.bits 32 32)
  else if wd = 32 then FMap.put vr (v * 64 + j) (x.bits % 2 ^ 32 + 2 ^ 32 * (x.tail % 4))
  else if wd = 16 then
    let o := laneOf vr v (j / 2)
    FMap.put vr (v * 64 + j / 2) (setBits (setBits o (16 * (j % 2)) 16 x.bits) (32 + 2 * (j % 2)) 2 x.tail)
  else FMap.put vr (v * 64 + j / 4) (setBits (laneOf vr v (j / 4) % 2 ^ 32) (8 * (j % 4)) 8 x.bits)

/-- Element `i` of the group that starts at a register (R195). -/
def groupElem (vr : FMap Nat) (wd g v i : Nat) : Image := elemOf vr wd (v + i / perReg wd g) (i % perReg wd g)

def putGroup (vr : FMap Nat) (wd g v : Nat) (xs : List (Nat × Image)) : FMap Nat :=
  xs.foldl (fun m x => putElem m wd (v + x.1 / perReg wd g) (x.1 % perReg wd g) x.2) vr

/-- What a group that R195 refuses traps with: cause, SUB, TVAL. -/
def groupBad (wd g v n : Nat) : Option (Nat × Nat × Nat) :=
  if n = 0 then none
  else if perReg wd g = 0 then some (cVGRANT, 1, n)
  else if 31 < v + ceilDiv n (perReg wd g) - 1 then some (cRANGE, 0, n)
  else none

/-- The first refusal of a list of groups. -/
def firstBad : List (Option (Nat × Nat × Nat)) → Option (Nat × Nat × Nat)
  | [] => none
  | some e :: _ => some e
  | none :: es => firstBad es

/-- Whether mask field `m` lets a lane take part (R196). -/
def State.maskOn (s : State) (m i : Nat) : Bool := m == 0 || bit (s.reg (24 + m)) i

def State.setVr (s : State) (f : FMap Nat → FMap Nat) : State := s.modCur fun a => { a with vr := f a.vr }

/-- The end of a vector instruction that writes a group, raises flags and may carry a window over its registers. -/
def State.putVec (s : State) (la wd v n : Nat) (xs : List (Nat × Image)) (fl : Nat) : Out :=
  let g := s.cur.grant
  let regs := (List.range (ceilDiv n (max 1 (perReg wd g)))).map (v + ·)
  .next ((((s.retire 4).orFlags fl).openWinV la regs).setVr fun m => putGroup m wd g v xs)

/-- An elementwise form under a mask (R196). -/
def State.vmap (s : State) (wd m d : Nat) (f : Nat → Image × Nat) : Out :=
  let js := (List.range (perReg wd s.cur.grant)).filter fun j => s.maskOn m (laneIx wd j)
  let rs := js.map fun j => (j, f j)
  s.putVec 0 wd d 0 (rs.map fun r => (r.1, r.2.1)) (rs.foldl (fun k r => k ||| r.2.2) 0)

/-- A form over every lane of the grant under a mask: `f` gives each lane's 32 bits and tail. -/
def State.lmap (s : State) (m d : Nat) (f : Nat → Nat) : Out :=
  let is := (List.range s.cur.grant).filter (s.maskOn m)
  let xs := is.map fun i => (d * 64 + i, f i)
  .next ((s.retire 4).setVr fun vr => xs.foldl (fun m x => FMap.put m x.1 x.2) vr)

/-! ### Claims and grants, major 0x20 (R190 to R193) -/

/-- The activations of a cluster. -/
def State.clusterActs (s : State) (a : Act) : List Act :=
  s.allActs.filter fun b => b.die == a.die && b.cluster == a.cluster

/-- Lanes of a cluster that no activation holds. -/
def State.freeLanes (s : State) (a : Act) : Nat :=
  64 - (s.clusterActs a).foldl (fun n b => n + (b.grant - b.saved)) 0

/-- The lanes that lie at or above a new grant are discarded (R192). -/
def shrinkVr (vr : FMap Nat) (g : Nat) : FMap Nat := vr.filter fun p => decide (p.1 % 64 < g)

/-- Whether a claim may take lanes from an activation (R193): parked, or pre-empted by a level above the claimant's. -/
def State.canTake (s : State) (me b : Act) : Bool :=
  b.id != me.id && decide (b.saved < b.grant) &&
    (b.parked.isSome ||
      (!s.isTop b && (s.slotActs b.coreKey b.slot).any fun t => decide (b.pri < t.pri ∧ me.pri < t.pri)))

/-- The order in which lanes are taken (R193). -/
def takeKey (b : Act) : Nat :=
  ((b.pri * 2 + (if b.parked.isSome then 0 else 1)) * 8 + b.core) * 2 ^ 64 + (if b.parked.isSome then b.parkOrder else b.slot)

def actInsert (c : Act) : List Act → List Act
  | [] => [c]
  | d :: ds => if takeKey c ≤ takeKey d then c :: d :: ds else d :: actInsert c ds

/-- The lane save area of an activation's thread slot (24 R439).  Its 9,216 bytes hold 4 bytes for each of 64 lanes of 32
registers, register by register, and then their tails, 4 bits each. [DESIGN CHOICE, notes/assumptions/34.md] -/
def State.laneArea (s : State) (b : Act) : Nat :=
  let c := s.ctx b.ctx
  (c.area 0x10).1 + 9216 * (8 * c.coreIndex b.die b.cluster b.core + b.slot)

/-- Lanes from `lo` below `hi` that are taken from an activation go to the lane save area of its thread slot (R193). -/
def State.saveLanes (s : State) (b : Act) (lo hi : Nat) : State :=
  let at_ := s.laneArea b
  let put := fun (s : State) (off n v : Nat) =>
    match s.devLoc b.ctx b.die (at_ + off) n aWrite with
    | (some l, s) => s.devKeep (devWho b.ctx b.die) l 0 n v
    | (none, s) => s
  let is := (List.range (hi - lo)).map (lo + ·)
  let bitsOf := fun (v : Nat) => is.foldr (fun i x => FMap.getD b.vr (v * 64 + i) 0 % 2 ^ 32 + 2 ^ 32 * x) 0
  let tails := fun (v : Nat) => is.foldr (fun i x => FMap.getD b.vr (v * 64 + i) 0 / 2 ^ 32 % 16 + 16 * x) 0
  let one := fun (s : State) (v : Nat) =>
    put (put s (256 * v + 4 * lo) (4 * (hi - lo)) (bitsOf v)) (8192 + 32 * v + lo / 2) ((hi - lo) / 2) (tails v)
  ((List.range 32).foldl one s).onAct b.id fun s => s.modCur fun a => { a with laneAt := at_ }

/-- The lanes from `lo` below `hi` of the issuing activation come back from where they were saved, unless that place does not
translate or holds another activation's lanes too. [DESIGN CHOICE, notes/assumptions/34.md] -/
def State.loadLanes (s : State) (lo hi : Nat) : State :=
  let a := s.cur
  let get := fun (s : State) (off n : Nat) =>
    match s.devLoc a.ctx a.die (a.laneAt + off) n aRead with
    | (some l, s) => (some (s.rdN l.key n), s)
    | (none, s) => (none, s)
  if s.allActs.any fun b => b.id != a.id && b.ctx == a.ctx && decide (0 < b.saved) && b.laneAt == a.laneAt then s
  else
    (List.range 32).foldl (fun s v =>
      let x := get s (256 * v + 4 * lo) (4 * (hi - lo))
      let t := get x.2 (8192 + 32 * v + lo / 2) ((hi - lo) / 2)
      match x.1, t.1 with
      | some x, some y => t.2.setVr fun m => (List.range (hi - lo)).foldl (fun m i =>
          FMap.put m (v * 64 + lo + i) (bits x (32 * i) 32 + 2 ^ 32 * bits y (4 * i) 4)) m
      | _, _ => t.2) s

/-- Take `n` lanes from a list of activations, the highest lanes of each first. -/
def State.takeLanes (s : State) : List Act → Nat → State
  | [], _ => s
  | b :: bs, n =>
    let k := min n (b.grant - b.saved)
    let s := s.onAct b.id fun s => s.modCur fun a => { a with saved := a.saved + k }
    State.takeLanes (if k = 0 then s else s.saveLanes b (b.grant - b.saved - k) (b.grant - b.saved)) bs (n - k)

/-- A re-negotiation other than a claim (R193): the grant shrinks to the lanes that are there, in eights. -/
def State.renegotiate (s : State) : State :=
  let a := s.cur
  if a.saved = 0 then s
  else
    let g := min a.grant (a.grant - a.saved + s.freeLanes a) / 8 * 8
    let s := if a.grant - a.saved < g then s.loadLanes (a.grant - a.saved) g else s
    s.modCur fun a => { a with grant := g, saved := 0, vr := shrinkVr a.vr g }

/-- R191: the grant becomes what the cluster can give. -/
def execVclaim (d a imm : Nat) (s : State) : Out :=
  let y := clampInt (s.ireg a + sint imm 12) 0 64
  let r := (y.toNat + 7) / 8 * 8
  let me := s.cur
  let g := me.grant
  if r < g then
    let s := s.modCur fun x => { x with grant := r, vr := shrinkVr x.vr r }
    s.put 4 d r 0
  else
    let free := s.freeLanes me
    let victims := ((s.clusterActs me).filter (s.canTake me)).foldr actInsert []
    let more := victims.foldl (fun n b => n + (b.grant - b.saved)) 0
    let g' := min r (g + free + more) / 8 * 8
    let s := s.takeLanes victims (g' - g - min (g' - g) free)
    let s := s.modCur fun x => { x with grant := g', vr := shrinkVr x.vr g }
    s.put 4 d g' 0

/-- R191. -/
def execVrel (s : State) : Out := .next ((s.modCur fun x => { x with grant := 0, vr := [] }).retire 4)

/-- R191. -/
def execVlen (d a imm : Nat) (s : State) : Out := s.put 4 d (min (s.reg a) (perReg imm s.cur.grant)) 0

/-- R191. -/
def execVsplat (d a imm : Nat) (s : State) : Out :=
  let lo := s.reg a % 2 ^ 32
  let t := s.tb a
  if imm = 0 then s.lmap 0 d fun _ => lo + 2 ^ 32 * (t % 16)
  else s.lmap 0 d fun i => if i % 2 = 0 then lo + 2 ^ 32 * (t % 4) else s.reg a / 2 ^ 32

/-! ### Integer elementwise, major 0x21 (R198, R199) -/

/-- An element read under the signedness of w. -/
def State.vint (s : State) (w : IW) (v j : Nat) : Int :=
  let b := (elemOf s.cur.vr (nbits w) v j).bits
  if wSigned w then sint b (nbits w) else (b : Int)

/-- The bits of an element. -/
def State.vbits (s : State) (w : IW) (v j : Nat) : Nat := (elemOf s.cur.vr (nbits w) v j).bits

/-- An integer elementwise form: `f` gives each element's result. -/
def State.viop (s : State) (w : IW) (m d : Nat) (f : Nat → Int) : Out :=
  s.vmap (nbits w) m d fun j => (⟨imod (f j) (nbits w), 0⟩, 0)

/-- A compare into a scalar mask (R199). -/
def State.vmask (s : State) (wd m d : Nat) (p : Nat → Bool) : Out :=
  let js := (List.range (perReg wd s.cur.grant)).filter fun j => s.maskOn m (laneIx wd j) && p j
  s.put 4 d (js.foldl (fun r j => r + 2 ^ laneIx wd j) 0) 0

/-- R198. -/
def execVadd (w : IW) (d a b m : Nat) (s : State) : Out :=
  s.viop w m d fun j => s.vint w a j + s.vint w b j

/-- R198. -/
def execVsub (w : IW) (d a b m : Nat) (s : State) : Out :=
  s.viop w m d fun j => s.vint w a j - s.vint w b j

/-- R198. -/
def execVand (w : IW) (d a b m : Nat) (s : State) : Out :=
  s.viop w m d fun j => (Nat.land (s.vbits w a j) (s.vbits w b j) : Nat)

/-- R198. -/
def execVor (w : IW) (d a b m : Nat) (s : State) : Out :=
  s.viop w m d fun j => (Nat.lor (s.vbits w a j) (s.vbits w b j) : Nat)

/-- R198. -/
def execVxor (w : IW) (d a b m : Nat) (s : State) : Out :=
  s.viop w m d fun j => (Nat.xor (s.vbits w a j) (s.vbits w b j) : Nat)

/-- R198. -/
def execVmin (w : IW) (d a b m : Nat) (s : State) : Out :=
  s.viop w m d fun j => min (s.vint w a j) (s.vint w b j)

/-- R198. -/
def execVmax (w : IW) (d a b m : Nat) (s : State) : Out :=
  s.viop w m d fun j => max (s.vint w a j) (s.vint w b j)

/-- R198. -/
def execVadds (w : IW) (d a b m : Nat) (s : State) : Out :=
  s.viop w m d fun j => (sat w (s.vint w a j + s.vint w b j) : Nat)

/-- R198. -/
def execVsubs (w : IW) (d a b m : Nat) (s : State) : Out :=
  s.viop w m d fun j => (sat w (s.vint w a j - s.vint w b j) : Nat)

/-- R198. -/
def execVmul (w : IW) (d a b m : Nat) (s : State) : Out :=
  s.viop w m d fun j => s.vint w a j * s.vint w b j

/-- R198. -/
def execVsll (w : IW) (d a b m : Nat) (s : State) : Out :=
  s.viop w m d fun j => (s.vbits w a j * 2 ^ (s.vbits w b j % nbits w) : Nat)

/-- R198. -/
def execVsrl (w : IW) (d a b m : Nat) (s : State) : Out :=
  s.viop w m d fun j => (s.vbits w a j / 2 ^ (s.vbits w b j % nbits w) : Nat)

/-- R198. -/
def execVsra (w : IW) (d a b m : Nat) (s : State) : Out :=
  s.viop w m d fun j => shrI (sint (s.vbits w a j) (nbits w)) (s.vbits w b j % nbits w)

/-- R199. -/
def execVcmpeq (w : IW) (d a b m : Nat) (s : State) : Out :=
  s.vmask (nbits w) m d fun j => decide (s.vint w a j = s.vint w b j)

/-- R199. -/
def execVcmplt (w : IW) (d a b m : Nat) (s : State) : Out :=
  s.vmask (nbits w) m d fun j => decide (s.vint w a j < s.vint w b j)

/-- R199. -/
def execVcmple (w : IW) (d a b m : Nat) (s : State) : Out :=
  s.vmask (nbits w) m d fun j => decide (s.vint w a j ≤ s.vint w b j)

/-! ### Floating-point elementwise, majors 0x22 and 0x23 (R200, R201) -/

/-- The value of an element. -/
def State.vfp (s : State) (f : Fmt) (v j : Nat) : Val := imgVal f (elemOf s.cur.vr f.width v j)

/-- A floating-point result of an element, rounded to odd, with its flags. -/
def rtoFl (f : Fmt) (r : Val × Nat) : Image × Nat := let t := rto f r.1; (t.1, r.2 ||| t.2)

/-- A long form over every element (R201). -/
def State.vlong (s : State) (w : FW) (la d : Nat) (f : Nat → Val × Nat) : Out :=
  let t := fwFmt w
  let n := perReg t.width s.cur.grant
  let rs := (List.range n).map fun j => (j, rtoFl t (f j))
  s.putVec la t.width d n (rs.map fun r => (r.1, r.2.1)) (rs.foldl (fun k r => k ||| r.2.2) 0)

/-- R200. -/
def execVfadd (w : FW) (d a b m : Nat) (s : State) : Out :=
  let t := fwFmt w
  s.vmap t.width m d fun j => rtoFl t (vAdd false (s.vfp t a j) (s.vfp t b j))

/-- R200. -/
def execVfsub (w : FW) (d a b m : Nat) (s : State) : Out :=
  let t := fwFmt w
  s.vmap t.width m d fun j => rtoFl t (vAdd false (s.vfp t a j) (s.vfp t b j).negate)

/-- R200. -/
def execVfmul (w : FW) (d a b m : Nat) (s : State) : Out :=
  let t := fwFmt w
  s.vmap t.width m d fun j => rtoFl t (vMul (s.vfp t a j) (s.vfp t b j))

/-- R200. -/
def execVfmin (w : FW) (d a b m : Nat) (s : State) : Out :=
  let t := fwFmt w
  s.vmap t.width m d fun j => rtoFl t ((vMin (s.vfp t a j) (s.vfp t b j), 0))

/-- R200. -/
def execVfmax (w : FW) (d a b m : Nat) (s : State) : Out :=
  let t := fwFmt w
  s.vmap t.width m d fun j => rtoFl t ((vMax (s.vfp t a j) (s.vfp t b j), 0))

/-- R200. -/
def execVfsgn (w : FW) (d a b m : Nat) (s : State) : Out :=
  let t := fwFmt w
  s.vmap t.width m d fun j => rtoFl t ((vSgn t (elemOf s.cur.vr t.width a j) (elemOf s.cur.vr t.width b j), 0))

/-- R199, R200. -/
def execVfeq (w : FW) (d a b m : Nat) (s : State) : Out :=
  let t := fwFmt w
  s.vmask t.width m d fun j => vEq (s.vfp t a j) (s.vfp t b j)

/-- R199, R200. -/
def execVflt (w : FW) (d a b m : Nat) (s : State) : Out :=
  let t := fwFmt w
  s.vmask t.width m d fun j => vLt (s.vfp t a j) (s.vfp t b j)

/-- R199, R200. -/
def execVfle (w : FW) (d a b m : Nat) (s : State) : Out :=
  let t := fwFmt w
  s.vmask t.width m d fun j => vLe (s.vfp t a j) (s.vfp t b j)

/-- R201: A × B + D, rounded once. -/
def execVffma (w : FW) (d a b la : Nat) (s : State) : Out :=
  let t := fwFmt w
  s.vlong w la d fun j =>
    let p := vMul (s.vfp t a j) (s.vfp t b j)
    let r := vAdd false p.1 (s.vfp t d j)
    (r.1, p.2 ||| r.2)

/-- R201. -/
def execVfdiv (w : FW) (d a b la : Nat) (s : State) : Out :=
  s.vlong w la d fun j => vDiv (s.vfp (fwFmt w) a j) (s.vfp (fwFmt w) b j)

/-- R201. -/
def execVfsqrt (w : FW) (d a la : Nat) (s : State) : Out := s.vlong w la d fun j => vSqrt (s.vfp (fwFmt w) a j)

/-! ### Conversions and tails, major 0x24 (R202, R203) -/

/-- A conversion: elementwise under a mask when the widths agree, and over groups when they differ (R203). -/
def State.vconv (s : State) (ns nt m d a : Nat) (f : Nat → Image → Image × Nat) : Out :=
  let g := s.cur.grant
  if ns = nt then s.vmap nt m d fun j => f j (elemOf s.cur.vr ns a j)
  else
    let n := g * 32 / min ns nt
    match firstBad [groupBad ns g a n, groupBad nt g d n] with
    | some (c, sub, v) => .next (s.trapHere c sub v)
    | none =>
      let rs := (List.range n).map fun i => (i, f i (groupElem s.cur.vr ns g a i))
      s.putVec 0 nt d 0 (rs.map fun r => (r.1, r.2.1)) (rs.foldl (fun k r => k ||| r.2.2) 0)

/-- R202: non-final. -/
def execVcvt (w : FW) (d a tgt m : Nat) (s : State) : Out :=
  let t := (fmtOf? tgt).getD fp32
  s.vconv (fwFmt w).width t.width m d a fun _ x => rto t (imgVal (fwFmt w) x)

/-- R202. -/
def execVicvtf (w : IW) (d a tgt m : Nat) (s : State) : Out :=
  let t := (fmtOf? tgt).getD fp32
  s.vconv (nbits w) t.width m d a fun _ x =>
    rto t (intVal (if wSigned w then sint x.bits (nbits w) else (x.bits : Int)))

/-- R202: as `fcvti` under mode 7. -/
def execVfcvti (w : FW) (d a tgt m : Nat) (s : State) : Out :=
  s.vconv (fwFmt w).width (codeBits tgt) m d a fun _ x =>
    let r := s.convInt tgt 7 0 d (imgVal (fwFmt w) x)
    (⟨imod r.1 (codeBits tgt), 0⟩, r.2)

/-- R202: the hash takes the lane that R194 gives the element. -/
def execVfin (w : FW) (d a rm m : Nat) (s : State) : Out :=
  let t := fwFmt w
  s.vmap t.width m d fun j =>
    let r := fin t (effMode rm s.rm) (s.hashReg (laneIx t.width j) d) (elemOf s.cur.vr t.width a j)
    (⟨r.1, 0⟩, r.2)

/-- R202: the tails of lanes. -/
def execVtget (d a m : Nat) (s : State) : Out := s.lmap m d fun i => s.lane a i / 2 ^ 32

/-- R202: lanes with given tails. -/
def execVtset (d a b m : Nat) (s : State) : Out := s.lmap m d fun i => s.lane a i % 2 ^ 32 + 2 ^ 32 * (s.lane b i % 16)

/-! ### Moving lanes, major 0x25 (R204) -/

/-- A lane of a register, or 0 outside the grant. -/
def State.laneOr0 (s : State) (v : Nat) (j : Int) : Nat := if j < 0 ∨ s.cur.grant ≤ j then 0 else s.lane v j.toNat

/-- R204. -/
def execVperm (d a b m : Nat) (s : State) : Out := s.lmap m d fun i => s.laneOr0 a (s.lane b i % 2 ^ 32 : Nat)

/-- R204. -/
def execVslide (d a b m : Nat) (s : State) : Out := s.lmap m d fun i => s.laneOr0 a (i + s.ireg b)

/-- R204: a scalar index at or above the grant traps VGRANT. -/
def State.withIndex (s : State) (b : Nat) (k : Nat → Out) : Out :=
  if s.cur.grant ≤ s.reg b then .next (s.trapHere cVGRANT 1 (s.reg b)) else k (s.reg b)

/-- R204. -/
def execVbcast (d a b m : Nat) (s : State) : Out := s.withIndex b fun j => s.lmap m d fun _ => s.lane a j

/-- The lanes that a selector field names, in order (R204). -/
def State.selected (s : State) (m : Nat) : List Nat := (List.range s.cur.grant).filter (s.maskOn m)

/-- R204: the selected lanes packed, and zeros after them. -/
def execVcomp (d a m : Nat) (s : State) : Out :=
  let xs := (s.selected m).map (s.lane a)
  s.lmap 0 d fun i => xs.getD i 0

/-- R204: the selected lanes take lanes 0, 1, and so on. -/
def execVexpd (d a m : Nat) (s : State) : Out :=
  let is := s.selected m
  s.lmap m d fun i => s.lane a ((is.takeWhile (· != i)).length)

/-- R204: a lane into a scalar register with its tail pairs; a masked lane reads no operand and keeps its destination (R196),
which is the scalar register. [DEDUCED, notes/assumptions/53.md] -/
def execVget (d a b m : Nat) (s : State) : Out :=
  s.withIndex b fun j =>
    if s.maskOn m j then s.put 4 d (s.lane a j % 2 ^ 32) (s.lane a j / 2 ^ 32 % 16) else .next (s.retire 4)

/-- R204: a scalar register into one lane, when the mask lets that lane take part (R196). -/
def execVput (d a b m : Nat) (s : State) : Out :=
  s.withIndex b fun j =>
    let x := s.reg a % 2 ^ 32 + 2 ^ 32 * (s.tb a % 16)
    .next ((s.retire 4).setVr fun vr => if s.maskOn m j then FMap.put vr (d * 64 + j) x else vr)

/-! ### Reductions, scans, sorts and top-k, major 0x26 (R205, R206) -/

/-- The checks of a control word (R205): `top` for `vtopk`, `idx` where IDX is read, `desc` where DESC is. -/
def ctlBad (c : Nat) (top idx desc : Bool) : Bool :=
  let n := c % 2 ^ 14
  c / 2 ^ 24 != 0 || n == 0 || decide (8191 < n) || (!top && bits c 16 8 != 0) || (!idx && bit c 15) || (!desc && bit c 14)
    || (top && decide (n < bits c 16 8 + 1))

/-- A form of major 0x26 after the checks of its control word and of its groups. -/
def State.withGroup (s : State) (b : Nat) (top idx desc : Bool) (gs : Nat → List (Option (Nat × Nat × Nat)))
    (k : Nat → Out) : Out :=
  let c := s.reg b
  if ctlBad c top idx desc then .next (s.trapHere cRANGE 0 c)
  else
    match firstBad (gs (c % 2 ^ 14)) with
    | some (cd, sub, v) => .next (s.trapHere cd sub v)
    | none => k (c % 2 ^ 14)

/-- The elements of a group. -/
def State.group (s : State) (wd v n : Nat) : List Image := (List.range n).map fun i => groupElem s.cur.vr wd s.cur.grant v i

/-- Running sums of a list from a start. -/
def scanSum : Nat → List Nat → List Nat
  | _, [] => []
  | t, x :: xs => (t + x) :: scanSum (t + x) xs

/-- R205: the sum modulo 2^n. -/
def execVred (w : IW) (d a b la : Nat) (s : State) : Out :=
  s.withGroup b false false false (fun n => [groupBad (nbits w) s.cur.grant a n]) fun n =>
    s.putLa la d (res w ((s.group (nbits w) a n).foldl (fun t x => t + x.bits) 0 : Nat)) 0

/-- R205: the tree sum of R49. -/
def execVfred (w : FW) (d a b la : Nat) (s : State) : Out :=
  let t := fwFmt w
  s.withGroup b false false false (fun n => [groupBad t.width s.cur.grant a n]) fun n =>
    let r := treeSum t ((s.group t.width a n).map some)
    s.putFpLa la d r.1 r.2

/-- R205. -/
def execVscan (w : IW) (d a b la : Nat) (s : State) : Out :=
  let wd := nbits w
  let g := s.cur.grant
  s.withGroup b false false false (fun n => [groupBad wd g a n, groupBad wd g d n]) fun n =>
    let ys := scanSum 0 ((s.group wd a n).map (·.bits))
    s.putVec la wd d n ((List.range n).zip (ys.map fun y => ⟨y % 2 ^ wd, 0⟩)) 0

/-- Running sums of images, each rounded to odd (R205). -/
def fscan (f : Fmt) : Image → List Image → List Image × Nat
  | _, [] => ([], 0)
  | y, x :: xs =>
    let t := rtoFl f (vAdd false (imgVal f y) (imgVal f x))
    let r := fscan f t.1 xs
    (t.1 :: r.1, t.2 ||| r.2)

/-- R205. -/
def execVfscan (w : FW) (d a b la : Nat) (s : State) : Out :=
  let t := fwFmt w
  let g := s.cur.grant
  s.withGroup b false false false (fun n => [groupBad t.width g a n, groupBad t.width g d n]) fun n =>
    match s.group t.width a n with
    | [] => .next (s.retire 4)
    | x :: xs =>
      let r := fscan t x xs
      s.putVec la t.width d n ((List.range n).zip (x :: r.1)) r.2

/-- Insert a key and its index after every key that it does not sort before. -/
def keyInsert (lt : Image → Image → Bool) (x : Image × Nat) : List (Image × Nat) → List (Image × Nat)
  | [] => [x]
  | y :: ys => if lt x.1 y.1 then x :: y :: ys else y :: keyInsert lt x ys

/-- The stable order of keys under a strict order (R206). -/
def keySort (lt : Image → Image → Bool) (xs : List Image) : List (Image × Nat) :=
  ((List.range xs.length).zip xs).foldl (fun ys p => keyInsert lt (p.2, p.1) ys) []

/-- The strict total order of R54 on FP32 keys, and its reverse. -/
def fpLt (desc : Bool) (x y : Image) : Bool :=
  let a := imgVal fp32 x
  let b := imgVal fp32 y
  if desc then !sortLe a b else !sortLe b a

/-- The strict order of integer keys. -/
def intLt (w : IW) (desc : Bool) (x y : Image) : Bool :=
  let v := fun (i : Image) => if wSigned w then sint i.bits 32 else (i.bits : Int)
  if desc then decide (v y < v x) else decide (v x < v y)

/-- Write the first `k` keys of the order of `n` keys, and their indices when asked for (R206). -/
def State.putSorted (s : State) (la d k : Nat) (idx : Bool) (r : List (Image × Nat)) : Out :=
  let g := s.cur.grant
  let r := r.take k
  let keys := (List.range k).zip (r.map (·.1))
  let at_ := d + ceilDiv k g
  let ids := (List.range k).zip (r.map fun p => (⟨p.2, 0⟩ : Image))
  let regs := (List.range ((if idx then 2 else 1) * ceilDiv k g)).map (d + ·)
  .next (((s.retire 4).openWinV la regs).setVr fun m =>
    let m := putGroup m 32 g d keys
    if idx then putGroup m 32 g at_ ids else m)

/-- A sort or top-k: the groups checked, then the order written. -/
def State.sorted (s : State) (la d a b : Nat) (top : Bool) (lt : Bool → Image → Image → Bool) : Out :=
  let g := s.cur.grant
  let c := s.reg b
  let k := fun (n : Nat) => if top then bits c 16 8 + 1 else n
  let idx := top || bit c 15
  s.withGroup b top (!top) true (fun n =>
      [groupBad 32 g a n, groupBad 32 g d (k n),
       if idx && decide (31 < d + ceilDiv (k n) g + ceilDiv (k n) g - 1) then some (cRANGE, 0, c) else none]) fun n =>
    s.putSorted la d (k n) idx (keySort (lt (bit c 14)) (s.group 32 a n))

/-- R206. -/
def execVsort (w : FW) (d a b la : Nat) (s : State) : Out :=
  let _ := w
  s.sorted la d a b false fpLt

/-- R206. -/
def execVsorti (w : IW) (d a b la : Nat) (s : State) : Out := s.sorted la d a b false (intLt w)

/-- R206. -/
def execVtopk (w : FW) (d a b la : Nat) (s : State) : Out :=
  let _ := w
  s.sorted la d a b true fpLt

end Sys2Proof.Machine
end

