-- ==== Sys2Proof/Machine/Gang.lean ====
section
/-!
DEFINITION. Gangs (08 R212 to R217).  A gang has the number of its leader's activation.
-/

namespace Sys2Proof.Machine

/-- Whether an activation leads its gang. -/
def Act.leads (a : Act) : Bool := a.gang == some a.id

/-- Whether an activation runs in lockstep: it leads, or it is an attached follower. -/
def Act.inStep (a : Act) : Bool := a.gang.isSome && (a.attached || a.leads)

/-- The members of a gang. -/
def State.gangActs (s : State) (g : Nat) : List Act := s.allActs.filter fun b => b.gang == some g

/-- The activations of an activation's quad. -/
def State.quadActs (s : State) (a : Act) : List Act :=
  s.allActs.filter fun b => b.die == a.die && b.cluster == a.cluster && b.core / 4 == a.core / 4

/-- The tag and mask an activation waits with at `gang`. -/
def Act.gangWait (a : Act) : Option (Nat × Nat) :=
  match a.run with
  | .waiting (.gang t m) => some (t, m)
  | _ => none

/-- The tag an activation waits with at `gmeet`. -/
def Act.meetWait (a : Act) : Option Nat :=
  match a.run with
  | .waiting (.gmeet t) => some t
  | _ => none

/-- The PC of an activation. -/
def State.pcOf (s : State) (a : Act) : Nat := s.rdN a.wsKey 8 % 2 ^ 56

/-- Write the gang bits of ST (10 R253). -/
def State.setGangBits (s : State) (gang lead : Bool) : State := (s.setStBit 19 gang).setStBit 20 lead

/-- The issuing activation becomes a member of gang `g` and continues at `pc`. -/
def State.joinGang (s : State) (g pc : Nat) : State :=
  let s := (s.setGangBits true (s.cur.id == g)).setPc pc
  s.goOn.modCur fun a => { a with gang := some g, attached := true }

/-- The issuing activation belongs to no gang; one that waits at a `gmeet` goes on alone (R215, R216). -/
def State.outOfGang (s : State) : State :=
  let s := if s.cur.meetWait.isSome then (s.retire 4).goOn else s
  (s.setGangBits false false).modCur fun a => { a with gang := none, attached := false, behind := false }

/-- Do something as each of a list of activations. -/
def State.onActs (s : State) (ids : List Nat) (f : State → State) : State := ids.foldl (fun s i => s.onAct i f) s

/-- R216: the issuing activation leaves its gang; when it leads, or one member remains, the gang is dissolved. -/
def State.leaveGang (s : State) : State :=
  match s.cur.gang with
  | none => s
  | some g =>
    let rest := ((s.gangActs g).filter (·.id != s.cur.id)).map (·.id)
    let gone := s.cur.leads || decide (rest.length ≤ 1)
    let s := s.outOfGang
    let s := if gone then s.onActs rest State.outOfGang else s
    s.modWork fun w =>
      { w with gangs := if gone then w.gangs.del g else w.gangs.put g (g, rest) }

/-- R213. -/
def execGang (a b : Nat) (s : State) : Out :=
  s.unlessClause
    (let m := s.reg b
     let tag := s.reg a % 65536
     let me := s.cur
     let waits := (s.quadActs me).filter fun x => x.core != me.core && bit m (x.core % 4) && x.gangWait.isSome
     if 16 ≤ m ∨ popc 4 m < 2 ∨ !bit m (me.core % 4) ∨ me.gang.isSome ∨ waits.any (fun x => x.gangWait != some (tag, m)) then
       .next (s.trapHere cRANGE 0 m)
     else
       let seat := fun (j : Nat) => if j = me.core % 4 then some me else waits.find? fun x => x.core % 4 == j
       let named := (List.range 4).filter (bit m)
       if named.any fun j => (seat j).isNone then .next (s.block (.gang tag m))
       else
         match named.filterMap seat with
         | [] => .next s
         | lead :: more =>
           let pc := s.pcOf lead + 4
           let ids := (lead :: more).map (·.id)
           let s := s.modWork fun w => { w with gangs := w.gangs.put lead.id (lead.id, ids) }
           .next (s.onActs ids fun s => s.joinGang lead.id pc))

/-- R215: once the leader and every detached follower wait, followers with the leader's tag re-attach and go on with the
leader; the others go on alone. -/
def State.meet (s : State) (g tag : Nat) : State :=
  match s.act? g with
  | none => s
  | some l =>
    let pc := s.pcOf l + 4
    let ms := (s.gangActs g).filter (·.id != g)
    let s := s.onAct g fun s => (s.setPc pc).goOn
    ms.foldl (fun s x =>
      s.onAct x.id fun s =>
        if x.attached then s.setPc pc
        else if x.meetWait = some tag then ((s.setPc pc).goOn).modCur fun a => { a with attached := true }
        else (s.retire 4).goOn) s

/-- Whether every detached follower of a gang waits at a `gmeet`. -/
def State.allMet (s : State) (g : Nat) : Bool :=
  (s.gangActs g).all fun x => x.id == g || x.attached || x.meetWait.isSome

/-- R215; a `gmeet` outside a gang, or by an attached follower, only advances the PC. -/
def execGmeet (a : Nat) (s : State) : Out :=
  s.unlessClause
    (let tag := s.reg a % 65536
     match s.cur.gang with
     | none => .next (s.retire 4)
     | some g =>
       if s.cur.leads then
         if (s.gangActs g).all (fun x => x.id == g || x.attached) then .next (s.retire 4)
         else
           let s := s.block (.gmeet tag)
           .next (if s.allMet g then s.meet g tag else s)
       else if s.cur.attached then .next (s.retire 4)
       else
         let s := s.block (.gmeet tag)
         match (s.act? g).bind Act.meetWait with
         | some t => .next (if s.allMet g then s.meet g t else s)
         | none => .next s)

/-- A gang whose leader waits for a member that has left goes on when every remaining detached follower has met (R215). -/
def State.remeet (s : State) (g : Nat) : State :=
  match (s.act? g).bind Act.meetWait with
  | some t => if s.allMet g then s.meet g t else s
  | none => s

/-- R216; outside a gang it only advances the PC. -/
def execGleave (s : State) : Out :=
  let t := (s.retire 4).leaveGang
  .next (match s.cur.gang with | some g => t.remeet g | none => t)

/-- The lanes of a member as they stand at the instruction that the gang executes in lockstep (R217). -/
def State.snapVr (s : State) (a : Act) : FMap Nat :=
  match s.sched.snap.find? (·.1 == a.id) with
  | some p => p.2
  | none => a.vr

/-- Whether an activation executes the instruction in lockstep with the gang, or has: one that has trapped or jumped away at this
same instruction was attached at it (R217). -/
def State.wasInStep (s : State) (x : Act) : Bool := x.inStep || s.sched.snap.any (·.1 == x.id)

/-- R217. -/
def execVnbr (d a m o : Nat) (s : State) : Out :=
  let me := s.cur
  let t := me.core / 4 * 4 + (me.core % 4 + o) % 4
  let target := (s.quadActs me).find? fun x => x.core == t && x.gang == me.gang && s.wasInStep x
  match target with
  | some x =>
    if me.inStep && decide (me.grant ≤ x.grant) then
      let vr := s.snapVr x
      s.lmap m d fun i => laneOf vr a i
    else .next (s.trapHere cVGRANT 2 t)
  | none => .next (s.trapHere cVGRANT 2 t)

end Sys2Proof.Machine
end

