-- ==== Sys2Proof/Machine/Slots.lean ====
section
/-!
DEFINITION. Thread slots (10 R250 to R261): how an activation begins, where a handler starts, the inbound area, and the
queue of a core's messages.
-/

namespace Sys2Proof.Machine

/-- A byte of the TCM of a core given by its key. -/
def tcmOf (ck off : Nat) : Nat := tcmKey (ck / 8192) (ck / 8 % 1024) (ck % 8) off

/-! ### Starts (R251 to R256) -/

/-- The workspace of number k (R251). -/
def wsOf (k : Nat) : Nat := 0x140 * k

/-- R256: the hardware writes all 320 bytes of a workspace. -/
def State.startWs (s : State) (key pc x1 x2 x3 x4 st : Nat) : State :=
  let s := s.setMem (Memory.zero s.mem key (key + 0x140))
  (((((s.wrN key 8 pc).wrN (key + 8) 8 x1).wrN (key + 16) 8 x2).wrN (key + 24) 8 x3).wrN (key + 32) 8 x4).wrN (key + 0x120) 8 st

/-- ST at a start (R253). -/
def stStart (orig : Nat) (det : Bool) (pri : Nat) : Nat := pri * 2 ^ 16 + b2n det * 2 ^ 18 + orig * 2 ^ 22

/-- A new activation, with the next number. -/
def State.addAct (s : State) (a : Act) : State :=
  let id := s.sched.nextAct
  (s.setActs (s.acts.put id { a with id := id, live := true, wd := s.cycle a.die })).modSched fun q => { q with nextAct := id + 1 }

/-- Start an activation at its place with the words of R256. -/
def State.startAct (s : State) (a : Act) (pc x1 x2 x3 x4 : Nat) : State :=
  let s := s.startWs (tcmKey a.die a.cluster a.core a.wp) (pc % 2 ^ 56) x1 x2 x3 x4 (stStart a.orig a.det a.pri)
  s.addAct a

/-! ### Slots -/

/-- The top of a slot's stack. -/
def State.slotTop (s : State) (ck slot : Nat) : Option Act := (s.slotActs ck slot).find? s.isTop

/-- Whether a workspace of a core is held by an activation (R251). -/
def State.wsHeld (s : State) (ck k : Nat) : Bool :=
  s.allActs.any fun a => a.inSlot && a.coreKey == ck && decide (a.wp < wsOf k + 0x140 ∧ wsOf k < a.wp + 0x140)

/-- The lowest free slot that the distributor has not reserved. -/
def State.freeSlot (s : State) (ck : Nat) : Option Nat :=
  (List.range 8).find? fun k => s.slotFree ck k && !(s.core ck).reserved.contains k

/-- The lowest free slot whose own workspace no handler holds. [DESIGN CHOICE, notes/assumptions/54.md] -/
def State.freeSeat (s : State) (ck : Nat) : Option Nat :=
  (List.range 8).find? fun k => s.slotFree ck k && !(s.core ck).reserved.contains k && !s.wsHeld ck k

/-- R258 step 3: the slot whose top has the lowest level, when that lies below `pri`; the lowest slot among equals. -/
def State.pushSlot (s : State) (ck pri : Nat) : Option Nat :=
  let tops := (List.range 8).filterMap fun k =>
    if (s.core ck).reserved.contains k then none else (s.slotTop ck k).map fun a => (a.pri, k)
  ((tops.filter fun t => decide (t.1 < pri)).foldl
    (fun (r : Option (Nat × Nat)) t => match r with
      | none => some t
      | some x => if t.1 < x.1 then some t else some x) none).map (·.2)

/-- Whether a handler of a level runs on a core, in any state other than ended (R258 step 1). -/
def State.handlerRuns (s : State) (ck pri : Nat) : Bool :=
  s.allActs.any fun a => a.coreKey == ck && a.orig == 1 && a.pri == pri

/-! ### Messages at a core (R258 to R261) -/

/-- The level of an activation that starts on a core (24 R436). -/
def startLevel (ck cls : Nat) : Level :=
  if ctlCluster ≤ ck / 8 % 1024 then (if Config.coreIsFirmware ck then .fw else .sup) else if cls = 24 then .sup else .user

/-- Dispatch entry c of a core (04 R98). -/
def State.dispatch (s : State) (ck c : Nat) : Nat := s.rdN (tcmOf ck (0xF00 + 8 * c)) 8

/-- A message with its dispatch entry. -/
def Msg.take (m : Msg) (e : Nat) : Msg := { m with pri := bits e 60 2, wsn := bits e 56 4, addr := e % 2 ^ 56, cap := true }

def Msg.coreKey (m : Msg) : Nat := Machine.coreKey m.die m.cluster m.core

/-- The lowest free inbound entry of a core. -/
def Core.freeEntry (c : Core) : Option Nat := (List.range 32).find? fun k => !c.inbound.contains k

/-- A handler covers an activation: its reservation is cancelled (07 R177), and the follower of a gang detaches (08 R214). -/
def State.coverSlot (s : State) (ck slot : Nat) : State :=
  match s.slotTop ck slot with
  | none => s
  | some a =>
    s.onAct a.id fun s => s.modCur fun x =>
      { x with resv := none, attached := if a.gang.isSome && !a.leads then false else x.attached }

/-- The handler of a queued message starts in a slot; its start is an acquire, which synchronises with the send (R265) or with
the completion of the command (07 R187). -/
def State.startHandler (s : State) (ck slot : Nat) (m : Msg) : State :=
  let s := (s.coverSlot ck slot).modCore ck fun c => { c with queue := c.queue.filter (·.n != m.n) }
  let a : Act :=
    { ctx := m.ctx, die := m.die, cluster := m.cluster, core := m.core, slot := slot, wp := wsOf m.wsn,
      level := startLevel ck m.cls, pri := m.pri, orig := 1, det := m.det, inb := some m.entry }
  let id := s.sched.nextAct
  (s.startAct a m.addr (win0 (0x1000 + 64 * m.entry)) 0 0 0).syncAct id [(ptMsg m.n, ptMsg m.n)]

/-- Whether a message may be handled at its core now: a control core, or a running context's core (24 R447). -/
def State.mayHandle (s : State) (m : Msg) : Bool := decide (ctlCluster ≤ m.cluster) || s.running m.ctx

/-- Whether a queued message could start but for a slot (R251, R258 step 1), on a cluster that is awake (12 R294). -/
def State.msgReady (s : State) (ck : Nat) (m : Msg) : Bool :=
  !s.handlerRuns ck m.pri && !s.wsHeld ck m.wsn && s.mayHandle m && (s.cluster (ck / 8)).awake == 1

/-- The slot in which a queued message could start now. -/
def State.msgSlot (s : State) (ck : Nat) (m : Msg) : Option Nat :=
  if !s.msgReady ck m then none
  else match s.freeSlot ck with
    | some k => some k
    | none => s.pushSlot ck m.pri

/-- The first queued message of a level, which alone may start (R258). -/
def Core.firstOf (c : Core) (pri : Nat) : Option Msg := c.queue.find? (·.pri == pri)

/-- Start queued messages of a core while one can start, the highest level first. -/
def State.startQueued (s : State) (ck : Nat) : Nat → State
  | 0 => s
  | fuel + 1 =>
    match [3, 2, 1, 0].findSome? fun l =>
        ((s.core ck).firstOf l).bind fun m => (s.msgSlot ck m).map fun k => (m, k) with
    | none => s
    | some (m, k) => State.startQueued (s.startHandler ck k m) ck fuel

/-- Start whatever messages a core can start now. -/
def State.wakeCore (s : State) (ck : Nat) : State := s.startQueued ck ((s.core ck).queue.length)

/-- A message reaches its target core (R258, R260): it is written to the lowest free inbound entry and queued, or waits
for one.  A completion message without a handler leaves its error, if any, at the issuing activation; a held message
whose class has lost its handler is discarded and logged (13 R308); a trap message or a notice to a core without a handler for
class 24 is refused, and nothing more comes of it. [DESIGN CHOICE, notes/assumptions/54.md] -/
def State.enter (s : State) (m : Msg) : State :=
  let ck := m.coreKey
  let e := s.dispatch ck m.cls
  if !m.cap && !bit e 63 then
    if 25 ≤ m.cls then (match m.err with | some l => s.addLate m.act l | none => s)
    else if m.lid ≠ 0 then s.log 8 m.cls m.ctx m.die 0 0
    else s
  else
    let m := if m.cap then m else m.take e
    match (if (s.core ck).pend.isEmpty then (s.core ck).freeEntry else none) with
    | none => s.modCore ck fun c => { c with pend := c.pend ++ [m] }
    | some k =>
      let s := s.wrN (tcmOf ck (0x1000 + 64 * k)) 64 (m.words.foldr (fun w v => w + 2 ^ 64 * v) 0)
      s.modCore ck fun c => { c with inbound := k :: c.inbound, queue := c.queue ++ [{ m with entry := k }] }

/-- An inbound entry frees; the message that has waited longest takes it. -/
def State.freeInbound (s : State) (ck e : Nat) : State :=
  let s := s.modCore ck fun c => { c with inbound := c.inbound.filter (· != e) }
  match (s.core ck).pend with
  | [] => s
  | m :: ms => (s.modCore ck fun c => { c with pend := [] }).enter m |>.modCore ck fun c => { c with pend := c.pend ++ ms }

/-- A message or a clause record that reaches a core of a gated cluster wakes it (12 R294). -/
def State.wakeCluster (s : State) (kc : Nat) : State :=
  if (s.cluster kc).awake = 0 then s.modCluster kc fun c => { c with awake := 2 } else s

/-- Whether a message of the same sender to the same core is on its way before it (R265). -/
def State.msgBehind (s : State) (m : Msg) : Bool :=
  m.snd != 0 && s.work.msgs.any fun x => x.snd == m.snd && x.coreKey == m.coreKey && decide (x.n < m.n)

/-- R258: a message of the hardware arrives, or one that queues at a core starts when it now can.  A message to a gated
cluster wakes it and waits (12 R294). -/
def execMessageArrival (n : Nat) (s : State) : Out :=
  match s.work.msgs.find? (·.n == n) with
  | some m =>
    let ck := m.coreKey
    if !s.mayHandle m || s.msgBehind m then .next s
    else if (s.cluster (ck / 8)).awake ≠ 1 then .next (s.wakeCluster (ck / 8))
    else
      let s := s.modWork fun w => { w with msgs := w.msgs.filter (·.n != n) }
      .next ((s.enter m).wakeCore ck)
  | none =>
    match s.cores.find? fun c => c.2.queue.any (·.n == n) with
    | none => .next s
    | some (ck, _) => .next ((s.wakeCluster (ck / 8)).wakeCore ck)

end Sys2Proof.Machine
end

