-- ==== Sys2Proof/Machine/Barrier.lean ====
section
/-!
DEFINITION. Barriers (13 R300 to R308): their names, phases, the messages that a phase releases, and the barrier
instructions.
-/

namespace Sys2Proof.Machine

/-! ### Names (R300, R301) -/

def launchBarKey (n : Nat) : Nat := barKey 2 4 0 n

/-- Named barriers of an instance, and the largest COUNT, by scope. -/
def barIds (scope : Nat) : Nat := if scope = 1 then 4 else if scope = 2 then 8 else if scope = 4 then 128 else 64
def barMax (scope : Nat) : Nat :=
  if scope = 1 then 32 else if scope = 2 then 64 else if scope = 3 then 33792 else if scope = 4 then 135168 else 58392576

def bwScope (w : Nat) : Nat := w % 8
def bwKind (w : Nat) : Nat := bits w 4 2
def bwId (w : Nat) : Nat := bits w 8 8

/-- Whether a barrier word names no barrier (R305 first check). -/
def bwBad (w : Nat) : Bool :=
  let sc := bwScope w
  let k := bwKind w
  w / 65536 != 0 || bits w 6 2 != 0 || bit w 3 || decide (sc = 0 ∨ 5 < sc) || k == 3
    || (k == 1 && sc != 2) || (k == 2 && sc != 4) || (if k = 0 then decide (barIds sc ≤ bwId w) else bwId w != 0)

/-- Whether a named id is allotted to a context (24 R439); quad and cluster barriers belong to the cluster's context. -/
def Ctx.hasBarrier (c : Ctx) (sc id : Nat) : Bool :=
  let b := c.word 0x80
  let r := fun (f n : Nat) => decide (f ≤ id ∧ id < f + n)
  if sc = 3 then r (b % 64) (bits b 6 7) else if sc = 4 then r (bits b 13 7) (bits b 20 8)
  else if sc = 5 then r (bits b 28 6) (bits b 34 7) else true

/-- The group of the issuing thread. -/
def State.myGroup (s : State) : Option Group := s.cur.launch.bind s.group?

/-- The launch of the issuer. -/
def State.myLaunch (s : State) : Option Launch := s.cur.launch.bind fun l => s.launch? l.q l.lseq

/-- The barrier that a word names for the issuer; none where R305 refuses the kind. -/
def State.barOf (s : State) (w : Nat) : Option Nat :=
  let a := s.cur
  let sc := bwScope w
  if bwKind w = 0 then
    some (barKey 0 sc (if sc = 1 then a.coreKey / 4 else if sc = 2 then a.clusterKey else if sc = 3 then a.die else 0) (bwId w))
  else if bwKind w = 1 then
    if a.orig ≠ 0 then none else s.myGroup.map fun g => groupBarKey g.die g.cluster g.c0
  else (s.myLaunch.bind (·.lbar)).map launchBarKey

def State.bar (s : State) (k : Nat) : Barrier := s.work.barriers.getD k {}
def State.setBar (s : State) (k : Nat) (b : Barrier) : State := s.modWork fun w => { w with barriers := w.barriers.put k b }

/-! ### Phases (R302, R304) -/

/-- Whether phase `t` has completed. -/
def phaseDone (phase t : Nat) : Bool :=
  let d := (phase + (2 ^ 32 - t % 2 ^ 32)) % 2 ^ 32
  decide (1 ≤ d ∧ d < 2 ^ 31)

/-- Whether phase `t` is not yet open. -/
def phaseAhead (phase t : Nat) : Bool := phaseDone t phase

/-- Whether the arrivals of the open phase are complete. -/
def Barrier.due (b : Barrier) : Bool := b.v && b.arrived != 0 && decide (b.count ≤ b.arrived)

/-- The scope of a barrier's key. -/
def barScope (k : Nat) : Nat := k / 2 ^ 32 % 8

/-- The acquire of a completed phase, which synchronises with its arrivals (R307). -/
def State.barAcquire (s : State) (key phase : Nat) : State := s.syncAt [(ptBar key phase, ptBar key phase)] (barScope key)

/-- The wait of an activation at a barrier ends (R302, R307): `barr` writes its phase, and the wait is an acquire. -/
def State.endBarWait (s : State) (key : Nat) (d phase : Nat) : State :=
  let s := (s.retire 4).setReg d phase 0
  s.goOn.barAcquire key phase

/-- Insert a held message by the key of R308: sender group, thread and sequence. -/
def heldInsert (m : Msg) : List Msg → List Msg
  | [] => [m]
  | x :: xs =>
    let before := decide (m.key.1 < x.key.1) || (m.key.1 == x.key.1 &&
      (decide (m.key.2.1 < x.key.2.1) || (m.key.2.1 == x.key.2.1 && decide (m.key.2.2 ≤ x.key.2.2))))
    if before then m :: x :: xs else x :: heldInsert m xs

/-- Release held messages of a context: they enter their targets' inbound areas in order, wake gated clusters (12 R294), and
start what they can. -/
def State.release (s : State) (c : Nat) (p : Msg → Bool) : State :=
  let hs := (s.ctx c).heldMsgs
  let out := (hs.filter p).foldr heldInsert []
  let s := s.modCtx c fun x => { x with heldMsgs := hs.filter fun m => !p m }
  let s := out.foldl (fun s m => s.enter m) s
  out.foldl (fun s m => (s.wakeCluster (m.coreKey / 8)).wakeCore m.coreKey) s

/-- The number by which a held message names its launch. -/
def launchNo (q lseq : Nat) : Nat := q * 2 ^ 64 + lseq + 1

def State.mapGroups (s : State) (f : Group → Group) : State := s.modWork fun w => { w with groups := w.groups.map f }

def State.mapLaunches (s : State) (f : Launch → Launch) : State := s.modWork fun w => { w with launches := w.launches.map f }

/-- A phase of a group barrier counts in its group's gb and releases the group's own messages (R308). -/
def State.bumpGroup (s : State) (key : Nat) : State :=
  let here := fun (x : Group) => x.start && !x.out && groupBarKey x.die x.cluster x.c0 == key
  match s.work.groups.find? here with
  | none => s
  | some g =>
    let s := s.mapGroups fun x => if here x then { x with gb := x.gb + 1 } else x
    s.release g.ctx fun m => m.lid == launchNo g.q g.lseq && m.own && m.key.1 == g.g * 8 + g.kern && decide (m.stamp.1 < g.gb + 1)

/-- A phase of a launch barrier counts in its launch's lb and releases messages between groups (R308). -/
def State.bumpLaunch (s : State) (n : Nat) : State :=
  match s.work.launches.find? (·.lbar == some n) with
  | none => s
  | some l =>
    let s := s.mapLaunches fun x => if x.lbar = some n then { x with lb := x.lb + 1 } else x
    s.release l.ctx fun m => m.lid == launchNo l.q l.lseq && !m.own && decide (m.stamp.2 < l.lb + 1)

/-- The open phase completes: ARRIVED is 0, PHASE moves on, pending arrivals in it are released, those of threads that are
swapped out too, messages that it
releases enter first, and its waiters become ready (R302, R305, R308). -/
def State.completePhase (s : State) (key : Nat) : State :=
  let b := s.bar key
  let phase := (b.phase + 1) % 2 ^ 32
  let s := s.setBar key { b with arrived := 0, phase := phase }
  let drop := fun (a : Act) => { a with arrivals := a.arrivals.filter fun p => !(p.1 == key && p.2 == b.phase) }
  let s := (s.mapActs drop).mapAway drop
  let kind := key / 2 ^ 35
  let s := if kind = 1 then s.bumpGroup key else if kind = 2 then s.bumpLaunch (key % 256) else s
  let waits := s.allActs.filterMap fun a =>
    match a.run with
    | .waiting (.barrier k t d _) => if k = key ∧ phaseDone phase t then some (a.id, t, d) else none
    | _ => none
  waits.foldl (fun s x => s.onAct x.1 fun s => s.endBarWait key x.2.2 x.2.1) s

/-- Complete a phase whose arrivals are complete. [DEDUCED, notes/assumptions/43.md] -/
def State.phaseIfDue (s : State) (key : Nat) : State := if (s.bar key).due then s.completePhase key else s

/-- R302: the phase of a barrier whose last arrival has come completes.  Of a pod barrier the other devices' arrivals count
too: the root's broadcast completes its phase here, whatever this device's count is (26 R467).
[DEDUCED, notes/assumptions/43.md] -/
def execBarrierPhaseComplete (key : Nat) (s : State) : Out :=
  .next (if barScope key = 5 ∧ (s.bar key).v then s.completePhase key else s.phaseIfDue key)

/-- The end of a thread: COUNT of a managed barrier falls by one (R303). -/
def State.dropCount (s : State) (key : Nat) : State :=
  let s := s.phaseIfDue key
  let b := s.bar key
  if b.v then (s.setBar key { b with count := b.count - 1 }).phaseIfDue key else s

/-! ### Instructions, major 0x38 (R304, R305) -/

/-- The checks of R305 that every form makes on its barrier word. -/
def State.withBarrier (s : State) (w : Nat) (k : Nat → State → Out) : Out :=
  if bwBad w then .next (s.trapHere cRANGE 1 w)
  else if bwKind w = 0 ∧ s.cur.shadow.isSome then .next s.impure
  else if bwKind w = 0 ∧ !s.myCtx.hasBarrier (bwScope w) (bwId w) then .next (s.trapHere cPDENY 0 w)
  else
    match s.barOf w with
    | none => .next (s.trapHere cRANGE 2 w)
    | some key => k key (s.phaseIfDue key)

/-- R304, R305. -/
def execBinit (a b : Nat) (s : State) : Out :=
  let w := s.reg a
  if !bwBad w && bwKind w != 0 then .next (s.trapHere cRANGE 2 w)
  else
    s.withBarrier w fun key s =>
      let n := s.reg b
      let x := s.bar key
      if n = 0 ∨ barMax (bwScope w) < n then .next (s.trapHere cRANGE 4 n)
      else if x.arrived ≠ 0 then .next (s.trapHere cRANGE 5 w)
      else .next ((s.setBar key { x with v := true, count := n, arrived := 0 }).retire 4)

/-- In a shadow, a named barrier ends it before anything else of an instruction is looked at (17 R340). -/
def State.unlessNamed (s : State) (w : Nat) (k : Out) : Out :=
  if s.cur.shadow.isSome ∧ bwKind w = 0 ∧ !bwBad w then .next s.impure else k

/-- R304, R305: an arrival, a release (R307), and the wait unless `na` is set.  The arrival that reaches COUNT completes the phase at that
moment (R302). [DEDUCED, notes/assumptions/43.md] -/
def execBarr (d a na : Nat) (s : State) : Out :=
  s.unlessNamed (s.reg a) <| s.unlessClause
    (let w := s.reg a
     s.withBarrier w fun key s =>
      let x := s.bar key
      let mine := s.cur.arrivals
      if !x.v then .next (s.trapHere cRANGE 3 w)
      else if mine.contains (key, x.phase) then .next (s.trapHere cBOVER 0 w)
      else if 2 ≤ mine.length then .next (s.trapHere cRANGE 6 w)
      else
        s.settle (bwScope w) fun s =>
          let s := ((s.setBar key { x with arrived := x.arrived + 1 }).modCur fun c =>
            { c with arrivals := (key, x.phase) :: mine }).releaseTo (ptBar key x.phase) (bwScope w)
          let s := if na = 1 then (s.retire 4).setReg d x.phase 0 else s.block (.barrier key x.phase d w)
          .next (s.phaseIfDue key))

/-- The checks of `bwait` and `btest` on a token. -/
def State.withToken (s : State) (a b : Nat) (k : Nat → Nat → Bool → State → Out) : Out :=
  let w := s.reg a
  let t := s.reg b % 2 ^ 32
  s.withBarrier w fun key s =>
    let x := s.bar key
    if !x.v then .next (s.trapHere cRANGE 3 w)
    else if phaseAhead x.phase t then .next (s.trapHere cRANGE 7 (s.reg b))
    else k key t (phaseDone x.phase t) s

/-- R304. [DEDUCED, notes/assumptions/43.md] -/
def execBwait (a b : Nat) (s : State) : Out :=
  s.unlessNamed (s.reg a) <| s.unlessClause
    (let w := s.reg a
     s.withToken a b fun key t done s =>
      if done then .next ((s.retire 4).barAcquire key t) else .next (s.block (.barrier key t 0 w)))

/-- R304. -/
def execBtest (d a b : Nat) (s : State) : Out :=
  s.withToken a b fun key t done s =>
    if done then .next (((s.retire 4).setReg d 1 0).barAcquire key t) else s.put 4 d 0 0

end Sys2Proof.Machine
end

