-- ==== Sys2Proof/Machine/Poly.lean ====
section
/-!
DEFINITION. The polynomial unit (08 R218 to R221).
-/

namespace Sys2Proof.Machine

/-- The value of FP32 bits, as an image with a tail. -/
def f32 (b t : Nat) : Val := imgVal fp32 ⟨b % 2 ^ 32, t % 4⟩

/-- The header of a table (04 R100): the number of segments, none when it is refused. -/
def polyHeader (h : Nat) : Option Nat := if 1 ≤ h % 256 ∧ h % 256 ≤ 64 ∧ h / 256 = 0 then some (h % 256) else none

/-- A segment from its five words. -/
def polySeg (ws : List Nat) : PolySeg :=
  { bp := ws.getD 0 0, c0 := ws.getD 1 0, c1 := ws.getD 2 0, c2 := ws.getD 3 0, c3 := ws.getD 4 0 }

/-- Whether breakpoints rise strictly, none of them a NaN (R219). -/
def polyRises : List PolySeg → Bool
  | [] => true
  | [g] => f32 g.bp 0 != .nan
  | g :: h :: t => vLt (f32 g.bp 0) (f32 h.bp 0) && polyRises (h :: t)

/-- The requests of a core in its cluster's unit. -/
def State.polyOf (s : State) (ck : Nat) : List PolyReq := ((s.cluster (ck / 8)).polyQ).filter (·.core == ck)

/-- Read `n` words of 32 bits that a table holds, with the checks of the unit's accesses. -/
def State.tableWords (s : State) (w : Who) (va : Nat) : Nat → Except AErr (List Nat × State)
  | 0 => .ok ([], s)
  | n + 1 =>
    match s.engRead w 2 va 4 with
    | .error e => .error e
    | .ok (x, s) =>
      match State.tableWords s w (va + 4) n with
      | .error e => .error e
      | .ok (xs, s) => .ok (x :: xs, s)

/-- The segments of a list of words. -/
def polySegs : Nat → List Nat → List PolySeg
  | 0, _ => []
  | n + 1, ws => polySeg ws :: polySegs n (ws.drop 5)

/-- R219: the wait for the core's requests is no yield point. -/
def execPpload (a : Nat) (s : State) : Out :=
  let p := s.reg a % 2 ^ 56
  let w := { s.me with eng := 4, slot := 0 }
  let fail := fun (s : State) (e : AErr) => (s.failAcc (α := Unit) w 4 aRead e).halt
  let refuse := fun (s : State) => (Host.Outcome.next (s.trapHere cRANGE 1 (s.reg a)) : Out)
  if p % 16 ≠ 0 then .next (s.trapHere cALIGN 0 p)
  else if !(s.polyOf s.cur.coreKey).isEmpty then .next s
  else
    match s.engRead w 2 p 16 with
    | .error e => fail s e
    | .ok (h, s) =>
      match polyHeader h with
      | none => refuse s
      | some n =>
        match s.tableWords w (p + 16) (5 * n) with
        | .error e => fail s e
        | .ok (ws, s) =>
          let t := polySegs n ws
          if !polyRises t then refuse s else .next ((s.modMyCore fun c => { c with poly := t }).retire 4)

/-- R220: the request, with its operands as they are at issue. -/
def execVpoly (d a la : Nat) (s : State) : Out :=
  let ck := s.cur.coreKey
  if s.myCore.poly.isEmpty then .next (s.trapHere cRANGE 0 0)
  else if 16 ≤ (s.cluster (ck / 8)).polyQ.length then .next s
  else
    let r : PolyReq :=
      { core := ck, act := s.cur.id, vd := d, lanes := (List.range s.cur.grant).map (s.lane a), pc := s.pc,
        win := if la = 0 then 0 else s.sched.nextWin + 1 }
    let s := (s.retire 4).openWinV la [d]
    .next (s.modCluster (ck / 8) fun c => { c with polyQ := c.polyQ ++ [r] })

/-- The last segment whose breakpoint is at or below x, the first one when x lies below all of them. -/
def polyPick (x : Val) (t : List PolySeg) : PolySeg :=
  t.foldl (fun g h => if vLe (f32 h.bp 0) x then h else g) (t.headD { bp := 0, c0 := 0, c1 := 0, c2 := 0, c3 := 0 })

/-- One fused step c + y × t, rounded to odd (R220), with its flags. -/
def polyStep (y : Val) (t : Val) (c : Nat) : Image × Nat :=
  let p := vMul y t
  let r := vAdd false p.1 (f32 c 0)
  rtoFl fp32 (r.1, p.2 ||| r.2)

/-- The result of one lane (R220). -/
def polyEval (tab : List PolySeg) (x : Val) : Image × Nat :=
  match x with
  | .nan => (fp32.nan, 0)
  | x =>
    let g := polyPick x tab
    let t := rtoFl fp32 (vAdd false x (f32 g.bp 0).negate)
    let tv := imgVal fp32 t.1
    let y := polyStep (f32 g.c3 0) tv g.c2
    let z := polyStep (imgVal fp32 y.1) tv g.c1
    let r := polyStep (imgVal fp32 z.1) tv g.c0
    (r.1, t.2 ||| y.2 ||| z.2 ||| r.2)

/-- The unit's work on a request of an activation (R220, R221): the result is written and its flags land; a request whose
activation holds fewer lanes than it asked for is squashed. -/
def State.polyDo (s : State) (r : PolyReq) (grant : Nat) : State :=
  if grant < r.lanes.length then s.addLate r.act { code := cVGRANT, sub := 3, tval := r.pc, kind := 3, n := 0 }
  else
    let tab := (s.core r.core).poly
    let ys := r.lanes.map fun x => polyEval tab (f32 x (x / 2 ^ 32))
    let cells := (List.range ys.length).zip ys
    let fl := ys.foldl (fun f y => f ||| y.2) 0
    (s.onAct r.act fun s => s.setVr fun m =>
      cells.foldl (fun m c => FMap.put m (r.vd * 64 + c.1) (c.2.1.bits + 2 ^ 32 * c.2.1.tail)) m).flagAct r.act fl

/-- R221: before the workspace writes of a trap every request of the activation has written its result. -/
def State.flushPoly (s : State) (id : Nat) : State :=
  match s.act? id with
  | none => s
  | some a =>
    let mine := (s.cluster a.clusterKey).polyQ.filter (·.act == id)
    if mine.isEmpty then s
    else
      let s := s.modCluster a.clusterKey fun c => { c with polyQ := c.polyQ.filter (·.act != id) }
      mine.foldl (fun s r => s.polyDo r a.grant) s

/-- The same where an activation has just trapped. -/
def State.flushTrapped (s : State) (id : Nat) : State :=
  if (s.act? id).map (·.run) = some .trapWait then s.flushPoly id else s

/-- R221: the unit takes the request at its queue's head; one whose activation is gone has no result to write. -/
def execVpolyRequestTake (cluster : Nat) (s : State) : Out :=
  match (s.cluster cluster).polyQ with
  | [] => .next s
  | r :: rs =>
    match s.act? r.act with
    | none => .next (s.modCluster cluster fun c => { c with polyQ := rs })
    | some a =>
      if !s.running a.ctx && !a.onControl then .next s
      else
        .next ((s.modCluster cluster fun c => { c with polyQ := rs }).polyDo r a.grant)

end Sys2Proof.Machine
end

