-- ==== Sys2Proof/Machine/Ending.lean ====
section
/-!
DEFINITION. How an activation ends (10 R259, R274, R275), and what the end of a thread does to its group, its launch and
their pipes (12 R299, 13 R303, 15 R321, 17 R351).
-/

namespace Sys2Proof.Machine

/-- The key of a pipe: launch, instance and id (15 R319). -/
def pipeKey (q lseq inst id : Nat) : Nat := ((q * 2 ^ 64 + lseq) * 2 ^ 32 + inst) * 65536 + id

/-- Whether a pipe belongs to an instance. -/
def pipeOf (q lseq inst key : Nat) : Bool := key / 65536 == (q * 2 ^ 64 + lseq) * 2 ^ 32 + inst

/-- R321: every thread of a kernel's group has ended: its pipes out close, its pipes in are abandoned. -/
def Pipe.kernelEnds (p : Pipe) (kern : Nat) : Pipe :=
  let p := if p.fromK = kern then { p with closed := true, st := p.st.map fun x => if x = 1 ∨ x = 2 then 3 else x } else p
  if p.toK = kern then { p with abandoned := true } else p

def State.mapPipes (s : State) (f : Nat → Pipe → Pipe) : State := s.modWork fun w => { w with pipes := w.pipes.mapV f }

/-- R299: a group whose last thread has ended ends. -/
def State.groupEnd (s : State) (g : Group) : State :=
  let me := fun (x : Group) => x.q == g.q && x.lseq == g.lseq && x.g == g.g && x.kern == g.kern
  let s := s.mapPipes fun k p => if pipeOf g.q g.lseq g.g k then p.kernelEnds g.kern else p
  let s := s.setBar (groupBarKey g.die g.cluster g.c0) {}
  let rest := s.work.groups.filter fun x => !me x
  let s := s.modWork fun w => { w with groups := rest }
  let s := s.mapLaunches fun l => if l.q = g.q ∧ l.lseq = g.lseq then { l with ended := l.ended + 1 } else l
  let last := !(rest.any fun x => x.q == g.q && x.lseq == g.lseq && x.g == g.g)
  let s := if last then s.modWork fun w => { w with pipes := w.pipes.filter fun p => !pipeOf g.q g.lseq g.g p.1 } else s
  match g.shadow with
  | some q => s.shadowAdvance q
  | none => s

/-- The end of a launched thread: managed barriers count one thread less, and its group may end. -/
def State.threadEnd (s : State) (l : LaunchId) (killed : Bool) : State :=
  match s.group? l with
  | none => s
  | some g =>
    let s := s.dropCount (groupBarKey g.die g.cluster g.c0)
    let s := match (s.launch? l.q l.lseq).bind (·.lbar) with | some n => s.dropCount (launchBarKey n) | none => s
    let s := if killed then s.mapLaunches fun x => if x.q = l.q ∧ x.lseq = l.lseq then { x with killed := true } else x else s
    let now : Group := { ((s.group? l).getD g) with alive := g.alive - 1 }
    let s := s.mapGroups fun x => if x.q = l.q ∧ x.lseq = l.lseq ∧ x.g = l.grp ∧ x.kern = l.kern then now else x
    if now.alive = 0 then s.groupEnd now else s

/-- What the end of an activation leaves to the slot it held: a queued message of its level first (R259), then whatever
the core can start; an activation that is uncovered takes up its grant again (08 R192) and
its watchdog's count restarts (R269). -/
def State.popSlot (s : State) (a : Act) : State :=
  let ck := a.coreKey
  let next := if a.orig = 1 ∧ !(s.core ck).reserved.contains a.slot then
      ((s.core ck).firstOf a.pri).bind fun m => if s.msgReady ck m then some m else none
    else none
  let s := match next with
    | some m => s.startHandler ck a.slot m
    | none =>
      match s.slotTop ck a.slot with
      | some b => s.onAct b.id fun s => (let c := s.cycle s.cur.die; s.modCur fun x => { x with wd := c }).renegotiate
      | none => s
  s.wakeCore ck

/-- R275: the issuing activation ends: its gang, lanes, reservation and pending arrivals are gone, its inbound entry frees,
and its slot is popped. -/
def State.endCur (s : State) (killed : Bool) : State :=
  let a := s.cur
  let s := s.leaveGang
  let s := s.modCur fun x => { x with live := false, grant := 0, saved := 0, vr := [], resv := none, arrivals := [] }
  let s := match a.gang with | some g => s.remeet g | none => s
  let s := match a.inb with | some e => s.freeInbound a.coreKey e | none => s
  let s := if a.orig = 0 then (match a.launch with | some l => s.threadEnd l killed | none => s) else s
  if a.parked.isSome then s.wakeCore a.coreKey else s.popSlot a

/-- Whether the issuing activation has commands, requests or completion messages that have not ended (R275, R260). -/
def State.endWaits (s : State) : Bool :=
  let a := s.cur
  let k := s.myCore
  let mine := fun (c : Cmd) => c.act == a.id
  k.copies.any mine || k.mq.any mine || k.index.any mine
    || (s.cluster a.clusterKey).polyQ.any (fun r => r.act == a.id)
    || s.work.msgs.any (fun m => m.act == a.id && m.err.isSome)

/-- An ending instruction (R275): unraised errors are raised first, and it waits for what is outstanding. -/
def State.ending (s : State) (k : State → Out) : Out :=
  match s.cur.late with
  | e :: _ => .next (s.raiseLate e)
  | [] => if s.endWaits then .next s else k s

end Sys2Proof.Machine
end

