-- ==== Sys2Proof/Machine/Fetch.lean ====
section
/-!
DEFINITION. Instruction fetch (03 R55 to R58): a read that requires execute permission, one halfword at a time.
-/

namespace Sys2Proof.Machine

/-- The launches whose stores an activation's fetches need not see (R58): its own, or for one that belongs to none those that
have groups on its cluster. -/
def State.launchesAt (s : State) (w : Who) : List (Nat × Nat) :=
  match w.launch with
  | some l => [(l.q, l.lseq)]
  | none =>
    let here := s.work.groups.filter fun g => g.die == w.die && g.cluster == w.cluster
    here.foldl (fun r g => if r.contains (g.q, g.lseq) then r else r ++ [(g.q, g.lseq)]) []

/-- One halfword.  A local window traps PRIV with the address; a halfword that stores of the same launch have changed
is read as any of its contents before them, or as it is now (R57, R58). [DEDUCED, notes/assumptions/44.md] -/
def State.fetchHalf (s : State) (va : Nat) : Res Nat :=
  let w := s.me
  if bits va 52 4 = 15 then .stop (s.trapHere cPRIV 0 va)
  else
    match s.locate w va 2 aExec with
    | (.error e, s) => s.failAcc w 0 aExec e
    | (.ok loc, s) =>
      if s.coh.poison.contains (loc.key / 128) then s.failAcc w 0 aExec (.data 3 va)
      else if s.answered w va then s.failAcc w 0 aExec (.data ((s.cur.failing.map (·.1)).getD 0) va)
      else
        let r := if w.shadow.isSome then s.readLine w loc 2 else (s.rdN loc.key 2, s)
        match r.2.launchesAt w |>.flatMap fun l => FMap.getD r.2.coh.code (codeKey l.1 l.2 (loc.key / 2)) [] with
        | [] => .ok r.1 r.2
        | old =>
          let c := r.2.draw
          .ok ((r.1 :: old).getD (c.1 % (old.length + 1)) r.1) c.2

/-- The instruction word at an address: whether it has 32 bits, and its value (R55, R56).
[DEDUCED, notes/assumptions/13.md] [DEDUCED, notes/assumptions/44.md] -/
def State.fetchAt (s : State) (pc : Nat) : Res (Bool × Nat) :=
  let pc := pc % 2 ^ 56
  if pc % 2 = 1 then .stop (s.trapHere cALIGN 0 pc)
  else
    (s.fetchHalf pc).bind fun h s =>
      if h % 2 = 0 then .ok (false, h) s
      else (s.fetchHalf ((pc + 2) % 2 ^ 56)).bind fun g s => .ok (true, h + 65536 * g) s

end Sys2Proof.Machine
end

