-- ==== Sys2Proof/Machine/Thread.lean ====
section
/-!
DEFINITION. The thread instructions (10 R262 to R275), and the steps that park, resume, time out or fail an activation.
-/

namespace Sys2Proof.Machine

/-! ### Messages (R262 to R265, 13 R308) -/

/-- What a send comes to. -/
inductive Sent where
  | trap (code sub tval : Nat)
  | impure                               -- refused in a shadow (17 R340)
  | refused                              -- class without a handler (R260)
  | gated                                -- the target's cluster must wake first (12 R294)
  | full
  | waits                                -- at its sender, for a link on its way (26 R458)
  | dead                                 -- to a die in reset or out of reach (23 R424, 26 R459)
  | go (m : Msg)
  | hold (m : Msg)                       -- until a barrier's phase (13 R308)

/-- The group that holds a core. -/
def State.groupAt (s : State) (die cluster core : Nat) : Option Group :=
  s.work.groups.find? fun g => g.die == die && g.cluster == cluster && decide (g.c0 ≤ core ∧ core < g.c0 + g.f) && !g.out

/-- Whether a core has a free inbound entry for a send. [DEDUCED, notes/assumptions/20.md] -/
def State.roomAt (s : State) (ck : Nat) : Bool := (s.core ck).pend.isEmpty && (s.core ck).freeEntry.isSome

/-- Held messages of a context whose records are not free: those held, and those released that wait for an inbound entry
(13 R308). -/
def State.heldCount (s : State) (c : Nat) : Nat :=
  (s.ctx c).heldMsgs.length
    + s.cores.foldl (fun n k => n + (k.2.pend.filter fun m => m.lid != 0 && m.ctx == c).length) 0

/-- Where a clause's sends stand among its thread's in the order of 13 R308: after the thread's own, by root number and path
as R480 orders clauses. [DESIGN CHOICE, notes/assumptions/20.md] -/
def State.sendSeq (s : State) (a : Act) : Nat :=
  match s.sortKey a with
  | none => a.sends
  | some k =>
    let sub := (k.drop 4).take 11
    a.sends + 2 ^ 64 * ((List.range 11).foldl (fun n i => n * 2048 + sub.getD i 0) 0)

/-- The sender's group and thread for the key of a held message, and the group's own number. -/
def LaunchId.groupNo (l : LaunchId) : Nat := l.grp * 8 + l.kern

/-- Whether messages of the issuer are held for a target's group (13 R308). -/
def State.holdsFor (s : State) (g : Option Group) : Option (LaunchId × Group) :=
  match s.cur.launch, g with
  | some l, some g => if s.cur.det && s.cur.orig != 1 && g.q == l.q && g.lseq == l.lseq then some (l, g) else none
  | _, _ => none

/-- The checks of R264 on a target word, and the message with its payload.  The message reaches its target in the step that
the send completes in: its dispatch entry is read there, and the order of arrivals is that of such steps.
A control or management core, which has no partition, may name any
cluster.  A message to another die waits for the links on its way; to a die out of reach it is answered as a request is.
[DEDUCED, notes/assumptions/20.md] [DESIGN CHOICE, notes/assumptions/49.md] -/
def State.planSend (s : State) (t : Nat) (payload : List Nat) : Sent :=
  let a := s.cur
  let die := bits t 16 2
  let cl := bits t 6 10
  let co := bits t 3 3
  let ck := Machine.coreKey die cl co
  let cls := bits t 27 5
  let g := s.groupAt die cl co
  if (match a.shadow with | some q => bits t 18 9 != s.dev.devnum || (g.bind (·.shadow)) != some q | none => false) then .impure
  else if t / 2 ^ 32 ≠ 0 ∨ bits t 18 9 ≠ s.dev.devnum ∨ 24 ≤ cls then .trap cRANGE 0 t
  else
    if 528 ≤ cl ∨ (!a.onControl ∧ !s.myCtx.hasCluster die cl) then .trap cPDENY 0 t
    else
      let e := s.dispatch ck cls
      let src := cls * 2 ^ 27 + s.dev.devnum * 2 ^ 18 + a.place
      let words := (src + payload.length * 2 ^ 32) :: (payload ++ List.replicate (7 - payload.length) 0)
      let ctx := if a.onControl then ((s.cluster (ck / 8)).owner).getD 0 else a.ctx
      let m : Msg := { n := 0, die := die, cluster := cl, core := co, cls := cls, words := words,
                       det := a.det && a.launch.isSome, ctx := ctx, snd := a.id }
      let way := s.pathErr s.me.node die t
      if way.isSome then (if way = some .stall then .waits else .dead)
      else if (s.cluster (ck / 8)).awake ≠ 1 then .gated
      else if !bit e 63 then .refused
      else
        match s.holdsFor g with
        | some (l, g) =>
          let own := g.g == l.grp && g.kern == l.kern
          let m := { m with lid := launchNo l.q l.lseq, own := own, key := (l.groupNo, l.thr, s.sendSeq a), stamp := s.stamp l }
          if !own ∧ ((s.launch? l.q l.lseq).bind (·.lbar)).isNone then .trap cRANGE 5 t
          else if ((s.ctx a.ctx).area 0x38).2 / 128 ≤ s.heldCount a.ctx then .trap cRANGE 6 t
          else .hold m
        | none => if s.roomAt ck then .go m else .full

/-- An accepted message is written to its target's inbound area, and starts its handler when it can (R258), or is held;
either way it is a send of its thread, and a release at package scope (R265). [DEDUCED, notes/assumptions/20.md] -/
def State.accept (s : State) (p : Sent) : State :=
  let me := s.cur.id
  let n := s.work.nextMsg
  let s := (s.releaseTo (ptMsg n) 4).modWork fun w => { w with nextMsg := n + 1 }
  let s := match p with
    | .go m => (s.enter { m with n := n }).wakeCore m.coreKey
    | .hold m => s.modCtx s.cur.ctx fun x => { x with heldMsgs := x.heldMsgs ++ [{ m with n := n }] }
    | _ => s
  s.onAct me fun s => s.modCur fun a => { a with sends := a.sends + 1 }

/-- A refused send: a trap at the send when it carries no window, else raised later (R264). -/
def State.refuse (s : State) (t la : Nat) : State :=
  if la = 0 then s.trapHere cRANGE 1 t
  else (s.retire 4).addLate s.cur.id { code := cRANGE, sub := 1, tval := t, kind := 3, n := 0 }

/-- The payload registers b to b + w - 1. -/
def State.payload (s : State) (w b : Nat) : List Nat := (List.range w).map fun i => s.reg (b + i)

/-- The gated cluster of a target word wakes (12 R294). -/
def State.wakeTarget (s : State) (t : Nat) : State := s.wakeCluster (Machine.clusterKey (bits t 16 2) (bits t 6 10))

/-- R264; issue stalls while the target's cluster wakes. -/
def execSend (w d a b la : Nat) (s : State) : Out :=
  let t := s.reg a
  match s.planSend t (s.payload w b) with
  | .trap c sub v => .next (s.trapHere c sub v)
  | .impure => .next s.impure
  | .refused => .next (s.refuse t la)
  | .gated => .next (s.wakeTarget t)
  | .full => .next ((s.retire 4).setRegLa la d 0 0)
  | .waits => .next s
  | .dead => .next (s.dataErr 4 5 t)
  | p => .next (((s.accept p).retire 4).setRegLa la d 1 0)

/-- In a shadow, a send to a core that holds no group of it ends it before anything else is looked at (17 R340). -/
def State.unlessFar (s : State) (t : Nat) (k : Out) : Out :=
  match s.planSend t [] with
  | .impure => .next s.impure
  | _ => k

/-- R264: `sendw` waits for an entry; the wait is a yield point. -/
def execSendw (w d a b la : Nat) (s : State) : Out :=
  s.unlessFar (s.reg a) <| s.unlessClause
    (let t := s.reg a
     match s.planSend t (s.payload w b) with
     | .trap c sub v => .next (s.trapHere c sub v)
     | .impure => .next s.impure
     | .refused => .next (s.refuse t la)
     | .gated => .next ((s.wakeTarget t).block (.send d t (s.payload w b) (la != 0)))
     | .full => .next (s.block (.send d t (s.payload w b) (la != 0)))
     | .waits => .next (s.block (.send d t (s.payload w b) (la != 0)))
     | .dead => .next (s.dataErr 4 5 t)
     | p => .next (((s.accept p).retire 4).setRegLa la d 1 0))

/-- The retry of a `sendw` that waits. -/
def State.retrySend (s : State) (d t : Nat) (payload : List Nat) (late : Bool) : State :=
  let ready := State.goOn
  match s.planSend t payload with
  | .trap c sub v => (ready s).trapHere c sub v
  | .impure => s.impure
  | .refused => (ready s).refuse t (b2n late)
  | .gated => s.wakeTarget t
  | .full => s
  | .waits => s
  | .dead => (ready s).dataErr 4 5 t
  | p => ((ready (s.accept p)).retire 4).setReg d 1 0

/-! ### Endings and the 16-bit forms (R273 to R275) -/

/-- R274, R275. [DEDUCED, notes/assumptions/18.md] -/
def execHalt (s : State) : Out :=
  if s.cur.orig = 2 then .next (s.trapHere cRANGE 0 0) else s.ending fun s => .next (s.endCur false)

/-- R259, R273. -/
def execHret (s : State) : Out :=
  if s.cur.orig ≠ 1 then .next (s.trapHere cRANGE 0 0) else s.ending fun s => .next (s.endCur false)

/-- R273. -/
def execNop (s : State) : Out := .next (s.retire 2)

/-- R273, R266: a yield point, where the grant is re-negotiated. -/
def execYield (s : State) : Out := s.unlessClause (.next ((s.retire 2).yieldPoint).renegotiate)

/-- R273. -/
def execBrk (s : State) : Out := .next (s.trap cBRK 0 s.pc (s.pc + 2))

/-! ### Parking (R267, R268) -/

/-- The park area of a core: the address of its first record (24 R439). -/
def State.parkBase (s : State) (a : Act) : Nat :=
  let c := s.ctx a.ctx
  (c.area 0x18).1 + 0x8200 * c.coreIndex a.die a.cluster a.core

/-- The records of a core's park area that lie in one page each and hold no activation. -/
def State.parkFree (s : State) (a : Act) : List Nat :=
  let base := s.parkBase a
  ((List.range 104).map fun j => base + 0x140 * j).filter fun va =>
    va / 65536 == (va + 0x13F) / 65536 && !(s.allActs.any fun b => b.parked.isSome && b.ctx == a.ctx && b.parkVa == va)

/-- The parked activations of a core, oldest first. -/
def parkInsert (a : Act) : List Act → List Act
  | [] => [a]
  | b :: bs => if a.parkOrder ≤ b.parkOrder then a :: b :: bs else b :: parkInsert a bs

def State.parkedOn (s : State) (ck : Nat) : List Act :=
  (s.allActs.filter fun a => a.parked.isSome && a.coreKey == ck).foldr parkInsert []

/-- Write PLINK of each record of a park queue: the address of the next one, 0 at the end. -/
def State.linkParks (s : State) : List Act → State
  | [] => s
  | [a] => s.hwWrite (a.wsKey + 0x138) 8 0
  | a :: b :: t => State.linkParks (s.hwWrite (a.wsKey + 0x138) 8 b.parkVa) (b :: t)

/-- Renew the park links of a core's level. [DEDUCED, notes/assumptions/40.md] -/
def State.relink (s : State) (ck pri : Nat) : State := s.linkParks ((s.parkedOn ck).filter (·.pri == pri))

/-- Copy 320 bytes. -/
def State.copyWs (s : State) (from_ to_ : Nat) : State := s.hwWrite to_ 0x140 (s.rdN from_ 0x140)

/-- The records of the ready ring of a core: its head and how many stand there (11 R278). -/
def State.ringCount (s : State) (ck : Nat) : Nat :=
  (s.rdN (tcmOf ck 0x2802) 2 + 65536 - s.rdN (tcmOf ck 0x2800) 2) % 65536

/-- Whether a parked activation can go on: its wait has ended, or it was parked ready (R268). -/
def Act.resumable (a : Act) : Bool := a.parked.isSome && a.run == .ready

/-- The levels of the work that waits for a slot of a core (R267). -/
def State.waitingWork (s : State) (ck : Nat) : List Nat :=
  let msgs := ((s.core ck).queue.filter fun m => s.msgReady ck m && (s.msgSlot ck m).isNone).map (·.pri)
  let ring := if s.ringCount ck ≠ 0 ∧ (s.freeSeat ck).isNone then [0] else []
  let parks := if (s.freeSeat ck).isNone then ((s.parkedOn ck).filter Act.resumable).map (·.pri) else []
  let group := if (s.core ck).reserved.any fun k => !s.slotFree ck k then [0] else []
  msgs ++ ring ++ parks ++ group

/-- Whether an activation may be parked for work of level `pri` (R267). -/
def State.parkable (s : State) (ck pri : Nat) (a : Act) : Bool :=
  a.inSlot && a.coreKey == ck && (s.slotActs ck a.slot).length == 1 &&
    (match a.run with
     | .ready => a.atYield && decide (a.pri ≤ pri)
     | .trapWait => !a.wsp
     | _ => true)

/-- The candidate that is parked: the lowest level, then the lowest slot. -/
def parkBest : List Act → Option Act
  | [] => none
  | a :: t =>
    match parkBest t with
    | none => some a
    | some b => if a.pri < b.pri ∨ (a.pri = b.pri ∧ a.slot ≤ b.slot) then some a else some b

/-- R267, R268: a core parks an activation for work that waits for a slot. [DEDUCED, notes/assumptions/40.md] -/
def execActivationPark (core : Nat) (s : State) : Out :=
  match s.waitingWork core with
  | [] => .next s
  | l :: ls =>
    match parkBest (s.allActs.filter (s.parkable core (ls.foldl max l))) with
    | none => .next s
    | some a =>
      match (s.parkFree a).head? with
      | none => .next s
      | some va =>
        if !s.running a.ctx then .next s
        else
          match s.devLoc a.ctx a.die va 0x140 aWrite with
          | (none, s) => .next s
          | (some loc, s) =>
            let s := s.copyWs a.wsKey loc.key
            let n := (s.core core).parks
            let s := s.modCore core fun c => { c with parks := n + 1 }
            let s := s.onAct a.id fun s => s.modCur fun x => { x with parked := some loc.key, parkVa := va, parkOrder := n }
            .next ((s.relink core a.pri).wakeCore core)

/-- The parked activation that a core resumes: the oldest one of the highest level that can go on (R268). -/
def State.resumeBest (s : State) (ck : Nat) : Option Act :=
  [3, 2, 1, 0].findSome? fun l => (s.parkedOn ck).find? fun a => a.resumable && a.pri == l

/-- R268: a parked activation takes a free slot and that slot's workspace, when no queued message of its level or above
can start and, at level 0, no clause is ready (11 R284). [DEDUCED, notes/assumptions/40.md] -/
def execActivationResume (core : Nat) (s : State) : Out :=
  match s.resumeBest core, s.freeSeat core with
  | some a, some k =>
    let msgs := (s.core core).queue.any fun m => s.msgReady core m && decide (a.pri ≤ m.pri)
    if !s.running a.ctx || msgs || (a.pri == 0 && s.ringCount core != 0) then .next s
    else
      let s := s.copyWs a.wsKey (tcmOf core (wsOf k))
      let s := s.onAct a.id fun s =>
        let c := s.cycle s.cur.die
        (s.modCur fun x => { x with parked := none, parkVa := 0, slot := k, wp := wsOf k, atYield := false, wd := c }).renegotiate
      .next (s.relink core a.pri)
  | _, _ => .next s

/-! ### The watchdog, windows and error replies (R269, 03 R72 to R76, 23 R424) -/

/-- R269: an activation that has been ready at the top of its slot for 2^W cycles since its last yield point, start or
resumption traps WDOG, with the address of the last instruction it issued as trap value; one whose WP is rejected traps WSP,
and no workspace is written (03 R64, R272).
[DESIGN CHOICE, notes/assumptions/8.md] -/
def execWatchdogExpiry (act : Nat) (s : State) : Out :=
  match s.act? act with
  | none => .next s
  | some a =>
    if a.run != .ready || !a.inSlot || !s.isTop a || !(s.running a.ctx || a.onControl)
        || decide (s.cycle a.die - a.wd < 2 ^ (s.ctx a.ctx).wdog) then .next s
    else .next ((s.onAct act fun s => if s.cur.wpOk then s.trapHere cWDOG 0 a.lastPc else s.trapWsp).flushPoly act)

/-- 03 R72, R76: a long-latency result has landed; its window closes. -/
def execLongLatencyResult (act n : Nat) (s : State) : Out :=
  .next (s.onAct act fun s => s.modCur fun a => { a with wins := (a.wins.filter (·.n == n)).foldl closeWin a.wins })

/-- A window's registers as they were: an error reply returns nothing to them (23 R424). -/
def State.restoreWin (s : State) (w : Win) : State :=
  w.old.foldl (fun s r =>
    if r.1 < 32 then s.setReg r.1 r.2.1 r.2.2
    else s.setVr fun m => FMap.put m (r.1 - 32) (r.2.1 + 2 ^ 32 * r.2.2)) s

/-- A line whose read fails is in no L1 (23 R424). -/
def State.dropLine (s : State) (va : Nat) : State :=
  match (s.locate s.me va 1 aRead).1 with
  | .ok loc => s.modMyCore fun c => { c with l1 := c.l1.del (loc.key / 128) }
  | .error _ => s

/-- 23 R424, 03 R75: an error reply answers a load whose window is open (`seq` is the window's number), an engine command
(`eng` 1 copy, 2 matrix, 3 index; `who` the core), or (`eng` 4) the next read or fetch of a line by a thread, which takes the
error when it is made.  An open window's error is raised at the requester's next instruction boundary, which for a ready
activation is this one, and its context is frozen; a shadow's ends the shadow with no more effect (17 R349). -/
def execErrorReply (eng who seq sub addr : Nat) (s : State) : Out :=
  if eng = 0 then
    match (s.act? who).bind fun a => (a.wins.find? (·.n == seq)).map fun w => (a, w) with
    | none => .next s
    | some (a, w) =>
      if w.landed then .next s
      else match a.shadow with
      | some q => .next (s.discardShadow q 8)
      | none =>
      let e : Late := { code := cDATAERR, sub := sub, tval := w.pc, kind := 3, n := 0 }
      let s := s.onAct who fun s =>
        let s := ((s.restoreWin w).dropLine addr).modCur fun x => { x with wins := x.wins.filter (·.n != seq), late := x.late ++ [e] }
        if s.cur.run = .ready then (s.raiseLate e).flushPoly who else s
      .next ((s.log 1 sub a.ctx a.die 0 addr).freeze a.ctx 2 addr)
  else if eng ≤ 3 then
    match s.cmd? who (eng - 1) seq with
    | none => .next s
    | some c =>
      let t := s.failCmd who (eng - 1) eng aRead c (if eng = 1 then c.done else 0) (.data sub addr)
      .next (t.cmdFailed who (eng - 1) c)
  else if eng = 4 then .next (s.onAct who fun s => s.modCur fun a => { a with failing := some (sub, addr / 128) })
  else .next s

/-! ### Words and fetches that are no instruction (03 R57, R80 to R82) -/

/-- R82: IOP with the word as trap value. -/
def execIllegalInstruction (word : Nat) (s : State) : Out := .next (s.trapIop word)

/-- R57: a fetch that fails stops the activation with its PC at the instruction. -/
def execFetchFault (s : State) : Out := (s.fetchAt s.pc).halt

end Sys2Proof.Machine
end

