-- ==== Sys2Proof/Machine/Clause.lean ====
section
/-!
DEFINITION. Clauses (11 R276 to R288): records, the ready ring, the overflow area, the instructions of major 0x0E, and the
start of a ready clause.
-/

namespace Sys2Proof.Machine

/-! ### Records (R276), by the memory key of their first byte -/

/-- Record i of a core. -/
def recKeyOf (ck i : Nat) : Nat := tcmOf ck (0x1800 + 64 * i)

/-- The window-2 address of record i of a core. -/
def recAddr (ck i : Nat) : Nat := win2 (ck / 8192) (ck / 8 % 1024) (ck % 8) (0x1800 + 64 * i)

def State.recCnt (s : State) (k : Nat) : Nat := s.rdN (k + 8) 4
def State.recCtl (s : State) (k : Nat) : Nat := s.rdN (k + 12) 4
def State.recPath (s : State) (k : Nat) : Nat := s.rdN (k + 16) 8
def State.recRoot (s : State) (k : Nat) : Nat := s.rdN (k + 24) 8
def State.recConj (s : State) (k : Nat) : Nat := s.rdN (k + 32) 8
def State.setCtl (s : State) (k v : Nat) : State := s.wrN (k + 12) 4 v

def ctlState (c : Nat) : Nat := c % 4
def ctlHold (c : Nat) : Bool := bit c 2
def ctlKids (c : Nat) : Nat := bits c 4 7
def ctlBase (c : Nat) : Nat := bits c 11 7

/-- PATH of child `k` (R276). -/
def childPath (p k : Nat) : Nat :=
  let d := p / 2 ^ 60
  setBits (setBits p (6 * d) 6 k) 60 4 (d + 1)

/-- The last child index of a PATH. -/
def lastChild (p : Nat) : Nat := if p / 2 ^ 60 = 0 then 0 else bits p (6 * (p / 2 ^ 60 - 1)) 6

/-- Write a whole record. -/
def State.writeRec (s : State) (k handler cnt ctl path root conj : Nat) (args : List Nat) : State :=
  let s := ((((s.wrN k 8 handler).wrN (k + 8) 4 cnt).setCtl k ctl).wrN (k + 16) 8 path).wrN (k + 24) 8 root
  ((((s.wrN (k + 32) 8 conj).wrN (k + 40) 8 (args.getD 0 0)).wrN (k + 48) 8 (args.getD 1 0)).wrN (k + 56) 8 (args.getD 2 0))

/-- The lowest free record of a core. -/
def State.freeRec (s : State) (ck : Nat) : Option Nat :=
  (List.range 64).find? fun i => ctlState (s.recCtl (recKeyOf ck i)) == 0

/-- A record enters the ready ring of its core (R278); work that reaches a gated cluster wakes it (12 R294). -/
def State.enterRing (s : State) (ck i : Nat) : State :=
  let t := s.rdN (tcmOf ck 0x2802) 2
  ((s.wrN (tcmOf ck (0x2804 + 2 * (t % 64))) 2 i).wrN (tcmOf ck 0x2802) 2 (t + 1)).wakeCluster (ck / 8)

/-! ### The overflow area (R286) -/

/-- The key of an overflow slot; an error where its page does not translate (23 R420). -/
def State.clovKey (s : State) (c j : Nat) : Except AErr (Nat × State) :=
  match s.translate (devWho c 0) (((s.ctx c).area 0x30).1 + 64 * j) 64 aWrite with
  | (.ok l, s) => .ok (l.key, s)
  | (.error e, _) => .error e

/-- The lowest overflow slot that holds neither a record nor a forward. -/
def Ctx.clovFree (c : Ctx) : Option Nat :=
  (List.range ((c.area 0x30).2 / 64)).find? fun j => (FMap.get? c.clov j).isNone

/-- Where a record lies: its key, and its core and index, or its context and overflow slot. -/
structure RecPlace where
  key : Nat
  ck : Nat
  i : Nat
  ovf : Option Nat                      -- overflow slot

/-- The record in a core's own area that an address names. -/
def tcmRecord (w : Who) (va : Nat) : Option RecPlace :=
  let k := bits va 48 4
  let off := va % 0x8000
  let ck := if k = 0 then w.coreKey else coreKey (bits va 46 2) (bits va 36 10) (bits va 33 3)
  if (k = 0 ∨ k = 2) ∧ va % 64 = 0 ∧ 0x1800 ≤ off ∧ off < 0x2800 then
    some { key := tcmOf ck off, ck := ck, i := (off - 0x1800) / 64, ovf := none }
  else none

/-- The record that an address names, forwards followed; none when there is none there. -/
def State.findRec (s : State) (w : Who) (va : Nat) : Except AErr (Option RecPlace × State) :=
  if bits va 52 4 = 15 then .ok (tcmRecord w va, s)
  else
    let a := (s.ctx w.ctx).area 0x30
    let j := (va - a.1) / 64
    match FMap.get? (s.ctx w.ctx).clov j with
    | none => .ok (none, s)
    | some x =>
      if x % 2 = 1 then .ok (tcmRecord w (x / 2), s)
      else
        match s.clovKey w.ctx j with
        | .error e => .error e
        | .ok (k, s) => .ok (some { key := k, ck := x / 2, i := 0, ovf := some j }, s)

/-- Write `n` bytes at an offset of a record; one in the overflow area lies in memory that others may watch. -/
def State.putRec (s : State) (p : RecPlace) (off n v : Nat) : State :=
  if p.ovf.isSome then s.hwWrite (p.key + off) n v else s.wrN (p.key + off) n v

/-- What a decrement, or a record, that arrives at a core brings about there: a gated cluster wakes (12 R294), and what comes
from another core is logged (06 R153), a decrement as an atomic. [DESIGN CHOICE, notes/assumptions/49.md] -/
def State.reachRec (s : State) (w : Who) (p : RecPlace) (off size kind : Nat) : State :=
  if p.ovf.isSome then s
  else
    let s := s.wakeCluster (p.ck / 8)
    if p.ck = w.coreKey then s else s.traceOne w (p.ck / 8192) (p.ck / 8 % 1024) (p.ck % 8) (p.key % 0x8000 + off) size kind

/-- Whether an address is one that a record may have (R281), or ends a shadow (17 R340). -/
def State.recAddrOk (s : State) (w : Who) (va : Nat) : Except AErr Bool :=
  if bits va 52 4 = 15 then
    match s.window w va 1 aRead with
    | .error (.shadowEnd r) => .error (.shadowEnd r)
    | .error _ => .ok false
    | .ok _ => .ok (tcmRecord w va).isSome
  else
    let a := (s.ctx w.ctx).area 0x30
    .ok (va % 64 == 0 && decide (a.1 ≤ va ∧ va < a.1 + a.2))

/-! ### Decrements and frees (R279, R286) -/

/-- One decrement at a record, a release of the issuer's earlier accesses at package scope (R288): false when it is discarded.
A discarded one that reaches a core from another is logged too. [DESIGN CHOICE, notes/assumptions/49.md] -/
def State.decRec (s : State) (w : Who) (va : Nat) : Except AErr (Bool × State) :=
  match s.findRec w va with
  | .error e => .error e
  | .ok (none, s) => .ok (false, s)
  | .ok (some p, s) =>
    let c := s.recCtl p.key
    let n := s.recCnt p.key
    if ctlState c ≠ 1 ∨ n = 0 then .ok (false, s.reachRec w p 8 4 1)
    else
      let s := ((s.putRec p 8 4 (n - 1)).reachRec w p 8 4 1).releaseTo (ptRec p.key) 4
      if n ≠ 1 then .ok (true, s)
      else
        let s := s.putRec p 12 4 (setBits c 0 2 2)
        .ok (true, match p.ovf with
          | some _ => s
          | none => s.enterRing p.ck p.i)

/-- The oldest overflow record of a core moves into a record that has freed; the overflow slot then holds its new address in
its first 8 bytes (DESIGN CHOICE, notes/assumptions/18.md). -/
def State.moveIn (s : State) (c ck i : Nat) : State :=
  let x := s.ctx c
  match x.cloOrder.find? fun j => FMap.get? x.clov j == some (2 * ck) with
  | none => s
  | some j =>
    match s.clovKey c j with
    | .error _ => s
    | .ok (k, s) =>
      let info := FMap.getD x.clovInfo j {}
      let s := ((s.wrN (recKeyOf ck i) 64 (s.rdN k 64)).hwWrite k 8 (recAddr ck i)).movePoint (ptRec k) (ptRec (recKeyOf ck i)) |>.clearPoint (ptRec k)
      let s := s.modCtx c fun y =>
        { y with clov := y.clov.put j (2 * recAddr ck i + 1), clovInfo := y.clovInfo.del j,
                 cloOrder := y.cloOrder.filter (· != j) }
      let s := s.modCore ck fun y => { y with recs := y.recs.put i info }
      if ctlState (s.recCtl (recKeyOf ck i)) = 2 then s.enterRing ck i else s

/-- A record becomes free: forwards to it free, and the oldest overflow record of its core moves in. -/
def State.freeClause (s : State) (c ck i : Nat) : State :=
  let s := (s.setCtl (recKeyOf ck i) 0).clearPoint (ptRec (recKeyOf ck i))
  let s := s.modCore ck fun y => { y with recs := y.recs.del i }
  let s := s.modCtx c fun y => { y with clov := y.clov.filter fun p => p.2 != 2 * recAddr ck i + 1 }
  s.moveIn c ck i

/-- Free records of a core take overflow records that have not moved in when a record freed, at most `n` of them: a page did not
translate then, or the record was a shadow's. -/
def State.fillGo (s : State) (c ck : Nat) : Nat → State
  | 0 => s
  | n + 1 =>
    if (s.ctx c).cloOrder.isEmpty then s
    else match s.freeRec ck with | some i => (s.moveIn c ck i).fillGo c ck n | none => s

/-- The same for every record of a core. -/
def State.fillRecs (s : State) (ck : Nat) : State :=
  match (s.cluster (ck / 8)).owner with
  | none => s
  | some c => s.fillGo c ck 64

/-! ### Instructions, major 0x0E (R280 to R285) -/

/-- Whether a handler operand is wrong (R281 sub 1). -/
def handlerBad (h : Nat) : Bool := h % 2 == 1 || h / 2 ^ 56 != 0

/-- The issuing clause's record: its index and key. -/
def State.myRec (s : State) : Option (Nat × Nat) := s.cur.clauseRec.map fun i => (i, recKeyOf s.cur.coreKey i)

/-- What the hardware keeps of a record that the issuer makes. -/
def State.myInfo (s : State) : RecInfo :=
  { launch := s.cur.launch, ctx := s.cur.ctx, det := s.cur.det && s.cur.launch.isSome, shadow := s.cur.shadow }

/-- ROOT of a record made by a thread or a handler, with the count of R280. -/
def State.newRoot (s : State) : Nat × State :=
  let a := s.cur
  if a.orig = 1 then
    (s.myCore.roots % 1024 * 2 ^ 38 + 0xFFFFFFFF, s.modMyCore fun c => { c with roots := (c.roots + 1) % 1024 })
  else
    let l := a.launch.getD { q := 0, lseq := 0, grp := 0, thr := 0 }
    (a.roots % 1024 * 2 ^ 38 + l.thr % 64 * 2 ^ 32 + l.grp % 2 ^ 32, s.modCur fun x => { x with roots := (x.roots + 1) % 1024 })

/-- R280. -/
def execCnew (d a b la : Nat) (s : State) : Out :=
  let h := s.reg a
  let n := s.reg b
  let ck := s.cur.coreKey
  if handlerBad h then .next (s.trapHere cRANGE 1 h)
  else if n = 0 ∨ 2 ^ 31 ≤ n then .next (s.trapHere cRANGE 1 n)
  else
    let s := s.fillRecs ck
    let make := fun (s : State) (root path : Nat) =>
      match s.freeRec ck with
      | none => (s.retire 4).setRegLa la d 0 0
      | some i =>
        let info := s.myInfo
        let s := s.writeRec (recKeyOf ck i) h n 1 path root 0 []
        ((s.modCore ck fun y => { y with recs := y.recs.put i info }).retire 4).setRegLa la d (recAddr ck i) 0
    match s.myRec with
    | none => let r := s.newRoot; .next (make r.2 r.1 0)
    | some (_, k) =>
      let c := s.recCtl k
      let p := s.recPath k
      if 64 ≤ ctlKids c ∨ 9 ≤ p / 2 ^ 60 then .next (s.trapHere cRANGE 3 p)
      else
        let s := if (s.freeRec ck).isSome then s.setCtl k (setBits c 4 7 (ctlKids c + 1)) else s
        .next (make s (s.recRoot k) (childPath p (ctlKids c)))

/-- R279, R281: a discarded decrement is raised later. -/
def execCdec (a : Nat) (s : State) : Out :=
  match ea (s.reg a) 0 with
  | .error x => .next (s.trapHere cTAGOV 0 x)
  | .ok va =>
    match s.recAddrOk s.me va with
    | .error e => (s.failAcc (α := Unit) s.me 4 aRead e).halt
    | .ok false => .next (s.trapHere cRANGE 0 va)
    | .ok true =>
      match s.decRec s.me va with
      | .error e => (s.failAcc (α := Unit) s.me 4 aWrite e).halt
      | .ok r =>
        let s := r.2.retire 4
        .next (if r.1 then s else s.addLate s.cur.id { code := cRANGE, sub := 6, tval := va, kind := 3, n := 0 })

/-- R287: the core on which a child is placed. -/
def State.childCore (s : State) (path root : Nat) : Nat :=
  if !s.cur.det then s.cur.coreKey
  else
    let c := s.myCtx
    let z := mixZ path (Nat.xor (root % 2 ^ 32) (bits root 32 16))
    let i := z / 2 ^ 32 * c.nCores / 2 ^ 32
    let p := c.clusterList.getD (i / 8) (s.cur.die, s.cur.cluster)
    coreKey p.1 p.2 (i % 8)

/-- Put a new record on a core, or in the overflow area when the core has none free: its address, or none when the area is
full.  What its maker has stored is released at package scope (R288). -/
def State.placeRec (s : State) (ck handler cnt ctl path root conj : Nat) (args : List Nat) : Except AErr (Option (Nat × State)) :=
  let s := s.fillRecs ck
  let info := s.myInfo
  let c := s.cur.ctx
  match s.freeRec ck with
  | some i =>
    let s := (s.writeRec (recKeyOf ck i) handler cnt ctl path root conj args).modCore ck fun y => { y with recs := y.recs.put i info }
    let s := (s.reachRec s.me { key := recKeyOf ck i, ck := ck, i := i, ovf := none } 0 64 0).releaseTo (ptRec (recKeyOf ck i)) 4
    .ok (some (recAddr ck i, if ctlState ctl = 2 then s.enterRing ck i else s))
  | none =>
    match (s.ctx c).clovFree with
    | none => .ok none
    | some j =>
      match s.clovKey c j with
      | .error e => .error e
      | .ok (k, s) =>
        let s := ((s.writeRec k handler cnt ctl path root conj args).disturbKey (fun _ => false) k 64).releaseTo (ptRec k) 4
        .ok (some (((s.ctx c).area 0x30).1 + 64 * j,
          s.modCtx c fun y => { y with clov := y.clov.put j (2 * ck), clovInfo := y.clovInfo.put j info, cloOrder := y.cloOrder ++ [j] }))

/-- The checks that `cspawn`, `cjoin` and `cdone` share; `k` goes on with the issuer's record. -/
def State.inClause (s : State) (k : Nat → Nat → Out) : Out :=
  match s.myRec with
  | some (i, r) => if s.cur.orig = 2 then k i r else .next (s.trapHere cRANGE 2 0)
  | none => .next (s.trapHere cRANGE 2 0)

/-- The conjunction that a child reports to, where it lies (R282): none with no conjunction or none found. -/
def State.findConj (s : State) (conj : Nat) : Except AErr (Option RecPlace × State) :=
  if conj = 0 then .ok (none, s) else s.findRec s.me conj

/-- R282. -/
def execCspawn (w d a b la : Nat) (s : State) : Out :=
  let h := s.reg a
  if handlerBad h then .next (s.trapHere cRANGE 1 h)
  else
    s.inClause fun _ k =>
      let c := s.recCtl k
      let p := s.recPath k
      let n := ctlKids c
      if 64 ≤ n ∨ 9 ≤ p / 2 ^ 60 then .next (s.trapHere cRANGE 3 p)
      else
        let path := childPath p n
        let root := s.recRoot k
        let conj := if ctlHold c then s.recConj k else 0
        match s.findConj conj with
        | .error e => (s.failAcc (α := Unit) s.me 4 aWrite e).halt
        | .ok (j, s) =>
          match s.placeRec (s.childCore path root) h 0 2 path root conj ((List.range w).map fun i => s.reg (b + i)) with
          | .error e => (s.failAcc (α := Unit) s.me 4 aWrite e).halt
          | .ok none => .next (s.trapHere cRANGE 4 p)
          | .ok (some (_, s)) =>
            let s := s.setCtl k (setBits c 4 7 (n + 1))
            let s := match j with | some j => s.putRec j 8 4 (s.recCnt j.key + 1) | none => s
            .next ((s.retire 4).setRegLa la d n 0)

/-- R283. [DEDUCED, notes/assumptions/18.md] -/
def execCjoin (d a b la : Nat) (s : State) : Out :=
  let h := s.reg a
  let ck := s.cur.coreKey
  if handlerBad h then .next (s.trapHere cRANGE 1 h)
  else
    s.inClause fun i k =>
      let c := s.recCtl k
      if ctlHold c then .next (s.trapHere cRANGE 5 (recAddr ck i))
      else
        let ctl := 1 + 8 + ctlKids c * 2 ^ 11
        match s.placeRec ck h 1 ctl (s.recPath k) (s.recRoot k) (s.recConj k) [0, 0, s.reg b] with
        | .error e => (s.failAcc (α := Unit) s.me 4 aWrite e).halt
        | .ok none => .next (s.trapHere cRANGE 4 (s.recPath k))
        | .ok (some (j, s)) =>
          let s := (s.wrN (k + 32) 8 j).setCtl k (setBits c 2 1 1)
          .next ((s.retire 4).setRegLa la d j 0)

/-- The end of `cdone`: the record frees and the clause ends. -/
def State.clauseEnd (s : State) (i : Nat) : State :=
  let a := s.cur
  (s.endCur false).freeClause a.ctx a.coreKey i

/-- The decrement of `cdone`; a discarded one clears HOLD and CONJ and traps (R285). -/
def State.doneDec (s : State) (i k conj : Nat) : Out :=
  match s.decRec s.me conj with
  | .error e => (s.failAcc (α := Unit) s.me 4 aWrite e).halt
  | .ok r =>
    let s := r.2
    if r.1 then .next (s.clauseEnd i)
    else .next (((s.setCtl k (setBits (s.recCtl k) 2 1 0)).wrN (k + 32) 8 0).trapHere cRANGE 6 conj)

/-- R285. -/
def execCdone (a : Nat) (s : State) : Out :=
  s.inClause fun i k =>
    s.ending fun s =>
      let conj := s.recConj k
      if conj = 0 then .next (s.clauseEnd i)
      else if ctlHold (s.recCtl k) then s.doneDec i k conj
      else
        match s.findRec s.me conj with
        | .error e => (s.failAcc (α := Unit) s.me 4 aWrite e).halt
        | .ok (none, s) => s.doneDec i k conj
        | .ok (some j, s) =>
          let slot : Int := (lastChild (s.recPath k) : Int) - ctlBase (s.recCtl j.key)
          let a2 := s.rdN (j.key + 56) 8
          if a2 = 0 then s.doneDec i k conj
          else
            (s.check 4 a2 (8 * slot) 8 8 aWrite).out fun loc s =>
              match s.writeAt s.me loc 8 (s.reg a) aWrite with
              | .error e => (s.failAcc (α := Unit) s.me 4 aWrite e).halt
              | .ok s => s.doneDec i k conj

/-! ### Starts (R284) -/

/-- Whether work of level 1 or above waits for a slot of a core, or a queued message of level 0 (R284). -/
def State.beforeRing (s : State) (core : Nat) : Bool :=
  (s.core core).queue.any (s.msgReady core) || (s.parkedOn core).any fun a => a.resumable && decide (1 ≤ a.pri)

/-- R284: the record at the head of a core's ready ring starts in the lowest free slot, when nothing that goes before it
waits.  The start is an acquire at package scope, which synchronises with the record's maker and its decrements (R288). -/
def execClauseStart (core : Nat) (s : State) : Out :=
  let s := s.fillRecs core
  let k := s.cluster (core / 8)
  let hd := s.rdN (tcmOf core 0x2800) 2
  let i := s.rdN (tcmOf core (0x2804 + 2 * (hd % 64))) 2 % 64
  let r := recKeyOf core i
  let ctl := decide (ctlCluster ≤ core / 8 % 1024)
  match (if ctl then some (FMap.getD (s.core core).recs i {}).ctx else k.owner), s.freeSeat core with
  | some c, some slot =>
    if !(ctl || s.running c) || k.awake != 1 || s.ringCount core == 0 || s.beforeRing core then .next s
    else
      let s := s.wrN (tcmOf core 0x2800) 2 (hd + 1)
      let ctl := s.recCtl r
      if ctlState ctl ≠ 2 then .next s
      else
        let info := FMap.getD (s.core core).recs i {}
        let s := s.setCtl r (setBits ctl 0 2 3)
        let a : Act :=
          { ctx := c, die := core / 8192, cluster := core / 8 % 1024, core := core % 8, slot := slot, wp := wsOf slot,
            level := startLevel core 0, orig := 2, det := info.det, launch := info.launch, clauseRec := some i, shadow := info.shadow,
            hasRoot := s.recRoot r % 2 ^ 32 != 0xFFFFFFFF }
        let id := s.sched.nextAct
        .next ((s.startAct a (s.rdN r 8) (win0 (0x1800 + 64 * i)) 0 0 0).syncAct id [(ptRec r, ptRec r)])
  | _, _ => .next s

/-! ### Trapped activations (24 R451) -/

/-- `tret.frz`: the trap is reported again with the cause FREEZE, and its PC word is kept. -/
def State.reportFreeze (s : State) (id : Nat) : State :=
  s.onAct id fun s =>
    let x := s.ctx s.cur.ctx
    let cause := cFREEZE + 256 * x.reason
    ((s.setWs 0x128 8 cause).setWs 0x130 8 (w64 x.frzval)).trapMessage cause (w64 x.frzval) s.pc

/-- The issuing activation ends by a kill once its commands have ended (10 R255, R275; 12 R299); a clause's record frees
with it (11 R276). [DEDUCED, notes/assumptions/15.md] -/
def State.endKilled (s : State) : State :=
  if s.endWaits then s.modCur fun a => { a with run := .waiting .killed }
  else
    let a := s.cur
    let s := s.endCur true
    match a.clauseRec with
    | some i => s.freeClause a.ctx a.coreKey i
    | none => s

/-- `tret.kill`: a trapped activation ends. -/
def State.killAct (s : State) (id : Nat) : State := s.onAct id State.endKilled

/-- What a `tret` does: 0 resume, 1 kill, 2 freeze report.  For a thread of a group that is swapped out it takes effect
when the group is back (12 R297). -/
def State.tretOp (s : State) (id op : Nat) : State :=
  if (s.act? id).isNone then
    s.modWork fun w =>
      { w with groups := w.groups.map fun g => if g.savedActs.any (·.id == id) then { g with trets := g.trets ++ [(id, op)] } else g }
  else if op = 0 then s.resume id else if op = 1 then s.killAct id else s.reportFreeze id

end Sys2Proof.Machine
end

