-- ==== Sys2Proof/Machine/Home.lean ====
section
/-!
DEFINITION. The home of a line (19 R357 to R364): requests served one at a time in the order of their arrival, the ways of the
snoop filter, and the hold of a range change; and what the links let through (26 R458).  Copies and messages move; memory holds
each line's coherent value.
-/

namespace Sys2Proof.Machine

/-! ### Messages on their way (26 R458) -/

/-- The node that a message comes from and the one that it goes to; none for a peer's line, which leaves the package. -/
def CohMsg.way (m : CohMsg) : Option (Nat × Nat) :=
  let home := if 2 ^ 63 ≤ m.line then m.src else homeOfLine m.line
  if home = 6 then none
  else if m.ev ≤ 3 ∨ m.ev = 11 then some (m.die, home)
  else if m.ev = 9 ∨ m.ev = 10 then some (m.src, m.die)
  else some (home, m.die)

/-- Whether the links let a message through: while one on its way trains or retrains it waits, and one of class req or upd also
where a link is quiesced (26 R458) or a die at an end of its way is not admitted (R470). -/
def State.carries (s : State) (m : CohMsg) : Bool :=
  match m.way with
  | none => true
  | some (a, b) =>
    let held := m.ev ≤ 1 || m.ev == 3 || m.ev == 8
    let off := fun (n : Nat) => n < 4 && (s.die n).dstate != 0
    a == b || (s.pathFor (fun l => if held then l.holds else l.st == 1 || l.st == 3) a b == 0 && !(held && (off a || off b)))

/-- Take the first message of an event at a die and line, if it gets there. -/
def State.takeMsg (s : State) (ev die line : Nat) : Option (CohMsg × State) :=
  match s.coh.msgs.find? fun m => m.ev == ev && m.die == die && m.line == line with
  | none => none
  | some m => if s.carries m then some (m, s.modCoh fun h => { h with msgs := h.msgs.erase m }) else none

/-- Reservations of a die's activations on a line are cancelled (R367). -/
def State.breakResv (s : State) (die line : Nat) : State :=
  s.mapActs fun a => if a.die = die ∧ a.resv.map (·.line) = some line then { a with resv := none } else a

/-- Dirty data reaches the memory device.  A write that reaches the home of a far-tier line whose port is down is discarded
and logged (26 R461): the line then holds what its device held, a free value. -/
def State.wroteBack (s : State) (line : Nat) : State :=
  let lost := inFar (line * 128) && (match s.farPort? (line * 128) with | some p => !(s.link (farLink p)).usable | none => true)
  let s := s.modCoh fun h => { h with stale := h.stale.filter (· != line) }
  if lost then
    let f := s.draw
    (f.2.wrN (line * 128) 128 f.1).log 4 0 0 0 0 (line * 128)
  else s

/-! ### The home (R359, R360, R363, R364) -/

/-- Begin a request at a home: it waits for `acks` answers to the messages it sends; after them ownership is granted, or the request
is served anew. -/
def State.beginReq (s : State) (m : CohMsg) (sends : List CohMsg) (acks : Nat) (grant : Option Bool) : State :=
  s.modCoh fun h =>
    let waiting := (h.busy.get? m.line).elim [] (·.waiting)
    { h with busy := h.busy.put m.line { req := m, acks := acks, grant := grant, waiting := waiting }, msgs := h.msgs ++ sends }

/-- The message of an event to a holder, for a requester. -/
def CohMsg.to (m : CohMsg) (ev die : Nat) : CohMsg := { m with ev := ev, die := die, src := m.die, bytes := [], n := 0 }

/-- The home's answer to a requester. -/
def CohMsg.reply (m : CohMsg) (ev : Nat) (bare : Bool) : CohMsg := { m.to ev m.die with src := homeOfLine m.line, bare := bare }

/-- A request under the protocol in force for its address when its turn comes (R360). -/
def State.inForce (s : State) (m : CohMsg) : CohMsg :=
  if 64 ≤ m.ctx ∨ 2 ^ 63 ≤ m.line then m
  else
    let p := ((s.ctx m.ctx).rangeAt m.va).pid
    { m with pid := p, owner := if 6 ≤ p then m.ctx else 0, ev := if m.ev = 3 ∧ p ≠ 1 ∧ p < 6 then 1 else m.ev }

/-- A requester whose access its home performs keeps nothing of a request under another protocol. -/
def State.noRequest (s : State) (m : CohMsg) : State :=
  match s.coh.copies.get? (m.line * 8 + m.die) with
  | some c => if s.holds c then s else s.setCopy m.die m.line { c with st := 0, pend := [], ready := [] }
  | none => s

/-- Serve a request at a home that is not busy with the line and has room for it. -/
def State.serveLine (s : State) (m₀ : CohMsg) : State :=
  let m := s.inForce m₀
  let all := s.holders m.line
  let others := all.filter fun h => h.1 != m.die
  let home := if 2 ^ 63 ≤ m.line then m.src else homeOfLine m.line
  let recallAll := s.beginReq m (all.map fun h => m.to 7 h.1) all.length none
  if all.any fun h => h.2.pid != m.pid || h.2.owner != m.owner then recallAll
  else if m.pid = 4 ∨ m.pid = 5 ∨ 2 ^ 63 ≤ m.line then
    (let t := s.noRequest m; if m.quiet then t else t.fill home m.line (m.ev != 0))
  else if m.ev = 3 ∨ (m.ev = 1 ∧ m.pid = 1) then
    s.modCoh fun h => { h with msgs := h.msgs ++ others.map fun x => { m with ev := 8, die := x.1, src := m.die } }
  else if m.pid = 3 ∧ m.ev = 1 then (if all.isEmpty then s.noRequest m else recallAll)
  else if m.ev = 0 ∧ m.pid ≠ 2 then
    match others.find? fun h => s.owns h.2 with
    | some o => s.beginReq m [m.to 4 o.1] 0 none
    | none => s.beginReq m [m.reply (if others.isEmpty ∧ m.pid ≠ 1 ∧ m.pid ≠ 3 then 10 else 9) false] 0 none
  else
    let owner := others.find? fun h => s.owns h.2
    let sharers := others.filter fun h => some h.1 != owner.map (·.1)
    let sends := (owner.toList.map fun h => m.to 5 h.1) ++ sharers.map fun h => m.to 6 h.1
    if sharers.isEmpty then s.beginReq m (sends ++ [m.reply 10 owner.isSome]) 0 none
    else s.beginReq m sends sharers.length (some owner.isSome)

/-- A request waits until line `v` gives up its way of the filter (R359): with `v` in a transient state for its end, else
for the back-invalidation that starts now. -/
def State.waitWay (s : State) (v : Nat) (m : CohMsg) : State :=
  let later := (s.coh.busy.get? m.line).elim [] (·.waiting)
  let s := s.modCoh fun h => { h with busy := h.busy.put m.line { req := m, acks := 0, waiting := later } }
  match s.coh.busy.get? v with
  | some b => s.modCoh fun h => { h with busy := h.busy.put v { b with waiting := b.waiting ++ [m] } }
  | none =>
    let e := evictMsg v
    s.modCoh fun h => { h with busy := h.busy.put v { req := e, acks := 1, waiting := [m] }, msgs := h.msgs ++ [e] }

/-- Serve a request at a home that is not busy with the line: one that needs a new entry in a full set waits for a way. -/
def State.homeServe (s : State) (m : CohMsg) : State :=
  match (if (s.inForce m).enters then s.wayVictim m.line else none) with
  | some v => s.waitWay v m
  | none => (s.modCoh fun h => { h with used := h.used.put m.line s.sched.clock }).serveLine m

/-- Serve a request that waited at `line`: one for that line, or one for another line of its set, with those that waited
behind it, which now asks for its way again (R359). -/
def State.serveWaiter (s : State) (line : Nat) (m : CohMsg) : State :=
  if m.line = line then s.homeServe m
  else
    let later := (s.coh.busy.get? m.line).elim [] (·.waiting)
    let t := (s.modCoh fun h => { h with busy := h.busy.del m.line }).homeServe m
    t.modCoh fun h =>
      match h.busy.get? m.line with
      | some b => { h with busy := h.busy.put m.line { b with waiting := b.waiting ++ later } }
      | none => { h with msgs := h.msgs ++ later }

/-- Serve the requests that waited for a line, in their order, until one of them keeps the home busy. -/
def State.serveWaiting (s : State) (line : Nat) : List CohMsg → State
  | [] => s
  | m :: ms =>
    let t := s.serveWaiter line m
    match t.coh.busy.get? line with
    | some b => t.modCoh fun h => { h with busy := h.busy.put line { b with waiting := b.waiting ++ ms } }
    | none => State.serveWaiting t line ms

/-- The request in progress at a line leaves it, and `first` and those that waited are served. -/
def State.leaveLine (s : State) (line : Nat) (first : List CohMsg) : State :=
  match s.coh.busy.get? line with
  | none => s
  | some b => (s.modCoh fun h => { h with busy := h.busy.del line }).serveWaiting line (first ++ b.waiting)

/-- The request in progress at a line has ended. -/
def State.endReq (s : State) (line : Nat) : State := s.leaveLine line []

/-- A request arrives at its home: it waits while the line is in a transient state (R360). -/
def State.homeArrive (s : State) (m : CohMsg) : State :=
  match s.coh.busy.get? m.line with
  | some b => s.modCoh fun h => { h with busy := h.busy.put m.line { b with waiting := b.waiting ++ [m] } }
  | none => s.homeServe m

/-- An answer to a message of the request in progress.  After the last one ownership is granted (R363), or the request is served;
a back-invalidation then ends. -/
def State.answer (s : State) (line : Nat) : State :=
  match s.coh.busy.get? line with
  | none => s
  | some b =>
    if 1 < b.acks then s.modCoh fun h => { h with busy := h.busy.put line { b with acks := b.acks - 1 } }
    else
      match b.grant with
      | some bare => s.modCoh fun h =>
          { h with busy := h.busy.put line { b with acks := 0, grant := none }, msgs := h.msgs ++ [b.req.reply 10 bare] }
      | none => s.leaveLine line (if 4 ≤ b.req.ev then [] else [b.req])

/-! ### Range changes (R379) -/

/-- The homes hold the requests for lines that `p` names, and what the requests being served had sent is withdrawn: they are
served again, in their order, when the hold ends. -/
def State.holdLines (s : State) (p : Nat → Bool) : List (Nat × List CohMsg) × State :=
  let mine := s.coh.busy.filter fun b => p b.1 && !s.waitsWay b.1 b.2
  (mine.map fun b => (b.1, (if b.2.req.ev ≤ 3 then [b.2.req] else []) ++ b.2.waiting),
   s.modCoh fun h =>
     { h with busy := h.busy.filter fun b => !(mine.any (·.1 == b.1))
              msgs := h.msgs.filter fun m => !(p m.line && (m.ev == 2 || decide (4 ≤ m.ev))) })

/-- The hold ends. -/
def State.freeLines (s : State) (hs : List (Nat × List CohMsg)) : State :=
  hs.foldl (fun s h => h.2.foldl (fun s m => if m.line = h.1 then s.homeArrive m else s.serveWaiter h.1 m) s) s

end Sys2Proof.Machine
end

