-- ==== Sys2Proof/Machine/Index.lean ====
section
/-!
DEFINITION. The proximity index (21): the region as the engines read it, distances, the beam search, linking, deletion
and reclamation, the commands of major 0x36 and the forms of major 0x37.
-/

namespace Sys2Proof.Machine

/-! ### Engine programs -/

/-- Why an index program stops: an access that fails (to the region or not), or a record that fails its checks. -/
inductive IErr where
  | acc (e : AErr) (kind : Nat) (region : Bool)
  | corrupt

/-- A program of an index engine. -/
abbrev IM := StateT State (Except IErr)

/-- Read bytes. -/
def imRead (w : Who) (region : Bool) (va n : Nat) : IM Nat := fun s =>
  match s.engRead w (n / 128 + 2) va n with
  | .error e => .error (.acc e aRead region)
  | .ok r => .ok r

/-- Write bytes. -/
def imWrite (w : Who) (region : Bool) (va n v : Nat) : IM Unit := fun s =>
  match s.engWrite w (n / 128 + 2) va n v with
  | .error e => .error (.acc e aWrite region)
  | .ok s => .ok ((), s)

def imCorrupt {α : Type} : IM α := fun _ => .error .corrupt

/-- Change the state beside memory. -/
def imMod (f : State → State) : IM Unit := fun s => .ok ((), f s)

def imGet : IM State := fun s => .ok (s, s)

/-- Programs in turn. -/
def imMap {α β : Type} (f : α → IM β) : List α → IM (List β)
  | [] => pure []
  | a :: t => do
    let b ← f a
    let bs ← imMap f t
    pure (b :: bs)

/-! ### The region (R383 to R386) -/

/-- An index as its template describes it, with the engine that serves it. -/
structure Ix where
  w : Who
  b : Nat
  dim : Nat
  vf : Nat
  metric : Nat
  levels : Nat
  deg : Nat
  efc : Nat
  seed : Nat
  cap : Nat

def Ix.eb (x : Ix) : Nat := if x.vf = 0x0A then 4 else if x.vf = 1 then 1 else 2
def Ix.es (x : Ix) : Nat := 128 * ceilDiv (64 + x.dim * x.eb) 128
def Ix.lb (x : Ix) : Nat := 128 * ceilDiv (16 + 32 * x.deg) 128
def Ix.ea (x : Ix) : Nat := x.b + 0x10000
def Ix.ep (x : Ix) : Nat := x.ea + 65536 * ceilDiv (x.cap * x.es) 65536
def Ix.size (x : Ix) : Nat := x.ep - x.b + 65536 * ceilDiv (3 * x.cap * x.lb) 65536

/-- An index from the 64 bytes of a template (04 R102). -/
def ixOf (w : Who) (b t : Nat) : Ix :=
  let f := fun (o n : Nat) => bits t (8 * o) (8 * n)
  { w := w, b := b, dim := f 0 2, vf := f 2 1, metric := f 3 1, levels := f 4 1, deg := f 5 1, efc := f 6 2, seed := f 8 8, cap := f 16 8 }

/-- Whether a template breaks R102 (status BADT). -/
def Ix.bad (x : Ix) (t : Nat) : Bool :=
  decide (x.dim < 1 ∨ 4096 < x.dim ∨ 2 < x.metric ∨ x.levels < 1 ∨ 8 < x.levels ∨ x.deg < 1 ∨ 64 < x.deg ∨ x.efc < 1
      ∨ 1024 < x.efc ∨ x.cap < 1 ∨ 2 ^ 32 - 1 < x.cap)
    || !(x.vf == 0x0A || x.vf == 0x0B || x.vf == 0x0C || x.vf == 1) || bits t 192 320 != 0

/-- The engine of a region: user level, engine 3, on the die whose stacks hold the control page, or die 0 (R383). -/
def ixWho (c : Nat) (shadow : Option Nat) (b : Nat) : IM Who := fun s =>
  let w : Who := { ctx := c, level := .user, eng := 3, shadow := shadow }
  match s.engAt w b 8 aRead with
  | .error e => .error (.acc e aRead true)
  | .ok (loc, s) => .ok ({ w with die := if loc.kind = 3 then homeOf 0 loc.pa % 4 else 0 }, s)

/-- The die of the engines that serve a region, 0 where its control page does not translate. -/
def State.ixDie (s : State) (c b : Nat) : Nat := match (ixWho c none b).run s with | .ok (w, _) => w.die | .error _ => 0

/-- The descriptor's fields. -/
def Ix.get (x : Ix) (off : Nat) : IM Nat := imRead x.w true (x.b + off) 8
def Ix.put (x : Ix) (off v : Nat) : IM Unit := imWrite x.w true (x.b + off) 8 v

/-- An index at a base with its STATE: 0 free, 1 live, 2 broken (R387).  Of a region that another party has written into, the
engines keep to the template that they know, so that their writes stay inside it (R388). -/
def ixOpen (c : Nat) (shadow : Option Nat) (b : Nat) : IM (Ix × Nat) := do
  let w ← ixWho c shadow b
  let t ← imRead w true b 64
  let ctl ← imRead w true (b + 0x40) 8
  let s ← imGet
  let k := FMap.getD (s.ctx c).indexes b {}
  let x := ixOf w b (if k.foreign && k.tpl != 0 then k.tpl else t)
  let st := if ctl % 4 = 1 ∨ ctl % 4 = 2 then (if k.broken then 2 else ctl % 4) else 0
  if st = 1 ∧ x.bad t then imCorrupt else pure (x, st)

/-! ### Entries and lists (R385, R386) -/

structure Edge where
  tgt : Nat
  add : Nat
  rem : Nat
  loc : Nat                              -- address of its slot

structure Ent where
  slot : Nat
  id : Nat
  lvl : Nat
  ins : Nat
  del : Nat
  pay : Nat
  lists : List Nat
  vec : List Val
  edges : List (List Edge)               -- by level

def noIndex : Nat := 0xFFFFFFFF

/-- An element of a vector as a value (R393). -/
def ixElem (vf v : Nat) : Val := if vf = 1 then intVal (sint v 8) else encVal ((fmtOf? vf).getD fp32) v

/-- The elements of a packed vector. -/
def Ix.vecOf (x : Ix) (raw : Nat) : List Val :=
  (List.range x.dim).map fun i => ixElem x.vf (bits raw (8 * x.eb * i) (8 * x.eb))

/-- The lists of a chain, each with its slots: address of the list, and its edges (empty slots left out). -/
def Ix.chain (x : Ix) : Nat → Nat → IM (List (Nat × List Edge))
  | 0, _ => imCorrupt
  | n + 1, j =>
    if 3 * x.cap ≤ j then imCorrupt
    else do
      let a := x.ep + j * x.lb
      let v ← imRead x.w true a (16 + 32 * x.deg)
      let es := (List.range (2 * x.deg)).filterMap fun k =>
        let o := 8 * (16 + 16 * k)
        if bits v o 32 = noIndex then none
        else some { tgt := bits v o 32, add := bits v (o + 32) 48, rem := bits v (o + 80) 48, loc := a + 16 + 16 * k : Edge }
      if 2 * x.deg < bits v 32 32 ∨ es.any (fun e => decide (x.cap ≤ e.tgt)) then imCorrupt
      else if bits v 0 32 = noIndex then pure [(j, es)]
      else do
        let t ← x.chain n (bits v 0 32)
        pure ((j, es) :: t)

/-- The entry of a slot, none when the slot is not used. -/
def Ix.entry (x : Ix) (npool i : Nat) : IM (Option Ent) := do
  let a := x.ea + i * x.es
  let v ← imRead x.w true a (64 + x.dim * x.eb)
  let f := fun (o n : Nat) => bits v (8 * o) (8 * n)
  if f 5 1 % 2 = 0 then pure none
  else if f 8 8 = 0 ∨ x.levels ≤ f 4 1 then imCorrupt
  else do
    let lists := (List.range (f 4 1 + 1)).map fun l => f (0x20 + 4 * l) 4
    let ch ← imMap (x.chain (npool + 1)) lists
    pure (some { slot := i, id := f 0 4, lvl := f 4 1, ins := f 8 6, del := f 16 6, pay := f 24 8, lists := lists,
                 vec := x.vecOf (v / 2 ^ 512), edges := ch.map fun c => c.flatMap (·.2) })

/-- What the engines know of an index; a region made under an earlier context is read from its records. -/
def Ix.known (x : Ix) : IM Index := do
  let s ← imGet
  match (s.ctx x.w.ctx).indexes.get? x.b with
  | some k => pure k
  | none => do
    let us ← imMap (fun i => do
      let v ← imRead x.w true (x.ea + i * x.es) 64
      if bits v 40 1 = 0 then pure none
      else do
        let ls := (List.range (bits v 32 8 % 8 + 1)).map fun l => bits v (8 * (0x20 + 4 * l)) 32
        let ch ← imMap (x.chain (3 * x.cap + 1)) ls
        pure (some (i, ch.flatMap fun c => c.map (·.1)))) (List.range x.cap)
    let us := us.filterMap id
    let t ← imRead x.w true x.b 64
    pure { size := x.size, tpl := t, slots := us.map (·.1), pool := us.flatMap (·.2) }

/-- Remember what the engines know. -/
def Ix.keep (x : Ix) (k : Index) : IM Unit :=
  imMod fun s => s.modCtx x.w.ctx fun c => { c with indexes := c.indexes.put x.b k }

/-- The whole graph: the entries that have been linked, and not the slots that accepted inserts have reserved (R389, R391). -/
def Ix.graph (x : Ix) (k : Index) : IM (List Ent) := do
  let es ← imMap (x.entry k.pool.length) (k.slots.filter fun i => !k.ops.any fun o => o.ins && o.slot == i)
  pure (es.filterMap id)

/-! ### Snapshots (R392) -/

def Ent.live (e : Ent) (s : Nat) : Bool := decide (e.ins ≤ s) && (e.del == 0 || decide (s < e.del))

/-- The entry point of a snapshot: highest level, then lowest stamp. -/
def entryPoint (s : Nat) : List Ent → Option Ent
  | [] => none
  | e :: t =>
    match entryPoint s t with
    | none => if e.live s then some e else none
    | some f => if e.live s && (decide (f.lvl < e.lvl) || (e.lvl == f.lvl && decide (e.ins < f.ins))) then some e else some f

def findEnt (g : List Ent) (slot : Nat) : Option Ent := g.find? (·.slot == slot)

/-- Insert by a three-part key. -/
def keyBefore (a b : Int × Nat × Nat) : Bool :=
  decide (a.1 < b.1) || (a.1 == b.1 && (decide (a.2.1 < b.2.1) || (a.2.1 == b.2.1 && decide (a.2.2 < b.2.2))))

def rankInsert {α : Type} (x : (Int × Nat × Nat) × α) : List ((Int × Nat × Nat) × α) → List ((Int × Nat × Nat) × α)
  | [] => [x]
  | y :: t => if keyBefore x.1 y.1 then x :: y :: t else y :: rankInsert x t

/-- The edges of an entry at a level that are valid in a snapshot. -/
def validEdges (g : List Ent) (s l : Nat) (e : Ent) : List (Edge × Ent) :=
  (e.edges.getD l []).filterMap fun d =>
    match findEnt g d.tgt with
    | none => none
    | some v => if d.add ≤ s ∧ s < d.rem ∧ v.ins ≤ d.add ∧ v.live s then some (d, v) else none

/-- The targets of an entry at a level, ascending by (ID, INS), each once. -/
def targets (g : List Ent) (s l : Nat) (e : Ent) : List Ent :=
  let vs := (validEdges g s l e).map (·.2)
  let once := vs.foldl (fun (r : List Ent) v => if r.any (·.slot == v.slot) then r else r ++ [v]) []
  (once.foldl (fun r v => rankInsert ((0, v.id, v.ins), v) r) []).map (·.2)

/-! ### Distance (R393, R394) -/

def ixDist (metric : Nat) (q x : List Val) : Nat :=
  let ts := (q.zip x).map fun p =>
    let v := if metric = 0 then (let d := (vAdd false p.1 p.2.negate).1; (vMul d d).1) else (vMul p.1 p.2).1
    some (rto fp32 v).1
  let u := (treeSum fp32 ts).1
  if metric = 0 then (fin fp32 0 0 u).1
  else if metric = 1 then (fin fp32 0 0 u).1 ^^^ 0x80000000
  else (fin fp32 0 0 (rto fp32 (vAdd false (intVal 1) (imgVal fp32 u).negate).1).1).1

/-- A distance as a number that orders as R54 does. -/
def distKey (b : Nat) : Int := if bit b 31 then -((b % 2 ^ 31 : Nat) : Int) else (b % 2 ^ 31 : Nat)

def Ent.key (metric : Nat) (q : List Val) (e : Ent) : Int × Nat × Nat := (distKey (ixDist metric q e.vec), e.id, e.ins)

/-! ### Search (R395 to R397) -/

/-- A search as it stands. -/
structure Beam where
  best : List ((Int × Nat × Nat) × Ent) := []
  opn : List ((Int × Nat × Nat) × Ent) := []
  seen : List Nat := []
  vis : List Ent := []
  visits : Nat := 0
  stop : Bool := false

/-- One target of the entry under expansion. -/
def Beam.visit (m : Nat) (q : List Val) (ef budget : Nat) (b : Beam) (t : Ent) : Beam :=
  if b.stop ∨ b.seen.contains t.slot then b
  else if budget ≠ 0 ∧ b.visits = budget then { b with stop := true }
  else
    let k := t.key m q
    let b := { b with seen := t.slot :: b.seen, visits := b.visits + 1, vis := t :: b.vis }
    let last := (b.best.getLast?.map (·.1)).getD k
    if b.best.length < ef ∨ keyBefore k last then
      let best := rankInsert (k, t) b.best
      let opn := rankInsert (k, t) b.opn
      if ef < best.length then
        let x := (best.getLast?.map (·.2.slot)).getD 0
        { b with best := best.dropLast, opn := opn.filter fun y => y.2.slot != x }
      else { b with best := best, opn := opn }
    else b

/-- Expand open entries until none is left. -/
def Beam.run (g : List Ent) (m : Nat) (q : List Val) (l ef s budget : Nat) : Nat → Beam → Beam
  | 0, b => b
  | n + 1, b =>
    match b.opn with
    | [] => b
    | c :: t =>
      if b.stop then b
      else Beam.run g m q l ef s budget n ((targets g s l c.2).foldl (Beam.visit m q ef budget) { b with opn := t })

/-- R395, from one entry; what earlier levels visited is kept. -/
def beam (g : List Ent) (m : Nat) (q : List Val) (c0 : Ent) (l ef s budget : Nat) (b : Beam) : Beam :=
  let x := (c0.key m q, c0)
  Beam.run g m q l ef s budget (g.length + 1) { b with best := [x], opn := [x], seen := [c0.slot] }

/-- Go down from level `l` to level `lo + 1`, one entry wide. -/
def descend (g : List Ent) (m : Nat) (q : List Val) (s budget lo : Nat) : Nat → Ent × Beam → Ent × Beam
  | 0, r => r
  | l + 1, r =>
    if l + 1 ≤ lo ∨ r.2.stop then r
    else
      let b := beam g m q r.1 (l + 1) 1 s budget r.2
      descend g m q s budget lo l (((b.best.head?.map (·.2)).getD r.1), b)

/-- R396: the candidates, the number of visits and whether the search is complete. -/
def ixSearch (g : List Ent) (m : Nat) (q : List Val) (s ef budget : Nat) (exact : Bool) : List Ent × Nat × Bool :=
  if exact then
    let c := g.filter (·.live s)
    (c, c.length, true)
  else
    match entryPoint s g with
    | none => ([], 0, true)
    | some e =>
      let d := descend g m q s budget 0 e.lvl (e, { vis := [e], visits := 1 })
      if d.2.stop then (d.2.vis, d.2.visits, false)
      else
        let b := beam g m q d.1 0 ef s budget d.2
        (b.vis, b.visits, !b.stop)

/-- R397: the first k ids of the candidates: id, distance and payload. -/
def ixResult (m : Nat) (q : List Val) (k : Nat) (cs : List Ent) : List (Nat × Nat × Nat) :=
  let sorted := cs.foldl (fun r e => if r.any (fun y => y.2.slot == e.slot) then r else rankInsert (e.key m q, e) r) []
  let once := sorted.foldl (fun (r : List Ent) e => if r.any (·.id == e.2.id) then r else r ++ [e.2]) []
  (once.take k).map fun e => (e.id, ixDist m q e.vec, e.pay)

/-- The result array: entries, then the filling of R397. -/
def resultBytes (k : Nat) (rs : List (Nat × Nat × Nat)) : Nat :=
  (List.range k).foldr
    (fun i v =>
      let r := rs.getD i (noIndex, 0x7F800000, 0)
      r.1 + 2 ^ 32 * r.2.1 + 2 ^ 64 * r.2.2 + 2 ^ 128 * v) 0

/-! ### Linking (R398) -/

/-- `prune(b, C, M)`. -/
def prune (m : Nat) (b : List Val) (cs : List Ent) (limit : Nat) : List Ent :=
  let sorted := (cs.foldl (fun r e => rankInsert (e.key m b, e) r) []).map (·.2)
  sorted.foldl
    (fun (kept : List Ent) c =>
      if kept.length < limit ∧ kept.all (fun k => decide (distKey (ixDist m b c.vec) < distKey (ixDist m k.vec c.vec))) then kept ++ [c]
      else kept) []

/-- A change that linking makes: an edge added to a list, or a remove stamp written. -/
inductive LinkOp where
  | add (list tgt : Nat)
  | rem (loc : Nat)

/-- The changes at one level, once the candidates are known. -/
def linkLevel (g : List Ent) (m deg p l : Nat) (e : Ent) (cs : List Ent) : List LinkOp :=
  let ns := prune m e.vec cs deg
  let out := ns.map fun n => LinkOp.add (e.lists.getD l 0) n.slot
  let back := ns.flatMap fun n =>
    let vs := targets g p l n
    if vs.length < deg then [LinkOp.add (n.lists.getD l 0) e.slot]
    else
      let ks := prune m n.vec (vs ++ [e]) deg
      let drop := (validEdges g p l n).filterMap fun d => if ks.any (·.slot == d.2.slot) then none else some (LinkOp.rem d.1.loc)
      drop ++ (if ks.any (·.slot == e.slot) then [LinkOp.add (n.lists.getD l 0) e.slot] else [])
  out ++ back

/-- The levels from l down to 0. -/
def linkDown (g : List Ent) (m deg efc p : Nat) (e : Ent) : Nat → Ent → List LinkOp
  | 0, cur => linkLevel g m deg p 0 e ((beam g m e.vec cur 0 efc p 0 {}).best.map (·.2))
  | l + 1, cur =>
    let cs := (beam g m e.vec cur (l + 1) efc p 0 {}).best.map (·.2)
    linkLevel g m deg p (l + 1) e cs ++ linkDown g m deg efc p e l (cs.headD cur)

/-- R398: every change of an insert. -/
def linkOps (x : Ix) (g : List Ent) (p : Nat) (e : Ent) : List LinkOp :=
  match entryPoint p g with
  | none => []
  | some ep =>
    let d := descend g x.metric e.vec p 0 e.lvl ep.lvl (ep, {})
    linkDown g x.metric x.deg x.efc p e (min e.lvl ep.lvl) d.1

/-- The lowest numbers below a bound that a list does not hold. -/
def lowestFree (used : List Nat) (bound n : Nat) : List Nat := ((List.range bound).filter fun i => !used.contains i).take n

/-- A list as it is allotted: no continuation and no edges. -/
def Ix.clearList (x : Ix) (j : Nat) : IM Unit :=
  let v := (List.range (2 * x.deg)).foldr (fun _ v => (noIndex + 2 ^ 80 * (2 ^ 48 - 1)) + 2 ^ 128 * v) 0
  imWrite x.w true (x.ep + j * x.lb) (16 + 32 * x.deg) (noIndex + 2 ^ 128 * v)

/-- Add an edge to a list, its continuations, or a new continuation; false when the pool is empty. -/
def Ix.addEdge (x : Ix) (k : Index) (j tgt s : Nat) : IM (Bool × Index) := do
  let ch ← x.chain (k.pool.length + 1) j
  let put := fun (l : Nat) (es : List Edge) => do
    let a := x.ep + l * x.lb
    let slot := ((List.range (2 * x.deg)).find? fun i => !(es.any fun e => e.loc == a + 16 + 16 * i)).getD 0
    imWrite x.w true (a + 16 + 16 * slot) 16 (tgt + 2 ^ 32 * s + 2 ^ 80 * (2 ^ 48 - 1))
    imWrite x.w true (a + 4) 4 (es.length + 1)
  match ch.find? fun c => decide (c.2.length < 2 * x.deg) with
  | some c => do
    put c.1 c.2
    pure (true, k)
  | none =>
    match (lowestFree k.pool (3 * x.cap) 1).head?, ch.getLast? with
    | some f, some last => do
      x.clearList f
      imWrite x.w true (x.ep + last.1 * x.lb) 4 f
      put f []
      pure (true, { k with pool := f :: k.pool })
    | _, _ => pure (false, k)

/-- Carry out the changes of an insert; whether every edge was added. -/
def Ix.doLink (x : Ix) (s : Nat) : List LinkOp → Bool → Index → IM (Bool × Index)
  | [], ok, k => pure (ok, k)
  | .rem loc :: t, ok, k => do
    imWrite x.w true (loc + 10) 6 s
    x.doLink s t ok k
  | .add j tgt :: t, ok, k => do
    let r ← x.addEdge k j tgt s
    x.doLink s t (ok && r.1) r.2

/-! ### The descriptor's counts (R384, R387, R400) -/

/-- The commands of a context on all its cores, running or saved. -/
def State.idxCmds (s : State) (c : Nat) : List (Nat × Cmd) :=
  (s.cores.flatMap fun k => (k.2.index.filter (·.ctx == c)).map fun x => (k.1, x))
    ++ ((s.ctx c).savedCores.flatMap fun k => k.2.index.map fun x => (k.1, x))

/-- The words of the hold table. -/
def Ix.holds (x : Ix) : IM (List Nat) := do
  let v ← imRead x.w true (x.b + 0x100) 512
  pure ((List.range 64).map fun i => bits v (64 * i) 64)

/-- Write a descriptor field that has changed. -/
def Ix.set (x : Ix) (off v : Nat) : IM Unit := do
  let old ← x.get off
  if old = v then pure () else x.put off v

/-- The snapshot that a query holds from its acceptance to its completion (R400): a query whose status waits to be written
has not completed. -/
def Cmd.holdsSnap (c : Cmd) (b : Nat) : Option Nat :=
  let x := c.args.getD 2 0
  if c.op ≠ 0 ∨ c.args.getD 0 0 ≠ b then none
  else if c.prog = 1 then some x
  else if 2 ≤ c.prog ∧ bits x 48 8 = 0 then some (x % 2 ^ 48) else none

/-- Renew what follows from the rest: CTL, NLIVE, NSLOT, NLIST and HZ. -/
def Ix.refresh (x : Ix) (k : Index) (nlive : Option Nat) : IM Unit := do
  let w ← x.get 0x50
  let next ← x.get 0x58
  let hs ← x.holds
  let s ← imGet
  let held := (hs.filter fun h => bit h 63).map fun h => h % 2 ^ 48
  let runs := (s.idxCmds x.w.ctx).filterMap fun c => c.2.holdsSnap x.b
  let hz ← x.get 0x78
  let st := if k.broken then 2 else 1
  x.set 0x40 (st + min 255 (next - 1 - w) * 256 + held.length * 65536)
  match nlive with | some n => x.set 0x60 n | none => pure ()
  x.set 0x68 k.slots.length
  x.set 0x70 k.pool.length
  x.set 0x78 (max hz ((held ++ runs).foldl min w))
  x.keep k

/-! ### Acceptance (R389, R390, R403 to R406) -/

/-- Checked reads of a vector at an address, aligned or not, and whether an element is NaN or infinite.
[DESIGN CHOICE, notes/assumptions/52.md] -/
def Ix.readVec (x : Ix) (w : Who) (va : Nat) : IM (Nat × Bool) := do
  let v ← imRead w false (va % 2 ^ 56) (x.dim * x.eb)
  let bad := (x.vecOf v).any fun e => match e with | .fin _ _ _ => false | _ => true
  pure (v, bad)

/-- The level of insert s (R390). -/
def Ix.level (x : Ix) (s : Nat) : Nat :=
  let z := mixZ s (x.seed % 2 ^ 32 ^^^ x.seed / 2 ^ 32)
  min (x.levels - 1) (clzN 64 z / max 1 (if x.deg ≤ 1 then 0 else Nat.log2 (x.deg - 1) + 1))

/-- A free value. -/
def imDraw : IM Nat := fun s => .ok s.draw

/-- An index as a command meets it: one that another party has written into may count as broken (R388).
[DEDUCED, notes/assumptions/32.md] -/
def ixMeet (c : Cmd) : IM (Ix × Nat) := do
  let o ← ixOpen c.ctx c.shadow (c.args.getD 0 0)
  let s ← imGet
  if !(FMap.getD (s.ctx c.ctx).indexes o.1.b {}).foreign then pure o
  else do
    let d ← imDraw
    pure (o.1, if o.2 = 1 ∧ d % 2 = 1 then 2 else o.2)

/-- A word that a region holds, by a free choice. -/
def Ix.anyWord (x : Ix) : IM Nat := do
  let d ← imDraw
  imRead x.w true (x.b + 8 * (d % (x.size / 8))) 8

/-- The results of a query on a region that another party has written into: entries of values held in the region, with a free
count, VIS and COMPLETE (R388). [DEDUCED, notes/assumptions/32.md] -/
def Ix.anyResult (x : Ix) (k : Nat) : IM (List (Nat × Nat × Nat) × Nat × Bool) := do
  let n ← imDraw
  let rs ← imMap (fun (_ : Nat) => do
    let i ← x.anyWord
    let d ← x.anyWord
    let p ← x.anyWord
    pure (i % 2 ^ 32, d % 2 ^ 32, p)) (List.range (n % (k + 1)))
  let v ← imDraw
  let f ← imDraw
  pure (rs, v % 2 ^ 64, f % 2 == 1)

/-- What acceptance comes to: a refusal with its status word, or an accepted command. -/
inductive Accept where
  | refused (stat : Nat)
  | accepted (args : List Nat)

/-- Accept an insert or a delete. -/
def acceptUpdate (ck : Nat) (c : Cmd) (ins : Bool) : IM Accept := do
  let w := c.who 3
  let rec_ := c.args.getD 1 0
  let r ← imRead w false rec_ (if ins then 24 else 4)
  let id := if ins then r % 2 ^ 64 else r
  if noIndex ≤ id then pure (.refused (3 * 2 ^ 56))
  else do
    let o ← ixMeet c
    let x := o.1
    if o.2 = 0 then pure (.refused (4 * 2 ^ 56))
    else if o.2 = 2 then pure (.refused (5 * 2 ^ 56))
    else do
      let vec ← if ins then x.readVec w (bits r 128 64) else pure (0, false)
      let s ← x.get 0x58
      let k ← x.known
      let lvl := x.level s
      let slot := (lowestFree k.slots x.cap 1).head?
      let lists := lowestFree k.pool (3 * x.cap) (lvl + 1)
      if vec.2 then pure (.refused (2 * 2 ^ 56))
      else if 2 ^ 48 - 1 ≤ s then pure (.refused (6 * 2 ^ 56))
      else if ins ∧ (slot.isNone ∨ lists.length < lvl + 1) then pure (.refused (1 * 2 ^ 56))
      else do
        let op : IdxOp :=
          if ins then { seq := s, ins := true, slot := slot.getD 0, level := lvl, lists := lists, ident := id, pay := bits r 64 64,
                        vec := [vec.1], core := ck, n := c.n }
          else { seq := s, ins := false, ident := id, core := ck, n := c.n }
        let k := { k with size := x.size, ops := k.ops ++ [op]
                          slots := if ins then op.slot :: k.slots else k.slots
                          pool := if ins then lists ++ k.pool else k.pool }
        let _ ← imMap x.clearList (if ins then lists else [])
        if ins then imWrite x.w true (x.ea + op.slot * x.es + 5) 3 0 else pure ()
        x.put 0x58 (s + 1)
        x.refresh k none
        pure (.accepted (c.args ++ [s]))

/-- The fields of a query record that R404 reserves. -/
def queryBad (ctl budget : Nat) : Bool :=
  bits ctl 48 16 != 0 || bits ctl 18 14 != 0 || bits ctl 11 5 != 0 || decide (2 ^ 32 ≤ budget) || decide (4096 < bits ctl 32 16)

/-- Accept a query: its snapshot is fixed and held. -/
def acceptQuery (c : Cmd) : IM Accept := do
  let w := c.who 3
  let r ← imRead w false (c.args.getD 1 0) 40
  let f := fun (i : Nat) => bits r (64 * i) 64
  let ctl := f 1
  let o ← ixMeet c
  let x := o.1
  if o.2 = 0 then pure (.refused (4 * 2 ^ 48))
  else if o.2 = 2 then pure (.refused (5 * 2 ^ 48))
  else if queryBad ctl (f 3) ∨ (c.det ∧ c.launch.isSome ∧ !bit ctl 17) then pure (.refused (7 * 2 ^ 48))
  else do
    let wm ← x.get 0x50
    let hs ← x.holds
    let h := hs.getD (bits (f 2) 48 15) 0
    if bit ctl 17 ∧ (!bit h 63 ∨ h % 2 ^ 48 ≠ f 2 % 2 ^ 48 ∨ 64 ≤ bits (f 2) 48 15 ∨ !bit (f 2) 63) then pure (.refused (8 * 2 ^ 48))
    else do
      let v ← x.readVec w (f 0)
      let s := if bit ctl 17 then f 2 % 2 ^ 48 else wm
      if v.2 then pure (.refused (2 * 2 ^ 48)) else pure (.accepted (c.args ++ [s, ctl, f 3, f 4, v.1]))

/-! ### Results of commands (R403 to R405) -/

/-- Write a command's status, which its arguments hold: [B, record, status word, NDEL]. -/
def writeStat (c : Cmd) : IM Unit :=
  let g := fun (i : Nat) => c.args.getD i 0
  let w := c.who 3
  if c.op = 0 then imWrite w false (g 1 + 0x28) 24 (g 2)
  else if c.op = 1 then imWrite w false (g 1 + 0x18) 8 (g 2)
  else imWrite w false (g 1 + 4) 12 (g 3 + 2 ^ 32 * g 2)

/-- Run a state change with a switched-out context's saved core and activations in place of the live ones (R409). -/
def State.asSaved (s : State) (c ck : Nat) (f : State → State) : State :=
  if (s.ctx c).st ≠ 4 then f s
  else
    let live := s.core ck
    let saved := ((s.ctx c).savedCores.find? fun k => k.1 == ck).map (·.2)
    let acts := s.acts
    let mine := (s.ctx c).savedActs
    let s := (s.modCore ck fun _ => saved.getD {}).setActs (mine.foldl (fun m a => FMap.put m a.id a) acts)
    let s := f s
    let k := s.core ck
    let back := mine.map fun a => (s.acts.get? a.id).getD a
    let s := (s.modCore ck fun _ => live).setActs acts
    s.modCtx c fun x => { x with savedActs := back, savedCores := x.savedCores.map fun y => if y.1 = ck then (ck, k) else y }

/-- A live index becomes broken (R387). -/
def State.breakIndex (s : State) (c b : Nat) : State :=
  let s := s.modCtx c fun x => { x with indexes := x.indexes.put b { (FMap.getD x.indexes b {}) with broken := true } }
  let w : Who := { ctx := c, level := .user, eng := 3, die := s.ixDie c b }
  match s.engRead w 2 (b + 0x40) 8 with
  | .error _ => s
  | .ok (v, s) =>
    match s.engWrite w 2 (b + 0x40) 8 (setBits v 0 2 2) with
    | .error _ => s
    | .ok s => s

/-- What a program's failure does to the command it serves; a shadow's ends the shadow and breaks no index (17 R349). -/
def State.idxFail (s : State) (ck : Nat) (c : Cmd) (e : IErr) : State :=
  match e, c.shadow with
  | .acc e kind _, _ => s.failCmd ck 2 3 kind c 0 e
  | .corrupt, some q => s.discardShadow q 8
  | .corrupt, none => s.breakIndex c.ctx (c.args.getD 0 0)

/-- After a query its implicit hold is gone, and the horizon may rise. -/
def releaseQuery (c b : Nat) : IM Unit := do
  let o ← ixOpen c none b
  if o.2 = 1 then do
    let k ← o.1.known
    o.1.refresh k none
  else pure ()

/-- A command whose status is known writes it and ends, once its posted writes are acknowledged (26 R464); a query's hold goes
with it (R400). [DEDUCED, notes/assumptions/32.md, 38.md] -/
def State.finishIdx (s : State) (ck : Nat) (c : Cmd) : State :=
  match (if c.prog = 3 then .ok ((), s) else (writeStat c).run s) with
  | .error e => s.idxFail ck c e
  | .ok (_, s) =>
    let a := s.cmdAcked ck 2 c.n
    if !a.1 then a.2.modCmd ck 2 c.n fun d => { d with prog := 3 }
    else
    let s := a.2.endCmd ck 2 c none 0
    if c.op ≠ 0 ∨ c.shadow.isSome then s
    else
      match (releaseQuery c.ctx (c.args.getD 0 0)).run s with
      | .ok (_, s) => s
      | .error _ => s

/-- R389, R404: the acceptance of a command, or its refusal; a command whose status waits to be written writes it.
[DEDUCED, notes/assumptions/32.md] -/
def execIndexAccept (core seq : Nat) (s : State) : Out :=
  match s.cmd? core 2 seq with
  | none => .next s
  | some c =>
    let before := (s.core core).index.any fun d => d.op != 0 && d.prog == 0 && decide (d.n < c.n)
    if c.grp.isSome || !s.running c.ctx || c.prog == 1 || (c.prog == 0 && c.op != 0 && before) then .next s
    else if 2 ≤ c.prog then
      .next (match c.lost with
        | some va => s.loseCmd core 2 c 0 va
        | none => s.finishIdx core c)
    else
      match (if c.op = 0 then acceptQuery c else acceptUpdate core c (c.op == 1)).run s with
      | .error e => .next (s.idxFail core c e)
      | .ok (.refused st, s) =>
        let c := { c with prog := 2, args := c.args.take 2 ++ [st, 0] }
        .next ((s.modCmd core 2 seq fun _ => c).finishIdx core c)
      | .ok (.accepted args, s) => .next (s.modCmd core 2 seq fun _ => { c with prog := 1, args := args })

/-! ### Application (R391, R398, R399) -/

/-- Apply one operation; its status and NDEL. -/
def applyOp (c : Nat) (b : Nat) (op : IdxOp) : IM (Nat × Nat) := do
  let o ← ixOpen c none b
  let x := o.1
  let k ← x.known
  if o.2 ≠ 1 then do
    x.keep { k with ops := k.ops.filter (·.seq != op.seq) }
    pure (5, 0)
  else do
    let g ← x.graph k
    let s := op.seq
    let k := { k with ops := k.ops.filter (·.seq != s) }
    let nlive := (g.filter (·.live (s - 1))).length
    if op.ins then do
      let e : Ent := { slot := op.slot, id := op.ident, lvl := op.level, ins := s, del := 0, pay := op.pay, lists := op.lists,
                       vec := x.vecOf (op.vec.getD 0 0), edges := [] }
      let r ← x.doLink s (linkOps x g (s - 1) e) true k
      let lists := (List.range 8).foldr (fun l v => op.lists.getD l noIndex + 2 ^ 32 * v) 0
      imWrite x.w true (x.ea + op.slot * x.es) (64 + x.dim * x.eb)
        (op.ident + 2 ^ 32 * op.level + 2 ^ 40 + 2 ^ 64 * s + 2 ^ 192 * op.pay + 2 ^ 256 * lists + 2 ^ 512 * op.vec.getD 0 0)
      x.put 0x50 s
      x.refresh r.2 (some (nlive + 1))
      pure (if r.1 then 0 else 12, 0)
    else do
      let hit := g.filter fun e => e.id == op.ident && e.live (s - 1)
      let _ ← imMap (fun e => imWrite x.w true (x.ea + e.slot * x.es + 16) 8 s) hit
      x.put 0x50 s
      x.refresh k (some (nlive - hit.length))
      pure (0, hit.length)

/-- What a failed access does that serves no command: a fault is reported and replayed as an engine fault, an error reply freezes
the context, and a record that fails its checks breaks the index (R383, R387, 23 R424). -/
def State.idxFault (s : State) (ctx base : Nat) (e : IErr) : State :=
  match e with
  | .corrupt => s.breakIndex ctx base
  | .acc (.xlat cause level a) kind _ =>
    let w : Who := { ctx := ctx, level := .user, eng := 3, die := s.ixDie ctx base }
    if 512 ≤ s.replayHeld w.die then s
    else
      let g := s.openGroup ctx
      let s := g.2.faultRecords w w.place g.1 kind [(cause, level, a)] []
      s.modCtx ctx fun y =>
        { y with parked := y.parked ++ [{ grp := g.1, who := 9, id := base, cause := cause, addr := a, die := w.die }]
                 indexes := y.indexes.put base { (FMap.getD y.indexes base {}) with recl := some g.1 } }
  | .acc (.data sub a) _ _ => (s.log 1 sub ctx (s.ixDie ctx base) 0 a).freeze ctx 2 a
  | .acc _ _ _ => s

/-- R391: the next accepted operation of an index is applied; it goes on while the context is switched out, and stops
while it is frozen (R409).  An operation of a broken index ends with BROKEN at once, though a replay of its command is awaited
(R405). [DEDUCED, notes/assumptions/32.md] -/
def execIndexApply (ctx base : Nat) (s : State) : Out :=
  let k := FMap.getD (s.ctx ctx).indexes base {}
  match k.ops with
  | [] => .next s
  | op :: _ =>
    let cmd := (s.idxCmds ctx).find? fun c => c.1 == op.core && c.2.n == op.n
    let parked := !k.broken && (match cmd with | some c => c.2.grp.isSome | none => k.recl.isSome)
    if parked || !((s.ctx ctx).st == 3 || (s.ctx ctx).st == 4) then .next s
    else
      match (applyOp ctx base op).run s with
      | .error e => .next (match cmd with
          | some c => s.asSaved ctx op.core fun s => s.idxFail op.core c.2 e
          | none => s.idxFault ctx base e)
      | .ok (r, s) =>
        .next (match cmd with
          | none => s
          | some c =>
            let d := { c.2 with prog := 2, grp := none, args := c.2.args.take 2 ++ [r.1 * 2 ^ 56 + op.seq, r.2] }
            s.asSaved ctx op.core fun s => (s.modCmd op.core 2 op.n fun _ => d).finishIdx op.core d)

/-! ### Queries (R396, R397, R405) -/

/-- The run of an accepted query: [B, record, S, CTL, BUDGET, RES, vector].
[DESIGN CHOICE, notes/assumptions/52.md] -/
def runQuery (c : Cmd) : IM Nat := do
  let g := fun (i : Nat) => c.args.getD i 0
  let w := c.who 3
  let o ← ixOpen c.ctx c.shadow (g 0)
  let x := o.1
  if o.2 ≠ 1 then pure (5 * 2 ^ 48 + g 2)
  else do
    let kn ← x.known
    let gr ← x.graph kn
    let q := x.vecOf (g 6)
    let k := g 3 % 2 ^ 11 + 1
    let ef := bits (g 3) 32 16
    let r := ixSearch gr x.metric q (g 2) (max k (if ef = 0 then x.efc else ef)) (g 4) (bit (g 3) 16)
    let r ← if kn.foreign then x.anyResult k else pure (ixResult x.metric q k r.1, r.2)
    imWrite w false (g 5 % 2 ^ 56) (16 * k) (resultBytes k r.1)
    pure (g 2 + b2n r.2.2 * 2 ^ 56 + 2 ^ 64 * r.2.1 + 2 ^ 128 * r.1.length)

/-- R405: an accepted query completes. -/
def execNloadComplete (core seq : Nat) (s : State) : Out :=
  match s.cmd? core 2 seq with
  | none => .next s
  | some c =>
    if c.grp.isSome || !s.running c.ctx || c.op != 0 || c.prog != 1 then .next s
    else
      match (runQuery c).run s with
      | .error e => .next (s.idxFail core c e)
      | .ok (st, s) =>
        let d := { c with prog := 2, args := c.args.take 2 ++ [st, 0] }
        .next ((s.modCmd core 2 seq fun _ => d).finishIdx core d)

/-! ### Reclamation (R400) -/

/-- Free every edge, entry and list that the horizon lets go. -/
def reclaim (c b : Nat) : IM Unit := do
  let o ← ixOpen c none b
  let x := o.1
  if o.2 ≠ 1 then pure ()
  else do
    let k ← x.known
    x.refresh k none
    let hz ← x.get 0x78
    let g ← x.graph k
    let gone := g.filter fun e => e.del != 0 && decide (e.del ≤ hz)
    let dead := fun (e : Ent) => gone.any (·.slot == e.slot)
    let freed ← imMap (fun (e : Ent) => do
      let ch ← imMap (x.chain (k.pool.length + 1)) e.lists
      imWrite x.w true (x.ea + e.slot * x.es + 5) 1 0
      pure (ch.flatMap fun l => l.map (·.1))) gone
    let freed := freed.flatMap id
    let _ ← imMap (fun (e : Ent) =>
      imMap (fun j => do
        let ch ← x.chain (k.pool.length + 1) j
        imMap (fun (l : Nat × List Edge) => do
          let bad := l.2.filter fun d =>
            decide (d.rem ≤ hz) || (match findEnt g d.tgt with
              | none => !k.ops.any (fun o => o.ins && o.slot == d.tgt)
              | some v => decide (d.add < v.ins) || (v.del != 0 && decide (v.del ≤ hz)))
          let _ ← imMap (fun (d : Edge) => imWrite x.w true d.loc 4 noIndex) bad
          if bad.isEmpty then pure () else imWrite x.w true (x.ep + l.1 * x.lb + 4) 4 (l.2.length - bad.length)) ch) e.lists)
      (g.filter fun e => !dead e)
    x.refresh { k with slots := k.slots.filter (fun i => !gone.any (·.slot == i)), pool := k.pool.filter fun j => !freed.contains j } none

/-- R400: the engines reclaim what the horizon frees; a fault is reported and replayed as an engine fault (R383). -/
def execIndexReclaim (ctx base : Nat) (s : State) : Out :=
  let k := FMap.getD (s.ctx ctx).indexes base {}
  if !((s.ctx ctx).st == 3 || (s.ctx ctx).st == 4) || k.recl.isSome || k.broken || ((s.ctx ctx).indexes.get? base).isNone then .next s
  else
    match (reclaim ctx base).run s with
    | .ok (_, s) => .next s
    | .error e => .next (s.idxFault ctx base e)

/-! ### Issue, major 0x36 (R401, R402) -/

/-- The checks of R402 on an index form: B and a record address, then the command. -/
def State.issueIdx (s : State) (d a b q op align : Nat) : Out :=
  let base := s.reg a % 2 ^ 56
  let r := s.reg b % 2 ^ 56
  if s.cur.shadow.isSome ∧ op ≠ 0 then .next s.impure
  else if 16 ≤ s.myCore.index.length then .next s
  else if base % 65536 ≠ 0 then .next (s.trapHere cALIGN 0 base)
  else if r % align ≠ 0 then .next (s.trapHere cALIGN 0 r)
  else if op ≠ 0 ∧ s.cur.det ∧ s.cur.launch.isSome then .next (s.trapHere cRANGE 2 (s.reg a))
  else s.enqueue 2 d (s.newCmd 2 op q [base, r])

/-- R396, R401. -/
def execNload (d a b q la : Nat) (s : State) : Out := let _ := la; s.issueIdx d a b q 0 64
/-- R389, R401. -/
def execNstore (d a b q la : Nat) (s : State) : Out := let _ := la; s.issueIdx d a b q 1 32
/-- R399, R401. -/
def execNdel (d a b q la : Nat) (s : State) : Out := let _ := la; s.issueIdx d a b q 2 16

/-! ### Major 0x37 (R407) -/

/-- The end of a form of major 0x37: its value is written under its window.  A failed access waits for its replay at the
issuing thread (DEDUCED, notes/assumptions/31.md).  A shadow that meets a corrupt record ends, and breaks no index (17 R349). -/
def State.idxForm (s : State) (d la base : Nat) (p : IM Nat) : Out :=
  match p.run s with
  | .ok (v, s) => .next ((s.retire 4).setRegLa la d v 0)
  | .error .corrupt => .next (match s.cur.shadow with | some q => s.discardShadow q 8 | none => s.breakIndex s.cur.ctx base)
  | .error (.acc e kind region) =>
    (s.failAcc (α := Unit) { s.me with eng := 3, slot := 0, level := if region then .user else s.cur.level } 4 kind e).halt

/-- The check of B that every form makes. -/
def State.withBase (s : State) (a : Nat) (k : Nat → Out) : Out :=
  let base := s.reg a % 2 ^ 56
  if base % 65536 ≠ 0 then .next (s.trapHere cALIGN 0 base) else k base

/-- Whether a failed access says that a page is not mapped as R383 asks. -/
def AErr.unmapped : AErr → Bool
  | .xlat c _ _ => c == 1 || c == 2 || c == 5
  | _ => false

/-- Whether every page of a region is mapped and ranged as R383 asks; and the physical pages of those that are.  An access that
fails for another reason, a link that retrains among them, is a failed access of the form. -/
def ixMapOk (x : Ix) : List Nat → IM (Bool × List Nat)
  | [] => pure (true, [])
  | i :: t => fun s =>
    let va := x.b + 65536 * i
    match s.translate { x.w with shadow := none } va 1 aAtomic with
    | (.error e, s) => if e.unmapped then .ok ((false, []), s) else .error (.acc e aAtomic true)
    | (.ok loc, s) =>
      let want := if 0x10000 ≤ 65536 * i ∧ va < x.ep then 3 else 0
      if loc.det || loc.pid != want || decide (loc.tier ≥ 2) then .ok ((false, []), s)
      else (ixMapOk x t).run s |>.map fun r => ((r.1.1, loc.key / 65536 :: r.1.2), r.2)

/-- The state word of a region, 0 where its control page is not mapped. -/
def ixCtl (x : Ix) : IM Nat := fun s =>
  match (imRead x.w true (x.b + 0x40) 8).run s with
  | .error (.acc e k r) => if e.unmapped then .ok (0, s) else .error (.acc e k r)
  | r => r

/-- R407: `ninit`. -/
def initIx (c : Nat) (w : Who) (b tpl : Nat) : IM Nat := do
  let t ← imRead w false tpl 64
  let x := ixOf { ctx := c, level := .user, eng := 3, die := w.die } b t
  if x.bad t then pure 9
  else if bits b 52 4 = 15 then pure 10
  else do
    let v ← ixCtl x
    if v % 4 = 1 ∨ v % 4 = 2 then pure 4
    else do
      let m ← ixMapOk x (List.range (x.size / 65536))
      if !m.1 then pure 10
      else do
        let w ← ixWho c none b
        let x := { x with w := w }
        imWrite x.w true b 256 (t + 2 ^ 512 * (1 + 2 ^ 64 * (x.es + 2 ^ 32 * x.lb) + 2 ^ 192 * 1))
        imWrite x.w true (b + 0x100) 512 0
        x.keep { size := x.size, tpl := t, frames := m.2 }
        pure 0

/-- R407. -/
def execNinit (d a b la : Nat) (s : State) : Out :=
  if s.cur.shadow.isSome then .next s.impure
  else
    s.withBase a fun base =>
      let t := s.reg b % 2 ^ 56
      if t % 64 ≠ 0 then .next (s.trapHere cALIGN 0 t)
      else s.idxForm d la base (initIx s.cur.ctx { s.me with eng := 3, slot := 0 } base t)

/-- Take the lowest free hold at the watermark. -/
def takeHold (c b : Nat) : IM Nat := do
  let o ← ixOpen c none b
  let x := o.1
  if o.2 ≠ 1 then pure 0
  else do
    let hs ← x.holds
    match (List.range 64).find? fun i => !bit (hs.getD i 0) 63 with
    | none => pure 0
    | some i => do
      let w ← x.get 0x50
      imWrite x.w true (b + 0x100 + 8 * i) 8 (2 ^ 63 + w)
      let k ← x.known
      x.refresh k none
      pure (2 ^ 63 + i * 2 ^ 48 + w)

/-- R407. -/
def execNsnap (d a la : Nat) (s : State) : Out :=
  if s.cur.shadow.isSome then .next s.impure
  else s.withBase a fun base => s.idxForm d la base (takeHold s.cur.ctx base)

/-- Release the hold that a handle names. -/
def dropHold (c b h : Nat) : IM Nat := do
  let o ← ixOpen c none b
  let x := o.1
  if o.2 = 0 then pure 0
  else do
    let hs ← x.holds
    let i := bits h 48 15
    if 64 ≤ i ∨ !bit h 63 ∨ hs.getD i 0 ≠ 2 ^ 63 + h % 2 ^ 48 then pure 0
    else do
      imWrite x.w true (b + 0x100 + 8 * i) 8 0
      let k ← x.known
      x.refresh { k with broken := k.broken || o.2 == 2 } none
      pure 1

/-- R407. -/
def execNsnapRel (d a b la : Nat) (s : State) : Out :=
  if s.cur.shadow.isSome then .next s.impure
  else s.withBase a fun base => s.idxForm d la base (dropHold s.cur.ctx base (s.reg b))

/-- Release every hold of an index (24 R446). -/
def dropHolds (c b : Nat) : IM Unit := do
  let o ← ixOpen c none b
  if o.2 = 0 then pure ()
  else do
    imWrite o.1.w true (b + 0x100) 512 0
    let k ← o.1.known
    o.1.refresh { k with broken := k.broken || o.2 == 2 } none

/-- Free an index without holds or commands. -/
def freeIx (c b : Nat) : IM Nat := do
  let o ← ixOpen c none b
  let x := o.1
  if o.2 = 0 then pure 4
  else do
    let hs ← x.holds
    let s ← imGet
    if hs.any (fun h => bit h 63) || (s.idxCmds c).any (fun k => k.2.args.getD 0 0 == b) then pure 11
    else do
      let v ← x.get 0x40
      x.put 0x40 (setBits v 0 2 0)
      imMod fun s => s.modCtx c fun y => { y with indexes := y.indexes.del b }
      pure 0

/-- R407. -/
def execNfree (d a la : Nat) (s : State) : Out :=
  if s.cur.shadow.isSome then .next s.impure
  else s.withBase a fun base => s.idxForm d la base (freeIx s.cur.ctx base)

/-- Read a field of the descriptor: W, NEXT, the state word, NLIVE or HZ; 0 for a free index. -/
def statIx (c : Nat) (shadow : Option Nat) (b q : Nat) : IM Nat := do
  let o ← ixOpen c shadow b
  if o.2 = 0 then pure 0
  else if q = 0 then o.1.get 0x50 else if q = 1 then o.1.get 0x58
  else if q = 2 then do
    let v ← o.1.get 0x40
    pure (setBits v 0 2 o.2)
  else if q = 3 then o.1.get 0x60 else o.1.get 0x78

/-- R407. -/
def execNstat (d a q la : Nat) (s : State) : Out :=
  s.withBase a fun base => s.idxForm d la base (statIx s.cur.ctx s.cur.shadow base q)

end Sys2Proof.Machine
end

