-- ==== Sys2Proof/Machine/Pipe.lean ====
section
/-!
DEFINITION. Pipes (15 R317 to R328): the slots of a phrase instance, and the instructions of major 0x35.
-/

namespace Sys2Proof.Machine

/-- The window-1 address of a slot (R317). -/
def Pipe.addr (p : Pipe) (k : Nat) : Nat := p.base + k * p.slotb

/-- What an attempt to take the next slot comes to (R323). -/
inductive Take where
  | zero                                 -- abandoned, or closed and drained: 0 is written
  | wait
  | slot (k : Nat)
deriving DecidableEq, Repr

/-- The next slot of a producer or a consumer. -/
def Pipe.next (p : Pipe) (producer : Bool) : Take :=
  if producer then
    if p.abandoned then .zero else if p.st.getD p.pc 0 = 0 then .slot p.pc else .wait
  else if p.closed ∧ p.st.getD p.cc 0 = 0 then .zero
  else if p.st.getD p.cc 0 = 3 then .slot p.cc else .wait

/-- The pipe with its next slot taken, and the cursor advanced: filling, filling by a copy, or draining. -/
def Pipe.taken (p : Pipe) (producer copy : Bool) : Pipe :=
  if producer then { p with st := p.st.set p.pc (if copy then 2 else 1), pc := (p.pc + 1) % max 1 p.slots }
  else { p with st := p.st.set p.cc 4, cc := (p.cc + 1) % max 1 p.slots }

def State.setPipe (s : State) (key : Nat) (p : Pipe) : State := s.modWork fun w => { w with pipes := w.pipes.put key p }

/-- Issue the copy of a `pfill` into slot k (R325). -/
def State.startFill (s : State) (d q key src count : Nat) (p : Pipe) (k : Nat) : State :=
  let c := s.newCmd 0 3 q [p.addr k, src, count, key, k]
  let s := s.modMyCore fun x => (x.issue 0).setCmds 0 (x.copies ++ [c])
  (s.retire 4).setReg d c.n 0

/-- An acquisition by the issuing activation ends with the value of d. -/
def State.endTake (s : State) (d v : Nat) : State := ((s.retire 4).setReg d v 0).goOn

/-- The issuer takes what its `pacq` came to: a slot with the acquire at cluster scope, which synchronises with the release that
brought the slot into its state (R326). -/
def State.pacqGot (s : State) (d key : Nat) (producer : Bool) (p : Pipe) : Take → State
  | .zero => s.endTake d 0
  | .wait => s
  | .slot k => ((s.setPipe key (p.taken producer false)).endTake d (p.addr k)).syncAt [(ptSlot key k, ptSlot key k)] 2

/-- The issuer takes what its `pfill` came to; the copy is issued when the copy engine has room (07 R187). -/
def State.pfillGot (s : State) (d q key src count : Nat) (p : Pipe) : Take → State
  | .zero => s.endTake d 0
  | .wait => s
  | .slot k =>
    if 32 ≤ s.myCore.copies.length then s
    else ((s.setPipe key (p.taken true true)).goOn).startFill d q key src count p k

/-- The order in which an activation began to wait on a cursor of a pipe: by the clock, then by core and slot (R323). -/
def Act.pipeWait (p : Pipe) (key : Nat) (producer : Bool) (a : Act) : Option (Nat × Nat) :=
  let mine := (a.launch.map fun l => l.kern == p.fromK) == some producer
  let at_ := fun (o : Nat) => (o * 64 + a.core * 8 + a.slot, a.id)
  match a.run with
  | .waiting (.pacq _ k o) => if k = key ∧ mine then some (at_ o) else none
  | .waiting (.pfill _ k _ _ _ o) => if k = key ∧ mine then some (at_ o) else none
  | _ => none

/-- The waiter that is served first. -/
def firstWait : List (Nat × Nat) → Option (Nat × Nat)
  | [] => none
  | x :: t =>
    match firstWait t with
    | none => some x
    | some y => if x.1 ≤ y.1 then some x else some y

/-- Serve the first waiter of a cursor, if its wait can end. [DEDUCED, notes/assumptions/27.md] -/
def State.serveOne (s : State) (key : Nat) (producer : Bool) : State :=
  match s.work.pipes.get? key with
  | none => s
  | some p =>
    match firstWait (s.allActs.filterMap (Act.pipeWait p key producer)) with
    | none => s
    | some w =>
      s.onAct w.2 fun s =>
        match s.cur.run with
        | .waiting (.pacq d _ _) => s.pacqGot d key producer p (p.next producer)
        | .waiting (.pfill d _ src count q _) => s.pfillGot d q key src count p (p.next producer)
        | _ => s

/-- Serve the waiters of a pipe in order, as far as its slots allow (R323). -/
def State.servePipe (s : State) (key : Nat) : Nat → State
  | 0 => s
  | n + 1 => State.servePipe ((s.serveOne key true).serveOne key false) key n

/-- Enough rounds to serve every waiter. [DEDUCED, notes/assumptions/27.md] -/
def State.serve (s : State) (key : Nat) : State := s.servePipe key (s.allActs.length)

/-- The checks of R324 that all forms share, in their order: the pipe, its key and whether the issuer is a producer.
`sub34` gives the check of `prel` or `pfill` in between. [DEDUCED, notes/assumptions/27.md] -/
def State.withPipe (s : State) (a : Nat) (fill : Bool) (sub34 : Pipe → Bool → Option (Nat × Nat))
    (k : Nat → Pipe → Bool → State → Out) : Out :=
  let v := s.reg a
  let bad := fun (n : Nat) => Host.Outcome.next (s.trapHere cRANGE n v)
  match (if s.cur.orig = 0 then s.cur.launch else none) with
  | none => bad 1
  | some l =>
    let key := pipeKey l.q l.lseq l.grp (v % 65536)
    match s.work.pipes.get? key with
    | none => bad 2
    | some p =>
      if (p.fromK ≠ l.kern ∧ p.toK ≠ l.kern) ∨ (fill ∧ p.fromK ≠ l.kern) then bad 1
      else if v / 65536 ≠ 0 then bad 2
      else
        match sub34 p (p.fromK == l.kern) with
        | some (n, t) => .next (s.trapHere cRANGE n t)
        | none =>
          if s.cur.det ∧ l.thr ≠ 0 then bad 5
          else k key p (p.fromK == l.kern) s

/-- R323: the next slot, after those that wait for one. -/
def execPacq (d a nw : Nat) (s : State) : Out :=
  s.withPipe a false (fun _ _ => none) fun key _ producer s =>
    let s := s.serve key
    let p := FMap.getD s.work.pipes key {}
    let queued := s.allActs.any fun x => (x.pipeWait p key producer).isSome
    match (if queued then .wait else p.next producer) with
    | .wait => if nw = 1 then s.put 4 d 0 0 else .next (s.block (.pacq d key s.sched.clock))
    | t => .next (s.pacqGot d key producer p t)

/-- The slot of a pipe that an address names. -/
def Pipe.slotAt (p : Pipe) (v : Nat) : Option Nat := (List.range p.slots).find? fun k => p.addr k == v

/-- R323: a release of a slot, and a release at cluster scope (R326). -/
def execPrel (a b : Nat) (s : State) : Out :=
  let v := s.reg b
  s.withPipe a false
    (fun p producer =>
      match p.slotAt v with
      | none => some (3, v)
      | some k => if p.st.getD k 0 = (if producer then 1 else 4) then none else some (3, v))
    fun key p producer s =>
      let k := (p.slotAt v).getD 0
      .next (((s.setPipe key { p with st := p.st.set k (if producer then 3 else 0) }).releaseTo (ptSlot key k) 2).retire 4)

/-- R325: a fill by copy. -/
def execPfill (d a b q : Nat) (s : State) : Out :=
  let src := s.reg d
  let n := s.reg b
  s.withPipe a true
    (fun p _ => if n = 0 ∨ p.slotb < n ∨ p.abandoned then some (4, n) else none)
    fun key _ _ s =>
      let s := s.serve key
      let p := FMap.getD s.work.pipes key {}
      let queued := s.allActs.any fun x => (x.pipeWait p key true).isSome
      match (if queued then .wait else p.next true) with
      | .wait => .next (s.block (.pfill d key src n q s.sched.clock))
      | t => .next (s.pfillGot d q key src n p t)

end Sys2Proof.Machine
end

