-- ==== Sys2Proof/Machine/Kernel.lean ====
section
/-!
DEFINITION. What a launch reads (15 R311 to R318; 04 R96, R99): records, kernel descriptors and phrase records, their
checks, footprints, the packing of an instance, and the device's own accesses for a queue (16 R334).
-/

namespace Sys2Proof.Machine

/-! ### The device's accesses for a queue (15 R312, 16 R334) -/

/-- A failed access for a queue; `kind` is 0 for a read of the record, 1 for one of a descriptor, 2 for a write. -/
structure QErr where
  err : AErr
  acc : Nat
  kind : Nat

/-- The distributor of a partition's first die, which makes its accesses. -/
def State.qWho (s : State) (c : Nat) : Who := devWho c (((s.ctx c).clusterList.head?.map (·.1)).getD 0)

/-- Read bytes for a queue; a local window is no address of the device. -/
def State.qRead (s : State) (c kind va n : Nat) : Except QErr (Nat × State) :=
  let va := va % 2 ^ 56
  if bits va 52 4 = 15 then .error ⟨.trap cPDENY 0 va, aRead, kind⟩
  else
    match s.engRead (s.qWho c) (n / 128 + 2) va n with
    | .error e => .error ⟨e, aRead, kind⟩
    | .ok r => .ok r

/-- Write bytes for a queue, or for a launch of it. -/
def State.qWrite (s : State) (c va n v : Nat) (l : Option LaunchId := none) : Except QErr State :=
  let va := va % 2 ^ 56
  if bits va 52 4 = 15 then .error ⟨.trap cPDENY 0 va, aWrite, 2⟩
  else
    match s.engWrite { s.qWho c with launch := l } (n / 128 + 2) va n v with
    | .error e => .error ⟨e, aWrite, 2⟩
    | .ok s => .ok s

/-! ### Records -/

/-- A launch record (R311). -/
structure LRec where
  kdesc : Nat
  ng : Nat
  ctl : Nat
  waitq : Nat
  rsv : Nat
  waitv : Nat
  args : List Nat

def lrecOf (v : Nat) : LRec :=
  let w := fun (o n : Nat) => bits v (8 * o) (8 * n)
  { kdesc := w 0 7, ng := w 8 4, ctl := w 12 4, waitq := w 16 4, rsv := w 20 4, waitv := w 24 8,
    args := (List.range 12).map fun i => w (0x20 + 8 * i) 8 }

def LRec.bar (r : LRec) : Bool := bit r.ctl 0
def LRec.wait (r : LRec) : Bool := bit r.ctl 1
def LRec.ph (r : LRec) : Bool := bit r.ctl 2

/-- A kernel descriptor (04 R96) from its 64 bytes. -/
def kernelOf (v : Nat) : Kernel :=
  let w := fun (o n : Nat) => bits v (8 * o) (8 * n)
  { entry := w 0 8, flags := w 8 4, group := w 12 1, slots := w 13 1, narg := w 14 1, splitarg := w 15 1, tcmb := w 16 4,
    spadb := w 20 4, mtch := w 24 4, phrase := w 32 8 }

def Kernel.pure (k : Kernel) : Bool := bit k.flags 0
def Kernel.det (k : Kernel) : Bool := bit k.flags 1
def Kernel.cores (k : Kernel) : Bool := bit k.flags 2
def Kernel.prog (k : Kernel) : Bool := bit k.flags 3
def Kernel.splits (k : Kernel) : Bool := bit k.flags 4

/-- Whether a descriptor is invalid (R96 and check 2 of R312); MATCH has a bit for each argument word. -/
def kernelBad (v : Nat) : Bool :=
  let k := kernelOf v
  decide (32 ≤ k.flags ∨ 4096 ≤ k.mtch) || bits v (8 * 0x1C) 32 != 0 || bits v (8 * 0x28) 192 != 0
    || decide (k.group < 1 ∨ 64 < k.group ∨ k.slots < 1 ∨ 8 < k.slots) || k.entry % 2 == 1
    || (k.splits && decide (k.narg ≤ k.splitarg)) || decide (22272 < k.tcmb ∨ 524288 < k.spadb ∨ 12 < k.narg)
    || (k.cores && k.prog)

/-- A phrase record (04 R99). -/
structure Phrase where
  nk : Nat
  np : Nat
  kern : List Nat
  pipes : List (List Nat)                -- id, SLOTS, SLOTB, FROM, TO
  rsv : Bool                             -- a reserved byte, or a KERN entry that is not used, is not 0 (03 R3)

def phraseOf (v : Nat) : Phrase :=
  let w := fun (o n : Nat) => bits v (8 * o) (8 * n)
  let np := w 1 1
  { nk := w 0 1, np := np, kern := (List.range 4).map fun i => w (8 + 8 * i) 7
    rsv := w 2 6 != 0 || (List.range (min np 8)).any (fun p => w (0x34 + 16 * p) 4 != 0)
      || (List.range 4).any fun i => decide (w 0 1 ≤ i) && w (8 + 8 * i) 8 != 0
    pipes := (List.range (min np 8)).map fun p =>
      let o := 0x28 + 16 * p
      [w o 2, w (o + 2) 2, w (o + 4) 4, w (o + 8) 2, w (o + 10) 2] }

/-- Whether a phrase record breaks R99. -/
def Phrase.bad (p : Phrase) : Bool :=
  p.rsv || decide (p.nk < 2 ∨ 4 < p.nk ∨ p.np < 1 ∨ 8 < p.np) ||
    p.pipes.any fun x =>
      decide (p.nk ≤ x.getD 3 0 ∨ p.nk ≤ x.getD 4 0 ∨ x.getD 1 0 < 2 ∨ 64 < x.getD 1 0 ∨ x.getD 2 0 % 128 ≠ 0
        ∨ x.getD 2 0 < 128 ∨ 65536 < x.getD 2 0)

/-- Whether a list names something twice. -/
def hasTwice : List Nat → Bool
  | [] => false
  | x :: xs => xs.contains x || hasTwice xs

/-- Check 3 of R312. -/
def phraseBad (addr : Nat) (p : Phrase) (ks : List Kernel) : Bool :=
  let differ := fun (f : Kernel → Bool) => ks.any f && ks.any fun k => !f k
  p.bad || hasTwice (p.pipes.map fun x => x.getD 0 0) || p.pipes.any (fun x => x.getD 3 0 == x.getD 4 0)
    || ks.any (fun k => k.phrase % 2 ^ 56 != addr) || differ Kernel.cores || differ Kernel.prog || differ Kernel.det
    || ks.any Kernel.splits

/-! ### Footprints (12 R290, 15 R317, R318) -/

/-- Bytes of the rings that enter a kernel. -/
def ringBytes (pipes : List (List Nat)) (k : Nat) : Nat :=
  pipes.foldl (fun n x => if x.getD 4 0 = k then n + x.getD 1 0 * x.getD 2 0 else n) 0

def Kernel.nc (k : Kernel) : Nat := ceilDiv k.group k.slots
def Kernel.ns (k : Kernel) (rings : Nat) : Nat := ceilDiv (rings + k.spadb) 65536

/-- The least of 1, 2, 4, 8 that is at least n; 16 when none is. -/
def footOf (n : Nat) : Nat := if n ≤ 1 then 1 else if n ≤ 2 then 2 else if n ≤ 4 then 4 else if n ≤ 8 then 8 else 16

/-- Insert a footprint in decreasing order, equal ones by kernel index. -/
def footInsert (x : Nat × Nat) : List (Nat × Nat) → List (Nat × Nat)
  | [] => [x]
  | y :: t => if y.1 < x.1 ∨ (y.1 = x.1 ∧ x.2 ≤ y.2) then x :: y :: t else y :: footInsert x t

/-- The footprints of an instance, in packing order: size and kernel index (R318). -/
def feetOf (ks : List Kernel) (pipes : List (List Nat)) : List (Nat × Nat) :=
  (((List.range ks.length).zip ks).map fun p => (footOf (max p.2.nc (p.2.ns (ringBytes pipes p.1))), p.1)).foldr footInsert []

def Launch.feet (l : Launch) : List (Nat × Nat) := feetOf l.kernels l.pipes

/-- The size of a position: a footprint, or a whole cluster for an instance of a phrase (R298). -/
def Launch.posSize (l : Launch) : Nat := if l.phrase then 8 else (l.feet.head?.map (·.1)).getD 1

/-- Whether a footprint slot is free under a mask of busy cores. -/
def footFree (mask f c0 : Nat) : Bool := bits mask c0 f == 0

/-- Pack footprints into the free cores of a cluster: the first core of each, and the new mask. -/
def pack (mask : Nat) : List (Nat × Nat) → Option (List (Nat × Nat) × Nat)
  | [] => some ([], mask)
  | (f, k) :: t =>
    match (List.range (8 / f)).find? fun j => footFree mask f (j * f) with
    | none => none
    | some j =>
      match pack (mask ||| (2 ^ f - 1) * 2 ^ (j * f)) t with
      | none => none
      | some (ps, m) => some ((k, j * f) :: ps, m)

/-- How many instances one empty cluster holds. -/
def perCluster (feet : List (Nat × Nat)) : Nat → Nat → Nat
  | 0, _ => 0
  | n + 1, mask => match pack mask feet with | none => 0 | some (_, m) => 1 + perCluster feet n m

/-- Check 5 of R312: the launch cannot be resident; `whole` says that its positions are whole clusters (R316). -/
def nores (ncl ng : Nat) (whole : Bool) (ks : List Kernel) (pipes : List (List Nat)) : Bool :=
  let feet := feetOf ks pipes
  feet.any (fun x => decide (8 < x.1)) || decide (8 < (feet.map (·.1)).sum)
    || (ks.any Kernel.cores && decide (ncl * (if whole then 1 else perCluster feet 8 0) < ng))

/-- The next read that a launch's take-up makes, once `got` has been read: its address and bytes; none when all is read. -/
def LRec.nextRead (r : LRec) (got : List Nat) : Option (Nat × Nat) :=
  if !r.ph then (if got.isEmpty then some (r.kdesc, 64) else none)
  else
    match got with
    | [] => some (r.kdesc, 40)
    | [hd] => some (r.kdesc + 40, 16 * min (bits hd 8 8) 8)
    | hd :: _ :: ks => (((phraseOf hd).kern.take (phraseOf hd).nk)[ks.length]?).map fun a => (a, 64)

/-- What the reads of a take-up say: the kernels, the pipes and the status of the first failure of checks 2 and 3 of R312, 0
for none. -/
def LRec.kernels (r : LRec) (got : List Nat) : List Kernel × List (List Nat) × Nat :=
  if !r.ph then (let v := got.headD 0; ([kernelOf v], [], if kernelBad v then 3 else 0))
  else
    match got with
    | hd :: ps :: vs =>
      let p := phraseOf (hd + 2 ^ 320 * ps)
      let ks := vs.map kernelOf
      (ks, p.pipes, if vs.any kernelBad then 3 else if phraseBad r.kdesc p ks then 4 else 0)
    | _ => ([], [], 4)

end Sys2Proof.Machine
end

