-- ==== Sys2Proof/Machine/Copy.lean ====
section
/-!
DEFINITION. The copy engine (07 R182 to R188): the instructions that issue its commands, and the run of a command when
its completion is the next event.
-/

namespace Sys2Proof.Machine

/-- What a run of a command has reached: the state, the units done, the flags, and the failure that stopped it with the
access kind. -/
structure Run1 where
  s : State
  prog : Nat
  flags : Nat
  err : Option (AErr × Nat)
  stuck : List (Nat × Nat) := []         -- units that wait for a replay: first, and one above the last

/-- One unit of a copy between two addresses: the bytes that lie in one line of each. -/
def State.copyUnit (s : State) (w : Who) (dst src : Nat) (off rem : Nat) : Except (AErr × Nat) (State × Nat) :=
  match ea src off, ea dst off with
  | .error x, _ => .error (.trap cTAGOV 0 x, aRead)
  | _, .error x => .error (.trap cTAGOV 0 x, aWrite)
  | .ok sa, .ok da =>
    let k := min (chunk sa rem) (chunk da rem)
    match s.engRead w 1 sa k with
    | .error e => .error (e, aRead)
    | .ok (v, s) =>
      match s.engWrite w 1 da k v with
      | .error e => .error (e, aWrite)
      | .ok s => .ok (s, k)

/-- A unit of `cpyg`: a part of one record, from byte `p` of the records taken together, below `lim` (R186).  An IDX that is not
aligned to 4 (R185) is read where it points. [DESIGN CHOICE, notes/assumptions/52.md] -/
def State.copyRecord (s : State) (w : Who) (dst src idx recb : Nat) (stride : Int) (p lim : Nat) : Except (AErr × Nat) (State × Nat) :=
  let r := p / recb
  let o := p % recb
  match ea idx (4 * r : Nat) with
  | .error x => .error (.trap cTAGOV 0 x, aRead)
  | .ok ia =>
    match s.engRead w 2 ia 4 with
    | .error e => .error (e, aRead)
    | .ok (i, s) =>
      match ea src (sint i 32 * stride), ea dst (r * recb : Nat) with
      | .error x, _ => .error (.trap cTAGOV 0 x, aRead)
      | _, .error x => .error (.trap cTAGOV 0 x, aWrite)
      | .ok _, .ok _ => s.copyUnit w (w64 (dst + r * recb)) (wint (src + sint i 32 * stride)) o (min (recb - o) (lim - p))

/-- The index of element `p` of a map's box, dimension 0 in steps of `step`. -/
def boxIndex (m : List Nat) (step p : Nat) : List Nat :=
  let d0 := ceilDiv (mapDim m 0) step
  let d1 := max (mapDim m 1) 1
  let d2 := max (mapDim m 2) 1
  [p % d0 * step, p / d0 % d1, p / (d0 * d1) % d2, p / (d0 * d1 * d2)]

/-- The number of steps of a map's box. -/
def boxSize (m : List Nat) (step : Nat) : Nat :=
  ceilDiv (mapDim m 0) step * max (mapDim m 1) 1 * max (mapDim m 2) 1 * max (mapDim m 3) 1

/-- The hash of R45 for an element stored at a bit address by a core's command, with the SEED that the core has when the command runs.
[DESIGN CHOICE, notes/assumptions/54.md] -/
def Cmd.hash (c : Cmd) (s : State) (ba : Nat) : Nat :=
  rshHash (w64 ba) (s.core (coreKey (c.place.getD 0 0) (c.place.getD 1 0) (c.place.getD 2 0))).seed

/-- Read the elements of one block of a map, along dimension 0 from an index. -/
def State.readBlock (s : State) (w : Who) (m : List Nat) (i0 : Nat) (rest : List Nat) :
    Nat → Except AErr (List (Nat × Nat × Nat) × State)
  | 0 => .ok ([], s)
  | n + 1 =>
    match State.readBlock s w m i0 rest n with
    | .error e => .error e
    | .ok (xs, s) =>
      match s.engMapElem w m ((i0 + n) :: rest) (mapDim m 0) (i0 + n) with
      | .error e => .error e
      | .ok (none, s) => .ok (xs, s)
      | .ok (some (b, x), s) => .ok (xs ++ [(n, b, x)], s)

/-- Write elements of a block of a map. -/
def State.writeBlock (s : State) (w : Who) (m : List Nat) (i0 : Nat) (rest : List Nat) :
    List (Nat × Nat) → Except AErr State
  | [] => .ok s
  | (k, v) :: xs =>
    match mapBit m ((i0 + k) :: rest) with
    | none => .error (.trap cTAGOV 0 (mapFar m (i0 :: rest)))
    | some ba =>
      match s.engPutElem w ba (codeBits (mapFmt m)) v with
      | .error e => .error e
      | .ok s => State.writeBlock s w m i0 rest xs

/-- One unit of `cpyt`: an element, or a block of 32 for an MX destination (R184).  An ST.RM of 5 or 6 acts as RNE for MXI8
too (02 R479). [DESIGN CHOICE, notes/assumptions/50.md] -/
def State.copyTensor (s : State) (c : Cmd) (w : Who) (dm sm : List Nat) (m mi p : Nat) : Except (AErr × Nat) (State × Nat) :=
  let df := mapFmt dm
  let sf := mapFmt sm
  let mx := isMx df
  let ix := boxIndex dm (if mx then 32 else 1) p
  let i0 := ix.getD 0 0
  let rest := ix.drop 1
  match s.readBlock w sm i0 rest (if mx then 32 else 1) with
  | .error e => .error (e, aRead)
  | .ok (es, s) =>
    let h := fun (k : Nat) => c.hash s ((mapBit dm ((i0 + k) :: rest)).getD 0)
    let r : Option Nat × List (Nat × Nat) × Nat :=
      if df = sf then (if mx then some ((es.map (·.2.2)).headD 0) else none, es.map fun e => (e.1, e.2.1), 0)
      else if mx then
        let b := mxBlock df (if df = 0x1A then mi else m) h (es.map fun e => (e.1, elemVal sf e.2.2 e.2.1))
        (some b.1, b.2.1, b.2.2)
      else
        let cs := es.map fun e => (e.1, convElem sf df m mi (h e.1) e.2.2 e.2.1)
        (none, cs.map (fun x => (x.1, x.2.1)), cs.foldl (fun f x => f ||| x.2.2) 0)
    match s.writeBlock w dm i0 rest r.2.1 with
    | .error e => .error (e, aWrite)
    | .ok s =>
      match r.1 with
      | none => .ok (s, r.2.2)
      | some x =>
        match s.engWrite w 1 (mapScaleAt dm (mapDim dm 0) ix) 1 x with
        | .error e => .error (e, aWrite)
        | .ok s => .ok (s, r.2.2)

/-- The number of units of a command: bytes, or elements or blocks for `cpyt`. -/
def Cmd.total (c : Cmd) : Nat :=
  let g := fun (k : Nat) => c.args.getD k 0
  if c.op = 1 then boxSize c.args (if isMx (mapFmt c.args) then 32 else 1) else if c.op = 2 then g 3 * g 4 else g 2

/-- What is done at once from unit `p`, below `lim`: the state, how many units, and the flags. -/
def State.copyStep (c : Cmd) (s : State) (p lim : Nat) : Except (AErr × Nat) (State × Nat × Nat) :=
  let w := c.who 1
  let g := fun (k : Nat) => c.args.getD k 0
  if c.op = 1 then
    (s.copyTensor c w (c.args.take 8) ((c.args.drop 8).take 8) (effMode (g 16) (g 17)) (intMode (g 16) (g 17)) p).map fun r => (r.1, 1, r.2)
  else
    (if c.op = 2 then s.copyRecord w (g 0) (g 1) (g 2) (g 4) (sint (g 5) 64) p lim
     else s.copyUnit w (g 0) (g 1) p (lim - p)).map fun r => (r.1, r.2, 0)

/-- Where what could not be done from unit `p` ends, below `lim`: the rest of its lines or of its record. -/
def Cmd.stepEnd (c : Cmd) (p lim : Nat) : Nat :=
  let g := fun (k : Nat) => c.args.getD k 0
  if c.op = 1 then p + 1
  else if c.op = 2 then min lim ((p / max 1 (g 4) + 1) * max 1 (g 4))
  else p + min (chunk (w64 (g 1 + p)) (lim - p)) (chunk (w64 (g 0 + p)) (lim - p))

/-- A command's units from `p` below `lim`. -/
def State.copyRun (c : Cmd) (lim : Nat) : Nat → State → Nat → Nat → Run1
  | 0, s, p, fl => { s := s, prog := p, flags := fl, err := none }
  | fuel + 1, s, p, fl =>
    if lim ≤ p then { s := s, prog := p, flags := fl, err := none }
    else
      match s.copyStep c p lim with
      | .error e => { s := s, prog := p, flags := fl, err := some e }
      | .ok (s, k, f) => State.copyRun c lim fuel s (p + k) (fl ||| f)

/-- The units that had to wait for a replay. -/
def State.copyStuck (c : Cmd) : List (Nat × Nat) → State → Nat → Run1
  | [], s, fl => { s := s, prog := 0, flags := fl, err := none }
  | x :: xs, s, fl =>
    let r := State.copyRun c x.2 (x.2 - x.1) s x.1 fl
    if r.err.isSome then { r with stuck := (r.prog, x.2) :: xs } else State.copyStuck c xs r.s r.flags

/-- The run of a copy command from where it stands.  A unit that faults waits for its replay, and those behind it go on, in this
run of the command or another (23 R420); once replayed, it is done first. [DEDUCED, notes/assumptions/22.md] -/
def State.runCopy (s : State) (c : Cmd) : Run1 :=
  let r := if c.grp.isSome then { s := s, prog := 0, flags := c.flags, err := none, stuck := c.stuck } else State.copyStuck c c.stuck s c.flags
  if r.err.isSome then { r with prog := c.prog }
  else
    let t := State.copyRun c c.total (c.total + 1) r.s c.prog r.flags
    match t.err with
    | some (.xlat _ _ _, _) =>
      let e := c.stepEnd t.prog c.total
      { t with prog := e, stuck := r.stuck ++ [(t.prog, e)] }
    | _ => { t with stuck := r.stuck }

/-- R187: the accesses of a command run, from where an earlier fault left them, and it completes, parks, or ends with an
error.  Nothing happens to a command all of whose units are done or wait for a replay, whose context does not run, or whose core
is frozen (24 R448). [DEDUCED, notes/assumptions/22.md] -/
def execCopyCommandComplete (core seq : Nat) (s : State) : Out :=
  match s.cmd? core 0 seq with
  | none => .next s
  | some c =>
    if (c.grp.isSome && c.lost.isNone && decide (c.total ≤ c.prog)) || !s.running c.ctx || (s.core core).frozen then .next s
    else match c.lost with
    | some va => .next (s.loseCmd core 0 c c.done va)
    | none =>
      let r := s.runCopy c
      let c' := { c with prog := r.prog, flags := r.flags, stuck := r.stuck }
      let s := r.s.modCmd core 0 seq fun _ => c'
      match r.err with
      | none =>
        if !r.stuck.isEmpty then .next s
        else
          let a := s.cmdAcked core 0 seq
          .next (if a.1 then (a.2.fillSlot c true).endCmd core 0 c' none c'.done else a.2)
      | some (e, acc) => .next ((s.failCmd core 0 1 acc c' c'.done e).cmdFailed core 0 c)

/-- A copy stalls issue while 32 are outstanding (R187). -/
def State.copyFull (s : State) : Bool := decide (32 ≤ s.myCore.copies.length)

/-- Issue a copy command; one without any access completes at once (R183). -/
def State.issueCopy (s : State) (d : Nat) (c : Cmd) (empty : Bool) : Out :=
  let r := s.enqueue 0 d c
  if empty then
    match r with
    | .next s => .next (s.endCmd s.cur.coreKey 0 c none 0)
    | o => o
  else r

/-- R183. -/
def execCpy (d a b q la : Nat) (s : State) : Out :=
  let _ := la
  if s.copyFull then .next s
  else if 2 ^ 32 < s.reg d then .next (s.trapHere cRANGE 0 (s.reg d))
  else s.issueCopy d (s.newCmd 0 0 q [s.reg a, s.reg b, s.reg d]) (s.reg d == 0)

/-- R184: the maps are read and checked at issue. -/
def execCpyt (d a b q la : Nat) (s : State) : Out :=
  let _ := la
  if s.copyFull then .next s
  else if 8 ≤ s.reg d then .next (s.trapHere cRANGE 0 (s.reg d))
  else
    match (s.loadWords (s.reg a) 0 8).bind fun dm s => (s.loadWords (s.reg b) 0 8).bind fun sm s => .ok (dm, sm) s with
    | .fault e => .fault e
    | .stop s => .next s
    | .ok (dm, sm) s =>
      if mapBad dm || mapBad sm then .next (s.trapFree cTMAP 0)
      else if mapRank dm ≠ mapRank sm ∨ ((List.range 4).any fun k => mapDim dm k != mapDim sm k)
          ∨ (isMx (mapFmt dm) ∧ mapDim dm 0 % 32 ≠ 0) then .next (s.trapFree cSHAPE 0)
      else s.issueCopy d (s.newCmd 0 1 q (dm ++ sm ++ [s.reg d, s.rm])) false

/-- R185, R186: the gather descriptor is read and checked at issue, RECB before COUNT. [DESIGN CHOICE, notes/assumptions/54.md] -/
def execCpyg (d a b q la : Nat) (s : State) : Out :=
  let _ := la
  if s.copyFull then .next s
  else
    match (s.load 4 (s.reg b) 0 8 8).bind fun src s =>
        (s.loadWords (s.reg b) 8 3).bind fun ws s => .ok (src :: ws) s with
    | .fault e => .fault e
    | .stop s => .next s
    | .ok ds s =>
      let count := ds.getD 2 0 % 2 ^ 32
      let recb := ds.getD 2 0 / 2 ^ 32
      if recb = 0 ∨ 65536 < recb then .next (s.trapHere cRANGE 0 recb)
      else if 2 ^ 24 < count then .next (s.trapHere cRANGE 0 count)
      else s.issueCopy d (s.newCmd 0 2 q [s.reg a, ds.getD 0 0, ds.getD 1 0, count, recb, ds.getD 3 0]) (count == 0)

end Sys2Proof.Machine
end

