-- ==== Sys2Proof/Machine/Matrix.lean ====
section
/-!
DEFINITION. The matrix unit (09 R222 to R249): the instructions that issue its commands, the commands' runs, the arbiter,
and the refetch of a plane.  A command's `op` is 0 `mloads`, 1 `mswap`, 2 `mstream`, 3 `mzero`, 4 `mscale`, 5 `mstore`.
-/

namespace Sys2Proof.Machine

/-! ### Classes and control words (R225, R232) -/

/-- The operand class of a format (R225): 0 16-bit float, 1 8- and 6-bit float, 2 4-bit float, 3 8-bit integer, 4 8-bit
scaled integer. -/
def mxClass? (c : Nat) : Option Nat :=
  if c = 0x0B ∨ c = 0x0C then some 0
  else if (0x0D ≤ c ∧ c ≤ 0x10) ∨ (0x15 ≤ c ∧ c ≤ 0x18) then some 1
  else if c = 0x11 ∨ c = 0x19 then some 2
  else if c = 1 then some 3
  else if c = 0x1A then some 4
  else none

/-- Stored elements of a column, by class. -/
def classK (k : Nat) : Nat := if k = 0 then 64 else if k = 2 then 256 else 128

/-- The stored elements of a column of a format. -/
def fmtK (c : Nat) : Nat := classK ((mxClass? c).getD 0)

def ctlOpt (c : Nat) : Nat := bits c 52 6
def ctlCoords (c : Nat) : List Nat := [c % 2 ^ 20, bits c 20 16, bits c 36 8, bits c 44 8]

/-- Whether the OPT field of a command's control word is wrong (R232). -/
def optBad (op c : Nat) : Bool :=
  let o := ctlOpt c
  let sc := fun (x : Nat) => decide (1 ≤ x ∧ x ≤ 3)
  bits c 58 6 != 0 ||
    (if op = 0 then decide (2 ≤ o)
     else if op = 2 then sc (o % 8) || sc (o / 8)
     else if op = 5 then decide (16 ≤ o)
     else decide (8 ≤ o) || decide (o % 8 < 4))

/-- Whether coordinates are wrong against a map (R227 step 4); `sp` says that the plane is sparse. -/
def coordsBad (c : Nat) (m : List Nat) (sp : Bool) : Bool :=
  let cs := ctlCoords c
  (List.range 4).any (fun k => decide (mapRank m ≤ k) && cs.getD k 0 != 0)
    || (isMx (mapFmt m) && cs.getD 0 0 % 32 != 0) || (sp && cs.getD 0 0 % 4 != 0)

/-! ### Issue (R226 to R228) -/

/-- A command stalls while its core's queue holds four (R227). -/
def State.mqFull (s : State) : Bool := decide (4 ≤ s.myCore.mq.length)

/-- Queue a command. -/
def State.issueMatrix (s : State) (d op : Nat) (args : List Nat) : Out := s.enqueue 1 d (s.newCmd 1 op 0 args)

/-- The checks of R227 on a command that names a map; `k` goes on with the map's words. -/
def State.withMap (s : State) (op : Nat) (ctl a : Nat) (cls sp : Bool) (k : List Nat → State → Out) : Out :=
  let p := a % 2 ^ 56
  if p % 64 ≠ 0 then .next (s.trapHere cALIGN 0 p)
  else if optBad op ctl then .next (s.trapHere cRANGE 0 ctl)
  else
    (s.loadWords a 0 8).out fun m s =>
      if mapBad m then .next (s.trapHere cTMAP 0 p)
      else if cls && (mxClass? (mapFmt m)).isNone then .next (s.trapHere cTMAP 3 p)
      else if coordsBad ctl m sp then .next (s.trapHere cRANGE 0 ctl)
      else k m s

/-- R233. -/
def execMloads (d a b la : Nat) (s : State) : Out :=
  let _ := la
  if s.mqFull then .next s
  else
    let ctl := s.reg d
    let sp := bit ctl 52
    s.withMap 0 ctl (s.reg a) true sp fun m s =>
      let view := [if sp then 2 else 1, mapFmt m, mapDim m 0 * (if sp then 2 else 1)]
      (s.modMyCore fun c => { c with viewShadow := view }).issueMatrix d 0 (m ++ [ctl, s.reg b])

/-- R235. -/
def execMswap (d la : Nat) (s : State) : Out :=
  let _ := la
  if s.mqFull then .next s
  else (s.modMyCore fun c => { c with viewActive := c.viewShadow, viewShadow := c.viewActive }).issueMatrix d 1 []

/-- A scale register as it is captured: 0 for none, else one above its bits (R243). -/
def Core.scale (c : Core) (x : Nat) : Nat := if x < 4 then 0 else c.sc.getD (x - 4) 0 % 2 ^ 32 + 1

/-- R236: the checks of the issue-time view, and the capture of the scales. -/
def execMstream (d a b acc la : Nat) (s : State) : Out :=
  let _ := la
  if s.mqFull then .next s
  else
    let ctl := s.reg d
    s.withMap 2 ctl (s.reg a) true false fun m s =>
      let p := s.reg a % 2 ^ 56
      let v := s.myCore.viewActive
      let cls := mxClass? (mapFmt m)
      if bits (mapBase m) 48 8 ≠ 0xF1 then .next (s.trapHere cTMAP 2 p)
      else if v.getD 0 0 = 0 then .next (s.trapHere cSHAPE 3 0)
      else if mxClass? (v.getD 1 0) ≠ cls then .next (s.trapHere cSHAPE 2 p)
      else if v.getD 2 0 ≠ mapDim m 0 then .next (s.trapHere cSHAPE 1 (mapDim m 0))
      else if cls = some 3 ∧ ctlOpt ctl ≠ 0 then .next (s.trapHere cRANGE 0 ctl)
      else
        let c := s.myCore
        s.issueMatrix d 2 (m ++ [ctl, s.reg b, acc, c.scale (ctlOpt ctl % 8), c.scale (ctlOpt ctl / 8)])

/-- R239. -/
def execMzero (d acc la : Nat) (s : State) : Out :=
  let _ := la
  if s.mqFull then .next s else s.issueMatrix d 3 [acc]

/-- R239, R227 steps 2 and 4. -/
def execMscale (d acc la : Nat) (s : State) : Out :=
  let _ := la
  let ctl := s.reg d
  if s.mqFull then .next s
  else if optBad 4 ctl || ctl % 2 ^ 52 != 0 then .next (s.trapHere cRANGE 0 ctl)
  else s.issueMatrix d 4 [acc, s.myCore.scale (ctlOpt ctl % 8)]

/-- R240. -/
def execMstore (d a b acc la : Nat) (s : State) : Out :=
  let _ := la
  if s.mqFull then .next s
  else
    let ctl := s.reg d
    s.withMap 5 ctl (s.reg a) false false fun m s =>
      let mask := s.reg b
      let f := mapFmt m
      let uneven := fun (x : Nat) => x != 0 && x != 2 ^ 32 - 1
      if (bit ctl 55 && (intRange? f).isNone) || (isMx f && (uneven (mask % 2 ^ 32) || uneven (mask / 2 ^ 32))) then
        .next (s.trapHere cRANGE 0 ctl)
      else s.issueMatrix d 5 (m ++ [ctl, mask, acc, s.rm])

/-- Whether a command writes an accumulator. -/
def Cmd.writesAcc (c : Cmd) (acc : Nat) : Bool :=
  (c.op == 2 && c.args.getD 10 0 == acc) || ((c.op == 3 || c.op == 4) && c.args.getD 0 0 == acc)

/-- An element of an accumulator: bits + 2^32 × tail. -/
def Core.accElem (c : Core) (acc r col : Nat) : Nat := FMap.getD c.acc (acc * 1024 + r * 64 + col) 0

/-- Free images, one for each of `n` elements. -/
def State.drawImages (s : State) : Nat → List Image × State
  | 0 => ([], s)
  | n + 1 =>
    let x := s.draw
    let r := State.drawImages x.2 n
    (⟨x.1 % 2 ^ 32, x.1 / 2 ^ 32 % 4⟩ :: r.1, r.2)

/-- R241, R242: a row of an accumulator, each element unpredictable while a command that writes it has not completed. -/
def execMread (d a acc la : Nat) (s : State) : Out :=
  let x := s.reg a
  if 16 ≤ x then .next (s.trapHere cRANGE 0 x)
  else
    match groupBad 32 s.cur.grant d 64 with
    | some (c, sub, v) => .next (s.trapHere c sub v)
    | none =>
      let c := s.myCore
      let r :=
        if c.mq.any fun q => q.writesAcc acc then s.drawImages 64
        else ((List.range 64).map fun col => let e := c.accElem acc x col; ⟨e % 2 ^ 32, e / 2 ^ 32⟩, s)
      r.2.putVec la 32 d 64 ((List.range 64).zip r.1) 0

/-- R244. -/
def execMweight (imm : Nat) (s : State) : Out := .next ((s.modMyCore fun c => { c with weight := imm }).retire 4)

/-- R244. -/
def execMstat (d : Nat) (s : State) : Out :=
  let c := s.myCore
  s.put 4 d (c.mq.length + 16 * c.viewActive.getD 0 0 + 64 * c.viewShadow.getD 0 0 + 256 * c.weight) 0

/-! ### Loading a plane (R233, R234) -/

/-- Read metadata nibble `n` from `nib`; one that does not rise is refused, unless `all` says that a later check does so. -/
def State.readNibble (s : State) (w : Who) (all : Bool) (nib n : Nat) : Except AErr (Nat × State) :=
  match s.engRead w 1 (nib + n / 2) 1 with
  | .error e => .error e
  | .ok (v, s) =>
    let x := bits v (4 * (n % 2)) 4
    if !all && decide (x / 4 ≤ x % 4) then .error (.trap cRANGE 0 (nib + n / 2)) else .ok (x, s)

/-- The nibbles of a list of groups, each a column and a group number. -/
def State.readNibbles (w : Who) (all : Bool) (nib half : Nat) : List (Nat × Nat) → State → Except AErr (FMap Nat × State)
  | [], s => .ok ([], s)
  | (c, g) :: gs, s =>
    match s.readNibble w all nib (c * half + g) with
    | .error e => .error e
    | .ok (x, s) =>
      match State.readNibbles w all nib half gs s with
      | .error e => .error e
      | .ok (xs, s) => .ok ((c * 128 + g, x) :: xs, s)

/-- The logical position, from the tile's start, of stored element `k` of column `c`. -/
def selPos (sp : Bool) (sel : FMap Nat) (c k : Nat) : Nat :=
  if sp then
    let x := FMap.getD sel (c * 128 + k / 2) 0
    4 * (k / 2) + (if k % 2 = 0 then x % 4 else x / 4)
  else k

/-- The elements of a list of columns and stored positions, with the block scales they use. -/
def State.readStored (w : Who) (m cs : List Nat) (sp : Bool) (sel : FMap Nat) :
    List (Nat × Nat) → State → Except AErr (FMap Nat × FMap Nat × State)
  | [], s => .ok ([], [], s)
  | (c, k) :: ps, s =>
    let c0 := cs.getD 0 0
    let ix := [(if sp then c0 / 2 else c0) + k, cs.getD 1 0 + c, cs.getD 2 0, cs.getD 3 0]
    let j := selPos sp sel c k
    match s.engMapElem w m ix (mapDim m 0 * (if sp then 2 else 1)) (c0 + j) with
    | .error e => .error e
    | .ok (none, s) => State.readStored w m cs sp sel ps s
    | .ok (some (b, x), s) =>
      match State.readStored w m cs sp sel ps s with
      | .error e => .error e
      | .ok (es, xs, s) =>
        .ok ((c * 256 + k, b) :: es, if isMx (mapFmt m) then FMap.put xs (c * 16 + j / 32) x else xs, s)

/-- A plane from its map, control word and metadata address; for a refetch, with `all` its nibbles. -/
def State.loadPlane (s : State) (w : Who) (all : Bool) (m : List Nat) (ctl nib : Nat) : Except AErr (Plane × State) :=
  let sp := bit ctl 52
  let cs := ctlCoords ctl
  let c0 := if sp then cs.getD 0 0 / 2 else cs.getD 0 0
  let kk := fmtK (mapFmt m)
  let has := fun (k c : Nat) => mapHas m [c0 + k, cs.getD 1 0 + c, cs.getD 2 0, cs.getD 3 0]
  let cols := (List.range 64).filter (has 0)
  let ks := if cols.isEmpty then [] else (List.range kk).filter fun k => has k 0
  let groups := if sp then cols.flatMap fun c => (List.range (kk / 2)).map fun g => (c, g) else []
  match State.readNibbles w all (nib % 2 ^ 56) (kk / 2) groups s with
  | .error e => .error e
  | .ok (sel, s) =>
    match State.readStored w m cs sp sel (cols.flatMap fun c => ks.map fun k => (c, k)) s with
    | .error e => .error e
    | .ok (es, xs, s) =>
      .ok ({ state := if sp then 2 else 1, fmt := mapFmt m, map := m, ctl := ctl, nibbles := nib, elems := es,
             scales := xs, sel := sel, at_ := s.sched.clock, level := w.level }, s)

/-! ### Streaming (R236 to R238) -/

/-- One element of an operand of a product: logical position, value without its block scale, and its scale. -/
structure Term where
  j : Nat
  v : Val
  x : Val

/-- The value of an element apart from its block's scale (R237). -/
def rawVal (c b : Nat) : Val := elemVal c 127 b

/-- The scale of a block; 1 for a plain format. -/
def rawScale (c x : Nat) : Val := if isMx c then e8sVal x else .fin false 1 0

/-- The present elements of a column of a plane, by logical position. -/
def Plane.column (p : Plane) (c : Nat) : List Term :=
  (p.elems.filter fun e => e.1 / 256 == c).map fun e =>
    let j := selPos (p.state == 2) p.sel c (e.1 % 256)
    { j := j, v := rawVal p.fmt e.2, x := rawScale p.fmt (FMap.getD p.scales (c * 16 + j / 32) 0) }

/-- The present elements of a row of a streamed tile. -/
def State.readRow (w : Who) (m cs : List Nat) (r : Nat) : List Nat → State → Except AErr (List Term × State)
  | [], s => .ok ([], s)
  | j :: js, s =>
    let i0 := cs.getD 0 0 + j
    match s.engMapElem w m [i0, cs.getD 1 0 + r, cs.getD 2 0, cs.getD 3 0] (mapDim m 0) i0 with
    | .error e => .error e
    | .ok (none, s) => State.readRow w m cs r js s
    | .ok (some (b, x), s) =>
      match State.readRow w m cs r js s with
      | .error e => .error e
      | .ok (ts, s) => .ok ({ j := j, v := rawVal (mapFmt m) b, x := rawScale (mapFmt m) x } :: ts, s)

/-- The rows of a streamed tile. -/
def State.readRows (w : Who) (m cs : List Nat) (js : List Nat) : List Nat → State → Except AErr (List (Nat × List Term) × State)
  | [], s => .ok ([], s)
  | r :: rs, s =>
    match State.readRow w m cs r (js.filter fun j => mapHas m [cs.getD 0 0 + j, cs.getD 1 0 + r, cs.getD 2 0, cs.getD 3 0]) s with
    | .error e => .error e
    | .ok (ts, s) =>
      match State.readRows w m cs js rs s with
      | .error e => .error e
      | .ok (x, s) => .ok ((r, ts) :: x, s)

/-- The exact product of two elements at one position, its flags, and both scales. -/
structure Prod where
  j : Nat
  p : Val × Nat
  x : Val

/-- The products of a row and a column. -/
def products (row col : List Term) : List Prod :=
  row.filterMap fun a =>
    (col.find? fun b => b.j == a.j).map fun b => { j := a.j, p := vMul a.v b.v, x := scaleVal a.x b.x }

/-- Exact sum of values, and the flags of it. -/
def exactSum : List (Val × Nat) → Val × Nat
  | [] => (.fin false 0 0, 0)
  | p :: ps => ps.foldl (fun t q => let r := vAdd false t.1 q.1; (r.1, t.2 ||| q.2 ||| r.2)) p

/-- `combine` for the 16-bit class. -/
def combineTree (len : Nat) (acc : Image) (sc : Val) (ps : List Prod) : Image × Nat :=
  let rs := ps.map fun q => (q.j, rtoFl fp32 q.p)
  let t := treeSum fp32 ((List.range len).map fun j => (rs.find? (·.1 == j)).map (·.2.1))
  let q := vMul (imgVal fp32 t.1) sc
  let r := vAdd false (imgVal fp32 acc) q.1
  let o := rtoFl fp32 (r.1, q.2 ||| r.2)
  (o.1, rs.foldl (fun f x => f ||| x.2.2) (t.2 ||| o.2))

/-- `combine` for the classes summed by blocks of 32. -/
def combineBlocks (len : Nat) (acc : Image) (sc : Val) (ps : List Prod) : Image × Nat :=
  (List.range ((len + 31) / 32)).foldl (fun (t : Image × Nat) k =>
    match ps.filter fun q => q.j / 32 == k with
    | [] => t
    | q :: qs =>
      let sum := exactSum ((q :: qs).map (·.p))
      let y := vMul sum.1 q.x
      let z := vMul y.1 sc
      let b := rtoFl fp32 (z.1, sum.2 ||| y.2 ||| z.2)
      let r := vAdd false (imgVal fp32 t.1) (imgVal fp32 b.1)
      let o := rtoFl fp32 r
      (o.1, t.2 ||| b.2 ||| o.2)) (acc, 0)

/-- `combine` for the 8-bit integer class: saturated, without a flag. -/
def combineInt (acc : Image) (ps : List Prod) : Image :=
  let sum := ps.foldl (fun (t : Int) q =>
    match q.p.1 with
    | .fin neg m e => t + scaled neg m e 0
    | _ => t) 0
  ⟨imod (clampInt (sint acc.bits 32 + sum) (-2147483648) 2147483647) 32, 0⟩

/-- One output element (R237). [DEDUCED, notes/assumptions/42.md] -/
def combine (cls len : Nat) (acc : Image) (sc : Val) (ps : List Prod) : Image × Nat :=
  if cls = 0 then combineTree len acc sc ps
  else if cls = 3 then (combineInt acc ps, 0)
  else combineBlocks len acc sc ps

/-- S of R236 from the captured scales, and its flags. -/
def scaleS (sa sb : Nat) : Val × Nat :=
  let v := fun (x : Nat) => if x = 0 then Val.fin false 1 0 else encVal fp32 (x - 1)
  vMul (v sa) (v sb)

/-- Run a tile: the accumulator's changes and the flags. -/
def runTile (p : Plane) (rows : List (Nat × List Term)) (mask acc sa sb : Nat) (old : FMap Nat) : FMap Nat × Nat :=
  let cls := (mxClass? p.fmt).getD 0
  let len := fmtK p.fmt * (if p.state = 2 then 2 else 1)
  let sc := scaleS sa sb
  let cols := ((List.range 64).filter fun c => !bit mask c).map fun c => (c, p.column c)
  rows.foldl (fun t row =>
    cols.foldl (fun (t : FMap Nat × Nat) col =>
      match products row.2 col.2 with
      | [] => t
      | ps =>
        let k := acc * 1024 + row.1 * 64 + col.1
        let e := FMap.getD old k 0
        let r := combine cls len ⟨e % 2 ^ 32, e / 2 ^ 32⟩ sc.1 ps
        (FMap.put t.1 k (r.1.bits + 2 ^ 32 * r.1.tail), t.2 ||| r.2)) t) (old, sc.2)

/-! ### Runs of commands -/

/-- What a matrix command's run ends with: the state with its effect and the units stored, or the failure. -/
structure MRun where
  s : State
  prog : Nat
  flags : Nat
  err : Option (AErr × Nat)

/-- The next element of `mstore`, or the next block of an MX destination (R240).  An ST.RM of 5 or 6 acts as RNE for MXI8 too
(02 R479). [DESIGN CHOICE, notes/assumptions/50.md] -/
def State.storeUnit (s : State) (c : Cmd) (w : Who) (m : List Nat) (ctl mask acc rm u : Nat) : Except AErr (State × Nat) :=
  let f := mapFmt m
  let cs := ctlCoords ctl
  let ck := coreKey w.die w.cluster w.core
  let n := if isMx f then 32 else 1
  let r := u * n / 64
  let col := u * n % 64
  let rest := [cs.getD 1 0 + r, cs.getD 2 0, cs.getD 3 0]
  let i0 := cs.getD 0 0 + col
  if bit mask col then .ok (s, 0)
  else
    let es := ((List.range n).filter fun k => mapHas m ((i0 + k) :: rest)).map fun k =>
      let e := (s.core ck).accElem acc r (col + k)
      (k, (⟨e % 2 ^ 32, e / 2 ^ 32⟩ : Image))
    if es.isEmpty then .ok (s, 0)
    else
      let md := effMode (ctlOpt ctl % 8) rm
      let mi := intMode (ctlOpt ctl % 8) rm
      let h := fun (k : Nat) => c.hash s ((mapBit m ((i0 + k) :: rest)).getD 0)
      let one := fun (k : Nat) (i : Image) =>
        if bit ctl 55 then
          match intRange? f with
          | some (lo, hi, b) => (imod (clampInt (sint i.bits 32) lo hi) b, 0)
          | none => (0, 0)
        else finalTo f md mi (h k) (imgVal fp32 i)
      let out : Option Nat × List (Nat × Nat) × Nat :=
        if isMx f then
          let b := mxBlock f (if f = 0x1A then mi else md) h (es.map fun e => (e.1, imgVal fp32 e.2))
          (some b.1, b.2.1, b.2.2)
        else
          let ys := es.map fun e => (e.1, one e.1 e.2)
          (none, ys.map (fun y => (y.1, y.2.1)), ys.foldl (fun t y => t ||| y.2.2) 0)
      match s.writeBlock w m i0 rest out.2.1 with
      | .error e => .error e
      | .ok s =>
        match out.1 with
        | none => .ok (s, out.2.2)
        | some x =>
          match s.engWrite w 1 (mapScaleAt m (mapDim m 0) (i0 :: rest)) 1 x with
          | .error e => .error e
          | .ok s => .ok (s, out.2.2)

/-- `mstore`, from unit `prog` on. -/
def State.storeUnits (c : Cmd) (w : Who) (m : List Nat) (ctl mask acc rm total : Nat) : Nat → State → Nat → Nat → MRun
  | 0, s, p, fl => { s := s, prog := p, flags := fl, err := none }
  | fuel + 1, s, p, fl =>
    if total ≤ p then { s := s, prog := p, flags := fl, err := none }
    else
      match s.storeUnit c w m ctl mask acc rm p with
      | .error e => { s := s, prog := p, flags := fl, err := some (e, aWrite) }
      | .ok (s, f) => State.storeUnits c w m ctl mask acc rm total fuel s (p + 1) (fl ||| f)

/-- The run of a tile against the active plane: nothing is read when the plane is empty (R230). -/
def State.runStream (s : State) (ck : Nat) (c : Cmd) : MRun :=
  let g := fun (k : Nat) => c.args.getD k 0
  let m := c.args.take 8
  let p := (s.core ck).active
  if p.broken ≠ 0 then { s := s, prog := 0, flags := 0, err := some (.trap p.broken p.brokenSub p.brokenAt, aRead) }
  else if p.state = 0 then { s := s, prog := 0, flags := (scaleS (g 11) (g 12)).2, err := none }
  else
    let js := List.range (fmtK p.fmt * (if p.state = 2 then 2 else 1))
    match State.readRows (c.who 2) m (ctlCoords (g 8)) js (List.range 16) s with
    | .error e => { s := s, prog := 0, flags := 0, err := some (e, aRead) }
    | .ok (rows, s) =>
      let r := runTile p rows (g 9) (g 10) (g 11) (g 12) (s.core ck).acc
      { s := s.modCore ck fun k => { k with acc := r.1 }, prog := 0, flags := r.2, err := none }

/-- The run of a command. -/
def State.runMatrix (s : State) (ck : Nat) (c : Cmd) : MRun :=
  let g := fun (k : Nat) => c.args.getD k 0
  let m := c.args.take 8
  let ok := fun (s : State) (fl : Nat) => ({ s := s, prog := 0, flags := fl, err := none } : MRun)
  if c.op = 0 then
    match s.loadPlane (c.who 2) false m (g 8) (g 9) with
    | .error e => { s := s, prog := 0, flags := 0, err := some (e, aRead) }
    | .ok (p, s) => ok (s.modCore ck fun k => { k with shadowP := p }) 0
  else if c.op = 1 then ok (s.modCore ck fun k => { k with active := k.shadowP, shadowP := k.active }) 0
  else if c.op = 2 then s.runStream ck c
  else if c.op = 3 then
    ok (s.modCore ck fun k => { k with acc := k.acc.filter fun e => e.1 / 1024 != g 0 }) 0
  else if c.op = 4 then
    let v := encVal fp32 (g 1 - 1)
    let rs := (List.range 1024).map fun i =>
      let e := FMap.getD (s.core ck).acc (g 0 * 1024 + i) 0
      (g 0 * 1024 + i, rtoFl fp32 (vMul (imgVal fp32 ⟨e % 2 ^ 32, e / 2 ^ 32⟩) v))
    let acc := rs.foldl (fun a r => FMap.put a r.1 (r.2.1.bits + 2 ^ 32 * r.2.1.tail)) (s.core ck).acc
    ok (s.modCore ck fun k => { k with acc := acc }) (rs.foldl (fun f r => f ||| r.2.2) 0)
  else
    let total := if isMx (mapFmt m) then 32 else 1024
    State.storeUnits c (c.who 2) m (g 8) (g 9) (g 10) (g 11) total (total + 1) s c.prog c.flags

/-- Whether a command that needs the active plane has to wait for its refetch (R248). -/
def Core.planeWaits (k : Core) (c : Cmd) : Bool := c.op == 2 && k.active.refetch

/-- Whether the head of a core's queue is a tile ready to run. -/
def State.tileReady (s : State) (ck : Nat) : Bool :=
  match (s.core ck).mq with
  | [] => false
  | c :: _ => c.op == 2 && c.prog == 0 && c.grp.isNone && s.running c.ctx && !(s.core ck).planeWaits c

/-- The arbiter's visit of a core ends when the core has no tile ready after one has run or has been parked (R229). -/
def State.endVisit (s : State) (ck : Nat) : State :=
  if s.tileReady ck then s
  else s.modCluster (ck / 8) fun k => if k.lastCore = ck % 8 then { k with tiles := 4 } else k

/-- R230: the command at the head of a core's queue runs and completes, waits for a replay, or ends with an error.  A tile
runs once the arbiter has granted it; one that waits for a replay has given the array up. [DEDUCED, notes/assumptions/22.md] -/
def execMatrixCommandComplete (core : Nat) (s : State) : Out :=
  match (s.core core).mq with
  | [] => .next s
  | c :: _ =>
    if c.grp.isSome || !s.running c.ctx || (s.core core).planeWaits c || (c.op == 2 && c.prog == 0) then .next s
    else match (if c.op = 5 then c.lost else none) with
    | some va => .next ((s.loseCmd core 1 c 0 va).endVisit core)
    | none =>
      let r := s.runMatrix core c
      let parks := match r.err with | some (.xlat _ _ _, _) => true | _ => false
      let c' := { c with prog := if c.op = 2 then (if parks then 0 else c.prog) else r.prog, flags := r.flags }
      let s := r.s.modCmd core 1 c.n fun _ => c'
      match r.err with
      | none =>
        let a := if c.op = 5 then s.cmdAcked core 1 c.n else (true, s)
        .next (if a.1 then (a.2.endCmd core 1 c' none 0).endVisit core else a.2)
      | some (e, acc) =>
        let t := s.failCmd core 1 2 acc { c' with flags := if c.op = 5 then c'.flags else 0 } 0 e
        .next ((t.cmdFailed core 1 c').endVisit core)

/-! ### The arbiter (R229) and refetches (R248, R249) -/

/-- Whether a granted tile of a core has not completed. -/
def State.tileRuns (s : State) (ck : Nat) : Bool :=
  match (s.core ck).mq with
  | [] => false
  | c :: _ => c.op == 2 && c.prog != 0

/-- R229: the arbiter grants the array one tile. -/
def execArrayGrant (cluster : Nat) (s : State) : Out :=
  let k := s.cluster cluster
  let again := s.tileReady (cluster * 8 + k.lastCore) && decide (k.tiles < (s.core (cluster * 8 + k.lastCore)).weight)
  let order := (List.range 8).map fun i => (k.lastCore + 1 + i) % 8
  if (List.range 8).any fun i => s.tileRuns (cluster * 8 + i) then .next s
  else
    match (if again then some k.lastCore else order.find? fun i => s.tileReady (cluster * 8 + i)) with
    | none => .next s
    | some i =>
      let ck := cluster * 8 + i
      let n := (((s.core ck).mq.head?).map (·.n)).getD 0
      let s := s.modCmd ck 1 n fun c => { c with prog := 1 }
      .next (s.modCluster cluster fun x => { x with lastCore := i, tiles := if again then k.tiles + 1 else 1 })

/-- The values of a refetch: each is one of those that the load and the later fetches `olds` found there, unpredictably
(R249). -/
def State.mixFetch (s : State) (olds : List (FMap Nat)) : FMap Nat → FMap Nat × State
  | [] => ([], s)
  | (k, v) :: m =>
    let vs := (v :: olds.map fun o => FMap.getD o k v).eraseDups
    let d := if vs.length ≤ 1 then (0, s) else s.draw
    let r := State.mixFetch d.2 olds m
    ((k, vs.getD (d.1 % vs.length) v) :: r.1, r.2)

/-- What a plane's source held at moments since a clock: the plane as each of them would load it. -/
def State.pastPlanes (s : State) (w : Who) (m : List Nat) (ctl nib since : Nat) : List Plane :=
  (s.pastMems since).filterMap fun mem =>
    match (s.setMem mem).loadPlane w true m ctl nib with
    | .ok r => some r.1
    | .error _ => none

def Core.plane (c : Core) (k : Nat) : Plane := if k = 0 then c.active else c.shadowP
def Core.setPlane (c : Core) (k : Nat) (p : Plane) : Core := if k = 0 then { c with active := p } else { c with shadowP := p }

/-- The plane that a refetch has failed for is emptied, wherever it now stands (R248). -/
def Core.breakPlane (c : Core) (at_ code sub addr : Nat) : Core :=
  let one := fun (p : Plane) =>
    if p.refetch && p.at_ == at_ then ({ broken := code, brokenSub := sub, brokenAt := addr } : Plane) else p
  { c with active := one c.active, shadowP := one c.shadowP }

/-- The identity of a plane's refetch among the requests parked for replay. -/
def planeId (ck : Nat) (p : Plane) : Nat := ck * 2 ^ 64 + p.at_

/-- R248: plane 0 (active) or 1 (shadow) of a core is loaded again from its record. -/
def execPlaneRefetch (core plane : Nat) (s : State) : Out :=
  let p := (s.core core).plane plane
  let ctx := ((s.cluster (core / 8)).owner).getD 0
  let id := planeId core p
  if !p.refetch || p.state == 0 || !s.running ctx || (s.ctx ctx).parked.any (fun x => x.who == 8 && x.id == id) then .next s
  else
    let die := core / 8192
    let w : Who := { ctx := ctx, die := die, cluster := core / 8 % 1024, core := core % 8, eng := 2, level := p.level }
    let dead := fun (s : State) (code sub addr : Nat) =>
      s.modCore core fun c => c.setPlane plane { broken := code, brokenSub := sub, brokenAt := addr }
    match s.loadPlane w true p.map p.ctl p.nibbles with
    | .ok (q, s) =>
      let olds := p :: s.pastPlanes w p.map p.ctl p.nibbles p.at_
      let e := s.mixFetch (olds.map (·.elems)) q.elems
      let x := e.2.mixFetch (olds.map (·.scales)) q.scales
      let n := x.2.mixFetch (olds.map (·.sel)) q.sel
      match n.1.find? fun y => decide (y.2 / 4 ≤ y.2 % 4) with
      | some y => .next (dead n.2 cRANGE 0 (p.nibbles % 2 ^ 56 + (y.1 / 128 * (fmtK p.fmt / 2) + y.1 % 128) / 2))
      | none => .next (n.2.modCore core fun c => c.setPlane plane { q with elems := e.1, scales := x.1, sel := n.1, at_ := p.at_ })
    | .error (.xlat cause level a) =>
      if 512 ≤ s.replayHeld die then .next s
      else
      let g := s.openGroup ctx
      let s := g.2.faultRecords w w.place g.1 aRead [(cause, level, a)] []
      .next (s.modCtx ctx fun c => { c with parked := c.parked ++ [{ grp := g.1, who := 8, id := id, cause := cause, addr := a }] })
    | .error (.data sub a) => .next (((dead s cDATAERR sub a).log 1 sub ctx die 0 a).freeze ctx 2 a)
    | .error (.trap code sub a) => .next (dead s code sub a)
    | .error .stall => .next s
    | .error (.turn m) => .next (s.askLine m)
    | .error (.shadowEnd _) => .next s
    | .error (.nomem _) => .next s
    | .error (.egress pa) =>
      .next (if (s.core core).frozen then s else (s.modCore core fun c => { c with frozen := true }).log 3 w.core 0 die 0 pa)

/-- R223: the matrix state and the polynomial table (08 R218) of a core that starts the first group of a launch. -/
def Core.clearMatrix (c : Core) : Core :=
  { c with active := {}, shadowP := {}, acc := [], sc := [0, 0, 0, 0], weight := 1, viewActive := [0, 0, 0],
           viewShadow := [0, 0, 0], poly := [] }

end Sys2Proof.Machine
end

