-- ==== Sys2Proof/Machine/Place.lean ====
section
/-!
DEFINITION. Placement (12 R289 to R299): positions, argument blocks, the start of groups, guaranteed-progress rotation,
and the waking and gating of clusters.
-/

namespace Sys2Proof.Machine

/-! ### Occupancy -/

def Launch.foots (l : Launch) (k : Nat) : Nat := ((l.feet.find? fun x => x.2 == k).map (·.1)).getD 1

/-- The groups that a position still has to run or is running, under guaranteed progress. -/
def Launch.posLeft (l : Launch) (groups : List Group) (j : Nat) : Bool :=
  let total := if l.assign.isEmpty then (if j < l.ng then ceilDiv (l.ng - j) (max 1 l.positions.length) else 0)
    else (l.assign.filter (· == l.positions.getD j 0)).length
  decide (l.nextAt.getD j 0 < total) || groups.any fun g => g.q == l.q && g.lseq == l.lseq && g.position == l.positions.getD j 0

/-- The cluster and first core of a position of a partition (R298). -/
def posPlace (cls : List (Nat × Nat)) (size p : Nat) : (Nat × Nat) × Nat :=
  let per := 8 / size
  (cls.getD (p / per) (0, 0), p % per * size)

/-- Whether a core is taken, for a real launch: by another real group, or by a position that a launch of guaranteed
progress holds (R292, R296, R346). -/
def State.coreTaken (s : State) (c : Nat) (die cluster core : Nat) : Bool :=
  (s.work.groups.any fun g => g.die == die && g.cluster == cluster && g.shadow.isNone && !g.out
      && decide (g.c0 ≤ core ∧ core < g.c0 + g.f))
    || s.work.launches.any fun l =>
        l.prog && l.ctx == c && (List.range l.positions.length).any fun j =>
          let p := posPlace (s.ctx c).clusterList l.posSize (l.positions.getD j 0)
          p.1 == (die, cluster) && decide (p.2 ≤ core ∧ core < p.2 + l.posSize) && l.posLeft s.work.groups j

/-- The mask of taken cores of a cluster. -/
def State.takenMask (s : State) (c : Nat) (k : Nat × Nat) : Nat :=
  maskOf ((List.range 8).map (s.coreTaken c k.1 k.2))

/-- Clusters with their masks. -/
abbrev Occ := List ((Nat × Nat) × Nat)

/-- The clusters of a partition that may take groups: awake ones, or all. -/
def State.occ (s : State) (c : Nat) (all : Bool) : Occ :=
  ((s.ctx c).clusterList.filter fun k => all || (s.cluster (clusterKey k.1 k.2)).awake == 1).map fun k => (k, s.takenMask c k)

def Occ.set (o : Occ) (k : Nat × Nat) (m : Nat) : Occ := o.map fun x => if x.1 = k then (k, m) else x

/-- Free positions of a size in a partition, rising (R296). -/
def State.freePositions (s : State) (c size : Nat) : List Nat :=
  let cls := (s.ctx c).clusterList
  (List.range (cls.length * (8 / size))).filter fun p =>
    let q := posPlace cls size p
    footFree (s.takenMask c q.1) size q.2

/-- R292: among the clusters that fit, the one with the fewest free cores, the first of equals. -/
def choose (feet : List (Nat × Nat)) : Occ → Option ((Nat × Nat) × List (Nat × Nat) × Nat × Nat)
  | [] => none
  | (k, m) :: t =>
    match pack m feet, choose feet t with
    | none, r => r
    | some (ps, m'), none => some (k, ps, m', 8 - popc 8 m)
    | some (ps, m'), some r => if 8 - popc 8 m ≤ r.2.2.2 then some (k, ps, m', 8 - popc 8 m) else some r

/-- Where instance g of a launch goes in an occupancy: its cluster, the first core of each kernel's group, the new
occupancy, and its position number. -/
def Launch.seat (l : Launch) (cls : List (Nat × Nat)) (o : Occ) (g : Nat) : Option ((Nat × Nat) × List (Nat × Nat) × Occ × Nat) :=
  if l.assign.isEmpty then
    (choose l.feet o).map fun r => (r.1, r.2.1, o.set r.1 r.2.2.1, 0)
  else
    let p := l.assign.getD g 0
    let q := posPlace cls l.posSize p
    match o.find? fun x => x.1 == q.1 with
    | none => none
    | some (k, m) =>
      if !footFree m l.posSize q.2 then none
      else
        let full := m ||| (2 ^ l.posSize - 1) * 2 ^ q.2
        if l.phrase then (pack 0 l.feet).map fun r => (k, r.1, o.set k full, p)
        else some (k, [(0, q.2)], o.set k full, p)

/-- The next group that a launch can place in an occupancy, with its seat: the lowest one not placed (R292), or, where each
group has a position of its own, the lowest whose position is free and runs no earlier group first (R298). -/
def Launch.nextSeat (l : Launch) (cls : List (Nat × Nat)) (o : Occ) : Option (Nat × (Nat × Nat) × List (Nat × Nat) × Nat) :=
  let at_ := fun (g : Nat) => (l.seat cls o g).map fun r => (g, r.1, r.2.1, r.2.2.2)
  if l.assign.isEmpty then at_ l.placed
  else
    let due := fun (g : Nat) => !l.begun.contains g
      && !((List.range g).any fun h => l.assign.getD h 0 == l.assign.getD g 0 && !l.begun.contains h)
    ((List.range l.ng).filter due).findSome? at_

/-- Where the groups from g on go, taken together; none when one has no place. -/
def Launch.seatAll (l : Launch) (cls : List (Nat × Nat)) : Nat → Occ → Nat → Option (List ((Nat × Nat) × List (Nat × Nat) × Nat))
  | 0, _, _ => some []
  | n + 1, o, g =>
    match l.seat cls o g with
    | none => none
    | some (k, ps, o, p) =>
      match Launch.seatAll l cls n o (g + 1) with
      | none => none
      | some t => some ((k, ps, p) :: t)

/-! ### Deterministic positions (R298) -/

/-- The first position from p on whose load is least. -/
def leastFrom (load : List Nat) : Nat → Nat → Nat
  | 0, p => p
  | n + 1, p =>
    if load.any (fun x => decide (x < load.getD p 0)) then leastFrom load n ((p + 1) % max 1 load.length) else p

/-- The assignment of groups g, g + 1, … to positions. -/
def assignGo (np : Nat) : Nat → Nat → List Nat → List Nat
  | 0, _, _ => []
  | n + 1, g, load =>
    let p := leastFrom load np (mixZ g 0 / 2 ^ 32 * np / 2 ^ 32)
    p :: assignGo np n (g + 1) (load.set p (load.getD p 0 + 1))

def assignDet (ng np : Nat) : List Nat := if np = 0 then [] else assignGo np ng 0 (List.replicate np 0)

/-! ### Argument blocks (15 R315, 16 R337) -/

/-- The argument block of part j of a launch (24 R440).  The parts of a split after the first take blocks of the launch area
above the shadow blocks. [DESIGN CHOICE, notes/assumptions/24.md] -/
def State.argAddr (s : State) (l : Launch) (j : Nat) : Nat :=
  let base := ((s.ctx l.ctx).area 0x20).1
  if j = 0 then base + 128 * (4096 * (s.queue l.q).idx + l.lseq % 4096) else base + 0x800800 + 128 * l.partsAt.getD (j - 1) 0

/-- The lowest `n` blocks for parts that no launch of the context holds; none when the launch area has not as many. -/
def State.freeParts (s : State) (c n : Nat) : Option (List Nat) :=
  let used := (s.work.launches.filter (·.ctx == c)).flatMap (·.partsAt)
    ++ s.work.queues.flatMap fun q => if q.2.ctx = c then q.2.parts.flatMap (·.2) else []
  let room := (((s.ctx c).area 0x20).2 - 0x800800) / 128
  let free := ((List.range (min room (used.length + n))).filter fun k => !used.contains k).take n
  if free.length = n then some free else none

/-- The shadow argument block of a queue (24 R440). -/
def State.shadowAddr (s : State) (c q : Nat) : Nat := ((s.ctx c).area 0x20).1 + 0x800000 + 128 * (s.queue q).idx

/-- The bytes of an argument block: arguments below `narg`, LSEQ, NG and QUEUE. -/
def argBlock (args : List Nat) (narg lseq ng q : Nat) : Nat :=
  let a := (List.range 12).foldr (fun i v => (if i < narg then args.getD i 0 else 0) + 2 ^ 64 * v) 0
  a + 2 ^ 768 * (lseq + 2 ^ 64 * (ng + 2 ^ 64 * q))

/-- The reduction range of part j of s (16 R337). [DESIGN CHOICE, notes/assumptions/24.md] -/
def splitWord (w parts j : Nat) : Nat :=
  let len := w % 2 ^ 32
  let c := ceilDiv len parts
  min c (len - j * c) + (bits w 32 31 + j * c) % 2 ^ 31 * 2 ^ 32 + w / 2 ^ 63 * 2 ^ 63

/-- NARG of a launch: the largest among its kernels. -/
def Launch.narg (l : Launch) : Nat := l.kernels.foldl (fun n k => max n k.narg) 0

/-- Write the argument block of part j of a launch. [DESIGN CHOICE, notes/assumptions/24.md] -/
def State.writeArg (s : State) (l : Launch) (j : Nat) : Except QErr State :=
  let i := (l.kernels.head?.map (·.splitarg)).getD 0
  let args := if l.split = 1 then l.args else l.args.set i (splitWord (l.args.getD i 0) l.split j)
  s.qWrite l.ctx (s.argAddr l j) 128 (argBlock args l.narg l.lseq l.recNg l.q)

/-! ### Starts (R292, R299; 10 R256, 13 R303, 09 R223) -/

/-- The number by which a core remembers the launch whose group it started last. -/
def launchMark (q lseq : Nat) (shadow : Bool) : Nat := 2 * launchNo q lseq + b2n shadow

/-- A core starts a group of a launch: matrix and polynomial state is cleared by the first one; the start is an
acquire (16 R335). -/
def Core.beginGroup (c : Core) (mark slots : Nat) : Core :=
  let c := if c.started.contains mark then c else { (c.clearMatrix) with started := mark :: c.started }
  { c with l1 := [], reserved := c.reserved.filter fun k => decide (slots ≤ k) }

/-- Start all threads of a group that has its slots; their launch's take-up was an acquire (16 R335, R338). -/
def State.startThreads (s : State) (l : Launch) (g : Group) : State :=
  let k := l.kernels.getD g.kern {}
  let det := l.det
  let mark := launchMark l.q l.lseq g.shadow.isSome
  let s := (List.range k.nc).foldl (fun s i => s.modCore (coreKey g.die g.cluster (g.c0 + i)) fun c => c.beginGroup mark k.slots) s
  let h := k.tcmb / (16 * k.slots) * 16
  let base := if g.shadow.isSome then s.shadowAddr l.ctx l.q else s.argAddr l (g.g % l.split)
  (List.range k.group).foldl
    (fun s t =>
      let slot := t % k.slots
      let a : Act :=
        { ctx := l.ctx, die := g.die, cluster := g.cluster, core := g.c0 + t / k.slots, slot := slot, wp := wsOf slot,
          orig := 0, det := det, shadow := g.shadow,
          launch := some { q := l.q, lseq := l.lseq, grp := g.g, thr := t, kern := g.kern } }
      let id := s.sched.nextAct
      (s.startAct a k.entry base (win0 (0x2900 + (slot + 1) * h)) (g.g / l.split) t).syncAct id l.acq) s

/-- Whether slots 0 to SLOTS - 1 of every core that runs threads of a group are free (R292), whatever workspaces handlers hold.
[DESIGN CHOICE, notes/assumptions/54.md] -/
def State.groupSlotsFree (s : State) (k : Kernel) (g : Group) : Bool :=
  (List.range k.nc).all fun i => (List.range k.slots).all fun j => s.slotFree (coreKey g.die g.cluster (g.c0 + i)) j

/-- Shadows end whose groups lie where a real group goes (17 R346). -/
def State.endShadowsAt (s : State) (g : Group) : State :=
  let ovf := fun (x : Group) => x.shadow.isSome && x.shadow != g.shadow && x.die == g.die && x.cluster == g.cluster && overlaps x.c0 x.f g.c0 g.f
  (s.work.groups.filter ovf).foldl (fun s x => match x.shadow with | some q => s.discardShadow q 11 | none => s) s

/-- A group takes its position: its barrier is set up, and its slots are reserved for it (R292).
[DEDUCED, notes/assumptions/25.md] -/
def State.placeGroup (s : State) (l : Launch) (g : Group) : State :=
  let k := l.kernels.getD g.kern {}
  let s := (s.endShadowsAt g).setBar (groupBarKey g.die g.cluster g.c0) { v := true, count := k.group, arrived := 0, phase := 0 }
  let s := s.modWork fun w => { w with groups := w.groups ++ [{ g with alive := k.group, start := false }] }
  (List.range k.nc).foldl
    (fun s i => s.modCore (coreKey g.die g.cluster (g.c0 + i)) fun c => { c with reserved := List.range k.slots }) s

/-- The groups of an instance that have taken their positions and wait for their slots. -/
def State.heldOf (s : State) (q lseq g : Nat) (shadow : Option Nat) : List Group :=
  s.work.groups.filter fun x => x.q == q && x.lseq == lseq && x.g == g && x.shadow == shadow && !x.start && !x.out

/-- The waiting groups of an instance start together, once the slots of every one are free (R292, 15 R316). -/
def State.startHeld (s : State) (l : Launch) (gs : List Group) : State :=
  if gs.all fun g => s.groupSlotsFree (l.kernels.getD g.kern {}) g then
    gs.foldl (fun s g =>
      let s := s.modWork fun w =>
        { w with groups := w.groups.map fun x =>
            if x.q = g.q ∧ x.lseq = g.lseq ∧ x.g = g.g ∧ x.kern = g.kern ∧ x.shadow = g.shadow then { x with start := true } else x }
      s.startThreads l { g with start := true }) s
  else s

/-- The pipes of an instance, placed in the regions of their consumers (15 R317). -/
def State.placePipes (s : State) (l : Launch) (g : Nat) (ps : List (Nat × Nat)) : State :=
  let region := fun (k : Nat) => ((ps.find? fun x => x.1 == k).map (·.2)).getD 0 * 0x10000
  ((List.range l.pipes.length).zip l.pipes).foldl
    (fun s p =>
      let x := fun (i : Nat) => p.2.getD i 0
      let before := ringBytes (l.pipes.take p.1) (x 4)
      s.setPipe (pipeKey l.q l.lseq g (x 0))
        { fromK := x 3, toK := x 4, slots := x 1, slotb := x 2, base := win1 (region (x 4) + before),
          st := List.replicate (x 1) 0 }) s

/-- Place instance g of a launch. -/
def State.placeInstance (s : State) (l : Launch) (g : Nat) (at_ : Nat × Nat) (ps : List (Nat × Nat)) (pos : Nat)
    (shadow : Option Nat) : State :=
  let s := s.placePipes l g ps
  let s := ps.foldl
    (fun s x =>
      s.placeGroup l { ctx := l.ctx, q := l.q, lseq := l.lseq, g := g, kern := x.1, die := at_.1, cluster := at_.2,
                       c0 := x.2, f := l.foots x.1, position := pos, shadow := shadow }) s
  let s := s.startHeld l (s.heldOf l.q l.lseq g shadow)
  if shadow.isSome then s
  else
    let begun := fun (x : Launch) => if x.assign.isEmpty then x.begun else g :: x.begun
    s.mapLaunches fun x => if x.q = l.q ∧ x.lseq = l.lseq then { x with placed := x.placed + 1, begun := begun x } else x

/-! ### Guaranteed progress (R296, R297) -/

/-- The groups of position j of a launch, rising. -/
def Launch.groupsAt (l : Launch) (j : Nat) : List Nat :=
  if l.assign.isEmpty then (List.range (if j < l.ng then ceilDiv (l.ng - j) (max 1 l.positions.length) else 0)).map fun k => j + k * l.positions.length
  else (List.range l.ng).filter fun g => l.assign.getD g 0 == l.positions.getD j 0

/-- The groups of a launch at a position. -/
def State.groupsOf (s : State) (l : Launch) (p : Nat) : List Group :=
  s.work.groups.filter fun g => g.q == l.q && g.lseq == l.lseq && g.position == p && g.shadow.isNone

/-- The next group that position j runs, after the last one that ran there, wrapping: a group swapped out, or the next
one not started. -/
def State.nextGroup (s : State) (l : Launch) (j : Nat) : Option Nat :=
  let gs := l.groupsAt j
  let started := l.nextAt.getD j 0
  let last := l.lastAt.getD j 0
  let out := ((s.groupsOf l (l.positions.getD j 0)).filter (·.out)).map (·.g)
  let can := fun (g : Nat) => out.contains g || gs.getD started l.ng == g
  match (gs.filter fun g => decide (last ≤ g)).find? can with
  | some g => some g
  | none => gs.find? can

/-- What a rotation saves of TCM and scratchpad, as ranges of memory keys: the workspaces of a group's threads that hold a
slot, the group's TCM share and its scratchpad region. -/
def groupRanges (k : Kernel) (g : Group) (ts : List Act) : List (Nat × Nat) :=
  (ts.filter fun a => a.parked.isNone).map (fun a => (tcmKey a.die a.cluster a.core a.wp, 0x140))
    ++ (List.range k.nc).map (fun i => (tcmKey g.die g.cluster (g.c0 + i) 0x2900, k.tcmb))
    ++ [(spadKey g.die g.cluster (g.c0 * 0x10000), g.f * 0x10000)]

/-- The bytes of ranges that are not zero. -/
def State.rangeBytes (s : State) (rs : List (Nat × Nat)) : List (Nat × Nat) :=
  (s.mem.filter fun x => rs.any fun r => decide (r.1 ≤ x.1 ∧ x.1 < r.1 + r.2)).map fun x => (x.1, x.2.toNat)

/-- Ranges become zero. -/
def State.clearRanges (s : State) (rs : List (Nat × Nat)) : State :=
  s.setMem (rs.foldl (fun m r => Memory.zero m r.1 (r.1 + r.2)) s.mem)

/-- The bytes that the image of a group takes in the group swap area: what it saves of memory, its threads' lanes and its
cores' matrix state. [DESIGN CHOICE, notes/assumptions/25.md] -/
def imageSize (k : Kernel) (g : Group) (ts : List Act) : Nat :=
  (groupRanges k g ts).foldl (fun n r => n + r.2) (ts.foldl (fun n a => n + 144 * a.grant) (g.f * Config.coreImage))

/-- Where images of these sizes go in the group swap area of a context, each the lowest place free; none without room. -/
def State.imagePlaces (s : State) (c : Nat) (held : List (Nat × Nat)) : List Nat → Option (List (Nat × Nat))
  | [] => some []
  | n :: ns =>
    let n := ceilDiv n 128 * 128
    let free := fun (o : Nat) => decide (o + n ≤ ((s.ctx c).area 0x28).2) && !(held.any fun h => overlaps h.1 h.2 o n)
    let least := ((0 :: held.map fun h => h.1 + h.2).filter free).foldl
      (fun (r : Option Nat) o => match r with | none => some o | some x => some (min x o)) none
    match least with
    | none => none
    | some o => (State.imagePlaces s c ((o, n) :: held) ns).map ((o, n) :: ·)

/-- The matrix state of a core that a rotation saves; its planes are refetched before their next use (09 R248). -/
def Core.matrixPart (c : Core) : Core :=
  let pl := fun (p : Plane) => if p.state = 0 then p else { p with refetch := true }
  { active := pl c.active, shadowP := pl c.shadowP, acc := c.acc, sc := c.sc, weight := c.weight, poly := c.poly,
    viewActive := c.viewActive, viewShadow := c.viewShadow }

/-- A core with saved matrix state. -/
def Core.withMatrix (c m : Core) : Core :=
  { c with active := m.active, shadowP := m.shadowP, acc := m.acc, sc := m.sc, weight := m.weight, poly := m.poly,
           viewActive := m.viewActive, viewShadow := m.viewShadow }

/-- The threads of a group. -/
def State.groupThreads (s : State) (g : Group) : List Act :=
  s.allActs.filter fun a => a.orig == 0 && (a.launch.map fun l => l.q == g.q && l.lseq == g.lseq && l.grp == g.g && l.kern == g.kern) == some true

/-- Take activations out of the machine. -/
def State.removeActs (s : State) (ids : List Nat) : State :=
  let s := s.setActs (s.acts.filter fun p => !ids.contains p.1)
  if ids.contains s.cur.id then s.modCur fun a => { a with live := false } else s

/-- R297: a group is swapped out to a place in the group swap area; its threads leave their slots whatever their states, and
its TCM and scratchpad stay as they are (R291). [DESIGN CHOICE, notes/assumptions/25.md] -/
def State.swapGroupOut (s : State) (l : Launch) (g : Group) (at_ : Nat × Nat) : State :=
  let k := l.kernels.getD g.kern {}
  let ts := s.groupThreads g
  let cores := (List.range g.f).map fun i => coreKey g.die g.cluster (g.c0 + i)
  let g' : Group :=
    { g with out := true, saved := s.rangeBytes (groupRanges k g ts), savedActs := ts, image := at_
             savedCores := cores.map (fun ck => (ck, (s.core ck).matrixPart)), savedBar := some (s.bar (groupBarKey g.die g.cluster g.c0)) }
  let s := (s.removeActs (ts.map (·.id))).writeImage l.ctx g.die (((s.ctx l.ctx).area 0x28).1 + at_.1) (at_.2 / 128)
  s.mapGroups fun x => if x.q = g.q ∧ x.lseq = g.lseq ∧ x.g = g.g ∧ x.kern = g.kern then g' else x

/-- The lanes that groups that are swapped out need at their return. -/
def lanesNeeded (gs : List Group) : Nat := (gs.flatMap (·.savedActs)).foldl (fun n a => n + (a.grant - a.saved)) 0

/-- The shadows end that lie where groups come back, and those whose lanes they need (17 R346). -/
def State.clearFor (s : State) (gs : List Group) : State :=
  let s := gs.foldl State.endShadowsAt s
  match gs with
  | [] => s
  | g :: _ =>
    if lanesNeeded gs ≤ s.freeLanes { die := g.die, cluster := g.cluster } then s
    else
      (s.work.groups.filter fun x => x.die == g.die && x.cluster == g.cluster).foldl
        (fun s x => match x.shadow with | some q => s.discardShadow q 11 | none => s) s

/-- Whether the groups of an instance that are swapped out can come back together: their threads' slots are free, and the lanes of
their grants (08 R190). -/
def State.roomFor (s : State) (gs : List Group) : Bool :=
  let t := s.clearFor gs
  (gs.flatMap (·.savedActs)).all (fun a => a.parked.isSome || t.slotFree a.coreKey a.slot)
    && (match gs with | [] => true | g :: _ => decide (lanesNeeded gs ≤ t.freeLanes { die := g.die, cluster := g.cluster }))

/-- The slots of a group that is swapped out are reserved for it (R292). -/
def State.reserveFor (s : State) (g : Group) : State :=
  let hold := fun (c : Core) (k : Nat) => if c.reserved.contains k then c else { c with reserved := k :: c.reserved }
  (g.savedActs.filter fun a => a.parked.isNone).foldl (fun s a => s.modCore a.coreKey fun c => hold c a.slot) s

/-- R297: a group is swapped in on its own position, where shadows end (17 R346); what was replayed or asked of its threads
while it was out takes effect. -/
def State.swapGroupIn (s : State) (l : Launch) (g : Group) : State :=
  let k := l.kernels.getD g.kern {}
  let s := (s.endShadowsAt g).clearRanges (groupRanges k g g.savedActs)
  let s := g.saved.foldl (fun s x => s.wrN x.1 1 x.2) s
  let s := g.savedActs.foldl (fun s a => s.setActs (s.acts.put a.id { a with wd := s.cycle a.die })) s
  let s := g.savedCores.foldl (fun s x => s.modCore x.1 fun c => { (c.withMatrix x.2) with l1 := [], reserved := [] }) s
  let s := s.setBar (groupBarKey g.die g.cluster g.c0) (g.savedBar.getD {})
  let back : Group := { g with out := false, saved := [], savedActs := [], savedCores := [], savedBar := none, image := (0, 0), replays := [], trets := [] }
  let s := s.mapGroups fun x => if x.q = g.q ∧ x.lseq = g.lseq ∧ x.g = g.g ∧ x.kern = g.kern then back else x
  let s := g.replays.foldl (fun s r =>
    s.onAct r.2.id fun s => if r.1 then s.trapHere cPDENY r.2.cause r.2.addr else s.goOn) s
  g.trets.foldl (fun s t => s.tretOp t.1 t.2) s

/-- The groups of a position that are out under a group index. -/
def State.outsOf (s : State) (l : Launch) (j g : Nat) : List Group :=
  (s.groupsOf l (l.positions.getD j 0)).filter fun x => x.g == g && x.out

/-- A position of a guaranteed-progress launch takes up its next group. -/
def State.bringIn (s : State) (l : Launch) (j g : Nat) : State :=
  let p := l.positions.getD j 0
  let outs := s.outsOf l j g
  let last := fun (s : State) => s.mapLaunches fun x => if x.q = l.q ∧ x.lseq = l.lseq then { x with lastAt := x.lastAt.set j (g + 1) } else x
  if !outs.isEmpty then last (outs.foldl (fun s x => s.swapGroupIn l x) (s.clearFor outs))
  else
    let q := posPlace (s.ctx l.ctx).clusterList l.posSize p
    let ps := if l.phrase then ((pack 0 l.feet).map (·.1)).getD [] else [(0, q.2)]
    let s := s.placeInstance l g q.1 ps p none
    last (s.mapLaunches fun x => if x.q = l.q ∧ x.lseq = l.lseq then { x with nextAt := x.nextAt.set j (x.nextAt.getD j 0 + 1) } else x)

/-- Whether the cluster of a position is awake. -/
def State.posAwake (s : State) (l : Launch) (p : Nat) : Bool :=
  let q := posPlace (s.ctx l.ctx).clusterList l.posSize p
  (s.cluster (clusterKey q.1.1 q.1.2)).awake == 1

/-- A guaranteed-progress launch is given its positions, the free ones of the partition or those of R298, and gated clusters
that hold them are woken; without a free position it waits for one (R296). -/
def State.givePositions (s : State) (l : Launch) : State :=
  let cls := (s.ctx l.ctx).clusterList
  let ps := if l.assign.isEmpty then s.freePositions l.ctx l.posSize else List.range (cls.length * (8 / l.posSize))
  let zeros := List.replicate ps.length 0
  let used := if l.assign.isEmpty then ps else ps.filter l.assign.contains
  let s := s.mapLaunches fun x => if x.q = l.q ∧ x.lseq = l.lseq then { x with positions := ps, nextAt := zeros, lastAt := zeros } else x
  used.foldl (fun s p => (let k := (posPlace cls l.posSize p).1; s.wakeCluster (clusterKey k.1 k.2))) s

/-- Place the next group of a guaranteed-progress launch, and wake the gated clusters of positions with one (R296); one that is swapped out waits for room, its slots reserved. -/
def State.placeProg (s : State) (l : Launch) : Bool × State :=
  if l.positions.isEmpty then (false, s.givePositions l)
  else
    let other := fun (p : Nat) =>
      let q := posPlace (s.ctx l.ctx).clusterList l.posSize p
      s.work.groups.any fun g => g.shadow.isNone && !g.out && (g.die, g.cluster) == q.1 && overlaps g.c0 g.f q.2 l.posSize
    let ready := (List.range l.positions.length).filterMap fun j =>
      let p := l.positions.getD j 0
      if s.posAwake l p && !other p then (s.nextGroup l j).map fun g => (j, g) else none
    let s := (List.range l.positions.length).foldl (fun s j =>
      let k := (posPlace (s.ctx l.ctx).clusterList l.posSize (l.positions.getD j 0)).1
      if (s.nextGroup l j).isSome then s.wakeCluster (clusterKey k.1 k.2) else s) s
    match ready.find? fun r => s.roomFor (s.outsOf l r.1 r.2) with
    | none => (false, (ready.flatMap fun r => s.outsOf l r.1 r.2).foldl State.reserveFor s)
    | some (j, g) => (true, s.bringIn l j g)

/-! ### One offer (16 R333) -/

/-- A co-resident launch is admitted once a launch barrier of the package is free (13 R303).
[DEDUCED, notes/assumptions/25.md] -/
def State.firstOffer (s : State) (l : Launch) : State :=
  let used := s.work.launches.filterMap (·.lbar)
  match (List.range 64).find? fun n => !used.contains n with
  | none => s
  | some n =>
    let s := s.mapLaunches fun x => if x.q = l.q ∧ x.lseq = l.lseq then { x with lbar := some n, admitted := true } else x
    s.setBar (launchBarKey n) { v := true, count := l.ng * (l.kernels.map (·.group)).sum, arrived := 0, phase := 0 }

/-- R295: gated clusters are woken for a co-resident launch, as many together as its groups need, the lowest first. -/
def State.wakeFor (s : State) (l : Launch) : State :=
  let cls := (s.ctx l.ctx).clusterList
  let all := s.occ l.ctx true
  let gated := cls.filter fun k => (s.cluster (clusterKey k.1 k.2)).awake == 0
  let with_ := fun (n : Nat) => l.seatAll cls l.ng (all.filter fun x => !gated.contains x.1 || (gated.take n).contains x.1) 0
  match (List.range (gated.length + 1)).findSome? with_ with
  | none => s
  | some seats => seats.foldl (fun s x => s.wakeCluster (clusterKey x.1.1 x.1.2)) s

/-- Place what a launch can place now: its next group, or all groups of a co-resident launch.  True when something was
placed. -/
def State.placeLaunch (s : State) (l : Launch) : Bool × State :=
  let cls := (s.ctx l.ctx).clusterList
  if !l.admitted then (false, s.firstOffer l)
  else if l.prog then s.placeProg l
  else if l.cores then
    match l.seatAll cls l.ng (s.occ l.ctx false) 0 with
    | some seats =>
      (true, ((List.range seats.length).zip seats).foldl (fun s x => s.placeInstance l x.1 x.2.1 x.2.2.1 x.2.2.2 none) s)
    | none => (false, s.wakeFor l)
  else
    match l.nextSeat cls (s.occ l.ctx false) with
    | none => (false, s)
    | some (g, k, ps, pos) => (true, s.placeInstance l g k ps pos none)

/-- Whether a launch has a group that waits for placement; under guaranteed progress also one that is swapped out while
its position stands empty. -/
def State.waits (s : State) (l : Launch) : Bool :=
  !l.shadow && (decide (l.placed < l.ng)
    || (l.prog && (List.range l.positions.length).any fun j =>
          let gs := s.groupsOf l (l.positions.getD j 0)
          !gs.isEmpty && gs.all (·.out)))

/-- The launch that a queue offers: the first one with a group that waits. [DEDUCED, notes/assumptions/25.md] -/
def State.offer (s : State) (q : Nat) : Option Launch :=
  (s.work.launches.filter fun l => l.q == q && s.waits l).foldl
    (fun (r : Option Launch) l => match r with | none => some l | some x => if l.lseq < x.lseq then some l else some x) none

/-- The queues of a context in the order of R333. -/
def State.offerOrder (s : State) (c : Nat) : List Nat :=
  [3, 2, 1, 0].flatMap fun pri =>
    let qs := (s.work.queues.filter fun e => e.2.ctx == c && e.2.st != 0 && e.2.pri == pri).map (·.1)
    let last := (s.ctx c).lastQ.getD pri 1023
    qs.filter (fun q => decide (last < q)) ++ qs.filter (fun q => decide (q ≤ last))

end Sys2Proof.Machine
end

