-- ==== Sys2Proof/Machine/Shadow.lean ====
section
/-!
DEFINITION. The launch predictor and shadow launches (17): learning, prediction, start, match and commit, and the
completion steps of 16 R334 that a commit shares.
-/

namespace Sys2Proof.Machine

/-! ### The predictor (R341 to R343) -/

/-- R342: the transitions after entry address `c` follows `p`, most recently used first. -/
def learnTrans (ts : List Trans) (p c : Nat) : List Trans :=
  match ts.find? (·.src == p) with
  | some x =>
    let y : Trans := if x.dst = c then { x with conf := min (x.conf + 1) 3 } else if 0 < x.conf then { x with conf := x.conf - 1 }
      else { x with dst := c, conf := 1 }
    y :: ts.filter (·.src != p)
  | none => { src := p, dst := c, conf := 1 } :: ts.take 3

/-- R341, R342: a launch taken up enters the history. -/
def Queue.learn (q : Queue) (c : Hist) : Queue :=
  { q with hist := (q.hist ++ [c]).drop (q.hist.length + 1 - 8)
           trans := match q.hist.getLast? with | none => q.trans | some p => learnTrans q.trans p.entry c.entry }

/-- R343: the argument words of a prediction. -/
def predictArgs (h1 : Hist) (h2 : Option Hist) : List Nat :=
  (List.range 12).map fun i =>
    match h2 with
    | none => h1.args.getD i 0
    | some h => if bit h1.mtch i then h1.args.getD i 0 else wint (2 * (h1.args.getD i 0 : Int) - h.args.getD i 0)

/-- R343: the prediction that follows a launch with entry address `e`, of a launch that may be predicted (R339). -/
def Queue.predict (q : Queue) (e lseq : Nat) : Option (Nat × Nat × Nat × List Nat) :=
  match q.trans.find? fun x => x.src == e && decide (1 ≤ x.conf) with
  | none => none
  | some x =>
    match q.hist.reverse.filter fun h => h.entry == x.dst with
    | [] => none
    | h1 :: t => if h1.ok && h1.ng != 0 then some (h1.kdesc, h1.ng, lseq + 1, predictArgs h1 t.head?) else none

/-! ### Completion (16 R334) -/

/-- TLC after a launch completes: it moves over the launches completed above it. -/
def tlcAdvance (done : List Nat) : Nat → Nat → Nat
  | 0, t => t
  | n + 1, t => if done.contains (t + 1) then tlcAdvance done n (t + 1) else t

/-- TLC once the launches completed above it count. -/
def Queue.nextTlc (x : Queue) : Nat := tlcAdvance x.done x.done.length x.tlc

/-- R334 step 3: the completion record is written, as a write of the launch. -/
def State.putRecord (s : State) (q lseq status : Nat) : Except QErr State :=
  let x := s.queue q
  (s.qWrite x.ctx (x.cstat + 16 * (lseq % 2 ^ x.nrec)) 16 (lseq + 2 ^ 64 * status)
      (some { q := q, lseq := lseq, grp := 0, thr := 0 })).map fun s =>
    s.modQueue q fun y => { y with done := lseq :: y.done }

/-- R335: with HN = 1 the posted writes of the queue's launches are acknowledged before TLC advances; none while one waits at
a link that retrains. -/
def State.orderHost (s : State) (q : Nat) : Option State :=
  let mine := fun (p : Posted) =>
    match s.act? p.act with
    | none => true
    | some a => (a.launch.map (·.q)) == some q
  let r := s.ackPosted mine
  if r.1 then none else some r.2

/-- R335: the completion signals of launches m + 1 to m + n of a queue release their writes, where `qstat` and take-up acquire
and at the word of TLC. -/
def State.signal (s : State) (q word m : Nat) : Nat → State
  | 0 => s
  | n + 1 => ((s.releaseLaunch (q, m + 1) (ptQueue q (m + 1))).releaseLaunch (q, m + 1) word).signal q word (m + 1) n

/-- R334 step 4: TLC advances over the launches that have completed. -/
def State.advanceTlc (s : State) (q : Nat) : Except QErr State :=
  let x := s.queue q
  let t := x.nextTlc
  let put := fun (s : State) => (s.modQueue q fun y =>
    { y with done := y.done.filter fun n => decide (t < n), tlc := t, parts := y.parts.filter fun p => decide (t < p.1) }).signal q
      ((x.key.getD 0 + 0x20) / 8) x.tlc (t - x.tlc)
  if t = x.tlc then .ok (put s)
  else
    match (if x.hn then s.orderHost q else some s) with
    | none => .error ⟨.stall, aWrite, 2⟩
    | some s => (s.qWrite x.ctx (x.desc + 0x20) 8 t).map put

/-- What the end of a launch leaves: its contributions are applied and its replicas, access records, held code and
barrier are gone (R334 steps 1 and 2; 06 R141, R158; 13 R303). -/
def State.closeLaunch (s : State) (c q lseq : Nat) : State :=
  let s := (s.flushContribs c fun d => !d.keyed || (d.q == q && d.lseq == lseq)).2
  let s := s.modCtx c fun x => { x with recs := x.recs.filter fun p => p.1 / 2 ^ 145 != q || p.1 / 2 ^ 80 % 2 ^ 64 != lseq }
  let no := q * 2 ^ 64 + lseq
  let s := s.modCoh fun h =>
    { h with repl := h.repl.filter fun p => p.1 / 2 ^ 80 != no + 1, code := h.code.filter fun p => p.1 / 2 ^ 80 != no }
  let s := match (s.launch? q lseq).bind (·.lbar) with | some n => s.setBar (launchBarKey n) {} | none => s
  let s := s.setCores (s.cores.mapV fun _ k => { k with started := k.started.filter fun m => m / 2 != launchNo q lseq })
  s.modWork fun w => { w with launches := w.launches.filter fun l => !(l.q == q && l.lseq == lseq) }

/-! ### Start (R339, R344, R345) -/

/-- The shadow allotment of a context on a die, in MiB (24 R452). -/
def Ctx.allot (c : Ctx) (die : Nat) : Nat := bits c.shallot (6 * die) 6

/-- Whether a context has an allotment on a die of its partition (R339). -/
def Ctx.mayShadow (c : Ctx) : Bool := (List.range 4).any fun d => decide (0 < (c.runOf d).2 ∧ 0 < c.allot d)

/-- R344: a cluster is idle: no activation, command or group of a shadow, and no group that is about to start there (R346). -/
def State.idleCluster (s : State) (c : Nat) (k : Nat × Nat) : Bool :=
  let ck := clusterKey k.1 k.2
  (s.cluster ck).awake == 1 && decide (0 < (s.ctx c).allot k.1)
    && !(s.allActs.any fun a => a.die == k.1 && a.cluster == k.2)
    && (List.range 8).all (fun i => let x := s.core (ck * 8 + i); x.copies.isEmpty && x.mq.isEmpty && x.index.isEmpty)
    && !(s.work.groups.any fun g => !g.out && g.die == k.1 && g.cluster == k.2)

/-- The launch that a shadow stands for, as placement sees it. -/
def Shadow.launch (h : Shadow) (q : Nat) (x : Queue) (assign : List Nat) : Launch :=
  { ctx := x.ctx, q := q, lseq := h.lseq, ng := h.ng, kernels := [h.kernel], det := x.det, assign := assign, args := h.args,
    recNg := h.ng }

/-- Where the groups of a shadow go: those that start now, with cluster, first core and position, and those that wait.
None when a group has no idle place. -/
def State.shadowSeats (s : State) (l : Launch) : Option (List (Nat × (Nat × Nat) × Nat × Nat) × List (Nat × Nat)) :=
  let cls := (s.ctx l.ctx).clusterList
  let idle := cls.filter (s.idleCluster l.ctx)
  if l.assign.isEmpty then
    (l.seatAll cls l.ng (idle.map fun k => (k, 0)) 0).map fun r =>
      (((List.range r.length).zip r).map fun x => (x.1, x.2.1, ((x.2.2.1.head?.map (·.2)).getD 0), 0), [])
  else if l.assign.any (fun p => !idle.contains (posPlace cls l.posSize p).1) then none
  else
    let gs := (List.range l.ng).map fun g => (g, l.assign.getD g 0)
    let first := fun (x : Nat × Nat) => !(gs.any fun y => y.2 == x.2 && decide (y.1 < x.1))
    some ((gs.filter first).map (fun x => let p := posPlace cls l.posSize x.2; (x.1, p.1, p.2, x.2)), gs.filter fun x => !first x)

/-- Live shadows that use a die. -/
def State.shadowsOn (s : State) (die : Nat) : Nat :=
  (s.work.queues.filter fun e => e.2.shadow.st != 0 && e.2.shadow.dies.contains die).length

/-- The positions of a launch of a deterministic queue (R298); none otherwise. -/
def State.assignFor (s : State) (c : Nat) (det : Bool) (ng size : Nat) : List Nat :=
  if det then assignDet ng ((s.ctx c).clusterList.length * (8 / max 1 size)) else []

/-- R344, R345: start the shadow of a prediction.  None when a condition fails: the prediction is dropped.  A fault on its
argument block ends the shadow and nothing else (R349). [DEDUCED, notes/assumptions/26.md] -/
def State.startShadow (s : State) (q : Nat) (p : Nat × Nat × Nat × List Nat) : Except QErr (Option State) :=
  let x := s.queue q
  let c := s.ctx x.ctx
  if x.st ≠ 1 ∨ x.shadow.st ≠ 0 ∨ p.2.1 = 0 ∨ p.2.2.1 ≤ x.head ∨ !c.mayShadow then .ok none
  else
    match s.qRead x.ctx 1 p.1 64 with
    | .error _ => .ok none
    | .ok (v, s) =>
      let k := kernelOf v
      if kernelBad v ∨ !k.pure ∨ k.cores ∨ k.prog ∨ k.splits ∨ nores c.clusterList.length p.2.1 false [k] [] then .ok none
      else
        let h : Shadow := { st := 1, lseq := p.2.2.1, kdesc := p.1, ng := p.2.1, args := p.2.2.2, kernel := k }
        let l := h.launch q x []
        let l := { l with assign := s.assignFor x.ctx x.det l.ng l.posSize }
        match s.shadowSeats l with
        | none => .ok none
        | some (now, later) =>
          let dies := (List.range 4).filter fun d => now.any fun r => r.2.1.1 == d
          if dies.any fun d => decide (8 ≤ s.shadowsOn d) then .ok none
          else
            match s.qWrite x.ctx (s.shadowAddr x.ctx q) 128 (argBlock h.args k.narg h.lseq h.ng q) with
            | .error e =>
              let begun := s.modQueue q fun y => { (y.count 0) with shadow := h }
              match e.err with
              | .stall => .error e
              | .xlat _ _ _ => .ok (some (begun.discardShadow q 7))
              | _ => .ok (some (begun.discardShadow q 8))
            | .ok s =>
              let s := s.modQueue q fun y => { (y.count 0) with shadow := { h with waiting := later, dies := dies } }
              .ok (some (now.foldl (fun s r => s.placeInstance l r.1 r.2.1 [(0, r.2.2.1)] r.2.2.2 (some q)) s))

/-- A group of a shadow that shares a position starts when the position is awake and free, of real groups and of other shadows
too (R344). -/
def State.nextShadowGroup (s : State) (q : Nat) : Option State :=
  let x := s.queue q
  let h := x.shadow
  let l := h.launch q x []
  let l := { l with assign := s.assignFor x.ctx x.det l.ng l.posSize }
  let cls := (s.ctx x.ctx).clusterList
  let free := fun (w : Nat × Nat) =>
    let p := posPlace cls l.posSize w.2
    !(s.work.groups.any fun g => g.shadow == some q && g.position == w.2)
      && !(s.work.groups.any fun g => g.shadow.isSome && g.shadow != some q && (g.die, g.cluster) == p.1) && (s.cluster (clusterKey p.1.1 p.1.2)).awake == 1 && footFree (s.takenMask x.ctx p.1) l.posSize p.2
  match h.waiting.find? free with
  | none => none
  | some w =>
    let p := posPlace (s.ctx x.ctx).clusterList l.posSize w.2
    let s := s.modQueue q fun y => { y with shadow := { y.shadow with waiting := y.shadow.waiting.erase w } }
    some (s.placeInstance l w.1 p.1 [(0, p.2)] w.2 (some q))

/-! ### Match (R352) -/

/-- Whether a record that was taken up matches a shadow: its status, record and kernel. -/
def Shadow.matches (h : Shadow) (r : LRec) (status : Nat) (k : Kernel) : Bool :=
  status == 0 && !r.ph && k.pure && k.entry == h.kernel.entry && k.group == h.kernel.group && k.slots == h.kernel.slots
    && k.tcmb == h.kernel.tcmb && k.spadb == h.kernel.spadb && r.ng == h.ng
    && (List.range k.narg).all fun i => r.args.getD i 0 == h.args.getD i 0

/-! ### Commit (R353) -/

/-- The accesses of a commit: those of the launch's threads. -/
def commitWho (c die q lseq : Nat) : Who :=
  { ctx := c, die := die, level := .user, eng := 6, launch := some { q := q, lseq := lseq, grp := 0, thr := 0 } }

/-- Step 2: every page is checked, then its leaf is marked; an error leaves every leaf as it was found. -/
def State.commitPages (w : Who) : List (Nat × Nat) → State → Except AErr State
  | [], s => .ok s
  | (p, wr) :: t, s =>
    match s.translate w (p * 65536) 1 (if wr = 1 then aWrite else aRead) with
    | (.error e, _) => .error e
    | (.ok _, s) => State.commitPages w t s

/-- Step 3: the masked bytes of the store are written. -/
def State.commitBytes (c q lseq : Nat) (lines : List (Nat × Nat × Nat)) : FMap Nat → State → Except AErr State
  | [], s => .ok s
  | (key, v) :: t, s =>
    match lines.find? fun x => x.1 == key / 128 with
    | none => State.commitBytes c q lseq lines t s
    | some (_, die, va) =>
      let w := commitWho c die q lseq
      match s.translate w (va / 128 * 128 + key % 128) 1 aWrite with
      | (.error e, _) => .error e
      | (.ok loc, s) =>
        match s.writeAt w { loc with key := key } 1 v aWrite with
        | .error e => .error e
        | .ok s => State.commitBytes c q lseq lines t s

/-- The writes of a commit, its registrations released first, so that its own writes do not kill it. -/
def State.commitWrites (s : State) (q : Nat) : Except AErr State :=
  let x := s.queue q
  let h := x.shadow
  let die := (h.dies.head?).getD 0
  match State.commitPages (commitWho x.ctx die q h.lseq) h.vas (s.modQueue q fun y => { y with shadow := { y.shadow with regs := [] } }) with
  | .error e => .error e
  | .ok s => State.commitBytes x.ctx q h.lseq h.lines h.store s

end Sys2Proof.Machine
end

