-- ==== Sys2Proof/Machine/Queue.lean ====
section
/-!
DEFINITION. Queues (16): take-up, offers, completion, the steps of placement and of shadows, doorbells, and the
instructions of major 0x39 (R338, 17 R355).
-/

namespace Sys2Proof.Machine

/-! ### When a device access for a queue fails (15 R312, 16 R334) -/

/-- What a failed access does to a queue: it parks for a replay, waits, freezes the context, or counts as a cancelled
one. -/
def State.queueFail (s : State) (q : Nat) (e : QErr) : State :=
  let x := s.queue q
  let w := s.qWho x.ctx
  match e.err with
  | .xlat cause level a =>
    let g := s.openGroup x.ctx
    let s := g.2.faultRecords w w.place g.1 e.acc [(cause, level, a)] []
    let s := s.modCtx x.ctx fun y => { y with parked := y.parked ++ [{ grp := g.1, who := 6, id := q, cause := cause, addr := a }] }
    s.modQueue q fun y => { y with stalled := some g.1, stallKind := e.kind }
  | .data sub a => (s.log 1 sub x.ctx w.die 0 a).freeze x.ctx 2 a
  | .trap _ _ _ =>
    if e.kind = 2 then (if x.st = 1 then s.haltQueue q 3 else s.putQueueSt q x.st 3)
    else s.modQueue q fun y => { y with cancelled := 2 + e.kind }
  | .stall => s
  | .turn m => s.askLine m
  | .shadowEnd _ => s
  | .nomem _ => s
  | .egress _ => s

/-- Whether what was begun for a queue, or an access that waits for a replay, holds up whatever comes next for it (R334). -/
def Queue.held (x : Queue) : Bool := x.stalled.isSome || x.job.isSome || x.tailDue

/-- The TAIL of a queue is written into its descriptor as an engine write, unless it waits for a replay or its cancelled replay
has halted the queue (R334). -/
def State.putTail (s : State) (q : Nat) : State :=
  let x := s.queue q
  if !x.tailDue || x.stalled.isSome || (x.st == 2 && x.err == 3) then s
  else
    match s.qWrite x.ctx (x.desc + 0x10) 8 x.tail with
    | .ok s => s.modQueue q fun y => { y with tailDue := false }
    | .error e => s.queueFail q e

/-- The TAIL of a queue is a new one. -/
def State.setTail (s : State) (q n : Nat) : State :=
  (s.modQueue q fun y => { y with tail := n, tailDue := true }).putTail q

/-- What the take-up of record n acquires (R335, R338): where it was appended, the launches of its queue before a BAR record, and
those of the queue it waited on up to the TLC observed. -/
def LRec.acq (r : LRec) (q n seen : Nat) : List (Nat × Nat) :=
  (ptDoor q n, ptDoor q n)
    :: ((if r.bar then [(ptQueue q 1, ptQueue q (n - 1))] else []) ++ if r.wait then [(ptQueue r.waitq 1, ptQueue r.waitq seen)] else [])

/-! ### Take-up (R332) -/

/-- Whether the launch before record n lets it be taken up: all its groups are placed, or it has completed. -/
def State.prevPlaced (s : State) (q n : Nat) : Bool :=
  match s.launch? q (n - 1) with
  | none => true
  | some l => decide (l.ng ≤ l.placed)

/-- The conditions of R332 on record n other than WAIT. -/
def State.mayTake (s : State) (q : Nat) : Bool :=
  let x := s.queue q
  let n := x.head + 1
  x.st == 1 && s.running x.ctx && !x.held && decide (n ≤ x.tail) && s.prevPlaced q n
    && (decide (n ≤ 2 ^ x.nrec) || decide (n - 2 ^ x.nrec ≤ x.tlc) || x.done.contains (n - 2 ^ x.nrec))

/-- Whether WAITQ is refused at once (R332). -/
def State.waitBad (s : State) (q n : Nat) (r : LRec) : Bool :=
  let y := s.queue r.waitq
  decide (1024 ≤ r.waitq) || (s.work.queues.get? r.waitq).isNone || y.ctx != (s.queue q).ctx || y.st == 0
    || (r.waitq == q && decide (n ≤ r.waitv))

/-- Check 1 of R312. -/
def LRec.bad (r : LRec) : Bool := r.rsv != 0 || decide (8 ≤ r.ctl) || r.kdesc % (if r.ph then 8 else 64) != 0

/-- The number of parts of a launch (R337).  Outside a deterministic queue the distributor may split or not, a free choice; it
does not where the launch area has no room for their argument blocks. -/
def State.partsOf (s : State) (x : Queue) (r : LRec) (k : Kernel) : Nat × State :=
  let w := r.args.getD k.splitarg 0
  let size := footOf (max k.nc (k.ns 0))
  let room := if x.det then (s.ctx x.ctx).clusterList.length * (8 / size) else (s.freePositions x.ctx size).length
  let fits := fun (n : Nat) => decide (n * r.ng ≤ room ∧ n ≤ w % 2 ^ 32)
  let n := if fits 8 then 8 else if fits 4 then 4 else if fits 2 then 2 else 1
  if !k.splits || r.ph || k.cores || k.prog || decide (room < 2 * r.ng) || n == 1 then (1, s)
  else if x.det then (if bit w 63 then n else 1, s)
  else
    let f := s.flip
    (if f.1 && (s.freeParts x.ctx (n - 1)).isSome then n else 1, f.2)

/-- The launch of a record that is not refused; none while the launch area has no room for its parts' argument blocks. -/
def State.makeLaunch (s : State) (q n : Nat) (r : LRec) (ks : List Kernel) (pipes : List (List Nat)) : Option (Launch × State) :=
  let x := s.queue q
  let p := s.partsOf x r (ks.headD {})
  let cores := ks.any Kernel.cores
  let l : Launch :=
    { ctx := x.ctx, q := q, lseq := n, ng := r.ng * p.1, split := p.1, kernels := ks, pipes := pipes, phrase := r.ph,
      det := x.det, cores := cores, prog := ks.any Kernel.prog, admitted := !cores, args := r.args, recNg := r.ng }
  (s.freeParts x.ctx (p.1 - 1)).map fun ps =>
    ({ l with partsAt := ps, assign := p.2.assignFor x.ctx x.det l.ng l.posSize }, p.2)

/-- What the take-up of a record does to the queue's shadow: a match commits or adopts it, anything else discards it
(R352).  The flag says whether the launch is the shadow's. -/
def State.meetShadow (s : State) (q n : Nat) (r : LRec) (status : Nat) (k : Kernel) : Bool × State :=
  let h := (s.queue q).shadow
  if h.st = 0 ∨ h.lseq ≠ n then (false, s)
  else if h.matches r status k then
    (true, s.modQueue q fun y => { y with shadow := { y.shadow with st := if h.st = 2 then 4 else 3, wasAdopted := h.st == 1 } })
  else (false, s.discardShadow q 3)

/-- A launch that was taken up enters the history, and the prediction after it is made where one may be (17 R339, R341 to
R343). -/
def State.learnLaunch (s : State) (q n : Nat) (r : LRec) (status : Nat) (k : Kernel) : State :=
  if status ≠ 0 ∨ r.ph then s
  else
    let ok := k.pure && !k.cores && !k.prog && !k.splits
    let c : Hist := { kdesc := r.kdesc, entry := k.entry, ng := r.ng, mtch := k.mtch, args := r.args, ok := ok }
    let may := (s.ctx (s.queue q).ctx).mayShadow
    s.modQueue q fun x => let x := x.learn c; { x with predicted := if may && x.st == 1 then x.predict k.entry n else none }

/-- The launch of a record that has been read and checked: it is signalled at once when it is refused or has no group, adopts
the queue's shadow, or is offered for placement; a deterministic split waits for its argument blocks. -/
def State.launchFrom (s : State) (q : Nat) (j : Job) : Except QErr State :=
  let x := s.queue q
  let r := lrecOf j.word
  let (ks, pipes, bad) := if j.status ≠ 0 then ([], [], j.status) else r.kernels j.got
  let status :=
    if bad ≠ 0 then bad
    else if x.det ∧ ks.any (fun k => !k.det) then 5
    else if nores (s.ctx x.ctx).clusterList.length r.ng (x.det && r.ph) ks pipes then 1 else 0
  let k := ks.headD {}
  let go := fun (s : State) (j : Option Job) => s.modQueue q fun y => { y with job := j }
  let refused := decide (status ≠ 0 ∨ r.ng = 0)
  let made : Option (Launch × State) := if refused then some ({}, s) else s.makeLaunch q j.n r ks pipes
  match made with
  | none => .error ⟨.stall, aWrite, 2⟩
  | some (l, s) =>
    let m := s.meetShadow q j.n r status k
    let s := m.2.learnLaunch q j.n r status k
    if refused then .ok (go s (some { j with stage := 4, status := status }))
    else
      let l := { l with acq := r.acq q j.n j.seen }
      let add := fun (l : Launch) => s.modWork fun w => { w with launches := w.launches ++ [l] }
      if m.1 then .ok (go (add { l with placed := l.ng, begun := List.range l.ng, shadow := true, argsIn := true }) none)
      else .ok (go ((if l.prog then fun s => s.givePositions l else id) (add l)) none)

/-- One step of what the distributor does for a queue (R332, R334; 15 R312, R315). [DEDUCED, notes/assumptions/26.md] -/
def State.jobStep (s : State) (q : Nat) (j : Job) : Except QErr State :=
  let x := s.queue q
  let go := fun (s : State) (j : Option Job) => s.modQueue q fun y => { y with job := j, cancelled := 0 }
  let refuse : Except QErr State := .ok (go s (some { j with stage := 3, status := x.cancelled }))
  match j.stage with
  | 0 => (s.qWrite x.ctx (x.desc + 0x18) 8 j.n).map fun s => go s (some { j with stage := if j.status = 0 then 1 else 3 })
  | 1 =>
    if x.cancelled ≠ 0 then refuse
    else
      ((s.syncDev (s.qWho x.ctx).die [(ptDoor q j.n, ptDoor q j.n)]).qRead x.ctx 0 (x.ring + 128 * ((j.n - 1) % 2 ^ x.nrec)) 128).map fun v =>
        let r := lrecOf v.1
        let bad := r.bad || (r.wait && (decide (1024 ≤ r.waitq) || (v.2.queue r.waitq).ctx != x.ctx))
        go v.2 (some { j with word := v.1, stage := if bad then 3 else 2, status := if bad then 2 else 0 })
  | 2 =>
    if x.cancelled ≠ 0 then refuse
    else
      match (lrecOf j.word).nextRead j.got with
      | none => .ok (go s (some { j with stage := 3 }))
      | some (a, n) =>
        if n = 0 then .ok (go s (some { j with got := j.got ++ [0] }))
        else ((s.syncDev (s.qWho x.ctx).die ((lrecOf j.word).acq q j.n j.seen)).qRead x.ctx 1 a n).map fun v => go v.2 (some { j with got := j.got ++ [v.1] })
  | 3 => s.launchFrom q j
  | 4 => (s.putRecord q j.n j.status).map fun s => go s (some { j with stage := 5 })
  | 5 => (s.advanceTlc q).map fun s => go s none
  | _ =>
    match s.launch? q j.n with
    | none => .ok (go s none)
    | some l =>
      if j.part < l.split then (s.writeArg l j.part).map fun s => go s (some { j with part := j.part + 1 })
      else .ok (go (s.mapLaunches fun x => if x.q = q ∧ x.lseq = j.n then { x with argsIn := true } else x) none)

/-- Go on with what the distributor has begun for a queue, as far as it goes; what is done stays done (R334). -/
def State.runJob (s : State) (q : Nat) : Nat → State
  | 0 => s
  | n + 1 =>
    let s := s.putTail q
    let x := s.queue q
    match x.job with
    | none => s
    | some j =>
      if x.tailDue || x.stalled.isSome || (x.st == 2 && x.err == 3) then s
      else
        match s.jobStep q j with
        | .ok s => State.runJob s q n
        | .error e => (match e.err with | .trap _ _ _ => State.runJob (s.queueFail q e) q n | _ => s.queueFail q e)

/-- The steps of one job at most: HEAD, the record, six reads, the launch, its record and TLC; or eight argument blocks. -/
def jobFuel : Nat := 16

/-- Begin something for a queue, and do as much of it as can be done. -/
def State.beginJob (s : State) (q : Nat) (j : Job) : State := (s.modQueue q fun y => { y with job := some j }).runJob q jobFuel

/-- R332: record n is taken up: HEAD becomes n, and the record is read and checked. `status` is that of a refusal already
decided, 0 for none. -/
def State.takeUp (s : State) (q n status seen : Nat) : State :=
  (s.modQueue q fun y => { y with head := n, predicted := none, waits := none }).beginJob q { n := n, stage := 0, status := status, seen := seen }

/-- R332: the next record of a queue is taken up, or a take-up goes on.  The conditions are judged by the record's CTL, WAITQ
and WAITV as they stand in the ring; take-up is an acquire (R338), and so are the device's reads for it. -/
def execLaunchTakeUp (q : Nat) (s : State) : Out :=
  let x := s.queue q
  if x.job.isSome || x.tailDue then .next (if s.running x.ctx then s.runJob q jobFuel else s)
  else if !s.mayTake q then .next s
  else
    let n := x.head + 1
    if x.cancelled ≠ 0 then .next (s.takeUp q n x.cancelled 0)
    else
      match (s.syncDev (s.qWho x.ctx).die [(ptDoor q n, ptDoor q n)]).qRead x.ctx 0 (x.ring + 128 * ((n - 1) % 2 ^ x.nrec) + 12) 20 with
      | .error e => .next (s.queueFail q e)
      | .ok (v, s') =>
        let r := lrecOf (2 ^ 96 * v)
        if r.bar ∧ x.tlc + 1 < n then .next s
        else if r.wait ∧ s'.waitBad q n r then .next (s'.takeUp q n 2 0)
        else if r.wait ∧ (s'.queue r.waitq).tlc < r.waitv then .next (s.modQueue q fun y => { y with waits := some r.waitq })
        else .next (s'.takeUp q n 0 (s'.queue r.waitq).tlc)

/-! ### Placement (12 R292 to R297) -/

/-- The groups of an instance whose slots have all become free. -/
def State.heldGroup (s : State) (c : Nat) : Option (Launch × List Group) :=
  s.work.groups.findSome? fun g =>
    if g.ctx != c || g.start || g.out then none
    else
      let l : Option Launch :=
        match g.shadow with
        | some q => some ((s.queue q).shadow.launch q (s.queue q) [])
        | none => s.launch? g.q g.lseq
      let gs := s.heldOf g.q g.lseq g.g g.shadow
      l.bind fun l => if gs.all fun g => s.groupSlotsFree (l.kernels.getD g.kern {}) g then some (l, gs) else none

/-- Offer to the queues in order until something is placed (16 R333); a launch's argument block is written before its
first group is placed (15 R315). -/
def State.offers (s : State) (c : Nat) : List Nat → State
  | [] => s
  | q :: qs =>
    match s.offer q with
    | none => State.offers s c qs
    | some l =>
      if !l.argsIn then
        if (s.queue q).held then State.offers s c qs else s.beginJob q { n := l.lseq, stage := 6 }
      else
        let r := s.placeLaunch l
        if r.1 then r.2.modCtx c fun x => { x with lastQ := x.lastQ.set (s.queue q).pri q }
        else State.offers r.2 c qs

/-- R292, R295, R296, R298: one step of placement in a partition. -/
def execGroupPlace (ctx : Nat) (s : State) : Out :=
  if !s.running ctx then .next s
  else
    match s.heldGroup ctx with
    | some (l, gs) => .next (s.startHeld l gs)
    | none => .next (s.offers ctx (s.offerOrder ctx))

/-- R293: when a launch's lowest waiting group finds no room, the wake of the lowest gated cluster of the partition
begins; one at a time.  How long the group waits is timing. -/
def execWakeBegin (ctx : Nat) (s : State) : Out :=
  let cls := (s.ctx ctx).clusterList
  let busy := cls.any fun k => (s.cluster (clusterKey k.1 k.2)).wake293
  let gated := cls.find? fun k => (s.cluster (clusterKey k.1 k.2)).awake == 0
  let waits := (s.offerOrder ctx).any fun q =>
    match s.offer q with
    | none => false
    | some l => l.admitted && !l.cores && !l.prog && l.argsIn && (l.nextSeat cls (s.occ ctx false)).isNone
  match gated with
  | some k => .next (if s.running ctx && !busy && waits then s.modCluster (clusterKey k.1 k.2) fun c => { c with awake := 2, wake293 := true } else s)
  | none => .next s

/-- R293: a wake is complete. -/
def execClusterAwake (cluster : Nat) (s : State) : Out :=
  .next (if (s.cluster cluster).awake = 2 then s.modCluster cluster fun c => { c with awake := 1, wake293 := false } else s)

/-- R294: a cluster is quiet. -/
def State.quiet (s : State) (cluster : Nat) : Bool :=
  let here := fun (d c : Nat) => clusterKey d c == cluster
  !(s.allActs.any fun a => here a.die a.cluster)
    && !(s.work.groups.any fun g => g.shadow.isSome && here g.die g.cluster)
    && (List.range 8).all fun i =>
        let ck := cluster * 8 + i
        let k := s.core ck
        k.copies.isEmpty && k.mq.isEmpty && k.index.isEmpty && k.inbound.isEmpty && k.pend.isEmpty && k.recs.isEmpty
          && !(s.ctxs.any fun c => c.2.clov.any fun p => p.2 == 2 * ck)

/-- R294: a cluster that has been quiet long enough is gated, unless its partition is set to stay awake (27 R472). -/
def execClusterGate (cluster : Nat) (s : State) : Out :=
  let k := s.cluster cluster
  match k.owner with
  | none => .next s
  | some c =>
    .next (if k.awake == 1 && !bit s.dev.awake c && s.running c && s.quiet cluster then s.modCluster cluster fun x => { x with awake := 0 } else s)

/-- R297 steps 2 and 3: no handler or clause runs on the group's cores, its commands have completed, with no error on its way to
its core (10 R260), and its results are written. -/
def State.rotatable (s : State) (gs : List Group) : Bool :=
  gs.all fun g =>
    let ts := s.groupThreads g
    g.start && (List.range g.f).all (fun i =>
        let ck := coreKey g.die g.cluster (g.c0 + i)
        !(s.allActs.any fun a => a.inSlot && a.coreKey == ck && a.orig != 0))
      && ts.all fun a =>
        let k := s.core a.coreKey
        let mine := fun (c : Cmd) => c.act == a.id
        a.wins.isEmpty && !(k.copies.any mine) && !(k.mq.any mine) && !(k.index.any mine)
          && !((s.cluster a.clusterKey).polyQ.any fun r => r.act == a.id)
          && !(s.work.msgs.any fun m => m.act == a.id && m.err.isSome)

/-- R296, R297: a position whose group has run for one slice rotates; how long a slice lasts is timing.  `pos` is the
first core of the position.  A group swap area without room freezes the context (24 R447), and the rotation waits
while the next group could not come back. -/
def execSliceRotation (cluster pos : Nat) (s : State) : Out :=
  let at_ := fun (g : Group) => clusterKey g.die g.cluster == cluster && g.shadow.isNone && !g.out && (g.c0 == pos || decide (g.c0 / 8 = pos / 8 ∧ pos = 0))
  match s.work.groups.find? fun g => at_ g && ((s.launch? g.q g.lseq).map (·.prog)) == some true with
  | none => .next s
  | some g =>
    match s.launch? g.q g.lseq with
    | none => .next s
    | some l =>
      match (List.range l.positions.length).find? fun j => l.positions.getD j 0 == g.position with
      | none => .next s
      | some j =>
        let gs := (s.groupsOf l g.position).filter fun x => x.g == g.g
        match s.nextGroup l j with
        | none => .next s
        | some n =>
          if !s.running g.ctx || !s.rotatable gs then .next s
          else
            let held := (s.work.groups.filter fun x => x.ctx == g.ctx && x.out).map (·.image)
            match s.imagePlaces g.ctx held (gs.map fun x => imageSize (l.kernels.getD x.kern {}) x (s.groupThreads x)) with
            | none => .next (s.freeze g.ctx 4 0x28)
            | some at_ =>
              let t := (gs.zip at_).foldl (fun s x => s.swapGroupOut l x.1 x.2) s
              .next (if t.roomFor (t.outsOf l j n) then t.bringIn l j n else s)

/-! ### Completion (R334) -/

/-- R334: a launch whose last group has ended completes; messages it still holds are released first (13 R308).  The blocks of
its parts stay in use until TLC has reached it (15 R315). -/
def execLaunchComplete (q lseq : Nat) (s : State) : Out :=
  match s.launch? q lseq with
  | none => .next s
  | some l =>
    let mine := fun (m : Msg) => m.lid == launchNo q lseq
    if l.shadow || decide (l.ended < l.ng * l.kernels.length) || !s.running l.ctx || (s.queue q).held then .next s
    else if (s.ctx l.ctx).heldMsgs.any mine then .next (s.release l.ctx mine)
    else if s.cores.any fun c => c.2.pend.any mine then .next s
    else
      let s := (s.closeLaunch l.ctx q lseq).modQueue q fun y => if l.partsAt.isEmpty then y else { y with parts := y.parts.put lseq l.partsAt }
      .next (s.beginJob q { n := lseq, stage := 4, status := if l.killed then 6 else 0 })

/-- 17 R344, R345: a prediction starts as a shadow, or is dropped; a group of a shadow that waits for its position
starts. -/
def execShadowStart (q : Nat) (s : State) : Out :=
  let x := s.queue q
  if !s.running x.ctx || x.held then .next s
  else
    match s.nextShadowGroup q with
    | some s => .next s
    | none =>
      match x.predicted with
      | none => .next s
      | some p =>
        let placed := match s.launch? q (p.2.2.1 - 1) with | none => true | some l => decide (l.ng ≤ l.placed)
        if !placed then .next s
        else
          let t := s.modQueue q fun y => { y with predicted := none }
          match t.startShadow q p with
          | .error e => .next (s.queueFail q e)
          | .ok none => .next t
          | .ok (some s) => .next s

/-- What a shadow has left running belongs to its launch from the commit on: its clauses, their records and their commands. -/
def State.leaveShadow (s : State) (q : Nat) : State :=
  let out := fun (x : Option Nat) => if x = some q then none else x
  let info := fun (_ : Nat) (r : RecInfo) => { r with shadow := out r.shadow }
  let cmd := fun (c : Cmd) => { c with shadow := out c.shadow }
  let s := s.mapActs fun a => { a with shadow := out a.shadow }
  let s := s.setCores (s.cores.mapV fun _ k =>
    { k with recs := k.recs.mapV info, copies := k.copies.map cmd, mq := k.mq.map cmd, index := k.index.map cmd })
  s.setCtxs (s.ctxs.mapV fun _ c => { c with clovInfo := c.clovInfo.mapV info })

/-- 17 R353: a shadow commits; a failed check discards it with reason FAULT, and otherwise its launch completes (16 R334), after
the messages that it still holds are released. -/
def execShadowCommit (q : Nat) (s : State) : Out :=
  let x := s.queue q
  let h := x.shadow
  if h.st ≠ 4 ∨ !s.running x.ctx ∨ x.held then .next s
  else
    match s.commitWrites q with
    | .error .stall => .next s
    | .error _ => .next (s.discardShadow q 7)
    | .ok t =>
      let t := t.modQueue q fun y =>
        let y := y.count 1
        { (if h.wasAdopted then y.count 2 else y) with shadow := {} }
      execLaunchComplete q h.lseq ((t.leaveShadow q).mapLaunches fun l =>
        if l.q = q ∧ l.lseq = h.lseq then { l with shadow := false, ended := l.ng * l.kernels.length } else l)

/-! ### Feeding (R331, R338) -/

/-- R331: a doorbell stores the new TAIL; a bad one, or one to a device-fed queue, halts the queue.  A closed queue, or
one that no context has opened, has no doorbell, and before READY every write is ignored (27 R471, R473). -/
def State.ringDoor (s : State) (q tail : Nat) : State :=
  let x := s.queue q
  if x.st = 0 ∨ !s.dev.ready then s
  else if x.dev then (s.discardShadow q 12).putQueueSt q 2 2
  else
    let s := s.setTail q tail
    (if tail < x.tail ∨ x.head + 2 ^ x.nrec < tail then (s.discardShadow q 12).putQueueSt q 2 1 else s)

/-- R331. -/
def execDoorbell (q tail : Nat) (s : State) : Out := .next (s.ringDoor q tail)

/-- The checks that the forms of major 0x39 share: stray bits, then the owner. -/
def State.withQueue (s : State) (a : Nat) (k : Nat → Queue → Out) : Out :=
  let v := s.reg a
  if v / 1024 ≠ 0 then .next (s.trapHere cRANGE 1 v)
  else
    match s.work.queues.get? v with
    | none => .next (s.trapHere cPDENY 0 v)
    | some x => if x.ctx = s.cur.ctx ∧ !s.cur.onControl then k v x else .next (s.trapHere cPDENY 0 v)

/-- Read a launch record at an address of the issuer, one word at a time (07 R160). -/
def State.loadRec (s : State) (base : Nat) (off : Int) : Nat → Res Nat
  | 0 => .ok 0 s
  | n + 1 => (s.load 4 base off 8 8).bind fun x s => (s.loadRec base (off + 8) n).bind fun v s => .ok (x + 2 ^ 64 * v) s

/-- R338: the record is copied into the ring by the device, which then advances TAIL. -/
def execQlaunch (d a b la : Nat) (s : State) : Out :=
  if s.cur.shadow.isSome then .next s.impure
  else
    s.withQueue a fun q x =>
      let v := s.reg a
      if !x.dev ∨ x.st ≠ 1 then .next (s.trapHere cRANGE 2 v)
      else if s.cur.det ∧ s.cur.launch.isSome ∧ (s.cur.orig ≠ 0 ∨ (s.cur.launch.map fun l => l.grp == 0 && l.thr == 0) ≠ some true) then
        .next (s.trapHere cRANGE 3 v)
      else if s.reg b % 128 ≠ 0 then .next (s.trapHere cALIGN 0 (s.reg b))
      else
        (s.loadRec (s.reg b) 0 16).out fun r s =>
          if 2 ^ x.nrec ≤ x.tail - x.head then .next ((s.retire 4).setRegLa la d 0 0)
          else
            let w : Who := { s.me with level := .sup }
            match s.engWrite w 2 (x.ring + 128 * (x.tail % 2 ^ x.nrec)) 128 r with
            | .error e => (s.failAcc (α := Unit) w 4 aWrite e).halt
            | .ok s =>
              let s := (s.releaseTo (ptDoor q (x.tail + 1)) 4).setTail q (x.tail + 1)
              s.settle 4 fun s => .next ((s.retire 4).setRegLa la d (x.tail + 1) 0)

/-- The state word of a queue (R338). -/
def Queue.stateWord (x : Queue) : Nat :=
  x.st + x.pri * 4 + b2n x.det * 16 + b2n x.hn * 32 + b2n x.dev * 64 + x.err * 256

/-- R338; a read of TLC is an acquire (R335). -/
def execQstat (d a q la : Nat) (s : State) : Out :=
  s.withQueue a fun k x =>
    let v := if q = 0 then x.tlc else if q = 1 then x.tail else x.stateWord
    let s := if q = 0 then s.syncAt [(ptQueue k 1, ptQueue k x.tlc)] 4 else s
    .next ((s.retire 4).setRegLa la d v 0)

/-- 17 R355. -/
def execSpstat (d a b la : Nat) (s : State) : Out :=
  s.withQueue a fun _ x =>
    if 12 < s.reg b then .next (s.trapHere cRANGE 4 (s.reg b))
    else .next ((s.retire 4).setRegLa la d (x.counters.getD (s.reg b) 0) 0)

/-- 17 R355: the counter is read and cleared. -/
def execSpstatClr (d a b la : Nat) (s : State) : Out :=
  s.withQueue a fun q x =>
    let i := s.reg b
    if 12 < i then .next (s.trapHere cRANGE 4 i)
    else
      let s := s.modQueue q fun y => { y with counters := (List.range 13).map fun k => if k = i then 0 else y.counters.getD k 0 }
      .next ((s.retire 4).setRegLa la d (x.counters.getD i 0) 0)

/-- 17 R355: the state word of the predictor. -/
def execSpstatSt (d a la : Nat) (s : State) : Out :=
  s.withQueue a fun _ x =>
    let nt := (x.trans.filter fun t => decide (1 ≤ t.conf)).length
    .next ((s.retire 4).setRegLa la d (x.shadow.st + x.hist.length * 16 + nt * 256) 0)

end Sys2Proof.Machine
end

