-- ==== Sys2Proof/Machine/Page.lean ====
section
/-!
DEFINITION. Pages (23): the instructions of major 0x3E fn 0 to 6, replay and cancellation, host pages through ATS, held
fault records and checkpoints.
-/

namespace Sys2Proof.Machine

/-! ### What the privileged forms share -/

/-- The instruction word of a privileged form in the R format with major 0x3E (R434). -/
def wordPage (fn d a b : Nat) : Nat := 0x7D + 128 * d + 4096 * a + 2 ^ 17 * b + 2 ^ 25 * fn

/-- A privileged form: a shadow ends at it (17 R340), and below supervisor level it traps PRIV with its word (03 R82).
[DEDUCED, notes/assumptions/17.md] [DEDUCED, notes/assumptions/23.md] -/
def State.privForm (s : State) (word : Nat) (k : Out) : Out :=
  if s.cur.shadow.isSome then .next s.impure else if s.privileged then k else .next (s.trapPriv word)

/-- Whether the issuer has authority over a context (24 R437). -/
def State.authority (s : State) (c : Nat) : Bool := s.cur.onControl || c == s.cur.ctx

/-- The context's L1s are invalidated on every core of its partition (R417). -/
def State.l1ClearCtx (s : State) (c : Nat) : State :=
  let x := s.ctx c
  s.setCores (s.cores.mapV fun ck k => if x.hasCluster (ck / 8192) (ck / 8 % 1024) then { k with l1 := [] } else k)

/-! ### Invalidation (R416, R417) -/

/-- The key of a cached entry: its context and level, and the addresses it covers. -/
def tlbLevel (k : Nat) : Nat := k / 2 ^ 40 % 4
def tlbCtx (k : Nat) : Nat := k / 2 ^ 42 % 64
def tlbLo (k : Nat) : Nat := k % 2 ^ 40 * 2 ^ (16 + 10 * tlbLevel k)
def tlbHi (k : Nat) : Nat := tlbLo k + 2 ^ (16 + 10 * tlbLevel k)

/-- Whether a cached entry of context `c` covers part of [lo, hi). -/
def tlbIn (c lo hi k : Nat) : Bool := tlbCtx k == c && decide (tlbLo k < hi ∧ lo < tlbHi k)

/-- Drop the translations of a context in [lo, hi), those that ATS gave among them (R418), with the decompressed copies of the compressed pages that they name
(R429), and kill the shadows that have used those pages (17 R348). -/
def State.dropXlat (s : State) (c lo hi : Nat) : State :=
  let cd := bits ((s.ctx c).word 0x70) 7 45 * 128
  let gone := s.coh.tlb.filter fun p => tlbIn c lo hi p.1
  let leaves := (gone.flatMap (·.2)).filter fun e => bit e 1 && eComp e
  let hosts := gone.flatMap fun p => (p.2.filter fun e => bit e 1 && eTier e == 2).map fun e =>
    (c * 2 ^ 64 + bits e 16 36 * 16, 16 * 2 ^ (10 * tlbLevel p.1))
  let named := fun (v : Nat) => v / 2 ^ 40 == c && decide (lo < v % 2 ^ 40 * 65536 + 65536 ∧ v % 2 ^ 40 * 65536 < hi)
  let descs := (leaves.map fun e => cd + 128 * bits e 16 32) ++ (s.coh.pageVas.filter fun p => p.2.any named).map (·.1)
  let copies := s.coh.pages.filter fun p => descs.contains p.1
  let s := s.modCoh fun h =>
    { h with tlb := h.tlb.filter fun p => !tlbIn c lo hi p.1
             ats := h.ats.filter fun p => !(hosts.any fun x => overlaps x.1 x.2 p.1 1)
             pages := h.pages.filter fun p => !descs.contains p.1
             pageVas := h.pageVas.filter fun p => !descs.contains p.1 }
  let s := copies.foldl (fun s p => s.setMem (Memory.zero s.mem (compKey p.1 0) (compKey p.1 65536))) s
  s.killShadows (fun q => q.ctx == c && q.shadow.vas.any fun v => decide (lo ≤ v.1 * 65536 ∧ v.1 * 65536 < hi)) 5

/-- Whether a posted write or a lookahead load of the context waits at a link that retrains; until it is performed the drain
waits. -/
def State.drainWaits (s : State) (c : Nat) : Bool :=
  let reads := fun (k : Nat) (w : Win) => !w.landed && (w.remote.map (·.1)) == some k
  s.links.any fun e => e.2.st == 3 &&
    (e.2.posted.any (fun p => p.ctx == c) || s.allActs.any fun a => a.ctx == c && a.wins.any (reads e.1))

/-- The drain of R417: every posted write of the context has been performed at its home, whether its activation is there, away
or has ended, and every lookahead load has completed. -/
def State.drain (s : State) (c : Nat) : State :=
  let s := s.setLinks (s.links.mapV fun _ l => { l with posted := l.posted.filter fun p => p.ctx != c })
  let land := fun (w : Win) => { w with landed := true }
  let done := fun (a : Act) => if a.ctx = c then { a with posted := 0, wins := a.wins.map land } else a
  (s.mapActs done).mapAway done

/-- The translations of a context in [lo, hi) go, with its L1s (R417). -/
def State.invalidate (s : State) (c lo hi : Nat) : State := (s.dropXlat c lo hi).l1ClearCtx c

/-- The end of a `tlbinv`: its drain is over. -/
def State.endTlbinv (s : State) (d c lo hi : Nat) : Out := ((s.invalidate c lo hi).drain c).put 4 d 0 0

/-- The same for one that has waited. -/
def State.endDrainWait (s : State) (d c lo hi : Nat) : State :=
  if s.drainWaits c then s else (((s.goOn.invalidate c lo hi).drain c).retire 4).setReg d 0 0

/-- R417, R435: translations are dropped at once; the drain may have to be waited for, which is a yield point (R434).  The
walks that follow read what the issuer has stored (R416), as every walk reads memory's newest content. -/
def execTlbinv (d a b : Nat) (s : State) : Out :=
  s.privForm (wordPage 0 d a b)
    (let x := s.reg a
     let y := s.reg b
     let c := y % 64
     let all := bit y 8
     let n := x % 64
     let base := bits x 16 40
     if bits x 6 10 != 0 || x / 2 ^ 56 != 0 || decide (40 < n) || base % 2 ^ n != 0 || (all && x != 0) then
       .next (s.trapHere cRANGE 0 x)
     else if bits y 6 2 != 0 || y / 512 != 0 then .next (s.trapHere cRANGE 0 y)
     else if !s.authority c then .next (s.trapHere cPDENY 0 y)
     else if (s.ctx c).st = 0 then s.put 4 d 1 0
     else
       let lo := if all then 0 else base * 65536
       let hi := if all then 2 ^ 56 else base * 65536 + 2 ^ (16 + n)
       if s.drainWaits c then .next ((s.invalidate c lo hi).block (.drain d c lo hi)) else s.yieldPoint.endTlbinv d c lo hi)

/-- R435: any level; refused in a shadow (17 R340). -/
def execL1inv (s : State) : Out :=
  if s.cur.shadow.isSome then .next s.impure else .next ((s.retire 4).l1Clear s.cur.coreKey)

/-! ### Pages named by an address -/

/-- The leaf that maps a page of a context, without permission checks and without a change of A or D; none when it has no
valid mapping. -/
def State.pageLeaf (s : State) (c va : Nat) : Option Leaf × State :=
  if bits va 52 4 = 15 ∨ 2 ^ 56 ≤ va ∨ (s.ctx c).st = 0 then (none, s)
  else
    match s.walkGo s.me.node c va false 0 4 (s.ctx c).root with
    | (.error _, s) => (none, s)
    | (.ok f, s) => (some f, s)

/-- The physical base of the 64 KiB page that a leaf maps an address to. -/
def Leaf.page (f : Leaf) (va : Nat) : Nat := bits f.e 16 36 * 65536 + va % 2 ^ (16 + 10 * f.lvl) / 65536 * 65536

/-- Whether the port of a line's memory device passes no write-back now (26 R458): such a line waits. -/
def State.portWaits (s : State) (line : Nat) : Bool :=
  inFar (line * 128) && (match s.farPort? (line * 128) with
    | some p => (s.link (farLink p)).st != 2 && (s.link (farLink p)).st != 4
    | none => false)

/-- Write back the lines of [lo, hi) of physical memory that are newer than their memory device's copy (R435), and whether one
waits at its port. -/
def State.clean (s : State) (lo hi : Nat) : Bool × State :=
  let mine := fun (l : Nat) => decide (lo ≤ l * 128 ∧ l * 128 < hi)
  (s.coh.stale.any fun l => mine l && s.portWaits l,
   s.modCoh fun h => { h with stale := h.stale.filter fun l => !mine l || s.portWaits l })

/-- Write back a page's bytes from `va`, as a leaf maps them: a compressed page is as its sectors are (R430), and a host or peer
page's writes are acknowledged by their target (26 R464). -/
def State.cleanPage (s : State) (f : Leaf) (va m : Nat) : Bool × State :=
  let p := f.page va + va % 65536
  if eComp f.e then (false, s)
  else if eTier f.e < 2 then s.clean p (p + m)
  else if eTier f.e = 2 then s.ackPosted fun x => decide (2 ^ 60 ≤ x.key ∧ x.key < 2 ^ 61)
  else s.ackPosted fun x => overlaps (peerKey (bits f.e 52 9) p) m x.key x.n

/-- Write back the pages of [va, va + n), at most `fuel` of them: the number without a mapping, and whether a line waits. -/
def State.writeBack (s : State) : Nat → Nat → Nat → Nat → Bool → Nat × Bool × State
  | 0, _, _, k, q => (k, q, s)
  | fuel + 1, va, n, k, q =>
    if n = 0 then (k, q, s)
    else
      let m := min n (65536 - va % 65536)
      let r : Nat × Bool × State :=
        if s.cur.onControl then
          if inHbm (va % 2 ^ 52) || inFar (va % 2 ^ 52) then (0, s.clean (va % 2 ^ 52) (va % 2 ^ 52 + m)) else (1, false, s)
        else
          match s.pageLeaf s.cur.ctx va with
          | (none, s) => (1, false, s)
          | (some f, s) => (0, s.cleanPage f va m)
      State.writeBack r.2.2 fuel (va + m) (n - m) (k + r.1) (q || r.2.1)

/-- R435: any level; refused in a shadow (17 R340).  It waits for the device to acknowledge, so it is a yield point. -/
def execL2wb (d a b : Nat) (s : State) : Out :=
  if s.cur.shadow.isSome then .next s.impure
  else
    let va := s.reg a
    let n := s.reg b
    if va % 128 ≠ 0 then .next (s.trapHere cALIGN 0 va)
    else if va / 2 ^ 56 ≠ 0 then .next (s.trapHere cRANGE 0 va)
    else if n = 0 ∨ 2 ^ 32 < n then .next (s.trapHere cRANGE 0 n)
    else
      let r := s.writeBack (n / 65536 + 2) va n 0 false
      if r.2.1 then .next r.2.2.yieldPoint else r.2.2.yieldPoint.put 4 d r.1 0

/-! ### Heat (R425, R426, R435) -/

/-- The address of the heat word of a page of a context; none for an unmapped, host or peer page. -/
def State.heatAt (s : State) (c va : Nat) : Option Nat × State :=
  match s.pageLeaf c va with
  | (none, s) => (none, s)
  | (some f, s) =>
    (if eComp f.e then some (bits ((s.ctx c).word 0x70) 7 45 * 128 + 128 * bits f.e 16 32 + 2)
     else if eTier f.e < 2 then some (heatOf (eTier f.e) (f.page va)) else none, s)

/-- The issuer as `ckpt`, `heatrd` and `heatage` access memory: their fills are not counted (R426). -/
def State.quietMe (s : State) : Who := { s.me with quiet := true }

/-- A 16-bit store of the issuer that is part of a longer instruction. -/
def State.storeHalf (s : State) (base : Nat) (off : Int) (v : Nat) : Except AErr State :=
  match s.checkE s.quietMe base off 2 2 aWrite with
  | .error e => .error e
  | .ok (loc, s) => s.writeAt s.quietMe loc 2 v aWrite

/-- The words of the aligned record or descriptor that such an instruction reads. -/
def State.quietWords (s : State) (base : Nat) (off : Int) : Nat → Res (List Nat)
  | 0 => .ok [] s
  | n + 1 =>
    match s.checkE s.quietMe base off 8 8 aRead with
    | .error e => s.failAcc s.me 4 aRead e
    | .ok (loc, s) =>
      let r := s.readAt s.quietMe loc 8
      (r.2.quietWords base (off + 8) n).bind fun xs s => .ok (r.1 :: xs) s

/-- `heatrd` over `n` pages from page `i`: the count of the pages that have heat words, or the failure of one of its stores.
[DEDUCED, notes/assumptions/36.md] -/
def State.heatRead (c va out : Nat) : Nat → Nat → Nat → State → Except AErr (Nat × State)
  | 0, _, k, s => .ok (k, s)
  | n + 1, i, k, s =>
    let h := s.heatAt c (va + 65536 * i)
    let s := h.2
    match s.storeHalf out (2 * i : Nat) (match h.1 with | some a => s.rdN a 2 | none => 0) with
    | .error e => .error e
    | .ok s => State.heatRead c va out n (i + 1) (if h.1.isSome then k + 1 else k) s

/-- `heatage` over `n` pages. [DEDUCED, notes/assumptions/36.md] -/
def State.heatAge (c va : Nat) : Nat → Nat → Nat → State → Nat × State
  | 0, _, k, s => (k, s)
  | n + 1, i, k, s =>
    let h := s.heatAt c (va + 65536 * i)
    match h.1 with
    | none => State.heatAge c va n (i + 1) k h.2
    | some a =>
      let w := h.2.rdN a 2
      State.heatAge c va n (i + 1) (k + 1) (h.2.hwWrite a 2 (w / 256 / 2 * 256 + w % 256 / 2))

/-- The checks of `heatrd` and `heatage`, and the record's VA, NPG and OUT. -/
def State.withHeat (s : State) (a b : Nat) (k : Nat → Nat → Nat → Nat → State → Out) : Out :=
  let p := s.reg a
  let y := s.reg b
  if y / 64 ≠ 0 then .next (s.trapHere cRANGE 0 y)
  else if !s.authority y then .next (s.trapHere cPDENY 0 y)
  else if p % 32 ≠ 0 then .next (s.trapHere cALIGN 0 (p % 2 ^ 56))
  else
    (s.quietWords p 0 4).out fun ws s =>
      let va := ws.getD 0 0
      let n := ws.getD 1 0
      if va % 65536 ≠ 0 ∨ va / 2 ^ 56 ≠ 0 ∨ n = 0 ∨ 2 ^ 24 < n ∨ ws.getD 3 0 ≠ 0 then .next (s.trapHere cRANGE 0 p)
      else k y va n (ws.getD 2 0) s

/-- R435.  A store that faults, for EXPAND too (R430), leaves every store undone (10 R271). -/
def execHeatrd (d a b : Nat) (s : State) : Out :=
  s.privForm (wordPage 3 d a b)
    (s.withHeat a b fun c va n out s =>
      match State.heatRead c va out n 0 0 s with
      | .ok (k, s) => s.put 4 d k 0
      | .error e => (s.failAcc (α := Unit) s.me 4 aWrite e).halt)

/-- R435: OUT must be 0. -/
def execHeatage (d a b : Nat) (s : State) : Out :=
  s.privForm (wordPage 4 d a b)
    (s.withHeat a b fun c va n out s =>
      if out ≠ 0 then .next (s.trapHere cRANGE 0 (s.reg a))
      else
        let r := State.heatAge c va n 0 0 s
        r.2.put 4 d r.1 0)

/-! ### Replay and cancellation (R423) -/

/-- The cached entries on the path of an address give way to memory's for the walks that a replay releases (R416).
[DEDUCED, notes/assumptions/30.md] -/
def State.freshPath (s : State) (die c va : Nat) : State :=
  s.modCoh fun h => { h with tlb := h.tlb.filter fun p =>
    !(p.1 / 2 ^ 48 == die && tlbIn c (va / 65536 * 65536) (va / 65536 * 65536 + 65536) p.1) }

/-- The die on which a parked request was made, and walks again. -/
def State.parkedDie (s : State) (c : Nat) (p : Parked) : Nat :=
  if p.who = 0 ∨ p.who = 7 then
    let away := (s.ctx c).savedActs ++ s.work.groups.flatMap (·.savedActs)
    ((s.allActs ++ away).find? (·.id == p.id)).elim 0 fun a => if a.cluster = mgmtCluster then 4 + a.die else a.die
  else if p.who ≤ 3 ∨ p.who = 8 then p.id / 2 ^ 64 / 8192
  else if p.who = 6 then (s.qWho c).die
  else s.ixDie c p.id

/-- A cancelled access to an index's region breaks the index (21 R387). -/
def State.breakAt (s : State) (c va : Nat) : State :=
  match (s.ctx c).indexAt va with
  | some b => s.breakIndex c b
  | none => s

/-- A replay, or a cancellation, of a thread's request whose group is swapped out waits for the group (12 R297). -/
def State.leaveReplay (s : State) (p : Parked) (cancel : Bool) : State :=
  let add := fun (g : Group) =>
    if g.savedActs.any (fun a => a.id == p.id && a.run == .faultWait p.grp) then { g with replays := g.replays ++ [(cancel, p)] } else g
  s.modWork fun w => { w with groups := w.groups.map add }

/-- Release one request. -/
def State.replayOne (s : State) (c : Nat) (p : Parked) : State :=
  let die := s.parkedDie c p
  let s := (p.addr :: p.pages).foldl (fun s va => s.freshPath die c va) s
  let ck := p.id / 2 ^ 64
  if p.who = 0 ∨ p.who = 7 then
    (s.onAct p.id fun s => if s.cur.run = .faultWait p.grp ∨ p.who = 7 then s.goOn else s).leaveReplay p false
  else if p.who ≤ 3 then s.modCmd ck (p.who - 1) (p.id % 2 ^ 64) fun x => { x with grp := none }
  else if p.who = 6 then s.modQueue p.id fun x => { x with stalled := none }
  else if p.who = 9 then
    s.modCtx c fun x => { x with indexes := x.indexes.put p.id { (FMap.getD x.indexes p.id {}) with recl := none } }
  else s

/-- The end of a command whose replay was cancelled. -/
def State.cancelCmd (s : State) (c ck kind n : Nat) (p : Parked) : State :=
  match s.cmd? ck kind n with
  | none => s
  | some x =>
    let x := { x with flags := if kind = 1 ∧ x.op ≠ 5 then 0 else x.flags }
    let s := s.endCmd ck kind x (some (cPDENY, p.cause, p.addr)) (if kind = 0 then x.done else 0)
    let s := s.cmdFailed ck kind x
    if kind = 2 then s.breakAt c p.addr else s

/-- Cancel one request.  A thread's PDENY has the fault's cause in CAUSE.SUB, as R423 says; 07 R160 gives 0 for the PDENY of
a check. [DESIGN CHOICE, notes/assumptions/50.md] [DEDUCED, notes/assumptions/31.md] -/
def State.cancelOne (s : State) (c : Nat) (p : Parked) : State :=
  let ck := p.id / 2 ^ 64
  if p.who = 0 then
    let s := (s.onAct p.id fun s => if s.cur.run = .faultWait p.grp then s.trapHere cPDENY p.cause p.addr else s).flushTrapped p.id
    let s := s.leaveReplay p true
    if p.eng = 3 then s.breakAt c p.addr else s
  else if p.who = 7 then
    let s := s.modCtx c fun x => { x with qres := 5 }
    s.onAct p.id fun s => (s.retire 4).goOn
  else if p.who ≤ 3 then s.cancelCmd c ck (p.who - 1) (p.id % 2 ^ 64) p
  else if p.who = 6 then
    let x := s.queue p.id
    if x.stallKind = 2 then
      if x.st = 1 then s.haltQueue p.id 3 else s.putQueueSt p.id x.st 3
    else s.modQueue p.id fun y => { y with stalled := none, cancelled := 2 + x.stallKind }
  else if p.who = 8 then
    s.modCore ck fun k => k.breakPlane (p.id % 2 ^ 64) cPDENY p.cause p.addr
  else if p.who = 9 then
    (s.modCtx c fun x => { x with indexes := x.indexes.put p.id { (FMap.getD x.indexes p.id {}) with recl := none } }).breakIndex c p.id
  else s

/-- Apply a replay, or a cancellation, to the requests of a group. -/
def State.applyReplay (s : State) (c grp : Nat) (cancel : Bool) : State :=
  let ps := (s.ctx c).parked.filter (·.grp == grp)
  let s := s.modCtx c fun x => { x with parked := x.parked.filter (·.grp != grp) }
  ps.foldl (fun s p => if cancel then s.cancelOne c p else s.replayOne c p) s

/-- R423: the number of requests that a replay or cancellation releases, and the state after it.  While the context is
switched out it takes effect at the swap-in (24 R443, R445), but for the device's own requests; a group is replayed or cancelled once. -/
def State.replayGroup (s : State) (c grp : Nat) (cancel : Bool) : Nat × State :=
  let x := s.ctx c
  let n := (x.parked.filter (·.grp == grp)).length
  let away := x.parked.any fun p => p.grp == grp && (decide (p.who < 6) || p.who == 8)
  if x.isOut && away then
    if n = 0 ∨ x.dropped.any (·.1 == grp) then (0, s)
    else (n, s.modCtx c fun x => { x with dropped := x.dropped ++ [(grp, b2n cancel)] })
  else (n, s.applyReplay c grp cancel)

/-- R423, R435. -/
def execPfreplay (d a b : Nat) (s : State) : Out :=
  s.privForm (wordPage 5 d a b)
    (let c := s.reg a
     let y := s.reg b
     if c / 64 ≠ 0 then .next (s.trapHere cRANGE 0 c)
     else if y / 2 ^ 33 ≠ 0 then .next (s.trapHere cRANGE 0 y)
     else if !s.authority c then .next (s.trapHere cPDENY 0 c)
     else
       let r := s.replayGroup c (y % 2 ^ 32) (bit y 32)
       r.2.put 4 d r.1 0)

/-- A write of REPLAY: REPRES holds the number of requests released; before READY it is ignored (27 R471, R472). -/
def State.hostReplay (s : State) (c grp : Nat) (cancel : Bool) : State :=
  if !s.dev.ready then s
  else
    let r := s.replayGroup (c % 64) (grp % 2 ^ 32) cancel
    r.2.modDev fun d => { d with repres := r.1 }

/-- R423, 27 R472: a host agent replays a group. -/
def execReplay (ctx grp : Nat) (s : State) : Out := .next (s.hostReplay ctx grp false)

/-- R423, 27 R472: a host agent cancels a group. -/
def execReplayCancel (ctx grp : Nat) (s : State) : Out := .next (s.hostReplay ctx grp true)

/-! ### Host pages and held records (R418, R422) -/

/-- R418: a completion of ATS caches the translation of a 4 KiB host page, with its permissions ([0] read, [1] write). -/
def execAtsCompletion (ctx page pa perm : Nat) (s : State) : Out :=
  .next (if (s.ctx ctx).st ≠ 0 ∧ (s.link hostLink).st = 2 then
      s.modCoh fun h => { h with ats := h.ats.put (ctx * 2 ^ 64 + page) (pa, perm % 4) }
    else s)

/-- R418: an invalidation drops what it covers and drains as R417 does.  A shadow reaches no host page (17 R347), so it
has none to be killed by. -/
def execAtsInvalidation (ctx page npages : Nat) (s : State) : Out :=
  if s.drainWaits ctx then .next s
  else
    let s := s.modCoh fun h =>
      { h with ats := h.ats.filter fun p => !(decide (ctx * 2 ^ 64 + page ≤ p.1 ∧ p.1 < ctx * 2 ^ 64 + page + npages)) }
    .next ((s.drain ctx).l1ClearCtx ctx)

/-- Write held records, oldest first, while there is room. -/
def State.drainHeld (s : State) (c : Nat) : List (List Nat) → State
  | [] => s.modCtx c fun x => { x with held := [] }
  | r :: rs =>
    let t := (s.modCtx c fun x => { x with held := [] }).ringPut c r
    if (t.ctx c).held.isEmpty then State.drainHeld t c rs else s.modCtx c fun x => { x with held := r :: rs }

/-- R422: the device rereads TAIL while records wait. -/
def execFaultRingRecheck (ctx : Nat) (s : State) : Out :=
  let hs := (s.ctx ctx).held
  if hs.isEmpty then .next s
  else
    let s := s.drainHeld ctx hs
    match s.devLoc ctx 0 (bits ((s.ctx ctx).word 0x08) 6 50 * 64) 64 aWrite with
    | (none, s) => .next s
    | (some h, s) => .next (s.devKeep (devWho ctx 0) h 24 8 (s.ctx ctx).held.length)

/-! ### Checkpoints (R431, R432) -/

/-- Whether a field of a checkpoint descriptor is outside R431, or the extents are misplaced or overlap. -/
def ckptBad (src len dst map r0 r1 : Nat) : Bool :=
  let n := len % 2 ^ 24
  let bytes := n * 65536
  r0 != 0 || r1 != 0 || n == 0 || bits len 24 39 != 0 || src % 65536 != 0 || dst % 65536 != 0 || map % 16 != 0
    || !(inHbm src && inHbm (src + bytes - 1) && src / 2 ^ 42 == (src + bytes - 1) / 2 ^ 42)
    || !(inFar dst && inFar (dst + bytes - 1))
    || !((inHbm map && inHbm (map + 16 * n - 1) && map / 2 ^ 42 == (map + 16 * n - 1) / 2 ^ 42) || (inFar map && inFar (map + 16 * n - 1)))
    || overlaps src bytes map (16 * n) || overlaps dst bytes map (16 * n)

/-- The ports that serve the pages of a far-tier extent; none where a page has no port. -/
def State.extentPorts (s : State) (dst n : Nat) : List (Option Nat) :=
  (List.range n).map fun i => s.farPort? (dst + 65536 * i)

/-- R435: it checks and starts. [DEDUCED, notes/assumptions/37.md] -/
def execCkpt (d a b : Nat) (s : State) : Out :=
  s.privForm (wordPage 6 d a b)
    (let mask := s.reg a
     let p := s.reg b
     if !s.cur.onControl && setBits mask s.cur.ctx 1 0 != 0 then .next (s.trapHere cPDENY 0 mask)
     else if p % 64 ≠ 0 then .next (s.trapHere cALIGN 0 (p % 2 ^ 56))
     else
       (s.quietWords p 0 8).out fun ws s =>
         let g := fun (i : Nat) => ws.getD i 0
         let n := g 1 % 2 ^ 24
         if s.dev.ckpt.isSome then s.put 4 d 1 0
         else if (List.range 64).any fun c => bit mask c && (s.ctx c).st != 4 && (s.ctx c).st != 5 then s.put 4 d 2 0
         else if ckptBad (g 0) (g 1) (g 2) (g 3) (g 6) (g 7) then s.put 4 d 3 0
         else if (s.extentPorts (g 2) n).any fun o => match o with | none => true | some p => !s.dev.persist.contains p then
           s.put 4 d 4 0
         else
           (s.check 4 p 0x20 16 8 aWrite).out fun loc s =>
             match s.writeAt s.me loc 16 0 aWrite with
             | .error e => (s.failAcc (α := Unit) s.me 4 aWrite e).halt
             | .ok s =>
               let old := s.mem.filter fun c => decide (g 0 ≤ c.1 ∧ c.1 < g 0 + 65536 * n)
               let s := s.modDev fun v => { v with ckpt := some [mask, g 0, g 1, g 2, g 3, loc.key, loc.kind, loc.desc, s.cur.ctx, loc.va], ckptMem := old, ckptAt := s.sched.clock }
               s.put 4 d 0 0)

/-- The bytes of a source page: a word that changed during the run is one of the values that it held, unpredictably (R432);
`olds` are the contents of memory at those moments. [DEDUCED, notes/assumptions/37.md] -/
def State.ckptPage (s : State) (olds : List (List Host.Cell)) (p : Nat) : Nat → List Nat × State
  | 0 => ([], s)
  | n + 1 =>
    let xs := (s.rdN p 8 :: olds.map fun m => Memory.readN m p 8).eraseDups
    let f := if xs.length ≤ 1 then (0, s) else s.draw
    let r : Nat × State := (xs.getD (f.1 % xs.length) 0, f.2)
    let rest := State.ckptPage r.2 olds (p + 8) n
    ((List.range 8).map (fun i => r.1 / 256 ^ i % 256) ++ rest.1, rest.2)

/-- Copy `n` pages from page `i`, the next free sector of the destination being `sec`, and write their map entries.
[DEDUCED, notes/assumptions/37.md] -/
def State.ckptCopy (src dst map : Nat) (comp : Bool) : Nat → Nat → Nat → State → State
  | 0, _, _, s => s
  | n + 1, i, sec, s =>
    let r := s.ckptPage (s.dev.ckptMem :: s.pastMems s.dev.ckptAt) (src + 65536 * i) 8192
    let s := r.2
    let blk := if comp then lz4Encode r.1 else []
    let small := comp && decide (blk.length ≤ 61440)
    let out := if small then blk else r.1
    let nsec := if small then ceilDiv blk.length 4096 else 0
    let clen : Nat × State := if small then (blk.length, s) else let f := s.draw; (f.1 % 2 ^ 32, f.2)
    let s := clen.2
    let s := (s.setMem (Memory.splice s.mem (dst + 4096 * sec) out)).disturbKey (fun _ => false) (dst + 4096 * sec) out.length
    let s := s.hwWrite (map + 16 * i) 16 (sec + nsec * 2 ^ 40 + clen.1 * 2 ^ 64 + crc32c r.1 * 2 ^ 96)
    State.ckptCopy src dst map comp n (i + 1) (sec + if small then nsec else 16) s

/-- R432: a run ends with status 1 (every port up, no read error), 2 (a destination port that is not up) or 3 (a read
error).  STAT and DONE are written last. -/
def execCheckpointComplete (stat : Nat) (s : State) : Out :=
  match s.dev.ckpt with
  | none => .next s
  | some w =>
    let g := fun (i : Nat) => w.getD i 0
    let n := g 2 % 2 ^ 24
    let down := (s.extentPorts (g 3) n).any fun o => match o with | none => true | some p => (s.link (farLink p)).st != 2
    let bad := s.coh.poison.any fun l => decide (g 1 ≤ l * 128 ∧ l * 128 < g 1 + 65536 * n)
    let at_ : Loc := { key := g 5, kind := g 6, desc := g 7, va := g 9 }
    let finish := fun (s : State) (done : Nat) =>
      (s.devKeep (devWho (g 8) 0) at_ 0 16 (stat + done * 2 ^ 64)).modDev fun v => { v with ckpt := none, ckptMem := [] }
    if stat = 1 ∧ !down ∧ !bad then .next (finish (State.ckptCopy (g 1) (g 3) (g 4) (bit (g 2) 63) n 0 0 s) n)
    else if (stat = 2 ∧ down) ∨ stat = 3 then
      let f := s.draw
      let done := f.1 % (n + 1)
      .next (finish (State.ckptCopy (g 1) (g 3) (g 4) (bit (g 2) 63) done 0 0 f.2) done)
    else .next s

end Sys2Proof.Machine
end

