-- ==== Sys2Proof/Machine/Table.lean ====
section
/-!
DEFINITION. Protocol tables and ranges (19 R369 to R380): the checker, `ptload` and `rngset`.
-/

namespace Sys2Proof.Machine

/-! ### The checker (R371 to R376) -/

/-- A table as read: its header's ID, NS, NE, TB, NROW, whether a reserved byte or padding is nonzero, and its content. -/
structure RawTable where
  id : Nat
  ns : Nat
  ne : Nat
  tb : Nat
  nrow : Nat
  dirty : Bool
  attrs : List Nat
  rows : List PRow
deriving DecidableEq, Repr

/-- A row from its eight bytes (04 R101). -/
def rowOf (v : Nat) : PRow := { st := v % 256, ev := bits v 8 8, nx := bits v 16 8, cls := bits v 24 8, act := v / 2 ^ 32 }

/-- The class of the message that raises an event (R372). -/
def evClass (e : Nat) : Nat :=
  if e < 4 then 0 else if e ≤ 7 then 2 else if e = 8 then 6 else if e ≤ 10 then 4 else if e ≤ 12 then 7 else 3

/-- The classes of a row's sending actions (R374). -/
def sendClasses (a : Nat) : List Nat :=
  (if bit a 0 then [4] else []) ++ (if bit a 1 then [5] else []) ++ (if bit a 5 then [6] else [])
    ++ (if bit a 8 then [1] else []) ++ (if bit a 9 then [1] else [])

def RawTable.attr (t : RawTable) (k : Nat) : Nat := t.attrs.getD k 0
def RawTable.stable (t : RawTable) (k : Nat) : Bool := bit (t.attr k) 0
def RawTable.wr (t : RawTable) (k : Nat) : Bool := bit (t.attr k) 1
def RawTable.rd (t : RawTable) (k : Nat) : Bool := bit (t.attr k) 2
def RawTable.dty (t : RawTable) (k : Nat) : Bool := bit (t.attr k) 3
def RawTable.excl (t : RawTable) (k : Nat) : Bool := bit (t.attr k) 4

/-- Check 1. -/
def RawTable.hdrBad (t : RawTable) : Bool :=
  !(t.id == 6 || t.id == 7) || decide (t.ns < 2 ∨ 32 < t.ns) || t.ne != 14 || decide (16 < t.tb) || t.dirty

/-- Check 2, on one row. -/
def RawTable.fieldBad (t : RawTable) (r : PRow) : Bool :=
  let ss := sendClasses r.act
  decide (t.ns ≤ r.st ∨ t.ns ≤ r.nx ∨ 14 ≤ r.ev ∨ 7 < r.cls ∨ 2 ^ 10 ≤ r.act ∨ 1 < ss.length)
    || ss.any (· != r.cls) || (ss.isEmpty && r.cls != 0 && r.cls != 7 && r.cls != 3)

/-- Check 5, on one state. -/
def RawTable.attrBad (t : RawTable) (k : Nat) : Bool :=
  (k == 0 && t.attr 0 != 1) || decide (32 ≤ t.attr k) || (t.wr k && !(t.rd k && t.excl k)) || (t.dty k && !t.rd k)
    || (!t.stable k && t.wr k)

/-- Check 6, on one row. -/
def RawTable.swrBad (t : RawTable) (r : PRow) : Bool :=
  ((r.ev == 1 || r.ev == 2) && bit r.act 6 && !t.wr r.st && !bit r.act 5)
    || (t.excl r.nx && !t.excl r.st && !(r.ev == 10 || (r.ev == 11 && !t.stable r.st)))
    || (decide (5 ≤ r.ev ∧ r.ev ≤ 7) && t.wr r.st && t.wr r.nx)

/-- Check 9, on one row. -/
def RawTable.recallBad (t : RawTable) (r : PRow) : Bool :=
  r.ev == 7 && (r.nx != 0 || !bit r.act 3 || bit r.act 7 || (t.dty r.st && !bit r.act 1))

/-- The nodes that edges reach from a set, over at most `n` edges. -/
def reachFrom (edges : List (Nat × Nat)) : Nat → List Nat → List Nat
  | 0, ns => ns
  | n + 1, ns => reachFrom edges n (edges.foldl (fun r e => if r.contains e.1 && !r.contains e.2 then e.2 :: r else r) ns)

/-- The class edges of check 7. -/
def RawTable.classEdges (t : RawTable) : List (Nat × Nat) :=
  (t.rows.map fun r => (evClass r.ev, r.cls)).filter fun e => e.1 != 0 && e.2 != 0

/-- Check 7, on one row: its edge lies on a cycle. [DEDUCED, notes/assumptions/33.md] -/
def RawTable.cycleBad (t : RawTable) (r : PRow) : Bool :=
  let e := (evClass r.ev, r.cls)
  e.1 != 0 && e.2 != 0 && (reachFrom t.classEdges 7 [e.2]).contains e.1

/-- The transient states, and the rows between them that check 8 counts. -/
def RawTable.transient (t : RawTable) : List Nat := (List.range t.ns).filter fun k => !t.stable k
def RawTable.stepEdges (t : RawTable) : List (Nat × Nat) :=
  (t.rows.filter fun r => !t.stable r.st && !t.stable r.nx && !(bit r.act 7 && r.nx == r.st)).map fun r => (r.st, r.nx)

/-- Check 8 on one row: it lies on a cycle of transient states. -/
def RawTable.stepBad (t : RawTable) (r : PRow) : Bool :=
  !t.stable r.st && !t.stable r.nx && !(bit r.act 7 && r.nx == r.st) && (reachFrom t.stepEdges t.ns [r.nx]).contains r.st

/-- Check 8 on one state: no row on a data or ack event leaves it. -/
def RawTable.stuck (t : RawTable) (k : Nat) : Bool :=
  !t.stable k && !(t.rows.any fun r => r.st == k && decide (9 ≤ r.ev ∧ r.ev ≤ 12) && r.nx != k)

/-- Check 8.  Once there are at most TB transient states and no cycle among them, no path to a stable state has more than
TB rows. [DEDUCED, notes/assumptions/33.md] -/
def RawTable.transBad (t : RawTable) : Bool :=
  decide (t.tb < t.transient.length) || t.rows.any t.stepBad
    || (List.range t.ns).any t.stuck

/-- The smallest (state, event) pair of a list of rows, as STATE + 256 × EVENT. -/
def firstPair : List PRow → Option Nat
  | [] => none
  | r :: rs =>
    match firstPair rs with
    | none => some (r.st + 256 * r.ev)
    | some p => if r.st < p % 256 ∨ (r.st = p % 256 ∧ r.ev ≤ p / 256) then some (r.st + 256 * r.ev) else some p

/-- The pairs that two rows share. -/
def dupRows : List PRow → List PRow
  | [] => []
  | r :: rs => if rs.any (fun x => x.st == r.st && x.ev == r.ev) then r :: dupRows rs else dupRows rs

/-- R376. -/
def RawTable.upd (t : RawTable) : Bool :=
  t.rows.any fun r => (r.ev == 1 || r.ev == 2) && bit r.act 6 && bit r.act 5 && !t.wr r.st

/-- R375: the verdict's CODE, and the reported pair where the check names one: STATE, and EVENT.
[DEDUCED, notes/assumptions/33.md] -/
def RawTable.verdict (t : RawTable) : Nat × Option Nat × Option Nat :=
  let pair := fun (code p : Nat) => (code, some (p % 256), some (p / 256))
  let missing := (List.range t.ns).flatMap fun k =>
    (List.range 14).filterMap fun e =>
      if t.rows.any (fun r => r.st == k && r.ev == e) then none else some (k + 256 * e)
  if t.hdrBad then (1, some 0, some 0)
  else
    match firstPair (t.rows.filter t.fieldBad) with
    | some p => pair 2 p
    | none =>
      match firstPair (dupRows t.rows) with
      | some p => pair 4 p
      | none =>
        match missing.head? with
        | some p => pair 3 p
        | none =>
          match (List.range t.ns).find? t.attrBad with
          | some k => (5, some k, none)
          | none =>
            match firstPair (t.rows.filter t.swrBad) with
            | some p => pair 6 p
            | none =>
              match firstPair (t.rows.filter t.recallBad) with
              | some p => pair 9 p
              | none =>
                match firstPair (t.rows.filter t.cycleBad) with
                | some p => pair 7 p
                | none =>
                  if !t.transBad then (0, some 0, some 0)
                  else
                    match firstPair (t.rows.filter t.stepBad), (List.range t.ns).find? t.stuck with
                    | some p, some k => if k < p % 256 then (8, some k, none) else pair 8 p
                    | some p, none => pair 8 p
                    | none, k => (8, k, none)

/-! ### `ptload` (R377, R378) -/

/-- Read `n` words at an address of the issuer, with its alignment. -/
def State.loadQuads (s : State) (base : Nat) (off : Int) : Nat → Res (List Nat)
  | 0 => .ok [] s
  | n + 1 => (s.load 4 base off 8 8).bind fun x s => (s.loadQuads base (off + 8) n).bind fun xs s => .ok (x :: xs) s

/-- The bytes of words. -/
def quadBytes (ws : List Nat) : List Nat := ws.flatMap fun w => (List.range 8).map fun i => w / 256 ^ i % 256

/-- Recall every copy that is held under a context's loaded table (R370); requests in progress under it are served again. -/
def State.recallOwner (s : State) (c pid : Nat) : State :=
  let mine := fun (p : Nat × Copy) => p.2.pid == pid && p.2.owner == c
  let held := (s.coh.copies.filter mine).map (·.1)
  let r := s.holdLines fun l => held.any fun k => k / 8 == l
  let s := r.2.modCoh fun h =>
    { h with copies := h.copies.filter fun p => !mine p
             stale := h.stale.filter fun l => !held.any fun k => k / 8 == l
             upd := h.upd.filter fun p => !held.contains p.1 }
  (s.mapActs fun a =>
    match a.resv with
    | some r => if held.contains (r.line * 8 + a.die) then { a with resv := none } else a
    | none => a).freeLines r.1

/-- R378.  A line that is still cached under the table that is replaced is recalled. -/
def execPtload (d a b : Nat) (s : State) : Out :=
  s.privForm (wordPage 8 d a b)
    (let p := s.reg a
     let y := s.reg b
     if y / 64 ≠ 0 then .next (s.trapHere cRANGE 0 y)
     else if !s.authority y then .next (s.trapHere cPDENY 0 y)
     else if p % 8 ≠ 0 then .next (s.trapHere cALIGN 0 (p % 2 ^ 56))
     else if (s.ctx y).st = 0 then s.put 4 d 11 0
     else
       (s.loadQuads p 0 2).out fun hd s =>
         let h := quadBytes hd
         let id := h.getD 0 0
         let ns := h.getD 1 0
         let nrow := h.getD 4 0 + 256 * h.getD 5 0
         if (s.ctx y).ranges.any (fun r => decide (0 < r.2.npg) && r.2.pid == id) then s.put 4 d 10 0
         else
           (s.loadQuads p 16 (ceilDiv ns 8)).out fun qs s =>
             (s.loadQuads p (16 + 8 * ceilDiv ns 8 : Nat) nrow).out fun rs s =>
               let bs := quadBytes qs
               let t : RawTable :=
                 { id := id, ns := ns, ne := h.getD 2 0, tb := h.getD 3 0, nrow := nrow,
                   dirty := (h.drop 6).any (· != 0) || (bs.drop ns).any (· != 0), attrs := bs.take ns, rows := rs.map rowOf }
               let v := t.verdict
               let f := s.draw
               let g := f.2.draw
               let st := v.2.1.getD (f.1 % 256)
               let ev := v.2.2.getD (g.1 % 256)
               let s := if v.1 = 0 then s else g.2
               let word := v.1 + 256 * st + 65536 * ev + 2 ^ 32 * b2n (decide (v.1 = 0) && t.upd)
               let s :=
                 if v.1 = 0 then
                   (s.recallOwner y id).modCtx y fun c => { c with tables := c.tables.put id { attrs := t.attrs, rows := t.rows, upd := t.upd } }
                 else s.freeze y 3 word
               s.put 4 d word 0)

/-! ### `rngset` (R379, R380) -/

/-- A descriptor's fields (R369). -/
def rangeOf (base ctl : Nat) : Range := { base := base, npg := ctl % 2 ^ 32, pid := bits ctl 32 4, det := bit ctl 36 }

/-- R380: the status of a descriptor for entry i. -/
def Ctx.rangeStatus (c : Ctx) (i base ctl : Nat) : Nat :=
  let n := ctl % 2 ^ 32
  let pid := bits ctl 32 4
  let top := base + n * 65536
  if ctl / 2 ^ 37 ≠ 0 ∨ base / 2 ^ 56 ≠ 0 ∨ base % 65536 ≠ 0 ∨ 2 ^ 56 < top ∨ (0 < n ∧ 0xF0000000000000 < top) ∨ 8 ≤ pid
      ∨ (6 ≤ pid ∧ (c.tables.get? pid).isNone) then 1
  else if 0 < n ∧ c.ranges.any (fun r => r.1 != i && decide (0 < r.2.npg) && overlaps r.2.base (r.2.npg * 65536) base (n * 65536)) then 2
  else 0

/-- The 64 KiB blocks of memory keys that a page of a context is held in, by its tier. -/
def State.pageBlocks (s : State) (c va : Nat) (f : Leaf) : List Nat :=
  let p := f.page va
  if eComp f.e then []
  else if eTier f.e < 2 then [p / 65536]
  else if eTier f.e = 3 then [peerKey (bits f.e 52 9) p / 65536]
  else (List.range 16).filterMap fun j => (s.coh.ats.get? (c * 2 ^ 64 + p / 4096 + j)).map fun x => hostKey (x.1 * 4096) / 65536

/-- The blocks of the pages that a context maps inside an extent. -/
def State.extentPages (s : State) (c base : Nat) : Nat → List Nat × State
  | 0 => ([], s)
  | n + 1 =>
    let r := s.pageLeaf c base
    let rest := State.extentPages r.2 c (base + 65536) n
    ((match r.1 with | some f => rest.2.pageBlocks c base f | none => []) ++ rest.1, rest.2)

/-- Recall every copy of the lines of physical pages (R379 step 2): dirty data is written back, copies and replicas go,
reservations of their holders are cancelled (R367), and shadows registered on the lines are killed. -/
def State.recallPages (s : State) (ps : List Nat) : State :=
  let inP := fun (line : Nat) => ps.contains (line / 512)
  let held := s.coh.copies.filter fun p => inP (p.1 / 8)
  let s := s.modCoh fun h =>
    { h with copies := h.copies.filter fun p => !inP (p.1 / 8)
             stale := h.stale.filter fun l => !inP l
             upd := h.upd.filter fun p => !inP (p.1 / 8)
             repl := h.repl.filter fun p => !inP (p.1 % 2 ^ 80 / 256) }
  let s := s.mapActs fun a =>
    match a.resv with
    | some r => if held.any (fun p => p.1 == r.line * 8 + a.die) then { a with resv := none } else a
    | none => a
  s.killShadows (fun q => q.shadow.regs.any inP) 5

/-- R379: entry i of a context changes. -/
def State.setRange (s : State) (c i : Nat) (new : Range) : State :=
  let old := FMap.getD (s.ctx c).ranges i {}
  let o := s.extentPages c old.base old.npg
  let n := o.2.extentPages c new.base new.npg
  let held := n.2.holdLines fun l => (o.1 ++ n.1).contains (l / 512)
  let s := held.2.recallPages (o.1 ++ n.1)
  let s := if old.pid = 4 then (s.flushContribs c fun d => decide (old.base ≤ d.va ∧ d.va < old.base + old.npg * 65536)).2 else s
  let keeps := fun (p : Nat) => new.det && n.1.contains p
  let lost := if old.det then o.1.filter fun p => !keeps p else []
  let s := s.modCtx c fun x => { x with recs := x.recs.filter fun r => !lost.contains (r.1 % 2 ^ 80 / 512) }
  let s := s.dropXlat c old.base (old.base + old.npg * 65536)
  let s := s.dropXlat c new.base (new.base + new.npg * 65536)
  let s := (s.drain c).l1ClearCtx c
  (s.modCtx c fun x => { x with ranges := if new.npg = 0 then x.ranges.del i else x.ranges.put i new }).freeLines held.1

/-- R377, R379, R380. -/
def execRngset (d a b : Nat) (s : State) : Out :=
  s.privForm (wordPage 9 d a b)
    (let x := s.reg a
     let p := s.reg b
     let c := bits x 8 6
     let i := x % 64
     if bits x 6 2 ≠ 0 ∨ x / 2 ^ 14 ≠ 0 then .next (s.trapHere cRANGE 0 x)
     else if !s.authority c then .next (s.trapHere cPDENY 0 x)
     else if p % 16 ≠ 0 then .next (s.trapHere cALIGN 0 (p % 2 ^ 56))
     else if (s.ctx c).st = 0 then s.put 4 d 3 0
     else
       (s.loadQuads p 0 2).out fun ws s =>
         let st := (s.ctx c).rangeStatus i (ws.getD 0 0) (ws.getD 1 0)
         if st ≠ 0 then s.put 4 d st 0
         else if s.drainWaits c then .next s
         else (s.setRange c i (rangeOf (ws.getD 0 0) (ws.getD 1 0))).put 4 d 0 0)

end Sys2Proof.Machine
end

