-- ==== Sys2Proof/Machine/Protocol.lean ====
section
/-!
DEFINITION. The steps of the coherence protocols (19 R357 to R374, 20 R382): requests that reach a line's home, forwards,
invalidations, recalls and updates that reach the holders, and the data and acknowledgements that end them.  A copy takes its
table's row on each.  These steps move copies and messages only: memory holds each line's coherent value, and what a party may
still read of an older one is held apart (06 R142, R149).
-/

namespace Sys2Proof.Machine

/-! ### Requests -/

/-- R363: a read request reaches the line's home. -/
def execReqr (die line : Nat) (s : State) : Out :=
  .next (match s.takeMsg 0 die line with | none => s | some (m, s) => s.homeArrive m)

/-- R363: an ownership request reaches the line's home. -/
def execReqw (die line : Nat) (s : State) : Out :=
  .next (match s.takeMsg 1 die line with | none => s | some (m, s) => s.homeArrive m)

/-- R363: a write-back reaches the home, which acknowledges it; one that a recall asked for (`src` 8) is its answer. -/
def execWb (die line : Nat) (s : State) : Out :=
  .next (match s.takeMsg 2 die line with
    | none => s
    | some (m, s) =>
      let s := (s.wroteBack line).sendCoh { m with ev := 12, bytes := [] }
      if m.src = 8 then s.answer line else s)

/-- R364: bytes written under the update protocol reach the home: they are written to memory and pushed to every other holder
when the line's turn comes. -/
def execPush (die line : Nat) (s : State) : Out :=
  .next (match s.takeMsg 3 die line with
    | none => s
    | some (m, s) => (s.wroteBack line).homeArrive m)

/-! ### Forwards, invalidations, recalls and updates -/

/-- A message of the home reaches a die, whose copy takes its row; reservations on the line are cancelled by all but fwdrd
(R367).  The home learns of it by the row's own acknowledgement or write-back, by the data that the requester gets, or else by an
acknowledgement of the die. [DEDUCED, notes/assumptions/29.md] -/
def State.forwarded (s : State) (die line ev : Nat) (m : CohMsg) : State :=
  let s := if ev = 4 then s else s.breakResv die line
  let c := (s.coh.copies.get? (line * 8 + die)).getD (noCopy m.pid m.owner)
  let r := (s.tableOf c).rowAt c.st ev
  let t := s.present die ev c { m with line := line }
  if r.cls = 7 ∨ (r.cls = 5 ∧ ev = 7) ∨ (r.cls = 4 ∧ ev ≤ 5) then t
  else t.sendCoh (ackMsg die line (if r.cls = 3 then 13 else ev))

/-- R363: the holder that answers sends the line to the requester. -/
def execFwdrd (die line : Nat) (s : State) : Out :=
  .next (match s.takeMsg 4 die line with | none => s | some (m, s) => s.forwarded die line 4 m)

/-- R363, R366: ownership passes from a holder; its data goes to the requester. -/
def execFwdwr (die line : Nat) (s : State) : Out :=
  .next (match s.takeMsg 5 die line with | none => s | some (m, s) => s.forwarded die line 5 m)

/-- R363: a sharer drops its copy. -/
def execInv (die line : Nat) (s : State) : Out :=
  .next (match s.takeMsg 6 die line with | none => s | some (m, s) => s.forwarded die line 6 m)

/-- The home's snoop filter evicts a line's entry (R359): shadows registered there are killed (17 R348), and every holder
is recalled; with none the way is free at once. -/
def State.evictEntry (s : State) (line : Nat) : State :=
  let s := s.killShadows (fun q => q.shadow.regs.contains line) 5
  let hs := (s.holders line).filter fun h => h.1 != homeOfLine line
  if hs.isEmpty then s.answer line
  else
    s.modCoh fun h =>
      let b := (h.busy.get? line).getD { req := evictMsg line, acks := 0, waiting := [] }
      { h with busy := h.busy.put line { b with acks := hs.length }, msgs := h.msgs ++ hs.map fun x => (evictMsg line).to 7 x.1 }

/-- R359: a recall reaches a holder, or the home itself, whose filter evicts the line's entry. -/
def execRecall (die line : Nat) (s : State) : Out :=
  .next (match s.takeMsg 7 die line with
    | none => s
    | some (m, s) => if m.src = 9 then s.evictEntry line else s.forwarded die line 7 m)

/-- R364, R367: pushed bytes reach a holder, whose copy merges them where its row says so. -/
def execUpdin (die line : Nat) (s : State) : Out :=
  .next (match s.takeMsg 8 die line with
    | none => s
    | some (m, s) =>
      let s := s.breakResv die line
      match s.coh.copies.get? (line * 8 + die) with
      | none => s
      | some c => s.present die 8 c m)

/-! ### Replacement -/

/-- A die replaces its copy of a line (R363). -/
def State.replace (s : State) (die line : Nat) : State :=
  match s.coh.copies.get? (line * 8 + die) with
  | none => s
  | some c => s.present die 3 c { ev := 3, die := die, line := line, src := die, pid := c.pid, owner := c.owner }

/-- A die's L2 holds as many lines as its slices that are not carved out have (01 R12, 06 R139); when it holds more, one
that is drawn among the others is replaced. -/
def State.fitL2 (s : State) (die line : Nat) : State :=
  let mine := s.coh.copies.filter fun p => p.1 % 8 == die && s.holds p.2
  if mine.length ≤ (48 - (s.die die).carve) * 16384 then s
  else
    let others := mine.filter fun p => p.1 / 8 != line && (s.coh.busy.get? (p.1 / 8)).isNone
    let d := s.draw
    match others[d.1 % max 1 others.length]? with
    | none => s
    | some p => d.2.replace die (p.1 / 8)

/-! ### Data and acknowledgements -/

/-- What a requester has of a line when an answer to its request reaches it: its copy, or, where a recall has taken that, a
request under way. -/
def State.requester (s : State) (die line : Nat) (q : CohMsg) : Copy :=
  let c := s.copyOf die line q.pid q.owner
  if c.st ≠ 0 then c
  else
    let n := noCopy q.pid q.owner
    { n with st := ((s.tableOf n).rowAt 0 q.ev).nx, pend := if c.pend.isEmpty then [{ q with line := line }] else c.pend }

/-- A request's answer has been taken: the accesses that wait are presented again, and with the last message of the request the home
is done with it.  A loaded table that still waits takes the grant as its acknowledgement too. [DEDUCED, notes/assumptions/29.md] -/
def State.afterAnswer (s : State) (die line ev : Nat) (q : CohMsg) : State :=
  let c := s.copyOf die line q.pid q.owner
  let s := if ev = 10 ∧ 6 ≤ q.pid ∧ !(s.tableOf c).stable c.st then s.present die 11 c { q with line := line } else s
  let s := s.again die line
  if ev = 10 ∨ q.ev = 0 then (s.fitL2 die line).endReq line else s

/-- Data reaches a requester, whose copy takes its row.  Under protocols 0 and 2 a grant without bytes waits for the owner's data, and
that data for the grant (20 R382). -/
def State.arrive (s : State) (die line ev : Nat) (m : CohMsg) : State :=
  match s.coh.busy.get? line with
  | none => s
  | some b =>
    let q := b.req
    let c := s.requester die line q
    let m := { m with line := line }
    let joins := q.pid == 0 || q.pid == 2
    if joins && ev == 10 && m.bare && c.got != 1 then s.setCopy die line { c with got := 2 }
    else if joins && ev == 9 && (q.ev != 0 || q.pid == 2) then
      let s := s.present die 9 { c with got := 1 } m
      if c.got = 2 then (s.present die 10 (s.requester die line q) m).afterAnswer die line 10 q else s
    else (s.present die ev c m).afterAnswer die line ev q

/-- R363: shared data, or an owner's, reaches the requester. -/
def execData (die line : Nat) (s : State) : Out :=
  .next (match s.takeMsg 9 die line with | none => s | some (m, s) => s.arrive die line 9 m)

/-- R363: exclusive data, or the grant, reaches the requester. -/
def execDataex (die line : Nat) (s : State) : Out :=
  .next (match s.takeMsg 10 die line with | none => s | some (m, s) => s.arrive die line 10 m)

/-- The home learns that a die has taken an event.  Where a fwdrd found no copy the request is served anew, where a fwdwr found none
the home's own data stands for the owner's, and after a retry response the request is over. [DEDUCED, notes/assumptions/29.md] -/
def State.acked (s : State) (line ev : Nat) : State :=
  match s.coh.busy.get? line with
  | none => s
  | some b =>
    if ev = 4 then s.leaveLine line [b.req]
    else if ev = 5 then s.sendCoh (b.req.reply 9 false)
    else if ev = 13 then s.endReq line
    else s.answer line

/-- R363: an acknowledgement reaches the home. -/
def execAck (die line : Nat) (s : State) : Out :=
  .next (match s.takeMsg 11 die line with | none => s | some (m, s) => s.acked line m.n)

/-- R372: an acknowledgement or a retry response reaches a die, whose copy takes its row. -/
def State.told (s : State) (die line ev : Nat) (m : CohMsg) : State :=
  match s.coh.copies.get? (line * 8 + die) with
  | none => s
  | some c => (s.present die ev c m).again die line

/-- R372: the acknowledgement of a write-back reaches the die that wrote it. -/
def execWbdone (die line : Nat) (s : State) : Out :=
  .next (match s.takeMsg 12 die line with | none => s | some (m, s) => s.told die line 12 m)

/-- R372: a retry response reaches a die. -/
def execNack (die line : Nat) (s : State) : Out :=
  .next (match s.takeMsg 13 die line with | none => s | some (m, s) => s.told die line 13 m)

/-- R363: a die replaces its copy of a line. -/
def execEvi (die line : Nat) (s : State) : Out := .next (s.replace die line)

end Sys2Proof.Machine
end

