-- ==== Sys2Proof/Machine/Sha3.lean ====
section
/-!
DEFINITION. SHA3-256, with which a context is measured (24 R451): the sponge over Keccak-f with a rate of 136 bytes, the
suffix 01 and the padding 10*1.
-/

namespace Sys2Proof.Machine

/-- Rotate a 64-bit lane left. -/
def rol64 (v n : Nat) : Nat := if n = 0 then v else v % 2 ^ (64 - n) * 2 ^ n + v / 2 ^ (64 - n)

/-- The rotation of lane x + 5y. -/
def keccakRot : List Nat :=
  [0, 1, 62, 28, 27, 36, 44, 6, 55, 20, 3, 10, 43, 25, 39, 41, 45, 15, 21, 8, 18, 2, 61, 56, 14]

/-- The round constants. -/
def keccakRc : List Nat :=
  [0x0000000000000001, 0x0000000000008082, 0x800000000000808A, 0x8000000080008000, 0x000000000000808B,
   0x0000000080000001, 0x8000000080008081, 0x8000000000008009] ++
  [0x000000000000008A, 0x0000000000000088, 0x0000000080008009, 0x000000008000000A, 0x000000008000808B,
   0x800000000000008B, 0x8000000000008089, 0x8000000000008003] ++
  [0x8000000000008002, 0x8000000000000080, 0x000000000000800A, 0x800000008000000A, 0x8000000080008081,
   0x8000000000008080, 0x0000000080000001, 0x8000000080008008]

/-- One round over the 25 lanes. -/
def keccakRound (a : List Nat) (rc : Nat) : List Nat :=
  let g := fun (i : Nat) => a.getD i 0
  let c := (List.range 5).map fun x => g x ^^^ g (x + 5) ^^^ g (x + 10) ^^^ g (x + 15) ^^^ g (x + 20)
  let d := (List.range 5).map fun x => c.getD ((x + 4) % 5) 0 ^^^ rol64 (c.getD ((x + 1) % 5) 0) 1
  let t := (List.range 25).map fun i => rol64 (g i ^^^ d.getD (i % 5) 0) (keccakRot.getD i 0)
  let b := (List.range 25).map fun j =>
    let y := j % 5
    let x := (List.range 5).find? fun x => (2 * x + 3 * y) % 5 == j / 5
    t.getD (x.getD 0 + 5 * y) 0
  let h := fun (i : Nat) => b.getD i 0
  let e := (List.range 25).map fun i =>
    let r := i / 5 * 5
    h i ^^^ ((2 ^ 64 - 1 - h (r + (i % 5 + 1) % 5)) &&& h (r + (i % 5 + 2) % 5))
  e.set 0 (e.getD 0 0 ^^^ rc)

/-- The permutation. -/
def keccakF (a : List Nat) : List Nat := keccakRc.foldl keccakRound a

/-- The little-endian lanes of a block of bytes. -/
def lanesOf (bs : List Nat) : List Nat :=
  (List.range 25).map fun i => (List.range 8).foldr (fun k v => bs.getD (8 * i + k) 0 + 256 * v) 0

/-- Absorb blocks of 136 bytes, `n` of them. -/
def keccakAbsorb : Nat → List Nat → List Nat → List Nat
  | 0, a, _ => a
  | n + 1, a, bs =>
    keccakAbsorb n (keccakF ((a.zip (lanesOf (bs.take 136))).map fun p => p.1 ^^^ p.2)) (bs.drop 136)

/-- SHA3-256 of bytes, as 32 bytes. -/
def sha3 (bs : List Nat) : List Nat :=
  let n := bs.length / 136 + 1
  let fill := n * 136 - bs.length
  let pad := if fill = 1 then [0x86] else 0x06 :: (List.replicate (fill - 2) 0 ++ [0x80])
  let a := keccakAbsorb n (List.replicate 25 0) (bs ++ pad)
  (List.range 32).map fun i => a.getD (i / 8) 0 / 256 ^ (i % 8) % 256

end Sys2Proof.Machine
end

