-- ==== Sys2Proof/Machine/Swap.lean ====
section
/-!
DEFINITION. The life of a context (24 R439 to R447): its descriptor, swap-outs and swap-ins, resets, and the registers
that the supervisor sets.
-/

namespace Sys2Proof.Machine

/-! ### The descriptor (R439 to R441) -/

/-- An area word or field with a nonzero reserved bit: bits outside the ones a word may set. -/
def outside (w mask : Nat) : Bool := w &&& (2 ^ 64 - 1 - mask) != 0

/-- Whether a reserved field of a descriptor is nonzero. -/
def cdReserved (w : Nat → Nat) : Bool :=
  let area := 2 ^ 56 - 1
  outside (w 0x08) (2 ^ 56 - 64)
    || [0x10, 0x18, 0x20, 0x28, 0x30, 0x38, 0x40, 0x48].any (fun o => outside (w o) area)
    || [0x50, 0x58, 0x60, 0x68].any (fun o => outside (w o) (2 ^ 52 - 65536))
    || outside (w 0x70) (2 ^ 52 - 128) || outside (w 0x78) (2 ^ 40 - 1) || outside (w 0x80) (2 ^ 41 - 1)
    || outside (w 0x88) (2 ^ 20 - 1) || bit (w 0x90) 62 || outside (w 0x98) (0x1FFFF + 0xF00000)
    || outside (w 0xA0) 0x3F3F || w 0xA8 % 16 != 0 || w 0xF8 != 0
    || (List.range 4).any (fun k => outside (w (0xB0 + 16 * k)) (2 ^ 52 - 65536))

/-- The run words of a descriptor. -/
def cdRun (w : Nat → Nat) (d : Nat) : Nat := bits (if d < 2 then w 0 else w 0xF0) (32 * (d % 2)) 32

/-- Whether a run word breaks R440. -/
def runBad (r : Nat) : Bool :=
  let f := r % 1024
  let n := bits r 16 10
  bits r 10 6 != 0 || bits r 26 6 != 0 || decide (528 < f + n) || (n == 0 && f != 0)

/-- Whether two runs of ids meet. -/
def runsMeet (f n g m : Nat) : Bool := decide (0 < n ∧ 0 < m) && overlaps f n g m

/-- Whether the named barriers or die SRAM of two descriptors overlap. -/
def allotMeet (w v : Nat → Nat) : Bool :=
  let b := w 0x80
  let c := v 0x80
  runsMeet (b % 64) (bits b 6 7) (c % 64) (bits c 6 7)
    || runsMeet (bits b 13 7) (bits b 20 8) (bits c 13 7) (bits c 20 8)
    || runsMeet (bits b 28 6) (bits b 34 7) (bits c 28 6) (bits c 34 7)
    || (List.range 4).any fun d =>
        let x := bits (w 0x78) (10 * d) 10
        let y := bits (v 0x78) (10 * d) 10
        runsMeet (x % 32) (x / 32) (y % 32) (y / 32)

/-- Whether a FRAME extent leaves the HBM or far tier, or meets the heat arrays (23 R425). -/
def frameBad (w : Nat → Nat) (k : Nat) : Bool :=
  let b := bits (w (0xB0 + 16 * k)) 16 36 * 65536
  let n := w (0xB8 + 16 * k) * 65536
  n != 0 && (overlaps b n heatF 0x12000000
    || !((inHbm b && inHbm (b + n - 1) && b / 2 ^ 42 == (b + n - 1) / 2 ^ 42) || (inFar b && inFar (b + n - 1))))

/-- R441: whether `cswap.create` refuses a descriptor for a context. -/
def State.cdBad (s : State) (desc : List Nat) : Bool :=
  let x : Ctx := { desc := desc }
  let others := s.ctxs.filter fun e => e.2.st != 0
  let named := fun (k : Nat × Nat) => (others.filter fun e => e.2.hasCluster k.1 k.2).length
  cdReserved x.word || x.clusterList.isEmpty || (List.range 4).any (fun d => runBad (cdRun x.word d))
    || x.clusterList.any (fun k => decide (2 ≤ named k))
    || decide ((x.area 0x18).2 < 0x8200 * x.nCores) || decide ((x.area 0x10).2 < 73728 * x.nCores)
    || decide ((x.area 0x20).2 < 129 * 65536)
    || (List.range 4).any (frameBad x.word) || others.any fun e => allotMeet x.word e.2.word

/-! ### Parts of a swap (R443, R444) -/

/-- The state that a step leaves, when it goes on. -/
def outState (o : Out) (s : State) : State :=
  match o with
  | .next t => t
  | _ => s

/-- Whether an activation belongs to a context's partition. -/
def ofCtx (c : Nat) (a : Act) : Bool := a.ctx == c && !a.onControl

/-- Whether a core of a key lies in a context's partition. -/
def Ctx.hasCore (x : Ctx) (ck : Nat) : Bool := x.hasCluster (ck / 8192) (ck / 8 % 1024)

/-- A command that will be issued again from its start. -/
def Cmd.restart (c : Cmd) : Cmd := { c with prog := 0, flags := 0, stuck := [], lost := none }

/-- R443: the halt.  Requests of the polynomial unit and a granted tile complete, windows close, reservations go, and
commands will start again; accepted index operations stand.  What the context has written is visible everywhere, so that it
happens before what the context does after the swap-in. -/
def State.haltPart (s : State) (c : Nat) : State :=
  let cls := (s.ctx c).clusterList.map fun k => clusterKey k.1 k.2
  let s := cls.foldl (fun s k =>
    (List.range ((s.cluster k).polyQ.length)).foldl (fun s _ => outState (execVpolyRequestTake k s) s) s) s
  let s := cls.foldl (fun s k => (List.range 8).foldl (fun s i =>
    match (s.core (k * 8 + i)).mq with
    | x :: _ => if x.op = 2 ∧ x.prog = 1 then outState (execMatrixCommandComplete (k * 8 + i) s) s else s
    | [] => s) s) s
  let s := s.killShadows (fun q => q.ctx == c) 9
  let s := s.mapActs fun a => if ofCtx c a then { a with wins := [], resv := none } else a
  let x := s.ctx c
  let now := s.sched.clock
  let ids := (s.allActs.filter (ofCtx c)).map (·.id)
  let s := (s.mapRace fun p => if x.hasCore p.ck then p.show 6 p.ck now else p).modCoh fun h =>
    h.takeUpd (fun _ => true) fun w => ids.contains w.act || w.cmd.any fun k => x.hasCore k.1
  s.setCores (s.cores.mapV fun ck k =>
    if x.hasCore ck then { k with copies := k.copies.map Cmd.restart, mq := k.mq.map Cmd.restart } else k)

/-- The TCM bytes of a cluster, and its scratchpad, as ranges of memory keys. -/
def tcmRange (k : Nat × Nat) : Nat × Nat := (tcmKey k.1 k.2 0 0, tcmKey k.1 k.2 0 (2 ^ 36))
def spadRange (k : Nat × Nat) : Nat × Nat := (spadKey k.1 k.2 0, spadKey k.1 k.2 (2 ^ 36))

/-- Whether a memory key belongs to what a swap saves of a cluster: the workspaces, or all TCM and the scratchpad. -/
def swapped (full : Bool) (k : Nat × Nat) (key : Nat) : Bool :=
  decide ((tcmRange k).1 ≤ key ∧ key < (tcmRange k).2) && (full || decide (key % 2 ^ 33 < 0xF00))
    || full && decide ((spadRange k).1 ≤ key ∧ key < (spadRange k).2)

/-- Whether a barrier lives in a cluster of the partition: a quad's, a cluster's or a group's. -/
def Ctx.ownsBar (x : Ctx) (key : Nat) : Bool :=
  let kind := key / 2 ^ 35
  let scope := key / 2 ^ 32 % 8
  let inst := key / 256 % 2 ^ 24
  let ck := if kind = 0 ∧ scope = 1 then inst / 2 else inst
  (kind == 1 || (kind == 0 && decide (scope ≤ 2))) && x.hasCluster (ck / 1024) (ck % 1024)

/-- Whether a physical extent has memory. -/
def physOk (pa n : Nat) : Bool := (inHbm pa && inHbm (pa + n - 1)) || (inFar pa && inFar (pa + n - 1))

/-- R444: a full swap-out writes each die's SWIMG extent.  The manual gives neither the form nor the size of an image: the
bytes are free, and as many as the die's clusters hold of TCM, scratchpad and shadow storage.
[DESIGN CHOICE, notes/assumptions/34.md] -/
def State.writeImages (s : State) (x : Ctx) : State :=
  (List.range 4).foldl (fun s d =>
    let n := (x.clusterList.filter (·.1 == d)).length * 0xE4000
    let base := bits (x.word (0x50 + 8 * d)) 16 36 * 65536
    if n = 0 || !physOk base n then s
    else
      let f := s.draw
      f.2.hwWrite base n f.1) s

/-- R444: the architectural state moves out of the partition.  A freeze that arrives meanwhile takes effect on the state this
leaves (R447). [DEDUCED, notes/assumptions/34.md] -/
def State.swapOut (s : State) (c : Nat) (full : Bool) : State :=
  let s := s.haltPart c
  let x := s.ctx c
  let frozen := x.st == 5
  let cls := x.clusterList
  let acts := s.allActs.filter (ofCtx c)
  let bytes := s.mem.filter fun p => cls.any fun k => swapped full k p.1
  let s := s.modCtx c fun x =>
    { x with st := if frozen then 5 else 4, before := if frozen then 4 else x.before, fast := !full, savedActs := acts, savedCores := s.cores.filter fun k => x.hasCore k.1
             savedBytes := bytes.map fun p => (p.1, p.2.toNat), savedGroups := s.work.groups.filter (·.ctx == c)
             savedBars := s.work.barriers.filter fun b => x.ownsBar b.1 }
  let s := (s.removeActs (acts.map (·.id))).setCores (s.cores.filter fun k => !x.hasCore k.1)
  let s := s.modWork fun w => { w with groups := w.groups.filter (·.ctx != c), barriers := w.barriers.filter fun b => !x.ownsBar b.1 }
  if full then
    (s.writeImages x).setClusters (s.clusters.mapV fun k v => if x.hasCluster (k / 1024) (k % 1024) then { v with owner := none } else v)
  else s

/-- Write entry 24 of every core's dispatch table from TRAPH (R438, R442). -/
def State.writeTraph (s : State) (c : Nat) : State :=
  let x := s.ctx c
  x.clusterList.foldl (fun s k => (List.range 8).foldl (fun s i => s.wrN (tcmKey k.1 k.2 i 0xFC0) 8 (x.word 0x90)) s) s

/-- Zero the TCM and scratchpad of clusters. -/
def State.zeroClusters (s : State) (cls : List (Nat × Nat)) : State :=
  cls.foldl (fun s k =>
    s.setMem (Memory.zero (Memory.zero s.mem (tcmRange k).1 (tcmRange k).2) (spadRange k).1 (spadRange k).2)) s

/-- A view that holds whatever has become visible up to a clock. -/
def seenAll (now : Nat) (v : List Nat) : List Nat := v.set 6 (max (v.getD 6 0) now)

/-- A core as it comes back: each loaded plane must be refetched (09 R248), commands parked for a replay are issued again, and
nothing that was read before the halt stays behind what the context had written by then (R443). -/
def Core.back (now : Nat) (k : Core) : Core :=
  let p := fun (p : Plane) => if p.state = 0 then p else { p with refetch := true }
  let c := fun (x : Cmd) => { x with grp := none, view := seenAll now x.view }
  { k with l1 := [], active := p k.active, shadowP := p k.shadowP, copies := k.copies.map c, mq := k.mq.map c, index := k.index.map c }

/-- An activation as it comes back: its view of memory has moved on (R443), and the cycles it was away do not count for its
watchdog (10 R269). -/
def Act.backAt (a : Act) (s : State) (now : Nat) : Act := { a with view := seenAll now a.view, wd := s.cycle a.die }

/-- Bring back what a swap-out saved. -/
def State.restore (s : State) (c : Nat) : State :=
  let x := s.ctx c
  let full := !x.fast
  let m := s.mem.filter fun p => !(x.clusterList.any fun k => swapped full k p.1)
  let s := s.setMem (x.savedBytes.foldl (fun m p => Memory.write m p.1 (BitVec.ofNat 8 p.2)) m)
  let now := s.sched.clock
  let s := s.setActs (x.savedActs.foldl (fun m a => FMap.put m a.id (a.backAt s now)) s.acts)
  let s := s.setCores (x.savedCores.foldl (fun m k => FMap.put m k.1 (k.2.back now)) (s.cores.filter fun k => !x.hasCore k.1))
  let s := s.modWork fun w =>
    { w with groups := w.groups ++ x.savedGroups, barriers := x.savedBars.foldl (fun m b => FMap.put m b.1 b.2) w.barriers }
  s.modCtx c fun y => { y with savedActs := [], savedCores := [], savedBytes := [], savedGroups := [], savedBars := [] }

/-- The partition's clusters are held by a context. -/
def State.holdClusters (s : State) (c : Nat) : State :=
  (s.ctx c).clusterList.foldl (fun s k => s.modCluster (clusterKey k.1 k.2) fun v => { v with owner := some c }) s

/-- R442: the first swap-in zeroes the partition. -/
def State.firstIn (s : State) (c : Nat) : State :=
  let x := s.ctx c
  let s := (s.zeroClusters x.clusterList).setCores (s.cores.filter fun k => !x.hasCore k.1)
  x.clusterList.foldl (fun s k => s.modCluster (clusterKey k.1 k.2) fun v => { awake := v.awake, wake293 := v.wake293 }) s

/-- R444: the swap-in itself. [DEDUCED, notes/assumptions/34.md] -/
def State.swapIn (s : State) (c : Nat) : State :=
  let x := s.ctx c
  let s := if x.swapped then s.restore c else s.firstIn c
  let s := (s.holdClusters c).writeTraph c
  let s := s.modCtx c fun y => { y with st := 3, fast := false, swapped := true, dropped := [], trets := [] }
  let s := x.dropped.foldl (fun s g => s.applyReplay c g.1 (g.2 == 1)) s
  x.trets.foldl (fun s t => s.tretOp t.1 t.2) s

/-- Whether a swap-in is refused with BUSY: another context holds a cluster, or a checkpoint names the context. -/
def State.inBusy (s : State) (c : Nat) : Bool :=
  ((s.ctx c).clusterList.any fun k => match (s.cluster (clusterKey k.1 k.2)).owner with | some o => o != c | none => false)
    || (match s.dev.ckpt with | some w => bit (w.headD 0) c | none => false)

/-! ### Reset (R446) -/

/-- The clusters that a context holds. -/
def State.heldClusters (s : State) (c : Nat) : List (Nat × Nat) :=
  (s.ctx c).clusterList.filter fun k => (s.cluster (clusterKey k.1 k.2)).owner == some c

/-- Close a context's queues: what they had launched is gone without a signal. -/
def State.dropQueues (s : State) (c : Nat) : State :=
  let qs := (s.work.queues.filter fun e => e.2.ctx == c).map (·.1)
  let s := qs.foldl (fun s q => if (s.queue q).st = 0 then s else s.putQueueSt q 0 (s.queue q).err) s
  s.modWork fun w =>
    { w with queues := w.queues.filter fun e => !qs.contains e.1
             launches := w.launches.filter (·.ctx != c)
             groups := w.groups.filter (·.ctx != c)
             pipes := w.pipes.filter fun p => !qs.contains (p.1 / 2 ^ 112) }

/-- The state that a program of the index engine leaves; none is changed by one that fails. -/
def outVal (r : Except IErr (Unit × State)) (s : State) : State := match r with | .ok r => r.2 | .error _ => s

/-- R446: a context is reset, up to the moment it becomes empty. -/
def State.resetCtx (s : State) (c : Nat) : State :=
  let s := s.killShadows (fun q => q.ctx == c) 9
  let x := s.ctx c
  let s := x.indexes.foldl (fun s e => if e.2.ops.isEmpty then s else s.breakIndex c e.1) s
  let s := x.indexes.foldl (fun s e => outVal ((dropHolds c e.1).run s) s) s
  let ids := ((s.allActs ++ x.savedActs).filter (ofCtx c)).map (·.id)
  let bars := (s.work.launches.filter (·.ctx == c)).filterMap fun l => l.lbar.map launchBarKey
  let held := s.heldClusters c
  let mine := fun (d k : Nat) => held.contains (d, k)
  let s := (s.removeActs ids).dropQueues c
  let s := s.modWork fun w =>
    { w with msgs := w.msgs.filter fun m => !(m.ctx == c && decide (m.cluster < ctlCluster))
             gangs := w.gangs.filter fun g => !ids.contains g.1
             barriers := w.barriers.filter fun b =>
               !(bars.contains b.1 || (x.ownsBar b.1 && mine (b.1 / 256 % 2 ^ 24 / 1024) (b.1 / 256 % 1024))
                 || (b.1 / 2 ^ 35 == 0 && decide (3 ≤ barScope b.1) && x.hasBarrier (barScope b.1) (b.1 % 256))) }
  let s := (s.recallOwner c 6).recallOwner c 7
  let s := s.dropXlat c 0 (2 ^ 56)
  let s := s.modCoh fun h => { h with ats := h.ats.filter fun p => p.1 / 2 ^ 64 != c }
  let s := (s.zeroClusters held).setCores (s.cores.filter fun k => !mine (k.1 / 8192) (k.1 / 8 % 1024))
  let s := held.foldl (fun s k => s.modCluster (clusterKey k.1 k.2) fun v => { awake := v.awake, wake293 := v.wake293 }) s
  s.setCtxs (s.ctxs.put c { st := 6, desc := x.desc, reason := x.reason, frzval := x.frzval, everFrozen := x.everFrozen })

/-- R446: the reset of a context has finished. -/
def execContextResetDone (ctx : Nat) (s : State) : Out :=
  .next (if (s.ctx ctx).st = 6 then s.setCtxs (s.ctxs.del ctx) else s)

/-! ### Measurement (R451) -/

/-- The bytes of a number, least significant first. -/
def bytesOf (n v : Nat) : List Nat := (List.range n).map fun i => v / 256 ^ i % 256
def ofBytesN (bs : List Nat) : Nat := bs.foldr (fun b v => b + 256 * v) 0

/-- Whether a line of a physical extent is poisoned. -/
def State.poisoned (s : State) (pa n : Nat) : Bool := s.coh.poison.any fun l => overlaps (l * 128) 128 pa n

/-- The measurement over the list entries from `pa`; the status of a refusal otherwise. -/
def State.measure (s : State) (x : Ctx) (pa : Nat) : Nat → List Nat → Except Nat (List Nat)
  | 0, m => .ok m
  | n + 1, m =>
    let b := s.rdN pa 8
    let k := s.rdN (pa + 8) 8 * 4096
    if !physOk pa 16 || s.poisoned pa 16 then .error 5
    else if b % 4096 ≠ 0 ∨ !x.inFrames b k then .error 3
    else if s.poisoned b k then .error 5
    else State.measure s x (pa + 16) n (sha3 (m ++ sha3 ((s.rdBytes b k).map (·.toNat))))

/-- `cswap.seal`: the status, and M. -/
def State.seal (s : State) (c : Nat) : Except Nat Nat :=
  let x := s.ctx c
  let ml := x.word 0xA8
  let desc := (x.desc.set 0x15 (ml % 2 ^ 52)).flatMap (bytesOf 8)
  match s.measure x (bits ml 4 48 * 16) (ml / 2 ^ 52) (sha3 desc) with
  | .error e => .error e
  | .ok m => .ok (ofBytesN m)

/-! ### Registers that the supervisor sets (R452, 06 R139) -/

/-- Whether an activation runs on a die. -/
def State.dieRuns (s : State) (die : Nat) : Bool :=
  s.allActs.any fun a => a.die == die && !a.onControl && a.parked.isNone && s.running a.ctx

/-- A die writes back and drops every line, and every replica, that it holds in its L2 slices from `lo` to `hi` - 1. -/
def State.dropSlices (s : State) (die lo hi : Nat) : State :=
  let out := fun (i : Nat) => decide (lo ≤ i ∧ i < hi)
  let lines := (s.coh.copies.filter fun p => p.1 % 8 == die && p.2.st != 0 && out (Config.lineSlice (p.1 / 8) % 48)).map (·.1 / 8)
  let one := fun (s : State) (l : Nat) =>
    match s.coh.copies.get? (l * 8 + die) with
    | some c => (if s.dirtyCopy c then s.wroteBack l else s).setCopy die l { c with st := 0 }
    | none => s
  (lines.foldl one s).modCoh fun h => { h with repl := h.repl.filter fun p => !(p.1 / 64 % 4 == die && out (p.1 % 64)) }

/-- R139: the carve-out of a die changes; the lines in slices that change role go first, and its die SRAM then reads as
zero.  Slice i of the carve-out is slice i of the L2. [DESIGN CHOICE, notes/assumptions/34.md] -/
def State.setCarve (s : State) (die v : Nat) : State :=
  let old := (s.die die).carve
  if 24 < v % 32 ∨ v % 32 = old ∨ s.dieRuns die then s
  else
    let s := s.dropSlices die (min old (v % 32)) (max old (v % 32))
    (s.setMem (Memory.zero s.mem (sramKey die 0) (sramKey die (2 ^ 26)))).modDie die fun d => { d with carve := v % 32 }

/-- R139: a write of CARVE of a die. -/
def execCarveWrite (die v : Nat) (s : State) : Out := .next (if die < 4 then s.setCarve die v else s)

/-- SHALLOT: a field above 32, or a die's sum above 48, is ignored; an allotment below what shadows hold discards them (17
R350). -/
def State.setShallot (s : State) (c v : Nat) : State :=
  let f := fun (v d : Nat) => bits v (6 * d) 6
  let sum := fun (d : Nat) => s.ctxs.foldl (fun n e => if e.1 = c then n else n + f e.2.shallot d) 0
  if (List.range 4).any (fun d => decide (32 < f v d ∨ 48 < sum d + f v d)) then s
  else
    let s := s.modCtx c fun x => { x with shallot := v % 2 ^ 24 }
    let share := fun (e : Nat × Queue) (d : Nat) => if e.2.ctx = c then (e.2.shadow.lines.filter (·.2.1 == d)).length else 0
    let held := fun (d : Nat) => s.work.queues.foldl (fun k e => k + share e d) 0
    let ovf := (List.range 4).filter fun d => decide (f v d * 8192 < held d)
    s.killShadows (fun q => q.ctx == c && q.shadow.lines.any fun l => ovf.contains l.2.1) 6

/-- R452: a write of SHALLOT. -/
def execShallotWrite (ctx v : Nat) (s : State) : Out := .next (s.setShallot ctx v)

end Sys2Proof.Machine
end

