-- ==== Sys2Proof/Machine/Context.lean ====
section
/-!
DEFINITION. Traps, status registers and the supervisor's instructions, majors 0x3C and 0x3D (24 R451, R452), and the
states of queues (16 R330).
-/

namespace Sys2Proof.Machine

/-- The instruction words of majors 0x3C and 0x3D in the I format. -/
def wordTret (d a imm : Nat) : Nat := 0x79 + 128 * d + 4096 * a + 2 ^ 17 + 2 ^ 20 * imm
def wordSup (fn d a imm : Nat) : Nat := 0x7B + 128 * d + 4096 * a + 2 ^ 17 * fn + 2 ^ 20 * imm

/-- R451: a system call, at any level. -/
def execTrap (imm : Nat) (s : State) : Out := .next (s.trap cSYSC 0 imm (s.pc + 4))

/-! ### `tret` and `wpset` -/

/-- Whether a handle sets a bit that R450 leaves 0. -/
def handleBad (h : Nat) : Bool := bits h 18 8 != 0 || h / 2 ^ 47 != 0

/-- The activation in trap-wait that a handle names; the second part says that it is switched out, with its context (24
R443) or with its group (12 R297). -/
def State.trapped (s : State) (h : Nat) : Option (Act × Bool) :=
  let p := fun (a : Act) => a.run == .trapWait && a.handle == h
  match s.allActs.find? p with
  | some a => some (a, false)
  | none =>
    let x := s.ctx (bits h 41 6)
    ((x.savedActs ++ (s.work.groups ++ x.savedGroups).flatMap (·.savedActs)).find? p).map fun a => (a, true)

/-- The checks of the forms that take a handle. -/
def State.withHandle (s : State) (word a : Nat) (k : Nat → Out) : Out :=
  s.privForm word
    (let h := s.reg a
     if handleBad h then .next (s.trapHere cRANGE 0 h)
     else if !s.authority (bits h 41 6) then .next (s.trapHere cPDENY 0 h)
     else k h)

/-- `tret` with an operation (0 resume, 1 kill, 2 freeze report); for an activation that is switched out it takes effect at
the swap-in. -/
def State.tret (s : State) (d a op : Nat) : Out :=
  s.withHandle (wordTret d a op) a fun h =>
    match s.trapped h with
    | none => s.put 4 d 0 0
    | some (t, out) =>
      let x := s.ctx t.ctx
      if op = 2 ∧ !x.everFrozen then s.put 4 d 0 0
      else if out then
        if (x.trets ++ s.work.groups.flatMap (·.trets)).any fun r => r.1 == t.id && r.2 != 2 then s.put 4 d 0 0
        else if x.isOut then (s.modCtx t.ctx fun y => { y with trets := y.trets ++ [(t.id, op)] }).put 4 d 1 0
        else (s.tretOp t.id op).put 4 d 1 0
      else ((s.retire 4).setReg d 1 0 |>.tretOp t.id op |> Host.Outcome.next)

/-- R451. -/
def execTret (d a : Nat) (s : State) : Out := s.tret d a 0

/-- R451. -/
def execTretKill (d a : Nat) (s : State) : Out := s.tret d a 1

/-- R451. -/
def execTretFrz (d a : Nat) (s : State) : Out := s.tret d a 2

/-- R451: an activation that holds a slot entry is pointed elsewhere, one that is switched out too. -/
def execWpset (d a imm : Nat) (s : State) : Out :=
  s.withHandle (wordSup 5 d a imm) a fun h =>
    match s.trapped h with
    | none => s.put 4 d 0 0
    | some (t, out) =>
      let f := fun (x : Act) => if x.id = t.id then { x with wp := imm * 8 } else x
      if t.parked.isSome then s.put 4 d 0 0
      else if out then (s.mapAway f).put 4 d 1 0
      else ((s.retire 4).setReg d 1 0).mapActs f |> Host.Outcome.next

/-! ### Freezing and swapping -/

/-- A form that only control cores may run. [DEDUCED, notes/assumptions/35.md] -/
def State.controlForm (s : State) (word : Nat) (k : Out) : Out :=
  s.privForm word (if s.cur.onControl then k else .next (s.trapPriv word))

/-- R447, R451: it completes when issue has stopped, so it is a yield point. -/
def execCfreeze (d a : Nat) (s : State) : Out :=
  s.privForm (wordSup 2 d a 0)
    (let c := s.reg a
     if c / 64 ≠ 0 then .next (s.trapHere cRANGE 0 c)
     else if !s.authority c then .next (s.trapHere cPDENY 0 c)
     else
       let st := (s.ctx c).st
       let ok := st != 0 && st != 6
       let s := (s.yieldPoint.retire 4).setReg d (b2n ok) 0
       .next (s.freeze c 1 0))

/-- R447, R451: everything resumes where it stopped; halted queues stay halted until they are resumed (16 R330).
[DEDUCED, notes/assumptions/35.md] -/
def execCthaw (d a : Nat) (s : State) : Out :=
  s.controlForm (wordSup 3 d a 0)
    (let c := s.reg a
     if c / 64 ≠ 0 then .next (s.trapHere cRANGE 0 c)
     else if (s.ctx c).st ≠ 5 then s.put 4 d 0 0
     else (s.modCtx c fun x => { x with st := x.before }).put 4 d 1 0)

/-- `cswap`: the stray bits and the limit, then an operation that gives a status. [DEDUCED, notes/assumptions/35.md] -/
def State.cswap (s : State) (op d a : Nat) (k : Nat → Nat → Nat × State) : Out :=
  s.controlForm (wordSup 4 d a op)
    (let v := s.reg a
     let c := v % 256
     if v / 2 ^ 52 ≠ 0 ∨ (op ≠ 3 ∧ v / 256 ≠ 0) then .next (s.trapHere cRANGE 0 v)
     else if 64 ≤ c then s.yieldPoint.put 4 d 4 0
     else
       let r := k c (bits v 8 44 * 256)
       r.2.yieldPoint.put 4 d r.1 0)

/-- R442, R444. -/
def execCswapIn (d a : Nat) (s : State) : Out :=
  s.cswap 0 d a fun c _ =>
    let st := (s.ctx c).st
    if st ≠ 2 ∧ st ≠ 4 then (1, s) else if s.inBusy c then (2, s) else (0, s.swapIn c)

/-- R443, R444. -/
def execCswapFast (d a : Nat) (s : State) : Out :=
  s.cswap 1 d a fun c _ => if (s.ctx c).st ≠ 3 then (1, s) else (0, s.swapOut c false)

/-- R443, R444. -/
def execCswapOut (d a : Nat) (s : State) : Out :=
  s.cswap 2 d a fun c _ => if (s.ctx c).st ≠ 3 then (1, s) else (0, s.swapOut c true)

/-- R439, R441: the root of the context's tables is a free value (DESIGN CHOICE, notes/assumptions/7.md). -/
def execCswapCreate (d a : Nat) (s : State) : Out :=
  s.cswap 3 d a fun c pa =>
    if (s.ctx c).st ≠ 0 then (1, s)
    else if !physOk pa 256 || s.poisoned pa 256 then (5, s)
    else
      let desc := (List.range 32).map fun i => s.rdN (pa + 8 * i) 8
      if s.cdBad desc then (3, s)
      else
        let f := s.draw
        (0, f.2.setCtxs (f.2.ctxs.put c { s.ctx c with st := 1, desc := desc, root := f.1 }))

/-- R442, R451. -/
def execCswapSeal (d a : Nat) (s : State) : Out :=
  s.cswap 4 d a fun c _ =>
    if (s.ctx c).st ≠ 1 then (1, s)
    else
      match s.seal c with
      | .error e => (e, s)
      | .ok m => (0, s.modCtx c fun x => { x with st := 2, meas := m })

/-- R442, R446. -/
def execCswapReset (d a : Nat) (s : State) : Out :=
  s.cswap 5 d a fun c _ =>
    let st := (s.ctx c).st
    if st = 0 ∨ st = 6 then (1, s) else (0, s.resetCtx c)

/-! ### Queues (16 R329, R330; R452) -/

/-- Open queues of a context. -/
def State.openOf (s : State) (c : Nat) : List Queue := (s.work.queues.vals).filter fun x => x.ctx == c && x.st != 0

/-- The result of an operation on a queue: QRES, or a failed read of the descriptor.
[DEDUCED, notes/assumptions/26.md] -/
def State.qOpen (s : State) (c q die : Nat) : Except AErr (Nat × State) :=
  let x := s.ctx c
  let mine := s.openOf c
  let va := x.qdesc % 2 ^ 56
  if x.st = 0 then .ok (4, s)
  else if (s.queue q).st ≠ 0 then .ok (3, s)
  else if 16 ≤ mine.length then .ok (1, s)
  else if va % 64 ≠ 0 ∨ x.qdesc / 2 ^ 56 ≠ 0 ∨ bits va 52 4 = 15 then .ok (2, s)
  else
    match s.engAt (devWho c die) va 64 aRead with
    | .error e => .error e
    | .ok (loc, s) =>
      let v := s.rdN loc.key 64
      let f := fun (o n : Nat) => bits v (8 * o) (8 * n)
      let ctl := f 0 4
      let ring := f 8 8
      let cs := f 0x28 8
      let nrec := ring / 2 ^ 56
      if ctl / 128 ≠ 0 ∨ nrec < 2 ∨ 12 < nrec ∨ ring % 128 ≠ 0 ∨ cs / 2 ^ 56 ≠ 0 ∨ cs % 16 ≠ 0 ∨ f 0x30 16 ≠ 0 then .ok (2, s)
      else
        let idx := ((List.range 16).find? fun i => !(mine.any (·.idx == i))).getD 0
        let y : Queue :=
          { ctx := c, desc := va, pri := bits ctl 2 2, det := bit ctl 4, hn := bit ctl 5, dev := bit ctl 6,
            ring := ring % 2 ^ 56, nrec := nrec, cstat := cs, idx := idx, key := some loc.key, counters := List.replicate 13 0 }
        let s := s.hwWrite (loc.key + 0x10) 24 0
        .ok (0, (s.modQueue q fun _ => y).putQueueSt q 1 0)

/-- R330: a halt. [DEDUCED, notes/assumptions/26.md] -/
def State.qHalt (s : State) (c q : Nat) : Nat × State :=
  let x := s.queue q
  if (s.ctx c).st = 0 then (4, s) else if x.ctx ≠ c ∨ x.st ≠ 1 then (3, s) else (0, s.haltQueue q 0)

/-- R330: a resume, with ERR cleared.  A device write whose replay was cancelled is made again (R334).
[DEDUCED, notes/assumptions/26.md] -/
def State.qResume (s : State) (c q : Nat) : Nat × State :=
  let x := s.queue q
  if (s.ctx c).st = 0 then (4, s)
  else if x.ctx ≠ c ∨ x.st ≠ 2 then (3, s)
  else
    let waits := (s.ctx c).parked.any fun p => p.who == 6 && p.id == q
    (0, (s.modQueue q fun y => { y with stalled := if waits then y.stalled else none }).putQueueSt q 1 0)

/-- R330: a close, refused while launches are outstanding. -/
def State.qClose (s : State) (c q : Nat) : Nat × State :=
  let x := s.queue q
  if (s.ctx c).st = 0 then (4, s)
  else if x.ctx ≠ c ∨ x.st = 0 ∨ x.tlc ≠ x.tail then (3, s)
  else (0, (s.discardShadow q 12).putQueueSt q 0 x.err)

def State.setQres (s : State) (c v : Nat) : State := s.modCtx c fun x => { x with qres := v }

/-- Park the read of a queue's descriptor: a fault record of engine 6, and a request of activation `id`, 0 for none. -/
def State.parkQcmd (s : State) (c die id cause level addr : Nat) : Nat × State :=
  let g := s.openGroup c
  let w := devWho c die
  let s := g.2.faultRecords w (die * 65536) g.1 aRead [(cause, level, addr)] []
  (g.1, s.modCtx c fun x => { x with parked := x.parked ++ [{ grp := g.1, who := 7, id := id, cause := cause, addr := addr, eng := 6 }] })

/-- An open whose descriptor can be read at once, or parks. -/
def State.qOpenStep (s : State) (c q : Nat) : State :=
  match s.qOpen c q 0 with
  | .ok (r, s) => s.setQres c r
  | .error (.xlat cause level a) => if (s.ctx c).parked.any (fun p => p.who == 7) then s else (s.parkQcmd c 0 0 cause level a).2
  | .error (.data sub a) => (s.log 1 sub c 0 0 a).freeze c 2 a
  | .error _ => s

/-- R452: an open, halt, resume or close of a queue, as one step. -/
def execQcmdOpen (ctx q : Nat) (s : State) : Out := .next (s.qOpenStep ctx q)

/-- R330. -/
def execQcmdHalt (ctx q : Nat) (s : State) : Out := let r := s.qHalt ctx q; .next (r.2.setQres ctx r.1)

/-- R330. -/
def execQcmdResume (ctx q : Nat) (s : State) : Out := let r := s.qResume ctx q; .next (r.2.setQres ctx r.1)

/-- R330. -/
def execQcmdClose (ctx q : Nat) (s : State) : Out := let r := s.qClose ctx q; .next (r.2.setQres ctx r.1)

/-! ### Status registers (03 R66, R452) -/

/-- What a register number is: reserved, of the user's row, of the supervisor's, of the firmware's, or unassigned there. -/
inductive SReg where
  | reserved | user | sup | fw | unassigned (firmware : Bool)
deriving DecidableEq, Repr

def sregOf (n : Nat) : SReg :=
  if n ≤ 0xB then .user
  else if n < 0x100 ∨ 0x300 ≤ n then .reserved
  else if n < 0x200 then (if n ≤ 0x108 ∨ (0x110 ≤ n ∧ n ≤ 0x113) then .sup else .unassigned false)
  else if n ≤ 0x220 then .fw else .unassigned true

/-- The checks of R66 on a register number. [DEDUCED, notes/assumptions/17.md] -/
def State.withSreg (s : State) (word n : Nat) (k : Out) : Out :=
  let fw := s.cur.level == .fw
  match sregOf n with
  | .reserved => .next (if s.cur.shadow.isSome then s.impure else s.trapIop word)
  | .user => if s.cur.shadow.isSome then .next s.impure else k
  | .sup => s.privForm word k
  | .fw => s.privForm word (if fw then k else .next (s.trapPriv word))
  | .unassigned f => s.privForm word (.next (if f && !fw then s.trapPriv word else s.trapIop word))

/-- The PLACE register (R66). -/
def State.placeReg (s : State) : Nat := s.dev.devnum * 2 ^ 18 + s.cur.place

/-- The context that registers 0x101 to 0x108 act on. -/
def State.cselCtx (s : State) : Nat := if s.cur.onControl then s.myCore.csel else s.cur.ctx

/-- The CSTAT word. -/
def Ctx.cstat (x : Ctx) : Nat := x.st + 8 * b2n x.fast + 16 * x.before + 256 * x.reason

/-- The value of a status register. -/
def State.sregVal (s : State) (n : Nat) : Nat :=
  let x := s.ctx s.cselCtx
  let k := s.myCore
  if n = 0 then s.st else if n = 1 then k.seed
  else if n ≤ 4 then k.tl.getD (n - 2) 0
  else if n = 5 then s.cycle s.cur.die else if n = 6 then s.placeReg else if n = 7 then s.cur.grant
  else if n ≤ 0xB then k.sc.getD (n - 8) 0 % 2 ^ 32
  else if n = 0x100 then s.cselCtx
  else if n = 0x101 then x.cstat else if n = 0x102 then x.frzval else if n = 0x103 then x.wdog
  else if n = 0x104 then x.slice else if n = 0x105 then x.shallot else if n = 0x106 then x.qdesc
  else if n = 0x107 then 0 else if n = 0x108 then x.qres
  else if n ≤ 0x113 then (s.die (n - 0x110)).carve
  else if n = 0x220 then k.sealed
  else k.egress.getD (n - 0x200) 0

/-- R66, R452: registers 0x110 to 0x113 are not for cluster cores. -/
def execMfs (d imm : Nat) (s : State) : Out :=
  s.withSreg (wordSup 0 d 0 imm) imm
    (if 0x110 ≤ imm ∧ imm ≤ 0x113 ∧ !s.cur.onControl then .next (s.trapFree cPDENY 0) else s.put 4 d (s.sregVal imm) 0)

/-- The write of QCMD: the operation on a queue, whose result goes to QRES; a translation fault parks the read of the
descriptor, and the `mts` waits. -/
def State.writeQcmd (s : State) (v : Nat) : Out :=
  let c := s.cselCtx
  let q := v % 1024
  let op := bits v 12 3
  let fin := fun (r : Nat × State) => Host.Outcome.next ((r.2.setQres c r.1).retire 4)
  if op = 1 then
    match s.qOpen c q s.cur.die with
    | .ok r => fin r
    | .error (.xlat cause level a) =>
      let g := s.parkQcmd c s.cur.die s.cur.id cause level a
      .next (g.2.block (.qcmd q op g.1))
    | .error (.data sub a) => .next (((s.retire 4).log 1 sub c s.cur.die 0 a).freeze c 2 a)
    | .error _ => .next s
  else if op = 2 then fin (s.qHalt c q)
  else if op = 3 then fin (s.qResume c q)
  else if op = 4 then fin (s.qClose c q)
  else .next (s.retire 4)

/-- A write of a status register other than QCMD; one that is read-only, or a value outside a field's range, is
ignored. -/
def State.writeSreg (s : State) (n v : Nat) : State :=
  let c := s.cselCtx
  let f := v % 64
  let set := fun (g : Ctx → Ctx) => s.modCtx c g
  if n = 0 then s.setWs 0x120 2 (v % 65536)
  else if n = 1 then s.modMyCore fun k => { k with seed := v % 2 ^ 32 }
  else if 8 ≤ n ∧ n ≤ 0xB then s.modMyCore fun k => { k with sc := k.sc.set (n - 8) (v % 2 ^ 32) }
  else if n = 0x100 then s.modMyCore fun k => { k with csel := f }
  else if n = 0x103 then (if 16 ≤ f ∧ f ≤ 40 then set fun x => { x with wdog := f } else s)
  else if n = 0x104 then (if 12 ≤ f ∧ f ≤ 32 then set fun x => { x with slice := f } else s)
  else if n = 0x105 then s.setShallot c v
  else if n = 0x106 then set fun x => { x with qdesc := v }
  else if 0x110 ≤ n ∧ n ≤ 0x113 then s.setCarve (n - 0x110) v
  else s

/-- R66, R452: a write from a cluster core to a supervisor register traps PDENY. -/
def execMts (a imm : Nat) (s : State) : Out :=
  s.withSreg (wordSup 1 0 a imm) imm
    (let v := s.reg a
     if 0x100 ≤ imm ∧ imm < 0x200 ∧ !s.cur.onControl then .next (s.trapFree cPDENY 0)
     else if imm = 0x107 then s.writeQcmd v
     else .next ((s.retire 4).writeSreg imm v))

end Sys2Proof.Machine
end

