-- ==== Sys2Proof/Machine/Link.lean ====
section
/-!
DEFINITION. Links (26): their states and what is lost with them, pod barriers, the `lstat` forms, and the warm reset of one
die.
-/

namespace Sys2Proof.Machine

/-! ### Link words (R455) -/

/-- How many links or dies a kind has. -/
def kindCount (k : Nat) : Nat := if k = 0 then 8 else if k = 1 then 1 else if k = 2 then 20 else if k = 3 then 18 else if k = 4 then 4 else 0

/-- Whether a link word has a stray bit, an invalid kind or an index out of range. -/
def linkWordBad (v : Nat) : Bool := v / 4096 != 0 || decide (kindCount (v / 256) ≤ v % 256)

/-- The die links of a die (R470). -/
def linksOfDie (d : Nat) : List Nat := if d = 0 then [0, 3, 4] else if d = 1 then [0, 1, 5] else if d = 2 then [2, 3, 6] else [1, 2, 7]

/-! ### States (R457) -/

/-- A link leaves its state for retraining, which counts. -/
def Link.retrain (l : Link) : Link := { l with st := 3, retr := min 65535 (l.retr + 1) }

/-- A link comes up; what training settles on is a free choice within R456, and so is what capacity the devices of a far-tier
port have committed (R461). [DEDUCED, notes/assumptions/38.md] -/
def State.bringUp (s : State) (kind k : Nat) : State :=
  let f := s.draw
  let g := f.2.draw
  let h := g.2.draw
  let cxl := decide (h.1 % 2 = 1)
  let mode := if kind = 0 then 0 else if kind = 1 then (if cxl then 2 else 1) else if kind = 2 then 2 else 3
  let width := if kind = 0 then f.1 % 256 else if kind = 1 then 16 / 2 ^ (f.1 % 3) else if kind = 2 then 16 / 2 ^ (f.1 % 2) else 8
  let top := if cxl then 64 else 128
  let rate := if kind = 0 then 32 else if kind = 1 then 1 + g.1 % top else if kind = 2 then 64 else 224
  let s := h.2.modLink k fun l => { l with st := 2, fails := 0, declared := false, rate := rate, width := width, mode := mode }
  if kind = 2 then s.modDev fun d => { d with uncommitted := Config.farUncommitted h.1 } else s

/-- R457: training succeeds; flits accepted before it are resent, so nothing is lost. -/
def execLinkTrained (kind idx : Nat) (s : State) : Out :=
  let k := kind * 256 + idx
  let st := (s.link k).st
  .next (if idx < kindCount kind ∧ kind < 4 ∧ (st = 1 ∨ st = 3) then s.bringUp kind k else s)

/-- R457: 100 ms of training pass without success; the third failure in a row gives failed, which is logged. -/
def execLinkTrainingTimeout (kind idx : Nat) (s : State) : Out :=
  let k := kind * 256 + idx
  let l := s.link k
  if l.st ≠ 1 then .next s
  else if 2 ≤ l.fails then .next ((s.modLink k fun l => { l with st := 6, fails := l.fails + 1 }).log 5 kind 0 0 idx 0)
  else .next (s.modLink k fun l => { l with st := 0, fails := l.fails + 1 })

/-- R457: the retry limit of an up link is exceeded. -/
def execLinkRetryLimit (kind idx : Nat) (s : State) : Out :=
  let k := kind * 256 + idx
  .next (if (s.link k).st = 2 then s.modLink k Link.retrain else s)

/-- R457: the partner of an up link requests retraining. -/
def execRetrainRequest (kind idx : Nat) (s : State) : Out :=
  let k := kind * 256 + idx
  .next (if (s.link k).st = 2 then s.modLink k Link.retrain else s)

/-- R457: a declared-down link tries to train again. -/
def execLinkAutoRetrain (kind idx : Nat) (s : State) : Out :=
  let k := kind * 256 + idx
  .next (if (s.link k).st = 0 ∧ (s.link k).declared then s.modLink k fun l => { l with st := 1 } else s)

/-! ### What a declared-down link loses (R461, R464, R466) -/

/-- One unacknowledged posted write is lost: the target may have performed it or not.  It counts at its activation, and at the
command that made it (R465). -/
def State.loseWrite (s : State) (p : Posted) : State :=
  let c := s.flip
  let s := if c.1 ∧ c.2.rdN p.key p.n = p.new then c.2.wrN p.key p.n p.old else c.2
  let hit := fun (a : Act) => if a.id = p.act then { a with lost := a.lost + 1, posted := a.posted - 1 } else a
  let s := (s.mapActs hit).mapAway hit
  match p.cmd with
  | some c => s.modCmd c.1 c.2.1 c.2.2 fun d => { d with lost := some p.va }
  | none => s

/-- Reads of an activation in flight on a link: their windows close with the registers as they were, and an error is left
unraised: LINKLOST, or DATAERR with sub 3 from a far-tier port, which freezes the context. -/
def State.loseReads (s : State) (k : Nat) (a : Act) : State :=
  let ws := a.wins.filter fun w => (w.remote.map (·.1)) == some k && !w.landed
  ws.foldl (fun s w =>
    let addr := (w.remote.map (·.2)).getD 0
    let s := s.onAct a.id fun s => (s.restoreWin w).modCur fun x => { x with wins := x.wins.filter (·.n != w.n) }
    if k / 256 = 2 then
      let s := s.addLate a.id { code := cDATAERR, sub := 3, tval := w.pc, kind := 3, n := 0 }
      (s.log 1 3 a.ctx a.die 0 addr).freeze a.ctx 2 addr
    else s.addLate a.id { code := cLINKLOST, sub := 2, tval := addr, kind := 3, n := 0 }) s

/-- Far-tier lines that an I/O die holds dirty for a port are marked poisoned (R461). -/
def State.poisonPort (s : State) (p : Nat) : State :=
  let lines := s.coh.stale.filter fun l =>
    inFar (l * 128) && s.farPort? (l * 128) == some p && !((s.holders l).any fun h => s.dirtyCopy h.2)
  s.modCoh fun h => { h with poison := lines ++ h.poison, stale := h.stale.filter fun l => !lines.contains l }

/-- The activations that wait at a barrier, with the word they wait on. -/
def State.barWaiters (s : State) (key : Nat) : List (Nat × Nat) :=
  s.allActs.filterMap fun a =>
    match a.run with
    | .waiting (.barrier k _ _ w) => if k = key then some (a.id, w) else none
    | _ => none

/-- A pod barrier is lost to this device: its waiters trap LINKLOST, those away as soon as they are back, and it becomes idle
(13 R306, R467). -/
def State.losePod (s : State) (b sub : Nat) : State :=
  let key := barKey 0 5 0 b
  let s := (s.barWaiters key).foldl (fun s w => (s.onAct w.1 fun s => s.trapHere cLINKLOST sub w.2).flushTrapped w.1) s
  let away := fun (a : Act) =>
    match a.run with
    | .waiting (.barrier k _ _ w) =>
      if k = key then { a with run := .ready, late := a.late ++ [{ code := cLINKLOST, sub := sub, tval := w, kind := 3, n := 0 }] }
      else a
    | _ => a
  let drop := fun (a : Act) => { a with arrivals := a.arrivals.filter (·.1 != key) }
  ((s.mapActs drop).mapAway fun a => drop (away a)).setBar key {}

/-- The pod barriers whose path to their root a Frerath port is part of: this device holds arrivals in them. -/
def State.podsOver (s : State) (p : Nat) : List Nat :=
  (List.range 64).filter fun b =>
    let root := s.dev.pbroot.getD b 0
    (s.bar (barKey 0 5 0 b)).arrived != 0 && root != s.dev.devnum && bit (s.dev.route.getD root 0) p

/-- R457: 2 ms of retraining pass without success.  Unacknowledged posted writes are lost, reads in flight raise LINKLOST,
a far-tier port's dirty lines are poisoned, and pod barriers over a Frerath port are lost.  A die link loses nothing: its
flits are resent the other way (R459). -/
def execLinkDeclaredDown (kind idx : Nat) (s : State) : Out :=
  let k := kind * 256 + idx
  if (s.link k).st ≠ 3 then .next s
  else
    let ps := (s.link k).posted
    let s := s.modLink k fun l => { l with st := 0, declared := true, lost := min 65535 (l.lost + ps.length), posted := [] }
    let s := s.log 5 kind 0 0 idx 0
    let s := ps.foldl State.loseWrite s
    let s := if kind = 0 then s else s.allActs.foldl (fun s a => s.loseReads k a) s
    let s := if kind = 2 then s.poisonPort idx else s
    let f := s.draw
    .next (if kind = 3 then (f.2.podsOver idx).foldl (fun s b => s.losePod b (f.1 % 256)) f.2 else s)

/-- R467: the root's loss broadcast reaches this device. -/
def execPodBarrierLoss (b : Nat) (s : State) : Out := .next (if b < 64 then s.losePod b 3 else s)

/-! ### `lstat` (R468, R469) -/

/-- The instruction word of an `lstat` form. -/
def wordLstat (d a op : Nat) : Nat := wordSup 7 d a op

/-- The status word of a link or die. -/
def State.lstatWord (s : State) (v : Nat) : Nat :=
  let i := v % 256
  if v / 256 = 4 then
    let up := ((linksOfDie i).filter fun l => (s.link l).st == 2).length
    (s.die i).dstate + 256 * up
  else
    let l := s.link v
    let up := b2n (l.st == 2)
    l.st + 16 * l.mode + 2 ^ 8 * l.width + 2 ^ 16 * (l.rate * up) + 2 ^ 32 * l.retr + 2 ^ 48 * l.lost

/-- R469: any level. -/
def execLstat (d a : Nat) (s : State) : Out :=
  if s.cur.shadow.isSome then .next s.impure
  else
    let v := s.reg a
    if linkWordBad v then .next (s.trapHere cRANGE 1 v) else s.put 4 d (s.lstatWord v) 0

/-- The checks of an op that changes something: a control or management core, the link word, and the op's kinds. -/
def State.lstatOp (s : State) (d a op : Nat) (die : Bool) (k : Nat → Out) : Out :=
  if s.cur.shadow.isSome then .next s.impure
  else if !s.cur.onControl || !s.privileged then .next (s.trapPriv (wordLstat d a op))
  else
    let v := s.reg a
    if linkWordBad v then .next (s.trapHere cRANGE 1 v)
    else if (v / 256 == 4) != die then .next (s.trapIop (wordLstat d a op))
    else k v

/-- An op on a link that moves it from one of some states. -/
def State.lstatMove (s : State) (d a op : Nat) (from_ : List Nat) (f : Link → Link) : Out :=
  s.lstatOp d a op false fun v =>
    if from_.contains (s.link v).st then (s.modLink v f).put 4 d 0 0 else s.put 4 d 1 0

/-- R468. -/
def execLstatQuiesce (d a : Nat) (s : State) : Out := s.lstatMove d a 1 [2] fun l => { l with st := 4 }

/-- R468. -/
def execLstatResume (d a : Nat) (s : State) : Out := s.lstatMove d a 2 [4] fun l => { l with st := 2 }

/-- R468: an isolated link carries nothing until it is relinked. -/
def execLstatIsolate (d a : Nat) (s : State) : Out := s.lstatMove d a 3 [0, 1, 2, 3, 4, 5] fun l => { l with st := 5 }

/-- An op that starts training: it waits until the training has ended, and the wait is a yield point.
[DEDUCED, notes/assumptions/38.md] -/
def State.lstatTrain (s : State) (d v : Nat) (f : Link → Link) : Out :=
  .next ((s.modLink v f).block (.link d (v / 256) (v % 256)))

/-- R468. -/
def execLstatRetrain (d a : Nat) (s : State) : Out :=
  s.lstatOp d a 4 false fun v => if (s.link v).st = 2 then s.lstatTrain d v Link.retrain else s.put 4 d 1 0

/-- R468, 27 R472: a Frerath port trains only once the device has its number; a failed link's failures are counted anew.
[DESIGN CHOICE, notes/assumptions/54.md] -/
def execLstatRelink (d a : Nat) (s : State) : Out :=
  s.lstatOp d a 5 false fun v =>
    let st := (s.link v).st
    if (st = 0 ∨ st = 5 ∨ st = 6) ∧ !(v / 256 == 3 && !s.dev.devSet) then s.lstatTrain d v fun l => { l with st := 1, fails := if st = 6 then 0 else l.fails }
    else s.put 4 d 1 0

/-- R468. -/
def execLstatClr (d a : Nat) (s : State) : Out :=
  s.lstatOp d a 6 false fun v => (s.modLink v fun l => { l with retr := 0, lost := 0 }).put 4 d 0 0

/-- The end of a wait of `lstat`: training has ended, with success or without. [DEDUCED, notes/assumptions/38.md] -/
def State.endLinkWait (s : State) (d kind idx : Nat) : State :=
  let st := (s.link (kind * 256 + idx)).st
  if st = 1 ∨ st = 3 then s else ((s.retire 4).setReg d 0 0).goOn

/-! ### Warm reset of a die (R470) -/

/-- The checks of a die op: SELF on the issuer's own die, then the state it needs. -/
def State.dieOp (s : State) (d a op need : Nat) (k : Nat → Nat × State) : Out :=
  s.lstatOp d a op true fun v =>
    let i := v % 256
    if s.cur.cluster ≠ mgmtCluster ∧ s.cur.die = i then s.put 4 d 3 0
    else if (s.die i).dstate ≠ need then s.put 4 d 1 0
    else
      let r := k i
      r.2.put 4 d r.1 0

/-- Whether a die cannot be quiesced: a context that is running or fast-swapped holds clusters on it, a checkpoint runs, or its index engines have work. -/
def State.dieBusy (s : State) (d : Nat) : Bool :=
  (s.ctxs.any fun e => (e.2.st == 3 || (e.2.st == 4 && e.2.fast)) && e.2.clusterList.any fun k => k.1 == d && (s.cluster (clusterKey k.1 k.2)).owner == some e.1)
    || s.dev.ckpt.isSome
    || s.cores.any (fun c => decide (c.1 / 8192 = d) && !c.2.index.isEmpty)
    || s.ctxs.any fun e => e.2.indexes.any fun x => x.2.ops.any fun o => decide (o.core / 8192 = d)

/-- R470 step 1. -/
def execLstatDquiesce (d a : Nat) (s : State) : Out :=
  s.dieOp d a 8 0 fun i =>
    if s.dieBusy i then (2, s)
    else
      let s := (linksOfDie i).foldl (fun s l => s.modLink l fun x => if x.st = 2 then { x with st := 4 } else x) s
      (0, s.modDie i fun x => { x with dstate := 1 })

/-- R470 step 2: dirty lines in the die's L2 go to their homes, and every copy of its lines is recalled; requests for those wait
at their senders again. -/
def State.flushDie (s : State) (d : Nat) : State :=
  let s := s.killShadows (fun q => q.shadow.dies.contains d || q.shadow.lines.any fun l => l.2.1 == d) 9
  let s := s.killShadows (fun q => q.shadow.regs.any fun l => homeOfLine l == d) 5
  let gone := fun (k : Nat) => k % 8 == d || homeOfLine (k / 8) == d
  let held := s.coh.copies.filter fun p => gone p.1
  let r := s.holdLines fun l => homeOfLine l == d
  let s := r.2.modCoh fun h =>
    { h with msgs := h.msgs ++ r.1.flatMap (·.2), copies := h.copies.filter fun p => !gone p.1, upd := h.upd.filter fun p => !gone p.1
             stale := h.stale.filter fun l => homeOfLine l != d }
  s.mapActs fun a =>
    match a.resv with
    | some r => if held.any (fun p => p.1 == r.line * 8 + a.die) then { a with resv := none } else a
    | none => a

/-- R470 step 2. -/
def execLstatDflush (d a : Nat) (s : State) : Out :=
  s.dieOp d a 9 1 fun i => (0, (s.flushDie i).modDie i fun x => { x with dstate := 2 })

/-- The control cores of a die restart from images verified again, with their egress filters (24 R448). -/
def State.restartControl (s : State) (die cluster : Nat) : State :=
  (List.range 4).foldl (fun s i =>
    let ck := coreKey die cluster i
    s.modCore ck fun _ => { egress := Config.egressRom ck, sealed := 1 }) s

/-- The die that holds a barrier: none for one of the package or the pod. -/
def barDie (key : Nat) : Option Nat :=
  let kind := key / 2 ^ 35
  let inst := key / 256 % 2 ^ 24
  if kind = 1 then some (inst / 1024)
  else if kind = 0 ∧ barScope key = 1 then some (inst / 2048)
  else if kind = 0 ∧ barScope key = 2 then some (inst / 1024)
  else if kind = 0 ∧ barScope key = 3 then some inst else none

/-- What a die in reset leaves to the others of the protocols' traffic: its copies, its lines' directory and the messages to and
from it are gone, its requests at other homes are over, and what those homes had asked of it counts as answered. -/
def State.dropTraffic (s : State) (d : Nat) : State :=
  let gone := fun (m : CohMsg) => m.die == d || homeOfLine m.line == d || ((m.ev == 9 || m.ev == 10) && m.src == d)
  let asked := s.coh.msgs.filter fun m => m.die == d && homeOfLine m.line != d && decide (4 ≤ m.ev ∧ m.ev ≤ 7)
  let s := s.modCoh fun h =>
    { h with copies := h.copies.filter fun p => p.1 % 8 != d && homeOfLine (p.1 / 8) != d
             msgs := h.msgs.filter fun m => !gone m
             busy := FMap.mapV (fun _ b => { b with waiting := b.waiting.filter fun m => !gone m }) (h.busy.filter fun b => homeOfLine b.1 != d) }
  let served := (s.coh.busy.filter fun b => b.2.req.die == d && decide (b.2.req.ev ≤ 3)).map (·.1)
  asked.foldl (fun s m => s.acked m.line m.ev) (served.foldl (fun s l => s.leaveLine l []) s)

/-- R470 step 3: the die's cores and clusters, L2, directory, TLB and die SRAM are empty, and its links are down; its registers,
its fill count, its barriers and its links' status words are at their reset values (00 R6). -/
def State.resetDie (s : State) (d : Nat) : State :=
  let s := s.removeActs ((s.allActs.filter fun a => a.die == d && a.cluster != mgmtCluster).map (·.id))
  let s := s.setCores (s.cores.filter fun c => c.1 / 8192 != d || c.1 / 8 % 1024 == mgmtCluster)
  let s := s.restartControl d ctlCluster
  let s := s.setMem (Memory.zero s.mem (sramKey d 0) (sramKey d (2 ^ 26)))
  let s := (s.dropTraffic d).modCoh fun h =>
    { h with upd := h.upd.filter fun p => p.1 % 8 != d
             tlb := h.tlb.filter fun p => p.1 / 2 ^ 48 != d
             fills := h.fills.set d 0
             repl := h.repl.filter fun p => p.1 / 64 / 4 % 4 != d }
  let s := (linksOfDie d).foldl (fun s l => s.modLink l fun x => { posted := x.posted }) s
  let s := s.setClusters (s.clusters.mapV fun k v => if k / 1024 = d then { owner := v.owner } else v)
  let s := s.modWork fun w => { w with barriers := w.barriers.filter fun b => barDie b.1 != some d }
  s.modDie d fun x => { x with dstate := 3, cycle := 0, carve := 0 }

/-- R470 step 3. -/
def execLstatDreset (d a : Nat) (s : State) : Out := s.dieOp d a 10 2 fun i => (0, s.resetDie i)

/-- R470 step 4: the die's reset is done. -/
def execDieResetDone (die : Nat) (s : State) : Out :=
  .next (if (s.die die).dstate = 3 then s.modDie die fun x => { x with dstate := 4 } else s)

/-- R470 step 5: each of the die's three links must be up. -/
def execLstatDadmit (d a : Nat) (s : State) : Out :=
  s.dieOp d a 11 4 fun i =>
    if (linksOfDie i).all fun l => (s.link l).st == 2 then (0, s.modDie i fun x => { x with dstate := 0 }) else (1, s)

end Sys2Proof.Machine
end

