-- ==== Sys2Proof/Machine/Device.lean ====
section
/-!
DEFINITION. The device itself (27): bring-up after a cold reset, the registers of BAR0, power and heat, and the DOE
mailbox.
-/

namespace Sys2Proof.Machine

/-! ### Bring-up (R471) -/

/-- What a cold reset keeps of memory: the far tier, the host and peers are other devices.
[DEDUCED, notes/assumptions/39.md] -/
def keepOutside (m : List Host.Cell) : List Host.Cell :=
  m.filter fun p => inFar p.1 || decide (2 ^ 60 ≤ p.1 ∧ p.1 < 2 ^ 70)

/-- Step 2: egress filters are written from boot ROM and sealed, on control and management cores. -/
def State.sealEgress (s : State) : State :=
  let s := (List.range 4).foldl (fun s d => s.restartControl d ctlCluster) s
  (List.range 2).foldl (fun s d => s.restartControl d mgmtCluster) s

/-- Train the links of a kind that come up at bring-up. -/
def State.trainAll (s : State) (kind : Nat) (ks : List Nat) : State := ks.foldl (fun s i => s.bringUp kind (kind * 256 + i)) s

/-- The far-tier ports that train; a port that fails stays down, with one failure (26 R457). -/
def State.trainFar (s : State) : State :=
  (List.range 20).foldl (fun s i => let f := s.flip; if f.1 then f.2.bringUp 2 (farLink i) else f.2.modLink (farLink i) fun l => { l with fails := 1 }) s

def State.bootFail (s : State) (step code : Nat) : State := s.modDev fun d => { d with bootStep := step, bootErr := code }

/-- The steps that can fail, with their codes. -/
def bootFails : List (Nat × Nat) := [(1, 1), (3, 2), (4, 3), (6, 4)]

/-- Whether firmware may write a decoder (26 R460): its base and limit, the limit its last byte, lie in the far tier and are aligned,
and its ports are 1, 2, 4, 5, 10 or 20 in ascending order. -/
def decoderOk (d : Nat × Nat × List Nat) : Bool :=
  let ps := d.2.2
  d.1 % 65536 == 0 && (d.2.1 + 1) % 65536 == 0 && decide (d.1 < d.2.1) && inFar d.1 && inFar d.2.1
    && [1, 2, 4, 5, 10, 20].contains ps.length && (List.range 20).filter ps.contains == ps

/-- Bring-up from a machine right after reset, up to the failing step; step 0 for none. -/
def State.bootRun (s : State) (failStep code : Nat) : State :=
  if failStep = 1 then s.bootFail 1 code
  else
    let s := s.sealEgress
    if failStep = 3 then s.bootFail 3 code
    else if failStep = 4 then s.bootFail 4 code
    else
      let s := (s.trainAll 0 (List.range 8)).modDev fun d => { d with heath := heatH, heatf := heatF }
      if failStep = 6 then s.bootFail 6 code
      else
        let s := (s.trainAll 1 [0]).trainFar
        let f := s.draw
        f.2.modDev fun d => { d with decoders := ((Config.farDecoders f.1).filter decoderOk).take 16, uncommitted := Config.farUncommitted f.1, persist := (List.range 20).filter Config.portPersistent, ready := true }

/-- R471: a cold reset of the module and its bring-up, until READY or a failing step.  Every field takes its reset value,
and HBM is zero; what lies outside the module is kept. [DEDUCED, notes/assumptions/39.md] -/
def execColdReset (failStep code : Nat) (s : State) : Out :=
  let r : State := { mem := keepOutside s.mem, sched := { s.sched with snap := [] } }
  .next (if bootFails.contains (failStep, code) then r.bootRun failStep code else r.bootRun 0 0)

/-! ### Registers (R472, R473) -/

/-- R472: the device number is set once, and the Frerath ports start to train. -/
def State.setDevnum (s : State) (v : Nat) : State :=
  if !s.dev.ready || s.dev.devSet || decide (431 < v) then s
  else
    let s := s.modDev fun d => { d with devnum := v, devSet := true }
    (List.range 18).foldl (fun s i => s.modLink (frerathLink i) fun l => if l.st = 0 then { l with st := 1 } else l) s

/-- R472. -/
def execDevnumWrite (v : Nat) (s : State) : Out := .next (s.setDevnum v)

/-- A window word of a filter keeps the bits that R472 gives it. -/
def filterWord (off v : Nat) : Nat := if off / 8 % 2 = 0 then bits v 16 36 * 65536 else bits v 16 36 * 65536 + v % 4

/-- The listed registers of BAR0 (R472) at an offset. -/
def State.bar0Word (s : State) (off : Nat) : Nat :=
  let d := s.dev
  if off = 0 then
    b2n d.ready + 16 * (d.bootStep % 16) + 256 * (d.bootErr % 256) + 2 ^ 16 * b2n d.throt + 2 ^ 17 * b2n d.capped + 2 ^ 18 * b2n d.trip
  else if off = 8 then 0x1F3D219400
  else if off = 0x10 then d.devnum + 512 * b2n d.devSet
  else if off = 0x18 then d.pcap
  else if off = 0x20 then d.power % 4096 + 2 ^ 16 * (min d.clock d.tclock % 4096)
  else if off = 0x28 then d.temp % 256 + 256 * (Config.coolantInlet s.sched.clock % 256)
  else if off = 0x30 then d.awake
  else if off = 0x40 then d.repres
  else if off = 0x48 then d.heath
  else if off = 0x50 then d.heatf
  else if off = 0x58 then d.logBase
  else if off = 0x60 then d.logHead
  else if off = 0x68 then d.logTail
  else if off = 0x70 then d.logDrop
  else if 0x20000 ≤ off ∧ off < 0x20000 + 8 * 432 then d.route.getD ((off - 0x20000) / 8) 0
  else if 0x30000 ≤ off ∧ off < 0x30000 + 64 * 432 then d.filter.getD ((off - 0x30000) / 8) 0
  else if 0x40000 ≤ off ∧ off < 0x40000 + 8 * 64 then d.pbroot.getD ((off - 0x40000) / 8) 0
  else 0

/-- R472: what a read of `n` bytes of BAR0 returns.  One that is narrow or unaligned, of a write-only register (R5), of an
unlisted offset, or of anything but DEVSTAT before READY, returns 0. -/
def State.bar0Read (s : State) (off n : Nat) : Nat :=
  if n ≠ 8 ∨ off % 8 ≠ 0 ∨ (!s.dev.ready && off != 0) then 0 else s.bar0Word off

/-- R472: an 8-byte write of BAR0.  Before READY it is ignored; so is one to an unlisted, unaligned or read-only offset.
[DEDUCED, notes/assumptions/39.md] -/
def execRegisterWrite (off v : Nat) (s : State) : Out :=
  let v := v % 2 ^ 64
  .next (
    if !s.dev.ready || off % 8 != 0 then s
    else if off = 0x10 then s.setDevnum v
    else if off = 0x18 then s.modDev fun d => { d with pcap := min 3200 (max 800 (v % 4096)) }
    else if off = 0x30 then s.modDev fun d => { d with awake := v }
    else if off = 0x38 then s.hostReplay (bits v 32 6) v (bit v 38)
    else if off = 0x58 then s.modDev fun d => { d with logBase := bits v 5 51 * 32 + v / 2 ^ 56 * 2 ^ 56 }
    else if off = 0x68 then s.modDev fun d => { d with logTail := v }
    else if off = 0x70 then s.modDev fun d => { d with logDrop := if bit v 0 then 0 else d.logDrop }
    else if 0x10000 ≤ off ∧ off < 0x12000 then s.ringDoor ((off - 0x10000) / 8) v
    else if 0x20000 ≤ off ∧ off < 0x20000 + 8 * 432 then
      s.modDev fun d => { d with route := d.route.put ((off - 0x20000) / 8) (v % 2 ^ 18) }
    else if 0x30000 ≤ off ∧ off < 0x30000 + 64 * 432 then
      s.modDev fun d => { d with filter := d.filter.put ((off - 0x30000) / 8) (filterWord (off - 0x30000) v) }
    else if 0x40000 ≤ off ∧ off < 0x40000 + 8 * 64 then
      s.modDev fun d => { d with pbroot := d.pbroot.put ((off - 0x40000) / 8) (v % 512) }
    else s)

/-! ### Power and heat (R474, R475, R478) -/

/-- MSI-X vector 1 when THROT, CAPPED or TRIP has changed. -/
def Dev.signalFrom (d old : Dev) : Dev :=
  if d.throt = old.throt ∧ d.capped = old.capped ∧ d.trip = old.trip then d else { d with msix := 1 :: d.msix }

/-- R474: a sample of the draw every 10 µs.  A millisecond is 100 samples. [DESIGN CHOICE, notes/assumptions/9.md] -/
def execPowerSample (draw : Nat) (s : State) : Out :=
  let d := s.dev
  if d.pcap < draw then
    let met := decide (825 ≤ d.clock)
    let e := { d with power := draw % 4096, below := 0, clock := max 800 (d.clock - 25), capped := d.capped || !met }
    let s := s.modDev fun _ => e.signalFrom d
    .next (if !met && !d.capped then s.log 7 0 0 0 0 0 else s)
  else
    let n := if draw + 50 ≤ d.pcap then d.below + 1 else 0
    let up := decide (100 ≤ n)
    .next (s.modDev fun d =>
      { d with power := draw % 4096, below := if up then 0 else n, clock := if up then min 1900 (d.clock + 25) else d.clock })

/-- R475: a sample of the dies' temperatures every 100 µs; at 110 °C the module trips, and only a cold reset resumes.
[DESIGN CHOICE, notes/assumptions/9.md] -/
def execThermalSample (t0 t1 t2 t3 : Nat) (s : State) : Out :=
  let d := s.dev
  let hot := max (max t0 t1) (max t2 t3)
  let throt := decide (100 ≤ hot)
  let n := if hot < 95 then d.cool + 1 else 0
  let up := decide (10 ≤ n)
  let e : Dev :=
    { d with temp := hot % 256, throt := throt, trip := d.trip || decide (110 ≤ hot), cool := if up then 0 else n
             tclock := if throt then max 800 (d.tclock - 25) else if up then min 1900 (d.tclock + 25) else d.tclock }
  let s := s.modDev fun _ => e.signalFrom d
  let s := if throt && !d.throt then s.log 6 0 0 0 0 0 else s
  .next (if e.trip && !d.trip then s.log 6 1 0 0 0 0 else s)

/-! ### The DOE mailbox (R476) -/

def byteVals (bs : List Byte) : List Nat := bs.map (·.toNat)

/-- R476. -/
def execDoeIdent (s : State) : Out :=
  .next (s.modDev fun d => { d with doe := 1 :: byteVals (Config.publicKey ++ Config.certificates) })

/-- R476: a signed report of a context; an empty context has state 0 and an M of zeros. -/
def execDoeReport (nonce ctx : Nat) (s : State) : Out :=
  let x := s.ctx ctx
  let m := if x.st = 0 then 0 else x.meas
  let msg := bytesOf 32 nonce ++ bytesOf 4 ctx ++ bytesOf 4 x.st ++ bytesOf 32 m ++ byteVals Config.firmwareHash
  let sig := Config.signature (msg.map (BitVec.ofNat 8))
  .next (s.modDev fun d => { d with doe := 2 :: (msg ++ byteVals sig) })

/-- R476: an object of another type, or of the wrong length, is answered with an empty object of type 0xFF. -/
def execDoeInvalidObject (ty len : Nat) (s : State) : Out :=
  .next (if (ty = 1 ∧ len = 0) ∨ (ty = 2 ∧ len = 36) then s else s.modDev fun d => { d with doe := [0xFF] })

end Sys2Proof.Machine
end

