-- ==== Sys2Proof/Machine/Scalar.lean ====
section
/-!
DEFINITION. The scalar integer instructions (05 R107 to R122): arithmetic, shifts and bit fields, compare and select,
multiply and divide, upper immediates, fat pointers, branches and jumps, and the 16-bit forms that touch no memory.
-/

namespace Sys2Proof.Machine

/-! ### ALU register, major 0x00 (R107) -/

/-- R107. -/
def execAdd (w : IW) (d a b : Nat) (s : State) : Out :=
  s.put 4 d (res w (s.sreg w a + s.sreg w b)) 0

/-- R107. -/
def execSub (w : IW) (d a b : Nat) (s : State) : Out :=
  s.put 4 d (res w (s.sreg w a - s.sreg w b)) 0

/-- R107. -/
def execAnd (w : IW) (d a b : Nat) (s : State) : Out :=
  s.put 4 d (res w (Nat.land (s.ureg w a) (s.ureg w b))) 0

/-- R107. -/
def execOr (w : IW) (d a b : Nat) (s : State) : Out :=
  s.put 4 d (res w (Nat.lor (s.ureg w a) (s.ureg w b))) 0

/-- R107. -/
def execXor (w : IW) (d a b : Nat) (s : State) : Out :=
  s.put 4 d (res w (Nat.xor (s.ureg w a) (s.ureg w b))) 0

/-- R107. -/
def execAndn (w : IW) (d a b : Nat) (s : State) : Out :=
  s.put 4 d (res w (Nat.land (s.ureg w a) (notN (nbits w) (s.ureg w b)))) 0

/-- R107. -/
def execOrn (w : IW) (d a b : Nat) (s : State) : Out :=
  s.put 4 d (res w (Nat.lor (s.ureg w a) (notN (nbits w) (s.ureg w b)))) 0

/-- R107. -/
def execMin (w : IW) (d a b : Nat) (s : State) : Out :=
  s.put 4 d (res w (min (s.sreg w a) (s.sreg w b))) 0

/-- R107. -/
def execMax (w : IW) (d a b : Nat) (s : State) : Out :=
  s.put 4 d (res w (max (s.sreg w a) (s.sreg w b))) 0

/-- R107. -/
def execMinn (w : IW) (d a b : Nat) (s : State) : Out :=
  s.put 4 d (res w (min (s.ureg w a) (s.ureg w b) : Nat)) 0

/-- R107. -/
def execMaxn (w : IW) (d a b : Nat) (s : State) : Out :=
  s.put 4 d (res w (max (s.ureg w a) (s.ureg w b) : Nat)) 0

/-- R107. -/
def execAdds (w : IW) (d a b : Nat) (s : State) : Out :=
  s.put 4 d (sat w (s.wreg w a + s.wreg w b)) 0

/-- R107. -/
def execSubs (w : IW) (d a b : Nat) (s : State) : Out :=
  s.put 4 d (sat w (s.wreg w a - s.wreg w b)) 0

/-- R107. -/
def execAbsd (w : IW) (d a b : Nat) (s : State) : Out :=
  s.put 4 d ((s.wreg w a - s.wreg w b).natAbs % 2 ^ nbits w) 0

/-! ### ALU immediate, major 0x01 (R108) -/

/-- R108. -/
def execAddi (d a imm : Nat) (s : State) : Out :=
  s.put 4 d (wint (s.reg a + sint imm 12)) 0

/-- R108. -/
def execAndi (d a imm : Nat) (s : State) : Out :=
  s.put 4 d (Nat.land (s.reg a) (sext imm 12)) 0

/-- R108. -/
def execOri (d a imm : Nat) (s : State) : Out :=
  s.put 4 d (Nat.lor (s.reg a) (sext imm 12)) 0

/-- R108. -/
def execXori (d a imm : Nat) (s : State) : Out :=
  s.put 4 d (Nat.xor (s.reg a) (sext imm 12)) 0

/-- R108. -/
def execMini (d a imm : Nat) (s : State) : Out :=
  s.put 4 d (wint (min (s.ireg a) (sint imm 12))) 0

/-- R108. -/
def execMaxi (d a imm : Nat) (s : State) : Out :=
  s.put 4 d (wint (max (s.ireg a) (sint imm 12))) 0

/-! ### Shifts and bit fields, major 0x02 (R109, R110) -/

/-- The amount of the register form: reg(b)[5:0] modulo n. -/
def State.amount (s : State) (w : IW) (b : Nat) : Nat := s.reg b % 64 % nbits w

/-- The amount of the immediate form: x[30] × 32 + b modulo n. -/
def amountImm (w : IW) (imm hi : Nat) : Nat := (hi * 32 + imm) % nbits w

def shSll (w : IW) (u k : Nat) : Nat := res w (u * 2 ^ k : Nat)
def shSrl (w : IW) (u k : Nat) : Nat := res w (u / 2 ^ k : Nat)
def shSra (w : IW) (v : Int) (k : Nat) : Nat := res w (shrI v k)
def shRol (w : IW) (u k : Nat) : Nat := res w ((u * 2 ^ k + u / 2 ^ (nbits w - k)) % 2 ^ nbits w : Nat)
def shRor (w : IW) (u k : Nat) : Nat := res w ((u / 2 ^ k + u * 2 ^ (nbits w - k)) % 2 ^ nbits w : Nat)

/-- R109, register amount. -/
def execSll (w : IW) (d a b : Nat) (s : State) : Out :=
  s.put 4 d (shSll w (s.ureg w a) (s.amount w b)) 0

/-- R109, immediate amount. -/
def execSllImm (w : IW) (d a imm hi : Nat) (s : State) : Out :=
  s.put 4 d (shSll w (s.ureg w a) (amountImm w imm hi)) 0

/-- R109, register amount. -/
def execSrl (w : IW) (d a b : Nat) (s : State) : Out :=
  s.put 4 d (shSrl w (s.ureg w a) (s.amount w b)) 0

/-- R109, immediate amount. -/
def execSrlImm (w : IW) (d a imm hi : Nat) (s : State) : Out :=
  s.put 4 d (shSrl w (s.ureg w a) (amountImm w imm hi)) 0

/-- R109, register amount. -/
def execSra (w : IW) (d a b : Nat) (s : State) : Out :=
  s.put 4 d (shSra w (s.sreg w a) (s.amount w b)) 0

/-- R109, immediate amount. -/
def execSraImm (w : IW) (d a imm hi : Nat) (s : State) : Out :=
  s.put 4 d (shSra w (s.sreg w a) (amountImm w imm hi)) 0

/-- R109, register amount. -/
def execRol (w : IW) (d a b : Nat) (s : State) : Out :=
  s.put 4 d (shRol w (s.ureg w a) (s.amount w b)) 0

/-- R109, immediate amount. -/
def execRolImm (w : IW) (d a imm hi : Nat) (s : State) : Out :=
  s.put 4 d (shRol w (s.ureg w a) (amountImm w imm hi)) 0

/-- R109, register amount. -/
def execRor (w : IW) (d a b : Nat) (s : State) : Out :=
  s.put 4 d (shRor w (s.ureg w a) (s.amount w b)) 0

/-- R109, immediate amount. -/
def execRorImm (w : IW) (d a imm hi : Nat) (s : State) : Out :=
  s.put 4 d (shRor w (s.ureg w a) (amountImm w imm hi)) 0

/-- The field of R110: position and length. -/
def fieldOf (b : Nat) : Nat × Nat := (b % 64, min (bits b 8 6 + 1) (64 - b % 64))

/-- R110: the field of reg(a), sign-extended. -/
def execExt (d a b : Nat) (s : State) : Out :=
  let f := fieldOf (s.reg b)
  s.put 4 d (sext (bits (s.reg a) f.1 f.2) f.2) 0

/-- R110: the field of reg(a), zero-extended. -/
def execExtn (d a b : Nat) (s : State) : Out :=
  let f := fieldOf (s.reg b)
  s.put 4 d (bits (s.reg a) f.1 f.2) 0

/-- R110: reg(d) with a field replaced by the low bits of reg(a). -/
def execIns (d a b : Nat) (s : State) : Out :=
  let f := fieldOf (s.reg b)
  s.put 4 d (setBits (s.reg d) f.1 f.2 (s.reg a)) 0

/-- R109. -/
def execClz (w : IW) (d a : Nat) (s : State) : Out :=
  s.put 4 d (clzN (nbits w) (s.ureg w a)) 0

/-- R109. -/
def execCtz (w : IW) (d a : Nat) (s : State) : Out :=
  s.put 4 d (ctzN (nbits w) (s.ureg w a)) 0

/-- R109. -/
def execPop (w : IW) (d a : Nat) (s : State) : Out :=
  s.put 4 d (popc (nbits w) (s.ureg w a)) 0

/-- R109. -/
def execBrev (w : IW) (d a : Nat) (s : State) : Out :=
  s.put 4 d (res w (brevN (nbits w) (s.ureg w a) : Nat)) 0

/-- R109. -/
def execBswap (w : IW) (d a : Nat) (s : State) : Out :=
  s.put 4 d (res w (bswapN (nbits w / 8) (s.ureg w a) : Nat)) 0

/-! ### Compare and select, major 0x03 (R111, R112) -/

/-- R111: 1 when the condition holds. -/
def execCmp (w : IW) (d a b x : Nat) (s : State) : Out :=
  s.put 4 d (b2n (cmpHolds x (s.sreg w a) (s.sreg w b) (s.ureg w a) (s.ureg w b))) 0

/-- R112: a register with its tail, chosen by the old value of d. -/
def execCsel (d a b x : Nat) (s : State) : Out :=
  if selHolds x (s.reg d) then s.put 4 d (s.reg a) (s.tb a) else s.put 4 d (s.reg b) (s.tb b)

/-! ### Multiply and divide, major 0x04 (R113, R114) -/

/-- The quotient truncated toward zero; -1 for a divisor of 0 (R114). -/
def quotI (A B : Int) : Int := if B = 0 then -1 else Int.tdiv A B

/-- The remainder; the dividend for a divisor of 0 (R114). -/
def remI (A B : Int) : Int := if B = 0 then A else A - Int.tdiv A B * B

/-- R113. -/
def execMul (w : IW) (d a b la : Nat) (s : State) : Out :=
  s.putLa la d (res w (s.sreg w a * s.sreg w b)) 0

/-- R113. -/
def execMulh (w : IW) (d a b la : Nat) (s : State) : Out :=
  s.putLa la d (res w (shrI (s.sreg w a * s.sreg w b) (nbits w))) 0

/-- R113. -/
def execMulhn (w : IW) (d a b la : Nat) (s : State) : Out :=
  s.putLa la d (res w (s.ureg w a * s.ureg w b / 2 ^ nbits w : Nat)) 0

/-- R113. -/
def execDiv (w : IW) (d a b la : Nat) (s : State) : Out :=
  s.putLa la d (res w (quotI (s.sreg w a) (s.sreg w b))) 0

/-- R113. -/
def execDivn (w : IW) (d a b la : Nat) (s : State) : Out :=
  s.putLa la d (res w (quotI (s.ureg w a : Nat) (s.ureg w b : Nat))) 0

/-- R113. -/
def execRem (w : IW) (d a b la : Nat) (s : State) : Out :=
  s.putLa la d (res w (remI (s.sreg w a) (s.sreg w b))) 0

/-- R113. -/
def execRemn (w : IW) (d a b la : Nat) (s : State) : Out :=
  s.putLa la d (res w (remI (s.ureg w a : Nat) (s.ureg w b : Nat))) 0

/-! ### Upper immediates (R115) -/

/-- R115. -/
def execLdhi (d imm : Nat) (s : State) : Out := s.put 4 d (wint (sint imm 20 * 4096)) 0

/-- R115: relative to the instruction's own address. -/
def execPcrel (d imm : Nat) (s : State) : Out := s.put 4 d (wint (s.pc + sint imm 20 * 4096)) 0

/-! ### Fat pointers, major 0x07 (R116, R117) -/

/-- R116: a tag over an address. -/
def execPtag (d a b : Nat) (s : State) : Out := s.put 4 d (s.reg b % 256 * 2 ^ 56 + s.reg a % 2 ^ 56) 0

/-- The sum of R117: written under the old tag, or TAGOV with the 64-bit sum when it leaves the 56 bits. -/
def State.padd (s : State) (d a : Nat) (y : Int) : Out :=
  let t := (s.reg a % 2 ^ 56 : Nat) + y
  if t < 0 ∨ 2 ^ 56 ≤ t then .next (s.trapHere cTAGOV 0 (wint (s.reg a + y)))
  else s.put 4 d (s.reg a / 2 ^ 56 * 2 ^ 56 + t.toNat) 0

/-- R116, R117. -/
def execPadd (d a b : Nat) (s : State) : Out := s.padd d a (s.ireg b)

/-- R116, R117. -/
def execPsub (d a b : Nat) (s : State) : Out := s.padd d a (-s.ireg b)

/-- R116: the format code of a pointer. -/
def execPfmt (d a : Nat) (s : State) : Out := s.put 4 d (s.reg a / 2 ^ 59) 0

/-- R116: the address of a pointer. -/
def execPclr (d a : Nat) (s : State) : Out := s.put 4 d (s.reg a % 2 ^ 56) 0

/-! ### Branches and jumps (R118, R119) -/

/-- A displacement of `n` bits in halfwords from an address. -/
def dispTo (pc disp n : Nat) : Nat := wint (pc + sint disp n * 2)

/-- A branch of `len` bytes: to its target when taken, else past it. -/
def State.branch (s : State) (len : Nat) (taken : Bool) (target : Nat) : Out :=
  .next (if taken then s.setPc target else s.retire len)

/-- R118. -/
def execBeq (a b imm : Nat) (s : State) : Out := s.branch 4 (s.reg a == s.reg b) (dispTo s.pc imm 12)

/-- R118. -/
def execBne (a b imm : Nat) (s : State) : Out := s.branch 4 (s.reg a != s.reg b) (dispTo s.pc imm 12)

/-- R118. -/
def execBlt (a b imm : Nat) (s : State) : Out := s.branch 4 (decide (s.ireg a < s.ireg b)) (dispTo s.pc imm 12)

/-- R118. -/
def execBge (a b imm : Nat) (s : State) : Out := s.branch 4 (decide (s.ireg b ≤ s.ireg a)) (dispTo s.pc imm 12)

/-- R118. -/
def execBltn (a b imm : Nat) (s : State) : Out := s.branch 4 (decide (s.reg a < s.reg b)) (dispTo s.pc imm 12)

/-- R118. -/
def execBgen (a b imm : Nat) (s : State) : Out := s.branch 4 (decide (s.reg b ≤ s.reg a)) (dispTo s.pc imm 12)

/-- R118. -/
def execBbs (a b imm : Nat) (s : State) : Out := s.branch 4 (bit (s.reg a) (s.reg b % 64)) (dispTo s.pc imm 12)

/-- R118. -/
def execBbc (a b imm : Nat) (s : State) : Out := s.branch 4 (!bit (s.reg a) (s.reg b % 64)) (dispTo s.pc imm 12)

/-- A jump with link: the link is written, then the PC. -/
def State.jumpLink (s : State) (len d target : Nat) : Out := .next ((s.setReg d (w64 (s.pc + len)) 0).setPc target)

/-- R119. -/
def execJl (d imm : Nat) (s : State) : Out := s.jumpLink 4 d (dispTo s.pc imm 20)

/-- R119: the target is taken before the link is written. -/
def execJlr (d a imm : Nat) (s : State) : Out := s.jumpLink 4 d (wint (s.reg a + sint imm 12))

/-! ### The 16-bit forms (R120 to R122) -/

/-- R120: the register with its tail. -/
def execCMv (d src : Nat) (s : State) : Out := s.put 2 d (s.reg src) (s.tb src)

/-- R120. -/
def execCAdd (d src : Nat) (s : State) : Out := s.put 2 d (w64 (s.reg d + s.reg src)) 0

/-- R120. -/
def execCSub (d src : Nat) (s : State) : Out := s.put 2 d (wint (s.reg d - s.reg src)) 0

/-- R120. -/
def execCXor (d src : Nat) (s : State) : Out := s.put 2 d (Nat.xor (s.reg d) (s.reg src)) 0

/-- R120. -/
def execCAddi (d imm : Nat) (s : State) : Out := s.put 2 d (wint (s.reg d + sint imm 6)) 0

/-- R120. -/
def execCLi (d imm : Nat) (s : State) : Out := s.put 2 d (sext imm 6) 0

/-- R120. -/
def execCSll (d imm : Nat) (s : State) : Out := s.put 2 d (w64 (s.reg d * 2 ^ imm)) 0

/-- R120. -/
def execCSrl (d imm : Nat) (s : State) : Out := s.put 2 d (s.reg d / 2 ^ imm) 0

/-- R120. -/
def execCSra (d imm : Nat) (s : State) : Out := s.put 2 d (wint (shrI (s.ireg d) imm)) 0

/-- R120. -/
def execCAndi (d imm : Nat) (s : State) : Out := s.put 2 d (Nat.land (s.reg d) (sext imm 5)) 0

/-- R120. -/
def execCBz (a imm : Nat) (s : State) : Out := s.branch 2 (s.reg a == 0) (dispTo s.pc imm 6)

/-- R120. -/
def execCBnz (a imm : Nat) (s : State) : Out := s.branch 2 (s.reg a != 0) (dispTo s.pc imm 6)

/-- R120. -/
def execCJ (imm : Nat) (s : State) : Out := .next (s.setPc (dispTo s.pc imm 11))

/-- R120. -/
def execCJr (src : Nat) (s : State) : Out := .next (s.setPc (s.reg src))

/-- R120. -/
def execCJlr (d src : Nat) (s : State) : Out := s.jumpLink 2 d (s.reg src)

/-- Pass over `n` instructions from an address: each is fetched for its length bit only (R121), both halfwords of a
32-bit word. [DEDUCED, notes/assumptions/13.md] [DESIGN CHOICE, notes/assumptions/54.md] -/
def State.skipFrom (s : State) : Nat → Nat → Res Nat
  | 0, pc => .ok pc s
  | n + 1, pc => (s.fetchAt pc).bind fun w s => State.skipFrom s n (pc + (if w.1 then 4 else 2))

/-- R121.  The skipped words are fetched in the same step; a fetch fault among them leaves the PC at the `c.sk`.
[DEDUCED, notes/assumptions/13.md] -/
def execCSk (a cond cnt : Nat) (s : State) : Out :=
  if skHolds cond (s.reg a) then (s.skipFrom (cnt + 1) (s.pc + 2)).done fun pc s => s.setPc pc else .next (s.retire 2)

end Sys2Proof.Machine
end

