-- ==== Sys2Proof/Machine/VecMem.lean ====
section
/-!
DEFINITION. Vector memory (08 R207 to R211): loads, stores, strided loads, final stores, gather, scatter and tile rows.
Every element is checked before a lane or a byte is written.
-/

namespace Sys2Proof.Machine

/-- One access of a vector instruction: base, offset, size and alignment. -/
abbrev Part := Nat × Int × Nat × Nat

/-- The translation faults among a list of accesses (23 R420). -/
def State.faultsOf (s : State) (w : Who) (acc : Nat) (ps : List Part) : List (Nat × Nat × Nat) :=
  ps.filterMap fun p =>
    match s.checkE w p.1 p.2.1 p.2.2.1 p.2.2.2 acc with
    | .error (.xlat c l a) => some (c, l, a)
    | _ => none

/-- Check accesses in ascending order (R211): their places, or the first failure with every translation fault. -/
def State.checkParts (s : State) (w : Who) (acc : Nat) : List Part → Except (AErr × List (Nat × Nat × Nat)) (List Loc × State)
  | [] => .ok ([], s)
  | p :: ps =>
    match s.checkE w p.1 p.2.1 p.2.2.1 p.2.2.2 acc with
    | .error e => .error (e, s.faultsOf w acc (p :: ps))
    | .ok (l, s) =>
      match State.checkParts s w acc ps with
      | .error e => .error e
      | .ok (ls, s) => .ok (l :: ls, s)

/-- The same for the issuing thread, with what it takes when a check fails. -/
def State.checkVec (s : State) (acc : Nat) (ps : List Part) : Res (List Loc) :=
  let w := s.me
  match s.checkParts w acc ps with
  | .ok (ls, s) => .ok ls s
  | .error (.xlat c l a, fs) =>
    match w.shadow with
    | some _ => s.failAcc w 4 acc (.xlat c l a)
    | none => .stop (s.faultWait w acc fs)
  | .error (e, _) => s.failAcc w 4 acc e

/-- Read the places of a list of accesses. -/
def State.readParts (s : State) (w : Who) : List (Loc × Part) → List Nat × State
  | [] => ([], s)
  | (l, p) :: ps =>
    let r := s.readAt w l p.2.2.1
    let t := State.readParts r.2 w ps
    (r.1 :: t.1, t.2)

/-- Write the places of a list of accesses in order. -/
def State.writeParts (s : State) (w : Who) : List (Loc × Nat × Nat) → Except AErr State
  | [] => .ok s
  | (l, n, v) :: ps =>
    match s.writeAt w l n v aWrite with
    | .error e => .error e
    | .ok s => State.writeParts s w ps

/-- The end of a vector store: it retires, raises its flags, and its elements are written in order. -/
def State.storeVec (s : State) (ps : List Part) (vs : List Nat) (fl : Nat) : Out :=
  (s.checkVec aWrite ps).out fun ls s =>
    match ((s.retire 4).orFlags fl).writeParts s.me (ls.zip ((ps.map (·.2.2.1)).zip vs)) with
    | .error e => (s.failAcc (α := Unit) s.me 4 aWrite e).halt
    | .ok s => .next s

/-- The values of accesses, read once all of them pass. -/
def State.loadVec (s : State) (ps : List Part) : Res (List Nat) :=
  (s.checkVec aRead ps).bind fun ls s =>
    let r := s.readParts s.me (ls.zip ps)
    .ok r.1 r.2

/-! ### Loads and stores, major 0x27 (R207, R208) -/

/-- Bytes of an element in memory, and the width it has in a register: FP8 is widened to FP16. -/
def vmemBytes (w : FW) : Nat := (fwFmt w).width / 8
def vregWidth (w : FW) : Nat := max 16 (fwFmt w).width

/-- A loaded element as it is held (R207). -/
def vldImage (w : FW) (v : Nat) : Image :=
  if (fwFmt w).width = 8 then (rto fp16 (encVal (fwFmt w) v)).1 else ⟨v, 0⟩

/-- The count of `vld` and `vst` (R207). -/
def State.vcount (s : State) (wd b : Nat) : Nat :=
  let e := perReg wd s.cur.grant
  if b = 0 then e else min (s.reg b) e

/-- R207. -/
def execVld (w : FW) (d a b la : Nat) (s : State) : Out :=
  let n := vmemBytes w
  let wd := vregWidth w
  let c := s.vcount wd b
  let ps := (List.range c).map fun j => ((s.reg a, (j * n : Nat), n, n) : Part)
  (s.loadVec ps).out fun vs s => s.putVec la wd d (perReg wd s.cur.grant) ((List.range c).zip (vs.map (vldImage w))) 0

/-- R207. -/
def execVst (w : FW) (d a b : Nat) (s : State) : Out :=
  let n := vmemBytes w
  let wd := (fwFmt w).width
  let c := s.vcount wd b
  let ps := (List.range c).map fun j => ((s.reg a, (j * n : Nat), n, n) : Part)
  s.storeVec ps ((List.range c).map fun j => (elemOf s.cur.vr wd d j).bits) 0

/-- R207: a byte stride from reg(b). -/
def execVlds (w : FW) (d a b la : Nat) (s : State) : Out :=
  let n := vmemBytes w
  let wd := vregWidth w
  let e := perReg wd s.cur.grant
  let ps := (List.range e).map fun (j : Nat) => ((s.reg a, (j : Int) * s.ireg b, n, n) : Part)
  (s.loadVec ps).out fun vs s => s.putVec la wd d e ((List.range e).zip (vs.map (vldImage w))) 0

/-- The source formats of `vstf` (R208). -/
def vstfSrc (c : Nat) : Fmt := if c = 0 then fp32 else if c = 1 then fp16 else if c = 2 then bf16 else fp64

/-- R208: each element is converted finally into the memory format. -/
def execVstf (w : FW) (d a rm srcf : Nat) (s : State) : Out :=
  let f := vstfSrc srcf
  let t := fwFmt w
  let n := vmemBytes w
  let e := perReg f.width s.cur.grant
  let rs := (List.range e).map fun j =>
    finVal t (effMode rm s.rm) (s.hashMem (wint (s.reg a + (j * n : Nat)) % 2 ^ 56 * 8)) (s.vfp f d j)
  let ps := (List.range e).map fun j => ((s.reg a, (j * n : Nat), n, n) : Part)
  s.storeVec ps (rs.map (·.1)) (rs.foldl (fun k r => k ||| r.2) 0)

/-! ### Gather and scatter, major 0x28 (R209) -/

/-- The accesses of the lanes of a gather or scatter. -/
def State.laneParts (s : State) (a b : Nat) : List Part :=
  (List.range s.cur.grant).map fun i => (s.reg a, sint (s.lane b i) 32 * 4, 4, 4)

/-- R209. -/
def execVgat (d a b la : Nat) (s : State) : Out :=
  (s.loadVec (s.laneParts a b)).out fun vs s =>
    s.putVec la 32 d s.cur.grant ((List.range s.cur.grant).zip (vs.map fun v => ⟨v, 0⟩)) 0

/-- R209: lanes are written in ascending order. -/
def execVsca (d a b : Nat) (s : State) : Out :=
  s.storeVec (s.laneParts a b) ((List.range s.cur.grant).map fun i => s.lane d i % 2 ^ 32) 0

/-! ### Tile rows (R210) -/

/-- The accesses of an element of a map at a bit address, with its scale's first (07 R165 for the alignment). -/
def bitParts (ba wb : Nat) (mx : Option Nat) : List Part :=
  let body : List Part :=
    if wb % 8 = 0 ∧ ba % 8 = 0 ∧ mx.isNone then [(0, (ba / 8 : Nat), wb / 8, wb / 8)]
    else (List.range ((ba % 8 + wb + 7) / 8)).map fun k => (0, (ba / 8 + k : Nat), 1, 1)
  match mx with
  | some x => (0, (x : Nat), 1, 1) :: body
  | none => body

/-- The value of an element from what its accesses read. -/
def bitValue (ba wb : Nat) (mx : Bool) (vs : List Nat) : Nat × Nat :=
  let body := if mx then vs.drop 1 else vs
  if wb % 8 = 0 ∧ ba % 8 = 0 ∧ !mx then (body.headD 0, 0)
  else (bits (body.foldr (fun b v => b + 256 * v) 0) (ba % 8) wb, if mx then vs.headD 0 else 0)

/-- What a lane holds of an element of a map (R210). -/
def vldtImage (c scale b : Nat) : Image × Nat :=
  match intRange? c with
  | some _ => (⟨imod (clampInt (intOf c b) (-2147483648) 2147483647) 32, 0⟩, 0)
  | none => rto fp32 (elemVal c scale b)

/-- An access that traps TAGOV with an address: its `ea` leaves the tag of its base. -/
def farPart (x : Nat) : Part := (w64 (x + 2 ^ 56), -(2 ^ 56 : Int), 1, 1)

/-- Cut a list into pieces of given lengths. -/
def pieces : List Nat → List Nat → List (List Nat)
  | [], _ => []
  | n :: ns, xs => xs.take n :: pieces ns (xs.drop n)

/-- R210. -/
def execVldt (d a b la : Nat) (s : State) : Out :=
  let p := s.reg a % 2 ^ 56
  if p % 64 ≠ 0 then .next (s.trapHere cALIGN 0 p)
  else
    (s.loadWords (s.reg a) 0 8).out fun m s =>
      let cs := (List.range 4).map fun k => bits (s.reg b) (16 * k) 16
      if mapBad m then .next (s.trapFree cTMAP 0)
      else if (List.range 4).any fun k => decide (mapRank m ≤ k) && cs.getD k 0 != 0 then
        .next (s.trapHere cRANGE 0 (s.reg b))
      else
        let c := mapFmt m
        let wb := codeBits c
        let ix := fun (i : Nat) => (cs.getD 0 0 + i) :: cs.drop 1
        let lanes := (List.range s.cur.grant).filter fun i => mapHas m (ix i)
        let at_ := fun (i : Nat) => (mapBit m (ix i)).getD 0
        let sc := fun (i : Nat) => if isMx c then some (mapScaleAt m (mapDim m 0) (ix i)) else none
        let parts := lanes.map fun i =>
          if (mapBit m (ix i)).isNone then [farPart (mapFar m (ix i))] else bitParts (at_ i) wb (sc i)
        (s.loadVec parts.flatten).out fun vs s =>
          let got := (lanes.zip (pieces (parts.map (·.length)) vs)).map fun q =>
            let e := bitValue (at_ q.1) wb (isMx c) q.2
            (q.1, vldtImage c e.2 e.1)
          let absent := ((List.range s.cur.grant).filter fun i => !lanes.contains i).map fun i => (i, (⟨0, 0⟩ : Image))
          s.putVec la 32 d s.cur.grant (absent ++ got.map (fun g => (g.1, g.2.1))) (got.foldl (fun k g => k ||| g.2.2) 0)

end Sys2Proof.Machine
end

