-- ==== Sys2Proof/Machine/Waiting.lean ====
section
/-!
DEFINITION. The end of a blocking wait (10 R255): what an activation waits for is looked at again, and when it has come
the activation is ready with its PC past the instruction that waited.  A wait at `gang` ends with the instruction of its
last member (08 R213), and one for a parked read with its replay.
-/

namespace Sys2Proof.Machine

/-- The issuing activation is ready again. [DEDUCED, notes/assumptions/15.md] -/
def State.wake (s : State) : State := s.goOn

/-- The end of a wait of the issuing activation, when it has come. [DEDUCED, notes/assumptions/15.md] -/
def State.endWait (s : State) : State :=
  match s.cur.run with
  | .waiting (.send d t payload late) => s.retrySend d t payload late
  | .waiting (.tl kind n) =>
    if s.myCore.tl.getD kind 0 < n then s
    else
      match s.cur.errorOf kind n with
      | some e => s.wake.raiseLate e
      | none => (s.wake.retire 4).tlAcquire kind n
  | .waiting (.barrier key phase d _) => if phaseDone (s.bar key).phase phase then s.endBarWait key d phase else s.phaseIfDue key
  | .waiting (.gang _ _) => s
  | .waiting (.gmeet _) => (match s.cur.gang with | some g => s.remeet g | none => s)
  | .waiting (.pacq _ key _) => s.serve key
  | .waiting (.pfill _ key _ _ _ _) => s.serve key
  | .waiting (.link d kind idx) => s.endLinkWait d kind idx
  | .waiting (.qcmd _ _ _) => s
  | .waiting (.drain d c lo hi) => s.endDrainWait d c lo hi
  | .waiting .killed => s.endKilled
  | .ready => s
  | .faultWait _ => s
  | .trapWait => s

/-- R255: the wait of an activation ends. -/
def execWaitEnd (act : Nat) (s : State) : Out :=
  match s.act? act with
  | none => .next s
  | some a =>
    if s.running a.ctx || a.onControl then .next ((s.onAct act State.endWait).flushTrapped act) else .next s

end Sys2Proof.Machine
end

