-- ==== Sys2Proof/Machine/Dispatch.lean ====
section
/-!
DEFINITION. The meaning of every instruction, one arm for each constructor of Instr.
-/

namespace Sys2Proof.Machine

/-- What an instruction, or a step of another agent, does. -/
def exec (i : Instr) (s : State) : Host.Outcome State Fault Refusal :=
  match i with
  | .add w d a b => Sys2Proof.Machine.execAdd w d a b s
  | .sub w d a b => Sys2Proof.Machine.execSub w d a b s
  | .and w d a b => Sys2Proof.Machine.execAnd w d a b s
  | .or w d a b => Sys2Proof.Machine.execOr w d a b s
  | .xor w d a b => Sys2Proof.Machine.execXor w d a b s
  | .andn w d a b => Sys2Proof.Machine.execAndn w d a b s
  | .orn w d a b => Sys2Proof.Machine.execOrn w d a b s
  | .min w d a b => Sys2Proof.Machine.execMin w d a b s
  | .max w d a b => Sys2Proof.Machine.execMax w d a b s
  | .minn w d a b => Sys2Proof.Machine.execMinn w d a b s
  | .maxn w d a b => Sys2Proof.Machine.execMaxn w d a b s
  | .adds w d a b => Sys2Proof.Machine.execAdds w d a b s
  | .subs w d a b => Sys2Proof.Machine.execSubs w d a b s
  | .absd w d a b => Sys2Proof.Machine.execAbsd w d a b s
  | .addi d a imm => Sys2Proof.Machine.execAddi d a imm s
  | .andi d a imm => Sys2Proof.Machine.execAndi d a imm s
  | .ori d a imm => Sys2Proof.Machine.execOri d a imm s
  | .xori d a imm => Sys2Proof.Machine.execXori d a imm s
  | .mini d a imm => Sys2Proof.Machine.execMini d a imm s
  | .maxi d a imm => Sys2Proof.Machine.execMaxi d a imm s
  | .sll w d a b => Sys2Proof.Machine.execSll w d a b s
  | .sllImm w d a imm hi => Sys2Proof.Machine.execSllImm w d a imm hi s
  | .srl w d a b => Sys2Proof.Machine.execSrl w d a b s
  | .srlImm w d a imm hi => Sys2Proof.Machine.execSrlImm w d a imm hi s
  | .sra w d a b => Sys2Proof.Machine.execSra w d a b s
  | .sraImm w d a imm hi => Sys2Proof.Machine.execSraImm w d a imm hi s
  | .rol w d a b => Sys2Proof.Machine.execRol w d a b s
  | .rolImm w d a imm hi => Sys2Proof.Machine.execRolImm w d a imm hi s
  | .ror w d a b => Sys2Proof.Machine.execRor w d a b s
  | .rorImm w d a imm hi => Sys2Proof.Machine.execRorImm w d a imm hi s
  | .ext d a b => Sys2Proof.Machine.execExt d a b s
  | .extn d a b => Sys2Proof.Machine.execExtn d a b s
  | .ins d a b => Sys2Proof.Machine.execIns d a b s
  | .clz w d a => Sys2Proof.Machine.execClz w d a s
  | .ctz w d a => Sys2Proof.Machine.execCtz w d a s
  | .pop w d a => Sys2Proof.Machine.execPop w d a s
  | .brev w d a => Sys2Proof.Machine.execBrev w d a s
  | .bswap w d a => Sys2Proof.Machine.execBswap w d a s
  | .cmp w d a b x => Sys2Proof.Machine.execCmp w d a b x s
  | .csel d a b x => Sys2Proof.Machine.execCsel d a b x s
  | .mul w d a b la => Sys2Proof.Machine.execMul w d a b la s
  | .mulh w d a b la => Sys2Proof.Machine.execMulh w d a b la s
  | .mulhn w d a b la => Sys2Proof.Machine.execMulhn w d a b la s
  | .div w d a b la => Sys2Proof.Machine.execDiv w d a b la s
  | .divn w d a b la => Sys2Proof.Machine.execDivn w d a b la s
  | .rem w d a b la => Sys2Proof.Machine.execRem w d a b la s
  | .remn w d a b la => Sys2Proof.Machine.execRemn w d a b la s
  | .ldhi d imm => Sys2Proof.Machine.execLdhi d imm s
  | .pcrel d imm => Sys2Proof.Machine.execPcrel d imm s
  | .ptag d a b => Sys2Proof.Machine.execPtag d a b s
  | .padd d a b => Sys2Proof.Machine.execPadd d a b s
  | .psub d a b => Sys2Proof.Machine.execPsub d a b s
  | .pfmt d a => Sys2Proof.Machine.execPfmt d a s
  | .pclr d a => Sys2Proof.Machine.execPclr d a s
  | .beq a b imm => Sys2Proof.Machine.execBeq a b imm s
  | .bne a b imm => Sys2Proof.Machine.execBne a b imm s
  | .blt a b imm => Sys2Proof.Machine.execBlt a b imm s
  | .bge a b imm => Sys2Proof.Machine.execBge a b imm s
  | .bltn a b imm => Sys2Proof.Machine.execBltn a b imm s
  | .bgen a b imm => Sys2Proof.Machine.execBgen a b imm s
  | .bbs a b imm => Sys2Proof.Machine.execBbs a b imm s
  | .bbc a b imm => Sys2Proof.Machine.execBbc a b imm s
  | .jl d imm => Sys2Proof.Machine.execJl d imm s
  | .jlr d a imm => Sys2Proof.Machine.execJlr d a imm s
  | .cMv d src => Sys2Proof.Machine.execCMv d src s
  | .cAdd d src => Sys2Proof.Machine.execCAdd d src s
  | .cSub d src => Sys2Proof.Machine.execCSub d src s
  | .cXor d src => Sys2Proof.Machine.execCXor d src s
  | .cAddi d imm => Sys2Proof.Machine.execCAddi d imm s
  | .cLi d imm => Sys2Proof.Machine.execCLi d imm s
  | .cLd d off => Sys2Proof.Machine.execCLd d off s
  | .cSt b off => Sys2Proof.Machine.execCSt b off s
  | .cBz a imm => Sys2Proof.Machine.execCBz a imm s
  | .cBnz a imm => Sys2Proof.Machine.execCBnz a imm s
  | .cSk a cond cnt => Sys2Proof.Machine.execCSk a cond cnt s
  | .cSll d imm => Sys2Proof.Machine.execCSll d imm s
  | .cSrl d imm => Sys2Proof.Machine.execCSrl d imm s
  | .cSra d imm => Sys2Proof.Machine.execCSra d imm s
  | .cAndi d imm => Sys2Proof.Machine.execCAndi d imm s
  | .cJ imm => Sys2Proof.Machine.execCJ imm s
  | .cJr src => Sys2Proof.Machine.execCJr src s
  | .cJlr d src => Sys2Proof.Machine.execCJlr d src s
  | .fadd w d a b x => Sys2Proof.Machine.execFadd w d a b x s
  | .fsub w d a b x => Sys2Proof.Machine.execFsub w d a b x s
  | .fmul w d a b x => Sys2Proof.Machine.execFmul w d a b x s
  | .fmin w d a b x => Sys2Proof.Machine.execFmin w d a b x s
  | .fmax w d a b x => Sys2Proof.Machine.execFmax w d a b x s
  | .fsgn w d a b => Sys2Proof.Machine.execFsgn w d a b s
  | .ffma w d a b la => Sys2Proof.Machine.execFfma w d a b la s
  | .fdiv w d a b la => Sys2Proof.Machine.execFdiv w d a b la s
  | .fsqrt w d a la => Sys2Proof.Machine.execFsqrt w d a la s
  | .fcvt w d a tgt x => Sys2Proof.Machine.execFcvt w d a tgt x s
  | .fcvti w d a tgt x => Sys2Proof.Machine.execFcvti w d a tgt x s
  | .icvtf w d a tgt x => Sys2Proof.Machine.execIcvtf w d a tgt x s
  | .fin w d a rm => Sys2Proof.Machine.execFin w d a rm s
  | .feq w d a b => Sys2Proof.Machine.execFeq w d a b s
  | .flt w d a b => Sys2Proof.Machine.execFlt w d a b s
  | .fle w d a b => Sys2Proof.Machine.execFle w d a b s
  | .fclass w d a => Sys2Proof.Machine.execFclass w d a s
  | .tget d a => Sys2Proof.Machine.execTget d a s
  | .tset d a b => Sys2Proof.Machine.execTset d a b s
  | .ld w d a off la => Sys2Proof.Machine.execLd w d a off la s
  | .lda w d a off sc la => Sys2Proof.Machine.execLda w d a off sc la s
  | .st w a b off hn => Sys2Proof.Machine.execSt w a b off hn s
  | .str w a b off sc => Sys2Proof.Machine.execStr w a b off sc s
  | .stf w a b off rm => Sys2Proof.Machine.execStf w a b off rm s
  | .ldx w d a b la => Sys2Proof.Machine.execLdx w d a b la s
  | .stx w d a b => Sys2Proof.Machine.execStx w d a b s
  | .ldxr w d a b la => Sys2Proof.Machine.execLdxr w d a b la s
  | .lde w d a b la => Sys2Proof.Machine.execLde w d a b la s
  | .ste w d a b => Sys2Proof.Machine.execSte w d a b s
  | .amoswap a b wd sem sc la => Sys2Proof.Machine.execAmoswap a b wd sem sc la s
  | .amoadd a b wd sem sc la => Sys2Proof.Machine.execAmoadd a b wd sem sc la s
  | .amoand a b wd sem sc la => Sys2Proof.Machine.execAmoand a b wd sem sc la s
  | .amoor a b wd sem sc la => Sys2Proof.Machine.execAmoor a b wd sem sc la s
  | .amoxor a b wd sem sc la => Sys2Proof.Machine.execAmoxor a b wd sem sc la s
  | .amomin a b wd sem sc la => Sys2Proof.Machine.execAmomin a b wd sem sc la s
  | .amomax a b wd sem sc la => Sys2Proof.Machine.execAmomax a b wd sem sc la s
  | .amominn a b wd sem sc la => Sys2Proof.Machine.execAmominn a b wd sem sc la s
  | .amomaxn a b wd sem sc la => Sys2Proof.Machine.execAmomaxn a b wd sem sc la s
  | .amocas a b wd sem sc la => Sys2Proof.Machine.execAmocas a b wd sem sc la s
  | .amfadd a b wd sem sc la => Sys2Proof.Machine.execAmfadd a b wd sem sc la s
  | .amfmin a b wd sem sc la => Sys2Proof.Machine.execAmfmin a b wd sem sc la s
  | .amfmax a b wd sem sc la => Sys2Proof.Machine.execAmfmax a b wd sem sc la s
  | .radd a b wd la => Sys2Proof.Machine.execRadd a b wd la s
  | .rflush a sc la => Sys2Proof.Machine.execRflush a sc la s
  | .ldres a b wd sem sc la => Sys2Proof.Machine.execLdres a b wd sem sc la s
  | .stcond a b wd sem sc la => Sys2Proof.Machine.execStcond a b wd sem sc la s
  | .raddi a b wd la => Sys2Proof.Machine.execRaddi a b wd la s
  | .fence sc pred succ => Sys2Proof.Machine.execFence sc pred succ s
  | .tlwait a kind => Sys2Proof.Machine.execTlwait a kind s
  | .tltest d a kind => Sys2Proof.Machine.execTltest d a kind s
  | .hint k rest => Sys2Proof.Machine.execHint k rest s
  | .cpy d a b q la => Sys2Proof.Machine.execCpy d a b q la s
  | .cpyt d a b q la => Sys2Proof.Machine.execCpyt d a b q la s
  | .cpyg d a b q la => Sys2Proof.Machine.execCpyg d a b q la s
  | .trread d a => Sys2Proof.Machine.execTrread d a s
  | .vclaim d a imm => Sys2Proof.Machine.execVclaim d a imm s
  | .vrel => Sys2Proof.Machine.execVrel s
  | .vlen d a imm => Sys2Proof.Machine.execVlen d a imm s
  | .vsplat d a imm => Sys2Proof.Machine.execVsplat d a imm s
  | .vadd w d a b m => Sys2Proof.Machine.execVadd w d a b m s
  | .vsub w d a b m => Sys2Proof.Machine.execVsub w d a b m s
  | .vand w d a b m => Sys2Proof.Machine.execVand w d a b m s
  | .vor w d a b m => Sys2Proof.Machine.execVor w d a b m s
  | .vxor w d a b m => Sys2Proof.Machine.execVxor w d a b m s
  | .vmin w d a b m => Sys2Proof.Machine.execVmin w d a b m s
  | .vmax w d a b m => Sys2Proof.Machine.execVmax w d a b m s
  | .vadds w d a b m => Sys2Proof.Machine.execVadds w d a b m s
  | .vsubs w d a b m => Sys2Proof.Machine.execVsubs w d a b m s
  | .vmul w d a b m => Sys2Proof.Machine.execVmul w d a b m s
  | .vsll w d a b m => Sys2Proof.Machine.execVsll w d a b m s
  | .vsrl w d a b m => Sys2Proof.Machine.execVsrl w d a b m s
  | .vsra w d a b m => Sys2Proof.Machine.execVsra w d a b m s
  | .vcmpeq w d a b m => Sys2Proof.Machine.execVcmpeq w d a b m s
  | .vcmplt w d a b m => Sys2Proof.Machine.execVcmplt w d a b m s
  | .vcmple w d a b m => Sys2Proof.Machine.execVcmple w d a b m s
  | .vfadd w d a b m => Sys2Proof.Machine.execVfadd w d a b m s
  | .vfsub w d a b m => Sys2Proof.Machine.execVfsub w d a b m s
  | .vfmul w d a b m => Sys2Proof.Machine.execVfmul w d a b m s
  | .vfmin w d a b m => Sys2Proof.Machine.execVfmin w d a b m s
  | .vfmax w d a b m => Sys2Proof.Machine.execVfmax w d a b m s
  | .vfsgn w d a b m => Sys2Proof.Machine.execVfsgn w d a b m s
  | .vfeq w d a b m => Sys2Proof.Machine.execVfeq w d a b m s
  | .vflt w d a b m => Sys2Proof.Machine.execVflt w d a b m s
  | .vfle w d a b m => Sys2Proof.Machine.execVfle w d a b m s
  | .vffma w d a b la => Sys2Proof.Machine.execVffma w d a b la s
  | .vfdiv w d a b la => Sys2Proof.Machine.execVfdiv w d a b la s
  | .vfsqrt w d a la => Sys2Proof.Machine.execVfsqrt w d a la s
  | .vcvt w d a tgt m => Sys2Proof.Machine.execVcvt w d a tgt m s
  | .vicvtf w d a tgt m => Sys2Proof.Machine.execVicvtf w d a tgt m s
  | .vfcvti w d a tgt m => Sys2Proof.Machine.execVfcvti w d a tgt m s
  | .vfin w d a rm m => Sys2Proof.Machine.execVfin w d a rm m s
  | .vtget d a m => Sys2Proof.Machine.execVtget d a m s
  | .vtset d a b m => Sys2Proof.Machine.execVtset d a b m s
  | .vperm d a b m => Sys2Proof.Machine.execVperm d a b m s
  | .vslide d a b m => Sys2Proof.Machine.execVslide d a b m s
  | .vbcast d a b m => Sys2Proof.Machine.execVbcast d a b m s
  | .vnbr d a m o => Sys2Proof.Machine.execVnbr d a m o s
  | .vcomp d a m => Sys2Proof.Machine.execVcomp d a m s
  | .vexpd d a m => Sys2Proof.Machine.execVexpd d a m s
  | .vget d a b m => Sys2Proof.Machine.execVget d a b m s
  | .vput d a b m => Sys2Proof.Machine.execVput d a b m s
  | .vred w d a b la => Sys2Proof.Machine.execVred w d a b la s
  | .vfred w d a b la => Sys2Proof.Machine.execVfred w d a b la s
  | .vscan w d a b la => Sys2Proof.Machine.execVscan w d a b la s
  | .vfscan w d a b la => Sys2Proof.Machine.execVfscan w d a b la s
  | .vsort w d a b la => Sys2Proof.Machine.execVsort w d a b la s
  | .vsorti w d a b la => Sys2Proof.Machine.execVsorti w d a b la s
  | .vtopk w d a b la => Sys2Proof.Machine.execVtopk w d a b la s
  | .vld w d a b la => Sys2Proof.Machine.execVld w d a b la s
  | .vst w d a b => Sys2Proof.Machine.execVst w d a b s
  | .vlds w d a b la => Sys2Proof.Machine.execVlds w d a b la s
  | .vstf w d a rm srcf => Sys2Proof.Machine.execVstf w d a rm srcf s
  | .vgat d a b la => Sys2Proof.Machine.execVgat d a b la s
  | .vsca d a b => Sys2Proof.Machine.execVsca d a b s
  | .vldt d a b la => Sys2Proof.Machine.execVldt d a b la s
  | .vpoly d a la => Sys2Proof.Machine.execVpoly d a la s
  | .ppload a => Sys2Proof.Machine.execPpload a s
  | .gang a b => Sys2Proof.Machine.execGang a b s
  | .gmeet a => Sys2Proof.Machine.execGmeet a s
  | .gleave => Sys2Proof.Machine.execGleave s
  | .mloads d a b la => Sys2Proof.Machine.execMloads d a b la s
  | .mswap d la => Sys2Proof.Machine.execMswap d la s
  | .mstream d a b acc la => Sys2Proof.Machine.execMstream d a b acc la s
  | .mzero d acc la => Sys2Proof.Machine.execMzero d acc la s
  | .mread d a acc la => Sys2Proof.Machine.execMread d a acc la s
  | .mstore d a b acc la => Sys2Proof.Machine.execMstore d a b acc la s
  | .mscale d acc la => Sys2Proof.Machine.execMscale d acc la s
  | .mweight imm => Sys2Proof.Machine.execMweight imm s
  | .mstat d => Sys2Proof.Machine.execMstat d s
  | .send w d a b la => Sys2Proof.Machine.execSend w d a b la s
  | .sendw w d a b la => Sys2Proof.Machine.execSendw w d a b la s
  | .halt => Sys2Proof.Machine.execHalt s
  | .nop => Sys2Proof.Machine.execNop s
  | .yield => Sys2Proof.Machine.execYield s
  | .brk => Sys2Proof.Machine.execBrk s
  | .hret => Sys2Proof.Machine.execHret s
  | .cnew d a b la => Sys2Proof.Machine.execCnew d a b la s
  | .cdec a => Sys2Proof.Machine.execCdec a s
  | .cspawn w d a b la => Sys2Proof.Machine.execCspawn w d a b la s
  | .cjoin d a b la => Sys2Proof.Machine.execCjoin d a b la s
  | .cdone a => Sys2Proof.Machine.execCdone a s
  | .binit a b => Sys2Proof.Machine.execBinit a b s
  | .barr d a na => Sys2Proof.Machine.execBarr d a na s
  | .bwait a b => Sys2Proof.Machine.execBwait a b s
  | .btest d a b => Sys2Proof.Machine.execBtest d a b s
  | .pacq d a nw => Sys2Proof.Machine.execPacq d a nw s
  | .prel a b => Sys2Proof.Machine.execPrel a b s
  | .pfill d a b q => Sys2Proof.Machine.execPfill d a b q s
  | .qlaunch d a b la => Sys2Proof.Machine.execQlaunch d a b la s
  | .qstat d a q la => Sys2Proof.Machine.execQstat d a q la s
  | .spstat d a b la => Sys2Proof.Machine.execSpstat d a b la s
  | .spstatClr d a b la => Sys2Proof.Machine.execSpstatClr d a b la s
  | .spstatSt d a la => Sys2Proof.Machine.execSpstatSt d a la s
  | .nload d a b q la => Sys2Proof.Machine.execNload d a b q la s
  | .nstore d a b q la => Sys2Proof.Machine.execNstore d a b q la s
  | .ndel d a b q la => Sys2Proof.Machine.execNdel d a b q la s
  | .ninit d a b la => Sys2Proof.Machine.execNinit d a b la s
  | .nsnap d a la => Sys2Proof.Machine.execNsnap d a la s
  | .nsnapRel d a b la => Sys2Proof.Machine.execNsnapRel d a b la s
  | .nfree d a la => Sys2Proof.Machine.execNfree d a la s
  | .nstat d a q la => Sys2Proof.Machine.execNstat d a q la s
  | .ptload d a b => Sys2Proof.Machine.execPtload d a b s
  | .rngset d a b => Sys2Proof.Machine.execRngset d a b s
  | .tlbinv d a b => Sys2Proof.Machine.execTlbinv d a b s
  | .l1inv => Sys2Proof.Machine.execL1inv s
  | .l2wb d a b => Sys2Proof.Machine.execL2wb d a b s
  | .heatrd d a b => Sys2Proof.Machine.execHeatrd d a b s
  | .heatage d a b => Sys2Proof.Machine.execHeatage d a b s
  | .pfreplay d a b => Sys2Proof.Machine.execPfreplay d a b s
  | .ckpt d a b => Sys2Proof.Machine.execCkpt d a b s
  | .trap imm => Sys2Proof.Machine.execTrap imm s
  | .tret d a => Sys2Proof.Machine.execTret d a s
  | .tretKill d a => Sys2Proof.Machine.execTretKill d a s
  | .tretFrz d a => Sys2Proof.Machine.execTretFrz d a s
  | .mfs d imm => Sys2Proof.Machine.execMfs d imm s
  | .mts a imm => Sys2Proof.Machine.execMts a imm s
  | .cfreeze d a => Sys2Proof.Machine.execCfreeze d a s
  | .cthaw d a => Sys2Proof.Machine.execCthaw d a s
  | .cswapIn d a => Sys2Proof.Machine.execCswapIn d a s
  | .cswapFast d a => Sys2Proof.Machine.execCswapFast d a s
  | .cswapOut d a => Sys2Proof.Machine.execCswapOut d a s
  | .cswapCreate d a => Sys2Proof.Machine.execCswapCreate d a s
  | .cswapSeal d a => Sys2Proof.Machine.execCswapSeal d a s
  | .cswapReset d a => Sys2Proof.Machine.execCswapReset d a s
  | .wpset d a imm => Sys2Proof.Machine.execWpset d a imm s
  | .lstat d a => Sys2Proof.Machine.execLstat d a s
  | .lstatQuiesce d a => Sys2Proof.Machine.execLstatQuiesce d a s
  | .lstatResume d a => Sys2Proof.Machine.execLstatResume d a s
  | .lstatIsolate d a => Sys2Proof.Machine.execLstatIsolate d a s
  | .lstatRetrain d a => Sys2Proof.Machine.execLstatRetrain d a s
  | .lstatRelink d a => Sys2Proof.Machine.execLstatRelink d a s
  | .lstatClr d a => Sys2Proof.Machine.execLstatClr d a s
  | .lstatDquiesce d a => Sys2Proof.Machine.execLstatDquiesce d a s
  | .lstatDflush d a => Sys2Proof.Machine.execLstatDflush d a s
  | .lstatDreset d a => Sys2Proof.Machine.execLstatDreset d a s
  | .lstatDadmit d a => Sys2Proof.Machine.execLstatDadmit d a s
  | .qcmdOpen ctx q => Sys2Proof.Machine.execQcmdOpen ctx q s
  | .qcmdHalt ctx q => Sys2Proof.Machine.execQcmdHalt ctx q s
  | .qcmdResume ctx q => Sys2Proof.Machine.execQcmdResume ctx q s
  | .qcmdClose ctx q => Sys2Proof.Machine.execQcmdClose ctx q s
  | .carveWrite die v => Sys2Proof.Machine.execCarveWrite die v s
  | .shallotWrite ctx v => Sys2Proof.Machine.execShallotWrite ctx v s
  | .doorbell q tail => Sys2Proof.Machine.execDoorbell q tail s
  | .devnumWrite v => Sys2Proof.Machine.execDevnumWrite v s
  | .replay ctx grp => Sys2Proof.Machine.execReplay ctx grp s
  | .replayCancel ctx grp => Sys2Proof.Machine.execReplayCancel ctx grp s
  | .registerWrite off v => Sys2Proof.Machine.execRegisterWrite off v s
  | .doeIdent => Sys2Proof.Machine.execDoeIdent s
  | .doeReport nonce ctx => Sys2Proof.Machine.execDoeReport nonce ctx s
  | .doeInvalidObject ty len => Sys2Proof.Machine.execDoeInvalidObject ty len s
  | .coldReset failStep code => Sys2Proof.Machine.execColdReset failStep code s
  | .messageArrival n => Sys2Proof.Machine.execMessageArrival n s
  | .clauseStart core => Sys2Proof.Machine.execClauseStart core s
  | .activationPark core => Sys2Proof.Machine.execActivationPark core s
  | .activationResume core => Sys2Proof.Machine.execActivationResume core s
  | .waitEnd act => Sys2Proof.Machine.execWaitEnd act s
  | .watchdogExpiry act => Sys2Proof.Machine.execWatchdogExpiry act s
  | .longLatencyResult act n => Sys2Proof.Machine.execLongLatencyResult act n s
  | .errorReply eng who seq sub addr => Sys2Proof.Machine.execErrorReply eng who seq sub addr s
  | .copyCommandComplete core seq => Sys2Proof.Machine.execCopyCommandComplete core seq s
  | .arrayGrant cluster => Sys2Proof.Machine.execArrayGrant cluster s
  | .matrixCommandComplete core => Sys2Proof.Machine.execMatrixCommandComplete core s
  | .planeRefetch core plane => Sys2Proof.Machine.execPlaneRefetch core plane s
  | .vpolyRequestTake cluster => Sys2Proof.Machine.execVpolyRequestTake cluster s
  | .barrierPhaseComplete key => Sys2Proof.Machine.execBarrierPhaseComplete key s
  | .launchTakeUp q => Sys2Proof.Machine.execLaunchTakeUp q s
  | .groupPlace ctx => Sys2Proof.Machine.execGroupPlace ctx s
  | .wakeBegin ctx => Sys2Proof.Machine.execWakeBegin ctx s
  | .clusterAwake cluster => Sys2Proof.Machine.execClusterAwake cluster s
  | .clusterGate cluster => Sys2Proof.Machine.execClusterGate cluster s
  | .sliceRotation cluster pos => Sys2Proof.Machine.execSliceRotation cluster pos s
  | .launchComplete q lseq => Sys2Proof.Machine.execLaunchComplete q lseq s
  | .shadowStart q => Sys2Proof.Machine.execShadowStart q s
  | .shadowCommit q => Sys2Proof.Machine.execShadowCommit q s
  | .reqr die line => Sys2Proof.Machine.execReqr die line s
  | .reqw die line => Sys2Proof.Machine.execReqw die line s
  | .wb die line => Sys2Proof.Machine.execWb die line s
  | .push die line => Sys2Proof.Machine.execPush die line s
  | .fwdrd die line => Sys2Proof.Machine.execFwdrd die line s
  | .fwdwr die line => Sys2Proof.Machine.execFwdwr die line s
  | .inv die line => Sys2Proof.Machine.execInv die line s
  | .recall die line => Sys2Proof.Machine.execRecall die line s
  | .updin die line => Sys2Proof.Machine.execUpdin die line s
  | .data die line => Sys2Proof.Machine.execData die line s
  | .dataex die line => Sys2Proof.Machine.execDataex die line s
  | .ack die line => Sys2Proof.Machine.execAck die line s
  | .wbdone die line => Sys2Proof.Machine.execWbdone die line s
  | .nack die line => Sys2Proof.Machine.execNack die line s
  | .evi die line => Sys2Proof.Machine.execEvi die line s
  | .atsCompletion ctx page pa perm => Sys2Proof.Machine.execAtsCompletion ctx page pa perm s
  | .atsInvalidation ctx page npages => Sys2Proof.Machine.execAtsInvalidation ctx page npages s
  | .faultRingRecheck ctx => Sys2Proof.Machine.execFaultRingRecheck ctx s
  | .indexAccept core seq => Sys2Proof.Machine.execIndexAccept core seq s
  | .indexApply ctx base => Sys2Proof.Machine.execIndexApply ctx base s
  | .nloadComplete core seq => Sys2Proof.Machine.execNloadComplete core seq s
  | .indexReclaim ctx base => Sys2Proof.Machine.execIndexReclaim ctx base s
  | .checkpointComplete stat => Sys2Proof.Machine.execCheckpointComplete stat s
  | .contextResetDone ctx => Sys2Proof.Machine.execContextResetDone ctx s
  | .linkTrained kind idx => Sys2Proof.Machine.execLinkTrained kind idx s
  | .linkTrainingTimeout kind idx => Sys2Proof.Machine.execLinkTrainingTimeout kind idx s
  | .linkRetryLimit kind idx => Sys2Proof.Machine.execLinkRetryLimit kind idx s
  | .retrainRequest kind idx => Sys2Proof.Machine.execRetrainRequest kind idx s
  | .linkDeclaredDown kind idx => Sys2Proof.Machine.execLinkDeclaredDown kind idx s
  | .linkAutoRetrain kind idx => Sys2Proof.Machine.execLinkAutoRetrain kind idx s
  | .podBarrierLoss b => Sys2Proof.Machine.execPodBarrierLoss b s
  | .dieResetDone die => Sys2Proof.Machine.execDieResetDone die s
  | .powerSample draw => Sys2Proof.Machine.execPowerSample draw s
  | .thermalSample t0 t1 t2 t3 => Sys2Proof.Machine.execThermalSample t0 t1 t2 t3 s
  | .illegalInstruction word => Sys2Proof.Machine.execIllegalInstruction word s
  | .fetchFault => Sys2Proof.Machine.execFetchFault s

end Sys2Proof.Machine
end

