-- ==== Sys2Proof/Machine/Issue.lean ====
section
/-!
DEFINITION. Issue (10 R254, R257; 03 R72 to R75; 08 R214, R221): which activation of a core issues, lookahead windows,
errors raised at an instruction boundary, the instruction itself, and the lockstep of a gang.
-/

namespace Sys2Proof.Machine

/-! ### Which activation issues (10 R257) -/

/-- Whether an activation is ready at the top of its slot, in a context that runs, on a core that has not been stopped.
[DESIGN CHOICE, notes/assumptions/9.md] -/
def State.readyTop (s : State) (a : Act) : Bool :=
  a.inSlot && a.run == .ready && s.isTop a && (s.running a.ctx || a.onControl) && !(s.core a.coreKey).frozen && !s.dev.trip

/-- The attached followers that an activation leads, by rising core number. -/
def State.followers (s : State) (a : Act) : List Act :=
  if a.leads then
    (List.range 4).flatMap fun j =>
      (s.gangActs a.id).filter fun b => b.id != a.id && b.attached && b.core == a.core / 4 * 4 + j
  else []

/-- Whether no activation of a higher level is ready on an activation's core. -/
def State.uncontested (s : State) (a : Act) : Bool :=
  s.allActs.all fun b => b.coreKey != a.coreKey || decide (b.pri ≤ a.pri) || !s.readyTop b

/-- Whether an activation may issue: an attached follower issues with its leader, and only finishes by itself an
instruction that it has not completed; a gang issues when every attached member runs (08 R214). -/
def State.mayIssue (s : State) (a : Act) : Bool :=
  s.readyTop a
    && (if a.gang.isSome && a.attached && !a.leads then a.behind
        else (s.followers a).all fun b => s.readyTop b && !b.behind && s.uncontested b)

/-- The activation of a core that issues: the highest level, then the first slot after the one it issued from last. -/
def State.pick (s : State) (ck : Nat) : Option Act :=
  let ready := s.allActs.filter fun a => a.coreKey == ck && s.mayIssue a
  [3, 2, 1, 0].findSome? fun l =>
    let last := (s.core ck).cur.getD l 7
    (List.range 8).findSome? fun j => ready.find? fun a => a.pri == l && a.slot == (last + 1 + j) % 8

/-! ### Lookahead windows (03 R72 to R74) -/

/-- A register that a window covers, as an instruction of the window meets it. -/
structure Seen where
  act : Nat
  key : Nat                              -- the workspace it stands in
  reg : Nat                              -- as in `Win`
  new : Nat × Nat                        -- the window's result
  shown : Nat × Nat                      -- the value the instruction reads
deriving DecidableEq, Repr

/-- A register of a window: a scalar register below 32, else a lane. -/
def State.readSlot (s : State) (r : Nat) : Nat × Nat :=
  if r < 32 then (s.reg r, s.tb r) else let x := FMap.getD s.cur.vr (r - 32) 0; (x % 2 ^ 32, x / 2 ^ 32)

def State.writeSlot (s : State) (r : Nat) (v : Nat × Nat) : State :=
  if r < 32 then s.setReg r v.1 v.2 else s.setVr fun m => FMap.put m (r - 32) (v.1 + 2 ^ 32 * v.2)

/-- The register that a slot of a window belongs to: a scalar register, or a vector register with all its lanes. -/
def slotReg (r : Nat) : Nat := if r < 32 then r else 32 + (r - 32) / 64

/-- The registers of a window, each once. -/
def Win.regs (w : Win) : List Nat := w.old.foldl (fun l r => if l.contains (slotReg r.1) then l else l ++ [slotReg r.1]) []

/-- An instruction in a window reads a register as its old or as its new value, whole (R73). -/
def showReg (id : Nat) (w : Win) (p : List Seen × State) (g : Nat) : List Seen × State :=
  let f := p.2.flip
  (w.old.filter fun r => slotReg r.1 == g).foldl (fun p r =>
    let t := p.2.focusOn id
    let v := t.readSlot r.1
    let x : Seen := { act := id, key := t.cur.wsKey, reg := r.1, new := v, shown := if f.1 then r.2 else v }
    (x :: p.1, if f.1 then p.2.onAct id fun s => s.writeSlot r.1 r.2 else p.2)) (p.1, f.2)

/-- The registers of every open window on a core, as the next instruction there reads them; an activation that ends (`out`)
has had every result written (10 R275). [DEDUCED, notes/assumptions/14.md] -/
def State.showWins (s : State) (ck out : Nat) : List Seen × State :=
  (s.allActs.filter fun a => a.coreKey == ck && !a.wins.isEmpty && (a.id != out || out == 0)).foldl (fun p a =>
    a.wins.foldl (fun p w => w.regs.foldl (showReg a.id w) p) p) ([], s)

/-- After the instruction: a register that it has not written holds the window's result.  One that it has written will hold
the written value or the result, as a free choice says, and until the window closes either may be read (R73, R74).  Where the
instruction has opened a window of its own over the register, that window keeps the other of the two results, and the earlier one
the value before both.  `n0` is the number of the first window that the instruction may have opened; `wrote` tells the registers
that it writes with whatever value. [DEDUCED, notes/assumptions/14.md] -/
def State.hideSeen (n0 : Nat) (wrote : Nat → Nat → Bool) (s : State) (x : Seen) : State :=
  match s.act? x.act with
  | none => s
  | some a =>
    if a.wsKey ≠ x.key then s
    else
      let v := (s.focusOn x.act).readSlot x.reg
      if v = x.shown ∧ !wrote x.act x.reg then s.onAct x.act fun s => s.writeSlot x.reg x.new
      else
        let f := s.flip
        f.2.onAct x.act fun s =>
          (if f.1 then s.writeSlot x.reg x.new else s).modCur fun a =>
            let other := if f.1 then v else x.new
            let late := a.wins.any fun w => decide (n0 ≤ w.n) && w.old.any (·.1 == x.reg)
            let keep := fun (w : Win) =>
              if decide (w.n < n0) != late then w.old.map fun r => if r.1 = x.reg then (r.1, other.1, other.2) else r else w.old
            { a with wins := a.wins.map fun w => { w with old := keep w } }

/-- The scalar register that an instruction writes when it completes, beside its base registers. -/
def instrDests : Instr → List Nat
  | .add _ d _ _ | .sub _ d _ _ | .and _ d _ _ | .or _ d _ _ | .xor _ d _ _ | .andn _ d _ _ | .orn _ d _ _
  | .min _ d _ _ | .max _ d _ _ | .minn _ d _ _ | .maxn _ d _ _ | .adds _ d _ _ | .subs _ d _ _ | .absd _ d _ _
  | .addi d _ _ | .andi d _ _ | .ori d _ _ | .xori d _ _ | .mini d _ _ | .maxi d _ _ | .sll _ d _ _
  | .sllImm _ d _ _ _ | .srl _ d _ _ | .srlImm _ d _ _ _ | .sra _ d _ _ | .sraImm _ d _ _ _ | .rol _ d _ _
  | .rolImm _ d _ _ _ | .ror _ d _ _ | .rorImm _ d _ _ _ | .ext d _ _ | .extn d _ _ | .ins d _ _ | .clz _ d _
  | .ctz _ d _ | .pop _ d _ | .brev _ d _ | .bswap _ d _ | .cmp _ d _ _ _ | .csel d _ _ _ | .mul _ d _ _ _
  | .mulh _ d _ _ _ | .mulhn _ d _ _ _ | .div _ d _ _ _ | .divn _ d _ _ _ | .rem _ d _ _ _ | .remn _ d _ _ _
  | .ldhi d _ | .pcrel d _ | .ptag d _ _ | .padd d _ _ | .psub d _ _ | .pfmt d _ | .pclr d _ | .jl d _ | .jlr d _ _
  | .cMv d _ | .cAdd d _ | .cSub d _ | .cXor d _ | .cAddi d _ | .cLi d _ | .cLd d _ | .cSll d _ | .cSrl d _
  | .cSra d _ | .cAndi d _ | .cJlr d _ | .fadd _ d _ _ _ | .fsub _ d _ _ _ | .fmul _ d _ _ _ | .fmin _ d _ _ _
  | .fmax _ d _ _ _ | .fsgn _ d _ _ | .ffma _ d _ _ _ | .fdiv _ d _ _ _ | .fsqrt _ d _ _ | .fcvt _ d _ _ _
  | .fcvti _ d _ _ _ | .icvtf _ d _ _ _ | .fin _ d _ _ | .feq _ d _ _ | .flt _ d _ _ | .fle _ d _ _ | .fclass _ d _
  | .tget d _ | .tset d _ _ | .ld _ d _ _ _ | .lda _ d _ _ _ _ | .ldx _ d _ _ _ | .ldxr _ d _ _ _ | .lde _ d _ _ _
  | .amoswap _ d _ _ _ _ | .amoadd _ d _ _ _ _ | .amoand _ d _ _ _ _ | .amoor _ d _ _ _ _ | .amoxor _ d _ _ _ _
  | .amomin _ d _ _ _ _ | .amomax _ d _ _ _ _ | .amominn _ d _ _ _ _ | .amomaxn _ d _ _ _ _ | .amocas _ d _ _ _ _
  | .amfadd _ d _ _ _ _ | .amfmin _ d _ _ _ _ | .amfmax _ d _ _ _ _ | .ldres _ d _ _ _ _ | .stcond _ d _ _ _ _
  | .tltest d _ _ | .cpy d _ _ _ _ | .cpyt d _ _ _ _ | .cpyg d _ _ _ _ | .trread d _ | .vclaim d _ _ | .vlen d _ _
  | .vcmpeq _ d _ _ _ | .vcmplt _ d _ _ _ | .vcmple _ d _ _ _ | .vfeq _ d _ _ _ | .vflt _ d _ _ _ | .vfle _ d _ _ _
  | .vget d _ _ _ | .vred _ d _ _ _ | .vfred _ d _ _ _ | .mloads d _ _ _ | .mswap d _ | .mstream d _ _ _ _
  | .mzero d _ _ | .mread d _ _ _ | .mstore d _ _ _ _ | .mscale d _ _ | .mstat d | .send _ d _ _ _ | .sendw _ d _ _ _
  | .cnew d _ _ _ | .cspawn _ d _ _ _ | .cjoin d _ _ _ | .barr d _ _ | .btest d _ _ | .pacq d _ _ | .pfill d _ _ _
  | .qlaunch d _ _ _ | .qstat d _ _ _ | .spstat d _ _ _ | .spstatClr d _ _ _ | .spstatSt d _ _ | .nload d _ _ _ _
  | .nstore d _ _ _ _ | .ndel d _ _ _ _ | .ninit d _ _ _ | .nsnap d _ _ | .nsnapRel d _ _ _ | .nfree d _ _
  | .nstat d _ _ _ | .ptload d _ _ | .rngset d _ _ | .tlbinv d _ _ | .l2wb d _ _ | .heatrd d _ _ | .heatage d _ _
  | .pfreplay d _ _ | .ckpt d _ _ | .tret d _ | .tretKill d _ | .tretFrz d _ | .mfs d _ | .cfreeze d _ | .cthaw d _
  | .cswapIn d _ | .cswapFast d _ | .cswapOut d _ | .cswapCreate d _ | .cswapSeal d _ | .cswapReset d _
  | .wpset d _ _ | .lstat d _ | .lstatQuiesce d _ | .lstatResume d _ | .lstatIsolate d _ | .lstatRetrain d _
  | .lstatRelink d _ | .lstatClr d _ | .lstatDquiesce d _ | .lstatDflush d _ | .lstatDreset d _ | .lstatDadmit d _ => [d]
  | _ => []

/-- Whether an instruction of activation `id` that has completed writes a register of a workspace: as its destination, or by a
store, which its record of past contents shows (06 R151). -/
def State.wrote (s0 s : State) (id : Nat) (i : Instr) (act reg : Nat) : Bool :=
  (act == id && (instrDests i).contains reg) ||
    decide (reg < 32) && (s.race.drop s0.race.length).any fun p =>
      match s.act? act with
      | none => false
      | some a => p.act == id && (p.word == (a.wsKey + 8 * reg) / 8
          || (p.word == (a.wsKey + 0x100 + reg) / 8 && decide (p.lo ≤ reg % 8 ∧ reg % 8 < p.lo + p.len)))

/-- One instruction of the open windows has issued. -/
def countWins (n0 : Nat) (ws : List Win) : List Win :=
  let ws := ws.map fun w => if w.n < n0 then { w with left := w.left - 1 } else w
  (ws.filter fun w => w.left == 0).foldl closeWin ws

/-- The major of a 32-bit word (03 R67). -/
def wordMajor (w : Nat) : Nat := if w % 2 = 1 then bits w 1 6 else 0

/-- Whether a word may read or write the lanes of a vector register; a form that reads or writes groups counts for all. -/
def touchesLanes (w v : Nat) : Bool :=
  let m := wordMajor w
  let near := fun (lo : Nat) => decide (bits w lo 5 ≤ v ∧ v < bits w lo 5 + 8)
  if m = 0x20 then bits w 7 5 == v
  else if m = 0x24 then near 7 || near 12 || bits w 17 5 == v
  else if 0x21 ≤ m ∧ m ≤ 0x25 then bits w 7 5 == v || bits w 12 5 == v || bits w 17 5 == v
  else if m = 0x29 then (bits w 17 8 == 32) && (bits w 7 5 == v || bits w 12 5 == v)
  else decide (0x26 ≤ m ∧ m ≤ 0x28) || m == 0x2E

/-- The register of another member that a `vnbr` reads (08 R217). -/
noncomputable def nbrReads (w v : Nat) : Bool :=
  match decodeWord w with
  | .ok (.vnbr _ a _ _) => a == v
  | _ => false

/-- R72: an instruction after the window of a `vpoly` that reads or writes its destination is interlocked until the unit
has taken the request; a `vnbr` reads the register of another member of its gang. -/
noncomputable def State.laneWait (s : State) (w : Nat) : Bool :=
  (s.cluster s.cur.clusterKey).polyQ.any fun r =>
    match s.act? r.act with
    | none => false
    | some a =>
      !(a.wins.any fun x => x.n + 1 == r.win)
        && ((r.act == s.cur.id && touchesLanes w r.vd) || (a.gang.isSome && a.gang == s.cur.gang && nbrReads w r.vd))

/-! ### One instruction -/

/-- The instructions that always complete when they issue, though they may leave the PC where it was. -/
def Instr.jumps : Instr → Bool
  | .beq _ _ _ | .bne _ _ _ | .blt _ _ _ | .bge _ _ _ | .bltn _ _ _ | .bgen _ _ _ | .bbs _ _ _ | .bbc _ _ _ => true
  | .jl _ _ | .jlr _ _ _ | .cBz _ _ | .cBnz _ _ | .cJ _ | .cJr _ | .cJlr _ _ | .cSk _ _ _ => true
  | _ => false

/-- The instructions that end an activation (10 R274). -/
def instrEnds : Instr → Bool
  | .halt | .hret | .cdone _ => true
  | _ => false

/-- What a word at the PC stands for: its instruction, or the step that traps IOP (03 R82). -/
noncomputable def wordInstr (w : Nat) : Instr :=
  match decodeWord w with
  | .ok i => i
  | .error _ => .illegalInstruction w

/-- Whether the instruction that activation `id` issued at `pc` has completed, or waits as itself (a blocking wait). -/
def State.went (s : State) (id pc : Nat) (i : Instr) : Bool :=
  match s.act? id with
  | none => true
  | some a =>
    match a.run with
    | .ready => Instr.jumps i || s.pcOf a != pc
    | .waiting _ => true
    | _ => false

/-- The hardware's own record of an issue (10 R266, R269; 26 R461). -/
def State.begin (s : State) : State :=
  let pc := s.pc
  s.modCur fun a => { a with atYield := false, remote := none, lastPc := pc }

/-- What is left of an issue after the instruction: the registers of open windows, the windows' counts, and for an
instruction that has not gone the record that it has not issued. -/
def State.finish (s0 : State) (seen : List Seen) (i : Instr) (s : State) : State :=
  let n0 := s0.sched.nextWin
  let went := s.went s0.cur.id s0.pc i
  let done := went && (match s.act? s0.cur.id with | some a => a.run == .ready | none => false)
  let s := seen.foldl (State.hideSeen n0 fun a r => done && s0.wrote s s0.cur.id i a r) s
  let s := s.flushTrapped s0.cur.id
  if s.cur.id ≠ s0.cur.id then s
  else if went then s.modCur fun a => { a with wins := countWins n0 a.wins, behind := false }
  else if s.cur.run = .ready then s.modCur fun a => { a with atYield := s0.cur.atYield, lastPc := s0.cur.lastPc }
  else s

/-- The activation that issues executes a word.  A waiting form that closes the windows reads their registers as an
instruction inside them does (03 R72). [DESIGN CHOICE, notes/assumptions/14.md] -/
noncomputable def State.oneWord (s : State) (w : Nat) : Out :=
  if s.laneWait w then .next s
  else
    let v := s.begin.showWins s.cur.coreKey (if instrEnds (wordInstr w) then s.cur.id else 0)
    match exec (wordInstr w) v.2 with
    | .next t => .next (s.finish v.1 (wordInstr w) t)
    | o => o

/-! ### Gangs (08 R214) -/

/-- The end of an instruction that a follower has executed with its leader: it detaches when it jumps elsewhere, and it is
behind when it has not completed. [DEDUCED, notes/assumptions/21.md] -/
def State.endFollow (s : State) (f pc next : Nat) (i : Instr) : State :=
  if s.cur.id ≠ f ∨ s.cur.attached = false then s
  else if Instr.jumps i then (if s.pc = next then s else s.modCur fun a => { a with attached := false })
  else if s.went f pc i ∨ s.cur.run = .trapWait then s
  else s.modCur fun a => { a with behind := true }

/-- The error that an activation raises at its next boundary, lowest number first (07 R181, R187; 03 R75).
[DEDUCED, notes/assumptions/16.md] -/
def Act.firstLate (a : Act) : Option Late :=
  a.late.find? fun e => a.late.all fun x => x.kind != e.kind || decide (e.n ≤ x.n)

/-- A follower executes the leader's instruction at `pc`, as an issue of its own core (10 R257); an error that it has to raise
comes first.
[DEDUCED, notes/assumptions/21.md] -/
noncomputable def State.follow (leader pc next w : Nat) (o : Out) (f : Nat) : Out :=
  match o with
  | .next s =>
    if (s.act? f).isNone then .next s
    else
      let s := (s.focusOn f).setPc pc
      let s := s.modMyCore fun c => { c with cur := c.cur.set s.cur.pri s.cur.slot }
      match s.cur.firstLate with
      | some e => .next (((s.raiseLate e).flushPoly f).focusOn leader)
      | none =>
        match s.oneWord w with
        | .next t => .next ((t.endFollow f pc next (wordInstr w)).focusOn leader)
        | o => o
  | o => o

/-- The registers before the instruction are forgotten once every member of a gang has executed it (R217). -/
def State.snapDone (s : State) (g : Nat) : State :=
  let ms := s.gangActs g
  if ms.any (·.behind) then s
  else s.modSched fun q => { q with snap := q.snap.filter fun p => !(p.1 == g || ms.any fun a => a.id == p.1) }

/-- A leader's instruction, which its attached followers execute too once it has gone.  What a vnbr reads of a register in the
target's window is the new value. [DEDUCED, notes/assumptions/21.md] [DESIGN CHOICE, notes/assumptions/54.md] -/
noncomputable def State.gangWord (s : State) (fs : List Act) (w : Nat) : Out :=
  let pc := s.pc
  let id := s.cur.id
  let snap := (s.cur :: fs).map fun a => (a.id, a.vr)
  match (s.modSched fun q => { q with snap := snap ++ q.snap.filter fun p => !(snap.any fun x => x.1 == p.1) }).oneWord w with
  | .next t =>
    let next := ((t.act? id).map t.pcOf).getD pc
    let o := if t.went id pc (wordInstr w) then (fs.map (·.id)).foldl (State.follow id pc next w) (.next t) else .next t
    (match o with
     | .next t => .next (t.snapDone id)
     | o => o)
  | o => o

/-! ### An issue -/

/-- The turn of the activation in focus: a rejected WP, an unraised error, a fetch that fails, or an instruction. -/
noncomputable def State.issueCur (s : State) : Out :=
  let s := s.modMyCore fun c => { c with cur := c.cur.set s.cur.pri s.cur.slot }
  if !s.cur.wpOk then .next (s.trapWsp.flushTrapped s.cur.id)
  else
    match s.cur.firstLate with
    | some e => .next ((s.raiseLate e).flushPoly s.cur.id)
    | none =>
      match s.fetchAt s.pc with
      | .ok w t =>
        if t.cur.behind then
          (match t.oneWord w.2, t.cur.gang with
           | .next u, some g => .next (u.snapDone g)
           | o, _ => o)
        else if (t.followers t.cur).isEmpty then t.oneWord w.2 else t.gangWord (t.followers t.cur) w.2
      | _ =>
        match exec .fetchFault s with
        | .next t => .next (t.flushTrapped s.cur.id)
        | o => o

/-- The turn of a core: none when nothing there may issue. -/
noncomputable def State.issueOn (s : State) (ck : Nat) : Option Out :=
  (s.pick ck).map fun a => (s.focusOn a.id).issueCur

end Sys2Proof.Machine
end

