-- ==== Sys2Proof/Machine/Schedule.lean ====
section
/-!
DEFINITION. Whose turn it is.  The plan names turns; without one, cores that have something to issue and the other agents
alternate.  Every order that the manual allows between agents is the order of some plan (DESIGN CHOICE, notes/assumptions/4.md).
-/

namespace Sys2Proof.Machine

/-- Whether a plan may name an instruction as a step of another agent: it has no word, and is not itself a core's. -/
def Instr.isAgentStep : Instr → Bool
  | .illegalInstruction _ => false
  | .fetchFault => false
  | i => (encodeWord i).isNone

/-- The event of a protocol message (19 R363, R364, R372). -/
noncomputable def CohMsg.event (m : CohMsg) : Instr :=
  match m.ev with
  | 0 => .reqr m.die m.line
  | 1 => .reqw m.die m.line
  | 2 => .wb m.die m.line
  | 3 => .push m.die m.line
  | 4 => .fwdrd m.die m.line
  | 5 => .fwdwr m.die m.line
  | 6 => .inv m.die m.line
  | 7 => .recall m.die m.line
  | 8 => .updin m.die m.line
  | 9 => .data m.die m.line
  | 10 => .dataex m.die m.line
  | 11 => .ack m.die m.line
  | 12 => .wbdone m.die m.line
  | _ => .nack m.die m.line

/-- The core keys at which something may have to happen. -/
def State.busyCores (s : State) : List Nat :=
  let ks := s.cores.map (·.1) ++ s.allActs.map Act.coreKey
  ks.foldl (fun l k => if l.contains k then l else l ++ [k]) []

/-- Steps of a core's engines and hardware that may be due. -/
noncomputable def State.coreSteps (s : State) (ck : Nat) : List Instr :=
  let c := s.core ck
  c.queue.map (fun m => Instr.messageArrival m.n)
    ++ c.copies.map (fun x => Instr.copyCommandComplete ck x.n)
    ++ (if c.mq.isEmpty then [] else [.arrayGrant (ck / 8), .matrixCommandComplete ck])
    ++ (if c.active.refetch then [.planeRefetch ck 0] else []) ++ (if c.shadowP.refetch then [.planeRefetch ck 1] else [])
    ++ c.index.flatMap (fun x => [Instr.indexAccept ck x.n, Instr.nloadComplete ck x.n])
    ++ [.clauseStart ck, .activationResume ck, .activationPark ck]

/-- Steps for a context that may be due. -/
noncomputable def State.ctxSteps (s : State) (c : Nat) : List Instr :=
  let x := s.ctx c
  (if x.st = 3 then [.groupPlace c, .wakeBegin c] else []) ++ (if x.st = 6 then [.contextResetDone c] else [])
    ++ (if x.held.isEmpty then [] else [.faultRingRecheck c])
    ++ x.indexes.flatMap fun i => [Instr.indexApply c i.1, Instr.indexReclaim c i.1]

/-- Every step of another agent that may be due, in one order. -/
noncomputable def State.dueSteps (s : State) : List Instr :=
  (if s.dev.ready || s.dev.bootErr != 0 then [] else [.coldReset 0 0])
    ++ s.work.msgs.map (fun m => Instr.messageArrival m.n)
    ++ (s.allActs.filter fun a => match a.run with | .waiting _ => true | _ => false).map (fun a => Instr.waitEnd a.id)
    ++ s.busyCores.flatMap s.coreSteps
    ++ s.clusters.flatMap (fun k =>
        (if k.2.polyQ.isEmpty then [] else [Instr.vpolyRequestTake k.1]) ++ (if k.2.awake = 2 then [.clusterAwake k.1] else []))
    ++ (s.work.barriers.filter fun b => b.2.due).map (fun b => Instr.barrierPhaseComplete b.1)
    ++ s.work.queues.flatMap (fun q => [Instr.launchTakeUp q.1, .shadowStart q.1, .shadowCommit q.1])
    ++ s.work.launches.map (fun l => Instr.launchComplete l.q l.lseq)
    ++ s.ctxs.flatMap (fun c => s.ctxSteps c.1)
    ++ s.coh.msgs.map CohMsg.event
    ++ (if s.dev.ckpt.isSome then [.checkpointComplete 1] else [])
    ++ (s.links.filter fun l => l.2.st == 1 || l.2.st == 3).map (fun l => Instr.linkTrained (l.1 / 256) (l.1 % 256))
    ++ (s.dies.filter fun d => d.2.dstate == 3).map fun d => Instr.dieResetDone d.1

/-- The first of a list of steps that changes the state, taken. -/
def State.takeFirst (s : State) : List Instr → Option Out
  | [] => none
  | i :: is =>
    match exec i s with
    | .next t => if t = s then State.takeFirst s is else some (.next t)
    | o => some o

/-- A due step of another agent, found from a place in the list that moves with the clock, so that each gets its turn. -/
noncomputable def State.agentTurn (s : State) : Option Out :=
  let l := s.dueSteps
  let k := if l.isEmpty then 0 else s.sched.clock / 2 % l.length
  s.takeFirst (l.drop k ++ l.take k)

/-- The first core that has something to issue, taking turns by the clock. -/
noncomputable def State.coreTurn (s : State) : Option Out :=
  let l := s.busyCores
  let k := if l.isEmpty then 0 else s.sched.clock / 2 % l.length
  (l.drop k ++ l.take k).findSome? s.issueOn

/-- The passing of one step of time on a die (03 R66). [DESIGN CHOICE, notes/assumptions/8.md] -/
def State.tickDie (s : State) (d : Nat) : State :=
  s.modDie d fun x => { x with cycle := w64 (x.cycle + 1 + Config.cycles s.sched.clock) }

/-- The passing of one step of time. -/
def State.tick (s : State) : State :=
  (List.range 5).foldl State.tickDie (s.modSched fun q => { q with clock := q.clock + 1 })

/-- A turn of the plan. [DESIGN CHOICE, notes/assumptions/4.md] -/
noncomputable def State.turn (s : State) : Turn → Out
  | .event i => if Instr.isAgentStep i then exec i s else .next s
  | .issue ck => (s.issueOn ck).getD (.next s)

/-- A step without a plan. [DESIGN CHOICE, notes/assumptions/4.md] -/
noncomputable def State.freeTurn (s : State) : Out :=
  if s.sched.clock % 2 = 0 then ((s.coreTurn).orElse fun _ => s.agentTurn).getD (.next s)
  else ((s.agentTurn).orElse fun _ => s.coreTurn).getD (.next s)

/-- One step of the machine: time passes, and the plan's next turn is taken. [DESIGN CHOICE, notes/assumptions/3.md]
[DESIGN CHOICE, notes/assumptions/4.md] -/
noncomputable def State.advance (s : State) : Out :=
  match s.sched.plan with
  | t :: ts => (s.tick.modSched fun q => { q with plan := ts }).turn t
  | [] => s.tick.freeTurn

/-! ### An instruction where the next step fetches (DESIGN CHOICE, notes/assumptions/2.md) -/

/-- The physical and virtual address of the instruction. -/
def trialPc : Nat := 0x10000

/-- A context that runs in cluster 0 of die 0, with 256 pages of HBM and one translated page. -/
def trialCtx : Ctx :=
  { st := 3, swapped := true, root := 0x2000,
    desc := (List.range 32).map fun k => if k = 0 then 0x10000 else if k = 0xB8 / 8 then 0x100 else 0 }

/-- The page table: four nodes, and a leaf that allows every access at user level.
[DESIGN CHOICE, notes/assumptions/2.md] -/
def State.trialPages (s : State) : State :=
  (((s.wrN 0x2000 8 0x4001).wrN 0x4000 8 0x6001).wrN 0x6000 8 0x8001).wrN 0x8008 8 0x100FF

/-- A thread at the instruction, alone on core 0 of that cluster. -/
def State.trialAct (s : State) : State :=
  let id := s.sched.nextAct
  let keep := fun (a : Act) => a.coreKey != 0
  let rest : FMap Act := s.acts.filter fun p => keep p.2
  let rest := if s.cur.live && keep s.cur then rest.put s.cur.id s.cur else rest
  ((s.setActs rest).setCur { id := id, live := true }).modSched fun q =>
    { q with nextAct := id + 1, plan := [.issue 0] }

/-- A state whose next step runs the instruction whose bits are `w`: the bytes stored, a page that maps them, and a thread
whose PC is there. [DESIGN CHOICE, notes/assumptions/2.md] -/
def State.trial (s : State) (nbits w : Nat) : State :=
  let n := max 4 (nbits / 8)
  let s := (s.trialPages.wrN trialPc n w).wrN (tcmKey 0 0 0 0) 8 trialPc
  let s := (s.modCtx 0 fun _ => trialCtx).modCluster 0 fun k => { k with owner := some 0, awake := 1 }
  let s := (s.modDev fun d => { d with trip := false }).modCore 0 fun c => { c with frozen := false }
  (s.modCoh fun h => { h with tlb := [], poison := [], code := [] }).trialAct

end Sys2Proof.Machine
end

