-- ==== Sys2Proof/Machine/Step.lean ====
section
/-!
DEFINITION. The step of the machine, and where an instruction is placed for the next step to run it.
-/

namespace Sys2Proof.Machine

/-- One step: the turn of one agent. -/
noncomputable def step : State → Host.Outcome State Fault Refusal := State.advance

/-- The state with an instruction placed where the next step fetches (DESIGN CHOICE, notes/assumptions/2.md). -/
def State.withFetchWord (s : State) (nbits w : Nat) : State := s.trial nbits w

end Sys2Proof.Machine
end

