-- ==== Sys2Proof/Safety.lean ====
section
/-!
DEFINITION. The terms that claims are stated in: which bytes and fields of the state a step may change, what it leaves in
a register or a lane, and what a trap leaves.
-/

namespace Sys2Proof.Machine

/-! ### Frames -/

/-- Address `k` is one of the `n` bytes from `lo`. -/
def InSpan (k lo n : Nat) : Prop := lo ≤ k ∧ k < lo + n

/-- Every byte outside `p` reads after as it read before. -/
def SameMem (s t : State) (p : Nat → Prop) : Prop := ∀ k, ¬ p k → t.rd k = s.rd k

/-- Nothing but memory differs. -/
def OnlyMem (s t : State) : Prop := t.setMem s.mem = s

/-- The PC word of the issuing activation. -/
def State.pcSpan (s : State) (k : Nat) : Prop := InSpan k s.cur.wsKey 8

/-- The flag bytes ST[15:0]. -/
def State.flagSpan (s : State) (k : Nat) : Prop := InSpan k (s.cur.wsKey + 0x120) 2

/-- The word and the tail byte of register `d`, none for x0 (03 R60). -/
def State.regSpan (s : State) (d k : Nat) : Prop :=
  d ≠ 0 ∧ (InSpan k (s.cur.wsKey + 8 * d) 8 ∨ k = s.cur.wsKey + 0x100 + d)

/-- A state with memory, the issuer's windows, its vector lanes and the number of the next window taken from another. -/
def State.withoutResult (t s : State) : State :=
  ((t.setMem s.mem).modCur fun a => { a with wins := s.cur.wins, vr := s.cur.vr }).modSched fun q =>
    { q with nextWin := s.sched.nextWin }

/-- The instruction answers a next state, and `P` holds of it. -/
abbrev Runs (i : Instr) (s : State) (P : State → Prop) : Prop := ∃ t, exec i s = .next t ∧ P t

/-! ### What an instruction leaves -/

/-- Register `d` holds `v` with tail byte `tl`; a write to x0 is discarded. -/
def State.Holds (t : State) (d v tl : Nat) : Prop := d ≠ 0 → t.reg d = v % 2 ^ 64 ∧ t.tb d = tl % 256

/-- From `s` to `t`: the PC has moved past `n` bytes, register `d` holds `v` with tail `tl`, and nothing else differs. -/
structure RegResult (s t : State) (n d v tl : Nat) : Prop where
  pc : t.pc = (s.pc + n) % 2 ^ 56
  val : t.Holds d v tl
  only : OnlyMem s t
  frame : SameMem s t fun k => s.pcSpan k ∨ s.regSpan d k

/-- From `s` to `t`: the PC has moved past `n` bytes and nothing else differs. -/
structure Advanced (s t : State) (n : Nat) : Prop where
  pc : t.pc = (s.pc + n) % 2 ^ 56
  only : OnlyMem s t
  frame : SameMem s t s.pcSpan

/-- From `s` to `t`: the PC is `v` and nothing else differs. -/
structure Jumped (s t : State) (v : Nat) : Prop where
  pc : t.pc = v % 2 ^ 56
  only : OnlyMem s t
  frame : SameMem s t s.pcSpan

/-- A window of `la` instructions has opened over register `d` with the value it had (03 R72, R73); none for la = 0 or
x0. -/
def Opened (s t : State) (la d : Nat) : Prop :=
  if la = 0 ∨ d = 0 then t.cur.wins = s.cur.wins
  else ∃ w : Win, w.left = la ∧ w.old = [(d, s.reg d, s.tb d)] ∧ t.cur.wins = s.cur.wins ++ [w]

/-- As `RegResult`, for a long-latency instruction of four bytes whose window is `la`. -/
structure LongResult (s t : State) (la d v tl : Nat) : Prop where
  pc : t.pc = (s.pc + 4) % 2 ^ 56
  val : t.Holds d v tl
  win : Opened s t la d
  only : t.withoutResult s = s
  frame : SameMem s t fun k => s.pcSpan k ∨ s.regSpan d k

/-- As `LongResult`, with the image `i` in register `d` and the flags `fl` ORed into ST (02 R44, 05 R123). -/
structure FpResult (s t : State) (la d : Nat) (i : Image) (fl : Nat) : Prop where
  pc : t.pc = (s.pc + 4) % 2 ^ 56
  val : t.Holds d i.bits i.tail
  flags : t.st % 65536 = (Nat.lor (s.st % 65536) fl) % 65536
  win : Opened s t la d
  only : t.withoutResult s = s
  frame : SameMem s t fun k => s.pcSpan k ∨ s.flagSpan k ∨ s.regSpan d k

/-! ### Conditions, as their tables give them -/

/-- The condition `x` of `cmp` on two operands as they are read signed and unsigned (05 R111). -/
def CmpCond (x : Nat) (A B : Int) (Au Bu : Nat) : Prop :=
  match x with
  | 0 => A = B
  | 1 => A ≠ B
  | 2 => A < B
  | 3 => B ≤ A
  | 4 => Au < Bu
  | 5 => Bu ≤ Au
  | _ => Au &&& Bu ≠ 0

/-- The condition `x` of `csel` on a register's 64 bits (05 R112). -/
def SelCond (x v : Nat) : Prop :=
  match x with
  | 0 => v ≠ 0
  | 1 => v = 0
  | 2 => v.testBit 63 = true
  | 3 => v.testBit 63 = false
  | 4 => v.testBit 0 = true
  | _ => v.testBit 0 = false

/-- The condition `x` of `c.sk` (05 R121). -/
def SkipCond (x v : Nat) : Prop :=
  match x with
  | 0 => v = 0
  | 1 => v ≠ 0
  | n => SelCond n v

/-! ### Vector lanes -/

/-- An image as an element of width `wd` holds it: no tail below 16 bits (08 R194). -/
def asElem (wd : Nat) (i : Image) : Image := ⟨i.bits % 2 ^ wd, if wd = 8 then 0 else i.tail % 4⟩

/-- From `s` to `t`: every element of register `d` whose lane takes part under mask `m` is `f`, an element of 64 bits by its first
lane; the lanes of the other elements and of other registers are unchanged; the flags `fl` are ORed into ST and the PC moves past the instruction
(08 R196). -/
structure ElemResult (s t : State) (wd m d : Nat) (f : Nat → Image) (fl : Nat) : Prop where
  pc : t.pc = (s.pc + 4) % 2 ^ 56
  val : ∀ j, j < perReg wd s.cur.grant → s.maskOn m (laneIx wd j) = true → elemOf t.cur.vr wd d j = asElem wd (f j)
  off : ∀ i, i < 64 →
    (∀ j, j < perReg wd s.cur.grant → s.maskOn m (laneIx wd j) = true → i < laneIx wd j ∨ laneIx wd j + max 1 (wd / 32) ≤ i) →
    t.lane d i = s.lane d i
  others : ∀ k, (k < d * 64 ∨ d * 64 + s.cur.grant ≤ k) → FMap.getD t.cur.vr k 0 = FMap.getD s.cur.vr k 0
  flags : t.st % 65536 = (Nat.lor (s.st % 65536) fl) % 65536
  only : t.withoutResult s = s
  wins : t.cur.wins = s.cur.wins
  frame : SameMem s t fun k => s.pcSpan k ∨ s.flagSpan k

/-- The same for a form over lanes: `f` gives the 32 bits and the tail of each lane of the grant that takes part. -/
structure LaneResult (s t : State) (m d : Nat) (f : Nat → Nat) : Prop where
  pc : t.pc = (s.pc + 4) % 2 ^ 56
  val : ∀ i, i < s.cur.grant → s.maskOn m i = true → t.lane d i = f i
  off : ∀ i, i < 64 → (s.cur.grant ≤ i ∨ s.maskOn m i = false) → t.lane d i = s.lane d i
  others : ∀ k, (k < d * 64 ∨ d * 64 + s.cur.grant ≤ k) → FMap.getD t.cur.vr k 0 = FMap.getD s.cur.vr k 0
  only : t.withoutResult s = s
  wins : t.cur.wins = s.cur.wins
  frame : SameMem s t s.pcSpan

/-- The flags of the elements that take part under mask `m` (08 R197). -/
def State.elemFlags (s : State) (wd m : Nat) (f : Nat → Nat) : Nat :=
  ((List.range (perReg wd s.cur.grant)).filter fun j => s.maskOn m (laneIx wd j)).foldl (fun k j => k ||| f j) 0

/-- From `s` to `t`: elements of the group at register `d` (08 R195) hold the images of `xs`, behind a window of `la`
instructions; the flags `fl` are ORed into ST and the PC moves past the instruction. -/
structure VecResult (s t : State) (la wd d : Nat) (xs : List (Nat × Image)) (fl : Nat) : Prop where
  pc : t.pc = (s.pc + 4) % 2 ^ 56
  val : t.cur.vr = putGroup s.cur.vr wd s.cur.grant d xs
  flags : t.st % 65536 = (Nat.lor (s.st % 65536) fl) % 65536
  win : if la = 0 then t.cur.wins = s.cur.wins else ∃ w : Win, w.left = la ∧ t.cur.wins = s.cur.wins ++ [w]
  only : t.withoutResult s = s
  frame : SameMem s t fun k => s.pcSpan k ∨ s.flagSpan k

/-! ### Traps (24 R450) -/

/-- From `s` to `t`, outside a shadow: CAUSE, TVAL and the PC word hold what the trap gives, the issuer is in trap-wait
without a reservation, detached from its gang, its registers as they were, and one message of class 24 is on its way with
HANDLE, CAUSE, TVAL and PC. -/
structure Trapped (s t : State) (code sub tval ret : Nat) : Prop where
  cause : t.ws 0x128 8 = (code + 256 * sub) % 2 ^ 64
  val : t.ws 0x130 8 = tval % 2 ^ 64
  pc : t.pc = ret % 2 ^ 56
  act : t.cur = { s.cur with run := .trapWait, resv := none, attached := false, wins := [] }
  regs : ∀ k, k < 32 → t.reg k = s.reg k ∧ t.tb k = s.tb k
  status : t.st = s.st
  frame : SameMem s t fun k => s.pcSpan k ∨ InSpan k (s.cur.wsKey + 0x128) 16
  message : ∃ m : Msg, t.work = { s.work with msgs := s.work.msgs ++ [m], nextMsg := s.work.nextMsg + 1 } ∧ m.cls = 24
    ∧ m.words = [s.cur.handle, code + 256 * sub, tval % 2 ^ 64, ret % 2 ^ 56, 0, 0, 0, 0] ∧ m.ctx = s.cur.ctx
    ∧ (m.cluster < ctlCluster → m.coreKey = s.cur.coreKey)
  others : t.acts = s.acts ∧ t.cores = s.cores ∧ t.clusters = s.clusters ∧ t.ctxs = s.ctxs ∧ t.coh = s.coh
    ∧ t.links = s.links ∧ t.dies = s.dies ∧ t.dev = s.dev ∧ t.sched = s.sched

/-! ### Stores -/

/-- No shadow runs (17): a write then reaches nothing but what it names. -/
def State.NoShadow (s : State) : Prop :=
  (∀ q ∈ s.work.queues, q.2.shadow.st = 0) ∧ (∀ g ∈ s.work.groups, g.shadow = none) ∧ s.cur.shadow = none

/-- From the state `s` in which a store of `n` bytes at key `k` has passed its checks, to `t`: the bytes hold `v`, the flags
`fl` are ORed into ST, the PC moves past the instruction's `len` bytes, and every other byte is unchanged; a store into the
PC word or ST itself decides what they hold (03 R62).  Of the issuer only the count of its posted writes may change. -/
structure Stored (s t : State) (len k n v fl : Nat) : Prop where
  bytes : t.rdN k n = v % 256 ^ n
  pc : ¬ (k < s.cur.wsKey + 8 ∧ s.cur.wsKey < k + n) → t.pc = (s.pc + len) % 2 ^ 56
  flags : ¬ (k < s.cur.wsKey + 0x122 ∧ s.cur.wsKey + 0x120 < k + n) → t.st % 65536 = (Nat.lor (s.st % 65536) fl) % 65536
  frame : SameMem s t fun a => InSpan a k n ∨ s.pcSpan a ∨ (fl ≠ 0 ∧ s.flagSpan a)
  cur : t.cur = { s.cur with posted := t.cur.posted }

/-- The same for a list of parts, each a key, a count of bytes and a value, written in order: a part's bytes hold its value
where no later part overlaps it. -/
structure StoredParts (s t : State) (ps : List (Nat × Nat × Nat)) (fl : Nat) : Prop where
  bytes : ∀ (i : Nat) (k n v : Nat), ps[i]? = some (k, n, v) →
    (∀ (j : Nat) (q : Nat × Nat × Nat), i < j → ps[j]? = some q → k + n ≤ q.1 ∨ q.1 + q.2.1 ≤ k) → t.rdN k n = v % 256 ^ n
  frame : SameMem s t fun a => (∃ p ∈ ps, InSpan a p.1 p.2.1) ∨ s.pcSpan a ∨ (fl ≠ 0 ∧ s.flagSpan a)
  cur : t.cur = { s.cur with posted := t.cur.posted }

/-- Whether nothing keeps a release at a scope waiting (26 R465): the scope is below the die, or no posted write of the
issuer is on a link that retrains and none has been lost. -/
def State.ReleaseFree (s : State) (scope : Nat) : Prop :=
  scope < 5 ∨ (s.cur.lost = 0 ∧ ∀ e ∈ s.links, e.2.st = 3 → ∀ p ∈ e.2.posted, p.act ≠ s.cur.id)

/-- The state once every posted write of the issuer is acknowledged, for a scope that asks for it (26 R465). -/
def State.settled (s : State) (scope : Nat) : State :=
  if scope < 5 then s
  else
    (s.setLinks (s.links.mapV fun _ l => { l with posted := l.posted.filter fun p => p.act != s.cur.id })).modCur fun a =>
      { a with posted := 0 }

/-- From `s` to `t`: command `c` of an engine (0 copy, 1 matrix, 2 index) is the last of the issuing core's, its number is the
next of its timeline and is written to `d`, and nothing else changes (07 R187). -/
structure Queued (s t : State) (kind d : Nat) (c : Cmd) : Prop where
  num : c.n = (s.core s.cur.coreKey).issued.getD kind 0 + 1
  cmds : (t.core s.cur.coreKey).cmds kind = (s.core s.cur.coreKey).cmds kind ++ [c]
  issued : (t.core s.cur.coreKey).issued = (s.core s.cur.coreKey).issued.set kind c.n
  pc : t.pc = (s.pc + 4) % 2 ^ 56
  val : t.Holds d c.n 0
  only : (t.setMem s.mem).setCores s.cores = s
  cores : ∀ k, k ≠ s.cur.coreKey → t.core k = s.core k
  frame : SameMem s t fun k => s.pcSpan k ∨ s.regSpan d k

/-- From `s` to `t`: the issuing core is `c`, the PC moves past the instruction, and nothing else changes. -/
structure CoreResult (s t : State) (c : Core) : Prop where
  core : t.core s.cur.coreKey = c
  others : ∀ k, k ≠ s.cur.coreKey → t.core k = s.core k
  pc : t.pc = (s.pc + 4) % 2 ^ 56
  only : (t.setMem s.mem).setCores s.cores = s
  frame : SameMem s t s.pcSpan

/-- From `s` to `t`: the issuer waits as `w` says with its PC at the instruction; the wait is a yield point, which restarts the
watchdog at the die's cycle, and nothing else changes (10 R254, R266, R269). -/
structure Blocked (s t : State) (w : Wait) : Prop where
  act : t.cur = { s.cur with run := .waiting w, resv := none, wd := s.cycle s.cur.die, atYield := true, wins := [] }
  only : t.setCur s.cur = s

/-! ### IEEE 754 rounding -/

/-- The magnitude encoding that rounding the nonzero value m × 2^e of a sign to a format with infinities gives, under the
modes to nearest even, toward zero, down, up, and to nearest away (0 to 4): the value is a multiple `q` of the last place's
weight and a remainder `r / den` of it. -/
def ieeeRound (f : Fmt) (mode : Nat) (neg : Bool) (m : Nat) (e : Int) : Nat :=
  let k : Int := max (Nat.log2 m + e) (1 - f.bias)
  let u := k - f.mbits
  let num := m * 2 ^ (e - u).toNat
  let den := 2 ^ (u - e).toNat
  let q := num / den
  let r := num % den
  let up : Bool :=
    match mode with
    | 0 => decide (den < 2 * r) || (decide (den = 2 * r) && q % 2 == 1)
    | 1 => false
    | 2 => neg && r != 0
    | 3 => !neg && r != 0
    | _ => decide (den ≤ 2 * r)
  let n := if up then q + 1 else q
  let mag := if n < 2 ^ f.mbits then n else (k + f.bias).toNat * 2 ^ f.mbits + (n - 2 ^ f.mbits)
  let away := decide (mode = 0 ∨ mode = 4) || (decide (mode = 2) && neg) || (decide (mode = 3) && !neg)
  if f.maxEnc < mag then (if away then f.infEnc else f.maxEnc) else mag

/-! ### Classes of instructions -/

/-- The forms that 24 R451 gives to the supervisor: each traps PRIV at user level. -/
def Instr.supervisor : Instr → Bool
  | .ptload _ _ _ | .rngset _ _ _ | .tlbinv _ _ _ | .heatrd _ _ _ | .heatage _ _ _ | .pfreplay _ _ _ | .ckpt _ _ _ => true
  | .tret _ _ | .tretKill _ _ | .tretFrz _ _ | .wpset _ _ _ | .cfreeze _ _ | .cthaw _ _ => true
  | .cswapIn _ _ | .cswapFast _ _ | .cswapOut _ _ | .cswapCreate _ _ | .cswapSeal _ _ | .cswapReset _ _ => true
  | _ => false

end Sys2Proof.Machine
end

