-- ==== Sys2Proof/Certificates/Slice0/Obligations.lean ====
section
/-!
DEFINITION. The statements about the model, from the numbered rules of the manual.  `Runs i s P` says that instruction `i`
answers a next state of which `P` holds; `RegResult`, `Advanced` and their like say also what stays unchanged.
-/

open Sys2Proof Sys2Proof.Machine

/-! ### Reset, the step and the encoding -/

/-- What the manual says of cold reset: every link is down (26 R457); READY, DEVNUM and SET are 0 and PCAP is 3200 W
(27 R472); every context is empty (24 R452); CYCLE is 0 on every die (03 R66).  Memory at reset is in canonical form and lists nothing; what an unlisted byte reads as is the model's choice
(DESIGN CHOICE, notes/assumptions/1.md). -/
def Obligations.ResetState : Prop :=
  ((∀ k, (State.reset.link k).st = 0)
     ∧ State.reset.dev.ready = false ∧ State.reset.dev.devnum = 0 ∧ State.reset.dev.devSet = false
     ∧ State.reset.dev.trip = false ∧ State.reset.dev.pcap = 3200 ∧ State.reset.dev.logBase = 0 ∧ State.reset.dev.awake = 0
     ∧ (∀ c, (State.reset.ctx c).st = 0 ∧ (State.reset.ctx c).wdog = 28 ∧ (State.reset.ctx c).slice = 20
         ∧ (State.reset.ctx c).shallot = 0 ∧ (State.reset.ctx c).frzval = 0)
     ∧ (∀ d, (State.reset.die d).cycle = 0 ∧ (State.reset.die d).carve = 0)
     ∧ State.reset.allActs = [])
    ∧ (Memory.wf State.reset.mem = true ∧ ∀ k, State.reset.rd k = 0)

/-- The canonical form of memory is an invariant of every step, from every state that has it. -/
def Obligations.StepKeepsMemoryCanonical : Prop :=
  ∀ s t : State, Memory.wf s.mem = true → step s = .next t → Memory.wf t.mem = true

/-- A turn of a core runs the instruction that its decoder reads at the PC of the activation whose turn it is (03 R57,
10 R257).  The premises say that the plan gives the turn to a core, that the core has an activation to issue, alone in its
gang, without an error to raise, whose WP is accepted, whose fetch succeeds, and that no window is open on the core.
Where it rests on a reading or a choice of the model, that is: DESIGN CHOICE, notes/assumptions: 3.md, 4.md; DEDUCED, notes/assumptions: 14.md. -/
def Obligations.StepRunsDecoded : Prop :=
  ∀ (s t : State) (ck : Nat) (ts : List Turn) (a : Act) (wide : Bool) (w : Nat) (i : Instr),
    let u := s.tick.modSched fun q => { q with plan := ts }
    let f := (u.focusOn a.id).modMyCore fun c => { c with cur := c.cur.set (u.focusOn a.id).cur.pri (u.focusOn a.id).cur.slot }
    s.sched.plan = .issue ck :: ts → u.pick ck = some a → f.cur.wpOk = true → f.cur.firstLate = none →
    f.fetchAt f.pc = .ok (wide, w) t → t.cur.behind = false → t.followers t.cur = [] → t.laneWait w = false →
    (∀ b ∈ t.begin.allActs, b.coreKey = t.cur.coreKey → b.wins = []) → decodeWord w = .ok i →
    step s = match exec i t.begin with
      | .next x => .next (t.finish [] i x)
      | o => o

/-- The decoder reads back every well-formed instruction from the word that the encoder gives it.  An instruction's word has the length that bit 0 gives it (03 R67), so that laying it out in bytes and decoding those
gives back the instruction and its length. -/
def Obligations.DecodeEncode : Prop :=
  (∀ (i : Instr) (n w : Nat), i.wf = true → encodeWord i = some (n, w) → decodeWord w = .ok i)
    ∧ (∀ (i : Instr) (bs rest : List (BitVec 8)), i.wf = true → encode i = some bs → decode (bs ++ rest) = .ok (i, bs.length))

/-- Words that the manual writes out decode to the instructions it names for them. -/
def Obligations.DecodeWords : Prop :=
  decodeWord 0x204E64B1 = .ok (.fadd .f32 9 6 7 1) ∧ decodeWord 0x28B0 = .ok (.cSk 5 1 2)
    ∧ decodeWord 0x00AE62FB = .ok (.lstatDreset 5 6)

/-- Every form that 24 R451 gives to the supervisor traps PRIV at user level with the instruction's word as TVAL, and does
nothing else (03 R80).
Where it rests on a reading or a choice of the model, that is: DEDUCED, notes/assumptions: 17.md. -/
def Obligations.SupervisorFormsTrapAtUser : Prop :=
  ∀ (i : Instr) (s : State) (n w : Nat), Instr.supervisor i = true → s.cur.level = .user → s.cur.shadow = none →
    encodeWord i = some (n, w) → Runs i s fun t => Trapped s t 0x02 0 w s.pc

/-! ### Integer results (05) -/

/-- `res` and `sat` of R105: the residue modulo 2^n, sign-extended for w from 0 to 3 and zero-extended for 4 to 6; `sat`
clamps first. -/
def Obligations.ResultExtension : Prop :=
  ∀ (w : IW) (y : Int),
    res w y < 2 ^ 64 ∧ ((res w y : Int) - y) % 2 ^ nbits w = 0
      ∧ (wSigned w = true → - 2 ^ (nbits w - 1) ≤ (BitVec.ofNat 64 (res w y)).toInt ∧ (BitVec.ofNat 64 (res w y)).toInt < 2 ^ (nbits w - 1))
      ∧ (wSigned w = false → res w y < 2 ^ nbits w)
      ∧ (wSigned w = true → (BitVec.ofNat 64 (sat w y)).toInt = max (- 2 ^ (nbits w - 1)) (min y (2 ^ (nbits w - 1) - 1)))
      ∧ (wSigned w = false → (sat w y : Int) = max 0 (min y (2 ^ nbits w - 1)))

/-- R107: each instruction of major 0x00 writes its result with tail 0x00 and changes nothing else.  R111, R112: `cmp` writes 1 or 0 by its condition; `csel` moves a register with its tail by the old value of d. -/
def Obligations.IntegerRegisterResults : Prop :=
  (∀ (s : State) (w : IW) (d a b : Nat), d < 32 →
     let A := s.sreg w a
     let B := s.sreg w b
     let Au := s.ureg w a
     let Bu := s.ureg w b
     let n := nbits w
     Runs (.add w d a b) s (RegResult s · 4 d (res w (A + B)) 0)
       ∧ Runs (.sub w d a b) s (RegResult s · 4 d (res w (A - B)) 0)
       ∧ Runs (.and w d a b) s (RegResult s · 4 d (res w (Au &&& Bu : Nat)) 0)
       ∧ Runs (.or w d a b) s (RegResult s · 4 d (res w (Au ||| Bu : Nat)) 0)
       ∧ Runs (.xor w d a b) s (RegResult s · 4 d (res w (Au ^^^ Bu : Nat)) 0)
       ∧ Runs (.andn w d a b) s (RegResult s · 4 d (res w (Au &&& (2 ^ n - 1 - Bu) : Nat)) 0)
       ∧ Runs (.orn w d a b) s (RegResult s · 4 d (res w (Au ||| (2 ^ n - 1 - Bu) : Nat)) 0)
       ∧ Runs (.min w d a b) s (RegResult s · 4 d (res w (min A B)) 0)
       ∧ Runs (.max w d a b) s (RegResult s · 4 d (res w (max A B)) 0)
       ∧ Runs (.minn w d a b) s (RegResult s · 4 d (res w (min Au Bu : Nat)) 0)
       ∧ Runs (.maxn w d a b) s (RegResult s · 4 d (res w (max Au Bu : Nat)) 0)
       ∧ Runs (.adds w d a b) s (RegResult s · 4 d (sat w (if wSigned w then A + B else Au + Bu)) 0)
       ∧ Runs (.subs w d a b) s (RegResult s · 4 d (sat w (if wSigned w then A - B else Au - Bu)) 0)
       ∧ Runs (.absd w d a b) s
           (RegResult s · 4 d ((if wSigned w then (A - B).natAbs else (Au - Bu : Int).natAbs) % 2 ^ n) 0))
    ∧ (∀ (s : State) (w : IW) (d a b x : Nat), d < 32 →
         let A := s.sreg w a
         let B := s.sreg w b
         let Au := s.ureg w a
         let Bu := s.ureg w b
         (x < 7 → (CmpCond x A B Au Bu → Runs (.cmp w d a b x) s (RegResult s · 4 d 1 0))
             ∧ (¬ CmpCond x A B Au Bu → Runs (.cmp w d a b x) s (RegResult s · 4 d 0 0)))
           ∧ (x < 6 → (SelCond x (s.reg d) → Runs (.csel d a b x) s (RegResult s · 4 d (s.reg a) (s.tb a)))
               ∧ (¬ SelCond x (s.reg d) → Runs (.csel d a b x) s (RegResult s · 4 d (s.reg b) (s.tb b)))))
    ∧ (∀ w : Nat, w < 2 ^ 32 → w % 2 = 1 →
         let major := bits w 1 6
         let fn := bits w 25 4
         (major = 0 → (bits w 29 3 ≠ 0 ∨ bits w 22 3 = 7 ∨ 14 ≤ fn) → ∃ e, decodeWord w = .error e)
           ∧ (major = 3 → (2 ≤ fn ∨ (fn = 0 ∧ (bits w 29 3 = 7 ∨ bits w 22 3 = 7)) ∨ (fn = 1 ∧ (6 ≤ bits w 29 3 ∨ bits w 22 3 ≠ 0))) →
               ∃ e, decodeWord w = .error e))

/-- R108: each instruction of major 0x01 writes its 64-bit result with tail 0x00 and changes nothing else.  R120: the 16-bit forms that write a register. -/
def Obligations.ImmediateAndCompressedResults : Prop :=
  (∀ (s : State) (d a imm : Nat), d < 32 →
     let I := sint imm 12
     let V := s.reg a
     Runs (.addi d a imm) s (RegResult s · 4 d ((V + I) % 2 ^ 64).toNat 0)
       ∧ Runs (.andi d a imm) s (RegResult s · 4 d (V &&& (I % 2 ^ 64).toNat) 0)
       ∧ Runs (.ori d a imm) s (RegResult s · 4 d (V ||| (I % 2 ^ 64).toNat) 0)
       ∧ Runs (.xori d a imm) s (RegResult s · 4 d (V ^^^ (I % 2 ^ 64).toNat) 0)
       ∧ Runs (.mini d a imm) s (RegResult s · 4 d (min (sint V 64) I % 2 ^ 64).toNat 0)
       ∧ Runs (.maxi d a imm) s (RegResult s · 4 d (max (sint V 64) I % 2 ^ 64).toNat 0))
    ∧ (∀ (s : State) (d src imm : Nat), d < 32 →
         Runs (.cMv d src) s (RegResult s · 2 d (s.reg src) (s.tb src))
           ∧ Runs (.cAdd d src) s (RegResult s · 2 d ((s.reg d + s.reg src) % 2 ^ 64) 0)
           ∧ Runs (.cSub d src) s (RegResult s · 2 d (((s.reg d : Int) - s.reg src) % 2 ^ 64).toNat 0)
           ∧ Runs (.cXor d src) s (RegResult s · 2 d (s.reg d ^^^ s.reg src) 0)
           ∧ Runs (.cAddi d imm) s (RegResult s · 2 d ((s.reg d + sint imm 6) % 2 ^ 64).toNat 0)
           ∧ Runs (.cLi d imm) s (RegResult s · 2 d (sint imm 6 % 2 ^ 64).toNat 0)
           ∧ Runs (.cSll d imm) s (RegResult s · 2 d (s.reg d * 2 ^ imm % 2 ^ 64) 0)
           ∧ Runs (.cSrl d imm) s (RegResult s · 2 d (s.reg d / 2 ^ imm) 0)
           ∧ Runs (.cSra d imm) s (RegResult s · 2 d (sint (s.reg d) 64 / 2 ^ imm % 2 ^ 64).toNat 0)
           ∧ Runs (.cAndi d imm) s (RegResult s · 2 d (s.reg d &&& (sint imm 5 % 2 ^ 64).toNat) 0))
    ∧ (∀ w : Nat, w < 2 ^ 32 → w % 2 = 1 → bits w 1 6 = 1 → 6 ≤ bits w 17 3 → ∃ e, decodeWord w = .error e)

/-- R109: the shifts and rotates, whose amount is the register's low six bits or the immediate, modulo the width.  R109, R110: the bit counts and reversals say which bits of the result come from where, and the field forms move the
field that reg(b) names. -/
def Obligations.ShiftAndBitFieldResults : Prop :=
  (∀ (s : State) (w : IW) (d a b imm hi : Nat), d < 32 →
     let n := nbits w
     let U := s.ureg w a
     let S := s.sreg w a
     let r := s.reg b % 64 % n
     let k := (hi * 32 + imm) % n
     let sll := fun m : Nat => res w (U * 2 ^ m : Nat)
     let srl := fun m : Nat => res w (U / 2 ^ m : Nat)
     let sra := fun m : Nat => res w (S / 2 ^ m)
     let rol := fun m : Nat => res w ((U * 2 ^ m + U / 2 ^ (n - m)) % 2 ^ n : Nat)
     let ror := fun m : Nat => res w ((U / 2 ^ m + U * 2 ^ (n - m)) % 2 ^ n : Nat)
     (Runs (.sll w d a b) s (RegResult s · 4 d (sll r) 0) ∧ Runs (.sllImm w d a imm hi) s (RegResult s · 4 d (sll k) 0))
       ∧ (Runs (.srl w d a b) s (RegResult s · 4 d (srl r) 0) ∧ Runs (.srlImm w d a imm hi) s (RegResult s · 4 d (srl k) 0))
       ∧ (Runs (.sra w d a b) s (RegResult s · 4 d (sra r) 0) ∧ Runs (.sraImm w d a imm hi) s (RegResult s · 4 d (sra k) 0))
       ∧ (Runs (.rol w d a b) s (RegResult s · 4 d (rol r) 0) ∧ Runs (.rolImm w d a imm hi) s (RegResult s · 4 d (rol k) 0))
       ∧ (Runs (.ror w d a b) s (RegResult s · 4 d (ror r) 0) ∧ Runs (.rorImm w d a imm hi) s (RegResult s · 4 d (ror k) 0)))
    ∧ (∀ (s : State) (w : IW) (d a b : Nat), d < 32 →
         let n := nbits w
         let U := s.ureg w a
         let pos := s.reg b % 64
         let L := min (s.reg b / 256 % 64 + 1) (64 - pos)
         let F := s.reg a / 2 ^ pos % 2 ^ L
         (∃ z, Runs (.clz w d a) s (RegResult s · 4 d z 0) ∧ U < 2 ^ (n - z) ∧ z ≤ n ∧ (z < n → 2 ^ (n - z - 1) ≤ U))
           ∧ (∃ z, Runs (.ctz w d a) s (RegResult s · 4 d z 0) ∧ U % 2 ^ z = 0 ∧ z ≤ n ∧ (z < n → U / 2 ^ z % 2 = 1))
           ∧ Runs (.pop w d a) s (RegResult s · 4 d ((List.range n).countP fun i => U.testBit i) 0)
           ∧ (∃ v : Nat, Runs (.brev w d a) s (RegResult s · 4 d (res w v) 0) ∧ v < 2 ^ n
               ∧ ∀ i, i < n → v.testBit (n - 1 - i) = U.testBit i)
           ∧ (∃ v : Nat, Runs (.bswap w d a) s (RegResult s · 4 d (res w v) 0) ∧ v < 2 ^ n
               ∧ ∀ j, j < n / 8 → v / 256 ^ (n / 8 - 1 - j) % 256 = U / 256 ^ j % 256)
           ∧ Runs (.ext d a b) s (RegResult s · 4 d (sint F L % 2 ^ 64).toNat 0)
           ∧ Runs (.extn d a b) s (RegResult s · 4 d F 0)
           ∧ ∃ v, Runs (.ins d a b) s (RegResult s · 4 d v 0)
               ∧ ∀ i, i < 64 → v.testBit i = if pos ≤ i ∧ i < pos + L then (s.reg a).testBit (i - pos) else (s.reg d).testBit i)

/-- R113, R114: the products and quotients, with the window of la instructions over d; a divisor of 0 gives -1 and the
dividend.
Where it rests on a reading or a choice of the model, that is: DEDUCED, notes/assumptions: 14.md. -/
def Obligations.MultiplyAndDivide : Prop :=
  ∀ (s : State) (w : IW) (d a b la : Nat), d < 32 →
    let n := nbits w
    let A := s.sreg w a
    let B := s.sreg w b
    let Au := s.ureg w a
    let Bu := s.ureg w b
    let q := if B = 0 then -1 else Int.tdiv A B
    let r := if B = 0 then A else A - q * B
    let qu : Int := if Bu = 0 then -1 else (Au / Bu : Nat)
    let ru : Nat := if Bu = 0 then Au else Au - Au / Bu * Bu
    Runs (.mul w d a b la) s (LongResult s · la d (res w (A * B)) 0)
      ∧ Runs (.mulh w d a b la) s (LongResult s · la d (res w (A * B / 2 ^ n)) 0)
      ∧ Runs (.mulhn w d a b la) s (LongResult s · la d (res w (Au * Bu / 2 ^ n : Nat)) 0)
      ∧ Runs (.div w d a b la) s (LongResult s · la d (res w q) 0)
      ∧ Runs (.divn w d a b la) s (LongResult s · la d (res w qu) 0)
      ∧ Runs (.rem w d a b la) s (LongResult s · la d (res w r) 0)
      ∧ Runs (.remn w d a b la) s (LongResult s · la d (res w ru) 0)

/-- R115, R116: the upper immediates, and the pointer forms that never trap.  R116, R117: the sum stays under the pointer's tag, or the instruction traps TAGOV with the 64-bit sum and d unchanged. -/
def Obligations.PointersAndUpperImmediates : Prop :=
  (∀ (s : State) (d a b imm : Nat), d < 32 →
     let I := sint imm 20
     Runs (.ldhi d imm) s (RegResult s · 4 d ((I * 4096) % 2 ^ 64).toNat 0)
       ∧ Runs (.pcrel d imm) s (RegResult s · 4 d ((s.pc + I * 4096) % 2 ^ 64).toNat 0)
       ∧ Runs (.ptag d a b) s (RegResult s · 4 d (s.reg b % 256 * 2 ^ 56 + s.reg a % 2 ^ 56) 0)
       ∧ Runs (.pfmt d a) s (RegResult s · 4 d (s.reg a / 2 ^ 59) 0)
       ∧ Runs (.pclr d a) s (RegResult s · 4 d (s.reg a % 2 ^ 56) 0))
    ∧ (∀ (s : State) (d a b : Nat), d < 32 →
         let go := fun (i : Instr) (B : Int) =>
           let y : Int := (s.reg a % 2 ^ 56 : Nat) + B
           (0 ≤ y ∧ y < 2 ^ 56 → Runs i s (RegResult s · 4 d (s.reg a / 2 ^ 56 * 2 ^ 56 + y.toNat) 0))
             ∧ (s.cur.shadow = none → y < 0 ∨ 2 ^ 56 ≤ y → Runs i s (Trapped s · 0x06 0 (((s.reg a : Int) + B) % 2 ^ 64).toNat s.pc))
         go (.padd d a b) (sint (s.reg b) 64) ∧ go (.psub d a b) (- sint (s.reg b) 64))
    ∧ (∀ (s : State) (w : IW) (d a b imm : Nat), d < 32 →
         Runs (.add w d a b) s (RegResult s · 4 d (res w (s.sreg w a + s.sreg w b)) 0)
           ∧ Runs (.sub w d a b) s (RegResult s · 4 d (res w (s.sreg w a - s.sreg w b)) 0)
           ∧ Runs (.addi d a imm) s (RegResult s · 4 d ((s.reg a + sint imm 12) % 2 ^ 64).toNat 0))

/-- R118 to R120: branches go to their target when their condition holds and to the next instruction otherwise; nothing
else changes.  R119 to R121: jumps, whose target is taken before the link is written, and the skip of the next instructions.
Where it rests on a reading or a choice of the model, that is: DEDUCED, notes/assumptions: 13.md. -/
def Obligations.BranchesAndJumps : Prop :=
  (∀ (s : State) (a b imm : Nat),
     let go := fun (i : Instr) (n disp : Nat) (c : Prop) =>
       (c → Runs i s (Jumped s · ((s.pc + sint imm disp * 2) % 2 ^ 64).toNat)) ∧ (¬ c → Runs i s (Advanced s · n))
     go (.beq a b imm) 4 12 (s.reg a = s.reg b) ∧ go (.bne a b imm) 4 12 (s.reg a ≠ s.reg b)
       ∧ go (.blt a b imm) 4 12 (sint (s.reg a) 64 < sint (s.reg b) 64)
       ∧ go (.bge a b imm) 4 12 (sint (s.reg b) 64 ≤ sint (s.reg a) 64)
       ∧ go (.bltn a b imm) 4 12 (s.reg a < s.reg b) ∧ go (.bgen a b imm) 4 12 (s.reg b ≤ s.reg a)
       ∧ go (.bbs a b imm) 4 12 ((s.reg a).testBit (s.reg b % 64) = true)
       ∧ go (.bbc a b imm) 4 12 ((s.reg a).testBit (s.reg b % 64) = false)
       ∧ go (.cBz a imm) 2 6 (s.reg a = 0) ∧ go (.cBnz a imm) 2 6 (s.reg a ≠ 0))
    ∧ (∀ (s : State) (d a imm cond cnt src : Nat), d < 32 →
         let linked := fun (t : State) (n target : Nat) =>
           t.pc = target % 2 ^ 56 ∧ t.Holds d (s.pc + n) 0 ∧ OnlyMem s t ∧ SameMem s t fun k => s.pcSpan k ∨ s.regSpan d k
         let skips := SkipCond cond (s.reg a)
         Runs (.jl d imm) s (linked · 4 ((s.pc + sint imm 20 * 2) % 2 ^ 64).toNat)
           ∧ Runs (.jlr d a imm) s (linked · 4 ((s.reg a + sint imm 12) % 2 ^ 64).toNat)
           ∧ Runs (.cJ imm) s (Jumped s · ((s.pc + sint imm 11 * 2) % 2 ^ 64).toNat)
           ∧ Runs (.cJr src) s (Jumped s · (s.reg src))
           ∧ Runs (.cJlr d src) s (linked · 2 (s.reg src))
           ∧ (cond < 6 → ¬ skips → Runs (.cSk a cond cnt) s (Advanced s · 2))
           ∧ (cond < 6 → skips → ∀ pc t, s.skipFrom (cnt + 1) (s.pc + 2) = .ok pc t → exec (.cSk a cond cnt) s = .next (t.setPc pc)))

/-! ### Floating point (02, 05) -/

/-- R47: the final rounding of a value that was rounded to odd is its IEEE 754 rounding, in every mode but RSH, for the
formats with infinities. -/
def Obligations.RoundingIsIeee : Prop :=
  ∀ f ∈ [fp64, fp32, fp16, bf16, fp8e5], ∀ (mode h : Nat) (neg : Bool) (m : Nat) (e : Int), mode < 5 → m ≠ 0 →
    (finVal f mode h (.fin neg m e)).1 = f.signBit neg + ieeeRound f mode neg m e

/-- R38: a finite value rounded to odd without overflow is kept when it is a multiple of the image's last place, and is
otherwise the odd one of the two multiples that it lies between. -/
def Obligations.RoundToOdd : Prop :=
  ∀ f ∈ [fp64, fp32, fp16, bf16, fp8e4, fp8e5], ∀ (neg : Bool) (m : Nat) (e : Int) (i : Image),
    rto f (.fin neg m e) = (i, 0) →
      ∃ (n : Nat) (q : Int), imgVal f i = .fin neg n q ∧
        let lo := min e q
        let x := m * 2 ^ (e - lo).toNat
        let y := n * 2 ^ (q - lo).toNat
        let u := 2 ^ (q - lo).toNat
        x = y ∨ (n % 2 = 1 ∧ x < y + u ∧ y < x + u)

/-- R124 to R126: the arithmetic instructions round the exact result of their images under the fin field, the long ones to
odd behind their window; the flags are ORed into ST.
Where it rests on a reading or a choice of the model, that is: DESIGN CHOICE, notes/assumptions: 50.md; DEDUCED, notes/assumptions: 14.md. -/
def Obligations.FloatArithmetic : Prop :=
  ∀ (s : State) (w : FW) (d a b x la : Nat), d < 32 →
    let f := fwFmt w
    let A := s.fval f a
    let B := s.fval f b
    let D := s.fval f d
    let arith := fun (x : Nat) (r : Val × Nat) (t : State) =>
      let i := s.roundArith f x 0 d r.1
      FpResult s t 0 d i.1 (r.2 ||| i.2)
    let long := fun (r : Val × Nat) (t : State) =>
      let i := rto f r.1
      FpResult s t la d i.1 (r.2 ||| i.2)
    let zeroNeg := decide (x ≠ 0) && effMode (finMode x) s.rm == 2
    Runs (.fadd w d a b x) s (arith x (vAdd zeroNeg A B))
      ∧ Runs (.fsub w d a b x) s (arith x (vAdd zeroNeg A B.negate))
      ∧ Runs (.fmul w d a b x) s (arith x (vMul A B))
      ∧ Runs (.fmin w d a b x) s (arith x (vMin A B, 0))
      ∧ Runs (.fmax w d a b x) s (arith x (vMax A B, 0))
      ∧ Runs (.fsgn w d a b) s (arith 0 (vSgn f (s.imgReg f a) (s.imgReg f b), 0))
      ∧ Runs (.ffma w d a b la) s (long ((vAdd false (vMul A B).1 D).1, (vMul A B).2 ||| (vAdd false (vMul A B).1 D).2))
      ∧ Runs (.fdiv w d a b la) s (long (vDiv A B))
      ∧ Runs (.fsqrt w d a la) s (long (vSqrt A))

/-- R127, R128: the conversions between formats, to an integer, from an integer, and the final rounding of an image.
Where it rests on a reading or a choice of the model, that is: DEDUCED, notes/assumptions: 14.md. -/
def Obligations.FloatConversions : Prop :=
  ∀ (s : State) (w : FW) (iw : IW) (d a tgt x rm : Nat), d < 32 →
    let f := fwFmt w
    let v := if w = .img then e8sVal (s.reg a % 256) else s.fval f a
    let n := if wSigned iw then s.sreg iw a else (s.ureg iw a : Int)
    (∀ T, fmtOf? tgt = some T → Runs (.fcvt w d a tgt x) s fun t =>
        FpResult s t 0 d (s.roundConv T x 0 d v).1 (s.roundConv T x 0 d v).2)
      ∧ (fmtOf? tgt = none → Runs (.fcvt w d a tgt x) s fun t => FpResult s t 0 d ⟨(toE8S v).1, 0⟩ (toE8S v).2)
      ∧ (∀ lo hi k, intRange? tgt = some (lo, hi, k) → Runs (.fcvti w d a tgt x) s fun t =>
          let r := vToInt (intMode (finMode x) s.rm) (s.hashReg 0 d) lo hi (s.fval f a)
          FpResult s t 0 d ⟨(r.1 % 2 ^ 64).toNat, 0⟩ r.2)
      ∧ (∀ T, fmtOf? tgt = some T → Runs (.icvtf iw d a tgt x) s fun t =>
          let r := s.roundConv T x 0 d (.fin (decide (n < 0)) n.natAbs 0)
          FpResult s t 0 d r.1 r.2)
      ∧ Runs (.fin w d a rm) s fun t =>
          let r := fin f (effMode rm s.rm) (s.hashReg 0 d) (s.imgReg f a)
          FpResult s t 0 d ⟨r.1, 0⟩ r.2

/-- R129, R130: the comparisons write 1 or 0 and a NaN makes each false; `fclass` writes the mask of the image's classes.  R131: `tget` reads the tail byte of a register, and `tset` writes a register with a given one. -/
def Obligations.FloatCompareClassAndTails : Prop :=
  (∀ (s : State) (w : FW) (d a b : Nat), d < 32 →
     let f := fwFmt w
     let A := s.fval f a
     let B := s.fval f b
     let num := A ≠ .nan ∧ B ≠ .nan
     let go := fun (i : Instr) (c : Prop) => (c → Runs i s (RegResult s · 4 d 1 0)) ∧ (¬ c → Runs i s (RegResult s · 4 d 0 0))
     let i := s.imgReg f a
     let neg := i.bits.testBit (f.ebits + f.mbits)
     let mag := i.bits % 2 ^ (f.ebits + f.mbits)
     let finite := ∃ g m e, A = .fin g m e
     go (.feq w d a b) (num ∧ vCmp A B = .eq) ∧ go (.flt w d a b) (num ∧ vCmp A B = .lt)
       ∧ go (.fle w d a b) (num ∧ (vCmp A B = .lt ∨ vCmp A B = .eq))
       ∧ ∃ v : Nat, Runs (.fclass w d a) s (RegResult s · 4 d v 0) ∧ v < 2 ^ 11
           ∧ (v.testBit 0 = true ↔ A = .inf true) ∧ (v.testBit 7 = true ↔ A = .inf false) ∧ (v.testBit 8 = true ↔ A = .nan)
           ∧ (v.testBit 1 = true ↔ finite ∧ neg = true ∧ 2 ^ f.mbits ≤ mag) ∧ (v.testBit 6 = true ↔ finite ∧ neg = false ∧ 2 ^ f.mbits ≤ mag)
           ∧ (v.testBit 2 = true ↔ finite ∧ neg = true ∧ mag < 2 ^ f.mbits ∧ (mag ≠ 0 ∨ i.tail ≠ 0))
           ∧ (v.testBit 5 = true ↔ finite ∧ neg = false ∧ mag < 2 ^ f.mbits ∧ (mag ≠ 0 ∨ i.tail ≠ 0))
           ∧ (v.testBit 3 = true ↔ finite ∧ neg = true ∧ mag = 0 ∧ i.tail = 0)
           ∧ (v.testBit 4 = true ↔ finite ∧ neg = false ∧ mag = 0 ∧ i.tail = 0)
           ∧ (v.testBit 9 = true ↔ finite ∧ i.tail ≠ 0) ∧ (v.testBit 10 = true ↔ finite ∧ mag = 0 ∧ i.tail ≠ 0))
    ∧ (∀ (s : State) (d a b : Nat), d < 32 →
         Runs (.tget d a) s (RegResult s · 4 d (s.tb a) 0) ∧ Runs (.tset d a b) s (RegResult s · 4 d (s.reg a) (s.reg b % 256)))
    ∧ (∀ w : Nat, w < 2 ^ 32 → w % 2 = 1 → bits w 1 6 = 0x1C →
         (bits w 22 3 ≠ 0 ∨ bits w 29 3 ≠ 0 ∨ 2 ≤ bits w 25 4 ∨ (bits w 25 4 = 0 ∧ bits w 17 5 ≠ 0)) → ∃ e, decodeWord w = .error e)

/-! ### Loads and stores (07) -/

/-- R162, R164, R120: an integer load that passes its checks writes what it reads, extended by w, and nothing else of the
issuer's; `t` is the state that the checks leave, and the read may cause traffic and fill a cache.  R160: what the checks and
the read of a load may change in memory, outside a deterministic range (whose access records may be written out, 06 R158) and
while no shadow runs, is only the leaf entry's A and D bits (23 R415) and the decompressed copy of a page (23 R429), whose
keys lie above 2^70.
Where it rests on a reading or a choice of the model, that is: DESIGN CHOICE, notes/assumptions: 3.md; DEDUCED, notes/assumptions: 12.md, 29.md, 48.md. -/
def Obligations.Loads : Prop :=
  (∀ (s t : State) (w : IW) (d a b off sc la : Nat) (loc : Loc), d < 32 →
     let n := nbits w / 8
     let read := fun (o : Int) (n : Nat) => s.checkE s.me (s.reg a) o n n aRead = .ok (loc, t)
     let r := t.readAt t.me loc n
     let q := t.readAt t.me loc 8
     let h := t.readHinted t.me loc n
     (read (sint off 8 * n) n → Runs (.ld w d a off la) s (LongResult r.2 · la d (res w r.1) 0))
       ∧ (read (sint off 6 * n) n → Runs (.lda w d a off sc la) s fun u =>
           u = ((r.2.syncWord loc.word (if sc = 0 then 2 else sc + 3)).retire 4).setRegLa la d (res w r.1) 0)
       ∧ (read (sint (s.reg b) 64) n → Runs (.ldx w d a b la) s (LongResult r.2 · la d (res w r.1) 0))
       ∧ (read (sint (s.reg b) 64) n → Runs (.ldxr w d a b la) s (LongResult h.2 · la d (res w h.1) 0))
       ∧ (s.checkE s.me (s.reg 2) (off * 8 : Nat) 8 8 aRead = .ok (loc, t) →
           Runs (.cLd d off) s (RegResult q.2 · 2 d (res .i64 q.1) 0)))
    ∧ (∀ (s t : State) (base : Nat) (off : Int) (n align k : Nat) (loc : Loc), s.NoShadow → loc.det = false →
         s.checkE s.me base off n align aRead = .ok (loc, t) → k < 2 ^ 70 → ¬ InSpan k loc.leaf 8 →
         (t.readAt t.me loc n).2.rd k = s.rd k)

/-- R162 to R164, R120: a store that passes its checks, to a scratchpad, the die SRAM or translated memory that is not
compressed, while no shadow runs.  R163: the final store rounds the image under its mode at the address it is stored to; w = 6 stores the 16-byte slot of
register and tail.
Where it rests on a reading or a choice of the model, that is: DESIGN CHOICE, notes/assumptions: 3.md; DEDUCED, notes/assumptions: 12.md. -/
def Obligations.Stores : Prop :=
  (∀ (s t : State) (w : IW) (a b d off hn sc : Nat) (loc : Loc), s.NoShadow → 1 ≤ loc.kind → loc.kind < 7 →
     let n := nbits w / 8
     let ok := fun (s : State) (base : Nat) (o : Int) (n : Nat) => s.checkE s.me base o n n aWrite = .ok (loc, t)
     let scope := if sc = 0 then 2 else sc + 3
     (ok s (s.reg a) (sint off 10 * n) n → Runs (.st w a b off hn) s (Stored t · 4 loc.key n (s.reg b) 0))
       ∧ (∀ l u, s.checkE s.me (s.reg a) (sint off 10 * n) n n aWrite = .ok (l, u) → s.ReleaseFree scope →
           ok (s.settled scope) (s.reg a) (sint off 10 * n) n → Runs (.str w a b off sc) s fun v =>
             ∃ c, Stored t c 4 loc.key n (s.reg b) 0 ∧ v = c.releaseTo loc.word scope)
       ∧ (ok s (s.reg a) (sint (s.reg b) 64) n → Runs (.stx w d a b) s (Stored t · 4 loc.key n (s.reg d) 0))
       ∧ (ok s (s.reg 2) (off * 8 : Nat) 8 → Runs (.cSt b off) s (Stored t · 2 loc.key 8 (s.reg b) 0)))
    ∧ (∀ (s t : State) (w : FW) (a b off rm : Nat) (loc : Loc), s.NoShadow → 1 ≤ loc.kind → loc.kind < 7 →
         let n := if w = .img then 16 else (fwFmt w).width / 8
         let o := sint off 10 * n
         let va := ((s.reg a + o) % 2 ^ 64).toNat % 2 ^ 56
         let mode := if rm = 0 then 7 else if rm = 1 then 0 else if rm = 2 then 1 else 5
         let r := fin (fwFmt w) (effMode mode s.rm) (rshHash (va * 8 % 2 ^ 64) s.myCore.seed) (s.imgReg (fwFmt w) b)
         s.checkE s.me (s.reg a) o n n aWrite = .ok (loc, t) →
           Runs (.stf w a b off rm) s fun u =>
             if w = .img then Stored t u 4 loc.key 16 (s.reg b + s.tb b * 2 ^ 64) 0 else Stored t u 4 loc.key n r.1 r.2)

/-- 06 R134, R135: a load from the issuer's own TCM, at window address 0xF0 … with a 15-bit offset, always completes when it
is aligned, with the bytes that stand there; no write to its words may be on record (06 R147).  06 R135, R137: an
aligned store to the issuer's own TCM above the records, clear of every workspace in use, always completes, while no shadow
runs: the bytes hold the value, the core counts an arrival (R152), reservations of the line end (07 R177), and everything else
is unchanged but for the record of the write (06 R147).
Where it rests on a reading or a choice of the model, that is: DEDUCED, notes/assumptions: 12.md, 48.md. -/
def Obligations.LocalTcmAccess : Prop :=
  (∀ (s : State) (w : IW) (d a off la o : Nat), d < 32 →
     let n := nbits w / 8
     ea (s.reg a) (sint off 8 * n) = .ok (0xF0000000000000 + o) → o + n ≤ 0x8000 → o % n = 0 →
       (let k := tcmKey s.cur.die s.cur.cluster s.cur.core o
        ∀ p ∈ s.race, p.word * 8 + 8 ≤ k ∨ k + n ≤ p.word * 8) →
       Runs (.ld w d a off la) s
         (LongResult s · la d (res w (s.rdN (tcmKey s.cur.die s.cur.cluster s.cur.core o) n)) 0))
    ∧ (∀ (s : State) (w : IW) (a b off hn o : Nat), s.NoShadow →
         let n := nbits w / 8
         ea (s.reg a) (sint off 10 * n) = .ok (0xF0000000000000 + o) → 0x2900 ≤ o → o + n ≤ 0x8000 → o % n = 0 →
           (∀ x ∈ s.allActs, x.inSlot = true → x.coreKey = s.cur.coreKey → x.wp + 0x140 ≤ o ∨ o + n ≤ x.wp) →
           Runs (.st w a b off hn) s fun t =>
             Stored s t 4 (tcmKey s.cur.die s.cur.cluster s.cur.core o) n (s.reg b) 0
               ∧ (t.core s.cur.coreKey = { s.core s.cur.coreKey with arrival := ((s.core s.cur.coreKey).arrival + 1) % 2 ^ 32 })
               ∧ (∀ k, k ≠ s.cur.coreKey → t.core k = s.core k) ∧ t.clusters = s.clusters
               ∧ (∀ c, t.ctx c = { s.ctx c with savedActs := (t.ctx c).savedActs, savedGroups := (t.ctx c).savedGroups })
               ∧ t.work = { s.work with groups := t.work.groups } ∧ t.coh = { s.coh with upd := t.coh.upd }
               ∧ (∀ p, p ∈ t.race → p.at_ = s.sched.clock ∨ ∃ q ∈ s.race, p = { q with rel := p.rel })
               ∧ t.links = s.links ∧ t.dies = s.dies ∧ t.dev = s.dev ∧ t.sched = s.sched)

/-- R159, R160: an address outside the pointer's tag traps TAGOV with the sum; an unaligned one traps ALIGN with the address;
both with nothing read. -/
def Obligations.AccessTraps : Prop :=
  ∀ (s : State) (w : IW) (d a b off la hn : Nat), s.cur.shadow = none →
    let n := nbits w / 8
    (∀ x, ea (s.reg a) (sint off 8 * n) = .error x → Runs (.ld w d a off la) s (Trapped s · 0x06 0 x s.pc))
      ∧ (∀ x, ea (s.reg a) (sint off 10 * n) = .error x → Runs (.st w a b off hn) s (Trapped s · 0x06 0 x s.pc))
      ∧ (∀ va, ea (s.reg a) (sint off 8 * n) = .ok va → va % n ≠ 0 → Runs (.ld w d a off la) s (Trapped s · 0x03 0 va s.pc))
      ∧ (∀ va, ea (s.reg a) (sint off 10 * n) = .ok va → va % n ≠ 0 → Runs (.st w a b off hn) s (Trapped s · 0x03 0 va s.pc))

/-- R166, R167: element loads and stores through a pointer's tag, for an integer format of whole bytes, a floating-point
format of whole bytes and the image slot; the load converts into the register's width or format and the store rounds
finally under ST.RM. -/
def Obligations.ElementAccess : Prop :=
  ∀ (s t : State) (iw : IW) (fw : FW) (d a b la : Nat) (loc : Loc), d < 32 →
    let p := s.reg a
    let c := p / 2 ^ 59
    let i := sint (s.reg b) 64
    let ok := fun (n acc : Nat) => s.checkE s.me p (i * n) n n acc = .ok (loc, t)
    let r := fun n => t.readAt t.me loc n
    let plain := s.NoShadow ∧ 1 ≤ loc.kind ∧ loc.kind < 7
    (∀ lo hi k, intRange? c = some (lo, hi, 8 * k) → 0 < k → ok k aRead →
        Runs (.lde iw.code d a b la) s (LongResult (r k).2 · la d (sat iw (intOf c (r k).1)) 0))
      ∧ (∀ f, fmtOf? c = some f → f.width % 8 = 0 → fw ≠ .e4 → fw ≠ .e5 → fw ≠ .img → ok (f.width / 8) aRead →
          let v := r (f.width / 8)
          let x := rto (fwFmt fw) (imgVal f ⟨v.1 % 2 ^ f.width, 0⟩)
          Runs (.lde fw.code d a b la) s (FpResult v.2 · la d x.1 x.2))
      ∧ (∀ w, c = 0x1F → ok 16 aRead →
          Runs (.lde w d a b la) s (LongResult (r 16).2 · la d ((r 16).1 % 2 ^ 64) ((r 16).1 / 2 ^ 64 % 256)))
      ∧ (∀ lo hi k, intRange? c = some (lo, hi, 8 * k) → 0 < k → plain → ok k aWrite →
          let x := if wSigned iw then s.sreg iw d else (s.ureg iw d : Int)
          Runs (.ste iw.code d a b) s (Stored t · 4 loc.key k (max lo (min x hi) % 2 ^ (8 * k)).toNat 0))
      ∧ (∀ f, fmtOf? c = some f → f.width % 8 = 0 → fw ≠ .img → plain → ok (f.width / 8) aWrite →
          let x := finVal f (effMode 7 s.rm) (s.hashMem (((p + i * (f.width / 8 : Nat)) % 2 ^ 64).toNat % 2 ^ 56 * 8)) (s.fval (fwFmt fw) d)
          Runs (.ste fw.code d a b) s (Stored t · 4 loc.key (f.width / 8) x.1 x.2))
      ∧ (∀ w, c = 0x1F → plain → ok 16 aWrite → Runs (.ste w d a b) s (Stored t · 4 loc.key 16 (s.reg d + s.tb d * 2 ^ 64) 0))

/-! ### Atomics, ordered reduce and reservations (07) -/

/-- R169, R170: an integer atomic that passes its checks, to memory that is not compressed, while no shadow runs and no posted
write keeps its release waiting: the location holds the new value and b the old one, sign-extended from 32 bits.  R171, R172: a float atomic rounds its exact result once, to nearest even; one in an ordered-reduce range traps RANGE.
Where it rests on a reading or a choice of the model, that is: DESIGN CHOICE, notes/assumptions: 3.md, 50.md; DEDUCED, notes/assumptions: 12.md. -/
def Obligations.Atomics : Prop :=
  (∀ (s x t : State) (a b wd sem sc la : Nat) (l loc : Loc), s.NoShadow → 1 ≤ loc.kind → loc.kind < 7 →
     let n := if wd = 1 then 4 else 8
     let N := 8 * n
     let scope := if sc = 0 then 2 else sc + 3
     let rel := if 2 ≤ sem then scope else 0
     let v := s.reg b % 2 ^ N
     let old := t.rdN loc.key n
     let go := fun (i : Instr) (new : Nat) => Runs i s fun u => ∃ c, Stored (t.catchUp t.me loc n) c 4 loc.key n new 0
       ∧ u = (c.semAt loc.word sem sc).setRegLa la b
               (if wd = 1 then (sint old 32 % 2 ^ 64).toNat else old) 0
     s.checkE s.me (s.reg a) 0 n n aAtomic = .ok (l, x) → s.ReleaseFree rel →
     (s.settled rel).checkE (s.settled rel).me (s.reg a) 0 n n aAtomic = .ok (loc, t) →
     go (.amoswap a b wd sem sc la) v ∧ go (.amoadd a b wd sem sc la) ((old + v) % 2 ^ N)
       ∧ go (.amoand a b wd sem sc la) (old &&& v) ∧ go (.amoor a b wd sem sc la) (old ||| v)
       ∧ go (.amoxor a b wd sem sc la) (old ^^^ v)
       ∧ go (.amomin a b wd sem sc la) (if sint v N < sint old N then v else old)
       ∧ go (.amomax a b wd sem sc la) (if sint old N < sint v N then v else old)
       ∧ go (.amominn a b wd sem sc la) (min old v) ∧ go (.amomaxn a b wd sem sc la) (max old v)
       ∧ go (.amocas a b wd sem sc la) (if old = v then s.reg (b + 1) % 2 ^ N else old))
    ∧ (∀ (s x t : State) (a b wd sem sc la : Nat) (l loc : Loc), s.NoShadow →
         let n := if wd = 1 then 4 else 8
         let f := if wd = 1 then fp32 else fp64
         let scope := if sc = 0 then 2 else sc + 3
         let rel := if 2 ≤ sem then scope else 0
         let p := s.reg a % 2 ^ 56
         let old := t.rdN loc.key n
         let V := s.fval f b
         let go := fun (i : Instr) (r : Val × Nat) =>
           (1 ≤ loc.kind → loc.kind < 7 → s.checkE s.me (s.reg a) 0 n n aAtomic = .ok (l, x) → s.ReleaseFree rel →
             (s.settled rel).checkE (s.settled rel).me (s.reg a) 0 n n aAtomic = .ok (loc, t) → s.inReduce p = false →
             Runs i s fun u => ∃ c, Stored (t.catchUp t.me loc n) c 4 loc.key n (finVal f 0 0 r.1).1 (r.2 ||| (finVal f 0 0 r.1).2)
               ∧ u = (c.semAt loc.word sem sc).setRegLa la b old 0)
           ∧ (p % n = 0 → s.inReduce p = true → Runs i s (Trapped s · 0x0A 0 p s.pc))
         go (.amfadd a b wd sem sc la) (vAdd false (encVal f old) V)
           ∧ go (.amfmin a b wd sem sc la) (vMin (encVal f old) V, 0)
           ∧ go (.amfmax a b wd sem sc la) (vMax (encVal f old) V, 0))

/-- R173, R174: a contribution inside an ordered-reduce range is recorded, last of its context's, with the bits of its operand;
it writes no memory but the PC and a line of the context's reduce area that receives records; outside every such range, and to a
compressed page (23 R429), it traps RANGE.  R175: a flush applies the contributions to the range that holds its address, and only those, and raises their flags.
Where it rests on a reading or a choice of the model, that is: DESIGN CHOICE, notes/assumptions: 28.md, 50.md; DEDUCED,
notes/assumptions: 19.md, 29.md. -/
def Obligations.OrderedReduce : Prop :=
  (∀ (s t : State) (a b wd la : Nat) (loc : Loc), s.cur.shadow = none →
     let n := if wd = 1 then 4 else 8
     let p := s.reg a % 2 ^ 56
     p % n = 0 → p / 2 ^ 52 % 16 ≠ 15 → s.locate s.me p n aAtomic = (.ok loc, t) →
     let takes := t.inReduce p = true ∧ loc.kind ≠ 7
     let go := fun (kind v tl : Nat) (u : State) => ∃ (c : Contrib) (x : State),
       (x.ctx t.cur.ctx).contribs = (t.ctx t.cur.ctx).contribs ++ [c] ∧ c.key = loc.key ∧ c.va = p
         ∧ c.kind = kind ∧ c.bits = v ∧ c.tail = tl ∧ c.act = t.cur.id ∧ x.cur = t.cur ∧ x.mem = t.mem
         ∧ let y := x.spill t.cur.ctx t.cur.die 0x40 (Config.reduceSpill (x.ctx t.cur.ctx).contribs.length)
           u = (y.cohAccess y.me loc aWrite []).retire 4
     (takes → Runs (.radd a b wd la) s (go wd (s.reg b % 2 ^ (8 * n)) (s.tb b % 4))
         ∧ Runs (.raddi a b wd la) s (go (2 + wd) (s.reg b % 2 ^ (8 * n)) 0))
       ∧ (¬ takes → t.cur.shadow = none → Runs (.radd a b wd la) s (Trapped t · 0x0A 0 p t.pc)
           ∧ Runs (.raddi a b wd la) s (Trapped t · 0x0A 0 p t.pc)))
    ∧ (∀ (s : State) (a sc la : Nat), s.cur.shadow = none →
         let scope := if sc = 0 then 2 else sc + 3
         let p := s.reg a % 2 ^ 56
         let r := s.myCtx.rangeAt p
         let here := fun c : Contrib => decide (r.base ≤ c.va ∧ c.va < r.base + r.npg * 65536)
         let f := (s.settled scope).flushContribs s.cur.ctx here
         (s.inReduce p = true → s.ReleaseFree scope → Runs (.rflush a sc la) s fun u => u = (f.2.retire 4).orFlags f.1)
           ∧ (s.inReduce p = false → Runs (.rflush a sc la) s (Trapped s · 0x0A 0 p s.pc)))

/-- R176, R177: `ldres` reads and reserves its line; `stcond` stores and writes 0 while the reservation of its line lives, and
writes 1 otherwise; either way the reservation ends.
Where it rests on a reading or a choice of the model, that is: DESIGN CHOICE, notes/assumptions: 3.md; DEDUCED, notes/assumptions: 12.md. -/
def Obligations.Reservations : Prop :=
  ∀ (s x t : State) (a b wd sem sc la : Nat) (l loc : Loc), s.NoShadow →
    let n := if wd = 1 then 4 else 8
    let scope := if sc = 0 then 2 else sc + 3
    let rel := if 2 ≤ sem then scope else 0
    let line := loc.key / 128
    let old := t.rdN loc.key n
    let ended := t.modCur fun y => { y with resv := none }
    (s.checkE s.me (s.reg a) 0 n n aRead = .ok (loc, t) → Runs (.ldres a b wd sem sc la) s fun u =>
        ∃ c : State, c.cur = { t.cur with sawAt := t.sched.clock, resv := some { line := line } } ∧ c.mem = t.mem
          ∧ u = ((if sem = 1 ∨ sem = 3 then c.syncWord loc.word scope else c).retire 4).setRegLa la b
                  (if wd = 1 then (sint old 32 % 2 ^ 64).toNat else old) 0)
      ∧ (1 ≤ loc.kind → loc.kind < 7 → s.checkE s.me (s.reg a) 0 n n aWrite = .ok (l, x) → s.ReleaseFree rel →
          (s.settled rel).checkE (s.settled rel).me (s.reg a) 0 n n aWrite = .ok (loc, t) →
          (t.cur.resv = some { line := line } → Runs (.stcond a b wd sem sc la) s fun u =>
              ∃ c, Stored ended c 4 loc.key n (t.reg b) 0
                ∧ u = (if 2 ≤ sem then c.releaseTo loc.word scope else c).setRegLa la b 0 0)
            ∧ (t.cur.resv ≠ some { line := line } → Runs (.stcond a b wd sem sc la) s fun u =>
                u = (if 2 ≤ sem then (ended.retire 4).fenceOrder scope 3 0xFF else ended.retire 4).setRegLa la b 1 0))

/-! ### Fences, timelines, hints and copies (07) -/

/-- R179, 06 R145: a fence waits for the engines its predecessor set names, the matrix unit's reads for a plane among them; then
its windows are closed and, for a successor set with reads at quad scope or wider or after an engine, the core's L1 is
invalidated; its earlier stores are ordered before the accesses of the engines that the successor set names, and are visible to
the instance of its scope before its later reads.  R180, R181: a timeline wait and test for a number that the core has issued; the numbers completed are those at or below the
timeline's value, and an error among them is raised first.  03 R79, 10 R273, 23 R435, 07 R189: the hint and `nop` only move the PC; `l1inv` empties the core's L1; `trread` reads the
access record of a line without accessing it.
Where it rests on a reading or a choice of the model, that is: DEDUCED, notes/assumptions: 15.md, 18.md. -/
def Obligations.FencesTimelinesAndHints : Prop :=
  (∀ (s : State) (sc pred succ : Nat),
     let c := s.core s.cur.coreKey
     let waits := (∃ k, k < 3 ∧ pred / 2 ^ (2 + 2 * k) % 4 ≠ 0 ∧ c.tl.getD k 0 < c.issued.getD k 0)
       ∨ (pred / 16 % 2 = 1 ∧ c.refetches = true)
     let scope := if pred / 2 % 2 = 1 then sc else 0
     let z := s.settled scope
     let clears := succ % 2 = 1 ∧ (1 ≤ sc ∨ ∃ k, k < 3 ∧ pred / 2 ^ (2 + 2 * k) % 4 ≠ 0)
     (waits → exec (.fence sc pred succ) s = .next s)
       ∧ (¬ waits → s.ReleaseFree scope → Runs (.fence sc pred succ) s fun u =>
           u.pc = (s.pc + 4) % 2 ^ 56 ∧ SameMem s u s.pcSpan ∧ u.cur = { z.cur with wins := [], fenced := u.cur.fenced, loadFenced := u.cur.loadFenced, view := u.cur.view }
             ∧ (∀ k, k < 6 → pred / 2 % 2 = 1 → succ / 2 ^ (2 + k) % 2 = 1 →
                 u.cur.fenced.getD k 0 = max (s.cur.fenced.getD k 0) (s.sched.clock + 1))
             ∧ (pred / 2 % 2 = 1 → succ % 2 = 1 → ∀ p ∈ u.race, p.act = s.cur.id → p.cmd = none → p.mca = true →
                 ∃ v ∈ p.vis, v.1 = sc ∧ v.2.1 = s.cur.coreKey)
             ∧ (clears → (u.core s.cur.coreKey).l1 = [])
             ∧ (∀ k, ¬ clears ∨ k ≠ s.cur.coreKey → (u.core k).l1 = (s.core k).l1)))
    ∧ (∀ (s : State) (d a kind : Nat), d < 32 →
         let c := s.core s.cur.coreKey
         let n := s.reg a
         (s.cur.shadow = none → c.issued.getD kind 0 < n → Runs (.tltest d a kind) s (Trapped s · 0x0A 0 n s.pc))
           ∧ (s.cur.shadow = none → s.cur.orig ≠ 2 → c.issued.getD kind 0 < n → Runs (.tlwait a kind) s (Trapped s · 0x0A 0 n s.pc))
           ∧ (n ≤ c.issued.getD kind 0 → c.tl.getD kind 0 < n → Runs (.tltest d a kind) s (RegResult s · 4 d 0 0))
           ∧ (n ≤ c.issued.getD kind 0 → n ≤ c.tl.getD kind 0 → s.cur.errorOf kind n = none →
               Runs (.tltest d a kind) s fun u => u = ((s.retire 4).setReg d 1 0).tlAcquire kind n)
           ∧ (s.cur.orig ≠ 2 → n ≤ c.issued.getD kind 0 → n ≤ c.tl.getD kind 0 → s.cur.errorOf kind n = none →
               Runs (.tlwait a kind) s fun u => u.pc = (s.pc + 4) % 2 ^ 56 ∧ SameMem s u s.pcSpan
                 ∧ u.cur = { s.cur with wins := [], view := u.cur.view } ∧ (u.core s.cur.coreKey).l1 = [])
           ∧ (s.cur.orig ≠ 2 → n ≤ c.issued.getD kind 0 → c.tl.getD kind 0 < n → s.cur.errorOf kind n = none →
               Runs (.tlwait a kind) s (Blocked s · (.tl kind n))))
    ∧ (∀ (s t : State) (k rest d a : Nat) (loc : Loc), d < 32 →
         Runs (.hint k rest) s (Advanced s · 4) ∧ Runs .nop s (Advanced s · 2)
           ∧ (s.cur.shadow = none → Runs .l1inv s fun u => u.pc = (s.pc + 4) % 2 ^ 56 ∧ SameMem s u s.pcSpan ∧ u.cur = s.cur
               ∧ (u.core s.cur.coreKey).l1 = [] ∧ ∀ j, j ≠ s.cur.coreKey → u.core j = s.core j)
           ∧ (s.locate s.me (s.reg a % 2 ^ 56) 1 aRead = (.ok loc, t) → Runs (.trread d a) s (RegResult t · 4 d (t.recWord loc) 0)))

/-- R182 to R187: a copy instruction queues its command under the next number of the copy timeline; it waits while 32 are
outstanding, and traps RANGE on a count above its bound.
Where it rests on a reading or a choice of the model, that is: DEDUCED, notes/assumptions: 15.md, 22.md. -/
def Obligations.Copies : Prop :=
  ∀ (s : State) (d a b q la : Nat), d < 32 →
    let full := 32 ≤ (s.core s.cur.coreKey).copies.length
    (full → exec (.cpy d a b q la) s = .next s ∧ exec (.cpyt d a b q la) s = .next s ∧ exec (.cpyg d a b q la) s = .next s)
      ∧ (¬ full → s.cur.shadow = none → 2 ^ 32 < s.reg d → Runs (.cpy d a b q la) s (Trapped s · 0x0A 0 (s.reg d) s.pc))
      ∧ (¬ full → s.reg d ≠ 0 → s.reg d ≤ 2 ^ 32 → Runs (.cpy d a b q la) s fun t =>
          ∃ c : Cmd, Queued s t 0 d c ∧ c.op = 0 ∧ c.q = q ∧ c.args = [s.reg a, s.reg b, s.reg d] ∧ c.act = s.cur.id)
      ∧ (¬ full → s.reg d = 0 → Runs (.cpy d a b q la) s fun t =>
          ∃ y c, Queued s y 0 d c ∧ t = y.endCmd s.cur.coreKey 0 c none 0)
      ∧ (∀ dm sm u t, ¬ full → s.reg d < 8 → s.loadWords (s.reg a) 0 8 = .ok dm u → u.loadWords (u.reg b) 0 8 = .ok sm t →
          mapBad dm = false → mapBad sm = false → mapRank dm = mapRank sm → (∀ k, k < 4 → mapDim dm k = mapDim sm k) →
          (isMx (mapFmt dm) = true → mapDim dm 0 % 32 = 0) →
          Runs (.cpyt d a b q la) s fun v => ∃ c : Cmd, Queued t v 0 d c ∧ c.op = 1 ∧ c.q = q ∧ c.args = dm ++ sm ++ [t.reg d, t.rm])
      ∧ (∀ src ws u t, ¬ full → s.load 4 (s.reg b) 0 8 8 = .ok src u → u.loadWords (u.reg b) 8 3 = .ok ws t →
          let count := ws.getD 1 0 % 2 ^ 32
          let recb := ws.getD 1 0 / 2 ^ 32
          count ≠ 0 → count ≤ 2 ^ 24 → 1 ≤ recb → recb ≤ 65536 →
          Runs (.cpyg d a b q la) s fun v =>
            ∃ c : Cmd, Queued t v 0 d c ∧ c.op = 2 ∧ c.q = q ∧ c.args = [t.reg a, src, ws.getD 0 0, count, recb, ws.getD 2 0])

/-! ### Vectors (08) -/

/-- R190 to R192: a claim gives lanes in eights, at most 64 and at most what was asked for, and writes what it gave; `vrel` gives
every lane back; `vlen` writes the smaller of a count and the elements of the grant.  R212 to R216: a `gang` with a wrong mask traps RANGE, one that waits for a member blocks, and the last one forms the gang
at the first member's next instruction; `gmeet` re-attaches whom the leader waits for; `gleave` leaves.
Where it rests on a reading or a choice of the model, that is: DEDUCED, notes/assumptions: 21.md. -/
def Obligations.ClaimsAndGangs : Prop :=
  (∀ (s : State) (d a imm : Nat), d < 32 →
     let y := max 0 (min (sint (s.reg a) 64 + sint imm 12) 64)
     let r := (y.toNat + 7) / 8 * 8
     let g := s.cur.grant
     let lanes := fun t : State => t.Holds d t.cur.grant 0 ∧ t.pc = (s.pc + 4) % 2 ^ 56
       ∧ (∀ k, k % 64 < min t.cur.grant g → FMap.getD t.cur.vr k 0 = FMap.getD s.cur.vr k 0)
       ∧ ∀ v i, i < 64 → g ≤ i → t.lane v i = 0
     let from_ := (s.clusterActs s.cur).filter (s.canTake s.cur)
     let g' := min r (g + s.freeLanes s.cur + (from_.foldr actInsert []).foldl (fun n b => n + (b.grant - b.saved)) 0) / 8 * 8
     (r < g → Runs (.vclaim d a imm) s fun t => t.cur.grant = r ∧ lanes t)
       ∧ (g ≤ r → from_ = [] → Runs (.vclaim d a imm) s fun t => t.cur.grant = min r (g + s.freeLanes s.cur) / 8 * 8 ∧ lanes t)
       ∧ (g ≤ r → Runs (.vclaim d a imm) s fun t =>
           let u := (s.takeLanes (from_.foldr actInsert []) (g' - g - min (g' - g) (s.freeLanes s.cur))).modCur fun x =>
             { x with grant := g', vr := shrinkVr x.vr g }
           t = (u.retire 4).setReg d g' 0)
       ∧ (Runs .vrel s fun t => t.cur = { s.cur with grant := 0, vr := [] } ∧ t.pc = (s.pc + 4) % 2 ^ 56 ∧ SameMem s t s.pcSpan
           ∧ (t.setMem s.mem).modCur (fun _ => s.cur) = s)
       ∧ Runs (.vlen d a imm) s (RegResult s · 4 d (min (s.reg a) (perReg imm s.cur.grant)) 0))
    ∧ (∀ (s : State) (a b g : Nat) (lead : Act) (more : List Act), s.cur.orig ≠ 2 →
         let m := s.reg b
         let tag := s.reg a % 65536
         let me := s.cur
         let member := fun x : Act => x.die = me.die ∧ x.cluster = me.cluster ∧ x.core / 4 = me.core / 4 ∧ x.core ≠ me.core
           ∧ m.testBit (x.core % 4) = true ∧ x ∈ s.allActs
         let good := m < 16 ∧ 2 ≤ popc 4 m ∧ m.testBit (me.core % 4) = true ∧ me.gang = none
         let waits := (s.quadActs me).filter fun x => x.core != me.core && bit m (x.core % 4) && x.gangWait.isSome
         let seat := fun j : Nat => if j = me.core % 4 then some me else waits.find? fun x => x.core % 4 == j
         let named := (List.range 4).filter (bit m)
         let rest := (s.gangActs g).filter (·.id != me.id)
         (¬ good → me.shadow = none → Runs (.gang a b) s (Trapped s · 0x0A 0 m s.pc))
           ∧ (good → me.shadow = none → (∃ x t q, member x ∧ x.run = .waiting (.gang t q) ∧ (t, q) ≠ (tag, m)) →
               Runs (.gang a b) s (Trapped s · 0x0A 0 m s.pc))
           ∧ (good → (∀ x, member x → x.gangWait = none ∨ x.gangWait = some (tag, m)) → (∃ j ∈ named, seat j = none) →
               Runs (.gang a b) s (Blocked s · (.gang tag m)))
           ∧ (good → (∀ x, member x → x.gangWait = none ∨ x.gangWait = some (tag, m)) → (∀ j ∈ named, (seat j).isSome = true) →
               named.filterMap seat = lead :: more → Runs (.gang a b) s fun t =>
                 t = (s.modWork fun w => { w with gangs := w.gangs.put lead.id (lead.id, (lead :: more).map (·.id)) }).onActs
                       ((lead :: more).map (·.id)) fun z => z.joinGang lead.id (s.pcOf lead + 4))
           ∧ (me.gang = none → Runs (.gmeet a) s (Advanced s · 4) ∧ Runs .gleave s (Advanced s · 4))
           ∧ (me.gang = some g → g ≠ me.id → me.attached = true → Runs (.gmeet a) s (Advanced s · 4))
           ∧ (me.gang = some g → g = me.id → (∀ x ∈ s.gangActs g, x.id = g ∨ x.attached = true) → Runs (.gmeet a) s (Advanced s · 4))
           ∧ (me.gang = some g → g = me.id → (∃ x ∈ s.gangActs g, x.id ≠ g ∧ x.attached = false) →
               let w := s.block (.gmeet tag)
               Runs (.gmeet a) s fun t => t = if w.allMet g then w.meet g tag else w)
           ∧ (me.gang = some g → g ≠ me.id → me.attached = false →
               let w := s.block (.gmeet tag)
               ((w.act? g).bind Act.meetWait = none → Runs (.gmeet a) s (Blocked s · (.gmeet tag)))
                 ∧ ∀ y, (w.act? g).bind Act.meetWait = some y → Runs (.gmeet a) s fun t => t = if w.allMet g then w.meet g y else w)
           ∧ (me.gang = some g → g ≠ me.id → 2 ≤ rest.length → me.meetWait = none →
               let left := fun t : State =>
                 t.cur = { me with gang := none, attached := false, behind := false } ∧ t.pc = (s.pc + 4) % 2 ^ 56
                   ∧ t.st / 2 ^ 19 % 4 = 0 ∧ t.work.gangs = s.work.gangs.put g (g, rest.map (·.id)) ∧ t.acts = s.acts
               ((s.act? g).bind Act.meetWait = none → Runs .gleave s left)
                 ∧ ∀ y, (s.act? g).bind Act.meetWait = some y → Runs .gleave s fun t =>
                     ∃ u, left u ∧ t = if u.allMet g then u.meet g y else u)
           ∧ (me.gang = some g → (g = me.id ∨ rest.length ≤ 1) → Runs .gleave s fun t => t.work.gangs = s.work.gangs.del g))

/-- R198: the integer elementwise forms.  R199: a compare sets, in a scalar register, the bit of each lane that takes part and whose element's comparison holds. -/
def Obligations.VectorIntegerAndCompares : Prop :=
  (∀ (s : State) (w : IW) (d a b m : Nat),
     let n := nbits w
     let A := fun j => s.vint w a j
     let B := fun j => s.vint w b j
     let U := fun j => (elemOf s.cur.vr n a j).bits
     let V := fun j => (elemOf s.cur.vr n b j).bits
     let elems := fun (f : Nat → Int) (t : State) => ElemResult s t n m d (fun j => ⟨(f j % 2 ^ n).toNat, 0⟩) 0
     Runs (.vadd w d a b m) s (elems (fun j => A j + B j))
       ∧ Runs (.vsub w d a b m) s (elems (fun j => A j - B j))
       ∧ Runs (.vand w d a b m) s (elems (fun j => (U j &&& V j : Nat)))
       ∧ Runs (.vor w d a b m) s (elems (fun j => (U j ||| V j : Nat)))
       ∧ Runs (.vxor w d a b m) s (elems (fun j => (U j ^^^ V j : Nat)))
       ∧ Runs (.vmin w d a b m) s (elems (fun j => min (A j) (B j)))
       ∧ Runs (.vmax w d a b m) s (elems (fun j => max (A j) (B j)))
       ∧ Runs (.vadds w d a b m) s (elems (fun j => sat w (A j + B j)))
       ∧ Runs (.vsubs w d a b m) s (elems (fun j => sat w (A j - B j)))
       ∧ Runs (.vmul w d a b m) s (elems (fun j => A j * B j))
       ∧ Runs (.vsll w d a b m) s (elems (fun j => (U j * 2 ^ (V j % n) : Nat)))
       ∧ Runs (.vsrl w d a b m) s (elems (fun j => (U j / 2 ^ (V j % n) : Nat)))
       ∧ Runs (.vsra w d a b m) s (elems (fun j => sint (U j) n / 2 ^ (V j % n))))
    ∧ (∀ (s : State) (iw : IW) (w : FW) (d a b m : Nat), d < 32 →
         let g := s.cur.grant
         let A := fun j => s.vfp (fwFmt w) a j
         let B := fun j => s.vfp (fwFmt w) b j
         let k := (fwFmt w).width / 32
         let num := fun j => A j ≠ .nan ∧ B j ≠ .nan
         let int := fun (c : Nat → Prop) (t : State) => ∃ v : Nat, RegResult s t 4 d v 0
           ∧ ∀ j, v.testBit j = true ↔ j < g ∧ s.maskOn m j = true ∧ c j
         let flt := fun (c : Nat → Prop) (t : State) => ∃ v : Nat, RegResult s t 4 d v 0
           ∧ (∀ j, v.testBit (k * j) = true ↔ j < g / k ∧ s.maskOn m (k * j) = true ∧ c j) ∧ ∀ i, i % k ≠ 0 → v.testBit i = false
         (nbits iw = 32 → Runs (.vcmpeq iw d a b m) s (int (fun j => s.vint iw a j = s.vint iw b j))
             ∧ Runs (.vcmplt iw d a b m) s (int (fun j => s.vint iw a j < s.vint iw b j))
             ∧ Runs (.vcmple iw d a b m) s (int (fun j => s.vint iw a j ≤ s.vint iw b j)))
           ∧ (w = .f64 ∨ w = .f32 → Runs (.vfeq w d a b m) s (flt (fun j => num j ∧ vCmp (A j) (B j) = .eq))
               ∧ Runs (.vflt w d a b m) s (flt (fun j => num j ∧ vCmp (A j) (B j) = .lt))
               ∧ Runs (.vfle w d a b m) s (flt (fun j => num j ∧ (vCmp (A j) (B j) = .lt ∨ vCmp (A j) (B j) = .eq)))))

/-- R197, R200, R202: the floating-point elementwise forms, rounded to odd, and the final rounding of images; the flags of the
elements that take part are ORed into ST. -/
def Obligations.VectorFloat : Prop :=
  ∀ (s : State) (w : FW) (d a b m rm : Nat),
    let f := fwFmt w
    let n := f.width
    let A := fun j => s.vfp f a j
    let B := fun j => s.vfp f b j
    let odd := fun (r : Nat → Val × Nat) (t : State) =>
      let e := fun j => rto f (r j).1
      ElemResult s t n m d (fun j => (e j).1) (s.elemFlags n m fun j => (r j).2 ||| (e j).2)
    Runs (.vfadd w d a b m) s (odd (fun j => vAdd false (A j) (B j)))
      ∧ Runs (.vfsub w d a b m) s (odd (fun j => vAdd false (A j) (B j).negate))
      ∧ Runs (.vfmul w d a b m) s (odd (fun j => vMul (A j) (B j)))
      ∧ Runs (.vfmin w d a b m) s (odd (fun j => (vMin (A j) (B j), 0)))
      ∧ Runs (.vfmax w d a b m) s (odd (fun j => (vMax (A j) (B j), 0)))
      ∧ Runs (.vfsgn w d a b m) s (odd (fun j => (vSgn f (elemOf s.cur.vr n a j) (elemOf s.cur.vr n b j), 0)))
      ∧ Runs (.vfin w d a rm m) s (ElemResult s · n m d
          (fun j => ⟨(fin f (effMode rm s.rm) (s.hashReg (j * n / 32) d) (elemOf s.cur.vr n a j)).1, 0⟩)
          (s.elemFlags n m fun j => (fin f (effMode rm s.rm) (s.hashReg (j * n / 32) d) (elemOf s.cur.vr n a j)).2))

/-- R201, R202, R203: the long forms over every element of the grant, and the conversions: elementwise under a mask when the
widths agree, over groups when they differ, and VGRANT or RANGE for a group that does not fit. -/
def Obligations.VectorLongAndConversions : Prop :=
  ∀ (s : State) (w : FW) (iw : IW) (d a b tgt m la : Nat),
    let f := fwFmt w
    let n := f.width
    let g := s.cur.grant
    let A := fun j => s.vfp f a j
    let B := fun j => s.vfp f b j
    let long := fun (r : Nat → Val × Nat) (t : State) =>
      VecResult s t la n d ((List.range (perReg n g)).map fun j => (j, (rto f (r j).1).1))
        ((List.range (perReg n g)).foldl (fun k j => k ||| ((r j).2 ||| (rto f (r j).1).2)) 0)
    let lanes := fun ns nt : Nat => g * 32 / min ns nt
    let same := fun (ns nt : Nat) (c : Image → Image × Nat) (t : State) =>
      ElemResult s t nt m d (fun j => (c (elemOf s.cur.vr ns a j)).1) (s.elemFlags nt m fun j => (c (elemOf s.cur.vr ns a j)).2)
    let groups := fun (ns nt : Nat) (c : Image → Image × Nat) (t : State) =>
      VecResult s t 0 nt d ((List.range (lanes ns nt)).map fun j => (j, (c (groupElem s.cur.vr ns g a j)).1))
        ((List.range (lanes ns nt)).foldl (fun k j => k ||| (c (groupElem s.cur.vr ns g a j)).2) 0)
    let fits := fun ns nt : Nat => groupBad ns g a (lanes ns nt) = none ∧ groupBad nt g d (lanes ns nt) = none
    let bad := fun ns nt code sub v : Nat => s.cur.shadow = none ∧ groupBad ns g a (lanes ns nt) = some (code, sub, v)
    let ofInt := fun (T : Fmt) (x : Image) =>
      let y : Int := if wSigned iw then sint x.bits (nbits iw) else x.bits
      rto T (.fin (decide (y < 0)) y.natAbs 0)
    let toInt := fun (lo hi : Int) (k : Nat) (x : Image) =>
      let r := vToInt (intMode 7 s.rm) (s.hashReg 0 d) lo hi (imgVal f x)
      ((⟨(r.1 % 2 ^ k).toNat, 0⟩ : Image), r.2)
    Runs (.vffma w d a b la) s (long (fun j =>
        ((vAdd false (vMul (A j) (B j)).1 (s.vfp f d j)).1, (vMul (A j) (B j)).2 ||| (vAdd false (vMul (A j) (B j)).1 (s.vfp f d j)).2)))
      ∧ Runs (.vfdiv w d a b la) s (long (fun j => vDiv (A j) (B j)))
      ∧ Runs (.vfsqrt w d a la) s (long (fun j => vSqrt (A j)))
      ∧ (∀ T, fmtOf? tgt = some T →
          let c := fun x => rto T (imgVal f x)
          (n = T.width → Runs (.vcvt w d a tgt m) s (same n T.width c))
            ∧ (n ≠ T.width → fits n T.width → Runs (.vcvt w d a tgt m) s (groups n T.width c))
            ∧ (n ≠ T.width → ∀ code sub v, bad n T.width code sub v → Runs (.vcvt w d a tgt m) s (Trapped s · code sub v s.pc)))
      ∧ (∀ T, fmtOf? tgt = some T →
          let k := nbits iw
          (k = T.width → Runs (.vicvtf iw d a tgt m) s (same k T.width (ofInt T)))
            ∧ (k ≠ T.width → fits k T.width → Runs (.vicvtf iw d a tgt m) s (groups k T.width (ofInt T)))
            ∧ (k ≠ T.width → ∀ code sub v, bad k T.width code sub v → Runs (.vicvtf iw d a tgt m) s (Trapped s · code sub v s.pc)))
      ∧ (∀ lo hi k, intRange? tgt = some (lo, hi, k) → fmtOf? tgt = none →
          (n = k → Runs (.vfcvti w d a tgt m) s (same n k (toInt lo hi k)))
            ∧ (n ≠ k → fits n k → Runs (.vfcvti w d a tgt m) s (groups n k (toInt lo hi k)))
            ∧ (n ≠ k → ∀ code sub v, bad n k code sub v → Runs (.vfcvti w d a tgt m) s (Trapped s · code sub v s.pc)))

/-- R191, R202, R204, R217: the forms that move whole lanes with their tails; an index at or above the grant traps VGRANT.
Where it rests on a reading or a choice of the model, that is: DEDUCED, notes/assumptions: 21.md, 53.md. -/
def Obligations.LaneMoves : Prop :=
  ∀ (s : State) (d a b m o : Nat), d < 32 →
    let G := s.cur.grant
    let idx := s.reg b
    let at_ := fun j : Int => if 0 ≤ j ∧ j < G then s.lane a j.toNat else 0
    let sel := (List.range G).filter (s.maskOn m)
    Runs (.vperm d a b m) s (LaneResult s · m d (fun i => at_ (s.lane b i % 2 ^ 32 : Nat)))
      ∧ Runs (.vslide d a b m) s (LaneResult s · m d (fun i => at_ (i + sint (s.reg b) 64)))
      ∧ (idx < G → Runs (.vbcast d a b m) s (LaneResult s · m d (fun _ => s.lane a idx))
          ∧ (s.maskOn m idx = true →
              Runs (.vget d a b m) s (RegResult s · 4 d (s.lane a idx % 2 ^ 32) (s.lane a idx / 2 ^ 32 % 16)))
          ∧ (s.maskOn m idx = false → Runs (.vget d a b m) s (Advanced s · 4))
          ∧ Runs (.vput d a b m) s fun t => t.pc = (s.pc + 4) % 2 ^ 56 ∧ SameMem s t s.pcSpan ∧ t.withoutResult s = s
              ∧ (s.maskOn m idx = true → t.lane d idx = s.reg a % 2 ^ 32 + 2 ^ 32 * (s.tb a % 16))
              ∧ ∀ k, (k ≠ d * 64 + idx ∨ s.maskOn m idx = false) → FMap.getD t.cur.vr k 0 = FMap.getD s.cur.vr k 0)
      ∧ (G ≤ idx → s.cur.shadow = none → Runs (.vbcast d a b m) s (Trapped s · 0x0E 1 idx s.pc)
          ∧ Runs (.vget d a b m) s (Trapped s · 0x0E 1 idx s.pc) ∧ Runs (.vput d a b m) s (Trapped s · 0x0E 1 idx s.pc))
      ∧ Runs (.vcomp d a m) s (LaneResult s · 0 d (fun i => (sel.map (s.lane a)).getD i 0))
      ∧ Runs (.vexpd d a m) s (LaneResult s · m d (fun i => s.lane a ((List.range i).countP (s.maskOn m))))
      ∧ Runs (.vtget d a m) s (LaneResult s · m d (fun i => s.lane a i / 2 ^ 32))
      ∧ Runs (.vtset d a b m) s (LaneResult s · m d (fun i => s.lane a i % 2 ^ 32 + 2 ^ 32 * (s.lane b i % 16)))
      ∧ Runs (.vsplat d a 0) s (LaneResult s · 0 d (fun _ => s.reg a % 2 ^ 32 + 2 ^ 32 * (s.tb a % 16)))
      ∧ Runs (.vsplat d a 1) s (LaneResult s · 0 d
          (fun i => if i % 2 = 0 then s.reg a % 2 ^ 32 + 2 ^ 32 * (s.tb a % 4) else s.reg a / 2 ^ 32))
      ∧ ∀ x, ((s.quadActs s.cur).find? fun y =>
            y.core == s.cur.core / 4 * 4 + (s.cur.core % 4 + o) % 4 && y.gang == s.cur.gang && s.wasInStep y) = some x →
          s.cur.inStep = true → G ≤ x.grant → Runs (.vnbr d a m o) s (LaneResult s · m d (fun i => laneOf (s.snapVr x) a i))

/-- R205: the reductions and scans over a group of n elements.  R206: the sorts and top-k write the keys of the stable order, and their indices after them. -/
def Obligations.ReductionsAndSorts : Prop :=
  (∀ (s : State) (iw : IW) (w : FW) (d a b la : Nat), d < 32 →
     let n := s.reg b
     let g := s.cur.grant
     let N := nbits iw
     let f := fwFmt w
     let x := fun i => (groupElem s.cur.vr N g a i).bits
     let y := fun i => groupElem s.cur.vr f.width g a i
     let sum := fun k => (List.range k).foldl (fun t i => t + x i) 0
     1 ≤ n → n ≤ 8191 →
     (groupBad N g a n = none → Runs (.vred iw d a b la) s (LongResult s · la d (res iw (sum n : Nat)) 0))
       ∧ (groupBad f.width g a n = none →
           let r := treeSum f ((List.range n).map fun i => some (y i))
           Runs (.vfred w d a b la) s (FpResult s · la d r.1 r.2))
       ∧ (groupBad N g a n = none → groupBad N g d n = none → Runs (.vscan iw d a b la) s
           (VecResult s · la N d ((List.range n).map fun i => (i, ⟨sum (i + 1) % 2 ^ N, 0⟩)) 0))
       ∧ (groupBad f.width g a n = none → groupBad f.width g d n = none →
           let r := fscan f (y 0) ((List.range (n - 1)).map fun i => y (i + 1))
           Runs (.vfscan w d a b la) s (VecResult s · la f.width d ((List.range n).zip (y 0 :: r.1)) r.2)))
    ∧ (∀ (s : State) (iw : IW) (w : FW) (d a b la n km1 : Nat) (desc idx : Bool),
         let g := s.cur.grant
         let c := n + 2 ^ 14 * (if desc then 1 else 0) + 2 ^ 15 * (if idx then 1 else 0)
         let ct := n + 2 ^ 14 * (if desc then 1 else 0) + 2 ^ 16 * km1
         let keys := s.group 32 a n
         let write := fun (t : State) (k : Nat) (ids : Bool) (r : List (Image × Nat)) =>
           t.cur.vr = (let v := putGroup s.cur.vr 32 g d ((List.range k).zip (r.map (·.1)))
             if ids then putGroup v 32 g (d + ceilDiv k g) ((List.range k).zip (r.map fun p => (⟨p.2, 0⟩ : Image))) else v)
             ∧ t.pc = (s.pc + 4) % 2 ^ 56 ∧ SameMem s t s.pcSpan ∧ t.withoutResult s = s
         1 ≤ n → n ≤ 8191 → groupBad 32 g a n = none →
         (groupBad 32 g d n = none → (idx = true → d + 2 * ceilDiv n g ≤ 32) → s.reg b = c →
             (Runs (.vsort w d a b la) s fun t => write t n idx (keySort (fpLt desc) keys))
               ∧ Runs (.vsorti iw d a b la) s fun t => write t n idx (keySort (intLt iw desc) keys))
           ∧ (groupBad 32 g d (km1 + 1) = none → d + 2 * ceilDiv (km1 + 1) g ≤ 32 → km1 < n → km1 < 256 → s.reg b = ct →
               Runs (.vtopk w d a b la) s fun t => write t (km1 + 1) true ((keySort (fpLt desc) keys).take (km1 + 1))))

/-- R206, 02 R54: the order of the sorts is a permutation of the keys, rising in the total order, and equal keys keep their
input order, under DESC too. -/
def Obligations.SortOrderIsStable : Prop :=
  ∀ (lt : Image → Image → Bool) (xs : List Image), (∃ d, lt = fpLt d) ∨ (∃ w d, lt = intLt w d) →
    let r := keySort lt xs
    (r.map (·.2)).Perm (List.range xs.length) ∧ (∀ p ∈ r, xs[p.2]? = some p.1)
      ∧ r.Pairwise fun p q => lt q.1 p.1 = false ∧ (lt p.1 q.1 = false → p.2 < q.2)

/-- R207 to R209: vector loads and stores whose elements all pass their checks; a count in b bounds `vld` and `vst`.  R210: a tile row: each lane of the grant takes the element at its index, an absent one reads as +0.
Where it rests on a reading or a choice of the model, that is: DESIGN CHOICE, notes/assumptions: 3.md. -/
def Obligations.VectorMemory : Prop :=
  (∀ (s t : State) (w : FW) (d a b rm srcf la : Nat) (vs : List Nat) (ls : List Loc),
     let n := (fwFmt w).width / 8
     let wd := max 16 (fwFmt w).width
     let E := perReg wd s.cur.grant
     let c := if b = 0 then E else min (s.reg b) E
     let Es := perReg (fwFmt w).width s.cur.grant
     let cs := if b = 0 then Es else min (s.reg b) Es
     let img := fun v : Nat => if (fwFmt w).width = 8 then (rto fp16 (encVal (fwFmt w) v)).1 else (⟨v, 0⟩ : Image)
     let row := fun k : Nat => (List.range k).map fun j => ((s.reg a, (j * n : Nat), n, n) : Part)
     let lanes := (List.range s.cur.grant).map fun i => ((s.reg a, sint (s.lane b i) 32 * 4, 4, 4) : Part)
     let src := if srcf = 0 then fp32 else if srcf = 1 then fp16 else if srcf = 2 then bf16 else fp64
     let Ef := perReg src.width s.cur.grant
     let fs := (List.range Ef).map fun j =>
       finVal (fwFmt w) (effMode rm s.rm) (s.hashMem (((s.reg a + (j * n : Nat) : Int) % 2 ^ 64).toNat % 2 ^ 56 * 8)) (s.vfp src d j)
     let stored := fun (sz : Nat) (xs : List Nat) (fl : Nat) (u : State) =>
       StoredParts t u (ls.zip xs |>.map fun p => (p.1.key, sz, p.2)) fl
     let plain := s.NoShadow ∧ ∀ l ∈ ls, 1 ≤ l.kind ∧ l.kind < 7
     (s.loadVec (row c) = .ok vs t → Runs (.vld w d a b la) s (VecResult t · la wd d ((List.range c).zip (vs.map img)) 0))
       ∧ (s.loadVec ((List.range E).map fun j : Nat => ((s.reg a, (j : Int) * sint (s.reg b) 64, n, n) : Part)) = .ok vs t →
           Runs (.vlds w d a b la) s (VecResult t · la wd d ((List.range E).zip (vs.map img)) 0))
       ∧ (s.loadVec lanes = .ok vs t →
           Runs (.vgat d a b la) s (VecResult t · la 32 d ((List.range t.cur.grant).zip (vs.map fun v => ⟨v, 0⟩)) 0))
       ∧ (plain → s.checkVec aWrite (row cs) = .ok ls t →
           Runs (.vst w d a b) s (stored n ((List.range cs).map fun j => (elemOf s.cur.vr (fwFmt w).width d j).bits) 0))
       ∧ (plain → s.checkVec aWrite (row Ef) = .ok ls t →
           Runs (.vstf w d a rm srcf) s (stored n (fs.map (·.1)) (fs.foldl (fun k r => k ||| r.2) 0)))
       ∧ (plain → s.checkVec aWrite lanes = .ok ls t →
           Runs (.vsca d a b) s (stored 4 ((List.range s.cur.grant).map fun i => s.lane d i % 2 ^ 32) 0)))
    ∧ (∀ (s t u : State) (d a b la : Nat) (m vs : List Nat),
         let co := (List.range 4).map fun k => t.reg b / 2 ^ (16 * k) % 2 ^ 16
         let ix := fun i : Nat => (co.getD 0 0 + i) :: co.drop 1
         let lanes := (List.range t.cur.grant).filter fun i => mapHas m (ix i)
         let at_ := fun i : Nat => (mapBit m (ix i)).getD 0
         let mx := isMx (mapFmt m)
         let wb := codeBits (mapFmt m)
         let parts := lanes.map fun i => bitParts (at_ i) wb (if mx then some (mapScaleAt m (mapDim m 0) (ix i)) else none)
         s.reg a % 64 = 0 → s.loadWords (s.reg a) 0 8 = .ok m t → mapBad m = false →
         (∀ k, k < 4 → mapRank m ≤ k → co.getD k 0 = 0) → (∀ i ∈ lanes, (mapBit m (ix i)).isSome = true) →
         t.loadVec parts.flatten = .ok vs u →
         Runs (.vldt d a b la) s fun x =>
           let got := (lanes.zip (pieces (parts.map (·.length)) vs)).map fun q =>
             let e := bitValue (at_ q.1) wb mx q.2
             (q.1, vldtImage (mapFmt m) e.2 e.1)
           let absent := ((List.range u.cur.grant).filter fun i => !lanes.contains i).map fun i => (i, (⟨0, 0⟩ : Image))
           VecResult u x la 32 d (absent ++ got.map fun g => (g.1, g.2.1)) (got.foldl (fun k g => k ||| g.2.2) 0))

/-! ### The polynomial unit and gangs (08) -/

/-- R218 to R221: `ppload` replaces the core's table when the header is good and the breakpoints rise, and traps RANGE
otherwise; it waits for the core's requests.  `vpoly` queues the lanes as they are at issue; the unit writes the result of
each, or leaves VGRANT unraised when the grant has shrunk.
Where it rests on a reading or a choice of the model, that is: DEDUCED, notes/assumptions: 14.md, 22.md. -/
def Obligations.PolynomialUnit : Prop :=
  ∀ (s u t : State) (d a la cl h n : Nat) (ws : List Nat) (r : PolyReq) (rs : List PolyReq),
    let ck := s.cur.coreKey
    let p := s.reg a % 2 ^ 56
    let w := { s.me with eng := 4, slot := 0 }
    let unit := (s.cluster (ck / 8)).polyQ
    let tab := (s.core r.core).poly
    (p % 16 = 0 → s.polyOf ck ≠ [] → exec (.ppload a) s = .next s)
      ∧ (p % 16 = 0 → s.polyOf ck = [] → s.engRead w 2 p 16 = .ok (h, u) → polyHeader h = some n →
          u.tableWords w (p + 16) (5 * n) = .ok (ws, t) →
          (polyRises (polySegs n ws) = true → Runs (.ppload a) s (CoreResult t · { t.core t.cur.coreKey with poly := polySegs n ws }))
            ∧ (polyRises (polySegs n ws) = false → t.cur.shadow = none → Runs (.ppload a) s (Trapped t · 0x0A 1 (t.reg a) t.pc)))
      ∧ ((s.core ck).poly = [] → s.cur.shadow = none → Runs (.vpoly d a la) s (Trapped s · 0x0A 0 0 s.pc))
      ∧ ((s.core ck).poly ≠ [] → 16 ≤ unit.length → exec (.vpoly d a la) s = .next s)
      ∧ ((s.core ck).poly ≠ [] → unit.length < 16 → Runs (.vpoly d a la) s fun x =>
          ∃ q : PolyReq, (x.cluster (ck / 8)).polyQ = unit ++ [q] ∧ q.core = ck ∧ q.act = s.cur.id ∧ q.vd = d
            ∧ q.lanes = (List.range s.cur.grant).map (s.lane a) ∧ x.cur.vr = s.cur.vr ∧ x.pc = (s.pc + 4) % 2 ^ 56
            ∧ SameMem s x s.pcSpan)
      ∧ ((s.cluster cl).polyQ = r :: rs → r.act = s.cur.id → s.cur.live = true → s.running s.cur.ctx = true →
          (r.lanes.length ≤ s.cur.grant → Runs (.vpolyRequestTake cl) s fun x =>
              let y := fun v : Nat => polyEval tab (imgVal fp32 ⟨v % 2 ^ 32, v / 2 ^ 32 % 4⟩)
              (x.cluster cl).polyQ = rs
                ∧ (∀ i v, r.lanes[i]? = some v → x.lane r.vd i = (y v).1.bits + 2 ^ 32 * (y v).1.tail)
                ∧ (∀ k, (k < r.vd * 64 ∨ r.vd * 64 + r.lanes.length ≤ k) → FMap.getD x.cur.vr k 0 = FMap.getD s.cur.vr k 0)
                ∧ (s.cur.wpOk = true →
                    x.st % 65536 = Nat.lor (s.st % 65536) ((r.lanes.map y).foldl (fun f z => f ||| z.2) 0) % 65536)
                ∧ SameMem s x s.flagSpan)
            ∧ (s.cur.grant < r.lanes.length → Runs (.vpolyRequestTake cl) s fun x =>
                (x.cluster cl).polyQ = rs ∧ x.mem = s.mem
                  ∧ x.cur = { s.cur with late := s.cur.late ++ [{ code := 0x0E, sub := 3, tval := r.pc, kind := 3, n := 0 }] }))

/-! ### The matrix unit (09) -/

/-- R226 to R240: a matrix instruction stalls while four commands wait; otherwise, when its checks pass, it queues its
command with what it captures, and changes the issue-time view of the planes.  R227, R236, R240: what the checks of the matrix instructions trap with, each with nothing queued.
Where it rests on a reading or a choice of the model, that is: DEDUCED, notes/assumptions: 15.md, 22.md. -/
def Obligations.MatrixCommands : Prop :=
  (∀ (s t : State) (d a b acc la : Nat) (m : List Nat), d < 32 →
     let k := s.core s.cur.coreKey
     let full := 4 ≤ k.mq.length
     let ctl := s.reg d
     let p := s.reg a % 2 ^ 56
     let sp := bit ctl 52
     let view := (t.core t.cur.coreKey).viewActive
     let opt := ctlOpt ctl
     let mask := t.reg b
     let map := fun (op : Nat) (cls sparse : Bool) => ¬ full ∧ p % 64 = 0 ∧ optBad op ctl = false ∧ s.loadWords (s.reg a) 0 8 = .ok m t
       ∧ mapBad m = false ∧ (cls = true → mxClass? (mapFmt m) ≠ none) ∧ coordsBad ctl m sparse = false
     let queued := fun (s : State) (op : Nat) (args : List Nat) (t : State) => ∃ c : Cmd, Queued s t 1 d c ∧ c.op = op ∧ c.args = args
       ∧ c.act = s.cur.id ∧ c.pc = s.pc
     (full → exec (.mloads d a b la) s = .next s ∧ exec (.mswap d la) s = .next s ∧ exec (.mstream d a b acc la) s = .next s
         ∧ exec (.mzero d acc la) s = .next s ∧ exec (.mscale d acc la) s = .next s ∧ exec (.mstore d a b acc la) s = .next s)
       ∧ (map 0 true sp → Runs (.mloads d a b la) s fun u => queued t 0 (m ++ [ctl, t.reg b]) u
           ∧ (u.core t.cur.coreKey).viewShadow = [if sp then 2 else 1, mapFmt m, mapDim m 0 * (if sp then 2 else 1)]
           ∧ (u.core t.cur.coreKey).viewActive = view)
       ∧ (¬ full → Runs (.mswap d la) s fun u => queued s 1 [] u
           ∧ (u.core s.cur.coreKey).viewActive = k.viewShadow ∧ (u.core s.cur.coreKey).viewShadow = k.viewActive)
       ∧ (map 2 true false → bits (mapBase m) 48 8 = 0xF1 → view.getD 0 0 ≠ 0 → mxClass? (view.getD 1 0) = mxClass? (mapFmt m) →
           view.getD 2 0 = mapDim m 0 → (mxClass? (mapFmt m) = some 3 → opt = 0) → Runs (.mstream d a b acc la) s
             (queued t 2 (m ++ [ctl, mask, acc, (t.core t.cur.coreKey).scale (opt % 8), (t.core t.cur.coreKey).scale (opt / 8)])))
       ∧ (¬ full → Runs (.mzero d acc la) s (queued s 3 [acc]))
       ∧ (¬ full → optBad 4 ctl = false → ctl % 2 ^ 52 = 0 → Runs (.mscale d acc la) s (queued s 4 [acc, k.scale (opt % 8)]))
       ∧ (map 5 false false → (bit ctl 55 = true → intRange? (mapFmt m) ≠ none) →
           (isMx (mapFmt m) = true → ∀ x ∈ [mask % 2 ^ 32, mask / 2 ^ 32], x = 0 ∨ x = 2 ^ 32 - 1) →
           Runs (.mstore d a b acc la) s (queued t 5 (m ++ [ctl, mask, acc, t.rm]))))
    ∧ (∀ (s t : State) (d a b acc la : Nat) (m : List Nat),
         let ctl := s.reg d
         let p := s.reg a % 2 ^ 56
         let each := fun (P : Instr → Nat → Prop) =>
           P (.mloads d a b la) 0 ∧ P (.mstream d a b acc la) 2 ∧ P (.mstore d a b acc la) 5
         let view := (t.core t.cur.coreKey).viewActive
         let free := (s.core s.cur.coreKey).mq.length < 4
         let read := free ∧ p % 64 = 0 ∧ optBad 2 ctl = false ∧ s.loadWords (s.reg a) 0 8 = .ok m t
         let good := read ∧ mapBad m = false ∧ mxClass? (mapFmt m) ≠ none ∧ coordsBad ctl m false = false
         (free → s.cur.shadow = none → each fun i op =>
             (p % 64 ≠ 0 → Runs i s (Trapped s · 0x03 0 p s.pc))
               ∧ (p % 64 = 0 → optBad op ctl = true → Runs i s (Trapped s · 0x0A 0 ctl s.pc)))
           ∧ (t.cur.shadow = none →
               (read → mapBad m = true → Runs (.mstream d a b acc la) s (Trapped t · 0x15 0 p t.pc))
                 ∧ (read → mapBad m = false → mxClass? (mapFmt m) = none → Runs (.mstream d a b acc la) s (Trapped t · 0x15 3 p t.pc))
                 ∧ (good → bits (mapBase m) 48 8 ≠ 0xF1 → Runs (.mstream d a b acc la) s (Trapped t · 0x15 2 p t.pc))
                 ∧ (good → bits (mapBase m) 48 8 = 0xF1 → view.getD 0 0 = 0 → Runs (.mstream d a b acc la) s (Trapped t · 0x0B 3 0 t.pc))))

/-- R229, R230, R241 to R244, R248: what reads and runs of the matrix unit do: a row of an accumulator, the weight and the
status; the command at the head of a queue completes; the arbiter goes round the cores; a plane is fetched again.
Where it rests on a reading or a choice of the model, that is: DESIGN CHOICE, notes/assumptions: 5.md; DEDUCED, notes/assumptions: 22.md. -/
def Obligations.MatrixUnit : Prop :=
  ∀ (s t : State) (d a acc la imm core cl i : Nat) (c : Cmd) (cs : List Cmd) (r : MRun) (q : Plane), d < 32 →
    let k := s.core s.cur.coreKey
    let kc := s.core core
    let x := s.reg a
    let row := fun j : Nat => FMap.getD k.acc (acc * 1024 + x * 64 + j) 0
    let head := kc.mq = c :: cs ∧ c.grp = none ∧ s.running c.ctx = true ∧ c.shadow = none
    let pl := kc.plane 0
    let ctx := ((s.cluster (core / 8)).owner).getD 0
    let w : Who := { ctx := ctx, die := core / 8192, cluster := core / 8 % 1024, core := core % 8, eng := 2, level := pl.level }
    let granted := fun (j n : Nat) (t : State) => (t.cluster cl).lastCore = j ∧ (t.cluster cl).tiles = n ∧ t.tileRuns (cl * 8 + j) = true
    (16 ≤ x → s.cur.shadow = none → Runs (.mread d a acc la) s (Trapped s · 0x0A 0 x s.pc))
      ∧ (x < 16 → groupBad 32 s.cur.grant d 64 = none → (∀ c ∈ k.mq, c.writesAcc acc = false) → Runs (.mread d a acc la) s
          (VecResult s · la 32 d ((List.range 64).map fun j => (j, ⟨row j % 2 ^ 32, row j / 2 ^ 32⟩)) 0))
      ∧ (x < 16 → groupBad 32 s.cur.grant d 64 = none → (∃ c ∈ k.mq, c.writesAcc acc = true) → Runs (.mread d a acc la) s fun t =>
          ∃ (n : Nat) (ys : List Image), ys.length = 64
            ∧ VecResult (s.modSched fun z => { z with free := n }) t la 32 d ((List.range 64).zip ys) 0)
      ∧ Runs (.mweight imm) s (CoreResult s · { k with weight := imm })
      ∧ Runs (.mstat d) s (RegResult s · 4 d (k.mq.length + 16 * k.viewActive.getD 0 0 + 64 * k.viewShadow.getD 0 0 + 256 * k.weight) 0)
      ∧ (head → c.op = 1 → Runs (.matrixCommandComplete core) s fun t =>
          (t.core core).active = kc.shadowP ∧ (t.core core).shadowP = kc.active
            ∧ (t.core core).mq = kc.mq.filter (·.n != c.n) ∧ (t.core core).tl = (kc.complete 1 c.n).tl)
      ∧ (head → c.op = 3 → Runs (.matrixCommandComplete core) s fun t =>
          (t.core core).acc = kc.acc.filter (fun e => e.1 / 1024 != c.args.getD 0 0) ∧ (t.core core).active = kc.active
            ∧ (t.core core).mq = kc.mq.filter (·.n != c.n) ∧ (t.core core).tl = (kc.complete 1 c.n).tl)
      ∧ (head → (c.op = 2 → kc.active.refetch = false ∧ c.prog ≠ 0) → (c.op = 5 → c.lost = none) → s.runMatrix core c = r → r.err = none →
          let c' := { c with prog := if c.op = 2 then c.prog else r.prog, flags := r.flags }
          let u := r.s.modCmd core 1 c.n fun _ => c'
          (c.op = 5 → r.s.cmdPosted core 1 c.n = false) →
            Runs (.matrixCommandComplete core) s fun t => t = (u.endCmd core 1 c' none 0).endVisit core)
      ∧ (head → c.op = 5 → ∀ va, c.lost = some va → Runs (.matrixCommandComplete core) s fun t =>
          t = (((s.endCmd core 1 c (some (0x0D, 1, va)) 0).cmdFailed core 1 c).endVisit core))
      ∧ ((∀ j, j < 8 → s.tileRuns (cl * 8 + j) = false) → s.tileReady (cl * 8 + (s.cluster cl).lastCore) = true →
          (s.cluster cl).tiles < (s.core (cl * 8 + (s.cluster cl).lastCore)).weight →
          Runs (.arrayGrant cl) s (granted (s.cluster cl).lastCore ((s.cluster cl).tiles + 1)))
      ∧ ((∀ j, j < 8 → s.tileRuns (cl * 8 + j) = false) →
          (s.tileReady (cl * 8 + (s.cluster cl).lastCore) = true → (s.core (cl * 8 + (s.cluster cl).lastCore)).weight ≤ (s.cluster cl).tiles) →
          (List.range 8).findSome? (fun j => let y := ((s.cluster cl).lastCore + 1 + j) % 8; if s.tileReady (cl * 8 + y) then some y else none) = some i →
          Runs (.arrayGrant cl) s (granted i 1))
      ∧ (pl.refetch = true → pl.state ≠ 0 → s.running ctx = true → (∀ y ∈ (s.ctx ctx).parked, y.who ≠ 8) →
          s.loadPlane w true pl.map pl.ctl pl.nibbles = .ok (q, t) → (∀ p ∈ t.race, p.at_ < pl.at_) →
          (∀ e ∈ q.elems, FMap.getD pl.elems e.1 e.2 = e.2) → (∀ e ∈ q.scales, FMap.getD pl.scales e.1 e.2 = e.2) →
          (∀ e ∈ q.sel, FMap.getD pl.sel e.1 e.2 = e.2 ∧ e.2 % 4 < e.2 / 4) →
          Runs (.planeRefetch core 0) s fun u => (u.core core).active = { q with at_ := pl.at_ })

/-! ### Threads, messages and endings (10) -/

/-- R258, R262 to R265, 13 R308: a send to a class with a handler and a free inbound entry is accepted: its message, with the
words of R263, stands in that entry and is queued with the handler that the target's dispatch entry names, and d is 1; without
room `send` writes 0 and `sendw` waits, and so does one to a gated cluster, which wakes (12 R294); a target word out of range, a
core outside the partition and a class without a handler trap, the last one late when the send has a window.
Where it rests on a reading or a choice of the model, that is: DEDUCED, notes/assumptions: 20.md. -/
def Obligations.Messages : Prop :=
  ∀ (s : State) (w d a b la n k : Nat) (l : LaunchId) (g : Group) (m : Msg), d < 32 → s.cur.shadow = none →
    let T := s.reg a
    let die := bits T 16 2
    let cl := bits T 6 10
    let co := bits T 3 3
    let cls := bits T 27 5
    let ck := coreKey die cl co
    let e := s.dispatch ck cls
    let x := s.ctx s.cur.ctx
    let known := T < 2 ^ 32 ∧ bits T 18 9 = s.dev.devnum ∧ cls < 24
    let inside := cl < 528 ∧ (s.cur.onControl = true ∨ x.hasCluster die cl = true)
    let awake := (s.cluster (ck / 8)).awake = 1
    let way := s.pathErr s.me.node die T
    let clear := way = none
    let good := known ∧ inside ∧ clear ∧ awake ∧ e.testBit 63 = true
    let pay := (List.range w).map fun i => s.reg (b + i)
    let words := (cls * 2 ^ 27 + s.dev.devnum * 2 ^ 18 + s.cur.place + w * 2 ^ 32) :: (pay ++ List.replicate (7 - w) 0)
    let msg : Msg := { n := s.work.nextMsg, die := die, cluster := cl, core := co, cls := cls, words := words,
                       det := s.cur.det && s.cur.launch.isSome,
                       ctx := if s.cur.onControl then ((s.cluster (ck / 8)).owner).getD 0 else s.cur.ctx, snd := s.cur.id }
    let sends := fun u : State => u.onAct s.cur.id fun z => z.modCur fun y => { y with sends := y.sends + 1 }
    let accepted := fun t : State =>
      let u := (((s.releaseTo (ptMsg s.work.nextMsg) 4).modWork fun y => { y with nextMsg := s.work.nextMsg + 1 }).enter msg).wakeCore ck
      t = ((sends u).retire 4).setRegLa la d 1 0
    let held := s.holdsFor (s.groupAt die cl co)
    let own := g.g = l.grp ∧ g.kern = l.kern
    let keeps := fun t : State => t.work = { s.work with nextMsg := s.work.nextMsg + 1 } ∧ t.Holds d 1 0 ∧ t.pc = (s.pc + 4) % 2 ^ 56 ∧ t.cur.sends = s.cur.sends + 1
      ∧ (SameMem s t fun k => s.pcSpan k ∨ s.regSpan d k)
      ∧ ∃ m, (t.ctx s.cur.ctx).heldMsgs = x.heldMsgs ++ [m] ∧ m.words = words ∧ m.die = die ∧ m.cluster = cl ∧ m.core = co
          ∧ m.cls = cls ∧ m.snd = s.cur.id
    let both := fun (P : Instr → Prop) => P (.send w d a b la) ∧ (s.cur.orig ≠ 2 → P (.sendw w d a b la))
    (good → held = none → s.roomAt ck = true → Runs (.send w d a b la) s accepted
        ∧ (s.cur.orig ≠ 2 → Runs (.sendw w d a b la) s accepted))
      ∧ (e.testBit 63 = true → (s.core ck).pend = [] → (s.core ck).freeEntry = some k → k < 32 →
          let u := s.enter msg
          (u.core ck).queue = (s.core ck).queue ++ [{ msg.take e with entry := k }] ∧ (u.core ck).inbound = k :: (s.core ck).inbound
            ∧ u.rdN (tcmOf ck (0x1000 + 64 * k)) 64 = (words.foldr (fun w v => w + 2 ^ 64 * v) 0) % 256 ^ 64)
      ∧ (good → held = none → s.roomAt ck = false → Runs (.send w d a b la) s (LongResult s · la d 0 0)
          ∧ (s.cur.orig ≠ 2 → Runs (.sendw w d a b la) s (Blocked s · (.send d T pay (la != 0)))))
      ∧ (good → held = some (l, g) → (own ∨ ((s.launch? l.q l.lseq).bind (·.lbar)).isSome = true) →
          s.heldCount s.cur.ctx < (x.area 0x38).2 / 128 → Runs (.send w d a b la) s keeps
            ∧ (s.cur.orig ≠ 2 → Runs (.sendw w d a b la) s keeps))
      ∧ (known → inside → clear → ¬ awake → Runs (.send w d a b la) s (fun t => t = s.wakeTarget T)
          ∧ (s.cur.orig ≠ 2 → Runs (.sendw w d a b la) s (Blocked (s.wakeTarget T) · (.send d T pay (la != 0)))))
      ∧ (¬ known → both fun i => Runs i s (Trapped s · 0x0A 0 T s.pc))
      ∧ (known → ¬ inside → both fun i => Runs i s (Trapped s · 0x05 0 T s.pc))
      ∧ (known → inside → way = some .stall → exec (.send w d a b la) s = .next s
          ∧ (s.cur.orig ≠ 2 → Runs (.sendw w d a b la) s (Blocked s · (.send d T pay (la != 0)))))
      ∧ (known → inside → ∀ x, way = some x → x ≠ .stall → both fun i => Runs i s fun t => t = s.dataErr 4 5 T)
      ∧ (known → inside → clear → awake → e.testBit 63 = false → la = 0 → both fun i => Runs i s (Trapped s · 0x0A 1 T s.pc))
      ∧ (known → inside → clear → awake → e.testBit 63 = false → la ≠ 0 → both fun i => Runs i s fun t =>
          t = (s.retire 4).addLate s.cur.id { code := 0x0A, sub := 1, tval := T, kind := 3, n := 0 })
      ∧ (s.cur.orig = 2 → Runs (.sendw w d a b la) s (Trapped s · 0x0A 7 0 s.pc))
      ∧ (s.work.msgs.find? (·.n == n) = some m → s.mayHandle m = true → s.msgBehind m = false →
          ((s.cluster (m.coreKey / 8)).awake = 1 → Runs (.messageArrival n) s fun t =>
              t = ((s.modWork fun w => { w with msgs := w.msgs.filter (·.n != n) }).enter m).wakeCore m.coreKey)
            ∧ ((s.cluster (m.coreKey / 8)).awake = 0 → Runs (.messageArrival n) s fun t =>
                (t.cluster (m.coreKey / 8)).awake = 2 ∧ t.work = s.work ∧ t.mem = s.mem))

/-- R273 to R275, R259, 24 R451, 03 R57, R82: endings wait for what is outstanding; `yield` is a yield point; breakpoints,
system calls, illegal words and failed fetches take their trap with the PC that the manual names.
Where it rests on a reading or a choice of the model, that is: DEDUCED, notes/assumptions: 12.md, 18.md. -/
def Obligations.EndingsAndTraps : Prop :=
  ∀ (s : State) (imm word : Nat), s.cur.shadow = none →
    let go := fun (i : Instr) =>
      (s.cur.late = [] → s.endWaits = true → exec i s = .next s)
        ∧ (∀ e es, s.cur.late = e :: es → Runs i s
            (Trapped (s.modCur fun a => { a with late := es }) · e.code e.sub e.tval s.pc))
    (s.cur.orig ≠ 2 → s.cur.late = [] → s.endWaits = false → Runs .halt s fun t => t = s.endCur false)
      ∧ (s.cur.orig = 1 → s.cur.late = [] → s.endWaits = false → Runs .hret s fun t => t = s.endCur false)
      ∧ (s.cur.orig ≠ 2 → go .halt) ∧ (s.cur.orig = 1 → go .hret)
      ∧ (s.cur.orig = 2 → Runs .halt s (Trapped s · 0x0A 0 0 s.pc)) ∧ (s.cur.orig ≠ 1 → Runs .hret s (Trapped s · 0x0A 0 0 s.pc))
      ∧ (s.cur.orig = 2 → Runs .yield s (Trapped s · 0x0A 7 0 s.pc))
      ∧ (s.cur.orig ≠ 2 → s.cur.saved = 0 → Runs .yield s fun t => t.pc = (s.pc + 2) % 2 ^ 56 ∧ SameMem s t s.pcSpan
          ∧ t.cur = { s.cur with resv := none, wd := s.cycle s.cur.die, atYield := true, wins := [] } ∧ (t.setMem s.mem).setCur s.cur = s)
      ∧ (s.cur.orig ≠ 2 → s.cur.saved ≠ 0 → Runs .yield s fun t => t = ((s.retire 2).yieldPoint).renegotiate
          ∧ t.cur.saved = 0 ∧ t.cur.grant ≤ s.cur.grant)
      ∧ Runs .brk s (Trapped s · 0x10 0 s.pc (s.pc + 2))
      ∧ Runs (.trap imm) s (Trapped s · 0x11 0 imm (s.pc + 4))
      ∧ Runs (.illegalInstruction word) s (Trapped s · 0x01 0 word s.pc)
      ∧ (s.pc % 2 = 1 → Runs .fetchFault s (Trapped s · 0x03 0 s.pc s.pc))
      ∧ (s.pc % 2 = 0 → bits s.pc 52 4 = 15 → Runs .fetchFault s (Trapped s · 0x02 0 s.pc s.pc))

/-- R255, R267 to R269, 03 R72, R75, 23 R424: what happens to an activation between its instructions: a result lands, the
watchdog expires, an error reply arrives, a wait ends, it is parked and resumed.  The issuing activation stands for any
one, since the model acts as the activation that an event names.
Where it rests on a reading or a choice of the model, that is: DESIGN CHOICE, notes/assumptions: 4.md, 8.md; DEDUCED, notes/assumptions: 14.md, 40.md. -/
def Obligations.ActivationEvents : Prop :=
  ∀ (s t : State) (core n sub addr kind eng l slot va : Nat) (ls : List Nat) (a : Act) (w : Win) (c : Cmd) (loc : Loc),
    let me := s.cur
    let mine := me.live = true ∧ s.running me.ctx = true
    let late : Late := { code := 0x12, sub := sub, tval := w.pc, kind := 3, n := 0 }
    Runs (.longLatencyResult me.id n) s (fun t => t.cur = { me with wins := (me.wins.filter (·.n == n)).foldl closeWin me.wins } ∧ t.setCur me = s)
      ∧ (mine → me.run = .ready → me.inSlot = true → s.isTop me = true → 2 ^ (s.ctx me.ctx).wdog ≤ s.cycle me.die - me.wd →
          me.shadow = none →
          (me.wpOk = true → Runs (.watchdogExpiry me.id) s fun t =>
              ∃ u, Trapped s u 0x0C 0 me.lastPc s.pc ∧ t = u.flushPoly me.id)
            ∧ (me.wpOk = false → Runs (.watchdogExpiry me.id) s fun t => t = (s.trapWsp).flushPoly me.id))
      ∧ (mine → me.wins.find? (·.n == n) = some w → w.landed = false → w.old = [] → s.NoShadow → me.run ≠ .ready → me.resv = none →
          Runs (.errorReply 0 me.id n sub addr) s fun t =>
            t.cur = { me with wins := me.wins.filter (·.n != n), late := me.late ++ [late] }
              ∧ (t.ctx me.ctx).st = 5 ∧ (t.ctx me.ctx).reason = 2 ∧ (t.ctx me.ctx).frzval = addr)
      ∧ (mine → me.wins.find? (·.n == n) = some w → w.landed = false → w.old = [] → s.NoShadow → me.run = .ready → late ∉ me.late →
          Runs (.errorReply 0 me.id n sub addr) s fun t =>
            ∃ u, Trapped ((s.dropLine addr).modCur fun y => { y with wins := y.wins.filter (·.n != n) }) u 0x12 sub w.pc s.pc
              ∧ t = ((u.flushPoly me.id).log 1 sub me.ctx me.die 0 addr).freeze me.ctx 2 addr)
      ∧ (1 ≤ eng → eng ≤ 3 → s.cmd? core (eng - 1) n = some c → Runs (.errorReply eng core n sub addr) s fun t =>
          t = (s.failCmd core (eng - 1) eng aRead c (if eng = 1 then c.done else 0) (.data sub addr)).cmdFailed core (eng - 1) c)
      ∧ (mine → me.run = .waiting (.tl kind n) →
          ((s.core me.coreKey).tl.getD kind 0 < n → exec (.waitEnd me.id) s = .next s)
            ∧ (n ≤ (s.core me.coreKey).tl.getD kind 0 → me.errorOf kind n = none → Runs (.waitEnd me.id) s fun t =>
                t.cur = { me with run := .ready, wd := s.cycle me.die, view := t.cur.view } ∧ t.pc = (s.pc + 4) % 2 ^ 56 ∧ SameMem s t s.pcSpan ∧ (t.core me.coreKey).l1 = []))
      ∧ (mine → Runs (.waitEnd me.id) s fun t => t = s.endWait.flushTrapped me.id)
      ∧ (s.waitingWork core = l :: ls → parkBest (s.allActs.filter (s.parkable core (ls.foldl max l))) = some a →
          (s.parkFree a).head? = some va → s.running a.ctx = true → s.devLoc a.ctx a.die va 0x140 aWrite = (some loc, t) →
          let y := t.copyWs a.wsKey loc.key
          let u := y.modCore core fun c => { c with parks := (y.core core).parks + 1 }
          Runs (.activationPark core) s fun v =>
            v = ((u.onAct a.id fun z => z.modCur fun x =>
              { x with parked := some loc.key, parkVa := va, parkOrder := (y.core core).parks }).relink core a.pri).wakeCore core)
      ∧ (s.resumeBest core = some a → s.freeSeat core = some slot → s.running a.ctx = true →
          (∀ m ∈ (s.core core).queue, s.msgReady core m = true → m.pri < a.pri) → (a.pri = 0 → s.ringCount core = 0) →
          Runs (.activationResume core) s fun v =>
            v = ((s.copyWs a.wsKey (tcmKey (core / 8192) (core / 8 % 1024) (core % 8) (0x140 * slot))).onAct a.id fun z =>
              (z.modCur fun x => { x with parked := none, parkVa := 0, slot := slot, wp := 0x140 * slot, atYield := false,
                                          wd := z.cycle z.cur.die }).renegotiate).relink core a.pri)

/-! ### Barriers (13), clauses (11) and pipes (15) -/

/-- R302, R304, R305: the barrier instructions on a barrier that its word names for the issuer; `u` is the state in which a
phase whose arrivals were complete has completed.  The arrival that reaches COUNT completes the phase at that moment.
Where it rests on a reading or a choice of the model, that is: DEDUCED, notes/assumptions: 18.md, 43.md. -/
def Obligations.Barriers : Prop :=
  ∀ (s : State) (d a b key : Nat), d < 32 → s.cur.shadow = none →
    let w := s.reg a
    let u := s.phaseIfDue key
    let x := u.bar key
    let n := u.reg b
    let tok := s.reg b % 2 ^ 32
    let names := bwBad w = false ∧ (bwKind w = 0 → (s.ctx s.cur.ctx).hasBarrier (bwScope w) (bwId w) = true) ∧ s.barOf w = some key
    let only := fun (s t : State) (y : Barrier) => t.bar key = y ∧ (∀ k, k ≠ key → t.bar k = s.bar k) ∧ t.acts = s.acts ∧ t.ctxs = s.ctxs
    let arrives := u.cur.arrivals.contains (key, x.phase) = false ∧ u.cur.arrivals.length < 2
    let z := u.settled (bwScope w)
    (bwBad w = false → bwKind w ≠ 0 → Runs (.binit a b) s (Trapped s · 0x0A 2 w s.pc))
      ∧ (bwBad w = true → Runs (.binit a b) s (Trapped s · 0x0A 1 w s.pc) ∧ Runs (.btest d a b) s (Trapped s · 0x0A 1 w s.pc)
          ∧ (s.cur.orig ≠ 2 → ∀ na, Runs (.barr d a na) s (Trapped s · 0x0A 1 w s.pc) ∧ Runs (.bwait a b) s (Trapped s · 0x0A 1 w s.pc)))
      ∧ (names → bwKind w = 0 → n ≠ 0 → n ≤ barMax (bwScope w) → x.arrived = 0 → Runs (.binit a b) s fun t =>
          only u t { x with v := true, count := n, arrived := 0 } ∧ t.cur = u.cur ∧ t.pc = (u.pc + 4) % 2 ^ 56 ∧ SameMem u t u.pcSpan)
      ∧ (names → s.cur.orig ≠ 2 → x.v = true → arrives → u.ReleaseFree (bwScope w) →
          let y := { x with arrived := x.arrived + 1 }
          let mine : Act := { z.cur with arrivals := (key, x.phase) :: u.cur.arrivals }
          let v := ((z.setBar key y).modCur fun _ => mine).releaseTo (ptBar key x.phase) (bwScope w)
          (Runs (.barr d a 1) s fun t => t = ((v.retire 4).setReg d x.phase 0).phaseIfDue key)
            ∧ (∀ na, na ≠ 1 → Runs (.barr d a na) s fun t => t = (v.block (.barrier key x.phase d w)).phaseIfDue key)
            ∧ (x.arrived + 1 < x.count →
                (Runs (.barr d a 1) s fun t => only u t y ∧ t.Holds d x.phase 0 ∧ t.cur = mine ∧ t.pc = (u.pc + 4) % 2 ^ 56
                    ∧ SameMem u t fun k => u.pcSpan k ∨ u.regSpan d k)
                  ∧ (∀ na, na ≠ 1 → Runs (.barr d a na) s fun t => only u t y ∧ t.mem = u.mem
                      ∧ t.cur = { mine with run := .waiting (.barrier key x.phase d w), resv := none, wd := u.cycle u.cur.die,
                                            atYield := true, wins := [] })))
      ∧ (names → s.cur.orig ≠ 2 → x.v = true → u.cur.arrivals.contains (key, x.phase) = true → u.cur.shadow = none →
          Runs (.barr d a 0) s (Trapped u · 0x08 0 w u.pc))
      ∧ (names → x.v = true → phaseDone x.phase tok = true →
          let after := fun t : State => t.cur = { u.cur with view := t.cur.view }
          (s.cur.orig ≠ 2 → Runs (.bwait a b) s fun t => t.pc = (u.pc + 4) % 2 ^ 56 ∧ SameMem u t u.pcSpan ∧ after t)
            ∧ Runs (.btest d a b) s fun t => t.pc = (u.pc + 4) % 2 ^ 56 ∧ t.Holds d 1 0 ∧ after t
                ∧ SameMem u t fun k => u.pcSpan k ∨ u.regSpan d k)
      ∧ (names → x.v = true → x.phase = tok →
          (s.cur.orig ≠ 2 → Runs (.bwait a b) s (Blocked u · (.barrier key tok 0 w))) ∧ Runs (.btest d a b) s (RegResult u · 4 d 0 0))
      ∧ ((s.bar key).due = false → (barScope key = 5 → (s.bar key).v = false) → exec (.barrierPhaseComplete key) s = .next s)
      ∧ ((s.bar key).due = true ∨ (barScope key = 5 ∧ (s.bar key).v = true) → key / 2 ^ 35 = 0 → Runs (.barrierPhaseComplete key) s fun t =>
          t.bar key = { s.bar key with arrived := 0, phase := ((s.bar key).phase + 1) % 2 ^ 32 }
            ∧ ∀ k, k ≠ key → t.bar k = s.bar k)

/-- R278 to R286: what the clause instructions write: a new record, a decrement, a child, a join and the end of a clause, and
the start of the record at the head of the ready ring; outside a clause `cspawn`, `cjoin` and `cdone` trap RANGE.
Where it rests on a reading or a choice of the model, that is: DEDUCED, notes/assumptions: 18.md. -/
def Obligations.Clauses : Prop :=
  ∀ (s t u : State) (w d a b la i j k core slot c addr va : Nat) (ok : Bool) (p : RecPlace), d < 32 →
    let h := s.reg a
    let n := s.reg b
    let ck := s.cur.coreKey
    let ctl := s.recCtl k
    let path := s.recPath k
    let kids := ctlKids ctl
    let good := h % 2 = 0 ∧ h < 2 ^ 56
    let clause := s.cur.orig = 2 ∧ s.myRec = some (i, k)
    let more := kids < 64 ∧ path / 2 ^ 60 < 9
    let make := fun (s : State) (i path root : Nat) =>
      ((((s.writeRec (recKeyOf ck i) h n 1 path root 0 []).modCore ck fun y => { y with recs := y.recs.put i s.myInfo }).retire 4).setRegLa
        la d (recAddr ck i) 0)
    let f := s.fillRecs ck
    let nr := f.newRoot
    let fk := ctlKids (f.recCtl k)
    let fp := f.recPath k
    let count := 1 ≤ n ∧ n < 2 ^ 31
    (good → count → s.myRec = none →
        (nr.2.freeRec ck = some i → Runs (.cnew d a b la) s fun x => x = make nr.2 i 0 nr.1)
          ∧ (nr.2.freeRec ck = none → Runs (.cnew d a b la) s fun x => x = (nr.2.retire 4).setRegLa la d 0 0))
      ∧ (good → count → f.myRec = some (i, k) → fk < 64 → fp / 2 ^ 60 < 9 →
          (f.freeRec ck = none → Runs (.cnew d a b la) s (LongResult f · la d 0 0))
            ∧ (f.freeRec ck = some j →
                let v := f.setCtl k (setBits (f.recCtl k) 4 7 (fk + 1))
                v.freeRec ck = some j → Runs (.cnew d a b la) s fun x => x = make v j (childPath fp fk) (v.recRoot k)))
      ∧ (ea (s.reg a) 0 = .ok va → s.recAddrOk s.me va = .ok true → s.decRec s.me va = .ok (ok, u) → Runs (.cdec a) s fun x =>
          x.pc = (u.pc + 4) % 2 ^ 56 ∧ SameMem u x u.pcSpan
            ∧ x.cur = if ok then u.cur else { u.cur with late := u.cur.late ++ [{ code := 0x0A, sub := 6, tval := va, kind := 3, n := 0 }] })
      ∧ (ea (s.reg a) 0 = .ok va → s.recAddrOk s.me va = .ok false → s.cur.shadow = none → Runs (.cdec a) s (Trapped s · 0x0A 0 va s.pc))
      ∧ (good → clause → more → ctlHold ctl = false →
          s.placeRec (s.childCore (childPath path kids) (s.recRoot k)) h 0 2 (childPath path kids) (s.recRoot k) 0
            ((List.range w).map fun i => s.reg (b + i)) = .ok (some (addr, t)) →
          Runs (.cspawn w d a b la) s fun x => x = ((t.setCtl k (setBits ctl 4 7 (kids + 1))).retire 4).setRegLa la d kids 0)
      ∧ (good → clause → more → ctlHold ctl = true → s.recConj k ≠ 0 → s.findRec s.me (s.recConj k) = .ok (some p, u) →
          u.placeRec (u.childCore (childPath path kids) (s.recRoot k)) h 0 2 (childPath path kids) (s.recRoot k) (s.recConj k)
            ((List.range w).map fun i => u.reg (b + i)) = .ok (some (addr, t)) →
          let v := t.setCtl k (setBits ctl 4 7 (kids + 1))
          Runs (.cspawn w d a b la) s fun x => x = ((v.putRec p 8 4 (v.recCnt p.key + 1)).retire 4).setRegLa la d kids 0)
      ∧ (good → clause → ctlHold ctl = false →
          s.placeRec ck h 1 (1 + 8 + kids * 2 ^ 11) path (s.recRoot k) (s.recConj k) [0, 0, n] = .ok (some (addr, t)) →
          Runs (.cjoin d a b la) s fun x =>
            x = (((t.wrN (k + 32) 8 addr).setCtl k (setBits ctl 2 1 1)).retire 4).setRegLa la d addr 0)
      ∧ (good → ¬ (s.cur.orig = 2 ∧ s.myRec.isSome = true) → s.cur.shadow = none →
          Runs (.cspawn w d a b la) s (Trapped s · 0x0A 2 0 s.pc) ∧ Runs (.cjoin d a b la) s (Trapped s · 0x0A 2 0 s.pc)
            ∧ Runs (.cdone a) s (Trapped s · 0x0A 2 0 s.pc))
      ∧ (clause → s.cur.late = [] → s.endWaits = true → exec (.cdone a) s = .next s)
      ∧ (clause → s.cur.late = [] → s.endWaits = false → s.recConj k = 0 → Runs (.cdone a) s fun x => x = s.clauseEnd i)
      ∧ (clause → s.cur.late = [] → s.endWaits = false → s.recConj k ≠ 0 → ctlHold ctl = true → s.decRec s.me (s.recConj k) = .ok (true, u) →
          Runs (.cdone a) s fun x => x = u.clauseEnd i)
      ∧ (let f := s.fillRecs core
         let head := f.rdN (tcmOf core 0x2800) 2
         let v := f.wrN (tcmOf core 0x2800) 2 (head + 1)
         let j := f.rdN (tcmOf core (0x2804 + 2 * (head % 64))) 2 % 64
         let own := decide (ctlCluster ≤ core / 8 % 1024)
         (if own then some (FMap.getD (f.core core).recs j {}).ctx else (f.cluster (core / 8)).owner) = some c → f.freeSeat core = some slot →
         (own = true ∨ f.running c = true) → (f.cluster (core / 8)).awake = 1 → f.cur.id ≠ f.sched.nextAct →
         f.ringCount core ≠ 0 → f.beforeRing core = false → ctlState (v.recCtl (recKeyOf core j)) = 2 →
         Runs (.clauseStart core) s fun x =>
           ∃ act ∈ x.allActs, act.orig = 2 ∧ act.slot = slot ∧ act.clauseRec = some j
             ∧ act.wp = 0x140 * slot ∧ act.ctx = c ∧ act.live = true ∧ act.id = f.sched.nextAct ∧ (x.core core).l1 = [])

/-- R323 to R326: the forms of a pipe for a thread of one of its kernels, when no other thread waits for its cursor: the next
slot is taken, or the instruction waits or writes 0.
Where it rests on a reading or a choice of the model, that is: DEDUCED, notes/assumptions: 27.md. -/
def Obligations.Pipes : Prop :=
  ∀ (s : State) (d a b q k : Nat) (l : LaunchId) (p : Pipe), d < 32 →
    let v := s.reg a
    let key := pipeKey l.q l.lseq l.grp (v % 65536)
    let producer := p.fromK == l.kern
    let mine := s.cur.orig = 0 ∧ s.cur.launch = some l ∧ s.work.pipes.get? key = some p ∧ (p.fromK = l.kern ∨ p.toK = l.kern)
      ∧ v < 65536 ∧ (s.cur.det = true → l.thr = 0)
    let u := s.serve key
    let z := FMap.getD u.work.pipes key {}
    let alone := fun side => ∀ x ∈ u.allActs, x.pipeWait z key side = none
    let src := s.reg d
    let n := s.reg b
    let fill := mine ∧ p.fromK = l.kern ∧ n ≠ 0 ∧ n ≤ p.slotb ∧ p.abandoned = false ∧ alone true
    let got := fun (y : Nat) (t : State) => t.Holds d y 0 ∧ t.pc = (u.pc + 4) % 2 ^ 56 ∧ t.cur.run = .ready
      ∧ SameMem u t fun k => u.pcSpan k ∨ u.regSpan d k
    (mine → alone producer → z.next producer = .slot k → ∀ nw, Runs (.pacq d a nw) s fun t =>
        got (z.base + k * z.slotb) t ∧ t.work.pipes = u.work.pipes.put key (z.taken producer false))
      ∧ (mine → alone producer → z.next producer = .zero → ∀ nw, Runs (.pacq d a nw) s fun t => got 0 t ∧ t.work = u.work)
      ∧ (mine → alone producer → z.next producer = .wait → Runs (.pacq d a 1) s (RegResult u · 4 d 0 0)
          ∧ ∀ nw, nw ≠ 1 → Runs (.pacq d a nw) s (Blocked u · (.pacq d key u.sched.clock)))
      ∧ (mine → p.slotAt n = some k → p.st.getD k 0 = (if producer then 1 else 4) → Runs (.prel a b) s fun t =>
          t.work.pipes = s.work.pipes.put key { p with st := p.st.set k (if producer then 3 else 0) } ∧ t.cur = s.cur
            ∧ t.pc = (s.pc + 4) % 2 ^ 56 ∧ SameMem s t s.pcSpan)
      ∧ (mine → s.cur.shadow = none → p.slotAt n = none → Runs (.prel a b) s (Trapped s · 0x0A 3 n s.pc))
      ∧ (s.cur.orig ≠ 0 → s.cur.shadow = none → Runs (.prel a b) s (Trapped s · 0x0A 1 v s.pc)
          ∧ Runs (.pfill d a b q) s (Trapped s · 0x0A 1 v s.pc) ∧ ∀ nw, Runs (.pacq d a nw) s (Trapped s · 0x0A 1 v s.pc))
      ∧ (fill → z.next true = .slot k → u.myCore.copies.length < 32 → Runs (.pfill d a b q) s fun t => ∃ c : Cmd,
          (t.core u.cur.coreKey).copies = (u.core u.cur.coreKey).copies ++ [c] ∧ c.op = 3 ∧ c.q = q
            ∧ c.args = [z.base + k * z.slotb, src, n, key, k] ∧ got c.n t ∧ t.work.pipes = u.work.pipes.put key (z.taken true true))
      ∧ (fill → z.next true = .wait → Runs (.pfill d a b q) s (Blocked u · (.pfill d key src n q u.sched.clock)))
      ∧ (fill → z.next true = .zero → Runs (.pfill d a b q) s (got 0))

/-! ### Queues, launches and shadows (12, 15, 16, 17) -/

/-- R331, R338, 17 R355: what the forms on a queue of the issuer's own context read and write, and the doorbell.
Where it rests on a reading or a choice of the model, that is: DEDUCED, notes/assumptions: 26.md. -/
def Obligations.Queues : Prop :=
  ∀ (s t u : State) (d a b la tail q r : Nat) (x : Queue), d < 32 → s.cur.shadow = none →
    let v := s.reg a
    let i := s.reg b
    let mine := v < 1024 ∧ s.work.queues.get? v = some x ∧ x.ctx = s.cur.ctx ∧ s.cur.onControl = false
    let nt := (x.trans.filter fun t => decide (1 ≤ t.conf)).length
    let state := x.st + x.pri * 4 + b2n x.det * 16 + b2n x.hn * 32 + b2n x.dev * 64 + x.err * 256
    let may := mine ∧ x.dev = true ∧ x.st = 1
      ∧ (s.cur.det = true → s.cur.launch.isSome = true → s.cur.orig = 0 ∧ ∃ l, s.cur.launch = some l ∧ l.grp = 0 ∧ l.thr = 0)
    let w : Who := { t.me with level := .sup }
    let y := s.queue q
    let all := fun (P : Instr → Prop) => P (.qlaunch d a b la) ∧ P (.spstat d a b la) ∧ P (.spstatClr d a b la) ∧ P (.spstatSt d a la)
      ∧ ∀ k, P (.qstat d a k la)
    (2 ^ 10 ≤ v → all fun j => Runs j s (Trapped s · 0x0A 1 v s.pc))
      ∧ (v < 1024 → s.work.queues.get? v = some x → x.ctx ≠ s.cur.ctx → all fun j => Runs j s (Trapped s · 0x05 0 v s.pc))
      ∧ (mine → Runs (.qstat d a 1 la) s (LongResult s · la d x.tail 0) ∧ Runs (.qstat d a 2 la) s (LongResult s · la d state 0)
          ∧ Runs (.qstat d a 0 la) s (LongResult (s.syncAt [(ptQueue v 1, ptQueue v x.tlc)] 4) · la d x.tlc 0))
      ∧ (mine → 12 < i → Runs (.spstat d a b la) s (Trapped s · 0x0A 4 i s.pc) ∧ Runs (.spstatClr d a b la) s (Trapped s · 0x0A 4 i s.pc))
      ∧ (mine → i ≤ 12 → Runs (.spstat d a b la) s (LongResult s · la d (x.counters.getD i 0) 0))
      ∧ (mine → i ≤ 12 → Runs (.spstatClr d a b la) s fun t => t.Holds d (x.counters.getD i 0) 0 ∧ t.pc = (s.pc + 4) % 2 ^ 56
          ∧ (∀ k, k < 13 → (t.queue v).counters.getD k 0 = if k = i then 0 else x.counters.getD k 0)
          ∧ SameMem s t fun k => s.pcSpan k ∨ s.regSpan d k)
      ∧ (mine → Runs (.spstatSt d a la) s (LongResult s · la d (x.shadow.st + x.hist.length * 16 + nt * 256) 0))
      ∧ (mine → (x.dev = false ∨ x.st ≠ 1) → Runs (.qlaunch d a b la) s (Trapped s · 0x0A 2 v s.pc))
      ∧ (may → i % 128 ≠ 0 → Runs (.qlaunch d a b la) s (Trapped s · 0x03 0 i s.pc))
      ∧ (may → i % 128 = 0 → s.loadRec i 0 16 = .ok r t → 2 ^ x.nrec ≤ x.tail - x.head →
          Runs (.qlaunch d a b la) s (LongResult t · la d 0 0))
      ∧ (may → i % 128 = 0 → s.loadRec i 0 16 = .ok r t → x.tail - x.head < 2 ^ x.nrec →
          t.engWrite w 2 (x.ring + 128 * (x.tail % 2 ^ x.nrec)) 128 r = .ok u →
          Runs (.qlaunch d a b la) s
            (LongResult ((u.releaseTo (ptDoor v (x.tail + 1)) 4).setTail v (x.tail + 1)) · la d (x.tail + 1) 0))
      ∧ ((y.st = 0 ∨ s.dev.ready = false) → exec (.doorbell q tail) s = .next s)
      ∧ (y.st ≠ 0 → s.dev.ready = true → y.dev = false → y.tail ≤ tail → tail ≤ y.head + 2 ^ y.nrec →
          let z := s.modQueue q fun y => { y with tail := tail, tailDue := true }
          let put := z.qWrite y.ctx (y.desc + 0x10) 8 tail
          (y.stalled.isSome = true → Runs (.doorbell q tail) s fun t => t = z)
            ∧ (y.stalled = none → (y.st ≠ 2 ∨ y.err ≠ 3) →
                (∀ w, put = .ok w → Runs (.doorbell q tail) s fun t => t = w.modQueue q fun x => { x with tailDue := false })
                  ∧ ∀ e, put = .error e → Runs (.doorbell q tail) s fun t => t = z.queueFail q e))
      ∧ (y.st ≠ 0 → s.dev.ready = true → y.shadow.st = 0 → (y.dev = true ∨ tail < y.tail ∨ y.head + 2 ^ y.nrec < tail) →
          Runs (.doorbell q tail) s fun t => (t.queue q).st = 2 ∧ (t.queue q).err = if y.dev then 2 else 1)

/-- 12 R292 to R297, 16 R332, R334: the steps that take up a launch, place its groups, wake and gate clusters, rotate a
position and complete a launch, and 17 R344, R353: those that start and commit a shadow.  Each premise is the step's
condition; a step whose condition fails changes nothing.
Where it rests on a reading or a choice of the model, that is: DESIGN CHOICE, notes/assumptions: 4.md, 25.md; DEDUCED, notes/assumptions: 25.md, 26.md. -/
def Obligations.LaunchSteps : Prop :=
  ∀ (s t u : State) (q lseq v c cl pos j n : Nat) (k : Nat × Nat) (l : Launch) (g : Group) (gs : List Group)
    (ps : List (Nat × Nat)) (p : Nat × Nat × Nat × List Nat),
    let x := s.queue q
    let h := x.head + 1
    let r := lrecOf (2 ^ 96 * v)
    let cls := (s.ctx c).clusterList
    let here := fun g : Group => clusterKey g.die g.cluster == cl && g.shadow.isNone && !g.out && (g.c0 == pos || decide (g.c0 / 8 = pos / 8 ∧ pos = 0))
    let turns := s.work.groups.find? (fun g => here g && ((s.launch? g.q g.lseq).map (·.prog)) == some true) = some g
      ∧ s.launch? g.q g.lseq = some l ∧ (List.range l.positions.length).find? (fun j => l.positions.getD j 0 == g.position) = some j
      ∧ s.nextGroup l j = some n ∧ s.running g.ctx = true
    let members := (s.groupsOf l g.position).filter fun x => x.g == g.g
    let images := s.imagePlaces g.ctx ((s.work.groups.filter fun x => x.ctx == g.ctx && x.out).map (·.image))
      (members.map fun x => imageSize (l.kernels.getD x.kern {}) x (s.groupThreads x))
    (x.job = none → x.tailDue = false → s.mayTake q = false → exec (.launchTakeUp q) s = .next s)
      ∧ ((x.job.isSome = true ∨ x.tailDue = true) → s.running x.ctx = true → Runs (.launchTakeUp q) s fun t => t = s.runJob q jobFuel)
      ∧ (s.mayTake q = true → x.cancelled ≠ 0 → Runs (.launchTakeUp q) s fun t => t = s.takeUp q h x.cancelled 0)
      ∧ (s.mayTake q = true → x.cancelled = 0 → (s.syncDev (s.qWho x.ctx).die [(ptDoor q h, ptDoor q h)]).qRead x.ctx 0 (x.ring + 128 * ((h - 1) % 2 ^ x.nrec) + 12) 20 = .ok (v, u) →
          (r.bar = true → x.tlc + 1 < h → exec (.launchTakeUp q) s = .next s)
            ∧ (r.bar = false → r.wait = true → u.waitBad q h r = true → Runs (.launchTakeUp q) s fun t => t = u.takeUp q h 2 0)
            ∧ (r.bar = false → r.wait = true → u.waitBad q h r = false → (u.queue r.waitq).tlc < r.waitv → Runs (.launchTakeUp q) s fun t =>
                t = s.modQueue q fun y => { y with waits := some r.waitq })
            ∧ ((r.bar = true → h ≤ x.tlc + 1) → (r.wait = true → u.waitBad q h r = false ∧ r.waitv ≤ (u.queue r.waitq).tlc) →
                Runs (.launchTakeUp q) s fun t => t = u.takeUp q h 0 (u.queue r.waitq).tlc))
      ∧ (s.running c = true → s.heldGroup c = some (l, gs) → Runs (.groupPlace c) s fun t => t = s.startHeld l gs)
      ∧ (s.running c = true → s.heldGroup c = none → Runs (.groupPlace c) s fun t => t = s.offers c (s.offerOrder c))
      ∧ (s.running c = true → cls.find? (fun k => (s.cluster (clusterKey k.1 k.2)).awake == 0) = some k →
          (∀ k ∈ cls, (s.cluster (clusterKey k.1 k.2)).wake293 = false) →
          (∃ q ∈ s.offerOrder c, ∃ l, s.offer q = some l ∧ l.admitted = true ∧ l.cores = false ∧ l.prog = false ∧ l.argsIn = true
            ∧ l.nextSeat cls (s.occ c false) = none) →
          Runs (.wakeBegin c) s fun t => t = s.modCluster (clusterKey k.1 k.2) fun c => { c with awake := 2, wake293 := true })
      ∧ ((s.cluster cl).awake = 2 → Runs (.clusterAwake cl) s fun t => t = s.modCluster cl fun c => { c with awake := 1, wake293 := false })
      ∧ ((s.cluster cl).owner = some c → (s.cluster cl).awake = 1 → bit s.dev.awake c = false → s.running c = true → s.quiet cl = true →
          Runs (.clusterGate cl) s fun t => t = s.modCluster cl fun c => { c with awake := 0 })
      ∧ ((s.cluster cl).owner = some c → s.quiet cl = false → exec (.clusterGate cl) s = .next s)
      ∧ (turns → s.rotatable members = true → images = some ps →
          let z := (members.zip ps).foldl (fun s x => s.swapGroupOut l x.1 x.2) s
          (z.roomFor (z.outsOf l j n) = true → Runs (.sliceRotation cl pos) s fun t => t = z.bringIn l j n)
            ∧ (z.roomFor (z.outsOf l j n) = false → exec (.sliceRotation cl pos) s = .next s))
      ∧ (turns → s.rotatable members = true → images = none → Runs (.sliceRotation cl pos) s fun t => t = s.freeze g.ctx 4 0x28)
      ∧ (turns → s.rotatable members = false → exec (.sliceRotation cl pos) s = .next s)
      ∧ (s.launch? q lseq = some l → l.shadow = false → l.ng * l.kernels.length ≤ l.ended → s.running l.ctx = true → x.held = false →
          (∀ m ∈ (s.ctx l.ctx).heldMsgs, m.lid ≠ launchNo q lseq) → (∀ y ∈ s.cores, ∀ m ∈ y.2.pend, m.lid ≠ launchNo q lseq) →
          Runs (.launchComplete q lseq) s fun t =>
            t = ((s.closeLaunch l.ctx q lseq).modQueue q fun y => if l.partsAt.isEmpty then y else { y with parts := y.parts.put lseq l.partsAt }).beginJob
                  q { n := lseq, stage := 4, status := if l.killed then 6 else 0 })
      ∧ (s.launch? q lseq = some l → l.ended < l.ng * l.kernels.length → exec (.launchComplete q lseq) s = .next s)
      ∧ (s.running x.ctx = true → x.held = false → s.nextShadowGroup q = some t → Runs (.shadowStart q) s fun z => z = t)
      ∧ (s.running x.ctx = true → x.held = false → s.nextShadowGroup q = none → x.predicted = some p →
          (∀ l, s.launch? q (p.2.2.1 - 1) = some l → l.ng ≤ l.placed) →
          let z := s.modQueue q fun y => { y with predicted := none }
          (z.startShadow q p = .ok (some t) → Runs (.shadowStart q) s fun z => z = t)
            ∧ (z.startShadow q p = .ok none → Runs (.shadowStart q) s fun t => t = z))
      ∧ (x.shadow.st = 4 → s.running x.ctx = true → x.held = false → s.commitWrites q = .ok u →
          let z := ((u.modQueue q fun y =>
            { (if x.shadow.wasAdopted then (y.count 1).count 2 else y.count 1) with shadow := {} }).leaveShadow q).mapLaunches fun l =>
              if l.q = q ∧ l.lseq = x.shadow.lseq then { l with shadow := false, ended := l.ng * l.kernels.length } else l
          Runs (.shadowCommit q) s fun t => exec (.launchComplete q x.shadow.lseq) z = .next t)

/-! ### Indexes and copies (21, 07) -/

/-- R401, R402, R407, 17 R340: the index commands are queued behind a full-queue stall, an alignment trap and the refusal of
updates from a deterministic launch and in a shadow; the descriptor forms write what their run gives, and trap ALIGN on a
misaligned base.
Where it rests on a reading or a choice of the model, that is: DEDUCED, notes/assumptions: 23.md, 31.md, 32.md. -/
def Obligations.IndexInstructions : Prop :=
  ∀ (s u : State) (d a b q la v : Nat), d < 32 →
    let base := s.reg a % 2 ^ 56
    let r := s.reg b % 2 ^ 56
    let full := 16 ≤ s.myCore.index.length
    let det := s.cur.det = true ∧ s.cur.launch.isSome = true
    let can := fun (op al : Nat) => (op = 0 ∨ s.cur.shadow = none) ∧ ¬ full ∧ base % 65536 = 0 ∧ r % al = 0 ∧ (op = 0 ∨ ¬ det)
    let queued := fun (op : Nat) (t : State) =>
      ∃ c : Cmd, Queued s t 2 d c ∧ c.op = op ∧ c.args = [base, r] ∧ c.q = q ∧ c.ctx = s.cur.ctx ∧ c.level = s.cur.level
    let cannot := fun (i : Instr) (op al : Nat) =>
      ((op = 0 ∨ s.cur.shadow = none) → full → exec i s = .next s)
        ∧ (s.cur.shadow = none → ¬ full → base % 65536 ≠ 0 → Runs i s (Trapped s · 0x03 0 base s.pc))
        ∧ (s.cur.shadow = none → ¬ full → base % 65536 = 0 → r % al ≠ 0 → Runs i s (Trapped s · 0x03 0 r s.pc))
        ∧ (s.cur.shadow = none → ¬ full → base % 65536 = 0 → r % al = 0 → op ≠ 0 → det → Runs i s (Trapped s · 0x0A 2 (s.reg a) s.pc))
    let plain := s.cur.shadow = none ∧ base % 65536 = 0
    let gives := fun t : State => LongResult u t la d v 0
    (can 0 64 → Runs (.nload d a b q la) s (queued 0)) ∧ (can 1 32 → Runs (.nstore d a b q la) s (queued 1))
      ∧ (can 2 16 → Runs (.ndel d a b q la) s (queued 2))
      ∧ cannot (.nload d a b q la) 0 64 ∧ cannot (.nstore d a b q la) 1 32 ∧ cannot (.ndel d a b q la) 2 16
      ∧ (plain → r % 64 = 0 → (initIx s.cur.ctx { s.me with eng := 3, slot := 0 } base r).run s = .ok (v, u) →
          Runs (.ninit d a b la) s gives)
      ∧ (plain → r % 64 ≠ 0 → Runs (.ninit d a b la) s (Trapped s · 0x03 0 r s.pc))
      ∧ (plain → (takeHold s.cur.ctx base).run s = .ok (v, u) → Runs (.nsnap d a la) s gives)
      ∧ (plain → (dropHold s.cur.ctx base (s.reg b)).run s = .ok (v, u) → Runs (.nsnapRel d a b la) s gives)
      ∧ (plain → (freeIx s.cur.ctx base).run s = .ok (v, u) → Runs (.nfree d a la) s gives)
      ∧ (plain → (statIx s.cur.ctx none base q).run s = .ok (v, u) → Runs (.nstat d a q la) s gives)
      ∧ (s.cur.shadow = none → base % 65536 ≠ 0 →
          Runs (.ninit d a b la) s (Trapped s · 0x03 0 base s.pc) ∧ Runs (.nsnap d a la) s (Trapped s · 0x03 0 base s.pc)
            ∧ Runs (.nsnapRel d a b la) s (Trapped s · 0x03 0 base s.pc) ∧ Runs (.nfree d a la) s (Trapped s · 0x03 0 base s.pc)
            ∧ Runs (.nstat d a q la) s (Trapped s · 0x03 0 base s.pc))

/-- R389, R391, R396, R397, R400, R405: an index command is accepted in the order of its core's updates; the next accepted
operation of an index is applied; an accepted query completes; what the horizon frees is reclaimed.  07 R187: a copy command
runs its accesses and completes; one with a lost write ends with LINKLOST (26 R465).  Each premise is the step's condition; a
command that waits for a replay, or whose context does not run, stays as it is.
Where it rests on a reading or a choice of the model, that is: DEDUCED, notes/assumptions: 22.md, 32.md, 38.md. -/
def Obligations.IndexAndCopyEvents : Prop :=
  ∀ (s t : State) (core seq ctx base : Nat) (c k : Cmd) (st v : Nat) (args : List Nat) (r : Nat × Nat) (op : IdxOp) (ops : List IdxOp),
    let go := c.grp = none ∧ s.running c.ctx = true
    let acc := if c.op = 0 then acceptQuery c else acceptUpdate core c (c.op == 1)
    let end_ := fun (u : State) (k : Cmd) => (u.modCmd core 2 seq fun _ => k).finishIdx core k
    let m := s.runCopy c
    let c' := { c with prog := m.prog, flags := m.flags, stuck := m.stuck }
    let put := m.s.modCmd core 0 seq fun _ => c'
    let idle := (c.grp.isSome = true ∧ c.lost = none ∧ c.total ≤ c.prog) ∨ s.running c.ctx = false ∨ (s.core core).frozen = true
    (s.cmd? core 2 seq = some c → go → c.prog = 0 → (c.op ≠ 0 → ∀ d ∈ (s.core core).index, d.op ≠ 0 → d.prog = 0 → c.n ≤ d.n) →
        (acc.run s = .ok (.accepted args, t) → Runs (.indexAccept core seq) s fun u =>
            u = t.modCmd core 2 seq fun _ => { c with prog := 1, args := args })
          ∧ (acc.run s = .ok (.refused st, t) → Runs (.indexAccept core seq) s fun u =>
            u = end_ t { c with prog := 2, args := c.args.take 2 ++ [st, 0] }))
      ∧ (s.cmd? core 2 seq = some c → (∃ d ∈ (s.core core).index, d.op ≠ 0 ∧ d.prog = 0 ∧ d.n < c.n) → c.op ≠ 0 → c.prog = 0 →
          exec (.indexAccept core seq) s = .next s)
      ∧ (((s.ctx ctx).st = 3 ∨ (s.ctx ctx).st = 4) → (FMap.getD (s.ctx ctx).indexes base {}).ops = op :: ops →
          (s.idxCmds ctx).find? (fun c => c.1 == op.core && c.2.n == op.n) = some (core, k) →
          ((FMap.getD (s.ctx ctx).indexes base {}).broken = true ∨ k.grp = none) →
          (applyOp ctx base op).run s = .ok (r, t) →
          let d := { k with prog := 2, grp := none, args := k.args.take 2 ++ [r.1 * 2 ^ 56 + op.seq, r.2] }
          Runs (.indexApply ctx base) s fun u =>
            u = t.asSaved ctx op.core fun s => (s.modCmd op.core 2 op.n fun _ => d).finishIdx op.core d)
      ∧ ((s.ctx ctx).st ≠ 3 → (s.ctx ctx).st ≠ 4 → exec (.indexApply ctx base) s = .next s ∧ exec (.indexReclaim ctx base) s = .next s)
      ∧ (s.cmd? core 2 seq = some c → go → c.op = 0 → c.prog = 1 → (runQuery c).run s = .ok (v, t) →
          Runs (.nloadComplete core seq) s fun u => u = end_ t { c with prog := 2, args := c.args.take 2 ++ [v, 0] })
      ∧ (((s.ctx ctx).st = 3 ∨ (s.ctx ctx).st = 4) → ((s.ctx ctx).indexes.get? base).isSome = true →
          (FMap.getD (s.ctx ctx).indexes base {}).recl = none → (FMap.getD (s.ctx ctx).indexes base {}).broken = false →
          (reclaim ctx base).run s = .ok ((), t) → Runs (.indexReclaim ctx base) s fun u => u = t)
      ∧ (s.cmd? core 0 seq = some c → ¬ idle → (∀ va, c.lost = some va → Runs (.copyCommandComplete core seq) s fun u =>
          u = (s.endCmd core 0 c (some (0x0D, 1, va)) c.done).cmdFailed core 0 c))
      ∧ (s.cmd? core 0 seq = some c → ¬ idle → c.lost = none → m.err = none →
          (m.stuck = [] → m.s.cmdPosted core 0 seq = false → Runs (.copyCommandComplete core seq) s fun u => u = (put.fillSlot c true).endCmd core 0 c' none c'.done)
            ∧ (m.stuck ≠ [] → Runs (.copyCommandComplete core seq) s fun u => u = put))
      ∧ (s.cmd? core 0 seq = some c → idle → exec (.copyCommandComplete core seq) s = .next s)

/-! ### Pages (20, 23) -/

/-- R377 to R380, R417, R423, R425, R426, R431, R435: the supervisor's forms over pages, at a level above the user's and
outside a shadow.  Reserved bits trap RANGE and another context PDENY on a cluster core; a context that is empty or an
operand that the manual refuses gives the status that it names; otherwise the effect, with status 0 or the count.
Where it rests on a reading or a choice of the model, that is: DEDUCED, notes/assumptions: 30.md, 33.md, 36.md, 37.md. -/
def Obligations.PageForms : Prop :=
  ∀ (s t u : State) (d a b k : Nat) (ws : List Nat) (loc : Loc), d < 32 → s.cur.shadow = none →
    let sup := s.cur.level ≠ .user
    let x := s.reg a
    let y := s.reg b
    let auth := fun c : Nat => s.cur.onControl = true ∨ c = s.cur.ctx
    let trap := fun (i : Instr) (code v : Nat) => Runs i s (Trapped s · code 0 v s.pc)
    let gives := fun (u : State) (v : Nat) (t : State) => RegResult u t 4 d v 0
    let lo := if y.testBit 8 then 0 else bits x 16 40 * 65536
    let hi := if y.testBit 8 then 2 ^ 56 else bits x 16 40 * 65536 + 2 ^ (16 + x % 64)
    let c := y % 64
    let tlbOk := bits x 6 10 = 0 ∧ x < 2 ^ 56 ∧ x % 64 ≤ 40 ∧ bits x 16 40 % 2 ^ (x % 64) = 0 ∧ (y.testBit 8 = true → x = 0)
      ∧ bits y 6 2 = 0 ∧ y < 512
    let inv := (s.yieldPoint.invalidate c lo hi).drain c
    let rc := bits x 8 6
    let rok := bits x 6 2 = 0 ∧ x < 2 ^ 14 ∧ auth rc ∧ y % 16 = 0
    let rst := (t.ctx rc).rangeStatus (x % 64) (ws.getD 0 0) (ws.getD 1 0)
    let heat := y < 64 ∧ auth y ∧ x % 32 = 0 ∧ s.quietWords x 0 4 = .ok ws t ∧ ws.getD 0 0 % 65536 = 0 ∧ ws.getD 0 0 < 2 ^ 56
      ∧ 1 ≤ ws.getD 1 0 ∧ ws.getD 1 0 ≤ 2 ^ 24 ∧ ws.getD 3 0 = 0
    let wr := s.writeBack (y / 65536 + 2) x y 0 false
    let re := s.replayGroup x (y % 2 ^ 32) (bit y 32)
    (sup → tlbOk → auth c → (s.ctx c).st = 0 → Runs (.tlbinv d a b) s (gives s 1))
      ∧ (sup → tlbOk → auth c → (s.ctx c).st ≠ 0 → s.drainWaits c = true →
          Runs (.tlbinv d a b) s (Blocked (s.invalidate c lo hi) · (.drain d c lo hi)))
      ∧ (sup → tlbOk → auth c → (s.ctx c).st ≠ 0 → s.drainWaits c = false → Runs (.tlbinv d a b) s (gives inv 0))
      ∧ (sup → tlbOk → ¬ auth c → trap (.tlbinv d a b) 0x05 y)
      ∧ (sup → (bits x 6 10 ≠ 0 ∨ 2 ^ 56 ≤ x ∨ 40 < x % 64) → trap (.tlbinv d a b) 0x0A x)
      ∧ (Runs .l1inv s fun t => t = (s.retire 4).l1Clear s.cur.coreKey)
      ∧ (x % 128 ≠ 0 → trap (.l2wb d a b) 0x03 x) ∧ (x % 128 = 0 → 2 ^ 56 ≤ x → trap (.l2wb d a b) 0x0A x)
      ∧ (x % 128 = 0 → x < 2 ^ 56 → (y = 0 ∨ 2 ^ 32 < y) → trap (.l2wb d a b) 0x0A y)
      ∧ (x % 128 = 0 → x < 2 ^ 56 → 1 ≤ y → y ≤ 2 ^ 32 →
          (wr.2.1 = true → Runs (.l2wb d a b) s fun t => t = wr.2.2.yieldPoint)
            ∧ (wr.2.1 = false → Runs (.l2wb d a b) s (gives wr.2.2.yieldPoint wr.1)))
      ∧ (sup → heat → State.heatRead y (ws.getD 0 0) (ws.getD 2 0) (ws.getD 1 0) 0 0 t = .ok (k, u) → Runs (.heatrd d a b) s (gives u k))
      ∧ (sup → heat → ws.getD 2 0 = 0 →
          let r := State.heatAge y (ws.getD 0 0) (ws.getD 1 0) 0 0 t
          Runs (.heatage d a b) s (gives r.2 r.1))
      ∧ (sup → 64 ≤ y → trap (.heatrd d a b) 0x0A y ∧ trap (.heatage d a b) 0x0A y ∧ trap (.ptload d a b) 0x0A y)
      ∧ (sup → y < 64 → ¬ auth y → trap (.heatrd d a b) 0x05 y ∧ trap (.heatage d a b) 0x05 y ∧ trap (.ptload d a b) 0x05 y)
      ∧ (sup → x < 64 → y < 2 ^ 33 → auth x → Runs (.pfreplay d a b) s (gives re.2 re.1))
      ∧ (sup → 64 ≤ x → trap (.pfreplay d a b) 0x0A x) ∧ (sup → x < 64 → 2 ^ 33 ≤ y → trap (.pfreplay d a b) 0x0A y)
      ∧ (sup → x < 64 → y < 2 ^ 33 → ¬ auth x → trap (.pfreplay d a b) 0x05 x)
      ∧ (sup → y < 64 → auth y → x % 8 = 0 → (s.ctx y).st = 0 → Runs (.ptload d a b) s (gives s 11))
      ∧ (sup → y < 64 → auth y → x % 8 = 0 → (s.ctx y).st ≠ 0 → s.loadQuads x 0 2 = .ok ws t →
          (∃ r ∈ (t.ctx y).ranges, 0 < r.2.npg ∧ r.2.pid = (quadBytes ws).getD 0 0) → Runs (.ptload d a b) s (gives t 10))
      ∧ (sup → y < 64 → auth y → x % 8 = 0 → (s.ctx y).st ≠ 0 → s.loadQuads x 0 2 = .ok ws t →
          (∀ r ∈ (t.ctx y).ranges, 0 < r.2.npg → r.2.pid ≠ (quadBytes ws).getD 0 0) →
          let h := fun i => (quadBytes ws).getD i 0
          let nrow := h 4 + 256 * h 5
          let nq := ceilDiv (h 1) 8
          ∀ qs rs v z, t.loadQuads x 16 nq = .ok qs v → v.loadQuads x (16 + 8 * nq : Nat) nrow = .ok rs z →
          let tab : RawTable :=
            { id := h 0, ns := h 1, ne := h 2, tb := h 3, nrow := nrow, attrs := (quadBytes qs).take (h 1), rows := rs.map rowOf
              dirty := ((quadBytes ws).drop 6).any (· != 0) || ((quadBytes qs).drop (h 1)).any (· != 0) }
          tab.verdict = (0, some 0, some 0) →
          Runs (.ptload d a b) s (gives ((z.recallOwner y (h 0)).modCtx y fun c =>
              { c with tables := c.tables.put (h 0) { attrs := tab.attrs, rows := tab.rows, upd := tab.upd } }) (2 ^ 32 * b2n tab.upd)))
      ∧ (sup → rok → (s.ctx rc).st = 0 → Runs (.rngset d a b) s (gives s 3))
      ∧ (sup → rok → (s.ctx rc).st ≠ 0 → s.loadQuads y 0 2 = .ok ws t → rst ≠ 0 → Runs (.rngset d a b) s (gives t rst))
      ∧ (sup → rok → (s.ctx rc).st ≠ 0 → s.loadQuads y 0 2 = .ok ws t → rst = 0 → t.drainWaits rc = false →
          Runs (.rngset d a b) s (gives (t.setRange rc (x % 64) (rangeOf (ws.getD 0 0) (ws.getD 1 0))) 0))
      ∧ (sup → (bits x 6 2 ≠ 0 ∨ 2 ^ 14 ≤ x) → trap (.rngset d a b) 0x0A x)
      ∧ (sup → s.cur.onControl = true → y % 64 = 0 → s.quietWords y 0 8 = .ok ws t →
          (t.dev.ckpt.isSome = true → Runs (.ckpt d a b) s (gives t 1))
            ∧ (t.dev.ckpt = none → (∃ i, i < 64 ∧ x.testBit i = true ∧ (t.ctx i).st ≠ 4 ∧ (t.ctx i).st ≠ 5) → Runs (.ckpt d a b) s (gives t 2))
            ∧ (t.dev.ckpt = none → (∀ i, i < 64 → x.testBit i = true → (t.ctx i).st = 4 ∨ (t.ctx i).st = 5) →
                ckptBad (ws.getD 0 0) (ws.getD 1 0) (ws.getD 2 0) (ws.getD 3 0) (ws.getD 6 0) (ws.getD 7 0) = false →
                (∀ o ∈ t.extentPorts (ws.getD 2 0) (ws.getD 1 0 % 2 ^ 24), ∃ p, o = some p ∧ p ∈ t.dev.persist) →
                ∀ v z, t.check 4 y 0x20 16 8 aWrite = .ok loc v → v.writeAt v.me loc 16 0 aWrite = .ok z →
                Runs (.ckpt d a b) s fun u => u.Holds d 0 0 ∧ u.pc = (z.pc + 4) % 2 ^ 56
                  ∧ u.dev.ckpt = some [x, ws.getD 0 0, ws.getD 1 0, ws.getD 2 0, ws.getD 3 0, loc.key,
                                      loc.kind, loc.desc, z.cur.ctx, loc.va]))

/-- R418, R422, R423, R432, 27 R472: what a host agent and the device do to pages: a completion of ATS caches a translation and
an invalidation drops what it covers after the context's writes; held fault records are written while there is room; a
replay or a cancellation releases its group once the device is ready; a checkpoint copies every page when its ports are up.
Where it rests on a reading or a choice of the model, that is: DESIGN CHOICE, notes/assumptions: 37.md; DEDUCED, notes/assumptions: 37.md, 41.md. -/
def Obligations.PageEvents : Prop :=
  ∀ (s t : State) (ctx grp page pa perm n stat : Nat) (hs w : List Nat) (rs : List (List Nat)) (loc : Loc),
    let at_ := fun (m : FMap (Nat × Nat)) (p : Nat) => m.get? (ctx * 2 ^ 64 + p)
    let r := fun c : Bool => s.replayGroup (ctx % 64) (grp % 2 ^ 32) c
    let done := fun (c : Bool) (t : State) => t = (r c).2.modDev fun d => { d with repres := (r c).1 }
    let g := fun i => w.getD i 0
    let np := g 2 % 2 ^ 24
    let stat_ : Loc := { key := g 5, kind := g 6, desc := g 7, va := g 9 }
    let up := ∀ o ∈ s.extentPorts (g 3) np, ∃ p, o = some p ∧ (s.link (farLink p)).st = 2
    let clean := ∀ l ∈ s.coh.poison, ¬ (g 1 ≤ l * 128 ∧ l * 128 < g 1 + 65536 * np)
    let u := s.drainHeld ctx (hs :: rs)
    ((s.ctx ctx).st ≠ 0 → (s.link hostLink).st = 2 → Runs (.atsCompletion ctx page pa perm) s fun t =>
          at_ t.coh.ats page = some (pa, perm % 4) ∧ t.mem = s.mem ∧ t.setCoh s.coh = s
            ∧ ∀ k, k ≠ ctx * 2 ^ 64 + page → t.coh.ats.get? k = s.coh.ats.get? k)
      ∧ ((s.ctx ctx).st = 0 ∨ (s.link hostLink).st ≠ 2 → exec (.atsCompletion ctx page pa perm) s = .next s)
      ∧ (s.drainWaits ctx = true → exec (.atsInvalidation ctx page n) s = .next s)
      ∧ (s.drainWaits ctx = false → Runs (.atsInvalidation ctx page n) s fun t => t.mem = s.mem
          ∧ (∀ p, page ≤ p → p < page + n → at_ t.coh.ats p = none) ∧ ∀ p ∈ t.coh.ats, p ∈ s.coh.ats)
      ∧ (s.dev.ready = true → Runs (.replay ctx grp) s (done false) ∧ Runs (.replayCancel ctx grp) s (done true))
      ∧ (s.dev.ready = false → exec (.replay ctx grp) s = .next s ∧ exec (.replayCancel ctx grp) s = .next s)
      ∧ ((s.ctx ctx).held = [] → exec (.faultRingRecheck ctx) s = .next s)
      ∧ ((s.ctx ctx).held = hs :: rs → u.devLoc ctx 0 (bits ((u.ctx ctx).word 0x08) 6 50 * 64) 64 aWrite = (some loc, t) →
          Runs (.faultRingRecheck ctx) s fun v => v = t.devKeep (devWho ctx 0) loc 24 8 (t.ctx ctx).held.length)
      ∧ (s.dev.ckpt = none → exec (.checkpointComplete stat) s = .next s)
      ∧ (s.dev.ckpt = some w → stat = 1 → up → clean → Runs (.checkpointComplete stat) s fun t =>
          t = ((State.ckptCopy (g 1) (g 3) (g 4) ((g 2).testBit 63) np 0 0 s).devKeep (devWho (g 8) 0) stat_ 0 16 (1 + np * 2 ^ 64)).modDev fun v =>
            { v with ckpt := none, ckptMem := [] })
      ∧ (s.dev.ckpt = some w → stat = 2 → up → exec (.checkpointComplete stat) s = .next s)

/-! ### Trapped activations, status registers and contexts (24, 16) -/

/-- R451, R437, R450: `tret` in its three forms and `wpset` act on the activation in trap-wait that a handle names: d is 1 when
they did, 0 when no activation is named or the form does not apply; a handle with a reserved bit traps RANGE and another
context's PDENY on a cluster core.
Where it rests on a reading or a choice of the model, that is: DEDUCED, notes/assumptions: 34.md. -/
def Obligations.TrapReturn : Prop :=
  ∀ (s : State) (d a imm : Nat) (x : Act), d < 32 → s.cur.shadow = none → s.cur.level ≠ .user →
    let h := s.reg a
    let c := bits h 41 6
    let ok := handleBad h = false ∧ (s.cur.onControl = true ∨ c = s.cur.ctx)
    let all := fun (P : Instr → Prop) => P (.tret d a) ∧ P (.tretKill d a) ∧ P (.tretFrz d a) ∧ P (.wpset d a imm)
    let frozen := (s.ctx x.ctx).everFrozen = true
    let point := fun y : Act => if y.id = x.id then { y with wp := imm * 8 } else y
    let acts := fun (op : Nat) (t : State) => t = ((s.retire 4).setReg d 1 0).tretOp x.id op
    let later := fun (op : Nat) (t : State) =>
      ((s.ctx x.ctx).isOut = true → t.Holds d 1 0 ∧ t.pc = (s.pc + 4) % 2 ^ 56
          ∧ (t.ctx x.ctx).trets = (s.ctx x.ctx).trets ++ [(x.id, op)] ∧ t.acts = s.acts)
        ∧ ((s.ctx x.ctx).isOut = false → t = ((s.tretOp x.id op).retire 4).setReg d 1 0)
    (handleBad h = true → all fun i => Runs i s (Trapped s · 0x0A 0 h s.pc))
      ∧ (handleBad h = false → s.cur.onControl = false → c ≠ s.cur.ctx → all fun i => Runs i s (Trapped s · 0x05 0 h s.pc))
      ∧ (ok → s.trapped h = none → all fun i => Runs i s (RegResult s · 4 d 0 0))
      ∧ (ok → s.trapped h = some (x, false) →
          Runs (.tret d a) s (acts 0) ∧ Runs (.tretKill d a) s (acts 1) ∧ (frozen → Runs (.tretFrz d a) s (acts 2))
            ∧ ((s.ctx x.ctx).everFrozen = false → Runs (.tretFrz d a) s (RegResult s · 4 d 0 0))
            ∧ (x.parked = none → Runs (.wpset d a imm) s fun t => t = ((s.retire 4).setReg d 1 0).mapActs point)
            ∧ (x.parked.isSome = true → Runs (.wpset d a imm) s (RegResult s · 4 d 0 0)))
      ∧ (ok → s.trapped h = some (x, true) → (∀ r ∈ (s.ctx x.ctx).trets, r.1 = x.id → r.2 = 2) →
          (∀ g ∈ s.work.groups, ∀ r ∈ g.trets, r.1 = x.id → r.2 = 2) →
          Runs (.tret d a) s (later 0) ∧ Runs (.tretKill d a) s (later 1) ∧ (frozen → Runs (.tretFrz d a) s (later 2)))
      ∧ (ok → s.trapped h = some (x, true) →
          (x.parked = none → Runs (.wpset d a imm) s (RegResult (s.mapAway point) · 4 d 1 0))
            ∧ (x.parked.isSome = true → Runs (.wpset d a imm) s (RegResult s · 4 d 0 0)))

/-- 03 R66, 24 R452: the status registers: what `mfs` reads and `mts` writes, who may, and what a write of a value out of
range leaves.
Where it rests on a reading or a choice of the model, that is: DESIGN CHOICE, notes/assumptions: 5.md; DEDUCED, notes/assumptions: 17.md, 35.md. -/
def Obligations.StatusRegisters : Prop :=
  ∀ (s u : State) (d a n r w : Nat), d < 32 → s.cur.shadow = none →
    let v := s.reg a
    let ctl := s.cur.onControl = true
    let sup := s.cur.level ≠ .user
    let x := s.ctx s.cselCtx
    let k := s.myCore
    let reads := fun (n v : Nat) => Runs (.mfs d n) s (RegResult s · 4 d v 0)
    let core := fun (n : Nat) (f : Core) => Runs (.mts a n) s (CoreResult s · f)
    let ctx := fun (n : Nat) (f : Ctx) => Runs (.mts a n) s fun t =>
      t.ctx s.cselCtx = f ∧ (∀ c, c ≠ s.cselCtx → t.ctx c = s.ctx c) ∧ t.pc = (s.pc + 4) % 2 ^ 56 ∧ SameMem s t s.pcSpan
    let none_ := fun (n : Nat) => Runs (.mts a n) s (Advanced s · 4)
    let q := v % 1024
    let res := fun p : Nat × State => Runs (.mts a 0x107) s fun t => t = (p.2.setQres s.cselCtx p.1).retire 4
    reads 0 s.st ∧ reads 1 k.seed ∧ (∀ i, i < 3 → reads (2 + i) (k.tl.getD i 0)) ∧ reads 5 (s.cycle s.cur.die)
      ∧ reads 6 (s.dev.devnum * 2 ^ 18 + s.cur.place) ∧ reads 7 s.cur.grant ∧ (∀ i, i < 4 → reads (8 + i) (k.sc.getD i 0 % 2 ^ 32))
      ∧ (sup → reads 0x100 s.cselCtx ∧ reads 0x101 (x.st + 8 * b2n x.fast + 16 * x.before + 256 * x.reason) ∧ reads 0x102 x.frzval
          ∧ reads 0x103 x.wdog ∧ reads 0x104 x.slice ∧ reads 0x105 x.shallot ∧ reads 0x106 x.qdesc ∧ reads 0x107 0 ∧ reads 0x108 x.qres)
      ∧ (sup → ctl → ∀ i, i < 4 → reads (0x110 + i) (s.die i).carve)
      ∧ (s.cur.level = .fw → (∀ i, i < 32 → reads (0x200 + i) (k.egress.getD i 0)) ∧ reads 0x220 k.sealed)
      ∧ (Runs (.mts a 0) s fun t => t.st % 65536 = v % 65536 ∧ t.pc = (s.pc + 4) % 2 ^ 56 ∧ OnlyMem s t
          ∧ SameMem s t fun k => s.pcSpan k ∨ s.flagSpan k)
      ∧ core 1 { k with seed := v % 2 ^ 32 } ∧ (∀ i, i < 4 → core (8 + i) { k with sc := k.sc.set i (v % 2 ^ 32) })
      ∧ (∀ i, 2 ≤ i → i < 8 → none_ i)
      ∧ (sup → ctl → core 0x100 { k with csel := v % 64 } ∧ none_ 0x101 ∧ none_ 0x102 ∧ none_ 0x108)
      ∧ (sup → ctl →
          (16 ≤ v % 64 → v % 64 ≤ 40 → ctx 0x103 { x with wdog := v % 64 }) ∧ ((v % 64 < 16 ∨ 40 < v % 64) → none_ 0x103)
            ∧ (12 ≤ v % 64 → v % 64 ≤ 32 → ctx 0x104 { x with slice := v % 64 }) ∧ ((v % 64 < 12 ∨ 32 < v % 64) → none_ 0x104)
            ∧ ctx 0x106 { x with qdesc := v })
      ∧ (sup → ctl → (Runs (.mts a 0x105) s fun t => t = (s.retire 4).setShallot s.cselCtx v)
          ∧ ∀ i, i < 4 → Runs (.mts a (0x110 + i)) s fun t => t = (s.retire 4).setCarve i v)
      ∧ (sup → ctl → (bits v 12 3 = 1 → s.qOpen s.cselCtx q s.cur.die = .ok (r, u) → res (r, u))
          ∧ (bits v 12 3 = 2 → res (s.qHalt s.cselCtx q)) ∧ (bits v 12 3 = 3 → res (s.qResume s.cselCtx q))
          ∧ (bits v 12 3 = 4 → res (s.qClose s.cselCtx q)) ∧ ((bits v 12 3 = 0 ∨ 4 < bits v 12 3) → none_ 0x107))
      ∧ (s.cur.level = .user → 0x100 ≤ n → n ≤ 0x108 → encodeWord (.mfs d n) = some (32, w) → Runs (.mfs d n) s (Trapped s · 0x02 0 w s.pc))
      ∧ (s.cur.level = .user → 0x100 ≤ n → n ≤ 0x108 → encodeWord (.mts a n) = some (32, w) → Runs (.mts a n) s (Trapped s · 0x02 0 w s.pc))
      ∧ (0x0C ≤ n → n < 0x100 → encodeWord (.mfs d n) = some (32, w) → Runs (.mfs d n) s (Trapped s · 0x01 0 w s.pc))

/-- R439 to R447: freezing, thawing and swapping.  The swaps are a control core's: their status is 0 when they act, and else the
number that the manual gives to what stands in the way.
Where it rests on a reading or a choice of the model, that is: DESIGN CHOICE, notes/assumptions: 7.md; DEDUCED, notes/assumptions: 34.md, 35.md. -/
def Obligations.ContextForms : Prop :=
  ∀ (s : State) (d a m : Nat), d < 32 → s.cur.shadow = none → s.cur.level ≠ .user →
    let v := s.reg a
    let ctl := s.cur.onControl = true
    let c := v % 256
    let x := s.ctx c
    let pa := bits v 8 44 * 256
    let desc := (List.range 32).map fun i => s.rdN (pa + 8 * i) 8
    let all := fun (P : State → Prop) => Runs (.cswapIn d a) s P ∧ Runs (.cswapFast d a) s P ∧ Runs (.cswapOut d a) s P
      ∧ Runs (.cswapCreate d a) s P ∧ Runs (.cswapSeal d a) s P ∧ Runs (.cswapReset d a) s P
    let word := v < 64
    let ends := fun (st : Nat) (u : State) (t : State) => RegResult u.yieldPoint t 4 d st 0
    let cw := v < 2 ^ 52 ∧ c < 64
    (v < 64 → (ctl ∨ v = s.cur.ctx) → Runs (.cfreeze d a) s fun t =>
          t = ((s.yieldPoint.retire 4).setReg d (b2n ((s.ctx v).st != 0 && (s.ctx v).st != 6)) 0).freeze v 1 0)
      ∧ (64 ≤ v → Runs (.cfreeze d a) s (Trapped s · 0x0A 0 v s.pc))
      ∧ (v < 64 → ¬ ctl → v ≠ s.cur.ctx → Runs (.cfreeze d a) s (Trapped s · 0x05 0 v s.pc))
      ∧ (ctl → v < 64 → (s.ctx v).st ≠ 5 → Runs (.cthaw d a) s (RegResult s · 4 d 0 0))
      ∧ (ctl → v < 64 → (s.ctx v).st = 5 → Runs (.cthaw d a) s fun t => t.Holds d 1 0 ∧ t.pc = (s.pc + 4) % 2 ^ 56
          ∧ t.ctx v = { s.ctx v with st := (s.ctx v).before } ∧ (∀ i, i ≠ v → t.ctx i = s.ctx i) ∧ t.work = s.work ∧ t.acts = s.acts)
      ∧ (ctl → 64 ≤ v → Runs (.cthaw d a) s (Trapped s · 0x0A 0 v s.pc))
      ∧ (ctl → 2 ^ 52 ≤ v → all (Trapped s · 0x0A 0 v s.pc))
      ∧ (ctl → v < 256 → 64 ≤ v → all (ends 4 s))
      ∧ (ctl → word → (x.st = 2 ∨ x.st = 4) → s.inBusy c = false → Runs (.cswapIn d a) s (ends 0 (s.swapIn c)))
      ∧ (ctl → word → (x.st = 2 ∨ x.st = 4) → s.inBusy c = true → Runs (.cswapIn d a) s (ends 2 s))
      ∧ (ctl → word → x.st ≠ 2 → x.st ≠ 4 → Runs (.cswapIn d a) s (ends 1 s))
      ∧ (ctl → word → x.st = 3 → Runs (.cswapFast d a) s (ends 0 (s.swapOut c false)) ∧ Runs (.cswapOut d a) s (ends 0 (s.swapOut c true)))
      ∧ (ctl → word → x.st ≠ 3 → Runs (.cswapFast d a) s (ends 1 s) ∧ Runs (.cswapOut d a) s (ends 1 s))
      ∧ (ctl → cw → x.st ≠ 0 → Runs (.cswapCreate d a) s (ends 1 s))
      ∧ (ctl → cw → x.st = 0 → physOk pa 256 = false → Runs (.cswapCreate d a) s (ends 5 s))
      ∧ (ctl → cw → x.st = 0 → physOk pa 256 = true → s.poisoned pa 256 = false → s.cdBad desc = true → Runs (.cswapCreate d a) s (ends 3 s))
      ∧ (ctl → cw → x.st = 0 → physOk pa 256 = true → s.poisoned pa 256 = false → s.cdBad desc = false →
          Runs (.cswapCreate d a) s (ends 0 (s.draw.2.setCtxs (s.draw.2.ctxs.put c { x with st := 1, desc := desc, root := s.draw.1 }))))
      ∧ (ctl → word → x.st = 1 → s.seal c = .ok m → Runs (.cswapSeal d a) s (ends 0 (s.modCtx c fun x => { x with st := 2, meas := m })))
      ∧ (ctl → word → x.st = 1 → s.seal c = .error m → Runs (.cswapSeal d a) s (ends m s))
      ∧ (ctl → word → x.st ≠ 1 → Runs (.cswapSeal d a) s (ends 1 s))
      ∧ (ctl → word → (x.st = 0 ∨ x.st = 6) → Runs (.cswapReset d a) s (ends 1 s))
      ∧ (ctl → word → x.st ≠ 0 → x.st ≠ 6 → Runs (.cswapReset d a) s (ends 0 (s.resetCtx c)))

/-- R446, 16 R329, R330, 17 R350, 06 R139: a reset context becomes empty; the operations on a context's queues with their
result in QRES; the writes of CARVE and SHALLOT take a value within their ranges only.
Where it rests on a reading or a choice of the model, that is: DESIGN CHOICE, notes/assumptions: 34.md; DEDUCED, notes/assumptions: 26.md. -/
def Obligations.ContextEvents : Prop :=
  ∀ (s u : State) (c q v die r : Nat),
    let x := s.queue q
    let f := fun (w d : Nat) => bits w (6 * d) 6
    let others := fun d : Nat => s.ctxs.foldl (fun n e => if e.1 = c then n else n + f e.2.shallot d) 0
    ((s.ctx c).st = 6 → Runs (.contextResetDone c) s fun t => (t.ctx c).st = 0 ∧ (∀ i, i ≠ c → t.ctx i = s.ctx i) ∧ t.setCtxs s.ctxs = s)
      ∧ ((s.ctx c).st ≠ 6 → exec (.contextResetDone c) s = .next s)
      ∧ ((s.ctx c).st ≠ 0 → s.qOpen c q 0 = .ok (r, u) → Runs (.qcmdOpen c q) s fun t =>
          (t.ctx c).qres = r ∧ t.work = u.work ∧ t.mem = u.mem)
      ∧ ((s.ctx c).st ≠ 0 → x.ctx = c → x.st = 1 → Runs (.qcmdHalt c q) s fun t => t = (s.haltQueue q 0).setQres c 0)
      ∧ ((s.ctx c).st ≠ 0 → (x.ctx ≠ c ∨ x.st ≠ 1) → Runs (.qcmdHalt c q) s fun t => t.ctx c = { s.ctx c with qres := 3 } ∧ t.work = s.work)
      ∧ ((s.ctx c).st = 0 → (let no := fun t : State => t.ctx c = { s.ctx c with qres := 4 } ∧ t.work = s.work ∧ t.mem = s.mem
          Runs (.qcmdOpen c q) s no ∧ Runs (.qcmdHalt c q) s no ∧ Runs (.qcmdResume c q) s no ∧ Runs (.qcmdClose c q) s no))
      ∧ ((s.ctx c).st ≠ 0 → x.ctx = c → x.st = 2 → Runs (.qcmdResume c q) s fun t =>
          (t.queue q).st = 1 ∧ (t.queue q).err = 0 ∧ (t.ctx c).qres = 0)
      ∧ ((s.ctx c).st ≠ 0 → (x.ctx ≠ c ∨ x.st ≠ 2) → Runs (.qcmdResume c q) s fun t => t.ctx c = { s.ctx c with qres := 3 } ∧ t.work = s.work)
      ∧ ((s.ctx c).st ≠ 0 → x.ctx = c → x.st ≠ 0 → x.tlc = x.tail → Runs (.qcmdClose c q) s fun t =>
          t = ((s.discardShadow q 12).putQueueSt q 0 x.err).setQres c 0)
      ∧ ((s.ctx c).st ≠ 0 → (x.ctx ≠ c ∨ x.st = 0 ∨ x.tlc ≠ x.tail) → Runs (.qcmdClose c q) s fun t =>
          t.ctx c = { s.ctx c with qres := 3 } ∧ t.work = s.work)
      ∧ (die < 4 → v % 32 ≤ 24 → v % 32 ≠ (s.die die).carve → s.dieRuns die = false → Runs (.carveWrite die v) s fun t =>
          let u := s.dropSlices die (min (s.die die).carve (v % 32)) (max (s.die die).carve (v % 32))
          (t.die die).carve = v % 32 ∧ (∀ i, i ≠ die → t.die i = u.die i) ∧ t.coh = u.coh
            ∧ ∀ k, t.rd k = if sramKey die 0 ≤ k ∧ k < sramKey die (2 ^ 26) then 0 else u.rd k)
      ∧ ((4 ≤ die ∨ 24 < v % 32 ∨ v % 32 = (s.die die).carve ∨ s.dieRuns die = true) → exec (.carveWrite die v) s = .next s)
      ∧ ((∀ d, d < 4 → f v d ≤ 32 ∧ others d + f v d ≤ 48) → Runs (.shallotWrite c v) s fun t =>
          (t.ctx c).shallot = v % 2 ^ 24)
      ∧ ((∃ d, d < 4 ∧ (32 < f v d ∨ 48 < others d + f v d)) → exec (.shallotWrite c v) s = .next s)

/-! ### Links, dies and the device (26, 27) -/

/-- R455, R468, R469, R470: `lstat` and its control forms.  A bad link word traps RANGE with sub 1; a control form from another
core traps PRIV, and one of the wrong kind IOP; a form gives 0 when it acts and 1 when the state does not allow it;
retraining and relinking wait for the training to end.
Where it rests on a reading or a choice of the model, that is: DEDUCED, notes/assumptions: 38.md. -/
def Obligations.LinkForms : Prop :=
  ∀ (s : State) (d a w : Nat), d < 32 → s.cur.shadow = none →
    let v := s.reg a
    let l := s.link v
    let i := v % 256
    let good := linkWordBad v = false
    let may := s.cur.onControl = true ∧ s.cur.level ≠ .user
    let links := fun (P : Instr → Prop) => P (.lstatQuiesce d a) ∧ P (.lstatResume d a) ∧ P (.lstatIsolate d a)
      ∧ P (.lstatRetrain d a) ∧ P (.lstatRelink d a) ∧ P (.lstatClr d a)
    let dies := fun (P : Instr → Prop) => P (.lstatDquiesce d a) ∧ P (.lstatDflush d a) ∧ P (.lstatDreset d a) ∧ P (.lstatDadmit d a)
    let gives := fun (st : Nat) (t : State) => RegResult s t 4 d st 0
    let moves := fun (m : Link) (t : State) => RegResult (s.modLink v fun _ => m) t 4 d 0 0
    let waits := fun (m : Link) (t : State) => Blocked (s.modLink v fun _ => m) t (.link d (v / 256) (v % 256))
    let onLink := may ∧ good ∧ v / 256 ≠ 4
    let onDie := may ∧ good ∧ v / 256 = 4
    let die := s.die i
    let self := s.cur.cluster ≠ mgmtCluster ∧ s.cur.die = i
    let acts := fun (u t : State) => RegResult u t 4 d 0 0
    let quiet := (linksOfDie i).foldl (fun s l => s.modLink l fun x => if x.st = 2 then { x with st := 4 } else x) s
    (linkWordBad v = true → Runs (.lstat d a) s (Trapped s · 0x0A 1 v s.pc)
        ∧ (may → links (fun i => Runs i s (Trapped s · 0x0A 1 v s.pc)) ∧ dies fun i => Runs i s (Trapped s · 0x0A 1 v s.pc)))
      ∧ (good → v / 256 ≠ 4 → Runs (.lstat d a) s (gives (l.st + 16 * l.mode + 2 ^ 8 * l.width + 2 ^ 16 * (if l.st = 2 then l.rate else 0) + 2 ^ 32 * l.retr + 2 ^ 48 * l.lost)))
      ∧ (good → v / 256 = 4 → Runs (.lstat d a) s (gives (die.dstate + 256 * (linksOfDie i).countP fun l => (s.link l).st == 2)))
      ∧ (¬ may → links (fun j => encodeWord j = some (32, w) → Runs j s (Trapped s · 0x02 0 w s.pc))
          ∧ dies fun j => encodeWord j = some (32, w) → Runs j s (Trapped s · 0x02 0 w s.pc))
      ∧ (onDie → links fun j => encodeWord j = some (32, w) → Runs j s (Trapped s · 0x01 0 w s.pc))
      ∧ (onLink → dies fun j => encodeWord j = some (32, w) → Runs j s (Trapped s · 0x01 0 w s.pc))
      ∧ (onLink → (l.st = 2 → Runs (.lstatQuiesce d a) s (moves { l with st := 4 })) ∧ (l.st ≠ 2 → Runs (.lstatQuiesce d a) s (gives 1)))
      ∧ (onLink → (l.st = 4 → Runs (.lstatResume d a) s (moves { l with st := 2 })) ∧ (l.st ≠ 4 → Runs (.lstatResume d a) s (gives 1)))
      ∧ (onLink → (l.st ≤ 5 → Runs (.lstatIsolate d a) s (moves { l with st := 5 })) ∧ (5 < l.st → Runs (.lstatIsolate d a) s (gives 1)))
      ∧ (onLink → Runs (.lstatClr d a) s (moves { l with retr := 0, lost := 0 }))
      ∧ (onLink → (l.st = 2 → Runs (.lstatRetrain d a) s (waits { l with st := 3, retr := min 65535 (l.retr + 1) }))
          ∧ (l.st ≠ 2 → Runs (.lstatRetrain d a) s (gives 1)))
      ∧ (onLink →
          let can := (l.st = 0 ∨ l.st = 5 ∨ l.st = 6) ∧ (v / 256 = 3 → s.dev.devSet = true)
          (can → Runs (.lstatRelink d a) s (waits { l with st := 1, fails := if l.st = 6 then 0 else l.fails })) ∧ (¬ can → Runs (.lstatRelink d a) s (gives 1)))
      ∧ (onDie → self → dies fun j => Runs j s (gives 3))
      ∧ (onDie → ¬ self →
          (die.dstate ≠ 0 → Runs (.lstatDquiesce d a) s (gives 1)) ∧ (die.dstate ≠ 1 → Runs (.lstatDflush d a) s (gives 1))
            ∧ (die.dstate ≠ 2 → Runs (.lstatDreset d a) s (gives 1)) ∧ (die.dstate ≠ 4 → Runs (.lstatDadmit d a) s (gives 1))
            ∧ (die.dstate = 0 → s.dieBusy i = true → Runs (.lstatDquiesce d a) s (gives 2))
            ∧ (die.dstate = 0 → s.dieBusy i = false → Runs (.lstatDquiesce d a) s (acts (quiet.modDie i fun x => { x with dstate := 1 })))
            ∧ (die.dstate = 1 → Runs (.lstatDflush d a) s (acts ((s.flushDie i).modDie i fun x => { x with dstate := 2 })))
            ∧ (die.dstate = 2 → Runs (.lstatDreset d a) s (acts (s.resetDie i)))
            ∧ (die.dstate = 4 → (∀ l ∈ linksOfDie i, (s.link l).st = 2) → Runs (.lstatDadmit d a) s (acts (s.modDie i fun x => { x with dstate := 0 })))
            ∧ (die.dstate = 4 → (∃ l ∈ linksOfDie i, (s.link l).st ≠ 2) → Runs (.lstatDadmit d a) s (gives 1)))

/-- R457, R458, R464, R467, R470: how a link moves between its states: training succeeds or times out, and the third failure in a
row gives failed; an up link retrains on its retry limit and on request; retraining that fails for 2 ms declares it down,
its unacknowledged posted writes lost; it tries again; a lost pod barrier becomes idle; a die's reset ends.
Where it rests on a reading or a choice of the model, that is: DESIGN CHOICE, notes/assumptions: 5.md; DEDUCED, notes/assumptions: 38.md. -/
def Obligations.LinkEvents : Prop :=
  ∀ (s : State) (kind idx b die : Nat),
    let k := kind * 256 + idx
    let l := s.link k
    let goes := fun (m : Link) (t : State) => t.link k = m ∧ (∀ j, j ≠ k → t.link j = s.link j) ∧ t.setLinks s.links = s
    let stays := fun (i : Instr) => exec i s = .next s
    (idx < kindCount kind → kind < 4 → (l.st = 1 ∨ l.st = 3) → Runs (.linkTrained kind idx) s fun t =>
          (t.link k).st = 2 ∧ (t.link k).fails = 0 ∧ (t.link k).posted = l.posted ∧ (t.link k).lost = l.lost
            ∧ (∀ j, j ≠ k → t.link j = s.link j) ∧ t.mem = s.mem)
      ∧ (l.st ≠ 1 → l.st ≠ 3 → stays (.linkTrained kind idx))
      ∧ (l.st = 1 → l.fails < 2 → Runs (.linkTrainingTimeout kind idx) s (goes { l with st := 0, fails := l.fails + 1 }))
      ∧ (l.st = 1 → 2 ≤ l.fails → Runs (.linkTrainingTimeout kind idx) s fun t =>
          t = (s.modLink k fun l => { l with st := 6, fails := l.fails + 1 }).log 5 kind 0 0 idx 0)
      ∧ (l.st ≠ 1 → stays (.linkTrainingTimeout kind idx))
      ∧ (l.st = 2 → Runs (.linkRetryLimit kind idx) s (goes { l with st := 3, retr := min 65535 (l.retr + 1) })
          ∧ Runs (.retrainRequest kind idx) s (goes { l with st := 3, retr := min 65535 (l.retr + 1) }))
      ∧ (l.st ≠ 2 → stays (.linkRetryLimit kind idx) ∧ stays (.retrainRequest kind idx))
      ∧ (l.st = 0 → l.declared = true → Runs (.linkAutoRetrain kind idx) s (goes { l with st := 1 }))
      ∧ ((l.st ≠ 0 ∨ l.declared = false) → stays (.linkAutoRetrain kind idx))
      ∧ (l.st ≠ 3 → stays (.linkDeclaredDown kind idx))
      ∧ (l.st = 3 → kind = 0 → l.posted = [] → Runs (.linkDeclaredDown kind idx) s fun t =>
          t = ((s.modLink k fun l => { l with st := 0, declared := true, lost := min 65535 l.lost }).log 5 kind 0 0 idx 0))
      ∧ (l.st = 3 → Runs (.linkDeclaredDown kind idx) s fun t => (t.link k).st = 0 ∧ (t.link k).declared = true
          ∧ (t.link k).posted = [] ∧ (t.link k).lost = min 65535 (l.lost + l.posted.length))
      ∧ (b < 64 → (s.barWaiters (barKey 0 5 0 b)) = [] → Runs (.podBarrierLoss b) s fun t => t.bar (barKey 0 5 0 b) = {}
          ∧ ∀ j, j ≠ barKey 0 5 0 b → t.bar j = s.bar j)
      ∧ (64 ≤ b → stays (.podBarrierLoss b))
      ∧ ((s.die die).dstate = 3 → Runs (.dieResetDone die) s fun t => t.die die = { s.die die with dstate := 4 }
          ∧ (∀ j, j ≠ die → t.die j = s.die j) ∧ t.setDies s.dies = s)
      ∧ ((s.die die).dstate ≠ 3 → stays (.dieResetDone die))

/-- R471 to R476, R478: bring-up, the writes of BAR0, the power and temperature samples, and the DOE mailbox.
Where it rests on a reading or a choice of the model, that is: DESIGN CHOICE, notes/assumptions: 9.md; DEDUCED, notes/assumptions: 39.md. -/
def Obligations.DeviceSteps : Prop :=
  ∀ (s : State) (v off draw t0 t1 t2 t3 nonce ctx ty len : Nat),
    let D := s.dev
    let v64 := v % 2 ^ 64
    let dev := fun (d : Dev) (t : State) => t.dev = d ∧ t.setDev D = s
    let reg := fun (off : Nat) (d : Dev) => D.ready = true → Runs (.registerWrite off v) s (dev d)
    let stays := fun (i : Instr) => exec i s = .next s
    let hot := max (max t0 t1) (max t2 t3)
    let x := s.ctx ctx
    let msg := bytesOf 32 nonce ++ bytesOf 4 ctx ++ bytesOf 4 x.st ++ bytesOf 32 (if x.st = 0 then 0 else x.meas)
      ++ byteVals Config.firmwareHash
    (Runs (.coldReset 0 0) s fun t => t.dev.ready = true ∧ t.dev.bootErr = 0 ∧ (∀ k, k < 8 → (t.link k).st = 2) ∧ (t.link hostLink).st = 2
          ∧ t.allActs = [] ∧ t.ctxs = State.reset.ctxs ∧ t.work = State.reset.work ∧ t.dev.devSet = false
          ∧ (∀ k, inHbm k = true → t.rd k = 0) ∧ ∀ k, inFar k = true → t.rd k = s.rd k)
      ∧ (∀ f ∈ [(1, 1), (3, 2), (4, 3), (6, 4)], Runs (.coldReset f.1 f.2) s fun t =>
          t.dev.ready = false ∧ t.dev.bootStep = f.1 ∧ t.dev.bootErr = f.2)
      ∧ (D.ready = true → D.devSet = false → v ≤ 431 → Runs (.devnumWrite v) s fun t => t.dev = { D with devnum := v, devSet := true }
          ∧ ∀ i, i < 18 → t.link (frerathLink i) = (if (s.link (frerathLink i)).st = 0 then { s.link (frerathLink i) with st := 1 }
              else s.link (frerathLink i)))
      ∧ ((D.ready = false ∨ D.devSet = true ∨ 431 < v) → stays (.devnumWrite v))
      ∧ (D.ready = false → stays (.registerWrite off v)) ∧ (off % 8 ≠ 0 → stays (.registerWrite off v))
      ∧ reg 0x18 { D with pcap := min 3200 (max 800 (v64 % 4096)) }
      ∧ reg 0x30 { D with awake := v64 } ∧ reg 0x68 { D with logTail := v64 }
      ∧ reg 0x70 { D with logDrop := if v64.testBit 0 then 0 else D.logDrop }
      ∧ (∀ i, i < 432 → reg (0x20000 + 8 * i) { D with route := D.route.put i (v64 % 2 ^ 18) })
      ∧ (∀ i, i < 64 → reg (0x40000 + 8 * i) { D with pbroot := D.pbroot.put i (v64 % 512) })
      ∧ (∀ q, q < 1024 → D.ready = true → Runs (.registerWrite (0x10000 + 8 * q) v) s fun t => t = s.ringDoor q v64)
      ∧ (D.pcap < draw → (D.capped = true ∨ 825 ≤ D.clock) → Runs (.powerSample draw) s fun t =>
          t.dev.clock = max 800 (D.clock - 25) ∧ t.dev.power = draw % 4096 ∧ t.dev.capped = D.capped ∧ t.setDev D = s)
      ∧ (D.pcap < draw → D.clock < 825 → D.capped = false → Runs (.powerSample draw) s fun t => t.dev.capped = true ∧ 1 ∈ t.dev.msix)
      ∧ (draw ≤ D.pcap → Runs (.powerSample draw) s fun t =>
          let n := if draw + 50 ≤ D.pcap then D.below + 1 else 0
          t.dev = { D with power := draw % 4096, below := if 100 ≤ n then 0 else n
                           clock := if 100 ≤ n then min 1900 (D.clock + 25) else D.clock } ∧ t.setDev D = s)
      ∧ (Runs (.thermalSample t0 t1 t2 t3) s fun t => t.dev.temp = hot % 256 ∧ t.dev.throt = decide (100 ≤ hot)
          ∧ t.dev.trip = (D.trip || decide (110 ≤ hot)) ∧ (100 ≤ hot → t.dev.tclock = max 800 (D.tclock - 25)))
      ∧ Runs (.doeIdent) s (dev { D with doe := 1 :: byteVals (Config.publicKey ++ Config.certificates) })
      ∧ Runs (.doeReport nonce ctx) s (dev { D with doe := 2 :: (msg ++ byteVals (Config.signature (msg.map (BitVec.ofNat 8)))) })
      ∧ ((ty ≠ 1 ∨ len ≠ 0) → (ty ≠ 2 ∨ len ≠ 36) → Runs (.doeInvalidObject ty len) s (dev { D with doe := [0xFF] }))

/-! ### Coherence (19, 23) -/

/-- 19 R359 to R367, R372, R374, 26 R458: a step of the coherence protocols takes the first message of its kind at a die and line
that the links let through, `u` being the state without it: requests are served or wait at the home; on a forward, an
invalidation, a recall, an update, data or an acknowledgement the copy takes its table's row, and the home learns of it; a recall
from the home's snoop filter evicts the line's entry.  Without a message, or with one that the links hold, and without a copy to
replace, nothing happens.
Where it rests on a reading or a choice of the model, that is: DEDUCED, notes/assumptions: 29.md. -/
def Obligations.CoherenceSteps : Prop :=
  ∀ (s : State) (die line : Nat) (m : CohMsg) (c : Copy),
    let u := s.modCoh fun h => { h with msgs := h.msgs.erase m }
    let copy := s.coh.copies.get? (line * 8 + die)
    let first := fun ev : Nat => s.coh.msgs.find? (fun m => m.ev == ev && m.die == die && m.line == line)
    let gets := fun ev : Nat => first ev = some m ∧ s.carries m = true
    let stays := fun ev : Nat => first ev = none ∨ (first ev = some m ∧ s.carries m = false)
    let back := (u.wroteBack line).sendCoh { m with ev := 12, bytes := [] }
    let x := u.breakResv die line
    (gets 0 → Runs (.reqr die line) s fun t => t = u.homeArrive m)
      ∧ (gets 1 → Runs (.reqw die line) s fun t => t = u.homeArrive m)
      ∧ (gets 2 → Runs (.wb die line) s fun t => t = if m.src = 8 then back.answer line else back)
      ∧ (gets 3 → Runs (.push die line) s fun t => t = (u.wroteBack line).homeArrive m)
      ∧ (gets 4 → Runs (.fwdrd die line) s fun t => t = u.forwarded die line 4 m)
      ∧ (gets 5 → Runs (.fwdwr die line) s fun t => t = u.forwarded die line 5 m)
      ∧ (gets 6 → Runs (.inv die line) s fun t => t = u.forwarded die line 6 m)
      ∧ (gets 7 → (m.src = 9 → Runs (.recall die line) s fun t => t = u.evictEntry line)
          ∧ (m.src ≠ 9 → Runs (.recall die line) s fun t => t = u.forwarded die line 7 m))
      ∧ (gets 8 → (copy = none → Runs (.updin die line) s fun t => t = x) ∧ (copy = some c → Runs (.updin die line) s fun t => t = x.present die 8 c m))
      ∧ (gets 9 → Runs (.data die line) s fun t => t = u.arrive die line 9 m)
      ∧ (gets 10 → Runs (.dataex die line) s fun t => t = u.arrive die line 10 m)
      ∧ (gets 11 → Runs (.ack die line) s fun t => t = u.acked line m.n)
      ∧ (gets 12 → Runs (.wbdone die line) s fun t => t = u.told die line 12 m)
      ∧ (gets 13 → Runs (.nack die line) s fun t => t = u.told die line 13 m)
      ∧ (stays 0 → exec (.reqr die line) s = .next s) ∧ (stays 1 → exec (.reqw die line) s = .next s)
      ∧ (stays 2 → exec (.wb die line) s = .next s) ∧ (stays 3 → exec (.push die line) s = .next s)
      ∧ (stays 4 → exec (.fwdrd die line) s = .next s) ∧ (stays 5 → exec (.fwdwr die line) s = .next s)
      ∧ (stays 6 → exec (.inv die line) s = .next s) ∧ (stays 7 → exec (.recall die line) s = .next s)
      ∧ (stays 8 → exec (.updin die line) s = .next s) ∧ (stays 9 → exec (.data die line) s = .next s)
      ∧ (stays 10 → exec (.dataex die line) s = .next s) ∧ (stays 11 → exec (.ack die line) s = .next s)
      ∧ (stays 12 → exec (.wbdone die line) s = .next s) ∧ (stays 13 → exec (.nack die line) s = .next s)
      ∧ (copy = none → exec (.evi die line) s = .next s)
      ∧ (copy = some c → Runs (.evi die line) s fun t =>
          t = s.present die 3 c { ev := 3, die := die, line := line, src := die, pid := c.pid, owner := c.owner })

/-- 06 R142, R149, 19 R357 to R372: the coherence steps move copies and messages.  At a line of HBM, the host or a peer they
leave every byte of memory but heat words as it was, and every core, context and queue; the data that reaches a die does so at any
line.
Where it rests on a reading or a choice of the model, that is: DEDUCED, notes/assumptions: 29.md. -/
def Obligations.CoherenceKeepsMemory : Prop :=
  ∀ (s : State) (die line : Nat),
    let keeps := fun t : State =>
      SameMem s t (fun k => ∃ l a, lineHeat l = some a ∧ InSpan k a 2) ∧ t.cores = s.cores ∧ t.ctxs = s.ctxs ∧ t.work = s.work
    (Runs (.reqr die line) s keeps ∧ Runs (.reqw die line) s keeps ∧ Runs (.fwdrd die line) s keeps ∧ Runs (.fwdwr die line) s keeps
        ∧ Runs (.inv die line) s keeps ∧ Runs (.updin die line) s keeps ∧ Runs (.data die line) s keeps ∧ Runs (.dataex die line) s keeps
        ∧ Runs (.ack die line) s keeps ∧ Runs (.wbdone die line) s keeps ∧ Runs (.nack die line) s keeps ∧ Runs (.evi die line) s keeps)
      ∧ (inFar (line * 128) = false → Runs (.wb die line) s keeps ∧ Runs (.push die line) s keeps)
end

