-- ==== Sys2Proof/Laws/State.lean ====
section
/-!
SUPPORT. One lemma for each field of State and each update of a field, true by rfl.
-/

namespace Sys2Proof.Machine

@[simp] theorem State.setMem_mem (s : State) (v : List Host.Cell) : (s.setMem v).mem = v := rfl
@[simp] theorem State.setMem_cur (s : State) (v : List Host.Cell) : (s.setMem v).cur = s.cur := rfl
@[simp] theorem State.setMem_acts (s : State) (v : List Host.Cell) : (s.setMem v).acts = s.acts := rfl
@[simp] theorem State.setMem_cores (s : State) (v : List Host.Cell) : (s.setMem v).cores = s.cores := rfl
@[simp] theorem State.setMem_clusters (s : State) (v : List Host.Cell) : (s.setMem v).clusters = s.clusters := rfl
@[simp] theorem State.setMem_ctxs (s : State) (v : List Host.Cell) : (s.setMem v).ctxs = s.ctxs := rfl
@[simp] theorem State.setMem_work (s : State) (v : List Host.Cell) : (s.setMem v).work = s.work := rfl
@[simp] theorem State.setMem_coh (s : State) (v : List Host.Cell) : (s.setMem v).coh = s.coh := rfl
@[simp] theorem State.setMem_links (s : State) (v : List Host.Cell) : (s.setMem v).links = s.links := rfl
@[simp] theorem State.setMem_dies (s : State) (v : List Host.Cell) : (s.setMem v).dies = s.dies := rfl
@[simp] theorem State.setMem_dev (s : State) (v : List Host.Cell) : (s.setMem v).dev = s.dev := rfl
@[simp] theorem State.setMem_race (s : State) (v : List Host.Cell) : (s.setMem v).race = s.race := rfl
@[simp] theorem State.setMem_sched (s : State) (v : List Host.Cell) : (s.setMem v).sched = s.sched := rfl

@[simp] theorem State.setCur_mem (s : State) (v : Act) : (s.setCur v).mem = s.mem := rfl
@[simp] theorem State.setCur_cur (s : State) (v : Act) : (s.setCur v).cur = v := rfl
@[simp] theorem State.setCur_acts (s : State) (v : Act) : (s.setCur v).acts = s.acts := rfl
@[simp] theorem State.setCur_cores (s : State) (v : Act) : (s.setCur v).cores = s.cores := rfl
@[simp] theorem State.setCur_clusters (s : State) (v : Act) : (s.setCur v).clusters = s.clusters := rfl
@[simp] theorem State.setCur_ctxs (s : State) (v : Act) : (s.setCur v).ctxs = s.ctxs := rfl
@[simp] theorem State.setCur_work (s : State) (v : Act) : (s.setCur v).work = s.work := rfl
@[simp] theorem State.setCur_coh (s : State) (v : Act) : (s.setCur v).coh = s.coh := rfl
@[simp] theorem State.setCur_links (s : State) (v : Act) : (s.setCur v).links = s.links := rfl
@[simp] theorem State.setCur_dies (s : State) (v : Act) : (s.setCur v).dies = s.dies := rfl
@[simp] theorem State.setCur_dev (s : State) (v : Act) : (s.setCur v).dev = s.dev := rfl
@[simp] theorem State.setCur_race (s : State) (v : Act) : (s.setCur v).race = s.race := rfl
@[simp] theorem State.setCur_sched (s : State) (v : Act) : (s.setCur v).sched = s.sched := rfl

@[simp] theorem State.setActs_mem (s : State) (v : FMap Act) : (s.setActs v).mem = s.mem := rfl
@[simp] theorem State.setActs_cur (s : State) (v : FMap Act) : (s.setActs v).cur = s.cur := rfl
@[simp] theorem State.setActs_acts (s : State) (v : FMap Act) : (s.setActs v).acts = v := rfl
@[simp] theorem State.setActs_cores (s : State) (v : FMap Act) : (s.setActs v).cores = s.cores := rfl
@[simp] theorem State.setActs_clusters (s : State) (v : FMap Act) : (s.setActs v).clusters = s.clusters := rfl
@[simp] theorem State.setActs_ctxs (s : State) (v : FMap Act) : (s.setActs v).ctxs = s.ctxs := rfl
@[simp] theorem State.setActs_work (s : State) (v : FMap Act) : (s.setActs v).work = s.work := rfl
@[simp] theorem State.setActs_coh (s : State) (v : FMap Act) : (s.setActs v).coh = s.coh := rfl
@[simp] theorem State.setActs_links (s : State) (v : FMap Act) : (s.setActs v).links = s.links := rfl
@[simp] theorem State.setActs_dies (s : State) (v : FMap Act) : (s.setActs v).dies = s.dies := rfl
@[simp] theorem State.setActs_dev (s : State) (v : FMap Act) : (s.setActs v).dev = s.dev := rfl
@[simp] theorem State.setActs_race (s : State) (v : FMap Act) : (s.setActs v).race = s.race := rfl
@[simp] theorem State.setActs_sched (s : State) (v : FMap Act) : (s.setActs v).sched = s.sched := rfl

@[simp] theorem State.setCores_mem (s : State) (v : FMap Core) : (s.setCores v).mem = s.mem := rfl
@[simp] theorem State.setCores_cur (s : State) (v : FMap Core) : (s.setCores v).cur = s.cur := rfl
@[simp] theorem State.setCores_acts (s : State) (v : FMap Core) : (s.setCores v).acts = s.acts := rfl
@[simp] theorem State.setCores_cores (s : State) (v : FMap Core) : (s.setCores v).cores = v := rfl
@[simp] theorem State.setCores_clusters (s : State) (v : FMap Core) : (s.setCores v).clusters = s.clusters := rfl
@[simp] theorem State.setCores_ctxs (s : State) (v : FMap Core) : (s.setCores v).ctxs = s.ctxs := rfl
@[simp] theorem State.setCores_work (s : State) (v : FMap Core) : (s.setCores v).work = s.work := rfl
@[simp] theorem State.setCores_coh (s : State) (v : FMap Core) : (s.setCores v).coh = s.coh := rfl
@[simp] theorem State.setCores_links (s : State) (v : FMap Core) : (s.setCores v).links = s.links := rfl
@[simp] theorem State.setCores_dies (s : State) (v : FMap Core) : (s.setCores v).dies = s.dies := rfl
@[simp] theorem State.setCores_dev (s : State) (v : FMap Core) : (s.setCores v).dev = s.dev := rfl
@[simp] theorem State.setCores_race (s : State) (v : FMap Core) : (s.setCores v).race = s.race := rfl
@[simp] theorem State.setCores_sched (s : State) (v : FMap Core) : (s.setCores v).sched = s.sched := rfl

@[simp] theorem State.setClusters_mem (s : State) (v : FMap Cluster) : (s.setClusters v).mem = s.mem := rfl
@[simp] theorem State.setClusters_cur (s : State) (v : FMap Cluster) : (s.setClusters v).cur = s.cur := rfl
@[simp] theorem State.setClusters_acts (s : State) (v : FMap Cluster) : (s.setClusters v).acts = s.acts := rfl
@[simp] theorem State.setClusters_cores (s : State) (v : FMap Cluster) : (s.setClusters v).cores = s.cores := rfl
@[simp] theorem State.setClusters_clusters (s : State) (v : FMap Cluster) : (s.setClusters v).clusters = v := rfl
@[simp] theorem State.setClusters_ctxs (s : State) (v : FMap Cluster) : (s.setClusters v).ctxs = s.ctxs := rfl
@[simp] theorem State.setClusters_work (s : State) (v : FMap Cluster) : (s.setClusters v).work = s.work := rfl
@[simp] theorem State.setClusters_coh (s : State) (v : FMap Cluster) : (s.setClusters v).coh = s.coh := rfl
@[simp] theorem State.setClusters_links (s : State) (v : FMap Cluster) : (s.setClusters v).links = s.links := rfl
@[simp] theorem State.setClusters_dies (s : State) (v : FMap Cluster) : (s.setClusters v).dies = s.dies := rfl
@[simp] theorem State.setClusters_dev (s : State) (v : FMap Cluster) : (s.setClusters v).dev = s.dev := rfl
@[simp] theorem State.setClusters_race (s : State) (v : FMap Cluster) : (s.setClusters v).race = s.race := rfl
@[simp] theorem State.setClusters_sched (s : State) (v : FMap Cluster) : (s.setClusters v).sched = s.sched := rfl

@[simp] theorem State.setCtxs_mem (s : State) (v : FMap Ctx) : (s.setCtxs v).mem = s.mem := rfl
@[simp] theorem State.setCtxs_cur (s : State) (v : FMap Ctx) : (s.setCtxs v).cur = s.cur := rfl
@[simp] theorem State.setCtxs_acts (s : State) (v : FMap Ctx) : (s.setCtxs v).acts = s.acts := rfl
@[simp] theorem State.setCtxs_cores (s : State) (v : FMap Ctx) : (s.setCtxs v).cores = s.cores := rfl
@[simp] theorem State.setCtxs_clusters (s : State) (v : FMap Ctx) : (s.setCtxs v).clusters = s.clusters := rfl
@[simp] theorem State.setCtxs_ctxs (s : State) (v : FMap Ctx) : (s.setCtxs v).ctxs = v := rfl
@[simp] theorem State.setCtxs_work (s : State) (v : FMap Ctx) : (s.setCtxs v).work = s.work := rfl
@[simp] theorem State.setCtxs_coh (s : State) (v : FMap Ctx) : (s.setCtxs v).coh = s.coh := rfl
@[simp] theorem State.setCtxs_links (s : State) (v : FMap Ctx) : (s.setCtxs v).links = s.links := rfl
@[simp] theorem State.setCtxs_dies (s : State) (v : FMap Ctx) : (s.setCtxs v).dies = s.dies := rfl
@[simp] theorem State.setCtxs_dev (s : State) (v : FMap Ctx) : (s.setCtxs v).dev = s.dev := rfl
@[simp] theorem State.setCtxs_race (s : State) (v : FMap Ctx) : (s.setCtxs v).race = s.race := rfl
@[simp] theorem State.setCtxs_sched (s : State) (v : FMap Ctx) : (s.setCtxs v).sched = s.sched := rfl

@[simp] theorem State.setWork_mem (s : State) (v : Work) : (s.setWork v).mem = s.mem := rfl
@[simp] theorem State.setWork_cur (s : State) (v : Work) : (s.setWork v).cur = s.cur := rfl
@[simp] theorem State.setWork_acts (s : State) (v : Work) : (s.setWork v).acts = s.acts := rfl
@[simp] theorem State.setWork_cores (s : State) (v : Work) : (s.setWork v).cores = s.cores := rfl
@[simp] theorem State.setWork_clusters (s : State) (v : Work) : (s.setWork v).clusters = s.clusters := rfl
@[simp] theorem State.setWork_ctxs (s : State) (v : Work) : (s.setWork v).ctxs = s.ctxs := rfl
@[simp] theorem State.setWork_work (s : State) (v : Work) : (s.setWork v).work = v := rfl
@[simp] theorem State.setWork_coh (s : State) (v : Work) : (s.setWork v).coh = s.coh := rfl
@[simp] theorem State.setWork_links (s : State) (v : Work) : (s.setWork v).links = s.links := rfl
@[simp] theorem State.setWork_dies (s : State) (v : Work) : (s.setWork v).dies = s.dies := rfl
@[simp] theorem State.setWork_dev (s : State) (v : Work) : (s.setWork v).dev = s.dev := rfl
@[simp] theorem State.setWork_race (s : State) (v : Work) : (s.setWork v).race = s.race := rfl
@[simp] theorem State.setWork_sched (s : State) (v : Work) : (s.setWork v).sched = s.sched := rfl

@[simp] theorem State.setCoh_mem (s : State) (v : Coh) : (s.setCoh v).mem = s.mem := rfl
@[simp] theorem State.setCoh_cur (s : State) (v : Coh) : (s.setCoh v).cur = s.cur := rfl
@[simp] theorem State.setCoh_acts (s : State) (v : Coh) : (s.setCoh v).acts = s.acts := rfl
@[simp] theorem State.setCoh_cores (s : State) (v : Coh) : (s.setCoh v).cores = s.cores := rfl
@[simp] theorem State.setCoh_clusters (s : State) (v : Coh) : (s.setCoh v).clusters = s.clusters := rfl
@[simp] theorem State.setCoh_ctxs (s : State) (v : Coh) : (s.setCoh v).ctxs = s.ctxs := rfl
@[simp] theorem State.setCoh_work (s : State) (v : Coh) : (s.setCoh v).work = s.work := rfl
@[simp] theorem State.setCoh_coh (s : State) (v : Coh) : (s.setCoh v).coh = v := rfl
@[simp] theorem State.setCoh_links (s : State) (v : Coh) : (s.setCoh v).links = s.links := rfl
@[simp] theorem State.setCoh_dies (s : State) (v : Coh) : (s.setCoh v).dies = s.dies := rfl
@[simp] theorem State.setCoh_dev (s : State) (v : Coh) : (s.setCoh v).dev = s.dev := rfl
@[simp] theorem State.setCoh_race (s : State) (v : Coh) : (s.setCoh v).race = s.race := rfl
@[simp] theorem State.setCoh_sched (s : State) (v : Coh) : (s.setCoh v).sched = s.sched := rfl

@[simp] theorem State.setLinks_mem (s : State) (v : FMap Link) : (s.setLinks v).mem = s.mem := rfl
@[simp] theorem State.setLinks_cur (s : State) (v : FMap Link) : (s.setLinks v).cur = s.cur := rfl
@[simp] theorem State.setLinks_acts (s : State) (v : FMap Link) : (s.setLinks v).acts = s.acts := rfl
@[simp] theorem State.setLinks_cores (s : State) (v : FMap Link) : (s.setLinks v).cores = s.cores := rfl
@[simp] theorem State.setLinks_clusters (s : State) (v : FMap Link) : (s.setLinks v).clusters = s.clusters := rfl
@[simp] theorem State.setLinks_ctxs (s : State) (v : FMap Link) : (s.setLinks v).ctxs = s.ctxs := rfl
@[simp] theorem State.setLinks_work (s : State) (v : FMap Link) : (s.setLinks v).work = s.work := rfl
@[simp] theorem State.setLinks_coh (s : State) (v : FMap Link) : (s.setLinks v).coh = s.coh := rfl
@[simp] theorem State.setLinks_links (s : State) (v : FMap Link) : (s.setLinks v).links = v := rfl
@[simp] theorem State.setLinks_dies (s : State) (v : FMap Link) : (s.setLinks v).dies = s.dies := rfl
@[simp] theorem State.setLinks_dev (s : State) (v : FMap Link) : (s.setLinks v).dev = s.dev := rfl
@[simp] theorem State.setLinks_race (s : State) (v : FMap Link) : (s.setLinks v).race = s.race := rfl
@[simp] theorem State.setLinks_sched (s : State) (v : FMap Link) : (s.setLinks v).sched = s.sched := rfl

@[simp] theorem State.setDies_mem (s : State) (v : FMap Die) : (s.setDies v).mem = s.mem := rfl
@[simp] theorem State.setDies_cur (s : State) (v : FMap Die) : (s.setDies v).cur = s.cur := rfl
@[simp] theorem State.setDies_acts (s : State) (v : FMap Die) : (s.setDies v).acts = s.acts := rfl
@[simp] theorem State.setDies_cores (s : State) (v : FMap Die) : (s.setDies v).cores = s.cores := rfl
@[simp] theorem State.setDies_clusters (s : State) (v : FMap Die) : (s.setDies v).clusters = s.clusters := rfl
@[simp] theorem State.setDies_ctxs (s : State) (v : FMap Die) : (s.setDies v).ctxs = s.ctxs := rfl
@[simp] theorem State.setDies_work (s : State) (v : FMap Die) : (s.setDies v).work = s.work := rfl
@[simp] theorem State.setDies_coh (s : State) (v : FMap Die) : (s.setDies v).coh = s.coh := rfl
@[simp] theorem State.setDies_links (s : State) (v : FMap Die) : (s.setDies v).links = s.links := rfl
@[simp] theorem State.setDies_dies (s : State) (v : FMap Die) : (s.setDies v).dies = v := rfl
@[simp] theorem State.setDies_dev (s : State) (v : FMap Die) : (s.setDies v).dev = s.dev := rfl
@[simp] theorem State.setDies_race (s : State) (v : FMap Die) : (s.setDies v).race = s.race := rfl
@[simp] theorem State.setDies_sched (s : State) (v : FMap Die) : (s.setDies v).sched = s.sched := rfl

@[simp] theorem State.setDev_mem (s : State) (v : Dev) : (s.setDev v).mem = s.mem := rfl
@[simp] theorem State.setDev_cur (s : State) (v : Dev) : (s.setDev v).cur = s.cur := rfl
@[simp] theorem State.setDev_acts (s : State) (v : Dev) : (s.setDev v).acts = s.acts := rfl
@[simp] theorem State.setDev_cores (s : State) (v : Dev) : (s.setDev v).cores = s.cores := rfl
@[simp] theorem State.setDev_clusters (s : State) (v : Dev) : (s.setDev v).clusters = s.clusters := rfl
@[simp] theorem State.setDev_ctxs (s : State) (v : Dev) : (s.setDev v).ctxs = s.ctxs := rfl
@[simp] theorem State.setDev_work (s : State) (v : Dev) : (s.setDev v).work = s.work := rfl
@[simp] theorem State.setDev_coh (s : State) (v : Dev) : (s.setDev v).coh = s.coh := rfl
@[simp] theorem State.setDev_links (s : State) (v : Dev) : (s.setDev v).links = s.links := rfl
@[simp] theorem State.setDev_dies (s : State) (v : Dev) : (s.setDev v).dies = s.dies := rfl
@[simp] theorem State.setDev_dev (s : State) (v : Dev) : (s.setDev v).dev = v := rfl
@[simp] theorem State.setDev_race (s : State) (v : Dev) : (s.setDev v).race = s.race := rfl
@[simp] theorem State.setDev_sched (s : State) (v : Dev) : (s.setDev v).sched = s.sched := rfl

@[simp] theorem State.setRace_mem (s : State) (v : List Past) : (s.setRace v).mem = s.mem := rfl
@[simp] theorem State.setRace_cur (s : State) (v : List Past) : (s.setRace v).cur = s.cur := rfl
@[simp] theorem State.setRace_acts (s : State) (v : List Past) : (s.setRace v).acts = s.acts := rfl
@[simp] theorem State.setRace_cores (s : State) (v : List Past) : (s.setRace v).cores = s.cores := rfl
@[simp] theorem State.setRace_clusters (s : State) (v : List Past) : (s.setRace v).clusters = s.clusters := rfl
@[simp] theorem State.setRace_ctxs (s : State) (v : List Past) : (s.setRace v).ctxs = s.ctxs := rfl
@[simp] theorem State.setRace_work (s : State) (v : List Past) : (s.setRace v).work = s.work := rfl
@[simp] theorem State.setRace_coh (s : State) (v : List Past) : (s.setRace v).coh = s.coh := rfl
@[simp] theorem State.setRace_links (s : State) (v : List Past) : (s.setRace v).links = s.links := rfl
@[simp] theorem State.setRace_dies (s : State) (v : List Past) : (s.setRace v).dies = s.dies := rfl
@[simp] theorem State.setRace_dev (s : State) (v : List Past) : (s.setRace v).dev = s.dev := rfl
@[simp] theorem State.setRace_race (s : State) (v : List Past) : (s.setRace v).race = v := rfl
@[simp] theorem State.setRace_sched (s : State) (v : List Past) : (s.setRace v).sched = s.sched := rfl

@[simp] theorem State.setSched_mem (s : State) (v : Sched) : (s.setSched v).mem = s.mem := rfl
@[simp] theorem State.setSched_cur (s : State) (v : Sched) : (s.setSched v).cur = s.cur := rfl
@[simp] theorem State.setSched_acts (s : State) (v : Sched) : (s.setSched v).acts = s.acts := rfl
@[simp] theorem State.setSched_cores (s : State) (v : Sched) : (s.setSched v).cores = s.cores := rfl
@[simp] theorem State.setSched_clusters (s : State) (v : Sched) : (s.setSched v).clusters = s.clusters := rfl
@[simp] theorem State.setSched_ctxs (s : State) (v : Sched) : (s.setSched v).ctxs = s.ctxs := rfl
@[simp] theorem State.setSched_work (s : State) (v : Sched) : (s.setSched v).work = s.work := rfl
@[simp] theorem State.setSched_coh (s : State) (v : Sched) : (s.setSched v).coh = s.coh := rfl
@[simp] theorem State.setSched_links (s : State) (v : Sched) : (s.setSched v).links = s.links := rfl
@[simp] theorem State.setSched_dies (s : State) (v : Sched) : (s.setSched v).dies = s.dies := rfl
@[simp] theorem State.setSched_dev (s : State) (v : Sched) : (s.setSched v).dev = s.dev := rfl
@[simp] theorem State.setSched_race (s : State) (v : Sched) : (s.setSched v).race = s.race := rfl
@[simp] theorem State.setSched_sched (s : State) (v : Sched) : (s.setSched v).sched = v := rfl

end Sys2Proof.Machine
end

