-- ==== Sys2Proof/Laws/Maps.lean ====
section
/-!
SUPPORT. Finite maps: a key that is put holds its value, and every other key is unchanged; the same for the cores, clusters,
contexts, links, dies and queues that State holds in maps.
-/

namespace Sys2Proof.Machine

theorem FMap.get?_put {α : Type} (m : FMap α) (x y : Nat) (v : α) :
    FMap.get? (FMap.put m x v) y = if y = x then some v else FMap.get? m y := by
  induction m with
  | nil =>
    unfold FMap.put FMap.get? FMap.get?
    by_cases h : y = x
    · rw [if_pos h, if_pos h.symm]
    · rw [if_neg h, if_neg (Ne.symm h)]
  | cons p m ih =>
    obtain ⟨k, w⟩ := p
    unfold FMap.put
    by_cases h1 : x < k
    · rw [if_pos h1]
      by_cases h : y = x
      · subst h; simp [FMap.get?]
      · simp [FMap.get?, Ne.symm h, h]
    · rw [if_neg h1]
      by_cases h2 : x = k
      · subst h2
        by_cases h : y = x
        · subst h; simp [FMap.get?]
        · simp [FMap.get?, Ne.symm h, h]
      · rw [if_neg h2]
        by_cases hk : k = y
        · subst hk; simp [FMap.get?, Ne.symm h2]
        · simp [FMap.get?, hk, ih]

theorem FMap.mem_of_mem_put {α : Type} {m : FMap α} {x : Nat} {v : α} {p : Nat × α} (h : p ∈ FMap.put m x v) :
    p ∈ m ∨ p = (x, v) := by
  induction m with
  | nil => simp_all [FMap.put]
  | cons q m ih =>
    obtain ⟨k, w⟩ := q
    unfold FMap.put at h
    split_ifs at h <;> simp only [List.mem_cons] at h ⊢ <;> tauto

theorem FMap.mem_of_mem_del {α : Type} {m : FMap α} {x : Nat} {p : Nat × α} (h : p ∈ FMap.del m x) : p ∈ m :=
  (List.mem_filter.1 h).1

@[simp] theorem FMap.get?_put_self {α : Type} (m : FMap α) (x : Nat) (v : α) : FMap.get? (FMap.put m x v) x = some v := by
  rw [FMap.get?_put, if_pos rfl]

theorem FMap.get?_put_ne {α : Type} (m : FMap α) (x y : Nat) (v : α) (h : y ≠ x) :
    FMap.get? (FMap.put m x v) y = FMap.get? m y := by
  rw [FMap.get?_put, if_neg h]

@[simp] theorem FMap.getD_put_self {α : Type} (m : FMap α) (x : Nat) (v d : α) : FMap.getD (FMap.put m x v) x d = v := by
  unfold FMap.getD; rw [FMap.get?_put_self]; rfl

theorem FMap.getD_put_ne {α : Type} (m : FMap α) (x y : Nat) (v d : α) (h : y ≠ x) :
    FMap.getD (FMap.put m x v) y d = FMap.getD m y d := by
  unfold FMap.getD; rw [FMap.get?_put_ne _ _ _ _ h]

theorem FMap.getD_put {α : Type} (m : FMap α) (x y : Nat) (v d : α) :
    FMap.getD (FMap.put m x v) y d = if y = x then v else FMap.getD m y d := by
  split_ifs with h
  · subst h; exact FMap.getD_put_self _ _ _ _
  · exact FMap.getD_put_ne _ _ _ _ _ h

theorem FMap.get?_del {α : Type} (m : FMap α) (x y : Nat) :
    FMap.get? (FMap.del m x) y = if y = x then none else FMap.get? m y := by
  induction m with
  | nil => simp [FMap.del, FMap.get?]
  | cons p m ih =>
    obtain ⟨k, w⟩ := p
    unfold FMap.del at *
    by_cases hk : k = x
    · subst hk
      simp only [List.filter_cons, bne_self_eq_false, Bool.false_eq_true, if_false, ih, FMap.get?]
      by_cases h : y = k
      · rw [if_pos h, if_pos h]
      · rw [if_neg h, if_neg h, if_neg (Ne.symm h)]
    · have : (k != x) = true := by simpa using hk
      simp only [List.filter_cons, this, if_true, FMap.get?, ih]
      by_cases h : k = y
      · subst h; rw [if_pos rfl, if_neg hk, if_pos rfl]
      · rw [if_neg h, if_neg h]

theorem FMap.get?_mapV {α β : Type} (f : Nat → α → β) (m : FMap α) (y : Nat) :
    FMap.get? (FMap.mapV f m) y = (FMap.get? m y).map (f y) := by
  induction m with
  | nil => rfl
  | cons p m ih =>
    obtain ⟨k, w⟩ := p
    unfold FMap.mapV at *
    by_cases hk : k = y
    · subst hk; simp [FMap.get?]
    · simp [FMap.get?, hk, ih]

theorem FMap.getD_foldl_put {α β : Type} (f : β → α) (d : α) (b : Nat) (ys : List β) (j : Nat) (m : FMap α) (k : Nat) :
    FMap.getD (((List.range' j ys.length).zip ys).foldl (fun m c => FMap.put m (b + c.1) (f c.2)) m) k d
      = if h : b + j ≤ k ∧ k - (b + j) < ys.length then f (ys[k - (b + j)]'h.2) else FMap.getD m k d := by
  induction ys generalizing j m with
  | nil => simp
  | cons y ys ih =>
    have e : (List.range' j (y :: ys).length).zip (y :: ys) = (j, y) :: (List.range' (j + 1) ys.length).zip ys := rfl
    rw [e, List.foldl_cons, ih, FMap.getD_put]
    have hl : (y :: ys).length = ys.length + 1 := rfl
    by_cases h0 : k = b + j
    · subst h0
      rw [dif_neg (by omega), if_pos rfl, dif_pos (by simp)]
      simp
    · by_cases h1 : b + (j + 1) ≤ k ∧ k - (b + (j + 1)) < ys.length
      · rw [dif_pos h1, dif_pos ⟨by omega, by omega⟩]
        have : k - (b + j) = k - (b + (j + 1)) + 1 := by omega
        congr 1
        simp only [this, List.getElem_cons_succ]
      · rw [dif_neg h1, if_neg h0, dif_neg (by omega)]

/-! ### The maps of State -/

@[simp] theorem State.core_modCore (s : State) (k : Nat) (f : Core → Core) : (s.modCore k f).core k = f (s.core k) :=
  FMap.getD_put_self _ _ _ _

theorem State.core_modCore_ne (s : State) (k j : Nat) (f : Core → Core) (h : j ≠ k) : (s.modCore k f).core j = s.core j :=
  FMap.getD_put_ne _ _ _ _ _ h

@[simp] theorem State.cluster_modCluster (s : State) (k : Nat) (f : Cluster → Cluster) :
    (s.modCluster k f).cluster k = f (s.cluster k) := FMap.getD_put_self _ _ _ _

theorem State.cluster_modCluster_ne (s : State) (k j : Nat) (f : Cluster → Cluster) (h : j ≠ k) :
    (s.modCluster k f).cluster j = s.cluster j := FMap.getD_put_ne _ _ _ _ _ h

@[simp] theorem State.ctx_modCtx (s : State) (k : Nat) (f : Ctx → Ctx) : (s.modCtx k f).ctx k = f (s.ctx k) :=
  FMap.getD_put_self _ _ _ _

theorem State.ctx_modCtx_ne (s : State) (k j : Nat) (f : Ctx → Ctx) (h : j ≠ k) : (s.modCtx k f).ctx j = s.ctx j :=
  FMap.getD_put_ne _ _ _ _ _ h

@[simp] theorem State.link_modLink (s : State) (k : Nat) (f : Link → Link) : (s.modLink k f).link k = f (s.link k) :=
  FMap.getD_put_self _ _ _ _

theorem State.link_modLink_ne (s : State) (k j : Nat) (f : Link → Link) (h : j ≠ k) : (s.modLink k f).link j = s.link j :=
  FMap.getD_put_ne _ _ _ _ _ h

@[simp] theorem State.die_modDie (s : State) (k : Nat) (f : Die → Die) : (s.modDie k f).die k = f (s.die k) :=
  FMap.getD_put_self _ _ _ _

theorem State.die_modDie_ne (s : State) (k j : Nat) (f : Die → Die) (h : j ≠ k) : (s.modDie k f).die j = s.die j :=
  FMap.getD_put_ne _ _ _ _ _ h

@[simp] theorem State.queue_modQueue (s : State) (k : Nat) (f : Queue → Queue) : (s.modQueue k f).queue k = f (s.queue k) :=
  FMap.getD_put_self _ _ _ _

theorem State.queue_modQueue_ne (s : State) (k j : Nat) (f : Queue → Queue) (h : j ≠ k) :
    (s.modQueue k f).queue j = s.queue j := FMap.getD_put_ne _ _ _ _ _ h

end Sys2Proof.Machine
end

