-- ==== Sys2Proof/Laws/Memory.lean ====
section
/-!
SUPPORT. Memory: what a read gives after each operation, and that each operation keeps the canonical form.
-/

namespace Sys2Proof.Machine

/-! ### Reads -/

theorem Memory.read_filter (m : List Host.Cell) (p : Nat → Bool) (k : Nat) (h : p k = true) :
    Memory.read (m.filter fun c => p c.1) k = Memory.read m k := by
  induction m with
  | nil => rfl
  | cons c m ih =>
    obtain ⟨a, b⟩ := c
    by_cases ha : p a = true
    · simp [ha, Memory.read, ih]
    · have : a ≠ k := by rintro rfl; exact ha h
      simp [ha, Memory.read, ih, this]

theorem Memory.read_filter_out (m : List Host.Cell) (p : Nat → Bool) (k : Nat) (h : p k = false) :
    Memory.read (m.filter fun c => p c.1) k = 0 := by
  induction m with
  | nil => rfl
  | cons c m ih =>
    obtain ⟨a, b⟩ := c
    by_cases ha : p a = true
    · have : a ≠ k := by rintro rfl; simp [h] at ha
      simp [ha, Memory.read, ih, this]
    · simp [ha, ih]

theorem Memory.read_insert_self (m : List Host.Cell) (a : Nat) (b : Byte) (h : ∀ c ∈ m, c.1 ≠ a) :
    Memory.read (Memory.insert m a b) a = b := by
  induction m with
  | nil => simp [Memory.insert, Memory.read]
  | cons c m ih =>
    obtain ⟨k, x⟩ := c
    have hk : k ≠ a := h (k, x) (by simp)
    have := ih fun c hc => h c (by simp [hc])
    simp only [Memory.insert]
    split <;> simp_all [Memory.read]

theorem Memory.read_insert_ne (m : List Host.Cell) (a k : Nat) (b : Byte) (h : k ≠ a) :
    Memory.read (Memory.insert m a b) k = Memory.read m k := by
  induction m with
  | nil => simp [Memory.insert, Memory.read, h.symm]
  | cons c m ih =>
    obtain ⟨j, x⟩ := c
    simp only [Memory.insert]
    split
    · simp [Memory.read, h.symm]
    · simp [Memory.read, ih]

/-- A read after a write of one byte. -/
theorem Memory.read_write (m : List Host.Cell) (a k : Nat) (b : Byte) :
    Memory.read (Memory.write m a b) k = if k = a then b else Memory.read m k := by
  have hf : ∀ k, k ≠ a → Memory.read (m.filter fun c => c.1 != a) k = Memory.read m k := fun k h =>
    Memory.read_filter m (fun x => x != a) k (by simpa using h)
  unfold Memory.write
  split
  · next hb =>
    split
    · next hk => subst hk; rw [hb]; exact Memory.read_filter_out m (fun x => x != k) k (by simp)
    · next hk => exact hf k hk
  · split
    · next hk =>
      subst hk
      exact Memory.read_insert_self _ _ _ (by intro c hc; simpa using (List.mem_filter.1 hc).2)
    · next hk => rw [Memory.read_insert_ne _ _ _ _ hk, hf k hk]

/-- A read after a write of `n` bytes. -/
theorem Memory.read_writeN (m : List Host.Cell) (a n v k : Nat) :
    Memory.read (Memory.writeN m a n v) k =
      if a ≤ k ∧ k < a + n then BitVec.ofNat 8 (v / 256 ^ (k - a)) else Memory.read m k := by
  induction n generalizing m a v with
  | zero => rw [if_neg (by omega)]; rfl
  | succ n ih =>
    rw [Memory.writeN, ih, Memory.read_write]
    by_cases h1 : a + 1 ≤ k ∧ k < a + 1 + n
    · have h2 : a ≤ k ∧ k < a + (n + 1) := by omega
      simp only [h1, h2, and_self, if_true]
      obtain ⟨j, rfl⟩ : ∃ j, k = a + 1 + j := ⟨k - (a + 1), by omega⟩
      have e1 : a + 1 + j - (a + 1) = j := by omega
      have e2 : a + 1 + j - a = j + 1 := by omega
      rw [e1, e2, Nat.pow_succ, Nat.div_div_eq_div_mul, Nat.mul_comm]
    · simp only [h1, if_false]
      by_cases h3 : k = a
      · subst h3; simp
      · have : ¬ (a ≤ k ∧ k < a + (n + 1)) := by omega
        simp [h3, this]

/-- Reads depend on the bytes read only. -/
theorem Memory.readN_congr (m m' : List Host.Cell) (a n : Nat)
    (h : ∀ k, a ≤ k → k < a + n → Memory.read m k = Memory.read m' k) : Memory.readN m a n = Memory.readN m' a n := by
  induction n generalizing a with
  | zero => rfl
  | succ n ih =>
    simp only [Memory.readN]
    rw [h a (by omega) (by omega), ih (a + 1) fun k h1 h2 => h k (by omega) (by omega)]

/-- What `n` bytes hold is below 256^n. -/
theorem Memory.readN_lt (m : List Host.Cell) (a n : Nat) : Memory.readN m a n < 256 ^ n := by
  induction n generalizing a with
  | zero => simp [Memory.readN]
  | succ n ih =>
    have h1 := ih (a + 1)
    have h2 := (Memory.read m a).isLt
    simp only [Memory.readN, Nat.pow_succ]
    omega

/-- Bytes that read as those of `v` read as `v`. -/
theorem Memory.readN_of_bytes (m : List Host.Cell) (a n v : Nat)
    (h : ∀ i, i < n → Memory.read m (a + i) = BitVec.ofNat 8 (v / 256 ^ i)) : Memory.readN m a n = v % 256 ^ n := by
  induction n generalizing a v with
  | zero => simp [Memory.readN, Nat.mod_one]
  | succ n ih =>
    have h0 := h 0 (by omega)
    simp only [Nat.add_zero, Nat.pow_zero, Nat.div_one] at h0
    have ih' := ih (a + 1) (v / 256) fun i hi => by
      have := h (i + 1) (by omega)
      rw [show a + 1 + i = a + (i + 1) by omega, this, Nat.pow_succ, Nat.div_div_eq_div_mul, Nat.mul_comm]
    simp only [Memory.readN]
    rw [h0, ih', BitVec.toNat_ofNat, show 256 ^ (n + 1) = 256 * 256 ^ n by rw [Nat.pow_succ, Nat.mul_comm], Nat.mod_mul]

/-- A read of the bytes just written. -/
theorem Memory.readN_writeN (m : List Host.Cell) (a n v : Nat) :
    Memory.readN (Memory.writeN m a n v) a n = v % 256 ^ n :=
  Memory.readN_of_bytes _ _ _ _ fun i hi => by
    rw [Memory.read_writeN, if_pos (by omega), Nat.add_sub_cancel_left]

/-- A read of other bytes. -/
theorem Memory.readN_writeN_ne (m : List Host.Cell) (a n v b k : Nat) (h : b + k ≤ a ∨ a + n ≤ b) :
    Memory.readN (Memory.writeN m a n v) b k = Memory.readN m b k :=
  Memory.readN_congr _ _ _ _ fun j h1 h2 => by rw [Memory.read_writeN, if_neg (by omega)]

/-! ### The canonical form -/

/-- The canonical form as a statement about the list. -/
theorem Memory.wf_iff (m : List Host.Cell) :
    Memory.wf m = true ↔ (m.Pairwise fun p q => p.1 < q.1) ∧ ∀ p ∈ m, p.2 ≠ 0 := by
  induction m with
  | nil => simp [Memory.wf]
  | cons p m ih =>
    cases m with
    | nil => simp [Memory.wf]
    | cons q m =>
      simp only [Memory.wf, Bool.and_eq_true, ih, decide_eq_true_eq, bne_iff_ne, List.pairwise_cons]
      constructor
      · rintro ⟨⟨h1, h2⟩, ⟨h3, h4⟩, h5⟩
        refine ⟨⟨?_, h3, h4⟩, ?_⟩
        · intro x hx
          rcases List.mem_cons.1 hx with rfl | hx
          · exact h2
          · exact lt_trans h2 (h3 x hx)
        · intro x hx
          rcases List.mem_cons.1 hx with rfl | hx
          · exact h1
          · exact h5 x hx
      · rintro ⟨⟨h1, h2, h3⟩, h4⟩
        exact ⟨⟨h4 p (by simp), h1 q (by simp)⟩, ⟨h2, h3⟩, fun x hx => h4 x (by simp [hx])⟩

theorem Memory.mem_insert {m : List Host.Cell} {a : Nat} {b : Byte} {x : Host.Cell}
    (h : x ∈ Memory.insert m a b) : x = (a, b) ∨ x ∈ m := by
  induction m with
  | nil => simpa [Memory.insert] using h
  | cons c m ih =>
    simp only [Memory.insert] at h
    split at h
    · simpa using h
    · rcases List.mem_cons.1 h with rfl | h
      · simp
      · rcases ih h with rfl | h <;> simp_all

theorem Memory.filter_wf (m : List Host.Cell) (p : Host.Cell → Bool) (h : Memory.wf m = true) :
    Memory.wf (m.filter p) = true := by
  rw [Memory.wf_iff] at *
  exact ⟨h.1.filter p, fun x hx => h.2 x (List.mem_filter.1 hx).1⟩

theorem Memory.insert_wf (m : List Host.Cell) (a : Nat) (b : Byte) (h : Memory.wf m = true) (hb : b ≠ 0)
    (ha : ∀ c ∈ m, c.1 ≠ a) : Memory.wf (Memory.insert m a b) = true := by
  rw [Memory.wf_iff] at *
  obtain ⟨h1, h2⟩ := h
  refine ⟨?_, ?_⟩
  · induction m with
    | nil => simp [Memory.insert]
    | cons c m ih =>
      obtain ⟨k, x⟩ := c
      rw [List.pairwise_cons] at h1
      have hk : k ≠ a := ha (k, x) (by simp)
      simp only [Memory.insert]
      split
      · next hlt =>
        refine List.pairwise_cons.2 ⟨?_, List.pairwise_cons.2 ⟨h1.1, h1.2⟩⟩
        intro y hy
        rcases List.mem_cons.1 hy with rfl | hy
        · exact hlt
        · exact lt_trans hlt (h1.1 y hy)
      · next hlt =>
        refine List.pairwise_cons.2 ⟨?_, ih (fun c hc => ha c (by simp [hc])) h1.2 fun p hp => h2 p (by simp [hp])⟩
        intro y hy
        rcases Memory.mem_insert hy with rfl | hy
        · simp only; omega
        · exact h1.1 y hy
  · intro x hx
    rcases Memory.mem_insert hx with rfl | hx
    · exact hb
    · exact h2 x hx

theorem Memory.write_wf (m : List Host.Cell) (a : Nat) (b : Byte) (h : Memory.wf m = true) :
    Memory.wf (Memory.write m a b) = true := by
  unfold Memory.write
  split
  · exact Memory.filter_wf m _ h
  · next hb =>
    exact Memory.insert_wf _ _ _ (Memory.filter_wf m _ h) hb (by intro c hc; simpa using (List.mem_filter.1 hc).2)

theorem Memory.writeN_wf (m : List Host.Cell) (a n v : Nat) (h : Memory.wf m = true) :
    Memory.wf (Memory.writeN m a n v) = true := by
  induction n generalizing m a v with
  | zero => exact h
  | succ n ih => exact ih _ _ _ (Memory.write_wf m a _ h)

theorem Memory.zero_wf (m : List Host.Cell) (lo hi : Nat) (h : Memory.wf m = true) :
    Memory.wf (Memory.zero m lo hi) = true := Memory.filter_wf m _ h

theorem Memory.splice_wf (m : List Host.Cell) (lo : Nat) (bs : List Nat) (h : Memory.wf m = true) :
    Memory.wf (Memory.splice m lo bs) = true := by
  have hcell : ∀ x ∈ ((List.range bs.length).zip bs).filterMap (fun p : Nat × Nat =>
      if p.2 % 256 = 0 then none else some ((lo + p.1, BitVec.ofNat 8 p.2) : Host.Cell)),
      lo ≤ x.1 ∧ x.1 < lo + bs.length ∧ x.2 ≠ 0 := by
    intro x hx
    obtain ⟨p, hp, hx⟩ := List.mem_filterMap.1 hx
    have hlt : p.1 < bs.length := by
      have := (List.of_mem_zip (a := p.1) (b := p.2) hp).1
      simpa using this
    split at hx
    · simp at hx
    · next hne =>
      simp only [Option.some.injEq] at hx
      subst hx
      refine ⟨by simp, by simpa using hlt, ?_⟩
      intro h0
      have := congrArg BitVec.toNat h0
      simp at this
      omega
  have hsort : (((List.range bs.length).zip bs).filterMap (fun p : Nat × Nat =>
      if p.2 % 256 = 0 then none else some ((lo + p.1, BitVec.ofNat 8 p.2) : Host.Cell))).Pairwise
        (fun p q => p.1 < q.1) := by
    rw [List.pairwise_filterMap]
    have hr : ((List.range bs.length).zip bs).Pairwise fun p q => p.1 < q.1 := by
      have : (((List.range bs.length).zip bs).map Prod.fst).Pairwise (· < ·) := by
        rw [List.map_fst_zip (by simp)]
        exact List.pairwise_lt_range
      exact List.pairwise_map.1 this
    refine hr.imp ?_
    intro p q hpq x hx y hy
    split at hx <;> split at hy <;> simp_all
    subst hx hy
    simpa using hpq
  rw [Memory.wf_iff] at *
  unfold Memory.splice
  refine ⟨?_, ?_⟩
  · rw [List.pairwise_append, List.pairwise_append]
    refine ⟨⟨h.1.filter _, hsort, ?_⟩, h.1.filter _, ?_⟩
    · intro a ha b hb
      have h1 := (List.mem_filter.1 ha).2
      have h2 := (hcell b hb).1
      simp at h1
      omega
    · intro a ha b hb
      have h2 := (List.mem_filter.1 hb).2
      simp at h2
      rcases List.mem_append.1 ha with ha | ha
      · have h1 := (List.mem_filter.1 ha).2
        simp at h1
        omega
      · have h1 := (hcell a ha).2.1
        omega
  · intro p hp
    rcases List.mem_append.1 hp with hp | hp
    · rcases List.mem_append.1 hp with hp | hp
      · exact h.2 p (List.mem_filter.1 hp).1
      · exact (hcell p hp).2.2
    · exact h.2 p (List.mem_filter.1 hp).1

/-- The memory of the reset state has the form. -/
theorem State.reset_mem_wf : Memory.wf State.reset.mem = true := rfl

end Sys2Proof.Machine
end

