-- ==== Sys2Proof/Laws/Registers.lean ====
section
/-!
SUPPORT. Registers as workspace words: what each write gives to each read, and what the ends of instructions leave.
-/

namespace Sys2Proof.Machine

/-! ### Updates of part of the state -/

@[simp] theorem State.modCur_mem (s : State) (f : Act → Act) : (s.modCur f).mem = s.mem := rfl
@[simp] theorem State.modCur_cur (s : State) (f : Act → Act) : (s.modCur f).cur = f s.cur := rfl
@[simp] theorem State.modCur_sched (s : State) (f : Act → Act) : (s.modCur f).sched = s.sched := rfl
@[simp] theorem State.modSched_mem (s : State) (f : Sched → Sched) : (s.modSched f).mem = s.mem := rfl
@[simp] theorem State.modSched_cur (s : State) (f : Sched → Sched) : (s.modSched f).cur = s.cur := rfl
@[simp] theorem State.modSched_sched (s : State) (f : Sched → Sched) : (s.modSched f).sched = f s.sched := rfl

@[simp] theorem State.wrN_cur (s : State) (a n v : Nat) : (s.wrN a n v).cur = s.cur := rfl
@[simp] theorem State.setWs_cur (s : State) (o n v : Nat) : (s.setWs o n v).cur = s.cur := rfl
@[simp] theorem State.setWs_sched (s : State) (o n v : Nat) : (s.setWs o n v).sched = s.sched := rfl
@[simp] theorem State.setPc_cur (s : State) (v : Nat) : (s.setPc v).cur = s.cur := rfl
@[simp] theorem State.setPc_sched (s : State) (v : Nat) : (s.setPc v).sched = s.sched := rfl
@[simp] theorem State.retire_cur (s : State) (n : Nat) : (s.retire n).cur = s.cur := rfl
@[simp] theorem State.retire_sched (s : State) (n : Nat) : (s.retire n).sched = s.sched := rfl

theorem State.setReg_eq (s : State) (d v t : Nat) : ∃ m, s.setReg d v t = s.setMem m := by
  unfold State.setReg; split
  · exact ⟨s.mem, rfl⟩
  · exact ⟨_, rfl⟩

@[simp] theorem State.setReg_cur (s : State) (d v t : Nat) : (s.setReg d v t).cur = s.cur := by
  obtain ⟨m, h⟩ := s.setReg_eq d v t; rw [h]; rfl

@[simp] theorem State.setReg_sched (s : State) (d v t : Nat) : (s.setReg d v t).sched = s.sched := by
  obtain ⟨m, h⟩ := s.setReg_eq d v t; rw [h]; rfl

theorem State.orFlags_eq (s : State) (f : Nat) : ∃ m, s.orFlags f = s.setMem m := by
  unfold State.orFlags; split
  · exact ⟨s.mem, rfl⟩
  · exact ⟨_, rfl⟩

@[simp] theorem State.orFlags_cur (s : State) (f : Nat) : (s.orFlags f).cur = s.cur := by
  obtain ⟨m, h⟩ := s.orFlags_eq f; rw [h]; rfl

@[simp] theorem State.orFlags_sched (s : State) (f : Nat) : (s.orFlags f).sched = s.sched := by
  obtain ⟨m, h⟩ := s.orFlags_eq f; rw [h]; rfl

/-! ### Bytes -/

theorem State.rd_wrN (s : State) (a n v k : Nat) :
    (s.wrN a n v).rd k = if a ≤ k ∧ k < a + n then BitVec.ofNat 8 (v / 256 ^ (k - a)) else s.rd k :=
  Memory.read_writeN _ _ _ _ _

theorem State.rd_setWs_ne (s : State) (o n v k : Nat) (h : ¬ InSpan k (s.cur.wsKey + o) n) : (s.setWs o n v).rd k = s.rd k := by
  unfold State.setWs
  rw [State.rd_wrN, if_neg]
  exact h

theorem State.rd_setPc_ne (s : State) (v k : Nat) (h : ¬ s.pcSpan k) : (s.setPc v).rd k = s.rd k :=
  s.rd_setWs_ne 0 8 _ k h

theorem State.rd_retire_ne (s : State) (n k : Nat) (h : ¬ s.pcSpan k) : (s.retire n).rd k = s.rd k := s.rd_setPc_ne _ k h

theorem State.rd_setReg_ne (s : State) (d v t k : Nat) (h : ¬ s.regSpan d k) : (s.setReg d v t).rd k = s.rd k := by
  unfold State.setReg
  split
  · rfl
  · next hd =>
    unfold State.regSpan InSpan at h
    rw [State.rd_setWs_ne, State.rd_setWs_ne]
    · intro hk; exact h ⟨hd, Or.inl hk⟩
    · rintro ⟨h1, h2⟩
      simp only [State.setWs_cur] at h1 h2
      exact h ⟨hd, Or.inr (by omega)⟩

theorem State.rd_orFlags_ne (s : State) (f k : Nat) (h : ¬ s.flagSpan k) : (s.orFlags f).rd k = s.rd k := by
  unfold State.orFlags
  split
  · rfl
  · exact s.rd_setWs_ne _ _ _ k h

theorem State.flagSpan_congr (s t : State) (k : Nat) (h : t.cur.wsKey = s.cur.wsKey) : t.flagSpan k ↔ s.flagSpan k := by
  unfold State.flagSpan; rw [h]

theorem State.regSpan_congr (s t : State) (d k : Nat) (h : t.cur.wsKey = s.cur.wsKey) : t.regSpan d k ↔ s.regSpan d k := by
  unfold State.regSpan; rw [h]

theorem State.pcSpan_congr (s t : State) (k : Nat) (h : t.cur.wsKey = s.cur.wsKey) : t.pcSpan k ↔ s.pcSpan k := by
  unfold State.pcSpan; rw [h]

/-! ### Words -/

theorem State.ws_setWs (s : State) (o n v : Nat) : (s.setWs o n v).ws o n = v % 256 ^ n :=
  Memory.readN_writeN _ _ _ _

theorem State.ws_setWs_ne (s : State) (o n v p k : Nat) (h : p + k ≤ o ∨ o + n ≤ p) : (s.setWs o n v).ws p k = s.ws p k :=
  Memory.readN_writeN_ne _ _ _ _ _ _ (by simp only [State.setWs_cur]; omega)

@[simp] theorem State.pc_setPc (s : State) (v : Nat) : (s.setPc v).pc = v % 2 ^ 56 := by
  unfold State.pc State.setPc; rw [State.ws_setWs]; omega

@[simp] theorem State.reg_setPc (s : State) (v k : Nat) : (s.setPc v).reg k = s.reg k := by
  unfold State.reg State.setPc; split
  · rfl
  · exact State.ws_setWs_ne _ _ _ _ _ _ (by omega)

@[simp] theorem State.tb_setPc (s : State) (v k : Nat) : (s.setPc v).tb k = s.tb k := by
  unfold State.tb State.setPc; split
  · rfl
  · exact State.ws_setWs_ne _ _ _ _ _ _ (by omega)

@[simp] theorem State.st_setPc (s : State) (v : Nat) : (s.setPc v).st = s.st :=
  State.ws_setWs_ne _ _ _ _ _ _ (by omega)

@[simp] theorem State.pc_retire (s : State) (n : Nat) : (s.retire n).pc = (s.pc + n) % 2 ^ 56 := State.pc_setPc _ _
@[simp] theorem State.reg_retire (s : State) (n k : Nat) : (s.retire n).reg k = s.reg k := State.reg_setPc _ _ _
@[simp] theorem State.tb_retire (s : State) (n k : Nat) : (s.retire n).tb k = s.tb k := State.tb_setPc _ _ _
@[simp] theorem State.st_retire (s : State) (n : Nat) : (s.retire n).st = s.st := State.st_setPc _ _

theorem State.pc_setReg (s : State) (d v t : Nat) : (s.setReg d v t).pc = s.pc := by
  unfold State.setReg; split
  · rfl
  · unfold State.pc
    rw [State.ws_setWs_ne, State.ws_setWs_ne] <;> omega

theorem State.st_setReg (s : State) (d v t : Nat) (h : d < 32) : (s.setReg d v t).st = s.st := by
  unfold State.setReg; split
  · rfl
  · unfold State.st
    rw [State.ws_setWs_ne, State.ws_setWs_ne] <;> omega

/-- The register written, and its tail. -/
theorem State.holds_setReg (s : State) (d v t : Nat) (h : d < 32) : (s.setReg d v t).Holds d v t := by
  intro hd
  unfold State.setReg State.reg State.tb
  simp only [hd, if_false]
  constructor
  · rw [State.ws_setWs_ne _ _ _ _ _ _ (by omega), State.ws_setWs]; norm_num
  · rw [State.ws_setWs]; norm_num

/-- The other registers. -/
theorem State.reg_setReg_ne (s : State) (d v t k : Nat) (hd : d < 32) (hk : k < 32) (h : k ≠ d) :
    (s.setReg d v t).reg k = s.reg k := by
  unfold State.setReg
  split
  · rfl
  · unfold State.reg
    split
    · rfl
    · rw [State.ws_setWs_ne, State.ws_setWs_ne] <;> omega

theorem State.tb_setReg_ne (s : State) (d v t k : Nat) (hd : d < 32) (hk : k < 32) (h : k ≠ d) :
    (s.setReg d v t).tb k = s.tb k := by
  unfold State.setReg
  split
  · rfl
  · unfold State.tb
    split
    · rfl
    · rw [State.ws_setWs_ne, State.ws_setWs_ne] <;> omega

theorem State.pc_orFlags (s : State) (f : Nat) : (s.orFlags f).pc = s.pc := by
  unfold State.orFlags; split
  · rfl
  · unfold State.pc; rw [State.ws_setWs_ne]; omega

theorem State.reg_orFlags (s : State) (f k : Nat) (h : k < 32) : (s.orFlags f).reg k = s.reg k := by
  unfold State.orFlags; split
  · rfl
  · unfold State.reg
    split
    · rfl
    · rw [State.ws_setWs_ne]; omega

theorem State.tb_orFlags (s : State) (f k : Nat) (h : k < 32) : (s.orFlags f).tb k = s.tb k := by
  unfold State.orFlags; split
  · rfl
  · unfold State.tb
    split
    · rfl
    · rw [State.ws_setWs_ne]; omega

theorem Memory.readN_mod (m : List Host.Cell) (a n k : Nat) (h : k ≤ n) :
    Memory.readN m a n % 256 ^ k = Memory.readN m a k := by
  induction k generalizing a n with
  | zero => simp [Memory.readN, Nat.mod_one]
  | succ k ih =>
    obtain ⟨n, rfl⟩ : ∃ j, n = j + 1 := ⟨n - 1, by omega⟩
    have := ih (a + 1) n (by omega)
    have hb := (Memory.read m a).isLt
    simp only [Memory.readN]
    rw [show 256 ^ (k + 1) = 256 * 256 ^ k by rw [Nat.pow_succ, Nat.mul_comm], Nat.mod_mul]
    rw [show ((Memory.read m a).toNat + 256 * Memory.readN m (a + 1) n) / 256 = Memory.readN m (a + 1) n by omega, this]
    omega

/-- ST[15:0] after flags are raised. -/
theorem State.st_orFlags (s : State) (f : Nat) : (s.orFlags f).st % 65536 = Nat.lor (s.st % 65536) f % 65536 := by
  have low : ∀ t : State, t.st % 65536 = t.ws 0x120 2 := fun t => Memory.readN_mod _ _ 8 2 (by omega)
  unfold State.orFlags
  split
  · next h => subst h; simp [Nat.lor]
  · rw [low, State.ws_setWs]; norm_num

/-! ### The ends of instructions -/

theorem OnlyMem.of_setMem (s : State) (m : List Host.Cell) : OnlyMem s (s.setMem m) := rfl

theorem Advanced.of_retire (s : State) (n : Nat) : Advanced s (s.retire n) n :=
  ⟨s.pc_retire n, rfl, fun k h => s.rd_retire_ne n k h⟩

theorem Jumped.of_setPc (s : State) (v : Nat) : Jumped s (s.setPc v) v :=
  ⟨s.pc_setPc v, rfl, fun k h => s.rd_setPc_ne v k h⟩

/-- What the end of an instruction that writes one register leaves. -/
theorem RegResult.of_put (s : State) (n d v t : Nat) (h : d < 32) : RegResult s ((s.retire n).setReg d v t) n d v t := by
  refine ⟨?_, State.holds_setReg _ _ _ _ h, ?_, ?_⟩
  · rw [State.pc_setReg, State.pc_retire]
  · obtain ⟨m, hm⟩ := (s.retire n).setReg_eq d v t
    rw [hm]; rfl
  · intro k hk
    rw [State.rd_setReg_ne (s.retire n) d v t k fun hr => hk (Or.inr hr), State.rd_retire_ne s n k fun hp => hk (Or.inl hp)]

/-- A result of `State.put`. -/
theorem RegResult.exists_put (s : State) (n d v t : Nat) (h : d < 32) :
    ∃ u, s.put n d v t = .next u ∧ RegResult s u n d v t := ⟨_, rfl, RegResult.of_put s n d v t h⟩

/-- What opening a window over one register changes. -/
theorem State.openWin_eq (s : State) (la d : Nat) :
    (d = 0 ∨ la = 0) ∧ s.openWin la [d] = s ∨
    d ≠ 0 ∧ la ≠ 0 ∧ ∃ w : Win, w.left = la ∧ w.old = [(d, s.reg d, s.tb d)] ∧
      s.openWin la [d] = (s.modSched fun q => { q with nextWin := q.nextWin + 1 }).modCur fun a => { a with wins := a.wins ++ [w] } := by
  unfold State.openWin
  by_cases hd : d = 0
  · left; simp [hd]
  · by_cases hl : la = 0
    · left; simp [hl]
    · right
      exact ⟨hd, hl, ⟨{ n := s.sched.nextWin, pc := s.pc - 4, left := la, old := [(d, s.reg d, s.tb d)], remote := s.cur.remote },
        rfl, rfl, by simp [hd, hl]⟩⟩

theorem State.openWin_mem (s : State) (la d : Nat) : (s.openWin la [d]).mem = s.mem := by
  rcases s.openWin_eq la d with ⟨_, h⟩ | ⟨_, _, w, _, _, h⟩ <;> rw [h]
  rfl

theorem State.openWin_wsKey (s : State) (la d : Nat) : (s.openWin la [d]).cur.wsKey = s.cur.wsKey := by
  rcases s.openWin_eq la d with ⟨_, h⟩ | ⟨_, _, w, _, _, h⟩ <;> rw [h]
  rfl

theorem State.openWin_withoutResult (s s0 : State) (la d : Nat) :
    (s.openWin la [d]).withoutResult s0 = s.withoutResult s0 := by
  rcases s.openWin_eq la d with ⟨_, h⟩ | ⟨_, _, w, _, _, h⟩ <;> rw [h]
  rfl

theorem State.withoutResult_setMem (s s0 : State) (m : List Host.Cell) :
    (s.setMem m).withoutResult s0 = s.withoutResult s0 := rfl

theorem Opened.of_openWin (s t u : State) (la d : Nat) (ht : t.reg d = s.reg d ∧ t.tb d = s.tb d) (hw : t.cur.wins = s.cur.wins)
    (hu : u.cur.wins = (t.openWin la [d]).cur.wins) : Opened s u la d := by
  unfold Opened
  rcases t.openWin_eq la d with ⟨h0, h⟩ | ⟨hd, hl, w, h1, h2, h⟩
  · rw [if_pos (by tauto), hu, h, hw]
  · rw [if_neg (by tauto)]
    refine ⟨w, h1, ?_, ?_⟩
    · rw [h2, ht.1, ht.2]
    · rw [hu, h, ← hw]; rfl

theorem State.reg_congr (s t : State) (k : Nat) (hm : t.mem = s.mem) (hk : t.cur.wsKey = s.cur.wsKey) : t.reg k = s.reg k := by
  unfold State.reg State.ws State.rdN; rw [hm, hk]

/-- What the end of a floating-point instruction leaves, with its window. -/
theorem FpResult.of_put (s : State) (la d : Nat) (i : Image) (fl : Nat) (h : d < 32) :
    FpResult s (((s.retire 4).orFlags fl).setRegLa la d i.bits i.tail) la d i fl := by
  obtain ⟨m, hm⟩ := (s.retire 4).orFlags_eq fl
  set t := (s.retire 4).orFlags fl with ht
  have hcur : t.cur = s.cur := by rw [hm]; rfl
  unfold State.setRegLa
  have hk : (t.openWin la [d]).cur.wsKey = s.cur.wsKey := by rw [State.openWin_wsKey, hcur]
  have hmem : (t.openWin la [d]).mem = t.mem := State.openWin_mem _ _ _
  refine ⟨?_, State.holds_setReg _ _ _ _ h, ?_, ?_, ?_, ?_⟩
  · rw [State.pc_setReg]
    have : (t.openWin la [d]).pc = t.pc := by unfold State.pc State.ws State.rdN; rw [hmem, hk, hcur]
    rw [this, ht, State.pc_orFlags, State.pc_retire]
  · rw [State.st_setReg _ _ _ _ h]
    have : (t.openWin la [d]).st = t.st := by unfold State.st State.ws State.rdN; rw [hmem, hk, hcur]
    rw [this, ht, State.st_orFlags, State.st_retire]
  · refine Opened.of_openWin s t _ la d ⟨?_, ?_⟩ (by rw [hcur]) (by rw [State.setReg_cur])
    · rw [ht, State.reg_orFlags _ _ _ h, State.reg_retire]
    · rw [ht, State.tb_orFlags _ _ _ h, State.tb_retire]
  · obtain ⟨m', hm'⟩ := (t.openWin la [d]).setReg_eq d i.bits i.tail
    rw [hm', State.withoutResult_setMem, State.openWin_withoutResult, hm]
    rfl
  · intro k hk'
    have h1 : ¬ (t.openWin la [d]).regSpan d k := by
      rw [State.regSpan_congr s _ d k hk]; tauto
    rw [State.rd_setReg_ne (t.openWin la [d]) d i.bits i.tail k h1]
    have h2 : (t.openWin la [d]).rd k = t.rd k := by unfold State.rd; rw [hmem]
    rw [h2, ht, State.rd_orFlags_ne (s.retire 4) fl k (fun hf => hk' (Or.inr (Or.inl hf))),
      State.rd_retire_ne s 4 k fun hp => hk' (Or.inl hp)]

/-- What the end of a long-latency instruction leaves. -/
theorem LongResult.of_put (s : State) (la d v t : Nat) (h : d < 32) :
    LongResult s ((s.retire 4).setRegLa la d v t) la d v t := by
  have r := FpResult.of_put s la d ⟨v, t⟩ 0 h
  have e : (s.retire 4).orFlags 0 = s.retire 4 := by simp [State.orFlags]
  rw [e] at r
  refine ⟨r.pc, r.val, r.win, r.only, ?_⟩
  intro k hk
  unfold State.setRegLa
  have hkey := State.openWin_wsKey (s.retire 4) la d
  rw [State.rd_setReg_ne ((s.retire 4).openWin la [d]) d v t k (by rw [State.regSpan_congr s _ d k (by rw [hkey]; rfl)]; tauto)]
  have h2 : ((s.retire 4).openWin la [d]).rd k = (s.retire 4).rd k := by unfold State.rd; rw [State.openWin_mem]
  rw [h2, State.rd_retire_ne s 4 k fun hp => hk (Or.inl hp)]

theorem LongResult.exists_put (s : State) (la d v t : Nat) (h : d < 32) :
    ∃ u, s.putLa la d v t = .next u ∧ LongResult s u la d v t := ⟨_, rfl, LongResult.of_put s la d v t h⟩

theorem FpResult.exists_putLa (s : State) (la d : Nat) (i : Image) (fl : Nat) (h : d < 32) :
    ∃ u, s.putFpLa la d i fl = .next u ∧ FpResult s u la d i fl := ⟨_, rfl, FpResult.of_put s la d i fl h⟩

theorem FpResult.exists_put (s : State) (d : Nat) (i : Image) (fl : Nat) (h : d < 32) :
    ∃ u, s.putFp d i fl = .next u ∧ FpResult s u 0 d i fl := by
  refine ⟨_, rfl, ?_⟩
  have := FpResult.of_put s 0 d i fl h
  simpa [State.setRegLa, State.openWin] using this

end Sys2Proof.Machine
end

