-- ==== Sys2Proof/Laws/Coherence.lean ====
section
/-!
SUPPORT. The parts of the coherence steps (19 R357 to R372) keep memory: each moves copies and messages and writes no byte
but those of heat words.
-/

namespace Sys2Proof.Machine

/-- A byte of some line's heat word. -/
def InHeat (k : Nat) : Prop := ∃ l a, lineHeat l = some a ∧ InSpan k a 2

/-- Every byte but those of heat words, and every core, context and queue, is as it was. -/
def KeepsBytes (s t : State) : Prop := SameMem s t InHeat ∧ t.cores = s.cores ∧ t.ctxs = s.ctxs ∧ t.work = s.work

theorem KeepsBytes.refl (s) : KeepsBytes s s := ⟨fun _ _ => rfl, rfl, rfl, rfl⟩

theorem KeepsBytes.trans {s t u} (h : KeepsBytes s t) (g : KeepsBytes t u) : KeepsBytes s u :=
  ⟨fun k hk => (g.1 k hk).trans (h.1 k hk), g.2.1.trans h.2.1, g.2.2.1.trans h.2.2.1, g.2.2.2.trans h.2.2.2⟩

theorem KeepsBytes.coh (s : State) (f) : KeepsBytes s (s.modCoh f) := ⟨fun _ _ => rfl, rfl, rfl, rfl⟩

theorem KeepsBytes.acts (s : State) (f) : KeepsBytes s (s.mapActs f) := ⟨fun _ _ => rfl, rfl, rfl, rfl⟩

theorem KeepsBytes.fill (s : State) (d l w) : KeepsBytes s (s.fill d l w) := by
  unfold State.fill
  split
  · exact KeepsBytes.refl s
  · rename_i a ha
    simp only
    split
    · refine ⟨fun k hk => ?_, rfl, rfl, rfl⟩
      have : ¬ InSpan k a 2 := fun h => hk ⟨l, a, ha, h⟩
      rw [State.rd_wrN, if_neg (by simpa [InSpan] using this)]; rfl
    · exact KeepsBytes.coh s _

theorem KeepsBytes.copy (s : State) (d l c) : KeepsBytes s (s.setCopy d l c) := KeepsBytes.coh s _

theorem KeepsBytes.send (s : State) (m) : KeepsBytes s (s.sendCoh m) := KeepsBytes.coh s _

theorem KeepsBytes.wrote (s : State) (l) (h : inFar (l * 128) = false) : KeepsBytes s (s.wroteBack l) := by
  unfold State.wroteBack; simp only [h, Bool.false_and]; rw [if_neg (by simp)]; exact KeepsBytes.coh s _

theorem KeepsBytes.draw (s : State) : KeepsBytes s s.draw.2 := ⟨fun _ _ => rfl, rfl, rfl, rfl⟩

theorem KeepsBytes.when {s t : State} (p : Prop) [Decidable p] (h : KeepsBytes s t) : KeepsBytes s (if p then t else s) := by
  split
  · exact h
  · exact KeepsBytes.refl s

theorem KeepsBytes.unless {s t : State} (p : Prop) [Decidable p] (h : KeepsBytes s t) : KeepsBytes s (if p then s else t) := by
  split
  · exact KeepsBytes.refl s
  · exact h

/-! ### A copy takes a row -/

theorem KeepsBytes.present (s : State) (d e c m) : KeepsBytes s (s.present d e c m) := by
  unfold State.present
  exact (((KeepsBytes.copy ..).trans (KeepsBytes.when _ (KeepsBytes.coh ..))).trans (KeepsBytes.when _ (KeepsBytes.fill ..))).trans
    (KeepsBytes.coh ..)

theorem KeepsBytes.atLine (s : State) (m) : KeepsBytes s (s.localAccess m) := by
  unfold State.localAccess
  split
  · split
    · split
      · exact KeepsBytes.copy ..
      · exact KeepsBytes.present ..
    · exact KeepsBytes.coh ..
  · exact KeepsBytes.present ..

theorem KeepsBytes.foldl {α : Type} (f : State → α → State) (h : ∀ s x, KeepsBytes s (f s x)) (xs : List α) (s : State) :
    KeepsBytes s (xs.foldl f s) := by
  induction xs generalizing s with
  | nil => exact KeepsBytes.refl s
  | cons x xs ih => exact (h s x).trans (ih _)

theorem KeepsBytes.again (s : State) (d l) : KeepsBytes s (s.again d l) := by
  unfold State.again
  split
  · exact KeepsBytes.refl s
  · exact (KeepsBytes.copy ..).trans (KeepsBytes.foldl _ (fun s m => KeepsBytes.atLine s _) _ _)

/-! ### The home -/

theorem KeepsBytes.beginReq (s : State) (m x n g) : KeepsBytes s (s.beginReq m x n g) := KeepsBytes.coh s _

theorem KeepsBytes.noRequest (s : State) (m) : KeepsBytes s (s.noRequest m) := by
  unfold State.noRequest
  split
  · split
    · exact KeepsBytes.refl s
    · exact KeepsBytes.copy ..
  · exact KeepsBytes.refl s

theorem KeepsBytes.line (s : State) (m) : KeepsBytes s (s.serveLine m) := by
  unfold State.serveLine
  simp only
  split
  · exact KeepsBytes.beginReq ..
  split
  · split
    · exact KeepsBytes.noRequest ..
    · exact (KeepsBytes.noRequest ..).trans (KeepsBytes.fill ..)
  split
  · exact KeepsBytes.coh s _
  split
  · split
    · exact KeepsBytes.noRequest ..
    · exact KeepsBytes.beginReq ..
  split
  · split <;> exact KeepsBytes.beginReq ..
  · split <;> exact KeepsBytes.beginReq ..

theorem KeepsBytes.way (s : State) (v m) : KeepsBytes s (s.waitWay v m) := by
  unfold State.waitWay
  simp only
  split <;> exact (KeepsBytes.coh s _).trans (KeepsBytes.coh _ _)

theorem KeepsBytes.serve (s : State) (m) : KeepsBytes s (s.homeServe m) := by
  unfold State.homeServe
  split
  · exact KeepsBytes.way ..
  · exact (KeepsBytes.coh s _).trans (KeepsBytes.line _ m)

theorem KeepsBytes.waiter (s : State) (l m) : KeepsBytes s (s.serveWaiter l m) := by
  unfold State.serveWaiter
  split
  · exact KeepsBytes.serve s m
  · exact ((KeepsBytes.coh s _).trans (KeepsBytes.serve _ m)).trans (KeepsBytes.coh _ _)

theorem KeepsBytes.waiting (s : State) (l ms) : KeepsBytes s (s.serveWaiting l ms) := by
  induction ms generalizing s with
  | nil => exact KeepsBytes.refl s
  | cons m ms ih =>
    unfold State.serveWaiting; simp only
    split
    · exact (KeepsBytes.waiter s l m).trans (KeepsBytes.coh _ _)
    · exact (KeepsBytes.waiter s l m).trans (ih _)

theorem KeepsBytes.leave (s : State) (l ms) : KeepsBytes s (s.leaveLine l ms) := by
  unfold State.leaveLine; split
  · exact KeepsBytes.refl s
  · exact (KeepsBytes.coh s _).trans (KeepsBytes.waiting _ _ _)

theorem KeepsBytes.arriveHome (s : State) (m) : KeepsBytes s (s.homeArrive m) := by
  unfold State.homeArrive; split
  · exact KeepsBytes.coh s _
  · exact KeepsBytes.serve s m

theorem KeepsBytes.answer (s : State) (l) : KeepsBytes s (s.answer l) := by
  unfold State.answer; split
  · exact KeepsBytes.refl s
  · split
    · exact KeepsBytes.coh s _
    · split
      · exact KeepsBytes.coh s _
      · exact KeepsBytes.leave ..

theorem KeepsBytes.acked (s : State) (l e) : KeepsBytes s (s.acked l e) := by
  unfold State.acked; split
  · exact KeepsBytes.refl s
  · split
    · exact KeepsBytes.leave ..
    · split
      · exact KeepsBytes.send ..
      · split
        · exact KeepsBytes.leave ..
        · exact KeepsBytes.answer ..

/-! ### The holders -/

theorem KeepsBytes.resv (s : State) (d l) : KeepsBytes s (s.breakResv d l) := KeepsBytes.acts s _

theorem KeepsBytes.forwarded (s : State) (d l e m) : KeepsBytes s (s.forwarded d l e m) := by
  unfold State.forwarded
  exact ((KeepsBytes.unless (e = 4) (KeepsBytes.resv s d l)).trans (KeepsBytes.present ..)).trans (KeepsBytes.unless _ (KeepsBytes.send ..))

theorem KeepsBytes.told (s : State) (d l e m) : KeepsBytes s (s.told d l e m) := by
  unfold State.told; split
  · exact KeepsBytes.refl s
  · exact (KeepsBytes.present ..).trans (KeepsBytes.again ..)

theorem KeepsBytes.replace (s : State) (d l) : KeepsBytes s (s.replace d l) := by
  unfold State.replace; split
  · exact KeepsBytes.refl s
  · exact KeepsBytes.present ..

theorem KeepsBytes.fitL2 (s : State) (d l) : KeepsBytes s (s.fitL2 d l) := by
  unfold State.fitL2; simp only
  split
  · exact KeepsBytes.refl s
  · split
    · exact KeepsBytes.refl s
    · exact (KeepsBytes.draw s).trans (KeepsBytes.replace ..)

theorem KeepsBytes.afterAnswer (s : State) (d l e q) : KeepsBytes s (s.afterAnswer d l e q) := by
  unfold State.afterAnswer
  exact ((KeepsBytes.when (e = 10 ∧ 6 ≤ q.pid ∧ _) (KeepsBytes.present ..)).trans (KeepsBytes.again ..)).trans
    (KeepsBytes.when (e = 10 ∨ q.ev = 0) ((KeepsBytes.fitL2 ..).trans (KeepsBytes.leave ..)))

theorem KeepsBytes.arrive (s : State) (d l e m) : KeepsBytes s (s.arrive d l e m) := by
  unfold State.arrive; split
  · exact KeepsBytes.refl s
  · simp only
    split
    · exact KeepsBytes.copy ..
    · split
      · split
        · exact ((KeepsBytes.present ..).trans (KeepsBytes.present ..)).trans (KeepsBytes.afterAnswer ..)
        · exact KeepsBytes.present ..
      · exact (KeepsBytes.present ..).trans (KeepsBytes.afterAnswer ..)

/-! ### Messages -/

theorem KeepsBytes.take {s t : State} {e d l m} (h : s.takeMsg e d l = some (m, t)) : KeepsBytes s t := by
  unfold State.takeMsg at h
  split at h
  · cases h
  · split at h
    · cases h; exact KeepsBytes.coh s _
    · cases h

end Sys2Proof.Machine
end

