-- ==== Sys2Proof/Laws/Ends.lean ====
section
/-!
SUPPORT. How instructions end: a wait, a change of the issuing core, and a command for an engine.
-/

namespace Sys2Proof.Machine

theorem Blocked.of_block (s : State) (w : Wait) : Blocked s (s.block w) w := ⟨rfl, rfl⟩

theorem State.modCore_retire_frame (s : State) (k n : Nat) (f : Core → Core) :
    SameMem s ((s.modCore k f).retire n) s.pcSpan := fun _ h => State.rd_retire_ne (s.modCore k f) n _ h

/-- An instruction that only changes the issuing core. -/
theorem CoreResult.of_modCore (s : State) (f : Core → Core) :
    CoreResult s ((s.modCore s.cur.coreKey f).retire 4) (f (s.core s.cur.coreKey)) :=
  ⟨State.core_modCore s _ f, fun k h => State.core_modCore_ne s _ k f h, State.pc_retire _ _, rfl, State.modCore_retire_frame s _ _ _⟩

/-- The end of an engine instruction (07 R187): the command is the last of its kind. -/
theorem Queued.of_enqueue (s : State) (kind d : Nat) (c : Cmd) (hd : d < 32) (hn : c.n = (s.core s.cur.coreKey).issued.getD kind 0 + 1) :
    ∃ t, s.enqueue kind d c = .next t ∧ Queued s t kind d c := by
  refine ⟨_, rfl, ?_⟩
  set f : Core → Core := fun k => (k.issue kind).setCmds kind (k.cmds kind ++ [c])
  set u := s.modCore s.cur.coreKey f with hu
  change Queued s ((u.retire 4).setReg d c.n 0) kind d c
  have hcores : ((u.retire 4).setReg d c.n 0).cores = u.cores := by
    obtain ⟨m, hm⟩ := (u.retire 4).setReg_eq d c.n 0
    rw [hm]; rfl
  have hcore : ∀ k, ((u.retire 4).setReg d c.n 0).core k = u.core k := fun k => by unfold State.core; rw [hcores]
  have hmine : u.core s.cur.coreKey = f (s.core s.cur.coreKey) := State.core_modCore s _ f
  refine ⟨hn, ?_, ?_, ?_, ?_, ?_, ?_, ?_⟩
  · rw [hcore, hmine]
    simp only [f, Core.setCmds, Core.cmds, Core.issue]
    split_ifs <;> rfl
  · rw [hcore, hmine, hn]
    simp only [f, Core.setCmds, Core.cmds, Core.issue, Core.next]
    split_ifs <;> rfl
  · rw [State.pc_setReg, State.pc_retire]; rfl
  · exact State.holds_setReg _ d c.n 0 hd
  · obtain ⟨m, hm⟩ := (u.retire 4).setReg_eq d c.n 0
    rw [hm]; rfl
  · intro k hk; rw [hcore]; exact State.core_modCore_ne s _ k f hk
  · intro k hk
    rw [State.rd_setReg_ne (u.retire 4) d _ _ k fun h => hk (Or.inr h)]
    exact State.rd_retire_ne u 4 k fun h => hk (Or.inl h)

end Sys2Proof.Machine
end

