-- ==== Sys2Proof/Laws/Trap.lean ====
section
/-!
SUPPORT. Traps and jumps with a link: everything that each leaves.
-/

namespace Sys2Proof.Machine

/-- The message of a trap changes only what is on its way. -/
theorem State.trapMessage_work (s : State) (cause tval pc : Nat) :
    ∃ m : Msg, s.trapMessage cause tval pc = s.modWork (fun w => { w with msgs := w.msgs ++ [m], nextMsg := w.nextMsg + 1 })
      ∧ m.cls = 24 ∧ m.words = [s.cur.handle, cause, tval, pc, 0, 0, 0, 0] ∧ m.ctx = s.cur.ctx
      ∧ (m.cluster < ctlCluster → m.coreKey = s.cur.coreKey) := by
  unfold State.trapMessage
  dsimp only
  split
  · exact ⟨_, rfl, rfl, rfl, rfl, fun _ => rfl⟩
  · exact ⟨_, rfl, rfl, rfl, rfl, fun h => absurd h (by simp [ctlCluster])⟩

/-- Taking a trap outside a shadow (24 R450). -/
theorem Trapped.of_trap (s : State) (code sub tval ret : Nat) (h : s.cur.shadow = none) :
    Trapped s (s.trap code sub tval ret) code sub tval ret := by
  unfold State.trap
  simp only [h]
  set u := ((s.setWs 0x128 8 (code + 256 * sub)).setWs 0x130 8 (w64 tval)).setPc ret with hu
  obtain ⟨m, hm, h1, h2, h3, h4⟩ := (u.enterTrapWait).trapMessage_work (code + 256 * sub) (w64 tval) (ret % 2 ^ 56)
  rw [hm]
  have hmem : (u.enterTrapWait.modWork (fun w => { w with msgs := w.msgs ++ [m], nextMsg := w.nextMsg + 1 })).mem = u.mem := rfl
  have hk : (u.enterTrapWait.modWork (fun w => { w with msgs := w.msgs ++ [m], nextMsg := w.nextMsg + 1 })).cur.wsKey = u.cur.wsKey := rfl
  have hw : ∀ o n, (u.enterTrapWait.modWork (fun w => { w with msgs := w.msgs ++ [m], nextMsg := w.nextMsg + 1 })).ws o n = u.ws o n := by
    intro o n; unfold State.ws State.rdN; rw [hmem, hk]
  have ws : ∀ o n, o + n ≤ 0x128 ∨ 0x138 ≤ o → 8 ≤ o → u.ws o n = s.ws o n := by
    intro o n h1 h2
    rw [hu, State.setPc, State.ws_setWs_ne, State.ws_setWs_ne, State.ws_setWs_ne] <;> omega
  refine ⟨?_, ?_, ?_, rfl, ?_, ?_, ?_, ⟨m, rfl, h1, ?_, h3, h4⟩, rfl, rfl, rfl, rfl, rfl, rfl, rfl, rfl, rfl⟩
  · rw [hw, hu, State.setPc, State.ws_setWs_ne _ _ _ _ _ _ (by omega), State.ws_setWs_ne _ _ _ _ _ _ (by omega), State.ws_setWs]
    norm_num
  · rw [hw, hu, State.setPc, State.ws_setWs_ne _ _ _ _ _ _ (by omega), State.ws_setWs]
    unfold w64; norm_num
  · unfold State.pc; rw [hw, hu, State.setPc, State.ws_setWs]; omega
  · intro k hk
    unfold State.reg State.tb
    rw [hw, hw]
    by_cases h0 : k = 0
    · simp [h0]
    · simp only [h0, if_false]
      exact ⟨ws _ _ (by omega) (by omega), ws _ _ (by omega) (by omega)⟩
  · unfold State.st; rw [hw]; exact ws _ _ (by omega) (by omega)
  · intro k hk
    have : (u.enterTrapWait.modWork (fun w => { w with msgs := w.msgs ++ [m], nextMsg := w.nextMsg + 1 })).rd k = u.rd k := rfl
    rw [this, hu]
    have hp : ¬ s.pcSpan k := fun h => hk (Or.inl h)
    have hc : ¬ InSpan k (s.cur.wsKey + 0x128) 16 := fun h => hk (Or.inr h)
    unfold InSpan at hc
    rw [State.rd_setPc_ne _ _ _ (by exact hp), State.rd_setWs_ne, State.rd_setWs_ne]
    · unfold InSpan; omega
    · unfold InSpan; simp only [State.setWs_cur]; omega
  · rw [h2]; rfl

/-- A trap at the instruction that is executing. -/
theorem Trapped.of_trapHere (s : State) (code sub tval : Nat) (h : s.cur.shadow = none) :
    Trapped s (s.trapHere code sub tval) code sub tval s.pc := Trapped.of_trap s code sub tval s.pc h

/-- A jump with a link: the link, then the PC, and nothing else. -/
theorem State.jumpLink_spec (s : State) (len d target : Nat) (h : d < 32) :
    ∃ t, s.jumpLink len d target = .next t ∧ t.pc = target % 2 ^ 56 ∧ t.Holds d (s.pc + len) 0 ∧ OnlyMem s t
      ∧ SameMem s t fun k => s.pcSpan k ∨ s.regSpan d k := by
  refine ⟨_, rfl, State.pc_setPc _ _, ?_, ?_, ?_⟩
  · intro hd
    have := State.holds_setReg s d (w64 (s.pc + len)) 0 h hd
    rw [State.reg_setPc, State.tb_setPc]
    refine ⟨?_, this.2⟩
    rw [this.1]; unfold w64; norm_num
  · obtain ⟨m, hm⟩ := s.setReg_eq d (w64 (s.pc + len)) 0
    rw [hm]; rfl
  · intro k hk
    rw [State.rd_setPc_ne _ _ _ (by rw [State.pcSpan_congr s _ k (by rw [State.setReg_cur])]; exact fun h => hk (Or.inl h)),
      State.rd_setReg_ne _ _ _ _ _ fun h => hk (Or.inr h)]

end Sys2Proof.Machine
end

