-- ==== Sys2Proof/Laws/Forms.lean ====
section
/-!
SUPPORT. What the operations do that the supervisor's forms, the branches and the pointer forms share: each says once in
which states the form goes on and in which it traps.
-/

namespace Sys2Proof.Machine

theorem bit_eq_testBit (v k : Nat) : bit v k = v.testBit k := by
  simp only [bit, Nat.testBit, Nat.shiftRight_eq_div_pow]
  rcases Nat.mod_two_eq_zero_or_one (v / 2 ^ k) with h | h <;> simp [h]

theorem State.authority_iff (s : State) (c : Nat) : s.authority c = true ↔ s.cur.onControl = true ∨ c = s.cur.ctx := by
  simp [State.authority]

/-- A privileged form goes on at supervisor or firmware level outside a shadow. -/
theorem State.privForm_runs (s : State) (w : Nat) (k : Out) (hs : s.cur.shadow = none) (hl : s.cur.level ≠ .user) :
    s.privForm w k = k := by
  unfold State.privForm State.privileged
  simp [hs, hl]

/-- A privileged form traps PRIV at user level. -/
theorem State.privForm_traps (s : State) (w : Nat) (k : Out) (hs : s.cur.shadow = none) (hl : s.cur.level = .user) :
    s.privForm w k = .next (s.trapPriv w) := by
  unfold State.privForm State.privileged
  simp [hs, hl]

/-- A form of the control cores goes on there. -/
theorem State.controlForm_runs (s : State) (w : Nat) (k : Out) (hs : s.cur.shadow = none) (hl : s.cur.level ≠ .user)
    (hc : s.cur.onControl = true) : s.controlForm w k = k := by
  unfold State.controlForm
  rw [s.privForm_runs w _ hs hl, if_pos hc]

/-- A form that takes a handle goes on with it when the handle is good and its context the issuer may act on. -/
theorem State.withHandle_runs (s : State) (w a : Nat) (k : Nat → Out) (hs : s.cur.shadow = none) (hl : s.cur.level ≠ .user)
    (hb : handleBad (s.reg a) = false) (ha : s.authority (bits (s.reg a) 41 6) = true) :
    s.withHandle w a k = k (s.reg a) := by
  unfold State.withHandle
  rw [s.privForm_runs _ _ hs hl]
  simp [hb, ha]

theorem sregOf_user (n : Nat) (h : n ≤ 0xB) : sregOf n = .user := by
  unfold sregOf; rw [if_pos h]

theorem sregOf_sup (n : Nat) (h : 0x100 ≤ n) (h2 : n ≤ 0x108 ∨ (0x110 ≤ n ∧ n ≤ 0x113)) : sregOf n = .sup := by
  unfold sregOf; rw [if_neg (by omega), if_neg (by omega), if_pos (by omega), if_pos h2]

theorem sregOf_fw (n : Nat) (h : 0x200 ≤ n) (h2 : n ≤ 0x220) : sregOf n = .fw := by
  unfold sregOf; rw [if_neg (by omega), if_neg (by omega), if_neg (by omega), if_pos h2]

theorem sregOf_reserved (n : Nat) (h : 0xC ≤ n) (h2 : n < 0x100) : sregOf n = .reserved := by
  unfold sregOf; rw [if_neg (by omega), if_pos (by omega)]

/-- An access of a register of the user's row goes on outside a shadow. -/
theorem State.withSreg_user (s : State) (w n : Nat) (k : Out) (hs : s.cur.shadow = none) (h : n ≤ 0xB) :
    s.withSreg w n k = k := by
  unfold State.withSreg
  rw [sregOf_user n h]; simp [hs]

/-- An access of a register of the supervisor's row goes on above user level. -/
theorem State.withSreg_sup (s : State) (w n : Nat) (k : Out) (hs : s.cur.shadow = none) (hl : s.cur.level ≠ .user)
    (h : 0x100 ≤ n) (h2 : n ≤ 0x108 ∨ (0x110 ≤ n ∧ n ≤ 0x113)) : s.withSreg w n k = k := by
  unfold State.withSreg
  rw [sregOf_sup n h h2]; exact s.privForm_runs w k hs hl

/-- A branch whose condition holds jumps; one whose condition does not hold moves the PC past itself. -/
theorem State.branch_spec (s : State) (n t : Nat) (c : Bool) :
    ∃ u, s.branch n c t = .next u ∧ (c = true → Jumped s u t) ∧ (c = false → Advanced s u n) := by
  cases c
  · exact ⟨_, rfl, by simp, fun _ => Advanced.of_retire s n⟩
  · exact ⟨_, rfl, fun _ => Jumped.of_setPc s t, by simp⟩

/-- With no shadow running, a write of the hardware kills none. -/
theorem State.killShadows_none (s : State) (p : Queue → Bool) (r : Nat) (h : ∀ e ∈ s.work.queues, e.2.shadow.st = 0) :
    s.killShadows p r = s := by
  have key : ∀ (l : List (Nat × Queue)), (∀ e ∈ l, e.2.shadow.st = 0) →
      l.foldl (fun s e => if e.2.shadow.st != 0 && p e.2 then s.discardShadow e.1 r else s) s = s := by
    intro l
    induction l with
    | nil => exact fun _ => rfl
    | cons a l ih => 
      intro h
      have ha : (a.2.shadow.st != 0 && p a.2) = false := by simp [h a (by simp)]
      simp only [List.foldl_cons, ha, Bool.false_eq_true, if_false]
      exact ih fun e he => h e (List.mem_cons_of_mem _ he)
  exact key _ h

theorem State.setQres_spec (s : State) (c v : Nat) :
    (s.setQres c v).ctx c = { s.ctx c with qres := v } ∧ (s.setQres c v).work = s.work ∧ (s.setQres c v).mem = s.mem :=
  ⟨State.ctx_modCtx s c _, rfl, rfl⟩

end Sys2Proof.Machine
end

