-- ==== Sys2Proof/Laws/PerInstr.lean ====
section
/-!
SUPPORT. For each constructor of `Instr`: the word that the encoder gives a well-formed instruction decodes to it again
(03 R67, R71).
-/

set_option Elab.async false
set_option linter.unusedSimpArgs false

namespace Sys2Proof.Laws

/-- The decoder reads an instruction back from its word. -/
def RoundTrip.Statement (i : Instr) : Prop :=
  ∀ n w : Nat, i.wf = true → encodeWord i = some (n, w) → decodeWord w = .ok i

/-! ### The codings of w (03 R68) -/

theorem iw_code_lt (w : IW) : w.code < 8 := by cases w <;> decide
theorem fw_code_lt (w : FW) : w.code < 8 := by cases w <;> decide
theorem iw_ofCode (w : IW) : IW.ofCode? w.code = some w := by cases w <;> rfl
theorem fw_ofCode (w : FW) : FW.ofCode? w.code = some w := by cases w <;> rfl

/-! ### Words as fields -/

/-- A word given by its fields from bit 0 up, each a width and a value. -/
def pack : List (Nat × Nat) → Nat
  | [] => 0
  | p :: ps => p.2 + 2 ^ p.1 * pack ps

def bitsOf : List (Nat × Nat) → Nat
  | [] => 0
  | p :: ps => p.1 + bitsOf ps

/-- Every value fits its field. -/
def Fits : List (Nat × Nat) → Prop
  | [] => True
  | p :: ps => p.2 < 2 ^ p.1 ∧ Fits ps

theorem pack_append (xs ys : List (Nat × Nat)) : pack (xs ++ ys) = pack xs + 2 ^ bitsOf xs * pack ys := by
  induction xs with
  | nil => simp [pack, bitsOf]
  | cons p ps ih => simp only [List.cons_append, pack, bitsOf, ih, pow_add]; ring

theorem pack_lt {xs : List (Nat × Nat)} (h : Fits xs) : pack xs < 2 ^ bitsOf xs := by
  induction xs with
  | nil => simp [pack, bitsOf]
  | cons p ps ih =>
    have h1 := h.1
    have h2 : pack ps + 1 ≤ 2 ^ bitsOf ps := ih h.2
    simp only [pack, bitsOf, pow_add]
    calc p.2 + 2 ^ p.1 * pack ps < 2 ^ p.1 + 2 ^ p.1 * pack ps := by omega
      _ = 2 ^ p.1 * (pack ps + 1) := by ring
      _ ≤ 2 ^ p.1 * 2 ^ bitsOf ps := Nat.mul_le_mul_left _ h2

theorem fits_take {xs : List (Nat × Nat)} (n : Nat) (h : Fits xs) : Fits (xs.take n) := by
  induction xs generalizing n with
  | nil => simpa using h
  | cons p ps ih => cases n with
    | zero => trivial
    | succ n => exact ⟨h.1, ih n h.2⟩

theorem fits_drop {xs : List (Nat × Nat)} (n : Nat) (h : Fits xs) : Fits (xs.drop n) := by
  induction xs generalizing n with
  | nil => simpa using h
  | cons p ps ih => cases n with
    | zero => exact h
    | succ n => exact ih n h.2

/-- A run of `k` fields from field `n` up reads as itself. -/
theorem fld_pack {u : Nat} {l : List (Nat × Nat)} (h : Fits l) (e : pack l = u) (n k : Nat) :
    fld u (bitsOf (l.take n)) (bitsOf ((l.drop n).take k)) = pack ((l.drop n).take k) := by
  have hx := fits_take n h
  have hy := fits_take k (fits_drop n h)
  have h2 := pack_lt hy
  rw [← List.take_append_drop n l, ← List.take_append_drop k (l.drop n)] at e
  rw [← e, fld, pack_append, Nat.add_mul_div_left _ _ (Nat.two_pow_pos _), Nat.div_eq_of_lt (pack_lt hx), Nat.zero_add, pack_append,
    Nat.add_mul_mod_self_left, Nat.mod_eq_of_lt h2]

/-! ### A form that a word of odd or even value is found to be -/

theorem decodeWord_of_major {w : Nat} {i : Instr} (h0 : fld w 0 1 = 1) (h2 : decode32? w = some (some i)) (h : i.wf = true) :
    decodeWord w = .ok i := by
  have h1 : w % 2 = 1 := by simpa [fld] using h0
  rw [decodeWord, if_pos h1, h2, checkForm, if_pos h]

theorem decodeWord_of_short {w : Nat} {i : Instr} (h0 : fld w 0 1 = 0) (h2 : decode16? w = some (some i)) (h : i.wf = true) :
    decodeWord w = .ok i := by
  have h1 : w % 2 = 0 := by simpa [fld] using h0
  rw [decodeWord, if_neg (by omega), h2, checkForm, if_pos h]

theorem decode32_Major00 {w : Nat} (h : fld w 1 6 = 0) : decode32? w = some (decMajor00 w) := by rw [decode32?, h]; rfl
theorem decode32_Major01 {w : Nat} (h : fld w 1 6 = 1) : decode32? w = some (decMajor01 w) := by rw [decode32?, h]; rfl
theorem decode32_Major02 {w : Nat} (h : fld w 1 6 = 2) : decode32? w = some (decMajor02 w) := by rw [decode32?, h]; rfl
theorem decode32_Major03 {w : Nat} (h : fld w 1 6 = 3) : decode32? w = some (decMajor03 w) := by rw [decode32?, h]; rfl
theorem decode32_Major04 {w : Nat} (h : fld w 1 6 = 4) : decode32? w = some (decMajor04 w) := by rw [decode32?, h]; rfl
theorem decode32_Major05 {w : Nat} (h : fld w 1 6 = 5) : decode32? w = some (decMajor05 w) := by rw [decode32?, h]; rfl
theorem decode32_Major06 {w : Nat} (h : fld w 1 6 = 6) : decode32? w = some (decMajor06 w) := by rw [decode32?, h]; rfl
theorem decode32_Major07 {w : Nat} (h : fld w 1 6 = 7) : decode32? w = some (decMajor07 w) := by rw [decode32?, h]; rfl
theorem decode32_Major08 {w : Nat} (h : fld w 1 6 = 8) : decode32? w = some (decMajor08 w) := by rw [decode32?, h]; rfl
theorem decode32_Major09 {w : Nat} (h : fld w 1 6 = 9) : decode32? w = some (decMajor09 w) := by rw [decode32?, h]; rfl
theorem decode32_Major0A {w : Nat} (h : fld w 1 6 = 10) : decode32? w = some (decMajor0A w) := by rw [decode32?, h]; rfl
theorem decode32_Major0B {w : Nat} (h : fld w 1 6 = 11) : decode32? w = some (decMajor0B w) := by rw [decode32?, h]; rfl
theorem decode32_Major0C {w : Nat} (h : fld w 1 6 = 12) : decode32? w = some (decMajor0C w) := by rw [decode32?, h]; rfl
theorem decode32_Major0D {w : Nat} (h : fld w 1 6 = 13) : decode32? w = some (decMajor0D w) := by rw [decode32?, h]; rfl
theorem decode32_Major0E {w : Nat} (h : fld w 1 6 = 14) : decode32? w = some (decMajor0E w) := by rw [decode32?, h]; rfl
theorem decode32_Major10 {w : Nat} (h : fld w 1 6 = 16) : decode32? w = some (decMajor10 w) := by rw [decode32?, h]; rfl
theorem decode32_Major11 {w : Nat} (h : fld w 1 6 = 17) : decode32? w = some (decMajor11 w) := by rw [decode32?, h]; rfl
theorem decode32_Major12 {w : Nat} (h : fld w 1 6 = 18) : decode32? w = some (decMajor12 w) := by rw [decode32?, h]; rfl
theorem decode32_Major13 {w : Nat} (h : fld w 1 6 = 19) : decode32? w = some (decMajor13 w) := by rw [decode32?, h]; rfl
theorem decode32_Major14 {w : Nat} (h : fld w 1 6 = 20) : decode32? w = some (decMajor14 w) := by rw [decode32?, h]; rfl
theorem decode32_Major15 {w : Nat} (h : fld w 1 6 = 21) : decode32? w = some (decMajor15 w) := by rw [decode32?, h]; rfl
theorem decode32_Major16 {w : Nat} (h : fld w 1 6 = 22) : decode32? w = some (decMajor16 w) := by rw [decode32?, h]; rfl
theorem decode32_Major17 {w : Nat} (h : fld w 1 6 = 23) : decode32? w = some (decMajor17 w) := by rw [decode32?, h]; rfl
theorem decode32_Major18 {w : Nat} (h : fld w 1 6 = 24) : decode32? w = some (decMajor18 w) := by rw [decode32?, h]; rfl
theorem decode32_Major19 {w : Nat} (h : fld w 1 6 = 25) : decode32? w = some (decMajor19 w) := by rw [decode32?, h]; rfl
theorem decode32_Major1A {w : Nat} (h : fld w 1 6 = 26) : decode32? w = some (decMajor1A w) := by rw [decode32?, h]; rfl
theorem decode32_Major1B {w : Nat} (h : fld w 1 6 = 27) : decode32? w = some (decMajor1B w) := by rw [decode32?, h]; rfl
theorem decode32_Major1C {w : Nat} (h : fld w 1 6 = 28) : decode32? w = some (decMajor1C w) := by rw [decode32?, h]; rfl
theorem decode32_Major20 {w : Nat} (h : fld w 1 6 = 32) : decode32? w = some (decMajor20 w) := by rw [decode32?, h]; rfl
theorem decode32_Major21 {w : Nat} (h : fld w 1 6 = 33) : decode32? w = some (decMajor21 w) := by rw [decode32?, h]; rfl
theorem decode32_Major22 {w : Nat} (h : fld w 1 6 = 34) : decode32? w = some (decMajor22 w) := by rw [decode32?, h]; rfl
theorem decode32_Major23 {w : Nat} (h : fld w 1 6 = 35) : decode32? w = some (decMajor23 w) := by rw [decode32?, h]; rfl
theorem decode32_Major24 {w : Nat} (h : fld w 1 6 = 36) : decode32? w = some (decMajor24 w) := by rw [decode32?, h]; rfl
theorem decode32_Major25 {w : Nat} (h : fld w 1 6 = 37) : decode32? w = some (decMajor25 w) := by rw [decode32?, h]; rfl
theorem decode32_Major26 {w : Nat} (h : fld w 1 6 = 38) : decode32? w = some (decMajor26 w) := by rw [decode32?, h]; rfl
theorem decode32_Major27 {w : Nat} (h : fld w 1 6 = 39) : decode32? w = some (decMajor27 w) := by rw [decode32?, h]; rfl
theorem decode32_Major28 {w : Nat} (h : fld w 1 6 = 40) : decode32? w = some (decMajor28 w) := by rw [decode32?, h]; rfl
theorem decode32_Major29 {w : Nat} (h : fld w 1 6 = 41) : decode32? w = some (decMajor29 w) := by rw [decode32?, h]; rfl
theorem decode32_Major2C {w : Nat} (h : fld w 1 6 = 44) : decode32? w = some (decMajor2C w) := by rw [decode32?, h]; rfl
theorem decode32_Major2D {w : Nat} (h : fld w 1 6 = 45) : decode32? w = some (decMajor2D w) := by rw [decode32?, h]; rfl
theorem decode32_Major2E {w : Nat} (h : fld w 1 6 = 46) : decode32? w = some (decMajor2E w) := by rw [decode32?, h]; rfl
theorem decode32_Major2F {w : Nat} (h : fld w 1 6 = 47) : decode32? w = some (decMajor2F w) := by rw [decode32?, h]; rfl
theorem decode32_Major34 {w : Nat} (h : fld w 1 6 = 52) : decode32? w = some (decMajor34 w) := by rw [decode32?, h]; rfl
theorem decode32_Major35 {w : Nat} (h : fld w 1 6 = 53) : decode32? w = some (decMajor35 w) := by rw [decode32?, h]; rfl
theorem decode32_Major36 {w : Nat} (h : fld w 1 6 = 54) : decode32? w = some (decMajor36 w) := by rw [decode32?, h]; rfl
theorem decode32_Major37 {w : Nat} (h : fld w 1 6 = 55) : decode32? w = some (decMajor37 w) := by rw [decode32?, h]; rfl
theorem decode32_Major38 {w : Nat} (h : fld w 1 6 = 56) : decode32? w = some (decMajor38 w) := by rw [decode32?, h]; rfl
theorem decode32_Major39 {w : Nat} (h : fld w 1 6 = 57) : decode32? w = some (decMajor39 w) := by rw [decode32?, h]; rfl
theorem decode32_Major3A {w : Nat} (h : fld w 1 6 = 58) : decode32? w = some (decMajor3A w) := by rw [decode32?, h]; rfl
theorem decode32_Major3C {w : Nat} (h : fld w 1 6 = 60) : decode32? w = some (decMajor3C w) := by rw [decode32?, h]; rfl
theorem decode32_Major3D {w : Nat} (h : fld w 1 6 = 61) : decode32? w = some (decMajor3D w) := by rw [decode32?, h]; rfl
theorem decode32_Major3E {w : Nat} (h : fld w 1 6 = 62) : decode32? w = some (decMajor3E w) := by rw [decode32?, h]; rfl
theorem decode16_Short0 {w : Nat} (h : fld w 1 4 = 0) : decode16? w = some (decShort0 w) := by rw [decode16?, h]; rfl
theorem decode16_Short1 {w : Nat} (h : fld w 1 4 = 1) : decode16? w = some (decShort1 w) := by rw [decode16?, h]; rfl
theorem decode16_Short2 {w : Nat} (h : fld w 1 4 = 2) : decode16? w = some (decShort2 w) := by rw [decode16?, h]; rfl
theorem decode16_Short3 {w : Nat} (h : fld w 1 4 = 3) : decode16? w = some (decShort3 w) := by rw [decode16?, h]; rfl
theorem decode16_Short4 {w : Nat} (h : fld w 1 4 = 4) : decode16? w = some (decShort4 w) := by rw [decode16?, h]; rfl
theorem decode16_Short5 {w : Nat} (h : fld w 1 4 = 5) : decode16? w = some (decShort5 w) := by rw [decode16?, h]; rfl
theorem decode16_Short6 {w : Nat} (h : fld w 1 4 = 6) : decode16? w = some (decShort6 w) := by rw [decode16?, h]; rfl
theorem decode16_Short7 {w : Nat} (h : fld w 1 4 = 7) : decode16? w = some (decShort7 w) := by rw [decode16?, h]; rfl
theorem decode16_Short8 {w : Nat} (h : fld w 1 4 = 8) : decode16? w = some (decShort8 w) := by rw [decode16?, h]; rfl
theorem decode16_Short9 {w : Nat} (h : fld w 1 4 = 9) : decode16? w = some (decShort9 w) := by rw [decode16?, h]; rfl
theorem decode16_Short10 {w : Nat} (h : fld w 1 4 = 10) : decode16? w = some (decShort10 w) := by rw [decode16?, h]; rfl
theorem decode16_Short11 {w : Nat} (h : fld w 1 4 = 11) : decode16? w = some (decShort11 w) := by rw [decode16?, h]; rfl
theorem decode16_Short12 {w : Nat} (h : fld w 1 4 = 12) : decode16? w = some (decShort12 w) := by rw [decode16?, h]; rfl
theorem decode16_Short13 {w : Nat} (h : fld w 1 4 = 13) : decode16? w = some (decShort13 w) := by rw [decode16?, h]; rfl

/-! ### The constructors -/

theorem RoundTrip.add (w : IW) (d : Nat) (a : Nat) (b : Nat) : RoundTrip.Statement (.add w d a b) := by
  intro _ u h he
  obtain ⟨h0, h1, h2⟩ := of_decide_eq_true h
  have hw := iw_code_lt w
  have e : pack [(1, 1), (6, 0), (5, d), (5, a), (5, b), (3, w.code), (7, 0)] = u := by
    have : 0x1 + d * 128 + a * 4096 + b * 131072 + w.code * 4194304 = u := (Prod.mk.inj (Option.some.inj he)).2
    rw [← this]; simp only [pack]; ring
  have l : Fits [(1, 1), (6, 0), (5, d), (5, a), (5, b), (3, w.code), (7, 0)] := ⟨by decide, by decide, h0, h1, h2, hw, by decide, trivial⟩
  have f1_6 : fld u 1 6 = 0 := (fld_pack l e 1 1).trans rfl
  have f7_5 : fld u 7 5 = d := (fld_pack l e 2 1).trans rfl
  have f12_5 : fld u 12 5 = a := (fld_pack l e 3 1).trans rfl
  have f17_5 : fld u 17 5 = b := (fld_pack l e 4 1).trans rfl
  have f22_3 : fld u 22 3 = w.code := (fld_pack l e 5 1).trans rfl
  have f25_7 : fld u 25 7 = 0 := (fld_pack l e 6 1).trans rfl
  refine decodeWord_of_major ((fld_pack l e 0 1).trans rfl) ((decode32_Major00 f1_6).trans ?_) h
  simp [decMajor00, f7_5, f12_5, f17_5, f22_3, f25_7, iw_ofCode, Option.map]

theorem RoundTrip.sub (w : IW) (d : Nat) (a : Nat) (b : Nat) : RoundTrip.Statement (.sub w d a b) := by
  intro _ u h he
  obtain ⟨h0, h1, h2⟩ := of_decide_eq_true h
  have hw := iw_code_lt w
  have e : pack [(1, 1), (6, 0), (5, d), (5, a), (5, b), (3, w.code), (7, 1)] = u := by
    have : 0x2000001 + d * 128 + a * 4096 + b * 131072 + w.code * 4194304 = u := (Prod.mk.inj (Option.some.inj he)).2
    rw [← this]; simp only [pack]; ring
  have l : Fits [(1, 1), (6, 0), (5, d), (5, a), (5, b), (3, w.code), (7, 1)] := ⟨by decide, by decide, h0, h1, h2, hw, by decide, trivial⟩
  have f1_6 : fld u 1 6 = 0 := (fld_pack l e 1 1).trans rfl
  have f7_5 : fld u 7 5 = d := (fld_pack l e 2 1).trans rfl
  have f12_5 : fld u 12 5 = a := (fld_pack l e 3 1).trans rfl
  have f17_5 : fld u 17 5 = b := (fld_pack l e 4 1).trans rfl
  have f22_3 : fld u 22 3 = w.code := (fld_pack l e 5 1).trans rfl
  have f25_7 : fld u 25 7 = 1 := (fld_pack l e 6 1).trans rfl
  refine decodeWord_of_major ((fld_pack l e 0 1).trans rfl) ((decode32_Major00 f1_6).trans ?_) h
  simp [decMajor00, f7_5, f12_5, f17_5, f22_3, f25_7, iw_ofCode, Option.map]

theorem RoundTrip.and (w : IW) (d : Nat) (a : Nat) (b : Nat) : RoundTrip.Statement (.and w d a b) := by
  intro _ u h he
  obtain ⟨h0, h1, h2⟩ := of_decide_eq_true h
  have hw := iw_code_lt w
  have e : pack [(1, 1), (6, 0), (5, d), (5, a), (5, b), (3, w.code), (7, 2)] = u := by
    have : 0x4000001 + d * 128 + a * 4096 + b * 131072 + w.code * 4194304 = u := (Prod.mk.inj (Option.some.inj he)).2
    rw [← this]; simp only [pack]; ring
  have l : Fits [(1, 1), (6, 0), (5, d), (5, a), (5, b), (3, w.code), (7, 2)] := ⟨by decide, by decide, h0, h1, h2, hw, by decide, trivial⟩
  have f1_6 : fld u 1 6 = 0 := (fld_pack l e 1 1).trans rfl
  have f7_5 : fld u 7 5 = d := (fld_pack l e 2 1).trans rfl
  have f12_5 : fld u 12 5 = a := (fld_pack l e 3 1).trans rfl
  have f17_5 : fld u 17 5 = b := (fld_pack l e 4 1).trans rfl
  have f22_3 : fld u 22 3 = w.code := (fld_pack l e 5 1).trans rfl
  have f25_7 : fld u 25 7 = 2 := (fld_pack l e 6 1).trans rfl
  refine decodeWord_of_major ((fld_pack l e 0 1).trans rfl) ((decode32_Major00 f1_6).trans ?_) h
  simp [decMajor00, f7_5, f12_5, f17_5, f22_3, f25_7, iw_ofCode, Option.map]

theorem RoundTrip.or (w : IW) (d : Nat) (a : Nat) (b : Nat) : RoundTrip.Statement (.or w d a b) := by
  intro _ u h he
  obtain ⟨h0, h1, h2⟩ := of_decide_eq_true h
  have hw := iw_code_lt w
  have e : pack [(1, 1), (6, 0), (5, d), (5, a), (5, b), (3, w.code), (7, 3)] = u := by
    have : 0x6000001 + d * 128 + a * 4096 + b * 131072 + w.code * 4194304 = u := (Prod.mk.inj (Option.some.inj he)).2
    rw [← this]; simp only [pack]; ring
  have l : Fits [(1, 1), (6, 0), (5, d), (5, a), (5, b), (3, w.code), (7, 3)] := ⟨by decide, by decide, h0, h1, h2, hw, by decide, trivial⟩
  have f1_6 : fld u 1 6 = 0 := (fld_pack l e 1 1).trans rfl
  have f7_5 : fld u 7 5 = d := (fld_pack l e 2 1).trans rfl
  have f12_5 : fld u 12 5 = a := (fld_pack l e 3 1).trans rfl
  have f17_5 : fld u 17 5 = b := (fld_pack l e 4 1).trans rfl
  have f22_3 : fld u 22 3 = w.code := (fld_pack l e 5 1).trans rfl
  have f25_7 : fld u 25 7 = 3 := (fld_pack l e 6 1).trans rfl
  refine decodeWord_of_major ((fld_pack l e 0 1).trans rfl) ((decode32_Major00 f1_6).trans ?_) h
  simp [decMajor00, f7_5, f12_5, f17_5, f22_3, f25_7, iw_ofCode, Option.map]

theorem RoundTrip.xor (w : IW) (d : Nat) (a : Nat) (b : Nat) : RoundTrip.Statement (.xor w d a b) := by
  intro _ u h he
  obtain ⟨h0, h1, h2⟩ := of_decide_eq_true h
  have hw := iw_code_lt w
  have e : pack [(1, 1), (6, 0), (5, d), (5, a), (5, b), (3, w.code), (7, 4)] = u := by
    have : 0x8000001 + d * 128 + a * 4096 + b * 131072 + w.code * 4194304 = u := (Prod.mk.inj (Option.some.inj he)).2
    rw [← this]; simp only [pack]; ring
  have l : Fits [(1, 1), (6, 0), (5, d), (5, a), (5, b), (3, w.code), (7, 4)] := ⟨by decide, by decide, h0, h1, h2, hw, by decide, trivial⟩
  have f1_6 : fld u 1 6 = 0 := (fld_pack l e 1 1).trans rfl
  have f7_5 : fld u 7 5 = d := (fld_pack l e 2 1).trans rfl
  have f12_5 : fld u 12 5 = a := (fld_pack l e 3 1).trans rfl
  have f17_5 : fld u 17 5 = b := (fld_pack l e 4 1).trans rfl
  have f22_3 : fld u 22 3 = w.code := (fld_pack l e 5 1).trans rfl
  have f25_7 : fld u 25 7 = 4 := (fld_pack l e 6 1).trans rfl
  refine decodeWord_of_major ((fld_pack l e 0 1).trans rfl) ((decode32_Major00 f1_6).trans ?_) h
  simp [decMajor00, f7_5, f12_5, f17_5, f22_3, f25_7, iw_ofCode, Option.map]

theorem RoundTrip.andn (w : IW) (d : Nat) (a : Nat) (b : Nat) : RoundTrip.Statement (.andn w d a b) := by
  intro _ u h he
  obtain ⟨h0, h1, h2⟩ := of_decide_eq_true h
  have hw := iw_code_lt w
  have e : pack [(1, 1), (6, 0), (5, d), (5, a), (5, b), (3, w.code), (7, 5)] = u := by
    have : 0xA000001 + d * 128 + a * 4096 + b * 131072 + w.code * 4194304 = u := (Prod.mk.inj (Option.some.inj he)).2
    rw [← this]; simp only [pack]; ring
  have l : Fits [(1, 1), (6, 0), (5, d), (5, a), (5, b), (3, w.code), (7, 5)] := ⟨by decide, by decide, h0, h1, h2, hw, by decide, trivial⟩
  have f1_6 : fld u 1 6 = 0 := (fld_pack l e 1 1).trans rfl
  have f7_5 : fld u 7 5 = d := (fld_pack l e 2 1).trans rfl
  have f12_5 : fld u 12 5 = a := (fld_pack l e 3 1).trans rfl
  have f17_5 : fld u 17 5 = b := (fld_pack l e 4 1).trans rfl
  have f22_3 : fld u 22 3 = w.code := (fld_pack l e 5 1).trans rfl
  have f25_7 : fld u 25 7 = 5 := (fld_pack l e 6 1).trans rfl
  refine decodeWord_of_major ((fld_pack l e 0 1).trans rfl) ((decode32_Major00 f1_6).trans ?_) h
  simp [decMajor00, f7_5, f12_5, f17_5, f22_3, f25_7, iw_ofCode, Option.map]

theorem RoundTrip.orn (w : IW) (d : Nat) (a : Nat) (b : Nat) : RoundTrip.Statement (.orn w d a b) := by
  intro _ u h he
  obtain ⟨h0, h1, h2⟩ := of_decide_eq_true h
  have hw := iw_code_lt w
  have e : pack [(1, 1), (6, 0), (5, d), (5, a), (5, b), (3, w.code), (7, 6)] = u := by
    have : 0xC000001 + d * 128 + a * 4096 + b * 131072 + w.code * 4194304 = u := (Prod.mk.inj (Option.some.inj he)).2
    rw [← this]; simp only [pack]; ring
  have l : Fits [(1, 1), (6, 0), (5, d), (5, a), (5, b), (3, w.code), (7, 6)] := ⟨by decide, by decide, h0, h1, h2, hw, by decide, trivial⟩
  have f1_6 : fld u 1 6 = 0 := (fld_pack l e 1 1).trans rfl
  have f7_5 : fld u 7 5 = d := (fld_pack l e 2 1).trans rfl
  have f12_5 : fld u 12 5 = a := (fld_pack l e 3 1).trans rfl
  have f17_5 : fld u 17 5 = b := (fld_pack l e 4 1).trans rfl
  have f22_3 : fld u 22 3 = w.code := (fld_pack l e 5 1).trans rfl
  have f25_7 : fld u 25 7 = 6 := (fld_pack l e 6 1).trans rfl
  refine decodeWord_of_major ((fld_pack l e 0 1).trans rfl) ((decode32_Major00 f1_6).trans ?_) h
  simp [decMajor00, f7_5, f12_5, f17_5, f22_3, f25_7, iw_ofCode, Option.map]

theorem RoundTrip.min (w : IW) (d : Nat) (a : Nat) (b : Nat) : RoundTrip.Statement (.min w d a b) := by
  intro _ u h he
  obtain ⟨h0, h1, h2⟩ := of_decide_eq_true h
  have hw := iw_code_lt w
  have e : pack [(1, 1), (6, 0), (5, d), (5, a), (5, b), (3, w.code), (7, 7)] = u := by
    have : 0xE000001 + d * 128 + a * 4096 + b * 131072 + w.code * 4194304 = u := (Prod.mk.inj (Option.some.inj he)).2
    rw [← this]; simp only [pack]; ring
  have l : Fits [(1, 1), (6, 0), (5, d), (5, a), (5, b), (3, w.code), (7, 7)] := ⟨by decide, by decide, h0, h1, h2, hw, by decide, trivial⟩
  have f1_6 : fld u 1 6 = 0 := (fld_pack l e 1 1).trans rfl
  have f7_5 : fld u 7 5 = d := (fld_pack l e 2 1).trans rfl
  have f12_5 : fld u 12 5 = a := (fld_pack l e 3 1).trans rfl
  have f17_5 : fld u 17 5 = b := (fld_pack l e 4 1).trans rfl
  have f22_3 : fld u 22 3 = w.code := (fld_pack l e 5 1).trans rfl
  have f25_7 : fld u 25 7 = 7 := (fld_pack l e 6 1).trans rfl
  refine decodeWord_of_major ((fld_pack l e 0 1).trans rfl) ((decode32_Major00 f1_6).trans ?_) h
  simp [decMajor00, f7_5, f12_5, f17_5, f22_3, f25_7, iw_ofCode, Option.map]

theorem RoundTrip.max (w : IW) (d : Nat) (a : Nat) (b : Nat) : RoundTrip.Statement (.max w d a b) := by
  intro _ u h he
  obtain ⟨h0, h1, h2⟩ := of_decide_eq_true h
  have hw := iw_code_lt w
  have e : pack [(1, 1), (6, 0), (5, d), (5, a), (5, b), (3, w.code), (7, 8)] = u := by
    have : 0x10000001 + d * 128 + a * 4096 + b * 131072 + w.code * 4194304 = u := (Prod.mk.inj (Option.some.inj he)).2
    rw [← this]; simp only [pack]; ring
  have l : Fits [(1, 1), (6, 0), (5, d), (5, a), (5, b), (3, w.code), (7, 8)] := ⟨by decide, by decide, h0, h1, h2, hw, by decide, trivial⟩
  have f1_6 : fld u 1 6 = 0 := (fld_pack l e 1 1).trans rfl
  have f7_5 : fld u 7 5 = d := (fld_pack l e 2 1).trans rfl
  have f12_5 : fld u 12 5 = a := (fld_pack l e 3 1).trans rfl
  have f17_5 : fld u 17 5 = b := (fld_pack l e 4 1).trans rfl
  have f22_3 : fld u 22 3 = w.code := (fld_pack l e 5 1).trans rfl
  have f25_7 : fld u 25 7 = 8 := (fld_pack l e 6 1).trans rfl
  refine decodeWord_of_major ((fld_pack l e 0 1).trans rfl) ((decode32_Major00 f1_6).trans ?_) h
  simp [decMajor00, f7_5, f12_5, f17_5, f22_3, f25_7, iw_ofCode, Option.map]

theorem RoundTrip.minn (w : IW) (d : Nat) (a : Nat) (b : Nat) : RoundTrip.Statement (.minn w d a b) := by
  intro _ u h he
  obtain ⟨h0, h1, h2⟩ := of_decide_eq_true h
  have hw := iw_code_lt w
  have e : pack [(1, 1), (6, 0), (5, d), (5, a), (5, b), (3, w.code), (7, 9)] = u := by
    have : 0x12000001 + d * 128 + a * 4096 + b * 131072 + w.code * 4194304 = u := (Prod.mk.inj (Option.some.inj he)).2
    rw [← this]; simp only [pack]; ring
  have l : Fits [(1, 1), (6, 0), (5, d), (5, a), (5, b), (3, w.code), (7, 9)] := ⟨by decide, by decide, h0, h1, h2, hw, by decide, trivial⟩
  have f1_6 : fld u 1 6 = 0 := (fld_pack l e 1 1).trans rfl
  have f7_5 : fld u 7 5 = d := (fld_pack l e 2 1).trans rfl
  have f12_5 : fld u 12 5 = a := (fld_pack l e 3 1).trans rfl
  have f17_5 : fld u 17 5 = b := (fld_pack l e 4 1).trans rfl
  have f22_3 : fld u 22 3 = w.code := (fld_pack l e 5 1).trans rfl
  have f25_7 : fld u 25 7 = 9 := (fld_pack l e 6 1).trans rfl
  refine decodeWord_of_major ((fld_pack l e 0 1).trans rfl) ((decode32_Major00 f1_6).trans ?_) h
  simp [decMajor00, f7_5, f12_5, f17_5, f22_3, f25_7, iw_ofCode, Option.map]

theorem RoundTrip.maxn (w : IW) (d : Nat) (a : Nat) (b : Nat) : RoundTrip.Statement (.maxn w d a b) := by
  intro _ u h he
  obtain ⟨h0, h1, h2⟩ := of_decide_eq_true h
  have hw := iw_code_lt w
  have e : pack [(1, 1), (6, 0), (5, d), (5, a), (5, b), (3, w.code), (7, 10)] = u := by
    have : 0x14000001 + d * 128 + a * 4096 + b * 131072 + w.code * 4194304 = u := (Prod.mk.inj (Option.some.inj he)).2
    rw [← this]; simp only [pack]; ring
  have l : Fits [(1, 1), (6, 0), (5, d), (5, a), (5, b), (3, w.code), (7, 10)] := ⟨by decide, by decide, h0, h1, h2, hw, by decide, trivial⟩
  have f1_6 : fld u 1 6 = 0 := (fld_pack l e 1 1).trans rfl
  have f7_5 : fld u 7 5 = d := (fld_pack l e 2 1).trans rfl
  have f12_5 : fld u 12 5 = a := (fld_pack l e 3 1).trans rfl
  have f17_5 : fld u 17 5 = b := (fld_pack l e 4 1).trans rfl
  have f22_3 : fld u 22 3 = w.code := (fld_pack l e 5 1).trans rfl
  have f25_7 : fld u 25 7 = 10 := (fld_pack l e 6 1).trans rfl
  refine decodeWord_of_major ((fld_pack l e 0 1).trans rfl) ((decode32_Major00 f1_6).trans ?_) h
  simp [decMajor00, f7_5, f12_5, f17_5, f22_3, f25_7, iw_ofCode, Option.map]

theorem RoundTrip.adds (w : IW) (d : Nat) (a : Nat) (b : Nat) : RoundTrip.Statement (.adds w d a b) := by
  intro _ u h he
  obtain ⟨h0, h1, h2⟩ := of_decide_eq_true h
  have hw := iw_code_lt w
  have e : pack [(1, 1), (6, 0), (5, d), (5, a), (5, b), (3, w.code), (7, 11)] = u := by
    have : 0x16000001 + d * 128 + a * 4096 + b * 131072 + w.code * 4194304 = u := (Prod.mk.inj (Option.some.inj he)).2
    rw [← this]; simp only [pack]; ring
  have l : Fits [(1, 1), (6, 0), (5, d), (5, a), (5, b), (3, w.code), (7, 11)] := ⟨by decide, by decide, h0, h1, h2, hw, by decide, trivial⟩
  have f1_6 : fld u 1 6 = 0 := (fld_pack l e 1 1).trans rfl
  have f7_5 : fld u 7 5 = d := (fld_pack l e 2 1).trans rfl
  have f12_5 : fld u 12 5 = a := (fld_pack l e 3 1).trans rfl
  have f17_5 : fld u 17 5 = b := (fld_pack l e 4 1).trans rfl
  have f22_3 : fld u 22 3 = w.code := (fld_pack l e 5 1).trans rfl
  have f25_7 : fld u 25 7 = 11 := (fld_pack l e 6 1).trans rfl
  refine decodeWord_of_major ((fld_pack l e 0 1).trans rfl) ((decode32_Major00 f1_6).trans ?_) h
  simp [decMajor00, f7_5, f12_5, f17_5, f22_3, f25_7, iw_ofCode, Option.map]

theorem RoundTrip.subs (w : IW) (d : Nat) (a : Nat) (b : Nat) : RoundTrip.Statement (.subs w d a b) := by
  intro _ u h he
  obtain ⟨h0, h1, h2⟩ := of_decide_eq_true h
  have hw := iw_code_lt w
  have e : pack [(1, 1), (6, 0), (5, d), (5, a), (5, b), (3, w.code), (7, 12)] = u := by
    have : 0x18000001 + d * 128 + a * 4096 + b * 131072 + w.code * 4194304 = u := (Prod.mk.inj (Option.some.inj he)).2
    rw [← this]; simp only [pack]; ring
  have l : Fits [(1, 1), (6, 0), (5, d), (5, a), (5, b), (3, w.code), (7, 12)] := ⟨by decide, by decide, h0, h1, h2, hw, by decide, trivial⟩
  have f1_6 : fld u 1 6 = 0 := (fld_pack l e 1 1).trans rfl
  have f7_5 : fld u 7 5 = d := (fld_pack l e 2 1).trans rfl
  have f12_5 : fld u 12 5 = a := (fld_pack l e 3 1).trans rfl
  have f17_5 : fld u 17 5 = b := (fld_pack l e 4 1).trans rfl
  have f22_3 : fld u 22 3 = w.code := (fld_pack l e 5 1).trans rfl
  have f25_7 : fld u 25 7 = 12 := (fld_pack l e 6 1).trans rfl
  refine decodeWord_of_major ((fld_pack l e 0 1).trans rfl) ((decode32_Major00 f1_6).trans ?_) h
  simp [decMajor00, f7_5, f12_5, f17_5, f22_3, f25_7, iw_ofCode, Option.map]

theorem RoundTrip.absd (w : IW) (d : Nat) (a : Nat) (b : Nat) : RoundTrip.Statement (.absd w d a b) := by
  intro _ u h he
  obtain ⟨h0, h1, h2⟩ := of_decide_eq_true h
  have hw := iw_code_lt w
  have e : pack [(1, 1), (6, 0), (5, d), (5, a), (5, b), (3, w.code), (7, 13)] = u := by
    have : 0x1A000001 + d * 128 + a * 4096 + b * 131072 + w.code * 4194304 = u := (Prod.mk.inj (Option.some.inj he)).2
    rw [← this]; simp only [pack]; ring
  have l : Fits [(1, 1), (6, 0), (5, d), (5, a), (5, b), (3, w.code), (7, 13)] := ⟨by decide, by decide, h0, h1, h2, hw, by decide, trivial⟩
  have f1_6 : fld u 1 6 = 0 := (fld_pack l e 1 1).trans rfl
  have f7_5 : fld u 7 5 = d := (fld_pack l e 2 1).trans rfl
  have f12_5 : fld u 12 5 = a := (fld_pack l e 3 1).trans rfl
  have f17_5 : fld u 17 5 = b := (fld_pack l e 4 1).trans rfl
  have f22_3 : fld u 22 3 = w.code := (fld_pack l e 5 1).trans rfl
  have f25_7 : fld u 25 7 = 13 := (fld_pack l e 6 1).trans rfl
  refine decodeWord_of_major ((fld_pack l e 0 1).trans rfl) ((decode32_Major00 f1_6).trans ?_) h
  simp [decMajor00, f7_5, f12_5, f17_5, f22_3, f25_7, iw_ofCode, Option.map]

theorem RoundTrip.addi (d : Nat) (a : Nat) (imm : Nat) : RoundTrip.Statement (.addi d a imm) := by
  intro _ u h he
  obtain ⟨h0, h1, h2⟩ := of_decide_eq_true h
  have e : pack [(1, 1), (6, 1), (5, d), (5, a), (3, 0), (12, imm)] = u := by
    have : 0x3 + d * 128 + a * 4096 + imm * 1048576 = u := (Prod.mk.inj (Option.some.inj he)).2
    rw [← this]; simp only [pack]; ring
  have l : Fits [(1, 1), (6, 1), (5, d), (5, a), (3, 0), (12, imm)] := ⟨by decide, by decide, h0, h1, by decide, h2, trivial⟩
  have f1_6 : fld u 1 6 = 1 := (fld_pack l e 1 1).trans rfl
  have f7_5 : fld u 7 5 = d := (fld_pack l e 2 1).trans rfl
  have f12_5 : fld u 12 5 = a := (fld_pack l e 3 1).trans rfl
  have f17_3 : fld u 17 3 = 0 := (fld_pack l e 4 1).trans rfl
  have f20_12 : fld u 20 12 = imm := (fld_pack l e 5 1).trans rfl
  refine decodeWord_of_major ((fld_pack l e 0 1).trans rfl) ((decode32_Major01 f1_6).trans ?_) h
  simp [decMajor01, f7_5, f12_5, f17_3, f20_12]

theorem RoundTrip.andi (d : Nat) (a : Nat) (imm : Nat) : RoundTrip.Statement (.andi d a imm) := by
  intro _ u h he
  obtain ⟨h0, h1, h2⟩ := of_decide_eq_true h
  have e : pack [(1, 1), (6, 1), (5, d), (5, a), (3, 1), (12, imm)] = u := by
    have : 0x20003 + d * 128 + a * 4096 + imm * 1048576 = u := (Prod.mk.inj (Option.some.inj he)).2
    rw [← this]; simp only [pack]; ring
  have l : Fits [(1, 1), (6, 1), (5, d), (5, a), (3, 1), (12, imm)] := ⟨by decide, by decide, h0, h1, by decide, h2, trivial⟩
  have f1_6 : fld u 1 6 = 1 := (fld_pack l e 1 1).trans rfl
  have f7_5 : fld u 7 5 = d := (fld_pack l e 2 1).trans rfl
  have f12_5 : fld u 12 5 = a := (fld_pack l e 3 1).trans rfl
  have f17_3 : fld u 17 3 = 1 := (fld_pack l e 4 1).trans rfl
  have f20_12 : fld u 20 12 = imm := (fld_pack l e 5 1).trans rfl
  refine decodeWord_of_major ((fld_pack l e 0 1).trans rfl) ((decode32_Major01 f1_6).trans ?_) h
  simp [decMajor01, f7_5, f12_5, f17_3, f20_12]

theorem RoundTrip.ori (d : Nat) (a : Nat) (imm : Nat) : RoundTrip.Statement (.ori d a imm) := by
  intro _ u h he
  obtain ⟨h0, h1, h2⟩ := of_decide_eq_true h
  have e : pack [(1, 1), (6, 1), (5, d), (5, a), (3, 2), (12, imm)] = u := by
    have : 0x40003 + d * 128 + a * 4096 + imm * 1048576 = u := (Prod.mk.inj (Option.some.inj he)).2
    rw [← this]; simp only [pack]; ring
  have l : Fits [(1, 1), (6, 1), (5, d), (5, a), (3, 2), (12, imm)] := ⟨by decide, by decide, h0, h1, by decide, h2, trivial⟩
  have f1_6 : fld u 1 6 = 1 := (fld_pack l e 1 1).trans rfl
  have f7_5 : fld u 7 5 = d := (fld_pack l e 2 1).trans rfl
  have f12_5 : fld u 12 5 = a := (fld_pack l e 3 1).trans rfl
  have f17_3 : fld u 17 3 = 2 := (fld_pack l e 4 1).trans rfl
  have f20_12 : fld u 20 12 = imm := (fld_pack l e 5 1).trans rfl
  refine decodeWord_of_major ((fld_pack l e 0 1).trans rfl) ((decode32_Major01 f1_6).trans ?_) h
  simp [decMajor01, f7_5, f12_5, f17_3, f20_12]

theorem RoundTrip.xori (d : Nat) (a : Nat) (imm : Nat) : RoundTrip.Statement (.xori d a imm) := by
  intro _ u h he
  obtain ⟨h0, h1, h2⟩ := of_decide_eq_true h
  have e : pack [(1, 1), (6, 1), (5, d), (5, a), (3, 3), (12, imm)] = u := by
    have : 0x60003 + d * 128 + a * 4096 + imm * 1048576 = u := (Prod.mk.inj (Option.some.inj he)).2
    rw [← this]; simp only [pack]; ring
  have l : Fits [(1, 1), (6, 1), (5, d), (5, a), (3, 3), (12, imm)] := ⟨by decide, by decide, h0, h1, by decide, h2, trivial⟩
  have f1_6 : fld u 1 6 = 1 := (fld_pack l e 1 1).trans rfl
  have f7_5 : fld u 7 5 = d := (fld_pack l e 2 1).trans rfl
  have f12_5 : fld u 12 5 = a := (fld_pack l e 3 1).trans rfl
  have f17_3 : fld u 17 3 = 3 := (fld_pack l e 4 1).trans rfl
  have f20_12 : fld u 20 12 = imm := (fld_pack l e 5 1).trans rfl
  refine decodeWord_of_major ((fld_pack l e 0 1).trans rfl) ((decode32_Major01 f1_6).trans ?_) h
  simp [decMajor01, f7_5, f12_5, f17_3, f20_12]

theorem RoundTrip.mini (d : Nat) (a : Nat) (imm : Nat) : RoundTrip.Statement (.mini d a imm) := by
  intro _ u h he
  obtain ⟨h0, h1, h2⟩ := of_decide_eq_true h
  have e : pack [(1, 1), (6, 1), (5, d), (5, a), (3, 4), (12, imm)] = u := by
    have : 0x80003 + d * 128 + a * 4096 + imm * 1048576 = u := (Prod.mk.inj (Option.some.inj he)).2
    rw [← this]; simp only [pack]; ring
  have l : Fits [(1, 1), (6, 1), (5, d), (5, a), (3, 4), (12, imm)] := ⟨by decide, by decide, h0, h1, by decide, h2, trivial⟩
  have f1_6 : fld u 1 6 = 1 := (fld_pack l e 1 1).trans rfl
  have f7_5 : fld u 7 5 = d := (fld_pack l e 2 1).trans rfl
  have f12_5 : fld u 12 5 = a := (fld_pack l e 3 1).trans rfl
  have f17_3 : fld u 17 3 = 4 := (fld_pack l e 4 1).trans rfl
  have f20_12 : fld u 20 12 = imm := (fld_pack l e 5 1).trans rfl
  refine decodeWord_of_major ((fld_pack l e 0 1).trans rfl) ((decode32_Major01 f1_6).trans ?_) h
  simp [decMajor01, f7_5, f12_5, f17_3, f20_12]

theorem RoundTrip.maxi (d : Nat) (a : Nat) (imm : Nat) : RoundTrip.Statement (.maxi d a imm) := by
  intro _ u h he
  obtain ⟨h0, h1, h2⟩ := of_decide_eq_true h
  have e : pack [(1, 1), (6, 1), (5, d), (5, a), (3, 5), (12, imm)] = u := by
    have : 0xA0003 + d * 128 + a * 4096 + imm * 1048576 = u := (Prod.mk.inj (Option.some.inj he)).2
    rw [← this]; simp only [pack]; ring
  have l : Fits [(1, 1), (6, 1), (5, d), (5, a), (3, 5), (12, imm)] := ⟨by decide, by decide, h0, h1, by decide, h2, trivial⟩
  have f1_6 : fld u 1 6 = 1 := (fld_pack l e 1 1).trans rfl
  have f7_5 : fld u 7 5 = d := (fld_pack l e 2 1).trans rfl
  have f12_5 : fld u 12 5 = a := (fld_pack l e 3 1).trans rfl
  have f17_3 : fld u 17 3 = 5 := (fld_pack l e 4 1).trans rfl
  have f20_12 : fld u 20 12 = imm := (fld_pack l e 5 1).trans rfl
  refine decodeWord_of_major ((fld_pack l e 0 1).trans rfl) ((decode32_Major01 f1_6).trans ?_) h
  simp [decMajor01, f7_5, f12_5, f17_3, f20_12]

theorem RoundTrip.sll (w : IW) (d : Nat) (a : Nat) (b : Nat) : RoundTrip.Statement (.sll w d a b) := by
  intro _ u h he
  obtain ⟨h0, h1, h2⟩ := of_decide_eq_true h
  have hw := iw_code_lt w
  have e : pack [(1, 1), (6, 2), (5, d), (5, a), (5, b), (3, w.code), (7, 0)] = u := by
    have : 0x5 + d * 128 + a * 4096 + b * 131072 + w.code * 4194304 = u := (Prod.mk.inj (Option.some.inj he)).2
    rw [← this]; simp only [pack]; ring
  have l : Fits [(1, 1), (6, 2), (5, d), (5, a), (5, b), (3, w.code), (7, 0)] := ⟨by decide, by decide, h0, h1, h2, hw, by decide, trivial⟩
  have f1_6 : fld u 1 6 = 2 := (fld_pack l e 1 1).trans rfl
  have f7_5 : fld u 7 5 = d := (fld_pack l e 2 1).trans rfl
  have f12_5 : fld u 12 5 = a := (fld_pack l e 3 1).trans rfl
  have f17_5 : fld u 17 5 = b := (fld_pack l e 4 1).trans rfl
  have f22_3 : fld u 22 3 = w.code := (fld_pack l e 5 1).trans rfl
  have f25_7 : fld u 25 7 = 0 := (fld_pack l e 6 1).trans rfl
  refine decodeWord_of_major ((fld_pack l e 0 1).trans rfl) ((decode32_Major02 f1_6).trans ?_) h
  simp [decMajor02, f7_5, f12_5, f17_5, f22_3, f25_7, iw_ofCode, Option.map]

theorem RoundTrip.sllImm (w : IW) (d : Nat) (a : Nat) (imm : Nat) (hi : Nat) : RoundTrip.Statement (.sllImm w d a imm hi) := by
  intro _ u h he
  obtain ⟨h0, h1, h2, h3⟩ := of_decide_eq_true h
  have hw := iw_code_lt w
  have e : pack [(1, 1), (6, 2), (5, d), (5, a), (5, imm), (3, w.code), (5, 16), (1, hi), (1, 0)] = u := by
    have : 0x20000005 + d * 128 + a * 4096 + imm * 131072 + w.code * 4194304 + hi * 1073741824 = u := (Prod.mk.inj (Option.some.inj he)).2
    rw [← this]; simp only [pack]; ring
  have l : Fits [(1, 1), (6, 2), (5, d), (5, a), (5, imm), (3, w.code), (5, 16), (1, hi), (1, 0)] := ⟨by decide, by decide, h0, h1, h2, hw, by decide, h3, by decide, trivial⟩
  have f1_6 : fld u 1 6 = 2 := (fld_pack l e 1 1).trans rfl
  have f7_5 : fld u 7 5 = d := (fld_pack l e 2 1).trans rfl
  have f12_5 : fld u 12 5 = a := (fld_pack l e 3 1).trans rfl
  have f17_5 : fld u 17 5 = imm := (fld_pack l e 4 1).trans rfl
  have f22_3 : fld u 22 3 = w.code := (fld_pack l e 5 1).trans rfl
  have f25_5 : fld u 25 5 = 16 := (fld_pack l e 6 1).trans rfl
  have f25_7 : fld u 25 7 = 16 + hi * 32 := (fld_pack l e 6 3).trans (by simp [pack]; try omega)
  have f30_1 : fld u 30 1 = hi := (fld_pack l e 7 1).trans rfl
  have f31_1 : fld u 31 1 = 0 := (fld_pack l e 8 1).trans rfl
  have g0 : ¬ (16 + hi * 32 = 0) := by omega
  refine decodeWord_of_major ((fld_pack l e 0 1).trans rfl) ((decode32_Major02 f1_6).trans ?_) h
  simp [decMajor02, f7_5, f12_5, f17_5, f22_3, f25_5, f25_7, f30_1, f31_1, g0, iw_ofCode, Option.map]

theorem RoundTrip.srl (w : IW) (d : Nat) (a : Nat) (b : Nat) : RoundTrip.Statement (.srl w d a b) := by
  intro _ u h he
  obtain ⟨h0, h1, h2⟩ := of_decide_eq_true h
  have hw := iw_code_lt w
  have e : pack [(1, 1), (6, 2), (5, d), (5, a), (5, b), (3, w.code), (5, 1), (1, 0), (1, 0)] = u := by
    have : 0x2000005 + d * 128 + a * 4096 + b * 131072 + w.code * 4194304 = u := (Prod.mk.inj (Option.some.inj he)).2
    rw [← this]; simp only [pack]; ring
  have l : Fits [(1, 1), (6, 2), (5, d), (5, a), (5, b), (3, w.code), (5, 1), (1, 0), (1, 0)] := ⟨by decide, by decide, h0, h1, h2, hw, by decide, by decide, by decide, trivial⟩
  have f1_6 : fld u 1 6 = 2 := (fld_pack l e 1 1).trans rfl
  have f7_5 : fld u 7 5 = d := (fld_pack l e 2 1).trans rfl
  have f12_5 : fld u 12 5 = a := (fld_pack l e 3 1).trans rfl
  have f17_5 : fld u 17 5 = b := (fld_pack l e 4 1).trans rfl
  have f22_3 : fld u 22 3 = w.code := (fld_pack l e 5 1).trans rfl
  have f25_5 : fld u 25 5 = 1 := (fld_pack l e 6 1).trans rfl
  have f25_7 : fld u 25 7 = 1 := (fld_pack l e 6 3).trans (by simp [pack]; try omega)
  have f31_1 : fld u 31 1 = 0 := (fld_pack l e 8 1).trans rfl
  refine decodeWord_of_major ((fld_pack l e 0 1).trans rfl) ((decode32_Major02 f1_6).trans ?_) h
  simp [decMajor02, f7_5, f12_5, f17_5, f22_3, f25_5, f25_7, f31_1, iw_ofCode, Option.map]

theorem RoundTrip.srlImm (w : IW) (d : Nat) (a : Nat) (imm : Nat) (hi : Nat) : RoundTrip.Statement (.srlImm w d a imm hi) := by
  intro _ u h he
  obtain ⟨h0, h1, h2, h3⟩ := of_decide_eq_true h
  have hw := iw_code_lt w
  have e : pack [(1, 1), (6, 2), (5, d), (5, a), (5, imm), (3, w.code), (5, 17), (1, hi), (1, 0)] = u := by
    have : 0x22000005 + d * 128 + a * 4096 + imm * 131072 + w.code * 4194304 + hi * 1073741824 = u := (Prod.mk.inj (Option.some.inj he)).2
    rw [← this]; simp only [pack]; ring
  have l : Fits [(1, 1), (6, 2), (5, d), (5, a), (5, imm), (3, w.code), (5, 17), (1, hi), (1, 0)] := ⟨by decide, by decide, h0, h1, h2, hw, by decide, h3, by decide, trivial⟩
  have f1_6 : fld u 1 6 = 2 := (fld_pack l e 1 1).trans rfl
  have f7_5 : fld u 7 5 = d := (fld_pack l e 2 1).trans rfl
  have f12_5 : fld u 12 5 = a := (fld_pack l e 3 1).trans rfl
  have f17_5 : fld u 17 5 = imm := (fld_pack l e 4 1).trans rfl
  have f22_3 : fld u 22 3 = w.code := (fld_pack l e 5 1).trans rfl
  have f25_5 : fld u 25 5 = 17 := (fld_pack l e 6 1).trans rfl
  have f25_7 : fld u 25 7 = 17 + hi * 32 := (fld_pack l e 6 3).trans (by simp [pack]; try omega)
  have f30_1 : fld u 30 1 = hi := (fld_pack l e 7 1).trans rfl
  have f31_1 : fld u 31 1 = 0 := (fld_pack l e 8 1).trans rfl
  have g0 : ¬ (17 + hi * 32 = 0) := by omega
  have g1 : ¬ (17 + hi * 32 = 1) := by omega
  refine decodeWord_of_major ((fld_pack l e 0 1).trans rfl) ((decode32_Major02 f1_6).trans ?_) h
  simp [decMajor02, f7_5, f12_5, f17_5, f22_3, f25_5, f25_7, f30_1, f31_1, g0, g1, iw_ofCode, Option.map]

theorem RoundTrip.sra (w : IW) (d : Nat) (a : Nat) (b : Nat) : RoundTrip.Statement (.sra w d a b) := by
  intro _ u h he
  obtain ⟨h0, h1, h2⟩ := of_decide_eq_true h
  have hw := iw_code_lt w
  have e : pack [(1, 1), (6, 2), (5, d), (5, a), (5, b), (3, w.code), (5, 2), (1, 0), (1, 0)] = u := by
    have : 0x4000005 + d * 128 + a * 4096 + b * 131072 + w.code * 4194304 = u := (Prod.mk.inj (Option.some.inj he)).2
    rw [← this]; simp only [pack]; ring
  have l : Fits [(1, 1), (6, 2), (5, d), (5, a), (5, b), (3, w.code), (5, 2), (1, 0), (1, 0)] := ⟨by decide, by decide, h0, h1, h2, hw, by decide, by decide, by decide, trivial⟩
  have f1_6 : fld u 1 6 = 2 := (fld_pack l e 1 1).trans rfl
  have f7_5 : fld u 7 5 = d := (fld_pack l e 2 1).trans rfl
  have f12_5 : fld u 12 5 = a := (fld_pack l e 3 1).trans rfl
  have f17_5 : fld u 17 5 = b := (fld_pack l e 4 1).trans rfl
  have f22_3 : fld u 22 3 = w.code := (fld_pack l e 5 1).trans rfl
  have f25_5 : fld u 25 5 = 2 := (fld_pack l e 6 1).trans rfl
  have f25_7 : fld u 25 7 = 2 := (fld_pack l e 6 3).trans (by simp [pack]; try omega)
  have f31_1 : fld u 31 1 = 0 := (fld_pack l e 8 1).trans rfl
  refine decodeWord_of_major ((fld_pack l e 0 1).trans rfl) ((decode32_Major02 f1_6).trans ?_) h
  simp [decMajor02, f7_5, f12_5, f17_5, f22_3, f25_5, f25_7, f31_1, iw_ofCode, Option.map]

theorem RoundTrip.sraImm (w : IW) (d : Nat) (a : Nat) (imm : Nat) (hi : Nat) : RoundTrip.Statement (.sraImm w d a imm hi) := by
  intro _ u h he
  obtain ⟨h0, h1, h2, h3⟩ := of_decide_eq_true h
  have hw := iw_code_lt w
  have e : pack [(1, 1), (6, 2), (5, d), (5, a), (5, imm), (3, w.code), (5, 18), (1, hi), (1, 0)] = u := by
    have : 0x24000005 + d * 128 + a * 4096 + imm * 131072 + w.code * 4194304 + hi * 1073741824 = u := (Prod.mk.inj (Option.some.inj he)).2
    rw [← this]; simp only [pack]; ring
  have l : Fits [(1, 1), (6, 2), (5, d), (5, a), (5, imm), (3, w.code), (5, 18), (1, hi), (1, 0)] := ⟨by decide, by decide, h0, h1, h2, hw, by decide, h3, by decide, trivial⟩
  have f1_6 : fld u 1 6 = 2 := (fld_pack l e 1 1).trans rfl
  have f7_5 : fld u 7 5 = d := (fld_pack l e 2 1).trans rfl
  have f12_5 : fld u 12 5 = a := (fld_pack l e 3 1).trans rfl
  have f17_5 : fld u 17 5 = imm := (fld_pack l e 4 1).trans rfl
  have f22_3 : fld u 22 3 = w.code := (fld_pack l e 5 1).trans rfl
  have f25_5 : fld u 25 5 = 18 := (fld_pack l e 6 1).trans rfl
  have f25_7 : fld u 25 7 = 18 + hi * 32 := (fld_pack l e 6 3).trans (by simp [pack]; try omega)
  have f30_1 : fld u 30 1 = hi := (fld_pack l e 7 1).trans rfl
  have f31_1 : fld u 31 1 = 0 := (fld_pack l e 8 1).trans rfl
  have g0 : ¬ (18 + hi * 32 = 0) := by omega
  have g1 : ¬ (18 + hi * 32 = 1) := by omega
  have g2 : ¬ (18 + hi * 32 = 2) := by omega
  refine decodeWord_of_major ((fld_pack l e 0 1).trans rfl) ((decode32_Major02 f1_6).trans ?_) h
  simp [decMajor02, f7_5, f12_5, f17_5, f22_3, f25_5, f25_7, f30_1, f31_1, g0, g1, g2, iw_ofCode, Option.map]

theorem RoundTrip.rol (w : IW) (d : Nat) (a : Nat) (b : Nat) : RoundTrip.Statement (.rol w d a b) := by
  intro _ u h he
  obtain ⟨h0, h1, h2⟩ := of_decide_eq_true h
  have hw := iw_code_lt w
  have e : pack [(1, 1), (6, 2), (5, d), (5, a), (5, b), (3, w.code), (5, 3), (1, 0), (1, 0)] = u := by
    have : 0x6000005 + d * 128 + a * 4096 + b * 131072 + w.code * 4194304 = u := (Prod.mk.inj (Option.some.inj he)).2
    rw [← this]; simp only [pack]; ring
  have l : Fits [(1, 1), (6, 2), (5, d), (5, a), (5, b), (3, w.code), (5, 3), (1, 0), (1, 0)] := ⟨by decide, by decide, h0, h1, h2, hw, by decide, by decide, by decide, trivial⟩
  have f1_6 : fld u 1 6 = 2 := (fld_pack l e 1 1).trans rfl
  have f7_5 : fld u 7 5 = d := (fld_pack l e 2 1).trans rfl
  have f12_5 : fld u 12 5 = a := (fld_pack l e 3 1).trans rfl
  have f17_5 : fld u 17 5 = b := (fld_pack l e 4 1).trans rfl
  have f22_3 : fld u 22 3 = w.code := (fld_pack l e 5 1).trans rfl
  have f25_5 : fld u 25 5 = 3 := (fld_pack l e 6 1).trans rfl
  have f25_7 : fld u 25 7 = 3 := (fld_pack l e 6 3).trans (by simp [pack]; try omega)
  have f31_1 : fld u 31 1 = 0 := (fld_pack l e 8 1).trans rfl
  refine decodeWord_of_major ((fld_pack l e 0 1).trans rfl) ((decode32_Major02 f1_6).trans ?_) h
  simp [decMajor02, f7_5, f12_5, f17_5, f22_3, f25_5, f25_7, f31_1, iw_ofCode, Option.map]

theorem RoundTrip.rolImm (w : IW) (d : Nat) (a : Nat) (imm : Nat) (hi : Nat) : RoundTrip.Statement (.rolImm w d a imm hi) := by
  intro _ u h he
  obtain ⟨h0, h1, h2, h3⟩ := of_decide_eq_true h
  have hw := iw_code_lt w
  have e : pack [(1, 1), (6, 2), (5, d), (5, a), (5, imm), (3, w.code), (5, 19), (1, hi), (1, 0)] = u := by
    have : 0x26000005 + d * 128 + a * 4096 + imm * 131072 + w.code * 4194304 + hi * 1073741824 = u := (Prod.mk.inj (Option.some.inj he)).2
    rw [← this]; simp only [pack]; ring
  have l : Fits [(1, 1), (6, 2), (5, d), (5, a), (5, imm), (3, w.code), (5, 19), (1, hi), (1, 0)] := ⟨by decide, by decide, h0, h1, h2, hw, by decide, h3, by decide, trivial⟩
  have f1_6 : fld u 1 6 = 2 := (fld_pack l e 1 1).trans rfl
  have f7_5 : fld u 7 5 = d := (fld_pack l e 2 1).trans rfl
  have f12_5 : fld u 12 5 = a := (fld_pack l e 3 1).trans rfl
  have f17_5 : fld u 17 5 = imm := (fld_pack l e 4 1).trans rfl
  have f22_3 : fld u 22 3 = w.code := (fld_pack l e 5 1).trans rfl
  have f25_5 : fld u 25 5 = 19 := (fld_pack l e 6 1).trans rfl
  have f25_7 : fld u 25 7 = 19 + hi * 32 := (fld_pack l e 6 3).trans (by simp [pack]; try omega)
  have f30_1 : fld u 30 1 = hi := (fld_pack l e 7 1).trans rfl
  have f31_1 : fld u 31 1 = 0 := (fld_pack l e 8 1).trans rfl
  have g0 : ¬ (19 + hi * 32 = 0) := by omega
  have g1 : ¬ (19 + hi * 32 = 1) := by omega
  have g2 : ¬ (19 + hi * 32 = 2) := by omega
  have g3 : ¬ (19 + hi * 32 = 3) := by omega
  refine decodeWord_of_major ((fld_pack l e 0 1).trans rfl) ((decode32_Major02 f1_6).trans ?_) h
  simp [decMajor02, f7_5, f12_5, f17_5, f22_3, f25_5, f25_7, f30_1, f31_1, g0, g1, g2, g3, iw_ofCode, Option.map]

theorem RoundTrip.ror (w : IW) (d : Nat) (a : Nat) (b : Nat) : RoundTrip.Statement (.ror w d a b) := by
  intro _ u h he
  obtain ⟨h0, h1, h2⟩ := of_decide_eq_true h
  have hw := iw_code_lt w
  have e : pack [(1, 1), (6, 2), (5, d), (5, a), (5, b), (3, w.code), (5, 4), (1, 0), (1, 0)] = u := by
    have : 0x8000005 + d * 128 + a * 4096 + b * 131072 + w.code * 4194304 = u := (Prod.mk.inj (Option.some.inj he)).2
    rw [← this]; simp only [pack]; ring
  have l : Fits [(1, 1), (6, 2), (5, d), (5, a), (5, b), (3, w.code), (5, 4), (1, 0), (1, 0)] := ⟨by decide, by decide, h0, h1, h2, hw, by decide, by decide, by decide, trivial⟩
  have f1_6 : fld u 1 6 = 2 := (fld_pack l e 1 1).trans rfl
  have f7_5 : fld u 7 5 = d := (fld_pack l e 2 1).trans rfl
  have f12_5 : fld u 12 5 = a := (fld_pack l e 3 1).trans rfl
  have f17_5 : fld u 17 5 = b := (fld_pack l e 4 1).trans rfl
  have f22_3 : fld u 22 3 = w.code := (fld_pack l e 5 1).trans rfl
  have f25_5 : fld u 25 5 = 4 := (fld_pack l e 6 1).trans rfl
  have f25_7 : fld u 25 7 = 4 := (fld_pack l e 6 3).trans (by simp [pack]; try omega)
  have f31_1 : fld u 31 1 = 0 := (fld_pack l e 8 1).trans rfl
  refine decodeWord_of_major ((fld_pack l e 0 1).trans rfl) ((decode32_Major02 f1_6).trans ?_) h
  simp [decMajor02, f7_5, f12_5, f17_5, f22_3, f25_5, f25_7, f31_1, iw_ofCode, Option.map]

theorem RoundTrip.rorImm (w : IW) (d : Nat) (a : Nat) (imm : Nat) (hi : Nat) : RoundTrip.Statement (.rorImm w d a imm hi) := by
  intro _ u h he
  obtain ⟨h0, h1, h2, h3⟩ := of_decide_eq_true h
  have hw := iw_code_lt w
  have e : pack [(1, 1), (6, 2), (5, d), (5, a), (5, imm), (3, w.code), (5, 20), (1, hi), (1, 0)] = u := by
    have : 0x28000005 + d * 128 + a * 4096 + imm * 131072 + w.code * 4194304 + hi * 1073741824 = u := (Prod.mk.inj (Option.some.inj he)).2
    rw [← this]; simp only [pack]; ring
  have l : Fits [(1, 1), (6, 2), (5, d), (5, a), (5, imm), (3, w.code), (5, 20), (1, hi), (1, 0)] := ⟨by decide, by decide, h0, h1, h2, hw, by decide, h3, by decide, trivial⟩
  have f1_6 : fld u 1 6 = 2 := (fld_pack l e 1 1).trans rfl
  have f7_5 : fld u 7 5 = d := (fld_pack l e 2 1).trans rfl
  have f12_5 : fld u 12 5 = a := (fld_pack l e 3 1).trans rfl
  have f17_5 : fld u 17 5 = imm := (fld_pack l e 4 1).trans rfl
  have f22_3 : fld u 22 3 = w.code := (fld_pack l e 5 1).trans rfl
  have f25_5 : fld u 25 5 = 20 := (fld_pack l e 6 1).trans rfl
  have f25_7 : fld u 25 7 = 20 + hi * 32 := (fld_pack l e 6 3).trans (by simp [pack]; try omega)
  have f30_1 : fld u 30 1 = hi := (fld_pack l e 7 1).trans rfl
  have f31_1 : fld u 31 1 = 0 := (fld_pack l e 8 1).trans rfl
  have g0 : ¬ (20 + hi * 32 = 0) := by omega
  have g1 : ¬ (20 + hi * 32 = 1) := by omega
  have g2 : ¬ (20 + hi * 32 = 2) := by omega
  have g3 : ¬ (20 + hi * 32 = 3) := by omega
  have g4 : ¬ (20 + hi * 32 = 4) := by omega
  refine decodeWord_of_major ((fld_pack l e 0 1).trans rfl) ((decode32_Major02 f1_6).trans ?_) h
  simp [decMajor02, f7_5, f12_5, f17_5, f22_3, f25_5, f25_7, f30_1, f31_1, g0, g1, g2, g3, g4, iw_ofCode, Option.map]

theorem RoundTrip.ext (d : Nat) (a : Nat) (b : Nat) : RoundTrip.Statement (.ext d a b) := by
  intro _ u h he
  obtain ⟨h0, h1, h2⟩ := of_decide_eq_true h
  have e : pack [(1, 1), (6, 2), (5, d), (5, a), (5, b), (3, 0), (5, 5), (1, 0), (1, 0)] = u := by
    have : 0xA000005 + d * 128 + a * 4096 + b * 131072 = u := (Prod.mk.inj (Option.some.inj he)).2
    rw [← this]; simp only [pack]; ring
  have l : Fits [(1, 1), (6, 2), (5, d), (5, a), (5, b), (3, 0), (5, 5), (1, 0), (1, 0)] := ⟨by decide, by decide, h0, h1, h2, by decide, by decide, by decide, by decide, trivial⟩
  have f1_6 : fld u 1 6 = 2 := (fld_pack l e 1 1).trans rfl
  have f7_5 : fld u 7 5 = d := (fld_pack l e 2 1).trans rfl
  have f12_5 : fld u 12 5 = a := (fld_pack l e 3 1).trans rfl
  have f17_5 : fld u 17 5 = b := (fld_pack l e 4 1).trans rfl
  have f22_10 : fld u 22 10 = 40 := (fld_pack l e 5 4).trans (by simp [pack]; try omega)
  have f25_5 : fld u 25 5 = 5 := (fld_pack l e 6 1).trans rfl
  have f25_7 : fld u 25 7 = 5 := (fld_pack l e 6 3).trans (by simp [pack]; try omega)
  have f31_1 : fld u 31 1 = 0 := (fld_pack l e 8 1).trans rfl
  refine decodeWord_of_major ((fld_pack l e 0 1).trans rfl) ((decode32_Major02 f1_6).trans ?_) h
  simp [decMajor02, f7_5, f12_5, f17_5, f22_10, f25_5, f25_7, f31_1]

theorem RoundTrip.extn (d : Nat) (a : Nat) (b : Nat) : RoundTrip.Statement (.extn d a b) := by
  intro _ u h he
  obtain ⟨h0, h1, h2⟩ := of_decide_eq_true h
  have e : pack [(1, 1), (6, 2), (5, d), (5, a), (5, b), (3, 0), (5, 6), (1, 0), (1, 0)] = u := by
    have : 0xC000005 + d * 128 + a * 4096 + b * 131072 = u := (Prod.mk.inj (Option.some.inj he)).2
    rw [← this]; simp only [pack]; ring
  have l : Fits [(1, 1), (6, 2), (5, d), (5, a), (5, b), (3, 0), (5, 6), (1, 0), (1, 0)] := ⟨by decide, by decide, h0, h1, h2, by decide, by decide, by decide, by decide, trivial⟩
  have f1_6 : fld u 1 6 = 2 := (fld_pack l e 1 1).trans rfl
  have f7_5 : fld u 7 5 = d := (fld_pack l e 2 1).trans rfl
  have f12_5 : fld u 12 5 = a := (fld_pack l e 3 1).trans rfl
  have f17_5 : fld u 17 5 = b := (fld_pack l e 4 1).trans rfl
  have f22_10 : fld u 22 10 = 48 := (fld_pack l e 5 4).trans (by simp [pack]; try omega)
  have f25_5 : fld u 25 5 = 6 := (fld_pack l e 6 1).trans rfl
  have f25_7 : fld u 25 7 = 6 := (fld_pack l e 6 3).trans (by simp [pack]; try omega)
  have f31_1 : fld u 31 1 = 0 := (fld_pack l e 8 1).trans rfl
  refine decodeWord_of_major ((fld_pack l e 0 1).trans rfl) ((decode32_Major02 f1_6).trans ?_) h
  simp [decMajor02, f7_5, f12_5, f17_5, f22_10, f25_5, f25_7, f31_1]

theorem RoundTrip.ins (d : Nat) (a : Nat) (b : Nat) : RoundTrip.Statement (.ins d a b) := by
  intro _ u h he
  obtain ⟨h0, h1, h2⟩ := of_decide_eq_true h
  have e : pack [(1, 1), (6, 2), (5, d), (5, a), (5, b), (3, 0), (5, 7), (1, 0), (1, 0)] = u := by
    have : 0xE000005 + d * 128 + a * 4096 + b * 131072 = u := (Prod.mk.inj (Option.some.inj he)).2
    rw [← this]; simp only [pack]; ring
  have l : Fits [(1, 1), (6, 2), (5, d), (5, a), (5, b), (3, 0), (5, 7), (1, 0), (1, 0)] := ⟨by decide, by decide, h0, h1, h2, by decide, by decide, by decide, by decide, trivial⟩
  have f1_6 : fld u 1 6 = 2 := (fld_pack l e 1 1).trans rfl
  have f7_5 : fld u 7 5 = d := (fld_pack l e 2 1).trans rfl
  have f12_5 : fld u 12 5 = a := (fld_pack l e 3 1).trans rfl
  have f17_5 : fld u 17 5 = b := (fld_pack l e 4 1).trans rfl
  have f22_10 : fld u 22 10 = 56 := (fld_pack l e 5 4).trans (by simp [pack]; try omega)
  have f25_5 : fld u 25 5 = 7 := (fld_pack l e 6 1).trans rfl
  have f25_7 : fld u 25 7 = 7 := (fld_pack l e 6 3).trans (by simp [pack]; try omega)
  have f31_1 : fld u 31 1 = 0 := (fld_pack l e 8 1).trans rfl
  refine decodeWord_of_major ((fld_pack l e 0 1).trans rfl) ((decode32_Major02 f1_6).trans ?_) h
  simp [decMajor02, f7_5, f12_5, f17_5, f22_10, f25_5, f25_7, f31_1]

theorem RoundTrip.clz (w : IW) (d : Nat) (a : Nat) : RoundTrip.Statement (.clz w d a) := by
  intro _ u h he
  obtain ⟨h0, h1⟩ := of_decide_eq_true h
  have hw := iw_code_lt w
  have e : pack [(1, 1), (6, 2), (5, d), (5, a), (5, 0), (3, w.code), (5, 8), (1, 0), (1, 0)] = u := by
    have : 0x10000005 + d * 128 + a * 4096 + w.code * 4194304 = u := (Prod.mk.inj (Option.some.inj he)).2
    rw [← this]; simp only [pack]; ring
  have l : Fits [(1, 1), (6, 2), (5, d), (5, a), (5, 0), (3, w.code), (5, 8), (1, 0), (1, 0)] := ⟨by decide, by decide, h0, h1, by decide, hw, by decide, by decide, by decide, trivial⟩
  have f1_6 : fld u 1 6 = 2 := (fld_pack l e 1 1).trans rfl
  have f7_5 : fld u 7 5 = d := (fld_pack l e 2 1).trans rfl
  have f12_5 : fld u 12 5 = a := (fld_pack l e 3 1).trans rfl
  have f17_5 : fld u 17 5 = 0 := (fld_pack l e 4 1).trans rfl
  have f22_3 : fld u 22 3 = w.code := (fld_pack l e 5 1).trans rfl
  have f22_10 : fld u 22 10 = 64 + w.code := (fld_pack l e 5 4).trans (by simp [pack]; try omega)
  have f25_5 : fld u 25 5 = 8 := (fld_pack l e 6 1).trans rfl
  have f25_7 : fld u 25 7 = 8 := (fld_pack l e 6 3).trans (by simp [pack]; try omega)
  have f31_1 : fld u 31 1 = 0 := (fld_pack l e 8 1).trans rfl
  have g0 : ¬ (64 + w.code = 40) := by omega
  have g1 : ¬ (64 + w.code = 48) := by omega
  have g2 : ¬ (64 + w.code = 56) := by omega
  refine decodeWord_of_major ((fld_pack l e 0 1).trans rfl) ((decode32_Major02 f1_6).trans ?_) h
  simp [decMajor02, f7_5, f12_5, f17_5, f22_3, f22_10, f25_5, f25_7, f31_1, g0, g1, g2, iw_ofCode, Option.map]

theorem RoundTrip.ctz (w : IW) (d : Nat) (a : Nat) : RoundTrip.Statement (.ctz w d a) := by
  intro _ u h he
  obtain ⟨h0, h1⟩ := of_decide_eq_true h
  have hw := iw_code_lt w
  have e : pack [(1, 1), (6, 2), (5, d), (5, a), (5, 0), (3, w.code), (5, 9), (1, 0), (1, 0)] = u := by
    have : 0x12000005 + d * 128 + a * 4096 + w.code * 4194304 = u := (Prod.mk.inj (Option.some.inj he)).2
    rw [← this]; simp only [pack]; ring
  have l : Fits [(1, 1), (6, 2), (5, d), (5, a), (5, 0), (3, w.code), (5, 9), (1, 0), (1, 0)] := ⟨by decide, by decide, h0, h1, by decide, hw, by decide, by decide, by decide, trivial⟩
  have f1_6 : fld u 1 6 = 2 := (fld_pack l e 1 1).trans rfl
  have f7_5 : fld u 7 5 = d := (fld_pack l e 2 1).trans rfl
  have f12_5 : fld u 12 5 = a := (fld_pack l e 3 1).trans rfl
  have f17_5 : fld u 17 5 = 0 := (fld_pack l e 4 1).trans rfl
  have f22_3 : fld u 22 3 = w.code := (fld_pack l e 5 1).trans rfl
  have f22_10 : fld u 22 10 = 72 + w.code := (fld_pack l e 5 4).trans (by simp [pack]; try omega)
  have f25_5 : fld u 25 5 = 9 := (fld_pack l e 6 1).trans rfl
  have f25_7 : fld u 25 7 = 9 := (fld_pack l e 6 3).trans (by simp [pack]; try omega)
  have f31_1 : fld u 31 1 = 0 := (fld_pack l e 8 1).trans rfl
  have g0 : ¬ (72 + w.code = 40) := by omega
  have g1 : ¬ (72 + w.code = 48) := by omega
  have g2 : ¬ (72 + w.code = 56) := by omega
  refine decodeWord_of_major ((fld_pack l e 0 1).trans rfl) ((decode32_Major02 f1_6).trans ?_) h
  simp [decMajor02, f7_5, f12_5, f17_5, f22_3, f22_10, f25_5, f25_7, f31_1, g0, g1, g2, iw_ofCode, Option.map]

theorem RoundTrip.pop (w : IW) (d : Nat) (a : Nat) : RoundTrip.Statement (.pop w d a) := by
  intro _ u h he
  obtain ⟨h0, h1⟩ := of_decide_eq_true h
  have hw := iw_code_lt w
  have e : pack [(1, 1), (6, 2), (5, d), (5, a), (5, 0), (3, w.code), (5, 10), (1, 0), (1, 0)] = u := by
    have : 0x14000005 + d * 128 + a * 4096 + w.code * 4194304 = u := (Prod.mk.inj (Option.some.inj he)).2
    rw [← this]; simp only [pack]; ring
  have l : Fits [(1, 1), (6, 2), (5, d), (5, a), (5, 0), (3, w.code), (5, 10), (1, 0), (1, 0)] := ⟨by decide, by decide, h0, h1, by decide, hw, by decide, by decide, by decide, trivial⟩
  have f1_6 : fld u 1 6 = 2 := (fld_pack l e 1 1).trans rfl
  have f7_5 : fld u 7 5 = d := (fld_pack l e 2 1).trans rfl
  have f12_5 : fld u 12 5 = a := (fld_pack l e 3 1).trans rfl
  have f17_5 : fld u 17 5 = 0 := (fld_pack l e 4 1).trans rfl
  have f22_3 : fld u 22 3 = w.code := (fld_pack l e 5 1).trans rfl
  have f22_10 : fld u 22 10 = 80 + w.code := (fld_pack l e 5 4).trans (by simp [pack]; try omega)
  have f25_5 : fld u 25 5 = 10 := (fld_pack l e 6 1).trans rfl
  have f25_7 : fld u 25 7 = 10 := (fld_pack l e 6 3).trans (by simp [pack]; try omega)
  have f31_1 : fld u 31 1 = 0 := (fld_pack l e 8 1).trans rfl
  have g0 : ¬ (80 + w.code = 40) := by omega
  have g1 : ¬ (80 + w.code = 48) := by omega
  have g2 : ¬ (80 + w.code = 56) := by omega
  refine decodeWord_of_major ((fld_pack l e 0 1).trans rfl) ((decode32_Major02 f1_6).trans ?_) h
  simp [decMajor02, f7_5, f12_5, f17_5, f22_3, f22_10, f25_5, f25_7, f31_1, g0, g1, g2, iw_ofCode, Option.map]

theorem RoundTrip.brev (w : IW) (d : Nat) (a : Nat) : RoundTrip.Statement (.brev w d a) := by
  intro _ u h he
  obtain ⟨h0, h1⟩ := of_decide_eq_true h
  have hw := iw_code_lt w
  have e : pack [(1, 1), (6, 2), (5, d), (5, a), (5, 0), (3, w.code), (5, 11), (1, 0), (1, 0)] = u := by
    have : 0x16000005 + d * 128 + a * 4096 + w.code * 4194304 = u := (Prod.mk.inj (Option.some.inj he)).2
    rw [← this]; simp only [pack]; ring
  have l : Fits [(1, 1), (6, 2), (5, d), (5, a), (5, 0), (3, w.code), (5, 11), (1, 0), (1, 0)] := ⟨by decide, by decide, h0, h1, by decide, hw, by decide, by decide, by decide, trivial⟩
  have f1_6 : fld u 1 6 = 2 := (fld_pack l e 1 1).trans rfl
  have f7_5 : fld u 7 5 = d := (fld_pack l e 2 1).trans rfl
  have f12_5 : fld u 12 5 = a := (fld_pack l e 3 1).trans rfl
  have f17_5 : fld u 17 5 = 0 := (fld_pack l e 4 1).trans rfl
  have f22_3 : fld u 22 3 = w.code := (fld_pack l e 5 1).trans rfl
  have f22_10 : fld u 22 10 = 88 + w.code := (fld_pack l e 5 4).trans (by simp [pack]; try omega)
  have f25_5 : fld u 25 5 = 11 := (fld_pack l e 6 1).trans rfl
  have f25_7 : fld u 25 7 = 11 := (fld_pack l e 6 3).trans (by simp [pack]; try omega)
  have f31_1 : fld u 31 1 = 0 := (fld_pack l e 8 1).trans rfl
  have g0 : ¬ (88 + w.code = 40) := by omega
  have g1 : ¬ (88 + w.code = 48) := by omega
  have g2 : ¬ (88 + w.code = 56) := by omega
  refine decodeWord_of_major ((fld_pack l e 0 1).trans rfl) ((decode32_Major02 f1_6).trans ?_) h
  simp [decMajor02, f7_5, f12_5, f17_5, f22_3, f22_10, f25_5, f25_7, f31_1, g0, g1, g2, iw_ofCode, Option.map]

theorem RoundTrip.bswap (w : IW) (d : Nat) (a : Nat) : RoundTrip.Statement (.bswap w d a) := by
  intro _ u h he
  obtain ⟨h0, h1⟩ := of_decide_eq_true h
  have hw := iw_code_lt w
  have e : pack [(1, 1), (6, 2), (5, d), (5, a), (5, 0), (3, w.code), (5, 12), (1, 0), (1, 0)] = u := by
    have : 0x18000005 + d * 128 + a * 4096 + w.code * 4194304 = u := (Prod.mk.inj (Option.some.inj he)).2
    rw [← this]; simp only [pack]; ring
  have l : Fits [(1, 1), (6, 2), (5, d), (5, a), (5, 0), (3, w.code), (5, 12), (1, 0), (1, 0)] := ⟨by decide, by decide, h0, h1, by decide, hw, by decide, by decide, by decide, trivial⟩
  have f1_6 : fld u 1 6 = 2 := (fld_pack l e 1 1).trans rfl
  have f7_5 : fld u 7 5 = d := (fld_pack l e 2 1).trans rfl
  have f12_5 : fld u 12 5 = a := (fld_pack l e 3 1).trans rfl
  have f17_5 : fld u 17 5 = 0 := (fld_pack l e 4 1).trans rfl
  have f22_3 : fld u 22 3 = w.code := (fld_pack l e 5 1).trans rfl
  have f22_10 : fld u 22 10 = 96 + w.code := (fld_pack l e 5 4).trans (by simp [pack]; try omega)
  have f25_5 : fld u 25 5 = 12 := (fld_pack l e 6 1).trans rfl
  have f25_7 : fld u 25 7 = 12 := (fld_pack l e 6 3).trans (by simp [pack]; try omega)
  have f31_1 : fld u 31 1 = 0 := (fld_pack l e 8 1).trans rfl
  have g0 : ¬ (96 + w.code = 40) := by omega
  have g1 : ¬ (96 + w.code = 48) := by omega
  have g2 : ¬ (96 + w.code = 56) := by omega
  refine decodeWord_of_major ((fld_pack l e 0 1).trans rfl) ((decode32_Major02 f1_6).trans ?_) h
  simp [decMajor02, f7_5, f12_5, f17_5, f22_3, f22_10, f25_5, f25_7, f31_1, g0, g1, g2, iw_ofCode, Option.map]

theorem RoundTrip.cmp (w : IW) (d : Nat) (a : Nat) (b : Nat) (x : Nat) : RoundTrip.Statement (.cmp w d a b x) := by
  intro _ u h he
  obtain ⟨h0, h1, h2, h3, h4⟩ := of_decide_eq_true h
  have hw := iw_code_lt w
  have e : pack [(1, 1), (6, 3), (5, d), (5, a), (5, b), (3, w.code), (4, 0), (3, x)] = u := by
    have : 0x7 + d * 128 + a * 4096 + b * 131072 + w.code * 4194304 + x * 536870912 = u := (Prod.mk.inj (Option.some.inj he)).2
    rw [← this]; simp only [pack]; ring
  have l : Fits [(1, 1), (6, 3), (5, d), (5, a), (5, b), (3, w.code), (4, 0), (3, x)] := ⟨by decide, by decide, h0, h1, h2, hw, by decide, h3, trivial⟩
  have f1_6 : fld u 1 6 = 3 := (fld_pack l e 1 1).trans rfl
  have f7_5 : fld u 7 5 = d := (fld_pack l e 2 1).trans rfl
  have f12_5 : fld u 12 5 = a := (fld_pack l e 3 1).trans rfl
  have f17_5 : fld u 17 5 = b := (fld_pack l e 4 1).trans rfl
  have f22_3 : fld u 22 3 = w.code := (fld_pack l e 5 1).trans rfl
  have f25_4 : fld u 25 4 = 0 := (fld_pack l e 6 1).trans rfl
  have f29_3 : fld u 29 3 = x := (fld_pack l e 7 1).trans rfl
  refine decodeWord_of_major ((fld_pack l e 0 1).trans rfl) ((decode32_Major03 f1_6).trans ?_) h
  simp [decMajor03, f7_5, f12_5, f17_5, f22_3, f25_4, f29_3, iw_ofCode, Option.map]

theorem RoundTrip.csel (d : Nat) (a : Nat) (b : Nat) (x : Nat) : RoundTrip.Statement (.csel d a b x) := by
  intro _ u h he
  obtain ⟨h0, h1, h2, h3, h4⟩ := of_decide_eq_true h
  have e : pack [(1, 1), (6, 3), (5, d), (5, a), (5, b), (3, 0), (4, 1), (3, x)] = u := by
    have : 0x2000007 + d * 128 + a * 4096 + b * 131072 + x * 536870912 = u := (Prod.mk.inj (Option.some.inj he)).2
    rw [← this]; simp only [pack]; ring
  have l : Fits [(1, 1), (6, 3), (5, d), (5, a), (5, b), (3, 0), (4, 1), (3, x)] := ⟨by decide, by decide, h0, h1, h2, by decide, by decide, h3, trivial⟩
  have f1_6 : fld u 1 6 = 3 := (fld_pack l e 1 1).trans rfl
  have f7_5 : fld u 7 5 = d := (fld_pack l e 2 1).trans rfl
  have f12_5 : fld u 12 5 = a := (fld_pack l e 3 1).trans rfl
  have f17_5 : fld u 17 5 = b := (fld_pack l e 4 1).trans rfl
  have f22_7 : fld u 22 7 = 8 := (fld_pack l e 5 2).trans (by simp [pack]; try omega)
  have f25_4 : fld u 25 4 = 1 := (fld_pack l e 6 1).trans rfl
  have f29_3 : fld u 29 3 = x := (fld_pack l e 7 1).trans rfl
  refine decodeWord_of_major ((fld_pack l e 0 1).trans rfl) ((decode32_Major03 f1_6).trans ?_) h
  simp [decMajor03, f7_5, f12_5, f17_5, f22_7, f25_4, f29_3]

theorem RoundTrip.mul (w : IW) (d : Nat) (a : Nat) (b : Nat) (la : Nat) : RoundTrip.Statement (.mul w d a b la) := by
  intro _ u h he
  obtain ⟨h0, h1, h2, h3⟩ := of_decide_eq_true h
  have hw := iw_code_lt w
  have e : pack [(1, 1), (6, 4), (5, d), (5, a), (5, b), (3, w.code), (3, 0), (4, la)] = u := by
    have : 0x9 + d * 128 + a * 4096 + b * 131072 + w.code * 4194304 + la * 268435456 = u := (Prod.mk.inj (Option.some.inj he)).2
    rw [← this]; simp only [pack]; ring
  have l : Fits [(1, 1), (6, 4), (5, d), (5, a), (5, b), (3, w.code), (3, 0), (4, la)] := ⟨by decide, by decide, h0, h1, h2, hw, by decide, h3, trivial⟩
  have f1_6 : fld u 1 6 = 4 := (fld_pack l e 1 1).trans rfl
  have f7_5 : fld u 7 5 = d := (fld_pack l e 2 1).trans rfl
  have f12_5 : fld u 12 5 = a := (fld_pack l e 3 1).trans rfl
  have f17_5 : fld u 17 5 = b := (fld_pack l e 4 1).trans rfl
  have f22_3 : fld u 22 3 = w.code := (fld_pack l e 5 1).trans rfl
  have f25_3 : fld u 25 3 = 0 := (fld_pack l e 6 1).trans rfl
  have f28_4 : fld u 28 4 = la := (fld_pack l e 7 1).trans rfl
  refine decodeWord_of_major ((fld_pack l e 0 1).trans rfl) ((decode32_Major04 f1_6).trans ?_) h
  simp [decMajor04, f7_5, f12_5, f17_5, f22_3, f25_3, f28_4, iw_ofCode, Option.map]

theorem RoundTrip.mulh (w : IW) (d : Nat) (a : Nat) (b : Nat) (la : Nat) : RoundTrip.Statement (.mulh w d a b la) := by
  intro _ u h he
  obtain ⟨h0, h1, h2, h3⟩ := of_decide_eq_true h
  have hw := iw_code_lt w
  have e : pack [(1, 1), (6, 4), (5, d), (5, a), (5, b), (3, w.code), (3, 1), (4, la)] = u := by
    have : 0x2000009 + d * 128 + a * 4096 + b * 131072 + w.code * 4194304 + la * 268435456 = u := (Prod.mk.inj (Option.some.inj he)).2
    rw [← this]; simp only [pack]; ring
  have l : Fits [(1, 1), (6, 4), (5, d), (5, a), (5, b), (3, w.code), (3, 1), (4, la)] := ⟨by decide, by decide, h0, h1, h2, hw, by decide, h3, trivial⟩
  have f1_6 : fld u 1 6 = 4 := (fld_pack l e 1 1).trans rfl
  have f7_5 : fld u 7 5 = d := (fld_pack l e 2 1).trans rfl
  have f12_5 : fld u 12 5 = a := (fld_pack l e 3 1).trans rfl
  have f17_5 : fld u 17 5 = b := (fld_pack l e 4 1).trans rfl
  have f22_3 : fld u 22 3 = w.code := (fld_pack l e 5 1).trans rfl
  have f25_3 : fld u 25 3 = 1 := (fld_pack l e 6 1).trans rfl
  have f28_4 : fld u 28 4 = la := (fld_pack l e 7 1).trans rfl
  refine decodeWord_of_major ((fld_pack l e 0 1).trans rfl) ((decode32_Major04 f1_6).trans ?_) h
  simp [decMajor04, f7_5, f12_5, f17_5, f22_3, f25_3, f28_4, iw_ofCode, Option.map]

theorem RoundTrip.mulhn (w : IW) (d : Nat) (a : Nat) (b : Nat) (la : Nat) : RoundTrip.Statement (.mulhn w d a b la) := by
  intro _ u h he
  obtain ⟨h0, h1, h2, h3⟩ := of_decide_eq_true h
  have hw := iw_code_lt w
  have e : pack [(1, 1), (6, 4), (5, d), (5, a), (5, b), (3, w.code), (3, 2), (4, la)] = u := by
    have : 0x4000009 + d * 128 + a * 4096 + b * 131072 + w.code * 4194304 + la * 268435456 = u := (Prod.mk.inj (Option.some.inj he)).2
    rw [← this]; simp only [pack]; ring
  have l : Fits [(1, 1), (6, 4), (5, d), (5, a), (5, b), (3, w.code), (3, 2), (4, la)] := ⟨by decide, by decide, h0, h1, h2, hw, by decide, h3, trivial⟩
  have f1_6 : fld u 1 6 = 4 := (fld_pack l e 1 1).trans rfl
  have f7_5 : fld u 7 5 = d := (fld_pack l e 2 1).trans rfl
  have f12_5 : fld u 12 5 = a := (fld_pack l e 3 1).trans rfl
  have f17_5 : fld u 17 5 = b := (fld_pack l e 4 1).trans rfl
  have f22_3 : fld u 22 3 = w.code := (fld_pack l e 5 1).trans rfl
  have f25_3 : fld u 25 3 = 2 := (fld_pack l e 6 1).trans rfl
  have f28_4 : fld u 28 4 = la := (fld_pack l e 7 1).trans rfl
  refine decodeWord_of_major ((fld_pack l e 0 1).trans rfl) ((decode32_Major04 f1_6).trans ?_) h
  simp [decMajor04, f7_5, f12_5, f17_5, f22_3, f25_3, f28_4, iw_ofCode, Option.map]

theorem RoundTrip.div (w : IW) (d : Nat) (a : Nat) (b : Nat) (la : Nat) : RoundTrip.Statement (.div w d a b la) := by
  intro _ u h he
  obtain ⟨h0, h1, h2, h3⟩ := of_decide_eq_true h
  have hw := iw_code_lt w
  have e : pack [(1, 1), (6, 4), (5, d), (5, a), (5, b), (3, w.code), (3, 3), (4, la)] = u := by
    have : 0x6000009 + d * 128 + a * 4096 + b * 131072 + w.code * 4194304 + la * 268435456 = u := (Prod.mk.inj (Option.some.inj he)).2
    rw [← this]; simp only [pack]; ring
  have l : Fits [(1, 1), (6, 4), (5, d), (5, a), (5, b), (3, w.code), (3, 3), (4, la)] := ⟨by decide, by decide, h0, h1, h2, hw, by decide, h3, trivial⟩
  have f1_6 : fld u 1 6 = 4 := (fld_pack l e 1 1).trans rfl
  have f7_5 : fld u 7 5 = d := (fld_pack l e 2 1).trans rfl
  have f12_5 : fld u 12 5 = a := (fld_pack l e 3 1).trans rfl
  have f17_5 : fld u 17 5 = b := (fld_pack l e 4 1).trans rfl
  have f22_3 : fld u 22 3 = w.code := (fld_pack l e 5 1).trans rfl
  have f25_3 : fld u 25 3 = 3 := (fld_pack l e 6 1).trans rfl
  have f28_4 : fld u 28 4 = la := (fld_pack l e 7 1).trans rfl
  refine decodeWord_of_major ((fld_pack l e 0 1).trans rfl) ((decode32_Major04 f1_6).trans ?_) h
  simp [decMajor04, f7_5, f12_5, f17_5, f22_3, f25_3, f28_4, iw_ofCode, Option.map]

theorem RoundTrip.divn (w : IW) (d : Nat) (a : Nat) (b : Nat) (la : Nat) : RoundTrip.Statement (.divn w d a b la) := by
  intro _ u h he
  obtain ⟨h0, h1, h2, h3⟩ := of_decide_eq_true h
  have hw := iw_code_lt w
  have e : pack [(1, 1), (6, 4), (5, d), (5, a), (5, b), (3, w.code), (3, 4), (4, la)] = u := by
    have : 0x8000009 + d * 128 + a * 4096 + b * 131072 + w.code * 4194304 + la * 268435456 = u := (Prod.mk.inj (Option.some.inj he)).2
    rw [← this]; simp only [pack]; ring
  have l : Fits [(1, 1), (6, 4), (5, d), (5, a), (5, b), (3, w.code), (3, 4), (4, la)] := ⟨by decide, by decide, h0, h1, h2, hw, by decide, h3, trivial⟩
  have f1_6 : fld u 1 6 = 4 := (fld_pack l e 1 1).trans rfl
  have f7_5 : fld u 7 5 = d := (fld_pack l e 2 1).trans rfl
  have f12_5 : fld u 12 5 = a := (fld_pack l e 3 1).trans rfl
  have f17_5 : fld u 17 5 = b := (fld_pack l e 4 1).trans rfl
  have f22_3 : fld u 22 3 = w.code := (fld_pack l e 5 1).trans rfl
  have f25_3 : fld u 25 3 = 4 := (fld_pack l e 6 1).trans rfl
  have f28_4 : fld u 28 4 = la := (fld_pack l e 7 1).trans rfl
  refine decodeWord_of_major ((fld_pack l e 0 1).trans rfl) ((decode32_Major04 f1_6).trans ?_) h
  simp [decMajor04, f7_5, f12_5, f17_5, f22_3, f25_3, f28_4, iw_ofCode, Option.map]

theorem RoundTrip.rem (w : IW) (d : Nat) (a : Nat) (b : Nat) (la : Nat) : RoundTrip.Statement (.rem w d a b la) := by
  intro _ u h he
  obtain ⟨h0, h1, h2, h3⟩ := of_decide_eq_true h
  have hw := iw_code_lt w
  have e : pack [(1, 1), (6, 4), (5, d), (5, a), (5, b), (3, w.code), (3, 5), (4, la)] = u := by
    have : 0xA000009 + d * 128 + a * 4096 + b * 131072 + w.code * 4194304 + la * 268435456 = u := (Prod.mk.inj (Option.some.inj he)).2
    rw [← this]; simp only [pack]; ring
  have l : Fits [(1, 1), (6, 4), (5, d), (5, a), (5, b), (3, w.code), (3, 5), (4, la)] := ⟨by decide, by decide, h0, h1, h2, hw, by decide, h3, trivial⟩
  have f1_6 : fld u 1 6 = 4 := (fld_pack l e 1 1).trans rfl
  have f7_5 : fld u 7 5 = d := (fld_pack l e 2 1).trans rfl
  have f12_5 : fld u 12 5 = a := (fld_pack l e 3 1).trans rfl
  have f17_5 : fld u 17 5 = b := (fld_pack l e 4 1).trans rfl
  have f22_3 : fld u 22 3 = w.code := (fld_pack l e 5 1).trans rfl
  have f25_3 : fld u 25 3 = 5 := (fld_pack l e 6 1).trans rfl
  have f28_4 : fld u 28 4 = la := (fld_pack l e 7 1).trans rfl
  refine decodeWord_of_major ((fld_pack l e 0 1).trans rfl) ((decode32_Major04 f1_6).trans ?_) h
  simp [decMajor04, f7_5, f12_5, f17_5, f22_3, f25_3, f28_4, iw_ofCode, Option.map]

theorem RoundTrip.remn (w : IW) (d : Nat) (a : Nat) (b : Nat) (la : Nat) : RoundTrip.Statement (.remn w d a b la) := by
  intro _ u h he
  obtain ⟨h0, h1, h2, h3⟩ := of_decide_eq_true h
  have hw := iw_code_lt w
  have e : pack [(1, 1), (6, 4), (5, d), (5, a), (5, b), (3, w.code), (3, 6), (4, la)] = u := by
    have : 0xC000009 + d * 128 + a * 4096 + b * 131072 + w.code * 4194304 + la * 268435456 = u := (Prod.mk.inj (Option.some.inj he)).2
    rw [← this]; simp only [pack]; ring
  have l : Fits [(1, 1), (6, 4), (5, d), (5, a), (5, b), (3, w.code), (3, 6), (4, la)] := ⟨by decide, by decide, h0, h1, h2, hw, by decide, h3, trivial⟩
  have f1_6 : fld u 1 6 = 4 := (fld_pack l e 1 1).trans rfl
  have f7_5 : fld u 7 5 = d := (fld_pack l e 2 1).trans rfl
  have f12_5 : fld u 12 5 = a := (fld_pack l e 3 1).trans rfl
  have f17_5 : fld u 17 5 = b := (fld_pack l e 4 1).trans rfl
  have f22_3 : fld u 22 3 = w.code := (fld_pack l e 5 1).trans rfl
  have f25_3 : fld u 25 3 = 6 := (fld_pack l e 6 1).trans rfl
  have f28_4 : fld u 28 4 = la := (fld_pack l e 7 1).trans rfl
  refine decodeWord_of_major ((fld_pack l e 0 1).trans rfl) ((decode32_Major04 f1_6).trans ?_) h
  simp [decMajor04, f7_5, f12_5, f17_5, f22_3, f25_3, f28_4, iw_ofCode, Option.map]

theorem RoundTrip.ldhi (d : Nat) (imm : Nat) : RoundTrip.Statement (.ldhi d imm) := by
  intro _ u h he
  obtain ⟨h0, h1⟩ := of_decide_eq_true h
  have e : pack [(1, 1), (6, 5), (5, d), (20, imm)] = u := by
    have : 0xB + d * 128 + imm * 4096 = u := (Prod.mk.inj (Option.some.inj he)).2
    rw [← this]; simp only [pack]; ring
  have l : Fits [(1, 1), (6, 5), (5, d), (20, imm)] := ⟨by decide, by decide, h0, h1, trivial⟩
  have f1_6 : fld u 1 6 = 5 := (fld_pack l e 1 1).trans rfl
  have f7_5 : fld u 7 5 = d := (fld_pack l e 2 1).trans rfl
  have f12_20 : fld u 12 20 = imm := (fld_pack l e 3 1).trans rfl
  refine decodeWord_of_major ((fld_pack l e 0 1).trans rfl) ((decode32_Major05 f1_6).trans ?_) h
  simp [decMajor05, f7_5, f12_20]

theorem RoundTrip.pcrel (d : Nat) (imm : Nat) : RoundTrip.Statement (.pcrel d imm) := by
  intro _ u h he
  obtain ⟨h0, h1⟩ := of_decide_eq_true h
  have e : pack [(1, 1), (6, 6), (5, d), (20, imm)] = u := by
    have : 0xD + d * 128 + imm * 4096 = u := (Prod.mk.inj (Option.some.inj he)).2
    rw [← this]; simp only [pack]; ring
  have l : Fits [(1, 1), (6, 6), (5, d), (20, imm)] := ⟨by decide, by decide, h0, h1, trivial⟩
  have f1_6 : fld u 1 6 = 6 := (fld_pack l e 1 1).trans rfl
  have f7_5 : fld u 7 5 = d := (fld_pack l e 2 1).trans rfl
  have f12_20 : fld u 12 20 = imm := (fld_pack l e 3 1).trans rfl
  refine decodeWord_of_major ((fld_pack l e 0 1).trans rfl) ((decode32_Major06 f1_6).trans ?_) h
  simp [decMajor06, f7_5, f12_20]

theorem RoundTrip.ptag (d : Nat) (a : Nat) (b : Nat) : RoundTrip.Statement (.ptag d a b) := by
  intro _ u h he
  obtain ⟨h0, h1, h2⟩ := of_decide_eq_true h
  have e : pack [(1, 1), (6, 7), (5, d), (5, a), (5, b), (10, 0)] = u := by
    have : 0xF + d * 128 + a * 4096 + b * 131072 = u := (Prod.mk.inj (Option.some.inj he)).2
    rw [← this]; simp only [pack]; ring
  have l : Fits [(1, 1), (6, 7), (5, d), (5, a), (5, b), (10, 0)] := ⟨by decide, by decide, h0, h1, h2, by decide, trivial⟩
  have f1_6 : fld u 1 6 = 7 := (fld_pack l e 1 1).trans rfl
  have f7_5 : fld u 7 5 = d := (fld_pack l e 2 1).trans rfl
  have f12_5 : fld u 12 5 = a := (fld_pack l e 3 1).trans rfl
  have f17_5 : fld u 17 5 = b := (fld_pack l e 4 1).trans rfl
  have f22_10 : fld u 22 10 = 0 := (fld_pack l e 5 1).trans rfl
  refine decodeWord_of_major ((fld_pack l e 0 1).trans rfl) ((decode32_Major07 f1_6).trans ?_) h
  simp [decMajor07, f7_5, f12_5, f17_5, f22_10]

theorem RoundTrip.padd (d : Nat) (a : Nat) (b : Nat) : RoundTrip.Statement (.padd d a b) := by
  intro _ u h he
  obtain ⟨h0, h1, h2⟩ := of_decide_eq_true h
  have e : pack [(1, 1), (6, 7), (5, d), (5, a), (5, b), (10, 8)] = u := by
    have : 0x200000F + d * 128 + a * 4096 + b * 131072 = u := (Prod.mk.inj (Option.some.inj he)).2
    rw [← this]; simp only [pack]; ring
  have l : Fits [(1, 1), (6, 7), (5, d), (5, a), (5, b), (10, 8)] := ⟨by decide, by decide, h0, h1, h2, by decide, trivial⟩
  have f1_6 : fld u 1 6 = 7 := (fld_pack l e 1 1).trans rfl
  have f7_5 : fld u 7 5 = d := (fld_pack l e 2 1).trans rfl
  have f12_5 : fld u 12 5 = a := (fld_pack l e 3 1).trans rfl
  have f17_5 : fld u 17 5 = b := (fld_pack l e 4 1).trans rfl
  have f22_10 : fld u 22 10 = 8 := (fld_pack l e 5 1).trans rfl
  refine decodeWord_of_major ((fld_pack l e 0 1).trans rfl) ((decode32_Major07 f1_6).trans ?_) h
  simp [decMajor07, f7_5, f12_5, f17_5, f22_10]

theorem RoundTrip.psub (d : Nat) (a : Nat) (b : Nat) : RoundTrip.Statement (.psub d a b) := by
  intro _ u h he
  obtain ⟨h0, h1, h2⟩ := of_decide_eq_true h
  have e : pack [(1, 1), (6, 7), (5, d), (5, a), (5, b), (10, 16)] = u := by
    have : 0x400000F + d * 128 + a * 4096 + b * 131072 = u := (Prod.mk.inj (Option.some.inj he)).2
    rw [← this]; simp only [pack]; ring
  have l : Fits [(1, 1), (6, 7), (5, d), (5, a), (5, b), (10, 16)] := ⟨by decide, by decide, h0, h1, h2, by decide, trivial⟩
  have f1_6 : fld u 1 6 = 7 := (fld_pack l e 1 1).trans rfl
  have f7_5 : fld u 7 5 = d := (fld_pack l e 2 1).trans rfl
  have f12_5 : fld u 12 5 = a := (fld_pack l e 3 1).trans rfl
  have f17_5 : fld u 17 5 = b := (fld_pack l e 4 1).trans rfl
  have f22_10 : fld u 22 10 = 16 := (fld_pack l e 5 1).trans rfl
  refine decodeWord_of_major ((fld_pack l e 0 1).trans rfl) ((decode32_Major07 f1_6).trans ?_) h
  simp [decMajor07, f7_5, f12_5, f17_5, f22_10]

theorem RoundTrip.pfmt (d : Nat) (a : Nat) : RoundTrip.Statement (.pfmt d a) := by
  intro _ u h he
  obtain ⟨h0, h1⟩ := of_decide_eq_true h
  have e : pack [(1, 1), (6, 7), (5, d), (5, a), (5, 0), (10, 24)] = u := by
    have : 0x600000F + d * 128 + a * 4096 = u := (Prod.mk.inj (Option.some.inj he)).2
    rw [← this]; simp only [pack]; ring
  have l : Fits [(1, 1), (6, 7), (5, d), (5, a), (5, 0), (10, 24)] := ⟨by decide, by decide, h0, h1, by decide, by decide, trivial⟩
  have f1_6 : fld u 1 6 = 7 := (fld_pack l e 1 1).trans rfl
  have f7_5 : fld u 7 5 = d := (fld_pack l e 2 1).trans rfl
  have f12_5 : fld u 12 5 = a := (fld_pack l e 3 1).trans rfl
  have f17_15 : fld u 17 15 = 768 := (fld_pack l e 4 2).trans (by simp [pack]; try omega)
  have f22_10 : fld u 22 10 = 24 := (fld_pack l e 5 1).trans rfl
  refine decodeWord_of_major ((fld_pack l e 0 1).trans rfl) ((decode32_Major07 f1_6).trans ?_) h
  simp [decMajor07, f7_5, f12_5, f17_15, f22_10]

theorem RoundTrip.pclr (d : Nat) (a : Nat) : RoundTrip.Statement (.pclr d a) := by
  intro _ u h he
  obtain ⟨h0, h1⟩ := of_decide_eq_true h
  have e : pack [(1, 1), (6, 7), (5, d), (5, a), (5, 0), (10, 32)] = u := by
    have : 0x800000F + d * 128 + a * 4096 = u := (Prod.mk.inj (Option.some.inj he)).2
    rw [← this]; simp only [pack]; ring
  have l : Fits [(1, 1), (6, 7), (5, d), (5, a), (5, 0), (10, 32)] := ⟨by decide, by decide, h0, h1, by decide, by decide, trivial⟩
  have f1_6 : fld u 1 6 = 7 := (fld_pack l e 1 1).trans rfl
  have f7_5 : fld u 7 5 = d := (fld_pack l e 2 1).trans rfl
  have f12_5 : fld u 12 5 = a := (fld_pack l e 3 1).trans rfl
  have f17_15 : fld u 17 15 = 1024 := (fld_pack l e 4 2).trans (by simp [pack]; try omega)
  have f22_10 : fld u 22 10 = 32 := (fld_pack l e 5 1).trans rfl
  refine decodeWord_of_major ((fld_pack l e 0 1).trans rfl) ((decode32_Major07 f1_6).trans ?_) h
  simp [decMajor07, f7_5, f12_5, f17_15, f22_10]

theorem RoundTrip.beq (a : Nat) (b : Nat) (imm : Nat) : RoundTrip.Statement (.beq a b imm) := by
  intro _ u h he
  obtain ⟨h0, h1, h2⟩ := of_decide_eq_true h
  have e : pack [(1, 1), (6, 8), (5, a), (5, b), (3, 0), (12, imm)] = u := by
    have : 0x11 + a * 128 + b * 4096 + imm * 1048576 = u := (Prod.mk.inj (Option.some.inj he)).2
    rw [← this]; simp only [pack]; ring
  have l : Fits [(1, 1), (6, 8), (5, a), (5, b), (3, 0), (12, imm)] := ⟨by decide, by decide, h0, h1, by decide, h2, trivial⟩
  have f1_6 : fld u 1 6 = 8 := (fld_pack l e 1 1).trans rfl
  have f7_5 : fld u 7 5 = a := (fld_pack l e 2 1).trans rfl
  have f12_5 : fld u 12 5 = b := (fld_pack l e 3 1).trans rfl
  have f17_3 : fld u 17 3 = 0 := (fld_pack l e 4 1).trans rfl
  have f20_12 : fld u 20 12 = imm := (fld_pack l e 5 1).trans rfl
  refine decodeWord_of_major ((fld_pack l e 0 1).trans rfl) ((decode32_Major08 f1_6).trans ?_) h
  simp [decMajor08, f7_5, f12_5, f17_3, f20_12]

theorem RoundTrip.bne (a : Nat) (b : Nat) (imm : Nat) : RoundTrip.Statement (.bne a b imm) := by
  intro _ u h he
  obtain ⟨h0, h1, h2⟩ := of_decide_eq_true h
  have e : pack [(1, 1), (6, 8), (5, a), (5, b), (3, 1), (12, imm)] = u := by
    have : 0x20011 + a * 128 + b * 4096 + imm * 1048576 = u := (Prod.mk.inj (Option.some.inj he)).2
    rw [← this]; simp only [pack]; ring
  have l : Fits [(1, 1), (6, 8), (5, a), (5, b), (3, 1), (12, imm)] := ⟨by decide, by decide, h0, h1, by decide, h2, trivial⟩
  have f1_6 : fld u 1 6 = 8 := (fld_pack l e 1 1).trans rfl
  have f7_5 : fld u 7 5 = a := (fld_pack l e 2 1).trans rfl
  have f12_5 : fld u 12 5 = b := (fld_pack l e 3 1).trans rfl
  have f17_3 : fld u 17 3 = 1 := (fld_pack l e 4 1).trans rfl
  have f20_12 : fld u 20 12 = imm := (fld_pack l e 5 1).trans rfl
  refine decodeWord_of_major ((fld_pack l e 0 1).trans rfl) ((decode32_Major08 f1_6).trans ?_) h
  simp [decMajor08, f7_5, f12_5, f17_3, f20_12]

theorem RoundTrip.blt (a : Nat) (b : Nat) (imm : Nat) : RoundTrip.Statement (.blt a b imm) := by
  intro _ u h he
  obtain ⟨h0, h1, h2⟩ := of_decide_eq_true h
  have e : pack [(1, 1), (6, 8), (5, a), (5, b), (3, 2), (12, imm)] = u := by
    have : 0x40011 + a * 128 + b * 4096 + imm * 1048576 = u := (Prod.mk.inj (Option.some.inj he)).2
    rw [← this]; simp only [pack]; ring
  have l : Fits [(1, 1), (6, 8), (5, a), (5, b), (3, 2), (12, imm)] := ⟨by decide, by decide, h0, h1, by decide, h2, trivial⟩
  have f1_6 : fld u 1 6 = 8 := (fld_pack l e 1 1).trans rfl
  have f7_5 : fld u 7 5 = a := (fld_pack l e 2 1).trans rfl
  have f12_5 : fld u 12 5 = b := (fld_pack l e 3 1).trans rfl
  have f17_3 : fld u 17 3 = 2 := (fld_pack l e 4 1).trans rfl
  have f20_12 : fld u 20 12 = imm := (fld_pack l e 5 1).trans rfl
  refine decodeWord_of_major ((fld_pack l e 0 1).trans rfl) ((decode32_Major08 f1_6).trans ?_) h
  simp [decMajor08, f7_5, f12_5, f17_3, f20_12]

theorem RoundTrip.bge (a : Nat) (b : Nat) (imm : Nat) : RoundTrip.Statement (.bge a b imm) := by
  intro _ u h he
  obtain ⟨h0, h1, h2⟩ := of_decide_eq_true h
  have e : pack [(1, 1), (6, 8), (5, a), (5, b), (3, 3), (12, imm)] = u := by
    have : 0x60011 + a * 128 + b * 4096 + imm * 1048576 = u := (Prod.mk.inj (Option.some.inj he)).2
    rw [← this]; simp only [pack]; ring
  have l : Fits [(1, 1), (6, 8), (5, a), (5, b), (3, 3), (12, imm)] := ⟨by decide, by decide, h0, h1, by decide, h2, trivial⟩
  have f1_6 : fld u 1 6 = 8 := (fld_pack l e 1 1).trans rfl
  have f7_5 : fld u 7 5 = a := (fld_pack l e 2 1).trans rfl
  have f12_5 : fld u 12 5 = b := (fld_pack l e 3 1).trans rfl
  have f17_3 : fld u 17 3 = 3 := (fld_pack l e 4 1).trans rfl
  have f20_12 : fld u 20 12 = imm := (fld_pack l e 5 1).trans rfl
  refine decodeWord_of_major ((fld_pack l e 0 1).trans rfl) ((decode32_Major08 f1_6).trans ?_) h
  simp [decMajor08, f7_5, f12_5, f17_3, f20_12]

theorem RoundTrip.bltn (a : Nat) (b : Nat) (imm : Nat) : RoundTrip.Statement (.bltn a b imm) := by
  intro _ u h he
  obtain ⟨h0, h1, h2⟩ := of_decide_eq_true h
  have e : pack [(1, 1), (6, 8), (5, a), (5, b), (3, 4), (12, imm)] = u := by
    have : 0x80011 + a * 128 + b * 4096 + imm * 1048576 = u := (Prod.mk.inj (Option.some.inj he)).2
    rw [← this]; simp only [pack]; ring
  have l : Fits [(1, 1), (6, 8), (5, a), (5, b), (3, 4), (12, imm)] := ⟨by decide, by decide, h0, h1, by decide, h2, trivial⟩
  have f1_6 : fld u 1 6 = 8 := (fld_pack l e 1 1).trans rfl
  have f7_5 : fld u 7 5 = a := (fld_pack l e 2 1).trans rfl
  have f12_5 : fld u 12 5 = b := (fld_pack l e 3 1).trans rfl
  have f17_3 : fld u 17 3 = 4 := (fld_pack l e 4 1).trans rfl
  have f20_12 : fld u 20 12 = imm := (fld_pack l e 5 1).trans rfl
  refine decodeWord_of_major ((fld_pack l e 0 1).trans rfl) ((decode32_Major08 f1_6).trans ?_) h
  simp [decMajor08, f7_5, f12_5, f17_3, f20_12]

theorem RoundTrip.bgen (a : Nat) (b : Nat) (imm : Nat) : RoundTrip.Statement (.bgen a b imm) := by
  intro _ u h he
  obtain ⟨h0, h1, h2⟩ := of_decide_eq_true h
  have e : pack [(1, 1), (6, 8), (5, a), (5, b), (3, 5), (12, imm)] = u := by
    have : 0xA0011 + a * 128 + b * 4096 + imm * 1048576 = u := (Prod.mk.inj (Option.some.inj he)).2
    rw [← this]; simp only [pack]; ring
  have l : Fits [(1, 1), (6, 8), (5, a), (5, b), (3, 5), (12, imm)] := ⟨by decide, by decide, h0, h1, by decide, h2, trivial⟩
  have f1_6 : fld u 1 6 = 8 := (fld_pack l e 1 1).trans rfl
  have f7_5 : fld u 7 5 = a := (fld_pack l e 2 1).trans rfl
  have f12_5 : fld u 12 5 = b := (fld_pack l e 3 1).trans rfl
  have f17_3 : fld u 17 3 = 5 := (fld_pack l e 4 1).trans rfl
  have f20_12 : fld u 20 12 = imm := (fld_pack l e 5 1).trans rfl
  refine decodeWord_of_major ((fld_pack l e 0 1).trans rfl) ((decode32_Major08 f1_6).trans ?_) h
  simp [decMajor08, f7_5, f12_5, f17_3, f20_12]

theorem RoundTrip.bbs (a : Nat) (b : Nat) (imm : Nat) : RoundTrip.Statement (.bbs a b imm) := by
  intro _ u h he
  obtain ⟨h0, h1, h2⟩ := of_decide_eq_true h
  have e : pack [(1, 1), (6, 8), (5, a), (5, b), (3, 6), (12, imm)] = u := by
    have : 0xC0011 + a * 128 + b * 4096 + imm * 1048576 = u := (Prod.mk.inj (Option.some.inj he)).2
    rw [← this]; simp only [pack]; ring
  have l : Fits [(1, 1), (6, 8), (5, a), (5, b), (3, 6), (12, imm)] := ⟨by decide, by decide, h0, h1, by decide, h2, trivial⟩
  have f1_6 : fld u 1 6 = 8 := (fld_pack l e 1 1).trans rfl
  have f7_5 : fld u 7 5 = a := (fld_pack l e 2 1).trans rfl
  have f12_5 : fld u 12 5 = b := (fld_pack l e 3 1).trans rfl
  have f17_3 : fld u 17 3 = 6 := (fld_pack l e 4 1).trans rfl
  have f20_12 : fld u 20 12 = imm := (fld_pack l e 5 1).trans rfl
  refine decodeWord_of_major ((fld_pack l e 0 1).trans rfl) ((decode32_Major08 f1_6).trans ?_) h
  simp [decMajor08, f7_5, f12_5, f17_3, f20_12]

theorem RoundTrip.bbc (a : Nat) (b : Nat) (imm : Nat) : RoundTrip.Statement (.bbc a b imm) := by
  intro _ u h he
  obtain ⟨h0, h1, h2⟩ := of_decide_eq_true h
  have e : pack [(1, 1), (6, 8), (5, a), (5, b), (3, 7), (12, imm)] = u := by
    have : 0xE0011 + a * 128 + b * 4096 + imm * 1048576 = u := (Prod.mk.inj (Option.some.inj he)).2
    rw [← this]; simp only [pack]; ring
  have l : Fits [(1, 1), (6, 8), (5, a), (5, b), (3, 7), (12, imm)] := ⟨by decide, by decide, h0, h1, by decide, h2, trivial⟩
  have f1_6 : fld u 1 6 = 8 := (fld_pack l e 1 1).trans rfl
  have f7_5 : fld u 7 5 = a := (fld_pack l e 2 1).trans rfl
  have f12_5 : fld u 12 5 = b := (fld_pack l e 3 1).trans rfl
  have f17_3 : fld u 17 3 = 7 := (fld_pack l e 4 1).trans rfl
  have f20_12 : fld u 20 12 = imm := (fld_pack l e 5 1).trans rfl
  refine decodeWord_of_major ((fld_pack l e 0 1).trans rfl) ((decode32_Major08 f1_6).trans ?_) h
  simp [decMajor08, f7_5, f12_5, f17_3, f20_12]

theorem RoundTrip.jl (d : Nat) (imm : Nat) : RoundTrip.Statement (.jl d imm) := by
  intro _ u h he
  obtain ⟨h0, h1⟩ := of_decide_eq_true h
  have e : pack [(1, 1), (6, 9), (5, d), (20, imm)] = u := by
    have : 0x13 + d * 128 + imm * 4096 = u := (Prod.mk.inj (Option.some.inj he)).2
    rw [← this]; simp only [pack]; ring
  have l : Fits [(1, 1), (6, 9), (5, d), (20, imm)] := ⟨by decide, by decide, h0, h1, trivial⟩
  have f1_6 : fld u 1 6 = 9 := (fld_pack l e 1 1).trans rfl
  have f7_5 : fld u 7 5 = d := (fld_pack l e 2 1).trans rfl
  have f12_20 : fld u 12 20 = imm := (fld_pack l e 3 1).trans rfl
  refine decodeWord_of_major ((fld_pack l e 0 1).trans rfl) ((decode32_Major09 f1_6).trans ?_) h
  simp [decMajor09, f7_5, f12_20]

theorem RoundTrip.jlr (d : Nat) (a : Nat) (imm : Nat) : RoundTrip.Statement (.jlr d a imm) := by
  intro _ u h he
  obtain ⟨h0, h1, h2⟩ := of_decide_eq_true h
  have e : pack [(1, 1), (6, 10), (5, d), (5, a), (3, 0), (12, imm)] = u := by
    have : 0x15 + d * 128 + a * 4096 + imm * 1048576 = u := (Prod.mk.inj (Option.some.inj he)).2
    rw [← this]; simp only [pack]; ring
  have l : Fits [(1, 1), (6, 10), (5, d), (5, a), (3, 0), (12, imm)] := ⟨by decide, by decide, h0, h1, by decide, h2, trivial⟩
  have f1_6 : fld u 1 6 = 10 := (fld_pack l e 1 1).trans rfl
  have f7_5 : fld u 7 5 = d := (fld_pack l e 2 1).trans rfl
  have f12_5 : fld u 12 5 = a := (fld_pack l e 3 1).trans rfl
  have f17_3 : fld u 17 3 = 0 := (fld_pack l e 4 1).trans rfl
  have f20_12 : fld u 20 12 = imm := (fld_pack l e 5 1).trans rfl
  refine decodeWord_of_major ((fld_pack l e 0 1).trans rfl) ((decode32_Major0A f1_6).trans ?_) h
  simp [decMajor0A, f7_5, f12_5, f17_3, f20_12]

theorem RoundTrip.cMv (d : Nat) (src : Nat) : RoundTrip.Statement (.cMv d src) := by
  intro _ u h he
  obtain ⟨h0, h1, -⟩ := of_decide_eq_true h
  have e : pack [(1, 0), (4, 0), (5, d), (5, src), (1, 0)] = u := by
    have : 0x0 + d * 32 + src * 1024 = u := (Prod.mk.inj (Option.some.inj he)).2
    rw [← this]; simp only [pack]; ring
  have l : Fits [(1, 0), (4, 0), (5, d), (5, src), (1, 0)] := ⟨by decide, by decide, h0, h1, by decide, trivial⟩
  have f1_4 : fld u 1 4 = 0 := (fld_pack l e 1 1).trans rfl
  have f5_5 : fld u 5 5 = d := (fld_pack l e 2 1).trans rfl
  have f10_5 : fld u 10 5 = src := (fld_pack l e 3 1).trans rfl
  have f15_1 : fld u 15 1 = 0 := (fld_pack l e 4 1).trans rfl
  refine decodeWord_of_short ((fld_pack l e 0 1).trans rfl) ((decode16_Short0 f1_4).trans ?_) h
  simp [decShort0, f5_5, f10_5, f15_1]

theorem RoundTrip.cAdd (d : Nat) (src : Nat) : RoundTrip.Statement (.cAdd d src) := by
  intro _ u h he
  obtain ⟨h0, h1, -⟩ := of_decide_eq_true h
  have e : pack [(1, 0), (4, 0), (5, d), (5, src), (1, 1)] = u := by
    have : 0x8000 + d * 32 + src * 1024 = u := (Prod.mk.inj (Option.some.inj he)).2
    rw [← this]; simp only [pack]; ring
  have l : Fits [(1, 0), (4, 0), (5, d), (5, src), (1, 1)] := ⟨by decide, by decide, h0, h1, by decide, trivial⟩
  have f1_4 : fld u 1 4 = 0 := (fld_pack l e 1 1).trans rfl
  have f5_5 : fld u 5 5 = d := (fld_pack l e 2 1).trans rfl
  have f10_5 : fld u 10 5 = src := (fld_pack l e 3 1).trans rfl
  have f15_1 : fld u 15 1 = 1 := (fld_pack l e 4 1).trans rfl
  refine decodeWord_of_short ((fld_pack l e 0 1).trans rfl) ((decode16_Short0 f1_4).trans ?_) h
  simp [decShort0, f5_5, f10_5, f15_1]

theorem RoundTrip.cSub (d : Nat) (src : Nat) : RoundTrip.Statement (.cSub d src) := by
  intro _ u h he
  obtain ⟨h0, h1, -⟩ := of_decide_eq_true h
  have e : pack [(1, 0), (4, 1), (5, d), (5, src), (1, 0)] = u := by
    have : 0x2 + d * 32 + src * 1024 = u := (Prod.mk.inj (Option.some.inj he)).2
    rw [← this]; simp only [pack]; ring
  have l : Fits [(1, 0), (4, 1), (5, d), (5, src), (1, 0)] := ⟨by decide, by decide, h0, h1, by decide, trivial⟩
  have f1_4 : fld u 1 4 = 1 := (fld_pack l e 1 1).trans rfl
  have f5_5 : fld u 5 5 = d := (fld_pack l e 2 1).trans rfl
  have f10_5 : fld u 10 5 = src := (fld_pack l e 3 1).trans rfl
  have f15_1 : fld u 15 1 = 0 := (fld_pack l e 4 1).trans rfl
  refine decodeWord_of_short ((fld_pack l e 0 1).trans rfl) ((decode16_Short1 f1_4).trans ?_) h
  simp [decShort1, f5_5, f10_5, f15_1]

theorem RoundTrip.cXor (d : Nat) (src : Nat) : RoundTrip.Statement (.cXor d src) := by
  intro _ u h he
  obtain ⟨h0, h1, -⟩ := of_decide_eq_true h
  have e : pack [(1, 0), (4, 1), (5, d), (5, src), (1, 1)] = u := by
    have : 0x8002 + d * 32 + src * 1024 = u := (Prod.mk.inj (Option.some.inj he)).2
    rw [← this]; simp only [pack]; ring
  have l : Fits [(1, 0), (4, 1), (5, d), (5, src), (1, 1)] := ⟨by decide, by decide, h0, h1, by decide, trivial⟩
  have f1_4 : fld u 1 4 = 1 := (fld_pack l e 1 1).trans rfl
  have f5_5 : fld u 5 5 = d := (fld_pack l e 2 1).trans rfl
  have f10_5 : fld u 10 5 = src := (fld_pack l e 3 1).trans rfl
  have f15_1 : fld u 15 1 = 1 := (fld_pack l e 4 1).trans rfl
  refine decodeWord_of_short ((fld_pack l e 0 1).trans rfl) ((decode16_Short1 f1_4).trans ?_) h
  simp [decShort1, f5_5, f10_5, f15_1]

theorem RoundTrip.cAddi (d : Nat) (imm : Nat) : RoundTrip.Statement (.cAddi d imm) := by
  intro _ u h he
  obtain ⟨h0, h1, -⟩ := of_decide_eq_true h
  have e : pack [(1, 0), (4, 2), (5, d), (6, imm)] = u := by
    have : 0x4 + d * 32 + imm * 1024 = u := (Prod.mk.inj (Option.some.inj he)).2
    rw [← this]; simp only [pack]; ring
  have l : Fits [(1, 0), (4, 2), (5, d), (6, imm)] := ⟨by decide, by decide, h0, h1, trivial⟩
  have f1_4 : fld u 1 4 = 2 := (fld_pack l e 1 1).trans rfl
  have f5_5 : fld u 5 5 = d := (fld_pack l e 2 1).trans rfl
  have f10_6 : fld u 10 6 = imm := (fld_pack l e 3 1).trans rfl
  refine decodeWord_of_short ((fld_pack l e 0 1).trans rfl) ((decode16_Short2 f1_4).trans ?_) h
  simp [decShort2, f5_5, f10_6]

theorem RoundTrip.cLi (d : Nat) (imm : Nat) : RoundTrip.Statement (.cLi d imm) := by
  intro _ u h he
  obtain ⟨h0, h1, -⟩ := of_decide_eq_true h
  have e : pack [(1, 0), (4, 3), (5, d), (6, imm)] = u := by
    have : 0x6 + d * 32 + imm * 1024 = u := (Prod.mk.inj (Option.some.inj he)).2
    rw [← this]; simp only [pack]; ring
  have l : Fits [(1, 0), (4, 3), (5, d), (6, imm)] := ⟨by decide, by decide, h0, h1, trivial⟩
  have f1_4 : fld u 1 4 = 3 := (fld_pack l e 1 1).trans rfl
  have f5_5 : fld u 5 5 = d := (fld_pack l e 2 1).trans rfl
  have f10_6 : fld u 10 6 = imm := (fld_pack l e 3 1).trans rfl
  refine decodeWord_of_short ((fld_pack l e 0 1).trans rfl) ((decode16_Short3 f1_4).trans ?_) h
  simp [decShort3, f5_5, f10_6]

theorem RoundTrip.cLd (d : Nat) (off : Nat) : RoundTrip.Statement (.cLd d off) := by
  intro _ u h he
  obtain ⟨h0, h1, -⟩ := of_decide_eq_true h
  have e : pack [(1, 0), (4, 4), (5, d), (6, off)] = u := by
    have : 0x8 + d * 32 + off * 1024 = u := (Prod.mk.inj (Option.some.inj he)).2
    rw [← this]; simp only [pack]; ring
  have l : Fits [(1, 0), (4, 4), (5, d), (6, off)] := ⟨by decide, by decide, h0, h1, trivial⟩
  have f1_4 : fld u 1 4 = 4 := (fld_pack l e 1 1).trans rfl
  have f5_5 : fld u 5 5 = d := (fld_pack l e 2 1).trans rfl
  have f10_6 : fld u 10 6 = off := (fld_pack l e 3 1).trans rfl
  refine decodeWord_of_short ((fld_pack l e 0 1).trans rfl) ((decode16_Short4 f1_4).trans ?_) h
  simp [decShort4, f5_5, f10_6]

theorem RoundTrip.cSt (b : Nat) (off : Nat) : RoundTrip.Statement (.cSt b off) := by
  intro _ u h he
  obtain ⟨h0, h1⟩ := of_decide_eq_true h
  have e : pack [(1, 0), (4, 5), (5, b), (6, off)] = u := by
    have : 0xA + b * 32 + off * 1024 = u := (Prod.mk.inj (Option.some.inj he)).2
    rw [← this]; simp only [pack]; ring
  have l : Fits [(1, 0), (4, 5), (5, b), (6, off)] := ⟨by decide, by decide, h0, h1, trivial⟩
  have f1_4 : fld u 1 4 = 5 := (fld_pack l e 1 1).trans rfl
  have f5_5 : fld u 5 5 = b := (fld_pack l e 2 1).trans rfl
  have f10_6 : fld u 10 6 = off := (fld_pack l e 3 1).trans rfl
  refine decodeWord_of_short ((fld_pack l e 0 1).trans rfl) ((decode16_Short5 f1_4).trans ?_) h
  simp [decShort5, f5_5, f10_6]

theorem RoundTrip.cBz (a : Nat) (imm : Nat) : RoundTrip.Statement (.cBz a imm) := by
  intro _ u h he
  obtain ⟨h0, h1⟩ := of_decide_eq_true h
  have e : pack [(1, 0), (4, 6), (5, a), (6, imm)] = u := by
    have : 0xC + a * 32 + imm * 1024 = u := (Prod.mk.inj (Option.some.inj he)).2
    rw [← this]; simp only [pack]; ring
  have l : Fits [(1, 0), (4, 6), (5, a), (6, imm)] := ⟨by decide, by decide, h0, h1, trivial⟩
  have f1_4 : fld u 1 4 = 6 := (fld_pack l e 1 1).trans rfl
  have f5_5 : fld u 5 5 = a := (fld_pack l e 2 1).trans rfl
  have f10_6 : fld u 10 6 = imm := (fld_pack l e 3 1).trans rfl
  refine decodeWord_of_short ((fld_pack l e 0 1).trans rfl) ((decode16_Short6 f1_4).trans ?_) h
  simp [decShort6, f5_5, f10_6]

theorem RoundTrip.cBnz (a : Nat) (imm : Nat) : RoundTrip.Statement (.cBnz a imm) := by
  intro _ u h he
  obtain ⟨h0, h1⟩ := of_decide_eq_true h
  have e : pack [(1, 0), (4, 7), (5, a), (6, imm)] = u := by
    have : 0xE + a * 32 + imm * 1024 = u := (Prod.mk.inj (Option.some.inj he)).2
    rw [← this]; simp only [pack]; ring
  have l : Fits [(1, 0), (4, 7), (5, a), (6, imm)] := ⟨by decide, by decide, h0, h1, trivial⟩
  have f1_4 : fld u 1 4 = 7 := (fld_pack l e 1 1).trans rfl
  have f5_5 : fld u 5 5 = a := (fld_pack l e 2 1).trans rfl
  have f10_6 : fld u 10 6 = imm := (fld_pack l e 3 1).trans rfl
  refine decodeWord_of_short ((fld_pack l e 0 1).trans rfl) ((decode16_Short7 f1_4).trans ?_) h
  simp [decShort7, f5_5, f10_6]

theorem RoundTrip.cSk (a : Nat) (cond : Nat) (cnt : Nat) : RoundTrip.Statement (.cSk a cond cnt) := by
  intro _ u h he
  obtain ⟨h0, h1, h2, h3⟩ := of_decide_eq_true h
  have e : pack [(1, 0), (4, 8), (5, a), (3, cnt), (3, cond)] = u := by
    have : 0x10 + a * 32 + cnt * 1024 + cond * 8192 = u := (Prod.mk.inj (Option.some.inj he)).2
    rw [← this]; simp only [pack]; ring
  have l : Fits [(1, 0), (4, 8), (5, a), (3, cnt), (3, cond)] := ⟨by decide, by decide, h0, h2, h1, trivial⟩
  have f1_4 : fld u 1 4 = 8 := (fld_pack l e 1 1).trans rfl
  have f5_5 : fld u 5 5 = a := (fld_pack l e 2 1).trans rfl
  have f10_3 : fld u 10 3 = cnt := (fld_pack l e 3 1).trans rfl
  have f13_3 : fld u 13 3 = cond := (fld_pack l e 4 1).trans rfl
  refine decodeWord_of_short ((fld_pack l e 0 1).trans rfl) ((decode16_Short8 f1_4).trans ?_) h
  simp [decShort8, f5_5, f10_3, f13_3]

theorem RoundTrip.cSll (d : Nat) (imm : Nat) : RoundTrip.Statement (.cSll d imm) := by
  intro _ u h he
  obtain ⟨h0, h1, -⟩ := of_decide_eq_true h
  have e : pack [(1, 0), (4, 9), (5, d), (5, imm), (1, 0)] = u := by
    have : 0x12 + d * 32 + imm * 1024 = u := (Prod.mk.inj (Option.some.inj he)).2
    rw [← this]; simp only [pack]; ring
  have l : Fits [(1, 0), (4, 9), (5, d), (5, imm), (1, 0)] := ⟨by decide, by decide, h0, h1, by decide, trivial⟩
  have f1_4 : fld u 1 4 = 9 := (fld_pack l e 1 1).trans rfl
  have f5_5 : fld u 5 5 = d := (fld_pack l e 2 1).trans rfl
  have f10_5 : fld u 10 5 = imm := (fld_pack l e 3 1).trans rfl
  have f15_1 : fld u 15 1 = 0 := (fld_pack l e 4 1).trans rfl
  refine decodeWord_of_short ((fld_pack l e 0 1).trans rfl) ((decode16_Short9 f1_4).trans ?_) h
  simp [decShort9, f5_5, f10_5, f15_1]

theorem RoundTrip.cSrl (d : Nat) (imm : Nat) : RoundTrip.Statement (.cSrl d imm) := by
  intro _ u h he
  obtain ⟨h0, h1, -⟩ := of_decide_eq_true h
  have e : pack [(1, 0), (4, 9), (5, d), (5, imm), (1, 1)] = u := by
    have : 0x8012 + d * 32 + imm * 1024 = u := (Prod.mk.inj (Option.some.inj he)).2
    rw [← this]; simp only [pack]; ring
  have l : Fits [(1, 0), (4, 9), (5, d), (5, imm), (1, 1)] := ⟨by decide, by decide, h0, h1, by decide, trivial⟩
  have f1_4 : fld u 1 4 = 9 := (fld_pack l e 1 1).trans rfl
  have f5_5 : fld u 5 5 = d := (fld_pack l e 2 1).trans rfl
  have f10_5 : fld u 10 5 = imm := (fld_pack l e 3 1).trans rfl
  have f15_1 : fld u 15 1 = 1 := (fld_pack l e 4 1).trans rfl
  refine decodeWord_of_short ((fld_pack l e 0 1).trans rfl) ((decode16_Short9 f1_4).trans ?_) h
  simp [decShort9, f5_5, f10_5, f15_1]

theorem RoundTrip.cSra (d : Nat) (imm : Nat) : RoundTrip.Statement (.cSra d imm) := by
  intro _ u h he
  obtain ⟨h0, h1, -⟩ := of_decide_eq_true h
  have e : pack [(1, 0), (4, 10), (5, d), (5, imm), (1, 0)] = u := by
    have : 0x14 + d * 32 + imm * 1024 = u := (Prod.mk.inj (Option.some.inj he)).2
    rw [← this]; simp only [pack]; ring
  have l : Fits [(1, 0), (4, 10), (5, d), (5, imm), (1, 0)] := ⟨by decide, by decide, h0, h1, by decide, trivial⟩
  have f1_4 : fld u 1 4 = 10 := (fld_pack l e 1 1).trans rfl
  have f5_5 : fld u 5 5 = d := (fld_pack l e 2 1).trans rfl
  have f10_5 : fld u 10 5 = imm := (fld_pack l e 3 1).trans rfl
  have f15_1 : fld u 15 1 = 0 := (fld_pack l e 4 1).trans rfl
  refine decodeWord_of_short ((fld_pack l e 0 1).trans rfl) ((decode16_Short10 f1_4).trans ?_) h
  simp [decShort10, f5_5, f10_5, f15_1]

theorem RoundTrip.cAndi (d : Nat) (imm : Nat) : RoundTrip.Statement (.cAndi d imm) := by
  intro _ u h he
  obtain ⟨h0, h1, -⟩ := of_decide_eq_true h
  have e : pack [(1, 0), (4, 10), (5, d), (5, imm), (1, 1)] = u := by
    have : 0x8014 + d * 32 + imm * 1024 = u := (Prod.mk.inj (Option.some.inj he)).2
    rw [← this]; simp only [pack]; ring
  have l : Fits [(1, 0), (4, 10), (5, d), (5, imm), (1, 1)] := ⟨by decide, by decide, h0, h1, by decide, trivial⟩
  have f1_4 : fld u 1 4 = 10 := (fld_pack l e 1 1).trans rfl
  have f5_5 : fld u 5 5 = d := (fld_pack l e 2 1).trans rfl
  have f10_5 : fld u 10 5 = imm := (fld_pack l e 3 1).trans rfl
  have f15_1 : fld u 15 1 = 1 := (fld_pack l e 4 1).trans rfl
  refine decodeWord_of_short ((fld_pack l e 0 1).trans rfl) ((decode16_Short10 f1_4).trans ?_) h
  simp [decShort10, f5_5, f10_5, f15_1]

theorem RoundTrip.cJ (imm : Nat) : RoundTrip.Statement (.cJ imm) := by
  intro _ u h he
  have h0 := of_decide_eq_true h
  have e : pack [(1, 0), (4, 11), (11, imm)] = u := by
    have : 0x16 + imm * 32 = u := (Prod.mk.inj (Option.some.inj he)).2
    rw [← this]; simp only [pack]; ring
  have l : Fits [(1, 0), (4, 11), (11, imm)] := ⟨by decide, by decide, h0, trivial⟩
  have f1_4 : fld u 1 4 = 11 := (fld_pack l e 1 1).trans rfl
  have f5_11 : fld u 5 11 = imm := (fld_pack l e 2 1).trans rfl
  refine decodeWord_of_short ((fld_pack l e 0 1).trans rfl) ((decode16_Short11 f1_4).trans ?_) h
  simp [decShort11, f5_11]

theorem RoundTrip.cJr (src : Nat) : RoundTrip.Statement (.cJr src) := by
  intro _ u h he
  have h0 := of_decide_eq_true h
  have e : pack [(1, 0), (4, 12), (5, 0), (5, src), (1, 0)] = u := by
    have : 0x18 + src * 1024 = u := (Prod.mk.inj (Option.some.inj he)).2
    rw [← this]; simp only [pack]; ring
  have l : Fits [(1, 0), (4, 12), (5, 0), (5, src), (1, 0)] := ⟨by decide, by decide, by decide, h0, by decide, trivial⟩
  have f1_4 : fld u 1 4 = 12 := (fld_pack l e 1 1).trans rfl
  have f5_5 : fld u 5 5 = 0 := (fld_pack l e 2 1).trans rfl
  have f10_5 : fld u 10 5 = src := (fld_pack l e 3 1).trans rfl
  have f15_1 : fld u 15 1 = 0 := (fld_pack l e 4 1).trans rfl
  refine decodeWord_of_short ((fld_pack l e 0 1).trans rfl) ((decode16_Short12 f1_4).trans ?_) h
  simp [decShort12, f5_5, f10_5, f15_1]

theorem RoundTrip.cJlr (d : Nat) (src : Nat) : RoundTrip.Statement (.cJlr d src) := by
  intro _ u h he
  obtain ⟨h0, h1, -⟩ := of_decide_eq_true h
  have e : pack [(1, 0), (4, 12), (5, d), (5, src), (1, 1)] = u := by
    have : 0x8018 + d * 32 + src * 1024 = u := (Prod.mk.inj (Option.some.inj he)).2
    rw [← this]; simp only [pack]; ring
  have l : Fits [(1, 0), (4, 12), (5, d), (5, src), (1, 1)] := ⟨by decide, by decide, h0, h1, by decide, trivial⟩
  have f1_4 : fld u 1 4 = 12 := (fld_pack l e 1 1).trans rfl
  have f5_5 : fld u 5 5 = d := (fld_pack l e 2 1).trans rfl
  have f10_5 : fld u 10 5 = src := (fld_pack l e 3 1).trans rfl
  have f15_1 : fld u 15 1 = 1 := (fld_pack l e 4 1).trans rfl
  refine decodeWord_of_short ((fld_pack l e 0 1).trans rfl) ((decode16_Short12 f1_4).trans ?_) h
  simp [decShort12, f5_5, f10_5, f15_1]

theorem RoundTrip.fadd (w : FW) (d : Nat) (a : Nat) (b : Nat) (x : Nat) : RoundTrip.Statement (.fadd w d a b x) := by
  intro _ u h he
  obtain ⟨h0, h1, h2, h3, -⟩ := of_decide_eq_true h
  have hw := fw_code_lt w
  have e : pack [(1, 1), (6, 24), (5, d), (5, a), (5, b), (3, w.code), (4, 0), (3, x)] = u := by
    have : 0x31 + d * 128 + a * 4096 + b * 131072 + w.code * 4194304 + x * 536870912 = u := (Prod.mk.inj (Option.some.inj he)).2
    rw [← this]; simp only [pack]; ring
  have l : Fits [(1, 1), (6, 24), (5, d), (5, a), (5, b), (3, w.code), (4, 0), (3, x)] := ⟨by decide, by decide, h0, h1, h2, hw, by decide, h3, trivial⟩
  have f1_6 : fld u 1 6 = 24 := (fld_pack l e 1 1).trans rfl
  have f7_5 : fld u 7 5 = d := (fld_pack l e 2 1).trans rfl
  have f12_5 : fld u 12 5 = a := (fld_pack l e 3 1).trans rfl
  have f17_5 : fld u 17 5 = b := (fld_pack l e 4 1).trans rfl
  have f22_3 : fld u 22 3 = w.code := (fld_pack l e 5 1).trans rfl
  have f25_4 : fld u 25 4 = 0 := (fld_pack l e 6 1).trans rfl
  have f29_3 : fld u 29 3 = x := (fld_pack l e 7 1).trans rfl
  refine decodeWord_of_major ((fld_pack l e 0 1).trans rfl) ((decode32_Major18 f1_6).trans ?_) h
  simp [decMajor18, f7_5, f12_5, f17_5, f22_3, f25_4, f29_3, fw_ofCode, Option.map]

theorem RoundTrip.fsub (w : FW) (d : Nat) (a : Nat) (b : Nat) (x : Nat) : RoundTrip.Statement (.fsub w d a b x) := by
  intro _ u h he
  obtain ⟨h0, h1, h2, h3, -⟩ := of_decide_eq_true h
  have hw := fw_code_lt w
  have e : pack [(1, 1), (6, 24), (5, d), (5, a), (5, b), (3, w.code), (4, 1), (3, x)] = u := by
    have : 0x2000031 + d * 128 + a * 4096 + b * 131072 + w.code * 4194304 + x * 536870912 = u := (Prod.mk.inj (Option.some.inj he)).2
    rw [← this]; simp only [pack]; ring
  have l : Fits [(1, 1), (6, 24), (5, d), (5, a), (5, b), (3, w.code), (4, 1), (3, x)] := ⟨by decide, by decide, h0, h1, h2, hw, by decide, h3, trivial⟩
  have f1_6 : fld u 1 6 = 24 := (fld_pack l e 1 1).trans rfl
  have f7_5 : fld u 7 5 = d := (fld_pack l e 2 1).trans rfl
  have f12_5 : fld u 12 5 = a := (fld_pack l e 3 1).trans rfl
  have f17_5 : fld u 17 5 = b := (fld_pack l e 4 1).trans rfl
  have f22_3 : fld u 22 3 = w.code := (fld_pack l e 5 1).trans rfl
  have f25_4 : fld u 25 4 = 1 := (fld_pack l e 6 1).trans rfl
  have f29_3 : fld u 29 3 = x := (fld_pack l e 7 1).trans rfl
  refine decodeWord_of_major ((fld_pack l e 0 1).trans rfl) ((decode32_Major18 f1_6).trans ?_) h
  simp [decMajor18, f7_5, f12_5, f17_5, f22_3, f25_4, f29_3, fw_ofCode, Option.map]

theorem RoundTrip.fmul (w : FW) (d : Nat) (a : Nat) (b : Nat) (x : Nat) : RoundTrip.Statement (.fmul w d a b x) := by
  intro _ u h he
  obtain ⟨h0, h1, h2, h3, -⟩ := of_decide_eq_true h
  have hw := fw_code_lt w
  have e : pack [(1, 1), (6, 24), (5, d), (5, a), (5, b), (3, w.code), (4, 2), (3, x)] = u := by
    have : 0x4000031 + d * 128 + a * 4096 + b * 131072 + w.code * 4194304 + x * 536870912 = u := (Prod.mk.inj (Option.some.inj he)).2
    rw [← this]; simp only [pack]; ring
  have l : Fits [(1, 1), (6, 24), (5, d), (5, a), (5, b), (3, w.code), (4, 2), (3, x)] := ⟨by decide, by decide, h0, h1, h2, hw, by decide, h3, trivial⟩
  have f1_6 : fld u 1 6 = 24 := (fld_pack l e 1 1).trans rfl
  have f7_5 : fld u 7 5 = d := (fld_pack l e 2 1).trans rfl
  have f12_5 : fld u 12 5 = a := (fld_pack l e 3 1).trans rfl
  have f17_5 : fld u 17 5 = b := (fld_pack l e 4 1).trans rfl
  have f22_3 : fld u 22 3 = w.code := (fld_pack l e 5 1).trans rfl
  have f25_4 : fld u 25 4 = 2 := (fld_pack l e 6 1).trans rfl
  have f29_3 : fld u 29 3 = x := (fld_pack l e 7 1).trans rfl
  refine decodeWord_of_major ((fld_pack l e 0 1).trans rfl) ((decode32_Major18 f1_6).trans ?_) h
  simp [decMajor18, f7_5, f12_5, f17_5, f22_3, f25_4, f29_3, fw_ofCode, Option.map]

theorem RoundTrip.fmin (w : FW) (d : Nat) (a : Nat) (b : Nat) (x : Nat) : RoundTrip.Statement (.fmin w d a b x) := by
  intro _ u h he
  obtain ⟨h0, h1, h2, h3, -⟩ := of_decide_eq_true h
  have hw := fw_code_lt w
  have e : pack [(1, 1), (6, 24), (5, d), (5, a), (5, b), (3, w.code), (4, 3), (3, x)] = u := by
    have : 0x6000031 + d * 128 + a * 4096 + b * 131072 + w.code * 4194304 + x * 536870912 = u := (Prod.mk.inj (Option.some.inj he)).2
    rw [← this]; simp only [pack]; ring
  have l : Fits [(1, 1), (6, 24), (5, d), (5, a), (5, b), (3, w.code), (4, 3), (3, x)] := ⟨by decide, by decide, h0, h1, h2, hw, by decide, h3, trivial⟩
  have f1_6 : fld u 1 6 = 24 := (fld_pack l e 1 1).trans rfl
  have f7_5 : fld u 7 5 = d := (fld_pack l e 2 1).trans rfl
  have f12_5 : fld u 12 5 = a := (fld_pack l e 3 1).trans rfl
  have f17_5 : fld u 17 5 = b := (fld_pack l e 4 1).trans rfl
  have f22_3 : fld u 22 3 = w.code := (fld_pack l e 5 1).trans rfl
  have f25_4 : fld u 25 4 = 3 := (fld_pack l e 6 1).trans rfl
  have f29_3 : fld u 29 3 = x := (fld_pack l e 7 1).trans rfl
  refine decodeWord_of_major ((fld_pack l e 0 1).trans rfl) ((decode32_Major18 f1_6).trans ?_) h
  simp [decMajor18, f7_5, f12_5, f17_5, f22_3, f25_4, f29_3, fw_ofCode, Option.map]

theorem RoundTrip.fmax (w : FW) (d : Nat) (a : Nat) (b : Nat) (x : Nat) : RoundTrip.Statement (.fmax w d a b x) := by
  intro _ u h he
  obtain ⟨h0, h1, h2, h3, -⟩ := of_decide_eq_true h
  have hw := fw_code_lt w
  have e : pack [(1, 1), (6, 24), (5, d), (5, a), (5, b), (3, w.code), (4, 4), (3, x)] = u := by
    have : 0x8000031 + d * 128 + a * 4096 + b * 131072 + w.code * 4194304 + x * 536870912 = u := (Prod.mk.inj (Option.some.inj he)).2
    rw [← this]; simp only [pack]; ring
  have l : Fits [(1, 1), (6, 24), (5, d), (5, a), (5, b), (3, w.code), (4, 4), (3, x)] := ⟨by decide, by decide, h0, h1, h2, hw, by decide, h3, trivial⟩
  have f1_6 : fld u 1 6 = 24 := (fld_pack l e 1 1).trans rfl
  have f7_5 : fld u 7 5 = d := (fld_pack l e 2 1).trans rfl
  have f12_5 : fld u 12 5 = a := (fld_pack l e 3 1).trans rfl
  have f17_5 : fld u 17 5 = b := (fld_pack l e 4 1).trans rfl
  have f22_3 : fld u 22 3 = w.code := (fld_pack l e 5 1).trans rfl
  have f25_4 : fld u 25 4 = 4 := (fld_pack l e 6 1).trans rfl
  have f29_3 : fld u 29 3 = x := (fld_pack l e 7 1).trans rfl
  refine decodeWord_of_major ((fld_pack l e 0 1).trans rfl) ((decode32_Major18 f1_6).trans ?_) h
  simp [decMajor18, f7_5, f12_5, f17_5, f22_3, f25_4, f29_3, fw_ofCode, Option.map]

theorem RoundTrip.fsgn (w : FW) (d : Nat) (a : Nat) (b : Nat) : RoundTrip.Statement (.fsgn w d a b) := by
  intro _ u h he
  obtain ⟨h0, h1, h2, -⟩ := of_decide_eq_true h
  have hw := fw_code_lt w
  have e : pack [(1, 1), (6, 24), (5, d), (5, a), (5, b), (3, w.code), (4, 5), (3, 0)] = u := by
    have : 0xA000031 + d * 128 + a * 4096 + b * 131072 + w.code * 4194304 = u := (Prod.mk.inj (Option.some.inj he)).2
    rw [← this]; simp only [pack]; ring
  have l : Fits [(1, 1), (6, 24), (5, d), (5, a), (5, b), (3, w.code), (4, 5), (3, 0)] := ⟨by decide, by decide, h0, h1, h2, hw, by decide, by decide, trivial⟩
  have f1_6 : fld u 1 6 = 24 := (fld_pack l e 1 1).trans rfl
  have f7_5 : fld u 7 5 = d := (fld_pack l e 2 1).trans rfl
  have f12_5 : fld u 12 5 = a := (fld_pack l e 3 1).trans rfl
  have f17_5 : fld u 17 5 = b := (fld_pack l e 4 1).trans rfl
  have f22_3 : fld u 22 3 = w.code := (fld_pack l e 5 1).trans rfl
  have f25_4 : fld u 25 4 = 5 := (fld_pack l e 6 1).trans rfl
  have f25_7 : fld u 25 7 = 5 := (fld_pack l e 6 2).trans (by simp [pack]; try omega)
  refine decodeWord_of_major ((fld_pack l e 0 1).trans rfl) ((decode32_Major18 f1_6).trans ?_) h
  simp [decMajor18, f7_5, f12_5, f17_5, f22_3, f25_4, f25_7, fw_ofCode, Option.map]

theorem RoundTrip.ffma (w : FW) (d : Nat) (a : Nat) (b : Nat) (la : Nat) : RoundTrip.Statement (.ffma w d a b la) := by
  intro _ u h he
  obtain ⟨h0, h1, h2, h3, -⟩ := of_decide_eq_true h
  have hw := fw_code_lt w
  have e : pack [(1, 1), (6, 25), (5, d), (5, a), (5, b), (3, w.code), (3, 0), (4, la)] = u := by
    have : 0x33 + d * 128 + a * 4096 + b * 131072 + w.code * 4194304 + la * 268435456 = u := (Prod.mk.inj (Option.some.inj he)).2
    rw [← this]; simp only [pack]; ring
  have l : Fits [(1, 1), (6, 25), (5, d), (5, a), (5, b), (3, w.code), (3, 0), (4, la)] := ⟨by decide, by decide, h0, h1, h2, hw, by decide, h3, trivial⟩
  have f1_6 : fld u 1 6 = 25 := (fld_pack l e 1 1).trans rfl
  have f7_5 : fld u 7 5 = d := (fld_pack l e 2 1).trans rfl
  have f12_5 : fld u 12 5 = a := (fld_pack l e 3 1).trans rfl
  have f17_5 : fld u 17 5 = b := (fld_pack l e 4 1).trans rfl
  have f22_3 : fld u 22 3 = w.code := (fld_pack l e 5 1).trans rfl
  have f25_3 : fld u 25 3 = 0 := (fld_pack l e 6 1).trans rfl
  have f28_4 : fld u 28 4 = la := (fld_pack l e 7 1).trans rfl
  refine decodeWord_of_major ((fld_pack l e 0 1).trans rfl) ((decode32_Major19 f1_6).trans ?_) h
  simp [decMajor19, f7_5, f12_5, f17_5, f22_3, f25_3, f28_4, fw_ofCode, Option.map]

theorem RoundTrip.fdiv (w : FW) (d : Nat) (a : Nat) (b : Nat) (la : Nat) : RoundTrip.Statement (.fdiv w d a b la) := by
  intro _ u h he
  obtain ⟨h0, h1, h2, h3, -⟩ := of_decide_eq_true h
  have hw := fw_code_lt w
  have e : pack [(1, 1), (6, 25), (5, d), (5, a), (5, b), (3, w.code), (3, 1), (4, la)] = u := by
    have : 0x2000033 + d * 128 + a * 4096 + b * 131072 + w.code * 4194304 + la * 268435456 = u := (Prod.mk.inj (Option.some.inj he)).2
    rw [← this]; simp only [pack]; ring
  have l : Fits [(1, 1), (6, 25), (5, d), (5, a), (5, b), (3, w.code), (3, 1), (4, la)] := ⟨by decide, by decide, h0, h1, h2, hw, by decide, h3, trivial⟩
  have f1_6 : fld u 1 6 = 25 := (fld_pack l e 1 1).trans rfl
  have f7_5 : fld u 7 5 = d := (fld_pack l e 2 1).trans rfl
  have f12_5 : fld u 12 5 = a := (fld_pack l e 3 1).trans rfl
  have f17_5 : fld u 17 5 = b := (fld_pack l e 4 1).trans rfl
  have f22_3 : fld u 22 3 = w.code := (fld_pack l e 5 1).trans rfl
  have f25_3 : fld u 25 3 = 1 := (fld_pack l e 6 1).trans rfl
  have f28_4 : fld u 28 4 = la := (fld_pack l e 7 1).trans rfl
  refine decodeWord_of_major ((fld_pack l e 0 1).trans rfl) ((decode32_Major19 f1_6).trans ?_) h
  simp [decMajor19, f7_5, f12_5, f17_5, f22_3, f25_3, f28_4, fw_ofCode, Option.map]

theorem RoundTrip.fsqrt (w : FW) (d : Nat) (a : Nat) (la : Nat) : RoundTrip.Statement (.fsqrt w d a la) := by
  intro _ u h he
  obtain ⟨h0, h1, h2, -⟩ := of_decide_eq_true h
  have hw := fw_code_lt w
  have e : pack [(1, 1), (6, 25), (5, d), (5, a), (5, 0), (3, w.code), (3, 2), (4, la)] = u := by
    have : 0x4000033 + d * 128 + a * 4096 + w.code * 4194304 + la * 268435456 = u := (Prod.mk.inj (Option.some.inj he)).2
    rw [← this]; simp only [pack]; ring
  have l : Fits [(1, 1), (6, 25), (5, d), (5, a), (5, 0), (3, w.code), (3, 2), (4, la)] := ⟨by decide, by decide, h0, h1, by decide, hw, by decide, h2, trivial⟩
  have f1_6 : fld u 1 6 = 25 := (fld_pack l e 1 1).trans rfl
  have f7_5 : fld u 7 5 = d := (fld_pack l e 2 1).trans rfl
  have f12_5 : fld u 12 5 = a := (fld_pack l e 3 1).trans rfl
  have f17_5 : fld u 17 5 = 0 := (fld_pack l e 4 1).trans rfl
  have f22_3 : fld u 22 3 = w.code := (fld_pack l e 5 1).trans rfl
  have f25_3 : fld u 25 3 = 2 := (fld_pack l e 6 1).trans rfl
  have f28_4 : fld u 28 4 = la := (fld_pack l e 7 1).trans rfl
  refine decodeWord_of_major ((fld_pack l e 0 1).trans rfl) ((decode32_Major19 f1_6).trans ?_) h
  simp [decMajor19, f7_5, f12_5, f17_5, f22_3, f25_3, f28_4, fw_ofCode, Option.map]

theorem RoundTrip.fcvt (w : FW) (d : Nat) (a : Nat) (tgt : Nat) (x : Nat) : RoundTrip.Statement (.fcvt w d a tgt x) := by
  intro _ u h he
  obtain ⟨h0, h1, h2, h3, -⟩ := of_decide_eq_true h
  have hw := fw_code_lt w
  have e : pack [(1, 1), (6, 26), (5, d), (5, a), (5, tgt), (3, w.code), (4, 0), (3, x)] = u := by
    have : 0x35 + d * 128 + a * 4096 + tgt * 131072 + w.code * 4194304 + x * 536870912 = u := (Prod.mk.inj (Option.some.inj he)).2
    rw [← this]; simp only [pack]; ring
  have l : Fits [(1, 1), (6, 26), (5, d), (5, a), (5, tgt), (3, w.code), (4, 0), (3, x)] := ⟨by decide, by decide, h0, h1, h2, hw, by decide, h3, trivial⟩
  have f1_6 : fld u 1 6 = 26 := (fld_pack l e 1 1).trans rfl
  have f7_5 : fld u 7 5 = d := (fld_pack l e 2 1).trans rfl
  have f12_5 : fld u 12 5 = a := (fld_pack l e 3 1).trans rfl
  have f17_5 : fld u 17 5 = tgt := (fld_pack l e 4 1).trans rfl
  have f22_3 : fld u 22 3 = w.code := (fld_pack l e 5 1).trans rfl
  have f25_4 : fld u 25 4 = 0 := (fld_pack l e 6 1).trans rfl
  have f29_3 : fld u 29 3 = x := (fld_pack l e 7 1).trans rfl
  refine decodeWord_of_major ((fld_pack l e 0 1).trans rfl) ((decode32_Major1A f1_6).trans ?_) h
  simp [decMajor1A, f7_5, f12_5, f17_5, f22_3, f25_4, f29_3, fw_ofCode, Option.map]

theorem RoundTrip.fcvti (w : FW) (d : Nat) (a : Nat) (tgt : Nat) (x : Nat) : RoundTrip.Statement (.fcvti w d a tgt x) := by
  intro _ u h he
  obtain ⟨h0, h1, h2, h3, -, -, -, -⟩ := of_decide_eq_true h
  have hw := fw_code_lt w
  have e : pack [(1, 1), (6, 26), (5, d), (5, a), (5, tgt), (3, w.code), (4, 1), (3, x)] = u := by
    have : 0x2000035 + d * 128 + a * 4096 + tgt * 131072 + w.code * 4194304 + x * 536870912 = u := (Prod.mk.inj (Option.some.inj he)).2
    rw [← this]; simp only [pack]; ring
  have l : Fits [(1, 1), (6, 26), (5, d), (5, a), (5, tgt), (3, w.code), (4, 1), (3, x)] := ⟨by decide, by decide, h0, h1, h2, hw, by decide, h3, trivial⟩
  have f1_6 : fld u 1 6 = 26 := (fld_pack l e 1 1).trans rfl
  have f7_5 : fld u 7 5 = d := (fld_pack l e 2 1).trans rfl
  have f12_5 : fld u 12 5 = a := (fld_pack l e 3 1).trans rfl
  have f17_5 : fld u 17 5 = tgt := (fld_pack l e 4 1).trans rfl
  have f22_3 : fld u 22 3 = w.code := (fld_pack l e 5 1).trans rfl
  have f25_4 : fld u 25 4 = 1 := (fld_pack l e 6 1).trans rfl
  have f29_3 : fld u 29 3 = x := (fld_pack l e 7 1).trans rfl
  refine decodeWord_of_major ((fld_pack l e 0 1).trans rfl) ((decode32_Major1A f1_6).trans ?_) h
  simp [decMajor1A, f7_5, f12_5, f17_5, f22_3, f25_4, f29_3, fw_ofCode, Option.map]

theorem RoundTrip.icvtf (w : IW) (d : Nat) (a : Nat) (tgt : Nat) (x : Nat) : RoundTrip.Statement (.icvtf w d a tgt x) := by
  intro _ u h he
  obtain ⟨h0, h1, h2, h3, -⟩ := of_decide_eq_true h
  have hw := iw_code_lt w
  have e : pack [(1, 1), (6, 26), (5, d), (5, a), (5, tgt), (3, w.code), (4, 2), (3, x)] = u := by
    have : 0x4000035 + d * 128 + a * 4096 + tgt * 131072 + w.code * 4194304 + x * 536870912 = u := (Prod.mk.inj (Option.some.inj he)).2
    rw [← this]; simp only [pack]; ring
  have l : Fits [(1, 1), (6, 26), (5, d), (5, a), (5, tgt), (3, w.code), (4, 2), (3, x)] := ⟨by decide, by decide, h0, h1, h2, hw, by decide, h3, trivial⟩
  have f1_6 : fld u 1 6 = 26 := (fld_pack l e 1 1).trans rfl
  have f7_5 : fld u 7 5 = d := (fld_pack l e 2 1).trans rfl
  have f12_5 : fld u 12 5 = a := (fld_pack l e 3 1).trans rfl
  have f17_5 : fld u 17 5 = tgt := (fld_pack l e 4 1).trans rfl
  have f22_3 : fld u 22 3 = w.code := (fld_pack l e 5 1).trans rfl
  have f25_4 : fld u 25 4 = 2 := (fld_pack l e 6 1).trans rfl
  have f29_3 : fld u 29 3 = x := (fld_pack l e 7 1).trans rfl
  refine decodeWord_of_major ((fld_pack l e 0 1).trans rfl) ((decode32_Major1A f1_6).trans ?_) h
  simp [decMajor1A, f7_5, f12_5, f17_5, f22_3, f25_4, f29_3, iw_ofCode, Option.map]

theorem RoundTrip.fin (w : FW) (d : Nat) (a : Nat) (rm : Nat) : RoundTrip.Statement (.fin w d a rm) := by
  intro _ u h he
  obtain ⟨h0, h1, h2, -⟩ := of_decide_eq_true h
  have hw := fw_code_lt w
  have e : pack [(1, 1), (6, 26), (5, d), (5, a), (3, rm), (2, 0), (3, w.code), (4, 3), (3, 0)] = u := by
    have : 0x6000035 + d * 128 + a * 4096 + rm * 131072 + w.code * 4194304 = u := (Prod.mk.inj (Option.some.inj he)).2
    rw [← this]; simp only [pack]; ring
  have l : Fits [(1, 1), (6, 26), (5, d), (5, a), (3, rm), (2, 0), (3, w.code), (4, 3), (3, 0)] := ⟨by decide, by decide, h0, h1, h2, by decide, hw, by decide, by decide, trivial⟩
  have f1_6 : fld u 1 6 = 26 := (fld_pack l e 1 1).trans rfl
  have f7_5 : fld u 7 5 = d := (fld_pack l e 2 1).trans rfl
  have f12_5 : fld u 12 5 = a := (fld_pack l e 3 1).trans rfl
  have f17_3 : fld u 17 3 = rm := (fld_pack l e 4 1).trans rfl
  have f20_2 : fld u 20 2 = 0 := (fld_pack l e 5 1).trans rfl
  have f22_3 : fld u 22 3 = w.code := (fld_pack l e 6 1).trans rfl
  have f25_4 : fld u 25 4 = 3 := (fld_pack l e 7 1).trans rfl
  have f25_7 : fld u 25 7 = 3 := (fld_pack l e 7 2).trans (by simp [pack]; try omega)
  refine decodeWord_of_major ((fld_pack l e 0 1).trans rfl) ((decode32_Major1A f1_6).trans ?_) h
  simp [decMajor1A, f7_5, f12_5, f17_3, f20_2, f22_3, f25_4, f25_7, fw_ofCode, Option.map]

theorem RoundTrip.feq (w : FW) (d : Nat) (a : Nat) (b : Nat) : RoundTrip.Statement (.feq w d a b) := by
  intro _ u h he
  obtain ⟨h0, h1, h2, -⟩ := of_decide_eq_true h
  have hw := fw_code_lt w
  have e : pack [(1, 1), (6, 27), (5, d), (5, a), (5, b), (3, w.code), (7, 0)] = u := by
    have : 0x37 + d * 128 + a * 4096 + b * 131072 + w.code * 4194304 = u := (Prod.mk.inj (Option.some.inj he)).2
    rw [← this]; simp only [pack]; ring
  have l : Fits [(1, 1), (6, 27), (5, d), (5, a), (5, b), (3, w.code), (7, 0)] := ⟨by decide, by decide, h0, h1, h2, hw, by decide, trivial⟩
  have f1_6 : fld u 1 6 = 27 := (fld_pack l e 1 1).trans rfl
  have f7_5 : fld u 7 5 = d := (fld_pack l e 2 1).trans rfl
  have f12_5 : fld u 12 5 = a := (fld_pack l e 3 1).trans rfl
  have f17_5 : fld u 17 5 = b := (fld_pack l e 4 1).trans rfl
  have f22_3 : fld u 22 3 = w.code := (fld_pack l e 5 1).trans rfl
  have f25_7 : fld u 25 7 = 0 := (fld_pack l e 6 1).trans rfl
  refine decodeWord_of_major ((fld_pack l e 0 1).trans rfl) ((decode32_Major1B f1_6).trans ?_) h
  simp [decMajor1B, f7_5, f12_5, f17_5, f22_3, f25_7, fw_ofCode, Option.map]

theorem RoundTrip.flt (w : FW) (d : Nat) (a : Nat) (b : Nat) : RoundTrip.Statement (.flt w d a b) := by
  intro _ u h he
  obtain ⟨h0, h1, h2, -⟩ := of_decide_eq_true h
  have hw := fw_code_lt w
  have e : pack [(1, 1), (6, 27), (5, d), (5, a), (5, b), (3, w.code), (7, 1)] = u := by
    have : 0x2000037 + d * 128 + a * 4096 + b * 131072 + w.code * 4194304 = u := (Prod.mk.inj (Option.some.inj he)).2
    rw [← this]; simp only [pack]; ring
  have l : Fits [(1, 1), (6, 27), (5, d), (5, a), (5, b), (3, w.code), (7, 1)] := ⟨by decide, by decide, h0, h1, h2, hw, by decide, trivial⟩
  have f1_6 : fld u 1 6 = 27 := (fld_pack l e 1 1).trans rfl
  have f7_5 : fld u 7 5 = d := (fld_pack l e 2 1).trans rfl
  have f12_5 : fld u 12 5 = a := (fld_pack l e 3 1).trans rfl
  have f17_5 : fld u 17 5 = b := (fld_pack l e 4 1).trans rfl
  have f22_3 : fld u 22 3 = w.code := (fld_pack l e 5 1).trans rfl
  have f25_7 : fld u 25 7 = 1 := (fld_pack l e 6 1).trans rfl
  refine decodeWord_of_major ((fld_pack l e 0 1).trans rfl) ((decode32_Major1B f1_6).trans ?_) h
  simp [decMajor1B, f7_5, f12_5, f17_5, f22_3, f25_7, fw_ofCode, Option.map]

theorem RoundTrip.fle (w : FW) (d : Nat) (a : Nat) (b : Nat) : RoundTrip.Statement (.fle w d a b) := by
  intro _ u h he
  obtain ⟨h0, h1, h2, -⟩ := of_decide_eq_true h
  have hw := fw_code_lt w
  have e : pack [(1, 1), (6, 27), (5, d), (5, a), (5, b), (3, w.code), (7, 2)] = u := by
    have : 0x4000037 + d * 128 + a * 4096 + b * 131072 + w.code * 4194304 = u := (Prod.mk.inj (Option.some.inj he)).2
    rw [← this]; simp only [pack]; ring
  have l : Fits [(1, 1), (6, 27), (5, d), (5, a), (5, b), (3, w.code), (7, 2)] := ⟨by decide, by decide, h0, h1, h2, hw, by decide, trivial⟩
  have f1_6 : fld u 1 6 = 27 := (fld_pack l e 1 1).trans rfl
  have f7_5 : fld u 7 5 = d := (fld_pack l e 2 1).trans rfl
  have f12_5 : fld u 12 5 = a := (fld_pack l e 3 1).trans rfl
  have f17_5 : fld u 17 5 = b := (fld_pack l e 4 1).trans rfl
  have f22_3 : fld u 22 3 = w.code := (fld_pack l e 5 1).trans rfl
  have f25_7 : fld u 25 7 = 2 := (fld_pack l e 6 1).trans rfl
  refine decodeWord_of_major ((fld_pack l e 0 1).trans rfl) ((decode32_Major1B f1_6).trans ?_) h
  simp [decMajor1B, f7_5, f12_5, f17_5, f22_3, f25_7, fw_ofCode, Option.map]

theorem RoundTrip.fclass (w : FW) (d : Nat) (a : Nat) : RoundTrip.Statement (.fclass w d a) := by
  intro _ u h he
  obtain ⟨h0, h1, -⟩ := of_decide_eq_true h
  have hw := fw_code_lt w
  have e : pack [(1, 1), (6, 27), (5, d), (5, a), (5, 0), (3, w.code), (7, 3)] = u := by
    have : 0x6000037 + d * 128 + a * 4096 + w.code * 4194304 = u := (Prod.mk.inj (Option.some.inj he)).2
    rw [← this]; simp only [pack]; ring
  have l : Fits [(1, 1), (6, 27), (5, d), (5, a), (5, 0), (3, w.code), (7, 3)] := ⟨by decide, by decide, h0, h1, by decide, hw, by decide, trivial⟩
  have f1_6 : fld u 1 6 = 27 := (fld_pack l e 1 1).trans rfl
  have f7_5 : fld u 7 5 = d := (fld_pack l e 2 1).trans rfl
  have f12_5 : fld u 12 5 = a := (fld_pack l e 3 1).trans rfl
  have f17_5 : fld u 17 5 = 0 := (fld_pack l e 4 1).trans rfl
  have f22_3 : fld u 22 3 = w.code := (fld_pack l e 5 1).trans rfl
  have f25_7 : fld u 25 7 = 3 := (fld_pack l e 6 1).trans rfl
  refine decodeWord_of_major ((fld_pack l e 0 1).trans rfl) ((decode32_Major1B f1_6).trans ?_) h
  simp [decMajor1B, f7_5, f12_5, f17_5, f22_3, f25_7, fw_ofCode, Option.map]

theorem RoundTrip.tget (d : Nat) (a : Nat) : RoundTrip.Statement (.tget d a) := by
  intro _ u h he
  obtain ⟨h0, h1⟩ := of_decide_eq_true h
  have e : pack [(1, 1), (6, 28), (5, d), (5, a), (15, 0)] = u := by
    have : 0x39 + d * 128 + a * 4096 = u := (Prod.mk.inj (Option.some.inj he)).2
    rw [← this]; simp only [pack]; ring
  have l : Fits [(1, 1), (6, 28), (5, d), (5, a), (15, 0)] := ⟨by decide, by decide, h0, h1, by decide, trivial⟩
  have f1_6 : fld u 1 6 = 28 := (fld_pack l e 1 1).trans rfl
  have f7_5 : fld u 7 5 = d := (fld_pack l e 2 1).trans rfl
  have f12_5 : fld u 12 5 = a := (fld_pack l e 3 1).trans rfl
  have f17_15 : fld u 17 15 = 0 := (fld_pack l e 4 1).trans rfl
  refine decodeWord_of_major ((fld_pack l e 0 1).trans rfl) ((decode32_Major1C f1_6).trans ?_) h
  simp [decMajor1C, f7_5, f12_5, f17_15]

theorem RoundTrip.tset (d : Nat) (a : Nat) (b : Nat) : RoundTrip.Statement (.tset d a b) := by
  intro _ u h he
  obtain ⟨h0, h1, h2⟩ := of_decide_eq_true h
  have e : pack [(1, 1), (6, 28), (5, d), (5, a), (5, b), (10, 8)] = u := by
    have : 0x2000039 + d * 128 + a * 4096 + b * 131072 = u := (Prod.mk.inj (Option.some.inj he)).2
    rw [← this]; simp only [pack]; ring
  have l : Fits [(1, 1), (6, 28), (5, d), (5, a), (5, b), (10, 8)] := ⟨by decide, by decide, h0, h1, h2, by decide, trivial⟩
  have f1_6 : fld u 1 6 = 28 := (fld_pack l e 1 1).trans rfl
  have f7_5 : fld u 7 5 = d := (fld_pack l e 2 1).trans rfl
  have f12_5 : fld u 12 5 = a := (fld_pack l e 3 1).trans rfl
  have f17_5 : fld u 17 5 = b := (fld_pack l e 4 1).trans rfl
  have f17_15 : fld u 17 15 = 256 + b := (fld_pack l e 4 2).trans (by simp [pack]; try omega)
  have f22_10 : fld u 22 10 = 8 := (fld_pack l e 5 1).trans rfl
  have g0 : ¬ (256 + b = 0) := by omega
  refine decodeWord_of_major ((fld_pack l e 0 1).trans rfl) ((decode32_Major1C f1_6).trans ?_) h
  simp [decMajor1C, f7_5, f12_5, f17_5, f17_15, f22_10, g0]

theorem RoundTrip.ld (w : IW) (d : Nat) (a : Nat) (off : Nat) (la : Nat) : RoundTrip.Statement (.ld w d a off la) := by
  intro _ u h he
  obtain ⟨h0, h1, h2, h3⟩ := of_decide_eq_true h
  have hw := iw_code_lt w
  have e : pack [(1, 1), (6, 16), (5, d), (5, a), (3, w.code), (4, la), (8, off)] = u := by
    have : 0x21 + d * 128 + a * 4096 + w.code * 131072 + la * 1048576 + off * 16777216 = u := (Prod.mk.inj (Option.some.inj he)).2
    rw [← this]; simp only [pack]; ring
  have l : Fits [(1, 1), (6, 16), (5, d), (5, a), (3, w.code), (4, la), (8, off)] := ⟨by decide, by decide, h0, h1, hw, h3, h2, trivial⟩
  have f1_6 : fld u 1 6 = 16 := (fld_pack l e 1 1).trans rfl
  have f7_5 : fld u 7 5 = d := (fld_pack l e 2 1).trans rfl
  have f12_5 : fld u 12 5 = a := (fld_pack l e 3 1).trans rfl
  have f17_3 : fld u 17 3 = w.code := (fld_pack l e 4 1).trans rfl
  have f20_4 : fld u 20 4 = la := (fld_pack l e 5 1).trans rfl
  have f24_8 : fld u 24 8 = off := (fld_pack l e 6 1).trans rfl
  refine decodeWord_of_major ((fld_pack l e 0 1).trans rfl) ((decode32_Major10 f1_6).trans ?_) h
  simp [decMajor10, f7_5, f12_5, f17_3, f20_4, f24_8, iw_ofCode, Option.map]

theorem RoundTrip.lda (w : IW) (d : Nat) (a : Nat) (off : Nat) (sc : Nat) (la : Nat) : RoundTrip.Statement (.lda w d a off sc la) := by
  intro _ u h he
  obtain ⟨h0, h1, h2, h3, h4⟩ := of_decide_eq_true h
  have hw := iw_code_lt w
  have e : pack [(1, 1), (6, 17), (5, d), (5, a), (3, w.code), (2, sc), (4, la), (6, off)] = u := by
    have : 0x23 + d * 128 + a * 4096 + w.code * 131072 + sc * 1048576 + la * 4194304 + off * 67108864 = u := (Prod.mk.inj (Option.some.inj he)).2
    rw [← this]; simp only [pack]; ring
  have l : Fits [(1, 1), (6, 17), (5, d), (5, a), (3, w.code), (2, sc), (4, la), (6, off)] := ⟨by decide, by decide, h0, h1, hw, h3, h4, h2, trivial⟩
  have f1_6 : fld u 1 6 = 17 := (fld_pack l e 1 1).trans rfl
  have f7_5 : fld u 7 5 = d := (fld_pack l e 2 1).trans rfl
  have f12_5 : fld u 12 5 = a := (fld_pack l e 3 1).trans rfl
  have f17_3 : fld u 17 3 = w.code := (fld_pack l e 4 1).trans rfl
  have f20_2 : fld u 20 2 = sc := (fld_pack l e 5 1).trans rfl
  have f22_4 : fld u 22 4 = la := (fld_pack l e 6 1).trans rfl
  have f26_6 : fld u 26 6 = off := (fld_pack l e 7 1).trans rfl
  refine decodeWord_of_major ((fld_pack l e 0 1).trans rfl) ((decode32_Major11 f1_6).trans ?_) h
  simp [decMajor11, f7_5, f12_5, f17_3, f20_2, f22_4, f26_6, iw_ofCode, Option.map]

theorem RoundTrip.st (w : IW) (a : Nat) (b : Nat) (off : Nat) (hn : Nat) : RoundTrip.Statement (.st w a b off hn) := by
  intro _ u h he
  obtain ⟨h0, h1, h2, h3, h4⟩ := of_decide_eq_true h
  have hw := iw_code_lt w
  have e : pack [(1, 1), (6, 18), (5, b), (5, a), (3, w.code), (2, hn), (10, off)] = u := by
    have : 0x25 + b * 128 + a * 4096 + w.code * 131072 + hn * 1048576 + off * 4194304 = u := (Prod.mk.inj (Option.some.inj he)).2
    rw [← this]; simp only [pack]; ring
  have l : Fits [(1, 1), (6, 18), (5, b), (5, a), (3, w.code), (2, hn), (10, off)] := ⟨by decide, by decide, h1, h0, hw, h3, h2, trivial⟩
  have f1_6 : fld u 1 6 = 18 := (fld_pack l e 1 1).trans rfl
  have f7_5 : fld u 7 5 = b := (fld_pack l e 2 1).trans rfl
  have f12_5 : fld u 12 5 = a := (fld_pack l e 3 1).trans rfl
  have f17_3 : fld u 17 3 = w.code := (fld_pack l e 4 1).trans rfl
  have f20_2 : fld u 20 2 = hn := (fld_pack l e 5 1).trans rfl
  have f22_10 : fld u 22 10 = off := (fld_pack l e 6 1).trans rfl
  refine decodeWord_of_major ((fld_pack l e 0 1).trans rfl) ((decode32_Major12 f1_6).trans ?_) h
  simp [decMajor12, f7_5, f12_5, f17_3, f20_2, f22_10, iw_ofCode, Option.map]

theorem RoundTrip.str (w : IW) (a : Nat) (b : Nat) (off : Nat) (sc : Nat) : RoundTrip.Statement (.str w a b off sc) := by
  intro _ u h he
  obtain ⟨h0, h1, h2, h3⟩ := of_decide_eq_true h
  have hw := iw_code_lt w
  have e : pack [(1, 1), (6, 19), (5, b), (5, a), (3, w.code), (2, sc), (10, off)] = u := by
    have : 0x27 + b * 128 + a * 4096 + w.code * 131072 + sc * 1048576 + off * 4194304 = u := (Prod.mk.inj (Option.some.inj he)).2
    rw [← this]; simp only [pack]; ring
  have l : Fits [(1, 1), (6, 19), (5, b), (5, a), (3, w.code), (2, sc), (10, off)] := ⟨by decide, by decide, h1, h0, hw, h3, h2, trivial⟩
  have f1_6 : fld u 1 6 = 19 := (fld_pack l e 1 1).trans rfl
  have f7_5 : fld u 7 5 = b := (fld_pack l e 2 1).trans rfl
  have f12_5 : fld u 12 5 = a := (fld_pack l e 3 1).trans rfl
  have f17_3 : fld u 17 3 = w.code := (fld_pack l e 4 1).trans rfl
  have f20_2 : fld u 20 2 = sc := (fld_pack l e 5 1).trans rfl
  have f22_10 : fld u 22 10 = off := (fld_pack l e 6 1).trans rfl
  refine decodeWord_of_major ((fld_pack l e 0 1).trans rfl) ((decode32_Major13 f1_6).trans ?_) h
  simp [decMajor13, f7_5, f12_5, f17_3, f20_2, f22_10, iw_ofCode, Option.map]

theorem RoundTrip.stf (w : FW) (a : Nat) (b : Nat) (off : Nat) (rm : Nat) : RoundTrip.Statement (.stf w a b off rm) := by
  intro _ u h he
  obtain ⟨h0, h1, h2, h3, -⟩ := of_decide_eq_true h
  have hw := fw_code_lt w
  have e : pack [(1, 1), (6, 20), (5, b), (5, a), (3, w.code), (2, rm), (10, off)] = u := by
    have : 0x29 + b * 128 + a * 4096 + w.code * 131072 + rm * 1048576 + off * 4194304 = u := (Prod.mk.inj (Option.some.inj he)).2
    rw [← this]; simp only [pack]; ring
  have l : Fits [(1, 1), (6, 20), (5, b), (5, a), (3, w.code), (2, rm), (10, off)] := ⟨by decide, by decide, h1, h0, hw, h3, h2, trivial⟩
  have f1_6 : fld u 1 6 = 20 := (fld_pack l e 1 1).trans rfl
  have f7_5 : fld u 7 5 = b := (fld_pack l e 2 1).trans rfl
  have f12_5 : fld u 12 5 = a := (fld_pack l e 3 1).trans rfl
  have f17_3 : fld u 17 3 = w.code := (fld_pack l e 4 1).trans rfl
  have f20_2 : fld u 20 2 = rm := (fld_pack l e 5 1).trans rfl
  have f22_10 : fld u 22 10 = off := (fld_pack l e 6 1).trans rfl
  refine decodeWord_of_major ((fld_pack l e 0 1).trans rfl) ((decode32_Major14 f1_6).trans ?_) h
  simp [decMajor14, f7_5, f12_5, f17_3, f20_2, f22_10, fw_ofCode, Option.map]

theorem RoundTrip.ldx (w : IW) (d : Nat) (a : Nat) (b : Nat) (la : Nat) : RoundTrip.Statement (.ldx w d a b la) := by
  intro _ u h he
  obtain ⟨h0, h1, h2, h3⟩ := of_decide_eq_true h
  have hw := iw_code_lt w
  have e : pack [(1, 1), (6, 11), (5, d), (5, a), (5, b), (3, w.code), (3, 0), (4, la)] = u := by
    have : 0x17 + d * 128 + a * 4096 + b * 131072 + w.code * 4194304 + la * 268435456 = u := (Prod.mk.inj (Option.some.inj he)).2
    rw [← this]; simp only [pack]; ring
  have l : Fits [(1, 1), (6, 11), (5, d), (5, a), (5, b), (3, w.code), (3, 0), (4, la)] := ⟨by decide, by decide, h0, h1, h2, hw, by decide, h3, trivial⟩
  have f1_6 : fld u 1 6 = 11 := (fld_pack l e 1 1).trans rfl
  have f7_5 : fld u 7 5 = d := (fld_pack l e 2 1).trans rfl
  have f12_5 : fld u 12 5 = a := (fld_pack l e 3 1).trans rfl
  have f17_5 : fld u 17 5 = b := (fld_pack l e 4 1).trans rfl
  have f22_3 : fld u 22 3 = w.code := (fld_pack l e 5 1).trans rfl
  have f25_3 : fld u 25 3 = 0 := (fld_pack l e 6 1).trans rfl
  have f28_4 : fld u 28 4 = la := (fld_pack l e 7 1).trans rfl
  refine decodeWord_of_major ((fld_pack l e 0 1).trans rfl) ((decode32_Major0B f1_6).trans ?_) h
  simp [decMajor0B, f7_5, f12_5, f17_5, f22_3, f25_3, f28_4, iw_ofCode, Option.map]

theorem RoundTrip.stx (w : IW) (d : Nat) (a : Nat) (b : Nat) : RoundTrip.Statement (.stx w d a b) := by
  intro _ u h he
  obtain ⟨h0, h1, h2⟩ := of_decide_eq_true h
  have hw := iw_code_lt w
  have e : pack [(1, 1), (6, 11), (5, d), (5, a), (5, b), (3, w.code), (3, 1), (4, 0)] = u := by
    have : 0x2000017 + d * 128 + a * 4096 + b * 131072 + w.code * 4194304 = u := (Prod.mk.inj (Option.some.inj he)).2
    rw [← this]; simp only [pack]; ring
  have l : Fits [(1, 1), (6, 11), (5, d), (5, a), (5, b), (3, w.code), (3, 1), (4, 0)] := ⟨by decide, by decide, h0, h1, h2, hw, by decide, by decide, trivial⟩
  have f1_6 : fld u 1 6 = 11 := (fld_pack l e 1 1).trans rfl
  have f7_5 : fld u 7 5 = d := (fld_pack l e 2 1).trans rfl
  have f12_5 : fld u 12 5 = a := (fld_pack l e 3 1).trans rfl
  have f17_5 : fld u 17 5 = b := (fld_pack l e 4 1).trans rfl
  have f22_3 : fld u 22 3 = w.code := (fld_pack l e 5 1).trans rfl
  have f25_3 : fld u 25 3 = 1 := (fld_pack l e 6 1).trans rfl
  have f25_7 : fld u 25 7 = 1 := (fld_pack l e 6 2).trans (by simp [pack]; try omega)
  refine decodeWord_of_major ((fld_pack l e 0 1).trans rfl) ((decode32_Major0B f1_6).trans ?_) h
  simp [decMajor0B, f7_5, f12_5, f17_5, f22_3, f25_3, f25_7, iw_ofCode, Option.map]

theorem RoundTrip.ldxr (w : IW) (d : Nat) (a : Nat) (b : Nat) (la : Nat) : RoundTrip.Statement (.ldxr w d a b la) := by
  intro _ u h he
  obtain ⟨h0, h1, h2, h3⟩ := of_decide_eq_true h
  have hw := iw_code_lt w
  have e : pack [(1, 1), (6, 11), (5, d), (5, a), (5, b), (3, w.code), (3, 2), (4, la)] = u := by
    have : 0x4000017 + d * 128 + a * 4096 + b * 131072 + w.code * 4194304 + la * 268435456 = u := (Prod.mk.inj (Option.some.inj he)).2
    rw [← this]; simp only [pack]; ring
  have l : Fits [(1, 1), (6, 11), (5, d), (5, a), (5, b), (3, w.code), (3, 2), (4, la)] := ⟨by decide, by decide, h0, h1, h2, hw, by decide, h3, trivial⟩
  have f1_6 : fld u 1 6 = 11 := (fld_pack l e 1 1).trans rfl
  have f7_5 : fld u 7 5 = d := (fld_pack l e 2 1).trans rfl
  have f12_5 : fld u 12 5 = a := (fld_pack l e 3 1).trans rfl
  have f17_5 : fld u 17 5 = b := (fld_pack l e 4 1).trans rfl
  have f22_3 : fld u 22 3 = w.code := (fld_pack l e 5 1).trans rfl
  have f25_3 : fld u 25 3 = 2 := (fld_pack l e 6 1).trans rfl
  have f25_7 : fld u 25 7 = 2 + la * 8 := (fld_pack l e 6 2).trans (by simp [pack]; try omega)
  have f28_4 : fld u 28 4 = la := (fld_pack l e 7 1).trans rfl
  have g0 : ¬ (2 + la * 8 = 1) := by omega
  refine decodeWord_of_major ((fld_pack l e 0 1).trans rfl) ((decode32_Major0B f1_6).trans ?_) h
  simp [decMajor0B, f7_5, f12_5, f17_5, f22_3, f25_3, f25_7, f28_4, g0, iw_ofCode, Option.map]

theorem RoundTrip.lde (w : Nat) (d : Nat) (a : Nat) (b : Nat) (la : Nat) : RoundTrip.Statement (.lde w d a b la) := by
  intro _ u h he
  obtain ⟨h0, h1, h2, h3, h4⟩ := of_decide_eq_true h
  have e : pack [(1, 1), (6, 11), (5, d), (5, a), (5, b), (3, w), (3, 3), (4, la)] = u := by
    have : 0x6000017 + d * 128 + a * 4096 + b * 131072 + w * 4194304 + la * 268435456 = u := (Prod.mk.inj (Option.some.inj he)).2
    rw [← this]; simp only [pack]; ring
  have l : Fits [(1, 1), (6, 11), (5, d), (5, a), (5, b), (3, w), (3, 3), (4, la)] := ⟨by decide, by decide, h1, h2, h3, h0, by decide, h4, trivial⟩
  have f1_6 : fld u 1 6 = 11 := (fld_pack l e 1 1).trans rfl
  have f7_5 : fld u 7 5 = d := (fld_pack l e 2 1).trans rfl
  have f12_5 : fld u 12 5 = a := (fld_pack l e 3 1).trans rfl
  have f17_5 : fld u 17 5 = b := (fld_pack l e 4 1).trans rfl
  have f22_3 : fld u 22 3 = w := (fld_pack l e 5 1).trans rfl
  have f25_3 : fld u 25 3 = 3 := (fld_pack l e 6 1).trans rfl
  have f25_7 : fld u 25 7 = 3 + la * 8 := (fld_pack l e 6 2).trans (by simp [pack]; try omega)
  have f28_4 : fld u 28 4 = la := (fld_pack l e 7 1).trans rfl
  have g0 : ¬ (3 + la * 8 = 1) := by omega
  refine decodeWord_of_major ((fld_pack l e 0 1).trans rfl) ((decode32_Major0B f1_6).trans ?_) h
  simp [decMajor0B, f7_5, f12_5, f17_5, f22_3, f25_3, f25_7, f28_4, g0]

theorem RoundTrip.ste (w : Nat) (d : Nat) (a : Nat) (b : Nat) : RoundTrip.Statement (.ste w d a b) := by
  intro _ u h he
  obtain ⟨h0, h1, h2, h3⟩ := of_decide_eq_true h
  have e : pack [(1, 1), (6, 11), (5, d), (5, a), (5, b), (3, w), (3, 4), (4, 0)] = u := by
    have : 0x8000017 + d * 128 + a * 4096 + b * 131072 + w * 4194304 = u := (Prod.mk.inj (Option.some.inj he)).2
    rw [← this]; simp only [pack]; ring
  have l : Fits [(1, 1), (6, 11), (5, d), (5, a), (5, b), (3, w), (3, 4), (4, 0)] := ⟨by decide, by decide, h1, h2, h3, h0, by decide, by decide, trivial⟩
  have f1_6 : fld u 1 6 = 11 := (fld_pack l e 1 1).trans rfl
  have f7_5 : fld u 7 5 = d := (fld_pack l e 2 1).trans rfl
  have f12_5 : fld u 12 5 = a := (fld_pack l e 3 1).trans rfl
  have f17_5 : fld u 17 5 = b := (fld_pack l e 4 1).trans rfl
  have f22_3 : fld u 22 3 = w := (fld_pack l e 5 1).trans rfl
  have f25_3 : fld u 25 3 = 4 := (fld_pack l e 6 1).trans rfl
  have f25_7 : fld u 25 7 = 4 := (fld_pack l e 6 2).trans (by simp [pack]; try omega)
  refine decodeWord_of_major ((fld_pack l e 0 1).trans rfl) ((decode32_Major0B f1_6).trans ?_) h
  simp [decMajor0B, f7_5, f12_5, f17_5, f22_3, f25_3, f25_7]

theorem RoundTrip.amoswap (a : Nat) (b : Nat) (wd : Nat) (sem : Nat) (sc : Nat) (la : Nat) : RoundTrip.Statement (.amoswap a b wd sem sc la) := by
  intro _ u h he
  obtain ⟨h0, h1, h2, h3, h4, h5⟩ := of_decide_eq_true h
  have e : pack [(1, 1), (6, 21), (5, b), (5, a), (4, 0), (1, wd), (2, sem), (2, sc), (4, la), (2, 0)] = u := by
    have : 0x2B + b * 128 + a * 4096 + wd * 2097152 + sem * 4194304 + sc * 16777216 + la * 67108864 = u := (Prod.mk.inj (Option.some.inj he)).2
    rw [← this]; simp only [pack]; ring
  have l : Fits [(1, 1), (6, 21), (5, b), (5, a), (4, 0), (1, wd), (2, sem), (2, sc), (4, la), (2, 0)] := ⟨by decide, by decide, h1, h0, by decide, h2, h3, h4, h5, by decide, trivial⟩
  have f1_6 : fld u 1 6 = 21 := (fld_pack l e 1 1).trans rfl
  have f7_5 : fld u 7 5 = b := (fld_pack l e 2 1).trans rfl
  have f12_5 : fld u 12 5 = a := (fld_pack l e 3 1).trans rfl
  have f17_4 : fld u 17 4 = 0 := (fld_pack l e 4 1).trans rfl
  have f21_1 : fld u 21 1 = wd := (fld_pack l e 5 1).trans rfl
  have f22_2 : fld u 22 2 = sem := (fld_pack l e 6 1).trans rfl
  have f24_2 : fld u 24 2 = sc := (fld_pack l e 7 1).trans rfl
  have f26_4 : fld u 26 4 = la := (fld_pack l e 8 1).trans rfl
  have f30_2 : fld u 30 2 = 0 := (fld_pack l e 9 1).trans rfl
  refine decodeWord_of_major ((fld_pack l e 0 1).trans rfl) ((decode32_Major15 f1_6).trans ?_) h
  simp [decMajor15, f7_5, f12_5, f17_4, f21_1, f22_2, f24_2, f26_4, f30_2]

theorem RoundTrip.amoadd (a : Nat) (b : Nat) (wd : Nat) (sem : Nat) (sc : Nat) (la : Nat) : RoundTrip.Statement (.amoadd a b wd sem sc la) := by
  intro _ u h he
  obtain ⟨h0, h1, h2, h3, h4, h5⟩ := of_decide_eq_true h
  have e : pack [(1, 1), (6, 21), (5, b), (5, a), (4, 1), (1, wd), (2, sem), (2, sc), (4, la), (2, 0)] = u := by
    have : 0x2002B + b * 128 + a * 4096 + wd * 2097152 + sem * 4194304 + sc * 16777216 + la * 67108864 = u := (Prod.mk.inj (Option.some.inj he)).2
    rw [← this]; simp only [pack]; ring
  have l : Fits [(1, 1), (6, 21), (5, b), (5, a), (4, 1), (1, wd), (2, sem), (2, sc), (4, la), (2, 0)] := ⟨by decide, by decide, h1, h0, by decide, h2, h3, h4, h5, by decide, trivial⟩
  have f1_6 : fld u 1 6 = 21 := (fld_pack l e 1 1).trans rfl
  have f7_5 : fld u 7 5 = b := (fld_pack l e 2 1).trans rfl
  have f12_5 : fld u 12 5 = a := (fld_pack l e 3 1).trans rfl
  have f17_4 : fld u 17 4 = 1 := (fld_pack l e 4 1).trans rfl
  have f21_1 : fld u 21 1 = wd := (fld_pack l e 5 1).trans rfl
  have f22_2 : fld u 22 2 = sem := (fld_pack l e 6 1).trans rfl
  have f24_2 : fld u 24 2 = sc := (fld_pack l e 7 1).trans rfl
  have f26_4 : fld u 26 4 = la := (fld_pack l e 8 1).trans rfl
  have f30_2 : fld u 30 2 = 0 := (fld_pack l e 9 1).trans rfl
  refine decodeWord_of_major ((fld_pack l e 0 1).trans rfl) ((decode32_Major15 f1_6).trans ?_) h
  simp [decMajor15, f7_5, f12_5, f17_4, f21_1, f22_2, f24_2, f26_4, f30_2]

theorem RoundTrip.amoand (a : Nat) (b : Nat) (wd : Nat) (sem : Nat) (sc : Nat) (la : Nat) : RoundTrip.Statement (.amoand a b wd sem sc la) := by
  intro _ u h he
  obtain ⟨h0, h1, h2, h3, h4, h5⟩ := of_decide_eq_true h
  have e : pack [(1, 1), (6, 21), (5, b), (5, a), (4, 2), (1, wd), (2, sem), (2, sc), (4, la), (2, 0)] = u := by
    have : 0x4002B + b * 128 + a * 4096 + wd * 2097152 + sem * 4194304 + sc * 16777216 + la * 67108864 = u := (Prod.mk.inj (Option.some.inj he)).2
    rw [← this]; simp only [pack]; ring
  have l : Fits [(1, 1), (6, 21), (5, b), (5, a), (4, 2), (1, wd), (2, sem), (2, sc), (4, la), (2, 0)] := ⟨by decide, by decide, h1, h0, by decide, h2, h3, h4, h5, by decide, trivial⟩
  have f1_6 : fld u 1 6 = 21 := (fld_pack l e 1 1).trans rfl
  have f7_5 : fld u 7 5 = b := (fld_pack l e 2 1).trans rfl
  have f12_5 : fld u 12 5 = a := (fld_pack l e 3 1).trans rfl
  have f17_4 : fld u 17 4 = 2 := (fld_pack l e 4 1).trans rfl
  have f21_1 : fld u 21 1 = wd := (fld_pack l e 5 1).trans rfl
  have f22_2 : fld u 22 2 = sem := (fld_pack l e 6 1).trans rfl
  have f24_2 : fld u 24 2 = sc := (fld_pack l e 7 1).trans rfl
  have f26_4 : fld u 26 4 = la := (fld_pack l e 8 1).trans rfl
  have f30_2 : fld u 30 2 = 0 := (fld_pack l e 9 1).trans rfl
  refine decodeWord_of_major ((fld_pack l e 0 1).trans rfl) ((decode32_Major15 f1_6).trans ?_) h
  simp [decMajor15, f7_5, f12_5, f17_4, f21_1, f22_2, f24_2, f26_4, f30_2]

theorem RoundTrip.amoor (a : Nat) (b : Nat) (wd : Nat) (sem : Nat) (sc : Nat) (la : Nat) : RoundTrip.Statement (.amoor a b wd sem sc la) := by
  intro _ u h he
  obtain ⟨h0, h1, h2, h3, h4, h5⟩ := of_decide_eq_true h
  have e : pack [(1, 1), (6, 21), (5, b), (5, a), (4, 3), (1, wd), (2, sem), (2, sc), (4, la), (2, 0)] = u := by
    have : 0x6002B + b * 128 + a * 4096 + wd * 2097152 + sem * 4194304 + sc * 16777216 + la * 67108864 = u := (Prod.mk.inj (Option.some.inj he)).2
    rw [← this]; simp only [pack]; ring
  have l : Fits [(1, 1), (6, 21), (5, b), (5, a), (4, 3), (1, wd), (2, sem), (2, sc), (4, la), (2, 0)] := ⟨by decide, by decide, h1, h0, by decide, h2, h3, h4, h5, by decide, trivial⟩
  have f1_6 : fld u 1 6 = 21 := (fld_pack l e 1 1).trans rfl
  have f7_5 : fld u 7 5 = b := (fld_pack l e 2 1).trans rfl
  have f12_5 : fld u 12 5 = a := (fld_pack l e 3 1).trans rfl
  have f17_4 : fld u 17 4 = 3 := (fld_pack l e 4 1).trans rfl
  have f21_1 : fld u 21 1 = wd := (fld_pack l e 5 1).trans rfl
  have f22_2 : fld u 22 2 = sem := (fld_pack l e 6 1).trans rfl
  have f24_2 : fld u 24 2 = sc := (fld_pack l e 7 1).trans rfl
  have f26_4 : fld u 26 4 = la := (fld_pack l e 8 1).trans rfl
  have f30_2 : fld u 30 2 = 0 := (fld_pack l e 9 1).trans rfl
  refine decodeWord_of_major ((fld_pack l e 0 1).trans rfl) ((decode32_Major15 f1_6).trans ?_) h
  simp [decMajor15, f7_5, f12_5, f17_4, f21_1, f22_2, f24_2, f26_4, f30_2]

theorem RoundTrip.amoxor (a : Nat) (b : Nat) (wd : Nat) (sem : Nat) (sc : Nat) (la : Nat) : RoundTrip.Statement (.amoxor a b wd sem sc la) := by
  intro _ u h he
  obtain ⟨h0, h1, h2, h3, h4, h5⟩ := of_decide_eq_true h
  have e : pack [(1, 1), (6, 21), (5, b), (5, a), (4, 4), (1, wd), (2, sem), (2, sc), (4, la), (2, 0)] = u := by
    have : 0x8002B + b * 128 + a * 4096 + wd * 2097152 + sem * 4194304 + sc * 16777216 + la * 67108864 = u := (Prod.mk.inj (Option.some.inj he)).2
    rw [← this]; simp only [pack]; ring
  have l : Fits [(1, 1), (6, 21), (5, b), (5, a), (4, 4), (1, wd), (2, sem), (2, sc), (4, la), (2, 0)] := ⟨by decide, by decide, h1, h0, by decide, h2, h3, h4, h5, by decide, trivial⟩
  have f1_6 : fld u 1 6 = 21 := (fld_pack l e 1 1).trans rfl
  have f7_5 : fld u 7 5 = b := (fld_pack l e 2 1).trans rfl
  have f12_5 : fld u 12 5 = a := (fld_pack l e 3 1).trans rfl
  have f17_4 : fld u 17 4 = 4 := (fld_pack l e 4 1).trans rfl
  have f21_1 : fld u 21 1 = wd := (fld_pack l e 5 1).trans rfl
  have f22_2 : fld u 22 2 = sem := (fld_pack l e 6 1).trans rfl
  have f24_2 : fld u 24 2 = sc := (fld_pack l e 7 1).trans rfl
  have f26_4 : fld u 26 4 = la := (fld_pack l e 8 1).trans rfl
  have f30_2 : fld u 30 2 = 0 := (fld_pack l e 9 1).trans rfl
  refine decodeWord_of_major ((fld_pack l e 0 1).trans rfl) ((decode32_Major15 f1_6).trans ?_) h
  simp [decMajor15, f7_5, f12_5, f17_4, f21_1, f22_2, f24_2, f26_4, f30_2]

theorem RoundTrip.amomin (a : Nat) (b : Nat) (wd : Nat) (sem : Nat) (sc : Nat) (la : Nat) : RoundTrip.Statement (.amomin a b wd sem sc la) := by
  intro _ u h he
  obtain ⟨h0, h1, h2, h3, h4, h5⟩ := of_decide_eq_true h
  have e : pack [(1, 1), (6, 21), (5, b), (5, a), (4, 5), (1, wd), (2, sem), (2, sc), (4, la), (2, 0)] = u := by
    have : 0xA002B + b * 128 + a * 4096 + wd * 2097152 + sem * 4194304 + sc * 16777216 + la * 67108864 = u := (Prod.mk.inj (Option.some.inj he)).2
    rw [← this]; simp only [pack]; ring
  have l : Fits [(1, 1), (6, 21), (5, b), (5, a), (4, 5), (1, wd), (2, sem), (2, sc), (4, la), (2, 0)] := ⟨by decide, by decide, h1, h0, by decide, h2, h3, h4, h5, by decide, trivial⟩
  have f1_6 : fld u 1 6 = 21 := (fld_pack l e 1 1).trans rfl
  have f7_5 : fld u 7 5 = b := (fld_pack l e 2 1).trans rfl
  have f12_5 : fld u 12 5 = a := (fld_pack l e 3 1).trans rfl
  have f17_4 : fld u 17 4 = 5 := (fld_pack l e 4 1).trans rfl
  have f21_1 : fld u 21 1 = wd := (fld_pack l e 5 1).trans rfl
  have f22_2 : fld u 22 2 = sem := (fld_pack l e 6 1).trans rfl
  have f24_2 : fld u 24 2 = sc := (fld_pack l e 7 1).trans rfl
  have f26_4 : fld u 26 4 = la := (fld_pack l e 8 1).trans rfl
  have f30_2 : fld u 30 2 = 0 := (fld_pack l e 9 1).trans rfl
  refine decodeWord_of_major ((fld_pack l e 0 1).trans rfl) ((decode32_Major15 f1_6).trans ?_) h
  simp [decMajor15, f7_5, f12_5, f17_4, f21_1, f22_2, f24_2, f26_4, f30_2]

theorem RoundTrip.amomax (a : Nat) (b : Nat) (wd : Nat) (sem : Nat) (sc : Nat) (la : Nat) : RoundTrip.Statement (.amomax a b wd sem sc la) := by
  intro _ u h he
  obtain ⟨h0, h1, h2, h3, h4, h5⟩ := of_decide_eq_true h
  have e : pack [(1, 1), (6, 21), (5, b), (5, a), (4, 6), (1, wd), (2, sem), (2, sc), (4, la), (2, 0)] = u := by
    have : 0xC002B + b * 128 + a * 4096 + wd * 2097152 + sem * 4194304 + sc * 16777216 + la * 67108864 = u := (Prod.mk.inj (Option.some.inj he)).2
    rw [← this]; simp only [pack]; ring
  have l : Fits [(1, 1), (6, 21), (5, b), (5, a), (4, 6), (1, wd), (2, sem), (2, sc), (4, la), (2, 0)] := ⟨by decide, by decide, h1, h0, by decide, h2, h3, h4, h5, by decide, trivial⟩
  have f1_6 : fld u 1 6 = 21 := (fld_pack l e 1 1).trans rfl
  have f7_5 : fld u 7 5 = b := (fld_pack l e 2 1).trans rfl
  have f12_5 : fld u 12 5 = a := (fld_pack l e 3 1).trans rfl
  have f17_4 : fld u 17 4 = 6 := (fld_pack l e 4 1).trans rfl
  have f21_1 : fld u 21 1 = wd := (fld_pack l e 5 1).trans rfl
  have f22_2 : fld u 22 2 = sem := (fld_pack l e 6 1).trans rfl
  have f24_2 : fld u 24 2 = sc := (fld_pack l e 7 1).trans rfl
  have f26_4 : fld u 26 4 = la := (fld_pack l e 8 1).trans rfl
  have f30_2 : fld u 30 2 = 0 := (fld_pack l e 9 1).trans rfl
  refine decodeWord_of_major ((fld_pack l e 0 1).trans rfl) ((decode32_Major15 f1_6).trans ?_) h
  simp [decMajor15, f7_5, f12_5, f17_4, f21_1, f22_2, f24_2, f26_4, f30_2]

theorem RoundTrip.amominn (a : Nat) (b : Nat) (wd : Nat) (sem : Nat) (sc : Nat) (la : Nat) : RoundTrip.Statement (.amominn a b wd sem sc la) := by
  intro _ u h he
  obtain ⟨h0, h1, h2, h3, h4, h5⟩ := of_decide_eq_true h
  have e : pack [(1, 1), (6, 21), (5, b), (5, a), (4, 7), (1, wd), (2, sem), (2, sc), (4, la), (2, 0)] = u := by
    have : 0xE002B + b * 128 + a * 4096 + wd * 2097152 + sem * 4194304 + sc * 16777216 + la * 67108864 = u := (Prod.mk.inj (Option.some.inj he)).2
    rw [← this]; simp only [pack]; ring
  have l : Fits [(1, 1), (6, 21), (5, b), (5, a), (4, 7), (1, wd), (2, sem), (2, sc), (4, la), (2, 0)] := ⟨by decide, by decide, h1, h0, by decide, h2, h3, h4, h5, by decide, trivial⟩
  have f1_6 : fld u 1 6 = 21 := (fld_pack l e 1 1).trans rfl
  have f7_5 : fld u 7 5 = b := (fld_pack l e 2 1).trans rfl
  have f12_5 : fld u 12 5 = a := (fld_pack l e 3 1).trans rfl
  have f17_4 : fld u 17 4 = 7 := (fld_pack l e 4 1).trans rfl
  have f21_1 : fld u 21 1 = wd := (fld_pack l e 5 1).trans rfl
  have f22_2 : fld u 22 2 = sem := (fld_pack l e 6 1).trans rfl
  have f24_2 : fld u 24 2 = sc := (fld_pack l e 7 1).trans rfl
  have f26_4 : fld u 26 4 = la := (fld_pack l e 8 1).trans rfl
  have f30_2 : fld u 30 2 = 0 := (fld_pack l e 9 1).trans rfl
  refine decodeWord_of_major ((fld_pack l e 0 1).trans rfl) ((decode32_Major15 f1_6).trans ?_) h
  simp [decMajor15, f7_5, f12_5, f17_4, f21_1, f22_2, f24_2, f26_4, f30_2]

theorem RoundTrip.amomaxn (a : Nat) (b : Nat) (wd : Nat) (sem : Nat) (sc : Nat) (la : Nat) : RoundTrip.Statement (.amomaxn a b wd sem sc la) := by
  intro _ u h he
  obtain ⟨h0, h1, h2, h3, h4, h5⟩ := of_decide_eq_true h
  have e : pack [(1, 1), (6, 21), (5, b), (5, a), (4, 8), (1, wd), (2, sem), (2, sc), (4, la), (2, 0)] = u := by
    have : 0x10002B + b * 128 + a * 4096 + wd * 2097152 + sem * 4194304 + sc * 16777216 + la * 67108864 = u := (Prod.mk.inj (Option.some.inj he)).2
    rw [← this]; simp only [pack]; ring
  have l : Fits [(1, 1), (6, 21), (5, b), (5, a), (4, 8), (1, wd), (2, sem), (2, sc), (4, la), (2, 0)] := ⟨by decide, by decide, h1, h0, by decide, h2, h3, h4, h5, by decide, trivial⟩
  have f1_6 : fld u 1 6 = 21 := (fld_pack l e 1 1).trans rfl
  have f7_5 : fld u 7 5 = b := (fld_pack l e 2 1).trans rfl
  have f12_5 : fld u 12 5 = a := (fld_pack l e 3 1).trans rfl
  have f17_4 : fld u 17 4 = 8 := (fld_pack l e 4 1).trans rfl
  have f21_1 : fld u 21 1 = wd := (fld_pack l e 5 1).trans rfl
  have f22_2 : fld u 22 2 = sem := (fld_pack l e 6 1).trans rfl
  have f24_2 : fld u 24 2 = sc := (fld_pack l e 7 1).trans rfl
  have f26_4 : fld u 26 4 = la := (fld_pack l e 8 1).trans rfl
  have f30_2 : fld u 30 2 = 0 := (fld_pack l e 9 1).trans rfl
  refine decodeWord_of_major ((fld_pack l e 0 1).trans rfl) ((decode32_Major15 f1_6).trans ?_) h
  simp [decMajor15, f7_5, f12_5, f17_4, f21_1, f22_2, f24_2, f26_4, f30_2]

theorem RoundTrip.amocas (a : Nat) (b : Nat) (wd : Nat) (sem : Nat) (sc : Nat) (la : Nat) : RoundTrip.Statement (.amocas a b wd sem sc la) := by
  intro _ u h he
  obtain ⟨h0, h1, h2, h3, h4, h5, -⟩ := of_decide_eq_true h
  have e : pack [(1, 1), (6, 21), (5, b), (5, a), (4, 9), (1, wd), (2, sem), (2, sc), (4, la), (2, 0)] = u := by
    have : 0x12002B + b * 128 + a * 4096 + wd * 2097152 + sem * 4194304 + sc * 16777216 + la * 67108864 = u := (Prod.mk.inj (Option.some.inj he)).2
    rw [← this]; simp only [pack]; ring
  have l : Fits [(1, 1), (6, 21), (5, b), (5, a), (4, 9), (1, wd), (2, sem), (2, sc), (4, la), (2, 0)] := ⟨by decide, by decide, h1, h0, by decide, h2, h3, h4, h5, by decide, trivial⟩
  have f1_6 : fld u 1 6 = 21 := (fld_pack l e 1 1).trans rfl
  have f7_5 : fld u 7 5 = b := (fld_pack l e 2 1).trans rfl
  have f12_5 : fld u 12 5 = a := (fld_pack l e 3 1).trans rfl
  have f17_4 : fld u 17 4 = 9 := (fld_pack l e 4 1).trans rfl
  have f21_1 : fld u 21 1 = wd := (fld_pack l e 5 1).trans rfl
  have f22_2 : fld u 22 2 = sem := (fld_pack l e 6 1).trans rfl
  have f24_2 : fld u 24 2 = sc := (fld_pack l e 7 1).trans rfl
  have f26_4 : fld u 26 4 = la := (fld_pack l e 8 1).trans rfl
  have f30_2 : fld u 30 2 = 0 := (fld_pack l e 9 1).trans rfl
  refine decodeWord_of_major ((fld_pack l e 0 1).trans rfl) ((decode32_Major15 f1_6).trans ?_) h
  simp [decMajor15, f7_5, f12_5, f17_4, f21_1, f22_2, f24_2, f26_4, f30_2]

theorem RoundTrip.amfadd (a : Nat) (b : Nat) (wd : Nat) (sem : Nat) (sc : Nat) (la : Nat) : RoundTrip.Statement (.amfadd a b wd sem sc la) := by
  intro _ u h he
  obtain ⟨h0, h1, h2, h3, h4, h5⟩ := of_decide_eq_true h
  have e : pack [(1, 1), (6, 22), (5, b), (5, a), (4, 0), (1, wd), (2, sem), (2, sc), (4, la), (2, 0)] = u := by
    have : 0x2D + b * 128 + a * 4096 + wd * 2097152 + sem * 4194304 + sc * 16777216 + la * 67108864 = u := (Prod.mk.inj (Option.some.inj he)).2
    rw [← this]; simp only [pack]; ring
  have l : Fits [(1, 1), (6, 22), (5, b), (5, a), (4, 0), (1, wd), (2, sem), (2, sc), (4, la), (2, 0)] := ⟨by decide, by decide, h1, h0, by decide, h2, h3, h4, h5, by decide, trivial⟩
  have f1_6 : fld u 1 6 = 22 := (fld_pack l e 1 1).trans rfl
  have f7_5 : fld u 7 5 = b := (fld_pack l e 2 1).trans rfl
  have f12_5 : fld u 12 5 = a := (fld_pack l e 3 1).trans rfl
  have f17_4 : fld u 17 4 = 0 := (fld_pack l e 4 1).trans rfl
  have f21_1 : fld u 21 1 = wd := (fld_pack l e 5 1).trans rfl
  have f22_2 : fld u 22 2 = sem := (fld_pack l e 6 1).trans rfl
  have f24_2 : fld u 24 2 = sc := (fld_pack l e 7 1).trans rfl
  have f26_4 : fld u 26 4 = la := (fld_pack l e 8 1).trans rfl
  have f30_2 : fld u 30 2 = 0 := (fld_pack l e 9 1).trans rfl
  refine decodeWord_of_major ((fld_pack l e 0 1).trans rfl) ((decode32_Major16 f1_6).trans ?_) h
  simp [decMajor16, f7_5, f12_5, f17_4, f21_1, f22_2, f24_2, f26_4, f30_2]

theorem RoundTrip.amfmin (a : Nat) (b : Nat) (wd : Nat) (sem : Nat) (sc : Nat) (la : Nat) : RoundTrip.Statement (.amfmin a b wd sem sc la) := by
  intro _ u h he
  obtain ⟨h0, h1, h2, h3, h4, h5⟩ := of_decide_eq_true h
  have e : pack [(1, 1), (6, 22), (5, b), (5, a), (4, 1), (1, wd), (2, sem), (2, sc), (4, la), (2, 0)] = u := by
    have : 0x2002D + b * 128 + a * 4096 + wd * 2097152 + sem * 4194304 + sc * 16777216 + la * 67108864 = u := (Prod.mk.inj (Option.some.inj he)).2
    rw [← this]; simp only [pack]; ring
  have l : Fits [(1, 1), (6, 22), (5, b), (5, a), (4, 1), (1, wd), (2, sem), (2, sc), (4, la), (2, 0)] := ⟨by decide, by decide, h1, h0, by decide, h2, h3, h4, h5, by decide, trivial⟩
  have f1_6 : fld u 1 6 = 22 := (fld_pack l e 1 1).trans rfl
  have f7_5 : fld u 7 5 = b := (fld_pack l e 2 1).trans rfl
  have f12_5 : fld u 12 5 = a := (fld_pack l e 3 1).trans rfl
  have f17_4 : fld u 17 4 = 1 := (fld_pack l e 4 1).trans rfl
  have f21_1 : fld u 21 1 = wd := (fld_pack l e 5 1).trans rfl
  have f22_2 : fld u 22 2 = sem := (fld_pack l e 6 1).trans rfl
  have f24_2 : fld u 24 2 = sc := (fld_pack l e 7 1).trans rfl
  have f26_4 : fld u 26 4 = la := (fld_pack l e 8 1).trans rfl
  have f30_2 : fld u 30 2 = 0 := (fld_pack l e 9 1).trans rfl
  refine decodeWord_of_major ((fld_pack l e 0 1).trans rfl) ((decode32_Major16 f1_6).trans ?_) h
  simp [decMajor16, f7_5, f12_5, f17_4, f21_1, f22_2, f24_2, f26_4, f30_2]

theorem RoundTrip.amfmax (a : Nat) (b : Nat) (wd : Nat) (sem : Nat) (sc : Nat) (la : Nat) : RoundTrip.Statement (.amfmax a b wd sem sc la) := by
  intro _ u h he
  obtain ⟨h0, h1, h2, h3, h4, h5⟩ := of_decide_eq_true h
  have e : pack [(1, 1), (6, 22), (5, b), (5, a), (4, 2), (1, wd), (2, sem), (2, sc), (4, la), (2, 0)] = u := by
    have : 0x4002D + b * 128 + a * 4096 + wd * 2097152 + sem * 4194304 + sc * 16777216 + la * 67108864 = u := (Prod.mk.inj (Option.some.inj he)).2
    rw [← this]; simp only [pack]; ring
  have l : Fits [(1, 1), (6, 22), (5, b), (5, a), (4, 2), (1, wd), (2, sem), (2, sc), (4, la), (2, 0)] := ⟨by decide, by decide, h1, h0, by decide, h2, h3, h4, h5, by decide, trivial⟩
  have f1_6 : fld u 1 6 = 22 := (fld_pack l e 1 1).trans rfl
  have f7_5 : fld u 7 5 = b := (fld_pack l e 2 1).trans rfl
  have f12_5 : fld u 12 5 = a := (fld_pack l e 3 1).trans rfl
  have f17_4 : fld u 17 4 = 2 := (fld_pack l e 4 1).trans rfl
  have f21_1 : fld u 21 1 = wd := (fld_pack l e 5 1).trans rfl
  have f22_2 : fld u 22 2 = sem := (fld_pack l e 6 1).trans rfl
  have f24_2 : fld u 24 2 = sc := (fld_pack l e 7 1).trans rfl
  have f26_4 : fld u 26 4 = la := (fld_pack l e 8 1).trans rfl
  have f30_2 : fld u 30 2 = 0 := (fld_pack l e 9 1).trans rfl
  refine decodeWord_of_major ((fld_pack l e 0 1).trans rfl) ((decode32_Major16 f1_6).trans ?_) h
  simp [decMajor16, f7_5, f12_5, f17_4, f21_1, f22_2, f24_2, f26_4, f30_2]

theorem RoundTrip.radd (a : Nat) (b : Nat) (wd : Nat) (la : Nat) : RoundTrip.Statement (.radd a b wd la) := by
  intro _ u h he
  obtain ⟨h0, h1, h2, h3⟩ := of_decide_eq_true h
  have e : pack [(1, 1), (6, 22), (5, b), (5, a), (4, 3), (1, wd), (4, 0), (4, la), (2, 0)] = u := by
    have : 0x6002D + b * 128 + a * 4096 + wd * 2097152 + la * 67108864 = u := (Prod.mk.inj (Option.some.inj he)).2
    rw [← this]; simp only [pack]; ring
  have l : Fits [(1, 1), (6, 22), (5, b), (5, a), (4, 3), (1, wd), (4, 0), (4, la), (2, 0)] := ⟨by decide, by decide, h1, h0, by decide, h2, by decide, h3, by decide, trivial⟩
  have f1_6 : fld u 1 6 = 22 := (fld_pack l e 1 1).trans rfl
  have f7_5 : fld u 7 5 = b := (fld_pack l e 2 1).trans rfl
  have f12_5 : fld u 12 5 = a := (fld_pack l e 3 1).trans rfl
  have f17_4 : fld u 17 4 = 3 := (fld_pack l e 4 1).trans rfl
  have f21_1 : fld u 21 1 = wd := (fld_pack l e 5 1).trans rfl
  have f22_4 : fld u 22 4 = 0 := (fld_pack l e 6 1).trans rfl
  have f26_4 : fld u 26 4 = la := (fld_pack l e 7 1).trans rfl
  have f30_2 : fld u 30 2 = 0 := (fld_pack l e 8 1).trans rfl
  refine decodeWord_of_major ((fld_pack l e 0 1).trans rfl) ((decode32_Major16 f1_6).trans ?_) h
  simp [decMajor16, f7_5, f12_5, f17_4, f21_1, f22_4, f26_4, f30_2]

theorem RoundTrip.rflush (a : Nat) (sc : Nat) (la : Nat) : RoundTrip.Statement (.rflush a sc la) := by
  intro _ u h he
  obtain ⟨h0, h1, h2⟩ := of_decide_eq_true h
  have e : pack [(1, 1), (6, 22), (5, 0), (5, a), (4, 4), (1, 0), (2, 0), (2, sc), (4, la), (2, 0)] = u := by
    have : 0x8002D + a * 4096 + sc * 16777216 + la * 67108864 = u := (Prod.mk.inj (Option.some.inj he)).2
    rw [← this]; simp only [pack]; ring
  have l : Fits [(1, 1), (6, 22), (5, 0), (5, a), (4, 4), (1, 0), (2, 0), (2, sc), (4, la), (2, 0)] := ⟨by decide, by decide, by decide, h0, by decide, by decide, by decide, h1, h2, by decide, trivial⟩
  have f1_6 : fld u 1 6 = 22 := (fld_pack l e 1 1).trans rfl
  have f7_5 : fld u 7 5 = 0 := (fld_pack l e 2 1).trans rfl
  have f12_5 : fld u 12 5 = a := (fld_pack l e 3 1).trans rfl
  have f17_4 : fld u 17 4 = 4 := (fld_pack l e 4 1).trans rfl
  have f17_7 : fld u 17 7 = 4 := (fld_pack l e 4 3).trans (by simp [pack]; try omega)
  have f22_4 : fld u 22 4 = sc * 4 := (fld_pack l e 6 2).trans (by simp [pack]; try omega)
  have f24_2 : fld u 24 2 = sc := (fld_pack l e 7 1).trans rfl
  have f26_4 : fld u 26 4 = la := (fld_pack l e 8 1).trans rfl
  have f30_2 : fld u 30 2 = 0 := (fld_pack l e 9 1).trans rfl
  refine decodeWord_of_major ((fld_pack l e 0 1).trans rfl) ((decode32_Major16 f1_6).trans ?_) h
  simp [decMajor16, f7_5, f12_5, f17_4, f17_7, f22_4, f24_2, f26_4, f30_2]

theorem RoundTrip.ldres (a : Nat) (b : Nat) (wd : Nat) (sem : Nat) (sc : Nat) (la : Nat) : RoundTrip.Statement (.ldres a b wd sem sc la) := by
  intro _ u h he
  obtain ⟨h0, h1, h2, h3, h4, h5, h6⟩ := of_decide_eq_true h
  have e : pack [(1, 1), (6, 22), (5, b), (5, a), (4, 5), (1, wd), (2, sem), (2, sc), (4, la), (2, 0)] = u := by
    have : 0xA002D + b * 128 + a * 4096 + wd * 2097152 + sem * 4194304 + sc * 16777216 + la * 67108864 = u := (Prod.mk.inj (Option.some.inj he)).2
    rw [← this]; simp only [pack]; ring
  have l : Fits [(1, 1), (6, 22), (5, b), (5, a), (4, 5), (1, wd), (2, sem), (2, sc), (4, la), (2, 0)] := ⟨by decide, by decide, h1, h0, by decide, h2, h3, h4, h5, by decide, trivial⟩
  have f1_6 : fld u 1 6 = 22 := (fld_pack l e 1 1).trans rfl
  have f7_5 : fld u 7 5 = b := (fld_pack l e 2 1).trans rfl
  have f12_5 : fld u 12 5 = a := (fld_pack l e 3 1).trans rfl
  have f17_4 : fld u 17 4 = 5 := (fld_pack l e 4 1).trans rfl
  have f17_7 : fld u 17 7 = 5 + wd * 16 + sem * 32 := (fld_pack l e 4 3).trans (by simp [pack]; try omega)
  have f21_1 : fld u 21 1 = wd := (fld_pack l e 5 1).trans rfl
  have f22_2 : fld u 22 2 = sem := (fld_pack l e 6 1).trans rfl
  have f22_4 : fld u 22 4 = sem + sc * 4 := (fld_pack l e 6 2).trans (by simp [pack]; try omega)
  have f24_2 : fld u 24 2 = sc := (fld_pack l e 7 1).trans rfl
  have f26_4 : fld u 26 4 = la := (fld_pack l e 8 1).trans rfl
  have f30_2 : fld u 30 2 = 0 := (fld_pack l e 9 1).trans rfl
  have g0 : ¬ (5 + wd * 16 + sem * 32 = 4) := by omega
  refine decodeWord_of_major ((fld_pack l e 0 1).trans rfl) ((decode32_Major16 f1_6).trans ?_) h
  simp [decMajor16, f7_5, f12_5, f17_4, f17_7, f21_1, f22_2, f22_4, f24_2, f26_4, f30_2, g0]

theorem RoundTrip.stcond (a : Nat) (b : Nat) (wd : Nat) (sem : Nat) (sc : Nat) (la : Nat) : RoundTrip.Statement (.stcond a b wd sem sc la) := by
  intro _ u h he
  obtain ⟨h0, h1, h2, h3, h4, h5, -⟩ := of_decide_eq_true h
  have e : pack [(1, 1), (6, 22), (5, b), (5, a), (4, 6), (1, wd), (2, sem), (2, sc), (4, la), (2, 0)] = u := by
    have : 0xC002D + b * 128 + a * 4096 + wd * 2097152 + sem * 4194304 + sc * 16777216 + la * 67108864 = u := (Prod.mk.inj (Option.some.inj he)).2
    rw [← this]; simp only [pack]; ring
  have l : Fits [(1, 1), (6, 22), (5, b), (5, a), (4, 6), (1, wd), (2, sem), (2, sc), (4, la), (2, 0)] := ⟨by decide, by decide, h1, h0, by decide, h2, h3, h4, h5, by decide, trivial⟩
  have f1_6 : fld u 1 6 = 22 := (fld_pack l e 1 1).trans rfl
  have f7_5 : fld u 7 5 = b := (fld_pack l e 2 1).trans rfl
  have f12_5 : fld u 12 5 = a := (fld_pack l e 3 1).trans rfl
  have f17_4 : fld u 17 4 = 6 := (fld_pack l e 4 1).trans rfl
  have f17_7 : fld u 17 7 = 6 + wd * 16 + sem * 32 := (fld_pack l e 4 3).trans (by simp [pack]; try omega)
  have f21_1 : fld u 21 1 = wd := (fld_pack l e 5 1).trans rfl
  have f22_2 : fld u 22 2 = sem := (fld_pack l e 6 1).trans rfl
  have f22_4 : fld u 22 4 = sem + sc * 4 := (fld_pack l e 6 2).trans (by simp [pack]; try omega)
  have f24_2 : fld u 24 2 = sc := (fld_pack l e 7 1).trans rfl
  have f26_4 : fld u 26 4 = la := (fld_pack l e 8 1).trans rfl
  have f30_2 : fld u 30 2 = 0 := (fld_pack l e 9 1).trans rfl
  have g0 : ¬ (6 + wd * 16 + sem * 32 = 4) := by omega
  refine decodeWord_of_major ((fld_pack l e 0 1).trans rfl) ((decode32_Major16 f1_6).trans ?_) h
  simp [decMajor16, f7_5, f12_5, f17_4, f17_7, f21_1, f22_2, f22_4, f24_2, f26_4, f30_2, g0]

theorem RoundTrip.raddi (a : Nat) (b : Nat) (wd : Nat) (la : Nat) : RoundTrip.Statement (.raddi a b wd la) := by
  intro _ u h he
  obtain ⟨h0, h1, h2, h3⟩ := of_decide_eq_true h
  have e : pack [(1, 1), (6, 22), (5, b), (5, a), (4, 7), (1, wd), (2, 0), (2, 0), (4, la), (2, 0)] = u := by
    have : 0xE002D + b * 128 + a * 4096 + wd * 2097152 + la * 67108864 = u := (Prod.mk.inj (Option.some.inj he)).2
    rw [← this]; simp only [pack]; ring
  have l : Fits [(1, 1), (6, 22), (5, b), (5, a), (4, 7), (1, wd), (2, 0), (2, 0), (4, la), (2, 0)] := ⟨by decide, by decide, h1, h0, by decide, h2, by decide, by decide, h3, by decide, trivial⟩
  have f1_6 : fld u 1 6 = 22 := (fld_pack l e 1 1).trans rfl
  have f7_5 : fld u 7 5 = b := (fld_pack l e 2 1).trans rfl
  have f12_5 : fld u 12 5 = a := (fld_pack l e 3 1).trans rfl
  have f17_4 : fld u 17 4 = 7 := (fld_pack l e 4 1).trans rfl
  have f17_7 : fld u 17 7 = 7 + wd * 16 := (fld_pack l e 4 3).trans (by simp [pack]; try omega)
  have f21_1 : fld u 21 1 = wd := (fld_pack l e 5 1).trans rfl
  have f22_4 : fld u 22 4 = 0 := (fld_pack l e 6 2).trans (by simp [pack]; try omega)
  have f26_4 : fld u 26 4 = la := (fld_pack l e 8 1).trans rfl
  have f30_2 : fld u 30 2 = 0 := (fld_pack l e 9 1).trans rfl
  have g0 : ¬ (7 + wd * 16 = 4) := by omega
  refine decodeWord_of_major ((fld_pack l e 0 1).trans rfl) ((decode32_Major16 f1_6).trans ?_) h
  simp [decMajor16, f7_5, f12_5, f17_4, f17_7, f21_1, f22_4, f26_4, f30_2, g0]

theorem RoundTrip.fence (sc : Nat) (pred : Nat) (succ : Nat) : RoundTrip.Statement (.fence sc pred succ) := by
  intro _ u h he
  obtain ⟨h0, h1, h2, h3⟩ := of_decide_eq_true h
  have e : pack [(1, 1), (6, 23), (5, 0), (8, pred), (8, succ), (3, sc), (1, 0)] = u := by
    have : 0x2F + pred * 4096 + succ * 1048576 + sc * 268435456 = u := (Prod.mk.inj (Option.some.inj he)).2
    rw [← this]; simp only [pack]; ring
  have l : Fits [(1, 1), (6, 23), (5, 0), (8, pred), (8, succ), (3, sc), (1, 0)] := ⟨by decide, by decide, by decide, h1, h2, h0, by decide, trivial⟩
  have f1_6 : fld u 1 6 = 23 := (fld_pack l e 1 1).trans rfl
  have f7_5 : fld u 7 5 = 0 := (fld_pack l e 2 1).trans rfl
  have f12_8 : fld u 12 8 = pred := (fld_pack l e 3 1).trans rfl
  have f20_8 : fld u 20 8 = succ := (fld_pack l e 4 1).trans rfl
  have f28_3 : fld u 28 3 = sc := (fld_pack l e 5 1).trans rfl
  have f31_1 : fld u 31 1 = 0 := (fld_pack l e 6 1).trans rfl
  refine decodeWord_of_major ((fld_pack l e 0 1).trans rfl) ((decode32_Major17 f1_6).trans ?_) h
  simp [decMajor17, f7_5, f12_8, f20_8, f28_3, f31_1]

theorem RoundTrip.tlwait (a : Nat) (kind : Nat) : RoundTrip.Statement (.tlwait a kind) := by
  intro _ u h he
  obtain ⟨h0, h1, h2⟩ := of_decide_eq_true h
  have e : pack [(1, 1), (6, 23), (5, 1), (5, a), (3, kind), (11, 0), (1, 0)] = u := by
    have : 0xAF + a * 4096 + kind * 131072 = u := (Prod.mk.inj (Option.some.inj he)).2
    rw [← this]; simp only [pack]; ring
  have l : Fits [(1, 1), (6, 23), (5, 1), (5, a), (3, kind), (11, 0), (1, 0)] := ⟨by decide, by decide, by decide, h0, h1, by decide, by decide, trivial⟩
  have f1_6 : fld u 1 6 = 23 := (fld_pack l e 1 1).trans rfl
  have f7_5 : fld u 7 5 = 1 := (fld_pack l e 2 1).trans rfl
  have f12_5 : fld u 12 5 = a := (fld_pack l e 3 1).trans rfl
  have f17_3 : fld u 17 3 = kind := (fld_pack l e 4 1).trans rfl
  have f20_12 : fld u 20 12 = 0 := (fld_pack l e 5 2).trans (by simp [pack]; try omega)
  have f31_1 : fld u 31 1 = 0 := (fld_pack l e 6 1).trans rfl
  refine decodeWord_of_major ((fld_pack l e 0 1).trans rfl) ((decode32_Major17 f1_6).trans ?_) h
  simp [decMajor17, f7_5, f12_5, f17_3, f20_12, f31_1]

theorem RoundTrip.tltest (d : Nat) (a : Nat) (kind : Nat) : RoundTrip.Statement (.tltest d a kind) := by
  intro _ u h he
  obtain ⟨h0, h1, h2, h3⟩ := of_decide_eq_true h
  have e : pack [(1, 1), (6, 23), (5, 2), (5, a), (3, kind), (5, d), (6, 0), (1, 0)] = u := by
    have : 0x12F + a * 4096 + kind * 131072 + d * 1048576 = u := (Prod.mk.inj (Option.some.inj he)).2
    rw [← this]; simp only [pack]; ring
  have l : Fits [(1, 1), (6, 23), (5, 2), (5, a), (3, kind), (5, d), (6, 0), (1, 0)] := ⟨by decide, by decide, by decide, h1, h2, h0, by decide, by decide, trivial⟩
  have f1_6 : fld u 1 6 = 23 := (fld_pack l e 1 1).trans rfl
  have f7_5 : fld u 7 5 = 2 := (fld_pack l e 2 1).trans rfl
  have f12_5 : fld u 12 5 = a := (fld_pack l e 3 1).trans rfl
  have f17_3 : fld u 17 3 = kind := (fld_pack l e 4 1).trans rfl
  have f20_5 : fld u 20 5 = d := (fld_pack l e 5 1).trans rfl
  have f20_12 : fld u 20 12 = d := (fld_pack l e 5 3).trans (by simp [pack]; try omega)
  have f25_7 : fld u 25 7 = 0 := (fld_pack l e 6 2).trans (by simp [pack]; try omega)
  have f31_1 : fld u 31 1 = 0 := (fld_pack l e 7 1).trans rfl
  refine decodeWord_of_major ((fld_pack l e 0 1).trans rfl) ((decode32_Major17 f1_6).trans ?_) h
  simp [decMajor17, f7_5, f12_5, f17_3, f20_5, f20_12, f25_7, f31_1]

theorem RoundTrip.hint (k : Nat) (rest : Nat) : RoundTrip.Statement (.hint k rest) := by
  intro _ u h he
  obtain ⟨h0, h1⟩ := of_decide_eq_true h
  have e : pack [(1, 1), (6, 23), (3, k), (2, 3), (20, rest)] = u := by
    have : 0xC2F + k * 128 + rest * 4096 = u := (Prod.mk.inj (Option.some.inj he)).2
    rw [← this]; simp only [pack]; ring
  have l : Fits [(1, 1), (6, 23), (3, k), (2, 3), (20, rest)] := ⟨by decide, by decide, h0, by decide, h1, trivial⟩
  have f1_6 : fld u 1 6 = 23 := (fld_pack l e 1 1).trans rfl
  have f7_3 : fld u 7 3 = k := (fld_pack l e 2 1).trans rfl
  have f7_5 : fld u 7 5 = 24 + k := (fld_pack l e 2 2).trans (by simp [pack]; try omega)
  have f10_2 : fld u 10 2 = 3 := (fld_pack l e 3 1).trans rfl
  have f12_20 : fld u 12 20 = rest := (fld_pack l e 4 1).trans rfl
  have g0 : ¬ (24 + k = 0) := by omega
  have g1 : ¬ (24 + k = 1) := by omega
  have g2 : ¬ (24 + k = 2) := by omega
  refine decodeWord_of_major ((fld_pack l e 0 1).trans rfl) ((decode32_Major17 f1_6).trans ?_) h
  simp [decMajor17, f7_3, f7_5, f10_2, f12_20, g0, g1, g2]

theorem RoundTrip.cpy (d : Nat) (a : Nat) (b : Nat) (q : Nat) (la : Nat) : RoundTrip.Statement (.cpy d a b q la) := by
  intro _ u h he
  obtain ⟨h0, h1, h2, h3, h4⟩ := of_decide_eq_true h
  have e : pack [(1, 1), (6, 52), (5, d), (5, a), (5, b), (3, 0), (3, q), (4, la)] = u := by
    have : 0x69 + d * 128 + a * 4096 + b * 131072 + q * 33554432 + la * 268435456 = u := (Prod.mk.inj (Option.some.inj he)).2
    rw [← this]; simp only [pack]; ring
  have l : Fits [(1, 1), (6, 52), (5, d), (5, a), (5, b), (3, 0), (3, q), (4, la)] := ⟨by decide, by decide, h0, h1, h2, by decide, h3, h4, trivial⟩
  have f1_6 : fld u 1 6 = 52 := (fld_pack l e 1 1).trans rfl
  have f7_5 : fld u 7 5 = d := (fld_pack l e 2 1).trans rfl
  have f12_5 : fld u 12 5 = a := (fld_pack l e 3 1).trans rfl
  have f17_5 : fld u 17 5 = b := (fld_pack l e 4 1).trans rfl
  have f22_3 : fld u 22 3 = 0 := (fld_pack l e 5 1).trans rfl
  have f25_3 : fld u 25 3 = q := (fld_pack l e 6 1).trans rfl
  have f28_4 : fld u 28 4 = la := (fld_pack l e 7 1).trans rfl
  refine decodeWord_of_major ((fld_pack l e 0 1).trans rfl) ((decode32_Major34 f1_6).trans ?_) h
  simp [decMajor34, f7_5, f12_5, f17_5, f22_3, f25_3, f28_4]

theorem RoundTrip.cpyt (d : Nat) (a : Nat) (b : Nat) (q : Nat) (la : Nat) : RoundTrip.Statement (.cpyt d a b q la) := by
  intro _ u h he
  obtain ⟨h0, h1, h2, h3, h4⟩ := of_decide_eq_true h
  have e : pack [(1, 1), (6, 52), (5, d), (5, a), (5, b), (3, 1), (3, q), (4, la)] = u := by
    have : 0x400069 + d * 128 + a * 4096 + b * 131072 + q * 33554432 + la * 268435456 = u := (Prod.mk.inj (Option.some.inj he)).2
    rw [← this]; simp only [pack]; ring
  have l : Fits [(1, 1), (6, 52), (5, d), (5, a), (5, b), (3, 1), (3, q), (4, la)] := ⟨by decide, by decide, h0, h1, h2, by decide, h3, h4, trivial⟩
  have f1_6 : fld u 1 6 = 52 := (fld_pack l e 1 1).trans rfl
  have f7_5 : fld u 7 5 = d := (fld_pack l e 2 1).trans rfl
  have f12_5 : fld u 12 5 = a := (fld_pack l e 3 1).trans rfl
  have f17_5 : fld u 17 5 = b := (fld_pack l e 4 1).trans rfl
  have f22_3 : fld u 22 3 = 1 := (fld_pack l e 5 1).trans rfl
  have f25_3 : fld u 25 3 = q := (fld_pack l e 6 1).trans rfl
  have f28_4 : fld u 28 4 = la := (fld_pack l e 7 1).trans rfl
  refine decodeWord_of_major ((fld_pack l e 0 1).trans rfl) ((decode32_Major34 f1_6).trans ?_) h
  simp [decMajor34, f7_5, f12_5, f17_5, f22_3, f25_3, f28_4]

theorem RoundTrip.cpyg (d : Nat) (a : Nat) (b : Nat) (q : Nat) (la : Nat) : RoundTrip.Statement (.cpyg d a b q la) := by
  intro _ u h he
  obtain ⟨h0, h1, h2, h3, h4⟩ := of_decide_eq_true h
  have e : pack [(1, 1), (6, 52), (5, d), (5, a), (5, b), (3, 2), (3, q), (4, la)] = u := by
    have : 0x800069 + d * 128 + a * 4096 + b * 131072 + q * 33554432 + la * 268435456 = u := (Prod.mk.inj (Option.some.inj he)).2
    rw [← this]; simp only [pack]; ring
  have l : Fits [(1, 1), (6, 52), (5, d), (5, a), (5, b), (3, 2), (3, q), (4, la)] := ⟨by decide, by decide, h0, h1, h2, by decide, h3, h4, trivial⟩
  have f1_6 : fld u 1 6 = 52 := (fld_pack l e 1 1).trans rfl
  have f7_5 : fld u 7 5 = d := (fld_pack l e 2 1).trans rfl
  have f12_5 : fld u 12 5 = a := (fld_pack l e 3 1).trans rfl
  have f17_5 : fld u 17 5 = b := (fld_pack l e 4 1).trans rfl
  have f22_3 : fld u 22 3 = 2 := (fld_pack l e 5 1).trans rfl
  have f25_3 : fld u 25 3 = q := (fld_pack l e 6 1).trans rfl
  have f28_4 : fld u 28 4 = la := (fld_pack l e 7 1).trans rfl
  refine decodeWord_of_major ((fld_pack l e 0 1).trans rfl) ((decode32_Major34 f1_6).trans ?_) h
  simp [decMajor34, f7_5, f12_5, f17_5, f22_3, f25_3, f28_4]

theorem RoundTrip.trread (d : Nat) (a : Nat) : RoundTrip.Statement (.trread d a) := by
  intro _ u h he
  obtain ⟨h0, h1⟩ := of_decide_eq_true h
  have e : pack [(1, 1), (6, 58), (5, d), (5, a), (15, 0)] = u := by
    have : 0x75 + d * 128 + a * 4096 = u := (Prod.mk.inj (Option.some.inj he)).2
    rw [← this]; simp only [pack]; ring
  have l : Fits [(1, 1), (6, 58), (5, d), (5, a), (15, 0)] := ⟨by decide, by decide, h0, h1, by decide, trivial⟩
  have f1_6 : fld u 1 6 = 58 := (fld_pack l e 1 1).trans rfl
  have f7_5 : fld u 7 5 = d := (fld_pack l e 2 1).trans rfl
  have f12_5 : fld u 12 5 = a := (fld_pack l e 3 1).trans rfl
  have f17_15 : fld u 17 15 = 0 := (fld_pack l e 4 1).trans rfl
  refine decodeWord_of_major ((fld_pack l e 0 1).trans rfl) ((decode32_Major3A f1_6).trans ?_) h
  simp [decMajor3A, f7_5, f12_5, f17_15]

theorem RoundTrip.vclaim (d : Nat) (a : Nat) (imm : Nat) : RoundTrip.Statement (.vclaim d a imm) := by
  intro _ u h he
  obtain ⟨h0, h1, h2⟩ := of_decide_eq_true h
  have e : pack [(1, 1), (6, 32), (5, d), (5, a), (3, 0), (12, imm)] = u := by
    have : 0x41 + d * 128 + a * 4096 + imm * 1048576 = u := (Prod.mk.inj (Option.some.inj he)).2
    rw [← this]; simp only [pack]; ring
  have l : Fits [(1, 1), (6, 32), (5, d), (5, a), (3, 0), (12, imm)] := ⟨by decide, by decide, h0, h1, by decide, h2, trivial⟩
  have f1_6 : fld u 1 6 = 32 := (fld_pack l e 1 1).trans rfl
  have f7_5 : fld u 7 5 = d := (fld_pack l e 2 1).trans rfl
  have f12_5 : fld u 12 5 = a := (fld_pack l e 3 1).trans rfl
  have f17_3 : fld u 17 3 = 0 := (fld_pack l e 4 1).trans rfl
  have f20_12 : fld u 20 12 = imm := (fld_pack l e 5 1).trans rfl
  refine decodeWord_of_major ((fld_pack l e 0 1).trans rfl) ((decode32_Major20 f1_6).trans ?_) h
  simp [decMajor20, f7_5, f12_5, f17_3, f20_12]

theorem RoundTrip.vrel : RoundTrip.Statement (.vrel) := by
  intro _ u h he
  have e : pack [(1, 1), (6, 32), (10, 0), (3, 1), (12, 0)] = u := by
    have : 0x20041 = u := (Prod.mk.inj (Option.some.inj he)).2
    rw [← this]; simp only [pack]; ring
  have l : Fits [(1, 1), (6, 32), (10, 0), (3, 1), (12, 0)] := ⟨by decide, by decide, by decide, by decide, by decide, trivial⟩
  have f1_6 : fld u 1 6 = 32 := (fld_pack l e 1 1).trans rfl
  have f7_25 : fld u 7 25 = 1024 := (fld_pack l e 2 3).trans (by simp [pack]; try omega)
  have f17_3 : fld u 17 3 = 1 := (fld_pack l e 3 1).trans rfl
  refine decodeWord_of_major ((fld_pack l e 0 1).trans rfl) ((decode32_Major20 f1_6).trans ?_) h
  simp [decMajor20, f7_25, f17_3]

theorem RoundTrip.vlen (d : Nat) (a : Nat) (imm : Nat) : RoundTrip.Statement (.vlen d a imm) := by
  intro _ u h he
  obtain ⟨h0, h1, h2, -⟩ := of_decide_eq_true h
  have e : pack [(1, 1), (6, 32), (5, d), (5, a), (3, 2), (12, imm)] = u := by
    have : 0x40041 + d * 128 + a * 4096 + imm * 1048576 = u := (Prod.mk.inj (Option.some.inj he)).2
    rw [← this]; simp only [pack]; ring
  have l : Fits [(1, 1), (6, 32), (5, d), (5, a), (3, 2), (12, imm)] := ⟨by decide, by decide, h0, h1, by decide, h2, trivial⟩
  have f1_6 : fld u 1 6 = 32 := (fld_pack l e 1 1).trans rfl
  have f7_5 : fld u 7 5 = d := (fld_pack l e 2 1).trans rfl
  have f7_25 : fld u 7 25 = 2048 + d + a * 32 + imm * 8192 := (fld_pack l e 2 4).trans (by simp [pack]; try omega)
  have f12_5 : fld u 12 5 = a := (fld_pack l e 3 1).trans rfl
  have f17_3 : fld u 17 3 = 2 := (fld_pack l e 4 1).trans rfl
  have f20_12 : fld u 20 12 = imm := (fld_pack l e 5 1).trans rfl
  have g0 : ¬ (2048 + d + a * 32 + imm * 8192 = 1024) := by omega
  refine decodeWord_of_major ((fld_pack l e 0 1).trans rfl) ((decode32_Major20 f1_6).trans ?_) h
  simp [decMajor20, f7_5, f7_25, f12_5, f17_3, f20_12, g0]

theorem RoundTrip.vsplat (d : Nat) (a : Nat) (imm : Nat) : RoundTrip.Statement (.vsplat d a imm) := by
  intro _ u h he
  obtain ⟨h0, h1, h2, h3⟩ := of_decide_eq_true h
  have e : pack [(1, 1), (6, 32), (5, d), (5, a), (3, 3), (12, imm)] = u := by
    have : 0x60041 + d * 128 + a * 4096 + imm * 1048576 = u := (Prod.mk.inj (Option.some.inj he)).2
    rw [← this]; simp only [pack]; ring
  have l : Fits [(1, 1), (6, 32), (5, d), (5, a), (3, 3), (12, imm)] := ⟨by decide, by decide, h0, h1, by decide, h2, trivial⟩
  have f1_6 : fld u 1 6 = 32 := (fld_pack l e 1 1).trans rfl
  have f7_5 : fld u 7 5 = d := (fld_pack l e 2 1).trans rfl
  have f7_25 : fld u 7 25 = 3072 + d + a * 32 + imm * 8192 := (fld_pack l e 2 4).trans (by simp [pack]; try omega)
  have f12_5 : fld u 12 5 = a := (fld_pack l e 3 1).trans rfl
  have f17_3 : fld u 17 3 = 3 := (fld_pack l e 4 1).trans rfl
  have f20_12 : fld u 20 12 = imm := (fld_pack l e 5 1).trans rfl
  have g0 : ¬ (3072 + d + a * 32 + imm * 8192 = 1024) := by omega
  refine decodeWord_of_major ((fld_pack l e 0 1).trans rfl) ((decode32_Major20 f1_6).trans ?_) h
  simp [decMajor20, f7_5, f7_25, f12_5, f17_3, f20_12, g0]

theorem RoundTrip.vadd (w : IW) (d : Nat) (a : Nat) (b : Nat) (m : Nat) : RoundTrip.Statement (.vadd w d a b m) := by
  intro _ u h he
  obtain ⟨h0, h1, h2, h3, -⟩ := of_decide_eq_true h
  have hw := iw_code_lt w
  have e : pack [(1, 1), (6, 33), (5, d), (5, a), (5, b), (3, w.code), (4, 0), (3, m)] = u := by
    have : 0x43 + d * 128 + a * 4096 + b * 131072 + w.code * 4194304 + m * 536870912 = u := (Prod.mk.inj (Option.some.inj he)).2
    rw [← this]; simp only [pack]; ring
  have l : Fits [(1, 1), (6, 33), (5, d), (5, a), (5, b), (3, w.code), (4, 0), (3, m)] := ⟨by decide, by decide, h0, h1, h2, hw, by decide, h3, trivial⟩
  have f1_6 : fld u 1 6 = 33 := (fld_pack l e 1 1).trans rfl
  have f7_5 : fld u 7 5 = d := (fld_pack l e 2 1).trans rfl
  have f12_5 : fld u 12 5 = a := (fld_pack l e 3 1).trans rfl
  have f17_5 : fld u 17 5 = b := (fld_pack l e 4 1).trans rfl
  have f22_3 : fld u 22 3 = w.code := (fld_pack l e 5 1).trans rfl
  have f25_4 : fld u 25 4 = 0 := (fld_pack l e 6 1).trans rfl
  have f29_3 : fld u 29 3 = m := (fld_pack l e 7 1).trans rfl
  refine decodeWord_of_major ((fld_pack l e 0 1).trans rfl) ((decode32_Major21 f1_6).trans ?_) h
  simp [decMajor21, f7_5, f12_5, f17_5, f22_3, f25_4, f29_3, iw_ofCode, Option.map]

theorem RoundTrip.vsub (w : IW) (d : Nat) (a : Nat) (b : Nat) (m : Nat) : RoundTrip.Statement (.vsub w d a b m) := by
  intro _ u h he
  obtain ⟨h0, h1, h2, h3, -⟩ := of_decide_eq_true h
  have hw := iw_code_lt w
  have e : pack [(1, 1), (6, 33), (5, d), (5, a), (5, b), (3, w.code), (4, 1), (3, m)] = u := by
    have : 0x2000043 + d * 128 + a * 4096 + b * 131072 + w.code * 4194304 + m * 536870912 = u := (Prod.mk.inj (Option.some.inj he)).2
    rw [← this]; simp only [pack]; ring
  have l : Fits [(1, 1), (6, 33), (5, d), (5, a), (5, b), (3, w.code), (4, 1), (3, m)] := ⟨by decide, by decide, h0, h1, h2, hw, by decide, h3, trivial⟩
  have f1_6 : fld u 1 6 = 33 := (fld_pack l e 1 1).trans rfl
  have f7_5 : fld u 7 5 = d := (fld_pack l e 2 1).trans rfl
  have f12_5 : fld u 12 5 = a := (fld_pack l e 3 1).trans rfl
  have f17_5 : fld u 17 5 = b := (fld_pack l e 4 1).trans rfl
  have f22_3 : fld u 22 3 = w.code := (fld_pack l e 5 1).trans rfl
  have f25_4 : fld u 25 4 = 1 := (fld_pack l e 6 1).trans rfl
  have f29_3 : fld u 29 3 = m := (fld_pack l e 7 1).trans rfl
  refine decodeWord_of_major ((fld_pack l e 0 1).trans rfl) ((decode32_Major21 f1_6).trans ?_) h
  simp [decMajor21, f7_5, f12_5, f17_5, f22_3, f25_4, f29_3, iw_ofCode, Option.map]

theorem RoundTrip.vand (w : IW) (d : Nat) (a : Nat) (b : Nat) (m : Nat) : RoundTrip.Statement (.vand w d a b m) := by
  intro _ u h he
  obtain ⟨h0, h1, h2, h3, -⟩ := of_decide_eq_true h
  have hw := iw_code_lt w
  have e : pack [(1, 1), (6, 33), (5, d), (5, a), (5, b), (3, w.code), (4, 2), (3, m)] = u := by
    have : 0x4000043 + d * 128 + a * 4096 + b * 131072 + w.code * 4194304 + m * 536870912 = u := (Prod.mk.inj (Option.some.inj he)).2
    rw [← this]; simp only [pack]; ring
  have l : Fits [(1, 1), (6, 33), (5, d), (5, a), (5, b), (3, w.code), (4, 2), (3, m)] := ⟨by decide, by decide, h0, h1, h2, hw, by decide, h3, trivial⟩
  have f1_6 : fld u 1 6 = 33 := (fld_pack l e 1 1).trans rfl
  have f7_5 : fld u 7 5 = d := (fld_pack l e 2 1).trans rfl
  have f12_5 : fld u 12 5 = a := (fld_pack l e 3 1).trans rfl
  have f17_5 : fld u 17 5 = b := (fld_pack l e 4 1).trans rfl
  have f22_3 : fld u 22 3 = w.code := (fld_pack l e 5 1).trans rfl
  have f25_4 : fld u 25 4 = 2 := (fld_pack l e 6 1).trans rfl
  have f29_3 : fld u 29 3 = m := (fld_pack l e 7 1).trans rfl
  refine decodeWord_of_major ((fld_pack l e 0 1).trans rfl) ((decode32_Major21 f1_6).trans ?_) h
  simp [decMajor21, f7_5, f12_5, f17_5, f22_3, f25_4, f29_3, iw_ofCode, Option.map]

theorem RoundTrip.vor (w : IW) (d : Nat) (a : Nat) (b : Nat) (m : Nat) : RoundTrip.Statement (.vor w d a b m) := by
  intro _ u h he
  obtain ⟨h0, h1, h2, h3, -⟩ := of_decide_eq_true h
  have hw := iw_code_lt w
  have e : pack [(1, 1), (6, 33), (5, d), (5, a), (5, b), (3, w.code), (4, 3), (3, m)] = u := by
    have : 0x6000043 + d * 128 + a * 4096 + b * 131072 + w.code * 4194304 + m * 536870912 = u := (Prod.mk.inj (Option.some.inj he)).2
    rw [← this]; simp only [pack]; ring
  have l : Fits [(1, 1), (6, 33), (5, d), (5, a), (5, b), (3, w.code), (4, 3), (3, m)] := ⟨by decide, by decide, h0, h1, h2, hw, by decide, h3, trivial⟩
  have f1_6 : fld u 1 6 = 33 := (fld_pack l e 1 1).trans rfl
  have f7_5 : fld u 7 5 = d := (fld_pack l e 2 1).trans rfl
  have f12_5 : fld u 12 5 = a := (fld_pack l e 3 1).trans rfl
  have f17_5 : fld u 17 5 = b := (fld_pack l e 4 1).trans rfl
  have f22_3 : fld u 22 3 = w.code := (fld_pack l e 5 1).trans rfl
  have f25_4 : fld u 25 4 = 3 := (fld_pack l e 6 1).trans rfl
  have f29_3 : fld u 29 3 = m := (fld_pack l e 7 1).trans rfl
  refine decodeWord_of_major ((fld_pack l e 0 1).trans rfl) ((decode32_Major21 f1_6).trans ?_) h
  simp [decMajor21, f7_5, f12_5, f17_5, f22_3, f25_4, f29_3, iw_ofCode, Option.map]

theorem RoundTrip.vxor (w : IW) (d : Nat) (a : Nat) (b : Nat) (m : Nat) : RoundTrip.Statement (.vxor w d a b m) := by
  intro _ u h he
  obtain ⟨h0, h1, h2, h3, -⟩ := of_decide_eq_true h
  have hw := iw_code_lt w
  have e : pack [(1, 1), (6, 33), (5, d), (5, a), (5, b), (3, w.code), (4, 4), (3, m)] = u := by
    have : 0x8000043 + d * 128 + a * 4096 + b * 131072 + w.code * 4194304 + m * 536870912 = u := (Prod.mk.inj (Option.some.inj he)).2
    rw [← this]; simp only [pack]; ring
  have l : Fits [(1, 1), (6, 33), (5, d), (5, a), (5, b), (3, w.code), (4, 4), (3, m)] := ⟨by decide, by decide, h0, h1, h2, hw, by decide, h3, trivial⟩
  have f1_6 : fld u 1 6 = 33 := (fld_pack l e 1 1).trans rfl
  have f7_5 : fld u 7 5 = d := (fld_pack l e 2 1).trans rfl
  have f12_5 : fld u 12 5 = a := (fld_pack l e 3 1).trans rfl
  have f17_5 : fld u 17 5 = b := (fld_pack l e 4 1).trans rfl
  have f22_3 : fld u 22 3 = w.code := (fld_pack l e 5 1).trans rfl
  have f25_4 : fld u 25 4 = 4 := (fld_pack l e 6 1).trans rfl
  have f29_3 : fld u 29 3 = m := (fld_pack l e 7 1).trans rfl
  refine decodeWord_of_major ((fld_pack l e 0 1).trans rfl) ((decode32_Major21 f1_6).trans ?_) h
  simp [decMajor21, f7_5, f12_5, f17_5, f22_3, f25_4, f29_3, iw_ofCode, Option.map]

theorem RoundTrip.vmin (w : IW) (d : Nat) (a : Nat) (b : Nat) (m : Nat) : RoundTrip.Statement (.vmin w d a b m) := by
  intro _ u h he
  obtain ⟨h0, h1, h2, h3, -⟩ := of_decide_eq_true h
  have hw := iw_code_lt w
  have e : pack [(1, 1), (6, 33), (5, d), (5, a), (5, b), (3, w.code), (4, 5), (3, m)] = u := by
    have : 0xA000043 + d * 128 + a * 4096 + b * 131072 + w.code * 4194304 + m * 536870912 = u := (Prod.mk.inj (Option.some.inj he)).2
    rw [← this]; simp only [pack]; ring
  have l : Fits [(1, 1), (6, 33), (5, d), (5, a), (5, b), (3, w.code), (4, 5), (3, m)] := ⟨by decide, by decide, h0, h1, h2, hw, by decide, h3, trivial⟩
  have f1_6 : fld u 1 6 = 33 := (fld_pack l e 1 1).trans rfl
  have f7_5 : fld u 7 5 = d := (fld_pack l e 2 1).trans rfl
  have f12_5 : fld u 12 5 = a := (fld_pack l e 3 1).trans rfl
  have f17_5 : fld u 17 5 = b := (fld_pack l e 4 1).trans rfl
  have f22_3 : fld u 22 3 = w.code := (fld_pack l e 5 1).trans rfl
  have f25_4 : fld u 25 4 = 5 := (fld_pack l e 6 1).trans rfl
  have f29_3 : fld u 29 3 = m := (fld_pack l e 7 1).trans rfl
  refine decodeWord_of_major ((fld_pack l e 0 1).trans rfl) ((decode32_Major21 f1_6).trans ?_) h
  simp [decMajor21, f7_5, f12_5, f17_5, f22_3, f25_4, f29_3, iw_ofCode, Option.map]

theorem RoundTrip.vmax (w : IW) (d : Nat) (a : Nat) (b : Nat) (m : Nat) : RoundTrip.Statement (.vmax w d a b m) := by
  intro _ u h he
  obtain ⟨h0, h1, h2, h3, -⟩ := of_decide_eq_true h
  have hw := iw_code_lt w
  have e : pack [(1, 1), (6, 33), (5, d), (5, a), (5, b), (3, w.code), (4, 6), (3, m)] = u := by
    have : 0xC000043 + d * 128 + a * 4096 + b * 131072 + w.code * 4194304 + m * 536870912 = u := (Prod.mk.inj (Option.some.inj he)).2
    rw [← this]; simp only [pack]; ring
  have l : Fits [(1, 1), (6, 33), (5, d), (5, a), (5, b), (3, w.code), (4, 6), (3, m)] := ⟨by decide, by decide, h0, h1, h2, hw, by decide, h3, trivial⟩
  have f1_6 : fld u 1 6 = 33 := (fld_pack l e 1 1).trans rfl
  have f7_5 : fld u 7 5 = d := (fld_pack l e 2 1).trans rfl
  have f12_5 : fld u 12 5 = a := (fld_pack l e 3 1).trans rfl
  have f17_5 : fld u 17 5 = b := (fld_pack l e 4 1).trans rfl
  have f22_3 : fld u 22 3 = w.code := (fld_pack l e 5 1).trans rfl
  have f25_4 : fld u 25 4 = 6 := (fld_pack l e 6 1).trans rfl
  have f29_3 : fld u 29 3 = m := (fld_pack l e 7 1).trans rfl
  refine decodeWord_of_major ((fld_pack l e 0 1).trans rfl) ((decode32_Major21 f1_6).trans ?_) h
  simp [decMajor21, f7_5, f12_5, f17_5, f22_3, f25_4, f29_3, iw_ofCode, Option.map]

theorem RoundTrip.vadds (w : IW) (d : Nat) (a : Nat) (b : Nat) (m : Nat) : RoundTrip.Statement (.vadds w d a b m) := by
  intro _ u h he
  obtain ⟨h0, h1, h2, h3, -⟩ := of_decide_eq_true h
  have hw := iw_code_lt w
  have e : pack [(1, 1), (6, 33), (5, d), (5, a), (5, b), (3, w.code), (4, 7), (3, m)] = u := by
    have : 0xE000043 + d * 128 + a * 4096 + b * 131072 + w.code * 4194304 + m * 536870912 = u := (Prod.mk.inj (Option.some.inj he)).2
    rw [← this]; simp only [pack]; ring
  have l : Fits [(1, 1), (6, 33), (5, d), (5, a), (5, b), (3, w.code), (4, 7), (3, m)] := ⟨by decide, by decide, h0, h1, h2, hw, by decide, h3, trivial⟩
  have f1_6 : fld u 1 6 = 33 := (fld_pack l e 1 1).trans rfl
  have f7_5 : fld u 7 5 = d := (fld_pack l e 2 1).trans rfl
  have f12_5 : fld u 12 5 = a := (fld_pack l e 3 1).trans rfl
  have f17_5 : fld u 17 5 = b := (fld_pack l e 4 1).trans rfl
  have f22_3 : fld u 22 3 = w.code := (fld_pack l e 5 1).trans rfl
  have f25_4 : fld u 25 4 = 7 := (fld_pack l e 6 1).trans rfl
  have f29_3 : fld u 29 3 = m := (fld_pack l e 7 1).trans rfl
  refine decodeWord_of_major ((fld_pack l e 0 1).trans rfl) ((decode32_Major21 f1_6).trans ?_) h
  simp [decMajor21, f7_5, f12_5, f17_5, f22_3, f25_4, f29_3, iw_ofCode, Option.map]

theorem RoundTrip.vsubs (w : IW) (d : Nat) (a : Nat) (b : Nat) (m : Nat) : RoundTrip.Statement (.vsubs w d a b m) := by
  intro _ u h he
  obtain ⟨h0, h1, h2, h3, -⟩ := of_decide_eq_true h
  have hw := iw_code_lt w
  have e : pack [(1, 1), (6, 33), (5, d), (5, a), (5, b), (3, w.code), (4, 8), (3, m)] = u := by
    have : 0x10000043 + d * 128 + a * 4096 + b * 131072 + w.code * 4194304 + m * 536870912 = u := (Prod.mk.inj (Option.some.inj he)).2
    rw [← this]; simp only [pack]; ring
  have l : Fits [(1, 1), (6, 33), (5, d), (5, a), (5, b), (3, w.code), (4, 8), (3, m)] := ⟨by decide, by decide, h0, h1, h2, hw, by decide, h3, trivial⟩
  have f1_6 : fld u 1 6 = 33 := (fld_pack l e 1 1).trans rfl
  have f7_5 : fld u 7 5 = d := (fld_pack l e 2 1).trans rfl
  have f12_5 : fld u 12 5 = a := (fld_pack l e 3 1).trans rfl
  have f17_5 : fld u 17 5 = b := (fld_pack l e 4 1).trans rfl
  have f22_3 : fld u 22 3 = w.code := (fld_pack l e 5 1).trans rfl
  have f25_4 : fld u 25 4 = 8 := (fld_pack l e 6 1).trans rfl
  have f29_3 : fld u 29 3 = m := (fld_pack l e 7 1).trans rfl
  refine decodeWord_of_major ((fld_pack l e 0 1).trans rfl) ((decode32_Major21 f1_6).trans ?_) h
  simp [decMajor21, f7_5, f12_5, f17_5, f22_3, f25_4, f29_3, iw_ofCode, Option.map]

theorem RoundTrip.vmul (w : IW) (d : Nat) (a : Nat) (b : Nat) (m : Nat) : RoundTrip.Statement (.vmul w d a b m) := by
  intro _ u h he
  obtain ⟨h0, h1, h2, h3, -⟩ := of_decide_eq_true h
  have hw := iw_code_lt w
  have e : pack [(1, 1), (6, 33), (5, d), (5, a), (5, b), (3, w.code), (4, 9), (3, m)] = u := by
    have : 0x12000043 + d * 128 + a * 4096 + b * 131072 + w.code * 4194304 + m * 536870912 = u := (Prod.mk.inj (Option.some.inj he)).2
    rw [← this]; simp only [pack]; ring
  have l : Fits [(1, 1), (6, 33), (5, d), (5, a), (5, b), (3, w.code), (4, 9), (3, m)] := ⟨by decide, by decide, h0, h1, h2, hw, by decide, h3, trivial⟩
  have f1_6 : fld u 1 6 = 33 := (fld_pack l e 1 1).trans rfl
  have f7_5 : fld u 7 5 = d := (fld_pack l e 2 1).trans rfl
  have f12_5 : fld u 12 5 = a := (fld_pack l e 3 1).trans rfl
  have f17_5 : fld u 17 5 = b := (fld_pack l e 4 1).trans rfl
  have f22_3 : fld u 22 3 = w.code := (fld_pack l e 5 1).trans rfl
  have f25_4 : fld u 25 4 = 9 := (fld_pack l e 6 1).trans rfl
  have f29_3 : fld u 29 3 = m := (fld_pack l e 7 1).trans rfl
  refine decodeWord_of_major ((fld_pack l e 0 1).trans rfl) ((decode32_Major21 f1_6).trans ?_) h
  simp [decMajor21, f7_5, f12_5, f17_5, f22_3, f25_4, f29_3, iw_ofCode, Option.map]

theorem RoundTrip.vsll (w : IW) (d : Nat) (a : Nat) (b : Nat) (m : Nat) : RoundTrip.Statement (.vsll w d a b m) := by
  intro _ u h he
  obtain ⟨h0, h1, h2, h3, -⟩ := of_decide_eq_true h
  have hw := iw_code_lt w
  have e : pack [(1, 1), (6, 33), (5, d), (5, a), (5, b), (3, w.code), (4, 10), (3, m)] = u := by
    have : 0x14000043 + d * 128 + a * 4096 + b * 131072 + w.code * 4194304 + m * 536870912 = u := (Prod.mk.inj (Option.some.inj he)).2
    rw [← this]; simp only [pack]; ring
  have l : Fits [(1, 1), (6, 33), (5, d), (5, a), (5, b), (3, w.code), (4, 10), (3, m)] := ⟨by decide, by decide, h0, h1, h2, hw, by decide, h3, trivial⟩
  have f1_6 : fld u 1 6 = 33 := (fld_pack l e 1 1).trans rfl
  have f7_5 : fld u 7 5 = d := (fld_pack l e 2 1).trans rfl
  have f12_5 : fld u 12 5 = a := (fld_pack l e 3 1).trans rfl
  have f17_5 : fld u 17 5 = b := (fld_pack l e 4 1).trans rfl
  have f22_3 : fld u 22 3 = w.code := (fld_pack l e 5 1).trans rfl
  have f25_4 : fld u 25 4 = 10 := (fld_pack l e 6 1).trans rfl
  have f29_3 : fld u 29 3 = m := (fld_pack l e 7 1).trans rfl
  refine decodeWord_of_major ((fld_pack l e 0 1).trans rfl) ((decode32_Major21 f1_6).trans ?_) h
  simp [decMajor21, f7_5, f12_5, f17_5, f22_3, f25_4, f29_3, iw_ofCode, Option.map]

theorem RoundTrip.vsrl (w : IW) (d : Nat) (a : Nat) (b : Nat) (m : Nat) : RoundTrip.Statement (.vsrl w d a b m) := by
  intro _ u h he
  obtain ⟨h0, h1, h2, h3, -⟩ := of_decide_eq_true h
  have hw := iw_code_lt w
  have e : pack [(1, 1), (6, 33), (5, d), (5, a), (5, b), (3, w.code), (4, 11), (3, m)] = u := by
    have : 0x16000043 + d * 128 + a * 4096 + b * 131072 + w.code * 4194304 + m * 536870912 = u := (Prod.mk.inj (Option.some.inj he)).2
    rw [← this]; simp only [pack]; ring
  have l : Fits [(1, 1), (6, 33), (5, d), (5, a), (5, b), (3, w.code), (4, 11), (3, m)] := ⟨by decide, by decide, h0, h1, h2, hw, by decide, h3, trivial⟩
  have f1_6 : fld u 1 6 = 33 := (fld_pack l e 1 1).trans rfl
  have f7_5 : fld u 7 5 = d := (fld_pack l e 2 1).trans rfl
  have f12_5 : fld u 12 5 = a := (fld_pack l e 3 1).trans rfl
  have f17_5 : fld u 17 5 = b := (fld_pack l e 4 1).trans rfl
  have f22_3 : fld u 22 3 = w.code := (fld_pack l e 5 1).trans rfl
  have f25_4 : fld u 25 4 = 11 := (fld_pack l e 6 1).trans rfl
  have f29_3 : fld u 29 3 = m := (fld_pack l e 7 1).trans rfl
  refine decodeWord_of_major ((fld_pack l e 0 1).trans rfl) ((decode32_Major21 f1_6).trans ?_) h
  simp [decMajor21, f7_5, f12_5, f17_5, f22_3, f25_4, f29_3, iw_ofCode, Option.map]

theorem RoundTrip.vsra (w : IW) (d : Nat) (a : Nat) (b : Nat) (m : Nat) : RoundTrip.Statement (.vsra w d a b m) := by
  intro _ u h he
  obtain ⟨h0, h1, h2, h3, -⟩ := of_decide_eq_true h
  have hw := iw_code_lt w
  have e : pack [(1, 1), (6, 33), (5, d), (5, a), (5, b), (3, w.code), (4, 12), (3, m)] = u := by
    have : 0x18000043 + d * 128 + a * 4096 + b * 131072 + w.code * 4194304 + m * 536870912 = u := (Prod.mk.inj (Option.some.inj he)).2
    rw [← this]; simp only [pack]; ring
  have l : Fits [(1, 1), (6, 33), (5, d), (5, a), (5, b), (3, w.code), (4, 12), (3, m)] := ⟨by decide, by decide, h0, h1, h2, hw, by decide, h3, trivial⟩
  have f1_6 : fld u 1 6 = 33 := (fld_pack l e 1 1).trans rfl
  have f7_5 : fld u 7 5 = d := (fld_pack l e 2 1).trans rfl
  have f12_5 : fld u 12 5 = a := (fld_pack l e 3 1).trans rfl
  have f17_5 : fld u 17 5 = b := (fld_pack l e 4 1).trans rfl
  have f22_3 : fld u 22 3 = w.code := (fld_pack l e 5 1).trans rfl
  have f25_4 : fld u 25 4 = 12 := (fld_pack l e 6 1).trans rfl
  have f29_3 : fld u 29 3 = m := (fld_pack l e 7 1).trans rfl
  refine decodeWord_of_major ((fld_pack l e 0 1).trans rfl) ((decode32_Major21 f1_6).trans ?_) h
  simp [decMajor21, f7_5, f12_5, f17_5, f22_3, f25_4, f29_3, iw_ofCode, Option.map]

theorem RoundTrip.vcmpeq (w : IW) (d : Nat) (a : Nat) (b : Nat) (m : Nat) : RoundTrip.Statement (.vcmpeq w d a b m) := by
  intro _ u h he
  obtain ⟨h0, h1, h2, h3, -⟩ := of_decide_eq_true h
  have hw := iw_code_lt w
  have e : pack [(1, 1), (6, 33), (5, d), (5, a), (5, b), (3, w.code), (4, 13), (3, m)] = u := by
    have : 0x1A000043 + d * 128 + a * 4096 + b * 131072 + w.code * 4194304 + m * 536870912 = u := (Prod.mk.inj (Option.some.inj he)).2
    rw [← this]; simp only [pack]; ring
  have l : Fits [(1, 1), (6, 33), (5, d), (5, a), (5, b), (3, w.code), (4, 13), (3, m)] := ⟨by decide, by decide, h0, h1, h2, hw, by decide, h3, trivial⟩
  have f1_6 : fld u 1 6 = 33 := (fld_pack l e 1 1).trans rfl
  have f7_5 : fld u 7 5 = d := (fld_pack l e 2 1).trans rfl
  have f12_5 : fld u 12 5 = a := (fld_pack l e 3 1).trans rfl
  have f17_5 : fld u 17 5 = b := (fld_pack l e 4 1).trans rfl
  have f22_3 : fld u 22 3 = w.code := (fld_pack l e 5 1).trans rfl
  have f25_4 : fld u 25 4 = 13 := (fld_pack l e 6 1).trans rfl
  have f29_3 : fld u 29 3 = m := (fld_pack l e 7 1).trans rfl
  refine decodeWord_of_major ((fld_pack l e 0 1).trans rfl) ((decode32_Major21 f1_6).trans ?_) h
  simp [decMajor21, f7_5, f12_5, f17_5, f22_3, f25_4, f29_3, iw_ofCode, Option.map]

theorem RoundTrip.vcmplt (w : IW) (d : Nat) (a : Nat) (b : Nat) (m : Nat) : RoundTrip.Statement (.vcmplt w d a b m) := by
  intro _ u h he
  obtain ⟨h0, h1, h2, h3, -⟩ := of_decide_eq_true h
  have hw := iw_code_lt w
  have e : pack [(1, 1), (6, 33), (5, d), (5, a), (5, b), (3, w.code), (4, 14), (3, m)] = u := by
    have : 0x1C000043 + d * 128 + a * 4096 + b * 131072 + w.code * 4194304 + m * 536870912 = u := (Prod.mk.inj (Option.some.inj he)).2
    rw [← this]; simp only [pack]; ring
  have l : Fits [(1, 1), (6, 33), (5, d), (5, a), (5, b), (3, w.code), (4, 14), (3, m)] := ⟨by decide, by decide, h0, h1, h2, hw, by decide, h3, trivial⟩
  have f1_6 : fld u 1 6 = 33 := (fld_pack l e 1 1).trans rfl
  have f7_5 : fld u 7 5 = d := (fld_pack l e 2 1).trans rfl
  have f12_5 : fld u 12 5 = a := (fld_pack l e 3 1).trans rfl
  have f17_5 : fld u 17 5 = b := (fld_pack l e 4 1).trans rfl
  have f22_3 : fld u 22 3 = w.code := (fld_pack l e 5 1).trans rfl
  have f25_4 : fld u 25 4 = 14 := (fld_pack l e 6 1).trans rfl
  have f29_3 : fld u 29 3 = m := (fld_pack l e 7 1).trans rfl
  refine decodeWord_of_major ((fld_pack l e 0 1).trans rfl) ((decode32_Major21 f1_6).trans ?_) h
  simp [decMajor21, f7_5, f12_5, f17_5, f22_3, f25_4, f29_3, iw_ofCode, Option.map]

theorem RoundTrip.vcmple (w : IW) (d : Nat) (a : Nat) (b : Nat) (m : Nat) : RoundTrip.Statement (.vcmple w d a b m) := by
  intro _ u h he
  obtain ⟨h0, h1, h2, h3, -⟩ := of_decide_eq_true h
  have hw := iw_code_lt w
  have e : pack [(1, 1), (6, 33), (5, d), (5, a), (5, b), (3, w.code), (4, 15), (3, m)] = u := by
    have : 0x1E000043 + d * 128 + a * 4096 + b * 131072 + w.code * 4194304 + m * 536870912 = u := (Prod.mk.inj (Option.some.inj he)).2
    rw [← this]; simp only [pack]; ring
  have l : Fits [(1, 1), (6, 33), (5, d), (5, a), (5, b), (3, w.code), (4, 15), (3, m)] := ⟨by decide, by decide, h0, h1, h2, hw, by decide, h3, trivial⟩
  have f1_6 : fld u 1 6 = 33 := (fld_pack l e 1 1).trans rfl
  have f7_5 : fld u 7 5 = d := (fld_pack l e 2 1).trans rfl
  have f12_5 : fld u 12 5 = a := (fld_pack l e 3 1).trans rfl
  have f17_5 : fld u 17 5 = b := (fld_pack l e 4 1).trans rfl
  have f22_3 : fld u 22 3 = w.code := (fld_pack l e 5 1).trans rfl
  have f25_4 : fld u 25 4 = 15 := (fld_pack l e 6 1).trans rfl
  have f29_3 : fld u 29 3 = m := (fld_pack l e 7 1).trans rfl
  refine decodeWord_of_major ((fld_pack l e 0 1).trans rfl) ((decode32_Major21 f1_6).trans ?_) h
  simp [decMajor21, f7_5, f12_5, f17_5, f22_3, f25_4, f29_3, iw_ofCode, Option.map]

theorem RoundTrip.vfadd (w : FW) (d : Nat) (a : Nat) (b : Nat) (m : Nat) : RoundTrip.Statement (.vfadd w d a b m) := by
  intro _ u h he
  obtain ⟨h0, h1, h2, h3, -⟩ := of_decide_eq_true h
  have hw := fw_code_lt w
  have e : pack [(1, 1), (6, 34), (5, d), (5, a), (5, b), (3, w.code), (4, 0), (3, m)] = u := by
    have : 0x45 + d * 128 + a * 4096 + b * 131072 + w.code * 4194304 + m * 536870912 = u := (Prod.mk.inj (Option.some.inj he)).2
    rw [← this]; simp only [pack]; ring
  have l : Fits [(1, 1), (6, 34), (5, d), (5, a), (5, b), (3, w.code), (4, 0), (3, m)] := ⟨by decide, by decide, h0, h1, h2, hw, by decide, h3, trivial⟩
  have f1_6 : fld u 1 6 = 34 := (fld_pack l e 1 1).trans rfl
  have f7_5 : fld u 7 5 = d := (fld_pack l e 2 1).trans rfl
  have f12_5 : fld u 12 5 = a := (fld_pack l e 3 1).trans rfl
  have f17_5 : fld u 17 5 = b := (fld_pack l e 4 1).trans rfl
  have f22_3 : fld u 22 3 = w.code := (fld_pack l e 5 1).trans rfl
  have f25_4 : fld u 25 4 = 0 := (fld_pack l e 6 1).trans rfl
  have f29_3 : fld u 29 3 = m := (fld_pack l e 7 1).trans rfl
  refine decodeWord_of_major ((fld_pack l e 0 1).trans rfl) ((decode32_Major22 f1_6).trans ?_) h
  simp [decMajor22, f7_5, f12_5, f17_5, f22_3, f25_4, f29_3, fw_ofCode, Option.map]

theorem RoundTrip.vfsub (w : FW) (d : Nat) (a : Nat) (b : Nat) (m : Nat) : RoundTrip.Statement (.vfsub w d a b m) := by
  intro _ u h he
  obtain ⟨h0, h1, h2, h3, -⟩ := of_decide_eq_true h
  have hw := fw_code_lt w
  have e : pack [(1, 1), (6, 34), (5, d), (5, a), (5, b), (3, w.code), (4, 1), (3, m)] = u := by
    have : 0x2000045 + d * 128 + a * 4096 + b * 131072 + w.code * 4194304 + m * 536870912 = u := (Prod.mk.inj (Option.some.inj he)).2
    rw [← this]; simp only [pack]; ring
  have l : Fits [(1, 1), (6, 34), (5, d), (5, a), (5, b), (3, w.code), (4, 1), (3, m)] := ⟨by decide, by decide, h0, h1, h2, hw, by decide, h3, trivial⟩
  have f1_6 : fld u 1 6 = 34 := (fld_pack l e 1 1).trans rfl
  have f7_5 : fld u 7 5 = d := (fld_pack l e 2 1).trans rfl
  have f12_5 : fld u 12 5 = a := (fld_pack l e 3 1).trans rfl
  have f17_5 : fld u 17 5 = b := (fld_pack l e 4 1).trans rfl
  have f22_3 : fld u 22 3 = w.code := (fld_pack l e 5 1).trans rfl
  have f25_4 : fld u 25 4 = 1 := (fld_pack l e 6 1).trans rfl
  have f29_3 : fld u 29 3 = m := (fld_pack l e 7 1).trans rfl
  refine decodeWord_of_major ((fld_pack l e 0 1).trans rfl) ((decode32_Major22 f1_6).trans ?_) h
  simp [decMajor22, f7_5, f12_5, f17_5, f22_3, f25_4, f29_3, fw_ofCode, Option.map]

theorem RoundTrip.vfmul (w : FW) (d : Nat) (a : Nat) (b : Nat) (m : Nat) : RoundTrip.Statement (.vfmul w d a b m) := by
  intro _ u h he
  obtain ⟨h0, h1, h2, h3, -⟩ := of_decide_eq_true h
  have hw := fw_code_lt w
  have e : pack [(1, 1), (6, 34), (5, d), (5, a), (5, b), (3, w.code), (4, 2), (3, m)] = u := by
    have : 0x4000045 + d * 128 + a * 4096 + b * 131072 + w.code * 4194304 + m * 536870912 = u := (Prod.mk.inj (Option.some.inj he)).2
    rw [← this]; simp only [pack]; ring
  have l : Fits [(1, 1), (6, 34), (5, d), (5, a), (5, b), (3, w.code), (4, 2), (3, m)] := ⟨by decide, by decide, h0, h1, h2, hw, by decide, h3, trivial⟩
  have f1_6 : fld u 1 6 = 34 := (fld_pack l e 1 1).trans rfl
  have f7_5 : fld u 7 5 = d := (fld_pack l e 2 1).trans rfl
  have f12_5 : fld u 12 5 = a := (fld_pack l e 3 1).trans rfl
  have f17_5 : fld u 17 5 = b := (fld_pack l e 4 1).trans rfl
  have f22_3 : fld u 22 3 = w.code := (fld_pack l e 5 1).trans rfl
  have f25_4 : fld u 25 4 = 2 := (fld_pack l e 6 1).trans rfl
  have f29_3 : fld u 29 3 = m := (fld_pack l e 7 1).trans rfl
  refine decodeWord_of_major ((fld_pack l e 0 1).trans rfl) ((decode32_Major22 f1_6).trans ?_) h
  simp [decMajor22, f7_5, f12_5, f17_5, f22_3, f25_4, f29_3, fw_ofCode, Option.map]

theorem RoundTrip.vfmin (w : FW) (d : Nat) (a : Nat) (b : Nat) (m : Nat) : RoundTrip.Statement (.vfmin w d a b m) := by
  intro _ u h he
  obtain ⟨h0, h1, h2, h3, -⟩ := of_decide_eq_true h
  have hw := fw_code_lt w
  have e : pack [(1, 1), (6, 34), (5, d), (5, a), (5, b), (3, w.code), (4, 3), (3, m)] = u := by
    have : 0x6000045 + d * 128 + a * 4096 + b * 131072 + w.code * 4194304 + m * 536870912 = u := (Prod.mk.inj (Option.some.inj he)).2
    rw [← this]; simp only [pack]; ring
  have l : Fits [(1, 1), (6, 34), (5, d), (5, a), (5, b), (3, w.code), (4, 3), (3, m)] := ⟨by decide, by decide, h0, h1, h2, hw, by decide, h3, trivial⟩
  have f1_6 : fld u 1 6 = 34 := (fld_pack l e 1 1).trans rfl
  have f7_5 : fld u 7 5 = d := (fld_pack l e 2 1).trans rfl
  have f12_5 : fld u 12 5 = a := (fld_pack l e 3 1).trans rfl
  have f17_5 : fld u 17 5 = b := (fld_pack l e 4 1).trans rfl
  have f22_3 : fld u 22 3 = w.code := (fld_pack l e 5 1).trans rfl
  have f25_4 : fld u 25 4 = 3 := (fld_pack l e 6 1).trans rfl
  have f29_3 : fld u 29 3 = m := (fld_pack l e 7 1).trans rfl
  refine decodeWord_of_major ((fld_pack l e 0 1).trans rfl) ((decode32_Major22 f1_6).trans ?_) h
  simp [decMajor22, f7_5, f12_5, f17_5, f22_3, f25_4, f29_3, fw_ofCode, Option.map]

theorem RoundTrip.vfmax (w : FW) (d : Nat) (a : Nat) (b : Nat) (m : Nat) : RoundTrip.Statement (.vfmax w d a b m) := by
  intro _ u h he
  obtain ⟨h0, h1, h2, h3, -⟩ := of_decide_eq_true h
  have hw := fw_code_lt w
  have e : pack [(1, 1), (6, 34), (5, d), (5, a), (5, b), (3, w.code), (4, 4), (3, m)] = u := by
    have : 0x8000045 + d * 128 + a * 4096 + b * 131072 + w.code * 4194304 + m * 536870912 = u := (Prod.mk.inj (Option.some.inj he)).2
    rw [← this]; simp only [pack]; ring
  have l : Fits [(1, 1), (6, 34), (5, d), (5, a), (5, b), (3, w.code), (4, 4), (3, m)] := ⟨by decide, by decide, h0, h1, h2, hw, by decide, h3, trivial⟩
  have f1_6 : fld u 1 6 = 34 := (fld_pack l e 1 1).trans rfl
  have f7_5 : fld u 7 5 = d := (fld_pack l e 2 1).trans rfl
  have f12_5 : fld u 12 5 = a := (fld_pack l e 3 1).trans rfl
  have f17_5 : fld u 17 5 = b := (fld_pack l e 4 1).trans rfl
  have f22_3 : fld u 22 3 = w.code := (fld_pack l e 5 1).trans rfl
  have f25_4 : fld u 25 4 = 4 := (fld_pack l e 6 1).trans rfl
  have f29_3 : fld u 29 3 = m := (fld_pack l e 7 1).trans rfl
  refine decodeWord_of_major ((fld_pack l e 0 1).trans rfl) ((decode32_Major22 f1_6).trans ?_) h
  simp [decMajor22, f7_5, f12_5, f17_5, f22_3, f25_4, f29_3, fw_ofCode, Option.map]

theorem RoundTrip.vfsgn (w : FW) (d : Nat) (a : Nat) (b : Nat) (m : Nat) : RoundTrip.Statement (.vfsgn w d a b m) := by
  intro _ u h he
  obtain ⟨h0, h1, h2, h3, -⟩ := of_decide_eq_true h
  have hw := fw_code_lt w
  have e : pack [(1, 1), (6, 34), (5, d), (5, a), (5, b), (3, w.code), (4, 5), (3, m)] = u := by
    have : 0xA000045 + d * 128 + a * 4096 + b * 131072 + w.code * 4194304 + m * 536870912 = u := (Prod.mk.inj (Option.some.inj he)).2
    rw [← this]; simp only [pack]; ring
  have l : Fits [(1, 1), (6, 34), (5, d), (5, a), (5, b), (3, w.code), (4, 5), (3, m)] := ⟨by decide, by decide, h0, h1, h2, hw, by decide, h3, trivial⟩
  have f1_6 : fld u 1 6 = 34 := (fld_pack l e 1 1).trans rfl
  have f7_5 : fld u 7 5 = d := (fld_pack l e 2 1).trans rfl
  have f12_5 : fld u 12 5 = a := (fld_pack l e 3 1).trans rfl
  have f17_5 : fld u 17 5 = b := (fld_pack l e 4 1).trans rfl
  have f22_3 : fld u 22 3 = w.code := (fld_pack l e 5 1).trans rfl
  have f25_4 : fld u 25 4 = 5 := (fld_pack l e 6 1).trans rfl
  have f29_3 : fld u 29 3 = m := (fld_pack l e 7 1).trans rfl
  refine decodeWord_of_major ((fld_pack l e 0 1).trans rfl) ((decode32_Major22 f1_6).trans ?_) h
  simp [decMajor22, f7_5, f12_5, f17_5, f22_3, f25_4, f29_3, fw_ofCode, Option.map]

theorem RoundTrip.vfeq (w : FW) (d : Nat) (a : Nat) (b : Nat) (m : Nat) : RoundTrip.Statement (.vfeq w d a b m) := by
  intro _ u h he
  obtain ⟨h0, h1, h2, h3, -⟩ := of_decide_eq_true h
  have hw := fw_code_lt w
  have e : pack [(1, 1), (6, 34), (5, d), (5, a), (5, b), (3, w.code), (4, 6), (3, m)] = u := by
    have : 0xC000045 + d * 128 + a * 4096 + b * 131072 + w.code * 4194304 + m * 536870912 = u := (Prod.mk.inj (Option.some.inj he)).2
    rw [← this]; simp only [pack]; ring
  have l : Fits [(1, 1), (6, 34), (5, d), (5, a), (5, b), (3, w.code), (4, 6), (3, m)] := ⟨by decide, by decide, h0, h1, h2, hw, by decide, h3, trivial⟩
  have f1_6 : fld u 1 6 = 34 := (fld_pack l e 1 1).trans rfl
  have f7_5 : fld u 7 5 = d := (fld_pack l e 2 1).trans rfl
  have f12_5 : fld u 12 5 = a := (fld_pack l e 3 1).trans rfl
  have f17_5 : fld u 17 5 = b := (fld_pack l e 4 1).trans rfl
  have f22_3 : fld u 22 3 = w.code := (fld_pack l e 5 1).trans rfl
  have f25_4 : fld u 25 4 = 6 := (fld_pack l e 6 1).trans rfl
  have f29_3 : fld u 29 3 = m := (fld_pack l e 7 1).trans rfl
  refine decodeWord_of_major ((fld_pack l e 0 1).trans rfl) ((decode32_Major22 f1_6).trans ?_) h
  simp [decMajor22, f7_5, f12_5, f17_5, f22_3, f25_4, f29_3, fw_ofCode, Option.map]

theorem RoundTrip.vflt (w : FW) (d : Nat) (a : Nat) (b : Nat) (m : Nat) : RoundTrip.Statement (.vflt w d a b m) := by
  intro _ u h he
  obtain ⟨h0, h1, h2, h3, -⟩ := of_decide_eq_true h
  have hw := fw_code_lt w
  have e : pack [(1, 1), (6, 34), (5, d), (5, a), (5, b), (3, w.code), (4, 7), (3, m)] = u := by
    have : 0xE000045 + d * 128 + a * 4096 + b * 131072 + w.code * 4194304 + m * 536870912 = u := (Prod.mk.inj (Option.some.inj he)).2
    rw [← this]; simp only [pack]; ring
  have l : Fits [(1, 1), (6, 34), (5, d), (5, a), (5, b), (3, w.code), (4, 7), (3, m)] := ⟨by decide, by decide, h0, h1, h2, hw, by decide, h3, trivial⟩
  have f1_6 : fld u 1 6 = 34 := (fld_pack l e 1 1).trans rfl
  have f7_5 : fld u 7 5 = d := (fld_pack l e 2 1).trans rfl
  have f12_5 : fld u 12 5 = a := (fld_pack l e 3 1).trans rfl
  have f17_5 : fld u 17 5 = b := (fld_pack l e 4 1).trans rfl
  have f22_3 : fld u 22 3 = w.code := (fld_pack l e 5 1).trans rfl
  have f25_4 : fld u 25 4 = 7 := (fld_pack l e 6 1).trans rfl
  have f29_3 : fld u 29 3 = m := (fld_pack l e 7 1).trans rfl
  refine decodeWord_of_major ((fld_pack l e 0 1).trans rfl) ((decode32_Major22 f1_6).trans ?_) h
  simp [decMajor22, f7_5, f12_5, f17_5, f22_3, f25_4, f29_3, fw_ofCode, Option.map]

theorem RoundTrip.vfle (w : FW) (d : Nat) (a : Nat) (b : Nat) (m : Nat) : RoundTrip.Statement (.vfle w d a b m) := by
  intro _ u h he
  obtain ⟨h0, h1, h2, h3, -⟩ := of_decide_eq_true h
  have hw := fw_code_lt w
  have e : pack [(1, 1), (6, 34), (5, d), (5, a), (5, b), (3, w.code), (4, 8), (3, m)] = u := by
    have : 0x10000045 + d * 128 + a * 4096 + b * 131072 + w.code * 4194304 + m * 536870912 = u := (Prod.mk.inj (Option.some.inj he)).2
    rw [← this]; simp only [pack]; ring
  have l : Fits [(1, 1), (6, 34), (5, d), (5, a), (5, b), (3, w.code), (4, 8), (3, m)] := ⟨by decide, by decide, h0, h1, h2, hw, by decide, h3, trivial⟩
  have f1_6 : fld u 1 6 = 34 := (fld_pack l e 1 1).trans rfl
  have f7_5 : fld u 7 5 = d := (fld_pack l e 2 1).trans rfl
  have f12_5 : fld u 12 5 = a := (fld_pack l e 3 1).trans rfl
  have f17_5 : fld u 17 5 = b := (fld_pack l e 4 1).trans rfl
  have f22_3 : fld u 22 3 = w.code := (fld_pack l e 5 1).trans rfl
  have f25_4 : fld u 25 4 = 8 := (fld_pack l e 6 1).trans rfl
  have f29_3 : fld u 29 3 = m := (fld_pack l e 7 1).trans rfl
  refine decodeWord_of_major ((fld_pack l e 0 1).trans rfl) ((decode32_Major22 f1_6).trans ?_) h
  simp [decMajor22, f7_5, f12_5, f17_5, f22_3, f25_4, f29_3, fw_ofCode, Option.map]

theorem RoundTrip.vffma (w : FW) (d : Nat) (a : Nat) (b : Nat) (la : Nat) : RoundTrip.Statement (.vffma w d a b la) := by
  intro _ u h he
  obtain ⟨h0, h1, h2, h3, -⟩ := of_decide_eq_true h
  have hw := fw_code_lt w
  have e : pack [(1, 1), (6, 35), (5, d), (5, a), (5, b), (3, w.code), (3, 0), (4, la)] = u := by
    have : 0x47 + d * 128 + a * 4096 + b * 131072 + w.code * 4194304 + la * 268435456 = u := (Prod.mk.inj (Option.some.inj he)).2
    rw [← this]; simp only [pack]; ring
  have l : Fits [(1, 1), (6, 35), (5, d), (5, a), (5, b), (3, w.code), (3, 0), (4, la)] := ⟨by decide, by decide, h0, h1, h2, hw, by decide, h3, trivial⟩
  have f1_6 : fld u 1 6 = 35 := (fld_pack l e 1 1).trans rfl
  have f7_5 : fld u 7 5 = d := (fld_pack l e 2 1).trans rfl
  have f12_5 : fld u 12 5 = a := (fld_pack l e 3 1).trans rfl
  have f17_5 : fld u 17 5 = b := (fld_pack l e 4 1).trans rfl
  have f22_3 : fld u 22 3 = w.code := (fld_pack l e 5 1).trans rfl
  have f25_3 : fld u 25 3 = 0 := (fld_pack l e 6 1).trans rfl
  have f28_4 : fld u 28 4 = la := (fld_pack l e 7 1).trans rfl
  refine decodeWord_of_major ((fld_pack l e 0 1).trans rfl) ((decode32_Major23 f1_6).trans ?_) h
  simp [decMajor23, f7_5, f12_5, f17_5, f22_3, f25_3, f28_4, fw_ofCode, Option.map]

theorem RoundTrip.vfdiv (w : FW) (d : Nat) (a : Nat) (b : Nat) (la : Nat) : RoundTrip.Statement (.vfdiv w d a b la) := by
  intro _ u h he
  obtain ⟨h0, h1, h2, h3, -⟩ := of_decide_eq_true h
  have hw := fw_code_lt w
  have e : pack [(1, 1), (6, 35), (5, d), (5, a), (5, b), (3, w.code), (3, 1), (4, la)] = u := by
    have : 0x2000047 + d * 128 + a * 4096 + b * 131072 + w.code * 4194304 + la * 268435456 = u := (Prod.mk.inj (Option.some.inj he)).2
    rw [← this]; simp only [pack]; ring
  have l : Fits [(1, 1), (6, 35), (5, d), (5, a), (5, b), (3, w.code), (3, 1), (4, la)] := ⟨by decide, by decide, h0, h1, h2, hw, by decide, h3, trivial⟩
  have f1_6 : fld u 1 6 = 35 := (fld_pack l e 1 1).trans rfl
  have f7_5 : fld u 7 5 = d := (fld_pack l e 2 1).trans rfl
  have f12_5 : fld u 12 5 = a := (fld_pack l e 3 1).trans rfl
  have f17_5 : fld u 17 5 = b := (fld_pack l e 4 1).trans rfl
  have f22_3 : fld u 22 3 = w.code := (fld_pack l e 5 1).trans rfl
  have f25_3 : fld u 25 3 = 1 := (fld_pack l e 6 1).trans rfl
  have f28_4 : fld u 28 4 = la := (fld_pack l e 7 1).trans rfl
  refine decodeWord_of_major ((fld_pack l e 0 1).trans rfl) ((decode32_Major23 f1_6).trans ?_) h
  simp [decMajor23, f7_5, f12_5, f17_5, f22_3, f25_3, f28_4, fw_ofCode, Option.map]

theorem RoundTrip.vfsqrt (w : FW) (d : Nat) (a : Nat) (la : Nat) : RoundTrip.Statement (.vfsqrt w d a la) := by
  intro _ u h he
  obtain ⟨h0, h1, h2, -⟩ := of_decide_eq_true h
  have hw := fw_code_lt w
  have e : pack [(1, 1), (6, 35), (5, d), (5, a), (5, 0), (3, w.code), (3, 2), (4, la)] = u := by
    have : 0x4000047 + d * 128 + a * 4096 + w.code * 4194304 + la * 268435456 = u := (Prod.mk.inj (Option.some.inj he)).2
    rw [← this]; simp only [pack]; ring
  have l : Fits [(1, 1), (6, 35), (5, d), (5, a), (5, 0), (3, w.code), (3, 2), (4, la)] := ⟨by decide, by decide, h0, h1, by decide, hw, by decide, h2, trivial⟩
  have f1_6 : fld u 1 6 = 35 := (fld_pack l e 1 1).trans rfl
  have f7_5 : fld u 7 5 = d := (fld_pack l e 2 1).trans rfl
  have f12_5 : fld u 12 5 = a := (fld_pack l e 3 1).trans rfl
  have f17_5 : fld u 17 5 = 0 := (fld_pack l e 4 1).trans rfl
  have f22_3 : fld u 22 3 = w.code := (fld_pack l e 5 1).trans rfl
  have f25_3 : fld u 25 3 = 2 := (fld_pack l e 6 1).trans rfl
  have f28_4 : fld u 28 4 = la := (fld_pack l e 7 1).trans rfl
  refine decodeWord_of_major ((fld_pack l e 0 1).trans rfl) ((decode32_Major23 f1_6).trans ?_) h
  simp [decMajor23, f7_5, f12_5, f17_5, f22_3, f25_3, f28_4, fw_ofCode, Option.map]

theorem RoundTrip.vcvt (w : FW) (d : Nat) (a : Nat) (tgt : Nat) (m : Nat) : RoundTrip.Statement (.vcvt w d a tgt m) := by
  intro _ u h he
  obtain ⟨h0, h1, h2, h3, -, -, -, -⟩ := of_decide_eq_true h
  have hw := fw_code_lt w
  have e : pack [(1, 1), (6, 36), (5, d), (5, a), (5, tgt), (3, w.code), (4, 0), (3, m)] = u := by
    have : 0x49 + d * 128 + a * 4096 + tgt * 131072 + w.code * 4194304 + m * 536870912 = u := (Prod.mk.inj (Option.some.inj he)).2
    rw [← this]; simp only [pack]; ring
  have l : Fits [(1, 1), (6, 36), (5, d), (5, a), (5, tgt), (3, w.code), (4, 0), (3, m)] := ⟨by decide, by decide, h0, h1, h2, hw, by decide, h3, trivial⟩
  have f1_6 : fld u 1 6 = 36 := (fld_pack l e 1 1).trans rfl
  have f7_5 : fld u 7 5 = d := (fld_pack l e 2 1).trans rfl
  have f12_5 : fld u 12 5 = a := (fld_pack l e 3 1).trans rfl
  have f17_5 : fld u 17 5 = tgt := (fld_pack l e 4 1).trans rfl
  have f22_3 : fld u 22 3 = w.code := (fld_pack l e 5 1).trans rfl
  have f25_4 : fld u 25 4 = 0 := (fld_pack l e 6 1).trans rfl
  have f29_3 : fld u 29 3 = m := (fld_pack l e 7 1).trans rfl
  refine decodeWord_of_major ((fld_pack l e 0 1).trans rfl) ((decode32_Major24 f1_6).trans ?_) h
  simp [decMajor24, f7_5, f12_5, f17_5, f22_3, f25_4, f29_3, fw_ofCode, Option.map]

theorem RoundTrip.vicvtf (w : IW) (d : Nat) (a : Nat) (tgt : Nat) (m : Nat) : RoundTrip.Statement (.vicvtf w d a tgt m) := by
  intro _ u h he
  obtain ⟨h0, h1, h2, h3, -, -, -, -⟩ := of_decide_eq_true h
  have hw := iw_code_lt w
  have e : pack [(1, 1), (6, 36), (5, d), (5, a), (5, tgt), (3, w.code), (4, 1), (3, m)] = u := by
    have : 0x2000049 + d * 128 + a * 4096 + tgt * 131072 + w.code * 4194304 + m * 536870912 = u := (Prod.mk.inj (Option.some.inj he)).2
    rw [← this]; simp only [pack]; ring
  have l : Fits [(1, 1), (6, 36), (5, d), (5, a), (5, tgt), (3, w.code), (4, 1), (3, m)] := ⟨by decide, by decide, h0, h1, h2, hw, by decide, h3, trivial⟩
  have f1_6 : fld u 1 6 = 36 := (fld_pack l e 1 1).trans rfl
  have f7_5 : fld u 7 5 = d := (fld_pack l e 2 1).trans rfl
  have f12_5 : fld u 12 5 = a := (fld_pack l e 3 1).trans rfl
  have f17_5 : fld u 17 5 = tgt := (fld_pack l e 4 1).trans rfl
  have f22_3 : fld u 22 3 = w.code := (fld_pack l e 5 1).trans rfl
  have f25_4 : fld u 25 4 = 1 := (fld_pack l e 6 1).trans rfl
  have f29_3 : fld u 29 3 = m := (fld_pack l e 7 1).trans rfl
  refine decodeWord_of_major ((fld_pack l e 0 1).trans rfl) ((decode32_Major24 f1_6).trans ?_) h
  simp [decMajor24, f7_5, f12_5, f17_5, f22_3, f25_4, f29_3, iw_ofCode, Option.map]

theorem RoundTrip.vfcvti (w : FW) (d : Nat) (a : Nat) (tgt : Nat) (m : Nat) : RoundTrip.Statement (.vfcvti w d a tgt m) := by
  intro _ u h he
  obtain ⟨h0, h1, h2, h3, -, -, -, -⟩ := of_decide_eq_true h
  have hw := fw_code_lt w
  have e : pack [(1, 1), (6, 36), (5, d), (5, a), (5, tgt), (3, w.code), (4, 2), (3, m)] = u := by
    have : 0x4000049 + d * 128 + a * 4096 + tgt * 131072 + w.code * 4194304 + m * 536870912 = u := (Prod.mk.inj (Option.some.inj he)).2
    rw [← this]; simp only [pack]; ring
  have l : Fits [(1, 1), (6, 36), (5, d), (5, a), (5, tgt), (3, w.code), (4, 2), (3, m)] := ⟨by decide, by decide, h0, h1, h2, hw, by decide, h3, trivial⟩
  have f1_6 : fld u 1 6 = 36 := (fld_pack l e 1 1).trans rfl
  have f7_5 : fld u 7 5 = d := (fld_pack l e 2 1).trans rfl
  have f12_5 : fld u 12 5 = a := (fld_pack l e 3 1).trans rfl
  have f17_5 : fld u 17 5 = tgt := (fld_pack l e 4 1).trans rfl
  have f22_3 : fld u 22 3 = w.code := (fld_pack l e 5 1).trans rfl
  have f25_4 : fld u 25 4 = 2 := (fld_pack l e 6 1).trans rfl
  have f29_3 : fld u 29 3 = m := (fld_pack l e 7 1).trans rfl
  refine decodeWord_of_major ((fld_pack l e 0 1).trans rfl) ((decode32_Major24 f1_6).trans ?_) h
  simp [decMajor24, f7_5, f12_5, f17_5, f22_3, f25_4, f29_3, fw_ofCode, Option.map]

theorem RoundTrip.vfin (w : FW) (d : Nat) (a : Nat) (rm : Nat) (m : Nat) : RoundTrip.Statement (.vfin w d a rm m) := by
  intro _ u h he
  obtain ⟨h0, h1, h2, h3, -⟩ := of_decide_eq_true h
  have hw := fw_code_lt w
  have e : pack [(1, 1), (6, 36), (5, d), (5, a), (3, rm), (2, 0), (3, w.code), (4, 3), (3, m)] = u := by
    have : 0x6000049 + d * 128 + a * 4096 + rm * 131072 + w.code * 4194304 + m * 536870912 = u := (Prod.mk.inj (Option.some.inj he)).2
    rw [← this]; simp only [pack]; ring
  have l : Fits [(1, 1), (6, 36), (5, d), (5, a), (3, rm), (2, 0), (3, w.code), (4, 3), (3, m)] := ⟨by decide, by decide, h0, h1, h2, by decide, hw, by decide, h3, trivial⟩
  have f1_6 : fld u 1 6 = 36 := (fld_pack l e 1 1).trans rfl
  have f7_5 : fld u 7 5 = d := (fld_pack l e 2 1).trans rfl
  have f12_5 : fld u 12 5 = a := (fld_pack l e 3 1).trans rfl
  have f17_3 : fld u 17 3 = rm := (fld_pack l e 4 1).trans rfl
  have f20_2 : fld u 20 2 = 0 := (fld_pack l e 5 1).trans rfl
  have f22_3 : fld u 22 3 = w.code := (fld_pack l e 6 1).trans rfl
  have f25_4 : fld u 25 4 = 3 := (fld_pack l e 7 1).trans rfl
  have f29_3 : fld u 29 3 = m := (fld_pack l e 8 1).trans rfl
  refine decodeWord_of_major ((fld_pack l e 0 1).trans rfl) ((decode32_Major24 f1_6).trans ?_) h
  simp [decMajor24, f7_5, f12_5, f17_3, f20_2, f22_3, f25_4, f29_3, fw_ofCode, Option.map]

theorem RoundTrip.vtget (d : Nat) (a : Nat) (m : Nat) : RoundTrip.Statement (.vtget d a m) := by
  intro _ u h he
  obtain ⟨h0, h1, h2⟩ := of_decide_eq_true h
  have e : pack [(1, 1), (6, 36), (5, d), (5, a), (3, 0), (2, 0), (3, 0), (4, 4), (3, m)] = u := by
    have : 0x8000049 + d * 128 + a * 4096 + m * 536870912 = u := (Prod.mk.inj (Option.some.inj he)).2
    rw [← this]; simp only [pack]; ring
  have l : Fits [(1, 1), (6, 36), (5, d), (5, a), (3, 0), (2, 0), (3, 0), (4, 4), (3, m)] := ⟨by decide, by decide, h0, h1, by decide, by decide, by decide, by decide, h2, trivial⟩
  have f1_6 : fld u 1 6 = 36 := (fld_pack l e 1 1).trans rfl
  have f7_5 : fld u 7 5 = d := (fld_pack l e 2 1).trans rfl
  have f12_5 : fld u 12 5 = a := (fld_pack l e 3 1).trans rfl
  have f17_12 : fld u 17 12 = 1024 := (fld_pack l e 4 4).trans (by simp [pack]; try omega)
  have f20_2 : fld u 20 2 = 0 := (fld_pack l e 5 1).trans rfl
  have f25_4 : fld u 25 4 = 4 := (fld_pack l e 7 1).trans rfl
  have f29_3 : fld u 29 3 = m := (fld_pack l e 8 1).trans rfl
  refine decodeWord_of_major ((fld_pack l e 0 1).trans rfl) ((decode32_Major24 f1_6).trans ?_) h
  simp [decMajor24, f7_5, f12_5, f17_12, f20_2, f25_4, f29_3]

theorem RoundTrip.vtset (d : Nat) (a : Nat) (b : Nat) (m : Nat) : RoundTrip.Statement (.vtset d a b m) := by
  intro _ u h he
  obtain ⟨h0, h1, h2, h3⟩ := of_decide_eq_true h
  have e : pack [(1, 1), (6, 36), (5, d), (5, a), (5, b), (3, 0), (4, 5), (3, m)] = u := by
    have : 0xA000049 + d * 128 + a * 4096 + b * 131072 + m * 536870912 = u := (Prod.mk.inj (Option.some.inj he)).2
    rw [← this]; simp only [pack]; ring
  have l : Fits [(1, 1), (6, 36), (5, d), (5, a), (5, b), (3, 0), (4, 5), (3, m)] := ⟨by decide, by decide, h0, h1, h2, by decide, by decide, h3, trivial⟩
  have f1_6 : fld u 1 6 = 36 := (fld_pack l e 1 1).trans rfl
  have f7_5 : fld u 7 5 = d := (fld_pack l e 2 1).trans rfl
  have f12_5 : fld u 12 5 = a := (fld_pack l e 3 1).trans rfl
  have f17_5 : fld u 17 5 = b := (fld_pack l e 4 1).trans rfl
  have f17_12 : fld u 17 12 = 1280 + b := (fld_pack l e 4 3).trans (by simp [pack]; try omega)
  have f22_7 : fld u 22 7 = 40 := (fld_pack l e 5 2).trans (by simp [pack]; try omega)
  have f25_4 : fld u 25 4 = 5 := (fld_pack l e 6 1).trans rfl
  have f29_3 : fld u 29 3 = m := (fld_pack l e 7 1).trans rfl
  have g0 : ¬ (1280 + b = 1024) := by omega
  refine decodeWord_of_major ((fld_pack l e 0 1).trans rfl) ((decode32_Major24 f1_6).trans ?_) h
  simp [decMajor24, f7_5, f12_5, f17_5, f17_12, f22_7, f25_4, f29_3, g0]

theorem RoundTrip.vperm (d : Nat) (a : Nat) (b : Nat) (m : Nat) : RoundTrip.Statement (.vperm d a b m) := by
  intro _ u h he
  obtain ⟨h0, h1, h2, h3⟩ := of_decide_eq_true h
  have e : pack [(1, 1), (6, 37), (5, d), (5, a), (5, b), (7, 0), (3, m)] = u := by
    have : 0x4B + d * 128 + a * 4096 + b * 131072 + m * 536870912 = u := (Prod.mk.inj (Option.some.inj he)).2
    rw [← this]; simp only [pack]; ring
  have l : Fits [(1, 1), (6, 37), (5, d), (5, a), (5, b), (7, 0), (3, m)] := ⟨by decide, by decide, h0, h1, h2, by decide, h3, trivial⟩
  have f1_6 : fld u 1 6 = 37 := (fld_pack l e 1 1).trans rfl
  have f7_5 : fld u 7 5 = d := (fld_pack l e 2 1).trans rfl
  have f12_5 : fld u 12 5 = a := (fld_pack l e 3 1).trans rfl
  have f17_5 : fld u 17 5 = b := (fld_pack l e 4 1).trans rfl
  have f22_7 : fld u 22 7 = 0 := (fld_pack l e 5 1).trans rfl
  have f29_3 : fld u 29 3 = m := (fld_pack l e 6 1).trans rfl
  refine decodeWord_of_major ((fld_pack l e 0 1).trans rfl) ((decode32_Major25 f1_6).trans ?_) h
  simp [decMajor25, f7_5, f12_5, f17_5, f22_7, f29_3]

theorem RoundTrip.vslide (d : Nat) (a : Nat) (b : Nat) (m : Nat) : RoundTrip.Statement (.vslide d a b m) := by
  intro _ u h he
  obtain ⟨h0, h1, h2, h3⟩ := of_decide_eq_true h
  have e : pack [(1, 1), (6, 37), (5, d), (5, a), (5, b), (7, 8), (3, m)] = u := by
    have : 0x200004B + d * 128 + a * 4096 + b * 131072 + m * 536870912 = u := (Prod.mk.inj (Option.some.inj he)).2
    rw [← this]; simp only [pack]; ring
  have l : Fits [(1, 1), (6, 37), (5, d), (5, a), (5, b), (7, 8), (3, m)] := ⟨by decide, by decide, h0, h1, h2, by decide, h3, trivial⟩
  have f1_6 : fld u 1 6 = 37 := (fld_pack l e 1 1).trans rfl
  have f7_5 : fld u 7 5 = d := (fld_pack l e 2 1).trans rfl
  have f12_5 : fld u 12 5 = a := (fld_pack l e 3 1).trans rfl
  have f17_5 : fld u 17 5 = b := (fld_pack l e 4 1).trans rfl
  have f22_7 : fld u 22 7 = 8 := (fld_pack l e 5 1).trans rfl
  have f29_3 : fld u 29 3 = m := (fld_pack l e 6 1).trans rfl
  refine decodeWord_of_major ((fld_pack l e 0 1).trans rfl) ((decode32_Major25 f1_6).trans ?_) h
  simp [decMajor25, f7_5, f12_5, f17_5, f22_7, f29_3]

theorem RoundTrip.vbcast (d : Nat) (a : Nat) (b : Nat) (m : Nat) : RoundTrip.Statement (.vbcast d a b m) := by
  intro _ u h he
  obtain ⟨h0, h1, h2, h3⟩ := of_decide_eq_true h
  have e : pack [(1, 1), (6, 37), (5, d), (5, a), (5, b), (7, 16), (3, m)] = u := by
    have : 0x400004B + d * 128 + a * 4096 + b * 131072 + m * 536870912 = u := (Prod.mk.inj (Option.some.inj he)).2
    rw [← this]; simp only [pack]; ring
  have l : Fits [(1, 1), (6, 37), (5, d), (5, a), (5, b), (7, 16), (3, m)] := ⟨by decide, by decide, h0, h1, h2, by decide, h3, trivial⟩
  have f1_6 : fld u 1 6 = 37 := (fld_pack l e 1 1).trans rfl
  have f7_5 : fld u 7 5 = d := (fld_pack l e 2 1).trans rfl
  have f12_5 : fld u 12 5 = a := (fld_pack l e 3 1).trans rfl
  have f17_5 : fld u 17 5 = b := (fld_pack l e 4 1).trans rfl
  have f22_7 : fld u 22 7 = 16 := (fld_pack l e 5 1).trans rfl
  have f29_3 : fld u 29 3 = m := (fld_pack l e 6 1).trans rfl
  refine decodeWord_of_major ((fld_pack l e 0 1).trans rfl) ((decode32_Major25 f1_6).trans ?_) h
  simp [decMajor25, f7_5, f12_5, f17_5, f22_7, f29_3]

theorem RoundTrip.vnbr (d : Nat) (a : Nat) (m : Nat) (o : Nat) : RoundTrip.Statement (.vnbr d a m o) := by
  intro _ u h he
  obtain ⟨h0, h1, h2, h3, -, h5⟩ := of_decide_eq_true h
  have e : pack [(1, 1), (6, 37), (5, d), (5, a), (5, 0), (3, o), (4, 3), (3, m)] = u := by
    have : 0x600004B + d * 128 + a * 4096 + o * 4194304 + m * 536870912 = u := (Prod.mk.inj (Option.some.inj he)).2
    rw [← this]; simp only [pack]; ring
  have l : Fits [(1, 1), (6, 37), (5, d), (5, a), (5, 0), (3, o), (4, 3), (3, m)] := ⟨by decide, by decide, h0, h1, by decide, h3, by decide, h2, trivial⟩
  have f1_6 : fld u 1 6 = 37 := (fld_pack l e 1 1).trans rfl
  have f7_5 : fld u 7 5 = d := (fld_pack l e 2 1).trans rfl
  have f12_5 : fld u 12 5 = a := (fld_pack l e 3 1).trans rfl
  have f17_5 : fld u 17 5 = 0 := (fld_pack l e 4 1).trans rfl
  have f22_3 : fld u 22 3 = o := (fld_pack l e 5 1).trans rfl
  have f22_7 : fld u 22 7 = 24 + o := (fld_pack l e 5 2).trans (by simp [pack]; try omega)
  have f25_4 : fld u 25 4 = 3 := (fld_pack l e 6 1).trans rfl
  have f29_3 : fld u 29 3 = m := (fld_pack l e 7 1).trans rfl
  have g0 : ¬ (24 + o = 0) := by omega
  have g1 : ¬ (24 + o = 8) := by omega
  have g2 : ¬ (24 + o = 16) := by omega
  refine decodeWord_of_major ((fld_pack l e 0 1).trans rfl) ((decode32_Major25 f1_6).trans ?_) h
  simp [decMajor25, f7_5, f12_5, f17_5, f22_3, f22_7, f25_4, f29_3, g0, g1, g2]

theorem RoundTrip.vcomp (d : Nat) (a : Nat) (m : Nat) : RoundTrip.Statement (.vcomp d a m) := by
  intro _ u h he
  obtain ⟨h0, h1, h2⟩ := of_decide_eq_true h
  have e : pack [(1, 1), (6, 37), (5, d), (5, a), (5, 0), (3, 0), (4, 4), (3, m)] = u := by
    have : 0x800004B + d * 128 + a * 4096 + m * 536870912 = u := (Prod.mk.inj (Option.some.inj he)).2
    rw [← this]; simp only [pack]; ring
  have l : Fits [(1, 1), (6, 37), (5, d), (5, a), (5, 0), (3, 0), (4, 4), (3, m)] := ⟨by decide, by decide, h0, h1, by decide, by decide, by decide, h2, trivial⟩
  have f1_6 : fld u 1 6 = 37 := (fld_pack l e 1 1).trans rfl
  have f7_5 : fld u 7 5 = d := (fld_pack l e 2 1).trans rfl
  have f12_5 : fld u 12 5 = a := (fld_pack l e 3 1).trans rfl
  have f17_5 : fld u 17 5 = 0 := (fld_pack l e 4 1).trans rfl
  have f17_12 : fld u 17 12 = 1024 := (fld_pack l e 4 3).trans (by simp [pack]; try omega)
  have f22_7 : fld u 22 7 = 32 := (fld_pack l e 5 2).trans (by simp [pack]; try omega)
  have f25_4 : fld u 25 4 = 4 := (fld_pack l e 6 1).trans rfl
  have f29_3 : fld u 29 3 = m := (fld_pack l e 7 1).trans rfl
  refine decodeWord_of_major ((fld_pack l e 0 1).trans rfl) ((decode32_Major25 f1_6).trans ?_) h
  simp [decMajor25, f7_5, f12_5, f17_5, f17_12, f22_7, f25_4, f29_3]

theorem RoundTrip.vexpd (d : Nat) (a : Nat) (m : Nat) : RoundTrip.Statement (.vexpd d a m) := by
  intro _ u h he
  obtain ⟨h0, h1, h2⟩ := of_decide_eq_true h
  have e : pack [(1, 1), (6, 37), (5, d), (5, a), (5, 0), (3, 0), (4, 5), (3, m)] = u := by
    have : 0xA00004B + d * 128 + a * 4096 + m * 536870912 = u := (Prod.mk.inj (Option.some.inj he)).2
    rw [← this]; simp only [pack]; ring
  have l : Fits [(1, 1), (6, 37), (5, d), (5, a), (5, 0), (3, 0), (4, 5), (3, m)] := ⟨by decide, by decide, h0, h1, by decide, by decide, by decide, h2, trivial⟩
  have f1_6 : fld u 1 6 = 37 := (fld_pack l e 1 1).trans rfl
  have f7_5 : fld u 7 5 = d := (fld_pack l e 2 1).trans rfl
  have f12_5 : fld u 12 5 = a := (fld_pack l e 3 1).trans rfl
  have f17_5 : fld u 17 5 = 0 := (fld_pack l e 4 1).trans rfl
  have f17_12 : fld u 17 12 = 1280 := (fld_pack l e 4 3).trans (by simp [pack]; try omega)
  have f22_7 : fld u 22 7 = 40 := (fld_pack l e 5 2).trans (by simp [pack]; try omega)
  have f25_4 : fld u 25 4 = 5 := (fld_pack l e 6 1).trans rfl
  have f29_3 : fld u 29 3 = m := (fld_pack l e 7 1).trans rfl
  refine decodeWord_of_major ((fld_pack l e 0 1).trans rfl) ((decode32_Major25 f1_6).trans ?_) h
  simp [decMajor25, f7_5, f12_5, f17_5, f17_12, f22_7, f25_4, f29_3]

theorem RoundTrip.vget (d : Nat) (a : Nat) (b : Nat) (m : Nat) : RoundTrip.Statement (.vget d a b m) := by
  intro _ u h he
  obtain ⟨h0, h1, h2, h3⟩ := of_decide_eq_true h
  have e : pack [(1, 1), (6, 37), (5, d), (5, a), (5, b), (3, 0), (4, 6), (3, m)] = u := by
    have : 0xC00004B + d * 128 + a * 4096 + b * 131072 + m * 536870912 = u := (Prod.mk.inj (Option.some.inj he)).2
    rw [← this]; simp only [pack]; ring
  have l : Fits [(1, 1), (6, 37), (5, d), (5, a), (5, b), (3, 0), (4, 6), (3, m)] := ⟨by decide, by decide, h0, h1, h2, by decide, by decide, h3, trivial⟩
  have f1_6 : fld u 1 6 = 37 := (fld_pack l e 1 1).trans rfl
  have f7_5 : fld u 7 5 = d := (fld_pack l e 2 1).trans rfl
  have f12_5 : fld u 12 5 = a := (fld_pack l e 3 1).trans rfl
  have f17_5 : fld u 17 5 = b := (fld_pack l e 4 1).trans rfl
  have f17_12 : fld u 17 12 = 1536 + b := (fld_pack l e 4 3).trans (by simp [pack]; try omega)
  have f22_7 : fld u 22 7 = 48 := (fld_pack l e 5 2).trans (by simp [pack]; try omega)
  have f25_4 : fld u 25 4 = 6 := (fld_pack l e 6 1).trans rfl
  have f29_3 : fld u 29 3 = m := (fld_pack l e 7 1).trans rfl
  have g0 : ¬ (1536 + b = 1024) := by omega
  have g1 : ¬ (1536 + b = 1280) := by omega
  refine decodeWord_of_major ((fld_pack l e 0 1).trans rfl) ((decode32_Major25 f1_6).trans ?_) h
  simp [decMajor25, f7_5, f12_5, f17_5, f17_12, f22_7, f25_4, f29_3, g0, g1]

theorem RoundTrip.vput (d : Nat) (a : Nat) (b : Nat) (m : Nat) : RoundTrip.Statement (.vput d a b m) := by
  intro _ u h he
  obtain ⟨h0, h1, h2, h3⟩ := of_decide_eq_true h
  have e : pack [(1, 1), (6, 37), (5, d), (5, a), (5, b), (3, 0), (4, 7), (3, m)] = u := by
    have : 0xE00004B + d * 128 + a * 4096 + b * 131072 + m * 536870912 = u := (Prod.mk.inj (Option.some.inj he)).2
    rw [← this]; simp only [pack]; ring
  have l : Fits [(1, 1), (6, 37), (5, d), (5, a), (5, b), (3, 0), (4, 7), (3, m)] := ⟨by decide, by decide, h0, h1, h2, by decide, by decide, h3, trivial⟩
  have f1_6 : fld u 1 6 = 37 := (fld_pack l e 1 1).trans rfl
  have f7_5 : fld u 7 5 = d := (fld_pack l e 2 1).trans rfl
  have f12_5 : fld u 12 5 = a := (fld_pack l e 3 1).trans rfl
  have f17_5 : fld u 17 5 = b := (fld_pack l e 4 1).trans rfl
  have f17_12 : fld u 17 12 = 1792 + b := (fld_pack l e 4 3).trans (by simp [pack]; try omega)
  have f22_7 : fld u 22 7 = 56 := (fld_pack l e 5 2).trans (by simp [pack]; try omega)
  have f25_4 : fld u 25 4 = 7 := (fld_pack l e 6 1).trans rfl
  have f29_3 : fld u 29 3 = m := (fld_pack l e 7 1).trans rfl
  have g0 : ¬ (1792 + b = 1024) := by omega
  have g1 : ¬ (1792 + b = 1280) := by omega
  refine decodeWord_of_major ((fld_pack l e 0 1).trans rfl) ((decode32_Major25 f1_6).trans ?_) h
  simp [decMajor25, f7_5, f12_5, f17_5, f17_12, f22_7, f25_4, f29_3, g0, g1]

theorem RoundTrip.vred (w : IW) (d : Nat) (a : Nat) (b : Nat) (la : Nat) : RoundTrip.Statement (.vred w d a b la) := by
  intro _ u h he
  obtain ⟨h0, h1, h2, h3, -⟩ := of_decide_eq_true h
  have hw := iw_code_lt w
  have e : pack [(1, 1), (6, 38), (5, d), (5, a), (5, b), (3, w.code), (3, 0), (4, la)] = u := by
    have : 0x4D + d * 128 + a * 4096 + b * 131072 + w.code * 4194304 + la * 268435456 = u := (Prod.mk.inj (Option.some.inj he)).2
    rw [← this]; simp only [pack]; ring
  have l : Fits [(1, 1), (6, 38), (5, d), (5, a), (5, b), (3, w.code), (3, 0), (4, la)] := ⟨by decide, by decide, h0, h1, h2, hw, by decide, h3, trivial⟩
  have f1_6 : fld u 1 6 = 38 := (fld_pack l e 1 1).trans rfl
  have f7_5 : fld u 7 5 = d := (fld_pack l e 2 1).trans rfl
  have f12_5 : fld u 12 5 = a := (fld_pack l e 3 1).trans rfl
  have f17_5 : fld u 17 5 = b := (fld_pack l e 4 1).trans rfl
  have f22_3 : fld u 22 3 = w.code := (fld_pack l e 5 1).trans rfl
  have f25_3 : fld u 25 3 = 0 := (fld_pack l e 6 1).trans rfl
  have f28_4 : fld u 28 4 = la := (fld_pack l e 7 1).trans rfl
  refine decodeWord_of_major ((fld_pack l e 0 1).trans rfl) ((decode32_Major26 f1_6).trans ?_) h
  simp [decMajor26, f7_5, f12_5, f17_5, f22_3, f25_3, f28_4, iw_ofCode, Option.map]

theorem RoundTrip.vfred (w : FW) (d : Nat) (a : Nat) (b : Nat) (la : Nat) : RoundTrip.Statement (.vfred w d a b la) := by
  intro _ u h he
  obtain ⟨h0, h1, h2, h3, -⟩ := of_decide_eq_true h
  have hw := fw_code_lt w
  have e : pack [(1, 1), (6, 38), (5, d), (5, a), (5, b), (3, w.code), (3, 1), (4, la)] = u := by
    have : 0x200004D + d * 128 + a * 4096 + b * 131072 + w.code * 4194304 + la * 268435456 = u := (Prod.mk.inj (Option.some.inj he)).2
    rw [← this]; simp only [pack]; ring
  have l : Fits [(1, 1), (6, 38), (5, d), (5, a), (5, b), (3, w.code), (3, 1), (4, la)] := ⟨by decide, by decide, h0, h1, h2, hw, by decide, h3, trivial⟩
  have f1_6 : fld u 1 6 = 38 := (fld_pack l e 1 1).trans rfl
  have f7_5 : fld u 7 5 = d := (fld_pack l e 2 1).trans rfl
  have f12_5 : fld u 12 5 = a := (fld_pack l e 3 1).trans rfl
  have f17_5 : fld u 17 5 = b := (fld_pack l e 4 1).trans rfl
  have f22_3 : fld u 22 3 = w.code := (fld_pack l e 5 1).trans rfl
  have f25_3 : fld u 25 3 = 1 := (fld_pack l e 6 1).trans rfl
  have f28_4 : fld u 28 4 = la := (fld_pack l e 7 1).trans rfl
  refine decodeWord_of_major ((fld_pack l e 0 1).trans rfl) ((decode32_Major26 f1_6).trans ?_) h
  simp [decMajor26, f7_5, f12_5, f17_5, f22_3, f25_3, f28_4, fw_ofCode, Option.map]

theorem RoundTrip.vscan (w : IW) (d : Nat) (a : Nat) (b : Nat) (la : Nat) : RoundTrip.Statement (.vscan w d a b la) := by
  intro _ u h he
  obtain ⟨h0, h1, h2, h3, -⟩ := of_decide_eq_true h
  have hw := iw_code_lt w
  have e : pack [(1, 1), (6, 38), (5, d), (5, a), (5, b), (3, w.code), (3, 2), (4, la)] = u := by
    have : 0x400004D + d * 128 + a * 4096 + b * 131072 + w.code * 4194304 + la * 268435456 = u := (Prod.mk.inj (Option.some.inj he)).2
    rw [← this]; simp only [pack]; ring
  have l : Fits [(1, 1), (6, 38), (5, d), (5, a), (5, b), (3, w.code), (3, 2), (4, la)] := ⟨by decide, by decide, h0, h1, h2, hw, by decide, h3, trivial⟩
  have f1_6 : fld u 1 6 = 38 := (fld_pack l e 1 1).trans rfl
  have f7_5 : fld u 7 5 = d := (fld_pack l e 2 1).trans rfl
  have f12_5 : fld u 12 5 = a := (fld_pack l e 3 1).trans rfl
  have f17_5 : fld u 17 5 = b := (fld_pack l e 4 1).trans rfl
  have f22_3 : fld u 22 3 = w.code := (fld_pack l e 5 1).trans rfl
  have f25_3 : fld u 25 3 = 2 := (fld_pack l e 6 1).trans rfl
  have f28_4 : fld u 28 4 = la := (fld_pack l e 7 1).trans rfl
  refine decodeWord_of_major ((fld_pack l e 0 1).trans rfl) ((decode32_Major26 f1_6).trans ?_) h
  simp [decMajor26, f7_5, f12_5, f17_5, f22_3, f25_3, f28_4, iw_ofCode, Option.map]

theorem RoundTrip.vfscan (w : FW) (d : Nat) (a : Nat) (b : Nat) (la : Nat) : RoundTrip.Statement (.vfscan w d a b la) := by
  intro _ u h he
  obtain ⟨h0, h1, h2, h3, -⟩ := of_decide_eq_true h
  have hw := fw_code_lt w
  have e : pack [(1, 1), (6, 38), (5, d), (5, a), (5, b), (3, w.code), (3, 3), (4, la)] = u := by
    have : 0x600004D + d * 128 + a * 4096 + b * 131072 + w.code * 4194304 + la * 268435456 = u := (Prod.mk.inj (Option.some.inj he)).2
    rw [← this]; simp only [pack]; ring
  have l : Fits [(1, 1), (6, 38), (5, d), (5, a), (5, b), (3, w.code), (3, 3), (4, la)] := ⟨by decide, by decide, h0, h1, h2, hw, by decide, h3, trivial⟩
  have f1_6 : fld u 1 6 = 38 := (fld_pack l e 1 1).trans rfl
  have f7_5 : fld u 7 5 = d := (fld_pack l e 2 1).trans rfl
  have f12_5 : fld u 12 5 = a := (fld_pack l e 3 1).trans rfl
  have f17_5 : fld u 17 5 = b := (fld_pack l e 4 1).trans rfl
  have f22_3 : fld u 22 3 = w.code := (fld_pack l e 5 1).trans rfl
  have f25_3 : fld u 25 3 = 3 := (fld_pack l e 6 1).trans rfl
  have f28_4 : fld u 28 4 = la := (fld_pack l e 7 1).trans rfl
  refine decodeWord_of_major ((fld_pack l e 0 1).trans rfl) ((decode32_Major26 f1_6).trans ?_) h
  simp [decMajor26, f7_5, f12_5, f17_5, f22_3, f25_3, f28_4, fw_ofCode, Option.map]

theorem RoundTrip.vsort (w : FW) (d : Nat) (a : Nat) (b : Nat) (la : Nat) : RoundTrip.Statement (.vsort w d a b la) := by
  intro _ u h he
  obtain ⟨h0, h1, h2, h3, -⟩ := of_decide_eq_true h
  have hw := fw_code_lt w
  have e : pack [(1, 1), (6, 38), (5, d), (5, a), (5, b), (3, w.code), (3, 4), (4, la)] = u := by
    have : 0x800004D + d * 128 + a * 4096 + b * 131072 + w.code * 4194304 + la * 268435456 = u := (Prod.mk.inj (Option.some.inj he)).2
    rw [← this]; simp only [pack]; ring
  have l : Fits [(1, 1), (6, 38), (5, d), (5, a), (5, b), (3, w.code), (3, 4), (4, la)] := ⟨by decide, by decide, h0, h1, h2, hw, by decide, h3, trivial⟩
  have f1_6 : fld u 1 6 = 38 := (fld_pack l e 1 1).trans rfl
  have f7_5 : fld u 7 5 = d := (fld_pack l e 2 1).trans rfl
  have f12_5 : fld u 12 5 = a := (fld_pack l e 3 1).trans rfl
  have f17_5 : fld u 17 5 = b := (fld_pack l e 4 1).trans rfl
  have f22_3 : fld u 22 3 = w.code := (fld_pack l e 5 1).trans rfl
  have f25_3 : fld u 25 3 = 4 := (fld_pack l e 6 1).trans rfl
  have f28_4 : fld u 28 4 = la := (fld_pack l e 7 1).trans rfl
  refine decodeWord_of_major ((fld_pack l e 0 1).trans rfl) ((decode32_Major26 f1_6).trans ?_) h
  simp [decMajor26, f7_5, f12_5, f17_5, f22_3, f25_3, f28_4, fw_ofCode, Option.map]

theorem RoundTrip.vsorti (w : IW) (d : Nat) (a : Nat) (b : Nat) (la : Nat) : RoundTrip.Statement (.vsorti w d a b la) := by
  intro _ u h he
  obtain ⟨h0, h1, h2, h3, -⟩ := of_decide_eq_true h
  have hw := iw_code_lt w
  have e : pack [(1, 1), (6, 38), (5, d), (5, a), (5, b), (3, w.code), (3, 5), (4, la)] = u := by
    have : 0xA00004D + d * 128 + a * 4096 + b * 131072 + w.code * 4194304 + la * 268435456 = u := (Prod.mk.inj (Option.some.inj he)).2
    rw [← this]; simp only [pack]; ring
  have l : Fits [(1, 1), (6, 38), (5, d), (5, a), (5, b), (3, w.code), (3, 5), (4, la)] := ⟨by decide, by decide, h0, h1, h2, hw, by decide, h3, trivial⟩
  have f1_6 : fld u 1 6 = 38 := (fld_pack l e 1 1).trans rfl
  have f7_5 : fld u 7 5 = d := (fld_pack l e 2 1).trans rfl
  have f12_5 : fld u 12 5 = a := (fld_pack l e 3 1).trans rfl
  have f17_5 : fld u 17 5 = b := (fld_pack l e 4 1).trans rfl
  have f22_3 : fld u 22 3 = w.code := (fld_pack l e 5 1).trans rfl
  have f25_3 : fld u 25 3 = 5 := (fld_pack l e 6 1).trans rfl
  have f28_4 : fld u 28 4 = la := (fld_pack l e 7 1).trans rfl
  refine decodeWord_of_major ((fld_pack l e 0 1).trans rfl) ((decode32_Major26 f1_6).trans ?_) h
  simp [decMajor26, f7_5, f12_5, f17_5, f22_3, f25_3, f28_4, iw_ofCode, Option.map]

theorem RoundTrip.vtopk (w : FW) (d : Nat) (a : Nat) (b : Nat) (la : Nat) : RoundTrip.Statement (.vtopk w d a b la) := by
  intro _ u h he
  obtain ⟨h0, h1, h2, h3, -⟩ := of_decide_eq_true h
  have hw := fw_code_lt w
  have e : pack [(1, 1), (6, 38), (5, d), (5, a), (5, b), (3, w.code), (3, 6), (4, la)] = u := by
    have : 0xC00004D + d * 128 + a * 4096 + b * 131072 + w.code * 4194304 + la * 268435456 = u := (Prod.mk.inj (Option.some.inj he)).2
    rw [← this]; simp only [pack]; ring
  have l : Fits [(1, 1), (6, 38), (5, d), (5, a), (5, b), (3, w.code), (3, 6), (4, la)] := ⟨by decide, by decide, h0, h1, h2, hw, by decide, h3, trivial⟩
  have f1_6 : fld u 1 6 = 38 := (fld_pack l e 1 1).trans rfl
  have f7_5 : fld u 7 5 = d := (fld_pack l e 2 1).trans rfl
  have f12_5 : fld u 12 5 = a := (fld_pack l e 3 1).trans rfl
  have f17_5 : fld u 17 5 = b := (fld_pack l e 4 1).trans rfl
  have f22_3 : fld u 22 3 = w.code := (fld_pack l e 5 1).trans rfl
  have f25_3 : fld u 25 3 = 6 := (fld_pack l e 6 1).trans rfl
  have f28_4 : fld u 28 4 = la := (fld_pack l e 7 1).trans rfl
  refine decodeWord_of_major ((fld_pack l e 0 1).trans rfl) ((decode32_Major26 f1_6).trans ?_) h
  simp [decMajor26, f7_5, f12_5, f17_5, f22_3, f25_3, f28_4, fw_ofCode, Option.map]

theorem RoundTrip.vld (w : FW) (d : Nat) (a : Nat) (b : Nat) (la : Nat) : RoundTrip.Statement (.vld w d a b la) := by
  intro _ u h he
  obtain ⟨h0, h1, h2, h3, -⟩ := of_decide_eq_true h
  have hw := fw_code_lt w
  have e : pack [(1, 1), (6, 39), (5, d), (5, a), (5, b), (3, w.code), (3, 0), (4, la)] = u := by
    have : 0x4F + d * 128 + a * 4096 + b * 131072 + w.code * 4194304 + la * 268435456 = u := (Prod.mk.inj (Option.some.inj he)).2
    rw [← this]; simp only [pack]; ring
  have l : Fits [(1, 1), (6, 39), (5, d), (5, a), (5, b), (3, w.code), (3, 0), (4, la)] := ⟨by decide, by decide, h0, h1, h2, hw, by decide, h3, trivial⟩
  have f1_6 : fld u 1 6 = 39 := (fld_pack l e 1 1).trans rfl
  have f7_5 : fld u 7 5 = d := (fld_pack l e 2 1).trans rfl
  have f12_5 : fld u 12 5 = a := (fld_pack l e 3 1).trans rfl
  have f17_5 : fld u 17 5 = b := (fld_pack l e 4 1).trans rfl
  have f22_3 : fld u 22 3 = w.code := (fld_pack l e 5 1).trans rfl
  have f25_3 : fld u 25 3 = 0 := (fld_pack l e 6 1).trans rfl
  have f28_4 : fld u 28 4 = la := (fld_pack l e 7 1).trans rfl
  refine decodeWord_of_major ((fld_pack l e 0 1).trans rfl) ((decode32_Major27 f1_6).trans ?_) h
  simp [decMajor27, f7_5, f12_5, f17_5, f22_3, f25_3, f28_4, fw_ofCode, Option.map]

theorem RoundTrip.vst (w : FW) (d : Nat) (a : Nat) (b : Nat) : RoundTrip.Statement (.vst w d a b) := by
  intro _ u h he
  obtain ⟨h0, h1, h2, -⟩ := of_decide_eq_true h
  have hw := fw_code_lt w
  have e : pack [(1, 1), (6, 39), (5, d), (5, a), (5, b), (3, w.code), (3, 1), (4, 0)] = u := by
    have : 0x200004F + d * 128 + a * 4096 + b * 131072 + w.code * 4194304 = u := (Prod.mk.inj (Option.some.inj he)).2
    rw [← this]; simp only [pack]; ring
  have l : Fits [(1, 1), (6, 39), (5, d), (5, a), (5, b), (3, w.code), (3, 1), (4, 0)] := ⟨by decide, by decide, h0, h1, h2, hw, by decide, by decide, trivial⟩
  have f1_6 : fld u 1 6 = 39 := (fld_pack l e 1 1).trans rfl
  have f7_5 : fld u 7 5 = d := (fld_pack l e 2 1).trans rfl
  have f12_5 : fld u 12 5 = a := (fld_pack l e 3 1).trans rfl
  have f17_5 : fld u 17 5 = b := (fld_pack l e 4 1).trans rfl
  have f22_3 : fld u 22 3 = w.code := (fld_pack l e 5 1).trans rfl
  have f25_3 : fld u 25 3 = 1 := (fld_pack l e 6 1).trans rfl
  have f25_7 : fld u 25 7 = 1 := (fld_pack l e 6 2).trans (by simp [pack]; try omega)
  refine decodeWord_of_major ((fld_pack l e 0 1).trans rfl) ((decode32_Major27 f1_6).trans ?_) h
  simp [decMajor27, f7_5, f12_5, f17_5, f22_3, f25_3, f25_7, fw_ofCode, Option.map]

theorem RoundTrip.vlds (w : FW) (d : Nat) (a : Nat) (b : Nat) (la : Nat) : RoundTrip.Statement (.vlds w d a b la) := by
  intro _ u h he
  obtain ⟨h0, h1, h2, h3, -⟩ := of_decide_eq_true h
  have hw := fw_code_lt w
  have e : pack [(1, 1), (6, 39), (5, d), (5, a), (5, b), (3, w.code), (3, 2), (4, la)] = u := by
    have : 0x400004F + d * 128 + a * 4096 + b * 131072 + w.code * 4194304 + la * 268435456 = u := (Prod.mk.inj (Option.some.inj he)).2
    rw [← this]; simp only [pack]; ring
  have l : Fits [(1, 1), (6, 39), (5, d), (5, a), (5, b), (3, w.code), (3, 2), (4, la)] := ⟨by decide, by decide, h0, h1, h2, hw, by decide, h3, trivial⟩
  have f1_6 : fld u 1 6 = 39 := (fld_pack l e 1 1).trans rfl
  have f7_5 : fld u 7 5 = d := (fld_pack l e 2 1).trans rfl
  have f12_5 : fld u 12 5 = a := (fld_pack l e 3 1).trans rfl
  have f17_5 : fld u 17 5 = b := (fld_pack l e 4 1).trans rfl
  have f22_3 : fld u 22 3 = w.code := (fld_pack l e 5 1).trans rfl
  have f25_3 : fld u 25 3 = 2 := (fld_pack l e 6 1).trans rfl
  have f25_7 : fld u 25 7 = 2 + la * 8 := (fld_pack l e 6 2).trans (by simp [pack]; try omega)
  have f28_4 : fld u 28 4 = la := (fld_pack l e 7 1).trans rfl
  have g0 : ¬ (2 + la * 8 = 1) := by omega
  refine decodeWord_of_major ((fld_pack l e 0 1).trans rfl) ((decode32_Major27 f1_6).trans ?_) h
  simp [decMajor27, f7_5, f12_5, f17_5, f22_3, f25_3, f25_7, f28_4, g0, fw_ofCode, Option.map]

theorem RoundTrip.vstf (w : FW) (d : Nat) (a : Nat) (rm : Nat) (srcf : Nat) : RoundTrip.Statement (.vstf w d a rm srcf) := by
  intro _ u h he
  obtain ⟨h0, h1, h2, h3, -⟩ := of_decide_eq_true h
  have hw := fw_code_lt w
  have e : pack [(1, 1), (6, 39), (5, d), (5, a), (3, rm), (2, srcf), (3, w.code), (3, 3), (4, 0)] = u := by
    have : 0x600004F + d * 128 + a * 4096 + rm * 131072 + srcf * 1048576 + w.code * 4194304 = u := (Prod.mk.inj (Option.some.inj he)).2
    rw [← this]; simp only [pack]; ring
  have l : Fits [(1, 1), (6, 39), (5, d), (5, a), (3, rm), (2, srcf), (3, w.code), (3, 3), (4, 0)] := ⟨by decide, by decide, h0, h1, h2, h3, hw, by decide, by decide, trivial⟩
  have f1_6 : fld u 1 6 = 39 := (fld_pack l e 1 1).trans rfl
  have f7_5 : fld u 7 5 = d := (fld_pack l e 2 1).trans rfl
  have f12_5 : fld u 12 5 = a := (fld_pack l e 3 1).trans rfl
  have f17_3 : fld u 17 3 = rm := (fld_pack l e 4 1).trans rfl
  have f20_2 : fld u 20 2 = srcf := (fld_pack l e 5 1).trans rfl
  have f22_3 : fld u 22 3 = w.code := (fld_pack l e 6 1).trans rfl
  have f25_3 : fld u 25 3 = 3 := (fld_pack l e 7 1).trans rfl
  have f25_7 : fld u 25 7 = 3 := (fld_pack l e 7 2).trans (by simp [pack]; try omega)
  refine decodeWord_of_major ((fld_pack l e 0 1).trans rfl) ((decode32_Major27 f1_6).trans ?_) h
  simp [decMajor27, f7_5, f12_5, f17_3, f20_2, f22_3, f25_3, f25_7, fw_ofCode, Option.map]

theorem RoundTrip.vgat (d : Nat) (a : Nat) (b : Nat) (la : Nat) : RoundTrip.Statement (.vgat d a b la) := by
  intro _ u h he
  obtain ⟨h0, h1, h2, h3⟩ := of_decide_eq_true h
  have e : pack [(1, 1), (6, 40), (5, d), (5, a), (5, b), (6, 0), (4, la)] = u := by
    have : 0x51 + d * 128 + a * 4096 + b * 131072 + la * 268435456 = u := (Prod.mk.inj (Option.some.inj he)).2
    rw [← this]; simp only [pack]; ring
  have l : Fits [(1, 1), (6, 40), (5, d), (5, a), (5, b), (6, 0), (4, la)] := ⟨by decide, by decide, h0, h1, h2, by decide, h3, trivial⟩
  have f1_6 : fld u 1 6 = 40 := (fld_pack l e 1 1).trans rfl
  have f7_5 : fld u 7 5 = d := (fld_pack l e 2 1).trans rfl
  have f12_5 : fld u 12 5 = a := (fld_pack l e 3 1).trans rfl
  have f17_5 : fld u 17 5 = b := (fld_pack l e 4 1).trans rfl
  have f22_6 : fld u 22 6 = 0 := (fld_pack l e 5 1).trans rfl
  have f28_4 : fld u 28 4 = la := (fld_pack l e 6 1).trans rfl
  refine decodeWord_of_major ((fld_pack l e 0 1).trans rfl) ((decode32_Major28 f1_6).trans ?_) h
  simp [decMajor28, f7_5, f12_5, f17_5, f22_6, f28_4]

theorem RoundTrip.vsca (d : Nat) (a : Nat) (b : Nat) : RoundTrip.Statement (.vsca d a b) := by
  intro _ u h he
  obtain ⟨h0, h1, h2⟩ := of_decide_eq_true h
  have e : pack [(1, 1), (6, 40), (5, d), (5, a), (5, b), (6, 8), (4, 0)] = u := by
    have : 0x2000051 + d * 128 + a * 4096 + b * 131072 = u := (Prod.mk.inj (Option.some.inj he)).2
    rw [← this]; simp only [pack]; ring
  have l : Fits [(1, 1), (6, 40), (5, d), (5, a), (5, b), (6, 8), (4, 0)] := ⟨by decide, by decide, h0, h1, h2, by decide, by decide, trivial⟩
  have f1_6 : fld u 1 6 = 40 := (fld_pack l e 1 1).trans rfl
  have f7_5 : fld u 7 5 = d := (fld_pack l e 2 1).trans rfl
  have f12_5 : fld u 12 5 = a := (fld_pack l e 3 1).trans rfl
  have f17_5 : fld u 17 5 = b := (fld_pack l e 4 1).trans rfl
  have f22_6 : fld u 22 6 = 8 := (fld_pack l e 5 1).trans rfl
  have f22_10 : fld u 22 10 = 8 := (fld_pack l e 5 2).trans (by simp [pack]; try omega)
  refine decodeWord_of_major ((fld_pack l e 0 1).trans rfl) ((decode32_Major28 f1_6).trans ?_) h
  simp [decMajor28, f7_5, f12_5, f17_5, f22_6, f22_10]

theorem RoundTrip.vldt (d : Nat) (a : Nat) (b : Nat) (la : Nat) : RoundTrip.Statement (.vldt d a b la) := by
  intro _ u h he
  obtain ⟨h0, h1, h2, h3⟩ := of_decide_eq_true h
  have e : pack [(1, 1), (6, 40), (5, d), (5, a), (5, b), (6, 16), (4, la)] = u := by
    have : 0x4000051 + d * 128 + a * 4096 + b * 131072 + la * 268435456 = u := (Prod.mk.inj (Option.some.inj he)).2
    rw [← this]; simp only [pack]; ring
  have l : Fits [(1, 1), (6, 40), (5, d), (5, a), (5, b), (6, 16), (4, la)] := ⟨by decide, by decide, h0, h1, h2, by decide, h3, trivial⟩
  have f1_6 : fld u 1 6 = 40 := (fld_pack l e 1 1).trans rfl
  have f7_5 : fld u 7 5 = d := (fld_pack l e 2 1).trans rfl
  have f12_5 : fld u 12 5 = a := (fld_pack l e 3 1).trans rfl
  have f17_5 : fld u 17 5 = b := (fld_pack l e 4 1).trans rfl
  have f22_6 : fld u 22 6 = 16 := (fld_pack l e 5 1).trans rfl
  have f22_10 : fld u 22 10 = 16 + la * 64 := (fld_pack l e 5 2).trans (by simp [pack]; try omega)
  have f28_4 : fld u 28 4 = la := (fld_pack l e 6 1).trans rfl
  have g0 : ¬ (16 + la * 64 = 8) := by omega
  refine decodeWord_of_major ((fld_pack l e 0 1).trans rfl) ((decode32_Major28 f1_6).trans ?_) h
  simp [decMajor28, f7_5, f12_5, f17_5, f22_6, f22_10, f28_4, g0]

theorem RoundTrip.vpoly (d : Nat) (a : Nat) (la : Nat) : RoundTrip.Statement (.vpoly d a la) := by
  intro _ u h he
  obtain ⟨h0, h1, h2⟩ := of_decide_eq_true h
  have e : pack [(1, 1), (6, 41), (5, d), (5, a), (11, 32), (4, la)] = u := by
    have : 0x400053 + d * 128 + a * 4096 + la * 268435456 = u := (Prod.mk.inj (Option.some.inj he)).2
    rw [← this]; simp only [pack]; ring
  have l : Fits [(1, 1), (6, 41), (5, d), (5, a), (11, 32), (4, la)] := ⟨by decide, by decide, h0, h1, by decide, h2, trivial⟩
  have f1_6 : fld u 1 6 = 41 := (fld_pack l e 1 1).trans rfl
  have f7_5 : fld u 7 5 = d := (fld_pack l e 2 1).trans rfl
  have f12_5 : fld u 12 5 = a := (fld_pack l e 3 1).trans rfl
  have f17_11 : fld u 17 11 = 32 := (fld_pack l e 4 1).trans rfl
  have f28_4 : fld u 28 4 = la := (fld_pack l e 5 1).trans rfl
  refine decodeWord_of_major ((fld_pack l e 0 1).trans rfl) ((decode32_Major29 f1_6).trans ?_) h
  simp [decMajor29, f7_5, f12_5, f17_11, f28_4]

theorem RoundTrip.ppload (a : Nat) : RoundTrip.Statement (.ppload a) := by
  intro _ u h he
  have h0 := of_decide_eq_true h
  have e : pack [(1, 1), (6, 41), (5, 0), (5, a), (11, 256), (4, 0)] = u := by
    have : 0x2000053 + a * 4096 = u := (Prod.mk.inj (Option.some.inj he)).2
    rw [← this]; simp only [pack]; ring
  have l : Fits [(1, 1), (6, 41), (5, 0), (5, a), (11, 256), (4, 0)] := ⟨by decide, by decide, by decide, h0, by decide, by decide, trivial⟩
  have f1_6 : fld u 1 6 = 41 := (fld_pack l e 1 1).trans rfl
  have f7_5 : fld u 7 5 = 0 := (fld_pack l e 2 1).trans rfl
  have f12_5 : fld u 12 5 = a := (fld_pack l e 3 1).trans rfl
  have f17_11 : fld u 17 11 = 256 := (fld_pack l e 4 1).trans rfl
  have f17_15 : fld u 17 15 = 256 := (fld_pack l e 4 2).trans (by simp [pack]; try omega)
  refine decodeWord_of_major ((fld_pack l e 0 1).trans rfl) ((decode32_Major29 f1_6).trans ?_) h
  simp [decMajor29, f7_5, f12_5, f17_11, f17_15]

theorem RoundTrip.gang (a : Nat) (b : Nat) : RoundTrip.Statement (.gang a b) := by
  intro _ u h he
  obtain ⟨h0, h1⟩ := of_decide_eq_true h
  have e : pack [(1, 1), (6, 12), (5, 0), (5, a), (5, b), (10, 0)] = u := by
    have : 0x19 + a * 4096 + b * 131072 = u := (Prod.mk.inj (Option.some.inj he)).2
    rw [← this]; simp only [pack]; ring
  have l : Fits [(1, 1), (6, 12), (5, 0), (5, a), (5, b), (10, 0)] := ⟨by decide, by decide, by decide, h0, h1, by decide, trivial⟩
  have f1_6 : fld u 1 6 = 12 := (fld_pack l e 1 1).trans rfl
  have f7_5 : fld u 7 5 = 0 := (fld_pack l e 2 1).trans rfl
  have f12_5 : fld u 12 5 = a := (fld_pack l e 3 1).trans rfl
  have f17_5 : fld u 17 5 = b := (fld_pack l e 4 1).trans rfl
  have f22_10 : fld u 22 10 = 0 := (fld_pack l e 5 1).trans rfl
  refine decodeWord_of_major ((fld_pack l e 0 1).trans rfl) ((decode32_Major0C f1_6).trans ?_) h
  simp [decMajor0C, f7_5, f12_5, f17_5, f22_10]

theorem RoundTrip.gmeet (a : Nat) : RoundTrip.Statement (.gmeet a) := by
  intro _ u h he
  have h0 := of_decide_eq_true h
  have e : pack [(1, 1), (6, 12), (5, 0), (5, a), (5, 0), (10, 8)] = u := by
    have : 0x2000019 + a * 4096 = u := (Prod.mk.inj (Option.some.inj he)).2
    rw [← this]; simp only [pack]; ring
  have l : Fits [(1, 1), (6, 12), (5, 0), (5, a), (5, 0), (10, 8)] := ⟨by decide, by decide, by decide, h0, by decide, by decide, trivial⟩
  have f1_6 : fld u 1 6 = 12 := (fld_pack l e 1 1).trans rfl
  have f7_5 : fld u 7 5 = 0 := (fld_pack l e 2 1).trans rfl
  have f12_5 : fld u 12 5 = a := (fld_pack l e 3 1).trans rfl
  have f17_15 : fld u 17 15 = 256 := (fld_pack l e 4 2).trans (by simp [pack]; try omega)
  have f22_10 : fld u 22 10 = 8 := (fld_pack l e 5 1).trans rfl
  refine decodeWord_of_major ((fld_pack l e 0 1).trans rfl) ((decode32_Major0C f1_6).trans ?_) h
  simp [decMajor0C, f7_5, f12_5, f17_15, f22_10]

theorem RoundTrip.gleave : RoundTrip.Statement (.gleave) := by
  intro _ u h he
  have e : pack [(1, 1), (6, 12), (5, 0), (5, 0), (5, 0), (10, 16)] = u := by
    have : 0x4000019 = u := (Prod.mk.inj (Option.some.inj he)).2
    rw [← this]; simp only [pack]; ring
  have l : Fits [(1, 1), (6, 12), (5, 0), (5, 0), (5, 0), (10, 16)] := ⟨by decide, by decide, by decide, by decide, by decide, by decide, trivial⟩
  have f1_6 : fld u 1 6 = 12 := (fld_pack l e 1 1).trans rfl
  have f7_5 : fld u 7 5 = 0 := (fld_pack l e 2 1).trans rfl
  have f7_25 : fld u 7 25 = 524288 := (fld_pack l e 2 4).trans (by simp [pack]; try omega)
  have f17_15 : fld u 17 15 = 512 := (fld_pack l e 4 2).trans (by simp [pack]; try omega)
  have f22_10 : fld u 22 10 = 16 := (fld_pack l e 5 1).trans rfl
  refine decodeWord_of_major ((fld_pack l e 0 1).trans rfl) ((decode32_Major0C f1_6).trans ?_) h
  simp [decMajor0C, f7_5, f7_25, f17_15, f22_10]

theorem RoundTrip.mloads (d : Nat) (a : Nat) (b : Nat) (la : Nat) : RoundTrip.Statement (.mloads d a b la) := by
  intro _ u h he
  obtain ⟨h0, h1, h2, h3⟩ := of_decide_eq_true h
  have e : pack [(1, 1), (6, 44), (5, d), (5, a), (5, b), (6, 0), (4, la)] = u := by
    have : 0x59 + d * 128 + a * 4096 + b * 131072 + la * 268435456 = u := (Prod.mk.inj (Option.some.inj he)).2
    rw [← this]; simp only [pack]; ring
  have l : Fits [(1, 1), (6, 44), (5, d), (5, a), (5, b), (6, 0), (4, la)] := ⟨by decide, by decide, h0, h1, h2, by decide, h3, trivial⟩
  have f1_6 : fld u 1 6 = 44 := (fld_pack l e 1 1).trans rfl
  have f7_5 : fld u 7 5 = d := (fld_pack l e 2 1).trans rfl
  have f12_5 : fld u 12 5 = a := (fld_pack l e 3 1).trans rfl
  have f17_5 : fld u 17 5 = b := (fld_pack l e 4 1).trans rfl
  have f22_6 : fld u 22 6 = 0 := (fld_pack l e 5 1).trans rfl
  have f28_4 : fld u 28 4 = la := (fld_pack l e 6 1).trans rfl
  refine decodeWord_of_major ((fld_pack l e 0 1).trans rfl) ((decode32_Major2C f1_6).trans ?_) h
  simp [decMajor2C, f7_5, f12_5, f17_5, f22_6, f28_4]

theorem RoundTrip.mswap (d : Nat) (la : Nat) : RoundTrip.Statement (.mswap d la) := by
  intro _ u h he
  obtain ⟨h0, h1⟩ := of_decide_eq_true h
  have e : pack [(1, 1), (6, 44), (5, d), (10, 0), (6, 1), (4, la)] = u := by
    have : 0x400059 + d * 128 + la * 268435456 = u := (Prod.mk.inj (Option.some.inj he)).2
    rw [← this]; simp only [pack]; ring
  have l : Fits [(1, 1), (6, 44), (5, d), (10, 0), (6, 1), (4, la)] := ⟨by decide, by decide, h0, by decide, by decide, h1, trivial⟩
  have f1_6 : fld u 1 6 = 44 := (fld_pack l e 1 1).trans rfl
  have f7_5 : fld u 7 5 = d := (fld_pack l e 2 1).trans rfl
  have f12_16 : fld u 12 16 = 1024 := (fld_pack l e 3 2).trans (by simp [pack]; try omega)
  have f22_6 : fld u 22 6 = 1 := (fld_pack l e 4 1).trans rfl
  have f28_4 : fld u 28 4 = la := (fld_pack l e 5 1).trans rfl
  refine decodeWord_of_major ((fld_pack l e 0 1).trans rfl) ((decode32_Major2C f1_6).trans ?_) h
  simp [decMajor2C, f7_5, f12_16, f22_6, f28_4]

theorem RoundTrip.mstream (d : Nat) (a : Nat) (b : Nat) (acc : Nat) (la : Nat) : RoundTrip.Statement (.mstream d a b acc la) := by
  intro _ u h he
  obtain ⟨h0, h1, h2, h3, h4⟩ := of_decide_eq_true h
  have e : pack [(1, 1), (6, 45), (5, d), (5, a), (5, b), (3, 0), (1, acc), (2, 0), (4, la)] = u := by
    have : 0x5B + d * 128 + a * 4096 + b * 131072 + acc * 33554432 + la * 268435456 = u := (Prod.mk.inj (Option.some.inj he)).2
    rw [← this]; simp only [pack]; ring
  have l : Fits [(1, 1), (6, 45), (5, d), (5, a), (5, b), (3, 0), (1, acc), (2, 0), (4, la)] := ⟨by decide, by decide, h0, h1, h2, by decide, h3, by decide, h4, trivial⟩
  have f1_6 : fld u 1 6 = 45 := (fld_pack l e 1 1).trans rfl
  have f7_5 : fld u 7 5 = d := (fld_pack l e 2 1).trans rfl
  have f12_5 : fld u 12 5 = a := (fld_pack l e 3 1).trans rfl
  have f17_5 : fld u 17 5 = b := (fld_pack l e 4 1).trans rfl
  have f22_3 : fld u 22 3 = 0 := (fld_pack l e 5 1).trans rfl
  have f25_1 : fld u 25 1 = acc := (fld_pack l e 6 1).trans rfl
  have f26_2 : fld u 26 2 = 0 := (fld_pack l e 7 1).trans rfl
  have f28_4 : fld u 28 4 = la := (fld_pack l e 8 1).trans rfl
  refine decodeWord_of_major ((fld_pack l e 0 1).trans rfl) ((decode32_Major2D f1_6).trans ?_) h
  simp [decMajor2D, f7_5, f12_5, f17_5, f22_3, f25_1, f26_2, f28_4]

theorem RoundTrip.mzero (d : Nat) (acc : Nat) (la : Nat) : RoundTrip.Statement (.mzero d acc la) := by
  intro _ u h he
  obtain ⟨h0, h1, h2⟩ := of_decide_eq_true h
  have e : pack [(1, 1), (6, 46), (5, d), (13, 0), (1, acc), (2, 0), (4, la)] = u := by
    have : 0x5D + d * 128 + acc * 33554432 + la * 268435456 = u := (Prod.mk.inj (Option.some.inj he)).2
    rw [← this]; simp only [pack]; ring
  have l : Fits [(1, 1), (6, 46), (5, d), (13, 0), (1, acc), (2, 0), (4, la)] := ⟨by decide, by decide, h0, by decide, h1, by decide, h2, trivial⟩
  have f1_6 : fld u 1 6 = 46 := (fld_pack l e 1 1).trans rfl
  have f7_5 : fld u 7 5 = d := (fld_pack l e 2 1).trans rfl
  have f12_13 : fld u 12 13 = 0 := (fld_pack l e 3 1).trans rfl
  have f25_1 : fld u 25 1 = acc := (fld_pack l e 4 1).trans rfl
  have f26_2 : fld u 26 2 = 0 := (fld_pack l e 5 1).trans rfl
  have f28_4 : fld u 28 4 = la := (fld_pack l e 6 1).trans rfl
  refine decodeWord_of_major ((fld_pack l e 0 1).trans rfl) ((decode32_Major2E f1_6).trans ?_) h
  simp [decMajor2E, f7_5, f12_13, f25_1, f26_2, f28_4]

theorem RoundTrip.mread (d : Nat) (a : Nat) (acc : Nat) (la : Nat) : RoundTrip.Statement (.mread d a acc la) := by
  intro _ u h he
  obtain ⟨h0, h1, h2, h3⟩ := of_decide_eq_true h
  have e : pack [(1, 1), (6, 46), (5, d), (5, a), (8, 32), (1, acc), (2, 0), (4, la)] = u := by
    have : 0x40005D + d * 128 + a * 4096 + acc * 33554432 + la * 268435456 = u := (Prod.mk.inj (Option.some.inj he)).2
    rw [← this]; simp only [pack]; ring
  have l : Fits [(1, 1), (6, 46), (5, d), (5, a), (8, 32), (1, acc), (2, 0), (4, la)] := ⟨by decide, by decide, h0, h1, by decide, h2, by decide, h3, trivial⟩
  have f1_6 : fld u 1 6 = 46 := (fld_pack l e 1 1).trans rfl
  have f7_5 : fld u 7 5 = d := (fld_pack l e 2 1).trans rfl
  have f12_5 : fld u 12 5 = a := (fld_pack l e 3 1).trans rfl
  have f12_13 : fld u 12 13 = 1024 + a := (fld_pack l e 3 2).trans (by simp [pack]; try omega)
  have f17_8 : fld u 17 8 = 32 := (fld_pack l e 4 1).trans rfl
  have f25_1 : fld u 25 1 = acc := (fld_pack l e 5 1).trans rfl
  have f26_2 : fld u 26 2 = 0 := (fld_pack l e 6 1).trans rfl
  have f28_4 : fld u 28 4 = la := (fld_pack l e 7 1).trans rfl
  have g0 : ¬ (1024 + a = 0) := by omega
  refine decodeWord_of_major ((fld_pack l e 0 1).trans rfl) ((decode32_Major2E f1_6).trans ?_) h
  simp [decMajor2E, f7_5, f12_5, f12_13, f17_8, f25_1, f26_2, f28_4, g0]

theorem RoundTrip.mstore (d : Nat) (a : Nat) (b : Nat) (acc : Nat) (la : Nat) : RoundTrip.Statement (.mstore d a b acc la) := by
  intro _ u h he
  obtain ⟨h0, h1, h2, h3, h4⟩ := of_decide_eq_true h
  have e : pack [(1, 1), (6, 46), (5, d), (5, a), (5, b), (3, 2), (1, acc), (2, 0), (4, la)] = u := by
    have : 0x80005D + d * 128 + a * 4096 + b * 131072 + acc * 33554432 + la * 268435456 = u := (Prod.mk.inj (Option.some.inj he)).2
    rw [← this]; simp only [pack]; ring
  have l : Fits [(1, 1), (6, 46), (5, d), (5, a), (5, b), (3, 2), (1, acc), (2, 0), (4, la)] := ⟨by decide, by decide, h0, h1, h2, by decide, h3, by decide, h4, trivial⟩
  have f1_6 : fld u 1 6 = 46 := (fld_pack l e 1 1).trans rfl
  have f7_5 : fld u 7 5 = d := (fld_pack l e 2 1).trans rfl
  have f12_5 : fld u 12 5 = a := (fld_pack l e 3 1).trans rfl
  have f12_13 : fld u 12 13 = 2048 + a + b * 32 := (fld_pack l e 3 3).trans (by simp [pack]; try omega)
  have f17_5 : fld u 17 5 = b := (fld_pack l e 4 1).trans rfl
  have f17_8 : fld u 17 8 = 64 + b := (fld_pack l e 4 2).trans (by simp [pack]; try omega)
  have f22_3 : fld u 22 3 = 2 := (fld_pack l e 5 1).trans rfl
  have f25_1 : fld u 25 1 = acc := (fld_pack l e 6 1).trans rfl
  have f26_2 : fld u 26 2 = 0 := (fld_pack l e 7 1).trans rfl
  have f28_4 : fld u 28 4 = la := (fld_pack l e 8 1).trans rfl
  have g0 : ¬ (2048 + a + b * 32 = 0) := by omega
  have g1 : ¬ (64 + b = 32) := by omega
  refine decodeWord_of_major ((fld_pack l e 0 1).trans rfl) ((decode32_Major2E f1_6).trans ?_) h
  simp [decMajor2E, f7_5, f12_5, f12_13, f17_5, f17_8, f22_3, f25_1, f26_2, f28_4, g0, g1]

theorem RoundTrip.mscale (d : Nat) (acc : Nat) (la : Nat) : RoundTrip.Statement (.mscale d acc la) := by
  intro _ u h he
  obtain ⟨h0, h1, h2⟩ := of_decide_eq_true h
  have e : pack [(1, 1), (6, 46), (5, d), (5, 0), (5, 0), (3, 3), (1, acc), (2, 0), (4, la)] = u := by
    have : 0xC0005D + d * 128 + acc * 33554432 + la * 268435456 = u := (Prod.mk.inj (Option.some.inj he)).2
    rw [← this]; simp only [pack]; ring
  have l : Fits [(1, 1), (6, 46), (5, d), (5, 0), (5, 0), (3, 3), (1, acc), (2, 0), (4, la)] := ⟨by decide, by decide, h0, by decide, by decide, by decide, h1, by decide, h2, trivial⟩
  have f1_6 : fld u 1 6 = 46 := (fld_pack l e 1 1).trans rfl
  have f7_5 : fld u 7 5 = d := (fld_pack l e 2 1).trans rfl
  have f12_13 : fld u 12 13 = 3072 := (fld_pack l e 3 3).trans (by simp [pack]; try omega)
  have f17_8 : fld u 17 8 = 96 := (fld_pack l e 4 2).trans (by simp [pack]; try omega)
  have f22_3 : fld u 22 3 = 3 := (fld_pack l e 5 1).trans rfl
  have f25_1 : fld u 25 1 = acc := (fld_pack l e 6 1).trans rfl
  have f26_2 : fld u 26 2 = 0 := (fld_pack l e 7 1).trans rfl
  have f28_4 : fld u 28 4 = la := (fld_pack l e 8 1).trans rfl
  refine decodeWord_of_major ((fld_pack l e 0 1).trans rfl) ((decode32_Major2E f1_6).trans ?_) h
  simp [decMajor2E, f7_5, f12_13, f17_8, f22_3, f25_1, f26_2, f28_4]

theorem RoundTrip.mweight (imm : Nat) : RoundTrip.Statement (.mweight imm) := by
  intro _ u h he
  obtain ⟨h0, -, h2⟩ := of_decide_eq_true h
  have e : pack [(1, 1), (6, 47), (13, 0), (12, imm)] = u := by
    have : 0x5F + imm * 1048576 = u := (Prod.mk.inj (Option.some.inj he)).2
    rw [← this]; simp only [pack]; ring
  have l : Fits [(1, 1), (6, 47), (13, 0), (12, imm)] := ⟨by decide, by decide, by decide, h0, trivial⟩
  have f1_6 : fld u 1 6 = 47 := (fld_pack l e 1 1).trans rfl
  have f7_13 : fld u 7 13 = 0 := (fld_pack l e 2 1).trans rfl
  have f20_12 : fld u 20 12 = imm := (fld_pack l e 3 1).trans rfl
  refine decodeWord_of_major ((fld_pack l e 0 1).trans rfl) ((decode32_Major2F f1_6).trans ?_) h
  simp [decMajor2F, f7_13, f20_12]

theorem RoundTrip.mstat (d : Nat) : RoundTrip.Statement (.mstat d) := by
  intro _ u h he
  have h0 := of_decide_eq_true h
  have e : pack [(1, 1), (6, 47), (5, d), (8, 32), (12, 0)] = u := by
    have : 0x2005F + d * 128 = u := (Prod.mk.inj (Option.some.inj he)).2
    rw [← this]; simp only [pack]; ring
  have l : Fits [(1, 1), (6, 47), (5, d), (8, 32), (12, 0)] := ⟨by decide, by decide, h0, by decide, by decide, trivial⟩
  have f1_6 : fld u 1 6 = 47 := (fld_pack l e 1 1).trans rfl
  have f7_5 : fld u 7 5 = d := (fld_pack l e 2 1).trans rfl
  have f7_13 : fld u 7 13 = 1024 + d := (fld_pack l e 2 2).trans (by simp [pack]; try omega)
  have f12_20 : fld u 12 20 = 32 := (fld_pack l e 3 2).trans (by simp [pack]; try omega)
  have g0 : ¬ (1024 + d = 0) := by omega
  refine decodeWord_of_major ((fld_pack l e 0 1).trans rfl) ((decode32_Major2F f1_6).trans ?_) h
  simp [decMajor2F, f7_5, f7_13, f12_20, g0]

theorem RoundTrip.send (w : Nat) (d : Nat) (a : Nat) (b : Nat) (la : Nat) : RoundTrip.Statement (.send w d a b la) := by
  intro _ u h he
  obtain ⟨h0, h1, h2, h3, h4, -, -⟩ := of_decide_eq_true h
  have e : pack [(1, 1), (6, 13), (5, d), (5, a), (5, b), (3, w), (3, 0), (4, la)] = u := by
    have : 0x1B + d * 128 + a * 4096 + b * 131072 + w * 4194304 + la * 268435456 = u := (Prod.mk.inj (Option.some.inj he)).2
    rw [← this]; simp only [pack]; ring
  have l : Fits [(1, 1), (6, 13), (5, d), (5, a), (5, b), (3, w), (3, 0), (4, la)] := ⟨by decide, by decide, h1, h2, h3, h0, by decide, h4, trivial⟩
  have f1_6 : fld u 1 6 = 13 := (fld_pack l e 1 1).trans rfl
  have f7_5 : fld u 7 5 = d := (fld_pack l e 2 1).trans rfl
  have f12_5 : fld u 12 5 = a := (fld_pack l e 3 1).trans rfl
  have f17_5 : fld u 17 5 = b := (fld_pack l e 4 1).trans rfl
  have f22_3 : fld u 22 3 = w := (fld_pack l e 5 1).trans rfl
  have f25_3 : fld u 25 3 = 0 := (fld_pack l e 6 1).trans rfl
  have f28_4 : fld u 28 4 = la := (fld_pack l e 7 1).trans rfl
  refine decodeWord_of_major ((fld_pack l e 0 1).trans rfl) ((decode32_Major0D f1_6).trans ?_) h
  simp [decMajor0D, f7_5, f12_5, f17_5, f22_3, f25_3, f28_4]

theorem RoundTrip.sendw (w : Nat) (d : Nat) (a : Nat) (b : Nat) (la : Nat) : RoundTrip.Statement (.sendw w d a b la) := by
  intro _ u h he
  obtain ⟨h0, h1, h2, h3, h4, -, -⟩ := of_decide_eq_true h
  have e : pack [(1, 1), (6, 13), (5, d), (5, a), (5, b), (3, w), (3, 1), (4, la)] = u := by
    have : 0x200001B + d * 128 + a * 4096 + b * 131072 + w * 4194304 + la * 268435456 = u := (Prod.mk.inj (Option.some.inj he)).2
    rw [← this]; simp only [pack]; ring
  have l : Fits [(1, 1), (6, 13), (5, d), (5, a), (5, b), (3, w), (3, 1), (4, la)] := ⟨by decide, by decide, h1, h2, h3, h0, by decide, h4, trivial⟩
  have f1_6 : fld u 1 6 = 13 := (fld_pack l e 1 1).trans rfl
  have f7_5 : fld u 7 5 = d := (fld_pack l e 2 1).trans rfl
  have f12_5 : fld u 12 5 = a := (fld_pack l e 3 1).trans rfl
  have f17_5 : fld u 17 5 = b := (fld_pack l e 4 1).trans rfl
  have f22_3 : fld u 22 3 = w := (fld_pack l e 5 1).trans rfl
  have f25_3 : fld u 25 3 = 1 := (fld_pack l e 6 1).trans rfl
  have f28_4 : fld u 28 4 = la := (fld_pack l e 7 1).trans rfl
  refine decodeWord_of_major ((fld_pack l e 0 1).trans rfl) ((decode32_Major0D f1_6).trans ?_) h
  simp [decMajor0D, f7_5, f12_5, f17_5, f22_3, f25_3, f28_4]

theorem RoundTrip.halt : RoundTrip.Statement (.halt) := by
  intro _ u h he
  have e : pack [(1, 1), (6, 13), (18, 0), (3, 2), (4, 0)] = u := by
    have : 0x400001B = u := (Prod.mk.inj (Option.some.inj he)).2
    rw [← this]; simp only [pack]; ring
  have l : Fits [(1, 1), (6, 13), (18, 0), (3, 2), (4, 0)] := ⟨by decide, by decide, by decide, by decide, by decide, trivial⟩
  have f1_6 : fld u 1 6 = 13 := (fld_pack l e 1 1).trans rfl
  have f7_25 : fld u 7 25 = 524288 := (fld_pack l e 2 3).trans (by simp [pack]; try omega)
  have f25_3 : fld u 25 3 = 2 := (fld_pack l e 3 1).trans rfl
  refine decodeWord_of_major ((fld_pack l e 0 1).trans rfl) ((decode32_Major0D f1_6).trans ?_) h
  simp [decMajor0D, f7_25, f25_3]

theorem RoundTrip.nop : RoundTrip.Statement (.nop) := by
  intro _ u h he
  have e : pack [(1, 0), (4, 13), (11, 0)] = u := by
    have : 0x1A = u := (Prod.mk.inj (Option.some.inj he)).2
    rw [← this]; simp only [pack]; ring
  have l : Fits [(1, 0), (4, 13), (11, 0)] := ⟨by decide, by decide, by decide, trivial⟩
  have f1_4 : fld u 1 4 = 13 := (fld_pack l e 1 1).trans rfl
  have f5_11 : fld u 5 11 = 0 := (fld_pack l e 2 1).trans rfl
  refine decodeWord_of_short ((fld_pack l e 0 1).trans rfl) ((decode16_Short13 f1_4).trans ?_) h
  simp [decShort13, f5_11]

theorem RoundTrip.yield : RoundTrip.Statement (.yield) := by
  intro _ u h he
  have e : pack [(1, 0), (4, 13), (11, 256)] = u := by
    have : 0x201A = u := (Prod.mk.inj (Option.some.inj he)).2
    rw [← this]; simp only [pack]; ring
  have l : Fits [(1, 0), (4, 13), (11, 256)] := ⟨by decide, by decide, by decide, trivial⟩
  have f1_4 : fld u 1 4 = 13 := (fld_pack l e 1 1).trans rfl
  have f5_11 : fld u 5 11 = 256 := (fld_pack l e 2 1).trans rfl
  refine decodeWord_of_short ((fld_pack l e 0 1).trans rfl) ((decode16_Short13 f1_4).trans ?_) h
  simp [decShort13, f5_11]

theorem RoundTrip.brk : RoundTrip.Statement (.brk) := by
  intro _ u h he
  have e : pack [(1, 0), (4, 13), (11, 512)] = u := by
    have : 0x401A = u := (Prod.mk.inj (Option.some.inj he)).2
    rw [← this]; simp only [pack]; ring
  have l : Fits [(1, 0), (4, 13), (11, 512)] := ⟨by decide, by decide, by decide, trivial⟩
  have f1_4 : fld u 1 4 = 13 := (fld_pack l e 1 1).trans rfl
  have f5_11 : fld u 5 11 = 512 := (fld_pack l e 2 1).trans rfl
  refine decodeWord_of_short ((fld_pack l e 0 1).trans rfl) ((decode16_Short13 f1_4).trans ?_) h
  simp [decShort13, f5_11]

theorem RoundTrip.hret : RoundTrip.Statement (.hret) := by
  intro _ u h he
  have e : pack [(1, 0), (4, 13), (11, 768)] = u := by
    have : 0x601A = u := (Prod.mk.inj (Option.some.inj he)).2
    rw [← this]; simp only [pack]; ring
  have l : Fits [(1, 0), (4, 13), (11, 768)] := ⟨by decide, by decide, by decide, trivial⟩
  have f1_4 : fld u 1 4 = 13 := (fld_pack l e 1 1).trans rfl
  have f5_11 : fld u 5 11 = 768 := (fld_pack l e 2 1).trans rfl
  refine decodeWord_of_short ((fld_pack l e 0 1).trans rfl) ((decode16_Short13 f1_4).trans ?_) h
  simp [decShort13, f5_11]

theorem RoundTrip.cnew (d : Nat) (a : Nat) (b : Nat) (la : Nat) : RoundTrip.Statement (.cnew d a b la) := by
  intro _ u h he
  obtain ⟨h0, h1, h2, h3⟩ := of_decide_eq_true h
  have e : pack [(1, 1), (6, 14), (5, d), (5, a), (5, b), (6, 0), (4, la)] = u := by
    have : 0x1D + d * 128 + a * 4096 + b * 131072 + la * 268435456 = u := (Prod.mk.inj (Option.some.inj he)).2
    rw [← this]; simp only [pack]; ring
  have l : Fits [(1, 1), (6, 14), (5, d), (5, a), (5, b), (6, 0), (4, la)] := ⟨by decide, by decide, h0, h1, h2, by decide, h3, trivial⟩
  have f1_6 : fld u 1 6 = 14 := (fld_pack l e 1 1).trans rfl
  have f7_5 : fld u 7 5 = d := (fld_pack l e 2 1).trans rfl
  have f12_5 : fld u 12 5 = a := (fld_pack l e 3 1).trans rfl
  have f17_5 : fld u 17 5 = b := (fld_pack l e 4 1).trans rfl
  have f22_6 : fld u 22 6 = 0 := (fld_pack l e 5 1).trans rfl
  have f28_4 : fld u 28 4 = la := (fld_pack l e 6 1).trans rfl
  refine decodeWord_of_major ((fld_pack l e 0 1).trans rfl) ((decode32_Major0E f1_6).trans ?_) h
  simp [decMajor0E, f7_5, f12_5, f17_5, f22_6, f28_4]

theorem RoundTrip.cdec (a : Nat) : RoundTrip.Statement (.cdec a) := by
  intro _ u h he
  have h0 := of_decide_eq_true h
  have e : pack [(1, 1), (6, 14), (5, 0), (5, a), (5, 0), (6, 8), (4, 0)] = u := by
    have : 0x200001D + a * 4096 = u := (Prod.mk.inj (Option.some.inj he)).2
    rw [← this]; simp only [pack]; ring
  have l : Fits [(1, 1), (6, 14), (5, 0), (5, a), (5, 0), (6, 8), (4, 0)] := ⟨by decide, by decide, by decide, h0, by decide, by decide, by decide, trivial⟩
  have f1_6 : fld u 1 6 = 14 := (fld_pack l e 1 1).trans rfl
  have f7_5 : fld u 7 5 = 0 := (fld_pack l e 2 1).trans rfl
  have f12_5 : fld u 12 5 = a := (fld_pack l e 3 1).trans rfl
  have f17_15 : fld u 17 15 = 256 := (fld_pack l e 4 3).trans (by simp [pack]; try omega)
  have f22_6 : fld u 22 6 = 8 := (fld_pack l e 5 1).trans rfl
  refine decodeWord_of_major ((fld_pack l e 0 1).trans rfl) ((decode32_Major0E f1_6).trans ?_) h
  simp [decMajor0E, f7_5, f12_5, f17_15, f22_6]

theorem RoundTrip.cspawn (w : Nat) (d : Nat) (a : Nat) (b : Nat) (la : Nat) : RoundTrip.Statement (.cspawn w d a b la) := by
  intro _ u h he
  obtain ⟨h0, h1, h2, h3, h4, h5, -, -⟩ := of_decide_eq_true h
  have e : pack [(1, 1), (6, 14), (5, d), (5, a), (5, b), (3, w), (3, 2), (4, la)] = u := by
    have : 0x400001D + d * 128 + a * 4096 + b * 131072 + w * 4194304 + la * 268435456 = u := (Prod.mk.inj (Option.some.inj he)).2
    rw [← this]; simp only [pack]; ring
  have l : Fits [(1, 1), (6, 14), (5, d), (5, a), (5, b), (3, w), (3, 2), (4, la)] := ⟨by decide, by decide, h1, h2, h3, h0, by decide, h4, trivial⟩
  have f1_6 : fld u 1 6 = 14 := (fld_pack l e 1 1).trans rfl
  have f7_5 : fld u 7 5 = d := (fld_pack l e 2 1).trans rfl
  have f12_5 : fld u 12 5 = a := (fld_pack l e 3 1).trans rfl
  have f17_5 : fld u 17 5 = b := (fld_pack l e 4 1).trans rfl
  have f17_15 : fld u 17 15 = 512 + b + w * 32 + la * 2048 := (fld_pack l e 4 4).trans (by simp [pack]; try omega)
  have f22_3 : fld u 22 3 = w := (fld_pack l e 5 1).trans rfl
  have f22_6 : fld u 22 6 = 16 + w := (fld_pack l e 5 2).trans (by simp [pack]; try omega)
  have f25_3 : fld u 25 3 = 2 := (fld_pack l e 6 1).trans rfl
  have f28_4 : fld u 28 4 = la := (fld_pack l e 7 1).trans rfl
  have g0 : ¬ (16 + w = 0) := by omega
  have g1 : ¬ (512 + b + w * 32 + la * 2048 = 256) := by omega
  refine decodeWord_of_major ((fld_pack l e 0 1).trans rfl) ((decode32_Major0E f1_6).trans ?_) h
  simp [decMajor0E, f7_5, f12_5, f17_5, f17_15, f22_3, f22_6, f25_3, f28_4, g0, g1]

theorem RoundTrip.cjoin (d : Nat) (a : Nat) (b : Nat) (la : Nat) : RoundTrip.Statement (.cjoin d a b la) := by
  intro _ u h he
  obtain ⟨h0, h1, h2, h3⟩ := of_decide_eq_true h
  have e : pack [(1, 1), (6, 14), (5, d), (5, a), (5, b), (3, 0), (3, 3), (4, la)] = u := by
    have : 0x600001D + d * 128 + a * 4096 + b * 131072 + la * 268435456 = u := (Prod.mk.inj (Option.some.inj he)).2
    rw [← this]; simp only [pack]; ring
  have l : Fits [(1, 1), (6, 14), (5, d), (5, a), (5, b), (3, 0), (3, 3), (4, la)] := ⟨by decide, by decide, h0, h1, h2, by decide, by decide, h3, trivial⟩
  have f1_6 : fld u 1 6 = 14 := (fld_pack l e 1 1).trans rfl
  have f7_5 : fld u 7 5 = d := (fld_pack l e 2 1).trans rfl
  have f12_5 : fld u 12 5 = a := (fld_pack l e 3 1).trans rfl
  have f17_5 : fld u 17 5 = b := (fld_pack l e 4 1).trans rfl
  have f17_15 : fld u 17 15 = 768 + b + la * 2048 := (fld_pack l e 4 4).trans (by simp [pack]; try omega)
  have f22_6 : fld u 22 6 = 24 := (fld_pack l e 5 2).trans (by simp [pack]; try omega)
  have f25_3 : fld u 25 3 = 3 := (fld_pack l e 6 1).trans rfl
  have f28_4 : fld u 28 4 = la := (fld_pack l e 7 1).trans rfl
  have g0 : ¬ (768 + b + la * 2048 = 256) := by omega
  refine decodeWord_of_major ((fld_pack l e 0 1).trans rfl) ((decode32_Major0E f1_6).trans ?_) h
  simp [decMajor0E, f7_5, f12_5, f17_5, f17_15, f22_6, f25_3, f28_4, g0]

theorem RoundTrip.cdone (a : Nat) : RoundTrip.Statement (.cdone a) := by
  intro _ u h he
  have h0 := of_decide_eq_true h
  have e : pack [(1, 1), (6, 14), (5, 0), (5, a), (5, 0), (3, 0), (3, 4), (4, 0)] = u := by
    have : 0x800001D + a * 4096 = u := (Prod.mk.inj (Option.some.inj he)).2
    rw [← this]; simp only [pack]; ring
  have l : Fits [(1, 1), (6, 14), (5, 0), (5, a), (5, 0), (3, 0), (3, 4), (4, 0)] := ⟨by decide, by decide, by decide, h0, by decide, by decide, by decide, by decide, trivial⟩
  have f1_6 : fld u 1 6 = 14 := (fld_pack l e 1 1).trans rfl
  have f7_5 : fld u 7 5 = 0 := (fld_pack l e 2 1).trans rfl
  have f12_5 : fld u 12 5 = a := (fld_pack l e 3 1).trans rfl
  have f17_15 : fld u 17 15 = 1024 := (fld_pack l e 4 4).trans (by simp [pack]; try omega)
  have f22_6 : fld u 22 6 = 32 := (fld_pack l e 5 2).trans (by simp [pack]; try omega)
  have f25_3 : fld u 25 3 = 4 := (fld_pack l e 6 1).trans rfl
  refine decodeWord_of_major ((fld_pack l e 0 1).trans rfl) ((decode32_Major0E f1_6).trans ?_) h
  simp [decMajor0E, f7_5, f12_5, f17_15, f22_6, f25_3]

theorem RoundTrip.binit (a : Nat) (b : Nat) : RoundTrip.Statement (.binit a b) := by
  intro _ u h he
  obtain ⟨h0, h1⟩ := of_decide_eq_true h
  have e : pack [(1, 1), (6, 56), (5, 0), (5, a), (5, b), (10, 0)] = u := by
    have : 0x71 + a * 4096 + b * 131072 = u := (Prod.mk.inj (Option.some.inj he)).2
    rw [← this]; simp only [pack]; ring
  have l : Fits [(1, 1), (6, 56), (5, 0), (5, a), (5, b), (10, 0)] := ⟨by decide, by decide, by decide, h0, h1, by decide, trivial⟩
  have f1_6 : fld u 1 6 = 56 := (fld_pack l e 1 1).trans rfl
  have f7_5 : fld u 7 5 = 0 := (fld_pack l e 2 1).trans rfl
  have f12_5 : fld u 12 5 = a := (fld_pack l e 3 1).trans rfl
  have f17_5 : fld u 17 5 = b := (fld_pack l e 4 1).trans rfl
  have f22_10 : fld u 22 10 = 0 := (fld_pack l e 5 1).trans rfl
  refine decodeWord_of_major ((fld_pack l e 0 1).trans rfl) ((decode32_Major38 f1_6).trans ?_) h
  simp [decMajor38, f7_5, f12_5, f17_5, f22_10]

theorem RoundTrip.barr (d : Nat) (a : Nat) (na : Nat) : RoundTrip.Statement (.barr d a na) := by
  intro _ u h he
  obtain ⟨h0, h1, h2⟩ := of_decide_eq_true h
  have e : pack [(1, 1), (6, 56), (5, d), (5, a), (5, 0), (7, 8), (1, na), (2, 0)] = u := by
    have : 0x2000071 + d * 128 + a * 4096 + na * 536870912 = u := (Prod.mk.inj (Option.some.inj he)).2
    rw [← this]; simp only [pack]; ring
  have l : Fits [(1, 1), (6, 56), (5, d), (5, a), (5, 0), (7, 8), (1, na), (2, 0)] := ⟨by decide, by decide, h0, h1, by decide, by decide, h2, by decide, trivial⟩
  have f1_6 : fld u 1 6 = 56 := (fld_pack l e 1 1).trans rfl
  have f7_5 : fld u 7 5 = d := (fld_pack l e 2 1).trans rfl
  have f12_5 : fld u 12 5 = a := (fld_pack l e 3 1).trans rfl
  have f17_12 : fld u 17 12 = 256 := (fld_pack l e 4 2).trans (by simp [pack]; try omega)
  have f22_10 : fld u 22 10 = 8 + na * 128 := (fld_pack l e 5 3).trans (by simp [pack]; try omega)
  have f29_1 : fld u 29 1 = na := (fld_pack l e 6 1).trans rfl
  have f30_2 : fld u 30 2 = 0 := (fld_pack l e 7 1).trans rfl
  have g0 : ¬ (8 + na * 128 = 0) := by omega
  refine decodeWord_of_major ((fld_pack l e 0 1).trans rfl) ((decode32_Major38 f1_6).trans ?_) h
  simp [decMajor38, f7_5, f12_5, f17_12, f22_10, f29_1, f30_2, g0]

theorem RoundTrip.bwait (a : Nat) (b : Nat) : RoundTrip.Statement (.bwait a b) := by
  intro _ u h he
  obtain ⟨h0, h1⟩ := of_decide_eq_true h
  have e : pack [(1, 1), (6, 56), (5, 0), (5, a), (5, b), (7, 16), (1, 0), (2, 0)] = u := by
    have : 0x4000071 + a * 4096 + b * 131072 = u := (Prod.mk.inj (Option.some.inj he)).2
    rw [← this]; simp only [pack]; ring
  have l : Fits [(1, 1), (6, 56), (5, 0), (5, a), (5, b), (7, 16), (1, 0), (2, 0)] := ⟨by decide, by decide, by decide, h0, h1, by decide, by decide, by decide, trivial⟩
  have f1_6 : fld u 1 6 = 56 := (fld_pack l e 1 1).trans rfl
  have f7_5 : fld u 7 5 = 0 := (fld_pack l e 2 1).trans rfl
  have f12_5 : fld u 12 5 = a := (fld_pack l e 3 1).trans rfl
  have f17_5 : fld u 17 5 = b := (fld_pack l e 4 1).trans rfl
  have f17_12 : fld u 17 12 = 512 + b := (fld_pack l e 4 2).trans (by simp [pack]; try omega)
  have f22_10 : fld u 22 10 = 16 := (fld_pack l e 5 3).trans (by simp [pack]; try omega)
  have f30_2 : fld u 30 2 = 0 := (fld_pack l e 7 1).trans rfl
  have g0 : ¬ (512 + b = 256) := by omega
  refine decodeWord_of_major ((fld_pack l e 0 1).trans rfl) ((decode32_Major38 f1_6).trans ?_) h
  simp [decMajor38, f7_5, f12_5, f17_5, f17_12, f22_10, f30_2, g0]

theorem RoundTrip.btest (d : Nat) (a : Nat) (b : Nat) : RoundTrip.Statement (.btest d a b) := by
  intro _ u h he
  obtain ⟨h0, h1, h2⟩ := of_decide_eq_true h
  have e : pack [(1, 1), (6, 56), (5, d), (5, a), (5, b), (7, 24), (1, 0), (2, 0)] = u := by
    have : 0x6000071 + d * 128 + a * 4096 + b * 131072 = u := (Prod.mk.inj (Option.some.inj he)).2
    rw [← this]; simp only [pack]; ring
  have l : Fits [(1, 1), (6, 56), (5, d), (5, a), (5, b), (7, 24), (1, 0), (2, 0)] := ⟨by decide, by decide, h0, h1, h2, by decide, by decide, by decide, trivial⟩
  have f1_6 : fld u 1 6 = 56 := (fld_pack l e 1 1).trans rfl
  have f7_5 : fld u 7 5 = d := (fld_pack l e 2 1).trans rfl
  have f12_5 : fld u 12 5 = a := (fld_pack l e 3 1).trans rfl
  have f17_5 : fld u 17 5 = b := (fld_pack l e 4 1).trans rfl
  have f17_12 : fld u 17 12 = 768 + b := (fld_pack l e 4 2).trans (by simp [pack]; try omega)
  have f22_10 : fld u 22 10 = 24 := (fld_pack l e 5 3).trans (by simp [pack]; try omega)
  have f30_2 : fld u 30 2 = 0 := (fld_pack l e 7 1).trans rfl
  have g0 : ¬ (768 + b = 256) := by omega
  refine decodeWord_of_major ((fld_pack l e 0 1).trans rfl) ((decode32_Major38 f1_6).trans ?_) h
  simp [decMajor38, f7_5, f12_5, f17_5, f17_12, f22_10, f30_2, g0]

theorem RoundTrip.pacq (d : Nat) (a : Nat) (nw : Nat) : RoundTrip.Statement (.pacq d a nw) := by
  intro _ u h he
  obtain ⟨h0, h1, h2⟩ := of_decide_eq_true h
  have e : pack [(1, 1), (6, 53), (5, d), (5, a), (8, 0), (1, nw), (6, 0)] = u := by
    have : 0x6B + d * 128 + a * 4096 + nw * 33554432 = u := (Prod.mk.inj (Option.some.inj he)).2
    rw [← this]; simp only [pack]; ring
  have l : Fits [(1, 1), (6, 53), (5, d), (5, a), (8, 0), (1, nw), (6, 0)] := ⟨by decide, by decide, h0, h1, by decide, h2, by decide, trivial⟩
  have f1_6 : fld u 1 6 = 53 := (fld_pack l e 1 1).trans rfl
  have f7_5 : fld u 7 5 = d := (fld_pack l e 2 1).trans rfl
  have f12_5 : fld u 12 5 = a := (fld_pack l e 3 1).trans rfl
  have f17_8 : fld u 17 8 = 0 := (fld_pack l e 4 1).trans rfl
  have f25_1 : fld u 25 1 = nw := (fld_pack l e 5 1).trans rfl
  have f26_6 : fld u 26 6 = 0 := (fld_pack l e 6 1).trans rfl
  refine decodeWord_of_major ((fld_pack l e 0 1).trans rfl) ((decode32_Major35 f1_6).trans ?_) h
  simp [decMajor35, f7_5, f12_5, f17_8, f25_1, f26_6]

theorem RoundTrip.prel (a : Nat) (b : Nat) : RoundTrip.Statement (.prel a b) := by
  intro _ u h he
  obtain ⟨h0, h1⟩ := of_decide_eq_true h
  have e : pack [(1, 1), (6, 53), (5, 0), (5, a), (5, b), (3, 1), (1, 0), (6, 0)] = u := by
    have : 0x40006B + a * 4096 + b * 131072 = u := (Prod.mk.inj (Option.some.inj he)).2
    rw [← this]; simp only [pack]; ring
  have l : Fits [(1, 1), (6, 53), (5, 0), (5, a), (5, b), (3, 1), (1, 0), (6, 0)] := ⟨by decide, by decide, by decide, h0, h1, by decide, by decide, by decide, trivial⟩
  have f1_6 : fld u 1 6 = 53 := (fld_pack l e 1 1).trans rfl
  have f7_5 : fld u 7 5 = 0 := (fld_pack l e 2 1).trans rfl
  have f12_5 : fld u 12 5 = a := (fld_pack l e 3 1).trans rfl
  have f17_5 : fld u 17 5 = b := (fld_pack l e 4 1).trans rfl
  have f17_8 : fld u 17 8 = 32 + b := (fld_pack l e 4 2).trans (by simp [pack]; try omega)
  have f22_10 : fld u 22 10 = 1 := (fld_pack l e 5 3).trans (by simp [pack]; try omega)
  have f26_6 : fld u 26 6 = 0 := (fld_pack l e 7 1).trans rfl
  have g0 : ¬ (32 + b = 0) := by omega
  refine decodeWord_of_major ((fld_pack l e 0 1).trans rfl) ((decode32_Major35 f1_6).trans ?_) h
  simp [decMajor35, f7_5, f12_5, f17_5, f17_8, f22_10, f26_6, g0]

theorem RoundTrip.pfill (d : Nat) (a : Nat) (b : Nat) (q : Nat) : RoundTrip.Statement (.pfill d a b q) := by
  intro _ u h he
  obtain ⟨h0, h1, h2, h3⟩ := of_decide_eq_true h
  have e : pack [(1, 1), (6, 53), (5, d), (5, a), (5, b), (3, 2), (3, q), (4, 0)] = u := by
    have : 0x80006B + d * 128 + a * 4096 + b * 131072 + q * 33554432 = u := (Prod.mk.inj (Option.some.inj he)).2
    rw [← this]; simp only [pack]; ring
  have l : Fits [(1, 1), (6, 53), (5, d), (5, a), (5, b), (3, 2), (3, q), (4, 0)] := ⟨by decide, by decide, h0, h1, h2, by decide, h3, by decide, trivial⟩
  have f1_6 : fld u 1 6 = 53 := (fld_pack l e 1 1).trans rfl
  have f7_5 : fld u 7 5 = d := (fld_pack l e 2 1).trans rfl
  have f12_5 : fld u 12 5 = a := (fld_pack l e 3 1).trans rfl
  have f17_5 : fld u 17 5 = b := (fld_pack l e 4 1).trans rfl
  have f17_8 : fld u 17 8 = 64 + b := (fld_pack l e 4 2).trans (by simp [pack]; try omega)
  have f22_3 : fld u 22 3 = 2 := (fld_pack l e 5 1).trans rfl
  have f22_10 : fld u 22 10 = 2 + q * 8 := (fld_pack l e 5 3).trans (by simp [pack]; try omega)
  have f25_3 : fld u 25 3 = q := (fld_pack l e 6 1).trans rfl
  have f28_4 : fld u 28 4 = 0 := (fld_pack l e 7 1).trans rfl
  have g0 : ¬ (64 + b = 0) := by omega
  have g1 : ¬ (2 + q * 8 = 1) := by omega
  refine decodeWord_of_major ((fld_pack l e 0 1).trans rfl) ((decode32_Major35 f1_6).trans ?_) h
  simp [decMajor35, f7_5, f12_5, f17_5, f17_8, f22_3, f22_10, f25_3, f28_4, g0, g1]

theorem RoundTrip.qlaunch (d : Nat) (a : Nat) (b : Nat) (la : Nat) : RoundTrip.Statement (.qlaunch d a b la) := by
  intro _ u h he
  obtain ⟨h0, h1, h2, h3⟩ := of_decide_eq_true h
  have e : pack [(1, 1), (6, 57), (5, d), (5, a), (5, b), (6, 0), (4, la)] = u := by
    have : 0x73 + d * 128 + a * 4096 + b * 131072 + la * 268435456 = u := (Prod.mk.inj (Option.some.inj he)).2
    rw [← this]; simp only [pack]; ring
  have l : Fits [(1, 1), (6, 57), (5, d), (5, a), (5, b), (6, 0), (4, la)] := ⟨by decide, by decide, h0, h1, h2, by decide, h3, trivial⟩
  have f1_6 : fld u 1 6 = 57 := (fld_pack l e 1 1).trans rfl
  have f7_5 : fld u 7 5 = d := (fld_pack l e 2 1).trans rfl
  have f12_5 : fld u 12 5 = a := (fld_pack l e 3 1).trans rfl
  have f17_5 : fld u 17 5 = b := (fld_pack l e 4 1).trans rfl
  have f22_6 : fld u 22 6 = 0 := (fld_pack l e 5 1).trans rfl
  have f28_4 : fld u 28 4 = la := (fld_pack l e 6 1).trans rfl
  refine decodeWord_of_major ((fld_pack l e 0 1).trans rfl) ((decode32_Major39 f1_6).trans ?_) h
  simp [decMajor39, f7_5, f12_5, f17_5, f22_6, f28_4]

theorem RoundTrip.qstat (d : Nat) (a : Nat) (q : Nat) (la : Nat) : RoundTrip.Statement (.qstat d a q la) := by
  intro _ u h he
  obtain ⟨h0, h1, h2, h3, h4⟩ := of_decide_eq_true h
  have e : pack [(1, 1), (6, 57), (5, d), (5, a), (5, 0), (3, 1), (3, q), (4, la)] = u := by
    have : 0x400073 + d * 128 + a * 4096 + q * 33554432 + la * 268435456 = u := (Prod.mk.inj (Option.some.inj he)).2
    rw [← this]; simp only [pack]; ring
  have l : Fits [(1, 1), (6, 57), (5, d), (5, a), (5, 0), (3, 1), (3, q), (4, la)] := ⟨by decide, by decide, h0, h1, by decide, by decide, h2, h3, trivial⟩
  have f1_6 : fld u 1 6 = 57 := (fld_pack l e 1 1).trans rfl
  have f7_5 : fld u 7 5 = d := (fld_pack l e 2 1).trans rfl
  have f12_5 : fld u 12 5 = a := (fld_pack l e 3 1).trans rfl
  have f17_8 : fld u 17 8 = 32 := (fld_pack l e 4 2).trans (by simp [pack]; try omega)
  have f22_6 : fld u 22 6 = 1 + q * 8 := (fld_pack l e 5 2).trans (by simp [pack]; try omega)
  have f25_3 : fld u 25 3 = q := (fld_pack l e 6 1).trans rfl
  have f28_4 : fld u 28 4 = la := (fld_pack l e 7 1).trans rfl
  have g0 : ¬ (1 + q * 8 = 0) := by omega
  refine decodeWord_of_major ((fld_pack l e 0 1).trans rfl) ((decode32_Major39 f1_6).trans ?_) h
  simp [decMajor39, f7_5, f12_5, f17_8, f22_6, f25_3, f28_4, g0]

theorem RoundTrip.spstat (d : Nat) (a : Nat) (b : Nat) (la : Nat) : RoundTrip.Statement (.spstat d a b la) := by
  intro _ u h he
  obtain ⟨h0, h1, h2, h3⟩ := of_decide_eq_true h
  have e : pack [(1, 1), (6, 57), (5, d), (5, a), (5, b), (3, 7), (3, 0), (4, la)] = u := by
    have : 0x1C00073 + d * 128 + a * 4096 + b * 131072 + la * 268435456 = u := (Prod.mk.inj (Option.some.inj he)).2
    rw [← this]; simp only [pack]; ring
  have l : Fits [(1, 1), (6, 57), (5, d), (5, a), (5, b), (3, 7), (3, 0), (4, la)] := ⟨by decide, by decide, h0, h1, h2, by decide, by decide, h3, trivial⟩
  have f1_6 : fld u 1 6 = 57 := (fld_pack l e 1 1).trans rfl
  have f7_5 : fld u 7 5 = d := (fld_pack l e 2 1).trans rfl
  have f12_5 : fld u 12 5 = a := (fld_pack l e 3 1).trans rfl
  have f17_5 : fld u 17 5 = b := (fld_pack l e 4 1).trans rfl
  have f17_8 : fld u 17 8 = 224 + b := (fld_pack l e 4 2).trans (by simp [pack]; try omega)
  have f22_6 : fld u 22 6 = 7 := (fld_pack l e 5 2).trans (by simp [pack]; try omega)
  have f28_4 : fld u 28 4 = la := (fld_pack l e 7 1).trans rfl
  have g0 : ¬ (224 + b = 32) := by omega
  refine decodeWord_of_major ((fld_pack l e 0 1).trans rfl) ((decode32_Major39 f1_6).trans ?_) h
  simp [decMajor39, f7_5, f12_5, f17_5, f17_8, f22_6, f28_4, g0]

theorem RoundTrip.spstatClr (d : Nat) (a : Nat) (b : Nat) (la : Nat) : RoundTrip.Statement (.spstatClr d a b la) := by
  intro _ u h he
  obtain ⟨h0, h1, h2, h3⟩ := of_decide_eq_true h
  have e : pack [(1, 1), (6, 57), (5, d), (5, a), (5, b), (3, 7), (3, 1), (4, la)] = u := by
    have : 0x3C00073 + d * 128 + a * 4096 + b * 131072 + la * 268435456 = u := (Prod.mk.inj (Option.some.inj he)).2
    rw [← this]; simp only [pack]; ring
  have l : Fits [(1, 1), (6, 57), (5, d), (5, a), (5, b), (3, 7), (3, 1), (4, la)] := ⟨by decide, by decide, h0, h1, h2, by decide, by decide, h3, trivial⟩
  have f1_6 : fld u 1 6 = 57 := (fld_pack l e 1 1).trans rfl
  have f7_5 : fld u 7 5 = d := (fld_pack l e 2 1).trans rfl
  have f12_5 : fld u 12 5 = a := (fld_pack l e 3 1).trans rfl
  have f17_5 : fld u 17 5 = b := (fld_pack l e 4 1).trans rfl
  have f17_8 : fld u 17 8 = 224 + b := (fld_pack l e 4 2).trans (by simp [pack]; try omega)
  have f22_6 : fld u 22 6 = 15 := (fld_pack l e 5 2).trans (by simp [pack]; try omega)
  have f28_4 : fld u 28 4 = la := (fld_pack l e 7 1).trans rfl
  have g0 : ¬ (224 + b = 32) := by omega
  refine decodeWord_of_major ((fld_pack l e 0 1).trans rfl) ((decode32_Major39 f1_6).trans ?_) h
  simp [decMajor39, f7_5, f12_5, f17_5, f17_8, f22_6, f28_4, g0]

theorem RoundTrip.spstatSt (d : Nat) (a : Nat) (la : Nat) : RoundTrip.Statement (.spstatSt d a la) := by
  intro _ u h he
  obtain ⟨h0, h1, h2⟩ := of_decide_eq_true h
  have e : pack [(1, 1), (6, 57), (5, d), (5, a), (5, 0), (3, 7), (3, 2), (4, la)] = u := by
    have : 0x5C00073 + d * 128 + a * 4096 + la * 268435456 = u := (Prod.mk.inj (Option.some.inj he)).2
    rw [← this]; simp only [pack]; ring
  have l : Fits [(1, 1), (6, 57), (5, d), (5, a), (5, 0), (3, 7), (3, 2), (4, la)] := ⟨by decide, by decide, h0, h1, by decide, by decide, by decide, h2, trivial⟩
  have f1_6 : fld u 1 6 = 57 := (fld_pack l e 1 1).trans rfl
  have f7_5 : fld u 7 5 = d := (fld_pack l e 2 1).trans rfl
  have f12_5 : fld u 12 5 = a := (fld_pack l e 3 1).trans rfl
  have f17_8 : fld u 17 8 = 224 := (fld_pack l e 4 2).trans (by simp [pack]; try omega)
  have f17_11 : fld u 17 11 = 736 := (fld_pack l e 4 3).trans (by simp [pack]; try omega)
  have f22_6 : fld u 22 6 = 23 := (fld_pack l e 5 2).trans (by simp [pack]; try omega)
  have f28_4 : fld u 28 4 = la := (fld_pack l e 7 1).trans rfl
  refine decodeWord_of_major ((fld_pack l e 0 1).trans rfl) ((decode32_Major39 f1_6).trans ?_) h
  simp [decMajor39, f7_5, f12_5, f17_8, f17_11, f22_6, f28_4]

theorem RoundTrip.nload (d : Nat) (a : Nat) (b : Nat) (q : Nat) (la : Nat) : RoundTrip.Statement (.nload d a b q la) := by
  intro _ u h he
  obtain ⟨h0, h1, h2, h3, h4⟩ := of_decide_eq_true h
  have e : pack [(1, 1), (6, 54), (5, d), (5, a), (5, b), (3, 0), (3, q), (4, la)] = u := by
    have : 0x6D + d * 128 + a * 4096 + b * 131072 + q * 33554432 + la * 268435456 = u := (Prod.mk.inj (Option.some.inj he)).2
    rw [← this]; simp only [pack]; ring
  have l : Fits [(1, 1), (6, 54), (5, d), (5, a), (5, b), (3, 0), (3, q), (4, la)] := ⟨by decide, by decide, h0, h1, h2, by decide, h3, h4, trivial⟩
  have f1_6 : fld u 1 6 = 54 := (fld_pack l e 1 1).trans rfl
  have f7_5 : fld u 7 5 = d := (fld_pack l e 2 1).trans rfl
  have f12_5 : fld u 12 5 = a := (fld_pack l e 3 1).trans rfl
  have f17_5 : fld u 17 5 = b := (fld_pack l e 4 1).trans rfl
  have f22_3 : fld u 22 3 = 0 := (fld_pack l e 5 1).trans rfl
  have f25_3 : fld u 25 3 = q := (fld_pack l e 6 1).trans rfl
  have f28_4 : fld u 28 4 = la := (fld_pack l e 7 1).trans rfl
  refine decodeWord_of_major ((fld_pack l e 0 1).trans rfl) ((decode32_Major36 f1_6).trans ?_) h
  simp [decMajor36, f7_5, f12_5, f17_5, f22_3, f25_3, f28_4]

theorem RoundTrip.nstore (d : Nat) (a : Nat) (b : Nat) (q : Nat) (la : Nat) : RoundTrip.Statement (.nstore d a b q la) := by
  intro _ u h he
  obtain ⟨h0, h1, h2, h3, h4⟩ := of_decide_eq_true h
  have e : pack [(1, 1), (6, 54), (5, d), (5, a), (5, b), (3, 1), (3, q), (4, la)] = u := by
    have : 0x40006D + d * 128 + a * 4096 + b * 131072 + q * 33554432 + la * 268435456 = u := (Prod.mk.inj (Option.some.inj he)).2
    rw [← this]; simp only [pack]; ring
  have l : Fits [(1, 1), (6, 54), (5, d), (5, a), (5, b), (3, 1), (3, q), (4, la)] := ⟨by decide, by decide, h0, h1, h2, by decide, h3, h4, trivial⟩
  have f1_6 : fld u 1 6 = 54 := (fld_pack l e 1 1).trans rfl
  have f7_5 : fld u 7 5 = d := (fld_pack l e 2 1).trans rfl
  have f12_5 : fld u 12 5 = a := (fld_pack l e 3 1).trans rfl
  have f17_5 : fld u 17 5 = b := (fld_pack l e 4 1).trans rfl
  have f22_3 : fld u 22 3 = 1 := (fld_pack l e 5 1).trans rfl
  have f25_3 : fld u 25 3 = q := (fld_pack l e 6 1).trans rfl
  have f28_4 : fld u 28 4 = la := (fld_pack l e 7 1).trans rfl
  refine decodeWord_of_major ((fld_pack l e 0 1).trans rfl) ((decode32_Major36 f1_6).trans ?_) h
  simp [decMajor36, f7_5, f12_5, f17_5, f22_3, f25_3, f28_4]

theorem RoundTrip.ndel (d : Nat) (a : Nat) (b : Nat) (q : Nat) (la : Nat) : RoundTrip.Statement (.ndel d a b q la) := by
  intro _ u h he
  obtain ⟨h0, h1, h2, h3, h4⟩ := of_decide_eq_true h
  have e : pack [(1, 1), (6, 54), (5, d), (5, a), (5, b), (3, 2), (3, q), (4, la)] = u := by
    have : 0x80006D + d * 128 + a * 4096 + b * 131072 + q * 33554432 + la * 268435456 = u := (Prod.mk.inj (Option.some.inj he)).2
    rw [← this]; simp only [pack]; ring
  have l : Fits [(1, 1), (6, 54), (5, d), (5, a), (5, b), (3, 2), (3, q), (4, la)] := ⟨by decide, by decide, h0, h1, h2, by decide, h3, h4, trivial⟩
  have f1_6 : fld u 1 6 = 54 := (fld_pack l e 1 1).trans rfl
  have f7_5 : fld u 7 5 = d := (fld_pack l e 2 1).trans rfl
  have f12_5 : fld u 12 5 = a := (fld_pack l e 3 1).trans rfl
  have f17_5 : fld u 17 5 = b := (fld_pack l e 4 1).trans rfl
  have f22_3 : fld u 22 3 = 2 := (fld_pack l e 5 1).trans rfl
  have f25_3 : fld u 25 3 = q := (fld_pack l e 6 1).trans rfl
  have f28_4 : fld u 28 4 = la := (fld_pack l e 7 1).trans rfl
  refine decodeWord_of_major ((fld_pack l e 0 1).trans rfl) ((decode32_Major36 f1_6).trans ?_) h
  simp [decMajor36, f7_5, f12_5, f17_5, f22_3, f25_3, f28_4]

theorem RoundTrip.ninit (d : Nat) (a : Nat) (b : Nat) (la : Nat) : RoundTrip.Statement (.ninit d a b la) := by
  intro _ u h he
  obtain ⟨h0, h1, h2, h3⟩ := of_decide_eq_true h
  have e : pack [(1, 1), (6, 55), (5, d), (5, a), (5, b), (6, 0), (4, la)] = u := by
    have : 0x6F + d * 128 + a * 4096 + b * 131072 + la * 268435456 = u := (Prod.mk.inj (Option.some.inj he)).2
    rw [← this]; simp only [pack]; ring
  have l : Fits [(1, 1), (6, 55), (5, d), (5, a), (5, b), (6, 0), (4, la)] := ⟨by decide, by decide, h0, h1, h2, by decide, h3, trivial⟩
  have f1_6 : fld u 1 6 = 55 := (fld_pack l e 1 1).trans rfl
  have f7_5 : fld u 7 5 = d := (fld_pack l e 2 1).trans rfl
  have f12_5 : fld u 12 5 = a := (fld_pack l e 3 1).trans rfl
  have f17_5 : fld u 17 5 = b := (fld_pack l e 4 1).trans rfl
  have f22_6 : fld u 22 6 = 0 := (fld_pack l e 5 1).trans rfl
  have f28_4 : fld u 28 4 = la := (fld_pack l e 6 1).trans rfl
  refine decodeWord_of_major ((fld_pack l e 0 1).trans rfl) ((decode32_Major37 f1_6).trans ?_) h
  simp [decMajor37, f7_5, f12_5, f17_5, f22_6, f28_4]

theorem RoundTrip.nsnap (d : Nat) (a : Nat) (la : Nat) : RoundTrip.Statement (.nsnap d a la) := by
  intro _ u h he
  obtain ⟨h0, h1, h2⟩ := of_decide_eq_true h
  have e : pack [(1, 1), (6, 55), (5, d), (5, a), (5, 0), (6, 1), (4, la)] = u := by
    have : 0x40006F + d * 128 + a * 4096 + la * 268435456 = u := (Prod.mk.inj (Option.some.inj he)).2
    rw [← this]; simp only [pack]; ring
  have l : Fits [(1, 1), (6, 55), (5, d), (5, a), (5, 0), (6, 1), (4, la)] := ⟨by decide, by decide, h0, h1, by decide, by decide, h2, trivial⟩
  have f1_6 : fld u 1 6 = 55 := (fld_pack l e 1 1).trans rfl
  have f7_5 : fld u 7 5 = d := (fld_pack l e 2 1).trans rfl
  have f12_5 : fld u 12 5 = a := (fld_pack l e 3 1).trans rfl
  have f17_11 : fld u 17 11 = 32 := (fld_pack l e 4 2).trans (by simp [pack]; try omega)
  have f22_6 : fld u 22 6 = 1 := (fld_pack l e 5 1).trans rfl
  have f28_4 : fld u 28 4 = la := (fld_pack l e 6 1).trans rfl
  refine decodeWord_of_major ((fld_pack l e 0 1).trans rfl) ((decode32_Major37 f1_6).trans ?_) h
  simp [decMajor37, f7_5, f12_5, f17_11, f22_6, f28_4]

theorem RoundTrip.nsnapRel (d : Nat) (a : Nat) (b : Nat) (la : Nat) : RoundTrip.Statement (.nsnapRel d a b la) := by
  intro _ u h he
  obtain ⟨h0, h1, h2, h3⟩ := of_decide_eq_true h
  have e : pack [(1, 1), (6, 55), (5, d), (5, a), (5, b), (6, 9), (4, la)] = u := by
    have : 0x240006F + d * 128 + a * 4096 + b * 131072 + la * 268435456 = u := (Prod.mk.inj (Option.some.inj he)).2
    rw [← this]; simp only [pack]; ring
  have l : Fits [(1, 1), (6, 55), (5, d), (5, a), (5, b), (6, 9), (4, la)] := ⟨by decide, by decide, h0, h1, h2, by decide, h3, trivial⟩
  have f1_6 : fld u 1 6 = 55 := (fld_pack l e 1 1).trans rfl
  have f7_5 : fld u 7 5 = d := (fld_pack l e 2 1).trans rfl
  have f12_5 : fld u 12 5 = a := (fld_pack l e 3 1).trans rfl
  have f17_5 : fld u 17 5 = b := (fld_pack l e 4 1).trans rfl
  have f17_11 : fld u 17 11 = 288 + b := (fld_pack l e 4 2).trans (by simp [pack]; try omega)
  have f22_6 : fld u 22 6 = 9 := (fld_pack l e 5 1).trans rfl
  have f28_4 : fld u 28 4 = la := (fld_pack l e 6 1).trans rfl
  have g0 : ¬ (288 + b = 32) := by omega
  refine decodeWord_of_major ((fld_pack l e 0 1).trans rfl) ((decode32_Major37 f1_6).trans ?_) h
  simp [decMajor37, f7_5, f12_5, f17_5, f17_11, f22_6, f28_4, g0]

theorem RoundTrip.nfree (d : Nat) (a : Nat) (la : Nat) : RoundTrip.Statement (.nfree d a la) := by
  intro _ u h he
  obtain ⟨h0, h1, h2⟩ := of_decide_eq_true h
  have e : pack [(1, 1), (6, 55), (5, d), (5, a), (5, 0), (6, 2), (4, la)] = u := by
    have : 0x80006F + d * 128 + a * 4096 + la * 268435456 = u := (Prod.mk.inj (Option.some.inj he)).2
    rw [← this]; simp only [pack]; ring
  have l : Fits [(1, 1), (6, 55), (5, d), (5, a), (5, 0), (6, 2), (4, la)] := ⟨by decide, by decide, h0, h1, by decide, by decide, h2, trivial⟩
  have f1_6 : fld u 1 6 = 55 := (fld_pack l e 1 1).trans rfl
  have f7_5 : fld u 7 5 = d := (fld_pack l e 2 1).trans rfl
  have f12_5 : fld u 12 5 = a := (fld_pack l e 3 1).trans rfl
  have f17_11 : fld u 17 11 = 64 := (fld_pack l e 4 2).trans (by simp [pack]; try omega)
  have f22_6 : fld u 22 6 = 2 := (fld_pack l e 5 1).trans rfl
  have f28_4 : fld u 28 4 = la := (fld_pack l e 6 1).trans rfl
  refine decodeWord_of_major ((fld_pack l e 0 1).trans rfl) ((decode32_Major37 f1_6).trans ?_) h
  simp [decMajor37, f7_5, f12_5, f17_11, f22_6, f28_4]

theorem RoundTrip.nstat (d : Nat) (a : Nat) (q : Nat) (la : Nat) : RoundTrip.Statement (.nstat d a q la) := by
  intro _ u h he
  obtain ⟨h0, h1, h2, h3, h4⟩ := of_decide_eq_true h
  have e : pack [(1, 1), (6, 55), (5, d), (5, a), (5, 0), (3, 3), (3, q), (4, la)] = u := by
    have : 0xC0006F + d * 128 + a * 4096 + q * 33554432 + la * 268435456 = u := (Prod.mk.inj (Option.some.inj he)).2
    rw [← this]; simp only [pack]; ring
  have l : Fits [(1, 1), (6, 55), (5, d), (5, a), (5, 0), (3, 3), (3, q), (4, la)] := ⟨by decide, by decide, h0, h1, by decide, by decide, h2, h3, trivial⟩
  have f1_6 : fld u 1 6 = 55 := (fld_pack l e 1 1).trans rfl
  have f7_5 : fld u 7 5 = d := (fld_pack l e 2 1).trans rfl
  have f12_5 : fld u 12 5 = a := (fld_pack l e 3 1).trans rfl
  have f17_8 : fld u 17 8 = 96 := (fld_pack l e 4 2).trans (by simp [pack]; try omega)
  have f17_11 : fld u 17 11 = 96 + q * 256 := (fld_pack l e 4 3).trans (by simp [pack]; try omega)
  have f22_6 : fld u 22 6 = 3 + q * 8 := (fld_pack l e 5 2).trans (by simp [pack]; try omega)
  have f25_3 : fld u 25 3 = q := (fld_pack l e 6 1).trans rfl
  have f28_4 : fld u 28 4 = la := (fld_pack l e 7 1).trans rfl
  have g0 : ¬ (3 + q * 8 = 0) := by omega
  have g1 : ¬ (96 + q * 256 = 32) := by omega
  have g2 : ¬ (3 + q * 8 = 9) := by omega
  have g3 : ¬ (96 + q * 256 = 64) := by omega
  refine decodeWord_of_major ((fld_pack l e 0 1).trans rfl) ((decode32_Major37 f1_6).trans ?_) h
  simp [decMajor37, f7_5, f12_5, f17_8, f17_11, f22_6, f25_3, f28_4, g0, g1, g2, g3]

theorem RoundTrip.ptload (d : Nat) (a : Nat) (b : Nat) : RoundTrip.Statement (.ptload d a b) := by
  intro _ u h he
  obtain ⟨h0, h1, h2⟩ := of_decide_eq_true h
  have e : pack [(1, 1), (6, 62), (5, d), (5, a), (5, b), (10, 64)] = u := by
    have : 0x1000007D + d * 128 + a * 4096 + b * 131072 = u := (Prod.mk.inj (Option.some.inj he)).2
    rw [← this]; simp only [pack]; ring
  have l : Fits [(1, 1), (6, 62), (5, d), (5, a), (5, b), (10, 64)] := ⟨by decide, by decide, h0, h1, h2, by decide, trivial⟩
  have f1_6 : fld u 1 6 = 62 := (fld_pack l e 1 1).trans rfl
  have f7_5 : fld u 7 5 = d := (fld_pack l e 2 1).trans rfl
  have f12_5 : fld u 12 5 = a := (fld_pack l e 3 1).trans rfl
  have f17_5 : fld u 17 5 = b := (fld_pack l e 4 1).trans rfl
  have f22_10 : fld u 22 10 = 64 := (fld_pack l e 5 1).trans rfl
  refine decodeWord_of_major ((fld_pack l e 0 1).trans rfl) ((decode32_Major3E f1_6).trans ?_) h
  simp [decMajor3E, f7_5, f12_5, f17_5, f22_10]

theorem RoundTrip.rngset (d : Nat) (a : Nat) (b : Nat) : RoundTrip.Statement (.rngset d a b) := by
  intro _ u h he
  obtain ⟨h0, h1, h2⟩ := of_decide_eq_true h
  have e : pack [(1, 1), (6, 62), (5, d), (5, a), (5, b), (10, 72)] = u := by
    have : 0x1200007D + d * 128 + a * 4096 + b * 131072 = u := (Prod.mk.inj (Option.some.inj he)).2
    rw [← this]; simp only [pack]; ring
  have l : Fits [(1, 1), (6, 62), (5, d), (5, a), (5, b), (10, 72)] := ⟨by decide, by decide, h0, h1, h2, by decide, trivial⟩
  have f1_6 : fld u 1 6 = 62 := (fld_pack l e 1 1).trans rfl
  have f7_5 : fld u 7 5 = d := (fld_pack l e 2 1).trans rfl
  have f12_5 : fld u 12 5 = a := (fld_pack l e 3 1).trans rfl
  have f17_5 : fld u 17 5 = b := (fld_pack l e 4 1).trans rfl
  have f22_10 : fld u 22 10 = 72 := (fld_pack l e 5 1).trans rfl
  refine decodeWord_of_major ((fld_pack l e 0 1).trans rfl) ((decode32_Major3E f1_6).trans ?_) h
  simp [decMajor3E, f7_5, f12_5, f17_5, f22_10]

theorem RoundTrip.tlbinv (d : Nat) (a : Nat) (b : Nat) : RoundTrip.Statement (.tlbinv d a b) := by
  intro _ u h he
  obtain ⟨h0, h1, h2⟩ := of_decide_eq_true h
  have e : pack [(1, 1), (6, 62), (5, d), (5, a), (5, b), (10, 0)] = u := by
    have : 0x7D + d * 128 + a * 4096 + b * 131072 = u := (Prod.mk.inj (Option.some.inj he)).2
    rw [← this]; simp only [pack]; ring
  have l : Fits [(1, 1), (6, 62), (5, d), (5, a), (5, b), (10, 0)] := ⟨by decide, by decide, h0, h1, h2, by decide, trivial⟩
  have f1_6 : fld u 1 6 = 62 := (fld_pack l e 1 1).trans rfl
  have f7_5 : fld u 7 5 = d := (fld_pack l e 2 1).trans rfl
  have f12_5 : fld u 12 5 = a := (fld_pack l e 3 1).trans rfl
  have f17_5 : fld u 17 5 = b := (fld_pack l e 4 1).trans rfl
  have f22_10 : fld u 22 10 = 0 := (fld_pack l e 5 1).trans rfl
  refine decodeWord_of_major ((fld_pack l e 0 1).trans rfl) ((decode32_Major3E f1_6).trans ?_) h
  simp [decMajor3E, f7_5, f12_5, f17_5, f22_10]

theorem RoundTrip.l1inv : RoundTrip.Statement (.l1inv) := by
  intro _ u h he
  have e : pack [(1, 1), (6, 62), (15, 0), (10, 8)] = u := by
    have : 0x200007D = u := (Prod.mk.inj (Option.some.inj he)).2
    rw [← this]; simp only [pack]; ring
  have l : Fits [(1, 1), (6, 62), (15, 0), (10, 8)] := ⟨by decide, by decide, by decide, by decide, trivial⟩
  have f1_6 : fld u 1 6 = 62 := (fld_pack l e 1 1).trans rfl
  have f7_25 : fld u 7 25 = 262144 := (fld_pack l e 2 2).trans (by simp [pack]; try omega)
  have f22_10 : fld u 22 10 = 8 := (fld_pack l e 3 1).trans rfl
  refine decodeWord_of_major ((fld_pack l e 0 1).trans rfl) ((decode32_Major3E f1_6).trans ?_) h
  simp [decMajor3E, f7_25, f22_10]

theorem RoundTrip.l2wb (d : Nat) (a : Nat) (b : Nat) : RoundTrip.Statement (.l2wb d a b) := by
  intro _ u h he
  obtain ⟨h0, h1, h2⟩ := of_decide_eq_true h
  have e : pack [(1, 1), (6, 62), (5, d), (5, a), (5, b), (10, 16)] = u := by
    have : 0x400007D + d * 128 + a * 4096 + b * 131072 = u := (Prod.mk.inj (Option.some.inj he)).2
    rw [← this]; simp only [pack]; ring
  have l : Fits [(1, 1), (6, 62), (5, d), (5, a), (5, b), (10, 16)] := ⟨by decide, by decide, h0, h1, h2, by decide, trivial⟩
  have f1_6 : fld u 1 6 = 62 := (fld_pack l e 1 1).trans rfl
  have f7_5 : fld u 7 5 = d := (fld_pack l e 2 1).trans rfl
  have f7_25 : fld u 7 25 = 524288 + d + a * 32 + b * 1024 := (fld_pack l e 2 4).trans (by simp [pack]; try omega)
  have f12_5 : fld u 12 5 = a := (fld_pack l e 3 1).trans rfl
  have f17_5 : fld u 17 5 = b := (fld_pack l e 4 1).trans rfl
  have f22_10 : fld u 22 10 = 16 := (fld_pack l e 5 1).trans rfl
  have g0 : ¬ (524288 + d + a * 32 + b * 1024 = 262144) := by omega
  refine decodeWord_of_major ((fld_pack l e 0 1).trans rfl) ((decode32_Major3E f1_6).trans ?_) h
  simp [decMajor3E, f7_5, f7_25, f12_5, f17_5, f22_10, g0]

theorem RoundTrip.heatrd (d : Nat) (a : Nat) (b : Nat) : RoundTrip.Statement (.heatrd d a b) := by
  intro _ u h he
  obtain ⟨h0, h1, h2⟩ := of_decide_eq_true h
  have e : pack [(1, 1), (6, 62), (5, d), (5, a), (5, b), (10, 24)] = u := by
    have : 0x600007D + d * 128 + a * 4096 + b * 131072 = u := (Prod.mk.inj (Option.some.inj he)).2
    rw [← this]; simp only [pack]; ring
  have l : Fits [(1, 1), (6, 62), (5, d), (5, a), (5, b), (10, 24)] := ⟨by decide, by decide, h0, h1, h2, by decide, trivial⟩
  have f1_6 : fld u 1 6 = 62 := (fld_pack l e 1 1).trans rfl
  have f7_5 : fld u 7 5 = d := (fld_pack l e 2 1).trans rfl
  have f7_25 : fld u 7 25 = 786432 + d + a * 32 + b * 1024 := (fld_pack l e 2 4).trans (by simp [pack]; try omega)
  have f12_5 : fld u 12 5 = a := (fld_pack l e 3 1).trans rfl
  have f17_5 : fld u 17 5 = b := (fld_pack l e 4 1).trans rfl
  have f22_10 : fld u 22 10 = 24 := (fld_pack l e 5 1).trans rfl
  have g0 : ¬ (786432 + d + a * 32 + b * 1024 = 262144) := by omega
  refine decodeWord_of_major ((fld_pack l e 0 1).trans rfl) ((decode32_Major3E f1_6).trans ?_) h
  simp [decMajor3E, f7_5, f7_25, f12_5, f17_5, f22_10, g0]

theorem RoundTrip.heatage (d : Nat) (a : Nat) (b : Nat) : RoundTrip.Statement (.heatage d a b) := by
  intro _ u h he
  obtain ⟨h0, h1, h2⟩ := of_decide_eq_true h
  have e : pack [(1, 1), (6, 62), (5, d), (5, a), (5, b), (10, 32)] = u := by
    have : 0x800007D + d * 128 + a * 4096 + b * 131072 = u := (Prod.mk.inj (Option.some.inj he)).2
    rw [← this]; simp only [pack]; ring
  have l : Fits [(1, 1), (6, 62), (5, d), (5, a), (5, b), (10, 32)] := ⟨by decide, by decide, h0, h1, h2, by decide, trivial⟩
  have f1_6 : fld u 1 6 = 62 := (fld_pack l e 1 1).trans rfl
  have f7_5 : fld u 7 5 = d := (fld_pack l e 2 1).trans rfl
  have f7_25 : fld u 7 25 = 1048576 + d + a * 32 + b * 1024 := (fld_pack l e 2 4).trans (by simp [pack]; try omega)
  have f12_5 : fld u 12 5 = a := (fld_pack l e 3 1).trans rfl
  have f17_5 : fld u 17 5 = b := (fld_pack l e 4 1).trans rfl
  have f22_10 : fld u 22 10 = 32 := (fld_pack l e 5 1).trans rfl
  have g0 : ¬ (1048576 + d + a * 32 + b * 1024 = 262144) := by omega
  refine decodeWord_of_major ((fld_pack l e 0 1).trans rfl) ((decode32_Major3E f1_6).trans ?_) h
  simp [decMajor3E, f7_5, f7_25, f12_5, f17_5, f22_10, g0]

theorem RoundTrip.pfreplay (d : Nat) (a : Nat) (b : Nat) : RoundTrip.Statement (.pfreplay d a b) := by
  intro _ u h he
  obtain ⟨h0, h1, h2⟩ := of_decide_eq_true h
  have e : pack [(1, 1), (6, 62), (5, d), (5, a), (5, b), (10, 40)] = u := by
    have : 0xA00007D + d * 128 + a * 4096 + b * 131072 = u := (Prod.mk.inj (Option.some.inj he)).2
    rw [← this]; simp only [pack]; ring
  have l : Fits [(1, 1), (6, 62), (5, d), (5, a), (5, b), (10, 40)] := ⟨by decide, by decide, h0, h1, h2, by decide, trivial⟩
  have f1_6 : fld u 1 6 = 62 := (fld_pack l e 1 1).trans rfl
  have f7_5 : fld u 7 5 = d := (fld_pack l e 2 1).trans rfl
  have f7_25 : fld u 7 25 = 1310720 + d + a * 32 + b * 1024 := (fld_pack l e 2 4).trans (by simp [pack]; try omega)
  have f12_5 : fld u 12 5 = a := (fld_pack l e 3 1).trans rfl
  have f17_5 : fld u 17 5 = b := (fld_pack l e 4 1).trans rfl
  have f22_10 : fld u 22 10 = 40 := (fld_pack l e 5 1).trans rfl
  have g0 : ¬ (1310720 + d + a * 32 + b * 1024 = 262144) := by omega
  refine decodeWord_of_major ((fld_pack l e 0 1).trans rfl) ((decode32_Major3E f1_6).trans ?_) h
  simp [decMajor3E, f7_5, f7_25, f12_5, f17_5, f22_10, g0]

theorem RoundTrip.ckpt (d : Nat) (a : Nat) (b : Nat) : RoundTrip.Statement (.ckpt d a b) := by
  intro _ u h he
  obtain ⟨h0, h1, h2⟩ := of_decide_eq_true h
  have e : pack [(1, 1), (6, 62), (5, d), (5, a), (5, b), (10, 48)] = u := by
    have : 0xC00007D + d * 128 + a * 4096 + b * 131072 = u := (Prod.mk.inj (Option.some.inj he)).2
    rw [← this]; simp only [pack]; ring
  have l : Fits [(1, 1), (6, 62), (5, d), (5, a), (5, b), (10, 48)] := ⟨by decide, by decide, h0, h1, h2, by decide, trivial⟩
  have f1_6 : fld u 1 6 = 62 := (fld_pack l e 1 1).trans rfl
  have f7_5 : fld u 7 5 = d := (fld_pack l e 2 1).trans rfl
  have f7_25 : fld u 7 25 = 1572864 + d + a * 32 + b * 1024 := (fld_pack l e 2 4).trans (by simp [pack]; try omega)
  have f12_5 : fld u 12 5 = a := (fld_pack l e 3 1).trans rfl
  have f17_5 : fld u 17 5 = b := (fld_pack l e 4 1).trans rfl
  have f22_10 : fld u 22 10 = 48 := (fld_pack l e 5 1).trans rfl
  have g0 : ¬ (1572864 + d + a * 32 + b * 1024 = 262144) := by omega
  refine decodeWord_of_major ((fld_pack l e 0 1).trans rfl) ((decode32_Major3E f1_6).trans ?_) h
  simp [decMajor3E, f7_5, f7_25, f12_5, f17_5, f22_10, g0]

theorem RoundTrip.trap (imm : Nat) : RoundTrip.Statement (.trap imm) := by
  intro _ u h he
  have h0 := of_decide_eq_true h
  have e : pack [(1, 1), (6, 60), (13, 0), (12, imm)] = u := by
    have : 0x79 + imm * 1048576 = u := (Prod.mk.inj (Option.some.inj he)).2
    rw [← this]; simp only [pack]; ring
  have l : Fits [(1, 1), (6, 60), (13, 0), (12, imm)] := ⟨by decide, by decide, by decide, h0, trivial⟩
  have f1_6 : fld u 1 6 = 60 := (fld_pack l e 1 1).trans rfl
  have f7_13 : fld u 7 13 = 0 := (fld_pack l e 2 1).trans rfl
  have f20_12 : fld u 20 12 = imm := (fld_pack l e 3 1).trans rfl
  refine decodeWord_of_major ((fld_pack l e 0 1).trans rfl) ((decode32_Major3C f1_6).trans ?_) h
  simp [decMajor3C, f7_13, f20_12]

theorem RoundTrip.tret (d : Nat) (a : Nat) : RoundTrip.Statement (.tret d a) := by
  intro _ u h he
  obtain ⟨h0, h1⟩ := of_decide_eq_true h
  have e : pack [(1, 1), (6, 60), (5, d), (5, a), (3, 1), (12, 0)] = u := by
    have : 0x20079 + d * 128 + a * 4096 = u := (Prod.mk.inj (Option.some.inj he)).2
    rw [← this]; simp only [pack]; ring
  have l : Fits [(1, 1), (6, 60), (5, d), (5, a), (3, 1), (12, 0)] := ⟨by decide, by decide, h0, h1, by decide, by decide, trivial⟩
  have f1_6 : fld u 1 6 = 60 := (fld_pack l e 1 1).trans rfl
  have f7_5 : fld u 7 5 = d := (fld_pack l e 2 1).trans rfl
  have f7_13 : fld u 7 13 = 1024 + d + a * 32 := (fld_pack l e 2 3).trans (by simp [pack]; try omega)
  have f12_5 : fld u 12 5 = a := (fld_pack l e 3 1).trans rfl
  have f17_15 : fld u 17 15 = 1 := (fld_pack l e 4 2).trans (by simp [pack]; try omega)
  have g0 : ¬ (1024 + d + a * 32 = 0) := by omega
  refine decodeWord_of_major ((fld_pack l e 0 1).trans rfl) ((decode32_Major3C f1_6).trans ?_) h
  simp [decMajor3C, f7_5, f7_13, f12_5, f17_15, g0]

theorem RoundTrip.tretKill (d : Nat) (a : Nat) : RoundTrip.Statement (.tretKill d a) := by
  intro _ u h he
  obtain ⟨h0, h1⟩ := of_decide_eq_true h
  have e : pack [(1, 1), (6, 60), (5, d), (5, a), (3, 1), (12, 1)] = u := by
    have : 0x120079 + d * 128 + a * 4096 = u := (Prod.mk.inj (Option.some.inj he)).2
    rw [← this]; simp only [pack]; ring
  have l : Fits [(1, 1), (6, 60), (5, d), (5, a), (3, 1), (12, 1)] := ⟨by decide, by decide, h0, h1, by decide, by decide, trivial⟩
  have f1_6 : fld u 1 6 = 60 := (fld_pack l e 1 1).trans rfl
  have f7_5 : fld u 7 5 = d := (fld_pack l e 2 1).trans rfl
  have f7_13 : fld u 7 13 = 1024 + d + a * 32 := (fld_pack l e 2 3).trans (by simp [pack]; try omega)
  have f12_5 : fld u 12 5 = a := (fld_pack l e 3 1).trans rfl
  have f17_15 : fld u 17 15 = 9 := (fld_pack l e 4 2).trans (by simp [pack]; try omega)
  have g0 : ¬ (1024 + d + a * 32 = 0) := by omega
  refine decodeWord_of_major ((fld_pack l e 0 1).trans rfl) ((decode32_Major3C f1_6).trans ?_) h
  simp [decMajor3C, f7_5, f7_13, f12_5, f17_15, g0]

theorem RoundTrip.tretFrz (d : Nat) (a : Nat) : RoundTrip.Statement (.tretFrz d a) := by
  intro _ u h he
  obtain ⟨h0, h1⟩ := of_decide_eq_true h
  have e : pack [(1, 1), (6, 60), (5, d), (5, a), (3, 1), (12, 2)] = u := by
    have : 0x220079 + d * 128 + a * 4096 = u := (Prod.mk.inj (Option.some.inj he)).2
    rw [← this]; simp only [pack]; ring
  have l : Fits [(1, 1), (6, 60), (5, d), (5, a), (3, 1), (12, 2)] := ⟨by decide, by decide, h0, h1, by decide, by decide, trivial⟩
  have f1_6 : fld u 1 6 = 60 := (fld_pack l e 1 1).trans rfl
  have f7_5 : fld u 7 5 = d := (fld_pack l e 2 1).trans rfl
  have f7_13 : fld u 7 13 = 1024 + d + a * 32 := (fld_pack l e 2 3).trans (by simp [pack]; try omega)
  have f12_5 : fld u 12 5 = a := (fld_pack l e 3 1).trans rfl
  have f17_15 : fld u 17 15 = 17 := (fld_pack l e 4 2).trans (by simp [pack]; try omega)
  have g0 : ¬ (1024 + d + a * 32 = 0) := by omega
  refine decodeWord_of_major ((fld_pack l e 0 1).trans rfl) ((decode32_Major3C f1_6).trans ?_) h
  simp [decMajor3C, f7_5, f7_13, f12_5, f17_15, g0]

theorem RoundTrip.mfs (d : Nat) (imm : Nat) : RoundTrip.Statement (.mfs d imm) := by
  intro _ u h he
  obtain ⟨h0, h1, -⟩ := of_decide_eq_true h
  have e : pack [(1, 1), (6, 61), (5, d), (8, 0), (12, imm)] = u := by
    have : 0x7B + d * 128 + imm * 1048576 = u := (Prod.mk.inj (Option.some.inj he)).2
    rw [← this]; simp only [pack]; ring
  have l : Fits [(1, 1), (6, 61), (5, d), (8, 0), (12, imm)] := ⟨by decide, by decide, h0, by decide, h1, trivial⟩
  have f1_6 : fld u 1 6 = 61 := (fld_pack l e 1 1).trans rfl
  have f7_5 : fld u 7 5 = d := (fld_pack l e 2 1).trans rfl
  have f12_8 : fld u 12 8 = 0 := (fld_pack l e 3 1).trans rfl
  have f20_12 : fld u 20 12 = imm := (fld_pack l e 4 1).trans rfl
  refine decodeWord_of_major ((fld_pack l e 0 1).trans rfl) ((decode32_Major3D f1_6).trans ?_) h
  simp [decMajor3D, f7_5, f12_8, f20_12]

theorem RoundTrip.mts (a : Nat) (imm : Nat) : RoundTrip.Statement (.mts a imm) := by
  intro _ u h he
  obtain ⟨h0, h1, -⟩ := of_decide_eq_true h
  have e : pack [(1, 1), (6, 61), (5, 0), (5, a), (3, 1), (12, imm)] = u := by
    have : 0x2007B + a * 4096 + imm * 1048576 = u := (Prod.mk.inj (Option.some.inj he)).2
    rw [← this]; simp only [pack]; ring
  have l : Fits [(1, 1), (6, 61), (5, 0), (5, a), (3, 1), (12, imm)] := ⟨by decide, by decide, by decide, h0, by decide, h1, trivial⟩
  have f1_6 : fld u 1 6 = 61 := (fld_pack l e 1 1).trans rfl
  have f7_5 : fld u 7 5 = 0 := (fld_pack l e 2 1).trans rfl
  have f12_5 : fld u 12 5 = a := (fld_pack l e 3 1).trans rfl
  have f12_8 : fld u 12 8 = 32 + a := (fld_pack l e 3 2).trans (by simp [pack]; try omega)
  have f17_3 : fld u 17 3 = 1 := (fld_pack l e 4 1).trans rfl
  have f20_12 : fld u 20 12 = imm := (fld_pack l e 5 1).trans rfl
  have g0 : ¬ (32 + a = 0) := by omega
  refine decodeWord_of_major ((fld_pack l e 0 1).trans rfl) ((decode32_Major3D f1_6).trans ?_) h
  simp [decMajor3D, f7_5, f12_5, f12_8, f17_3, f20_12, g0]

theorem RoundTrip.cfreeze (d : Nat) (a : Nat) : RoundTrip.Statement (.cfreeze d a) := by
  intro _ u h he
  obtain ⟨h0, h1⟩ := of_decide_eq_true h
  have e : pack [(1, 1), (6, 61), (5, d), (5, a), (3, 2), (12, 0)] = u := by
    have : 0x4007B + d * 128 + a * 4096 = u := (Prod.mk.inj (Option.some.inj he)).2
    rw [← this]; simp only [pack]; ring
  have l : Fits [(1, 1), (6, 61), (5, d), (5, a), (3, 2), (12, 0)] := ⟨by decide, by decide, h0, h1, by decide, by decide, trivial⟩
  have f1_6 : fld u 1 6 = 61 := (fld_pack l e 1 1).trans rfl
  have f7_5 : fld u 7 5 = d := (fld_pack l e 2 1).trans rfl
  have f12_5 : fld u 12 5 = a := (fld_pack l e 3 1).trans rfl
  have f12_8 : fld u 12 8 = 64 + a := (fld_pack l e 3 2).trans (by simp [pack]; try omega)
  have f17_3 : fld u 17 3 = 2 := (fld_pack l e 4 1).trans rfl
  have f17_15 : fld u 17 15 = 2 := (fld_pack l e 4 2).trans (by simp [pack]; try omega)
  have g0 : ¬ (64 + a = 0) := by omega
  refine decodeWord_of_major ((fld_pack l e 0 1).trans rfl) ((decode32_Major3D f1_6).trans ?_) h
  simp [decMajor3D, f7_5, f12_5, f12_8, f17_3, f17_15, g0]

theorem RoundTrip.cthaw (d : Nat) (a : Nat) : RoundTrip.Statement (.cthaw d a) := by
  intro _ u h he
  obtain ⟨h0, h1⟩ := of_decide_eq_true h
  have e : pack [(1, 1), (6, 61), (5, d), (5, a), (3, 3), (12, 0)] = u := by
    have : 0x6007B + d * 128 + a * 4096 = u := (Prod.mk.inj (Option.some.inj he)).2
    rw [← this]; simp only [pack]; ring
  have l : Fits [(1, 1), (6, 61), (5, d), (5, a), (3, 3), (12, 0)] := ⟨by decide, by decide, h0, h1, by decide, by decide, trivial⟩
  have f1_6 : fld u 1 6 = 61 := (fld_pack l e 1 1).trans rfl
  have f7_5 : fld u 7 5 = d := (fld_pack l e 2 1).trans rfl
  have f12_5 : fld u 12 5 = a := (fld_pack l e 3 1).trans rfl
  have f12_8 : fld u 12 8 = 96 + a := (fld_pack l e 3 2).trans (by simp [pack]; try omega)
  have f17_3 : fld u 17 3 = 3 := (fld_pack l e 4 1).trans rfl
  have f17_15 : fld u 17 15 = 3 := (fld_pack l e 4 2).trans (by simp [pack]; try omega)
  have g0 : ¬ (96 + a = 0) := by omega
  refine decodeWord_of_major ((fld_pack l e 0 1).trans rfl) ((decode32_Major3D f1_6).trans ?_) h
  simp [decMajor3D, f7_5, f12_5, f12_8, f17_3, f17_15, g0]

theorem RoundTrip.cswapIn (d : Nat) (a : Nat) : RoundTrip.Statement (.cswapIn d a) := by
  intro _ u h he
  obtain ⟨h0, h1⟩ := of_decide_eq_true h
  have e : pack [(1, 1), (6, 61), (5, d), (5, a), (3, 4), (12, 0)] = u := by
    have : 0x8007B + d * 128 + a * 4096 = u := (Prod.mk.inj (Option.some.inj he)).2
    rw [← this]; simp only [pack]; ring
  have l : Fits [(1, 1), (6, 61), (5, d), (5, a), (3, 4), (12, 0)] := ⟨by decide, by decide, h0, h1, by decide, by decide, trivial⟩
  have f1_6 : fld u 1 6 = 61 := (fld_pack l e 1 1).trans rfl
  have f7_5 : fld u 7 5 = d := (fld_pack l e 2 1).trans rfl
  have f12_5 : fld u 12 5 = a := (fld_pack l e 3 1).trans rfl
  have f12_8 : fld u 12 8 = 128 + a := (fld_pack l e 3 2).trans (by simp [pack]; try omega)
  have f17_3 : fld u 17 3 = 4 := (fld_pack l e 4 1).trans rfl
  have f17_15 : fld u 17 15 = 4 := (fld_pack l e 4 2).trans (by simp [pack]; try omega)
  have g0 : ¬ (128 + a = 0) := by omega
  refine decodeWord_of_major ((fld_pack l e 0 1).trans rfl) ((decode32_Major3D f1_6).trans ?_) h
  simp [decMajor3D, f7_5, f12_5, f12_8, f17_3, f17_15, g0]

theorem RoundTrip.cswapFast (d : Nat) (a : Nat) : RoundTrip.Statement (.cswapFast d a) := by
  intro _ u h he
  obtain ⟨h0, h1⟩ := of_decide_eq_true h
  have e : pack [(1, 1), (6, 61), (5, d), (5, a), (3, 4), (12, 1)] = u := by
    have : 0x18007B + d * 128 + a * 4096 = u := (Prod.mk.inj (Option.some.inj he)).2
    rw [← this]; simp only [pack]; ring
  have l : Fits [(1, 1), (6, 61), (5, d), (5, a), (3, 4), (12, 1)] := ⟨by decide, by decide, h0, h1, by decide, by decide, trivial⟩
  have f1_6 : fld u 1 6 = 61 := (fld_pack l e 1 1).trans rfl
  have f7_5 : fld u 7 5 = d := (fld_pack l e 2 1).trans rfl
  have f12_5 : fld u 12 5 = a := (fld_pack l e 3 1).trans rfl
  have f12_8 : fld u 12 8 = 128 + a := (fld_pack l e 3 2).trans (by simp [pack]; try omega)
  have f17_3 : fld u 17 3 = 4 := (fld_pack l e 4 1).trans rfl
  have f17_15 : fld u 17 15 = 12 := (fld_pack l e 4 2).trans (by simp [pack]; try omega)
  have g0 : ¬ (128 + a = 0) := by omega
  refine decodeWord_of_major ((fld_pack l e 0 1).trans rfl) ((decode32_Major3D f1_6).trans ?_) h
  simp [decMajor3D, f7_5, f12_5, f12_8, f17_3, f17_15, g0]

theorem RoundTrip.cswapOut (d : Nat) (a : Nat) : RoundTrip.Statement (.cswapOut d a) := by
  intro _ u h he
  obtain ⟨h0, h1⟩ := of_decide_eq_true h
  have e : pack [(1, 1), (6, 61), (5, d), (5, a), (3, 4), (12, 2)] = u := by
    have : 0x28007B + d * 128 + a * 4096 = u := (Prod.mk.inj (Option.some.inj he)).2
    rw [← this]; simp only [pack]; ring
  have l : Fits [(1, 1), (6, 61), (5, d), (5, a), (3, 4), (12, 2)] := ⟨by decide, by decide, h0, h1, by decide, by decide, trivial⟩
  have f1_6 : fld u 1 6 = 61 := (fld_pack l e 1 1).trans rfl
  have f7_5 : fld u 7 5 = d := (fld_pack l e 2 1).trans rfl
  have f12_5 : fld u 12 5 = a := (fld_pack l e 3 1).trans rfl
  have f12_8 : fld u 12 8 = 128 + a := (fld_pack l e 3 2).trans (by simp [pack]; try omega)
  have f17_3 : fld u 17 3 = 4 := (fld_pack l e 4 1).trans rfl
  have f17_15 : fld u 17 15 = 20 := (fld_pack l e 4 2).trans (by simp [pack]; try omega)
  have g0 : ¬ (128 + a = 0) := by omega
  refine decodeWord_of_major ((fld_pack l e 0 1).trans rfl) ((decode32_Major3D f1_6).trans ?_) h
  simp [decMajor3D, f7_5, f12_5, f12_8, f17_3, f17_15, g0]

theorem RoundTrip.cswapCreate (d : Nat) (a : Nat) : RoundTrip.Statement (.cswapCreate d a) := by
  intro _ u h he
  obtain ⟨h0, h1⟩ := of_decide_eq_true h
  have e : pack [(1, 1), (6, 61), (5, d), (5, a), (3, 4), (12, 3)] = u := by
    have : 0x38007B + d * 128 + a * 4096 = u := (Prod.mk.inj (Option.some.inj he)).2
    rw [← this]; simp only [pack]; ring
  have l : Fits [(1, 1), (6, 61), (5, d), (5, a), (3, 4), (12, 3)] := ⟨by decide, by decide, h0, h1, by decide, by decide, trivial⟩
  have f1_6 : fld u 1 6 = 61 := (fld_pack l e 1 1).trans rfl
  have f7_5 : fld u 7 5 = d := (fld_pack l e 2 1).trans rfl
  have f12_5 : fld u 12 5 = a := (fld_pack l e 3 1).trans rfl
  have f12_8 : fld u 12 8 = 128 + a := (fld_pack l e 3 2).trans (by simp [pack]; try omega)
  have f17_3 : fld u 17 3 = 4 := (fld_pack l e 4 1).trans rfl
  have f17_15 : fld u 17 15 = 28 := (fld_pack l e 4 2).trans (by simp [pack]; try omega)
  have g0 : ¬ (128 + a = 0) := by omega
  refine decodeWord_of_major ((fld_pack l e 0 1).trans rfl) ((decode32_Major3D f1_6).trans ?_) h
  simp [decMajor3D, f7_5, f12_5, f12_8, f17_3, f17_15, g0]

theorem RoundTrip.cswapSeal (d : Nat) (a : Nat) : RoundTrip.Statement (.cswapSeal d a) := by
  intro _ u h he
  obtain ⟨h0, h1⟩ := of_decide_eq_true h
  have e : pack [(1, 1), (6, 61), (5, d), (5, a), (3, 4), (12, 4)] = u := by
    have : 0x48007B + d * 128 + a * 4096 = u := (Prod.mk.inj (Option.some.inj he)).2
    rw [← this]; simp only [pack]; ring
  have l : Fits [(1, 1), (6, 61), (5, d), (5, a), (3, 4), (12, 4)] := ⟨by decide, by decide, h0, h1, by decide, by decide, trivial⟩
  have f1_6 : fld u 1 6 = 61 := (fld_pack l e 1 1).trans rfl
  have f7_5 : fld u 7 5 = d := (fld_pack l e 2 1).trans rfl
  have f12_5 : fld u 12 5 = a := (fld_pack l e 3 1).trans rfl
  have f12_8 : fld u 12 8 = 128 + a := (fld_pack l e 3 2).trans (by simp [pack]; try omega)
  have f17_3 : fld u 17 3 = 4 := (fld_pack l e 4 1).trans rfl
  have f17_15 : fld u 17 15 = 36 := (fld_pack l e 4 2).trans (by simp [pack]; try omega)
  have g0 : ¬ (128 + a = 0) := by omega
  refine decodeWord_of_major ((fld_pack l e 0 1).trans rfl) ((decode32_Major3D f1_6).trans ?_) h
  simp [decMajor3D, f7_5, f12_5, f12_8, f17_3, f17_15, g0]

theorem RoundTrip.cswapReset (d : Nat) (a : Nat) : RoundTrip.Statement (.cswapReset d a) := by
  intro _ u h he
  obtain ⟨h0, h1⟩ := of_decide_eq_true h
  have e : pack [(1, 1), (6, 61), (5, d), (5, a), (3, 4), (12, 5)] = u := by
    have : 0x58007B + d * 128 + a * 4096 = u := (Prod.mk.inj (Option.some.inj he)).2
    rw [← this]; simp only [pack]; ring
  have l : Fits [(1, 1), (6, 61), (5, d), (5, a), (3, 4), (12, 5)] := ⟨by decide, by decide, h0, h1, by decide, by decide, trivial⟩
  have f1_6 : fld u 1 6 = 61 := (fld_pack l e 1 1).trans rfl
  have f7_5 : fld u 7 5 = d := (fld_pack l e 2 1).trans rfl
  have f12_5 : fld u 12 5 = a := (fld_pack l e 3 1).trans rfl
  have f12_8 : fld u 12 8 = 128 + a := (fld_pack l e 3 2).trans (by simp [pack]; try omega)
  have f17_3 : fld u 17 3 = 4 := (fld_pack l e 4 1).trans rfl
  have f17_15 : fld u 17 15 = 44 := (fld_pack l e 4 2).trans (by simp [pack]; try omega)
  have g0 : ¬ (128 + a = 0) := by omega
  refine decodeWord_of_major ((fld_pack l e 0 1).trans rfl) ((decode32_Major3D f1_6).trans ?_) h
  simp [decMajor3D, f7_5, f12_5, f12_8, f17_3, f17_15, g0]

theorem RoundTrip.wpset (d : Nat) (a : Nat) (imm : Nat) : RoundTrip.Statement (.wpset d a imm) := by
  intro _ u h he
  obtain ⟨h0, h1, h2⟩ := of_decide_eq_true h
  have e : pack [(1, 1), (6, 61), (5, d), (5, a), (3, 5), (12, imm)] = u := by
    have : 0xA007B + d * 128 + a * 4096 + imm * 1048576 = u := (Prod.mk.inj (Option.some.inj he)).2
    rw [← this]; simp only [pack]; ring
  have l : Fits [(1, 1), (6, 61), (5, d), (5, a), (3, 5), (12, imm)] := ⟨by decide, by decide, h0, h1, by decide, h2, trivial⟩
  have f1_6 : fld u 1 6 = 61 := (fld_pack l e 1 1).trans rfl
  have f7_5 : fld u 7 5 = d := (fld_pack l e 2 1).trans rfl
  have f12_5 : fld u 12 5 = a := (fld_pack l e 3 1).trans rfl
  have f12_8 : fld u 12 8 = 160 + a := (fld_pack l e 3 2).trans (by simp [pack]; try omega)
  have f17_3 : fld u 17 3 = 5 := (fld_pack l e 4 1).trans rfl
  have f17_15 : fld u 17 15 = 5 + imm * 8 := (fld_pack l e 4 2).trans (by simp [pack]; try omega)
  have f20_12 : fld u 20 12 = imm := (fld_pack l e 5 1).trans rfl
  have g0 : ¬ (160 + a = 0) := by omega
  have g1 : ¬ (5 + imm * 8 = 2) := by omega
  have g2 : ¬ (5 + imm * 8 = 3) := by omega
  have g3 : ¬ (5 + imm * 8 = 4) := by omega
  have g4 : ¬ (5 + imm * 8 = 12) := by omega
  have g5 : ¬ (5 + imm * 8 = 20) := by omega
  have g6 : ¬ (5 + imm * 8 = 28) := by omega
  have g7 : ¬ (5 + imm * 8 = 36) := by omega
  have g8 : ¬ (5 + imm * 8 = 44) := by omega
  refine decodeWord_of_major ((fld_pack l e 0 1).trans rfl) ((decode32_Major3D f1_6).trans ?_) h
  simp [decMajor3D, f7_5, f12_5, f12_8, f17_3, f17_15, f20_12, g0, g1, g2, g3, g4, g5, g6, g7, g8]

theorem RoundTrip.lstat (d : Nat) (a : Nat) : RoundTrip.Statement (.lstat d a) := by
  intro _ u h he
  obtain ⟨h0, h1⟩ := of_decide_eq_true h
  have e : pack [(1, 1), (6, 61), (5, d), (5, a), (3, 7), (12, 0)] = u := by
    have : 0xE007B + d * 128 + a * 4096 = u := (Prod.mk.inj (Option.some.inj he)).2
    rw [← this]; simp only [pack]; ring
  have l : Fits [(1, 1), (6, 61), (5, d), (5, a), (3, 7), (12, 0)] := ⟨by decide, by decide, h0, h1, by decide, by decide, trivial⟩
  have f1_6 : fld u 1 6 = 61 := (fld_pack l e 1 1).trans rfl
  have f7_5 : fld u 7 5 = d := (fld_pack l e 2 1).trans rfl
  have f12_5 : fld u 12 5 = a := (fld_pack l e 3 1).trans rfl
  have f12_8 : fld u 12 8 = 224 + a := (fld_pack l e 3 2).trans (by simp [pack]; try omega)
  have f17_3 : fld u 17 3 = 7 := (fld_pack l e 4 1).trans rfl
  have f17_15 : fld u 17 15 = 7 := (fld_pack l e 4 2).trans (by simp [pack]; try omega)
  have g0 : ¬ (224 + a = 0) := by omega
  refine decodeWord_of_major ((fld_pack l e 0 1).trans rfl) ((decode32_Major3D f1_6).trans ?_) h
  simp [decMajor3D, f7_5, f12_5, f12_8, f17_3, f17_15, g0]

theorem RoundTrip.lstatQuiesce (d : Nat) (a : Nat) : RoundTrip.Statement (.lstatQuiesce d a) := by
  intro _ u h he
  obtain ⟨h0, h1⟩ := of_decide_eq_true h
  have e : pack [(1, 1), (6, 61), (5, d), (5, a), (3, 7), (12, 1)] = u := by
    have : 0x1E007B + d * 128 + a * 4096 = u := (Prod.mk.inj (Option.some.inj he)).2
    rw [← this]; simp only [pack]; ring
  have l : Fits [(1, 1), (6, 61), (5, d), (5, a), (3, 7), (12, 1)] := ⟨by decide, by decide, h0, h1, by decide, by decide, trivial⟩
  have f1_6 : fld u 1 6 = 61 := (fld_pack l e 1 1).trans rfl
  have f7_5 : fld u 7 5 = d := (fld_pack l e 2 1).trans rfl
  have f12_5 : fld u 12 5 = a := (fld_pack l e 3 1).trans rfl
  have f12_8 : fld u 12 8 = 224 + a := (fld_pack l e 3 2).trans (by simp [pack]; try omega)
  have f17_3 : fld u 17 3 = 7 := (fld_pack l e 4 1).trans rfl
  have f17_15 : fld u 17 15 = 15 := (fld_pack l e 4 2).trans (by simp [pack]; try omega)
  have g0 : ¬ (224 + a = 0) := by omega
  refine decodeWord_of_major ((fld_pack l e 0 1).trans rfl) ((decode32_Major3D f1_6).trans ?_) h
  simp [decMajor3D, f7_5, f12_5, f12_8, f17_3, f17_15, g0]

theorem RoundTrip.lstatResume (d : Nat) (a : Nat) : RoundTrip.Statement (.lstatResume d a) := by
  intro _ u h he
  obtain ⟨h0, h1⟩ := of_decide_eq_true h
  have e : pack [(1, 1), (6, 61), (5, d), (5, a), (3, 7), (12, 2)] = u := by
    have : 0x2E007B + d * 128 + a * 4096 = u := (Prod.mk.inj (Option.some.inj he)).2
    rw [← this]; simp only [pack]; ring
  have l : Fits [(1, 1), (6, 61), (5, d), (5, a), (3, 7), (12, 2)] := ⟨by decide, by decide, h0, h1, by decide, by decide, trivial⟩
  have f1_6 : fld u 1 6 = 61 := (fld_pack l e 1 1).trans rfl
  have f7_5 : fld u 7 5 = d := (fld_pack l e 2 1).trans rfl
  have f12_5 : fld u 12 5 = a := (fld_pack l e 3 1).trans rfl
  have f12_8 : fld u 12 8 = 224 + a := (fld_pack l e 3 2).trans (by simp [pack]; try omega)
  have f17_3 : fld u 17 3 = 7 := (fld_pack l e 4 1).trans rfl
  have f17_15 : fld u 17 15 = 23 := (fld_pack l e 4 2).trans (by simp [pack]; try omega)
  have g0 : ¬ (224 + a = 0) := by omega
  refine decodeWord_of_major ((fld_pack l e 0 1).trans rfl) ((decode32_Major3D f1_6).trans ?_) h
  simp [decMajor3D, f7_5, f12_5, f12_8, f17_3, f17_15, g0]

theorem RoundTrip.lstatIsolate (d : Nat) (a : Nat) : RoundTrip.Statement (.lstatIsolate d a) := by
  intro _ u h he
  obtain ⟨h0, h1⟩ := of_decide_eq_true h
  have e : pack [(1, 1), (6, 61), (5, d), (5, a), (3, 7), (12, 3)] = u := by
    have : 0x3E007B + d * 128 + a * 4096 = u := (Prod.mk.inj (Option.some.inj he)).2
    rw [← this]; simp only [pack]; ring
  have l : Fits [(1, 1), (6, 61), (5, d), (5, a), (3, 7), (12, 3)] := ⟨by decide, by decide, h0, h1, by decide, by decide, trivial⟩
  have f1_6 : fld u 1 6 = 61 := (fld_pack l e 1 1).trans rfl
  have f7_5 : fld u 7 5 = d := (fld_pack l e 2 1).trans rfl
  have f12_5 : fld u 12 5 = a := (fld_pack l e 3 1).trans rfl
  have f12_8 : fld u 12 8 = 224 + a := (fld_pack l e 3 2).trans (by simp [pack]; try omega)
  have f17_3 : fld u 17 3 = 7 := (fld_pack l e 4 1).trans rfl
  have f17_15 : fld u 17 15 = 31 := (fld_pack l e 4 2).trans (by simp [pack]; try omega)
  have g0 : ¬ (224 + a = 0) := by omega
  refine decodeWord_of_major ((fld_pack l e 0 1).trans rfl) ((decode32_Major3D f1_6).trans ?_) h
  simp [decMajor3D, f7_5, f12_5, f12_8, f17_3, f17_15, g0]

theorem RoundTrip.lstatRetrain (d : Nat) (a : Nat) : RoundTrip.Statement (.lstatRetrain d a) := by
  intro _ u h he
  obtain ⟨h0, h1⟩ := of_decide_eq_true h
  have e : pack [(1, 1), (6, 61), (5, d), (5, a), (3, 7), (12, 4)] = u := by
    have : 0x4E007B + d * 128 + a * 4096 = u := (Prod.mk.inj (Option.some.inj he)).2
    rw [← this]; simp only [pack]; ring
  have l : Fits [(1, 1), (6, 61), (5, d), (5, a), (3, 7), (12, 4)] := ⟨by decide, by decide, h0, h1, by decide, by decide, trivial⟩
  have f1_6 : fld u 1 6 = 61 := (fld_pack l e 1 1).trans rfl
  have f7_5 : fld u 7 5 = d := (fld_pack l e 2 1).trans rfl
  have f12_5 : fld u 12 5 = a := (fld_pack l e 3 1).trans rfl
  have f12_8 : fld u 12 8 = 224 + a := (fld_pack l e 3 2).trans (by simp [pack]; try omega)
  have f17_3 : fld u 17 3 = 7 := (fld_pack l e 4 1).trans rfl
  have f17_15 : fld u 17 15 = 39 := (fld_pack l e 4 2).trans (by simp [pack]; try omega)
  have g0 : ¬ (224 + a = 0) := by omega
  refine decodeWord_of_major ((fld_pack l e 0 1).trans rfl) ((decode32_Major3D f1_6).trans ?_) h
  simp [decMajor3D, f7_5, f12_5, f12_8, f17_3, f17_15, g0]

theorem RoundTrip.lstatRelink (d : Nat) (a : Nat) : RoundTrip.Statement (.lstatRelink d a) := by
  intro _ u h he
  obtain ⟨h0, h1⟩ := of_decide_eq_true h
  have e : pack [(1, 1), (6, 61), (5, d), (5, a), (3, 7), (12, 5)] = u := by
    have : 0x5E007B + d * 128 + a * 4096 = u := (Prod.mk.inj (Option.some.inj he)).2
    rw [← this]; simp only [pack]; ring
  have l : Fits [(1, 1), (6, 61), (5, d), (5, a), (3, 7), (12, 5)] := ⟨by decide, by decide, h0, h1, by decide, by decide, trivial⟩
  have f1_6 : fld u 1 6 = 61 := (fld_pack l e 1 1).trans rfl
  have f7_5 : fld u 7 5 = d := (fld_pack l e 2 1).trans rfl
  have f12_5 : fld u 12 5 = a := (fld_pack l e 3 1).trans rfl
  have f12_8 : fld u 12 8 = 224 + a := (fld_pack l e 3 2).trans (by simp [pack]; try omega)
  have f17_3 : fld u 17 3 = 7 := (fld_pack l e 4 1).trans rfl
  have f17_15 : fld u 17 15 = 47 := (fld_pack l e 4 2).trans (by simp [pack]; try omega)
  have g0 : ¬ (224 + a = 0) := by omega
  refine decodeWord_of_major ((fld_pack l e 0 1).trans rfl) ((decode32_Major3D f1_6).trans ?_) h
  simp [decMajor3D, f7_5, f12_5, f12_8, f17_3, f17_15, g0]

theorem RoundTrip.lstatClr (d : Nat) (a : Nat) : RoundTrip.Statement (.lstatClr d a) := by
  intro _ u h he
  obtain ⟨h0, h1⟩ := of_decide_eq_true h
  have e : pack [(1, 1), (6, 61), (5, d), (5, a), (3, 7), (12, 6)] = u := by
    have : 0x6E007B + d * 128 + a * 4096 = u := (Prod.mk.inj (Option.some.inj he)).2
    rw [← this]; simp only [pack]; ring
  have l : Fits [(1, 1), (6, 61), (5, d), (5, a), (3, 7), (12, 6)] := ⟨by decide, by decide, h0, h1, by decide, by decide, trivial⟩
  have f1_6 : fld u 1 6 = 61 := (fld_pack l e 1 1).trans rfl
  have f7_5 : fld u 7 5 = d := (fld_pack l e 2 1).trans rfl
  have f12_5 : fld u 12 5 = a := (fld_pack l e 3 1).trans rfl
  have f12_8 : fld u 12 8 = 224 + a := (fld_pack l e 3 2).trans (by simp [pack]; try omega)
  have f17_3 : fld u 17 3 = 7 := (fld_pack l e 4 1).trans rfl
  have f17_15 : fld u 17 15 = 55 := (fld_pack l e 4 2).trans (by simp [pack]; try omega)
  have g0 : ¬ (224 + a = 0) := by omega
  refine decodeWord_of_major ((fld_pack l e 0 1).trans rfl) ((decode32_Major3D f1_6).trans ?_) h
  simp [decMajor3D, f7_5, f12_5, f12_8, f17_3, f17_15, g0]

theorem RoundTrip.lstatDquiesce (d : Nat) (a : Nat) : RoundTrip.Statement (.lstatDquiesce d a) := by
  intro _ u h he
  obtain ⟨h0, h1⟩ := of_decide_eq_true h
  have e : pack [(1, 1), (6, 61), (5, d), (5, a), (3, 7), (12, 8)] = u := by
    have : 0x8E007B + d * 128 + a * 4096 = u := (Prod.mk.inj (Option.some.inj he)).2
    rw [← this]; simp only [pack]; ring
  have l : Fits [(1, 1), (6, 61), (5, d), (5, a), (3, 7), (12, 8)] := ⟨by decide, by decide, h0, h1, by decide, by decide, trivial⟩
  have f1_6 : fld u 1 6 = 61 := (fld_pack l e 1 1).trans rfl
  have f7_5 : fld u 7 5 = d := (fld_pack l e 2 1).trans rfl
  have f12_5 : fld u 12 5 = a := (fld_pack l e 3 1).trans rfl
  have f12_8 : fld u 12 8 = 224 + a := (fld_pack l e 3 2).trans (by simp [pack]; try omega)
  have f17_3 : fld u 17 3 = 7 := (fld_pack l e 4 1).trans rfl
  have f17_15 : fld u 17 15 = 71 := (fld_pack l e 4 2).trans (by simp [pack]; try omega)
  have g0 : ¬ (224 + a = 0) := by omega
  refine decodeWord_of_major ((fld_pack l e 0 1).trans rfl) ((decode32_Major3D f1_6).trans ?_) h
  simp [decMajor3D, f7_5, f12_5, f12_8, f17_3, f17_15, g0]

theorem RoundTrip.lstatDflush (d : Nat) (a : Nat) : RoundTrip.Statement (.lstatDflush d a) := by
  intro _ u h he
  obtain ⟨h0, h1⟩ := of_decide_eq_true h
  have e : pack [(1, 1), (6, 61), (5, d), (5, a), (3, 7), (12, 9)] = u := by
    have : 0x9E007B + d * 128 + a * 4096 = u := (Prod.mk.inj (Option.some.inj he)).2
    rw [← this]; simp only [pack]; ring
  have l : Fits [(1, 1), (6, 61), (5, d), (5, a), (3, 7), (12, 9)] := ⟨by decide, by decide, h0, h1, by decide, by decide, trivial⟩
  have f1_6 : fld u 1 6 = 61 := (fld_pack l e 1 1).trans rfl
  have f7_5 : fld u 7 5 = d := (fld_pack l e 2 1).trans rfl
  have f12_5 : fld u 12 5 = a := (fld_pack l e 3 1).trans rfl
  have f12_8 : fld u 12 8 = 224 + a := (fld_pack l e 3 2).trans (by simp [pack]; try omega)
  have f17_3 : fld u 17 3 = 7 := (fld_pack l e 4 1).trans rfl
  have f17_15 : fld u 17 15 = 79 := (fld_pack l e 4 2).trans (by simp [pack]; try omega)
  have g0 : ¬ (224 + a = 0) := by omega
  refine decodeWord_of_major ((fld_pack l e 0 1).trans rfl) ((decode32_Major3D f1_6).trans ?_) h
  simp [decMajor3D, f7_5, f12_5, f12_8, f17_3, f17_15, g0]

theorem RoundTrip.lstatDreset (d : Nat) (a : Nat) : RoundTrip.Statement (.lstatDreset d a) := by
  intro _ u h he
  obtain ⟨h0, h1⟩ := of_decide_eq_true h
  have e : pack [(1, 1), (6, 61), (5, d), (5, a), (3, 7), (12, 10)] = u := by
    have : 0xAE007B + d * 128 + a * 4096 = u := (Prod.mk.inj (Option.some.inj he)).2
    rw [← this]; simp only [pack]; ring
  have l : Fits [(1, 1), (6, 61), (5, d), (5, a), (3, 7), (12, 10)] := ⟨by decide, by decide, h0, h1, by decide, by decide, trivial⟩
  have f1_6 : fld u 1 6 = 61 := (fld_pack l e 1 1).trans rfl
  have f7_5 : fld u 7 5 = d := (fld_pack l e 2 1).trans rfl
  have f12_5 : fld u 12 5 = a := (fld_pack l e 3 1).trans rfl
  have f12_8 : fld u 12 8 = 224 + a := (fld_pack l e 3 2).trans (by simp [pack]; try omega)
  have f17_3 : fld u 17 3 = 7 := (fld_pack l e 4 1).trans rfl
  have f17_15 : fld u 17 15 = 87 := (fld_pack l e 4 2).trans (by simp [pack]; try omega)
  have g0 : ¬ (224 + a = 0) := by omega
  refine decodeWord_of_major ((fld_pack l e 0 1).trans rfl) ((decode32_Major3D f1_6).trans ?_) h
  simp [decMajor3D, f7_5, f12_5, f12_8, f17_3, f17_15, g0]

theorem RoundTrip.lstatDadmit (d : Nat) (a : Nat) : RoundTrip.Statement (.lstatDadmit d a) := by
  intro _ u h he
  obtain ⟨h0, h1⟩ := of_decide_eq_true h
  have e : pack [(1, 1), (6, 61), (5, d), (5, a), (3, 7), (12, 11)] = u := by
    have : 0xBE007B + d * 128 + a * 4096 = u := (Prod.mk.inj (Option.some.inj he)).2
    rw [← this]; simp only [pack]; ring
  have l : Fits [(1, 1), (6, 61), (5, d), (5, a), (3, 7), (12, 11)] := ⟨by decide, by decide, h0, h1, by decide, by decide, trivial⟩
  have f1_6 : fld u 1 6 = 61 := (fld_pack l e 1 1).trans rfl
  have f7_5 : fld u 7 5 = d := (fld_pack l e 2 1).trans rfl
  have f12_5 : fld u 12 5 = a := (fld_pack l e 3 1).trans rfl
  have f12_8 : fld u 12 8 = 224 + a := (fld_pack l e 3 2).trans (by simp [pack]; try omega)
  have f17_3 : fld u 17 3 = 7 := (fld_pack l e 4 1).trans rfl
  have f17_15 : fld u 17 15 = 95 := (fld_pack l e 4 2).trans (by simp [pack]; try omega)
  have g0 : ¬ (224 + a = 0) := by omega
  refine decodeWord_of_major ((fld_pack l e 0 1).trans rfl) ((decode32_Major3D f1_6).trans ?_) h
  simp [decMajor3D, f7_5, f12_5, f12_8, f17_3, f17_15, g0]

theorem RoundTrip.qcmdOpen (x0 : Nat) (x1 : Nat) : RoundTrip.Statement (.qcmdOpen x0 x1) := fun _ _ _ h => nomatch h

theorem RoundTrip.qcmdHalt (x0 : Nat) (x1 : Nat) : RoundTrip.Statement (.qcmdHalt x0 x1) := fun _ _ _ h => nomatch h

theorem RoundTrip.qcmdResume (x0 : Nat) (x1 : Nat) : RoundTrip.Statement (.qcmdResume x0 x1) := fun _ _ _ h => nomatch h

theorem RoundTrip.qcmdClose (x0 : Nat) (x1 : Nat) : RoundTrip.Statement (.qcmdClose x0 x1) := fun _ _ _ h => nomatch h

theorem RoundTrip.carveWrite (x0 : Nat) (x1 : Nat) : RoundTrip.Statement (.carveWrite x0 x1) := fun _ _ _ h => nomatch h

theorem RoundTrip.shallotWrite (x0 : Nat) (x1 : Nat) : RoundTrip.Statement (.shallotWrite x0 x1) := fun _ _ _ h => nomatch h

theorem RoundTrip.doorbell (x0 : Nat) (x1 : Nat) : RoundTrip.Statement (.doorbell x0 x1) := fun _ _ _ h => nomatch h

theorem RoundTrip.devnumWrite (x0 : Nat) : RoundTrip.Statement (.devnumWrite x0) := fun _ _ _ h => nomatch h

theorem RoundTrip.replay (x0 : Nat) (x1 : Nat) : RoundTrip.Statement (.replay x0 x1) := fun _ _ _ h => nomatch h

theorem RoundTrip.replayCancel (x0 : Nat) (x1 : Nat) : RoundTrip.Statement (.replayCancel x0 x1) := fun _ _ _ h => nomatch h

theorem RoundTrip.registerWrite (x0 : Nat) (x1 : Nat) : RoundTrip.Statement (.registerWrite x0 x1) := fun _ _ _ h => nomatch h

theorem RoundTrip.doeIdent : RoundTrip.Statement (.doeIdent) := fun _ _ _ h => nomatch h

theorem RoundTrip.doeReport (x0 : Nat) (x1 : Nat) : RoundTrip.Statement (.doeReport x0 x1) := fun _ _ _ h => nomatch h

theorem RoundTrip.doeInvalidObject (x0 : Nat) (x1 : Nat) : RoundTrip.Statement (.doeInvalidObject x0 x1) := fun _ _ _ h => nomatch h

theorem RoundTrip.coldReset (x0 : Nat) (x1 : Nat) : RoundTrip.Statement (.coldReset x0 x1) := fun _ _ _ h => nomatch h

theorem RoundTrip.messageArrival (x0 : Nat) : RoundTrip.Statement (.messageArrival x0) := fun _ _ _ h => nomatch h

theorem RoundTrip.clauseStart (x0 : Nat) : RoundTrip.Statement (.clauseStart x0) := fun _ _ _ h => nomatch h

theorem RoundTrip.activationPark (x0 : Nat) : RoundTrip.Statement (.activationPark x0) := fun _ _ _ h => nomatch h

theorem RoundTrip.activationResume (x0 : Nat) : RoundTrip.Statement (.activationResume x0) := fun _ _ _ h => nomatch h

theorem RoundTrip.waitEnd (x0 : Nat) : RoundTrip.Statement (.waitEnd x0) := fun _ _ _ h => nomatch h

theorem RoundTrip.watchdogExpiry (x0 : Nat) : RoundTrip.Statement (.watchdogExpiry x0) := fun _ _ _ h => nomatch h

theorem RoundTrip.longLatencyResult (x0 : Nat) (x1 : Nat) : RoundTrip.Statement (.longLatencyResult x0 x1) := fun _ _ _ h => nomatch h

theorem RoundTrip.errorReply (x0 : Nat) (x1 : Nat) (x2 : Nat) (x3 : Nat) (x4 : Nat) : RoundTrip.Statement (.errorReply x0 x1 x2 x3 x4) := fun _ _ _ h => nomatch h

theorem RoundTrip.copyCommandComplete (x0 : Nat) (x1 : Nat) : RoundTrip.Statement (.copyCommandComplete x0 x1) := fun _ _ _ h => nomatch h

theorem RoundTrip.arrayGrant (x0 : Nat) : RoundTrip.Statement (.arrayGrant x0) := fun _ _ _ h => nomatch h

theorem RoundTrip.matrixCommandComplete (x0 : Nat) : RoundTrip.Statement (.matrixCommandComplete x0) := fun _ _ _ h => nomatch h

theorem RoundTrip.planeRefetch (x0 : Nat) (x1 : Nat) : RoundTrip.Statement (.planeRefetch x0 x1) := fun _ _ _ h => nomatch h

theorem RoundTrip.vpolyRequestTake (x0 : Nat) : RoundTrip.Statement (.vpolyRequestTake x0) := fun _ _ _ h => nomatch h

theorem RoundTrip.barrierPhaseComplete (x0 : Nat) : RoundTrip.Statement (.barrierPhaseComplete x0) := fun _ _ _ h => nomatch h

theorem RoundTrip.launchTakeUp (x0 : Nat) : RoundTrip.Statement (.launchTakeUp x0) := fun _ _ _ h => nomatch h

theorem RoundTrip.groupPlace (x0 : Nat) : RoundTrip.Statement (.groupPlace x0) := fun _ _ _ h => nomatch h

theorem RoundTrip.wakeBegin (x0 : Nat) : RoundTrip.Statement (.wakeBegin x0) := fun _ _ _ h => nomatch h

theorem RoundTrip.clusterAwake (x0 : Nat) : RoundTrip.Statement (.clusterAwake x0) := fun _ _ _ h => nomatch h

theorem RoundTrip.clusterGate (x0 : Nat) : RoundTrip.Statement (.clusterGate x0) := fun _ _ _ h => nomatch h

theorem RoundTrip.sliceRotation (x0 : Nat) (x1 : Nat) : RoundTrip.Statement (.sliceRotation x0 x1) := fun _ _ _ h => nomatch h

theorem RoundTrip.launchComplete (x0 : Nat) (x1 : Nat) : RoundTrip.Statement (.launchComplete x0 x1) := fun _ _ _ h => nomatch h

theorem RoundTrip.shadowStart (x0 : Nat) : RoundTrip.Statement (.shadowStart x0) := fun _ _ _ h => nomatch h

theorem RoundTrip.shadowCommit (x0 : Nat) : RoundTrip.Statement (.shadowCommit x0) := fun _ _ _ h => nomatch h

theorem RoundTrip.reqr (x0 : Nat) (x1 : Nat) : RoundTrip.Statement (.reqr x0 x1) := fun _ _ _ h => nomatch h

theorem RoundTrip.reqw (x0 : Nat) (x1 : Nat) : RoundTrip.Statement (.reqw x0 x1) := fun _ _ _ h => nomatch h

theorem RoundTrip.wb (x0 : Nat) (x1 : Nat) : RoundTrip.Statement (.wb x0 x1) := fun _ _ _ h => nomatch h

theorem RoundTrip.push (x0 : Nat) (x1 : Nat) : RoundTrip.Statement (.push x0 x1) := fun _ _ _ h => nomatch h

theorem RoundTrip.fwdrd (x0 : Nat) (x1 : Nat) : RoundTrip.Statement (.fwdrd x0 x1) := fun _ _ _ h => nomatch h

theorem RoundTrip.fwdwr (x0 : Nat) (x1 : Nat) : RoundTrip.Statement (.fwdwr x0 x1) := fun _ _ _ h => nomatch h

theorem RoundTrip.inv (x0 : Nat) (x1 : Nat) : RoundTrip.Statement (.inv x0 x1) := fun _ _ _ h => nomatch h

theorem RoundTrip.recall (x0 : Nat) (x1 : Nat) : RoundTrip.Statement (.recall x0 x1) := fun _ _ _ h => nomatch h

theorem RoundTrip.updin (x0 : Nat) (x1 : Nat) : RoundTrip.Statement (.updin x0 x1) := fun _ _ _ h => nomatch h

theorem RoundTrip.data (x0 : Nat) (x1 : Nat) : RoundTrip.Statement (.data x0 x1) := fun _ _ _ h => nomatch h

theorem RoundTrip.dataex (x0 : Nat) (x1 : Nat) : RoundTrip.Statement (.dataex x0 x1) := fun _ _ _ h => nomatch h

theorem RoundTrip.ack (x0 : Nat) (x1 : Nat) : RoundTrip.Statement (.ack x0 x1) := fun _ _ _ h => nomatch h

theorem RoundTrip.wbdone (x0 : Nat) (x1 : Nat) : RoundTrip.Statement (.wbdone x0 x1) := fun _ _ _ h => nomatch h

theorem RoundTrip.nack (x0 : Nat) (x1 : Nat) : RoundTrip.Statement (.nack x0 x1) := fun _ _ _ h => nomatch h

theorem RoundTrip.evi (x0 : Nat) (x1 : Nat) : RoundTrip.Statement (.evi x0 x1) := fun _ _ _ h => nomatch h

theorem RoundTrip.atsCompletion (x0 : Nat) (x1 : Nat) (x2 : Nat) (x3 : Nat) : RoundTrip.Statement (.atsCompletion x0 x1 x2 x3) := fun _ _ _ h => nomatch h

theorem RoundTrip.atsInvalidation (x0 : Nat) (x1 : Nat) (x2 : Nat) : RoundTrip.Statement (.atsInvalidation x0 x1 x2) := fun _ _ _ h => nomatch h

theorem RoundTrip.faultRingRecheck (x0 : Nat) : RoundTrip.Statement (.faultRingRecheck x0) := fun _ _ _ h => nomatch h

theorem RoundTrip.indexAccept (x0 : Nat) (x1 : Nat) : RoundTrip.Statement (.indexAccept x0 x1) := fun _ _ _ h => nomatch h

theorem RoundTrip.indexApply (x0 : Nat) (x1 : Nat) : RoundTrip.Statement (.indexApply x0 x1) := fun _ _ _ h => nomatch h

theorem RoundTrip.nloadComplete (x0 : Nat) (x1 : Nat) : RoundTrip.Statement (.nloadComplete x0 x1) := fun _ _ _ h => nomatch h

theorem RoundTrip.indexReclaim (x0 : Nat) (x1 : Nat) : RoundTrip.Statement (.indexReclaim x0 x1) := fun _ _ _ h => nomatch h

theorem RoundTrip.checkpointComplete (x0 : Nat) : RoundTrip.Statement (.checkpointComplete x0) := fun _ _ _ h => nomatch h

theorem RoundTrip.contextResetDone (x0 : Nat) : RoundTrip.Statement (.contextResetDone x0) := fun _ _ _ h => nomatch h

theorem RoundTrip.linkTrained (x0 : Nat) (x1 : Nat) : RoundTrip.Statement (.linkTrained x0 x1) := fun _ _ _ h => nomatch h

theorem RoundTrip.linkTrainingTimeout (x0 : Nat) (x1 : Nat) : RoundTrip.Statement (.linkTrainingTimeout x0 x1) := fun _ _ _ h => nomatch h

theorem RoundTrip.linkRetryLimit (x0 : Nat) (x1 : Nat) : RoundTrip.Statement (.linkRetryLimit x0 x1) := fun _ _ _ h => nomatch h

theorem RoundTrip.retrainRequest (x0 : Nat) (x1 : Nat) : RoundTrip.Statement (.retrainRequest x0 x1) := fun _ _ _ h => nomatch h

theorem RoundTrip.linkDeclaredDown (x0 : Nat) (x1 : Nat) : RoundTrip.Statement (.linkDeclaredDown x0 x1) := fun _ _ _ h => nomatch h

theorem RoundTrip.linkAutoRetrain (x0 : Nat) (x1 : Nat) : RoundTrip.Statement (.linkAutoRetrain x0 x1) := fun _ _ _ h => nomatch h

theorem RoundTrip.podBarrierLoss (x0 : Nat) : RoundTrip.Statement (.podBarrierLoss x0) := fun _ _ _ h => nomatch h

theorem RoundTrip.dieResetDone (x0 : Nat) : RoundTrip.Statement (.dieResetDone x0) := fun _ _ _ h => nomatch h

theorem RoundTrip.powerSample (x0 : Nat) : RoundTrip.Statement (.powerSample x0) := fun _ _ _ h => nomatch h

theorem RoundTrip.thermalSample (x0 : Nat) (x1 : Nat) (x2 : Nat) (x3 : Nat) : RoundTrip.Statement (.thermalSample x0 x1 x2 x3) := fun _ _ _ h => nomatch h

theorem RoundTrip.illegalInstruction (x0 : Nat) : RoundTrip.Statement (.illegalInstruction x0) := fun _ _ _ h => nomatch h

theorem RoundTrip.fetchFault : RoundTrip.Statement (.fetchFault) := fun _ _ _ h => nomatch h

end Sys2Proof.Laws
end

