-- ==== Sys2Proof/Machine/AsmTable.lean ====
section
/-!
DEFINITION. How the assembler writes each instruction (04 R83, R84): its base mnemonic, its operands in order, and the fields
that suffixes and named values set, with the value names of each family's chapter.
-/

namespace Sys2Proof.Machine

/-- An operand of an instruction, and where its value goes in the word (04 R86). -/
inductive AOp where
  | x (lo : Nat)                                  -- a scalar register
  | v (lo : Nat)                                  -- a vector register
  | imm (lo w : Nat) (signed : Bool)              -- an immediate
  | rel (lo w : Nat)                              -- a target; the field holds half the displacement
  | cnt (lo w : Nat)                              -- a count from 1, held less 1
  | sreg                                          -- a status register, by name or number
  | set (lo : Nat)                                -- a set of access kinds (07 R179)
  | mem (base off w : Nat) (sizes : List Nat)     -- [xN+off], the offset held divided by the access size
  | cell (base : Nat)                             -- [xN]
  | stack (off w : Nat)                           -- [x2+off], the offset held divided by 8
  | opt (lo : Nat)                                -- a scalar register that may be left out
  | sham (lo h : Nat)                             -- a shift count: five bits, and the sixth at `h`
  | upper (lo : Nat)                              -- hi(e), or the field's number
deriving DecidableEq, Repr

/-- A field that a suffix or name=value sets: its name, its place and width, its value names, its default, and whether the
name may stand as a suffix. A field of width 0 holds the one value 0. A default of 2^w or more says that the field must be
written, with one of its names' codes: the row is that of those codes. [DEDUCED, notes/assumptions/45.md] -/
structure AField where
  name : String
  lo : Nat
  w : Nat
  names : List (String × Nat)
  dflt : Nat
  suffix : Bool
deriving DecidableEq, Repr

/-- One way to write an instruction: the parts of its base mnemonic, its length in bytes, its word with those fields 0. -/
structure ARow where
  parts : List String
  len : Nat
  word : Nat
  ops : List AOp
  flds : List AField
deriving DecidableEq, Repr

/-- Value names in code order, from code `k` up. -/
def namesFrom (k : Nat) : List String → List (String × Nat)
  | [] => []
  | n :: ns => (n, k) :: namesFrom (k + 1) ns

/-- The value names of some codes, where a form accepts no others. -/
def only (ks : List Nat) (ns : List (String × Nat)) : List (String × Nat) := ns.filter fun p => ks.contains p.2

def intNames : List (String × Nat) := namesFrom 0 ["i8", "i16", "i32", "i64", "n8", "n16", "n32"]
def floatNames : List (String × Nat) := namesFrom 0 ["f64", "f32", "f16", "bf16", "e4", "e5", "img"]
/-- 07 R165: `lde` and `ste` take the names of both codings. -/
def bothNames : List (String × Nat) := intNames ++ floatNames
/-- 05 R127. -/
def cvtNames : List (String × Nat) := floatNames.take 6 ++ [("e8s", 6)]
def fmtNames : List (String × Nat) :=
  namesFrom 1 ["toi8", "ton8", "toi16", "ton16", "toi32", "ton32", "toi64", "ton64", "tofp64", "tofp32", "tofp16", "tobf16", "tofp8e4",
    "tofp8e5", "tofp6e3", "tofp6e2", "tofp4e2", "toi4", "ton4", "toe8s"]
/-- 02 R42. -/
def modeNames : List (String × Nat) := namesFrom 0 ["rne", "rtz", "rdn", "rup", "rna", "rsh", "rto", "dyn"]
/-- 05 R124. -/
def finNames : List (String × Nat) := namesFrom 1 ["rne", "rtz", "rdn", "rup", "rna", "rsh", "dyn"]
/-- 05 R111. -/
def cmpNames : List (String × Nat) := namesFrom 0 ["eq", "ne", "lt", "ge", "ltn", "gen", "tst"]
/-- 05 R112. -/
def selNames : List (String × Nat) := namesFrom 0 ["nz", "z", "neg", "nneg", "odd", "even"]
/-- 05 R121. -/
def skNames : List (String × Nat) := namesFrom 0 ["z", "nz", "neg", "nneg", "odd", "even"]
def scNames : List (String × Nat) := namesFrom 0 ["cl", "pk", "pd", "sy"]
/-- 07 R162, R163, R169. -/
def hintNames : List (String × Nat) := namesFrom 0 ["norm", "strm"]
def storeNames : List (String × Nat) := namesFrom 0 ["dyn", "rne", "rtz", "rsh"]
def semNames : List (String × Nat) := namesFrom 0 ["rlx", "acq", "rel", "ar"]
def wdNames : List (String × Nat) := namesFrom 0 ["b64", "b32"]
/-- 07 R180, R187. -/
def kindNames : List (String × Nat) := namesFrom 0 ["tc", "tm", "tn"]
def classNames : List (String × Nat) := namesFrom 1 ["c1", "c2", "c3", "c4", "c5", "c6", "c7"]
/-- 08 R208, R217; 09 R232. -/
def srcNames : List (String × Nat) := namesFrom 0 ["f32", "f16", "bf16", "f64"]
def offNames : List (String × Nat) := namesFrom 1 ["n1", "n2", "n3"]
def maskNames : List (String × Nat) := namesFrom 1 ["m1", "m2", "m3", "m4", "m5", "m6", "m7"]
def accNames : List (String × Nat) := namesFrom 0 ["acc0", "acc1"]
/-- 10 R262. -/
def payNames : List (String × Nat) := namesFrom 0 ["p0", "p1", "p2", "p3", "p4", "p5", "p6", "p7"]
/-- 13 R304; 15 R322; 16 R339; 21 R407. -/
def naNames : List (String × Nat) := [("na", 1)]
def nwNames : List (String × Nat) := [("nw", 1)]
def qstatNames : List (String × Nat) := namesFrom 0 ["tlc", "lseq", "state"]
def nstatNames : List (String × Nat) := namesFrom 0 ["w", "next", "st", "live", "hz"]
def holdNames : List (String × Nat) := [("hold", 0)]
def spstatNames : List (String × Nat) := [("clr", 1)]
/-- 24 R451, R447; 26 R468. -/
def tretNames : List (String × Nat) := [("kill", 1), ("frz", 2)]
def swapNames : List (String × Nat) := namesFrom 0 ["in", "fast", "out", "create", "seal", "reset"]
def lstatNames : List (String × Nat) :=
  namesFrom 0 ["stat", "quiesce", "resume", "isolate", "retrain", "relink", "clr"] ++ namesFrom 8 ["dquiesce", "dflush", "dreset", "dadmit"]
/-- Bytes that an access of each integer or float code moves; 0 where the code is none of the form's. -/
def intSizes : List Nat := [1, 2, 4, 8, 1, 2, 4]
def floatSizes : List Nat := [8, 4, 2, 2, 1, 1, 16]

/-- Rows of the instructions, part 0. -/
def asmRows0 : List ARow :=
  [⟨["add"], 4, 0x1, [.x 7, .x 12, .x 17], [⟨"w", 22, 3, intNames, 3, true⟩]⟩,
   ⟨["sub"], 4, 0x2000001, [.x 7, .x 12, .x 17], [⟨"w", 22, 3, intNames, 3, true⟩]⟩,
   ⟨["and"], 4, 0x4000001, [.x 7, .x 12, .x 17], [⟨"w", 22, 3, intNames, 3, true⟩]⟩,
   ⟨["or"], 4, 0x6000001, [.x 7, .x 12, .x 17], [⟨"w", 22, 3, intNames, 3, true⟩]⟩,
   ⟨["xor"], 4, 0x8000001, [.x 7, .x 12, .x 17], [⟨"w", 22, 3, intNames, 3, true⟩]⟩,
   ⟨["andn"], 4, 0xA000001, [.x 7, .x 12, .x 17], [⟨"w", 22, 3, intNames, 3, true⟩]⟩,
   ⟨["orn"], 4, 0xC000001, [.x 7, .x 12, .x 17], [⟨"w", 22, 3, intNames, 3, true⟩]⟩,
   ⟨["min"], 4, 0xE000001, [.x 7, .x 12, .x 17], [⟨"w", 22, 3, intNames, 3, true⟩]⟩,
   ⟨["max"], 4, 0x10000001, [.x 7, .x 12, .x 17], [⟨"w", 22, 3, intNames, 3, true⟩]⟩,
   ⟨["minn"], 4, 0x12000001, [.x 7, .x 12, .x 17], [⟨"w", 22, 3, intNames, 3, true⟩]⟩,
   ⟨["maxn"], 4, 0x14000001, [.x 7, .x 12, .x 17], [⟨"w", 22, 3, intNames, 3, true⟩]⟩,
   ⟨["adds"], 4, 0x16000001, [.x 7, .x 12, .x 17], [⟨"w", 22, 3, intNames, 3, true⟩]⟩,
   ⟨["subs"], 4, 0x18000001, [.x 7, .x 12, .x 17], [⟨"w", 22, 3, intNames, 3, true⟩]⟩,
   ⟨["absd"], 4, 0x1A000001, [.x 7, .x 12, .x 17], [⟨"w", 22, 3, intNames, 3, true⟩]⟩,
   ⟨["addi"], 4, 0x3, [.x 7, .x 12, .imm 20 12 true], []⟩,
   ⟨["andi"], 4, 0x20003, [.x 7, .x 12, .imm 20 12 true], []⟩,
   ⟨["ori"], 4, 0x40003, [.x 7, .x 12, .imm 20 12 true], []⟩,
   ⟨["xori"], 4, 0x60003, [.x 7, .x 12, .imm 20 12 true], []⟩,
   ⟨["mini"], 4, 0x80003, [.x 7, .x 12, .imm 20 12 true], []⟩,
   ⟨["maxi"], 4, 0xA0003, [.x 7, .x 12, .imm 20 12 true], []⟩,
   ⟨["sll"], 4, 0x5, [.x 7, .x 12, .x 17], [⟨"w", 22, 3, intNames, 3, true⟩]⟩,
   ⟨["sll"], 4, 0x20000005, [.x 7, .x 12, .sham 17 30], [⟨"w", 22, 3, intNames, 3, true⟩]⟩,
   ⟨["srl"], 4, 0x2000005, [.x 7, .x 12, .x 17], [⟨"w", 22, 3, intNames, 3, true⟩]⟩,
   ⟨["srl"], 4, 0x22000005, [.x 7, .x 12, .sham 17 30], [⟨"w", 22, 3, intNames, 3, true⟩]⟩]

/-- Rows of the instructions, part 1. -/
def asmRows1 : List ARow :=
  [⟨["sra"], 4, 0x4000005, [.x 7, .x 12, .x 17], [⟨"w", 22, 3, intNames, 3, true⟩]⟩,
   ⟨["sra"], 4, 0x24000005, [.x 7, .x 12, .sham 17 30], [⟨"w", 22, 3, intNames, 3, true⟩]⟩,
   ⟨["rol"], 4, 0x6000005, [.x 7, .x 12, .x 17], [⟨"w", 22, 3, intNames, 3, true⟩]⟩,
   ⟨["rol"], 4, 0x26000005, [.x 7, .x 12, .sham 17 30], [⟨"w", 22, 3, intNames, 3, true⟩]⟩,
   ⟨["ror"], 4, 0x8000005, [.x 7, .x 12, .x 17], [⟨"w", 22, 3, intNames, 3, true⟩]⟩,
   ⟨["ror"], 4, 0x28000005, [.x 7, .x 12, .sham 17 30], [⟨"w", 22, 3, intNames, 3, true⟩]⟩,
   ⟨["ext"], 4, 0xA000005, [.x 7, .x 12, .x 17], []⟩,
   ⟨["extn"], 4, 0xC000005, [.x 7, .x 12, .x 17], []⟩,
   ⟨["ins"], 4, 0xE000005, [.x 7, .x 12, .x 17], []⟩,
   ⟨["clz"], 4, 0x10000005, [.x 7, .x 12], [⟨"w", 22, 3, intNames, 3, true⟩]⟩,
   ⟨["ctz"], 4, 0x12000005, [.x 7, .x 12], [⟨"w", 22, 3, intNames, 3, true⟩]⟩,
   ⟨["pop"], 4, 0x14000005, [.x 7, .x 12], [⟨"w", 22, 3, intNames, 3, true⟩]⟩,
   ⟨["brev"], 4, 0x16000005, [.x 7, .x 12], [⟨"w", 22, 3, intNames, 3, true⟩]⟩,
   ⟨["bswap"], 4, 0x18000005, [.x 7, .x 12], [⟨"w", 22, 3, intNames, 3, true⟩]⟩,
   ⟨["cmp"], 4, 0x7, [.x 7, .x 12, .x 17], [⟨"w", 22, 3, intNames, 3, true⟩, ⟨"x", 29, 3, cmpNames, 0, true⟩]⟩,
   ⟨["csel"], 4, 0x2000007, [.x 7, .x 12, .x 17], [⟨"x", 29, 3, selNames, 0, true⟩]⟩,
   ⟨["mul"], 4, 0x9, [.x 7, .x 12, .x 17], [⟨"w", 22, 3, intNames, 3, true⟩, ⟨"la", 28, 4, [], 0, false⟩]⟩,
   ⟨["mulh"], 4, 0x2000009, [.x 7, .x 12, .x 17], [⟨"w", 22, 3, intNames, 3, true⟩, ⟨"la", 28, 4, [], 0, false⟩]⟩,
   ⟨["mulhn"], 4, 0x4000009, [.x 7, .x 12, .x 17], [⟨"w", 22, 3, intNames, 3, true⟩, ⟨"la", 28, 4, [], 0, false⟩]⟩,
   ⟨["div"], 4, 0x6000009, [.x 7, .x 12, .x 17], [⟨"w", 22, 3, intNames, 3, true⟩, ⟨"la", 28, 4, [], 0, false⟩]⟩,
   ⟨["divn"], 4, 0x8000009, [.x 7, .x 12, .x 17], [⟨"w", 22, 3, intNames, 3, true⟩, ⟨"la", 28, 4, [], 0, false⟩]⟩,
   ⟨["rem"], 4, 0xA000009, [.x 7, .x 12, .x 17], [⟨"w", 22, 3, intNames, 3, true⟩, ⟨"la", 28, 4, [], 0, false⟩]⟩,
   ⟨["remn"], 4, 0xC000009, [.x 7, .x 12, .x 17], [⟨"w", 22, 3, intNames, 3, true⟩, ⟨"la", 28, 4, [], 0, false⟩]⟩,
   ⟨["ldhi"], 4, 0xB, [.x 7, .upper 12], []⟩]

/-- Rows of the instructions, part 2. -/
def asmRows2 : List ARow :=
  [⟨["pcrel"], 4, 0xD, [.x 7, .upper 12], []⟩,
   ⟨["ptag"], 4, 0xF, [.x 7, .x 12, .x 17], []⟩,
   ⟨["padd"], 4, 0x200000F, [.x 7, .x 12, .x 17], []⟩,
   ⟨["psub"], 4, 0x400000F, [.x 7, .x 12, .x 17], []⟩,
   ⟨["pfmt"], 4, 0x600000F, [.x 7, .x 12], []⟩,
   ⟨["pclr"], 4, 0x800000F, [.x 7, .x 12], []⟩,
   ⟨["beq"], 4, 0x11, [.x 7, .x 12, .rel 20 12], []⟩,
   ⟨["bne"], 4, 0x20011, [.x 7, .x 12, .rel 20 12], []⟩,
   ⟨["blt"], 4, 0x40011, [.x 7, .x 12, .rel 20 12], []⟩,
   ⟨["bge"], 4, 0x60011, [.x 7, .x 12, .rel 20 12], []⟩,
   ⟨["bltn"], 4, 0x80011, [.x 7, .x 12, .rel 20 12], []⟩,
   ⟨["bgen"], 4, 0xA0011, [.x 7, .x 12, .rel 20 12], []⟩,
   ⟨["bbs"], 4, 0xC0011, [.x 7, .x 12, .rel 20 12], []⟩,
   ⟨["bbc"], 4, 0xE0011, [.x 7, .x 12, .rel 20 12], []⟩,
   ⟨["jl"], 4, 0x13, [.x 7, .rel 12 20], []⟩,
   ⟨["jlr"], 4, 0x15, [.x 7, .x 12, .imm 20 12 true], []⟩,
   ⟨["c", "mv"], 2, 0x0, [.x 5, .x 10], []⟩,
   ⟨["c", "add"], 2, 0x8000, [.x 5, .x 10], []⟩,
   ⟨["c", "sub"], 2, 0x2, [.x 5, .x 10], []⟩,
   ⟨["c", "xor"], 2, 0x8002, [.x 5, .x 10], []⟩,
   ⟨["c", "addi"], 2, 0x4, [.x 5, .imm 10 6 true], []⟩,
   ⟨["c", "li"], 2, 0x6, [.x 5, .imm 10 6 true], []⟩,
   ⟨["c", "ld"], 2, 0x8, [.x 5, .stack 10 6], []⟩,
   ⟨["c", "st"], 2, 0xA, [.x 5, .stack 10 6], []⟩]

/-- Rows of the instructions, part 3. -/
def asmRows3 : List ARow :=
  [⟨["c", "bz"], 2, 0xC, [.x 5, .rel 10 6], []⟩,
   ⟨["c", "bnz"], 2, 0xE, [.x 5, .rel 10 6], []⟩,
   ⟨["c", "sk"], 2, 0x10, [.x 5, .cnt 10 3], [⟨"cond", 13, 3, skNames, 0, true⟩]⟩,
   ⟨["c", "sll"], 2, 0x12, [.x 5, .imm 10 5 false], []⟩,
   ⟨["c", "srl"], 2, 0x8012, [.x 5, .imm 10 5 false], []⟩,
   ⟨["c", "sra"], 2, 0x14, [.x 5, .imm 10 5 false], []⟩,
   ⟨["c", "andi"], 2, 0x8014, [.x 5, .imm 10 5 true], []⟩,
   ⟨["c", "j"], 2, 0x16, [.rel 5 11], []⟩,
   ⟨["c", "jr"], 2, 0x18, [.x 10], []⟩,
   ⟨["c", "jlr"], 2, 0x8018, [.x 5, .x 10], []⟩,
   ⟨["fadd"], 4, 0x31, [.x 7, .x 12, .x 17], [⟨"w", 22, 3, floatNames, 1, true⟩, ⟨"x", 29, 3, finNames, 0, true⟩]⟩,
   ⟨["fsub"], 4, 0x2000031, [.x 7, .x 12, .x 17], [⟨"w", 22, 3, floatNames, 1, true⟩, ⟨"x", 29, 3, finNames, 0, true⟩]⟩,
   ⟨["fmul"], 4, 0x4000031, [.x 7, .x 12, .x 17], [⟨"w", 22, 3, floatNames, 1, true⟩, ⟨"x", 29, 3, finNames, 0, true⟩]⟩,
   ⟨["fmin"], 4, 0x6000031, [.x 7, .x 12, .x 17], [⟨"w", 22, 3, floatNames, 1, true⟩, ⟨"x", 29, 3, finNames, 0, true⟩]⟩,
   ⟨["fmax"], 4, 0x8000031, [.x 7, .x 12, .x 17], [⟨"w", 22, 3, floatNames, 1, true⟩, ⟨"x", 29, 3, finNames, 0, true⟩]⟩,
   ⟨["fsgn"], 4, 0xA000031, [.x 7, .x 12, .x 17], [⟨"w", 22, 3, floatNames, 1, true⟩]⟩,
   ⟨["ffma"], 4, 0x33, [.x 7, .x 12, .x 17], [⟨"w", 22, 3, floatNames, 1, true⟩, ⟨"la", 28, 4, [], 0, false⟩]⟩,
   ⟨["fdiv"], 4, 0x2000033, [.x 7, .x 12, .x 17], [⟨"w", 22, 3, floatNames, 1, true⟩, ⟨"la", 28, 4, [], 0, false⟩]⟩,
   ⟨["fsqrt"], 4, 0x4000033, [.x 7, .x 12], [⟨"w", 22, 3, floatNames, 1, true⟩, ⟨"la", 28, 4, [], 0, false⟩]⟩,
   ⟨["fcvt"], 4, 0x35, [.x 7, .x 12], [⟨"b", 17, 5, (only [9, 10, 11, 12, 13, 14, 15, 16, 17, 20] fmtNames), 0, true⟩, ⟨"w", 22, 3, cvtNames, 1, true⟩, ⟨"x", 29, 3, finNames, 0, true⟩]⟩,
   ⟨["fcvti"], 4, 0x2000035, [.x 7, .x 12], [⟨"b", 17, 5, (only [1, 2, 3, 4, 5, 6, 7, 8, 18, 19] fmtNames), 0, true⟩, ⟨"w", 22, 3, floatNames, 1, true⟩, ⟨"x", 29, 3, (only [1, 2, 3, 4, 5, 7] finNames), 0, true⟩]⟩,
   ⟨["icvtf"], 4, 0x4000035, [.x 7, .x 12], [⟨"b", 17, 5, (only [9, 10, 11, 12, 13, 14, 15, 16, 17] fmtNames), 0, true⟩, ⟨"w", 22, 3, intNames, 3, true⟩, ⟨"x", 29, 3, finNames, 0, true⟩]⟩,
   ⟨["fin"], 4, 0x6000035, [.x 7, .x 12], [⟨"b", 17, 3, modeNames, 0, true⟩, ⟨"w", 22, 3, floatNames, 1, true⟩]⟩,
   ⟨["feq"], 4, 0x37, [.x 7, .x 12, .x 17], [⟨"w", 22, 3, floatNames, 1, true⟩]⟩]

/-- Rows of the instructions, part 4. -/
def asmRows4 : List ARow :=
  [⟨["flt"], 4, 0x2000037, [.x 7, .x 12, .x 17], [⟨"w", 22, 3, floatNames, 1, true⟩]⟩,
   ⟨["fle"], 4, 0x4000037, [.x 7, .x 12, .x 17], [⟨"w", 22, 3, floatNames, 1, true⟩]⟩,
   ⟨["fclass"], 4, 0x6000037, [.x 7, .x 12], [⟨"w", 22, 3, floatNames, 1, true⟩]⟩,
   ⟨["tget"], 4, 0x39, [.x 7, .x 12], []⟩,
   ⟨["tset"], 4, 0x2000039, [.x 7, .x 12, .x 17], []⟩,
   ⟨["ld"], 4, 0x21, [.x 7, .mem 12 24 8 intSizes], [⟨"w", 17, 3, intNames, 3, true⟩, ⟨"la", 20, 4, [], 0, false⟩]⟩,
   ⟨["lda"], 4, 0x23, [.x 7, .mem 12 26 6 intSizes], [⟨"w", 17, 3, intNames, 3, true⟩, ⟨"sc", 20, 2, scNames, 3, true⟩, ⟨"la", 22, 4, [], 0, false⟩]⟩,
   ⟨["st"], 4, 0x25, [.x 7, .mem 12 22 10 intSizes], [⟨"w", 17, 3, intNames, 3, true⟩, ⟨"hint", 20, 2, hintNames, 0, true⟩]⟩,
   ⟨["str"], 4, 0x27, [.x 7, .mem 12 22 10 intSizes], [⟨"w", 17, 3, intNames, 3, true⟩, ⟨"sc", 20, 2, scNames, 3, true⟩]⟩,
   ⟨["stf"], 4, 0x29, [.x 7, .mem 12 22 10 floatSizes], [⟨"w", 17, 3, floatNames, 1, true⟩, ⟨"rm", 20, 2, storeNames, 0, true⟩]⟩,
   ⟨["ldx"], 4, 0x17, [.x 7, .x 12, .x 17], [⟨"w", 22, 3, intNames, 3, true⟩, ⟨"la", 28, 4, [], 0, false⟩]⟩,
   ⟨["stx"], 4, 0x2000017, [.x 7, .x 12, .x 17], [⟨"w", 22, 3, intNames, 3, true⟩, ⟨"la", 28, 0, [], 0, false⟩]⟩,
   ⟨["ldxr"], 4, 0x4000017, [.x 7, .x 12, .x 17], [⟨"w", 22, 3, intNames, 3, true⟩, ⟨"la", 28, 4, [], 0, false⟩]⟩,
   ⟨["lde"], 4, 0x6000017, [.x 7, .x 12, .x 17], [⟨"w", 22, 3, bothNames, 3, true⟩, ⟨"la", 28, 4, [], 0, false⟩]⟩,
   ⟨["ste"], 4, 0x8000017, [.x 7, .x 12, .x 17], [⟨"w", 22, 3, bothNames, 3, true⟩, ⟨"la", 28, 0, [], 0, false⟩]⟩,
   ⟨["amoswap"], 4, 0x2B, [.x 7, .cell 12], [⟨"wd", 21, 1, wdNames, 0, true⟩, ⟨"sem", 22, 2, semNames, 0, true⟩, ⟨"sc", 24, 2, scNames, 3, true⟩, ⟨"la", 26, 4, [], 0, false⟩]⟩,
   ⟨["amoadd"], 4, 0x2002B, [.x 7, .cell 12], [⟨"wd", 21, 1, wdNames, 0, true⟩, ⟨"sem", 22, 2, semNames, 0, true⟩, ⟨"sc", 24, 2, scNames, 3, true⟩, ⟨"la", 26, 4, [], 0, false⟩]⟩,
   ⟨["amoand"], 4, 0x4002B, [.x 7, .cell 12], [⟨"wd", 21, 1, wdNames, 0, true⟩, ⟨"sem", 22, 2, semNames, 0, true⟩, ⟨"sc", 24, 2, scNames, 3, true⟩, ⟨"la", 26, 4, [], 0, false⟩]⟩,
   ⟨["amoor"], 4, 0x6002B, [.x 7, .cell 12], [⟨"wd", 21, 1, wdNames, 0, true⟩, ⟨"sem", 22, 2, semNames, 0, true⟩, ⟨"sc", 24, 2, scNames, 3, true⟩, ⟨"la", 26, 4, [], 0, false⟩]⟩,
   ⟨["amoxor"], 4, 0x8002B, [.x 7, .cell 12], [⟨"wd", 21, 1, wdNames, 0, true⟩, ⟨"sem", 22, 2, semNames, 0, true⟩, ⟨"sc", 24, 2, scNames, 3, true⟩, ⟨"la", 26, 4, [], 0, false⟩]⟩,
   ⟨["amomin"], 4, 0xA002B, [.x 7, .cell 12], [⟨"wd", 21, 1, wdNames, 0, true⟩, ⟨"sem", 22, 2, semNames, 0, true⟩, ⟨"sc", 24, 2, scNames, 3, true⟩, ⟨"la", 26, 4, [], 0, false⟩]⟩,
   ⟨["amomax"], 4, 0xC002B, [.x 7, .cell 12], [⟨"wd", 21, 1, wdNames, 0, true⟩, ⟨"sem", 22, 2, semNames, 0, true⟩, ⟨"sc", 24, 2, scNames, 3, true⟩, ⟨"la", 26, 4, [], 0, false⟩]⟩,
   ⟨["amominn"], 4, 0xE002B, [.x 7, .cell 12], [⟨"wd", 21, 1, wdNames, 0, true⟩, ⟨"sem", 22, 2, semNames, 0, true⟩, ⟨"sc", 24, 2, scNames, 3, true⟩, ⟨"la", 26, 4, [], 0, false⟩]⟩,
   ⟨["amomaxn"], 4, 0x10002B, [.x 7, .cell 12], [⟨"wd", 21, 1, wdNames, 0, true⟩, ⟨"sem", 22, 2, semNames, 0, true⟩, ⟨"sc", 24, 2, scNames, 3, true⟩, ⟨"la", 26, 4, [], 0, false⟩]⟩]

/-- Rows of the instructions, part 5. -/
def asmRows5 : List ARow :=
  [⟨["amocas"], 4, 0x12002B, [.x 7, .cell 12], [⟨"wd", 21, 1, wdNames, 0, true⟩, ⟨"sem", 22, 2, semNames, 0, true⟩, ⟨"sc", 24, 2, scNames, 3, true⟩, ⟨"la", 26, 4, [], 0, false⟩]⟩,
   ⟨["amfadd"], 4, 0x2D, [.x 7, .cell 12], [⟨"wd", 21, 1, wdNames, 0, true⟩, ⟨"sem", 22, 2, semNames, 0, true⟩, ⟨"sc", 24, 2, scNames, 3, true⟩, ⟨"la", 26, 4, [], 0, false⟩]⟩,
   ⟨["amfmin"], 4, 0x2002D, [.x 7, .cell 12], [⟨"wd", 21, 1, wdNames, 0, true⟩, ⟨"sem", 22, 2, semNames, 0, true⟩, ⟨"sc", 24, 2, scNames, 3, true⟩, ⟨"la", 26, 4, [], 0, false⟩]⟩,
   ⟨["amfmax"], 4, 0x4002D, [.x 7, .cell 12], [⟨"wd", 21, 1, wdNames, 0, true⟩, ⟨"sem", 22, 2, semNames, 0, true⟩, ⟨"sc", 24, 2, scNames, 3, true⟩, ⟨"la", 26, 4, [], 0, false⟩]⟩,
   ⟨["radd"], 4, 0x6002D, [.x 7, .cell 12], [⟨"wd", 21, 1, wdNames, 0, true⟩, ⟨"la", 26, 4, [], 0, false⟩]⟩,
   ⟨["rflush"], 4, 0x8002D, [.cell 12], [⟨"sc", 24, 2, scNames, 3, true⟩, ⟨"la", 26, 4, [], 0, false⟩]⟩,
   ⟨["ldres"], 4, 0xA002D, [.x 7, .cell 12], [⟨"wd", 21, 1, wdNames, 0, true⟩, ⟨"sem", 22, 2, (only [0, 1] semNames), 0, true⟩, ⟨"sc", 24, 2, scNames, 3, true⟩, ⟨"la", 26, 4, [], 0, false⟩]⟩,
   ⟨["stcond"], 4, 0xC002D, [.x 7, .cell 12], [⟨"wd", 21, 1, wdNames, 0, true⟩, ⟨"sem", 22, 2, (only [0, 2] semNames), 0, true⟩, ⟨"sc", 24, 2, scNames, 3, true⟩, ⟨"la", 26, 4, [], 0, false⟩]⟩,
   ⟨["raddi"], 4, 0xE002D, [.x 7, .cell 12], [⟨"wd", 21, 1, wdNames, 0, true⟩, ⟨"la", 26, 4, [], 0, false⟩]⟩,
   ⟨["fencecore"], 4, 0x2F, [.set 12, .set 20], []⟩,
   ⟨["fencequad"], 4, 0x1000002F, [.set 12, .set 20], []⟩,
   ⟨["fencecl"], 4, 0x2000002F, [.set 12, .set 20], []⟩,
   ⟨["fencedie"], 4, 0x3000002F, [.set 12, .set 20], []⟩,
   ⟨["fencepk"], 4, 0x4000002F, [.set 12, .set 20], []⟩,
   ⟨["fencepd"], 4, 0x5000002F, [.set 12, .set 20], []⟩,
   ⟨["fence"], 4, 0x6000002F, [.set 12, .set 20], []⟩,
   ⟨["tlwait"], 4, 0xAF, [.x 12], [⟨"kind", 17, 3, kindNames, 0, true⟩]⟩,
   ⟨["tltest"], 4, 0x12F, [.x 20, .x 12], [⟨"kind", 17, 3, kindNames, 0, true⟩]⟩,
   ⟨["hint"], 4, 0xC2F, [.imm 7 3 false], []⟩,
   ⟨["cpy"], 4, 0x69, [.x 7, .x 12, .x 17], [⟨"q", 25, 3, classNames, 0, true⟩, ⟨"la", 28, 4, [], 0, false⟩]⟩,
   ⟨["cpyt"], 4, 0x400069, [.x 7, .x 12, .x 17], [⟨"q", 25, 3, classNames, 0, true⟩, ⟨"la", 28, 4, [], 0, false⟩]⟩,
   ⟨["cpyg"], 4, 0x800069, [.x 7, .x 12, .x 17], [⟨"q", 25, 3, classNames, 0, true⟩, ⟨"la", 28, 4, [], 0, false⟩]⟩,
   ⟨["trread"], 4, 0x75, [.x 7, .x 12], []⟩,
   ⟨["vclaim"], 4, 0x41, [.x 7, .x 12, .imm 20 12 true], []⟩]

/-- Rows of the instructions, part 6. -/
def asmRows6 : List ARow :=
  [⟨["vrel"], 4, 0x20041, [], []⟩,
   ⟨["vlen"], 4, 0x40041, [.x 7, .x 12, .imm 20 12 true], []⟩,
   ⟨["vsplat"], 4, 0x60041, [.v 7, .x 12, .imm 20 12 true], []⟩,
   ⟨["vadd"], 4, 0x43, [.v 7, .v 12, .v 17], [⟨"w", 22, 3, intNames, 3, true⟩, ⟨"m", 29, 3, maskNames, 0, true⟩]⟩,
   ⟨["vsub"], 4, 0x2000043, [.v 7, .v 12, .v 17], [⟨"w", 22, 3, intNames, 3, true⟩, ⟨"m", 29, 3, maskNames, 0, true⟩]⟩,
   ⟨["vand"], 4, 0x4000043, [.v 7, .v 12, .v 17], [⟨"w", 22, 3, intNames, 3, true⟩, ⟨"m", 29, 3, maskNames, 0, true⟩]⟩,
   ⟨["vor"], 4, 0x6000043, [.v 7, .v 12, .v 17], [⟨"w", 22, 3, intNames, 3, true⟩, ⟨"m", 29, 3, maskNames, 0, true⟩]⟩,
   ⟨["vxor"], 4, 0x8000043, [.v 7, .v 12, .v 17], [⟨"w", 22, 3, intNames, 3, true⟩, ⟨"m", 29, 3, maskNames, 0, true⟩]⟩,
   ⟨["vmin"], 4, 0xA000043, [.v 7, .v 12, .v 17], [⟨"w", 22, 3, intNames, 3, true⟩, ⟨"m", 29, 3, maskNames, 0, true⟩]⟩,
   ⟨["vmax"], 4, 0xC000043, [.v 7, .v 12, .v 17], [⟨"w", 22, 3, intNames, 3, true⟩, ⟨"m", 29, 3, maskNames, 0, true⟩]⟩,
   ⟨["vadds"], 4, 0xE000043, [.v 7, .v 12, .v 17], [⟨"w", 22, 3, intNames, 3, true⟩, ⟨"m", 29, 3, maskNames, 0, true⟩]⟩,
   ⟨["vsubs"], 4, 0x10000043, [.v 7, .v 12, .v 17], [⟨"w", 22, 3, intNames, 3, true⟩, ⟨"m", 29, 3, maskNames, 0, true⟩]⟩,
   ⟨["vmul"], 4, 0x12000043, [.v 7, .v 12, .v 17], [⟨"w", 22, 3, intNames, 3, true⟩, ⟨"m", 29, 3, maskNames, 0, true⟩]⟩,
   ⟨["vsll"], 4, 0x14000043, [.v 7, .v 12, .v 17], [⟨"w", 22, 3, intNames, 3, true⟩, ⟨"m", 29, 3, maskNames, 0, true⟩]⟩,
   ⟨["vsrl"], 4, 0x16000043, [.v 7, .v 12, .v 17], [⟨"w", 22, 3, intNames, 3, true⟩, ⟨"m", 29, 3, maskNames, 0, true⟩]⟩,
   ⟨["vsra"], 4, 0x18000043, [.v 7, .v 12, .v 17], [⟨"w", 22, 3, intNames, 3, true⟩, ⟨"m", 29, 3, maskNames, 0, true⟩]⟩,
   ⟨["vcmpeq"], 4, 0x1A000043, [.x 7, .v 12, .v 17], [⟨"w", 22, 3, intNames, 3, true⟩, ⟨"m", 29, 3, maskNames, 0, true⟩]⟩,
   ⟨["vcmplt"], 4, 0x1C000043, [.x 7, .v 12, .v 17], [⟨"w", 22, 3, intNames, 3, true⟩, ⟨"m", 29, 3, maskNames, 0, true⟩]⟩,
   ⟨["vcmple"], 4, 0x1E000043, [.x 7, .v 12, .v 17], [⟨"w", 22, 3, intNames, 3, true⟩, ⟨"m", 29, 3, maskNames, 0, true⟩]⟩,
   ⟨["vfadd"], 4, 0x45, [.v 7, .v 12, .v 17], [⟨"w", 22, 3, floatNames, 1, true⟩, ⟨"m", 29, 3, maskNames, 0, true⟩]⟩,
   ⟨["vfsub"], 4, 0x2000045, [.v 7, .v 12, .v 17], [⟨"w", 22, 3, floatNames, 1, true⟩, ⟨"m", 29, 3, maskNames, 0, true⟩]⟩,
   ⟨["vfmul"], 4, 0x4000045, [.v 7, .v 12, .v 17], [⟨"w", 22, 3, floatNames, 1, true⟩, ⟨"m", 29, 3, maskNames, 0, true⟩]⟩,
   ⟨["vfmin"], 4, 0x6000045, [.v 7, .v 12, .v 17], [⟨"w", 22, 3, floatNames, 1, true⟩, ⟨"m", 29, 3, maskNames, 0, true⟩]⟩,
   ⟨["vfmax"], 4, 0x8000045, [.v 7, .v 12, .v 17], [⟨"w", 22, 3, floatNames, 1, true⟩, ⟨"m", 29, 3, maskNames, 0, true⟩]⟩]

/-- Rows of the instructions, part 7. -/
def asmRows7 : List ARow :=
  [⟨["vfsgn"], 4, 0xA000045, [.v 7, .v 12, .v 17], [⟨"w", 22, 3, floatNames, 1, true⟩, ⟨"m", 29, 3, maskNames, 0, true⟩]⟩,
   ⟨["vfeq"], 4, 0xC000045, [.x 7, .v 12, .v 17], [⟨"w", 22, 3, floatNames, 1, true⟩, ⟨"m", 29, 3, maskNames, 0, true⟩]⟩,
   ⟨["vflt"], 4, 0xE000045, [.x 7, .v 12, .v 17], [⟨"w", 22, 3, floatNames, 1, true⟩, ⟨"m", 29, 3, maskNames, 0, true⟩]⟩,
   ⟨["vfle"], 4, 0x10000045, [.x 7, .v 12, .v 17], [⟨"w", 22, 3, floatNames, 1, true⟩, ⟨"m", 29, 3, maskNames, 0, true⟩]⟩,
   ⟨["vffma"], 4, 0x47, [.v 7, .v 12, .v 17], [⟨"w", 22, 3, floatNames, 1, true⟩, ⟨"la", 28, 4, [], 0, false⟩]⟩,
   ⟨["vfdiv"], 4, 0x2000047, [.v 7, .v 12, .v 17], [⟨"w", 22, 3, floatNames, 1, true⟩, ⟨"la", 28, 4, [], 0, false⟩]⟩,
   ⟨["vfsqrt"], 4, 0x4000047, [.v 7, .v 12], [⟨"w", 22, 3, floatNames, 1, true⟩, ⟨"la", 28, 4, [], 0, false⟩]⟩,
   ⟨["vcvt"], 4, 0x49, [.v 7, .v 12], [⟨"b", 17, 5, (only [9, 10, 11, 12] fmtNames), 0, true⟩, ⟨"w", 22, 3, floatNames, 1, true⟩, ⟨"m", 29, 3, maskNames, 0, true⟩]⟩,
   ⟨["vicvtf"], 4, 0x2000049, [.v 7, .v 12], [⟨"b", 17, 5, (only [9, 10, 11, 12] fmtNames), 0, true⟩, ⟨"w", 22, 3, intNames, 3, true⟩, ⟨"m", 29, 3, maskNames, 0, true⟩]⟩,
   ⟨["vfcvti"], 4, 0x4000049, [.v 7, .v 12], [⟨"b", 17, 5, (only [3, 4, 5, 6] fmtNames), 0, true⟩, ⟨"w", 22, 3, floatNames, 1, true⟩, ⟨"m", 29, 3, maskNames, 0, true⟩]⟩,
   ⟨["vfin"], 4, 0x6000049, [.v 7, .v 12], [⟨"b", 17, 3, modeNames, 0, true⟩, ⟨"w", 22, 3, floatNames, 1, true⟩, ⟨"m", 29, 3, maskNames, 0, true⟩]⟩,
   ⟨["vtget"], 4, 0x8000049, [.v 7, .v 12], [⟨"m", 29, 3, maskNames, 0, true⟩]⟩,
   ⟨["vtset"], 4, 0xA000049, [.v 7, .v 12, .v 17], [⟨"m", 29, 3, maskNames, 0, true⟩]⟩,
   ⟨["vperm"], 4, 0x4B, [.v 7, .v 12, .v 17], [⟨"m", 29, 3, maskNames, 0, true⟩]⟩,
   ⟨["vslide"], 4, 0x200004B, [.v 7, .v 12, .x 17], [⟨"m", 29, 3, maskNames, 0, true⟩]⟩,
   ⟨["vbcast"], 4, 0x400004B, [.v 7, .v 12, .x 17], [⟨"m", 29, 3, maskNames, 0, true⟩]⟩,
   ⟨["vnbr"], 4, 0x600004B, [.v 7, .v 12], [⟨"w", 22, 3, offNames, 0, true⟩, ⟨"m", 29, 3, maskNames, 0, true⟩]⟩,
   ⟨["vcomp"], 4, 0x800004B, [.v 7, .v 12], [⟨"m", 29, 3, maskNames, 0, true⟩]⟩,
   ⟨["vexpd"], 4, 0xA00004B, [.v 7, .v 12], [⟨"m", 29, 3, maskNames, 0, true⟩]⟩,
   ⟨["vget"], 4, 0xC00004B, [.x 7, .v 12, .x 17], [⟨"m", 29, 3, maskNames, 0, true⟩]⟩,
   ⟨["vput"], 4, 0xE00004B, [.v 7, .x 12, .x 17], [⟨"m", 29, 3, maskNames, 0, true⟩]⟩,
   ⟨["vred"], 4, 0x4D, [.x 7, .v 12, .x 17], [⟨"w", 22, 3, intNames, 3, true⟩, ⟨"la", 28, 4, [], 0, false⟩]⟩,
   ⟨["vfred"], 4, 0x200004D, [.x 7, .v 12, .x 17], [⟨"w", 22, 3, floatNames, 1, true⟩, ⟨"la", 28, 4, [], 0, false⟩]⟩,
   ⟨["vscan"], 4, 0x400004D, [.v 7, .v 12, .x 17], [⟨"w", 22, 3, intNames, 3, true⟩, ⟨"la", 28, 4, [], 0, false⟩]⟩]

/-- Rows of the instructions, part 8. -/
def asmRows8 : List ARow :=
  [⟨["vfscan"], 4, 0x600004D, [.v 7, .v 12, .x 17], [⟨"w", 22, 3, floatNames, 1, true⟩, ⟨"la", 28, 4, [], 0, false⟩]⟩,
   ⟨["vsort"], 4, 0x800004D, [.v 7, .v 12, .x 17], [⟨"w", 22, 3, floatNames, 1, true⟩, ⟨"la", 28, 4, [], 0, false⟩]⟩,
   ⟨["vsorti"], 4, 0xA00004D, [.v 7, .v 12, .x 17], [⟨"w", 22, 3, intNames, 3, true⟩, ⟨"la", 28, 4, [], 0, false⟩]⟩,
   ⟨["vtopk"], 4, 0xC00004D, [.v 7, .v 12, .x 17], [⟨"w", 22, 3, floatNames, 1, true⟩, ⟨"la", 28, 4, [], 0, false⟩]⟩,
   ⟨["vld"], 4, 0x4F, [.v 7, .cell 12, .opt 17], [⟨"w", 22, 3, floatNames, 1, true⟩, ⟨"la", 28, 4, [], 0, false⟩]⟩,
   ⟨["vst"], 4, 0x200004F, [.v 7, .cell 12, .opt 17], [⟨"w", 22, 3, floatNames, 1, true⟩, ⟨"la", 28, 0, [], 0, false⟩]⟩,
   ⟨["vlds"], 4, 0x400004F, [.v 7, .cell 12, .x 17], [⟨"w", 22, 3, floatNames, 1, true⟩, ⟨"la", 28, 4, [], 0, false⟩]⟩,
   ⟨["vstf"], 4, 0x600004F, [.v 7, .cell 12], [⟨"rm", 17, 3, modeNames, 7, false⟩, ⟨"src", 20, 2, srcNames, 0, false⟩, ⟨"w", 22, 3, floatNames, 1, true⟩, ⟨"la", 28, 0, [], 0, false⟩]⟩,
   ⟨["vgat"], 4, 0x51, [.v 7, .x 12, .v 17], [⟨"la", 28, 4, [], 0, false⟩]⟩,
   ⟨["vsca"], 4, 0x2000051, [.v 7, .x 12, .v 17], [⟨"la", 28, 0, [], 0, false⟩]⟩,
   ⟨["vldt"], 4, 0x4000051, [.v 7, .x 12, .x 17], [⟨"la", 28, 4, [], 0, false⟩]⟩,
   ⟨["vpoly"], 4, 0x53, [.v 7, .v 12], [⟨"w", 22, 3, floatNames, 1, true⟩, ⟨"la", 28, 4, [], 0, false⟩]⟩,
   ⟨["ppload"], 4, 0x2000053, [.x 12], [⟨"la", 28, 0, [], 0, false⟩]⟩,
   ⟨["gang"], 4, 0x19, [.x 12, .x 17], []⟩,
   ⟨["gmeet"], 4, 0x2000019, [.x 12], []⟩,
   ⟨["gleave"], 4, 0x4000019, [], []⟩,
   ⟨["mloads"], 4, 0x59, [.x 7, .x 12, .x 17], [⟨"la", 28, 4, [], 0, false⟩]⟩,
   ⟨["mswap"], 4, 0x400059, [.x 7], [⟨"la", 28, 4, [], 0, false⟩]⟩,
   ⟨["mstream"], 4, 0x5B, [.x 7, .x 12, .x 17], [⟨"q", 25, 1, accNames, 0, true⟩, ⟨"la", 28, 4, [], 0, false⟩]⟩,
   ⟨["mzero"], 4, 0x5D, [.x 7], [⟨"q", 25, 1, accNames, 0, true⟩, ⟨"la", 28, 4, [], 0, false⟩]⟩,
   ⟨["mread"], 4, 0x40005D, [.v 7, .x 12], [⟨"q", 25, 1, accNames, 0, true⟩, ⟨"la", 28, 4, [], 0, false⟩]⟩,
   ⟨["mstore"], 4, 0x80005D, [.x 7, .x 12, .x 17], [⟨"q", 25, 1, accNames, 0, true⟩, ⟨"la", 28, 4, [], 0, false⟩]⟩,
   ⟨["mscale"], 4, 0xC0005D, [.x 7], [⟨"q", 25, 1, accNames, 0, true⟩, ⟨"la", 28, 4, [], 0, false⟩]⟩,
   ⟨["mweight"], 4, 0x5F, [.imm 20 12 true], []⟩]

/-- Rows of the instructions, part 9. -/
def asmRows9 : List ARow :=
  [⟨["mstat"], 4, 0x2005F, [.x 7], []⟩,
   ⟨["send"], 4, 0x1B, [.x 7, .x 12, .x 17], [⟨"w", 22, 3, payNames, 0, true⟩, ⟨"la", 28, 4, [], 0, false⟩]⟩,
   ⟨["sendw"], 4, 0x200001B, [.x 7, .x 12, .x 17], [⟨"w", 22, 3, payNames, 0, true⟩, ⟨"la", 28, 4, [], 0, false⟩]⟩,
   ⟨["halt"], 4, 0x400001B, [], [⟨"la", 28, 0, [], 0, false⟩]⟩,
   ⟨["nop"], 2, 0x1A, [], []⟩,
   ⟨["yield"], 2, 0x201A, [], []⟩,
   ⟨["brk"], 2, 0x401A, [], []⟩,
   ⟨["hret"], 2, 0x601A, [], []⟩,
   ⟨["cnew"], 4, 0x1D, [.x 7, .x 12, .x 17], [⟨"la", 28, 4, [], 0, false⟩]⟩,
   ⟨["cdec"], 4, 0x200001D, [.x 12], [⟨"la", 28, 0, [], 0, false⟩]⟩,
   ⟨["cspawn"], 4, 0x400001D, [.x 7, .x 12, .x 17], [⟨"w", 22, 3, (payNames.take 4), 0, true⟩, ⟨"la", 28, 4, [], 0, false⟩]⟩,
   ⟨["cjoin"], 4, 0x600001D, [.x 7, .x 12, .x 17], [⟨"la", 28, 4, [], 0, false⟩]⟩,
   ⟨["cdone"], 4, 0x800001D, [.x 12], [⟨"la", 28, 0, [], 0, false⟩]⟩,
   ⟨["binit"], 4, 0x71, [.x 12, .x 17], []⟩,
   ⟨["barr"], 4, 0x2000071, [.x 7, .x 12], [⟨"x", 29, 1, naNames, 0, true⟩]⟩,
   ⟨["bwait"], 4, 0x4000071, [.x 12, .x 17], []⟩,
   ⟨["btest"], 4, 0x6000071, [.x 7, .x 12, .x 17], []⟩,
   ⟨["pacq"], 4, 0x6B, [.x 7, .x 12], [⟨"q", 25, 1, nwNames, 0, true⟩, ⟨"la", 28, 0, [], 0, false⟩]⟩,
   ⟨["prel"], 4, 0x40006B, [.x 12, .x 17], [⟨"la", 28, 0, [], 0, false⟩]⟩,
   ⟨["pfill"], 4, 0x80006B, [.x 7, .x 12, .x 17], [⟨"q", 25, 3, classNames, 0, true⟩, ⟨"la", 28, 0, [], 0, false⟩]⟩,
   ⟨["qlaunch"], 4, 0x73, [.x 7, .x 12, .x 17], [⟨"la", 28, 4, [], 0, false⟩]⟩,
   ⟨["qstat"], 4, 0x400073, [.x 7, .x 12], [⟨"q", 25, 3, qstatNames, 0, true⟩, ⟨"la", 28, 4, [], 0, false⟩]⟩,
   ⟨["spstat"], 4, 0x1C00073, [.x 7, .x 12, .x 17], [⟨"q", 25, 3, spstatNames, 0, true⟩, ⟨"la", 28, 4, [], 0, false⟩]⟩]

/-- Rows of the instructions, part 10. -/
def asmRows10 : List ARow :=
  [⟨["spstat"], 4, 0x1C00073, [.x 7, .x 12], [⟨"q", 25, 3, [("st", 2)], 8, true⟩, ⟨"la", 28, 4, [], 0, false⟩]⟩,
   ⟨["nload"], 4, 0x6D, [.x 7, .x 12, .x 17], [⟨"q", 25, 3, classNames, 0, true⟩, ⟨"la", 28, 4, [], 0, false⟩]⟩,
   ⟨["nstore"], 4, 0x40006D, [.x 7, .x 12, .x 17], [⟨"q", 25, 3, classNames, 0, true⟩, ⟨"la", 28, 4, [], 0, false⟩]⟩,
   ⟨["ndel"], 4, 0x80006D, [.x 7, .x 12, .x 17], [⟨"q", 25, 3, classNames, 0, true⟩, ⟨"la", 28, 4, [], 0, false⟩]⟩,
   ⟨["ninit"], 4, 0x6F, [.x 7, .x 12, .x 17], [⟨"la", 28, 4, [], 0, false⟩]⟩,
   ⟨["nsnap"], 4, 0x40006F, [.x 7, .x 12], [⟨"q", 25, 0, holdNames, 0, true⟩, ⟨"la", 28, 4, [], 0, false⟩]⟩,
   ⟨["nsnap"], 4, 0x40006F, [.x 7, .x 12, .x 17], [⟨"q", 25, 3, [("rel", 1)], 8, true⟩, ⟨"la", 28, 4, [], 0, false⟩]⟩,
   ⟨["nfree"], 4, 0x80006F, [.x 7, .x 12], [⟨"la", 28, 4, [], 0, false⟩]⟩,
   ⟨["nstat"], 4, 0xC0006F, [.x 7, .x 12], [⟨"q", 25, 3, nstatNames, 0, true⟩, ⟨"la", 28, 4, [], 0, false⟩]⟩,
   ⟨["ptload"], 4, 0x1000007D, [.x 7, .x 12, .x 17], []⟩,
   ⟨["rngset"], 4, 0x1200007D, [.x 7, .x 12, .x 17], []⟩,
   ⟨["tlbinv"], 4, 0x7D, [.x 7, .x 12, .x 17], []⟩,
   ⟨["l1inv"], 4, 0x200007D, [], []⟩,
   ⟨["l2wb"], 4, 0x400007D, [.x 7, .x 12, .x 17], []⟩,
   ⟨["heatrd"], 4, 0x600007D, [.x 7, .x 12, .x 17], []⟩,
   ⟨["heatage"], 4, 0x800007D, [.x 7, .x 12, .x 17], []⟩,
   ⟨["pfreplay"], 4, 0xA00007D, [.x 7, .x 12, .x 17], []⟩,
   ⟨["ckpt"], 4, 0xC00007D, [.x 7, .x 12, .x 17], []⟩,
   ⟨["trap"], 4, 0x79, [.imm 20 12 false], []⟩,
   ⟨["tret"], 4, 0x20079, [.x 7, .x 12], [⟨"op", 20, 12, tretNames, 0, true⟩]⟩,
   ⟨["mfs"], 4, 0x7B, [.x 7, .sreg], []⟩,
   ⟨["mts"], 4, 0x2007B, [.x 12, .sreg], []⟩]

/-- Rows of the instructions, part 11. -/
def asmRows11 : List ARow :=
  [⟨["cfreeze"], 4, 0x4007B, [.x 7, .x 12], []⟩,
   ⟨["cthaw"], 4, 0x6007B, [.x 7, .x 12], []⟩,
   ⟨["cswap"], 4, 0x8007B, [.x 7, .x 12], [⟨"op", 20, 12, swapNames, 0, true⟩]⟩,
   ⟨["wpset"], 4, 0xA007B, [.x 7, .x 12, .imm 20 12 false], []⟩,
   ⟨["lstat"], 4, 0xE007B, [.x 7, .x 12], [⟨"op", 20, 12, lstatNames, 0, true⟩]⟩]

/-- The instructions as the assembler writes them: one row for each encoded row of the opcode table, and one for each
scope of a fence (07 R179). -/
def asmRows : List ARow :=
  asmRows0 ++ asmRows1 ++ asmRows2 ++ asmRows3 ++ asmRows4 ++ asmRows5 ++ asmRows6 ++ asmRows7 ++ asmRows8 ++ asmRows9 ++ asmRows10 ++ asmRows11

end Sys2Proof.Machine
end

