-- ==== Sys2Proof/Machine/Asm.lean ====
section
/-!
DEFINITION. One line of assembly (04 R83 to R87): its words, numbers, expressions and operands, and the instruction it stands
for, with the relocation it leaves.
-/

namespace Sys2Proof.Machine

/-- A piece of a source line. -/
abbrev Text := List Char

def isBlank (c : Char) : Bool := c == ' ' || c == '\t'

/-- A character of a name. [DESIGN CHOICE, notes/assumptions/45.md] -/
def isNameChar (c : Char) : Bool := c.isAlphanum || c == '_'

def trimText (t : Text) : Text := ((t.dropWhile isBlank).reverse.dropWhile isBlank).reverse

/-- The pieces between the characters `c`, each trimmed. -/
def splitText (c : Char) (t : Text) : List Text :=
  let r := t.foldr (fun x r => if x == c then ([], r.1 :: r.2) else (x :: r.1, r.2)) (([], []) : Text × List Text)
  (r.1 :: r.2).map trimText

/-- The value of a digit in a base. -/
def digit? (base : Nat) (c : Char) : Option Nat :=
  let v := if c.isDigit then c.toNat - 48 else if 97 ≤ c.toNat ∧ c.toNat < 103 then c.toNat - 87
    else if 65 ≤ c.toNat ∧ c.toNat < 71 then c.toNat - 55 else 99
  if v < base then some v else none

/-- Digits in a base, with underscores between two of them where `us` holds (R87): `prev` says that a digit stands before. -/
def digits? (base : Nat) (us : Bool) (acc : Nat) (prev : Bool) : Text → Option Nat
  | [] => if prev then some acc else none
  | c :: t =>
    match digit? base c with
    | some d => digits? base us (acc * base + d) true t
    | none => if c == '_' && us && prev then digits? base us acc false t else none

/-- A number without a sign (R87). -/
def nat? : Text → Option Nat
  | '0' :: 'x' :: t => digits? 16 true 0 false t
  | '0' :: 'b' :: t => digits? 2 true 0 false t
  | t => digits? 10 false 0 false t

def int? : Text → Option Int
  | '-' :: t => (nat? t).map fun n => -(n : Int)
  | t => (nat? t).map fun n => (n : Int)

/-- Where a name of `x0` to `x31` form ends in a number below `n`. -/
def numbered? (pre : Text) (n : Nat) (t : Text) : Option Nat :=
  if pre.isPrefixOf t then
    match digits? 10 false 0 false (t.drop pre.length) with
    | some k => if k < n ∧ (t.drop pre.length).length = (if k < 10 then 1 else 2) then some k else none
    | none => none
  else none

/-- Register names (R86). -/
def isRegName (t : Text) : Bool :=
  (numbered? ['x'] 32 t).isSome || (numbered? ['v'] 32 t).isSome || (numbered? ['a', 'c', 'c'] 2 t).isSome
    || (numbered? ['s', 'c'] 4 t).isSome

/-- A symbol's name. [DESIGN CHOICE, notes/assumptions/45.md] -/
def isSymName : Text → Bool
  | [] => false
  | c :: t => (c.isAlpha || c == '_') && t.all isNameChar && !isRegName (c :: t)

/-- What an expression is built on (R87). -/
inductive ExprBase where
  | num (n : Int)
  | sym (s : Text) (add : Int)
  | diff (a b : Text)
  | here
deriving DecidableEq, Repr

inductive ExprFn where
  | plain | hi | lo | ws | tmap
deriving DecidableEq, Repr

structure AExpr where
  fn : ExprFn
  base : ExprBase
deriving DecidableEq, Repr

def exprBase? (t : Text) : Option ExprBase :=
  let t := trimText t
  match int? t with
  | some n => some (.num n)
  | none =>
    if t = ['.'] then some .here
    else
      let s := t.takeWhile isNameChar
      let r := trimText (t.drop s.length)
      if !isSymName s then none
      else match r with
        | [] => some (.sym s 0)
        | '+' :: u => (int? (trimText u)).map fun n => .sym s n
        | '-' :: u =>
          match int? (trimText u) with
          | some n => some (.sym s (-n))
          | none => if isSymName (trimText u) then some (.diff s (trimText u)) else none
        | _ => none

/-- The inside of `name(…)`. -/
def inside? (name t : Text) : Option Text :=
  let n := name ++ ['(']
  if n.isPrefixOf t ∧ t.getLast? = some ')' then some ((t.drop n.length).dropLast) else none

def expr? (t : Text) : Option AExpr :=
  let t := trimText t
  let f := fun name fn => (inside? name t).bind fun u => (exprBase? u).map fun b => (⟨fn, b⟩ : AExpr)
  (f ['h', 'i'] .hi).orElse fun _ => (f ['l', 'o'] .lo).orElse fun _ => (f ['w', 's'] .ws).orElse fun _ =>
    (f ['t', 'm', 'a', 'p'] .tmap).orElse fun _ => (exprBase? t).map fun b => ⟨.plain, b⟩

/-- A symbol of a source file: the kind of its section, 0 where it is undefined and 0xFFFF where it is absolute (R93). -/
structure ASym where
  name : Text
  sect : Nat
  value : Int
  kind : Nat := 0
  size : Nat := 0
  bind : Nat := 0
deriving DecidableEq, Repr

def symOf (env : List ASym) (s : Text) : Option ASym := env.find? fun y => y.name == s

/-- The value of an expression: known, or that of a symbol and an addend. -/
inductive AVal where
  | known (v : Int)
  | rel (sym : Text) (add : Int)
deriving DecidableEq, Repr

/-- The names of the sections, by kind (R92). -/
def sectNames : List String :=
  ["", ".text", ".data", ".rodata", ".bss", ".kern", ".tmap", ".htab", ".ptab", ".poly", ".pipe", ".nidx", ".sym", ".str", ".rel"]

/-- The section symbol that stands for the start of a section. [DESIGN CHOICE, notes/assumptions/45.md] -/
def sectSym (k : Nat) : Text := (sectNames.getD k "").toList

/-- The value of an expression at `here` of section `k`. -/
def exprVal (env : List ASym) (k here : Nat) : ExprBase → Option AVal
  | .num n => some (.known n)
  | .here => some (.rel (sectSym k) here)
  | .sym s add =>
    match symOf env s with
    | some y => if y.sect = 0xFFFF then some (.known (y.value + add)) else some (.rel s add)
    | none => some (.rel s add)
  | .diff a b =>
    match symOf env a, symOf env b with
    | some x, some y => if x.sect = y.sect ∧ x.sect ≠ 0 ∧ x.sect ≠ 0xFFFF then some (.known (x.value - y.value)) else none
    | _, _ => none

/-- An expression known at assembly time. -/
def knownVal (env : List ASym) (t : Text) : Option Int :=
  match expr? t with
  | some ⟨.plain, b⟩ =>
    match exprVal env 0 0 b with
    | some (.known v) => some v
    | _ => none
  | _ => none

/-- The offset in section `k` that a value stands for, where it stands for one. -/
def valOffset (env : List ASym) (k : Nat) : AVal → Option Int
  | .known _ => none
  | .rel s add =>
    if s = sectSym k then some add
    else (symOf env s).bind fun y => if y.sect = k then some (y.value + add) else none

/-- A relocation that a line leaves: its type of R95, its symbol and addend. -/
structure AFix where
  type : Nat
  sym : Text
  add : Int
deriving DecidableEq, Repr

/-- What a line is assembled against: the symbols, its place, the default of `.la`, and T and the section offset of the last `hi` of a
place in its section, which the assembler encoded. -/
structure ACtx where
  env : List ASym
  sect : Nat
  off : Nat
  la : Nat
  lastHi : Option (Int × Int)
deriving DecidableEq, Repr

/-- A field's pattern, where the value fits it (R87). -/
def fitS (w : Nat) (v : Int) : Option Nat := if -(2 ^ (w - 1) : Int) ≤ v ∧ v < 2 ^ (w - 1) then some (imod v w) else none
def fitU (w : Nat) (v : Int) : Option Nat := if 0 ≤ v ∧ v < 2 ^ w then some v.toNat else none

/-- hi20 of T (R95). -/
def hiOf (T : Int) : Int := (T + 0x800) / 4096

/-- What an operand adds to the word, the relocation it leaves, and T and the section offset where it is a `hi` of a place that the
assembler encoded. -/
structure AOut where
  bits : Nat
  fix : Option AFix := none
  hi : Option (Int × Int) := none
deriving DecidableEq, Repr

def regOut (pre : Text) (lo : Nat) (t : Text) : Option AOut := (numbered? pre 32 t).map fun k => { bits := k * 2 ^ lo }

/-- An immediate of `w` bits: a known value, lo(e) or ws(h) in an imm12 (R95).  lo(e) is encoded where e is known, or where the last
`hi` was of the same place and encoded; else it leaves its record. [DEDUCED, notes/assumptions/45.md] -/
def immOut (c : ACtx) (lo w : Nat) (signed : Bool) (t : Text) : Option AOut := do
  let e ← expr? t
  let v ← exprVal c.env c.sect c.off e.base
  let fit := fun v => ((if signed then fitS w v else fitU w v).map fun n => ({ bits := n * 2 ^ lo } : AOut))
  match e.fn, v with
  | .plain, .known v => fit v
  | .lo, v =>
    if w ≠ 12 ∨ !signed then none
    else match v, c.lastHi with
      | .known T, _ => fit (T - hiOf T * 4096)
      | .rel s add, some (T, y) =>
        if valOffset c.env c.sect v = some y then fit (T - hiOf T * 4096) else some { bits := 0, fix := some ⟨5, s, add⟩ }
      | .rel s add, none => some { bits := 0, fix := some ⟨5, s, add⟩ }
  | .ws, .rel s add => if w = 12 ∧ signed then some { bits := 0, fix := some ⟨6, s, add⟩ } else none
  | _, _ => none

/-- A target: half of its displacement, encoded where the target lies in the same section, and else left to a relocation that
a 32-bit form has (R87, R95). [DESIGN CHOICE, notes/assumptions/45.md] -/
def relOut (c : ACtx) (lo w : Nat) (t : Text) : Option AOut := do
  let e ← expr? t
  let v ← exprVal c.env c.sect c.off e.base
  if e.fn ≠ .plain then none
  else match valOffset c.env c.sect v, v with
    | some y, _ =>
      let d := y - c.off
      if d % 2 ≠ 0 then none else (fitS w (d / 2)).map fun n => { bits := n * 2 ^ lo }
    | none, .rel s add =>
      if w = 12 then some { bits := 0, fix := some ⟨2, s, add⟩ }
      else if w = 20 then some { bits := 0, fix := some ⟨3, s, add⟩ } else none
    | none, .known _ => none

/-- imm20: a number, or hi(e), of whose T the PC is subtracted in `pcrel` (R95). -/
def upperOut (c : ACtx) (pcrel : Bool) (lo : Nat) (t : Text) : Option AOut := do
  let e ← expr? t
  let v ← exprVal c.env c.sect c.off e.base
  let put := fun (T : Int) (y : Option Int) => (fitS 20 (hiOf T)).map fun n => ({ bits := n * 2 ^ lo, hi := y.map fun y => (T, y) } : AOut)
  match e.fn, v with
  | .plain, .known v => (fitS 20 v).map fun n => { bits := n * 2 ^ lo }
  | .hi, v =>
    match pcrel, valOffset c.env c.sect v, v with
    | true, some y, _ => put (y - c.off) (some y)
    | false, _, .known T => put T none
    | _, _, .rel s add => some { bits := 0, fix := some ⟨4, s, add⟩ }
    | _, _, .known _ => none
  | _, _ => none

/-- [xN], [xN+off] or [xN-off]: the number of the base and the text of the offset, with its sign (R86). -/
def memParts (t : Text) : Option (Nat × Bool × Text) :=
  match t with
  | '[' :: u =>
    if u.getLast? ≠ some ']' then none
    else
      let u := trimText u.dropLast
      let r := u.takeWhile isNameChar
      (numbered? ['x'] 32 r).bind fun k =>
        match trimText (u.drop r.length) with
        | [] => some (k, false, ['0'])
        | '+' :: v => some (k, false, v)
        | '-' :: v => some (k, true, v)
        | _ => none
  | _ => none

/-- A byte offset in a field of `w` bits that holds it divided by the size (03 R69, R71); ws(h) in an off10. -/
def offOut (c : ACtx) (lo w size : Nat) (signed neg : Bool) (t : Text) : Option AOut := do
  let e ← expr? t
  let v ← exprVal c.env c.sect c.off e.base
  match e.fn, v with
  | .plain, .known v =>
    let v := if neg then -v else v
    if size = 0 ∨ v % size ≠ 0 then none
    else (if signed then fitS w (v / size) else fitU w (v / size)).map fun n => { bits := n * 2 ^ lo }
  | .ws, .rel s add => if w = 10 ∧ size ≠ 0 ∧ !neg then some { bits := 0, fix := some ⟨6, s, add⟩ } else none
  | _, _ => none

/-- The status registers of 03 R66 by name, in numbers from 0. -/
def sregNames : List (String × Nat) :=
  namesFrom 0 ["ST", "SEED", "TC", "TM", "TN", "CYCLE", "PLACE", "VGRANT", "SC0", "SC1", "SC2", "SC3"]

/-- A value name's code. -/
def nameCode (ns : List (String × Nat)) (t : Text) : Option Nat := (ns.find? fun p => p.1.toList == t).map (·.2)

/-- The kinds of a fence's sets (07 R179). -/
def kindBits : List (String × Nat) := [("r", 1), ("w", 2), ("cr", 4), ("cw", 8), ("mr", 16), ("mw", 32), ("nr", 64), ("nw", 128)]

/-- Names joined by +, each of which sets its bit. -/
def setOf (ns : List (String × Nat)) (t : Text) : Option Nat :=
  (splitText '+' t).foldl (fun acc p => acc.bind fun m => (nameCode ns p).map (m ||| ·)) (some 0)

/-- One operand. `w` is the code of the word's w field. -/
def operandOut (c : ACtx) (w : Nat) (pcrel : Bool) (t : Text) : AOp → Option AOut
  | .x lo => regOut ['x'] lo t
  | .v lo => regOut ['v'] lo t
  | .opt lo => regOut ['x'] lo t
  | .imm lo n signed => immOut c lo n signed t
  | .rel lo n => relOut c lo n t
  | .upper lo => upperOut c pcrel lo t
  | .cnt lo n => do
    let v ← knownVal c.env t
    let k ← fitU n (v - 1)
    some { bits := k * 2 ^ lo }
  | .sham lo h => do
    let v ← knownVal c.env t
    let k ← fitU 6 v
    some { bits := k % 32 * 2 ^ lo + k / 32 * 2 ^ h }
  | .sreg =>
    match nameCode sregNames (t.map Char.toUpper) with
    | some k => some { bits := k * 2 ^ 20 }
    | none => (knownVal c.env t).bind fun v => (fitU 12 v).map fun k => { bits := k * 2 ^ 20 }
  | .set lo =>
    match setOf kindBits t with
    | some m => some { bits := m * 2 ^ lo }
    | none => (knownVal c.env t).bind fun v => (fitU 8 v).map fun k => { bits := k * 2 ^ lo }
  | .mem base off n sizes => do
    let m ← memParts t
    let o ← offOut c off n (sizes.getD w 0) true m.2.1 m.2.2
    some { o with bits := o.bits + m.1 * 2 ^ base }
  | .cell base => do
    let m ← memParts t
    if t.any (fun x => x == '+' || x == '-') then none else some { bits := m.1 * 2 ^ base }
  | .stack off n => do
    let m ← memParts t
    if m.1 ≠ 2 then none else offOut c off n 8 false m.2.1 m.2.2

/-- The positional operands, left to right (R86). -/
def operandsOut (c : ACtx) (w : Nat) (pcrel : Bool) : List AOp → List Text → Option AOut
  | [], [] => some { bits := 0 }
  | [.opt _], [] => some { bits := 0 }
  | o :: os, t :: ts => do
    let a ← operandOut c w pcrel t o
    let r ← operandsOut c w pcrel os ts
    some { bits := a.bits + r.bits, fix := a.fix.orElse fun _ => r.fix, hi := a.hi.orElse fun _ => r.hi }
  | _, _ => none

/-- The suffixes set fields in encoding order, each one field of its own (R83). -/
def suffixVals : List AField → List Text → Option (List (String × Nat))
  | _, [] => some []
  | [], _ :: _ => none
  | f :: fs, t :: ts =>
    match if f.suffix then nameCode f.names t else none with
    | some v => (suffixVals fs ts).map ((f.name, v) :: ·)
    | none => suffixVals fs (t :: ts)

/-- name=value: the value a number, or a value name of the field (R83). -/
def namedVal (env : List ASym) (fs : List AField) (t : Text) : Option (String × Nat) := do
  let n := trimText (t.takeWhile (· != '='))
  let v := trimText ((t.dropWhile (· != '=')).drop 1)
  let f ← fs.find? fun f => f.name.toList == n
  match nameCode f.names v with
  | some k => some (f.name, k)
  | none => (knownVal env v).bind fun x => (fitU f.w x).map fun k => (f.name, k)

def mapOpt {α β : Type} (f : α → Option β) : List α → Option (List β)
  | [] => some []
  | x :: xs => (f x).bind fun y => (mapOpt f xs).map (y :: ·)

/-- An instruction under one row of the table: its length, its word and what its operands leave. -/
def rowOut (c : ACtx) (suf : List Text) (ops : List Text) (r : ARow) : Option (Nat × AOut) := do
  let pos := ops.takeWhile fun t => !t.contains '='
  let sv ← suffixVals r.flds suf
  let nv ← mapOpt (namedVal c.env r.flds) (ops.drop pos.length)
  let vs := sv ++ nv
  if !decide (vs.map (·.1)).Nodup then none
  else if r.flds.any fun f =>
      decide (2 ^ f.w ≤ f.dflt) && !vs.any fun p => p.1 == f.name && f.names.any fun n => n.2 == p.2 then none
  else
    let val := fun (f : AField) =>
      match vs.find? fun p => p.1 == f.name with
      | some p => p.2
      | none => if f.name == "la" && f.w != 0 then c.la else f.dflt
    let word := r.flds.foldl (fun a f => a + val f * 2 ^ f.lo) r.word
    let w := match r.flds.find? fun f => f.name == "w" with
      | some f => val f
      | none => 3
    let o ← operandsOut c w (r.parts == ["pcrel"]) r.ops pos
    some (r.len, { o with bits := word + o.bits })

/-- The rows whose base mnemonic starts the dotted parts of a word. -/
def rowsOf (mn : List Text) : List ARow := asmRows.filter fun r => (r.parts.map String.toList).isPrefixOf mn

/-- An instruction: the first row that its suffixes and operands fit. -/
def instrOut (c : ACtx) (mn ops : List Text) : Option (Nat × AOut) :=
  (rowsOf mn).findSome? fun r => rowOut c (mn.drop r.parts.length) ops r

/-- The length of an instruction, which its base mnemonic decides. -/
def instrLen (mn : List Text) : Option Nat := (rowsOf mn).head?.map (·.len)

/-- A line without its comment: the labels before it, its word, and its operands. [DESIGN CHOICE, notes/assumptions/45.md] -/
structure ALine where
  labels : List Text
  word : Text
  ops : List Text
deriving DecidableEq, Repr

/-- Take the labels off the front of a line; `fuel` bounds their number. -/
def takeLabels : Nat → Text → List Text × Text
  | 0, t => ([], t)
  | fuel + 1, t =>
    let n := t.takeWhile isNameChar
    match t.drop n.length with
    | ':' :: r => if n.isEmpty then ([], t) else let q := takeLabels fuel (trimText r); (n :: q.1, q.2)
    | _ => ([], t)

def parseLine (t : Text) : ALine :=
  let t := trimText (t.takeWhile (· != ';'))
  let q := takeLabels t.length t
  let w := q.2.takeWhile fun c => !isBlank c
  let r := trimText (q.2.drop w.length)
  ⟨q.1, w, if r.isEmpty then [] else splitText ',' r⟩

/-- The word of one instruction that stands at the start of .text, for a line that leaves no relocation. -/
def assembleLine (l : String) : Option (Nat × Nat) :=
  let p := parseLine l.toList
  (instrOut ⟨[], 1, 0, 0, none⟩ (splitText '.' p.word) p.ops).bind fun r => if r.2.fix.isSome then none else some (r.1, r.2.bits)

end Sys2Proof.Machine
end

