-- ==== Sys2Proof/Machine/Nof.lean ====
section
/-!
DEFINITION. The NOF container and the linker (04 R90 to R95, R103): a file as bytes and as what they say, and several
files joined, with every relocation applied.
-/

namespace Sys2Proof.Machine

/-- A section (R91). -/
structure NSec where
  kind : Nat
  flags : Nat
  align : Nat
  entsz : Nat
  addr : Nat := 0
  size : Nat
  data : List Nat := []                  -- bytes; none for .bss
deriving DecidableEq, Repr

/-- A symbol (R93). Its section is an index, 0 where it is undefined and 0xFFFF where it is absolute. -/
structure NSym where
  name : List Nat
  sect : Nat
  kind : Nat := 0
  bind : Nat := 0
  value : Nat := 0
  size : Nat := 0
deriving DecidableEq, Repr

/-- A relocation (R94). -/
structure NRel where
  off : Nat
  sym : Nat
  type : Nat
  sect : Nat
  add : Nat
deriving DecidableEq, Repr

/-- What a NOF file says. Section i of the file is the i-th of the list, from 1; entry 0 stands for no section. -/
structure Nof where
  linked : Bool := false
  priv : Bool := false
  entry : Nat := 0
  secs : List NSec := []
  syms : List NSym := []
  rels : List NRel := []
deriving DecidableEq, Repr

/-- The values of R92 by kind: flags, log2 of the alignment, and the record size (R91). [DEDUCED, notes/assumptions/46.md] -/
def kindFlags : List Nat := [0, 3, 5, 1, 5, 1, 1, 1, 1, 1, 1, 1, 0, 0, 0]
def kindAlign : List Nat := [0, 1, 3, 3, 3, 6, 6, 8, 3, 4, 3, 6, 3, 0, 3]
def kindEntsz : List Nat := [0, 0, 0, 0, 0, 64, 64, 256, 0, 0, 0, 64, 24, 0, 24]

/-- A kind whose sections hold records that a consumer reads (R96 to R102). -/
def isRecordKind (k : Nat) : Bool := decide (5 ≤ k ∧ k ≤ 11)

/-- `n` little-endian bytes of a value. -/
def leBytes : Nat → Nat → List Nat
  | 0, _ => []
  | n + 1, v => v % 256 :: leBytes n (v / 256)

/-- The value of little-endian bytes. -/
def leVal : List Nat → Nat
  | [] => 0
  | b :: bs => b % 256 + 256 * leVal bs

/-- `n` bytes from an offset, and their value. -/
def sliceAt (f : List Nat) (off n : Nat) : List Nat := (f.drop off).take n
def fieldAt (f : List Nat) (off n : Nat) : Nat := leVal (sliceAt f off n)

/-- The bytes with `n` of them replaced by those of a value. -/
def patchAt (f : List Nat) (off n v : Nat) : List Nat := f.take off ++ leBytes n v ++ f.drop (off + n)

def alignUp (n a : Nat) : Nat := (n + a - 1) / a * a
def padTo (f : List Nat) (a : Nat) : List Nat := f ++ List.replicate (alignUp f.length a - f.length) 0

/-! ### The file -/

def textBytes (s : String) : List Nat := s.toList.map Char.toNat

def kindName (k : Nat) : List Nat :=
  textBytes (["", ".text", ".data", ".rodata", ".bss", ".kern", ".tmap", ".htab", ".ptab", ".poly", ".pipe", ".nidx", ".sym", ".str",
    ".rel"].getD k "")

/-- Where each name starts in .str, whose first byte is the empty name. -/
def strOffsets (at_ : Nat) : List (List Nat) → List Nat
  | [] => []
  | n :: ns => at_ :: strOffsets (at_ + n.length + 1) ns

def NSym.bytes (y : NSym) (name : Nat) : List Nat :=
  leBytes 4 name ++ leBytes 2 y.sect ++ [y.kind, y.bind] ++ leBytes 8 y.value ++ leBytes 8 y.size

def NRel.bytes (r : NRel) : List Nat :=
  leBytes 8 r.off ++ leBytes 4 r.sym ++ leBytes 2 r.type ++ leBytes 2 r.sect ++ leBytes 8 r.add

def NSec.entry (x : NSec) (name offs : Nat) : List Nat :=
  leBytes 4 name ++ leBytes 2 x.kind ++ leBytes 2 x.flags ++ leBytes 8 x.addr ++ leBytes 8 offs ++ leBytes 8 x.size
    ++ leBytes 4 x.align ++ leBytes 4 x.entsz

/-- The bytes of a file (R90 to R94): the header, the contents of the sections with .sym, .str and .rel last, and the section
table. [DESIGN CHOICE, notes/assumptions/46.md] -/
def Nof.file (f : Nof) : List Nat :=
  let tabs := [12, 13, 14]
  let names := f.secs.map (fun x => kindName x.kind) ++ tabs.map kindName ++ f.syms.map (·.name)
  let offs := strOffsets 1 names
  let str := [0] ++ names.flatMap fun n => n ++ [0]
  let sym := (f.syms.zip (offs.drop (f.secs.length + 3))).flatMap fun p => p.1.bytes p.2
  let rel := f.rels.flatMap NRel.bytes
  let plain := fun k (d : List Nat) =>
    ({ kind := k, flags := 0, align := kindAlign.getD k 0, entsz := kindEntsz.getD k 0, size := d.length, data := d } : NSec)
  let all := f.secs ++ [plain 12 sym, plain 13 str, plain 14 rel]
  let body := all.foldl (fun a x => if x.data.isEmpty then (a.1, a.2 ++ [0]) else (padTo (a.1 ++ x.data) 8, a.2 ++ [48 + a.1.length]))
    (([], []) : List Nat × List Nat)
  let table := List.replicate 40 0 ++ (all.zip (offs.zip body.2)).flatMap fun p => p.1.entry p.2.1 p.2.2
  leBytes 4 0x1A464F4E ++ leBytes 2 1 ++ leBytes 2 ((if f.linked then 1 else 0) + (if f.priv then 2 else 0))
    ++ leBytes 8 (48 + body.1.length) ++ leBytes 2 (all.length + 1) ++ leBytes 2 40 ++ leBytes 4 0 ++ leBytes 8 f.entry
    ++ List.replicate 16 0 ++ body.1 ++ table

/-- A name of .str. -/
def nameAt (str : List Nat) (off : Nat) : List Nat := (str.drop off).takeWhile (· != 0)

/-- One entry of the section table: its section, where it breaks no rule of R91 and R92.  Record sections are those of kinds
5 to 11; .sym and .rel are not among them. [DESIGN CHOICE, notes/assumptions/51.md] -/
def secAt (f : List Nat) (linked : Bool) (o : Nat) : Option NSec :=
  let g := fun a n => fieldAt f (o + a) n
  let x : NSec := { kind := g 4 2, flags := g 6 2, align := g 0x20 4, entsz := g 0x24 4, addr := g 8 8, size := g 0x18 8,
                    data := if g 4 2 = 4 then [] else sliceAt f (g 0x10 8) (g 0x18 8) }
  if x.kind < 1 ∨ 14 < x.kind ∨ 8 ≤ x.flags ∨ 16 < x.align then none
  else if x.kind = 4 ∧ g 0x10 8 ≠ 0 then none
  else if x.kind ≠ 4 ∧ x.data.length ≠ x.size then none
  else if linked && isRecordKind x.kind && (x.align != kindAlign.getD x.kind 0 || x.entsz != kindEntsz.getD x.kind 0) then none
  else some x

def allSome {α : Type} : List (Option α) → Option (List α)
  | [] => some []
  | none :: _ => none
  | some x :: xs => (allSome xs).map (x :: ·)

/-- What the bytes of a file say, where they break no rule of R90 to R94. -/
def readNof (f : List Nat) : Option Nof :=
  let g := fieldAt f
  let fl := g 6 2
  let off := g 8 8
  let n := g 0x10 2
  if f.length < 48 ∨ g 0 4 ≠ 0x1A464F4E ∨ g 4 2 ≠ 1 ∨ 4 ≤ fl ∨ off % 8 ≠ 0 ∨ n < 1 ∨ 4096 < n ∨ g 0x12 2 ≠ 40 ∨ g 0x14 4 ≠ 0
      ∨ g 0x20 16 ≠ 0 ∨ f.length < off + 40 * n ∨ (sliceAt f off 40).any (· != 0) then none
  else do
    let secs ← allSome ((List.range (n - 1)).map fun i => secAt f (fl % 2 == 1) (off + 40 * (i + 1)))
    let data := fun k => ((secs.find? fun x => x.kind == k).map (·.data)).getD []
    let sym := data 12
    let rel := data 14
    let syms := (List.range (sym.length / 24)).map fun i =>
      let h := fun a n => fieldAt sym (24 * i + a) n
      ({ name := nameAt (data 13) (h 0 4), sect := h 4 2, kind := h 6 1, bind := h 7 1, value := h 8 8, size := h 0x10 8 } : NSym)
    let rels := (List.range (rel.length / 24)).map fun i =>
      let h := fun a n => fieldAt rel (24 * i + a) n
      ({ off := h 0 8, sym := h 8 4, type := h 0xC 2, sect := h 0xE 2, add := h 0x10 8 } : NRel)
    if syms.any (fun y => decide (10 < y.kind ∨ 1 < y.bind)) || rels.any (fun r => decide (r.type < 1 ∨ 7 < r.type)) then none
    else some { linked := fl % 2 == 1, priv := fl / 2 == 1, entry := g 0x18 8, secs := secs.filter fun x => decide (x.kind < 12),
                syms := syms, rels := rels }

/-! ### Relocations (R95) -/

/-- The access size of a word with an off10 (03 R69, 07 R161): major 0x14 uses the float coding of w. -/
def stSize (w : Nat) : Nat :=
  if bits w 1 6 = 0x14 then [8, 4, 2, 2, 1, 1, 16, 0].getD (bits w 17 3) 0 else [1, 2, 4, 8, 1, 2, 4, 0].getD (bits w 17 3) 0

/-- Place a signed value of `n` bits in a field, where it fits. -/
def putS (w lo n : Nat) (v : Int) : Option Nat :=
  if -(2 ^ (n - 1) : Int) ≤ v ∧ v < 2 ^ (n - 1) then some (setBits w lo n (imod v n)) else none

/-- The value of a record whose symbol has the address `S`, at a word `w` with the address `P`; `T` is that of the hi20 record
before it, `k` the workspace number of the handler and `tag` the top byte of the tensor map. The answer is the new word. -/
def relocWord (type S add P w : Nat) (T : Option Int) (k tag : Nat) : Option Nat :=
  let sa := wint ((S : Int) + sint add 64)
  let disp := sint (wint ((sa : Int) - P)) 64
  let t := if bits w 1 6 = 6 then disp else sint sa 64
  match type with
  | 1 => some sa
  | 2 => if disp % 2 ≠ 0 then none else putS w 20 12 (disp / 2)
  | 3 => if disp % 2 ≠ 0 then none else putS w 12 20 (disp / 2)
  | 4 => putS w 12 20 ((t + 0x800) / 4096)
  | 5 => T.bind fun t => putS w 20 12 (t - (t + 0x800) / 4096 * 4096)
  | 6 =>
    let v := 0x140 * (k : Int) + sint add 64
    if bits w 1 6 = 0x12 ∨ bits w 1 6 = 0x13 ∨ bits w 1 6 = 0x14 then
      (if stSize w = 0 ∨ v % stSize w ≠ 0 then none else putS w 22 10 (v / stSize w))
    else putS w 20 12 v
  | 7 => some (tag * 2 ^ 56 + sa % 2 ^ 56)
  | _ => none

/-- T of a hi20 record (R95). -/
def relocT (S add P w : Nat) : Int :=
  let sa := wint ((S : Int) + sint add 64)
  if bits w 1 6 = 6 then sint (wint ((sa : Int) - P)) 64 else sint sa 64

/-! ### The linker (R103) -/

/-- Where the sections of one kind go: for each input file and section its offset, and the joined bytes and size. -/
structure Joined where
  data : List Nat := []
  size : Nat := 0
  align : Nat := 0
  places : List ((Nat × Nat) × Nat) := []
deriving DecidableEq, Repr

def joinSec (j : Joined) (i k : Nat) (x : NSec) : Joined :=
  let o := alignUp j.size (2 ^ x.align)
  { data := if x.kind = 4 then [] else j.data ++ List.replicate (o - j.size) 0 ++ x.data, size := o + x.size,
    align := max j.align x.align, places := j.places ++ [((i, k), o)] }

/-- The sections of one kind in command-line order, each aligned to its ALIGN. -/
def joinKind (fs : List Nof) (kind : Nat) : Joined :=
  (fs.zipIdx).foldl (fun j f => (f.1.secs.zipIdx).foldl (fun j x => if x.1.kind = kind then joinSec j f.2 (x.2 + 1) x.1 else j) j)
    { align := kindAlign.getD kind 0 }

/-- A link under way: the joined kinds with their base addresses. -/
structure Linking where
  files : List Nof
  joined : List (Nat × Joined)           -- by kind
  bases : List (Nat × Nat)               -- by kind
deriving DecidableEq, Repr

def Linking.join (l : Linking) (k : Nat) : Joined := ((l.joined.find? fun p => p.1 == k).map (·.2)).getD {}
def Linking.base (l : Linking) (k : Nat) : Nat := ((l.bases.find? fun p => p.1 == k).map (·.2)).getD 0
def Linking.file (l : Linking) (i : Nat) : Nof := l.files.getD i {}

/-- The kind of a file's section and the offset at which it was joined. -/
def Linking.spot (l : Linking) (i k : Nat) : Option (Nat × Nat) :=
  if k = 0 then none
  else (l.file i).secs[k - 1]?.bind fun x => ((l.join x.kind).places.find? fun p => p.1 == (i, k)).map fun p => (x.kind, p.2)

/-- The file and index of a symbol's definition: itself, or the one global definition of its name. -/
def Linking.defOf (l : Linking) (i n : Nat) : Option (Nat × NSym) :=
  (l.file i).syms[n]?.bind fun y =>
    if y.sect ≠ 0 then some (i, y)
    else
      match (l.files.zipIdx).flatMap fun f => f.1.syms.filterMap fun z =>
          if z.name == y.name && z.bind == 1 && z.sect != 0 then some (f.2, z) else none with
      | [d] => some d
      | _ => none

/-- The address of a defined symbol, or the value of an absolute one. -/
def Linking.addrOf (l : Linking) (d : Nat × NSym) : Option Nat :=
  if d.2.sect = 0xFFFF then some d.2.value
  else (l.spot d.1 d.2.sect).map fun p => wint ((l.base p.1 + p.2 + d.2.value : Nat) : Int)

/-- The workspace numbers that `.handler` entries give a handler: bits [59:56] of the addends of the records of .htab that name
it (R98). -/
def Linking.wsOf (l : Linking) (d : Nat × NSym) : List Nat :=
  (l.files.zipIdx).flatMap fun f => f.1.rels.filterMap fun r =>
    if (l.spot f.2 r.sect).any (fun p => p.1 == 7) && l.defOf f.2 r.sym == some d then some (bits r.add 56 4) else none

/-- Records applied so far: the joined bytes by kind, the places patched, and T of the record before where it is a hi20. -/
structure Patching where
  data : List (Nat × List Nat)
  done : List (Nat × Nat) := []
  hi : Option Int := none
deriving DecidableEq, Repr

def Patching.get (p : Patching) (k : Nat) : List Nat := ((p.data.find? fun x => x.1 == k).map (·.2)).getD []
def Patching.put (p : Patching) (k : Nat) (d : List Nat) : Patching :=
  { p with data := p.data.map fun x => if x.1 == k then (k, d) else x }

/-- One record of one file; tensor-map records wait for the second pass, in which the maps' BASE words stand as they will be
loaded. [DEDUCED, notes/assumptions/46.md] -/
def Linking.apply (l : Linking) (second : Bool) (i : Nat) (r : NRel) (p : Patching) : Option Patching :=
  if (r.type == 7) != second then some { p with hi := none }
  else do
    let d ← l.defOf i r.sym
    let S ← l.addrOf d
    let at_ ← l.spot i r.sect
    let off := at_.2 + r.off
    let n := if r.type = 1 ∨ r.type = 7 then 8 else 4
    let bs := p.get at_.1
    let w := fieldAt bs off n
    let P := l.base at_.1 + off
    let ws := l.wsOf d
    let map := if r.type = 7 then (l.spot d.1 d.2.sect).map fun m => fieldAt (p.get m.1) (m.2 + d.2.value + 7) 1 else none
    if bs.length < off + n ∨ p.done.contains (at_.1, off) ∨ (r.type = 6 ∧ (d.2.kind ≠ 5 ∨ ws.length ≠ 1))
        ∨ (r.type = 7 ∧ (d.2.kind ≠ 4 ∨ map = none)) then none
    else do
      let v ← relocWord r.type S r.add P w p.hi (ws.headD 0) (map.getD 0)
      let hi := if r.type = 4 then some (relocT S r.add P w) else none
      some { (p.put at_.1 (patchAt bs off n v)) with done := (at_.1, off) :: p.done, hi := hi }

def Linking.applyAll (l : Linking) (second : Bool) (p : Patching) : Option Patching :=
  (l.files.zipIdx).foldl (fun p f => f.1.rels.foldl (fun p r => p.bind (l.apply second f.2 r)) (p.map fun p => { p with hi := none })) (some p)

/-- A symbol of the linked file: its section by its index there, and its address. -/
def Linking.outSym (l : Linking) (kinds : List Nat) (i : Nat) (y : NSym) : Option NSym :=
  if y.sect = 0xFFFF then some y
  else do
    let p ← l.spot i y.sect
    let a ← l.addrOf (i, y)
    some { y with sect := kinds.idxOf p.1 + 1, value := a }

/-- `nirric-ld` on files in command-line order. `bases` gives the load address of each kind of section, and `entry` the name
after `-e`. [DESIGN CHOICE, notes/assumptions/46.md] -/
def linkNof (fs : List Nof) (bases : List (Nat × Nat)) (entry : Option (List Nat)) : Option Nof := do
  let kinds := (List.range 12).filter fun k => fs.any fun f => f.secs.any fun x => x.kind == k
  let l : Linking := { files := fs, joined := kinds.map fun k => (k, joinKind fs k), bases := bases }
  if 256 < (l.join 7).size ∨ kinds.any (fun k => l.base k % 2 ^ (l.join k).align != 0) then none
  else do
    let _ ← allSome ((fs.zipIdx).flatMap fun f => (f.1.syms.zipIdx).map fun y => (l.defOf f.2 y.2).bind l.addrOf)
    let handlers := (fs.zipIdx).flatMap fun f => (f.1.syms.filter fun y => y.kind == 5 && y.sect != 0).map fun y => (f.2, y)
    if handlers.any (fun d => decide (1 < (l.wsOf d).length)) then none
    let p ← l.applyAll false { data := kinds.map fun k => (k, (l.join k).data) }
    let p ← l.applyAll true p
    let syms ← allSome ((fs.zipIdx).flatMap fun f => (f.1.syms.filter (·.sect != 0)).map (l.outSym kinds f.2))
    let e ← match entry with
      | none => some 0
      | some n => (syms.find? fun y => y.name == n && y.kind == 3).map (·.value)
    let secs := kinds.map fun k =>
      ({ kind := k, flags := kindFlags.getD k 0, align := (l.join k).align, entsz := kindEntsz.getD k 0, addr := l.base k,
         size := (l.join k).size, data := p.get k } : NSec)
    some { linked := true, priv := fs.any (·.priv), entry := e, secs := secs, syms := syms }

end Sys2Proof.Machine
end

