-- ==== Sys2Proof/Machine/AsmFile.lean ====
section
/-!
DEFINITION. A source file (04 R85, R88, R89): its directives and sections, assembled in two passes into an object file.
-/

namespace Sys2Proof.Machine

/-- A section as it grows. -/
structure ASec where
  kind : Nat
  data : List Nat := []
  size : Nat := 0
  align : Nat
deriving DecidableEq, Repr

/-- A relocation record as it will stand in .rel. -/
structure ARel where
  sect : Nat                             -- kind of the section patched
  off : Nat
  fix : AFix
deriving DecidableEq, Repr

/-- The kernel whose lines are read, with the fields of its descriptor (R96). -/
structure AKern where
  name : Text
  back : Nat                             -- the section before `.kernel`
  entry : Option Nat := none             -- where its first instruction stands
  flags : Nat := 0
  group : Nat := 64
  slots : Nat := 8
  splitArg : Nat := 0
  tcm : Nat := 0
  spad : Nat := 0
  mtch : Nat := 0
  args : List (Text × Nat) := []
deriving DecidableEq, Repr

/-- An entry of the open dispatch table (R98). -/
structure AHandler where
  cls : Nat
  label : Text
  ws : Nat
  pri : Nat
deriving DecidableEq, Repr

/-- A file under assembly. `env` holds the symbols that the second pass works with. -/
structure Asm where
  final : Bool
  env : List ASym
  phr : List (Text × Text) := []         -- of the first pass: kernels and the phrases that hold them
  syms : List ASym := []
  phrases : List (Text × Text) := []
  secs : List ASec := []
  rels : List ARel := []                 -- newest first
  cur : Nat := 1
  la : Nat := 0
  hi : Option (Int × Int) := none
  kern : Option AKern := none
  htab : Option (List AHandler) := none
  poly : Option (Nat × Nat) := none      -- where the open table starts, and its segments
  ptab : Option (Nat × Nat × Nat) := none  -- where it starts, its states and rows
  pipes : List (Text × List Nat) := []   -- SLOTS, SLOTB, FROM, TO
  globals : List (Text × Nat) := []
  types : List (Text × Nat) := []
  sizes : List (Text × Nat) := []
  priv : Bool := false
  warn : Nat := 0
deriving DecidableEq, Repr

def Asm.names (a : Asm) : List ASym := if a.final then a.env else a.syms
def Asm.sec (a : Asm) (k : Nat) : ASec := (a.secs.find? fun x => x.kind == k).getD { kind := k, align := kindAlign.getD k 0 }
def Asm.setSec (a : Asm) (x : ASec) : Asm :=
  { a with secs := if a.secs.any (fun y => y.kind == x.kind) then a.secs.map (fun y => if y.kind == x.kind then x else y) else a.secs ++ [x] }

/-- Bytes at the end of a section; none go to .bss. -/
def Asm.emitTo (a : Asm) (k : Nat) (bs : List Nat) : Option Asm :=
  if k = 4 then none
  else
    let x := a.sec k
    some (a.setSec { x with data := x.data ++ bs, size := x.size + bs.length })

/-- Bytes that the second pass knows; the first keeps their place. -/
def Asm.emitLater (a : Asm) (k n : Nat) (bs : Option (List Nat)) : Option Asm :=
  if a.final then bs.bind (a.emitTo k) else a.emitTo k (List.replicate n 0)

def Asm.addRel (a : Asm) (k off : Nat) (f : AFix) : Asm := { a with rels := { sect := k, off := off, fix := f } :: a.rels }

/-- A symbol defined here, once (R88). -/
def Asm.define (a : Asm) (y : ASym) : Option Asm :=
  if isSymName y.name ∧ !(a.syms.any fun z => z.name == y.name) then some { a with syms := a.syms ++ [y] } else none

def Asm.label (a : Asm) (n : Text) : Option Asm := a.define { name := n, sect := a.cur, value := (a.sec a.cur).size }

/-- A number known on this line, within bounds. -/
def Asm.num (a : Asm) (t : Text) (lo hi : Nat) : Option Nat :=
  (knownVal a.names t).bind fun v => if (lo : Int) ≤ v ∧ v ≤ hi then some v.toNat else none

/-- name= operands: each name is one of those allowed, and stands once. -/
def keyed (allowed : List String) (ops : List Text) : Option (List (Text × Text)) := do
  let ps ← mapOpt (fun (t : Text) =>
    if t.contains '=' then some (trimText (t.takeWhile (· != '=')), trimText ((t.dropWhile (· != '=')).drop 1)) else none) ops
  if decide (ps.map (·.1)).Nodup && ps.all (fun p => allowed.any fun s => s.toList == p.1) then some ps else none

def keyOf (ps : List (Text × Text)) (n : String) : Option Text := (ps.find? fun p => p.1 == n.toList).map (·.2)

/-- A keyed number, or its default. -/
def Asm.keyNum (a : Asm) (ps : List (Text × Text)) (n : String) (dflt : Option Nat) (lo hi : Nat) : Option Nat :=
  match keyOf ps n with
  | none => dflt
  | some t => a.num t lo hi

/-! ### Floating-point data (R89) -/

/-- m × 10^k. -/
def decimalVal (m : Nat) (k : Int) : Val :=
  if 0 ≤ k then .fin false (m * 10 ^ k.toNat) 0 else (vDiv (.fin false m 0) (.fin false (10 ^ (-k).toNat) 0)).1

def signed? (t : Text) : Option Int :=
  match t with
  | '+' :: u => (digits? 10 false 0 false u).map fun n => (n : Int)
  | '-' :: u => (digits? 10 false 0 false u).map fun n => -(n : Int)
  | u => (digits? 10 false 0 false u).map fun n => (n : Int)

/-- Digits with a point: their number and how many stand behind the point. -/
def pointed? (base : Nat) (t : Text) : Option (Nat × Nat) :=
  let i := t.takeWhile (· != '.')
  let f := (t.drop i.length).drop 1
  (digits? base false 0 false (i ++ f)).map fun n => (n, f.length)

def literal? (t : Text) : Option Val :=
  match t with
  | '-' :: u => if u = ['i', 'n', 'f'] then some (.inf true) else (unsigned? u).map Val.negate
  | u => if u = ['i', 'n', 'f'] then some (.inf false) else if u = ['n', 'a', 'n'] then some .nan else unsigned? u
where
  unsigned? (t : Text) : Option Val :=
    match t with
    | '0' :: 'x' :: u =>
      let m := u.takeWhile (· != 'p')
      let e := u.drop m.length
      if e.isEmpty then none
      else (pointed? 16 m).bind fun p => (signed? (e.drop 1)).map fun k => .fin false p.1 (k - 4 * p.2)
    | u =>
      let m := u.takeWhile fun c => c != 'e' && c != 'E'
      let e := u.drop m.length
      (pointed? 10 m).bind fun p =>
        if e.isEmpty then some (decimalVal p.1 (-(p.2 : Int))) else (signed? (e.drop 1)).map fun k => decimalVal p.1 (k - p.2)

/-- `.f32`, `.bf16` and `.fp8e4`: fin(rto(x, f), m, f), with a warning for OF or NV. -/
def Asm.floats (a : Asm) (f : Fmt) (ops : List Text) : Option Asm := do
  let key := fun (t : Text) => ['r', 'm', '='].isPrefixOf t
  let m ← match ops with
    | t :: _ => if key t then (nameCode (only [0, 1, 2, 3, 4, 6] modeNames) (t.drop 3)) else some 0
    | [] => none
  let vs ← mapOpt literal? (if (ops.head?.any key) then ops.drop 1 else ops)
  if vs.isEmpty then none
  let rs := vs.map fun v => finVal f m 0 v
  let b ← a.emitTo a.cur (rs.flatMap fun r => leBytes (f.width / 8) r.1)
  some { b with warn := b.warn + (rs.filter fun r => r.2 &&& (fOF ||| fNV) != 0).length }

/-! ### Integer data -/

/-- The value of one datum in `n` bytes, signed or unsigned, with the record that a .dword leaves (R88, R95). [DESIGN CHOICE, notes/assumptions/54.md] -/
def Asm.datum (a : Asm) (n : Nat) (k off : Nat) (t : Text) : Option (Nat × Option AFix) := do
  let e ← expr? t
  let v ← exprVal a.names k off e.base
  match e.fn, v with
  | .plain, .known v => if -(2 ^ (8 * n - 1) : Int) ≤ v ∧ v < 2 ^ (8 * n) then some (imod v (8 * n), none) else none
  | .plain, .rel s add => if n = 8 then some (0, some ⟨1, s, add⟩) else none
  | .tmap, .rel s add => if n = 8 then some (0, some ⟨7, s, add⟩) else none
  | _, _ => none

/-- Data of `n` bytes each. -/
def Asm.data (a : Asm) (n : Nat) (k : Nat) : List Text → Option Asm
  | [] => some a
  | t :: ts =>
    let off := (a.sec k).size
    (if a.final then (a.datum n k off t).bind fun d =>
        (a.emitTo k (leBytes n d.1)).map fun b => match d.2 with | some f => b.addRel k off f | none => b
      else a.emitTo k (List.replicate n 0)).bind fun b => b.data n k ts

/-- Pad a section to a multiple of `b` bytes: `nop` in .text, zeros elsewhere. A section of records keeps its alignment. -/
def Asm.padSec (a : Asm) (k b : Nat) : Option Asm :=
  let x := a.sec k
  let n := alignUp x.size b - x.size
  let a := if isRecordKind k then a else a.setSec { x with align := max x.align (Nat.log2 b) }
  if k = 4 then some (a.setSec { a.sec k with size := x.size + n })
  else if k = 1 then (if n % 2 = 1 then none else a.emitTo k ((List.replicate (n / 2) [0x1A, 0]).flatten))
  else a.emitTo k (List.replicate n 0)

/-! ### Kernels (R88, R96) -/

def Asm.inKern (a : Asm) (f : AKern → Option AKern) : Option Asm := a.kern.bind fun k => (f k).map fun k => { a with kern := some k }

def AKern.argOf (k : AKern) (t : Text) : Option Nat := (k.args.find? fun p => p.1 == t).map (·.2)

/-- The descriptor of a kernel that ends (R96). -/
def Asm.endKern (a : Asm) (k : AKern) : Option Asm := do
  let o := (a.sec 5).size
  let narg := k.args.foldl (fun n p => max n (p.2 + 1)) 0
  let ph := (a.phr.filter fun p => p.1 == k.name).map (·.2)
  let b ← a.emitTo 5 (leBytes 8 0 ++ leBytes 4 k.flags ++ [k.group, k.slots, narg, k.splitArg] ++ leBytes 4 k.tcm ++ leBytes 4 k.spad
    ++ leBytes 4 k.mtch ++ leBytes 4 0 ++ leBytes 8 0 ++ List.replicate 24 0)
  let b := b.addRel 5 o ⟨1, sectSym 1, (k.entry.getD (a.sec 1).size : Nat)⟩
  match ph with
  | [] => some { b with kern := none, cur := k.back }
  | [p] => some { (b.addRel 5 (o + 0x20) ⟨1, p, 0⟩) with kern := none, cur := k.back }
  | _ => none

/-! ### Records -/

/-- A tensor map (R88, R97). -/
def Asm.tmapDir (a : Asm) (name : Text) (ops : List Text) : Option Asm := do
  let ps ← keyed ["base", "dims", "strides", "scale"] ops
  let o := (a.sec 6).size
  let a ← a.define { name := name, sect := 6, value := o, kind := 4 }
  let nums := fun (n : String) => match keyOf ps n with
    | none => some []
    | some t => if t.any isBlank then none else mapOpt (fun u => a.num u 0 (2 ^ 32 - 1)) (splitText ':' t)
  let base ← keyOf ps "base"
  let b ← a.data 8 6 [base]
  if !a.final then b.emitTo 6 (List.replicate 56 0)
  else do
    let ds ← nums "dims"
    let ss ← nums "strides"
    let v ← a.datum 8 6 o base
    let fmt := bits (match v.2 with | some f => wint f.add | none => v.1) 59 5
    let mx := decide (0x15 ≤ fmt ∧ fmt ≤ 0x1A)
    if ds.isEmpty ∨ 4 < ds.length ∨ ss.length + 1 ≠ ds.length ∨ mx ≠ (keyOf ps "scale").isSome then none
    else do
      let b ← b.emitTo 6 ((List.range 4).flatMap (fun i => leBytes 4 (ds.getD i 0)) ++ (List.range 3).flatMap (fun i => leBytes 4 (ss.getD i 0))
        ++ leBytes 4 ds.length)
      let b ← b.data 8 6 [(keyOf ps "scale").getD ['0']]
      b.emitTo 6 (List.replicate 16 0)

/-- The events and message classes of a protocol table by name (19 R372, R373), the attributes and the actions (R371, R374). -/
def eventNames : List (String × Nat) :=
  namesFrom 0 ["ld", "st", "at", "evi", "fwdrd", "fwdwr", "inv", "recall", "updin", "data", "dataex", "ack", "wbdone", "nack"]
def msgNames : List (String × Nat) := namesFrom 0 ["none", "req", "fwd", "rsp", "data", "wb", "upd", "ack"]
def attrNames : List (String × Nat) := [("stable", 1), ("wr", 2), ("rd", 4), ("dirty", 8), ("excl", 16)]
def actionNames : List (String × Nat) :=
  [("sdata", 1), ("wback", 2), ("fill", 4), ("drop", 8), ("upd", 16), ("push", 32), ("perf", 64), ("stall", 128), ("reqr", 256), ("reqw", 512)]

/-- A number, or what a reading of names gives. -/
def Asm.numOr (a : Asm) (f : Text → Option Nat) (t : Text) (hi : Nat) : Option Nat := (f t).orElse fun _ => a.num t 0 hi

/-- `.ptab`: a table, or with the keyword `state` or `row` a line of the open one (R88, R101).
[DESIGN CHOICE, notes/assumptions/45.md] -/
def Asm.ptabDir (a : Asm) (ops : List Text) : Option Asm := do
  let t ← ops.head?
  let w := t.takeWhile fun c => !isBlank c
  let r := trimText (t.drop w.length)
  if r.isEmpty then do
    let ps ← keyed ["id", "states", "events", "bound"] (ops.drop 1)
    let o := (a.sec 8).size
    let a ← a.define { name := t, sect := 8, value := o, kind := 6 }
    let id ← a.keyNum ps "id" none 0 255
    let ns ← a.keyNum ps "states" none 0 255
    let ne ← a.keyNum ps "events" none 0 255
    let tb ← a.keyNum ps "bound" none 0 255
    let b ← a.emitTo 8 ([id, ns, ne, tb] ++ List.replicate (12 + alignUp ns 8) 0)
    some { b with ptab := some (o, ns, 0) }
  else do
    let p ← a.ptab
    let x := a.sec 8
    if w = ['s', 't', 'a', 't', 'e'] then do
      let k ← a.num r 0 255
      let m ← (ops[1]?).bind fun u => a.numOr (setOf attrNames) u 255
      if ops.length ≠ 2 ∨ p.2.1 ≤ k then none
      else some (a.setSec { x with data := patchAt x.data (p.1 + 16 + k) 1 m })
    else if w = ['r', 'o', 'w'] then
      match ops.drop 1 with
      | [ev, nx, msg, act] => do
        let k ← a.num r 0 255
        let e ← a.numOr (nameCode eventNames) ev 255
        let n ← a.num nx 0 255
        let m ← a.numOr (nameCode msgNames) msg 255
        let c ← a.numOr (setOf actionNames) act (2 ^ 32 - 1)
        if 1024 ≤ p.2.2 then none
        else
          let a := a.setSec { x with data := patchAt x.data (p.1 + 4) 2 (p.2.2 + 1) }
          let b ← a.emitTo 8 ([k, e, n, m] ++ leBytes 4 c)
          some { b with ptab := some (p.1, p.2.1, p.2.2 + 1) }
      | _ => none
    else none

/-- `.phrase` (R88, R99, 15 R319): the kernels, then the pipes, whose ids are their places in the phrase.  A name that
no `.pipe` before it has declared is a kernel's. [DESIGN CHOICE, notes/assumptions/54.md] -/
def Asm.phraseDir (a : Asm) (name : Text) (ops : List Text) : Option Asm := do
  let isPipe := fun (t : Text) => a.pipes.any fun p => p.1 == t
  let ks := ops.takeWhile fun t => !isPipe t
  let qs ← mapOpt (fun t => (a.pipes.find? fun p => p.1 == t).map (·.2)) (ops.drop ks.length)
  let o := (a.sec 10).size
  let a ← a.define { name := name, sect := 10, value := o, kind := 9 }
  let a ← ((ops.drop ks.length).zipIdx).foldl (fun a p => a.bind fun a => a.define { name := p.1, sect := 0xFFFF, value := p.2, kind := 8 }) (some a)
  if 4 < ks.length then none
  else do
    let b ← a.emitTo 10 ([ks.length, qs.length] ++ List.replicate 38 0 ++ ((qs.zipIdx).flatMap fun q =>
      leBytes 2 q.2 ++ leBytes 2 (q.1.getD 0 0) ++ leBytes 4 (q.1.getD 1 0) ++ leBytes 2 (q.1.getD 2 0) ++ leBytes 2 (q.1.getD 3 0) ++ leBytes 4 0))
    some ((ks.zipIdx).foldl (fun a k => { (a.addRel 10 (o + 8 + 8 * k.2) ⟨1, k.1, 0⟩) with phrases := a.phrases ++ [(k.1, name)] }) b)

/-- `.nidx` (R88, R102). -/
def Asm.nidxDir (a : Asm) (name : Text) (ops : List Text) : Option Asm := do
  let ps ← keyed ["dim", "fmt", "metric", "levels", "degree", "efc", "seed", "cap"] ops
  let a ← a.define { name := name, sect := 11, value := (a.sec 11).size, kind := 10 }
  let dim ← a.keyNum ps "dim" none 1 4096
  let fmt ← a.keyNum ps "fmt" (some 0x0A) 0 255
  let met ← a.keyNum ps "metric" (some 0) 0 2
  let lev ← a.keyNum ps "levels" (some 4) 1 8
  let deg ← a.keyNum ps "degree" (some 32) 1 64
  let efc ← a.keyNum ps "efc" (some 64) 1 1024
  let seed ← a.keyNum ps "seed" (some 0) 0 (2 ^ 64 - 1)
  let cap ← a.keyNum ps "cap" none 0 (2 ^ 64 - 1)
  a.emitTo 11 (leBytes 2 dim ++ [fmt, met, lev, deg] ++ leBytes 2 efc ++ leBytes 8 seed ++ leBytes 8 cap ++ List.replicate 40 0)

/-- `.handler` (R88): one entry of the open table. -/
def Asm.handlerDir (a : Asm) (ops : List Text) : Option Asm := do
  let t ← a.htab
  match ops with
  | c :: l :: r => do
    let ps ← keyed ["ws", "pri"] r
    let c ← a.num c 0 31
    let pri ← a.keyNum ps "pri" (some 0) 0 3
    let ws ← a.keyNum ps "ws" (some (8 + pri)) 0 11
    if t.any (fun h => h.cls == c) ∨ !isSymName l then none
    else some { a with htab := some (t ++ [{ cls := c, label := l, ws := ws, pri := pri }]) }
  | _ => none

/-- `.seg` (R88, R100): the next segment of the open table. -/
def Asm.segDir (a : Asm) (ops : List Text) : Option Asm := do
  let p ← a.poly
  let x := a.sec 9
  if 64 ≤ p.2 ∨ ops.length ≠ 5 ∨ x.size ≠ p.1 + 16 + 20 * p.2 then none
  else do
    let vs ← mapOpt literal? ops
    let a := a.setSec { x with data := patchAt x.data p.1 1 (p.2 + 1) }
    let b ← a.emitTo 9 (vs.flatMap fun v => leBytes 4 (finVal fp32 0 0 v).1)
    some { b with poly := some (p.1, p.2 + 1) }

/-- The value names of `.type` (R93). -/
def kindOfNames : List (String × Nat) :=
  namesFrom 0 ["none", "func", "object", "kernel", "tmap", "handler", "ptab", "poly", "pipe", "phrase", "nidx"]

/-- A directive: its word without the dot, and its operands (R85, R88).  What `.la` sets lasts until the next `.section`, and
so holds for the `.kernel` lines in between. [DESIGN CHOICE, notes/assumptions/51.md] -/
def Asm.directive (a : Asm) (w : Text) (ops : List Text) : Option Asm :=
  let eq := fun (s : String) => s.toList == w
  let op := fun i => ops[i]?
  let n0 := fun lo hi => if ops.length = 1 then (op 0).bind fun t => a.num t lo hi else none
  let flag := fun b => if ops.isEmpty then a.inKern fun k => some { k with flags := k.flags ||| b } else none
  if eq "section" then
    match ops with
    | [t] => if a.kern.isSome then none else (List.range 12).find? (fun k => k != 0 && sectSym k == t) |>.map fun k =>
        { (a.setSec (a.sec k)) with cur := k, la := 0, hi := none }
    | _ => none
  else if eq "align" then
    (n0 2 65536).bind fun b => if 2 ^ Nat.log2 b = b then a.padSec a.cur b else none
  else if eq "byte" then (if ops.isEmpty then none else a.data 1 a.cur ops)
  else if eq "half" then (if ops.isEmpty then none else a.data 2 a.cur ops)
  else if eq "word" then (if ops.isEmpty then none else a.data 4 a.cur ops)
  else if eq "dword" then (if ops.isEmpty then none else a.data 8 a.cur ops)
  else if eq "f32" then a.floats fp32 ops
  else if eq "bf16" then a.floats bf16 ops
  else if eq "fp8e4" then a.floats fp8e4 ops
  else if eq "space" then
    match ops with
    | [n] => (a.num n 0 (2 ^ 40)).bind fun n =>
        let x := a.sec a.cur
        if a.cur = 4 then some (a.setSec { x with size := x.size + n }) else a.emitTo a.cur (List.replicate n 0)
    | [n, f] => if a.cur = 4 then none
        else (a.num n 0 (2 ^ 40)).bind fun n => (a.num f 0 255).bind fun f => a.emitTo a.cur (List.replicate n f)
    | _ => none
  else if eq "equ" then
    match ops with
    | [n, e] => (knownVal a.syms e).bind fun v => a.define { name := n, sect := 0xFFFF, value := v }
    | _ => none
  else if eq "global" then
    match ops with
    | [n] => some { a with globals := (n, 1) :: a.globals }
    | _ => none
  else if eq "local" then
    match ops with
    | [n] => some { a with globals := (n, 0) :: a.globals }
    | _ => none
  else if eq "type" then
    match ops with
    | [n, k] => (nameCode kindOfNames k).map fun k => { a with types := (n, k) :: a.types }
    | _ => none
  else if eq "size" then
    match ops with
    | [n, e] => if !a.final then some a else (a.num e 0 (2 ^ 64 - 1)).map fun v => { a with sizes := (n, v) :: a.sizes }
    | _ => none
  else if eq "kernel" then
    match ops with
    | [n] => if a.kern.isSome then none
        else (a.define { name := n, sect := 5, value := (a.sec 5).size, kind := 3 }).map fun b =>
          { b with kern := some { name := n, back := a.cur }, cur := 1, hi := none }
    | _ => none
  else if eq "endk" then (if ops.isEmpty then a.kern.bind a.endKern else none)
  else if eq "arg" then
    match ops with
    | [n, i] => (a.num i 0 11).bind fun i => (a.inKern fun k => some { k with args := k.args ++ [(n, i)] }).bind fun b =>
        b.define { name := n, sect := 0xFFFF, value := 8 * i }
    | _ => none
  else if eq "match" then
    match ops with
    | [n, r] => a.inKern fun k => (k.argOf n).bind fun i =>
        if r = "same".toList then some { k with mtch := k.mtch ||| 2 ^ i }
        else if r = "stride".toList then some { k with mtch := k.mtch &&& (4095 - 2 ^ i) } else none
    | _ => none
  else if eq "pure" then flag 1
  else if eq "det" then flag 2
  else if eq "coresident" then flag 4
  else if eq "progress" then flag 8
  else if eq "split" then
    match ops with
    | [n] => a.inKern fun k => (k.argOf n).map fun i => { k with flags := k.flags ||| 16, splitArg := i }
    | _ => none
  else if eq "slots" then (n0 1 8).bind fun n => a.inKern fun k => some { k with slots := n }
  else if eq "group" then (n0 1 64).bind fun n => a.inKern fun k => some { k with group := n }
  else if eq "tcm" then (n0 0 22272).bind fun n => a.inKern fun k => some { k with tcm := n }
  else if eq "spad" then (n0 0 524288).bind fun n => a.inKern fun k => some { k with spad := n }
  else if eq "pipe" then
    match ops with
    | n :: r => do
      let ps ← keyed ["slots", "bytes", "from", "to"] r
      let sl ← a.keyNum ps "slots" none 2 64
      let by_ ← a.keyNum ps "bytes" none 128 65536
      let fr ← a.keyNum ps "from" none 0 3
      let dst ← a.keyNum ps "to" none 0 3
      if a.pipes.any (fun p => p.1 == n) then none else some { a with pipes := a.pipes ++ [(n, [sl, by_, fr, dst])] }
    | [] => none
  else if eq "phrase" then
    match ops with
    | n :: r => a.phraseDir n r
    | [] => none
  else if eq "htab" then
    match ops with
    | [n] => if a.htab.isSome then none
        else (a.define { name := n, sect := 7, value := 0 }).map fun b => { b with htab := some [] }
    | _ => none
  else if eq "handler" then a.handlerDir ops
  else if eq "tmap" then
    match ops with
    | n :: r => a.tmapDir n r
    | [] => none
  else if eq "poly" then
    match ops with
    | [n] => (a.padSec 9 16).bind fun b => (b.define { name := n, sect := 9, value := (b.sec 9).size, kind := 7 }).bind fun c =>
        (c.emitTo 9 (List.replicate 16 0)).map fun d => { d with poly := some ((b.sec 9).size, 0) }
    | _ => none
  else if eq "seg" then a.segDir ops
  else if eq "ptab" then a.ptabDir ops
  else if eq "nidx" then
    match ops with
    | n :: r => a.nidxDir n r
    | [] => none
  else if eq "la" then (n0 0 15).map fun n => { a with la := n }
  else none

/-- A privileged form (24 R438). -/
def privWord (mn : List Text) (w : Nat) : Bool :=
  let m := bits w 1 6
  let is := fun (s : String) => mn.head? == some s.toList
  is "tret" || is "cfreeze" || is "cthaw" || is "cswap" || is "wpset" || ((is "mfs" || is "mts") && decide (0x100 ≤ bits w 20 12))
    || (bit w 0 && m == 0x3E && !is "l1inv" && !is "l2wb") || (is "lstat" && decide (0 < bits w 20 12))

/-- An instruction line, which stands in .text. -/
def Asm.instr (a : Asm) (w : Text) (ops : List Text) : Option Asm := do
  let mn := splitText '.' w
  let n ← instrLen mn
  let off := (a.sec a.cur).size
  let a : Asm := { a with kern := a.kern.map fun (k : AKern) => { k with entry := some (k.entry.getD off) } }
  if a.cur ≠ 1 then none
  else if !a.final then a.emitTo 1 (List.replicate n 0)
  else do
    let r ← instrOut ⟨a.names, 1, off, a.la, a.hi⟩ mn ops
    let b ← a.emitTo 1 (leBytes r.1 r.2.bits)
    let b := match r.2.fix with
      | some f => { (b.addRel 1 off f) with hi := if f.type = 4 then none else b.hi }
      | none => b
    some { b with hi := r.2.hi.orElse fun _ => b.hi, priv := b.priv || privWord mn r.2.bits }

/-- One line. -/
def Asm.line (a : Asm) (l : String) : Option Asm := do
  let p := parseLine l.toList
  let a ← p.labels.foldl (fun a n => a.bind fun a => a.label n) (some a)
  match p.word with
  | [] => some a
  | '.' :: w => a.directive w p.ops
  | w => a.instr w p.ops

def Asm.lines (a : Asm) : List String → Option Asm
  | [] => if a.kern.isSome then none else some a
  | l :: ls => (a.line l).bind fun a => a.lines ls

/-- The dispatch table of a file (R98): each entry's word is a relocation against its label. -/
def Asm.closeHtab (a : Asm) : Option Asm :=
  match a.htab with
  | none => some a
  | some hs => (a.emitTo 7 (List.replicate 256 0)).map fun a =>
      hs.foldl (fun a h => a.addRel 7 (8 * h.cls) ⟨1, h.label, (2 ^ 63 + h.pri * 2 ^ 60 + h.ws * 2 ^ 56 : Nat)⟩) a

/-- A symbol with what `.global`, `.local`, `.type` and `.size` set; the label of a handler is of the kind 5. -/
def Asm.settled (a : Asm) (y : ASym) : ASym :=
  { y with bind := ((a.globals.find? fun p => p.1 == y.name).map (·.2)).getD y.bind,
           kind := if (a.htab.getD []).any (fun h => h.label == y.name) then 5
             else ((a.types.find? fun p => p.1 == y.name).map (·.2)).getD y.kind,
           size := ((a.sizes.find? fun p => p.1 == y.name).map (·.2)).getD 0 }

/-- The symbols of the object: those of the file, then one for each section that a record names and one for each name that
nothing defines. -/
def Asm.symbols (a : Asm) : List ASym :=
  let own := a.syms.map a.settled
  let used := (a.rels.map fun r => r.fix.sym).eraseDups.filter fun n => !a.syms.any fun y => y.name == n
  own ++ used.map fun n =>
    match (List.range 12).find? fun k => k != 0 && sectSym k == n with
    | some k => { name := n, sect := k, value := 0 }
    | none => a.settled { name := n, sect := 0, value := 0, bind := 1 }

/-- The object file of a source that both passes took. -/
def Asm.object (a : Asm) : Nof :=
  let ks := a.secs.map (·.kind)
  let ix := fun k => if k = 0 then 0 else if k = 0xFFFF then 0xFFFF else ks.idxOf k + 1
  let ys := a.symbols
  { priv := a.priv
    secs := a.secs.map fun x =>
      { kind := x.kind, flags := kindFlags.getD x.kind 0, align := x.align, entsz := kindEntsz.getD x.kind 0, size := x.size, data := x.data }
    syms := ys.map fun y => { name := y.name.map Char.toNat, sect := ix y.sect, kind := y.kind, bind := y.bind, value := wint y.value, size := y.size }
    rels := a.rels.reverse.map fun r =>
      { off := r.off, sym := (ys.map (·.name)).idxOf r.fix.sym, type := r.fix.type, sect := ix r.sect, add := wint r.fix.add } }

/-- The object of a source, and the warnings of R89; none on any assembly error (R83). -/
def assembleFile (src : List String) : Option (Nof × Nat) := do
  let one ← ({ final := false, env := [] } : Asm).lines src
  let env := one.symbols
  let two ← ({ final := true, env := env, phr := one.phrases } : Asm).lines src
  let done ← two.closeHtab
  some (done.object, done.warn)

end Sys2Proof.Machine
end

