-- ==== Sys2Proof/Machine/Loader.lean ====
section
/-!
DEFINITION. The loader (04 R96 to R102, R104; 24 R438): which files it refuses, and what a file that it takes puts into
memory and into the dispatch tables.
-/

namespace Sys2Proof.Machine

/-- The whole records of `n` bytes in a section, as values. -/
def recordsOf (d : List Nat) (n : Nat) : List Nat := (List.range (d.length / n)).map fun i => fieldAt d (n * i) n

/-- Whether an entry of a dispatch table breaks R98. -/
def tableEntryBad (e : Nat) : Bool := bit e 62 || decide (11 < bits e 56 4) || bit e 0

/-- Whether a table's records break R99; `fuel` bounds their number. -/
def phrasesBad : Nat → List Nat → Bool
  | 0, d => !d.isEmpty
  | fuel + 1, d =>
    if d.isEmpty then false
    else
      let n := 0x28 + 16 * d.getD 1 0
      decide (d.length < n) || (phraseOf (fieldAt d 0 n)).bad || phrasesBad fuel (d.drop n)

/-- Whether the polynomial tables of a section, each aligned to 16, break R100. -/
def polysBad : Nat → List Nat → Bool
  | 0, d => !d.isEmpty
  | fuel + 1, d =>
    if d.isEmpty then false
    else
      match polyHeader (fieldAt d 0 16) with
      | none => true
      | some n => decide (d.length < 16 + 20 * n) || !polyRises (polySegs n (recordsOf (sliceAt d 16 (20 * n)) 4))
          || polysBad fuel (d.drop (alignUp (16 + 20 * n) 16))

/-- Whether protocol tables break R101. -/
def ptabsBad : Nat → List Nat → Bool
  | 0, d => !d.isEmpty
  | fuel + 1, d =>
    if d.isEmpty then false
    else
      let ns := d.getD 1 0
      let nrow := fieldAt d 4 2
      let n := 16 + alignUp ns 8 + 8 * nrow
      !(d.getD 0 0 == 6 || d.getD 0 0 == 7) || decide (ns < 2 ∨ 32 < ns ∨ d.getD 2 0 ≠ 14 ∨ nrow < 1 ∨ 1024 < nrow ∨ d.length < n)
        || (sliceAt d 6 10).any (· != 0) || (sliceAt d (16 + ns) (alignUp ns 8 - ns)).any (· != 0) || ptabsBad fuel (d.drop n)

/-- Whether an index template breaks R102. -/
def templateBad (v : Nat) : Bool := ({ ixOf { ctx := 0 } 0 v with cap := 1 } : Ix).bad v

/-- Whether a section holds a record that breaks its rule (R96 to R102). -/
def recordsBad (x : NSec) : Bool :=
  let d := x.data
  if x.kind = 5 then d.length % 64 != 0 || (recordsOf d 64).any fun v => kernelBad (setBits v 67 1 0)
  else if x.kind = 6 then d.length % 64 != 0 || (recordsOf d 64).any fun v => mapBad ((List.range 8).map fun i => bits v (64 * i) 64)
  else if x.kind = 7 then !(d.length == 0 || d.length == 256) || (recordsOf d 8).any tableEntryBad
  else if x.kind = 8 then ptabsBad d.length d
  else if x.kind = 9 then polysBad d.length d
  else if x.kind = 10 then phrasesBad d.length d
  else if x.kind = 11 then d.length % 64 != 0 || (recordsOf d 64).any templateBad
  else false

/-- Where a context's tables map an address, with no access made: memory of the device that one of its frames holds.
[DESIGN CHOICE, notes/assumptions/47.md] -/
def State.mappedAt (s : State) (c va : Nat) : Option Nat :=
  match (s.walkGo 0 c va true 0 4 (s.ctx c).root).1 with
  | .ok f =>
    let size := 2 ^ (16 + 10 * f.lvl)
    if eComp f.e || decide (2 ≤ eTier f.e) || !(s.ctx c).inFrames (bits f.e 16 36 * 65536) size then none
    else some (bits f.e 16 36 * 65536 + va % size)
  | .error _ => none

/-- Place bytes at consecutive addresses of a context. -/
def State.placeBytes (s : State) (c va : Nat) : List Nat → Option State
  | [] => some s
  | b :: bs => (s.mappedAt c va).bind fun pa => (s.wrN pa 1 b).placeBytes c (va + 1) bs

/-- The dispatch table at TCM 0x0F00 of every core of the partition (R98); entry 24 of a user context is the hardware's
(24 R438). [DEDUCED, notes/assumptions/47.md] -/
def State.placeTable (s : State) (c : Nat) (user : Bool) (d : List Nat) : State :=
  (s.ctx c).clusterList.foldl (fun s k => (List.range 8).foldl (fun s i => (recordsOf d 8).zipIdx.foldl (fun s e =>
    if user && e.2 == 24 then s else s.wrN (tcmKey k.1 k.2 i (0xF00 + 8 * e.2)) 8 e.1) s) s) s

/-- Load a file into a context; `user` says that it is a user context. None where the loader refuses it, and then it places
nothing. [DESIGN CHOICE, notes/assumptions/47.md] -/
def State.loadNof (s : State) (c : Nat) (user : Bool) (file : List Nat) : Option State := do
  let f ← readNof file
  let table := ((f.secs.find? fun x => x.kind == 7).map (·.data)).getD []
  if !f.linked || decide (1 < (f.secs.filter fun x => x.kind == 7).length) || f.secs.any recordsBad || (f.priv && user) then none
  else if !table.isEmpty && (!(s.ctx c).swapped || (s.ctx c).st != 3 || (user && bit (fieldAt table 0xC0 8) 63)) then none
  else do
    let t ← (f.secs.filter fun x => bit x.flags 0).foldl (fun t x => t.bind fun t =>
      t.placeBytes c x.addr (if x.kind = 4 then List.replicate x.size 0 else x.data)) (some s)
    some (if table.isEmpty then t else t.placeTable c user table)

end Sys2Proof.Machine
end

