-- ==== Sys2Proof/Tests/Slice0.lean ====
section
/-! SUPPORT. Tests of the model: words written from the manual's encodings decode to their instructions, each check of WellFormed
refuses an ill-formed term, the manual's examples hold, and every statement with hypotheses has a state that meets them. -/
open Sys2Proof Sys2Proof.Machine
set_option Elab.async false

theorem test_decode_00 :
    decodeWord 0x8E6281 = .ok (.add .i32 5 6 7)
      ∧ decodeWord 0x28E6281 = .ok (.sub .i32 5 6 7)
      ∧ decodeWord 0x48E6281 = .ok (.and .i32 5 6 7)
      ∧ decodeWord 0x68E6281 = .ok (.or .i32 5 6 7)
      ∧ decodeWord 0x88E6281 = .ok (.xor .i32 5 6 7)
      ∧ decodeWord 0xA8E6281 = .ok (.andn .i32 5 6 7)
      ∧ decodeWord 0xC8E6281 = .ok (.orn .i32 5 6 7)
      ∧ decodeWord 0xE8E6281 = .ok (.min .i32 5 6 7)
      ∧ decodeWord 0x108E6281 = .ok (.max .i32 5 6 7)
      ∧ decodeWord 0x128E6281 = .ok (.minn .i32 5 6 7)
      ∧ decodeWord 0x148E6281 = .ok (.maxn .i32 5 6 7)
      ∧ decodeWord 0x168E6281 = .ok (.adds .i32 5 6 7)
      ∧ decodeWord 0x188E6281 = .ok (.subs .i32 5 6 7)
      ∧ decodeWord 0x1A8E6281 = .ok (.absd .i32 5 6 7)
      ∧ decodeWord 0x5A306283 = .ok (.addi 5 6 1443)
      ∧ decodeWord 0x5A326283 = .ok (.andi 5 6 1443)
      ∧ decodeWord 0x5A346283 = .ok (.ori 5 6 1443)
      ∧ decodeWord 0x5A366283 = .ok (.xori 5 6 1443)
      ∧ decodeWord 0x5A386283 = .ok (.mini 5 6 1443)
      ∧ decodeWord 0x5A3A6283 = .ok (.maxi 5 6 1443) :=
  ⟨rfl, rfl, rfl, rfl, rfl, rfl, rfl, rfl, rfl, rfl, rfl, rfl, rfl, rfl, rfl, rfl, rfl, rfl, rfl, rfl⟩

theorem test_decode_01 :
    decodeWord 0x8E6285 = .ok (.sll .i32 5 6 7)
      ∧ decodeWord 0x60AA6285 = .ok (.sllImm .i32 5 6 21 1)
      ∧ decodeWord 0x28E6285 = .ok (.srl .i32 5 6 7)
      ∧ decodeWord 0x62AA6285 = .ok (.srlImm .i32 5 6 21 1)
      ∧ decodeWord 0x48E6285 = .ok (.sra .i32 5 6 7)
      ∧ decodeWord 0x64AA6285 = .ok (.sraImm .i32 5 6 21 1)
      ∧ decodeWord 0x68E6285 = .ok (.rol .i32 5 6 7)
      ∧ decodeWord 0x66AA6285 = .ok (.rolImm .i32 5 6 21 1)
      ∧ decodeWord 0x88E6285 = .ok (.ror .i32 5 6 7)
      ∧ decodeWord 0x68AA6285 = .ok (.rorImm .i32 5 6 21 1)
      ∧ decodeWord 0xA0E6285 = .ok (.ext 5 6 7)
      ∧ decodeWord 0xC0E6285 = .ok (.extn 5 6 7)
      ∧ decodeWord 0xE0E6285 = .ok (.ins 5 6 7)
      ∧ decodeWord 0x10806285 = .ok (.clz .i32 5 6)
      ∧ decodeWord 0x12806285 = .ok (.ctz .i32 5 6)
      ∧ decodeWord 0x14806285 = .ok (.pop .i32 5 6)
      ∧ decodeWord 0x16806285 = .ok (.brev .i32 5 6)
      ∧ decodeWord 0x18806285 = .ok (.bswap .i32 5 6)
      ∧ decodeWord 0x808E6287 = .ok (.cmp .i32 5 6 7 4)
      ∧ decodeWord 0x820E6287 = .ok (.csel 5 6 7 4) :=
  ⟨rfl, rfl, rfl, rfl, rfl, rfl, rfl, rfl, rfl, rfl, rfl, rfl, rfl, rfl, rfl, rfl, rfl, rfl, rfl, rfl⟩

theorem test_decode_02 :
    decodeWord 0x908E6289 = .ok (.mul .i32 5 6 7 9)
      ∧ decodeWord 0x928E6289 = .ok (.mulh .i32 5 6 7 9)
      ∧ decodeWord 0x948E6289 = .ok (.mulhn .i32 5 6 7 9)
      ∧ decodeWord 0x968E6289 = .ok (.div .i32 5 6 7 9)
      ∧ decodeWord 0x988E6289 = .ok (.divn .i32 5 6 7 9)
      ∧ decodeWord 0x9A8E6289 = .ok (.rem .i32 5 6 7 9)
      ∧ decodeWord 0x9C8E6289 = .ok (.remn .i32 5 6 7 9)
      ∧ decodeWord 0xABCDE28B = .ok (.ldhi 5 703710)
      ∧ decodeWord 0xABCDE28D = .ok (.pcrel 5 703710)
      ∧ decodeWord 0xE628F = .ok (.ptag 5 6 7)
      ∧ decodeWord 0x20E628F = .ok (.padd 5 6 7)
      ∧ decodeWord 0x40E628F = .ok (.psub 5 6 7)
      ∧ decodeWord 0x600628F = .ok (.pfmt 5 6)
      ∧ decodeWord 0x800628F = .ok (.pclr 5 6)
      ∧ decodeWord 0x5A307311 = .ok (.beq 6 7 1443)
      ∧ decodeWord 0x5A327311 = .ok (.bne 6 7 1443)
      ∧ decodeWord 0x5A347311 = .ok (.blt 6 7 1443)
      ∧ decodeWord 0x5A367311 = .ok (.bge 6 7 1443)
      ∧ decodeWord 0x5A387311 = .ok (.bltn 6 7 1443)
      ∧ decodeWord 0x5A3A7311 = .ok (.bgen 6 7 1443) :=
  ⟨rfl, rfl, rfl, rfl, rfl, rfl, rfl, rfl, rfl, rfl, rfl, rfl, rfl, rfl, rfl, rfl, rfl, rfl, rfl, rfl⟩

theorem test_decode_03 :
    decodeWord 0x5A3C7311 = .ok (.bbs 6 7 1443)
      ∧ decodeWord 0x5A3E7311 = .ok (.bbc 6 7 1443)
      ∧ decodeWord 0xABCDE293 = .ok (.jl 5 703710)
      ∧ decodeWord 0x5A306295 = .ok (.jlr 5 6 1443)
      ∧ decodeWord 0x24A0 = .ok (.cMv 5 9)
      ∧ decodeWord 0xA4A0 = .ok (.cAdd 5 9)
      ∧ decodeWord 0x24A2 = .ok (.cSub 5 9)
      ∧ decodeWord 0xA4A2 = .ok (.cXor 5 9)
      ∧ decodeWord 0xACA4 = .ok (.cAddi 5 43)
      ∧ decodeWord 0xACA6 = .ok (.cLi 5 43)
      ∧ decodeWord 0x94A8 = .ok (.cLd 5 37)
      ∧ decodeWord 0x94EA = .ok (.cSt 7 37)
      ∧ decodeWord 0xACCC = .ok (.cBz 6 43)
      ∧ decodeWord 0xACCE = .ok (.cBnz 6 43)
      ∧ decodeWord 0x74D0 = .ok (.cSk 6 3 5)
      ∧ decodeWord 0x54B2 = .ok (.cSll 5 21)
      ∧ decodeWord 0xD4B2 = .ok (.cSrl 5 21)
      ∧ decodeWord 0x54B4 = .ok (.cSra 5 21)
      ∧ decodeWord 0xD4B4 = .ok (.cAndi 5 21)
      ∧ decodeWord 0xB476 = .ok (.cJ 1443) :=
  ⟨rfl, rfl, rfl, rfl, rfl, rfl, rfl, rfl, rfl, rfl, rfl, rfl, rfl, rfl, rfl, rfl, rfl, rfl, rfl, rfl⟩

theorem test_decode_04 :
    decodeWord 0x2418 = .ok (.cJr 9)
      ∧ decodeWord 0xA4B8 = .ok (.cJlr 5 9)
      ∧ decodeWord 0x204E62B1 = .ok (.fadd .f32 5 6 7 1)
      ∧ decodeWord 0x224E62B1 = .ok (.fsub .f32 5 6 7 1)
      ∧ decodeWord 0x244E62B1 = .ok (.fmul .f32 5 6 7 1)
      ∧ decodeWord 0x264E62B1 = .ok (.fmin .f32 5 6 7 1)
      ∧ decodeWord 0x284E62B1 = .ok (.fmax .f32 5 6 7 1)
      ∧ decodeWord 0xA4E62B1 = .ok (.fsgn .f32 5 6 7)
      ∧ decodeWord 0x904E62B3 = .ok (.ffma .f32 5 6 7 9)
      ∧ decodeWord 0x924E62B3 = .ok (.fdiv .f32 5 6 7 9)
      ∧ decodeWord 0x944062B3 = .ok (.fsqrt .f32 5 6 9)
      ∧ decodeWord 0x205662B5 = .ok (.fcvt .f32 5 6 11 1)
      ∧ decodeWord 0x224A62B5 = .ok (.fcvti .f32 5 6 5 1)
      ∧ decodeWord 0x249262B5 = .ok (.icvtf .i32 5 6 9 1)
      ∧ decodeWord 0x64462B5 = .ok (.fin .f32 5 6 2)
      ∧ decodeWord 0x4E62B7 = .ok (.feq .f32 5 6 7)
      ∧ decodeWord 0x24E62B7 = .ok (.flt .f32 5 6 7)
      ∧ decodeWord 0x44E62B7 = .ok (.fle .f32 5 6 7)
      ∧ decodeWord 0x64062B7 = .ok (.fclass .f32 5 6)
      ∧ decodeWord 0x62B9 = .ok (.tget 5 6) :=
  ⟨rfl, rfl, rfl, rfl, rfl, rfl, rfl, rfl, rfl, rfl, rfl, rfl, rfl, rfl, rfl, rfl, rfl, rfl, rfl, rfl⟩

theorem test_decode_05 :
    decodeWord 0x20E62B9 = .ok (.tset 5 6 7)
      ∧ decodeWord 0xA59462A1 = .ok (.ld .i32 5 6 165 9)
      ∧ decodeWord 0x966462A3 = .ok (.lda .i32 5 6 37 2 9)
      ∧ decodeWord 0xA95463A5 = .ok (.st .i32 6 7 677 1)
      ∧ decodeWord 0xA96463A7 = .ok (.str .i32 6 7 677 2)
      ∧ decodeWord 0xA96263A9 = .ok (.stf .f32 6 7 677 2)
      ∧ decodeWord 0x908E6297 = .ok (.ldx .i32 5 6 7 9)
      ∧ decodeWord 0x28E6297 = .ok (.stx .i32 5 6 7)
      ∧ decodeWord 0x948E6297 = .ok (.ldxr .i32 5 6 7 9)
      ∧ decodeWord 0x968E6297 = .ok (.lde 2 5 6 7 9)
      ∧ decodeWord 0x88E6297 = .ok (.ste 2 5 6 7)
      ∧ decodeWord 0x266063AB = .ok (.amoswap 6 7 1 1 2 9)
      ∧ decodeWord 0x266263AB = .ok (.amoadd 6 7 1 1 2 9)
      ∧ decodeWord 0x266463AB = .ok (.amoand 6 7 1 1 2 9)
      ∧ decodeWord 0x266663AB = .ok (.amoor 6 7 1 1 2 9)
      ∧ decodeWord 0x266863AB = .ok (.amoxor 6 7 1 1 2 9)
      ∧ decodeWord 0x266A63AB = .ok (.amomin 6 7 1 1 2 9)
      ∧ decodeWord 0x266C63AB = .ok (.amomax 6 7 1 1 2 9)
      ∧ decodeWord 0x266E63AB = .ok (.amominn 6 7 1 1 2 9)
      ∧ decodeWord 0x267063AB = .ok (.amomaxn 6 7 1 1 2 9) :=
  ⟨rfl, rfl, rfl, rfl, rfl, rfl, rfl, rfl, rfl, rfl, rfl, rfl, rfl, rfl, rfl, rfl, rfl, rfl, rfl, rfl⟩

theorem test_decode_06 :
    decodeWord 0x2672642B = .ok (.amocas 6 8 1 1 2 9)
      ∧ decodeWord 0x266063AD = .ok (.amfadd 6 7 1 1 2 9)
      ∧ decodeWord 0x266263AD = .ok (.amfmin 6 7 1 1 2 9)
      ∧ decodeWord 0x266463AD = .ok (.amfmax 6 7 1 1 2 9)
      ∧ decodeWord 0x242663AD = .ok (.radd 6 7 1 9)
      ∧ decodeWord 0x2608602D = .ok (.rflush 6 2 9)
      ∧ decodeWord 0x266A63AD = .ok (.ldres 6 7 1 1 2 9)
      ∧ decodeWord 0x26AC63AD = .ok (.stcond 6 7 1 2 2 9)
      ∧ decodeWord 0x242E63AD = .ok (.raddi 6 7 1 9)
      ∧ decodeWord 0x43C5A02F = .ok (.fence 4 90 60)
      ∧ decodeWord 0x460AF = .ok (.tlwait 6 2)
      ∧ decodeWord 0x54612F = .ok (.tltest 5 6 2)
      ∧ decodeWord 0xEAF = .ok (.hint 5 0)
      ∧ decodeWord 0x940E62E9 = .ok (.cpy 5 6 7 2 9)
      ∧ decodeWord 0x944E62E9 = .ok (.cpyt 5 6 7 2 9)
      ∧ decodeWord 0x948E62E9 = .ok (.cpyg 5 6 7 2 9)
      ∧ decodeWord 0x62F5 = .ok (.trread 5 6)
      ∧ decodeWord 0x5A3062C1 = .ok (.vclaim 5 6 1443)
      ∧ decodeWord 0x20041 = .ok .vrel
      ∧ decodeWord 0x10462C1 = .ok (.vlen 5 6 16) :=
  ⟨rfl, rfl, rfl, rfl, rfl, rfl, rfl, rfl, rfl, rfl, rfl, rfl, rfl, rfl, rfl, rfl, rfl, rfl, rfl, rfl⟩

theorem test_decode_07 :
    decodeWord 0x1662C1 = .ok (.vsplat 5 6 1)
      ∧ decodeWord 0x608E62C3 = .ok (.vadd .i32 5 6 7 3)
      ∧ decodeWord 0x628E62C3 = .ok (.vsub .i32 5 6 7 3)
      ∧ decodeWord 0x648E62C3 = .ok (.vand .i32 5 6 7 3)
      ∧ decodeWord 0x668E62C3 = .ok (.vor .i32 5 6 7 3)
      ∧ decodeWord 0x688E62C3 = .ok (.vxor .i32 5 6 7 3)
      ∧ decodeWord 0x6A8E62C3 = .ok (.vmin .i32 5 6 7 3)
      ∧ decodeWord 0x6C8E62C3 = .ok (.vmax .i32 5 6 7 3)
      ∧ decodeWord 0x6E8E62C3 = .ok (.vadds .i32 5 6 7 3)
      ∧ decodeWord 0x708E62C3 = .ok (.vsubs .i32 5 6 7 3)
      ∧ decodeWord 0x728E62C3 = .ok (.vmul .i32 5 6 7 3)
      ∧ decodeWord 0x748E62C3 = .ok (.vsll .i32 5 6 7 3)
      ∧ decodeWord 0x768E62C3 = .ok (.vsrl .i32 5 6 7 3)
      ∧ decodeWord 0x788E62C3 = .ok (.vsra .i32 5 6 7 3)
      ∧ decodeWord 0x7A8E62C3 = .ok (.vcmpeq .i32 5 6 7 3)
      ∧ decodeWord 0x7C8E62C3 = .ok (.vcmplt .i32 5 6 7 3)
      ∧ decodeWord 0x7E8E62C3 = .ok (.vcmple .i32 5 6 7 3)
      ∧ decodeWord 0x604E62C5 = .ok (.vfadd .f32 5 6 7 3)
      ∧ decodeWord 0x624E62C5 = .ok (.vfsub .f32 5 6 7 3)
      ∧ decodeWord 0x644E62C5 = .ok (.vfmul .f32 5 6 7 3) :=
  ⟨rfl, rfl, rfl, rfl, rfl, rfl, rfl, rfl, rfl, rfl, rfl, rfl, rfl, rfl, rfl, rfl, rfl, rfl, rfl, rfl⟩

theorem test_decode_08 :
    decodeWord 0x664E62C5 = .ok (.vfmin .f32 5 6 7 3)
      ∧ decodeWord 0x684E62C5 = .ok (.vfmax .f32 5 6 7 3)
      ∧ decodeWord 0x6A4E62C5 = .ok (.vfsgn .f32 5 6 7 3)
      ∧ decodeWord 0x6C4E62C5 = .ok (.vfeq .f32 5 6 7 3)
      ∧ decodeWord 0x6E4E62C5 = .ok (.vflt .f32 5 6 7 3)
      ∧ decodeWord 0x704E62C5 = .ok (.vfle .f32 5 6 7 3)
      ∧ decodeWord 0x904E62C7 = .ok (.vffma .f32 5 6 7 9)
      ∧ decodeWord 0x924E62C7 = .ok (.vfdiv .f32 5 6 7 9)
      ∧ decodeWord 0x944062C7 = .ok (.vfsqrt .f32 5 6 9)
      ∧ decodeWord 0x605462C9 = .ok (.vcvt .f32 5 6 10 3)
      ∧ decodeWord 0x629462C9 = .ok (.vicvtf .i32 5 6 10 3)
      ∧ decodeWord 0x644A62C9 = .ok (.vfcvti .f32 5 6 5 3)
      ∧ decodeWord 0x664462C9 = .ok (.vfin .f32 5 6 2 3)
      ∧ decodeWord 0x680062C9 = .ok (.vtget 5 6 3)
      ∧ decodeWord 0x6A0E62C9 = .ok (.vtset 5 6 7 3)
      ∧ decodeWord 0x600E62CB = .ok (.vperm 5 6 7 3)
      ∧ decodeWord 0x620E62CB = .ok (.vslide 5 6 7 3)
      ∧ decodeWord 0x640E62CB = .ok (.vbcast 5 6 7 3)
      ∧ decodeWord 0x668062CB = .ok (.vnbr 5 6 3 2)
      ∧ decodeWord 0x680062CB = .ok (.vcomp 5 6 3) :=
  ⟨rfl, rfl, rfl, rfl, rfl, rfl, rfl, rfl, rfl, rfl, rfl, rfl, rfl, rfl, rfl, rfl, rfl, rfl, rfl, rfl⟩

theorem test_decode_09 :
    decodeWord 0x6A0062CB = .ok (.vexpd 5 6 3)
      ∧ decodeWord 0x6C0E62CB = .ok (.vget 5 6 7 3)
      ∧ decodeWord 0x6E0E62CB = .ok (.vput 5 6 7 3)
      ∧ decodeWord 0x908E62CD = .ok (.vred .i32 5 6 7 9)
      ∧ decodeWord 0x924E62CD = .ok (.vfred .f32 5 6 7 9)
      ∧ decodeWord 0x948E62CD = .ok (.vscan .i32 5 6 7 9)
      ∧ decodeWord 0x964E62CD = .ok (.vfscan .f32 5 6 7 9)
      ∧ decodeWord 0x984E62CD = .ok (.vsort .f32 5 6 7 9)
      ∧ decodeWord 0x9A8E62CD = .ok (.vsorti .i32 5 6 7 9)
      ∧ decodeWord 0x9C4E62CD = .ok (.vtopk .f32 5 6 7 9)
      ∧ decodeWord 0x904E62CF = .ok (.vld .f32 5 6 7 9)
      ∧ decodeWord 0x24E62CF = .ok (.vst .f32 5 6 7)
      ∧ decodeWord 0x944E62CF = .ok (.vlds .f32 5 6 7 9)
      ∧ decodeWord 0x66462CF = .ok (.vstf .f32 5 6 2 2)
      ∧ decodeWord 0x900E62D1 = .ok (.vgat 5 6 7 9)
      ∧ decodeWord 0x20E62D1 = .ok (.vsca 5 6 7)
      ∧ decodeWord 0x940E62D1 = .ok (.vldt 5 6 7 9)
      ∧ decodeWord 0x904062D3 = .ok (.vpoly 5 6 9)
      ∧ decodeWord 0x2006053 = .ok (.ppload 6)
      ∧ decodeWord 0xE6019 = .ok (.gang 6 7) :=
  ⟨rfl, rfl, rfl, rfl, rfl, rfl, rfl, rfl, rfl, rfl, rfl, rfl, rfl, rfl, rfl, rfl, rfl, rfl, rfl, rfl⟩

theorem test_decode_10 :
    decodeWord 0x2006019 = .ok (.gmeet 6)
      ∧ decodeWord 0x4000019 = .ok .gleave
      ∧ decodeWord 0x900E62D9 = .ok (.mloads 5 6 7 9)
      ∧ decodeWord 0x904002D9 = .ok (.mswap 5 9)
      ∧ decodeWord 0x920E62DB = .ok (.mstream 5 6 7 1 9)
      ∧ decodeWord 0x920002DD = .ok (.mzero 5 1 9)
      ∧ decodeWord 0x924062DD = .ok (.mread 5 6 1 9)
      ∧ decodeWord 0x928E62DD = .ok (.mstore 5 6 7 1 9)
      ∧ decodeWord 0x92C002DD = .ok (.mscale 5 1 9)
      ∧ decodeWord 0x30005F = .ok (.mweight 3)
      ∧ decodeWord 0x202DF = .ok (.mstat 5)
      ∧ decodeWord 0x90CE629B = .ok (.send 3 5 6 7 9)
      ∧ decodeWord 0x92CE629B = .ok (.sendw 3 5 6 7 9)
      ∧ decodeWord 0x400001B = .ok .halt
      ∧ decodeWord 0x1A = .ok .nop
      ∧ decodeWord 0x201A = .ok .yield
      ∧ decodeWord 0x401A = .ok .brk
      ∧ decodeWord 0x601A = .ok .hret
      ∧ decodeWord 0x900E629D = .ok (.cnew 5 6 7 9)
      ∧ decodeWord 0x200601D = .ok (.cdec 6) :=
  ⟨rfl, rfl, rfl, rfl, rfl, rfl, rfl, rfl, rfl, rfl, rfl, rfl, rfl, rfl, rfl, rfl, rfl, rfl, rfl, rfl⟩

theorem test_decode_11 :
    decodeWord 0x948E629D = .ok (.cspawn 2 5 6 7 9)
      ∧ decodeWord 0x960E629D = .ok (.cjoin 5 6 7 9)
      ∧ decodeWord 0x800601D = .ok (.cdone 6)
      ∧ decodeWord 0xE6071 = .ok (.binit 6 7)
      ∧ decodeWord 0x220062F1 = .ok (.barr 5 6 1)
      ∧ decodeWord 0x40E6071 = .ok (.bwait 6 7)
      ∧ decodeWord 0x60E62F1 = .ok (.btest 5 6 7)
      ∧ decodeWord 0x20062EB = .ok (.pacq 5 6 1)
      ∧ decodeWord 0x4E606B = .ok (.prel 6 7)
      ∧ decodeWord 0x48E62EB = .ok (.pfill 5 6 7 2)
      ∧ decodeWord 0x900E62F3 = .ok (.qlaunch 5 6 7 9)
      ∧ decodeWord 0x944062F3 = .ok (.qstat 5 6 2 9)
      ∧ decodeWord 0x91CE62F3 = .ok (.spstat 5 6 7 9)
      ∧ decodeWord 0x93CE62F3 = .ok (.spstatClr 5 6 7 9)
      ∧ decodeWord 0x95C062F3 = .ok (.spstatSt 5 6 9)
      ∧ decodeWord 0x940E62ED = .ok (.nload 5 6 7 2 9)
      ∧ decodeWord 0x944E62ED = .ok (.nstore 5 6 7 2 9)
      ∧ decodeWord 0x948E62ED = .ok (.ndel 5 6 7 2 9)
      ∧ decodeWord 0x900E62EF = .ok (.ninit 5 6 7 9)
      ∧ decodeWord 0x904062EF = .ok (.nsnap 5 6 9) :=
  ⟨rfl, rfl, rfl, rfl, rfl, rfl, rfl, rfl, rfl, rfl, rfl, rfl, rfl, rfl, rfl, rfl, rfl, rfl, rfl, rfl⟩

theorem test_decode_12 :
    decodeWord 0x924E62EF = .ok (.nsnapRel 5 6 7 9)
      ∧ decodeWord 0x908062EF = .ok (.nfree 5 6 9)
      ∧ decodeWord 0x94C062EF = .ok (.nstat 5 6 2 9)
      ∧ decodeWord 0x100E62FD = .ok (.ptload 5 6 7)
      ∧ decodeWord 0x120E62FD = .ok (.rngset 5 6 7)
      ∧ decodeWord 0xE62FD = .ok (.tlbinv 5 6 7)
      ∧ decodeWord 0x200007D = .ok .l1inv
      ∧ decodeWord 0x40E62FD = .ok (.l2wb 5 6 7)
      ∧ decodeWord 0x60E62FD = .ok (.heatrd 5 6 7)
      ∧ decodeWord 0x80E62FD = .ok (.heatage 5 6 7)
      ∧ decodeWord 0xA0E62FD = .ok (.pfreplay 5 6 7)
      ∧ decodeWord 0xC0E62FD = .ok (.ckpt 5 6 7)
      ∧ decodeWord 0x5A300079 = .ok (.trap 1443)
      ∧ decodeWord 0x262F9 = .ok (.tret 5 6)
      ∧ decodeWord 0x1262F9 = .ok (.tretKill 5 6)
      ∧ decodeWord 0x2262F9 = .ok (.tretFrz 5 6)
      ∧ decodeWord 0x105002FB = .ok (.mfs 5 261)
      ∧ decodeWord 0x1052607B = .ok (.mts 6 261)
      ∧ decodeWord 0x462FB = .ok (.cfreeze 5 6)
      ∧ decodeWord 0x662FB = .ok (.cthaw 5 6) :=
  ⟨rfl, rfl, rfl, rfl, rfl, rfl, rfl, rfl, rfl, rfl, rfl, rfl, rfl, rfl, rfl, rfl, rfl, rfl, rfl, rfl⟩

theorem test_decode_13 :
    decodeWord 0x862FB = .ok (.cswapIn 5 6)
      ∧ decodeWord 0x1862FB = .ok (.cswapFast 5 6)
      ∧ decodeWord 0x2862FB = .ok (.cswapOut 5 6)
      ∧ decodeWord 0x3862FB = .ok (.cswapCreate 5 6)
      ∧ decodeWord 0x4862FB = .ok (.cswapSeal 5 6)
      ∧ decodeWord 0x5862FB = .ok (.cswapReset 5 6)
      ∧ decodeWord 0x5A3A62FB = .ok (.wpset 5 6 1443)
      ∧ decodeWord 0xE62FB = .ok (.lstat 5 6)
      ∧ decodeWord 0x1E62FB = .ok (.lstatQuiesce 5 6)
      ∧ decodeWord 0x2E62FB = .ok (.lstatResume 5 6)
      ∧ decodeWord 0x3E62FB = .ok (.lstatIsolate 5 6)
      ∧ decodeWord 0x4E62FB = .ok (.lstatRetrain 5 6)
      ∧ decodeWord 0x5E62FB = .ok (.lstatRelink 5 6)
      ∧ decodeWord 0x6E62FB = .ok (.lstatClr 5 6)
      ∧ decodeWord 0x8E62FB = .ok (.lstatDquiesce 5 6)
      ∧ decodeWord 0x9E62FB = .ok (.lstatDflush 5 6)
      ∧ decodeWord 0xAE62FB = .ok (.lstatDreset 5 6)
      ∧ decodeWord 0xBE62FB = .ok (.lstatDadmit 5 6) :=
  ⟨rfl, rfl, rfl, rfl, rfl, rfl, rfl, rfl, rfl, rfl, rfl, rfl, rfl, rfl, rfl, rfl, rfl, rfl⟩

theorem test_well_formed_00 : (
    [.add .i32 5 6 7, .sub .i32 5 6 7, .and .i32 5 6 7, .or .i32 5 6 7, .xor .i32 5 6 7, .andn .i32 5 6 7, .orn .i32 5 6 7,
     .min .i32 5 6 7, .max .i32 5 6 7, .minn .i32 5 6 7, .maxn .i32 5 6 7, .adds .i32 5 6 7, .subs .i32 5 6 7,
     .absd .i32 5 6 7, .addi 5 6 1443, .andi 5 6 1443, .ori 5 6 1443, .xori 5 6 1443, .mini 5 6 1443, .maxi 5 6 1443,
     .sll .i32 5 6 7, .sllImm .i32 5 6 21 1, .srl .i32 5 6 7, .srlImm .i32 5 6 21 1, .sra .i32 5 6 7, .sraImm .i32 5 6 21 1,
     .rol .i32 5 6 7, .rolImm .i32 5 6 21 1, .ror .i32 5 6 7, .rorImm .i32 5 6 21 1, .ext 5 6 7, .extn 5 6 7, .ins 5 6 7,
     .clz .i32 5 6, .ctz .i32 5 6, .pop .i32 5 6, .brev .i32 5 6, .bswap .i32 5 6, .cmp .i32 5 6 7 4, .csel 5 6 7 4,
     .mul .i32 5 6 7 9, .mulh .i32 5 6 7 9, .mulhn .i32 5 6 7 9, .div .i32 5 6 7 9, .divn .i32 5 6 7 9, .rem .i32 5 6 7 9,
     .remn .i32 5 6 7 9, .ldhi 5 703710, .pcrel 5 703710, .ptag 5 6 7, .padd 5 6 7, .psub 5 6 7, .pfmt 5 6, .pclr 5 6,
     .beq 6 7 1443, .bne 6 7 1443, .blt 6 7 1443, .bge 6 7 1443, .bltn 6 7 1443, .bgen 6 7 1443] : List Instr).all (fun i => i.wf) = true := by decide +kernel

theorem test_well_formed_01 : (
    [.bbs 6 7 1443, .bbc 6 7 1443, .jl 5 703710, .jlr 5 6 1443, .cMv 5 9, .cAdd 5 9, .cSub 5 9, .cXor 5 9, .cAddi 5 43,
     .cLi 5 43, .cLd 5 37, .cSt 7 37, .cBz 6 43, .cBnz 6 43, .cSk 6 3 5, .cSll 5 21, .cSrl 5 21, .cSra 5 21, .cAndi 5 21,
     .cJ 1443, .cJr 9, .cJlr 5 9, .fadd .f32 5 6 7 1, .fsub .f32 5 6 7 1, .fmul .f32 5 6 7 1, .fmin .f32 5 6 7 1,
     .fmax .f32 5 6 7 1, .fsgn .f32 5 6 7, .ffma .f32 5 6 7 9, .fdiv .f32 5 6 7 9, .fsqrt .f32 5 6 9, .fcvt .f32 5 6 11 1,
     .fcvti .f32 5 6 5 1, .icvtf .i32 5 6 9 1, .fin .f32 5 6 2, .feq .f32 5 6 7, .flt .f32 5 6 7, .fle .f32 5 6 7,
     .fclass .f32 5 6, .tget 5 6, .tset 5 6 7, .ld .i32 5 6 165 9, .lda .i32 5 6 37 2 9, .st .i32 6 7 677 1,
     .str .i32 6 7 677 2, .stf .f32 6 7 677 2, .ldx .i32 5 6 7 9, .stx .i32 5 6 7, .ldxr .i32 5 6 7 9, .lde 2 5 6 7 9,
     .ste 2 5 6 7, .amoswap 6 7 1 1 2 9, .amoadd 6 7 1 1 2 9, .amoand 6 7 1 1 2 9, .amoor 6 7 1 1 2 9, .amoxor 6 7 1 1 2 9,
     .amomin 6 7 1 1 2 9, .amomax 6 7 1 1 2 9, .amominn 6 7 1 1 2 9, .amomaxn 6 7 1 1 2 9] : List Instr).all (fun i => i.wf) = true := by decide +kernel

theorem test_well_formed_02 : (
    [.amocas 6 8 1 1 2 9, .amfadd 6 7 1 1 2 9, .amfmin 6 7 1 1 2 9, .amfmax 6 7 1 1 2 9, .radd 6 7 1 9, .rflush 6 2 9,
     .ldres 6 7 1 1 2 9, .stcond 6 7 1 2 2 9, .raddi 6 7 1 9, .fence 4 90 60, .tlwait 6 2, .tltest 5 6 2, .hint 5 0,
     .cpy 5 6 7 2 9, .cpyt 5 6 7 2 9, .cpyg 5 6 7 2 9, .trread 5 6, .vclaim 5 6 1443, .vrel, .vlen 5 6 16, .vsplat 5 6 1,
     .vadd .i32 5 6 7 3, .vsub .i32 5 6 7 3, .vand .i32 5 6 7 3, .vor .i32 5 6 7 3, .vxor .i32 5 6 7 3, .vmin .i32 5 6 7 3,
     .vmax .i32 5 6 7 3, .vadds .i32 5 6 7 3, .vsubs .i32 5 6 7 3, .vmul .i32 5 6 7 3, .vsll .i32 5 6 7 3, .vsrl .i32 5 6 7 3,
     .vsra .i32 5 6 7 3, .vcmpeq .i32 5 6 7 3, .vcmplt .i32 5 6 7 3, .vcmple .i32 5 6 7 3, .vfadd .f32 5 6 7 3,
     .vfsub .f32 5 6 7 3, .vfmul .f32 5 6 7 3, .vfmin .f32 5 6 7 3, .vfmax .f32 5 6 7 3, .vfsgn .f32 5 6 7 3,
     .vfeq .f32 5 6 7 3, .vflt .f32 5 6 7 3, .vfle .f32 5 6 7 3, .vffma .f32 5 6 7 9, .vfdiv .f32 5 6 7 9, .vfsqrt .f32 5 6 9,
     .vcvt .f32 5 6 10 3, .vicvtf .i32 5 6 10 3, .vfcvti .f32 5 6 5 3, .vfin .f32 5 6 2 3, .vtget 5 6 3, .vtset 5 6 7 3,
     .vperm 5 6 7 3, .vslide 5 6 7 3, .vbcast 5 6 7 3, .vnbr 5 6 3 2, .vcomp 5 6 3] : List Instr).all (fun i => i.wf) = true := by decide +kernel

theorem test_well_formed_03 : (
    [.vexpd 5 6 3, .vget 5 6 7 3, .vput 5 6 7 3, .vred .i32 5 6 7 9, .vfred .f32 5 6 7 9, .vscan .i32 5 6 7 9,
     .vfscan .f32 5 6 7 9, .vsort .f32 5 6 7 9, .vsorti .i32 5 6 7 9, .vtopk .f32 5 6 7 9, .vld .f32 5 6 7 9, .vst .f32 5 6 7,
     .vlds .f32 5 6 7 9, .vstf .f32 5 6 2 2, .vgat 5 6 7 9, .vsca 5 6 7, .vldt 5 6 7 9, .vpoly 5 6 9, .ppload 6, .gang 6 7,
     .gmeet 6, .gleave, .mloads 5 6 7 9, .mswap 5 9, .mstream 5 6 7 1 9, .mzero 5 1 9, .mread 5 6 1 9, .mstore 5 6 7 1 9,
     .mscale 5 1 9, .mweight 3, .mstat 5, .send 3 5 6 7 9, .sendw 3 5 6 7 9, .halt, .nop, .yield, .brk, .hret, .cnew 5 6 7 9,
     .cdec 6, .cspawn 2 5 6 7 9, .cjoin 5 6 7 9, .cdone 6, .binit 6 7, .barr 5 6 1, .bwait 6 7, .btest 5 6 7, .pacq 5 6 1,
     .prel 6 7, .pfill 5 6 7 2, .qlaunch 5 6 7 9, .qstat 5 6 2 9, .spstat 5 6 7 9, .spstatClr 5 6 7 9, .spstatSt 5 6 9,
     .nload 5 6 7 2 9, .nstore 5 6 7 2 9, .ndel 5 6 7 2 9, .ninit 5 6 7 9, .nsnap 5 6 9] : List Instr).all (fun i => i.wf) = true := by decide +kernel

theorem test_well_formed_04 : (
    [.nsnapRel 5 6 7 9, .nfree 5 6 9, .nstat 5 6 2 9, .ptload 5 6 7, .rngset 5 6 7, .tlbinv 5 6 7, .l1inv, .l2wb 5 6 7,
     .heatrd 5 6 7, .heatage 5 6 7, .pfreplay 5 6 7, .ckpt 5 6 7, .trap 1443, .tret 5 6, .tretKill 5 6, .tretFrz 5 6,
     .mfs 5 261, .mts 6 261, .cfreeze 5 6, .cthaw 5 6, .cswapIn 5 6, .cswapFast 5 6, .cswapOut 5 6, .cswapCreate 5 6,
     .cswapSeal 5 6, .cswapReset 5 6, .wpset 5 6 1443, .lstat 5 6, .lstatQuiesce 5 6, .lstatResume 5 6, .lstatIsolate 5 6,
     .lstatRetrain 5 6, .lstatRelink 5 6, .lstatClr 5 6, .lstatDquiesce 5 6, .lstatDflush 5 6, .lstatDreset 5 6,
     .lstatDadmit 5 6] : List Instr).all (fun i => i.wf) = true := by decide +kernel

/-- For each conjunct of each instruction's check (05 to 26, the fields that each encoding declares), a term that breaks it. -/
theorem test_ill_formed_00 : (
    [.add .i32 32 6 7, .add .i32 5 32 7, .add .i32 5 6 32, .sub .i32 32 6 7, .sub .i32 5 32 7, .sub .i32 5 6 32,
     .and .i32 32 6 7, .and .i32 5 32 7, .and .i32 5 6 32, .or .i32 32 6 7, .or .i32 5 32 7, .or .i32 5 6 32, .xor .i32 32 6 7,
     .xor .i32 5 32 7, .xor .i32 5 6 32, .andn .i32 32 6 7, .andn .i32 5 32 7, .andn .i32 5 6 32, .orn .i32 32 6 7,
     .orn .i32 5 32 7, .orn .i32 5 6 32, .min .i32 32 6 7, .min .i32 5 32 7, .min .i32 5 6 32, .max .i32 32 6 7,
     .max .i32 5 32 7, .max .i32 5 6 32, .minn .i32 32 6 7, .minn .i32 5 32 7, .minn .i32 5 6 32, .maxn .i32 32 6 7,
     .maxn .i32 5 32 7, .maxn .i32 5 6 32, .adds .i32 32 6 7, .adds .i32 5 32 7, .adds .i32 5 6 32, .subs .i32 32 6 7,
     .subs .i32 5 32 7, .subs .i32 5 6 32, .absd .i32 32 6 7, .absd .i32 5 32 7, .absd .i32 5 6 32, .addi 32 6 1443,
     .addi 5 32 1443, .addi 5 6 4096, .andi 32 6 1443, .andi 5 32 1443, .andi 5 6 4096, .ori 32 6 1443, .ori 5 32 1443,
     .ori 5 6 4096, .xori 32 6 1443, .xori 5 32 1443, .xori 5 6 4096, .mini 32 6 1443, .mini 5 32 1443, .mini 5 6 4096,
     .maxi 32 6 1443, .maxi 5 32 1443, .maxi 5 6 4096] : List Instr).all (fun i => !i.wf) = true := by decide +kernel

theorem test_ill_formed_01 : (
    [.sll .i32 32 6 7, .sll .i32 5 32 7, .sll .i32 5 6 32, .sllImm .i32 32 6 21 1, .sllImm .i32 5 32 21 1,
     .sllImm .i32 5 6 32 1, .sllImm .i32 5 6 21 2, .srl .i32 32 6 7, .srl .i32 5 32 7, .srl .i32 5 6 32,
     .srlImm .i32 32 6 21 1, .srlImm .i32 5 32 21 1, .srlImm .i32 5 6 32 1, .srlImm .i32 5 6 21 2, .sra .i32 32 6 7,
     .sra .i32 5 32 7, .sra .i32 5 6 32, .sraImm .i32 32 6 21 1, .sraImm .i32 5 32 21 1, .sraImm .i32 5 6 32 1,
     .sraImm .i32 5 6 21 2, .rol .i32 32 6 7, .rol .i32 5 32 7, .rol .i32 5 6 32, .rolImm .i32 32 6 21 1,
     .rolImm .i32 5 32 21 1, .rolImm .i32 5 6 32 1, .rolImm .i32 5 6 21 2, .ror .i32 32 6 7, .ror .i32 5 32 7,
     .ror .i32 5 6 32, .rorImm .i32 32 6 21 1, .rorImm .i32 5 32 21 1, .rorImm .i32 5 6 32 1, .rorImm .i32 5 6 21 2,
     .ext 32 6 7, .ext 5 32 7, .ext 5 6 32, .extn 32 6 7, .extn 5 32 7, .extn 5 6 32, .ins 32 6 7, .ins 5 32 7, .ins 5 6 32,
     .clz .i32 32 6, .clz .i32 5 32, .ctz .i32 32 6, .ctz .i32 5 32, .pop .i32 32 6, .pop .i32 5 32, .brev .i32 32 6,
     .brev .i32 5 32, .bswap .i32 32 6, .bswap .i32 5 32, .cmp .i32 32 6 7 4, .cmp .i32 5 32 7 4, .cmp .i32 5 6 32 4,
     .cmp .i32 5 6 7 8, .cmp .i32 5 6 7 7, .csel 32 6 7 4] : List Instr).all (fun i => !i.wf) = true := by decide +kernel

theorem test_ill_formed_02 : (
    [.csel 5 32 7 4, .csel 5 6 32 4, .csel 5 6 7 8, .csel 5 6 7 6, .mul .i32 32 6 7 9, .mul .i32 5 32 7 9, .mul .i32 5 6 32 9,
     .mul .i32 5 6 7 16, .mulh .i32 32 6 7 9, .mulh .i32 5 32 7 9, .mulh .i32 5 6 32 9, .mulh .i32 5 6 7 16,
     .mulhn .i32 32 6 7 9, .mulhn .i32 5 32 7 9, .mulhn .i32 5 6 32 9, .mulhn .i32 5 6 7 16, .div .i32 32 6 7 9,
     .div .i32 5 32 7 9, .div .i32 5 6 32 9, .div .i32 5 6 7 16, .divn .i32 32 6 7 9, .divn .i32 5 32 7 9, .divn .i32 5 6 32 9,
     .divn .i32 5 6 7 16, .rem .i32 32 6 7 9, .rem .i32 5 32 7 9, .rem .i32 5 6 32 9, .rem .i32 5 6 7 16, .remn .i32 32 6 7 9,
     .remn .i32 5 32 7 9, .remn .i32 5 6 32 9, .remn .i32 5 6 7 16, .ldhi 32 703710, .ldhi 5 1048576, .pcrel 32 703710,
     .pcrel 5 1048576, .ptag 32 6 7, .ptag 5 32 7, .ptag 5 6 32, .padd 32 6 7, .padd 5 32 7, .padd 5 6 32, .psub 32 6 7,
     .psub 5 32 7, .psub 5 6 32, .pfmt 32 6, .pfmt 5 32, .pclr 32 6, .pclr 5 32, .beq 32 7 1443, .beq 6 32 1443, .beq 6 7 4096,
     .bne 32 7 1443, .bne 6 32 1443, .bne 6 7 4096, .blt 32 7 1443, .blt 6 32 1443, .blt 6 7 4096, .bge 32 7 1443,
     .bge 6 32 1443] : List Instr).all (fun i => !i.wf) = true := by decide +kernel

theorem test_ill_formed_03 : (
    [.bge 6 7 4096, .bltn 32 7 1443, .bltn 6 32 1443, .bltn 6 7 4096, .bgen 32 7 1443, .bgen 6 32 1443, .bgen 6 7 4096,
     .bbs 32 7 1443, .bbs 6 32 1443, .bbs 6 7 4096, .bbc 32 7 1443, .bbc 6 32 1443, .bbc 6 7 4096, .jl 32 703710,
     .jl 5 1048576, .jlr 32 6 1443, .jlr 5 32 1443, .jlr 5 6 4096, .cMv 32 9, .cMv 5 32, .cMv 0 9, .cAdd 32 9, .cAdd 5 32,
     .cAdd 0 9, .cSub 32 9, .cSub 5 32, .cSub 0 9, .cXor 32 9, .cXor 5 32, .cXor 0 9, .cAddi 32 43, .cAddi 5 64, .cAddi 0 43,
     .cLi 32 43, .cLi 5 64, .cLi 0 43, .cLd 32 37, .cLd 5 64, .cLd 0 37, .cSt 32 37, .cSt 7 64, .cBz 32 43, .cBz 6 64,
     .cBnz 32 43, .cBnz 6 64, .cSk 32 3 5, .cSk 6 8 5, .cSk 6 3 8, .cSk 6 6 5, .cSll 32 21, .cSll 5 32, .cSll 0 21,
     .cSrl 32 21, .cSrl 5 32, .cSrl 0 21, .cSra 32 21, .cSra 5 32, .cSra 0 21, .cAndi 32 21, .cAndi 5 32] : List Instr).all (fun i => !i.wf) = true := by decide +kernel

theorem test_ill_formed_04 : (
    [.cAndi 0 21, .cJ 2048, .cJr 32, .cJlr 32 9, .cJlr 5 32, .cJlr 0 9, .fadd .f32 32 6 7 1, .fadd .f32 5 32 7 1,
     .fadd .f32 5 6 32 1, .fadd .f32 5 6 7 8, .fadd .e4 5 6 7 1, .fsub .f32 32 6 7 1, .fsub .f32 5 32 7 1, .fsub .f32 5 6 32 1,
     .fsub .f32 5 6 7 8, .fsub .e4 5 6 7 1, .fmul .f32 32 6 7 1, .fmul .f32 5 32 7 1, .fmul .f32 5 6 32 1, .fmul .f32 5 6 7 8,
     .fmul .e4 5 6 7 1, .fmin .f32 32 6 7 1, .fmin .f32 5 32 7 1, .fmin .f32 5 6 32 1, .fmin .f32 5 6 7 8, .fmin .e4 5 6 7 1,
     .fmax .f32 32 6 7 1, .fmax .f32 5 32 7 1, .fmax .f32 5 6 32 1, .fmax .f32 5 6 7 8, .fmax .e4 5 6 7 1, .fsgn .f32 32 6 7,
     .fsgn .f32 5 32 7, .fsgn .f32 5 6 32, .fsgn .e4 5 6 7, .ffma .f32 32 6 7 9, .ffma .f32 5 32 7 9, .ffma .f32 5 6 32 9,
     .ffma .f32 5 6 7 16, .ffma .e4 5 6 7 9, .fdiv .f32 32 6 7 9, .fdiv .f32 5 32 7 9, .fdiv .f32 5 6 32 9,
     .fdiv .f32 5 6 7 16, .fdiv .e4 5 6 7 9, .fsqrt .f32 32 6 9, .fsqrt .f32 5 32 9, .fsqrt .f32 5 6 16, .fsqrt .e4 5 6 9,
     .fcvt .f32 32 6 11 1, .fcvt .f32 5 32 11 1, .fcvt .f32 5 6 32 1, .fcvt .f32 5 6 11 8, .fcvt .f32 5 6 8 1,
     .fcvti .f32 32 6 5 1, .fcvti .f32 5 32 5 1, .fcvti .f32 5 6 32 1, .fcvti .f32 5 6 5 8, .fcvti .img 5 6 5 1,
     .fcvti .f32 5 6 9 1] : List Instr).all (fun i => !i.wf) = true := by decide +kernel

theorem test_ill_formed_05 : (
    [.fcvti .f32 5 6 5 0, .fcvti .f32 5 6 5 6, .icvtf .i32 32 6 9 1, .icvtf .i32 5 32 9 1, .icvtf .i32 5 6 32 1,
     .icvtf .i32 5 6 9 8, .icvtf .i32 5 6 8 1, .fin .f32 32 6 2, .fin .f32 5 32 2, .fin .f32 5 6 8, .fin .img 5 6 2,
     .feq .f32 32 6 7, .feq .f32 5 32 7, .feq .f32 5 6 32, .feq .img 5 6 7, .flt .f32 32 6 7, .flt .f32 5 32 7,
     .flt .f32 5 6 32, .flt .img 5 6 7, .fle .f32 32 6 7, .fle .f32 5 32 7, .fle .f32 5 6 32, .fle .img 5 6 7,
     .fclass .f32 32 6, .fclass .f32 5 32, .fclass .img 5 6, .tget 32 6, .tget 5 32, .tset 32 6 7, .tset 5 32 7, .tset 5 6 32,
     .ld .i32 32 6 165 9, .ld .i32 5 32 165 9, .ld .i32 5 6 256 9, .ld .i32 5 6 165 16, .lda .i32 32 6 37 2 9,
     .lda .i32 5 32 37 2 9, .lda .i32 5 6 64 2 9, .lda .i32 5 6 37 4 9, .lda .i32 5 6 37 2 16, .st .i32 32 7 677 1,
     .st .i32 6 32 677 1, .st .i32 6 7 1024 1, .st .i32 6 7 677 4, .st .i32 6 7 677 2, .str .i32 32 7 677 2,
     .str .i32 6 32 677 2, .str .i32 6 7 1024 2, .str .i32 6 7 677 4, .stf .f32 32 7 677 2, .stf .f32 6 32 677 2,
     .stf .f32 6 7 1024 2, .stf .f32 6 7 677 4, .stf .img 6 7 677 2, .ldx .i32 32 6 7 9, .ldx .i32 5 32 7 9,
     .ldx .i32 5 6 32 9, .ldx .i32 5 6 7 16, .stx .i32 32 6 7, .stx .i32 5 32 7] : List Instr).all (fun i => !i.wf) = true := by decide +kernel

theorem test_ill_formed_06 : (
    [.stx .i32 5 6 32, .ldxr .i32 32 6 7 9, .ldxr .i32 5 32 7 9, .ldxr .i32 5 6 32 9, .ldxr .i32 5 6 7 16, .lde 8 5 6 7 9,
     .lde 2 32 6 7 9, .lde 2 5 32 7 9, .lde 2 5 6 32 9, .lde 2 5 6 7 16, .ste 8 5 6 7, .ste 2 32 6 7, .ste 2 5 32 7,
     .ste 2 5 6 32, .amoswap 32 7 1 1 2 9, .amoswap 6 32 1 1 2 9, .amoswap 6 7 2 1 2 9, .amoswap 6 7 1 4 2 9,
     .amoswap 6 7 1 1 4 9, .amoswap 6 7 1 1 2 16, .amoadd 32 7 1 1 2 9, .amoadd 6 32 1 1 2 9, .amoadd 6 7 2 1 2 9,
     .amoadd 6 7 1 4 2 9, .amoadd 6 7 1 1 4 9, .amoadd 6 7 1 1 2 16, .amoand 32 7 1 1 2 9, .amoand 6 32 1 1 2 9,
     .amoand 6 7 2 1 2 9, .amoand 6 7 1 4 2 9, .amoand 6 7 1 1 4 9, .amoand 6 7 1 1 2 16, .amoor 32 7 1 1 2 9,
     .amoor 6 32 1 1 2 9, .amoor 6 7 2 1 2 9, .amoor 6 7 1 4 2 9, .amoor 6 7 1 1 4 9, .amoor 6 7 1 1 2 16,
     .amoxor 32 7 1 1 2 9, .amoxor 6 32 1 1 2 9, .amoxor 6 7 2 1 2 9, .amoxor 6 7 1 4 2 9, .amoxor 6 7 1 1 4 9,
     .amoxor 6 7 1 1 2 16, .amomin 32 7 1 1 2 9, .amomin 6 32 1 1 2 9, .amomin 6 7 2 1 2 9, .amomin 6 7 1 4 2 9,
     .amomin 6 7 1 1 4 9, .amomin 6 7 1 1 2 16, .amomax 32 7 1 1 2 9, .amomax 6 32 1 1 2 9, .amomax 6 7 2 1 2 9,
     .amomax 6 7 1 4 2 9, .amomax 6 7 1 1 4 9, .amomax 6 7 1 1 2 16, .amominn 32 7 1 1 2 9, .amominn 6 32 1 1 2 9,
     .amominn 6 7 2 1 2 9, .amominn 6 7 1 4 2 9] : List Instr).all (fun i => !i.wf) = true := by decide +kernel

theorem test_ill_formed_07 : (
    [.amominn 6 7 1 1 4 9, .amominn 6 7 1 1 2 16, .amomaxn 32 7 1 1 2 9, .amomaxn 6 32 1 1 2 9, .amomaxn 6 7 2 1 2 9,
     .amomaxn 6 7 1 4 2 9, .amomaxn 6 7 1 1 4 9, .amomaxn 6 7 1 1 2 16, .amocas 32 8 1 1 2 9, .amocas 6 32 1 1 2 9,
     .amocas 6 8 2 1 2 9, .amocas 6 8 1 4 2 9, .amocas 6 8 1 1 4 9, .amocas 6 8 1 1 2 16, .amocas 6 7 1 1 2 9,
     .amfadd 32 7 1 1 2 9, .amfadd 6 32 1 1 2 9, .amfadd 6 7 2 1 2 9, .amfadd 6 7 1 4 2 9, .amfadd 6 7 1 1 4 9,
     .amfadd 6 7 1 1 2 16, .amfmin 32 7 1 1 2 9, .amfmin 6 32 1 1 2 9, .amfmin 6 7 2 1 2 9, .amfmin 6 7 1 4 2 9,
     .amfmin 6 7 1 1 4 9, .amfmin 6 7 1 1 2 16, .amfmax 32 7 1 1 2 9, .amfmax 6 32 1 1 2 9, .amfmax 6 7 2 1 2 9,
     .amfmax 6 7 1 4 2 9, .amfmax 6 7 1 1 4 9, .amfmax 6 7 1 1 2 16, .radd 32 7 1 9, .radd 6 32 1 9, .radd 6 7 2 9,
     .radd 6 7 1 16, .rflush 32 2 9, .rflush 6 4 9, .rflush 6 2 16, .ldres 32 7 1 1 2 9, .ldres 6 32 1 1 2 9,
     .ldres 6 7 2 1 2 9, .ldres 6 7 1 4 2 9, .ldres 6 7 1 1 4 9, .ldres 6 7 1 1 2 16, .ldres 6 7 1 2 2 9, .stcond 32 7 1 2 2 9,
     .stcond 6 32 1 2 2 9, .stcond 6 7 2 2 2 9, .stcond 6 7 1 4 2 9, .stcond 6 7 1 2 4 9, .stcond 6 7 1 2 2 16,
     .stcond 6 7 1 1 2 9, .raddi 32 7 1 9, .raddi 6 32 1 9, .raddi 6 7 2 9, .raddi 6 7 1 16, .fence 8 90 60, .fence 4 256 60] : List Instr).all (fun i => !i.wf) = true := by decide +kernel

theorem test_ill_formed_08 : (
    [.fence 4 90 256, .fence 7 90 60, .tlwait 32 2, .tlwait 6 8, .tlwait 6 3, .tltest 32 6 2, .tltest 5 32 2, .tltest 5 6 8,
     .tltest 5 6 3, .hint 8 0, .hint 5 1048576, .cpy 32 6 7 2 9, .cpy 5 32 7 2 9, .cpy 5 6 32 2 9, .cpy 5 6 7 8 9,
     .cpy 5 6 7 2 16, .cpyt 32 6 7 2 9, .cpyt 5 32 7 2 9, .cpyt 5 6 32 2 9, .cpyt 5 6 7 8 9, .cpyt 5 6 7 2 16,
     .cpyg 32 6 7 2 9, .cpyg 5 32 7 2 9, .cpyg 5 6 32 2 9, .cpyg 5 6 7 8 9, .cpyg 5 6 7 2 16, .trread 32 6, .trread 5 32,
     .vclaim 32 6 1443, .vclaim 5 32 1443, .vclaim 5 6 4096, .vlen 32 6 16, .vlen 5 32 16, .vlen 5 6 4096, .vlen 5 6 15,
     .vsplat 32 6 1, .vsplat 5 32 1, .vsplat 5 6 4096, .vsplat 5 6 2, .vadd .i32 32 6 7 3, .vadd .i32 5 32 7 3,
     .vadd .i32 5 6 32 3, .vadd .i32 5 6 7 8, .vadd .i64 5 6 7 3, .vsub .i32 32 6 7 3, .vsub .i32 5 32 7 3,
     .vsub .i32 5 6 32 3, .vsub .i32 5 6 7 8, .vsub .i64 5 6 7 3, .vand .i32 32 6 7 3, .vand .i32 5 32 7 3,
     .vand .i32 5 6 32 3, .vand .i32 5 6 7 8, .vand .i64 5 6 7 3, .vor .i32 32 6 7 3, .vor .i32 5 32 7 3, .vor .i32 5 6 32 3,
     .vor .i32 5 6 7 8, .vor .i64 5 6 7 3, .vxor .i32 32 6 7 3] : List Instr).all (fun i => !i.wf) = true := by decide +kernel

theorem test_ill_formed_09 : (
    [.vxor .i32 5 32 7 3, .vxor .i32 5 6 32 3, .vxor .i32 5 6 7 8, .vxor .i64 5 6 7 3, .vmin .i32 32 6 7 3,
     .vmin .i32 5 32 7 3, .vmin .i32 5 6 32 3, .vmin .i32 5 6 7 8, .vmin .i64 5 6 7 3, .vmax .i32 32 6 7 3,
     .vmax .i32 5 32 7 3, .vmax .i32 5 6 32 3, .vmax .i32 5 6 7 8, .vmax .i64 5 6 7 3, .vadds .i32 32 6 7 3,
     .vadds .i32 5 32 7 3, .vadds .i32 5 6 32 3, .vadds .i32 5 6 7 8, .vadds .i64 5 6 7 3, .vsubs .i32 32 6 7 3,
     .vsubs .i32 5 32 7 3, .vsubs .i32 5 6 32 3, .vsubs .i32 5 6 7 8, .vsubs .i64 5 6 7 3, .vmul .i32 32 6 7 3,
     .vmul .i32 5 32 7 3, .vmul .i32 5 6 32 3, .vmul .i32 5 6 7 8, .vmul .i64 5 6 7 3, .vsll .i32 32 6 7 3,
     .vsll .i32 5 32 7 3, .vsll .i32 5 6 32 3, .vsll .i32 5 6 7 8, .vsll .i64 5 6 7 3, .vsrl .i32 32 6 7 3,
     .vsrl .i32 5 32 7 3, .vsrl .i32 5 6 32 3, .vsrl .i32 5 6 7 8, .vsrl .i64 5 6 7 3, .vsra .i32 32 6 7 3,
     .vsra .i32 5 32 7 3, .vsra .i32 5 6 32 3, .vsra .i32 5 6 7 8, .vsra .i64 5 6 7 3, .vcmpeq .i32 32 6 7 3,
     .vcmpeq .i32 5 32 7 3, .vcmpeq .i32 5 6 32 3, .vcmpeq .i32 5 6 7 8, .vcmpeq .i16 5 6 7 3, .vcmplt .i32 32 6 7 3,
     .vcmplt .i32 5 32 7 3, .vcmplt .i32 5 6 32 3, .vcmplt .i32 5 6 7 8, .vcmplt .i16 5 6 7 3, .vcmple .i32 32 6 7 3,
     .vcmple .i32 5 32 7 3, .vcmple .i32 5 6 32 3, .vcmple .i32 5 6 7 8, .vcmple .i16 5 6 7 3, .vfadd .f32 32 6 7 3] : List Instr).all (fun i => !i.wf) = true := by decide +kernel

theorem test_ill_formed_10 : (
    [.vfadd .f32 5 32 7 3, .vfadd .f32 5 6 32 3, .vfadd .f32 5 6 7 8, .vfadd .e4 5 6 7 3, .vfsub .f32 32 6 7 3,
     .vfsub .f32 5 32 7 3, .vfsub .f32 5 6 32 3, .vfsub .f32 5 6 7 8, .vfsub .e4 5 6 7 3, .vfmul .f32 32 6 7 3,
     .vfmul .f32 5 32 7 3, .vfmul .f32 5 6 32 3, .vfmul .f32 5 6 7 8, .vfmul .e4 5 6 7 3, .vfmin .f32 32 6 7 3,
     .vfmin .f32 5 32 7 3, .vfmin .f32 5 6 32 3, .vfmin .f32 5 6 7 8, .vfmin .e4 5 6 7 3, .vfmax .f32 32 6 7 3,
     .vfmax .f32 5 32 7 3, .vfmax .f32 5 6 32 3, .vfmax .f32 5 6 7 8, .vfmax .e4 5 6 7 3, .vfsgn .f32 32 6 7 3,
     .vfsgn .f32 5 32 7 3, .vfsgn .f32 5 6 32 3, .vfsgn .f32 5 6 7 8, .vfsgn .e4 5 6 7 3, .vfeq .f32 32 6 7 3,
     .vfeq .f32 5 32 7 3, .vfeq .f32 5 6 32 3, .vfeq .f32 5 6 7 8, .vfeq .f16 5 6 7 3, .vflt .f32 32 6 7 3,
     .vflt .f32 5 32 7 3, .vflt .f32 5 6 32 3, .vflt .f32 5 6 7 8, .vflt .f16 5 6 7 3, .vfle .f32 32 6 7 3,
     .vfle .f32 5 32 7 3, .vfle .f32 5 6 32 3, .vfle .f32 5 6 7 8, .vfle .f16 5 6 7 3, .vffma .f32 32 6 7 9,
     .vffma .f32 5 32 7 9, .vffma .f32 5 6 32 9, .vffma .f32 5 6 7 16, .vffma .e4 5 6 7 9, .vfdiv .f32 32 6 7 9,
     .vfdiv .f32 5 32 7 9, .vfdiv .f32 5 6 32 9, .vfdiv .f32 5 6 7 16, .vfdiv .e4 5 6 7 9, .vfsqrt .f32 32 6 9,
     .vfsqrt .f32 5 32 9, .vfsqrt .f32 5 6 16, .vfsqrt .e4 5 6 9, .vcvt .f32 32 6 10 3, .vcvt .f32 5 32 10 3] : List Instr).all (fun i => !i.wf) = true := by decide +kernel

theorem test_ill_formed_11 : (
    [.vcvt .f32 5 6 32 3, .vcvt .f32 5 6 10 8, .vcvt .e4 5 6 10 3, .vcvt .f32 5 6 6 3, .vcvt .f32 5 6 13 3,
     .vcvt .f64 5 6 10 3, .vicvtf .i32 32 6 10 3, .vicvtf .i32 5 32 10 3, .vicvtf .i32 5 6 32 3, .vicvtf .i32 5 6 10 8,
     .vicvtf .i64 5 6 10 3, .vicvtf .i32 5 6 6 3, .vicvtf .i32 5 6 13 3, .vicvtf .i16 5 6 10 3, .vfcvti .f32 32 6 5 3,
     .vfcvti .f32 5 32 5 3, .vfcvti .f32 5 6 32 3, .vfcvti .f32 5 6 5 8, .vfcvti .e4 5 6 5 3, .vfcvti .f32 5 6 2 3,
     .vfcvti .f32 5 6 10 3, .vfcvti .f64 5 6 5 3, .vfin .f32 32 6 2 3, .vfin .f32 5 32 2 3, .vfin .f32 5 6 8 3,
     .vfin .f32 5 6 2 8, .vfin .e4 5 6 2 3, .vtget 32 6 3, .vtget 5 32 3, .vtget 5 6 8, .vtset 32 6 7 3, .vtset 5 32 7 3,
     .vtset 5 6 32 3, .vtset 5 6 7 8, .vperm 32 6 7 3, .vperm 5 32 7 3, .vperm 5 6 32 3, .vperm 5 6 7 8, .vslide 32 6 7 3,
     .vslide 5 32 7 3, .vslide 5 6 32 3, .vslide 5 6 7 8, .vbcast 32 6 7 3, .vbcast 5 32 7 3, .vbcast 5 6 32 3,
     .vbcast 5 6 7 8, .vnbr 32 6 3 2, .vnbr 5 32 3 2, .vnbr 5 6 8 2, .vnbr 5 6 3 8, .vnbr 5 6 3 0, .vnbr 5 6 3 4,
     .vcomp 32 6 3, .vcomp 5 32 3, .vcomp 5 6 8, .vexpd 32 6 3, .vexpd 5 32 3, .vexpd 5 6 8, .vget 32 6 7 3, .vget 5 32 7 3] : List Instr).all (fun i => !i.wf) = true := by decide +kernel

theorem test_ill_formed_12 : (
    [.vget 5 6 32 3, .vget 5 6 7 8, .vput 32 6 7 3, .vput 5 32 7 3, .vput 5 6 32 3, .vput 5 6 7 8, .vred .i32 32 6 7 9,
     .vred .i32 5 32 7 9, .vred .i32 5 6 32 9, .vred .i32 5 6 7 16, .vred .i64 5 6 7 9, .vfred .f32 32 6 7 9,
     .vfred .f32 5 32 7 9, .vfred .f32 5 6 32 9, .vfred .f32 5 6 7 16, .vfred .e4 5 6 7 9, .vscan .i32 32 6 7 9,
     .vscan .i32 5 32 7 9, .vscan .i32 5 6 32 9, .vscan .i32 5 6 7 16, .vscan .i64 5 6 7 9, .vfscan .f32 32 6 7 9,
     .vfscan .f32 5 32 7 9, .vfscan .f32 5 6 32 9, .vfscan .f32 5 6 7 16, .vfscan .e4 5 6 7 9, .vsort .f32 32 6 7 9,
     .vsort .f32 5 32 7 9, .vsort .f32 5 6 32 9, .vsort .f32 5 6 7 16, .vsort .f64 5 6 7 9, .vsorti .i32 32 6 7 9,
     .vsorti .i32 5 32 7 9, .vsorti .i32 5 6 32 9, .vsorti .i32 5 6 7 16, .vsorti .i16 5 6 7 9, .vtopk .f32 32 6 7 9,
     .vtopk .f32 5 32 7 9, .vtopk .f32 5 6 32 9, .vtopk .f32 5 6 7 16, .vtopk .f64 5 6 7 9, .vld .f32 32 6 7 9,
     .vld .f32 5 32 7 9, .vld .f32 5 6 32 9, .vld .f32 5 6 7 16, .vld .img 5 6 7 9, .vst .f32 32 6 7, .vst .f32 5 32 7,
     .vst .f32 5 6 32, .vst .e4 5 6 7, .vlds .f32 32 6 7 9, .vlds .f32 5 32 7 9, .vlds .f32 5 6 32 9, .vlds .f32 5 6 7 16,
     .vlds .img 5 6 7 9, .vstf .f32 32 6 2 2, .vstf .f32 5 32 2 2, .vstf .f32 5 6 8 2, .vstf .f32 5 6 2 4, .vstf .img 5 6 2 2] : List Instr).all (fun i => !i.wf) = true := by decide +kernel

theorem test_ill_formed_13 : (
    [.vgat 32 6 7 9, .vgat 5 32 7 9, .vgat 5 6 32 9, .vgat 5 6 7 16, .vsca 32 6 7, .vsca 5 32 7, .vsca 5 6 32, .vldt 32 6 7 9,
     .vldt 5 32 7 9, .vldt 5 6 32 9, .vldt 5 6 7 16, .vpoly 32 6 9, .vpoly 5 32 9, .vpoly 5 6 16, .ppload 32, .gang 32 7,
     .gang 6 32, .gmeet 32, .mloads 32 6 7 9, .mloads 5 32 7 9, .mloads 5 6 32 9, .mloads 5 6 7 16, .mswap 32 9, .mswap 5 16,
     .mstream 32 6 7 1 9, .mstream 5 32 7 1 9, .mstream 5 6 32 1 9, .mstream 5 6 7 2 9, .mstream 5 6 7 1 16, .mzero 32 1 9,
     .mzero 5 2 9, .mzero 5 1 16, .mread 32 6 1 9, .mread 5 32 1 9, .mread 5 6 2 9, .mread 5 6 1 16, .mstore 32 6 7 1 9,
     .mstore 5 32 7 1 9, .mstore 5 6 32 1 9, .mstore 5 6 7 2 9, .mstore 5 6 7 1 16, .mscale 32 1 9, .mscale 5 2 9,
     .mscale 5 1 16, .mweight 4096, .mweight 0, .mweight 5, .mstat 32, .send 8 5 6 7 9, .send 3 32 6 7 9, .send 3 5 32 7 9,
     .send 3 5 6 32 9, .send 3 5 6 7 16, .send 0 5 6 7 9, .send 3 5 6 30 9, .sendw 8 5 6 7 9, .sendw 3 32 6 7 9,
     .sendw 3 5 32 7 9, .sendw 3 5 6 32 9, .sendw 3 5 6 7 16] : List Instr).all (fun i => !i.wf) = true := by decide +kernel

theorem test_ill_formed_14 : (
    [.sendw 0 5 6 7 9, .sendw 3 5 6 30 9, .cnew 32 6 7 9, .cnew 5 32 7 9, .cnew 5 6 32 9, .cnew 5 6 7 16, .cdec 32,
     .cspawn 8 5 6 7 9, .cspawn 2 32 6 7 9, .cspawn 2 5 32 7 9, .cspawn 2 5 6 32 9, .cspawn 2 5 6 7 16, .cspawn 4 5 6 7 9,
     .cspawn 0 5 6 7 9, .cspawn 2 5 6 31 9, .cjoin 32 6 7 9, .cjoin 5 32 7 9, .cjoin 5 6 32 9, .cjoin 5 6 7 16, .cdone 32,
     .binit 32 7, .binit 6 32, .barr 32 6 1, .barr 5 32 1, .barr 5 6 2, .bwait 32 7, .bwait 6 32, .btest 32 6 7, .btest 5 32 7,
     .btest 5 6 32, .pacq 32 6 1, .pacq 5 32 1, .pacq 5 6 2, .prel 32 7, .prel 6 32, .pfill 32 6 7 2, .pfill 5 32 7 2,
     .pfill 5 6 32 2, .pfill 5 6 7 8, .qlaunch 32 6 7 9, .qlaunch 5 32 7 9, .qlaunch 5 6 32 9, .qlaunch 5 6 7 16,
     .qstat 32 6 2 9, .qstat 5 32 2 9, .qstat 5 6 8 9, .qstat 5 6 2 16, .qstat 5 6 3 9, .spstat 32 6 7 9, .spstat 5 32 7 9,
     .spstat 5 6 32 9, .spstat 5 6 7 16, .spstatClr 32 6 7 9, .spstatClr 5 32 7 9, .spstatClr 5 6 32 9, .spstatClr 5 6 7 16,
     .spstatSt 32 6 9, .spstatSt 5 32 9, .spstatSt 5 6 16, .nload 32 6 7 2 9] : List Instr).all (fun i => !i.wf) = true := by decide +kernel

theorem test_ill_formed_15 : (
    [.nload 5 32 7 2 9, .nload 5 6 32 2 9, .nload 5 6 7 8 9, .nload 5 6 7 2 16, .nstore 32 6 7 2 9, .nstore 5 32 7 2 9,
     .nstore 5 6 32 2 9, .nstore 5 6 7 8 9, .nstore 5 6 7 2 16, .ndel 32 6 7 2 9, .ndel 5 32 7 2 9, .ndel 5 6 32 2 9,
     .ndel 5 6 7 8 9, .ndel 5 6 7 2 16, .ninit 32 6 7 9, .ninit 5 32 7 9, .ninit 5 6 32 9, .ninit 5 6 7 16, .nsnap 32 6 9,
     .nsnap 5 32 9, .nsnap 5 6 16, .nsnapRel 32 6 7 9, .nsnapRel 5 32 7 9, .nsnapRel 5 6 32 9, .nsnapRel 5 6 7 16,
     .nfree 32 6 9, .nfree 5 32 9, .nfree 5 6 16, .nstat 32 6 2 9, .nstat 5 32 2 9, .nstat 5 6 8 9, .nstat 5 6 2 16,
     .nstat 5 6 5 9, .ptload 32 6 7, .ptload 5 32 7, .ptload 5 6 32, .rngset 32 6 7, .rngset 5 32 7, .rngset 5 6 32,
     .tlbinv 32 6 7, .tlbinv 5 32 7, .tlbinv 5 6 32, .l2wb 32 6 7, .l2wb 5 32 7, .l2wb 5 6 32, .heatrd 32 6 7, .heatrd 5 32 7,
     .heatrd 5 6 32, .heatage 32 6 7, .heatage 5 32 7, .heatage 5 6 32, .pfreplay 32 6 7, .pfreplay 5 32 7, .pfreplay 5 6 32,
     .ckpt 32 6 7, .ckpt 5 32 7, .ckpt 5 6 32, .trap 4096, .tret 32 6, .tret 5 32] : List Instr).all (fun i => !i.wf) = true := by decide +kernel

theorem test_ill_formed_16 : (
    [.tretKill 32 6, .tretKill 5 32, .tretFrz 32 6, .tretFrz 5 32, .mfs 32 261, .mfs 5 4096, .mfs 5 255, .mts 32 261,
     .mts 6 4096, .mts 6 255, .cfreeze 32 6, .cfreeze 5 32, .cthaw 32 6, .cthaw 5 32, .cswapIn 32 6, .cswapIn 5 32,
     .cswapFast 32 6, .cswapFast 5 32, .cswapOut 32 6, .cswapOut 5 32, .cswapCreate 32 6, .cswapCreate 5 32, .cswapSeal 32 6,
     .cswapSeal 5 32, .cswapReset 32 6, .cswapReset 5 32, .wpset 32 6 1443, .wpset 5 32 1443, .wpset 5 6 4096, .lstat 32 6,
     .lstat 5 32, .lstatQuiesce 32 6, .lstatQuiesce 5 32, .lstatResume 32 6, .lstatResume 5 32, .lstatIsolate 32 6,
     .lstatIsolate 5 32, .lstatRetrain 32 6, .lstatRetrain 5 32, .lstatRelink 32 6, .lstatRelink 5 32, .lstatClr 32 6,
     .lstatClr 5 32, .lstatDquiesce 32 6, .lstatDquiesce 5 32, .lstatDflush 32 6, .lstatDflush 5 32, .lstatDreset 32 6,
     .lstatDreset 5 32, .lstatDadmit 32 6, .lstatDadmit 5 32] : List Instr).all (fun i => !i.wf) = true := by decide +kernel

/-! ### Words that the manual writes out, and what they stand for -/

/-- The encoded examples of 05 to 16. -/
theorem test_manual_words_b :
    decodeWord 0x204E64B1 = .ok (.fadd .f32 9 6 7 1) ∧ decodeWord 0x28B0 = .ok (.cSk 5 1 2) ∧ decodeWord 0x01C2552B = .ok (.amoadd 5 10 0 3 1 0) ∧ decodeWord 0x0200F771 = .ok (.barr 14 15 0)
      ∧ decodeWord 0x020062F1 = .ok (.barr 5 6 0) ∧ decodeWord 0x220062F1 = .ok (.barr 5 6 1)
      ∧ decodeWord 0x040E6071 = .ok (.bwait 6 7) ∧ decodeWord 0x0200701D = .ok (.cdec 7)
      ∧ decodeWord 0x000C53E9 = .ok (.cpy 7 5 6 0 0) ∧ decodeWord 0x045AC71D = .ok (.cspawn 1 14 12 13 0)
      ∧ decodeWord 0x001862FB = .ok (.cswapFast 5 6) ∧ decodeWord 0x4010202F = .ok (.fence 4 2 1)
      ∧ decodeWord 0x00014015 = .ok (.jlr 0 20 0) ∧ decodeWord 0x0006A021 = .ok (.ld .i64 0 10 0 0)
      ∧ decodeWord 0x0E0D08A1 = .ok (.ld .n32 17 16 14 0) ∧ decodeWord 0x00166623 = .ok (.lda .i64 12 6 0 1 0)
      ∧ decodeWord 0x401683A3 = .ok (.lda .i64 7 8 16 1 0) ∧ decodeWord 0x06C09317 = .ok (.lde 3 6 9 0 0)
      ∧ decodeWord 0x00E2B797 = .ok (.ldx .i64 15 11 17 0) ∧ decodeWord 0x000E62FB = .ok (.lstat 5 6)
      ∧ decodeWord 0x00AE62FB = .ok (.lstatDreset 5 6) ∧ decodeWord 0x004E62FB = .ok (.lstatRetrain 5 6)
      ∧ decodeWord 0x000B5A83 = .ok (.maxi 21 21 0) ∧ decodeWord 0x001002FB = .ok (.mfs 5 1)
      ∧ decodeWord 0x00008759 = .ok (.mloads 14 8 0 0) ∧ decodeWord 0x00009459 = .ok (.mloads 8 9 0 0)
      ∧ decodeWord 0x00189459 = .ok (.mloads 8 9 12 0) ∧ decodeWord 0x0240325D = .ok (.mread 4 3 1 0)
      ∧ decodeWord 0x0080B55D = .ok (.mstore 10 11 0 0 0) ∧ decodeWord 0x0080AA5D = .ok (.mstore 20 10 0 0 0)
      ∧ decodeWord 0x0000985B = .ok (.mstream 16 9 0 0 0) ∧ decodeWord 0x020E62DB = .ok (.mstream 5 6 7 1 0)
      ∧ decodeWord 0x004007D9 = .ok (.mswap 15 0) ∧ decodeWord 0x000006DD = .ok (.mzero 13 0 0) :=
  ⟨rfl, rfl, rfl, rfl, rfl, rfl, rfl, rfl, rfl, rfl, rfl, rfl, rfl, rfl, rfl, rfl, rfl, rfl, rfl, rfl, rfl, rfl, rfl, rfl, rfl, rfl, rfl, rfl,
   rfl, rfl, rfl, rfl, rfl, rfl⟩

/-- The encoded examples of 08, 15 to 26. -/
theorem test_manual_words_c :
    decodeWord 0x008E62ED = .ok (.ndel 5 6 7 0 0) ∧ decodeWord 0x008062EF = .ok (.nfree 5 6 0)
      ∧ decodeWord 0x000E62EF = .ok (.ninit 5 6 7 0) ∧ decodeWord 0x002B44EF = .ok (.ninit 9 20 21 0)
      ∧ decodeWord 0x002146ED = .ok (.nload 13 20 16 0 0) ∧ decodeWord 0x000E62ED = .ok (.nload 5 6 7 0 0)
      ∧ decodeWord 0x020E62ED = .ok (.nload 5 6 7 1 0) ∧ decodeWord 0x004062EF = .ok (.nsnap 5 6 0)
      ∧ decodeWord 0x024E62EF = .ok (.nsnapRel 5 6 7 0) ∧ decodeWord 0x04C062EF = .ok (.nstat 5 6 2 0)
      ∧ decodeWord 0x005946ED = .ok (.nstore 13 20 12 0 0) ∧ decodeWord 0x004E62ED = .ok (.nstore 5 6 7 0 0)
      ∧ decodeWord 0x000062EB = .ok (.pacq 5 6 0) ∧ decodeWord 0x020062EB = .ok (.pacq 5 6 1)
      ∧ decodeWord 0x009063EB = .ok (.pfill 7 6 8 0) ∧ decodeWord 0x004A606B = .ok (.prel 6 5)
      ∧ decodeWord 0x100E62FD = .ok (.ptload 5 6 7) ∧ decodeWord 0x001B49F3 = .ok (.qlaunch 19 20 13 0)
      ∧ decodeWord 0x000E62F3 = .ok (.qlaunch 5 6 7 0) ∧ decodeWord 0x02406473 = .ok (.qstat 8 6 1 0)
      ∧ decodeWord 0x00406473 = .ok (.qstat 8 6 0 0) ∧ decodeWord 0x120E62FD = .ok (.rngset 5 6 7)
      ∧ decodeWord 0x01C14973 = .ok (.spstat 18 20 0 0) ∧ decodeWord 0x01D26473 = .ok (.spstat 8 6 9 0)
      ∧ decodeWord 0x03D26473 = .ok (.spstatClr 8 6 9 0) ∧ decodeWord 0x05C14973 = .ok (.spstatSt 18 20 0)
      ∧ decodeWord 0x05C06473 = .ok (.spstatSt 8 6 0) ∧ decodeWord 0x00465325 = .ok (.st .i64 5 6 1 0)
      ∧ decodeWord 0x03051B25 = .ok (.st .i32 17 22 12 0) ∧ decodeWord 0x000C22A5 = .ok (.st .n32 2 5 0 0)
      ∧ decodeWord 0x004C22A9 = .ok (.stf .img 2 5 1 0) ∧ decodeWord 0x001665A7 = .ok (.str .i64 6 11 0 1)
      ∧ decodeWord 0x04168327 = .ok (.str .i64 8 6 16 1) :=
  ⟨rfl, rfl, rfl, rfl, rfl, rfl, rfl, rfl, rfl, rfl, rfl, rfl, rfl, rfl, rfl, rfl, rfl, rfl, rfl, rfl, rfl, rfl, rfl, rfl, rfl, rfl, rfl, rfl,
   rfl, rfl, rfl, rfl, rfl⟩

/-- The encoded examples of 06, 08, 10, 23 and 24. -/
theorem test_manual_words_d :
    decodeWord 0x000070AF = .ok (.tlwait 7 0) ∧ decodeWord 0x000340AF = .ok (.tlwait 20 1) ∧ decodeWord 0x0004D0AF = .ok (.tlwait 13 2)
      ∧ decodeWord 0x00700079 = .ok (.trap 7) ∧ decodeWord 0x000262F9 = .ok (.tret 5 6) ∧ decodeWord 0x002262F9 = .ok (.tretFrz 5 6)
      ∧ decodeWord 0x001262F9 = .ok (.tretKill 5 6) ∧ decodeWord 0x00800341 = .ok (.vclaim 6 0 8)
      ∧ decodeWord 0x024E144D = .ok (.vfred .f32 8 1 7 0) ∧ decodeWord 0x004040CF = .ok (.vld .f32 1 4 0 0)
      ∧ decodeWord 0x190A62FB = .ok (.wpset 5 6 0x190) ∧ decodeWord 0x0016B583 = .ok (.xori 11 11 1)
      ∧ decodeWord 0x000E62FD = .ok (.tlbinv 5 6 7) ∧ decodeWord 0x0200007D = .ok .l1inv ∧ decodeWord 0x0416A2FD = .ok (.l2wb 5 10 11)
      ∧ decodeWord 0x060E62FD = .ok (.heatrd 5 6 7) ∧ decodeWord 0x080E62FD = .ok (.heatage 5 6 7)
      ∧ decodeWord 0x0A0E62FD = .ok (.pfreplay 5 6 7) ∧ decodeWord 0x0C0E62FD = .ok (.ckpt 5 6 7) ∧ decodeWord 0x0400001B = .ok .halt
      ∧ decodeWord 0x0090629B = .ok (.send 2 5 6 8 0) :=
  ⟨rfl, rfl, rfl, rfl, rfl, rfl, rfl, rfl, rfl, rfl, rfl, rfl, rfl, rfl, rfl, rfl, rfl, rfl, rfl, rfl, rfl⟩

/-! ### States for the witnesses -/

/-- The thread of notes/assumptions/2.md at its first instruction `w`, with some registers set. -/
def Tests.threadAt (w : Nat) (regs : List (Nat × Nat)) : State :=
  regs.foldl (fun s r => s.setReg r.1 r.2 0) (State.reset.withFetchWord 32 w)

/-- The same where the instruction does not matter. -/
def Tests.thread (regs : List (Nat × Nat)) : State := Tests.threadAt 0 regs

/-- The same at supervisor level. -/
def Tests.sup (regs : List (Nat × Nat)) : State := (Tests.thread regs).modCur fun a => { a with level := .sup }

/-- An activation at supervisor level on control core 0 of die 0. -/
def Tests.ctl (regs : List (Nat × Nat)) : State :=
  regs.foldl (fun s r => s.setReg r.1 r.2 0)
    ((State.reset.withFetchWord 32 0).modCur fun a => { a with level := .sup, cluster := ctlCluster })

/-- The result is a value of which `p` holds. -/
def Tests.oks {ε α : Type} (r : Except ε α) (p : α → Bool := fun _ => true) : Bool :=
  match r with
  | .ok x => p x
  | .error _ => false

/-- The part of an instruction went well, with a value and a state of which `p` holds. -/
def Tests.vals {α : Type} (r : Res α) (p : α → State → Bool := fun _ _ => true) : Bool :=
  match r with
  | .ok a s => p a s
  | _ => false

/-- The instruction or the step answers a next state of which `p` holds. -/
def Tests.nexts {β γ : Type} (r : Host.Outcome State β γ) (p : State → Bool := fun _ => true) : Bool :=
  match r with
  | .next x => p x
  | _ => false

/-! ### Witnesses: for each statement with hypotheses, states that meet them -/

/-- StepKeepsMemoryCanonical. -/
theorem test_witness_step : Memory.wf (Tests.threadAt 0x28E6281 []).mem = true ∧ Tests.nexts (step (Tests.threadAt 0x28E6281 [])) = true := by
  decide +kernel

/-- StepRunsDecoded: the thread's own turn, at `sub` of 32 bits. -/
theorem test_witness_step_runs_decoded :
    let s := Tests.threadAt 0x28E6281 []
    let u := s.tick.modSched fun q => { q with plan := [] }
    let a : Act := { id := 1, live := true }
    let f := (u.focusOn a.id).modMyCore fun c =>
      { c with cur := c.cur.set (u.focusOn a.id).cur.pri (u.focusOn a.id).cur.slot }
    s.sched.plan = .issue 0 :: [] ∧ u.pick 0 = some a ∧ f.cur.firstLate = none ∧ f.cur.wpOk = true
      ∧ Tests.vals (f.fetchAt f.pc) (fun r t => decide (r = (true, 0x28E6281) ∧ t.cur.behind = false ∧ t.followers t.cur = [] ∧ t.laneWait 0x28E6281 = false
          ∧ ∀ b ∈ t.begin.allActs, b.coreKey = t.cur.coreKey → b.wins = [])) = true
      ∧ decodeWord 0x28E6281 = .ok (.sub .i32 5 6 7) := by
  refine ⟨?_, ?_, ?_, ?_, ?_, rfl⟩ <;> decide +kernel

/-- DecodeEncode. -/
theorem test_witness_decode_encode :
    (Instr.sub .i32 5 6 7).wf = true ∧ encodeWord (.sub .i32 5 6 7) = some (32, 0x28E6281)
      ∧ ∃ bs, encode (.sub .i32 5 6 7) = some bs :=
  ⟨by decide, by decide, _, rfl⟩

/-- SupervisorFormsTrapAtUser. -/
theorem test_witness_supervisor_forms :
    let s := Tests.thread []
    let i := Instr.tlbinv 5 6 7
    Instr.supervisor i = true ∧ s.cur.level = .user ∧ s.cur.shadow = none ∧ (encodeWord i).isSome = true := by
  decide +kernel

/-- IntegerRegisterResults, BranchesAndJumps: the conditions of `cmp`, `csel` and `c.sk` hold and fail. -/
theorem test_witness_conditions :
    (CmpCond 0 1 1 1 1 ∧ ¬ CmpCond 0 1 2 1 2) ∧ (CmpCond 1 1 2 1 2 ∧ ¬ CmpCond 1 1 1 1 1) ∧ (CmpCond 2 (-1) 0 255 0 ∧ ¬ CmpCond 2 0 0 0 0)
      ∧ (CmpCond 3 0 0 0 0 ∧ ¬ CmpCond 3 (-1) 0 255 0) ∧ (CmpCond 4 0 (-1) 0 255 ∧ ¬ CmpCond 4 0 0 0 0)
      ∧ (CmpCond 5 0 0 0 0 ∧ ¬ CmpCond 5 0 (-1) 0 255) ∧ (CmpCond 6 1 3 1 3 ∧ ¬ CmpCond 6 1 2 1 2)
      ∧ (SelCond 0 1 ∧ ¬ SelCond 0 0) ∧ (SelCond 1 0 ∧ ¬ SelCond 1 1) ∧ (SelCond 4 1 ∧ ¬ SelCond 4 2) ∧ (SelCond 5 2 ∧ ¬ SelCond 5 1)
      ∧ (SkipCond 0 0 ∧ ¬ SkipCond 0 1) ∧ (SkipCond 1 1 ∧ ¬ SkipCond 1 0) := by
  simp [CmpCond, SelCond, SkipCond]

theorem test_witness_sign_conditions :
    (SelCond 2 (2 ^ 63) ∧ ¬ SelCond 2 (2 ^ 63 - 1)) ∧ (SelCond 3 (2 ^ 63 - 1) ∧ ¬ SelCond 3 (2 ^ 63)) := by
  simp only [SelCond]
  decide

/-- ShiftAndBitFieldResults, MultiplyAndDivide, FloatArithmetic, LocalTcmAccess and their like ask for d < 32 alone, and
IntegerRegisterResults, ImmediateAndCompressedResults and FloatCompareClassAndTails for a word with a field that no row
gives. -/
theorem test_witness_reserved_words :
    (31 < 32)
      ∧ (0xE08E6281 < 2 ^ 32 ∧ 0xE08E6281 % 2 = 1 ∧ bits 0xE08E6281 1 6 = 0 ∧ bits 0xE08E6281 29 3 ≠ 0)
      ∧ (0x08000007 % 2 = 1 ∧ bits 0x08000007 1 6 = 3 ∧ 2 ≤ bits 0x08000007 25 4)
      ∧ (0xC0003 % 2 = 1 ∧ bits 0xC0003 1 6 = 1 ∧ 6 ≤ bits 0xC0003 17 3)
      ∧ (0x400039 % 2 = 1 ∧ bits 0x400039 1 6 = 0x1C ∧ bits 0x400039 22 3 ≠ 0) := by
  decide

/-- PointersAndUpperImmediates: a sum at the last address of the tag, one above it, one below its first. -/
theorem test_witness_pointers :
    let s := Tests.thread [(6, 0x12FFFFFFFFFFFFFF), (7, 1), (8, 0x1200000000000000)]
    s.cur.shadow = none
      ∧ (let y : Int := (s.reg 6 % 2 ^ 56 : Nat) + sint (s.reg 0) 64; 0 ≤ y ∧ y < 2 ^ 56)
      ∧ (let y : Int := (s.reg 6 % 2 ^ 56 : Nat) + sint (s.reg 7) 64; 2 ^ 56 ≤ y)
      ∧ (let y : Int := (s.reg 8 % 2 ^ 56 : Nat) + - sint (s.reg 7) 64; y < 0) := by
  decide +kernel

/-- BranchesAndJumps: each branch's condition holds and fails, and a skip runs over a 16-bit and a 32-bit instruction. -/
theorem test_witness_branches :
    let s := Tests.thread [(6, 2 ^ 64 - 1), (7, 0), (8, 63)]
    (s.reg 7 = s.reg 0 ∧ s.reg 6 ≠ s.reg 7) ∧ (sint (s.reg 6) 64 < sint (s.reg 7) 64 ∧ ¬ sint (s.reg 7) 64 < sint (s.reg 6) 64)
      ∧ (s.reg 7 < s.reg 6 ∧ ¬ s.reg 6 < s.reg 7) ∧ ((s.reg 6).testBit (s.reg 8 % 64) = true ∧ (s.reg 7).testBit (s.reg 8 % 64) = false)
      ∧ Tests.vals ((Tests.threadAt 0x28B0 []).skipFrom 1 0x10000) (fun pc _ => pc == 0x10002) = true
      ∧ Tests.vals ((Tests.threadAt 0x28E6281 []).skipFrom 1 0x10000) (fun pc _ => pc == 0x10004) = true := by
  decide +kernel

/-- RoundingIsIeee, RoundToOdd: a tie in every mode, and a value below the last place. -/
theorem test_witness_rounding :
    fp32 ∈ [fp64, fp32, fp16, bf16, fp8e5] ∧ (4 < 5) ∧ (2 ^ 24 + 1 ≠ 0)
      ∧ rto fp32 (.fin false (2 ^ 24 + 1) 0) = ((rto fp32 (.fin false (2 ^ 24 + 1) 0)).1, 0) := by
  decide +kernel

/-- FloatConversions: a floating-point target, the E8S target and an integer target. -/
theorem test_witness_conversions :
    (fmtOf? 10).isSome = true ∧ fmtOf? 20 = none ∧ (intRange? 5).isSome = true ∧ fmtOf? 5 = none := by
  decide +kernel

/-- Loads: an access in the middle of the mapped page, at its last word, and the key of a byte that no leaf covers. -/
theorem test_witness_loads :
    let s := Tests.thread [(6, 0x18000), (7, 0x1FFFC), (2, 0x18008)]
    Tests.oks (s.checkE s.me (s.reg 6) (sint 255 8 * 4) 4 4 aRead) (fun x => x.1.kind == 3 && decide (x.1.leaf = 0x8008)) = true
      ∧ Tests.oks (s.checkE s.me (s.reg 7) (sint 0 6 * 4) 4 4 aRead) = true
      ∧ Tests.oks (s.checkE s.me (s.reg 6) (sint (s.reg 0) 64) 4 4 aRead) = true
      ∧ Tests.oks (s.checkE s.me (s.reg 2) (63 * 8 : Nat) 8 8 aRead) = true
      ∧ 0x18000 < 2 ^ 70 ∧ ¬ InSpan 0x18000 0x8008 8 := by
  refine ⟨?_, ?_, ?_, ?_, ?_, ?_⟩ <;> first | decide +kernel | simp [InSpan]

/-- Stores: the same for writing, at the first and the last byte of the page, and in the scratchpad. -/
theorem test_witness_stores :
    let s := Tests.thread [(6, 0x10000), (7, 0x1FFFF), (8, 0xF1000000000000)]
    s.cur.shadow = none ∧ s.work.queues = [] ∧ s.work.groups = []
      ∧ Tests.oks (s.checkE s.me (s.reg 6) 0 1 1 aWrite) (fun x => x.1.kind == 3) = true
      ∧ Tests.oks (s.checkE s.me (s.reg 7) 0 1 1 aWrite) (fun x => x.1.kind == 3) = true
      ∧ Tests.oks (s.checkE s.me (s.reg 8) 0 16 16 aWrite) (fun x => x.1.kind == 1) = true
      ∧ Tests.oks ((s.settled 0).checkE (s.settled 0).me (s.reg 6) 0 8 8 aWrite) = true ∧ s.cur.lost = 0 ∧ s.links = [] := by
  decide +kernel

theorem test_witness_no_shadow : (Tests.thread []).NoShadow := by
  refine ⟨fun q h => ?_, fun g h => ?_, by decide +kernel⟩
  · rw [show (Tests.thread []).work.queues = [] by decide +kernel] at h; cases h
  · rw [show (Tests.thread []).work.groups = [] by decide +kernel] at h; cases h

/-- LocalTcmAccess: at the first offset above the areas, and at the last word of the TCM. -/
theorem test_witness_tcm :
    let s := Tests.thread [(6, 0xF0000000002900), (7, 0xF0000000007FFC)]
    Tests.oks (ea (s.reg 6) (sint 0 8 * 4)) (fun v => v == 0xF0000000000000 + 0x2900) = true
      ∧ Tests.oks (ea (s.reg 7) (sint 0 10 * 4)) (fun v => v == 0xF0000000000000 + 0x7FFC) = true
      ∧ 0x7FFC + 4 ≤ 0x8000 ∧ 0x7FFC % 4 = 0 ∧ s.race = []
      ∧ (∀ x ∈ s.allActs, x.inSlot = true → x.coreKey = s.cur.coreKey → x.wp + 0x140 ≤ 0x2900 ∨ 0x2900 + 4 ≤ x.wp) := by
  decide +kernel

/-- AccessTraps: an address above the tag, and an unaligned one. -/
theorem test_witness_access_traps :
    let s := Tests.thread [(6, 0xFFFFFFFFFFFFFF), (7, 0x18001)]
    s.cur.shadow = none ∧ Tests.oks (ea (s.reg 6) (sint 1 8 * 4)) = false
      ∧ Tests.oks (ea (s.reg 7) (sint 0 10 * 4)) (fun v => v % 4 != 0) = true := by
  decide +kernel

/-- ElementAccess: an integer format, a floating-point format and the image slot. -/
theorem test_witness_elements :
    let s := Tests.thread [(6, 5 * 2 ^ 59 + 0x18000), (7, 10 * 2 ^ 59 + 0x18000), (8, 0x1F * 2 ^ 59 + 0x18000), (9, 3)]
    intRange? (s.reg 6 / 2 ^ 59) = some (-2147483648, 2147483647, 8 * 4)
      ∧ (match fmtOf? (s.reg 7 / 2 ^ 59) with | some f => f.width == 32 | none => false) = true ∧ s.reg 8 / 2 ^ 59 = 0x1F
      ∧ Tests.oks (s.checkE s.me (s.reg 6) (sint (s.reg 9) 64 * 4) 4 4 aRead) = true
      ∧ Tests.oks (s.checkE s.me (s.reg 7) (sint (s.reg 9) 64 * 4) 4 4 aWrite) (fun x => x.1.kind == 3) = true
      ∧ Tests.oks (s.checkE s.me (s.reg 8) (sint (s.reg 9) 64 * 16) 16 16 aWrite) (fun x => x.1.kind == 3) = true := by
  decide +kernel

/-- A context with range-table entry 0 over the mapped page, under protocol `pid`. -/
def Tests.ranged (pid : Nat) (regs : List (Nat × Nat)) : State :=
  (Tests.thread regs).modCtx 0 fun c => { c with ranges := [(0, { base := 0x10000, npg := 1, pid := pid })] }

/-- Atomics, OrderedReduce, Reservations: outside and inside an ordered-reduce range. -/
theorem test_witness_atomics :
    let s := Tests.thread [(6, 0x1FFFC), (7, 5)]
    let r := Tests.ranged 4 [(6, 0x18000), (7, 5)]
    Tests.oks (s.checkE s.me (s.reg 6) 0 4 4 aAtomic) (fun x => x.1.kind == 3) = true
      ∧ Tests.oks ((s.settled 2).checkE (s.settled 2).me (s.reg 6) 0 4 4 aAtomic) (fun x => x.1.kind == 3) = true
      ∧ s.inReduce (s.reg 6 % 2 ^ 56) = false ∧ r.inReduce (r.reg 6 % 2 ^ 56) = true ∧ r.reg 6 % 2 ^ 56 % 8 = 0
      ∧ r.reg 6 % 2 ^ 56 / 2 ^ 52 % 16 ≠ 15
      ∧ (match r.locate r.me (r.reg 6 % 2 ^ 56) 8 aAtomic with | (.ok l, t) => t.inReduce 0x18000 && l.kind != 7 | _ => false) = true
      ∧ r.cur.shadow = none := by
  decide +kernel

theorem test_witness_reservations :
    let s := (Tests.thread [(6, 0x18000), (7, 5)]).modCur fun a => { a with resv := some { line := 0x18000 / 128 } }
    Tests.oks (s.checkE s.me (s.reg 6) 0 8 8 aWrite) (fun x => decide (x.2.cur.resv = some { line := x.1.key / 128 })) = true
      ∧ Tests.oks ((Tests.thread [(6, 0x18000)]).checkE s.me 0x18000 0 8 8 aRead) (fun x => x.2.cur.resv.isNone) = true := by
  decide +kernel

/-- FencesTimelinesAndHints: a core with one copy outstanding and one completed. -/
theorem test_witness_timelines :
    let s := ((Tests.thread [(6, 2), (7, 1), (8, 3)]).modCore 0 fun c => { c with issued := [2, 0, 0], tl := [1, 0, 0] })
    let c := s.core s.cur.coreKey
    (∃ k, k < 3 ∧ 4 / 2 ^ (2 + 2 * k) % 4 ≠ 0 ∧ c.tl.getD k 0 < c.issued.getD k 0)
      ∧ ({ c with active := { state := 1, refetch := true } } : Core).refetches = true ∧ c.refetches = false
      ∧ ¬ (∃ k, k < 3 ∧ 3 / 2 ^ (2 + 2 * k) % 4 ≠ 0 ∧ c.tl.getD k 0 < c.issued.getD k 0)
      ∧ c.issued.getD 0 0 < s.reg 8 ∧ (s.reg 6 ≤ c.issued.getD 0 0 ∧ c.tl.getD 0 0 < s.reg 6)
      ∧ (s.reg 7 ≤ c.tl.getD 0 0 ∧ s.cur.errorOf 0 (s.reg 7) = none) ∧ s.cur.orig ≠ 2 ∧ s.cur.shadow = none
      ∧ (match s.locate s.me 0x18000 1 aRead with | (.ok _, _) => true | _ => false) = true := by
  decide +kernel

/-- A thread with a rank-1 map of four 32-bit integers at 0x18000, in memory at `base`, and with some registers set. -/
def Tests.mapped (base : Nat) (regs : List (Nat × Nat)) : State :=
  ((Tests.thread regs).wrN 0x18000 8 (5 * 2 ^ 59 + base)).wrN 0x18008 8 4 |>.wrN 0x18020 8 (2 ^ 32)

/-- Copies: a full queue; a count above its bound, at it and at 0. -/
theorem test_witness_copies :
    let s := Tests.thread [(5, 2 ^ 32 + 1), (6, 2 ^ 32), (7, 0), (8, 1)]
    let f := s.modCore 0 fun c => { c with copies := List.replicate 32 { n := 1, op := 0 } }
    32 ≤ (f.core f.cur.coreKey).copies.length ∧ ¬ 32 ≤ (s.core s.cur.coreKey).copies.length ∧ s.cur.shadow = none
      ∧ 2 ^ 32 < s.reg 5 ∧ (s.reg 6 ≠ 0 ∧ s.reg 6 ≤ 2 ^ 32) ∧ s.reg 7 = 0 := by
  decide +kernel

/-- Copies: two tensor maps of one shape. -/
theorem test_witness_copy_maps :
    let m := Tests.mapped 0x19000 [(5, 7), (6, 0x18000)]
    Tests.vals (m.loadWords (m.reg 6) 0 8) (fun dm u => !mapBad dm && Tests.vals (u.loadWords (u.reg 6) 0 8) fun sm _ =>
      decide (dm = sm) && !isMx (mapFmt dm)) = true ∧ m.reg 5 < 8 := by
  decide +kernel

/-- Copies: a list. -/
theorem test_witness_copy_list :
    let g := ((Tests.thread [(7, 0x18000)]).wrN 0x18000 8 0x19000).wrN 0x18010 8 (2 ^ 24 + 65536 * 2 ^ 32)
    Tests.vals (g.load 4 (g.reg 7) 0 8 8) (fun _ u => Tests.vals (u.loadWords (u.reg 7) 8 3) fun ws _ =>
      ws.getD 1 0 % 2 ^ 32 == 2 ^ 24 && ws.getD 1 0 / 2 ^ 32 == 65536) = true := by
  decide +kernel

/-- A second activation of the cluster, on a core and in a slot, as `f` makes it. -/
def Tests.with2 (s : State) (core : Nat) (f : Act → Act) : State :=
  s.setActs [(2, f { id := 2, live := true, core := core })]

/-- The issuing activation changed. -/
def Tests.as (s : State) (f : Act → Act) : State := s.modCur f

/-- ClaimsAndGangs, the claims: below, at and above the grant; lanes free, and lanes of a parked activation. -/
theorem test_witness_claims :
    let s := Tests.as (Tests.thread [(6, 8), (7, 64)]) fun a => { a with grant := 16 }
    let p := Tests.with2 s 0 fun a => { a with grant := 8, parked := some 0x18000 }
    let r := fun x : Int => ((max 0 (min x 64)).toNat + 7) / 8 * 8
    r (sint (s.reg 6) 64 + sint 0 12) < s.cur.grant ∧ s.cur.grant ≤ r (sint (s.reg 6) 64 + sint 8 12)
      ∧ s.cur.grant ≤ r (sint (s.reg 7) 64 + sint 2047 12)
      ∧ (s.clusterActs s.cur).filter (s.canTake s.cur) = [] ∧ ((p.clusterActs p.cur).filter (p.canTake p.cur)).length = 1 := by
  decide +kernel

/-- ClaimsAndGangs, `gang`: a mask without the issuer, a member that waits with another tag, one that does not wait yet, and
one that waits with the same tag and mask. -/
theorem test_witness_gang :
    let s := Tests.thread [(6, 9), (7, 3), (8, 2)]
    let waits := fun t => Tests.with2 s 1 fun a => { a with run := .waiting (.gang t 3) }
    let good := fun (s : State) (m : Nat) => m < 16 ∧ 2 ≤ popc 4 m ∧ m.testBit (s.cur.core % 4) = true ∧ s.cur.gang = none
    let seats := fun s : State => (List.range 4).filter (bit 3) |>.filterMap fun j =>
      if j = s.cur.core % 4 then some s.cur
      else ((s.quadActs s.cur).filter fun x => x.id != s.cur.id && bit 3 (x.core % 4) && x.gangWait.isSome).find? fun x => x.core % 4 == j
    ¬ good s (s.reg 8) ∧ good s (s.reg 7) ∧ (s.reg 6 % 65536 = 9) ∧ s.cur.orig ≠ 2 ∧ s.cur.shadow = none
      ∧ (∃ x ∈ (waits 8).allActs, x.id ≠ 1 ∧ x.core / 4 = 0 ∧ x.gangWait = some (8, 3))
      ∧ (seats s).length = 1 ∧ (seats (waits 9)).length = 2 ∧ (∀ x ∈ (waits 9).allActs, x.gangWait = none ∨ x.gangWait = some (9, 3)) := by
  decide +kernel

/-- ClaimsAndGangs, `gmeet` and `gleave`: a leader whose follower is attached or not, and a follower attached or not, alone
with the leader and with a third member. -/
theorem test_witness_gang_members :
    let s := Tests.thread [(6, 9)]
    let lead := Tests.as s fun a => { a with gang := some 1 }
    let follow := Tests.as s fun a => { a with gang := some 2, attached := true }
    let f := fun att => Tests.with2 lead 1 fun a => { a with gang := some 1, attached := att }
    let l := Tests.with2 follow 1 fun a => { a with gang := some 2 }
    let three := follow.setActs [(2, { id := 2, live := true, core := 1, gang := some 2 }), (3, { id := 3, live := true, core := 2, gang := some 2 })]
    let threeMet := three.setActs [(2, { id := 2, live := true, core := 1, gang := some 2, run := .waiting (.gmeet 9) }),
      (3, { id := 3, live := true, core := 2, gang := some 2 })]
    let loose := Tests.as l fun a => { a with attached := false }
    let met := Tests.with2 loose 1 fun a => { a with gang := some 2, run := .waiting (.gmeet 9) }
    s.cur.gang = none ∧ (l.cur.gang = some 2 ∧ 2 ≠ l.cur.id ∧ l.cur.attached = true)
      ∧ (∀ x ∈ (f true).gangActs 1, x.id = 1 ∨ x.attached = true) ∧ (∃ x ∈ (f false).gangActs 1, x.id ≠ 1 ∧ x.attached = false)
      ∧ loose.cur.attached = false ∧ ((loose.block (.gmeet 9)).act? 2).bind Act.meetWait = none
      ∧ ((met.block (.gmeet 9)).act? 2).bind Act.meetWait = some 9
      ∧ (three.cur.meetWait = none ∧ (three.act? 2).bind Act.meetWait = none ∧ (threeMet.act? 2).bind Act.meetWait = some 9)
      ∧ 2 ≤ ((three.gangActs 2).filter (·.id != three.cur.id)).length ∧ ((l.gangActs 2).filter (·.id != l.cur.id)).length ≤ 1 := by
  decide +kernel

/-- VectorLongAndConversions, LaneMoves: elements of one width and of two; a group that fits and one that does not; an index
at the last lane and one above it; the neighbour on the next core. -/
theorem test_witness_lanes :
    let s := Tests.as (Tests.thread [(6, 31), (7, 32)]) fun a => { a with grant := 32 }
    let n := Tests.with2 (Tests.as s fun a => { a with gang := some 1 }) 1 fun a => { a with gang := some 1, attached := true, grant := 32 }
    (fwFmt .f32).width = 32 ∧ (fwFmt .f16).width ≠ 32 ∧ groupBad 32 32 30 64 = none ∧ groupBad 16 32 31 64 = none
      ∧ (groupBad 32 32 31 64).isSome = true ∧ (groupBad 64 0 0 1).isSome = true
      ∧ s.reg 6 < s.cur.grant ∧ s.cur.grant ≤ s.reg 7 ∧ s.cur.shadow = none
      ∧ ((n.quadActs n.cur).find? fun y => y.core == n.cur.core / 4 * 4 + (n.cur.core % 4 + 1) % 4 && y.gang == n.cur.gang && y.inStep).isSome = true
      ∧ n.cur.inStep = true := by
  decide +kernel

/-- ReductionsAndSorts: groups of one element and of the most that fit; a sort with indices, and a top-k of the whole group. -/
theorem test_witness_groups :
    let g := 64
    groupBad 32 g 0 1 = none ∧ groupBad 32 g 0 2048 = none ∧ groupBad 64 g 0 1024 = none ∧ groupBad 32 g 4 64 = none
      ∧ 1 ≤ 2048 ∧ 2048 ≤ 8191 ∧ 4 + 2 * ceilDiv 64 g ≤ 32 ∧ (63 < 64 ∧ 63 < 256)
      ∧ (let s := Tests.thread [(6, 64 + 2 ^ 14 + 2 ^ 15), (7, 64 + 2 ^ 16 * 63)]
         s.reg 6 = 64 + 2 ^ 14 * 1 + 2 ^ 15 * 1 ∧ s.reg 7 = 64 + 2 ^ 14 * 0 + 2 ^ 16 * 63) := by
  decide +kernel

/-- SortOrderIsStable. -/
theorem test_witness_sort : (∃ d, fpLt true = fpLt d) ∧ ∃ w d, intLt .n32 false = intLt w d := ⟨⟨true, rfl⟩, .n32, false, rfl⟩

/-- VectorMemory: a row, a stride, a gather and a scatter over the last bytes of the page, and a row of a tensor map. -/
theorem test_witness_vector_memory :
    let s := Tests.as (Tests.thread [(6, 0x1FFE0), (7, 4)]) fun a => { a with grant := 8 }
    let m := Tests.as (Tests.mapped 0x19000 [(6, 0x18000), (7, 0)]) fun a => { a with grant := 8 }
    let row := (List.range 8).map fun j : Nat => ((s.reg 6, ((j * 4 : Nat) : Int), 4, 4) : Part)
    let lanes := (List.range 8).map fun i => ((s.reg 6, sint (s.lane 1 i) 32 * 4, 4, 4) : Part)
    Tests.vals (s.loadVec row) = true ∧ Tests.vals (s.loadVec lanes) = true
      ∧ Tests.vals (s.loadVec ((List.range 8).map fun j : Nat => ((s.reg 6, (j : Int) * sint (s.reg 7) 64, 4, 4) : Part))) = true
      ∧ Tests.vals (s.checkVec aWrite row) (fun ls _ => ls.all fun l => decide (1 ≤ l.kind ∧ l.kind < 7)) = true
      ∧ Tests.vals (s.checkVec aWrite lanes) (fun ls _ => ls.all fun l => decide (1 ≤ l.kind ∧ l.kind < 7)) = true
      ∧ m.reg 6 % 64 = 0 ∧ Tests.vals (m.loadWords (m.reg 6) 0 8) (fun w t =>
          !mapBad w && (mapBit w [3, 0, 0, 0]).isSome && mapHas w [3, 0, 0, 0] && !mapHas w [4, 0, 0, 0]
            && Tests.vals (t.loadVec (bitParts ((mapBit w [0, 0, 0, 0]).getD 0) 32 none))) = true := by
  decide +kernel

/-- PolynomialUnit: a table of two rising segments and one of two equal ones; a table loaded, a request in the unit and a
full unit; a grant as wide as the request and a narrower one. -/
theorem test_witness_polynomials :
    let s := ((Tests.thread [(6, 0x18000)]).wrN 0x18000 1 2).wrN 0x18024 4 0x3F800000
    let q := (Tests.thread [(6, 0x18000)]).wrN 0x18000 1 2
    let w := { s.me with eng := 4, slot := 0 }
    let tab := s.modCore 0 fun c => { c with poly := [{ bp := 0, c0 := 0, c1 := 0, c2 := 0, c3 := 0 }] }
    let req : PolyReq := { core := 0, act := 1, vd := 1, lanes := List.replicate 8 0, pc := 0 }
    let unit := fun n => tab.modCluster 0 fun c => { c with polyQ := List.replicate n req }
    let read := fun (s : State) (rises : Bool) => Tests.oks (s.engRead w 2 0x18000 16) fun h => decide (polyHeader h.1 = some 2)
      && Tests.oks (h.2.tableWords w 0x18010 10) fun ws => polyRises (polySegs 2 ws.1) == rises
    s.reg 6 % 2 ^ 56 % 16 = 0 ∧ s.polyOf 0 = [] ∧ read s true = true ∧ read q false = true ∧ (s.core 0).poly = [] ∧ s.cur.shadow = none
      ∧ (tab.core 0).poly ≠ [] ∧ (unit 1).polyOf 0 ≠ [] ∧ ((unit 15).cluster 0).polyQ.length < 16 ∧ 16 ≤ ((unit 16).cluster 0).polyQ.length
      ∧ s.cur.id = 1 ∧ s.cur.live = true ∧ s.running 0 = true
      ∧ req.lanes.length ≤ ((Tests.as s fun a => { a with grant := 8 }).cur.grant) ∧ s.cur.grant < req.lanes.length := by
  decide +kernel

/-- A thread whose x6 is a rank-2 FP16 map of 64 by 64 elements at `base`, and whose x5 is the control word. -/
def Tests.plane (base ctl : Nat) : State :=
  ((((Tests.thread [(5, ctl), (6, 0x18000)]).wrN 0x18000 8 (0x0B * 2 ^ 59 + base)).wrN 0x18008 8 (64 + 64 * 2 ^ 32)).wrN 0x18018 8 128).wrN
    0x18020 8 (2 * 2 ^ 32)

/-- The map that x6 names is whole, and x5 is a control word for it. -/
def Tests.goodPlane (s : State) (p : List Nat → State → Bool) : Bool :=
  Tests.vals (s.loadWords (s.reg 6) 0 8) fun w t => !mapBad w && !coordsBad (s.reg 5) w false && p w t

/-- MatrixCommands: a queue that is full and one that is not, control words, and an address that is not aligned. -/
theorem test_witness_matrix_commands :
    let s := Tests.plane 0xF1000000000000 0
    let f := s.modCore 0 fun c => { c with mq := List.replicate 4 { n := 1, op := 3 } }
    let bad := Tests.plane 0 (2 ^ 58)
    4 ≤ (f.core 0).mq.length ∧ (s.core 0).mq.length < 4 ∧ s.cur.shadow = none ∧ s.reg 6 % 2 ^ 56 % 64 = 0
      ∧ (∀ op ∈ [0, 2, 5], optBad op (s.reg 5) = false) ∧ optBad 4 (4 * 2 ^ 52) = false ∧ 4 * 2 ^ 52 % 2 ^ 52 = 0
      ∧ (∀ op ∈ [0, 2, 5], optBad op (bad.reg 5) = true) ∧ (Tests.thread [(6, 0x18008)]).reg 6 % 64 ≠ 0 := by
  decide +kernel

/-- MatrixCommands: a map of the scratchpad that passes every check, with an active plane of its class and extent. -/
theorem test_witness_matrix_active :
    Tests.goodPlane ((Tests.plane 0xF1000000000000 0).modCore 0 fun c => { c with viewActive := [1, 0x0B, 64] }) (fun w t =>
      (mxClass? (mapFmt w)).isSome && bits (mapBase w) 48 8 == 0xF1
        && mxClass? ((t.core 0).viewActive.getD 1 0) == mxClass? (mapFmt w) && (t.core 0).viewActive.getD 2 0 == mapDim w 0) = true := by
  decide +kernel

/-- MatrixCommands: the same with no active plane. -/
theorem test_witness_matrix_empty :
    Tests.goodPlane (Tests.plane 0xF1000000000000 0) (fun w t => (mxClass? (mapFmt w)).isSome && bits (mapBase w) 48 8 == 0xF1
      && (t.core 0).viewActive.getD 0 0 == 0) = true := by
  decide +kernel

/-- MatrixCommands: a map of memory, and one of no class. -/
theorem test_witness_matrix_maps :
    Tests.goodPlane (Tests.plane 0x19000 0) (fun w _ => (mxClass? (mapFmt w)).isSome && bits (mapBase w) 48 8 != 0xF1) = true
      ∧ Tests.goodPlane (Tests.mapped 0x19000 [(6, 0x18000)]) (fun w _ => (mxClass? (mapFmt w)).isNone) = true := by
  decide +kernel

/-- MatrixCommands: a map that is not whole. -/
theorem test_witness_matrix_bad : Tests.vals ((Tests.thread []).loadWords 0x18000 0 8) (fun w _ => mapBad w) = true := by
  decide +kernel

/-- MatrixUnit: the last row and one above it; a command at the head that swaps, clears and rounds; a core that may go on and one
whose weight is used up; a plane to fetch again. -/
theorem test_witness_matrix_unit :
    let s := Tests.as (Tests.thread [(6, 15), (7, 16)]) fun a => { a with grant := 64 }
    let cmd := fun op : Nat => ({ n := 1, op := op, act := 1 } : Cmd)
    let h := fun op : Nat => s.modCore 0 fun c => { c with mq := [cmd op] }
    let tile := fun (prog core : Nat) => (s.modCore core fun c => { c with mq := [{ cmd 2 with prog := prog }], active := { state := 1 } })
    let used := (tile 0 7).modCluster 0 fun c => { c with tiles := 1 }
    let pl : Plane := { state := 1, map := [0x0B * 2 ^ 59 + 0x19000, 1, 0, 0, 2 ^ 32, 0, 0, 0], refetch := true }
    let w : Who := { ctx := 0, die := 0, cluster := 0, core := 0, eng := 2 }
    s.reg 6 < 16 ∧ 16 ≤ s.reg 7 ∧ s.cur.shadow = none ∧ groupBad 32 s.cur.grant 31 64 = none
      ∧ (∀ c ∈ (s.core 0).mq, c.writesAcc 0 = false) ∧ (∃ c ∈ ((h 3).core 0).mq, c.writesAcc 0 = true)
      ∧ (∀ op ∈ [1, 3, 4], (((h op).core 0).mq = [cmd op] ∧ (h op).running 0 = true)) ∧ (cmd 1).grp = none ∧ (cmd 1).shadow = none
      ∧ ((h 4).runMatrix 0 { cmd 4 with args := [0, 0x7F] }).err.isNone = true
      ∧ (∀ j, j < 8 → (tile 0 7).tileRuns j = false) ∧ (tile 0 7).tileReady 7 = true
      ∧ ((tile 0 7).cluster 0).tiles < ((tile 0 7).core 7).weight ∧ (used.core 7).weight ≤ (used.cluster 0).tiles
      ∧ ((List.range 8).findSome? fun j => if (tile 0 2).tileReady ((7 + 1 + j) % 8) then some ((7 + 1 + j) % 8) else none) = some 2
      ∧ pl.refetch = true ∧ pl.state ≠ 0 ∧ (s.ctx 0).parked = [] ∧ Tests.oks (s.loadPlane w true pl.map pl.ctl pl.nibbles) (fun x => x.2.race.isEmpty && x.1.elems.length == 1
          && (x.1.elems ++ x.1.scales).all fun e => FMap.getD pl.elems e.1 e.2 == e.2) = true := by
  decide +kernel

/-- A thread with a dispatch entry for class 3 on core 0: level 1, workspace 7, its handler at 0x12340. -/
def Tests.handled (regs : List (Nat × Nat)) : State :=
  (Tests.thread regs).wrN (tcmKey 0 0 0 0xF18) 8 (2 ^ 63 + 2 ^ 60 + 7 * 2 ^ 56 + 0x12340)

/-- A launch, and the thread of its group 0 that the issuer is; its launch is deterministic where `det` says so. -/
def Tests.launched (s : State) (det : Bool) : State :=
  (Tests.as s fun a => { a with launch := some { q := 0, lseq := 1, grp := 0, thr := 0 }, det := det }).modWork fun w =>
    { w with launches := [{ q := 0, lseq := 1, ng := 1, det := det, placed := 1, kernels := [{}] }], groups := [{ q := 0, lseq := 1 }] }

/-- What stands in the way of a message of a control core to die 1, its links in a state. -/
def Tests.way (st : Nat) : Option AErr :=
  let s := (List.range 9).foldl (fun s k => s.modLink k fun l => { l with st := st }) (Tests.ctl [])
  s.pathErr s.me.node 1 0

/-- Messages: a class with a handler and one without; the last class, and one above it; a core of the partition and one outside;
a full and an almost full inbound area; a group of the sender's own launch; a message on its way to a cluster that is awake or gated. -/
theorem test_witness_messages :
    let T := 3 * 2 ^ 27
    let s := Tests.handled [(6, T), (7, 4 * 2 ^ 27), (8, 24 * 2 ^ 27), (9, T + 64), (10, 2 ^ 32)]
    let in_ := fun n => s.modCore 0 fun c => { c with inbound := List.range n }
    let d := Tests.launched (s.modCtx 0 fun c => { c with desc := c.desc.set 7 (0x30000 + 1) }) true
    let m : Msg := { n := 5, cluster := 0 }
    let sent := fun k : Nat => (s.modWork fun w => { w with msgs := [m] }).modCluster 0 fun c => { c with awake := k }
    s.cur.shadow = none ∧ s.cur.orig ≠ 2 ∧ (s.dispatch 0 3).testBit 63 = true ∧ (s.dispatch 0 4).testBit 63 = false
      ∧ (bits (s.reg 6) 18 9 = s.dev.devnum ∧ bits (s.reg 6) 27 5 < 24 ∧ bits (s.reg 8) 27 5 = 24 ∧ s.reg 10 = 2 ^ 32)
      ∧ s.myCtx.hasCluster 0 0 = true ∧ bits (s.reg 9) 6 10 = 1 ∧ s.myCtx.hasCluster 0 1 = false
      ∧ s.holdsFor (s.groupAt 0 0 0) = none ∧ (in_ 31).roomAt 0 = true ∧ (in_ 32).roomAt 0 = false
      ∧ (d.holdsFor (d.groupAt 0 0 0)).isSome = true ∧ ((d.ctx 0).heldMsgs.length < ((d.ctx 0).area 0x38).2 / 128)
      ∧ s.pathErr s.me.node 0 T = none ∧ Tests.way 3 = some .stall ∧ (Tests.way 5).isSome = true ∧ Tests.way 5 ≠ some .stall
      ∧ (s.cluster 0).awake = 1 ∧ (s.core 0).pend = [] ∧ (s.core 0).freeEntry = some 0 ∧ d.heldCount 0 = 0
      ∧ ((s.modCluster 0 fun c => { c with awake := 0 }).cluster 0).awake ≠ 1
      ∧ (sent 0).work.msgs.find? (·.n == 5) = some m ∧ (sent 0).mayHandle m = true ∧ (sent 0).msgBehind m = false
      ∧ ((sent 1).cluster 0).awake = 1 ∧ ((sent 0).cluster 0).awake = 0 := by
  decide +kernel

/-- EndingsAndTraps: nothing outstanding, a copy outstanding, an unraised error; each origin; an odd PC and one in a local
window. -/
theorem test_witness_endings :
    let s := Tests.thread []
    let busy := s.modCore 0 fun c => { c with copies := [{ n := 1, op := 0, act := 1 }] }
    let late := Tests.as s fun a => { a with late := [{ code := 0x0A, sub := 6, tval := 0, kind := 3, n := 0 }] }
    s.cur.shadow = none ∧ s.cur.late = [] ∧ s.endWaits = false ∧ busy.endWaits = true ∧ late.cur.late ≠ [] ∧ s.cur.orig ≠ 2 ∧ s.cur.orig ≠ 1
      ∧ (∀ o ∈ [1, 2], (Tests.as s fun a => { a with orig := o }).cur.orig = o)
      ∧ s.cur.saved = 0 ∧ (Tests.as s fun a => { a with grant := 8, saved := 8 }).cur.saved ≠ 0
      ∧ (s.setPc 0x10001).pc % 2 = 1 ∧ bits (s.setPc 0xF0000000000000).pc 52 4 = 15 := by
  decide +kernel

/-- ActivationEvents: a watchdog that may expire; a window without registers; a command that meets an error; a timeline reached
and not; an activation at a yield point for which a message waits; a parked one that may resume. -/
theorem test_witness_activation_events :
    let s := Tests.as ((Tests.thread []).modDie 0 fun d => { d with cycle := 2 ^ 28 }) fun a => { a with wd := 0, wins := [{ n := 4, left := 2, old := [] }] }
    let tl := fun n : Nat => (Tests.as s fun a => { a with run := .waiting (.tl 0 1) }).modCore 0 fun c => { c with tl := [n, 0, 0], issued := [1, 0, 0] }
    let eight := ((Tests.as (Tests.handled []) fun a => { a with atYield := true }).modCtx 0 fun c => { c with desc := c.desc.set 4 (0x10000 + 1) }).setActs
      ((List.range 7).map fun k => (k + 2, { id := k + 2, live := true, slot := k + 1, pri := 3, orig := 1 }))
    let full := eight.modCore 0 fun c => { c with queue := [{ n := 1, pri := 0, wsn := 9 }] }
    let park := (Tests.as s fun a => { a with parked := some 0x18000, parkVa := 0x18000 })
    s.cur.live = true ∧ s.running s.cur.ctx = true ∧ s.cur.run = .ready ∧ s.cur.inSlot = true ∧ s.isTop s.cur = true ∧ 2 ^ (s.ctx 0).wdog ≤ s.cycle 0 - s.cur.wd
      ∧ (tl 0).cur.run ≠ .ready ∧ (tl 0).cur.resv = none ∧ s.cur.late = [] ∧ s.cur.wpOk = true ∧ (Tests.as s fun a => { a with wp := 4 }).cur.wpOk = false
      ∧ s.cur.shadow = none ∧ s.cur.wins.find? (·.n == 4) = some { n := 4, left := 2, old := [] }
      ∧ ((s.modCore 0 fun c => { c with copies := [{ n := 1, op := 0 }] }).cmd? 0 0 1).isSome = true
      ∧ (((tl 0).core 0).tl.getD 0 0 < 1 ∧ 1 ≤ ((tl 1).core 0).tl.getD 0 0 ∧ (tl 1).cur.errorOf 0 1 = none)
      ∧ full.waitingWork 0 = [0] ∧ (parkBest (full.allActs.filter (full.parkable 0 0))).map (·.id) = some 1
      ∧ (full.parkFree full.cur).head?.isSome = true
      ∧ (park.resumeBest 0).map (·.id) = some 1 ∧ park.freeSeat 0 = some 0 ∧ (park.core 0).queue = [] ∧ park.ringCount 0 = 0 := by
  decide +kernel

/-- ActivationEvents: the park record can be written. -/
theorem test_witness_park_record :
    (match (Tests.thread []).devLoc 0 0 0x18000 0x140 aWrite with | (some _, _) => true | _ => false) = true := by
  decide +kernel

/-- Barriers: words that name none, a managed one and one of the cluster; a count at its bound; an arrival that may come, one
that is pending; a phase that is open, one that is done; arrivals that are complete and not. -/
theorem test_witness_barriers :
    let s := Tests.thread [(6, 2), (7, 64), (8, 2 + 16), (9, 2 + 3 * 16), (10, 0)]
    let key := barKey 0 2 0 0
    let b := fun (arrived count : Nat) => s.modWork fun w => { w with barriers := [(key, { v := true, count := count, arrived := arrived })] }
    let pending := Tests.as (b 1 2) fun a => { a with arrivals := [(key, 0)] }
    let next := s.modWork fun w => { w with barriers := [(key, { v := true, count := 2, phase := 1 })] }
    (bwBad (s.reg 6) = false ∧ bwKind (s.reg 6) = 0 ∧ s.barOf (s.reg 6) = some key) ∧ (bwBad (s.reg 8) = false ∧ bwKind (s.reg 8) ≠ 0)
      ∧ bwBad (s.reg 9) = true ∧ s.cur.shadow = none ∧ s.cur.orig ≠ 2
      ∧ (s.reg 7 ≠ 0 ∧ s.reg 7 ≤ barMax (bwScope (s.reg 6)) ∧ ((s.phaseIfDue key).bar key).arrived = 0)
      ∧ (((b 1 2).phaseIfDue key).bar key).v = true
      ∧ ((b 1 2).cur.arrivals.contains (key, 0) = false ∧ (b 1 2).cur.arrivals.length < 2)
      ∧ pending.cur.arrivals.contains (key, ((pending.phaseIfDue key).bar key).phase) = true
      ∧ phaseDone ((next.phaseIfDue key).bar key).phase (next.reg 10) = true ∧ ((b 1 2).bar key).phase = s.reg 10
      ∧ ((b 0 2).phaseIfDue key).cur.arrivals = [] ∧ (((b 0 2).phaseIfDue key).bar key).arrived + 1 < 2
      ∧ barScope key ≠ 5 ∧ barScope (barKey 0 5 0 0) = 5 ∧ barKey 0 5 0 0 / 2 ^ 35 = 0 ∧ s.cur.lost = 0 ∧ s.links = []
      ∧ ((b 1 2).bar key).due = false ∧ ((b 2 2).bar key).due = true ∧ barKey 0 2 0 0 / 2 ^ 35 = 0 := by
  decide +kernel

/-- A clause on record 0 of core 0 whose control word is `ctl` and continuation `conj`. -/
def Tests.clause (ctl conj : Nat) (regs : List (Nat × Nat)) : State :=
  (((Tests.as (Tests.thread regs) fun a => { a with orig := 2, clauseRec := some 0 }).wrN (recKeyOf 0 0 + 12) 4 ctl).wrN (recKeyOf 0 0 + 32) 8 conj)

/-- Clauses: a thread with a record free and with none; a clause with a record free and none, its last child, holding a
continuation or not; a record in the ring. -/
theorem test_witness_clauses :
    let s := Tests.thread [(6, 0x10000), (7, 2 ^ 31 - 1), (8, recAddr 0 1), (9, 0xF0000000000000)]
    let none_ := fun s : State => (List.range 64).foldl (fun s i => s.wrN (recKeyOf 0 i + 12) 4 1) s
    let c := Tests.clause (3 + 63 * 16) 0 [(6, 0x10000), (7, 1)]
    let h := (Tests.clause (3 + 4) (recAddr 0 1) [(6, 0x10000), (7, 1)]).writeRec (recKeyOf 0 1) 0x10000 1 1 0 0 0 []
    let ring := ((s.wrN (tcmOf 0 0x2802) 2 1).wrN (recKeyOf 0 0 + 12) 4 2).fillRecs 0
    (s.reg 6 % 2 = 0 ∧ s.reg 6 < 2 ^ 56 ∧ 1 ≤ s.reg 7 ∧ s.reg 7 < 2 ^ 31) ∧ s.myRec = none ∧ s.newRoot.2.freeRec 0 = some 0
      ∧ (none_ s).newRoot.2.freeRec 0 = none
      ∧ (c.cur.orig = 2 ∧ c.myRec = some (0, recKeyOf 0 0) ∧ ctlKids (c.recCtl (recKeyOf 0 0)) < 64 ∧ c.recPath (recKeyOf 0 0) / 2 ^ 60 < 9)
      ∧ c.freeRec 0 = some 1 ∧ (none_ c).freeRec 0 = none
      ∧ Tests.oks (ea (s.reg 8) 0) (fun va => va == recAddr 0 1 && Tests.oks (s.recAddrOk s.me va) (fun b => b)) = true
      ∧ Tests.oks (ea (s.reg 9) 0) (fun va => Tests.oks (s.recAddrOk s.me va) (fun b => !b)) = true
      ∧ ctlHold (c.recCtl (recKeyOf 0 0)) = false ∧ c.recConj (recKeyOf 0 0) = 0 ∧ c.cur.late = [] ∧ c.endWaits = false
      ∧ Tests.oks (c.placeRec 0 0x10000 0 2 0 0 0 []) (·.isSome) = true ∧ ctlHold (h.recCtl (recKeyOf 0 0)) = true ∧ h.recConj (recKeyOf 0 0) ≠ 0
      ∧ Tests.oks (h.decRec h.me (h.recConj (recKeyOf 0 0))) (·.1) = true
      ∧ Tests.oks (h.findRec h.me (h.recConj (recKeyOf 0 0))) (fun x => x.1.isSome
          && Tests.oks (x.2.placeRec 0 0x10000 0 2 0 0 (h.recConj (recKeyOf 0 0)) []) (·.isSome)) = true
      ∧ (c.setCtl (recKeyOf 0 0) (setBits (c.recCtl (recKeyOf 0 0)) 4 7 64)).freeRec 0 = some 1
      ∧ ((ring.cluster 0).owner = some 0 ∧ ring.freeSeat 0 = some 1 ∧ ring.running 0 = true ∧ (ring.cluster 0).awake = 1 ∧ ring.ringCount 0 ≠ 0 ∧ ring.cur.id ≠ ring.sched.nextAct)
      ∧ ring.beforeRing 0 = false ∧ ctlState (ring.recCtl (recKeyOf 0 0)) = 2 := by
  decide +kernel

/-- Pipes: an empty, a full and a draining slot, a closed and an abandoned pipe; a producer and a consumer. -/
theorem test_witness_pipes :
    let key := pipeKey 0 1 0 5
    let p : Pipe := { fromK := 0, toK := 1, slots := 2, slotb := 64, base := 0xF1000000000000, st := [0, 0] }
    let s := fun (kern : Nat) (p : Pipe) => (Tests.as (Tests.thread [(6, 5), (7, 0xF1000000000040), (8, 64), (9, 65536)]) fun a =>
      { a with launch := some { q := 0, lseq := 1, grp := 0, thr := 0, kern := kern } }).modWork fun w => { w with pipes := [(key, p)] }
    let u := (s 0 p).serve key
    (s 0 p).cur.orig = 0 ∧ (s 0 p).work.pipes.get? key = some p ∧ (s 0 p).reg 6 < 65536 ∧ ¬ (s 0 p).reg 9 < 65536 ∧ (s 0 p).cur.det = false
      ∧ (∀ x ∈ u.allActs, x.pipeWait p key true = none) ∧ (s 0 p).cur.shadow = none
      ∧ p.next true = .slot 0 ∧ p.next false = .wait ∧ { p with st := [1, 0] }.next true = .wait ∧ { p with st := [3, 0] }.next false = .slot 0
      ∧ { p with abandoned := true }.next true = .zero ∧ { p with closed := true }.next false = .zero
      ∧ p.slotAt ((s 0 p).reg 7) = some 1 ∧ p.slotAt 0 = none ∧ (s 0 p).reg 8 ≠ 0 ∧ (s 0 p).reg 8 ≤ p.slotb
      ∧ u.myCore.copies.length < 32 := by
  decide +kernel

/-- An open device-launch queue 0 of context 0 with two records, its descriptor at memory key 0x1A000. -/
def Tests.queued (f : Queue → Queue) (regs : List (Nat × Nat)) : State :=
  (Tests.thread regs).modWork fun w =>
    { w with queues := [(0, f { st := 1, dev := true, ring := 0x18000, nrec := 1, cstat := 0x1B000, desc := 0x1A000, key := some 0x1A000 })] }

/-- Queues: a number above the last, a queue of another context, a counter at the last index and above it, a record that is
aligned and not, a ring with room and a full one; a doorbell at the bounds of TAIL and past them. -/
theorem test_witness_queues :
    let regs := [(6, 0), (7, 0x18080), (8, 1024), (9, 12), (10, 13), (11, 0x18088)]
    let s := Tests.queued id regs
    let x := s.queue 0
    let other := Tests.queued (fun q => { q with ctx := 1 }) regs
    let host := (Tests.queued (fun q => { q with dev := false }) regs).modDev fun d => { d with ready := true }
    let full := (Tests.queued (fun q => { q with tail := 2 }) regs).queue 0
    let w : Who := { s.me with level := .sup }
    s.reg 6 < 1024 ∧ 2 ^ 10 ≤ s.reg 8 ∧ s.work.queues.get? 0 = some x ∧ x.ctx = s.cur.ctx ∧ (other.queue 0).ctx ≠ other.cur.ctx
      ∧ s.cur.onControl = false ∧ s.cur.shadow = none ∧ s.reg 9 ≤ 12 ∧ 12 < s.reg 10 ∧ (host.queue 0).dev = false
      ∧ (x.dev = true ∧ x.st = 1 ∧ s.cur.det = false) ∧ s.reg 7 % 128 = 0 ∧ s.reg 11 % 128 ≠ 0
      ∧ Tests.vals (s.loadRec (s.reg 7) 0 16) (fun r t => Tests.oks (t.engWrite w 2 (x.ring + 128 * (x.tail % 2 ^ x.nrec)) 128 r)) = true
      ∧ x.tail - x.head < 2 ^ x.nrec ∧ 2 ^ full.nrec ≤ full.tail - full.head ∧ x.key.isSome = true
      ∧ (Tests.queued (fun q => { q with st := 0 }) regs).queue 0 = { x with st := 0 } ∧ s.dev.ready = false
      ∧ ((host.queue 0).st ≠ 0 ∧ host.dev.ready = true ∧ (host.queue 0).tail ≤ 0 ∧ 2 ≤ (host.queue 0).head + 2 ^ (host.queue 0).nrec)
      ∧ (host.queue 0).stalled = none ∧ ((Tests.queued (fun q => { q with stalled := some 1 }) regs).queue 0).stalled.isSome = true
      ∧ Tests.oks ((host.modQueue 0 fun y => { y with tail := 1, tailDue := true }).qWrite 0 0x1A010 8 1) = true
      ∧ Tests.oks ((host.modQueue 0 fun y => { y with tail := 1, tailDue := true }).qWrite 0 0x7A010 8 1) = false
      ∧ (host.queue 0).head + 2 ^ (host.queue 0).nrec < 3 ∧ (host.queue 0).shadow.st = 0 := by
  decide +kernel

/-- LaunchSteps, take-up: an empty queue; a record that can be read, with BAR before its launch's turn, with WAIT on a queue not
that far, with WAIT on no queue, and with neither; a take-up under way. -/
theorem test_witness_take_up :
    let s := fun (ctl waitq waitv : Nat) (tlc : Nat) => (((((Tests.queued (fun q => { q with tail := 1, tlc := tlc }) []).wrN 0x18000 8 0x18040).wrN 0x18008 4 1).wrN 0x1800C 4 ctl).wrN
      0x18010 4 waitq).wrN 0x18018 8 waitv
    let two := (s 2 1 5 0).modWork fun w => { w with queues := w.queues.put 1 { st := 1 } }
    let read := fun (s : State) (p : LRec → State → Bool) => Tests.oks ((s.syncDev (s.qWho 0).die [(ptDoor 0 1, ptDoor 0 1)]).qRead 0 0 0x1800C 20) fun v => p (lrecOf (2 ^ 96 * v.1)) v.2
    let job := (Tests.queued (fun q => { q with job := some { n := 1, stage := 0 } }) []).queue 0
    (Tests.queued id []).mayTake 0 = false ∧ ((Tests.queued id []).queue 0).job = none ∧ ((Tests.queued id []).queue 0).tailDue = false ∧ job.job.isSome = true
      ∧ (s 0 0 0 0).mayTake 0 = true ∧ ((s 0 0 0 0).queue 0).cancelled = 0
      ∧ ((Tests.queued (fun q => { q with tail := 1, cancelled := 3 }) []).mayTake 0 = true)
      ∧ read (s 1 0 0 0) (fun r _ => r.bar && !r.wait) = true
      ∧ read (s 2 1 5 0) (fun r u => !r.bar && r.wait && u.waitBad 0 1 r) = true
      ∧ read two (fun r u => !r.bar && r.wait && !u.waitBad 0 1 r && decide ((u.queue r.waitq).tlc < r.waitv)) = true
      ∧ read (s 0 0 0 0) (fun r _ => !r.bar && !r.wait) = true := by
  decide +kernel

/-- LaunchSteps, placing, waking and gating: no held group and one; a gated cluster and a launch that finds no place; a cluster
that wakes; one that is quiet and not. -/
theorem test_witness_placing :
    let s := Tests.queued id []
    let held := (Tests.launched (s.setCur { ctx := 0, id := 9 }) false).modWork fun w => { w with groups := [{ q := 0, lseq := 1, start := false, f := 1 }] }
    let gated := (s.modCluster 0 fun c => { c with awake := 0 }).modWork fun w =>
      { w with launches := [{ q := 0, lseq := 1, ng := 1, kernels := [{ group := 8, slots := 8 }], argsIn := true }] }
    let waking := s.modCluster 0 fun c => { c with awake := 2 }
    let empty := s.setCur {}
    s.running 0 = true ∧ s.heldGroup 0 = none ∧ (held.heldGroup 0).isSome = true
      ∧ (gated.ctx 0).clusterList.find? (fun k => (gated.cluster (clusterKey k.1 k.2)).awake == 0) = some (0, 0)
      ∧ (∀ k ∈ (gated.ctx 0).clusterList, (gated.cluster (clusterKey k.1 k.2)).wake293 = false)
      ∧ (∃ q ∈ gated.offerOrder 0, (match gated.offer q with
          | some l => l.admitted && !l.cores && !l.prog && l.argsIn && (l.nextSeat (gated.ctx 0).clusterList (gated.occ 0 false)).isNone
          | none => false) = true)
      ∧ (waking.cluster 0).awake = 2 ∧ ((empty.cluster 0).owner = some 0 ∧ (empty.cluster 0).awake = 1 ∧ bit empty.dev.awake 0 = false)
      ∧ empty.quiet 0 = true ∧ s.quiet 0 = false := by
  decide +kernel

/-- A programmed launch with a second group for its position, whose first group `g` stands there. -/
def Tests.rotating (s : State) (g : Group) : State :=
  (s.modWork fun w => { w with
    launches := [{ q := 0, lseq := 1, ng := 2, placed := 1, kernels := [{ group := 0 }], prog := true, positions := [0], assign := [0, 0], nextAt := [1], lastAt := [1] }]
    groups := [g] }).modCtx 0 fun c => { c with desc := c.desc.set 5 (0x30000 + 1) }

/-- LaunchSteps, rotating: a group that may be swapped out, with room for the next one, and one that may not. -/
theorem test_witness_rotation :
    let g : Group := { q := 0, lseq := 1, f := 0 }
    let rot := Tests.rotating (Tests.queued id []) g
    let stays := Tests.rotating (Tests.queued id []) { g with start := false }
    let turns := fun (s : State) (g : Group) =>
      (s.work.groups.find? (fun g => clusterKey g.die g.cluster == 0 && g.shadow.isNone && !g.out && (g.c0 == 0 || decide (g.c0 / 8 = 0 ∧ 0 = 0))
          && ((s.launch? g.q g.lseq).map (·.prog)) == some true)) = some g
        ∧ (match s.launch? 0 1 with
          | some l => s.nextGroup l 0 == some 1 && (s.rotatable ((s.groupsOf l 0).filter fun x => x.g == 0) == g.start)
              && (List.range l.positions.length).find? (fun j => l.positions.getD j 0 == 0) == some 0
              && (let z := s.swapGroupOut l g (0, 0); z.roomFor (z.outsOf l 0 1))
          | none => false) = true
    turns rot g ∧ turns stays { g with start := false } ∧ rot.running 0 = true ∧ (rot.groupThreads g) = []
      ∧ rot.imagePlaces 0 [] [0] = some [(0, 0)] ∧ rot.imagePlaces 0 [] [2 ^ 40] = none := by
  decide +kernel

/-- The image of that group takes no byte. -/
theorem test_witness_rotation_image :
    imageSize { group := 0 } { q := 0, lseq := 1, f := 0 } [] = 0 := by
  simp [imageSize, groupRanges, Kernel.nc, ceilDiv]

/-- LaunchSteps, completing: a launch that has ended and one that has not; a shadow that may not start, and one that commits. -/
theorem test_witness_completion :
    let s := Tests.queued (fun q => { q with head := 1, tail := 1 }) []
    let l := fun (n : Nat) => (Tests.launched (s.setCur { id := 9 }) false).modWork fun w =>
      { w with launches := [{ q := 0, lseq := 1, ng := 1, placed := 1, ended := n, kernels := [{}] }], groups := [] }
    let q := (Tests.queued (fun q => { q with predicted := some (0x18000, 1, 1, []) }) [])
    let commits := Tests.queued (fun q => { q with head := 1, tail := 1, shadow := { st := 4, lseq := 1 } }) []
    (l 1).launch? 0 1 = some { q := 0, lseq := 1, ng := 1, placed := 1, ended := 1, kernels := [{}] } ∧ 1 * 1 ≤ 1 ∧ (0 < 1 * 1)
      ∧ (l 1).running 0 = true ∧ ((l 1).queue 0).held = false ∧ ((l 1).ctx 0).heldMsgs = [] ∧ (∀ y ∈ (l 1).cores, y.2.pend = [])
      ∧ (q.nextShadowGroup 0).isNone = true ∧ (q.queue 0).predicted.isSome = true ∧ (q.queue 0).held = false ∧ q.launch? 0 0 = none
      ∧ Tests.oks ((q.modQueue 0 fun y => { y with predicted := none }).startShadow 0 (0x18000, 1, 1, [])) (fun x => x.isNone) = true
      ∧ ((commits.queue 0).shadow.st = 4 ∧ commits.running 0 = true ∧ (commits.queue 0).held = false)
      ∧ Tests.oks (commits.commitWrites 0) = true := by
  decide +kernel

/-- Memory with four pages mapped, a template at 0x18000 for an index of one entry of two FP32 elements at 0x20000, an insert
record at 0x18040 and a query record at 0x18080, whose vector stands at 0x180C0. -/
def Tests.ixMem : List Host.Cell :=
  [(8192, 1#8), (8193, 64#8), (16384, 1#8), (16385, 96#8), (24576, 1#8), (24577, 128#8), (32776, 255#8), (32778, 1#8), (32784, 255#8),
   (32786, 2#8), (32792, 255#8), (32794, 3#8), (32800, 255#8), (32802, 4#8), (98304, 2#8), (98306, 10#8), (98308, 1#8), (98309, 1#8),
   (98310, 1#8), (98320, 1#8), (98368, 7#8), (98384, 192#8), (98385, 128#8), (98386, 1#8), (98432, 192#8), (98433, 128#8), (98434, 1#8),
   (98465, 129#8), (98466, 1#8)]

/-- The header of that index once it is live (21 R386). -/
def Tests.ixHead : List Host.Cell :=
  [(131072, 2#8), (131074, 10#8), (131076, 1#8), (131077, 1#8), (131078, 1#8), (131088, 1#8), (131136, 1#8), (131144, 128#8),
   (131148, 128#8), (131160, 1#8)]

/-- A thread over that memory and `m`, with some registers set. -/
def Tests.ixOver (m : List Host.Cell) (regs : List (Nat × Nat)) : State :=
  regs.foldl (fun s r => s.setReg r.1 r.2 0) (((Tests.thread []).setMem (Tests.ixMem ++ m)).modCtx 0 fun c =>
    { c with ranges := [(0, { base := 0x30000, npg := 1, pid := 3 })] })

def Tests.ixRoom (regs : List (Nat × Nat)) : State := Tests.ixOver [] regs

def Tests.after {ε α : Type} (r : Except ε (α × State)) (s : State) : State :=
  match r with
  | .ok x => x.2
  | .error _ => s

/-- The same once the index is live, with an insert and a query among the commands of core 0. -/
def Tests.indexed (regs : List (Nat × Nat)) : State :=
  ((Tests.ixOver Tests.ixHead regs).modCtx 0 fun c => { c with indexes := [(131072, { size := 196608 })] }).modCore 0 fun c =>
    { c with index := [{ n := 1, op := 1, args := [0x20000, 0x18040] }, { n := 2, op := 0, args := [0x20000, 0x18080] }] }

/-- IndexInstructions: a base and a record that are aligned and not, a full queue, and a deterministic launch. -/
theorem test_witness_index_instructions :
    let s := Tests.ixRoom [(6, 0x20000), (7, 0x18000), (8, 0x20008)]
    let x := Tests.indexed []
    let full := s.modCore 0 fun c => { c with index := List.replicate 16 { n := 1, op := 1 } }
    s.cur.shadow = none ∧ s.reg 6 % 65536 = 0 ∧ (∀ al ∈ [64, 32, 16], s.reg 7 % al = 0) ∧ s.reg 8 % 65536 ≠ 0 ∧ s.reg 8 % 16 ≠ 0
      ∧ 16 ≤ full.myCore.index.length ∧ ¬ 16 ≤ s.myCore.index.length
      ∧ ((Tests.launched s true).cur.det = true ∧ (Tests.launched s true).cur.launch.isSome = true) ∧ s.cur.det = false
      ∧ Tests.oks ((freeIx 0 0x20000).run x) = true := by
  decide +kernel

/-- IndexInstructions: a template that is accepted. -/
theorem test_witness_index_init :
    let s := Tests.ixRoom []
    Tests.oks ((initIx 0 { s.me with eng := 3, slot := 0 } 0x20000 0x18000).run s) (fun r => r.1 == 0) = true := by
  decide +kernel

/-- IndexInstructions: a hold that is taken. -/
theorem test_witness_index_hold : Tests.oks ((takeHold 0 0x20000).run (Tests.indexed [])) (fun r => r.1 == 2 ^ 63) = true := by
  decide +kernel

/-- IndexInstructions: a hold that is dropped. -/
theorem test_witness_index_drop :
    Tests.oks ((dropHold 0 0x20000 (2 ^ 63)).run ((Tests.indexed []).wrN 0x20107 1 0x80)) (fun r => r.1 == 1) = true := by
  decide +kernel

/-- IndexInstructions: each descriptor form. -/
theorem test_witness_index_status : ∀ q ∈ List.range 5, Tests.oks ((statIx 0 none 0x20000 q).run (Tests.indexed [])) = true := by
  decide +kernel

/-- IndexAndCopyEvents: the commands of a live index, and a delete behind an insert that must wait. -/
theorem test_witness_index_events :
    let s := Tests.indexed []
    let two := s.modCore 0 fun c => { c with index := c.index ++ [{ n := 3, op := 2 }] }
    s.cmd? 0 2 1 = some { n := 1, op := 1, args := [0x20000, 0x18040] } ∧ s.cmd? 0 2 2 = some { n := 2, op := 0, args := [0x20000, 0x18080] }
      ∧ s.running 0 = true ∧ (∃ d ∈ (two.core 0).index, d.op ≠ 0 ∧ d.prog = 0 ∧ d.n < 3)
      ∧ ((s.ctx 0).indexes.get? 0x20000).isSome = true ∧ (FMap.getD (s.ctx 0).indexes 0x20000 {}).recl = none
      ∧ (FMap.getD (s.ctx 0).indexes 0x20000 {}).broken = false := by
  decide +kernel

/-- IndexAndCopyEvents: an insert that is accepted and waits to be applied, and a command on no index. -/
theorem test_witness_index_accept :
    let s := Tests.indexed []
    let ins : Cmd := { n := 1, op := 1, args := [0x20000, 0x18040] }
    let acc := fun (r : Accept × State) => match r.1 with | .accepted _ => true | .refused _ => false
    Tests.oks ((acceptUpdate 0 ins true).run s) (fun r => acc r && (FMap.getD (r.2.ctx 0).indexes 0x20000 {}).ops.length == 1) = true
      ∧ Tests.oks ((acceptUpdate 0 { ins with args := [0x30000, 0x18040] } true).run s) (fun r => !acc r) = true := by
  decide +kernel

/-- IndexAndCopyEvents: an insert that is applied. -/
theorem test_witness_index_apply :
    let op : IdxOp := { seq := 1, ins := true, slot := 0, level := 0, lists := [0], ident := 7, pay := 0, vec := [0], core := 0, n := 1 }
    let s := (Tests.indexed []).modCtx 0 fun c => { c with indexes := [(131072, { size := 196608, ops := [op], slots := [0], pool := [0] })] }
    Tests.oks ((applyOp 0 0x20000 op).run s) (fun r => r.1 == (0, 0)) = true
      ∧ ((s.idxCmds 0).find? fun c => c.1 == op.core && c.2.n == op.n).isSome = true := by
  decide +kernel

/-- IndexAndCopyEvents: a query that is accepted and runs. -/
theorem test_witness_index_query :
    let qry : Cmd := { n := 2, op := 0, args := [0x20000, 0x18080] }
    Tests.oks ((acceptQuery qry).run (Tests.indexed [])) (fun r => match r.1 with
      | .accepted l => Tests.oks ((runQuery { qry with args := l, prog := 1 }).run r.2) fun v => Tests.oks ((releaseQuery 0 0x20000).run v.2)
      | .refused _ => false) = true := by
  decide +kernel

/-- IndexAndCopyEvents: a reclamation. -/
theorem test_witness_index_reclaim : Tests.oks ((reclaim 0 0x20000).run (Tests.indexed [])) = true := by
  decide +kernel

/-- IndexAndCopyEvents: a copy that runs, and one whose context does not. -/
theorem test_witness_copy_event :
    let c : Cmd := { n := 1, op := 0, act := 1, args := [0x18000, 0x19000, 300] }
    let far : Cmd := { n := 1, op := 0, act := 1, args := [0x18000, 0x19000, 300], stuck := [(0, 1)], prog := 128, grp := some 1 }
    let s := (Tests.thread []).modCore 0 fun k => { k with copies := [c], issued := [1, 0, 0] }
    s.cmd? 0 0 1 = some c ∧ c.grp = none ∧ s.running 0 = true ∧ (s.runCopy c).err.isNone = true
      ∧ (s.runCopy c).stuck = [] ∧ (s.core 0).frozen = false ∧ ((s.runCopy far).err.isNone = true ∧ (s.runCopy far).stuck ≠ [])
      ∧ (s.modCtx 0 fun x => { x with st := 5 }).running 0 = false := by
  decide +kernel

/-- PageForms, invalidation and write-back: one page, all of a context, a reserved bit, another context and an empty one; a line
count at its bounds and past them. -/
theorem test_witness_page_forms :
    let s := Tests.sup [(6, 0x10000), (7, 0), (8, 0x10040), (9, 256), (10, 1), (11, 2 ^ 32), (12, 2 ^ 32 + 1), (13, 0x10008), (14, 41), (15, 2 ^ 56)]
    let c := Tests.ctl [(6, 0x10000), (10, 1)]
    let posted := (s.modLink 0 fun l => { l with st := 3, posted := [{ act := 1, ctx := 0, key := 0x18000, n := 4, old := 0, new := 1 }] })
    let lo := fun x : Nat => bits x 6 10 = 0 ∧ x < 2 ^ 56 ∧ x % 64 ≤ 40 ∧ bits x 16 40 % 2 ^ (x % 64) = 0
    s.cur.level ≠ .user ∧ s.cur.shadow = none ∧ lo (s.reg 6) ∧ lo (s.reg 7) ∧ (s.reg 9).testBit 8 = true ∧ bits (s.reg 9) 6 2 = 0
      ∧ (s.cur.ctx = s.reg 7 ∧ s.reg 10 ≠ s.cur.ctx ∧ s.cur.onControl = false ∧ c.cur.onControl = true)
      ∧ (s.ctx 0).st ≠ 0 ∧ (c.ctx (c.reg 10)).st = 0 ∧ s.drainWaits 0 = false ∧ posted.drainWaits 0 = true
      ∧ bits (s.reg 8) 6 10 ≠ 0 ∧ 40 < s.reg 14 % 64 ∧ 2 ^ 56 ≤ s.reg 15 ∧ s.reg 13 % 128 ≠ 0
      ∧ (s.reg 6 % 128 = 0 ∧ s.reg 6 < 2 ^ 56 ∧ 1 ≤ s.reg 11 ∧ s.reg 11 ≤ 2 ^ 32 ∧ 2 ^ 32 < s.reg 12 ∧ s.reg 7 = 0) := by
  decide +kernel

/-- PageForms, write back: no line waits at its port, and one does. -/
theorem test_witness_write_back :
    let s := Tests.sup [(6, 0x10000), (7, 1)]
    let c := Tests.ctl [(6, 2 ^ 44), (7, 1)]
    let far := (c.modCoh fun h => { h with stale := [2 ^ 44 / 128] }).modDev fun d => { d with decoders := [(2 ^ 44, 2 ^ 44 + 2 ^ 30, [0])] }
    (s.writeBack 2 (s.reg 6) (s.reg 7) 0 false).2.1 = false ∧ (far.writeBack 2 (far.reg 6) (far.reg 7) 0 false).2.1 = true := by
  decide +kernel

/-- PageForms, heat and replay: a record of one page that can be read, with and without a buffer. -/
theorem test_witness_heat :
    let s := (((Tests.sup [(6, 0x18000), (7, 0), (8, 64), (9, 1), (10, 2 ^ 33)]).wrN 0x18000 8 0x10000).wrN 0x18008 8 1)
    let o := s.wrN 0x18010 8 0x19000
    let good := fun (s : State) (p : List Nat → State → Bool) => Tests.vals (s.quietWords (s.reg 6) 0 4) fun ws t =>
      ws.getD 0 0 % 65536 == 0 && decide (1 ≤ ws.getD 1 0 ∧ ws.getD 1 0 ≤ 2 ^ 24) && ws.getD 3 0 == 0 && p ws t
    s.reg 6 % 32 = 0 ∧ s.reg 7 = s.cur.ctx ∧ 64 ≤ s.reg 8 ∧ s.reg 9 ≠ s.cur.ctx ∧ 2 ^ 33 ≤ s.reg 10
      ∧ good s (fun ws _ => ws.getD 2 0 == 0) = true
      ∧ good o (fun ws t => Tests.oks (State.heatRead 0 (ws.getD 0 0) (ws.getD 2 0) (ws.getD 1 0) 0 0 t)) = true := by
  decide +kernel

/-- A protocol table with two stable states, at 0x18000: a header, the attributes, and 28 rows of which the recalls go to state 0. -/
def Tests.table (regs : List (Nat × Nat)) : State :=
  let s := ((Tests.sup regs).wrN 0x18000 8 (6 + 2 * 2 ^ 8 + 14 * 2 ^ 16 + 28 * 2 ^ 32)).wrN 0x18010 8 (1 + 5 * 2 ^ 8)
  (List.range 28).foldl (fun s i => s.wrN (0x18018 + 8 * i) 8
    (i / 14 + i % 14 * 2 ^ 8 + (if i % 14 = 7 then 8 * 2 ^ 32 else i / 14 * 2 ^ 16))) s

/-- PageForms, tables: a context that no range of it uses the protocol of, one that does, and an absent one. -/
theorem test_witness_table_uses :
    let s := Tests.table [(6, 0x18000), (7, 0)]
    let used := s.modCtx 0 fun c => { c with ranges := [(0, { base := 0x10000, npg := 1, pid := 6 })] }
    let empty := s.modCtx 0 fun c => { c with st := 0 }
    s.reg 6 % 8 = 0 ∧ s.reg 7 = s.cur.ctx ∧ (s.ctx 0).st ≠ 0 ∧ (empty.ctx 0).st = 0 ∧ (s.ctx 0).ranges = []
      ∧ (∃ r ∈ (used.ctx 0).ranges, 0 < r.2.npg ∧ r.2.pid = 6) := by
  decide +kernel

/-- PageForms, tables: one that can be read, and passes every check. -/
theorem test_witness_tables :
    let s := Tests.table [(6, 0x18000)]
    Tests.vals (s.loadQuads (s.reg 6) 0 2) (fun ws t => Tests.vals (t.loadQuads (s.reg 6) 16 1) fun qs v =>
      Tests.vals (v.loadQuads (s.reg 6) 24 28) fun rs _ =>
        let h := fun i => (quadBytes ws).getD i 0
        let tab : RawTable :=
          { id := h 0, ns := h 1, ne := h 2, tb := h 3, nrow := h 4 + 256 * h 5, attrs := (quadBytes qs).take (h 1), rows := rs.map rowOf
            dirty := ((quadBytes ws).drop 6).any (· != 0) || ((quadBytes qs).drop (h 1)).any (· != 0) }
        decide (tab.verdict = (0, some 0, some 0))) = true := by
  decide +kernel

/-- PageForms, ranges and checkpoints: a descriptor that is accepted and one that is refused; a checkpoint that starts, one that
meets a running context, and one while another runs. -/
theorem test_witness_ranges :
    let s := ((Tests.sup [(6, 0), (7, 0x18000), (8, 0x40), (9, 2 ^ 14)]).wrN 0x18000 8 0x10000).wrN 0x18008 8 (1 + 3 * 2 ^ 32)
    let bad := s.wrN 0x18008 8 (1 + 9 * 2 ^ 32)
    let k := (((Tests.ctl [(6, 1), (7, 0x18000)]).wrN 0x18008 8 1).wrN 0x18010 8 (2 ^ 44)).wrN 0x18018 8 0x20000
    let out := (k.modCtx 0 fun c => { c with st := 4 }).modDev fun d => { d with decoders := [(2 ^ 44, 2 ^ 44 + 2 ^ 30, [0])], persist := [0] }
    let busy := out.modDev fun d => { d with ckpt := some [1] }
    let st := fun (s : State) (p : Nat → Bool) => Tests.vals (s.loadQuads (s.reg 7) 0 2) fun ws t => p ((t.ctx 0).rangeStatus 0 (ws.getD 0 0) (ws.getD 1 0))
    bits (s.reg 6) 6 2 = 0 ∧ s.reg 6 < 2 ^ 14 ∧ s.reg 7 % 16 = 0 ∧ bits (s.reg 8) 6 2 ≠ 0 ∧ 2 ^ 14 ≤ s.reg 9 ∧ (s.ctx 0).st ≠ 0
      ∧ st s (· == 0) = true ∧ st bad (· != 0) = true ∧ s.drainWaits 0 = false
      ∧ k.reg 7 % 64 = 0 ∧ (∃ i, i < 64 ∧ (k.reg 6).testBit i = true ∧ (k.ctx i).st ≠ 4 ∧ (k.ctx i).st ≠ 5)
      ∧ (∀ i, i < 64 → (out.reg 6).testBit i = true → (out.ctx i).st = 4 ∨ (out.ctx i).st = 5) ∧ busy.dev.ckpt.isSome = true
      ∧ Tests.vals (out.quietWords (out.reg 7) 0 8) (fun ws t => t.dev.ckpt.isNone
          && !ckptBad (ws.getD 0 0) (ws.getD 1 0) (ws.getD 2 0) (ws.getD 3 0) (ws.getD 6 0) (ws.getD 7 0)
          && (t.extentPorts (ws.getD 2 0) (ws.getD 1 0 % 2 ^ 24)).all (fun o => match o with | some p => t.dev.persist.contains p | none => false)
          && Tests.vals (t.check 4 (out.reg 7) 0x20 16 8 aWrite) fun loc v => Tests.oks (v.writeAt v.me loc 16 0 aWrite)) = true := by
  decide +kernel

/-- PageEvents: the host link up and down; a page whose context drains and waits; a ring with a record held; a checkpoint whose port
is up and whose source is clean. -/
theorem test_witness_page_events :
    let s := Tests.thread []
    let up := s.modLink hostLink fun l => { l with st := 2 }
    let posted := s.modLink 0 fun l => { l with st := 3, posted := [{ act := 1, ctx := 0, key := 0x18000, n := 4, old := 0, new := 1 }] }
    let held := s.modCtx 0 fun c => { c with held := [[0, 0, 0, 0]], desc := c.desc.set 1 0x18000 }
    let ready := s.modDev fun d => { d with ready := true }
    let w := [1, 0, 1, 2 ^ 44, 0x20000, 0x18020]
    let run := (s.modDev fun d => { d with ckpt := some w, decoders := [(2 ^ 44, 2 ^ 44 + 2 ^ 30, [0])] }).modLink (farLink 0) fun l => { l with st := 2 }
    (s.ctx 0).st ≠ 0 ∧ (s.ctx 1).st = 0 ∧ (up.link hostLink).st = 2 ∧ (s.link hostLink).st ≠ 2 ∧ posted.drainWaits 0 = true ∧ s.drainWaits 0 = false
      ∧ s.dev.ready = false ∧ ready.dev.ready = true ∧ (s.ctx 0).held = [] ∧ (held.ctx 0).held = [[0, 0, 0, 0]]
      ∧ (match (held.drainHeld 0 [[0, 0, 0, 0]]).devLoc 0 0 (bits (((held.drainHeld 0 [[0, 0, 0, 0]]).ctx 0).word 0x08) 6 50 * 64) 64 aWrite with
          | (some _, _) => true | _ => false) = true
      ∧ s.dev.ckpt = none ∧ run.dev.ckpt = some w
      ∧ (run.extentPorts (2 ^ 44) 1).all (fun o => match o with | some p => (run.link (farLink p)).st == 2 | none => false) = true
      ∧ run.coh.poison = [] := by
  decide +kernel

/-- TrapReturn: a handle with a reserved bit, one of another context, one that names nothing; an activation in trap-wait, in its
core and switched out, whose context was frozen once and not. -/
theorem test_witness_trap_return :
    let s := Tests.sup [(6, 2 ^ 18), (7, 2 ^ 41), (8, 0), (9, 8)]
    let t := s.setActs [(2, { id := 2, live := true, slot := 0, core := 1, run := .trapWait })]
    let out := s.modCtx 0 fun c => { c with savedActs := [{ id := 2, live := true, core := 1, run := .trapWait }] }
    let parks := s.modCtx 0 fun c => { c with savedActs := [{ id := 2, live := true, core := 1, run := .trapWait, parked := some 0x18000 }] }
    let froze := t.modCtx 0 fun c => { c with everFrozen := true }
    s.cur.level ≠ .user ∧ handleBad (s.reg 6) = true ∧ (handleBad (s.reg 7) = false ∧ bits (s.reg 7) 41 6 ≠ s.cur.ctx ∧ s.cur.onControl = false)
      ∧ (handleBad (s.reg 9) = false ∧ bits (s.reg 9) 41 6 = s.cur.ctx ∧ s.trapped (s.reg 9) = none)
      ∧ (t.trapped (t.reg 9)).map (fun x => (x.1.id, x.2)) = some (2, false) ∧ (out.trapped (out.reg 9)).map (fun x => (x.1.id, x.2)) = some (2, true)
      ∧ (parks.trapped (parks.reg 9)).map (fun x => (x.1.parked.isSome, x.2)) = some (true, true)
      ∧ (froze.ctx 0).everFrozen = true ∧ (t.ctx 0).everFrozen = false ∧ (out.ctx 0).trets = [] := by
  decide +kernel

/-- StatusRegisters: each level and kind of core; a context that is not empty; WDOG and SLICE at and past their bounds; the queue
operations; the first register number that no one has. -/
theorem test_witness_status_registers :
    let s := Tests.sup []
    let c := (Tests.ctl [(6, 16), (7, 40), (8, 41), (9, 15), (10, 4096), (11, 0)]).modCtx 0 fun x => { x with qdesc := 0x19040 }
    let f := Tests.as s fun a => { a with level := .fw }
    s.cur.level ≠ .user ∧ s.cur.onControl = false ∧ c.cur.onControl = true ∧ f.cur.level = .fw ∧ (Tests.thread []).cur.level = .user
      ∧ (c.ctx c.cselCtx).st ≠ 0 ∧ (16 ≤ c.reg 6 % 64 ∧ c.reg 7 % 64 ≤ 40) ∧ 40 < c.reg 8 % 64 ∧ c.reg 9 % 64 < 16
      ∧ bits (c.reg 10) 12 3 = 1 ∧ bits (c.reg 11) 12 3 = 0 ∧ Tests.oks (c.qOpen c.cselCtx 0 0) = true
      ∧ (encodeWord (.mfs 5 0x100)).isSome = true ∧ (encodeWord (.mts 6 0x108)).isSome = true ∧ (encodeWord (.mfs 5 0x0C)).isSome = true := by
  decide +kernel

/-- ContextForms, freezing and swaps: a context of each state that the forms ask for; a word with a reserved bit, one out of range. -/
theorem test_witness_context_forms :
    let s := Tests.sup [(6, 0), (7, 64), (8, 1), (9, 2 ^ 52)]
    let c := Tests.ctl [(6, 0), (7, 64), (9, 2 ^ 52)]
    let in_ := fun st : Nat => c.modCtx 0 fun x => { x with st := st }
    let other := (in_ 4).modCluster 0 fun k => { k with owner := some 1 }
    s.cur.level ≠ .user ∧ s.cur.shadow = none ∧ c.cur.onControl = true ∧ s.reg 6 = s.cur.ctx ∧ 64 ≤ s.reg 7
      ∧ (s.reg 8 < 64 ∧ s.cur.onControl = false ∧ s.reg 8 ≠ s.cur.ctx) ∧ 2 ^ 52 ≤ c.reg 9 ∧ (c.reg 7 < 256 ∧ 64 ≤ c.reg 7)
      ∧ ((in_ 3).ctx 0).st = 3 ∧ ((in_ 5).ctx 0).st = 5 ∧ ((in_ 1).ctx 0).st = 1 ∧ ((in_ 2).ctx 0).st = 2 ∧ ((in_ 0).ctx 0).st = 0
      ∧ ((in_ 6).ctx 0).st = 6 ∧ (in_ 4).inBusy 0 = false ∧ other.inBusy 0 = true
      ∧ Tests.oks ((in_ 1).seal 0) = true
      ∧ Tests.oks (((in_ 1).modCtx 0 fun x => { x with desc := x.desc.set 21 (2 ^ 52 + 2 ^ 51) }).seal 0) = false
      ∧ (bits (c.reg 6) 8 44 * 256 = 0 ∧ physOk 0 256 = true ∧ c.poisoned 0 256 = false) ∧ physOk (2 ^ 51) 256 = false := by
  decide +kernel

/-- ContextForms: a descriptor that `cswap.create` takes, and one that it refuses. -/
theorem test_witness_create :
    let d := ((((List.replicate 32 0).set 0 (1 + 0x10000)).set 2 0x100009).set 3 0x200005).set 4 0x300081
    (Tests.ctl []).cdBad d = false ∧ (Tests.ctl []).cdBad (List.replicate 32 0) = true := by
  decide +kernel

/-- ContextEvents: a context in reset and not; a queue that is open, halted, closed, with launches outstanding, of another context; a
carve-out and an allotment at their bounds and past them. -/
theorem test_witness_context_events :
    let s := (Tests.queued id []).modCtx 0 fun c => { c with qdesc := 0x19041 }
    let q := fun f => Tests.queued f []
    let reset := s.modCtx 0 fun c => { c with st := 6 }
    let idle := s.setCur {}
    let f := fun (w d : Nat) => bits w (6 * d) 6
    (reset.ctx 0).st = 6 ∧ (s.ctx 0).st ≠ 6 ∧ (s.ctx 0).st ≠ 0 ∧ Tests.oks (s.qOpen 0 1 0) (fun r => (r.2.ctx 0).st != 0) = true
      ∧ ((s.queue 0).ctx = 0 ∧ (s.queue 0).st = 1) ∧ ((q fun q => { q with st := 2 }).queue 0).st = 2 ∧ ((q fun q => { q with ctx := 1 }).queue 0).ctx ≠ 0
      ∧ ((s.queue 0).tlc = (s.queue 0).tail) ∧ ((q fun q => { q with tail := 1 }).queue 0).tlc ≠ ((q fun q => { q with tail := 1 }).queue 0).tail
      ∧ (idle.modCtx 0 fun c => { c with st := 0 }).ctxs.length = 1 ∧ ((idle.modCtx 0 fun c => { c with st := 0 }).ctx 0).st = 0
      ∧ (24 % 32 ≤ 24 ∧ 24 % 32 ≠ (idle.die 3).carve ∧ idle.dieRuns 3 = false) ∧ 24 < 25 % 32 ∧ s.dieRuns 0 = true
      ∧ (∀ d, d < 4 → f 0x820820 d ≤ 32) ∧ 32 < f 33 0 := by
  decide +kernel

/-- LinkForms: a word of the last Frerath port, the first one past it, a die's word; a link in each state, and a die in each. -/
theorem test_witness_link_forms :
    let s := Tests.ctl [(6, 0x311), (7, 0x312), (8, 0x403), (9, 0x400), (10, 0x1000)]
    let l := fun st : Nat => s.modLink 0x311 fun l => { l with st := st }
    let d := fun st : Nat => s.modDie 3 fun x => { x with dstate := st }
    let ups := (linksOfDie 3).foldl (fun s l => s.modLink l fun x => { x with st := 2 }) (d 4)
    linkWordBad (s.reg 6) = false ∧ linkWordBad (s.reg 7) = true ∧ linkWordBad (s.reg 10) = true ∧ linkWordBad (s.reg 8) = false
      ∧ s.reg 6 / 256 ≠ 4 ∧ s.reg 8 / 256 = 4 ∧ (s.cur.onControl = true ∧ s.cur.level ≠ .user) ∧ (Tests.sup []).cur.onControl = false
      ∧ (∀ st, st < 7 → ((l st).link (s.reg 6)).st = st) ∧ (∀ st, st < 5 → ((d st).die (s.reg 8 % 256)).dstate = st)
      ∧ (s.cur.cluster ≠ mgmtCluster ∧ s.cur.die = s.reg 9 % 256) ∧ s.cur.die ≠ s.reg 8 % 256
      ∧ s.dieBusy 3 = false ∧ s.dieBusy 0 = true ∧ (∀ x ∈ linksOfDie 3, (ups.link x).st = 2) ∧ (∃ x ∈ linksOfDie 3, ((d 4).link x).st ≠ 2)
      ∧ s.dev.devSet = false ∧ (s.modDev fun v => { v with devSet := true }).dev.devSet = true
      ∧ (encodeWord (.lstatQuiesce 5 6)).isSome = true ∧ (encodeWord (.lstatDreset 5 6)).isSome = true := by
  decide +kernel

/-- LinkEvents: the last link of each kind, one that trains for the first time and for the third, one with a posted write; a barrier
at the bound. -/
theorem test_witness_link_events :
    let s := Tests.thread []
    let l := fun (st fails : Nat) => s.modLink 7 fun l => { l with st := st, fails := fails, declared := st == 0 }
    let p := s.modLink 7 fun l => { l with st := 3, posted := [{ act := 1, ctx := 0, key := 0x18000, n := 4, old := 0, new := 1 }] }
    (∀ k, k < 4 → 0 < kindCount k) ∧ 17 < kindCount 3 ∧ ((l 1 1).link 7).st = 1 ∧ ((l 1 1).link 7).fails < 2 ∧ 2 ≤ ((l 1 2).link 7).fails
      ∧ ((l 2 0).link 7).st = 2 ∧ (((l 0 0).link 7).st = 0 ∧ ((l 0 0).link 7).declared = true) ∧ ((l 3 0).link 7).posted = []
      ∧ (p.link 7).st = 3 ∧ (p.link 7).posted ≠ [] ∧ s.barWaiters (barKey 0 5 0 63) = []
      ∧ ((s.modDie 1 fun d => { d with dstate := 3 }).die 1).dstate = 3 ∧ (s.die 1).dstate ≠ 3 := by
  decide +kernel

/-- DeviceSteps: the device ready and not; a number at its bound and past it; draws below, at and above the cap; readings at each
threshold; a DOE request of each kind. -/
theorem test_witness_device_steps :
    let s := State.reset
    let r := s.modDev fun d => { d with ready := true }
    let slow := r.modDev fun d => { d with clock := 800 }
    let sampled := slow.modDev fun d => { d with capped := true }
    s.dev.ready = false ∧ (r.dev.ready = true ∧ r.dev.devSet = false ∧ 431 ≤ 431) ∧ 431 < 432 ∧ 0x18 % 8 = 0 ∧ 0x19 % 8 ≠ 0
      ∧ (r.dev.pcap < 3201 ∧ 825 ≤ r.dev.clock) ∧ (slow.dev.clock < 825 ∧ slow.dev.capped = false) ∧ sampled.dev.capped = true
      ∧ 3200 ≤ r.dev.pcap ∧ 100 ≤ max (max 100 0) (max 0 0) ∧ ((3 : Nat) ≠ 1 ∧ ((3 : Nat) ≠ 2 ∨ (36 : Nat) ≠ 36)) := by
  decide +kernel

/-- CoherenceSteps: a message of each event at a die and line, which the links let through where it stays on its die and hold where they are down; a copy under MOESI and one of a loaded table, a
line without either; CoherenceKeepsMemory: a line of HBM. -/
theorem test_witness_coherence :
    let s := Tests.thread []
    let m := fun ev : Nat => ({ ev := ev, die := 1, line := 0x300 } : CohMsg)
    let t := fun ev : Nat => s.modCoh fun h => { h with msgs := [m ev] }
    let near := fun ev : Nat => s.modCoh fun h => { h with msgs := [{ m ev with die := 0 }] }
    let c := fun pid : Nat => s.modCoh fun h => { h with copies := [(0x300 * 8 + 1, { st := 4, pid := pid, owner := 0 })] }
    (∀ ev, ev < 14 → (t ev).coh.msgs.find? (fun m => m.ev == ev && m.die == 1 && m.line == 0x300) = some (m ev) ∧ (near ev).carries { m ev with die := 0 } = true)
      ∧ (∀ ev, ev < 14 → (t ev).carries (m ev) = false)
      ∧ s.coh.msgs = [] ∧ ((c 0).coh.copies.get? (0x300 * 8 + 1)).map (·.pid) = some 0 ∧ ((c 6).coh.copies.get? (0x300 * 8 + 1)).map (·.pid) = some 6
      ∧ s.coh.copies.get? (0x300 * 8 + 1) = none ∧ inFar (0x300 * 128) = false := by
  decide +kernel

/-! ### Single steps with results that the manual states -/

/-- 05 R107: `absd.i8` of −128 and 127 is 255. -/
theorem test_absd :
    Tests.nexts (exec (.absd .i8 5 6 7) (Tests.thread [(6, 0x80), (7, 0x7F)])) (fun t => t.reg 5 == 0xFF) = true := by
  decide +kernel

/-- 05, two small additions: 1 + 2^-24 keeps its tail, and a second 2^-24 makes the encoding 0x3F800001. -/
theorem test_fadd_image :
    let s := Tests.thread [(6, 0x3F800000), (7, 0x33800000)]
    Tests.nexts (exec (.fadd .f32 8 6 7 0) s) (fun t => t.reg 8 == 0x3F800000 && t.tb 8 == 2 && t.st % 65536 == s.st % 65536
      && Tests.nexts (exec (.fadd .f32 8 8 7 0) t) (fun u => u.reg 8 == 0x3F800001 && u.tb 8 == 0)) = true := by
  decide +kernel

/-- The same with the fin modifier: the tie goes to even and sets NX (bit 3 of ST, 02 R44), and the sum stays 1.0. -/
theorem test_fadd_rne :
    Tests.nexts (exec (.fadd .f32 9 6 7 1) (Tests.thread [(6, 0x3F800000), (7, 0x33800000)]))
      (fun t => t.reg 9 == 0x3F800000 && t.tb 9 == 0 && t.st / 8 % 2 == 1) = true := by
  decide +kernel

/-- 02 R53: equal bits with different tails are unequal, and the image with tail 01 is the larger. -/
theorem test_tails_compare :
    let s := (Tests.thread [(6, 0x3F808000)]).setReg 5 0x3F808000 1
    Tests.nexts (exec (.feq .f32 7 5 6) s) (fun t => t.reg 7 == 0) = true
      ∧ Tests.nexts (exec (.flt .f32 7 6 5) s) (fun t => t.reg 7 == 1) = true := by
  decide +kernel

/-- 07, spilling an image: the plain store drops the tail, the slot keeps it, and the final store under RNE rounds it away. -/
theorem test_spill :
    let s := (Tests.thread [(2, 0xF0000000003000)]).setReg 5 0x3F808000 1
    let k := tcmKey 0 0 0 0x3000
    Tests.nexts (exec (.st .n32 2 5 0 0) s) (fun t => t.rdN k 8 == 0x3F808000) = true
      ∧ Tests.nexts (exec (.stf .img 2 5 1 0) s) (fun t => t.rdN (k + 16) 16 == 0x3F808000 + 2 ^ 64) = true
      ∧ Tests.nexts (exec (.stf .f32 2 5 12 1) s) (fun t => t.rdN (k + 48) 4 == 0x3F808000) = true := by
  decide +kernel

/-- 05 R127: `fcvt.tofp64.e8s` of 0x85 is 2^6. -/
theorem test_e8s : Tests.nexts (exec (.fcvt .img 5 6 9 0) (Tests.thread [(6, 0x85)])) (fun t => t.reg 5 == 0x4050000000000000) = true := by
  decide +kernel

/-- 05 R113: the quotient by 0 is −1 and the remainder the dividend. -/
theorem test_divide_by_zero :
    let s := Tests.thread [(6, 0xFFFFFFFB)]
    Tests.nexts (exec (.div .i32 5 6 0 0) s) (fun t => t.reg 5 == 0xFFFFFFFFFFFFFFFF) = true
      ∧ Tests.nexts (exec (.rem .i32 5 6 0 0) s) (fun t => t.reg 5 == 0xFFFFFFFFFFFFFFFB) = true := by
  decide +kernel

/-- 03 R61: a write to x0 is discarded; 05 R111: a source that is also the destination is read first. -/
theorem test_register_zero :
    Tests.nexts (exec (.addi 0 6 1) (Tests.thread [(6, 5)])) (fun t => t.reg 0 == 0 && t.pc == 0x10004) = true
      ∧ Tests.nexts (exec (.addi 6 6 0xFFF) (Tests.thread [(6, 5)])) (fun t => t.reg 6 == 4) = true := by
  decide +kernel

/-- 05 R119, R120: a backward branch, and a jump whose target register is also its link. -/
theorem test_jumps :
    let s := Tests.thread [(6, 0x10040)]
    Tests.nexts (exec (.beq 6 6 0xFFE) s) (fun t => t.pc == 0xFFFC) = true
      ∧ Tests.nexts (exec (.cJlr 6 6) s) (fun t => t.pc == 0x10040 && t.reg 6 == 0x10002) = true := by
  decide +kernel

/-- 24 R450: a system call writes CAUSE, TVAL and the PC of the next instruction, and sends one message of class 24. -/
theorem test_trap :
    Tests.nexts (exec (.trap 7) (Tests.thread [])) (fun t => t.ws 0x128 8 == 0x11 && t.ws 0x130 8 == 7 && t.pc == 0x10004
      && t.cur.run == .trapWait && t.work.msgs.map (·.cls) == [24]) = true := by
  decide +kernel

/-- 24 R451: `tret` makes the activation ready again, and writes 1. -/
theorem test_tret :
    let s := (Tests.sup [(6, 8)]).setActs [(2, { id := 2, live := true, core := 1, run := .trapWait })]
    Tests.nexts (exec (.tret 5 6) s) (fun t => t.reg 5 == 1 && (t.act? 2).map (·.run) == some .ready) = true := by
  decide +kernel

/-- 08 R191: a claim of 13 lanes gives 16, and what it gives reads 0. -/
theorem test_vclaim :
    Tests.nexts (exec (.vclaim 5 0 13) (Tests.thread [])) (fun t => t.reg 5 == 16 && t.cur.grant == 16 && t.lane 3 15 == 0) = true := by
  decide +kernel

/-- 21, a delete under a hold, event 1: the first insert has stamp 1 and takes slot 0, with no edge. -/
theorem test_first_insert :
    let s := Tests.indexed []
    let a := Tests.after ((acceptUpdate 0 { n := 1, op := 1, args := [0x20000, 0x18040] } true).run s) s
    (FMap.getD (a.ctx 0).indexes 0x20000 {}).ops.map (fun o => (o.seq, o.slot)) = [(1, 0)] := by
  decide +kernel

/-- 02 R54: −∞, the zeros (equal to one another), +∞ and the NaNs rise in this order. -/
theorem test_total_order :
    let i := fun b : Nat => (⟨b, 0⟩ : Image)
    fpLt false (i 0xFF800000) (i 0x80000000) = true ∧ fpLt false (i 0x80000000) (i 0) = false ∧ fpLt false (i 0) (i 0x80000000) = false
      ∧ fpLt false (i 0x7F800000) (i 0x7FC00000) = true := by
  decide +kernel

/-! ### The assembler, the linker and the loader (04) -/

/-- 04, after R85: one word in three ways, and `ld.n8`; 03 and 04: `c.addi x2, -8`; 05 R121: `c.sk.nz x5, 3`. -/
theorem test_asm_words :
    ["    ld      x5, [x2+16], la=2         ; w defaults to i64", "ld.i64 x5, [x2+16], la=2", "ld x5, [x2+16], w=3, la=2",
      "ld.n8 x5, [x2+2]"].map assembleLine = [some (4, 0x022622A1), some (4, 0x022622A1), some (4, 0x022622A1), some (4, 0x020822A1)]
      ∧ ["c.addi x2, -8", "c.sk.nz x5, 3"].map assembleLine = [some (2, 0xE044), some (2, 0x28B0)] := by
  decide +kernel

/-- Lines of the manual's program chapters beside the words it gives for them. -/
theorem test_asm_program_words :
    ["amoadd.ar.pk x10, [x5]", "str.pk x11, [x6]", "fencepk w, r", "tlwait.tn x13", "mstream.acc1 x5, x6, x7", "vld.f32 v1, [x4]",
      "barr.na x5, x6", "spstat.st x8, x6", "st.i32 x22, [x17+48]"].map assembleLine
      = [0x01C2552B, 0x001665A7, 0x4010202F, 0x0004D0AF, 0x020E62DB, 0x004040CF, 0x220062F1, 0x05C06473, 0x03051B25].map
          fun w => some (4, w) := by
  decide +kernel

/-- 04 R83: a field twice, a suffix out of order, a name of no field, and a value that does not fit. -/
theorem test_asm_errors :
    (["ld.i64 x5, [x2], w=3", "lda.pk.i64 x5, [x2]", "add.f32 x5, x6, x7", "addi x5, x6, 2048", "ld x5, [x2+1]"].map assembleLine).all
      Option.isNone = true := by
  decide +kernel

/-- 04 R89: the tie under two modes, the bits of 0.1, and the saturated literal with its warning. -/
theorem test_asm_floats :
    (assembleFile [".section .data", ".bf16 1.00390625", ".bf16 rm=rna, 1.00390625", ".f32 0.1", ".fp8e4 500"]).map
      (fun r => (r.1.secs.map (·.data), r.2)) = some ([[0x80, 0x3F, 0x81, 0x3F, 0xCD, 0xCC, 0xCC, 0x3D, 0x7E]], 1) := by
  decide +kernel

/-- 04, after R95: the pair that builds an address, out of range and in range. -/
theorem test_reloc_pair :
    relocWord 4 0x400124200 0 0 0x30B none 0 0 = none
      ∧ relocWord 4 0x13200 0 0 0x30B none 0 0 = some 0x1330B
      ∧ relocWord 5 0x13200 0 0 0x30303 (some 0x13200) 0 0 = some 0x20030303 := by
  decide +kernel

/-- A kernel, linked and loaded: its first word and its descriptor stand in memory (04 R96, R103, R104); the object itself,
which is not linked, is refused. -/
theorem test_link_and_load :
    let o := assembleFile [".kernel k", "go: addi x5, x0, 7", "jl x1, go", "halt", ".endk"]
    let f := o.bind fun r => linkNof [r.1] [(1, 0x10000), (5, 0x18000)] (some (textBytes "k"))
    (f.map (·.entry) = some 0x18000) ∧ (f.bind fun f => (Tests.thread []).loadNof 0 true f.file).any
      (fun s => s.rdN 0x10000 4 == 0x00700283 && s.rdN 0x18000 8 == 0x10000 && s.rdN 0x1800C 2 == 0x0840) = true
      ∧ (o.bind fun r => (Tests.thread []).loadNof 0 true r.1.file).isNone = true := by
  decide +kernel
end

section
/-!
SUPPORT. How the scalar instructions end: an instruction whose `exec` is one of the shared ends runs, and leaves what the
law of that end says.
-/

namespace Sys2Proof.Machine

section Ends

variable {i : Instr} {s : State} {n d v t la len target : Nat}

theorem Runs.of_put (h : exec i s = s.put n d v t) (hd : d < 32) : Runs i s (RegResult s · n d v t) := by
  rw [Runs, h]; exact RegResult.exists_put s n d v t hd

theorem Runs.of_putLa (h : exec i s = s.putLa la d v t) (hd : d < 32) : Runs i s (LongResult s · la d v t) := by
  rw [Runs, h]; exact LongResult.exists_put s la d v t hd

/-- A branch whose test decides `p` goes to its target when `p` holds and to the next instruction otherwise. -/
theorem Runs.of_branch {c : Bool} {p : Prop} (h : exec i s = s.branch n c target) (hc : c = true ↔ p) :
    (p → Runs i s (Jumped s · target)) ∧ (¬ p → Runs i s (Advanced s · n)) := by
  obtain ⟨u, hu, hjump, hnext⟩ := s.branch_spec n target c
  have he : exec i s = .next u := h.trans hu
  exact ⟨fun hp => ⟨u, he, hjump (hc.2 hp)⟩, fun hp => ⟨u, he, hnext (Bool.eq_false_iff.2 (mt hc.1 hp))⟩⟩

theorem Runs.of_jumpLink (h : exec i s = s.jumpLink len d target) (hd : d < 32) :
    Runs i s fun t => t.pc = target % 2 ^ 56 ∧ t.Holds d (s.pc + len) 0 ∧ OnlyMem s t
      ∧ SameMem s t fun k => s.pcSpan k ∨ s.regSpan d k := by
  rw [Runs, h]; exact s.jumpLink_spec len d target hd

theorem Runs.of_setPc (h : exec i s = .next (s.setPc target)) : Runs i s (Jumped s · target) :=
  ⟨_, h, Jumped.of_setPc s target⟩

/-- A sum that stays within the 56 bits of the address is written under the pointer's tag (R117). -/
theorem Runs.of_padd_fits {a : Nat} {y : Int} (h : exec i s = s.padd d a y) (hd : d < 32)
    (hy : 0 ≤ (s.reg a % 2 ^ 56 : Nat) + y ∧ (s.reg a % 2 ^ 56 : Nat) + y < 2 ^ 56) :
    Runs i s (RegResult s · 4 d (s.reg a / 2 ^ 56 * 2 ^ 56 + ((s.reg a % 2 ^ 56 : Nat) + y).toNat) 0) :=
  Runs.of_put (h.trans (if_neg (by omega))) hd

/-- A sum outside the 56 bits of the address traps TAGOV with the 64-bit sum (R117). -/
theorem Runs.of_padd_overflows {a : Nat} {y : Int} (h : exec i s = s.padd d a y)
    (hs : s.cur.shadow = none) (hy : (s.reg a % 2 ^ 56 : Nat) + y < 0 ∨ 2 ^ 56 ≤ (s.reg a % 2 ^ 56 : Nat) + y) :
    Runs i s (Trapped s · 0x06 0 (((s.reg a : Int) + y) % 2 ^ 64).toNat s.pc) :=
  ⟨_, h.trans (if_pos hy), Trapped.of_trapHere s _ _ _ hs⟩

end Ends

end Sys2Proof.Machine
end

section
/-!
SUPPORT. What the operand forms of 05 compute, as the rules write it: the floor shift, the complement within n bits, the
readings by the signedness of w, the quotients, and the conditions.
-/

namespace Sys2Proof.Machine

/-! ### Values -/

theorem shrI_eq (y : Int) (n : Nat) : shrI y n = y / 2 ^ n := by
  rw [shrI, Nat.cast_pow, Nat.cast_ofNat]

/-- The complement within n bits of a register that is read in n bits (R107). -/
theorem notN_ureg (s : State) (w : IW) (k : Nat) : notN (nbits w) (s.ureg w k) = 2 ^ nbits w - 1 - s.ureg w k := by
  rw [notN, State.ureg, Nat.mod_mod]

theorem wreg_add (s : State) (w : IW) (a b : Nat) :
    s.wreg w a + s.wreg w b = if wSigned w then s.sreg w a + s.sreg w b else s.ureg w a + s.ureg w b := by
  unfold State.wreg; split <;> rfl

theorem wreg_sub (s : State) (w : IW) (a b : Nat) :
    s.wreg w a - s.wreg w b = if wSigned w then s.sreg w a - s.sreg w b else s.ureg w a - s.ureg w b := by
  unfold State.wreg; split <;> rfl

theorem natAbs_wreg_sub (s : State) (w : IW) (a b : Nat) :
    (s.wreg w a - s.wreg w b).natAbs
      = if wSigned w then (s.sreg w a - s.sreg w b).natAbs else (s.ureg w a - s.ureg w b : Int).natAbs := by
  rw [wreg_sub, apply_ite Int.natAbs]

/-! ### Quotients (R114) -/

/-- The quotient of unsigned operands. -/
theorem quotI_natCast (x y : Nat) : quotI x y = if y = 0 then -1 else ((x / y : Nat) : Int) := by
  simp only [quotI, Nat.cast_eq_zero, Int.ofNat_tdiv]

/-- The remainder is what the quotient leaves of the dividend. -/
theorem remI_eq (x y : Int) : remI x y = if y = 0 then x else x - quotI x y * y := by
  unfold remI quotI
  split <;> rfl

/-- The remainder of unsigned operands. -/
theorem remI_natCast (x y : Nat) : remI x y = ((if y = 0 then x else x - x / y * y : Nat) : Int) := by
  rcases eq_or_ne y 0 with rfl | hy
  · rfl
  · have hle : x / y * y ≤ x := Nat.div_mul_le_self x y
    rw [remI, if_neg (Nat.cast_ne_zero.2 hy), if_neg hy, Nat.cast_sub hle, Nat.cast_mul, Int.ofNat_tdiv]

/-! ### Conditions (R111, R112, R121) -/

theorem cmpHolds_iff {x : Nat} (hx : x < 7) (A B : Int) (Au Bu : Nat) : cmpHolds x A B Au Bu = true ↔ CmpCond x A B Au Bu := by
  interval_cases x <;> simp [cmpHolds, CmpCond]

theorem selHolds_iff {x : Nat} (hx : x < 6) (v : Nat) : selHolds x v = true ↔ SelCond x v := by
  interval_cases x <;> simp [selHolds, SelCond, bit_eq_testBit]

theorem skHolds_iff {x : Nat} (hx : x < 6) (v : Nat) : skHolds x v = true ↔ SkipCond x v := by
  match x with
  | 0 | 1 => simp [skHolds, SkipCond]
  | x + 2 => simpa [skHolds, SkipCond] using selHolds_iff hx v

end Sys2Proof.Machine
end

section
/-!
SUPPORT. Which words of majors 0x00, 0x01 and 0x03 the decoder accepts, and that it refuses a word of a major when no form
that it finds there is well formed.
-/

namespace Sys2Proof.Machine

/-- A field as its low and its high part. -/
theorem fld_add (w lo m n : Nat) : fld w lo (m + n) = fld w lo m + 2 ^ m * fld w (lo + m) n := by
  simp only [fld, pow_add, Nat.mod_mul, Nat.div_div_eq_div_mul]

theorem iw_ofCode_eq_some {c : Nat} {w : IW} (h : IW.ofCode? c = some w) : c < 7 := by
  by_contra hc
  obtain ⟨k, rfl⟩ := Nat.exists_eq_add_of_le (Nat.not_lt.1 hc)
  rw [Nat.add_comm] at h
  cases h

theorem decodeWord_refuses {w : Nat} {o : Option Instr} (hodd : w % 2 = 1) (ho : decode32? w = some o)
    (hwf : ∀ i, o = some i → i.wf = false) : ∃ e, decodeWord w = .error e := by
  rw [decodeWord, if_pos hodd, ho]
  cases o with
  | none => exact ⟨_, rfl⟩
  | some i => exact ⟨.reservedValue, by simp [checkForm, hwf i rfl]⟩

theorem decMajor00_eq_some {w : Nat} {i : Instr} (h : decMajor00 w = some i) : fld w 25 7 < 14 ∧ fld w 22 3 < 7 := by
  by_contra hc
  rcases not_and_or.1 hc with hfn | hw
  · have hne : ∀ k < 14, fld w 25 7 ≠ k := fun k hk => by omega
    simp [decMajor00, hne] at h
  · have hnone : IW.ofCode? (fld w 22 3) = none := Option.eq_none_iff_forall_ne_some.2 fun _ he => hw (iw_ofCode_eq_some he)
    simp [decMajor00, hnone] at h

theorem decMajor01_eq_some {w : Nat} {i : Instr} (h : decMajor01 w = some i) : fld w 17 3 < 6 := by
  by_contra hfn
  have hne : ∀ k < 6, fld w 17 3 ≠ k := fun k hk => by omega
  simp [decMajor01, hne] at h

/-- What major 0x03 holds: `cmp` at fn 0, and `csel` at fn 1 with w 0 (R111, R112). -/
theorem decMajor03_eq_some {w : Nat} {i : Instr} (h : decMajor03 w = some i) :
    (fld w 25 4 = 0 ∧ fld w 22 3 < 7 ∧ ∃ c, i = .cmp c (fld w 7 5) (fld w 12 5) (fld w 17 5) (fld w 29 3))
      ∨ (fld w 25 4 = 1 ∧ fld w 22 3 = 0 ∧ i = .csel (fld w 7 5) (fld w 12 5) (fld w 17 5) (fld w 29 3)) := by
  unfold decMajor03 at h
  split at h
  case isTrue hfn =>
    obtain ⟨c, hc, rfl⟩ := Option.map_eq_some_iff.1 h
    exact Or.inl ⟨hfn, iw_ofCode_eq_some hc, c, rfl⟩
  case isFalse =>
    split at h
    case isTrue hfn =>
      have hlow : fld w 22 3 < 8 := Nat.mod_lt _ (by decide)
      have hsplit : fld w 22 7 = fld w 22 3 + 8 * fld w 25 4 := fld_add w 22 3 4
      exact Or.inr ⟨by omega, by omega, (Option.some.inj h).symm⟩
    case isFalse => cases h

/-- Major 0x00 refuses a word with bits 31 to 29 set, the reserved w, or an fn that no row has. -/
theorem decodeWord_refuses_major00 {w : Nat} (hodd : w % 2 = 1) (hm : fld w 1 6 = 0)
    (h : fld w 29 3 ≠ 0 ∨ fld w 22 3 = 7 ∨ 14 ≤ fld w 25 4) : ∃ e, decodeWord w = .error e := by
  refine decodeWord_refuses hodd (Laws.decode32_Major00 hm) fun i hi => ?_
  obtain ⟨hfn, hw⟩ := decMajor00_eq_some hi
  have hsplit : fld w 25 7 = fld w 25 4 + 16 * fld w 29 3 := fld_add w 25 4 3
  omega

theorem decodeWord_refuses_major01 {w : Nat} (hodd : w % 2 = 1) (hm : fld w 1 6 = 1) (h : 6 ≤ fld w 17 3) :
    ∃ e, decodeWord w = .error e :=
  decodeWord_refuses hodd (Laws.decode32_Major01 hm) fun _ hi => absurd (decMajor01_eq_some hi) (Nat.not_lt.2 h)

/-- Major 0x03 refuses an fn that no row has, and in `cmp` and `csel` a condition or a w that the row does not have. -/
theorem decodeWord_refuses_major03 {w : Nat} (hodd : w % 2 = 1) (hm : fld w 1 6 = 3)
    (h : 2 ≤ fld w 25 4 ∨ (fld w 25 4 = 0 ∧ (fld w 29 3 = 7 ∨ fld w 22 3 = 7))
      ∨ (fld w 25 4 = 1 ∧ (6 ≤ fld w 29 3 ∨ fld w 22 3 ≠ 0))) : ∃ e, decodeWord w = .error e := by
  refine decodeWord_refuses hodd (Laws.decode32_Major03 hm) fun i hi => ?_
  rcases decMajor03_eq_some hi with ⟨hfn, hw, c, rfl⟩ | ⟨hfn, hw, rfl⟩
  · exact decide_eq_false (by omega)
  · exact decide_eq_false (by omega)

end Sys2Proof.Machine
end

section
/-!
SUPPORT. The scalar instructions of 05 that choose by a condition, and the obligations about the family.
-/

namespace Sys2Proof.Machine

/-- `cmp` writes 1 when its condition holds and 0 otherwise (R111). -/
theorem runs_cmp (s : State) (w : IW) {d a b x : Nat} (hd : d < 32) (hx : x < 7) :
    let c := CmpCond x (s.sreg w a) (s.sreg w b) (s.ureg w a) (s.ureg w b)
    (c → Runs (.cmp w d a b x) s (RegResult s · 4 d 1 0)) ∧ (¬ c → Runs (.cmp w d a b x) s (RegResult s · 4 d 0 0)) := by
  have hiff := cmpHolds_iff hx (s.sreg w a) (s.sreg w b) (s.ureg w a) (s.ureg w b)
  have hexec : exec (.cmp w d a b x) s
      = s.put 4 d (b2n (cmpHolds x (s.sreg w a) (s.sreg w b) (s.ureg w a) (s.ureg w b))) 0 := rfl
  refine ⟨fun h => Runs.of_put ?holds hd, fun h => Runs.of_put ?fails hd⟩
  case holds => rw [hexec, hiff.2 h]; rfl
  case fails => rw [hexec, Bool.eq_false_iff.2 (mt hiff.1 h)]; rfl

/-- `csel` moves the register that its condition on the old value of d chooses, with its tail (R112). -/
theorem runs_csel (s : State) {d a b x : Nat} (hd : d < 32) (hx : x < 6) :
    (SelCond x (s.reg d) → Runs (.csel d a b x) s (RegResult s · 4 d (s.reg a) (s.tb a)))
      ∧ (¬ SelCond x (s.reg d) → Runs (.csel d a b x) s (RegResult s · 4 d (s.reg b) (s.tb b))) :=
  ⟨fun h => Runs.of_put (if_pos ((selHolds_iff hx _).2 h)) hd, fun h => Runs.of_put (if_neg (mt (selHolds_iff hx _).1 h)) hd⟩

/-- A `c.sk` whose condition holds goes to the address that passing over the instructions gives (R121). -/
theorem exec_cSk_of_skips {s t : State} {a cond cnt pc : Nat} (hcond : cond < 6) (hskip : SkipCond cond (s.reg a))
    (hfrom : s.skipFrom (cnt + 1) (s.pc + 2) = .ok pc t) : exec (.cSk a cond cnt) s = .next (t.setPc pc) := by
  have hexec : exec (.cSk a cond cnt) s = (s.skipFrom (cnt + 1) (s.pc + 2)).done fun pc u => u.setPc pc :=
    if_pos ((skHolds_iff hcond _).2 hskip)
  rw [hexec, hfrom]; rfl

/-- Settles O8: each form of major 0x00 ends in `put` of the value that R107 gives, `cmp` and `csel` do so by their condition,
and the decoder's inversions refuse the reserved words. -/
theorem integerRegisterResults : Obligations.IntegerRegisterResults := by
  refine ⟨fun s w d a b hd => ?_, fun s w d a b x hd => ?_, fun w _ hodd => ?_⟩
  · refine ⟨Runs.of_put rfl hd, Runs.of_put rfl hd, Runs.of_put rfl hd, Runs.of_put rfl hd, Runs.of_put rfl hd,
      Runs.of_put ?andn hd, Runs.of_put ?orn hd, Runs.of_put rfl hd, Runs.of_put rfl hd, Runs.of_put rfl hd,
      Runs.of_put rfl hd, Runs.of_put ?adds hd, Runs.of_put ?subs hd, Runs.of_put ?absd hd⟩
    case andn => rw [← notN_ureg]; rfl
    case orn => rw [← notN_ureg]; rfl
    case adds => rw [← wreg_add]; rfl
    case subs => rw [← wreg_sub]; rfl
    case absd => rw [← natAbs_wreg_sub]; rfl
  · exact ⟨runs_cmp s w hd, runs_csel s hd⟩
  · exact ⟨decodeWord_refuses_major00 hodd, decodeWord_refuses_major03 hodd⟩

/-- Settles O9: each form ends in `put`, of the 64-bit pattern of what its rule computes, and no fn from 6 up is a row. -/
theorem immediateAndCompressedResults : Obligations.ImmediateAndCompressedResults := by
  refine ⟨fun s d a imm hd => ?_, fun s d src imm hd => ?_, fun w _ hodd => decodeWord_refuses_major01 hodd⟩
  · exact ⟨Runs.of_put rfl hd, Runs.of_put rfl hd, Runs.of_put rfl hd, Runs.of_put rfl hd, Runs.of_put rfl hd,
      Runs.of_put rfl hd⟩
  · refine ⟨Runs.of_put rfl hd, Runs.of_put rfl hd, Runs.of_put rfl hd, Runs.of_put rfl hd, Runs.of_put rfl hd,
      Runs.of_put rfl hd, Runs.of_put rfl hd, Runs.of_put rfl hd, Runs.of_put ?sra hd, Runs.of_put rfl hd⟩
    case sra => rw [← shrI_eq]; rfl

/-- Settles O11: each form ends in `putLa`; the quotients and remainders of unsigned operands are those of naturals. -/
theorem multiplyAndDivide : Obligations.MultiplyAndDivide := by
  intro s w d a b la hd
  refine ⟨Runs.of_putLa rfl hd, Runs.of_putLa ?mulh hd, Runs.of_putLa rfl hd, Runs.of_putLa rfl hd,
    Runs.of_putLa ?divn hd, Runs.of_putLa ?rem hd, Runs.of_putLa ?remn hd⟩
  case mulh => rw [← shrI_eq]; rfl
  case divn => rw [← quotI_natCast]; rfl
  case rem => exact congrArg (fun y => s.putLa la d (res w y) 0) (remI_eq _ _)
  case remn => rw [← remI_natCast]; rfl

/-- Settles O12, with the two outcomes of the shared sum of `padd` and `psub`. -/
theorem pointersAndUpperImmediates : Obligations.PointersAndUpperImmediates := by
  refine ⟨fun s d a b imm hd => ?_, fun s d a b hd => ?_, fun s w d a b imm hd => ?_⟩
  · exact ⟨Runs.of_put rfl hd, Runs.of_put rfl hd, Runs.of_put rfl hd, Runs.of_put rfl hd, Runs.of_put rfl hd⟩
  · exact ⟨⟨Runs.of_padd_fits rfl hd, Runs.of_padd_overflows rfl⟩, ⟨Runs.of_padd_fits rfl hd, Runs.of_padd_overflows rfl⟩⟩
  · exact ⟨Runs.of_put rfl hd, Runs.of_put rfl hd, Runs.of_put rfl hd⟩

/-- Settles O13, with the two outcomes of the shared branch and the law of the jump with a link. -/
theorem branchesAndJumps : Obligations.BranchesAndJumps := by
  refine ⟨fun s a b imm => ?_, fun s d a imm cond cnt src hd => ?_⟩
  · refine ⟨Runs.of_branch rfl ?_, Runs.of_branch rfl ?_, Runs.of_branch rfl ?_, Runs.of_branch rfl ?_,
      Runs.of_branch rfl ?_, Runs.of_branch rfl ?_, Runs.of_branch rfl ?_, Runs.of_branch rfl ?_,
      Runs.of_branch rfl ?_, Runs.of_branch rfl ?_⟩
    · exact beq_iff_eq
    · exact bne_iff_ne
    · exact decide_eq_true_iff
    · exact decide_eq_true_iff
    · exact decide_eq_true_iff
    · exact decide_eq_true_iff
    · rw [bit_eq_testBit]
    · rw [bit_eq_testBit, Bool.not_eq_true']
    · exact beq_iff_eq
    · exact bne_iff_ne
  · refine ⟨Runs.of_jumpLink rfl hd, Runs.of_jumpLink rfl hd, Runs.of_setPc rfl, Runs.of_setPc rfl, Runs.of_jumpLink rfl hd,
      fun hcond hno => ?_, fun hcond hskip pc t hfrom => ?_⟩
    · exact ⟨_, if_neg (mt (skHolds_iff hcond _).1 hno), Advanced.of_retire s 2⟩
    · exact exec_cSk_of_skips hcond hskip hfrom

end Sys2Proof.Machine
end

section
/-!
SUPPORT. Every word the encoder gives decodes to its instruction, and so do its bytes (03 R55, R67).
-/

namespace Sys2Proof.Laws

/-- The lemmas for the constructors, put together. -/
theorem roundTrip : ∀ i : Instr, RoundTrip.Statement i
  | .add _ _ _ _ => RoundTrip.add _ _ _ _
  | .sub _ _ _ _ => RoundTrip.sub _ _ _ _
  | .and _ _ _ _ => RoundTrip.and _ _ _ _
  | .or _ _ _ _ => RoundTrip.or _ _ _ _
  | .xor _ _ _ _ => RoundTrip.xor _ _ _ _
  | .andn _ _ _ _ => RoundTrip.andn _ _ _ _
  | .orn _ _ _ _ => RoundTrip.orn _ _ _ _
  | .min _ _ _ _ => RoundTrip.min _ _ _ _
  | .max _ _ _ _ => RoundTrip.max _ _ _ _
  | .minn _ _ _ _ => RoundTrip.minn _ _ _ _
  | .maxn _ _ _ _ => RoundTrip.maxn _ _ _ _
  | .adds _ _ _ _ => RoundTrip.adds _ _ _ _
  | .subs _ _ _ _ => RoundTrip.subs _ _ _ _
  | .absd _ _ _ _ => RoundTrip.absd _ _ _ _
  | .addi _ _ _ => RoundTrip.addi _ _ _
  | .andi _ _ _ => RoundTrip.andi _ _ _
  | .ori _ _ _ => RoundTrip.ori _ _ _
  | .xori _ _ _ => RoundTrip.xori _ _ _
  | .mini _ _ _ => RoundTrip.mini _ _ _
  | .maxi _ _ _ => RoundTrip.maxi _ _ _
  | .sll _ _ _ _ => RoundTrip.sll _ _ _ _
  | .sllImm _ _ _ _ _ => RoundTrip.sllImm _ _ _ _ _
  | .srl _ _ _ _ => RoundTrip.srl _ _ _ _
  | .srlImm _ _ _ _ _ => RoundTrip.srlImm _ _ _ _ _
  | .sra _ _ _ _ => RoundTrip.sra _ _ _ _
  | .sraImm _ _ _ _ _ => RoundTrip.sraImm _ _ _ _ _
  | .rol _ _ _ _ => RoundTrip.rol _ _ _ _
  | .rolImm _ _ _ _ _ => RoundTrip.rolImm _ _ _ _ _
  | .ror _ _ _ _ => RoundTrip.ror _ _ _ _
  | .rorImm _ _ _ _ _ => RoundTrip.rorImm _ _ _ _ _
  | .ext _ _ _ => RoundTrip.ext _ _ _
  | .extn _ _ _ => RoundTrip.extn _ _ _
  | .ins _ _ _ => RoundTrip.ins _ _ _
  | .clz _ _ _ => RoundTrip.clz _ _ _
  | .ctz _ _ _ => RoundTrip.ctz _ _ _
  | .pop _ _ _ => RoundTrip.pop _ _ _
  | .brev _ _ _ => RoundTrip.brev _ _ _
  | .bswap _ _ _ => RoundTrip.bswap _ _ _
  | .cmp _ _ _ _ _ => RoundTrip.cmp _ _ _ _ _
  | .csel _ _ _ _ => RoundTrip.csel _ _ _ _
  | .mul _ _ _ _ _ => RoundTrip.mul _ _ _ _ _
  | .mulh _ _ _ _ _ => RoundTrip.mulh _ _ _ _ _
  | .mulhn _ _ _ _ _ => RoundTrip.mulhn _ _ _ _ _
  | .div _ _ _ _ _ => RoundTrip.div _ _ _ _ _
  | .divn _ _ _ _ _ => RoundTrip.divn _ _ _ _ _
  | .rem _ _ _ _ _ => RoundTrip.rem _ _ _ _ _
  | .remn _ _ _ _ _ => RoundTrip.remn _ _ _ _ _
  | .ldhi _ _ => RoundTrip.ldhi _ _
  | .pcrel _ _ => RoundTrip.pcrel _ _
  | .ptag _ _ _ => RoundTrip.ptag _ _ _
  | .padd _ _ _ => RoundTrip.padd _ _ _
  | .psub _ _ _ => RoundTrip.psub _ _ _
  | .pfmt _ _ => RoundTrip.pfmt _ _
  | .pclr _ _ => RoundTrip.pclr _ _
  | .beq _ _ _ => RoundTrip.beq _ _ _
  | .bne _ _ _ => RoundTrip.bne _ _ _
  | .blt _ _ _ => RoundTrip.blt _ _ _
  | .bge _ _ _ => RoundTrip.bge _ _ _
  | .bltn _ _ _ => RoundTrip.bltn _ _ _
  | .bgen _ _ _ => RoundTrip.bgen _ _ _
  | .bbs _ _ _ => RoundTrip.bbs _ _ _
  | .bbc _ _ _ => RoundTrip.bbc _ _ _
  | .jl _ _ => RoundTrip.jl _ _
  | .jlr _ _ _ => RoundTrip.jlr _ _ _
  | .cMv _ _ => RoundTrip.cMv _ _
  | .cAdd _ _ => RoundTrip.cAdd _ _
  | .cSub _ _ => RoundTrip.cSub _ _
  | .cXor _ _ => RoundTrip.cXor _ _
  | .cAddi _ _ => RoundTrip.cAddi _ _
  | .cLi _ _ => RoundTrip.cLi _ _
  | .cLd _ _ => RoundTrip.cLd _ _
  | .cSt _ _ => RoundTrip.cSt _ _
  | .cBz _ _ => RoundTrip.cBz _ _
  | .cBnz _ _ => RoundTrip.cBnz _ _
  | .cSk _ _ _ => RoundTrip.cSk _ _ _
  | .cSll _ _ => RoundTrip.cSll _ _
  | .cSrl _ _ => RoundTrip.cSrl _ _
  | .cSra _ _ => RoundTrip.cSra _ _
  | .cAndi _ _ => RoundTrip.cAndi _ _
  | .cJ _ => RoundTrip.cJ _
  | .cJr _ => RoundTrip.cJr _
  | .cJlr _ _ => RoundTrip.cJlr _ _
  | .fadd _ _ _ _ _ => RoundTrip.fadd _ _ _ _ _
  | .fsub _ _ _ _ _ => RoundTrip.fsub _ _ _ _ _
  | .fmul _ _ _ _ _ => RoundTrip.fmul _ _ _ _ _
  | .fmin _ _ _ _ _ => RoundTrip.fmin _ _ _ _ _
  | .fmax _ _ _ _ _ => RoundTrip.fmax _ _ _ _ _
  | .fsgn _ _ _ _ => RoundTrip.fsgn _ _ _ _
  | .ffma _ _ _ _ _ => RoundTrip.ffma _ _ _ _ _
  | .fdiv _ _ _ _ _ => RoundTrip.fdiv _ _ _ _ _
  | .fsqrt _ _ _ _ => RoundTrip.fsqrt _ _ _ _
  | .fcvt _ _ _ _ _ => RoundTrip.fcvt _ _ _ _ _
  | .fcvti _ _ _ _ _ => RoundTrip.fcvti _ _ _ _ _
  | .icvtf _ _ _ _ _ => RoundTrip.icvtf _ _ _ _ _
  | .fin _ _ _ _ => RoundTrip.fin _ _ _ _
  | .feq _ _ _ _ => RoundTrip.feq _ _ _ _
  | .flt _ _ _ _ => RoundTrip.flt _ _ _ _
  | .fle _ _ _ _ => RoundTrip.fle _ _ _ _
  | .fclass _ _ _ => RoundTrip.fclass _ _ _
  | .tget _ _ => RoundTrip.tget _ _
  | .tset _ _ _ => RoundTrip.tset _ _ _
  | .ld _ _ _ _ _ => RoundTrip.ld _ _ _ _ _
  | .lda _ _ _ _ _ _ => RoundTrip.lda _ _ _ _ _ _
  | .st _ _ _ _ _ => RoundTrip.st _ _ _ _ _
  | .str _ _ _ _ _ => RoundTrip.str _ _ _ _ _
  | .stf _ _ _ _ _ => RoundTrip.stf _ _ _ _ _
  | .ldx _ _ _ _ _ => RoundTrip.ldx _ _ _ _ _
  | .stx _ _ _ _ => RoundTrip.stx _ _ _ _
  | .ldxr _ _ _ _ _ => RoundTrip.ldxr _ _ _ _ _
  | .lde _ _ _ _ _ => RoundTrip.lde _ _ _ _ _
  | .ste _ _ _ _ => RoundTrip.ste _ _ _ _
  | .amoswap _ _ _ _ _ _ => RoundTrip.amoswap _ _ _ _ _ _
  | .amoadd _ _ _ _ _ _ => RoundTrip.amoadd _ _ _ _ _ _
  | .amoand _ _ _ _ _ _ => RoundTrip.amoand _ _ _ _ _ _
  | .amoor _ _ _ _ _ _ => RoundTrip.amoor _ _ _ _ _ _
  | .amoxor _ _ _ _ _ _ => RoundTrip.amoxor _ _ _ _ _ _
  | .amomin _ _ _ _ _ _ => RoundTrip.amomin _ _ _ _ _ _
  | .amomax _ _ _ _ _ _ => RoundTrip.amomax _ _ _ _ _ _
  | .amominn _ _ _ _ _ _ => RoundTrip.amominn _ _ _ _ _ _
  | .amomaxn _ _ _ _ _ _ => RoundTrip.amomaxn _ _ _ _ _ _
  | .amocas _ _ _ _ _ _ => RoundTrip.amocas _ _ _ _ _ _
  | .amfadd _ _ _ _ _ _ => RoundTrip.amfadd _ _ _ _ _ _
  | .amfmin _ _ _ _ _ _ => RoundTrip.amfmin _ _ _ _ _ _
  | .amfmax _ _ _ _ _ _ => RoundTrip.amfmax _ _ _ _ _ _
  | .radd _ _ _ _ => RoundTrip.radd _ _ _ _
  | .rflush _ _ _ => RoundTrip.rflush _ _ _
  | .ldres _ _ _ _ _ _ => RoundTrip.ldres _ _ _ _ _ _
  | .stcond _ _ _ _ _ _ => RoundTrip.stcond _ _ _ _ _ _
  | .raddi _ _ _ _ => RoundTrip.raddi _ _ _ _
  | .fence _ _ _ => RoundTrip.fence _ _ _
  | .tlwait _ _ => RoundTrip.tlwait _ _
  | .tltest _ _ _ => RoundTrip.tltest _ _ _
  | .hint _ _ => RoundTrip.hint _ _
  | .cpy _ _ _ _ _ => RoundTrip.cpy _ _ _ _ _
  | .cpyt _ _ _ _ _ => RoundTrip.cpyt _ _ _ _ _
  | .cpyg _ _ _ _ _ => RoundTrip.cpyg _ _ _ _ _
  | .trread _ _ => RoundTrip.trread _ _
  | .vclaim _ _ _ => RoundTrip.vclaim _ _ _
  | .vrel => RoundTrip.vrel
  | .vlen _ _ _ => RoundTrip.vlen _ _ _
  | .vsplat _ _ _ => RoundTrip.vsplat _ _ _
  | .vadd _ _ _ _ _ => RoundTrip.vadd _ _ _ _ _
  | .vsub _ _ _ _ _ => RoundTrip.vsub _ _ _ _ _
  | .vand _ _ _ _ _ => RoundTrip.vand _ _ _ _ _
  | .vor _ _ _ _ _ => RoundTrip.vor _ _ _ _ _
  | .vxor _ _ _ _ _ => RoundTrip.vxor _ _ _ _ _
  | .vmin _ _ _ _ _ => RoundTrip.vmin _ _ _ _ _
  | .vmax _ _ _ _ _ => RoundTrip.vmax _ _ _ _ _
  | .vadds _ _ _ _ _ => RoundTrip.vadds _ _ _ _ _
  | .vsubs _ _ _ _ _ => RoundTrip.vsubs _ _ _ _ _
  | .vmul _ _ _ _ _ => RoundTrip.vmul _ _ _ _ _
  | .vsll _ _ _ _ _ => RoundTrip.vsll _ _ _ _ _
  | .vsrl _ _ _ _ _ => RoundTrip.vsrl _ _ _ _ _
  | .vsra _ _ _ _ _ => RoundTrip.vsra _ _ _ _ _
  | .vcmpeq _ _ _ _ _ => RoundTrip.vcmpeq _ _ _ _ _
  | .vcmplt _ _ _ _ _ => RoundTrip.vcmplt _ _ _ _ _
  | .vcmple _ _ _ _ _ => RoundTrip.vcmple _ _ _ _ _
  | .vfadd _ _ _ _ _ => RoundTrip.vfadd _ _ _ _ _
  | .vfsub _ _ _ _ _ => RoundTrip.vfsub _ _ _ _ _
  | .vfmul _ _ _ _ _ => RoundTrip.vfmul _ _ _ _ _
  | .vfmin _ _ _ _ _ => RoundTrip.vfmin _ _ _ _ _
  | .vfmax _ _ _ _ _ => RoundTrip.vfmax _ _ _ _ _
  | .vfsgn _ _ _ _ _ => RoundTrip.vfsgn _ _ _ _ _
  | .vfeq _ _ _ _ _ => RoundTrip.vfeq _ _ _ _ _
  | .vflt _ _ _ _ _ => RoundTrip.vflt _ _ _ _ _
  | .vfle _ _ _ _ _ => RoundTrip.vfle _ _ _ _ _
  | .vffma _ _ _ _ _ => RoundTrip.vffma _ _ _ _ _
  | .vfdiv _ _ _ _ _ => RoundTrip.vfdiv _ _ _ _ _
  | .vfsqrt _ _ _ _ => RoundTrip.vfsqrt _ _ _ _
  | .vcvt _ _ _ _ _ => RoundTrip.vcvt _ _ _ _ _
  | .vicvtf _ _ _ _ _ => RoundTrip.vicvtf _ _ _ _ _
  | .vfcvti _ _ _ _ _ => RoundTrip.vfcvti _ _ _ _ _
  | .vfin _ _ _ _ _ => RoundTrip.vfin _ _ _ _ _
  | .vtget _ _ _ => RoundTrip.vtget _ _ _
  | .vtset _ _ _ _ => RoundTrip.vtset _ _ _ _
  | .vperm _ _ _ _ => RoundTrip.vperm _ _ _ _
  | .vslide _ _ _ _ => RoundTrip.vslide _ _ _ _
  | .vbcast _ _ _ _ => RoundTrip.vbcast _ _ _ _
  | .vnbr _ _ _ _ => RoundTrip.vnbr _ _ _ _
  | .vcomp _ _ _ => RoundTrip.vcomp _ _ _
  | .vexpd _ _ _ => RoundTrip.vexpd _ _ _
  | .vget _ _ _ _ => RoundTrip.vget _ _ _ _
  | .vput _ _ _ _ => RoundTrip.vput _ _ _ _
  | .vred _ _ _ _ _ => RoundTrip.vred _ _ _ _ _
  | .vfred _ _ _ _ _ => RoundTrip.vfred _ _ _ _ _
  | .vscan _ _ _ _ _ => RoundTrip.vscan _ _ _ _ _
  | .vfscan _ _ _ _ _ => RoundTrip.vfscan _ _ _ _ _
  | .vsort _ _ _ _ _ => RoundTrip.vsort _ _ _ _ _
  | .vsorti _ _ _ _ _ => RoundTrip.vsorti _ _ _ _ _
  | .vtopk _ _ _ _ _ => RoundTrip.vtopk _ _ _ _ _
  | .vld _ _ _ _ _ => RoundTrip.vld _ _ _ _ _
  | .vst _ _ _ _ => RoundTrip.vst _ _ _ _
  | .vlds _ _ _ _ _ => RoundTrip.vlds _ _ _ _ _
  | .vstf _ _ _ _ _ => RoundTrip.vstf _ _ _ _ _
  | .vgat _ _ _ _ => RoundTrip.vgat _ _ _ _
  | .vsca _ _ _ => RoundTrip.vsca _ _ _
  | .vldt _ _ _ _ => RoundTrip.vldt _ _ _ _
  | .vpoly _ _ _ => RoundTrip.vpoly _ _ _
  | .ppload _ => RoundTrip.ppload _
  | .gang _ _ => RoundTrip.gang _ _
  | .gmeet _ => RoundTrip.gmeet _
  | .gleave => RoundTrip.gleave
  | .mloads _ _ _ _ => RoundTrip.mloads _ _ _ _
  | .mswap _ _ => RoundTrip.mswap _ _
  | .mstream _ _ _ _ _ => RoundTrip.mstream _ _ _ _ _
  | .mzero _ _ _ => RoundTrip.mzero _ _ _
  | .mread _ _ _ _ => RoundTrip.mread _ _ _ _
  | .mstore _ _ _ _ _ => RoundTrip.mstore _ _ _ _ _
  | .mscale _ _ _ => RoundTrip.mscale _ _ _
  | .mweight _ => RoundTrip.mweight _
  | .mstat _ => RoundTrip.mstat _
  | .send _ _ _ _ _ => RoundTrip.send _ _ _ _ _
  | .sendw _ _ _ _ _ => RoundTrip.sendw _ _ _ _ _
  | .halt => RoundTrip.halt
  | .nop => RoundTrip.nop
  | .yield => RoundTrip.yield
  | .brk => RoundTrip.brk
  | .hret => RoundTrip.hret
  | .cnew _ _ _ _ => RoundTrip.cnew _ _ _ _
  | .cdec _ => RoundTrip.cdec _
  | .cspawn _ _ _ _ _ => RoundTrip.cspawn _ _ _ _ _
  | .cjoin _ _ _ _ => RoundTrip.cjoin _ _ _ _
  | .cdone _ => RoundTrip.cdone _
  | .binit _ _ => RoundTrip.binit _ _
  | .barr _ _ _ => RoundTrip.barr _ _ _
  | .bwait _ _ => RoundTrip.bwait _ _
  | .btest _ _ _ => RoundTrip.btest _ _ _
  | .pacq _ _ _ => RoundTrip.pacq _ _ _
  | .prel _ _ => RoundTrip.prel _ _
  | .pfill _ _ _ _ => RoundTrip.pfill _ _ _ _
  | .qlaunch _ _ _ _ => RoundTrip.qlaunch _ _ _ _
  | .qstat _ _ _ _ => RoundTrip.qstat _ _ _ _
  | .spstat _ _ _ _ => RoundTrip.spstat _ _ _ _
  | .spstatClr _ _ _ _ => RoundTrip.spstatClr _ _ _ _
  | .spstatSt _ _ _ => RoundTrip.spstatSt _ _ _
  | .nload _ _ _ _ _ => RoundTrip.nload _ _ _ _ _
  | .nstore _ _ _ _ _ => RoundTrip.nstore _ _ _ _ _
  | .ndel _ _ _ _ _ => RoundTrip.ndel _ _ _ _ _
  | .ninit _ _ _ _ => RoundTrip.ninit _ _ _ _
  | .nsnap _ _ _ => RoundTrip.nsnap _ _ _
  | .nsnapRel _ _ _ _ => RoundTrip.nsnapRel _ _ _ _
  | .nfree _ _ _ => RoundTrip.nfree _ _ _
  | .nstat _ _ _ _ => RoundTrip.nstat _ _ _ _
  | .ptload _ _ _ => RoundTrip.ptload _ _ _
  | .rngset _ _ _ => RoundTrip.rngset _ _ _
  | .tlbinv _ _ _ => RoundTrip.tlbinv _ _ _
  | .l1inv => RoundTrip.l1inv
  | .l2wb _ _ _ => RoundTrip.l2wb _ _ _
  | .heatrd _ _ _ => RoundTrip.heatrd _ _ _
  | .heatage _ _ _ => RoundTrip.heatage _ _ _
  | .pfreplay _ _ _ => RoundTrip.pfreplay _ _ _
  | .ckpt _ _ _ => RoundTrip.ckpt _ _ _
  | .trap _ => RoundTrip.trap _
  | .tret _ _ => RoundTrip.tret _ _
  | .tretKill _ _ => RoundTrip.tretKill _ _
  | .tretFrz _ _ => RoundTrip.tretFrz _ _
  | .mfs _ _ => RoundTrip.mfs _ _
  | .mts _ _ => RoundTrip.mts _ _
  | .cfreeze _ _ => RoundTrip.cfreeze _ _
  | .cthaw _ _ => RoundTrip.cthaw _ _
  | .cswapIn _ _ => RoundTrip.cswapIn _ _
  | .cswapFast _ _ => RoundTrip.cswapFast _ _
  | .cswapOut _ _ => RoundTrip.cswapOut _ _
  | .cswapCreate _ _ => RoundTrip.cswapCreate _ _
  | .cswapSeal _ _ => RoundTrip.cswapSeal _ _
  | .cswapReset _ _ => RoundTrip.cswapReset _ _
  | .wpset _ _ _ => RoundTrip.wpset _ _ _
  | .lstat _ _ => RoundTrip.lstat _ _
  | .lstatQuiesce _ _ => RoundTrip.lstatQuiesce _ _
  | .lstatResume _ _ => RoundTrip.lstatResume _ _
  | .lstatIsolate _ _ => RoundTrip.lstatIsolate _ _
  | .lstatRetrain _ _ => RoundTrip.lstatRetrain _ _
  | .lstatRelink _ _ => RoundTrip.lstatRelink _ _
  | .lstatClr _ _ => RoundTrip.lstatClr _ _
  | .lstatDquiesce _ _ => RoundTrip.lstatDquiesce _ _
  | .lstatDflush _ _ => RoundTrip.lstatDflush _ _
  | .lstatDreset _ _ => RoundTrip.lstatDreset _ _
  | .lstatDadmit _ _ => RoundTrip.lstatDadmit _ _
  | .qcmdOpen _ _ => RoundTrip.qcmdOpen _ _
  | .qcmdHalt _ _ => RoundTrip.qcmdHalt _ _
  | .qcmdResume _ _ => RoundTrip.qcmdResume _ _
  | .qcmdClose _ _ => RoundTrip.qcmdClose _ _
  | .carveWrite _ _ => RoundTrip.carveWrite _ _
  | .shallotWrite _ _ => RoundTrip.shallotWrite _ _
  | .doorbell _ _ => RoundTrip.doorbell _ _
  | .devnumWrite _ => RoundTrip.devnumWrite _
  | .replay _ _ => RoundTrip.replay _ _
  | .replayCancel _ _ => RoundTrip.replayCancel _ _
  | .registerWrite _ _ => RoundTrip.registerWrite _ _
  | .doeIdent => RoundTrip.doeIdent
  | .doeReport _ _ => RoundTrip.doeReport _ _
  | .doeInvalidObject _ _ => RoundTrip.doeInvalidObject _ _
  | .coldReset _ _ => RoundTrip.coldReset _ _
  | .messageArrival _ => RoundTrip.messageArrival _
  | .clauseStart _ => RoundTrip.clauseStart _
  | .activationPark _ => RoundTrip.activationPark _
  | .activationResume _ => RoundTrip.activationResume _
  | .waitEnd _ => RoundTrip.waitEnd _
  | .watchdogExpiry _ => RoundTrip.watchdogExpiry _
  | .longLatencyResult _ _ => RoundTrip.longLatencyResult _ _
  | .errorReply _ _ _ _ _ => RoundTrip.errorReply _ _ _ _ _
  | .copyCommandComplete _ _ => RoundTrip.copyCommandComplete _ _
  | .arrayGrant _ => RoundTrip.arrayGrant _
  | .matrixCommandComplete _ => RoundTrip.matrixCommandComplete _
  | .planeRefetch _ _ => RoundTrip.planeRefetch _ _
  | .vpolyRequestTake _ => RoundTrip.vpolyRequestTake _
  | .barrierPhaseComplete _ => RoundTrip.barrierPhaseComplete _
  | .launchTakeUp _ => RoundTrip.launchTakeUp _
  | .groupPlace _ => RoundTrip.groupPlace _
  | .wakeBegin _ => RoundTrip.wakeBegin _
  | .clusterAwake _ => RoundTrip.clusterAwake _
  | .clusterGate _ => RoundTrip.clusterGate _
  | .sliceRotation _ _ => RoundTrip.sliceRotation _ _
  | .launchComplete _ _ => RoundTrip.launchComplete _ _
  | .shadowStart _ => RoundTrip.shadowStart _
  | .shadowCommit _ => RoundTrip.shadowCommit _
  | .reqr _ _ => RoundTrip.reqr _ _
  | .reqw _ _ => RoundTrip.reqw _ _
  | .wb _ _ => RoundTrip.wb _ _
  | .push _ _ => RoundTrip.push _ _
  | .fwdrd _ _ => RoundTrip.fwdrd _ _
  | .fwdwr _ _ => RoundTrip.fwdwr _ _
  | .inv _ _ => RoundTrip.inv _ _
  | .recall _ _ => RoundTrip.recall _ _
  | .updin _ _ => RoundTrip.updin _ _
  | .data _ _ => RoundTrip.data _ _
  | .dataex _ _ => RoundTrip.dataex _ _
  | .ack _ _ => RoundTrip.ack _ _
  | .wbdone _ _ => RoundTrip.wbdone _ _
  | .nack _ _ => RoundTrip.nack _ _
  | .evi _ _ => RoundTrip.evi _ _
  | .atsCompletion _ _ _ _ => RoundTrip.atsCompletion _ _ _ _
  | .atsInvalidation _ _ _ => RoundTrip.atsInvalidation _ _ _
  | .faultRingRecheck _ => RoundTrip.faultRingRecheck _
  | .indexAccept _ _ => RoundTrip.indexAccept _ _
  | .indexApply _ _ => RoundTrip.indexApply _ _
  | .nloadComplete _ _ => RoundTrip.nloadComplete _ _
  | .indexReclaim _ _ => RoundTrip.indexReclaim _ _
  | .checkpointComplete _ => RoundTrip.checkpointComplete _
  | .contextResetDone _ => RoundTrip.contextResetDone _
  | .linkTrained _ _ => RoundTrip.linkTrained _ _
  | .linkTrainingTimeout _ _ => RoundTrip.linkTrainingTimeout _ _
  | .linkRetryLimit _ _ => RoundTrip.linkRetryLimit _ _
  | .retrainRequest _ _ => RoundTrip.retrainRequest _ _
  | .linkDeclaredDown _ _ => RoundTrip.linkDeclaredDown _ _
  | .linkAutoRetrain _ _ => RoundTrip.linkAutoRetrain _ _
  | .podBarrierLoss _ => RoundTrip.podBarrierLoss _
  | .dieResetDone _ => RoundTrip.dieResetDone _
  | .powerSample _ => RoundTrip.powerSample _
  | .thermalSample _ _ _ _ => RoundTrip.thermalSample _ _ _ _
  | .illegalInstruction _ => RoundTrip.illegalInstruction _
  | .fetchFault => RoundTrip.fetchFault

/-- A word has 32 bits when bit 0 is set and 16 when it is clear (R55). -/
theorem encodeWord_length {i : Instr} {n w : Nat} (he : encodeWord i = some (n, w)) : n = 16 + 16 * (w % 2) := by
  cases i <;> cases he <;> omega

/-- The fields of a word do not overlap, so it fits its length (R67, R71). -/
theorem encodeWord_lt {i : Instr} {n w : Nat} (hwf : i.wf = true) (he : encodeWord i = some (n, w)) : w < 2 ^ n := by
  cases i <;> cases he <;> simp only [Instr.wf, decide_eq_true_eq] at hwf
  all_goals try have hw := iw_code_lt ‹IW›
  all_goals try have hw := fw_code_lt ‹FW›
  all_goals omega

@[simp] theorem length_valBytes (n v : Nat) : (valBytes n v).length = n := by
  induction n generalizing v with
  | zero => rfl
  | succ n ih => rw [valBytes, List.length_cons, ih]

theorem bytesVal_valBytes (n v : Nat) : bytesVal (valBytes n v) = v % 256 ^ n := by
  induction n generalizing v with
  | zero => simp [valBytes, bytesVal, Nat.mod_one]
  | succ n ih => simp [valBytes, bytesVal, ih, pow_succ', Nat.mod_mul]

theorem decode_valBytes_four {w : Nat} {i : Instr} (rest : List (BitVec 8)) (hodd : w % 2 = 1) (hw : w < 2 ^ 32)
    (hd : decodeWord w = .ok i) : decode (valBytes 4 w ++ rest) = .ok (i, 4) := by
  have hval : bytesVal (valBytes 4 w) = w := by rw [bytesVal_valBytes]; omega
  have hbit : (BitVec.ofNat 8 w).toNat % 2 = 1 := by rw [BitVec.toNat_ofNat]; omega
  simp only [valBytes] at hval
  simp only [valBytes, List.cons_append, List.nil_append, decode, hbit, if_true, hval, hd]
  rfl

theorem decode_valBytes_two {w : Nat} {i : Instr} (rest : List (BitVec 8)) (heven : w % 2 = 0) (hw : w < 2 ^ 16)
    (hd : decodeWord w = .ok i) : decode (valBytes 2 w ++ rest) = .ok (i, 2) := by
  have hval : bytesVal (valBytes 2 w) = w := by rw [bytesVal_valBytes]; omega
  have hbit : ¬ (BitVec.ofNat 8 w).toNat % 2 = 1 := by rw [BitVec.toNat_ofNat]; omega
  simp only [valBytes] at hval
  simp only [valBytes, List.cons_append, List.nil_append, decode, hbit, if_false, hval, hd]
  rfl

/-- Settles O4: each constructor's word decodes to it, and bit 0 gives the decoder the length that the encoder laid out. -/
theorem decodeEncode : Obligations.DecodeEncode := by
  refine ⟨fun i n w hwf he => roundTrip i n w hwf he, fun i bs rest hwf he => ?_⟩
  obtain ⟨⟨n, w⟩, hw, rfl⟩ := Option.map_eq_some_iff.1 he
  have hd := roundTrip i n w hwf hw
  have hlt := encodeWord_lt hwf hw
  have hlen := encodeWord_length hw
  rcases Nat.mod_two_eq_zero_or_one w with hbit | hbit
  · obtain rfl : n = 16 := by omega
    simpa using decode_valBytes_two rest hbit hlt hd
  · obtain rfl : n = 32 := by omega
    simpa using decode_valBytes_four rest hbit hlt hd

end Sys2Proof.Laws
end

section
/-!
SUPPORT. The steps of the coherence protocols: each takes a message and answers the state that its row gives (19 R359 to R372).
-/

namespace Sys2Proof.Machine

/-- What a coherence step makes of the first message of its kind: `f` of it and of the state without it, or the state as it was. -/
def State.onMsg (s : State) (ev die line : Nat) (f : CohMsg → State → State) : State :=
  match s.takeMsg ev die line with
  | none => s
  | some (m, u) => f m u

section OnMsg

variable {s : State} {i : Instr} {ev die line : Nat} {m : CohMsg} {f : CohMsg → State → State}

theorem State.takeMsg_of_carries (hm : s.coh.msgs.find? (fun m => m.ev == ev && m.die == die && m.line == line) = some m)
    (hc : s.carries m = true) : s.takeMsg ev die line = some (m, s.modCoh fun h => { h with msgs := h.msgs.erase m }) := by
  simp [State.takeMsg, hm, hc]

theorem State.takeMsg_of_held (h : s.coh.msgs.find? (fun m => m.ev == ev && m.die == die && m.line == line) = none
    ∨ (s.coh.msgs.find? (fun m => m.ev == ev && m.die == die && m.line == line) = some m ∧ s.carries m = false)) :
    s.takeMsg ev die line = none := by
  rcases h with hm | ⟨hm, hc⟩ <;> simp [State.takeMsg, *]

/-- A step whose message the links let through answers what it makes of it. -/
theorem Runs.of_msg {P : State → Prop} (hexec : exec i s = .next (s.onMsg ev die line f))
    (h : s.coh.msgs.find? (fun m => m.ev == ev && m.die == die && m.line == line) = some m ∧ s.carries m = true)
    (hP : P (f m (s.modCoh fun h => { h with msgs := h.msgs.erase m }))) : Runs i s P :=
  ⟨_, hexec.trans (by rw [State.onMsg, State.takeMsg_of_carries h.1 h.2]), hP⟩

/-- A step without a message, or with one that the links hold, changes nothing. -/
theorem exec_of_noMsg (hexec : exec i s = .next (s.onMsg ev die line f))
    (h : s.coh.msgs.find? (fun m => m.ev == ev && m.die == die && m.line == line) = none
      ∨ (s.coh.msgs.find? (fun m => m.ev == ev && m.die == die && m.line == line) = some m ∧ s.carries m = false)) :
    exec i s = .next s := by
  rw [hexec, State.onMsg, State.takeMsg_of_held h]

/-- A step keeps every byte but heat words when what it makes of its message does. -/
theorem KeepsBytes.onMsg (hf : ∀ m u, KeepsBytes u (f m u)) : KeepsBytes s (s.onMsg ev die line f) := by
  unfold State.onMsg
  split
  · exact KeepsBytes.refl s
  next m u h => exact (KeepsBytes.take h).trans (hf m u)

theorem Runs.of_keeps {t : State} (hexec : exec i s = .next t) (h : KeepsBytes s t) : Runs i s (KeepsBytes s) := ⟨t, hexec, h⟩

end OnMsg

/-- Pushed bytes at a holder break reservations and take the copy's row (R364, R367). -/
def State.updated (s : State) (die line : Nat) (m : CohMsg) : State :=
  match (s.breakResv die line).coh.copies.get? (line * 8 + die) with
  | none => s.breakResv die line
  | some c => (s.breakResv die line).present die 8 c m

section Copies

variable {s : State} {die line : Nat} {m : CohMsg} {c : Copy}

theorem State.updated_of_none (h : s.coh.copies.get? (line * 8 + die) = none) : s.updated die line m = s.breakResv die line := by
  have h' : (s.breakResv die line).coh.copies.get? (line * 8 + die) = none := h
  rw [State.updated, h']

theorem State.updated_of_some (h : s.coh.copies.get? (line * 8 + die) = some c) :
    s.updated die line m = (s.breakResv die line).present die 8 c m := by
  have h' : (s.breakResv die line).coh.copies.get? (line * 8 + die) = some c := h
  rw [State.updated, h']

theorem State.replace_of_none (h : s.coh.copies.get? (line * 8 + die) = none) : s.replace die line = s := by
  rw [State.replace, h]

theorem State.replace_of_some (h : s.coh.copies.get? (line * 8 + die) = some c) :
    s.replace die line = s.present die 3 c { ev := 3, die := die, line := line, src := die, pid := c.pid, owner := c.owner } := by
  rw [State.replace, h]

end Copies

theorem KeepsBytes.updated (s : State) (d l m) : KeepsBytes s (s.updated d l m) := by
  unfold State.updated
  split
  · exact KeepsBytes.resv ..
  · exact (KeepsBytes.resv ..).trans (KeepsBytes.present ..)

/-- A write-back at the home (R363). -/
def State.wroteHome (s : State) (line : Nat) (m : CohMsg) : State :=
  if m.src = 8 then ((s.wroteBack line).sendCoh { m with ev := 12, bytes := [] }).answer line
  else (s.wroteBack line).sendCoh { m with ev := 12, bytes := [] }

theorem KeepsBytes.wroteHome (s : State) (l m) (h : inFar (l * 128) = false) : KeepsBytes s (s.wroteHome l m) := by
  have hback := (KeepsBytes.wrote s l h).trans (KeepsBytes.send (s.wroteBack l) { m with ev := 12, bytes := [] })
  unfold State.wroteHome
  split
  · exact hback.trans (KeepsBytes.answer ..)
  · exact hback

/-- Settles O60, with the laws of the parts: each step's share of the protocol keeps every byte but those of heat words. -/
theorem coherenceKeepsMemory : Obligations.CoherenceKeepsMemory := by
  intro s die line
  have home : ∀ m u, KeepsBytes u (State.homeArrive u m) := fun m u => KeepsBytes.arriveHome u m
  have holder : ∀ ev m u, KeepsBytes u (State.forwarded u die line ev m) := fun ev m u => KeepsBytes.forwarded u die line ev m
  have data : ∀ ev m u, KeepsBytes u (State.arrive u die line ev m) := fun ev m u => KeepsBytes.arrive u die line ev m
  have told : ∀ ev m u, KeepsBytes u (State.told u die line ev m) := fun ev m u => KeepsBytes.told u die line ev m
  refine ⟨⟨Runs.of_keeps rfl (KeepsBytes.onMsg home), Runs.of_keeps rfl (KeepsBytes.onMsg home),
    Runs.of_keeps rfl (KeepsBytes.onMsg (holder 4)), Runs.of_keeps rfl (KeepsBytes.onMsg (holder 5)),
    Runs.of_keeps rfl (KeepsBytes.onMsg (holder 6)), Runs.of_keeps rfl (KeepsBytes.onMsg fun m u => KeepsBytes.updated u die line m),
    Runs.of_keeps rfl (KeepsBytes.onMsg (data 9)), Runs.of_keeps rfl (KeepsBytes.onMsg (data 10)),
    Runs.of_keeps rfl (KeepsBytes.onMsg fun m u => KeepsBytes.acked u line m.n), Runs.of_keeps rfl (KeepsBytes.onMsg (told 12)),
    Runs.of_keeps rfl (KeepsBytes.onMsg (told 13)), Runs.of_keeps rfl (KeepsBytes.replace s die line)⟩, fun hfar => ⟨?_, ?_⟩⟩
  · exact Runs.of_keeps rfl (KeepsBytes.onMsg fun m u => KeepsBytes.wroteHome u line m hfar)
  · exact Runs.of_keeps rfl (KeepsBytes.onMsg fun m u => (KeepsBytes.wrote u line hfar).trans (KeepsBytes.arriveHome _ m))

/-- Settles O59: each step is `onMsg` of its share of the protocol. -/
theorem coherenceSteps : Obligations.CoherenceSteps := by
  intro s die line m c
  refine ⟨fun h => Runs.of_msg rfl h rfl, fun h => Runs.of_msg rfl h rfl, fun h => Runs.of_msg rfl h rfl,
    fun h => Runs.of_msg rfl h rfl, fun h => Runs.of_msg rfl h rfl, fun h => Runs.of_msg rfl h rfl, fun h => Runs.of_msg rfl h rfl,
    fun h => ⟨fun hsrc => Runs.of_msg rfl h (if_pos hsrc), fun hsrc => Runs.of_msg rfl h (if_neg hsrc)⟩,
    fun h => ⟨fun hc => Runs.of_msg (f := fun m u => u.updated die line m) rfl h ?noCopy,
      fun hc => Runs.of_msg (f := fun m u => u.updated die line m) rfl h ?copy⟩,
    fun h => Runs.of_msg rfl h rfl, fun h => Runs.of_msg rfl h rfl, fun h => Runs.of_msg rfl h rfl, fun h => Runs.of_msg rfl h rfl,
    fun h => Runs.of_msg rfl h rfl, exec_of_noMsg rfl, exec_of_noMsg rfl, exec_of_noMsg rfl, exec_of_noMsg rfl, exec_of_noMsg rfl,
    exec_of_noMsg rfl, exec_of_noMsg rfl, exec_of_noMsg rfl, exec_of_noMsg rfl, exec_of_noMsg rfl, exec_of_noMsg rfl,
    exec_of_noMsg rfl, exec_of_noMsg rfl, exec_of_noMsg rfl, fun hc => ?evi, fun hc => ⟨_, rfl, ?evict⟩⟩
  case noCopy => exact State.updated_of_none hc
  case copy => exact State.updated_of_some hc
  case evi => exact congrArg Host.Outcome.next (State.replace_of_none hc)
  case evict => exact State.replace_of_some hc

end Sys2Proof.Machine
end

section
/-!
SUPPORT. Cold reset, and the words that the manual writes out.
-/

namespace Sys2Proof.Machine

/-- Settles O1, by evaluating the state of reset: it lists no link, no context, no die but at its reset value, no activation and no byte. -/
theorem resetState : Obligations.ResetState :=
  ⟨⟨fun _ => rfl, rfl, rfl, rfl, rfl, rfl, rfl, rfl, fun _ => ⟨rfl, rfl, rfl, rfl, rfl⟩, fun _ => ⟨rfl, rfl⟩, rfl⟩,
    State.reset_mem_wf, fun _ => rfl⟩

/-- Settles O5, with the round trip: each word is the one that the encoder gives its instruction. -/
theorem decodeWords : Obligations.DecodeWords :=
  ⟨Laws.RoundTrip.fadd .f32 9 6 7 1 32 _ rfl rfl, Laws.RoundTrip.cSk 5 1 2 16 _ rfl rfl,
    Laws.RoundTrip.lstatDreset 5 6 32 _ rfl rfl⟩

end Sys2Proof.Machine
end

section
/-!
SUPPORT. Integer results (05 R105): what `res` and `sat` give as 64-bit patterns.
-/

namespace Sys2Proof.Machine

theorem wint_lt (y : Int) : wint y < 2 ^ 64 := by unfold wint; omega

/-- The two's complement reading of n bits stays in its range and is the value modulo 2^n. -/
theorem sint_spec (v : Nat) {n : Nat} (hn : 0 < n) :
    -2 ^ (n - 1) ≤ sint v n ∧ sint v n < 2 ^ (n - 1) ∧ (2 ^ n : Int) ∣ sint v n - v := by
  obtain ⟨k, rfl⟩ : ∃ k, n = k + 1 := ⟨n - 1, by omega⟩
  have hp : (2 : Int) ^ (k + 1) = 2 * 2 ^ k := by rw [pow_succ]; ring
  have hlt : v % 2 ^ (k + 1) < 2 ^ (k + 1) := Nat.mod_lt _ (by positivity)
  have hmod : ((v % 2 ^ (k + 1) : Nat) : Int) = v - 2 ^ (k + 1) * (v / 2 ^ (k + 1) : Nat) := by
    have := Nat.div_add_mod v (2 ^ (k + 1)); push_cast; rw [← Int.emod_def]
  have hn' : 2 ^ (k + 1) = 2 * 2 ^ k := by rw [pow_succ]; ring
  have hcast : ((2 ^ k : Nat) : Int) = 2 ^ k := by push_cast; rfl
  unfold sint
  simp only [Nat.add_sub_cancel]
  split
  · refine ⟨by omega, by omega, -(v / 2 ^ (k + 1) : Nat), ?_⟩
    rw [hmod]; ring
  · refine ⟨by omega, by omega, -(v / 2 ^ (k + 1) : Nat) - 1, ?_⟩
    rw [hmod]; ring

theorem imod_dvd (y : Int) (n : Nat) : (2 ^ n : Int) ∣ imod y n - y := by
  have hpos : (0 : Int) < 2 ^ n := by positivity
  have h0 : 0 ≤ y % 2 ^ n := Int.emod_nonneg y hpos.ne'
  have h1 : ((imod y n : Nat) : Int) = y % 2 ^ n := by simp [imod, h0]
  rw [h1, Int.emod_def]
  exact ⟨-(y / 2 ^ n), by ring⟩

theorem imod_lt (y : Int) (n : Nat) : imod y n < 2 ^ n := by
  have hpos : (0 : Int) < 2 ^ n := by positivity
  have h : y % 2 ^ n < 2 ^ n := Int.emod_lt_of_pos y hpos
  have h0 : 0 ≤ y % 2 ^ n := Int.emod_nonneg y hpos.ne'
  zify
  simpa [imod, h0] using h

theorem eq_of_dvd_of_range {a b lo m : Int} (hd : m ∣ a - b) (ha : lo ≤ a ∧ a < lo + m) (hb : lo ≤ b ∧ b < lo + m) : a = b := by
  have h : a - b = 0 := Int.eq_zero_of_abs_lt_dvd hd (by rw [abs_lt]; omega)
  omega

/-- The residue of a value, read in two's complement, is the value when it is in range. -/
theorem sint_imod_of_range {y : Int} {n : Nat} (hn : 0 < n) (h : -2 ^ (n - 1) ≤ y ∧ y < 2 ^ (n - 1)) :
    sint (imod y n) n = y := by
  obtain ⟨hlo, hhi, hd⟩ := sint_spec (imod y n) hn
  have hp : (2 : Int) ^ n = 2 ^ (n - 1) + 2 ^ (n - 1) := by
    obtain ⟨k, rfl⟩ : ∃ k, n = k + 1 := ⟨n - 1, by omega⟩
    rw [Nat.add_sub_cancel, pow_succ]; ring
  refine eq_of_dvd_of_range (m := 2 ^ n) (lo := -2 ^ (n - 1)) ?_ ⟨hlo, by omega⟩ ⟨h.1, by omega⟩
  have := dvd_add hd (imod_dvd y n)
  rwa [sub_add_sub_cancel] at this

theorem imod_of_range {y : Int} {n : Nat} (h : 0 ≤ y ∧ y < 2 ^ n) : (imod y n : Int) = y := by
  have hlt := imod_lt y n
  zify at hlt
  exact eq_of_dvd_of_range (imod_dvd y n) ⟨Int.natCast_nonneg _, by omega⟩ ⟨h.1, by omega⟩

theorem wint_dvd (y : Int) : (2 ^ 64 : Int) ∣ wint y - y := imod_dvd y 64

theorem toInt_ofNat_wint {z : Int} (h : -2 ^ 63 ≤ z ∧ z < 2 ^ 63) : (BitVec.ofNat 64 (wint z)).toInt = z := by
  rw [BitVec.toInt_eq_toNat_bmod, BitVec.toNat_ofNat, Int.bmod_def, wint]
  omega

theorem nbits_pos (w : IW) : 0 < nbits w := by cases w <;> decide

theorem nbits_le (w : IW) : nbits w ≤ 64 := by cases w <;> decide

theorem res_lt (w : IW) (y : Int) : res w y < 2 ^ 64 := by
  unfold res
  split
  · exact wint_lt _
  · exact (imod_lt _ _).trans_le (Nat.pow_le_pow_right (by omega) (nbits_le w))

/-- A result is the value modulo 2^n. -/
theorem res_dvd (w : IW) (y : Int) : (2 ^ nbits w : Int) ∣ res w y - y := by
  unfold res
  split
  · have h64 : (2 ^ nbits w : Int) ∣ 2 ^ 64 := pow_dvd_pow 2 (nbits_le w)
    have h1 := h64.trans (wint_dvd (sint (imod y (nbits w)) (nbits w)))
    have h2 := dvd_add (dvd_add h1 (sint_spec (imod y (nbits w)) (nbits_pos w)).2.2) (imod_dvd y (nbits w))
    rwa [sub_add_sub_cancel, sub_add_sub_cancel] at h2
  · exact imod_dvd _ _

/-- A signed result is the n-bit residue read in two's complement. -/
theorem toInt_res {w : IW} (hw : wSigned w = true) (y : Int) :
    (BitVec.ofNat 64 (res w y)).toInt = sint (imod y (nbits w)) (nbits w) := by
  obtain ⟨hlo, hhi, -⟩ := sint_spec (imod y (nbits w)) (nbits_pos w)
  have hp : (2 : Int) ^ (nbits w - 1) ≤ 2 ^ 63 := pow_le_pow_right₀ (by norm_num) (by have := nbits_le w; omega)
  rw [res, if_pos hw]
  exact toInt_ofNat_wint ⟨by omega, by omega⟩

theorem clampInt_eq (y : Int) {lo hi : Int} (h : lo ≤ hi) : clampInt y lo hi = max lo (min y hi) := by
  unfold clampInt
  split_ifs <;> omega

theorem sat_signed {w : IW} (hw : wSigned w = true) (y : Int) :
    (BitVec.ofNat 64 (sat w y)).toInt = max (-2 ^ (nbits w - 1)) (min y (2 ^ (nbits w - 1) - 1)) := by
  have hpos : (0 : Int) < 2 ^ (nbits w - 1) := by positivity
  rw [sat, if_pos hw, toInt_res hw, clampInt_eq y (by omega)]
  refine sint_imod_of_range (nbits_pos w) ?_
  omega

theorem sat_unsigned {w : IW} (hw : wSigned w = false) (y : Int) : (sat w y : Int) = max 0 (min y (2 ^ nbits w - 1)) := by
  have hpos : (0 : Int) < 2 ^ nbits w := by positivity
  rw [sat, if_neg (by simp [hw]), res, if_neg (by simp [hw]), clampInt_eq y (by omega)]
  refine imod_of_range ?_
  omega

/-- Settles O7, with the laws of the two's complement reading. -/
theorem resultExtension : Obligations.ResultExtension := by
  intro w y
  refine ⟨res_lt w y, Int.emod_eq_zero_of_dvd (res_dvd w y), fun hw => ?_, fun hw => ?_, fun hw => sat_signed hw y, fun hw => sat_unsigned hw y⟩
  · obtain ⟨hlo, hhi, -⟩ := sint_spec (imod y (nbits w)) (nbits_pos w)
    rw [toInt_res hw]
    exact ⟨hlo, hhi⟩
  · rw [res, if_neg (by simp [hw])]
    exact imod_lt y (nbits w)

end Sys2Proof.Machine
end

section
/-!
SUPPORT. Bit counts, reversals and field moves (05 R109, R110): which bits of the result come from where.
-/

namespace Sys2Proof.Machine

theorem clzN_spec {n v : Nat} (hv : v < 2 ^ n) :
    v < 2 ^ (n - clzN n v) ∧ clzN n v ≤ n ∧ (clzN n v < n → 2 ^ (n - clzN n v - 1) ≤ v) := by
  unfold clzN
  simp only [Nat.mod_eq_of_lt hv]
  split
  · next h0 => subst h0; exact ⟨by positivity, le_rfl, fun h => absurd h (lt_irrefl n)⟩
  · next h0 =>
    have hlog : v.log2 < n := (Nat.log2_lt h0).2 hv
    rw [show n - (n - 1 - v.log2) = v.log2 + 1 by omega, Nat.add_sub_cancel]
    exact ⟨Nat.lt_log2_self, by omega, fun _ => Nat.log2_self_le h0⟩

theorem ctzN_spec (n v : Nat) : v % 2 ^ ctzN n v = 0 ∧ ctzN n v ≤ n ∧ (ctzN n v < n → v / 2 ^ ctzN n v % 2 = 1) := by
  induction n generalizing v with
  | zero => exact ⟨Nat.mod_one _, le_rfl, fun h => absurd h (lt_irrefl 0)⟩
  | succ n ih =>
    obtain ⟨hzero, hle, hone⟩ := ih (v / 2)
    unfold ctzN
    split
    · next hbit => exact ⟨Nat.mod_one _, by omega, fun _ => by simpa using hbit⟩
    · next hbit =>
      refine ⟨?_, by omega, fun h => ?_⟩
      · rw [pow_add, pow_one, Nat.mod_mul, hzero]; omega
      · rw [pow_add, pow_one, ← Nat.div_div_eq_div_mul]; exact hone (by omega)

theorem popc_eq_countP (n v : Nat) : popc n v = (List.range n).countP fun i => v.testBit i := by
  induction n generalizing v with
  | zero => rfl
  | succ n ih =>
    rw [popc, ih, List.range_succ_eq_map, List.countP_cons, List.countP_map, Nat.add_comm]
    congr 1
    · exact List.countP_congr fun i _ => by simp [Nat.testBit_succ]
    · rcases Nat.mod_two_eq_zero_or_one v with h | h <;> simp [Nat.testBit_zero, h]

theorem brevN_lt (n v : Nat) : brevN n v < 2 ^ n := by
  induction n generalizing v with
  | zero => simp [brevN]
  | succ n ih =>
    have hrest := ih (v / 2)
    rw [brevN, pow_succ]
    rcases Nat.mod_two_eq_zero_or_one v with h | h <;> rw [h] <;> omega

/-- Bit i of a value is bit n - 1 - i of its reversal. -/
theorem testBit_brevN {n i : Nat} (v : Nat) (hi : i < n) : (brevN n v).testBit (n - 1 - i) = v.testBit i := by
  induction n generalizing v i with
  | zero => omega
  | succ n ih =>
    rw [brevN, Nat.mul_comm, Nat.testBit_two_pow_mul_add _ (brevN_lt n _)]
    cases i with
    | zero => simp [Nat.testBit_zero]
    | succ i =>
      rw [if_pos (by omega), show n + 1 - 1 - (i + 1) = n - 1 - i by omega, ih _ (by omega), Nat.testBit_succ]

theorem bswapN_lt (n v : Nat) : bswapN n v < 256 ^ n := by
  induction n generalizing v with
  | zero => simp [bswapN]
  | succ n ih =>
    have hrest := ih (v / 256)
    have hbyte : v % 256 + 1 ≤ 256 := Nat.mod_lt v (by decide)
    calc v % 256 * 256 ^ n + bswapN n (v / 256) < v % 256 * 256 ^ n + 256 ^ n := by omega
      _ = (v % 256 + 1) * 256 ^ n := by ring
      _ ≤ 256 * 256 ^ n := Nat.mul_le_mul_right _ hbyte
      _ = 256 ^ (n + 1) := by rw [pow_succ']

/-- Byte j of a value is byte n - 1 - j of its reversal. -/
theorem byte_bswapN {n j : Nat} (v : Nat) (hj : j < n) : bswapN n v / 256 ^ (n - 1 - j) % 256 = v / 256 ^ j % 256 := by
  induction n generalizing v j with
  | zero => omega
  | succ n ih =>
    rw [bswapN]
    cases j with
    | zero =>
      rw [Nat.sub_zero, Nat.add_sub_cancel, Nat.add_comm, Nat.add_mul_div_right _ _ (by positivity),
        Nat.div_eq_of_lt (bswapN_lt n _)]
      simp
    | succ j =>
      have hsplit : 256 ^ n = 256 ^ (n - 1 - j) * (256 * 256 ^ j) := by rw [← pow_succ', ← pow_add]; congr 1; omega
      rw [show n + 1 - 1 - (j + 1) = n - 1 - j by omega, hsplit, Nat.add_comm, Nat.mul_left_comm,
        Nat.add_mul_div_left _ _ (by positivity), Nat.mul_left_comm, Nat.add_mul_mod_self_left, ih _ (by omega), Nat.div_div_eq_div_mul,
        ← pow_succ']

/-- A field is replaced by the low bits of another value, and the other bits are kept (R110). -/
theorem testBit_setBits (v lo n f i : Nat) :
    (setBits v lo n f).testBit i = if lo ≤ i ∧ i < lo + n then f.testBit (i - lo) else v.testBit i := by
  have hpack : setBits v lo n f = 2 ^ lo * (2 ^ n * (v / 2 ^ (lo + n)) + f % 2 ^ n) + v % 2 ^ lo := by
    rw [setBits, pow_add]; ring
  rw [hpack, Nat.testBit_two_pow_mul_add _ (Nat.mod_lt _ (by positivity)),
    Nat.testBit_two_pow_mul_add _ (Nat.mod_lt _ (by positivity)), Nat.testBit_mod_two_pow, Nat.testBit_mod_two_pow, Nat.testBit_div_two_pow]
  by_cases hlo : i < lo
  · simp [hlo]
  · by_cases hhi : i < lo + n
    · have h : i - lo < n := by omega
      simp [hlo, h, hhi, Nat.le_of_not_lt hlo]
    · have h : ¬ i - lo < n := by omega
      have he : lo + n + (i - lo - n) = i := by omega
      simp [hlo, h, hhi, Nat.add_comm _ (lo + n), he]

theorem ureg_lt (s : State) (w : IW) (k : Nat) : s.ureg w k < 2 ^ nbits w := Nat.mod_lt _ (by positivity)

theorem pow_bytes (w : IW) : 256 ^ (nbits w / 8) = 2 ^ nbits w := by cases w <;> decide

/-- Settles O10: each form ends in `put` of its result, whose bits the laws of the counts and reversals give. -/
theorem shiftAndBitFieldResults : Obligations.ShiftAndBitFieldResults := by
  refine ⟨fun s w d a b imm hi hd => ?_, fun s w d a b hd => ?_⟩
  · refine ⟨⟨Runs.of_put rfl hd, Runs.of_put rfl hd⟩, ⟨Runs.of_put rfl hd, Runs.of_put rfl hd⟩,
      ⟨Runs.of_put ?sra hd, Runs.of_put ?sraImm hd⟩, ⟨Runs.of_put rfl hd, Runs.of_put rfl hd⟩,
      ⟨Runs.of_put rfl hd, Runs.of_put rfl hd⟩⟩
    case sra => beta_reduce; rw [← shrI_eq]; rfl
    case sraImm => beta_reduce; rw [← shrI_eq]; rfl
  · have hu := ureg_lt s w a
    refine ⟨⟨_, Runs.of_put rfl hd, clzN_spec hu⟩, ⟨_, Runs.of_put rfl hd, ctzN_spec _ _⟩, Runs.of_put ?pop hd,
      ⟨_, Runs.of_put rfl hd, brevN_lt _ _, fun i hi => testBit_brevN _ hi⟩,
      ⟨_, Runs.of_put rfl hd, ?swapped, fun j hj => byte_bswapN _ hj⟩, Runs.of_put rfl hd, Runs.of_put rfl hd,
      _, Runs.of_put rfl hd, fun i _ => testBit_setBits _ _ _ _ i⟩
    case pop => rw [← popc_eq_countP]; rfl
    case swapped => rw [← pow_bytes]; exact bswapN_lt _ _

end Sys2Proof.Machine
end

section
/-!
SUPPORT. Rounding to odd (02 R38): the significand that it keeps, where it lies, and the image that carries it.
-/

namespace Sys2Proof.Machine

/-! ### Truncation with a sticky bit -/

theorem shiftTrunc_eq (m : Nat) (sh : Int) :
    shiftTrunc m sh = (m * 2 ^ sh.toNat / 2 ^ (-sh).toNat, m * 2 ^ sh.toNat % 2 ^ (-sh).toNat != 0) := by
  cases sh with
  | ofNat n => simp [shiftTrunc, Nat.mod_one]
  | negSucc n => simp [shiftTrunc, Int.neg_negSucc]

/-- m × 2^sh rounded to odd. -/
def oddTrunc (m : Nat) (sh : Int) : Nat :=
  let t := shiftTrunc m sh
  if t.2 && t.1 % 2 == 0 then t.1 + 1 else t.1

/-- The integer that a quotient of naturals rounds to odd as. -/
theorem oddTrunc_spec (m : Nat) (sh : Int) :
    let x := m * 2 ^ sh.toNat
    let d := 2 ^ (-sh).toNat
    (x % d = 0 ∧ oddTrunc m sh = x / d) ∨ (x % d ≠ 0 ∧ oddTrunc m sh % 2 = 1 ∧ x / d ≤ oddTrunc m sh ∧ oddTrunc m sh ≤ x / d + 1) := by
  intro x d
  have ht : shiftTrunc m sh = (x / d, x % d != 0) := shiftTrunc_eq m sh
  by_cases h0 : x % d = 0
  · exact Or.inl ⟨h0, by simp [oddTrunc, ht, h0]⟩
  · refine Or.inr ⟨h0, ?_⟩
    have hne : (x % d != 0) = true := by simpa using h0
    simp only [oddTrunc, ht, hne, Bool.true_and, beq_iff_eq]
    split <;> omega

/-- A value m × 2^e rounded to odd at weight 2^q is itself, or the odd one of the multiples that it lies between. -/
theorem oddTrunc_between (m : Nat) (e q : Int) :
    let n := oddTrunc m (e - q)
    let lo := min e q
    let x := m * 2 ^ (e - lo).toNat
    let y := n * 2 ^ (q - lo).toNat
    let u := 2 ^ (q - lo).toNat
    x = y ∨ (n % 2 = 1 ∧ x < y + u ∧ y < x + u) := by
  intro n lo x y u
  have hspec := oddTrunc_spec m (e - q)
  rw [show (e - q).toNat = (e - lo).toNat by omega, show (-(e - q)).toNat = (q - lo).toNat by omega] at hspec
  change (x % u = 0 ∧ n = x / u) ∨ (x % u ≠ 0 ∧ n % 2 = 1 ∧ x / u ≤ n ∧ n ≤ x / u + 1) at hspec
  have hy : y = u * n := Nat.mul_comm _ _
  have hdiv : u * (x / u) + x % u = x := Nat.div_add_mod x u
  have hmod : x % u < u := Nat.mod_lt _ (by positivity)
  rcases hspec with ⟨h0, hn⟩ | ⟨h0, hodd, hge, hle⟩
  · exact Or.inl (by rw [hy, hn]; omega)
  · have h1 : u * (x / u) ≤ u * n := Nat.mul_le_mul_left _ hge
    have h2 : u * n ≤ u * (x / u) + u := by rw [← Nat.mul_succ]; exact Nat.mul_le_mul_left _ hle
    exact Or.inr ⟨hodd, by omega, by omega⟩

/-! ### The significand at the image precision -/

/-- The exponent of the image that rounds m × 2^e. -/
def Fmt.expOf (f : Fmt) (m : Nat) (e : Int) : Int := max ((Nat.log2 m : Int) + e) (1 - f.bias)

/-- The significand of the image, with its two extension bits. -/
def Fmt.sigOf (f : Fmt) (m : Nat) (e : Int) : Nat := oddTrunc m (e - (f.expOf m e - f.mbits - 2))

/-- The magnitude encoding of a significand at an exponent. -/
def Fmt.encOf (f : Fmt) (k : Int) (sg : Nat) : Nat :=
  if sg < 2 ^ f.mbits then sg else (k + f.bias).toNat * 2 ^ f.mbits + (sg - 2 ^ f.mbits)

theorem rto_fin (f : Fmt) (neg : Bool) {m : Nat} (e : Int) (hm : m ≠ 0) :
    rto f (.fin neg m e) =
      let mag := f.encOf (f.expOf m e) (f.sigOf m e / 4)
      if f.maxEnc < mag then (overflowImage f neg, fIO) else (⟨f.signBit neg + mag, f.sigOf m e % 4⟩, 0) := if_neg hm

/-- A significand without the hidden bit is at the least exponent. -/
theorem Fmt.expOf_of_sigOf_lt (f : Fmt) {m : Nat} (e : Int) (hm : m ≠ 0) (h : f.sigOf m e / 4 < 2 ^ f.mbits) :
    f.expOf m e = 1 - f.bias := by
  by_contra hk
  have hexp : f.expOf m e = (Nat.log2 m : Int) + e := by unfold Fmt.expOf at *; omega
  have hle : 2 ^ (f.mbits + 2) ≤ f.sigOf m e := by
    have hlog : 2 ^ m.log2 ≤ m := Nat.log2_self_le hm
    have htrunc : 2 ^ (f.mbits + 2) ≤ m * 2 ^ (e - (f.expOf m e - f.mbits - 2)).toNat / 2 ^ (-(e - (f.expOf m e - f.mbits - 2))).toNat := by
      rw [Nat.le_div_iff_mul_le (by positivity), ← pow_add]
      calc 2 ^ (f.mbits + 2 + (-(e - (f.expOf m e - f.mbits - 2))).toNat)
          = 2 ^ m.log2 * 2 ^ (e - (f.expOf m e - f.mbits - 2)).toNat := by rw [← pow_add]; congr 1; omega
        _ ≤ m * 2 ^ (e - (f.expOf m e - f.mbits - 2)).toNat := Nat.mul_le_mul_right _ hlog
    rcases oddTrunc_spec m (e - (f.expOf m e - f.mbits - 2)) with ⟨-, heq⟩ | ⟨-, -, hge, -⟩
    · exact htrunc.trans heq.ge
    · exact htrunc.trans hge
  rw [pow_add] at hle
  omega

/-- A significand has at most the hidden bit above its fraction. -/
theorem Fmt.sigOf_lt (f : Fmt) (m : Nat) (e : Int) : f.sigOf m e / 4 < 2 * 2 ^ f.mbits := by
  have hlog : m < 2 ^ (m.log2 + 1) := Nat.lt_log2_self
  have htrunc : m * 2 ^ (e - (f.expOf m e - f.mbits - 2)).toNat / 2 ^ (-(e - (f.expOf m e - f.mbits - 2))).toNat < 8 * 2 ^ f.mbits := by
    rw [Nat.div_lt_iff_lt_mul (by positivity)]
    calc m * 2 ^ (e - (f.expOf m e - f.mbits - 2)).toNat
        < 2 ^ (m.log2 + 1) * 2 ^ (e - (f.expOf m e - f.mbits - 2)).toNat := Nat.mul_lt_mul_of_pos_right hlog (by positivity)
      _ ≤ 2 ^ (3 + f.mbits + (-(e - (f.expOf m e - f.mbits - 2))).toNat) := by
          rw [← pow_add]; exact Nat.pow_le_pow_right (by decide) (by unfold Fmt.expOf; omega)
      _ = 8 * 2 ^ f.mbits * 2 ^ (-(e - (f.expOf m e - f.mbits - 2))).toNat := by rw [pow_add, pow_add]; rfl
  have hspec := oddTrunc_spec m (e - (f.expOf m e - f.mbits - 2))
  change _ ∨ _ at hspec
  have hdef : f.sigOf m e = oddTrunc m (e - (f.expOf m e - f.mbits - 2)) := rfl
  rcases hspec with ⟨-, heq⟩ | ⟨-, hodd, -, hle⟩ <;> omega

/-! ### The image -/

/-- What the formats of R26 have in common: finite encodings are not NaN and lie below the infinity, if there is one. -/
structure Fmt.Sound (f : Fmt) : Prop where
  frac : 1 ≤ f.mbits
  fits : f.maxEnc < 2 ^ (f.ebits + f.mbits)
  inf : f.hasInf = true → f.infEnc = f.maxEnc + 1
  nan : f.hasInf = false → f.hasNaN = true → f.maxEnc < f.nanEnc

theorem Fmt.Sound.isNaNEnc {f : Fmt} (hf : f.Sound) {mag : Nat} (h : mag ≤ f.maxEnc) : f.isNaNEnc mag = false := by
  have hinf := hf.inf
  have hnan := hf.nan
  unfold Fmt.isNaNEnc
  cases hN : f.hasNaN <;> cases hI : f.hasInf <;> simp_all <;> omega

theorem Fmt.Sound.ne_inf {f : Fmt} (hf : f.Sound) {mag : Nat} (h : mag ≤ f.maxEnc) : (f.hasInf && mag == f.infEnc) = false := by
  have hinf := hf.inf
  cases hI : f.hasInf <;> simp_all; omega

/-- The sign and the magnitude of an encoding are read back. -/
theorem Fmt.signBit_add (f : Fmt) (neg : Bool) {mag : Nat} (h : mag < 2 ^ (f.ebits + f.mbits)) :
    bit (f.signBit neg + mag) (f.ebits + f.mbits) = neg ∧ (f.signBit neg + mag) % 2 ^ (f.ebits + f.mbits) = mag := by
  cases neg
  · simp [Fmt.signBit, bit, Nat.div_eq_of_lt h, Nat.mod_eq_of_lt h]
  · simp [Fmt.signBit, bit, Nat.div_eq_of_lt h, Nat.mod_eq_of_lt h, Nat.add_div_left _ (Nat.two_pow_pos _)]

/-- The value of a finite image. -/
theorem imgVal_finite {f : Fmt} (hf : f.Sound) (neg : Bool) {mag : Nat} (t : Nat) (h : mag ≤ f.maxEnc) :
    imgVal f ⟨f.signBit neg + mag, t⟩ =
      .fin neg (4 * (if mag / 2 ^ f.mbits = 0 then mag % 2 ^ f.mbits else mag % 2 ^ f.mbits + 2 ^ f.mbits) + t % 4)
        ((if mag / 2 ^ f.mbits = 0 then 1 else ((mag / 2 ^ f.mbits : Nat) : Int)) - f.bias - f.mbits - 2) := by
  obtain ⟨hneg, hmag⟩ := f.signBit_add neg (h.trans_lt hf.fits)
  simp only [imgVal, hneg, hmag, hf.isNaNEnc h, hf.ne_inf h, Bool.false_eq_true, if_false]

/-- The image of a significand has its value at the image's exponent. -/
theorem imgVal_encOf {f : Fmt} (hf : f.Sound) (neg : Bool) {k : Int} {n : Nat} (hk : 1 - f.bias ≤ k)
    (hlt : n / 4 < 2 * 2 ^ f.mbits) (hsub : n / 4 < 2 ^ f.mbits → k = 1 - f.bias) (h : f.encOf k (n / 4) ≤ f.maxEnc) :
    imgVal f ⟨f.signBit neg + f.encOf k (n / 4), n % 4⟩ = .fin neg n (k - f.mbits - 2) := by
  rw [imgVal_finite hf neg _ h]
  have hpos : 0 < 2 ^ f.mbits := by positivity
  unfold Fmt.encOf
  split
  · next hs =>
    rw [if_pos (Nat.div_eq_of_lt hs), if_pos (Nat.div_eq_of_lt hs), Nat.mod_eq_of_lt hs, hsub hs]
    congr 1
    omega
  · next hs =>
    have hdiv : ((k + f.bias).toNat * 2 ^ f.mbits + (n / 4 - 2 ^ f.mbits)) / 2 ^ f.mbits = (k + f.bias).toNat := by
      rw [Nat.mul_comm, Nat.mul_add_div hpos, Nat.div_eq_of_lt (by omega), Nat.add_zero]
    have hmod : ((k + f.bias).toNat * 2 ^ f.mbits + (n / 4 - 2 ^ f.mbits)) % 2 ^ f.mbits = n / 4 - 2 ^ f.mbits := by
      rw [Nat.mul_comm, Nat.mul_add_mod, Nat.mod_eq_of_lt (by omega)]
    rw [hdiv, hmod, if_neg (by omega), if_neg (by omega)]
    congr 1 <;> omega

theorem Fmt.Sound.of_mem {f : Fmt} (h : f ∈ [fp64, fp32, fp16, bf16, fp8e4, fp8e5]) : f.Sound := by
  simp only [List.mem_cons, List.not_mem_nil, or_false] at h
  rcases h with rfl | rfl | rfl | rfl | rfl | rfl <;> exact ⟨by decide, by decide, by decide, by decide⟩

/-- Settles O15, with the significand that rounding to odd keeps. -/
theorem roundToOdd : Obligations.RoundToOdd := by
  intro f hf neg m e i hi
  have hs := Fmt.Sound.of_mem hf
  rcases eq_or_ne m 0 with rfl | hm
  · obtain rfl : (⟨f.signBit neg, 0⟩ : Image) = i := congrArg Prod.fst hi
    refine ⟨0, 1 - f.bias - f.mbits - 2, ?_, Or.inl (by simp)⟩
    have h := imgVal_finite hs neg 0 (Nat.zero_le f.maxEnc)
    simpa using h
  · rw [rto_fin f neg e hm] at hi
    dsimp only at hi
    split at hi
    · exact absurd (congrArg Prod.snd hi) (by simp [fIO])
    · next hfit =>
      obtain rfl := congrArg Prod.fst hi
      refine ⟨f.sigOf m e, f.expOf m e - f.mbits - 2,
        imgVal_encOf hs neg (le_max_right _ _) (f.sigOf_lt m e) (f.expOf_of_sigOf_lt e hm) (Nat.le_of_not_lt hfit),
        oddTrunc_between m e _⟩

end Sys2Proof.Machine
end

section
/-!
SUPPORT. The final rounding of a value rounded to odd (02 R43, R47): the two extension bits say on which side of the middle it lies.
-/

namespace Sys2Proof.Machine

/-- A number of quarters rounded to odd: its quotient by 4, and how its remainder compares r / den with a half. -/
theorem quarters_of_odd {n q r den : Nat} (hden : 0 < den) (hr : r < den)
    (hn : (4 * r % den = 0 ∧ n = 4 * r / den + 4 * q)
      ∨ (4 * r % den ≠ 0 ∧ n % 2 = 1 ∧ 4 * r / den + 4 * q ≤ n ∧ n ≤ 4 * r / den + 4 * q + 1)) :
    n / 4 = q ∧ (n % 4 = 0 ↔ r = 0) ∧ (n % 4 = 2 ↔ den = 2 * r) ∧ (n % 4 = 3 ↔ den < 2 * r) := by
  have hsplit : den * (4 * r / den) + 4 * r % den = 4 * r := Nat.div_add_mod _ _
  have hlt : 4 * r % den < den := Nat.mod_lt _ hden
  have hc : 4 * r / den < 4 := Nat.div_lt_of_lt_mul (by omega)
  generalize 4 * r / den = c at hsplit hc hn
  generalize 4 * r % den = z at hsplit hlt hn
  interval_cases c <;> omega

/-- What the two extension bits of a value rounded to odd tell: the value is num / den units of the last place above them. -/
theorem oddTrunc_quarters (m : Nat) (e u : Int) :
    let num := m * 2 ^ (e - u).toNat
    let den := 2 ^ (u - e).toNat
    let n := oddTrunc m (e - (u - 2))
    n / 4 = num / den ∧ (n % 4 = 0 ↔ num % den = 0) ∧ (n % 4 = 2 ↔ den = 2 * (num % den)) ∧ (n % 4 = 3 ↔ den < 2 * (num % den)) := by
  intro num den n
  set x := m * 2 ^ (e - (u - 2)).toNat
  set d := 2 ^ (-(e - (u - 2))).toNat
  have hspec : (x % d = 0 ∧ n = x / d) ∨ (x % d ≠ 0 ∧ n % 2 = 1 ∧ x / d ≤ n ∧ n ≤ x / d + 1) := oddTrunc_spec m (e - (u - 2))
  have hd : 0 < d := Nat.two_pow_pos _
  have hden : 0 < den := Nat.two_pow_pos _
  have hprop : x * den = 4 * num * d := by
    simp only [x, den, num, d]
    rw [show 4 * (m * 2 ^ (e - u).toNat) = m * (2 ^ 2 * 2 ^ (e - u).toNat) by ring, mul_assoc, mul_assoc, ← pow_add, ← pow_add, ← pow_add]
    congr 2
    omega
  have hquot : x / d = 4 * num / den := by
    rw [← Nat.mul_div_mul_right x d hden, hprop, Nat.mul_comm d den, Nat.mul_div_mul_right _ _ hd]
  have hscaled : x % d * den = 4 * num % den * d := by
    rw [← Nat.mul_mod_mul_right, hprop, Nat.mul_comm d den, Nat.mul_mod_mul_right]
  have hrem : x % d = 0 ↔ 4 * num % den = 0 :=
    ⟨fun h => by simpa [h, hd.ne'] using hscaled.symm, fun h => by simpa [h, hden.ne'] using hscaled⟩
  have hfour : 4 * num = 4 * (num % den) + den * (4 * (num / den)) := by
    calc 4 * num = 4 * (den * (num / den) + num % den) := by rw [Nat.div_add_mod]
      _ = 4 * (num % den) + den * (4 * (num / den)) := by ring
  rw [hquot, ne_eq, hrem, hfour, Nat.add_mul_div_left _ _ hden, Nat.add_mul_mod_self_left] at hspec
  exact quarters_of_odd hden (Nat.mod_lt _ hden) hspec

theorem Fmt.encOf_succ (f : Fmt) {k : Int} {q : Nat} (h : q < 2 ^ f.mbits → k = 1 - f.bias) :
    f.encOf k (q + 1) = f.encOf k q + 1 := by
  unfold Fmt.encOf
  split_ifs with h1 h2 h2
  · rfl
  · omega
  · have hone : (k + f.bias).toNat = 1 := by have := h h2; omega
    rw [hone]; omega
  · omega

theorem Fmt.encOf_mod_two {f : Fmt} (hf : 1 ≤ f.mbits) (k : Int) (q : Nat) : f.encOf k q % 2 = q % 2 := by
  obtain ⟨j, hj⟩ : ∃ j, f.mbits = j + 1 := ⟨f.mbits - 1, by omega⟩
  have heven : 2 ^ f.mbits = 2 * 2 ^ j := by rw [hj, pow_succ, Nat.mul_comm]
  unfold Fmt.encOf
  split
  · rfl
  · rw [heven, Nat.mul_left_comm]; omega

/-- The final rounding of a finite image. -/
theorem fin_finite {f : Fmt} (hf : f.Sound) (hinf : f.hasInf = true) (mode h : Nat) (neg : Bool) {mag t : Nat} (hm : mag ≤ f.maxEnc) (ht : t < 4) :
    (fin f mode h ⟨f.signBit neg + mag, t⟩).1
      = f.signBit neg + (if t ≠ 0 ∧ choosesHi mode neg (mag % 2 == 1) t h = true then mag + 1 else mag) := by
  obtain ⟨hneg, hmag⟩ := f.signBit_add neg (hm.trans_lt hf.fits)
  have hbits : (f.signBit neg + mag) % 2 ^ f.width = f.signBit neg + mag := by
    have hlt := hm.trans_lt hf.fits
    have hw : f.width = f.ebits + f.mbits + 1 := by unfold Fmt.width; omega
    refine Nat.mod_eq_of_lt ?_
    rw [hw, pow_succ]
    cases neg <;> simp only [Fmt.signBit, Bool.false_eq_true, if_false, if_true] <;> omega
  have hinfe : (mag = f.infEnc) = False := by rw [hf.inf hinf, eq_iff_iff, iff_false]; omega
  simp only [fin, hneg, hmag, hf.isNaNEnc hm, hinf, Bool.true_and, beq_iff_eq, hinfe, Bool.false_eq_true, if_false, Nat.mod_eq_of_lt ht, hbits, if_true]
  by_cases h0 : t = 0
  · simp [h0]
  · by_cases hc : choosesHi mode neg (mag % 2 == 1) t h = true
    · by_cases hmax : mag = f.maxEnc
      · subst hmax; simp [h0, hc, hf.inf hinf]
      · simp [h0, hc, hmax, Nat.add_assoc]
    · simp [h0, hc]

/-- IEEE's choice of the multiple away from zero, for a remainder r out of den above the multiple q. -/
def ieeeUp (mode : Nat) (neg : Bool) (q r den : Nat) : Bool :=
  match mode with
  | 0 => decide (den < 2 * r) || (decide (den = 2 * r) && q % 2 == 1)
  | 1 => false
  | 2 => neg && r != 0
  | 3 => !neg && r != 0
  | _ => decide (den ≤ 2 * r)

/-- The extension bits choose the neighbour that IEEE's rounding chooses. -/
theorem choosesHi_eq_ieeeUp {mode t q r den : Nat} (neg : Bool) (h : Nat) (hmode : mode < 5) (ht : t < 4) (hden : 0 < den)
    (h0 : t = 0 ↔ r = 0) (h2 : t = 2 ↔ den = 2 * r) (h3 : t = 3 ↔ den < 2 * r) :
    (t ≠ 0 ∧ choosesHi mode neg (q % 2 == 1) t h = true) ↔ ieeeUp mode neg q r den = true := by
  have hnear : 2 ≤ t ↔ den ≤ 2 * r := by omega
  interval_cases mode
  · simp [choosesHi, ieeeUp, h0, h2, h3]; omega
  · simp [choosesHi, ieeeUp]
  · simp [choosesHi, ieeeUp, h0, and_comm]
  · simp [choosesHi, ieeeUp, h0, and_comm]
  · simp [choosesHi, ieeeUp, h0, hnear]; omega

/-- Whether an overflow goes to infinity rather than to the largest finite value. -/
def overflowsAway (mode : Nat) (neg : Bool) : Bool :=
  decide (mode = 0 ∨ mode = 4) || (decide (mode = 2) && neg) || (decide (mode = 3) && !neg)

theorem ieeeRound_eq (f : Fmt) (mode : Nat) (neg : Bool) (m : Nat) (e : Int) :
    ieeeRound f mode neg m e =
      let k := f.expOf m e
      let num := m * 2 ^ (e - (k - f.mbits)).toNat
      let den := 2 ^ (k - f.mbits - e).toNat
      let q := num / den
      let mag := f.encOf k (if ieeeUp mode neg q (num % den) den then q + 1 else q)
      if f.maxEnc < mag then (if overflowsAway mode neg then f.infEnc else f.maxEnc) else mag := rfl

theorem choosesHi_three {mode : Nat} (neg odd : Bool) (h : Nat) (hmode : mode < 5) :
    choosesHi mode neg odd 3 h = overflowsAway mode neg := by
  interval_cases mode <;> simp [choosesHi, overflowsAway]

/-- A mode that goes up at a finite value overflows to infinity. -/
theorem overflowsAway_of_ieeeUp {mode q r den : Nat} {neg : Bool} (hmode : mode < 5) (h : ieeeUp mode neg q r den = true) :
    overflowsAway mode neg = true := by
  interval_cases mode <;> simp_all [ieeeUp, overflowsAway]

/-- IEEE's rounding in terms of the significand rounded to odd: it goes up as the extension bits say. -/
theorem ieeeRound_sigOf {f : Fmt} (hf : f.Sound) {mode : Nat} (hmode : mode < 5) (h : Nat) (neg : Bool) (m : Nat) (e : Int) :
    ∃ up : Bool, (up = true → overflowsAway mode neg = true)
      ∧ (f.sigOf m e % 4 ≠ 0 ∧ choosesHi mode neg (f.encOf (f.expOf m e) (f.sigOf m e / 4) % 2 == 1) (f.sigOf m e % 4) h = true
          ↔ up = true)
      ∧ ieeeRound f mode neg m e =
          let mag := f.encOf (f.expOf m e) (if up then f.sigOf m e / 4 + 1 else f.sigOf m e / 4)
          if f.maxEnc < mag then (if overflowsAway mode neg then f.infEnc else f.maxEnc) else mag := by
  obtain ⟨hq, h0, h2, h3⟩ := oddTrunc_quarters m e (f.expOf m e - f.mbits)
  let num := m * 2 ^ (e - (f.expOf m e - f.mbits)).toNat
  let den := 2 ^ (f.expOf m e - f.mbits - e).toNat
  refine ⟨ieeeUp mode neg (f.sigOf m e / 4) (num % den) den, overflowsAway_of_ieeeUp hmode, ?_, ?_⟩
  · rw [Fmt.encOf_mod_two hf.frac]
    exact choosesHi_eq_ieeeUp neg h hmode (Nat.mod_lt _ (by decide)) (Nat.two_pow_pos _) h0 h2 h3
  · have hsig : f.sigOf m e / 4 = num / den := hq
    rw [hsig]
    exact ieeeRound_eq f mode neg m e

/-- Settles O14: below the largest finite value the extension bits choose as IEEE's remainder does, and above it both overflow. -/
theorem roundingIsIeee : Obligations.RoundingIsIeee := by
  intro f hmem mode h neg m e hmode hm
  have hinf : f.hasInf = true := by
    simp only [List.mem_cons, List.not_mem_nil, or_false] at hmem
    rcases hmem with rfl | rfl | rfl | rfl | rfl <;> rfl
  have hf : f.Sound := Fmt.Sound.of_mem (by simp only [List.mem_cons, List.not_mem_nil, or_false] at hmem ⊢; tauto)
  have hfin : (finVal f mode h (.fin neg m e)).1 = (fin f mode h (rto f (.fin neg m e)).1).1 := rfl
  have hsucc := f.encOf_succ (f.expOf_of_sigOf_lt e hm)
  have hmax := hf.inf hinf
  obtain ⟨up, haway, hup, hieee⟩ := ieeeRound_sigOf hf hmode h neg m e
  rw [hfin, rto_fin f neg e hm, hieee]
  dsimp only
  by_cases hover : f.maxEnc < f.encOf (f.expOf m e) (f.sigOf m e / 4)
  · have hmag : f.maxEnc < f.encOf (f.expOf m e) (if up then f.sigOf m e / 4 + 1 else f.sigOf m e / 4) := by split <;> omega
    rw [if_pos hover, if_pos hmag, overflowImage, fin_finite hf hinf mode h neg le_rfl (by decide), choosesHi_three neg _ h hmode, hmax]
    simp
  · rw [if_neg hover, fin_finite hf hinf mode h neg (Nat.le_of_not_lt hover) (Nat.mod_lt _ (by decide))]
    cases up
    · rw [if_neg (mt hup.1 Bool.false_ne_true), if_neg Bool.false_ne_true, if_neg hover]
    · rw [if_pos (hup.2 rfl), if_pos rfl, hsucc, haway rfl, if_pos rfl, hmax]
      split <;> omega

end Sys2Proof.Machine
end

section
/-!
SUPPORT. Scalar floating point (05 R123 to R131): the instructions end in one write of an image with its flags.
-/

namespace Sys2Proof.Machine

section FpEnds

variable {i : Instr} {s : State} {d la fl : Nat} {x : Image}

theorem Runs.of_putFp (h : exec i s = s.putFp d x fl) (hd : d < 32) : Runs i s (FpResult s · 0 d x fl) := by
  rw [Runs, h]; exact FpResult.exists_put s d x fl hd

theorem Runs.of_putFpLa (h : exec i s = s.putFpLa la d x fl) (hd : d < 32) : Runs i s (FpResult s · la d x fl) := by
  rw [Runs, h]; exact FpResult.exists_putLa s la d x fl hd

/-- An instruction that writes 1 or 0 by a test. -/
theorem Runs.of_putBool {n : Nat} {b : Bool} {p : Prop} (h : exec i s = s.put n d (b2n b) 0) (hb : b = true ↔ p) (hd : d < 32) :
    (p → Runs i s (RegResult s · n d 1 0)) ∧ (¬ p → Runs i s (RegResult s · n d 0 0)) :=
  ⟨fun hp => Runs.of_put (h.trans (by rw [hb.2 hp]; rfl)) hd,
    fun hp => Runs.of_put (h.trans (by rw [Bool.eq_false_iff.2 (mt hb.1 hp)]; rfl)) hd⟩

end FpEnds

/-- Settles O16: each instruction rounds one exact value and ends in one write of the image. -/
theorem floatArithmetic : Obligations.FloatArithmetic := fun _ _ _ _ _ _ _ hd =>
  ⟨Runs.of_putFp rfl hd, Runs.of_putFp rfl hd, Runs.of_putFp rfl hd, Runs.of_putFp rfl hd, Runs.of_putFp rfl hd,
    Runs.of_putFp rfl hd, Runs.of_putFpLa rfl hd, Runs.of_putFpLa rfl hd, Runs.of_putFpLa rfl hd⟩

/-! ### Conversions (R127, R128) -/

theorem State.cvtSrc_eq (s : State) (w : FW) (a : Nat) :
    s.cvtSrc w a = if w = .img then e8sVal (s.reg a % 256) else s.fval (fwFmt w) a := by
  cases w <;> rfl

theorem State.convTo_of_fmt (s : State) {tgt : Nat} {f : Fmt} (h : fmtOf? tgt = some f) (x lane d : Nat) (v : Val) :
    s.convTo tgt x lane d v = s.roundConv f x lane d v := by rw [State.convTo, h]

theorem State.convTo_of_scale (s : State) {tgt : Nat} (h : fmtOf? tgt = none) (x lane d : Nat) (v : Val) :
    s.convTo tgt x lane d v = (⟨(toE8S v).1, 0⟩, (toE8S v).2) := by rw [State.convTo, h]

theorem State.convInt_of_range (s : State) {tgt k : Nat} {lo hi : Int} (h : intRange? tgt = some (lo, hi, k)) (m lane d : Nat) (v : Val) :
    s.convInt tgt m lane d v = vToInt (intMode m s.rm) (s.hashReg lane d) lo hi v := by rw [State.convInt, h]

/-- Settles O17: each conversion ends in one write of what its target's conversion gives. -/
theorem floatConversions : Obligations.FloatConversions := by
  intro s w iw d a tgt x rm hd
  refine ⟨fun T hT => Runs.of_putFp ?float hd, fun hT => Runs.of_putFp ?scale hd, fun lo hi k hk => Runs.of_putFp ?int hd,
    fun T hT => Runs.of_putFp ?ofInt hd, Runs.of_putFp rfl hd⟩
  case float => rw [← s.cvtSrc_eq, ← s.convTo_of_fmt hT]; rfl
  case scale =>
    have hexec : exec (.fcvt w d a tgt x) s
        = s.putFp d (s.convTo tgt x 0 d (s.cvtSrc w a)).1 (s.convTo tgt x 0 d (s.cvtSrc w a)).2 := rfl
    rw [hexec, s.convTo_of_scale hT, s.cvtSrc_eq]
  case int => rw [← s.convInt_of_range hk]; rfl
  case ofInt => rw [← s.convTo_of_fmt hT]; rfl

/-! ### Comparisons and classes (R129, R130) -/

theorem Val.isNaN_iff (v : Val) : v.isNaN = true ↔ v = .nan := by cases v <;> simp [Val.isNaN]

theorem vEq_iff (a b : Val) : vEq a b = true ↔ (a ≠ .nan ∧ b ≠ .nan) ∧ vCmp a b = .eq := by
  simp only [vEq, Bool.and_eq_true, Bool.not_eq_true', ← Bool.not_eq_true, Val.isNaN_iff, beq_iff_eq, ne_eq]

theorem vLt_iff (a b : Val) : vLt a b = true ↔ (a ≠ .nan ∧ b ≠ .nan) ∧ vCmp a b = .lt := by
  simp only [vLt, Bool.and_eq_true, Bool.not_eq_true', ← Bool.not_eq_true, Val.isNaN_iff, beq_iff_eq, ne_eq]

theorem vLe_iff (a b : Val) : vLe a b = true ↔ (a ≠ .nan ∧ b ≠ .nan) ∧ (vCmp a b = .lt ∨ vCmp a b = .eq) := by
  have hcmp : (vCmp a b != .gt) = true ↔ vCmp a b = .lt ∨ vCmp a b = .eq := by cases vCmp a b <;> decide
  simp only [vLe, Bool.and_eq_true, Bool.not_eq_true', ← Bool.not_eq_true, Val.isNaN_iff, ne_eq, hcmp]

/-- What `fclass` says of a register's value (R130): one class bit, and the two bits of a tail. -/
structure ClassBits (v : Nat) (A : Val) (neg : Bool) (mag hidden tail : Nat) (finite : Prop) : Prop where
  lt : v < 2 ^ 11
  negInf : v.testBit 0 = true ↔ A = .inf true
  posInf : v.testBit 7 = true ↔ A = .inf false
  nan : v.testBit 8 = true ↔ A = .nan
  negNormal : v.testBit 1 = true ↔ finite ∧ neg = true ∧ hidden ≤ mag
  posNormal : v.testBit 6 = true ↔ finite ∧ neg = false ∧ hidden ≤ mag
  negSub : v.testBit 2 = true ↔ finite ∧ neg = true ∧ mag < hidden ∧ (mag ≠ 0 ∨ tail ≠ 0)
  posSub : v.testBit 5 = true ↔ finite ∧ neg = false ∧ mag < hidden ∧ (mag ≠ 0 ∨ tail ≠ 0)
  negZero : v.testBit 3 = true ↔ finite ∧ neg = true ∧ mag = 0 ∧ tail = 0
  posZero : v.testBit 4 = true ↔ finite ∧ neg = false ∧ mag = 0 ∧ tail = 0
  inexact : v.testBit 9 = true ↔ finite ∧ tail ≠ 0
  tiny : v.testBit 10 = true ↔ finite ∧ mag = 0 ∧ tail ≠ 0

/-- The classes of an image that is a number: its sign, its magnitude and its tail. -/
def finiteClass (neg : Bool) (mag hidden tail : Nat) : Nat :=
  (if mag = 0 ∧ tail = 0 then (if neg then 8 else 16) else if mag < hidden then (if neg then 4 else 32) else if neg then 2 else 64)
    + (if tail = 0 then 0 else 512) + (if mag = 0 ∧ tail ≠ 0 then 1024 else 0)

theorem classMask_finite {f : Fmt} {x : Image} (ht : x.tail < 4) (h1 : ¬ f.isNaNEnc (x.bits % 2 ^ (f.ebits + f.mbits)) = true)
    (h2 : ¬ (f.hasInf && x.bits % 2 ^ (f.ebits + f.mbits) == f.infEnc) = true) :
    classMask f x = finiteClass (x.bits.testBit (f.ebits + f.mbits)) (x.bits % 2 ^ (f.ebits + f.mbits)) (2 ^ f.mbits) x.tail := by
  rw [classMask, if_neg h1, if_neg h2, finiteClass, bit_eq_testBit, Nat.mod_eq_of_lt ht]
  by_cases h0 : x.tail = 0
  · simp [h0, b2n]
  · by_cases hz : x.bits % 2 ^ (f.ebits + f.mbits) = 0 <;> simp [h0, hz, b2n]

theorem finiteClass_bits {A : Val} {finite : Prop} (neg : Bool) {mag hidden tail : Nat} (hh : 0 < hidden)
    (hA : A ≠ .nan ∧ ∀ b, A ≠ .inf b) (hf : finite) :
    ClassBits (finiteClass neg mag hidden tail) A neg mag hidden tail finite := by
  obtain ⟨hnan, hinf⟩ := hA
  unfold finiteClass
  by_cases hz : mag = 0
  · subst hz
    by_cases ht : tail = 0 <;> cases neg <;> constructor <;> simp [Nat.testBit_eq_decide_div_mod_eq, *, hh.ne']
  · by_cases hsub : mag < hidden
    · by_cases ht : tail = 0 <;> cases neg <;> constructor <;> simp [Nat.testBit_eq_decide_div_mod_eq, *]
    · by_cases ht : tail = 0 <;> cases neg <;> constructor <;> simp [Nat.testBit_eq_decide_div_mod_eq, *, not_lt.1 hsub]

theorem classMask_bits {f : Fmt} (x : Image) (ht : x.tail < 4) :
    ClassBits (classMask f x) (imgVal f x) (x.bits.testBit (f.ebits + f.mbits)) (x.bits % 2 ^ (f.ebits + f.mbits)) (2 ^ f.mbits)
      x.tail (∃ g m e, imgVal f x = .fin g m e) := by
  by_cases h1 : f.isNaNEnc (x.bits % 2 ^ (f.ebits + f.mbits)) = true
  · have hm : classMask f x = 256 := if_pos h1
    have hv : imgVal f x = .nan := if_pos h1
    rw [hm, hv]
    constructor <;> simp [Nat.testBit_eq_decide_div_mod_eq]
  by_cases h2 : (f.hasInf && x.bits % 2 ^ (f.ebits + f.mbits) == f.infEnc) = true
  · have hm : classMask f x = if x.bits.testBit (f.ebits + f.mbits) then 1 else 128 := by
      rw [← bit_eq_testBit]; exact (if_neg h1).trans (if_pos h2)
    have hv : imgVal f x = .inf (x.bits.testBit (f.ebits + f.mbits)) := by
      rw [← bit_eq_testBit]; exact (if_neg h1).trans (if_pos h2)
    rw [hm, hv]
    cases x.bits.testBit (f.ebits + f.mbits) <;> constructor <;> simp [Nat.testBit_eq_decide_div_mod_eq]
  · have hv : ∃ g m e, imgVal f x = .fin g m e := ⟨_, _, _, (if_neg h1).trans (if_neg h2)⟩
    obtain ⟨g, m, e, hfin⟩ := id hv
    rw [classMask_finite ht h1 h2]
    exact finiteClass_bits _ (by positivity) (by simp [hfin]) hv

/-- Major 0x1C holds `tget` and `tset` only (R131). -/
theorem decodeWord_refuses_major1C {w : Nat} (hodd : w % 2 = 1) (hm : fld w 1 6 = 0x1C)
    (h : fld w 22 3 ≠ 0 ∨ fld w 29 3 ≠ 0 ∨ 2 ≤ fld w 25 4 ∨ (fld w 25 4 = 0 ∧ fld w 17 5 ≠ 0)) : ∃ e, decodeWord w = .error e := by
  have h17 : fld w 17 15 = fld w 17 5 + 2 ^ 5 * fld w 22 10 := fld_add w 17 5 10
  have h22 : fld w 22 10 = fld w 22 3 + 2 ^ 3 * fld w 25 7 := fld_add w 22 3 7
  have h25 : fld w 25 7 = fld w 25 4 + 2 ^ 4 * fld w 29 3 := fld_add w 25 4 3
  have hlow : fld w 22 3 < 8 := Nat.mod_lt _ (by decide)
  have hfn : fld w 25 4 < 16 := Nat.mod_lt _ (by decide)
  refine decodeWord_refuses hodd (Laws.decode32_Major1C hm) fun i hi => ?_
  rw [decMajor1C, if_neg (by omega), if_neg (by omega)] at hi
  cases hi

/-- Settles O18, with the laws of the comparisons and of the class mask. -/
theorem floatCompareClassAndTails : Obligations.FloatCompareClassAndTails := by
  refine ⟨fun s w d a b hd => ?_, fun s d a b hd => ⟨Runs.of_put rfl hd, Runs.of_put rfl hd⟩,
    fun w _ hodd hm => decodeWord_refuses_major1C hodd hm⟩
  have h := classMask_bits (f := fwFmt w) (s.imgReg (fwFmt w) a) (Nat.mod_lt _ (by decide))
  refine ⟨Runs.of_putBool rfl (vEq_iff _ _) hd, Runs.of_putBool rfl (vLt_iff _ _) hd, Runs.of_putBool rfl (vLe_iff _ _) hd,
    _, Runs.of_put rfl hd, h.lt, h.negInf, h.posInf, h.nan, h.negNormal, h.posNormal, h.negSub, h.posSub, h.negZero, h.posZero,
    h.inexact, h.tiny⟩

end Sys2Proof.Machine
end

section
/-!
SUPPORT. The supervisor's forms at user level (24 R451, 03 R80).
-/

namespace Sys2Proof.Machine

/-- A privileged form at user level traps PRIV with its word. -/
theorem Runs.of_privForm {i : Instr} {s : State} {k : Out} {w w' : Nat} (h : exec i s = s.privForm w k) (hw : w = w')
    (hl : s.cur.level = .user) (hs : s.cur.shadow = none) : Runs i s fun t => Trapped s t 0x02 0 w' s.pc :=
  hw ▸ ⟨_, h.trans (s.privForm_traps w k hs hl), Trapped.of_trapHere s _ _ _ hs⟩

/-- Settles O6: each of these forms is a privileged form of its own word. -/
theorem supervisorFormsTrapAtUser : Obligations.SupervisorFormsTrapAtUser := by
  intro i s n w hi hl hs he
  unfold Instr.supervisor at hi
  split at hi
  case h_20 => exact absurd hi Bool.false_ne_true
  all_goals
    cases he
    refine Runs.of_privForm rfl ?_ hl hs
    simp only [wordPage, wordTret, wordSup]
    omega

end Sys2Proof.Machine
end

section
/-!
SUPPORT. The checks of an access (07 R159, R160): what they answer for an address outside the tag and for one that is not
aligned, and what an instruction does when they fail or pass.
-/

namespace Sys2Proof.Machine

section Checks

variable {s t : State} {base size align acc len : Nat} {off : Int} {loc : Loc}

theorem State.checkE_of_tagov (w : Who) {x : Nat} (h : ea base off = .error x) :
    s.checkE w base off size align acc = .error (.trap 0x06 0 x) := by
  rw [State.checkE, h]; rfl

theorem State.checkE_of_misaligned {w : Who} {va : Nat} (h : ea base off = .ok va) (hw : w.shadow = none) (ha : va % align ≠ 0) :
    s.checkE w base off size align acc = .error (.trap 0x03 0 va) := by
  rw [State.checkE, h]
  simp [hw, ha, cALIGN]

theorem State.check_of_trap {code sub tval : Nat} (h : s.checkE s.me base off size align acc = .error (.trap code sub tval)) :
    s.check len base off size align acc = .stop (s.trapHere code sub tval) := by
  rw [State.check, h]; rfl

theorem State.check_of_ok (h : s.checkE s.me base off size align acc = .ok (loc, t)) :
    s.check len base off size align acc = .ok loc t := by
  rw [State.check, h]

theorem State.loadInt_of_trap {code sub tval : Nat} (w : IW) (d la : Nat)
    (h : s.checkE s.me base off (nbits w / 8) (nbits w / 8) aRead = .error (.trap code sub tval)) :
    s.loadInt len base off w d la = .next (s.trapHere code sub tval) := by
  rw [State.loadInt, State.load, accBytes, State.check_of_trap h]; rfl

theorem State.storeInt_of_trap {code sub tval : Nat} (w : IW) (v : Nat)
    (h : s.checkE s.me base off (nbits w / 8) (nbits w / 8) aWrite = .error (.trap code sub tval)) :
    s.storeInt len base off w v = .next (s.trapHere code sub tval) := by
  rw [State.storeInt, State.store, accBytes, State.check_of_trap h]; rfl

end Checks

theorem Runs.of_trapHere {i : Instr} {s : State} {code sub tval : Nat} (h : exec i s = .next (s.trapHere code sub tval))
    (hs : s.cur.shadow = none) : Runs i s (Trapped s · code sub tval s.pc) :=
  ⟨_, h, Trapped.of_trapHere s _ _ _ hs⟩

/-- Settles O22: the checks stop at the first that fails. -/
theorem accessTraps : Obligations.AccessTraps := by
  intro s w d a b off la hn hs
  refine ⟨fun x hx => Runs.of_trapHere ?_ hs, fun x hx => Runs.of_trapHere ?_ hs, fun va hva ha => Runs.of_trapHere ?_ hs,
    fun va hva ha => Runs.of_trapHere ?_ hs⟩
  · exact State.loadInt_of_trap w d la (State.checkE_of_tagov _ hx)
  · exact State.storeInt_of_trap w _ (State.checkE_of_tagov _ hx)
  · exact State.loadInt_of_trap w d la (State.checkE_of_misaligned hva hs ha)
  · exact State.storeInt_of_trap w _ (State.checkE_of_misaligned hva hs ha)

end Sys2Proof.Machine
end

section
/-!
SUPPORT. What waits for the issuer's posted writes (26 R465), and the ordered-reduce forms (07 R173 to R175).
-/

namespace Sys2Proof.Machine

theorem sc2_eq (sc : Nat) : sc2 sc = if sc = 0 then 2 else sc + 3 := rfl

/-- What waits for a release that nothing keeps waiting goes on from the state in which the posted writes are acknowledged. -/
theorem State.settle_of_free {s : State} {scope : Nat} (h : s.ReleaseFree scope) (k : State → Out) :
    s.settle scope k = k (s.settled scope) := by
  unfold State.settle State.settled
  split
  · rfl
  · next hlow =>
    obtain hlt | ⟨hlost, hfree⟩ := h
    · exact absurd hlt hlow
    have hnone : (s.links.any fun e => e.2.st == 3 && e.2.posted.any fun p => p.act == s.cur.id) = false := by
      simp only [List.any_eq_false, Bool.and_eq_true, beq_iff_eq, List.any_eq_true, not_and, not_exists]
      exact fun e he hst p hp => hfree e he hst p hp
    simp only [hnone, hlost]
    rfl

theorem State.impureAt_eq_false {s : State} (h : s.cur.shadow = none) (p : Nat) : s.impureAt p = false := by
  simp [State.impureAt, h]

/-- What a contribution records (07 R173, R174, R480). -/
def State.contribution (t : State) (loc : Loc) (p kind v tl : Nat) : Contrib :=
  let key := t.sortKey t.cur
  { key := loc.key, order := key.getD [], keyed := key.isSome, q := (t.cur.launch.map (·.q)).getD 0,
    lseq := (t.cur.launch.map (·.lseq)).getD 0, kind := kind, bits := v, tail := tl, va := p, seqNo := t.coh.arrivals, act := t.cur.id }

/-- The state once a contribution is the last of its context's. -/
def State.contributed (t : State) (c : Contrib) : State :=
  (t.modCoh fun h => { h with arrivals := h.arrivals + 1 }).modCtx t.cur.ctx fun x => { x with contribs := x.contribs ++ [c] }

theorem State.contribs_contributed (t : State) (c : Contrib) :
    ((t.contributed c).ctx t.cur.ctx).contribs = (t.ctx t.cur.ctx).contribs ++ [c] := by
  simp [State.contributed, State.ctx_modCtx]; rfl

section Contribute

variable {s t : State} {a wd kind v tl : Nat} {loc : Loc}

/-- A contribution that is located: the range and the page decide. -/
theorem State.contribute_of_locate (hs : s.cur.shadow = none) (ha : s.reg a % 2 ^ 56 % (if wd = 1 then 4 else 8) = 0)
    (hw : s.reg a % 2 ^ 56 / 2 ^ 52 % 16 ≠ 15)
    (hl : s.locate s.me (s.reg a % 2 ^ 56) (if wd = 1 then 4 else 8) aAtomic = (.ok loc, t)) :
    s.contribute a wd kind v tl =
      if !t.inReduce (s.reg a % 2 ^ 56) ∨ loc.kind = 7 then .next (t.trapHere cRANGE 0 (s.reg a % 2 ^ 56))
      else
        let x := t.contributed (t.contribution loc (s.reg a % 2 ^ 56) kind v tl)
        let y := x.spill t.cur.ctx t.cur.die 0x40 (Config.reduceSpill (x.ctx t.cur.ctx).contribs.length)
        .next ((y.cohAccess y.me loc aWrite []).retire 4) := by
  have hwin : ¬ bits (s.reg a % 2 ^ 56) 52 4 = 15 := hw
  rw [State.contribute, State.impureAt_eq_false hs]
  simp only [wdBytes, ha, hwin, hl]
  rfl

end Contribute

/-- Acknowledging posted writes changes nothing that an access depends on. -/
theorem State.settled_frame (s : State) (scope : Nat) :
    (s.settled scope).mem = s.mem ∧ (s.settled scope).cur = { s.cur with posted := (s.settled scope).cur.posted }
      ∧ (s.settled scope).ctxs = s.ctxs := by
  unfold State.settled
  split <;> exact ⟨rfl, rfl, rfl⟩

theorem State.settled_cur_ctx (s : State) (scope : Nat) : (s.settled scope).cur.ctx = s.cur.ctx := by
  rw [(s.settled_frame scope).2.1]

theorem State.settled_myCtx (s : State) (scope : Nat) : (s.settled scope).myCtx = s.myCtx := by
  unfold State.myCtx State.ctx
  rw [s.settled_cur_ctx, (s.settled_frame scope).2.2]

/-- Settles O25: a contribution that is located is recorded or refused, and a flush applies those of its range once the posted
writes are acknowledged. -/
theorem orderedReduce : Obligations.OrderedReduce := by
  refine ⟨fun s t a b wd la loc hs => ?contribute, fun s a sc la hs => ⟨fun hin hfree => ?flush, fun hout => ?outside⟩⟩
  case contribute =>
    intro n p ha hw hl takes go
    have recorded (i : Instr) (kind v tl : Nat) (hi : exec i s = s.contribute a wd kind v tl) (ht : takes) :
        Runs i s (go kind v tl) := by
      obtain ⟨hin, hkind⟩ := ht
      have hgo : ¬ ((!t.inReduce p) = true ∨ loc.kind = 7) := by simp [hin, hkind]
      rw [State.contribute_of_locate hs ha hw hl, if_neg hgo] at hi
      exact ⟨_, hi, _, _, t.contribs_contributed _, rfl, rfl, rfl, rfl, rfl, rfl, rfl, rfl, rfl⟩
    have refused (i : Instr) (kind v tl : Nat) (hi : exec i s = s.contribute a wd kind v tl) (ht : ¬ takes)
        (hs' : t.cur.shadow = none) : Runs i s (Trapped t · 0x0A 0 p t.pc) := by
      have hno : (!t.inReduce p) = true ∨ loc.kind = 7 := by simpa [takes, Decidable.or_iff_not_imp_left] using ht
      rw [State.contribute_of_locate hs ha hw hl, if_pos hno] at hi
      exact ⟨_, hi, Trapped.of_trapHere t _ _ _ hs'⟩
    have hbits : s.reg b % 2 ^ (wdFmt wd).width = s.reg b % 2 ^ (8 * n) := by
      unfold n wdFmt; split <;> rfl
    exact ⟨fun ht => ⟨recorded _ _ _ _ (by rw [← hbits]; rfl) ht, recorded _ _ _ _ rfl ht⟩,
      fun ht hs' => ⟨refused _ _ _ _ rfl ht hs', refused _ _ _ _ rfl ht hs'⟩⟩
  case flush =>
    refine ⟨_, ?_, rfl⟩
    have hexec : exec (.rflush a sc la) s = execRflush a sc la s := rfl
    rw [hexec, execRflush, State.impureAt_eq_false hs]
    simp only [hin, Bool.false_eq_true, Bool.not_true, if_false, sc2_eq, State.settle_of_free hfree, s.settled_myCtx,
      s.settled_cur_ctx]
  case outside =>
    refine Runs.of_trapHere ?_ hs
    have hexec : exec (.rflush a sc la) s = execRflush a sc la s := rfl
    rw [hexec, execRflush, State.impureAt_eq_false hs]
    simp only [hout, Bool.false_eq_true, Bool.not_false, if_true, if_false]
    rfl

end Sys2Proof.Machine
end

section
/-!
SUPPORT. Accesses under a loaded protocol table.  A row of a loaded table may install data on an access of its own die
(19 R375 lets it); the fill is then counted, and the one that brings the die's count to 0 writes a heat word (23 R426), which
is none of the bytes that the access names.  The machine below stands one fill before that, so an access changes a byte that
the statements about loads and stores keep.
-/

namespace Sys2Proof.Machine

/-- A table whose one state performs every access at once and installs data. -/
def fillTable : PTable := { attrs := [1], rows := rowsAt 0 [(0, 0, 0, 68), (1, 0, 0, 68), (2, 0, 0, 68)] }

/-- A context whose table maps the first 64 GiB to the HBM of die 0, its first page under `fillTable`. -/
def fillCtx : Ctx :=
  { desc := List.replicate 23 0 ++ [2 ^ 20], root := 0x10000, ranges := [(0, { base := 0, npg := 1, pid := 6 })],
    tables := [(6, fillTable)] }

/-- A machine in which die 0 has counted 63 fills.  The issuer has eight lanes, a reservation on line 0 and in x1 a pointer
to address 0 whose tag names 16-byte slots. -/
def fillState : State :=
  { mem := [(0x10000, 1), (0x10001, 0x20), (0x10002, 0x01), (0x12000, 0xEF), (tcmKey 0 0 0 0x100F, 0xF8)]
    cur := { wp := 0x1000, live := true, grant := 8, resv := some { line := 0 } }
    ctxs := [(0, fillCtx)], coh := { fills := [63] } }

/-- Where its accesses to address 0 go. -/
def fillLoc : Loc := { key := 0, kind := 3, pid := 6, leaf := 0x12000 }

/-- The machine once an access has been checked: its die has cached the entries of the walk. -/
def fillChecked : State := fillState.modCoh fun h => { h with tlb := [(2199023255552, [239]), (3298534883328, [73729])] }

theorem fillState_noShadow : fillState.NoShadow := ⟨by simp [fillState], by simp [fillState], rfl⟩

/-- The two bytes of the heat word of page 0: reads and writes that were sampled (23 R425). -/
def fillReads : Nat := 0x0C3FFE000001
def fillWrites : Nat := 0x0C3FFE000000

theorem fillState_check_read : fillState.checkE fillState.me 0 0 8 8 aRead = .ok (fillLoc, fillChecked) := by decide +kernel

theorem fillState_check_write :
    fillState.checkE fillState.me (fillState.reg 0) (sint 0 10 * (8 : Nat)) 8 8 aWrite = .ok (fillLoc, fillChecked) := by
  decide +kernel

theorem fillState_check_slot :
    fillState.checkE fillState.me (fillState.reg 1) (sint (fillState.reg 0) 64 * (16 : Nat)) 16 16 aWrite
      = .ok (fillLoc, fillChecked) := by decide +kernel

theorem fillState_check_atomic :
    (fillState.settled 0).checkE (fillState.settled 0).me (fillState.reg 0) 0 8 8 aAtomic = .ok (fillLoc, fillChecked) := by
  decide +kernel

theorem fillState_check_cond :
    (fillState.settled 0).checkE (fillState.settled 0).me (fillState.reg 0) 0 8 8 aWrite = .ok (fillLoc, fillChecked) := by
  decide +kernel

/-- The byte at a key after a step that answers a next state. -/
def byteAfter (o : Out) (k : Nat) : Byte :=
  match o with
  | .next t => t.rd k
  | _ => 0

/-- An instruction that changes the heat word does not answer a state in which some property keeps it. -/
theorem not_runs_of_fill {i : Instr} {P : State → Prop} (hx : byteAfter (exec i fillState) fillWrites ≠ 0)
    (hP : ∀ t, P t → t.rd fillWrites = 0) : ¬ Runs i fillState P := by
  rintro ⟨t, ht, h⟩
  rw [ht] at hx
  exact hx (hP t h)

/-- The workspace of the issuer lies above the heat words. -/
theorem fillWrites_outside {t : State} (ht : t.cur.wsKey = tcmKey 0 0 0 0x1000) (n : Nat) (hn : n ≤ 32) :
    ¬ (InSpan fillWrites 0 n ∨ t.pcSpan fillWrites ∨ ((0 : Nat) ≠ 0 ∧ t.flagSpan fillWrites)) := by
  simp only [InSpan, State.pcSpan, ht, fillWrites, tcmKey]
  omega

/-- A store to line 0 of the machine does not keep every other byte. -/
theorem not_stored_of_fill {t u : State} {len n v : Nat} (ht : t.cur.wsKey = tcmKey 0 0 0 0x1000) (h0 : t.rd fillWrites = 0)
    (hn : n ≤ 32) (h : Stored t u len fillLoc.key n v 0) : u.rd fillWrites = 0 :=
  (h.frame _ (fillWrites_outside ht n hn)).trans h0

/-- Refutes O19: under `fillTable` a load fills, and the fill is sampled: the heat word of its page changes, which is neither
the leaf entry nor a decompressed copy. -/
theorem not_loads : ¬ Obligations.Loads := by
  rintro ⟨-, hframe⟩
  have hkeep := hframe fillState fillChecked 0 0 8 8 fillReads fillLoc fillState_noShadow rfl fillState_check_read
    (by decide) (by simp [InSpan, fillReads, fillLoc])
  exact absurd hkeep (by decide +kernel)

/-- Refutes O20: a store to the same line, which its table's row performs, counts a fill of a write. -/
theorem not_stores : ¬ Obligations.Stores := by
  rintro ⟨hst, -⟩
  obtain ⟨hplain, -⟩ := hst fillState fillChecked .i64 0 0 0 0 0 0 fillLoc fillState_noShadow (by decide) (by decide)
  exact not_runs_of_fill (by decide +kernel) (fun u hu => not_stored_of_fill rfl (by decide +kernel) (by decide) hu)
    (hplain fillState_check_write)

/-- Refutes O23: the same for the store of a 16-byte slot through a pointer's tag. -/
theorem not_elementAccess : ¬ Obligations.ElementAccess := by
  intro h
  obtain ⟨-, -, -, -, -, hslot⟩ := h fillState fillChecked .i64 .f64 0 1 0 0 fillLoc (by decide)
  exact not_runs_of_fill (by decide +kernel) (fun u hu => not_stored_of_fill rfl (by decide +kernel) (by decide) hu)
    (hslot 0 (by decide +kernel) ⟨fillState_noShadow, by decide, by decide⟩ fillState_check_slot)

/-- Refutes O24: the same for an atomic. -/
theorem not_atomics : ¬ Obligations.Atomics := by
  rintro ⟨hint, -⟩
  obtain ⟨hswap, -⟩ := hint fillState fillChecked fillChecked 0 0 0 0 0 0 fillLoc fillLoc fillState_noShadow (by decide) (by decide)
    fillState_check_atomic (Or.inl (by decide)) fillState_check_atomic
  refine not_runs_of_fill (by decide +kernel) ?_ hswap
  rintro u ⟨c, hc, rfl⟩
  exact not_stored_of_fill rfl (by decide +kernel) (by decide) hc

/-- Refutes O26: the same for a store-conditional whose reservation lives. -/
theorem not_reservations : ¬ Obligations.Reservations := by
  intro h
  obtain ⟨-, hcond⟩ := h fillState fillChecked fillChecked 0 0 0 0 0 0 fillLoc fillLoc fillState_noShadow
  obtain ⟨hlive, -⟩ := hcond (by decide) (by decide) fillState_check_cond (Or.inl (by decide)) fillState_check_cond
  refine not_runs_of_fill (by decide +kernel) ?_ (hlive rfl)
  rintro u ⟨c, hc, rfl⟩
  exact not_stored_of_fill rfl (by decide +kernel) (by decide) hc

/-- The places of the four elements of a vector store to address 0. -/
def fillLocs : List Loc := (List.range 4).map fun j => { fillLoc with key := 8 * j, va := 8 * j, pa := 8 * j }

/-- Whether a part of an instruction gives a value and a state. -/
def Res.is {α : Type} [DecidableEq α] (r : Res α) (a : α) (s : State) : Bool :=
  match r with
  | .ok b t => decide (b = a ∧ t = s)
  | _ => false

theorem Res.eq_of_is {α : Type} [DecidableEq α] {r : Res α} {a : α} {s : State} (h : r.is a s = true) : r = .ok a s := by
  cases r with
  | ok b t => obtain ⟨rfl, rfl⟩ := of_decide_eq_true h; rfl
  | stop t => exact absurd h Bool.false_ne_true
  | fault f => exact absurd h Bool.false_ne_true

theorem fillState_check_vector :
    fillState.checkVec aWrite ((List.range 4).map fun j => ((fillState.reg 0, (j * 8 : Nat), 8, 8) : Part)) = .ok fillLocs fillChecked :=
  Res.eq_of_is (by decide +kernel)

/-- Refutes O36: the same for a vector store. -/
theorem not_vectorMemory : ¬ Obligations.VectorMemory := by
  rintro ⟨hvec, -⟩
  obtain ⟨-, -, -, hst, -⟩ := hvec fillState fillChecked .f64 0 0 0 0 0 0 [] fillLocs
  refine not_runs_of_fill (by decide +kernel) ?_ (hst ⟨fillState_noShadow, by decide⟩ fillState_check_vector)
  intro u hu
  refine (hu.frame _ ?_).trans (by decide +kernel)
  rintro (⟨p, hp, hin⟩ | hpc | ⟨h0, -⟩)
  · have hlow : ∀ q ∈ fillLocs, q.key < 32 := by decide
    obtain ⟨⟨l, v⟩, hl, rfl⟩ := List.mem_map.1 hp
    have hkey := hlow l (List.of_mem_zip hl).1
    have hwidth : (fwFmt .f64).width / 8 = 8 := by decide
    simp only [InSpan, hwidth, fillWrites] at hin
    omega
  · simp only [State.pcSpan, InSpan, fillWrites, show fillChecked.cur.wsKey = tcmKey 0 0 0 0x1000 from rfl, tcmKey] at hpc
    omega
  · exact h0 (by decide)

end Sys2Proof.Machine
end

section
/-!
SUPPORT. Accesses to the issuer's own TCM (06 R134 to R137): where they go, that a read finds what stands there, and what a
write leaves.
-/

namespace Sys2Proof.Machine

/-- The place of an offset of the issuer's own TCM in window 0. -/
def State.ownTcm (s : State) (o : Nat) : Loc :=
  { key := tcmKey s.cur.die s.cur.cluster s.cur.core o, va := 0xF0000000000000 + o, kind := 0,
    home := (s.cur.die, s.cur.cluster, s.cur.core) }

theorem State.ownTcm_kind (s : State) (o : Nat) : (s.ownTcm o).kind = 0 := rfl
theorem State.ownTcm_upd (s : State) (o : Nat) : (s.ownTcm o).upd = false := rfl

theorem accBytes_cases (w : IW) : nbits w / 8 = 1 ∨ nbits w / 8 = 2 ∨ nbits w / 8 = 4 ∨ nbits w / 8 = 8 := by
  cases w <;> decide

theorem two_pow_nbits (w : IW) : 2 ^ nbits w = 256 ^ (nbits w / 8) := by cases w <;> decide

/-! ### The checks -/

section Window

variable {s : State} {o n acc : Nat}

theorem own_window_fields (hn : 0 < n) (ho : o + n ≤ 0x8000) :
    bits (0xF0000000000000 + o) 52 4 = 15 ∧ bits (0xF0000000000000 + o) 48 4 = 0 ∧ bits (0xF0000000000000 + o) 15 33 = 0
      ∧ (0xF0000000000000 + o) % 0x8000 = o := by
  simp only [bits]; omega

/-- A window-0 address goes to the issuer's own TCM when a write there is accepted. -/
theorem State.window_own (hn : 0 < n) (ho : o + n ≤ 0x8000)
    (hok : isWr acc = true → s.tcmWriteOk s.me s.cur.coreKey acc o n = true) :
    s.window s.me (0xF0000000000000 + o) n acc = .ok (s.ownTcm o) := by
  obtain ⟨-, hk, hhi, hlow⟩ := own_window_fields hn ho
  have hpath (addr : Nat) : s.pathErr s.me.node s.me.node addr = none := by simp [State.pathErr]
  have hwrite : (isWr acc && !s.tcmWriteOk s.me (Machine.coreKey s.me.die s.me.cluster s.me.core) acc o n) = false := by
    cases hw : isWr acc
    · rfl
    · rw [Bool.true_and, Bool.not_eq_false']; exact hok hw
  simp only [State.window, hk, hhi, hlow, hwrite, hpath, if_true, bne_self_eq_false, Bool.false_or, Bool.false_eq_true, if_false]
  rw [if_neg (by rw [decide_eq_true_iff]; omega)]
  rfl

theorem State.record_own (w : Who) (l : Loc) (hl : l.det = false) (wr : Bool) : s.record w l wr = some s := by
  unfold State.record
  split
  · rfl
  · rw [hl]; rfl

/-- An aligned access to the own TCM passes its checks. -/
theorem State.checkE_own {base : Nat} {off : Int} (hn : 0 < n) (hea : ea base off = .ok (0xF0000000000000 + o)) (ho : o + n ≤ 0x8000)
    (ha : o % n = 0) (hn8 : n = 1 ∨ n = 2 ∨ n = 4 ∨ n = 8)
    (hok : isWr acc = true → s.tcmWriteOk s.me s.cur.coreKey acc o n = true) :
    s.checkE s.me base off n n acc = .ok (s.ownTcm o, s) := by
  obtain ⟨hwin, hk, -, -⟩ := own_window_fields hn ho
  have hfar : farWindow (0xF0000000000000 + o) = false := by simp [farWindow, hk]
  have halign : (0xF0000000000000 + o) % n = 0 := by rcases hn8 with rfl | rfl | rfl | rfl <;> omega
  rw [State.checkE, hea]
  simp only [hfar, halign, State.locate, hwin, State.window_own hn ho hok]
  simp [State.ownTcm, State.record_own]

end Window

/-! ### Reads -/

section Reads

variable {s : State} {w : Who} {key n v : Nat}

theorem mem_wordsOf {x : Nat} (h : x ∈ wordsOf key n) : key / 8 ≤ x ∧ x < (key + n + 7) / 8 := by
  simp only [wordsOf, List.mem_map, List.mem_range] at h
  obtain ⟨i, hi, rfl⟩ := h
  omega

/-- A word without a write on record is read as it stands. -/
theorem State.readWord_unrecorded {r : Nat × State} {word : Nat} (h : ∀ p ∈ r.2.race, p.word ≠ word) :
    State.readWord w key n r word = r := by
  have hnone : r.2.race.filter (·.word == word) = [] := by
    rw [List.filter_eq_nil_iff]
    exact fun p hp => by simpa using h p hp
  rw [State.readWord, hnone]
  rfl

/-- Bytes without a write on record are read as they stand. -/
theorem State.readRace_unrecorded (h : ∀ p ∈ s.race, p.word * 8 + 8 ≤ key ∨ key + n ≤ p.word * 8) :
    s.readRace w key n v = (v, s) := by
  have hfold : ∀ xs : List Nat, (∀ x ∈ xs, ∀ p ∈ s.race, p.word ≠ x) → xs.foldl (State.readWord w key n) (v, s) = (v, s) := by
    intro xs hxs
    induction xs with
    | nil => rfl
    | cons x xs ih =>
      rw [List.foldl_cons, State.readWord_unrecorded (hxs x (by simp))]
      exact ih fun y hy => hxs y (by simp [hy])
  rw [State.readRace]
  split
  · rfl
  · refine hfold _ fun x hx p hp heq => ?_
    have hword := mem_wordsOf hx
    have hout := h p hp
    omega

/-- A read of the own TCM finds what stands there and changes nothing. -/
theorem State.readAt_own {o : Nat}
    (h : ∀ p ∈ s.race, p.word * 8 + 8 ≤ (s.ownTcm o).key ∨ (s.ownTcm o).key + n ≤ p.word * 8) :
    s.readAt s.me (s.ownTcm o) n = (s.rdN (s.ownTcm o).key n, s) := by
  have hline : s.readLine s.me (s.ownTcm o) n = (s.rdN (s.ownTcm o).key n, s) := by
    unfold State.readLine
    split
    · exact (if_pos (Nat.zero_lt_succ 2)).trans (State.readRace_unrecorded h)
    · have hcached : cachable s.me (s.ownTcm o) = false := by simp [cachable, s.ownTcm_kind]
      simp only [hcached, s.ownTcm_upd, Bool.not_false, Bool.false_eq_true, if_true, if_false]
      exact State.readRace_unrecorded h
  have hremote : s.noteRemote s.me (s.ownTcm o) = s := by
    unfold State.noteRemote
    have hnone : s.linkOf (s.ownTcm o) = none := rfl
    rw [hnone, ite_self]
  have harea : s.workArea s.me (s.ownTcm o) = false := rfl
  have hwins (x : Nat) : s.readWins s.me (s.ownTcm o) n x = (x, s) := if_pos ⟨rfl, rfl⟩
  have hcoh : s.cohAccess s.me (s.ownTcm o) aRead [] = s := if_pos (Nat.zero_lt_succ 2)
  unfold State.readAt
  simp only [hline, harea, Bool.false_eq_true, if_false, s.ownTcm_kind, hwins, hremote, hcoh, ite_self]

end Reads

theorem loadExt_eq_res (w : IW) (v : Nat) : loadExt w v = res w v := by
  have himod : imod (v : Int) (nbits w) = v % 2 ^ nbits w := by
    rw [imod, ← Int.natCast_mod, Int.toNat_natCast]
  unfold loadExt res
  rw [himod]
  split
  · simp [sext, sint]
  · rfl

/-- An integer load that passes its checks. -/
theorem State.loadInt_of_ok {s t u : State} {len base d la v : Nat} {off : Int} {w : IW} {loc : Loc}
    (h : s.checkE s.me base off (nbits w / 8) (nbits w / 8) aRead = .ok (loc, t)) (hr : t.readAt t.me loc (nbits w / 8) = (v, u)) :
    s.loadInt len base off w d la = .next ((u.retire len).setRegLa la d (res w v) 0) := by
  rw [State.loadInt, State.load, accBytes, State.check_of_ok h]
  simp only [Res.bind, Res.done, hr, loadExt_eq_res]

/-- An integer store that passes its checks and whose write is accepted. -/
theorem State.storeInt_of_ok {s t u : State} {len base v : Nat} {off : Int} {w : IW} {loc : Loc}
    (h : s.checkE s.me base off (nbits w / 8) (nbits w / 8) aWrite = .ok (loc, t))
    (hw : ((t.retire len).orFlags 0).writeAt t.me loc (nbits w / 8) (v % 2 ^ nbits w) aWrite = .ok u) :
    s.storeInt len base off w v = .next u := by
  rw [State.storeInt, State.store, accBytes, State.check_of_ok h]
  simp only [Res.bind, State.commit, hw, Res.done]

/-! ### Writes -/

theorem State.wsKey_of_cur {s t : State} (h : t.cur = { s.cur with posted := t.cur.posted }) : t.cur.wsKey = s.cur.wsKey := by
  rw [h]; rfl

/-- The low bytes of ST are two bytes of the workspace. -/
theorem State.st_low (s : State) : s.st % 65536 = s.rdN (s.cur.wsKey + 0x120) 2 := Memory.readN_mod _ _ 8 2 (by omega)

/-- A state whose memory is that of an instruction that retired, raised flags and then wrote `n` bytes has stored them. -/
theorem Stored.of_mem {s t : State} {len k n v fl : Nat} (hmem : t.mem = (((s.retire len).orFlags fl).wrN k n v).mem)
    (hcur : t.cur = { s.cur with posted := t.cur.posted }) : Stored s t len k n v fl := by
  have hkey : t.cur.wsKey = s.cur.wsKey := State.wsKey_of_cur hcur
  have hrd (a m : Nat) (h : a + m ≤ k ∨ k + n ≤ a) : t.rdN a m = ((s.retire len).orFlags fl).rdN a m := by
    unfold State.rdN; rw [hmem]; exact Memory.readN_writeN_ne _ _ _ _ _ _ h
  have hold : ((s.retire len).orFlags fl).cur.wsKey = s.cur.wsKey := by rw [State.orFlags_cur, State.retire_cur]
  refine ⟨?bytes, fun hpc => ?pc, fun hfl => ?flags, fun a ha => ?frame, hcur⟩
  case bytes => unfold State.rdN; rw [hmem]; exact Memory.readN_writeN _ _ _ _
  case pc =>
    have heq : t.pc = ((s.retire len).orFlags fl).pc := by
      unfold State.pc State.ws
      rw [hkey, hold, hrd _ _ (by omega)]
    rw [heq, State.pc_orFlags, State.pc_retire]
  case flags =>
    have heq : t.st % 65536 = ((s.retire len).orFlags fl).st % 65536 := by
      rw [State.st_low, State.st_low, hkey, hold, hrd _ _ (by omega)]
    rw [heq, State.st_orFlags, State.st_retire]
  case frame =>
    simp only [not_or, not_and] at ha
    obtain ⟨hspan, hpc, hflag⟩ := ha
    have hbyte : t.rd a = ((s.retire len).orFlags fl).rd a := by
      unfold State.rd; rw [hmem]; exact (State.rd_wrN _ _ _ _ _).trans (if_neg hspan)
    rw [hbyte]
    by_cases hfl : fl = 0
    · rw [hfl, State.orFlags, if_pos rfl]; exact s.rd_retire_ne len a hpc
    · rw [State.rd_orFlags_ne (s.retire len) fl a (hflag hfl)]; exact s.rd_retire_ne len a hpc

/-- Bytes of a TCM that no live workspace holds are written as they are. -/
theorem State.tcmStore_of_clear (die cluster core : Nat) (n : Nat) : ∀ (s : State) (off v : Nat),
    (∀ x ∈ s.allActs, x.inSlot = true → x.die = die → x.cluster = cluster → x.core = core → x.wp + 0x140 ≤ off ∨ off + n ≤ x.wp) →
    s.tcmStore die cluster core off n v = s.wrN (tcmKey die cluster core off) n v := by
  induction n with
  | zero => exact fun _ _ _ _ => rfl
  | succ n ih =>
    intro s off v h
    have hno : s.wsAt die cluster core off = none := by
      rw [State.wsAt, Option.map_eq_none_iff, List.find?_eq_none]
      intro x hx
      simp only [Bool.and_eq_true, beq_iff_eq, decide_eq_true_eq]
      rintro ⟨⟨⟨⟨⟨hin, hd⟩, hc⟩, ho⟩, -⟩, hlo, hhi⟩
      have := h x hx hin hd hc ho
      omega
    have hbyte : (BitVec.ofNat 8 (v % 256) : Byte) = BitVec.ofNat 8 v := BitVec.eq_of_toNat_eq (by simp)
    have hrest := ih (s.wrN (tcmKey die cluster core off) 1 (v % 256)) (off + 1) (v / 256) fun x hx hin hd hc ho => by
      have := h x hx hin hd hc ho
      omega
    rw [State.tcmStore, hno]
    refine hrest.trans ?_
    simp only [State.wrN, State.setMem_mem, Memory.writeN, hbyte]
    rfl

/-- Nothing has changed but which writes may be missed and what the update class has still to deliver: writes that were on
record are there with other marks of release. -/
def SameButOrder (s t : State) : Prop :=
  (∃ up, t = (s.setRace t.race).modCoh fun h => { h with upd := up }) ∧ ∀ p ∈ t.race, ∃ q ∈ s.race, p = { q with rel := p.rel }

theorem SameButOrder.refl (s : State) : SameButOrder s s := ⟨⟨s.coh.upd, rfl⟩, fun p hp => ⟨p, hp, rfl⟩⟩

theorem SameButOrder.trans {s t u : State} (h : SameButOrder s t) (g : SameButOrder t u) : SameButOrder s u := by
  obtain ⟨⟨up, ht⟩, hrace⟩ := h
  obtain ⟨⟨up', hu⟩, hrace'⟩ := g
  refine ⟨⟨up', by rw [hu, ht]; rfl⟩, fun p hp => ?_⟩
  obtain ⟨q, hq, hpq⟩ := hrace' p hp
  obtain ⟨r, hr, hqr⟩ := hrace q hq
  exact ⟨r, hr, by rw [hpq, hqr]⟩

theorem SameButOrder.cutPoint (s : State) (w : Who) (x : Nat) (rmw : Bool) : SameButOrder s (s.cutPoint w x rmw) := by
  refine ⟨⟨_, rfl⟩, fun p hp => ?_⟩
  obtain ⟨q, hq, rfl⟩ := List.mem_map.1 hp
  exact ⟨q, hq, rfl⟩

theorem SameButOrder.foldl {α : Type} {f : State → α → State} (h : ∀ s x, SameButOrder s (f s x)) (xs : List α) (s : State) :
    SameButOrder s (xs.foldl f s) := by
  induction xs generalizing s with
  | nil => exact .refl s
  | cons x xs ih => exact (h s x).trans (ih (f s x))

theorem setRace_of_sameButOrder {s u : State} {up : FMap UpdView} (h : u = (s.setRace u.race).modCoh fun c => { c with upd := up })
    (r : List Past) : u.setRace r = (s.setRace r).modCoh fun c => { c with upd := up } :=
  (congrArg (State.setRace · r) h).trans rfl

/-- Putting a write on record changes the record and the pending writes of the update class only. -/
theorem State.keepPast_eq (s : State) (w : Who) (mca rmw : Bool) (key n : Nat) :
    ∃ r up, s.keepPast w mca rmw key n = (s.setRace r).modCoh (fun h => { h with upd := up })
      ∧ ∀ p ∈ r, p.at_ = s.sched.clock ∨ ∃ q ∈ s.race, p = { q with rel := p.rel } := by
  unfold State.keepPast
  dsimp only
  split
  · exact ⟨s.race, s.coh.upd, rfl, fun p hp => .inr ⟨p, hp, rfl⟩⟩
  · obtain ⟨⟨up, heq⟩, hrace⟩ := SameButOrder.foldl (f := fun s x => s.cutPoint w x rmw) (fun s x => .cutPoint s w x rmw) (wordsOf key n) s
    set u := (wordsOf key n).foldl (fun s x => s.cutPoint w x rmw) s with hu
    refine ⟨_, up, setRace_of_sameButOrder heq _, fun p hp => ?_⟩
    rcases List.mem_append.1 hp with hp | hp
    · exact .inr (hrace p hp)
    · obtain ⟨x, -, rfl⟩ := List.mem_map.1 hp
      exact .inl rfl

/-- The reservations that a write ends, its issuer's own apart (07 R177). -/
def dropResv (own : Act → Bool) (key n : Nat) (a : Act) : Act :=
  if (a.resv.map fun r => decide (key / 128 ≤ r.line ∧ r.line ≤ (key + n - 1) / 128)) == some true && !own a then { a with resv := none }
  else a

theorem State.disturbKey_of_noShadow {s : State} (h : ∀ e ∈ s.work.queues, e.2.shadow.st = 0) (own : Act → Bool) (key n : Nat) :
    s.disturbKey own key n = (s.mapActs (dropResv own key n)).mapAway (dropResv own key n) := by
  unfold State.disturbKey
  exact State.killShadows_none ((s.mapActs (dropResv own key n)).mapAway (dropResv own key n)) _ 4 h

/-- The state once a store has arrived in the issuer's own TCM: `r` are the writes on record and `up` the pending writes of the
update class. -/
def State.arrived (u : State) (o n v : Nat) (r : List Past) (up : FMap UpdView) : State :=
  let drop := dropResv (fun a => a.id == u.me.act && u.me.eng == 0) (u.ownTcm o).key n
  (((((u.setRace r).modCoh fun h => { h with upd := up }).wrN (u.ownTcm o).key n v).mapActs drop).mapAway drop).modCore u.cur.coreKey
    fun c => { c with arrival := (c.arrival + 1) % 2 ^ 32 }

/-- A store into the own TCM, clear of every live workspace. -/
theorem State.writeAt_own {u : State} {o n v : Nat} (hn : 0 < n) (ho : o + n ≤ 0x8000) (hq : ∀ e ∈ u.work.queues, e.2.shadow.st = 0)
    (hclear : ∀ x ∈ u.allActs, x.inSlot = true → x.coreKey = u.cur.coreKey → x.wp + 0x140 ≤ o ∨ o + n ≤ x.wp) :
    ∃ r up, u.writeAt u.me (u.ownTcm o) n v aWrite = .ok (u.arrived o n v r up)
      ∧ ∀ p ∈ r, p.at_ = u.sched.clock ∨ ∃ q ∈ u.race, p = { q with rel := p.rel } := by
  obtain ⟨-, hwin, -, hoff⟩ := own_window_fields hn ho
  obtain ⟨r, up, hkeep, hrace⟩ := u.keepPast_eq u.me true false (u.ownTcm o).key n
  refine ⟨r, up, ?_, hrace⟩
  set p := u.keepPast u.me true false (u.ownTcm o).key n with hp
  have hstore : p.tcmStore u.cur.die u.cur.cluster u.cur.core o n v = p.wrN (u.ownTcm o).key n v := by
    refine State.tcmStore_of_clear _ _ _ n _ o v fun x hx hin hd hc ho => hclear x ?_ hin (by rw [Act.coreKey, hd, hc, ho]; rfl)
    rw [hkeep] at hx
    exact hx
  have hlocal : u.writeAt u.me (u.ownTcm o) n v aWrite = .ok (p.writeLocal u.me (u.ownTcm o) n v aWrite) := rfl
  rw [hlocal]
  unfold State.writeLocal State.disturb
  have hva : (u.ownTcm o).va = 0xF0000000000000 + o := rfl
  have hhome : (u.ownTcm o).home = (u.cur.die, u.cur.cluster, u.cur.core) := rfl
  simp only [u.ownTcm_kind, if_true, hva, hhome, hwin, hoff, hstore]
  rw [if_neg (by decide), if_pos ⟨rfl, rfl⟩, State.disturbKey_of_noShadow (by rw [hkeep]; exact hq), hkeep]
  rfl

/-- A store in the own TCM above the records, clear of the workspaces in use, is accepted (06 R137). -/
theorem State.tcmWriteOk_own {s : State} {o n acc : Nat} (hlo : 0x2900 ≤ o)
    (hclear : ∀ x ∈ s.allActs, x.inSlot = true → x.coreKey = s.cur.coreKey → x.wp + 0x140 ≤ o ∨ o + n ≤ x.wp) :
    s.tcmWriteOk s.me s.cur.coreKey acc o n = true := by
  have hfree : s.runningWs s.me s.cur.coreKey o n = false := by
    rw [State.runningWs, List.any_eq_false]
    intro x hx
    simp only [Bool.and_eq_true, beq_iff_eq, overlaps, decide_eq_true_eq]
    rintro ⟨⟨⟨⟨hin, hc⟩, -⟩, -⟩, h1, h2⟩
    have := hclear x hx hin hc
    omega
  have hown : (s.cur.coreKey == s.me.coreKey) = true := by rw [beq_iff_eq]; rfl
  have heng : (s.me.eng != 0) = false := rfl
  unfold State.tcmWriteOk
  simp only [hfree, hown, heng, show ¬ o < 0xF00 by omega, show ¬ o < 0x2900 by omega]
  rfl

theorem dropResv_own {own : Act → Bool} {a : Act} (h : own a = true) (key n : Nat) : dropResv own key n a = a := by
  simp [dropResv, h]

/-- What a store of the issuer that arrives in its own TCM leaves. -/
theorem State.arrived_cur (u : State) (o n v : Nat) (r : List Past) (up : FMap UpdView) : (u.arrived o n v r up).cur = u.cur := by
  have hdrop : (u.arrived o n v r up).cur = dropResv (fun a => a.id == u.me.act && u.me.eng == 0) (u.ownTcm o).key n u.cur := rfl
  rw [hdrop, dropResv_own (by rw [Bool.and_eq_true, beq_iff_eq, beq_iff_eq]; exact ⟨rfl, rfl⟩)]

theorem State.ctx_mapAway (s : State) (f : Act → Act) (c : Nat) :
    (s.mapAway f).ctx c = { s.ctx c with
      savedActs := ((s.mapAway f).ctx c).savedActs, savedGroups := ((s.mapAway f).ctx c).savedGroups } := by
  unfold State.mapAway State.ctx
  simp only [State.setCtxs_ctxs, FMap.getD, FMap.get?_mapV]
  cases FMap.get? s.ctxs c <;> rfl

/-- Settles O21: the access goes to the issuer's own TCM, where a read finds the bytes that stand there and a write arrives. -/
theorem localTcmAccess : Obligations.LocalTcmAccess := by
  refine ⟨fun s w d a off la o hd => ?load, fun s w a b off hn o hshadow => ?store⟩
  case load =>
    intro n hea ho ha hrace
    have hcheck := State.checkE_own (s := s) (acc := aRead) (by rcases accBytes_cases w with h | h | h | h <;> omega) hea ho ha
      (accBytes_cases w) (fun h => absurd h (by decide))
    have hexec : exec (.ld w d a off la) s = s.loadInt 4 (s.reg a) (sint off 8 * n) w d la := rfl
    refine ⟨_, hexec.trans (State.loadInt_of_ok hcheck (State.readAt_own hrace)), LongResult.of_put s la d _ 0 hd⟩
  case store =>
    intro n hea hlo ho ha hclear
    have hn0 : 0 < n := by rcases accBytes_cases w with h | h | h | h <;> omega
    have hcheck := State.checkE_own (s := s) (acc := aWrite) hn0 hea ho ha (accBytes_cases w) (fun _ => State.tcmWriteOk_own hlo hclear)
    obtain ⟨hqueues, -, -⟩ := hshadow
    obtain ⟨r, up, hwrite, hrace⟩ := State.writeAt_own (u := (s.retire 4).orFlags 0) (v := s.reg b % 2 ^ nbits w) hn0 ho hqueues hclear
    set t := ((s.retire 4).orFlags 0).arrived o n (s.reg b % 2 ^ nbits w) r up with ht
    have hexec : exec (.st w a b off hn) s = .next t := by
      have hstart : exec (.st w a b off hn) s = s.storeInt 4 (s.reg a) (sint off 10 * n) w (s.reg b) := rfl
      exact hstart.trans (State.storeInt_of_ok hcheck hwrite)
    have hcur : t.cur = s.cur := State.arrived_cur _ _ _ _ _ _
    refine ⟨t, hexec, ?stored, ?core, ?cores, rfl, fun c => State.ctx_mapAway _ _ c, rfl, rfl, ?race, rfl, rfl, rfl, rfl⟩
    case stored =>
      have hmem := Stored.of_mem (s := s) (t := t) (len := 4) (k := tcmKey s.cur.die s.cur.cluster s.cur.core o) (n := n)
        (v := s.reg b % 2 ^ nbits w) (fl := 0) rfl (by rw [hcur])
      refine { hmem with bytes := ?_ }
      rw [hmem.bytes, two_pow_nbits, Nat.mod_mod]
    case core => exact State.core_modCore _ _ _
    case cores => exact fun k hk => State.core_modCore_ne _ _ _ _ hk
    case race => exact hrace

end Sys2Proof.Machine
end

section
/-!
SUPPORT. Fences and timelines (06 R145, R150, 07 R179 to R181): a fence in stages, what the stages leave alone, and what each
brings about.
-/

namespace Sys2Proof.Machine

/-! ### The stages of a fence -/

/-- Clocks of six kinds, those of a set raised to a clock. -/
def fenceUpTo (set : Nat) (l : List Nat) (v : Nat) : List Nat :=
  (List.range 6).map fun k => if bit set k then max (l.getD k 0) v else l.getD k 0

/-- The issuer's stores are ordered before what the engines of the successor set access from now on. -/
def State.fenceStores (s : State) (now pred succ : Nat) : State :=
  if bit pred 1 then
    s.modCur fun a => { a with fenced := fenceUpTo (bits succ 2 6) a.fenced (now + 1) }
  else s

/-- They are marked as ordered before the issuer's later stores. -/
def State.fenceMarks (s : State) (me : Who) (sc pred succ : Nat) : State :=
  if bit pred 1 && bit succ 1 then
    (s.mapRace fun p => if p.act == me.act && p.cmd.isNone then { p with fen := insertNew (me.act, sc) p.fen } else p).mapUpd
      fun p => if p.act == me.act && p.cmd.isNone then { p with fen := insertNew (me.act, sc) p.fen } else p
  else s

/-- They are visible to the execution place of its scope before the issuer's later reads. -/
def State.fenceShows (s : State) (me : Who) (sc now pred succ : Nat) : State :=
  if bit pred 1 && bit succ 0 then
    (s.mapRace fun p => if (p.act == me.act && p.cmd.isNone) && p.mca then p.show sc me.coreKey now else p).modCur fun a =>
      { a with view := a.view.set sc (max (a.view.getD sc 0) now) }
  else s

/-- The issuer's loads are ordered before what the engines access, and before its later reads. -/
def State.fenceLoads (s : State) (sc pred succ : Nat) : State :=
  let s := if bit pred 0 then
      s.modCur fun a => { a with loadFenced := fenceUpTo (bits succ 2 6) a.loadFenced a.sawAt }
    else s
  if bit pred 0 && bit succ 0 then s.modCur fun a => { a with view := a.view.set sc (max (a.view.getD sc 0) a.sawAt) } else s

/-- The commands of the engines of the predecessor set happen before what follows. -/
def State.fenceCmds (s : State) (ck : Nat) (issued : List Nat) (pred succ : Nat) : State :=
  let kinds := (List.range 3).filter fun k => bits pred (2 + 2 * k) 2 != 0
  if kinds.isEmpty then s
  else
    let s := s.takeCmds fun k n => kinds.contains k && decide (n ≤ issued.getD k 0)
    if bit succ 0 then s.l1Clear ck else s

theorem State.fenceOrder_eq (s : State) (sc pred succ : Nat) : s.fenceOrder sc pred succ =
    (((((s.fenceStores s.sched.clock pred succ).fenceMarks s.party sc pred succ).fenceShows s.party sc s.sched.clock pred succ).fenceLoads
      sc pred succ).fenceCmds s.party.coreKey (s.core s.party.coreKey).issued pred succ) := rfl

/-! ### What the stages leave alone -/

/-- From `s` to `t` only marks of order have changed: those of the issuer and those on the writes on record. -/
structure OrderOnly (s t : State) : Prop where
  mem : t.mem = s.mem
  cur : t.cur = { s.cur with fenced := t.cur.fenced, loadFenced := t.cur.loadFenced, view := t.cur.view }

theorem OrderOnly.refl (s : State) : OrderOnly s s := ⟨rfl, rfl⟩

theorem OrderOnly.trans {s t u : State} (h : OrderOnly s t) (g : OrderOnly t u) : OrderOnly s u :=
  ⟨g.mem.trans h.mem, by rw [g.cur, h.cur]⟩

theorem OrderOnly.stores (s : State) (now pred succ : Nat) : OrderOnly s (s.fenceStores now pred succ) := by
  unfold State.fenceStores; split <;> exact ⟨rfl, rfl⟩

theorem OrderOnly.marks (s : State) (me : Who) (sc pred succ : Nat) : OrderOnly s (s.fenceMarks me sc pred succ) := by
  unfold State.fenceMarks; split <;> exact ⟨rfl, rfl⟩

theorem OrderOnly.shows (s : State) (me : Who) (sc now pred succ : Nat) : OrderOnly s (s.fenceShows me sc now pred succ) := by
  unfold State.fenceShows; split <;> exact ⟨rfl, rfl⟩

theorem OrderOnly.loads (s : State) (sc pred succ : Nat) : OrderOnly s (s.fenceLoads sc pred succ) := by
  unfold State.fenceLoads; dsimp only; split <;> split <;> exact ⟨rfl, rfl⟩

theorem OrderOnly.cmds (s : State) (ck : Nat) (issued : List Nat) (pred succ : Nat) :
    OrderOnly s (s.fenceCmds ck issued pred succ) := by
  unfold State.fenceCmds; dsimp only; split
  · exact .refl s
  · split <;> exact ⟨rfl, rfl⟩

theorem OrderOnly.fenceOrder (s : State) (sc pred succ : Nat) : OrderOnly s (s.fenceOrder sc pred succ) := by
  rw [s.fenceOrder_eq]
  exact ((((OrderOnly.stores _ _ _ _).trans (.marks _ _ _ _ _)).trans (.shows _ _ _ _ _ _)).trans (.loads _ _ _ _)).trans (.cmds _ _ _ _ _)

/-! ### What they bring about -/

theorem State.fenced_fenceStores (s : State) {now pred succ k : Nat} (hk : k < 6) (hp : bit pred 1 = true)
    (hs : bit (bits succ 2 6) k = true) : (s.fenceStores now pred succ).cur.fenced.getD k 0 = max (s.cur.fenced.getD k 0) (now + 1) := by
  rw [State.fenceStores, if_pos hp]
  simp [fenceUpTo, List.getD, hk, hs]

/-- The stages after the first leave the order of the issuer's stores before the engines' accesses. -/
theorem State.fenced_fenceOrder (s : State) (sc pred succ : Nat) :
    (s.fenceOrder sc pred succ).cur.fenced = (s.fenceStores s.sched.clock pred succ).cur.fenced := by
  rw [s.fenceOrder_eq]
  generalize s.fenceStores s.sched.clock pred succ = a
  have h1 (me : Who) : (a.fenceMarks me sc pred succ).cur.fenced = a.cur.fenced := by
    unfold State.fenceMarks; split <;> rfl
  have h2 (b : State) (me : Who) (now : Nat) : (b.fenceShows me sc now pred succ).cur.fenced = b.cur.fenced := by
    unfold State.fenceShows; split <;> rfl
  have h3 (b : State) : (b.fenceLoads sc pred succ).cur.fenced = b.cur.fenced := by
    unfold State.fenceLoads; dsimp only; split <;> split <;> rfl
  have h4 (b : State) (ck : Nat) (l : List Nat) : (b.fenceCmds ck l pred succ).cur.fenced = b.cur.fenced := by
    unfold State.fenceCmds; dsimp only; split
    · rfl
    · split <;> rfl
  rw [h4, h3, h2, h1]

/-- A write of the activation `id` is visible at a scope around `ck`. -/
def Past.Shown (id sc ck : Nat) (p : Past) : Prop := p.act = id → p.cmd = none → p.mca = true → ∃ v ∈ p.vis, v.1 = sc ∧ v.2.1 = ck

theorem Past.vis_show (p : Past) (sc ck now : Nat) : ∃ v ∈ (p.show sc ck now).vis, v.1 = sc ∧ v.2.1 = ck := by
  unfold Past.show
  split
  · next h =>
    obtain ⟨v, hv, hval⟩ := List.any_eq_true.1 h
    rw [Bool.and_eq_true, beq_iff_eq, beq_iff_eq] at hval
    exact ⟨v, hv, hval⟩
  · exact ⟨(sc, ck, now), by simp, rfl, rfl⟩

theorem Past.shown_show {id sc ck : Nat} {p : Past} (h : p.Shown id sc ck) (a b now : Nat) : (p.show a b now).Shown id sc ck := by
  unfold Past.show
  split
  · exact h
  · intro hact hcmd hmca
    obtain ⟨v, hv, hval⟩ := h hact hcmd hmca
    exact ⟨v, List.mem_append_left _ hv, hval⟩

theorem State.shown_fenceShows (s : State) {me : Who} {sc now pred succ : Nat} (hp : bit pred 1 = true) (hs : bit succ 0 = true) :
    ∀ p ∈ (s.fenceShows me sc now pred succ).race, p.Shown me.act sc me.coreKey := by
  rw [State.fenceShows, hp, hs, Bool.and_true, if_pos rfl]
  intro p hmem
  obtain ⟨q, -, rfl⟩ := List.mem_map.1 hmem
  split
  · exact fun _ _ _ => q.vis_show sc me.coreKey now
  · next hno =>
    intro hact hcmd hmca
    exact absurd (by simp [hact, hcmd, hmca]) hno

theorem State.shown_fenceCmds {s : State} {id sc ck : Nat} (h : ∀ p ∈ s.race, p.Shown id sc ck) (k : Nat) (issued : List Nat)
    (pred succ : Nat) : ∀ p ∈ (s.fenceCmds k issued pred succ).race, p.Shown id sc ck := by
  have htake (q : Nat → Nat → Bool) : ∀ p ∈ (s.takeCmds q).race, p.Shown id sc ck := by
    intro p hmem
    obtain ⟨r, hr, rfl⟩ := List.mem_map.1 hmem
    dsimp only
    split
    · exact Past.shown_show (h r hr) _ _ _
    · exact h r hr
  unfold State.fenceCmds
  dsimp only
  split
  · exact h
  · split <;> exact htake _

theorem State.shown_fenceOrder (s : State) {sc pred succ : Nat} (hp : bit pred 1 = true) (hs : bit succ 0 = true) :
    ∀ p ∈ (s.fenceOrder sc pred succ).race, p.Shown s.cur.id sc s.cur.coreKey := by
  rw [s.fenceOrder_eq]
  refine State.shown_fenceCmds ?_ _ _ _ _
  have hrace (b : State) : (b.fenceLoads sc pred succ).race = b.race := by
    unfold State.fenceLoads; dsimp only; split <;> split <;> rfl
  rw [hrace]
  exact State.shown_fenceShows _ hp hs

/-- Whether a fence's predecessor set names an engine. -/
def fenceEngines (pred : Nat) : Bool := (List.range 3).any fun k => bits pred (2 + 2 * k) 2 != 0

theorem fenceEngines_iff (pred : Nat) : fenceEngines pred = true ↔ ∃ k, k < 3 ∧ pred / 2 ^ (2 + 2 * k) % 4 ≠ 0 := by
  simp [fenceEngines, bits]

theorem State.cores_fenceCmds (s : State) (ck : Nat) (issued : List Nat) (pred succ : Nat) :
    (s.fenceCmds ck issued pred succ).cores = if fenceEngines pred && bit succ 0 then (s.l1Clear ck).cores else s.cores := by
  have hkinds : ((List.range 3).filter fun k => bits pred (2 + 2 * k) 2 != 0).isEmpty = !fenceEngines pred := by
    rw [Bool.eq_iff_iff, List.isEmpty_iff, List.filter_eq_nil_iff, Bool.not_eq_true', fenceEngines, List.any_eq_false]
  unfold State.fenceCmds
  dsimp only
  rw [hkinds]
  cases fenceEngines pred
  · rfl
  · cases hs : bit succ 0 <;> rfl

theorem State.cores_fenceOrder (s : State) (sc pred succ : Nat) : (s.fenceOrder sc pred succ).cores =
    if fenceEngines pred && bit succ 0 then (s.l1Clear s.cur.coreKey).cores else s.cores := by
  have hpre : ((((s.fenceStores s.sched.clock pred succ).fenceMarks s.party sc pred succ).fenceShows s.party sc s.sched.clock pred
      succ).fenceLoads sc pred succ).cores = s.cores := by
    have h1 (now : Nat) : (s.fenceStores now pred succ).cores = s.cores := by
      unfold State.fenceStores; split <;> rfl
    have h2 (b : State) (me : Who) : (b.fenceMarks me sc pred succ).cores = b.cores := by
      unfold State.fenceMarks; split <;> rfl
    have h3 (b : State) (me : Who) (now : Nat) : (b.fenceShows me sc now pred succ).cores = b.cores := by
      unfold State.fenceShows; split <;> rfl
    have h4 (b : State) : (b.fenceLoads sc pred succ).cores = b.cores := by
      unfold State.fenceLoads; dsimp only; split <;> split <;> rfl
    rw [h4, h3, h2, h1]
  rw [s.fenceOrder_eq, State.cores_fenceCmds, hpre]
  have hclear (t : State) (h : t.cores = s.cores) : (t.l1Clear s.party.coreKey).cores = (s.l1Clear s.cur.coreKey).cores := by
    unfold State.l1Clear State.modCore State.core; rw [h]; rfl
  rw [hclear _ hpre]

theorem State.l1_l1Clear (s : State) (ck : Nat) : ((s.l1Clear ck).core ck).l1 = [] := by
  unfold State.l1Clear; rw [State.core_modCore]

theorem State.core_congr {s t : State} (h : t.cores = s.cores) (k : Nat) : t.core k = s.core k := by
  unfold State.core; rw [h]

/-! ### The fence -/

/-- The state in which a fence's issuer has retired it and closed its windows. -/
def State.fenceRetired (s : State) : State := (s.retire 4).modCur fun a => { a with wins := [] }

/-- Whether a fence waits for its engines, or for a refetch (09 R231). -/
theorem State.fence_waits_iff (s : State) (pred : Nat) :
    (((List.range 3).any fun k => bits pred (2 + 2 * k) 2 != 0 && s.myCore.busy k) || (bit pred 4 && s.myCore.refetches)) = true
      ↔ (∃ k, k < 3 ∧ pred / 2 ^ (2 + 2 * k) % 4 ≠ 0 ∧ s.myCore.tl.getD k 0 < s.myCore.issued.getD k 0)
        ∨ (pred / 16 % 2 = 1 ∧ s.myCore.refetches = true) := by
  simp [Core.busy, bits, bit]

theorem State.exec_fence_waits {s : State} {sc pred succ : Nat}
    (h : (∃ k, k < 3 ∧ pred / 2 ^ (2 + 2 * k) % 4 ≠ 0 ∧ s.myCore.tl.getD k 0 < s.myCore.issued.getD k 0)
      ∨ (pred / 16 % 2 = 1 ∧ s.myCore.refetches = true)) : exec (.fence sc pred succ) s = .next s :=
  if_pos ((s.fence_waits_iff pred).2 h)

/-- What a fence that does not wait leaves. -/
def State.fenced (s : State) (sc pred succ : Nat) : State :=
  let t := s.fenceRetired.fenceOrder sc pred succ
  if bit succ 0 && sc != 0 then t.l1Clear t.cur.coreKey else t

theorem State.exec_fence_goes {s : State} {sc pred succ : Nat}
    (h : ¬ ((∃ k, k < 3 ∧ pred / 2 ^ (2 + 2 * k) % 4 ≠ 0 ∧ s.myCore.tl.getD k 0 < s.myCore.issued.getD k 0)
      ∨ (pred / 16 % 2 = 1 ∧ s.myCore.refetches = true))) (hfree : s.ReleaseFree (if pred / 2 % 2 = 1 then sc else 0)) :
    exec (.fence sc pred succ) s = .next ((s.settled (if pred / 2 % 2 = 1 then sc else 0)).fenced sc pred succ) := by
  have hscope : (if bit pred 1 = true then sc else 0) = if pred / 2 % 2 = 1 then sc else 0 := by simp [bit]
  have hgo : exec (.fence sc pred succ) s
      = s.settle (if bit pred 1 = true then sc else 0) fun z => .next (z.fenced sc pred succ) :=
    if_neg (mt (s.fence_waits_iff pred).1 h)
  rw [hgo, hscope, State.settle_of_free hfree]

theorem OrderOnly.fenced (s : State) (sc pred succ : Nat) : OrderOnly s.fenceRetired (s.fenced sc pred succ) := by
  have h := OrderOnly.fenceOrder s.fenceRetired sc pred succ
  unfold State.fenced
  dsimp only
  split
  · exact h.trans ⟨rfl, rfl⟩
  · exact h

theorem State.l1_core_l1Clear (s : State) (ck k : Nat) : ((s.l1Clear ck).core k).l1 = if k = ck then [] else (s.core k).l1 := by
  split
  · next h => rw [h, State.l1_l1Clear]
  · next h => rw [State.l1Clear, State.core_modCore_ne _ _ _ _ h]

/-- The L1 of a core after a fence. -/
theorem State.l1_fenced (s : State) (sc pred succ k : Nat) : ((s.fenced sc pred succ).core k).l1 =
    if (bit succ 0 && (sc != 0 || fenceEngines pred)) = true ∧ k = s.cur.coreKey then [] else (s.core k).l1 := by
  have hkey : (s.fenceRetired.fenceOrder sc pred succ).cur.coreKey = s.cur.coreKey := by
    rw [(OrderOnly.fenceOrder s.fenceRetired sc pred succ).cur]; rfl
  have horder : ((s.fenceRetired.fenceOrder sc pred succ).core k).l1
      = if (bit succ 0 && fenceEngines pred) = true ∧ k = s.cur.coreKey then [] else (s.core k).l1 := by
    have hcores := s.fenceRetired.cores_fenceOrder sc pred succ
    rw [Bool.and_comm] at hcores
    cases h : bit succ 0 && fenceEngines pred
    · rw [h, if_neg Bool.false_ne_true] at hcores
      rw [State.core_congr hcores, if_neg (by simp)]
      rfl
    · rw [h, if_pos rfl] at hcores
      rw [State.core_congr hcores, State.l1_core_l1Clear]
      simp only [true_and]
      rfl
  unfold State.fenced
  dsimp only
  split
  · next hclear =>
    obtain ⟨hs, hsc⟩ := Bool.and_eq_true_iff.1 hclear
    by_cases hk : k = s.cur.coreKey <;> simp [State.l1_core_l1Clear, hkey, horder, hk, hs, hsc]
  · next hkeep =>
    have hsame : (bit succ 0 && fenceEngines pred) = (bit succ 0 && (sc != 0 || fenceEngines pred)) := by
      rw [Bool.and_or_distrib_left, Bool.eq_false_iff.2 hkeep, Bool.false_or]
    rw [horder, hsame]

theorem State.settled_wsKey (s : State) (scope : Nat) : (s.settled scope).cur.wsKey = s.cur.wsKey := by
  rw [(s.settled_frame scope).2.1]; rfl

theorem State.settled_cores (s : State) (scope : Nat) : (s.settled scope).cores = s.cores := by
  unfold State.settled; split <;> rfl

theorem State.settled_sched (s : State) (scope : Nat) : (s.settled scope).sched = s.sched := by
  unfold State.settled; split <;> rfl

theorem State.pc_of_same {s t : State} (hm : t.mem = s.mem) (hk : t.cur.wsKey = s.cur.wsKey) : t.pc = s.pc := by
  unfold State.pc State.ws State.rdN; rw [hm, hk]

theorem OrderOnly.wsKey {s t : State} (h : OrderOnly s t) : t.cur.wsKey = s.cur.wsKey := by rw [h.cur]; rfl

theorem OrderOnly.pc {s t : State} (h : OrderOnly s t) : t.pc = s.pc := State.pc_of_same h.mem h.wsKey

/-- The settled state retires as the state does. -/
theorem State.mem_settled_retire (s : State) (scope n : Nat) : ((s.settled scope).retire n).mem = (s.retire n).mem := by
  have hmem := (s.settled_frame scope).1
  have hkey := s.settled_wsKey scope
  have hpc : (s.settled scope).pc = s.pc := State.pc_of_same hmem hkey
  simp only [State.retire, State.setPc, State.setWs, State.wrN, State.setMem_mem, hmem, hkey, hpc]

theorem bit_succ_kind {succ k : Nat} (hk : k < 6) (h : succ / 2 ^ (2 + k) % 2 = 1) : bit (bits succ 2 6) k = true := by
  rw [bit, beq_iff_eq, bits]
  interval_cases k <;> omega

/-- R179: a fence that does not wait. -/
theorem runs_fence {s : State} {sc pred succ : Nat}
    (hno : ¬ ((∃ k, k < 3 ∧ pred / 2 ^ (2 + 2 * k) % 4 ≠ 0 ∧ s.myCore.tl.getD k 0 < s.myCore.issued.getD k 0)
      ∨ (pred / 16 % 2 = 1 ∧ s.myCore.refetches = true))) (hfree : s.ReleaseFree (if pred / 2 % 2 = 1 then sc else 0)) :
    let z := s.settled (if pred / 2 % 2 = 1 then sc else 0)
    let clears := succ % 2 = 1 ∧ (1 ≤ sc ∨ ∃ k, k < 3 ∧ pred / 2 ^ (2 + 2 * k) % 4 ≠ 0)
    Runs (.fence sc pred succ) s fun u =>
      u.pc = (s.pc + 4) % 2 ^ 56 ∧ SameMem s u s.pcSpan
        ∧ u.cur = { z.cur with wins := [], fenced := u.cur.fenced, loadFenced := u.cur.loadFenced, view := u.cur.view }
        ∧ (∀ k, k < 6 → pred / 2 % 2 = 1 → succ / 2 ^ (2 + k) % 2 = 1 →
            u.cur.fenced.getD k 0 = max (s.cur.fenced.getD k 0) (s.sched.clock + 1))
        ∧ (pred / 2 % 2 = 1 → succ % 2 = 1 → ∀ p ∈ u.race, p.act = s.cur.id → p.cmd = none → p.mca = true →
            ∃ v ∈ p.vis, v.1 = sc ∧ v.2.1 = s.cur.coreKey)
        ∧ (clears → (u.core s.cur.coreKey).l1 = [])
        ∧ (∀ k, ¬ clears ∨ k ≠ s.cur.coreKey → (u.core k).l1 = (s.core k).l1) := by
  intro z clears
  have hz : z.cur = { s.cur with posted := z.cur.posted } := (s.settled_frame _).2.1
  have hzkey : z.cur.coreKey = s.cur.coreKey := by rw [hz]; rfl
  have hzcores : z.cores = s.cores := s.settled_cores _
  have hzsched : z.sched = s.sched := s.settled_sched _
  have horder := OrderOnly.fenced z sc pred succ
  have hmem : (z.fenced sc pred succ).mem = (s.retire 4).mem := horder.mem.trans (s.mem_settled_retire _ 4)
  have hclears : clears ↔ (bit succ 0 && (sc != 0 || fenceEngines pred)) = true := by
    rw [Bool.and_eq_true, Bool.or_eq_true, fenceEngines_iff, bne_iff_ne, ← Nat.one_le_iff_ne_zero, bit, beq_iff_eq, pow_zero, Nat.div_one]
  have hfenced : (z.fenced sc pred succ).cur.fenced = (z.fenceRetired.fenceOrder sc pred succ).cur.fenced := by
    unfold State.fenced; dsimp only; split <;> rfl
  have hrace : (z.fenced sc pred succ).race = (z.fenceRetired.fenceOrder sc pred succ).race := by
    unfold State.fenced; dsimp only; split <;> rfl
  have hl1 (k : Nat) := z.l1_fenced sc pred succ k
  rw [hzkey] at hl1
  refine ⟨_, State.exec_fence_goes hno hfree, ?pc, ?frame, horder.cur, ?stores, ?shown, ?cleared, ?kept⟩
  case pc =>
    rw [horder.pc]
    have hret : z.fenceRetired.pc = (z.retire 4).pc := rfl
    rw [hret, z.pc_retire, State.pc_of_same (s.settled_frame _).1 (s.settled_wsKey _)]
  case frame =>
    intro k hk
    rw [State.rd, hmem]
    exact s.rd_retire_ne 4 k hk
  case stores =>
    intro k hk hp hs
    have hp' : bit pred 1 = true := beq_iff_eq.2 hp
    rw [hfenced, State.fenced_fenceOrder, State.fenced_fenceStores _ hk hp' (bit_succ_kind hk hs)]
    have hcur : z.fenceRetired.cur.fenced = s.cur.fenced := by
      have : z.fenceRetired.cur.fenced = z.cur.fenced := rfl
      rw [this, hz]
    have hclock : z.fenceRetired.sched.clock = s.sched.clock := by
      have : z.fenceRetired.sched = z.sched := rfl
      rw [this, hzsched]
    rw [hcur, hclock]
  case shown =>
    intro hp hs p hmem hact
    have hs' : bit succ 0 = true := by rw [bit, beq_iff_eq, pow_zero, Nat.div_one]; exact hs
    rw [hrace] at hmem
    have hshown := z.fenceRetired.shown_fenceOrder (sc := sc) (beq_iff_eq.2 hp) hs' p hmem
    have hid : z.fenceRetired.cur.id = s.cur.id ∧ z.fenceRetired.cur.coreKey = s.cur.coreKey :=
      ⟨show z.cur.id = s.cur.id by rw [hz], hzkey⟩
    rw [hid.1, hid.2] at hshown
    exact hshown hact
  case cleared => exact fun hc => by rw [hl1, if_pos ⟨hclears.1 hc, rfl⟩]
  case kept =>
    intro k hk
    rw [hl1, if_neg (by rw [← hclears]; exact not_and_or.2 hk), State.core_congr hzcores]

/-! ### Timelines (R180, R181) -/

section Timelines

variable {s : State} {d a kind : Nat}

theorem OrderOnly.takeCmds (s : State) (q : Nat → Nat → Bool) : OrderOnly s (s.takeCmds q) := ⟨rfl, rfl⟩

theorem State.unlessClause_of_ne (h : s.cur.orig ≠ 2) (k : Out) : s.unlessClause k = k := if_neg h

/-- A wait for a number that has been issued and completed, without an error up to it, is over. -/
theorem runs_tlwait_done (ho : s.cur.orig ≠ 2) (hi : s.reg a ≤ s.myCore.issued.getD kind 0) (hd : s.reg a ≤ s.myCore.tl.getD kind 0)
    (he : s.cur.errorOf kind (s.reg a) = none) : Runs (.tlwait a kind) s fun u =>
      u.pc = (s.pc + 4) % 2 ^ 56 ∧ SameMem s u s.pcSpan ∧ u.cur = { s.cur with wins := [], view := u.cur.view }
        ∧ (u.core s.cur.coreKey).l1 = [] := by
  have hexec : exec (.tlwait a kind) s = .next (s.fenceRetired.tlAcquire kind (s.reg a)) := by
    have hstart : exec (.tlwait a kind) s = execTlwait a kind s := rfl
    rw [hstart, execTlwait, s.unlessClause_of_ne ho]
    simp only [Nat.not_lt.2 hi, if_false, he, hd, if_true]
    rfl
  refine ⟨_, hexec, s.pc_retire 4, fun k hk => s.rd_retire_ne 4 k hk, rfl, ?_⟩
  exact State.l1_l1Clear _ _

theorem exec_tlwait_blocks (ho : s.cur.orig ≠ 2) (hi : s.reg a ≤ s.myCore.issued.getD kind 0) (hd : s.myCore.tl.getD kind 0 < s.reg a)
    (he : s.cur.errorOf kind (s.reg a) = none) : exec (.tlwait a kind) s = .next (s.block (.tl kind (s.reg a))) := by
  have hstart : exec (.tlwait a kind) s = execTlwait a kind s := rfl
  rw [hstart, execTlwait, s.unlessClause_of_ne ho]
  simp only [Nat.not_lt.2 hi, if_false, he, Nat.not_le.2 hd]

theorem exec_tlwait_range (ho : s.cur.orig ≠ 2) (hi : s.myCore.issued.getD kind 0 < s.reg a) :
    exec (.tlwait a kind) s = .next (s.trapHere 0x0A 0 (s.reg a)) := by
  have hstart : exec (.tlwait a kind) s = execTlwait a kind s := rfl
  rw [hstart, execTlwait, s.unlessClause_of_ne ho]
  exact if_pos hi

theorem exec_tltest_range (hi : s.myCore.issued.getD kind 0 < s.reg a) :
    exec (.tltest d a kind) s = .next (s.trapHere 0x0A 0 (s.reg a)) := if_pos hi

theorem exec_tltest_below (hi : s.reg a ≤ s.myCore.issued.getD kind 0) (hd : s.myCore.tl.getD kind 0 < s.reg a) :
    exec (.tltest d a kind) s = s.put 4 d 0 0 := (if_neg (Nat.not_lt.2 hi)).trans (if_neg (Nat.not_le.2 hd))

theorem exec_tltest_done (hi : s.reg a ≤ s.myCore.issued.getD kind 0) (hd : s.reg a ≤ s.myCore.tl.getD kind 0)
    (he : s.cur.errorOf kind (s.reg a) = none) :
    exec (.tltest d a kind) s = .next (((s.retire 4).setReg d 1 0).tlAcquire kind (s.reg a)) := by
  have hstart : exec (.tltest d a kind) s = execTltest d a kind s := rfl
  rw [hstart, execTltest]
  simp only [Nat.not_lt.2 hi, if_false, he, hd, if_true]

end Timelines

/-- Settles O27: a fence waits or runs through its stages, a timeline instruction compares with the number issued and the number
completed, and the hints end at once. -/
theorem fencesTimelinesAndHints : Obligations.FencesTimelinesAndHints := by
  refine ⟨fun s sc pred succ => ⟨State.exec_fence_waits, runs_fence⟩, fun s d a kind hd => ?timelines,
    fun s t k rest d a loc hd => ?hints⟩
  case timelines =>
    exact ⟨fun hs hi => Runs.of_trapHere (exec_tltest_range hi) hs, fun hs ho hi => Runs.of_trapHere (exec_tlwait_range ho hi) hs,
      fun hi hlt => Runs.of_put (exec_tltest_below hi hlt) hd, fun hi hle he => ⟨_, exec_tltest_done hi hle he, rfl⟩,
      runs_tlwait_done, fun ho hi hlt he => ⟨_, exec_tlwait_blocks ho hi hlt he, Blocked.of_block s _⟩⟩
  case hints =>
    refine ⟨⟨_, rfl, Advanced.of_retire s 4⟩, ⟨_, rfl, Advanced.of_retire s 2⟩, fun hs => ?l1inv, fun hl => ?trread⟩
    case l1inv =>
      have hexec : exec .l1inv s = .next ((s.retire 4).l1Clear s.cur.coreKey) := if_neg (by rw [hs]; exact Bool.false_ne_true)
      exact ⟨_, hexec, s.pc_retire 4, fun k hk => s.rd_retire_ne 4 k hk, rfl, State.l1_l1Clear _ _,
        fun j hj => State.core_modCore_ne _ _ _ _ hj⟩
    case trread =>
      have hexec : exec (.trread d a) s = t.put 4 d (t.recWord loc) 0 := by
        have hstart : exec (.trread d a) s = execTrread d a s := rfl
        rw [hstart, execTrread, hl]
      exact ⟨_, hexec, RegResult.of_put t 4 d _ 0 hd⟩

end Sys2Proof.Machine
end

section
/-!
SUPPORT. The copy instructions (07 R182 to R187): what each queues once its operands are read.
-/

namespace Sys2Proof.Machine

/-- A command with the next number of its timeline is queued. -/
theorem Queued.of_newCmd (s : State) (kind op q d : Nat) (args : List Nat) (hd : d < 32) :
    ∃ t, s.enqueue kind d (s.newCmd kind op q args) = .next t ∧ Queued s t kind d (s.newCmd kind op q args) :=
  Queued.of_enqueue s kind d _ hd rfl

theorem State.copyFull_iff (s : State) : s.copyFull = true ↔ 32 ≤ (s.core s.cur.coreKey).copies.length := by
  exact decide_eq_true_iff

section Copies

variable {s t : State} {d a b q la : Nat}

/-- A copy whose count is not 0 is queued. -/
theorem Runs.of_issueCopy {i : Instr} {op : Nat} {args : List Nat} (h : exec i s = t.issueCopy d (t.newCmd 0 op q args) false)
    (hd : d < 32) : Runs i s fun v => ∃ c : Cmd, Queued t v 0 d c ∧ c.op = op ∧ c.q = q ∧ c.args = args ∧ c.act = t.cur.id := by
  obtain ⟨v, hv, hq⟩ := Queued.of_newCmd t 0 op q d args hd
  exact ⟨v, h.trans hv, _, hq, rfl, rfl, rfl, rfl⟩

/-- An empty copy completes at once. -/
theorem Runs.of_issueCopy_empty {i : Instr} {op : Nat} {args : List Nat} (h : exec i s = s.issueCopy d (s.newCmd 0 op q args) true)
    (hd : d < 32) : Runs i s fun v => ∃ y c, Queued s y 0 d c ∧ v = y.endCmd s.cur.coreKey 0 c none 0 := by
  obtain ⟨y, hy, hq⟩ := Queued.of_newCmd s 0 op q d args hd
  have hcur := congrArg (fun x : State => x.cur) hq.only
  have hrun : s.issueCopy d (s.newCmd 0 op q args) true = .next (y.endCmd y.cur.coreKey 0 (s.newCmd 0 op q args) none 0) := by
    rw [State.issueCopy, hy]; rfl
  exact ⟨_, h.trans hrun, y, _, hq, by rw [← hcur]; rfl⟩

theorem exec_cpy_of_room (h : ¬ 32 ≤ (s.core s.cur.coreKey).copies.length) : exec (.cpy d a b q la) s =
    if 2 ^ 32 < s.reg d then .next (s.trapHere cRANGE 0 (s.reg d))
    else s.issueCopy d (s.newCmd 0 0 q [s.reg a, s.reg b, s.reg d]) (s.reg d == 0) := if_neg (mt s.copyFull_iff.1 h)

theorem exec_cpyt_of_maps {u : State} {dm sm : List Nat} (h : ¬ 32 ≤ (s.core s.cur.coreKey).copies.length) (hm : s.reg d < 8)
    (hdm : s.loadWords (s.reg a) 0 8 = .ok dm u) (hsm : u.loadWords (u.reg b) 0 8 = .ok sm t) (hdb : mapBad dm = false)
    (hsb : mapBad sm = false) (hr : mapRank dm = mapRank sm) (hdim : ∀ k, k < 4 → mapDim dm k = mapDim sm k)
    (hmx : isMx (mapFmt dm) = true → mapDim dm 0 % 32 = 0) :
    exec (.cpyt d a b q la) s = t.issueCopy d (t.newCmd 0 1 q (dm ++ sm ++ [t.reg d, t.rm])) false := by
  have hshape : ¬ (mapRank dm ≠ mapRank sm ∨ ((List.range 4).any fun k => mapDim dm k != mapDim sm k) = true
      ∨ (isMx (mapFmt dm) = true ∧ mapDim dm 0 % 32 ≠ 0)) := by
    rw [List.any_eq_true]
    rintro (h | ⟨k, hk, hne⟩ | ⟨hm, hz⟩)
    · exact h hr
    · exact bne_iff_ne.1 hne (hdim k (List.mem_range.1 hk))
    · exact hz (hmx hm)
  have hstart : exec (.cpyt d a b q la) s = execCpyt d a b q la s := rfl
  rw [hstart, execCpyt]
  simp only [mt s.copyFull_iff.1 h, Nat.not_le.2 hm, if_false, hdm, hsm, Res.bind, hdb, hsb, Bool.or_self, hshape]
  rfl

theorem exec_cpyg_of_descriptor {u : State} {src : Nat} {ws : List Nat} (h : ¬ 32 ≤ (s.core s.cur.coreKey).copies.length)
    (hsrc : s.load 4 (s.reg b) 0 8 8 = .ok src u) (hws : u.loadWords (u.reg b) 8 3 = .ok ws t)
    (hc0 : ws.getD 1 0 % 2 ^ 32 ≠ 0) (hc : ws.getD 1 0 % 2 ^ 32 ≤ 2 ^ 24) (hr1 : 1 ≤ ws.getD 1 0 / 2 ^ 32) (hr : ws.getD 1 0 / 2 ^ 32 ≤ 65536) :
    exec (.cpyg d a b q la) s = t.issueCopy d
      (t.newCmd 0 2 q [t.reg a, src, ws.getD 0 0, ws.getD 1 0 % 2 ^ 32, ws.getD 1 0 / 2 ^ 32, ws.getD 2 0]) false := by
  have hrecb : ¬ (ws.getD 1 0 / 2 ^ 32 = 0 ∨ 65536 < ws.getD 1 0 / 2 ^ 32) := by omega
  have hcount : ¬ 2 ^ 24 < ws.getD 1 0 % 2 ^ 32 := Nat.not_lt.2 hc
  have hstart : exec (.cpyg d a b q la) s = execCpyg d a b q la s := rfl
  rw [hstart, execCpyg]
  simp only [mt s.copyFull_iff.1 h, if_false, hsrc, hws, Res.bind, List.getD_cons_succ, List.getD_cons_zero, hrecb, hcount,
    beq_eq_false_iff_ne.2 hc0, Bool.false_eq_true]

end Copies

/-- Settles O28: a full list leaves the instruction where it is, a count above its bound traps, and otherwise the command is
queued or, empty, completes. -/
theorem copies : Obligations.Copies := by
  intro s d a b q la hd full
  refine ⟨fun hf => ?stall, fun hf hs hn => ?range, fun hf hn0 hn => ?queued, fun hf hn => ?empty,
    fun dm sm u t hf hm hdm hsm hdb hsb hr hdim hmx => ?tensor, fun src ws u t hf hsrc hws => ?gather⟩
  case stall =>
    have hfull := s.copyFull_iff.2 hf
    exact ⟨if_pos hfull, if_pos hfull, if_pos hfull⟩
  case range => exact Runs.of_trapHere ((exec_cpy_of_room hf).trans (if_pos hn)) hs
  case queued =>
    refine Runs.of_issueCopy ?_ hd
    rw [exec_cpy_of_room hf, if_neg (Nat.not_lt.2 hn), beq_eq_false_iff_ne.2 hn0]
  case empty =>
    refine Runs.of_issueCopy_empty (op := 0) (q := q) (args := [s.reg a, s.reg b, s.reg d]) ?_ hd
    rw [exec_cpy_of_room hf, if_neg (by omega), hn]
    rfl
  case tensor =>
    obtain ⟨v, hv, c, hq, hop, hcq, hargs, -⟩ := Runs.of_issueCopy (exec_cpyt_of_maps (la := la) (q := q) hf hm hdm hsm hdb hsb hr hdim hmx) hd
    exact ⟨v, hv, c, hq, hop, hcq, hargs⟩
  case gather =>
    intro count recb hc0 hc hr1 hr
    obtain ⟨v, hv, c, hq, hop, hcq, hargs, -⟩ := Runs.of_issueCopy (exec_cpyg_of_descriptor (la := la) (d := d) (q := q) (a := a) hf hsrc hws hc0 hc hr1 hr) hd
    exact ⟨v, hv, c, hq, hop, hcq, hargs⟩

end Sys2Proof.Machine
end

section
/-!
SUPPORT. Claims of lanes (08 R190 to R193) and gangs (R212 to R216).
-/

namespace Sys2Proof.Machine

/-! ### Claims -/

theorem FMap.get?_filter {α : Type} (p : Nat → Bool) (m : FMap α) (k : Nat) :
    FMap.get? (m.filter fun e => p e.1) k = if p k then FMap.get? m k else none := by
  induction m with
  | nil => simp [FMap.get?]
  | cons e m ih =>
    rw [List.filter_cons]
    by_cases hk : e.1 = k
    · subst hk
      cases hp : p e.1 <;> simp [hp, ih, FMap.get?]
    · cases hp : p e.1 <;> simp [ih, FMap.get?, hk]

theorem FMap.getD_shrinkVr (vr : FMap Nat) (g k : Nat) :
    FMap.getD (shrinkVr vr g) k 0 = if k % 64 < g then FMap.getD vr k 0 else 0 := by
  rw [FMap.getD, shrinkVr, FMap.get?_filter fun i => decide (i % 64 < g)]
  by_cases h : k % 64 < g <;> simp [h, FMap.getD]

theorem laneOf_shrinkVr_high (vr : FMap Nat) {g v i : Nat} (hi : i < 64) (hg : g ≤ i) : laneOf (shrinkVr vr g) v i = 0 := by
  rw [laneOf, FMap.getD_shrinkVr, if_neg (by omega)]

/-- The issuer with a new grant, its lanes at or above `h` discarded. -/
def State.regrant (s : State) (grant h : Nat) : State := s.modCur fun x => { x with grant := grant, vr := shrinkVr x.vr h }

/-- What a claim leaves of the lanes, for a new grant and the bound `h` above which lanes are discarded. -/
theorem State.regrant_lanes (s : State) {d grant h : Nat} (hd : d < 32) (hlo : min grant s.cur.grant ≤ h) (hhi : h ≤ s.cur.grant) :
    let t := ((s.regrant grant h).retire 4).setReg d grant 0
    t.cur.grant = grant ∧ t.Holds d t.cur.grant 0 ∧ t.pc = (s.pc + 4) % 2 ^ 56
      ∧ (∀ k, k % 64 < min t.cur.grant s.cur.grant → FMap.getD t.cur.vr k 0 = FMap.getD s.cur.vr k 0)
      ∧ ∀ v i, i < 64 → s.cur.grant ≤ i → t.lane v i = 0 := by
  intro t
  have hcur : t.cur = { s.cur with grant := grant, vr := shrinkVr s.cur.vr h } := State.setReg_cur _ _ _ _
  have hgrant : t.cur.grant = grant := by rw [hcur]
  refine ⟨hgrant, ?_, ?_, fun k hk => ?_, fun v i hi hg => ?_⟩
  · rw [hgrant]; exact State.holds_setReg _ _ _ _ hd
  · have hpc : t.pc = ((s.regrant grant h).retire 4).pc := State.pc_setReg _ _ _ _
    rw [hpc]; exact State.pc_retire _ 4
  · rw [hgrant] at hk
    rw [hcur]
    exact (FMap.getD_shrinkVr _ _ _).trans (if_pos (by omega))
  · rw [State.lane, hcur]
    exact laneOf_shrinkVr_high _ hi (by omega)

/-- The lanes that a claim asks for, in eights (R191). -/
def State.claimOf (s : State) (a imm : Nat) : Nat := ((max 0 (min (sint (s.reg a) 64 + sint imm 12) 64)).toNat + 7) / 8 * 8

/-- The activations that a claim may take lanes from, in their order (R193). -/
def State.claimFrom (s : State) : List Act := ((s.clusterActs s.cur).filter (s.canTake s.cur)).foldr actInsert []

/-- The grant that a claim gets (R191, R193). -/
def State.claimGets (s : State) (r : Nat) : Nat :=
  min r (s.cur.grant + s.freeLanes s.cur + s.claimFrom.foldl (fun n b => n + (b.grant - b.saved)) 0) / 8 * 8

theorem exec_vclaim (s : State) (d a imm : Nat) : exec (.vclaim d a imm) s =
    if s.claimOf a imm < s.cur.grant then (s.regrant (s.claimOf a imm) (s.claimOf a imm)).put 4 d (s.claimOf a imm) 0
    else
      let g := s.cur.grant
      let g' := s.claimGets (s.claimOf a imm)
      ((s.takeLanes s.claimFrom (g' - g - min (g' - g) (s.freeLanes s.cur))).regrant g' g).put 4 d g' 0 := by
  have hclamp : clampInt (s.ireg a + sint imm 12) 0 64 = max 0 (min (sint (s.reg a) 64 + sint imm 12) 64) := clampInt_eq _ (by decide)
  have hstart : exec (.vclaim d a imm) s = execVclaim d a imm s := rfl
  rw [hstart, execVclaim, hclamp]
  rfl

/-! ### Gangs -/

/-- An activation of the issuer's quad, on another core, that a mask names. -/
def State.inMask (s : State) (m : Nat) (x : Act) : Prop :=
  x.die = s.cur.die ∧ x.cluster = s.cur.cluster ∧ x.core / 4 = s.cur.core / 4 ∧ x.core ≠ s.cur.core
    ∧ m.testBit (x.core % 4) = true ∧ x ∈ s.allActs

/-- Those of them that wait at a `gang`. -/
def State.gangWaits (s : State) (m : Nat) : List Act :=
  (s.quadActs s.cur).filter fun x => x.core != s.cur.core && bit m (x.core % 4) && x.gangWait.isSome

theorem State.mem_gangWaits {s : State} {m : Nat} {x : Act} : x ∈ s.gangWaits m ↔ s.inMask m x ∧ x.gangWait.isSome = true := by
  simp only [State.gangWaits, State.quadActs, State.inMask, List.mem_filter, Bool.and_eq_true, beq_iff_eq, bne_iff_ne, bit_eq_testBit]
  tauto

/-- The member that a mask's bit stands for. -/
def State.gangSeat (s : State) (m j : Nat) : Option Act :=
  if j = s.cur.core % 4 then some s.cur else (s.gangWaits m).find? fun x => x.core % 4 == j

/-- Whether the issuer may ask for a gang of a mask (R213). -/
def State.gangGood (s : State) (m : Nat) : Prop :=
  m < 16 ∧ 2 ≤ popc 4 m ∧ m.testBit (s.cur.core % 4) = true ∧ s.cur.gang = none

theorem exec_gang (s : State) (a b : Nat) (ho : s.cur.orig ≠ 2) : exec (.gang a b) s =
    let m := s.reg b
    let tag := s.reg a % 65536
    if 16 ≤ m ∨ popc 4 m < 2 ∨ (!bit m (s.cur.core % 4)) = true ∨ s.cur.gang.isSome = true
        ∨ (s.gangWaits m).any (fun x => x.gangWait != some (tag, m)) = true then .next (s.trapHere cRANGE 0 m)
    else if ((List.range 4).filter (bit m)).any (fun j => (s.gangSeat m j).isNone) then .next (s.block (.gang tag m))
    else
      match ((List.range 4).filter (bit m)).filterMap (s.gangSeat m) with
      | [] => .next s
      | lead :: more => .next ((s.modWork fun w => { w with gangs := w.gangs.put lead.id (lead.id, (lead :: more).map (·.id)) }).onActs
          ((lead :: more).map (·.id)) fun z => z.joinGang lead.id (s.pcOf lead + 4)) :=
  if_neg ho

section Gang

variable {s : State} {a b : Nat}

theorem exec_gang_bad (ho : s.cur.orig ≠ 2) (h : ¬ s.gangGood (s.reg b)) : exec (.gang a b) s = .next (s.trapHere 0x0A 0 (s.reg b)) := by
  rw [exec_gang s a b ho]
  refine if_pos ?_
  by_contra hno
  simp only [not_or, bit_eq_testBit, Bool.not_eq_true', Bool.not_eq_false, Option.isSome_iff_ne_none, not_not] at hno
  obtain ⟨hm, hp, hb, hg, -⟩ := hno
  exact h ⟨by omega, by omega, hb, hg⟩

theorem exec_gang_other (ho : s.cur.orig ≠ 2) {x : Act} {t q : Nat} (hx : s.inMask (s.reg b) x) (hw : x.run = .waiting (.gang t q))
    (hne : (t, q) ≠ (s.reg a % 65536, s.reg b)) : exec (.gang a b) s = .next (s.trapHere 0x0A 0 (s.reg b)) := by
  have hwait : x.gangWait = some (t, q) := by rw [Act.gangWait, hw]
  rw [exec_gang s a b ho]
  refine if_pos (Or.inr (Or.inr (Or.inr (Or.inr ?_))))
  rw [List.any_eq_true]
  exact ⟨x, State.mem_gangWaits.2 ⟨hx, by rw [hwait]; rfl⟩, by rw [hwait, bne_iff_ne]; exact fun h => hne (Option.some.inj h)⟩

/-- With a good mask and every waiting member waiting for this gang, the seats decide. -/
theorem exec_gang_good (ho : s.cur.orig ≠ 2) (hg : s.gangGood (s.reg b))
    (hw : ∀ x, s.inMask (s.reg b) x → x.gangWait = none ∨ x.gangWait = some (s.reg a % 65536, s.reg b)) : exec (.gang a b) s =
    if ((List.range 4).filter (bit (s.reg b))).any (fun j => (s.gangSeat (s.reg b) j).isNone) then
      .next (s.block (.gang (s.reg a % 65536) (s.reg b)))
    else
      match ((List.range 4).filter (bit (s.reg b))).filterMap (s.gangSeat (s.reg b)) with
      | [] => .next s
      | lead :: more => .next ((s.modWork fun w => { w with gangs := w.gangs.put lead.id (lead.id, (lead :: more).map (·.id)) }).onActs
          ((lead :: more).map (·.id)) fun z => z.joinGang lead.id (s.pcOf lead + 4)) := by
  obtain ⟨hm, hp, hb, hn⟩ := hg
  rw [exec_gang s a b ho]
  refine if_neg ?_
  rw [bit_eq_testBit, hb, hn, List.any_eq_true]
  rintro (h | h | h | h | ⟨x, hx, hne⟩)
  · omega
  · omega
  · exact Bool.false_ne_true h
  · exact Bool.false_ne_true h
  · obtain ⟨hmask, hsome⟩ := State.mem_gangWaits.1 hx
    rcases hw x hmask with h | h
    · rw [h] at hsome; exact Bool.false_ne_true hsome
    · rw [h, bne_self_eq_false] at hne; exact Bool.false_ne_true hne

end Gang

/-! ### Meeting and leaving (R215, R216) -/

section Meet

variable {s : State} {a g : Nat}

theorem exec_gmeet_alone (ho : s.cur.orig ≠ 2) (hg : s.cur.gang = none) : exec (.gmeet a) s = .next (s.retire 4) := by
  have hstart : exec (.gmeet a) s = execGmeet a s := rfl
  rw [hstart, execGmeet, State.unlessClause, if_neg ho, hg]

theorem exec_gmeet (ho : s.cur.orig ≠ 2) (hg : s.cur.gang = some g) : exec (.gmeet a) s =
    if g = s.cur.id then
      if (s.gangActs g).all (fun x => x.id == g || x.attached) then .next (s.retire 4)
      else
        let w := s.block (.gmeet (s.reg a % 65536))
        .next (if w.allMet g then w.meet g (s.reg a % 65536) else w)
    else if s.cur.attached then .next (s.retire 4)
    else
      let w := s.block (.gmeet (s.reg a % 65536))
      match (w.act? g).bind Act.meetWait with
      | some y => .next (if w.allMet g then w.meet g y else w)
      | none => .next w := by
  have hleads : s.cur.leads = decide (g = s.cur.id) := by
    rw [Act.leads, hg]
    by_cases h : g = s.cur.id
    · rw [h]; simp
    · simp [h]
  have hstart : exec (.gmeet a) s = execGmeet a s := rfl
  rw [hstart, execGmeet, State.unlessClause, if_neg ho]
  simp only [hg, hleads, decide_eq_true_eq] <;> rfl

theorem exec_gleave (s : State) : exec .gleave s =
    .next (match s.cur.gang with
      | some g => ((s.retire 4).leaveGang).remeet g
      | none => (s.retire 4).leaveGang) := rfl

theorem exec_gleave_alone (hg : s.cur.gang = none) : exec .gleave s = .next (s.retire 4) := by
  have hstay : (s.retire 4).leaveGang = s.retire 4 := by
    have hg' : (s.retire 4).cur.gang = none := hg
    rw [State.leaveGang, hg']
  rw [exec_gleave, hg, hstay]

theorem exec_gleave_member (hg : s.cur.gang = some g) : exec .gleave s = .next (((s.retire 4).leaveGang).remeet g) := by
  rw [exec_gleave, hg]

/-- The other members of a gang. -/
def State.gangRest (s : State) (g : Nat) : List Act := (s.gangActs g).filter (·.id != s.cur.id)

theorem State.leaveGang_eq (hg : s.cur.gang = some g) : s.leaveGang =
    let rest := (s.gangRest g).map (·.id)
    let gone := s.cur.leads || decide (rest.length ≤ 1)
    ((if gone then s.outOfGang.onActs rest State.outOfGang else s.outOfGang).modWork fun w =>
      { w with gangs := if gone then w.gangs.del g else w.gangs.put g (g, rest) }) := by
  rw [State.leaveGang, hg]
  rfl

/-! What acting as other activations leaves alone. -/

theorem State.focusOn_work (s : State) (id : Nat) : (s.focusOn id).work = s.work := by
  unfold State.focusOn
  split
  · rfl
  · split <;> rfl

theorem State.onAct_work (s : State) (id : Nat) {f : State → State} (h : ∀ t, (f t).work = t.work) : (s.onAct id f).work = s.work := by
  unfold State.onAct
  dsimp only
  split
  · exact h s
  · split
    · rfl
    · rw [State.focusOn_work, h, State.focusOn_work]

theorem State.foldl_work {α : Type} {f : State → α → State} (h : ∀ t x, (f t x).work = t.work) (xs : List α) (s : State) :
    (xs.foldl f s).work = s.work := by
  induction xs generalizing s with
  | nil => rfl
  | cons x xs ih => exact (ih (f s x)).trans (h s x)

theorem State.outOfGang_work (s : State) : s.outOfGang.work = s.work := by
  unfold State.outOfGang
  dsimp only
  split <;> rfl

theorem State.meet_work (s : State) (g tag : Nat) : (s.meet g tag).work = s.work := by
  unfold State.meet
  split
  · rfl
  · refine (State.foldl_work (fun t (x : Act) => t.onAct_work x.id fun u => ?_) _ _).trans (s.onAct_work g fun _ => rfl)
    split
    · rfl
    · split <;> rfl

theorem State.remeet_work (s : State) (g : Nat) : (s.remeet g).work = s.work := by
  unfold State.remeet
  split
  · split
    · exact s.meet_work g _
    · rfl
  · rfl

/-- A gang that its leader leaves, or all but one member, is dissolved. -/
theorem runs_gleave_dissolves (hg : s.cur.gang = some g) (h : g = s.cur.id ∨ (s.gangRest g).length ≤ 1) :
    Runs .gleave s fun t => t.work.gangs = s.work.gangs.del g := by
  refine ⟨_, exec_gleave_member hg, ?_⟩
  have hgone : ((s.retire 4).cur.leads || decide ((((s.retire 4).gangRest g).map (·.id)).length ≤ 1)) = true := by
    rw [Bool.or_eq_true, decide_eq_true_eq, List.length_map]
    refine h.imp (fun hid => ?_) id
    have hg' : (s.retire 4).cur.gang = some (s.retire 4).cur.id := hg.trans (congrArg some hid)
    rw [Act.leads, hg', beq_self_eq_true]
  have hwork : ((s.retire 4).outOfGang.onActs (((s.retire 4).gangRest g).map (·.id)) State.outOfGang).work = s.work :=
    (State.foldl_work (fun t (i : Nat) => t.onAct_work i State.outOfGang_work) _ _).trans (State.outOfGang_work _)
  have hg' : (s.retire 4).cur.gang = some g := hg
  dsimp only
  rw [State.remeet_work, State.leaveGang_eq hg']
  simp only [hgone, if_true]
  exact congrArg (fun w : Work => w.gangs.del g) hwork

/-- What a member that leaves a gang of at least three leaves (R216). -/
structure LeftGang (s t : State) (g : Nat) : Prop where
  act : t.cur = { s.cur with gang := none, attached := false, behind := false }
  pc : t.pc = (s.pc + 4) % 2 ^ 56
  bits : t.st / 2 ^ 19 % 4 = 0
  gangs : t.work.gangs = s.work.gangs.put g (g, (s.gangRest g).map (·.id))
  acts : t.acts = s.acts

theorem State.st_setStBit (s : State) (k : Nat) (b : Bool) : (s.setStBit k b).st = setBits s.st k 1 (b2n b) % 2 ^ 64 := by
  rw [State.setStBit, State.st, State.ws_setWs]; norm_num

theorem State.pc_setStBit (s : State) (k : Nat) (b : Bool) : (s.setStBit k b).pc = s.pc := by
  unfold State.pc State.setStBit
  rw [State.ws_setWs_ne _ _ _ _ _ _ (by omega)]

theorem LeftGang.of_leaveGang (hg : s.cur.gang = some g) (hne : g ≠ s.cur.id) (h2 : 2 ≤ (s.gangRest g).length)
    (hm : s.cur.meetWait = none) : LeftGang s (s.retire 4).leaveGang g := by
  have hg' : (s.retire 4).cur.gang = some g := hg
  have hgone : ((s.retire 4).cur.leads || decide ((((s.retire 4).gangRest g).map (·.id)).length ≤ 1)) = false := by
    rw [Bool.or_eq_false_iff, decide_eq_false_iff_not, List.length_map]
    refine ⟨?_, Nat.not_le.2 h2⟩
    rw [Act.leads, hg']
    exact beq_eq_false_iff_ne.2 fun h => hne (Option.some.inj h)
  have hm' : (s.retire 4).cur.meetWait.isSome = false := by rw [State.retire_cur, hm]; rfl
  have hout : (s.retire 4).outOfGang = ((s.retire 4).setGangBits false false).modCur fun a =>
      { a with gang := none, attached := false, behind := false } := by
    unfold State.outOfGang
    rw [hm']; rfl
  rw [State.leaveGang_eq hg']
  simp only [hgone, Bool.false_eq_true, if_false, hout]
  refine ⟨rfl, ?_, ?_, rfl, rfl⟩
  · have hpc : (((s.retire 4).setStBit 19 false).setStBit 20 false).pc = (s.pc + 4) % 2 ^ 56 := by
      rw [State.pc_setStBit, State.pc_setStBit, State.pc_retire]
    exact hpc
  · have hst : (((s.retire 4).setStBit 19 false).setStBit 20 false).st / 2 ^ 19 % 4 = 0 := by
      rw [State.st_setStBit, State.st_setStBit]
      simp only [setBits, b2n, Bool.false_eq_true, if_false]
      omega
    exact hst

theorem State.act?_left {s t : State} {g : Nat} (h : LeftGang s t g) (hne : g ≠ s.cur.id) : t.act? g = s.act? g := by
  unfold State.act?
  rw [h.act, h.acts]
  simp [hne.symm]

end Meet

/-- Settles O29: a claim regrants, and the forms of a gang decide by its members. -/
theorem claimsAndGangs : Obligations.ClaimsAndGangs := by
  refine ⟨fun s d a imm hd => ?claims, fun s a b g lead more ho => ?gangs⟩
  case claims =>
    intro y r g lanes from_ g'
    refine ⟨fun hr => ?less, fun hr hnone => ?alone, fun hr => ?takes, ⟨_, rfl, rfl, State.pc_retire _ 4, ?released, rfl⟩, Runs.of_put rfl hd⟩
    case less =>
      obtain ⟨hgrant, hrest⟩ := s.regrant_lanes (grant := r) hd (Nat.min_le_left _ _) hr.le
      exact ⟨_, (exec_vclaim s d a imm).trans (if_pos hr), hgrant, hrest⟩
    case alone =>
      have hfrom : s.claimFrom = [] := by rw [State.claimFrom]; exact congrArg (List.foldr actInsert []) hnone
      have hgets : s.claimGets r = min r (g + s.freeLanes s.cur) / 8 * 8 := by rw [State.claimGets, hfrom]; rfl
      obtain ⟨hgrant, hrest⟩ := s.regrant_lanes (grant := min r (g + s.freeLanes s.cur) / 8 * 8) hd (Nat.min_le_right _ _) le_rfl
      have hexec := (exec_vclaim s d a imm).trans (if_neg (Nat.not_lt.2 hr))
      rw [hfrom] at hexec
      change _ = (s.regrant (s.claimGets r) g).put 4 d (s.claimGets r) 0 at hexec
      rw [hgets] at hexec
      exact ⟨_, hexec, hgrant, hrest⟩
    case takes => exact ⟨_, (exec_vclaim s d a imm).trans (if_neg (Nat.not_lt.2 hr)), rfl⟩
    case released => exact fun k hk => State.rd_retire_ne (s.modCur fun x => { x with grant := 0, vr := [] }) 4 k hk
  case gangs =>
    intro m tag me member good waits seat named rest
    refine ⟨fun hbad hs => Runs.of_trapHere (exec_gang_bad ho hbad) hs, fun hgood hs => ?other, fun hgood hw hwait => ?waits,
      fun hgood hw hall hlead => ?forms, fun hg => ⟨⟨_, exec_gmeet_alone ho hg, Advanced.of_retire s 4⟩, _, exec_gleave_alone hg,
        Advanced.of_retire s 4⟩, fun hg hne hatt => ?attached, fun hg hid hall => ?met, fun hg hid hex => ?waitsMeet,
      fun hg hne hatt => ?follower, fun hg hne h2 hm => ?leaves, fun hg h => runs_gleave_dissolves hg h⟩
    case other =>
      rintro ⟨x, t, q, hx, hrun, hne⟩
      exact Runs.of_trapHere (exec_gang_other ho hx hrun hne) hs
    case waits =>
      obtain ⟨j, hj, hnone⟩ := hwait
      refine ⟨_, (exec_gang_good ho hgood hw).trans (if_pos ?_), Blocked.of_block s _⟩
      rw [List.any_eq_true]
      exact ⟨j, hj, Option.isNone_iff_eq_none.2 hnone⟩
    case forms =>
      refine ⟨_, (exec_gang_good ho hgood hw).trans ((if_neg ?_).trans ?_), rfl⟩
      · rw [List.any_eq_true]
        rintro ⟨j, hj, hnone⟩
        have hsome : (s.gangSeat (s.reg b) j).isSome = true := hall j hj
        rw [Option.isNone_iff_eq_none.1 hnone] at hsome
        exact Bool.false_ne_true hsome
      · have hseats : ((List.range 4).filter (bit (s.reg b))).filterMap (s.gangSeat (s.reg b)) = lead :: more := hlead
        rw [hseats]
    case attached => exact ⟨_, (exec_gmeet ho hg).trans ((if_neg hne).trans (if_pos hatt)), Advanced.of_retire s 4⟩
    case met =>
      refine ⟨_, (exec_gmeet ho hg).trans ((if_pos hid).trans (if_pos ?_)), Advanced.of_retire s 4⟩
      simpa [List.all_eq_true, Bool.or_eq_true, beq_iff_eq] using hall
    case waitsMeet =>
      intro w
      refine ⟨_, (exec_gmeet ho hg).trans ((if_pos hid).trans (if_neg ?_)), rfl⟩
      obtain ⟨x, hx, hne, hatt⟩ := hex
      rw [List.all_eq_true]
      intro hall
      have := hall x hx
      simp [hne, hatt] at this
    case follower =>
      intro w
      have hexec := (exec_gmeet ho hg (a := a)).trans ((if_neg hne).trans (if_neg (by rw [show s.cur.attached = false from hatt]; exact Bool.false_ne_true)))
      refine ⟨fun hnone => ⟨w, hexec.trans ?_, Blocked.of_block s _⟩, fun y hy => ⟨_, hexec.trans ?_, rfl⟩⟩
      · dsimp only; rw [hnone]
      · dsimp only; rw [hy]
    case leaves =>
      intro left
      have hleft := LeftGang.of_leaveGang hg hne h2 hm
      have hact := State.act?_left hleft hne
      have hstate : left (s.retire 4).leaveGang := ⟨hleft.act, hleft.pc, hleft.bits, hleft.gangs, hleft.acts⟩
      refine ⟨fun hnone => ⟨_, (exec_gleave_member hg).trans ?_, hstate⟩, fun y hy => ⟨_, (exec_gleave_member hg).trans ?_, _, hstate, rfl⟩⟩
      · rw [State.remeet, hact, hnone]
      · rw [State.remeet, hact, hy]

end Sys2Proof.Machine
end

section
/-!
SUPPORT. Vector lanes and elements (08 R194 to R196): what each write of an element leaves to each read, and what the
elementwise and the lane forms leave.
-/

namespace Sys2Proof.Machine

/-! ### Bit fields -/

theorem testBit_bits (v lo n i : Nat) : (bits v lo n).testBit i = (decide (i < n) && v.testBit (lo + i)) := by
  rw [bits, Nat.testBit_mod_two_pow, ← Nat.shiftRight_eq_div_pow, Nat.testBit_shiftRight]

theorem bits_setBits_same (v lo n f : Nat) : bits (setBits v lo n f) lo n = f % 2 ^ n := by
  refine Nat.eq_of_testBit_eq fun i => ?_
  rw [testBit_bits, testBit_setBits, Nat.testBit_mod_two_pow]
  by_cases h : i < n <;> simp [h]

theorem bits_setBits_ne (v f : Nat) {lo n a k : Nat} (h : a + k ≤ lo ∨ lo + n ≤ a) : bits (setBits v lo n f) a k = bits v a k := by
  refine Nat.eq_of_testBit_eq fun i => ?_
  rw [testBit_bits, testBit_bits, testBit_setBits]
  by_cases hi : i < k
  · rw [if_neg (by omega)]
  · simp [hi]

theorem bits_mod (v : Nat) {n a k : Nat} (h : a + k ≤ n) : bits (v % 2 ^ n) a k = bits v a k := by
  refine Nat.eq_of_testBit_eq fun i => ?_
  rw [testBit_bits, testBit_bits, Nat.testBit_mod_two_pow]
  by_cases hi : i < k
  · simp [hi, show a + i < n by omega]
  · simp [hi]

/-! ### Elements -/

/-- The widths of elements. -/
def ElemWidth (wd : Nat) : Prop := wd = 8 ∨ wd = 16 ∨ wd = 32 ∨ wd = 64

theorem elemWidth_nbits (w : IW) : ElemWidth (nbits w) := by cases w <;> simp [ElemWidth, nbits]

theorem elemWidth_fwFmt (w : FW) : ElemWidth (fwFmt w).width := by cases w <;> simp [ElemWidth, fwFmt, Fmt.width, fp64, fp32, fp16, bf16, fp8e4, fp8e5]

/-- A write of an element changes only its own lanes. -/
theorem getD_putElem_ne (vr : FMap Nat) {wd : Nat} (hw : ElemWidth wd) (v j : Nat) (x : Image) {k : Nat}
    (hk : k < v * 64 + laneIx wd j ∨ v * 64 + laneIx wd j + max 1 (wd / 32) ≤ k) :
    FMap.getD (putElem vr wd v j x) k 0 = FMap.getD vr k 0 := by
  rcases hw with rfl | rfl | rfl | rfl
  · exact FMap.getD_put_ne _ _ _ _ _ (by simp only [laneIx] at hk; omega)
  · exact FMap.getD_put_ne _ _ _ _ _ (by simp only [laneIx] at hk; omega)
  · exact FMap.getD_put_ne _ _ _ _ _ (by simp only [laneIx] at hk; omega)
  · simp only [laneIx] at hk
    exact (FMap.getD_put_ne _ _ _ _ _ (by omega)).trans (FMap.getD_put_ne _ _ _ _ _ (by omega))

/-- An element reads back as it was written. -/
theorem elemOf_putElem_same (vr : FMap Nat) {wd : Nat} (hw : ElemWidth wd) (v j : Nat) (x : Image) :
    elemOf (putElem vr wd v j x) wd v j = asElem wd x := by
  rcases hw with rfl | rfl | rfl | rfl
  · have hlane : laneOf (putElem vr 8 v j x) v (j / 4) = setBits (laneOf vr v (j / 4) % 2 ^ 32) (8 * (j % 4)) 8 x.bits :=
      FMap.getD_put_self _ _ _ _
    simp only [elemOf, asElem, hlane, bits_setBits_same]
    rfl
  · have hlane : laneOf (putElem vr 16 v j x) v (j / 2)
        = setBits (setBits (laneOf vr v (j / 2)) (16 * (j % 2)) 16 x.bits) (32 + 2 * (j % 2)) 2 x.tail := FMap.getD_put_self _ _ _ _
    have hpart : bits (setBits (setBits (laneOf vr v (j / 2)) (16 * (j % 2)) 16 x.bits) (32 + 2 * (j % 2)) 2 x.tail) (16 * (j % 2)) 16
        = x.bits % 2 ^ 16 := by rw [bits_setBits_ne _ _ (by omega), bits_setBits_same]
    simp only [elemOf, asElem, hlane, bits_setBits_same, hpart]
    rfl
  · have hlane : laneOf (putElem vr 32 v j x) v j = x.bits % 2 ^ 32 + 2 ^ 32 * (x.tail % 4) := FMap.getD_put_self _ _ _ _
    simp only [elemOf, asElem, hlane, bits]
    simp
    omega
  · have hhi : laneOf (putElem vr 64 v j x) v (2 * j + 1) = bits x.bits 32 32 := FMap.getD_put_self _ _ _ _
    have hlo : laneOf (putElem vr 64 v j x) v (2 * j) = x.bits % 2 ^ 32 + 2 ^ 32 * (x.tail % 4) :=
      (FMap.getD_put_ne _ _ _ _ _ (by omega)).trans (FMap.getD_put_self _ _ _ _)
    simp only [elemOf, asElem, hlo, hhi, bits]
    simp
    omega

/-- The other elements read as they did. -/
theorem elemOf_putElem_ne (vr : FMap Nat) {wd : Nat} (hw : ElemWidth wd) (v : Nat) {j i : Nat} (h : i ≠ j) (x : Image) :
    elemOf (putElem vr wd v j x) wd v i = elemOf vr wd v i := by
  have other (k : Nat) (hk : k < laneIx wd j ∨ laneIx wd j + max 1 (wd / 32) ≤ k) :
      laneOf (putElem vr wd v j x) v k = laneOf vr v k := getD_putElem_ne vr hw v j x (by omega)
  rcases hw with rfl | rfl | rfl | rfl
  · by_cases hlane : i / 4 = j / 4
    · have hput : laneOf (putElem vr 8 v j x) v (j / 4) = setBits (laneOf vr v (j / 4) % 2 ^ 32) (8 * (j % 4)) 8 x.bits :=
        FMap.getD_put_self _ _ _ _
      have hpart : bits (setBits (laneOf vr v (j / 4) % 2 ^ 32) (8 * (j % 4)) 8 x.bits) (8 * (i % 4)) 8
          = bits (laneOf vr v (j / 4)) (8 * (i % 4)) 8 := by rw [bits_setBits_ne _ _ (by omega), bits_mod _ (by omega)]
      simp only [elemOf, hlane, hput, hpart]
      rfl
    · have := other (i / 4) (by simp only [laneIx]; omega)
      simp [elemOf, this]
  · by_cases hlane : i / 2 = j / 2
    · have hput : laneOf (putElem vr 16 v j x) v (j / 2)
          = setBits (setBits (laneOf vr v (j / 2)) (16 * (j % 2)) 16 x.bits) (32 + 2 * (j % 2)) 2 x.tail := FMap.getD_put_self _ _ _ _
      have hkeep (a k : Nat) (h1 : a + k ≤ 32 + 2 * (j % 2) ∨ 32 + 2 * (j % 2) + 2 ≤ a) (h2 : a + k ≤ 16 * (j % 2) ∨ 16 * (j % 2) + 16 ≤ a) :
          bits (setBits (setBits (laneOf vr v (j / 2)) (16 * (j % 2)) 16 x.bits) (32 + 2 * (j % 2)) 2 x.tail) a k
            = bits (laneOf vr v (j / 2)) a k := by rw [bits_setBits_ne _ _ h1, bits_setBits_ne _ _ h2]
      have hval := hkeep (16 * (i % 2)) 16 (by omega) (by omega)
      have htail := hkeep (32 + 2 * (i % 2)) 2 (by omega) (by omega)
      simp [elemOf, hlane, hput, hval, htail]
    · have := other (i / 2) (by simp only [laneIx]; omega)
      simp [elemOf, this]
  · have := other i (by simp only [laneIx]; omega)
    simp [elemOf, this]
  · have hlo := other (2 * i) (by simp only [laneIx]; omega)
    have hhi := other (2 * i + 1) (by simp only [laneIx]; omega)
    simp [elemOf, hlo, hhi]

/-! ### What the end of a vector instruction leaves -/

/-- The end that the vector forms share: flags, a window over vector registers, and a write of lanes. -/
def State.endVec (s : State) (la fl : Nat) (regs : List Nat) (f : FMap Nat → FMap Nat) : State :=
  (((s.retire 4).orFlags fl).openWinV la regs).setVr f

/-- From `s` to `t`: the PC has moved past the instruction, the lanes are `vr`, a window of `la` instructions has opened, the
flags `fl` are ORed into ST, and nothing else differs. -/
structure VecEnd (s t : State) (la fl : Nat) (vr : FMap Nat) : Prop where
  pc : t.pc = (s.pc + 4) % 2 ^ 56
  vr : t.cur.vr = vr
  flags : t.st % 65536 = (Nat.lor (s.st % 65536) fl) % 65536
  win : if la = 0 then t.cur.wins = s.cur.wins else ∃ w : Win, w.left = la ∧ t.cur.wins = s.cur.wins ++ [w]
  only : t.withoutResult s = s
  frame : SameMem s t fun k => s.pcSpan k ∨ (fl ≠ 0 ∧ s.flagSpan k)

/-- Opening a window over vector registers changes the windows and the number of the next one. -/
theorem State.openWinV_eq (s : State) (la : Nat) (vs : List Nat) :
    la = 0 ∧ s.openWinV la vs = s ∨ la ≠ 0 ∧ ∃ w : Win, w.left = la ∧
      s.openWinV la vs = (s.modSched fun q => { q with nextWin := q.nextWin + 1 }).modCur fun a => { a with wins := a.wins ++ [w] } := by
  rcases eq_or_ne la 0 with rfl | hla
  · exact .inl ⟨rfl, rfl⟩
  · exact .inr ⟨hla, _, rfl, by rw [State.openWinV, if_neg hla]⟩

theorem State.withoutResult_opened (s s0 : State) (f : FMap Nat → FMap Nat) (w : Win) (k : Nat) :
    ((((s.modSched fun q => { q with nextWin := k }).modCur fun a => { a with wins := a.wins ++ [w] })).setVr f).withoutResult s0
      = s.withoutResult s0 := rfl

theorem VecEnd.of_endVec (s : State) (la fl : Nat) (regs : List Nat) (f : FMap Nat → FMap Nat) :
    VecEnd s (s.endVec la fl regs f) la fl (f s.cur.vr) := by
  obtain ⟨m, hm⟩ := (s.retire 4).orFlags_eq fl
  have hpc : ((s.retire 4).orFlags fl).pc = (s.pc + 4) % 2 ^ 56 := by rw [State.pc_orFlags, State.pc_retire]
  have hst : ((s.retire 4).orFlags fl).st % 65536 = (Nat.lor (s.st % 65536) fl) % 65536 := by
    rw [State.st_orFlags, State.st_retire]
  have hframe : SameMem s ((s.retire 4).orFlags fl) fun k => s.pcSpan k ∨ (fl ≠ 0 ∧ s.flagSpan k) := by
    intro k hk
    have hflags : ((s.retire 4).orFlags fl).rd k = (s.retire 4).rd k := by
      rcases eq_or_ne fl 0 with rfl | hfl
      · rfl
      · exact State.rd_orFlags_ne _ _ _ fun h => hk (.inr ⟨hfl, h⟩)
    exact hflags.trans (s.rd_retire_ne 4 k fun h => hk (.inl h))
  rw [hm] at hpc hst hframe
  rw [State.endVec, hm]
  rcases ((s.retire 4).setMem m).openWinV_eq la regs with ⟨rfl, hwin⟩ | ⟨hla, w, hleft, hwin⟩ <;> rw [hwin]
  · exact ⟨hpc, rfl, hst, rfl, rfl, hframe⟩
  · refine ⟨hpc, rfl, hst, ?_, ?_, hframe⟩
    · rw [if_neg hla]; exact ⟨w, hleft, rfl⟩
    · exact (State.withoutResult_opened _ s f w _).trans rfl

/-- A form that ends by writing a group of elements. -/
theorem Runs.of_putVec {i : Instr} {s : State} {la wd v n fl : Nat} {xs : List (Nat × Image)}
    (h : exec i s = s.putVec la wd v n xs fl) : Runs i s (VecResult s · la wd v xs fl) := by
  obtain ⟨hpc, hvr, hst, hwin, honly, hframe⟩ := VecEnd.of_endVec s la fl
    ((List.range (ceilDiv n (max 1 (perReg wd s.cur.grant)))).map (v + ·)) fun m => putGroup m wd s.cur.grant v xs
  exact ⟨_, h, hpc, hvr, hst, hwin, honly, fun k hk => hframe k fun hp => hk (hp.imp_right And.right)⟩

/-! ### Elementwise forms (R196) -/

/-- The lanes that element `j` of a register covers. -/
def LaneOf (wd j i : Nat) : Prop := laneIx wd j ≤ i ∧ i < laneIx wd j + max 1 (wd / 32)

/-- Elements within one register: each is written as an element of the register itself. -/
theorem putGroup_oneReg (vr : FMap Nat) (wd g v : Nat) (js : List Nat) (f : Nat → Image) (h : ∀ j ∈ js, j < perReg wd g) :
    putGroup vr wd g v (js.map fun j => (j, f j)) = js.foldl (fun m j => putElem m wd v j (f j)) vr := by
  rw [putGroup, List.foldl_map]
  refine List.foldl_ext _ _ _ fun m j hj => ?_
  rw [Nat.div_eq_of_lt (h j hj), Nat.mod_eq_of_lt (h j hj), Nat.add_zero]

theorem elemOf_putElems_of_mem (vr : FMap Nat) {wd : Nat} (hw : ElemWidth wd) (v : Nat) (f : Nat → Image) {js : List Nat} {i : Nat}
    (hi : i ∈ js ∨ elemOf vr wd v i = asElem wd (f i)) :
    elemOf (js.foldl (fun m j => putElem m wd v j (f j)) vr) wd v i = asElem wd (f i) := by
  induction js generalizing vr with
  | nil => exact hi.resolve_left List.not_mem_nil
  | cons j js ih =>
    refine ih _ ?_
    rcases eq_or_ne i j with rfl | hij
    · exact .inr (elemOf_putElem_same vr hw v i _)
    · rw [elemOf_putElem_ne vr hw v hij]
      exact hi.imp_left fun h => (List.mem_cons.1 h).resolve_left hij

theorem getD_putElems_ne (vr : FMap Nat) {wd : Nat} (hw : ElemWidth wd) (v : Nat) (f : Nat → Image) {js : List Nat} {k : Nat}
    (hk : ∀ j ∈ js, k < v * 64 + laneIx wd j ∨ v * 64 + laneIx wd j + max 1 (wd / 32) ≤ k) :
    FMap.getD (js.foldl (fun m j => putElem m wd v j (f j)) vr) k 0 = FMap.getD vr k 0 := by
  induction js generalizing vr with
  | nil => rfl
  | cons j js ih =>
    exact (ih _ fun x hx => hk x (List.mem_cons_of_mem _ hx)).trans (getD_putElem_ne vr hw v j _ (hk j List.mem_cons_self))

/-- The elements of a register lie within the lanes of the grant. -/
theorem laneIx_lt_grant {wd : Nat} (hw : ElemWidth wd) {g j : Nat} (h : j < perReg wd g) : laneIx wd j + max 1 (wd / 32) ≤ g := by
  rcases hw with rfl | rfl | rfl | rfl <;> simp only [perReg, laneIx] at h ⊢ <;> omega

/-- The elements that take part under a mask (R196). -/
def State.takingPart (s : State) (wd m : Nat) : List Nat :=
  (List.range (perReg wd s.cur.grant)).filter fun j => s.maskOn m (laneIx wd j)

theorem State.mem_takingPart (s : State) (wd m j : Nat) :
    j ∈ s.takingPart wd m ↔ j < perReg wd s.cur.grant ∧ s.maskOn m (laneIx wd j) = true := by
  simp [State.takingPart]

/-- An elementwise form under a mask. -/
theorem Runs.of_vmap {i : Instr} {s : State} {wd m d : Nat} {f : Nat → Image × Nat} (hw : ElemWidth wd)
    (h : exec i s = s.vmap wd m d f) :
    Runs i s (ElemResult s · wd m d (fun j => (f j).1) (s.elemFlags wd m fun j => (f j).2)) := by
  have hmem := s.mem_takingPart wd m
  have hput : s.vmap wd m d f
      = s.putVec 0 wd d 0 ((s.takingPart wd m).map fun j => (j, (f j).1)) (s.elemFlags wd m fun j => (f j).2) := by
    simp only [State.vmap, State.elemFlags, State.takingPart, List.map_map, List.foldl_map, Function.comp_def]
  obtain ⟨t, ht, hpc, hvr, hst, hwin, honly, hframe⟩ := Runs.of_putVec (h.trans hput)
  rw [putGroup_oneReg _ _ _ _ _ _ fun j hj => ((hmem j).1 hj).1] at hvr
  refine ⟨t, ht, hpc, fun j hj hm => ?val, fun i hi hoff => ?off, fun k hk => ?others, hst, honly, hwin, hframe⟩
  case val => rw [hvr]; exact elemOf_putElems_of_mem _ hw d _ (.inl ((hmem j).2 ⟨hj, hm⟩))
  case off =>
    rw [State.lane, laneOf, hvr]
    refine getD_putElems_ne _ hw d _ fun j hj => ?_
    have := hoff j ((hmem j).1 hj).1 ((hmem j).1 hj).2
    omega
  case others =>
    rw [hvr]
    refine getD_putElems_ne _ hw d _ fun j hj => ?_
    have := laneIx_lt_grant hw ((hmem j).1 hj).1
    omega

/-! ### Forms over lanes -/

theorem getD_putLanes (vr : FMap Nat) (d : Nat) (f : Nat → Nat) (is : List Nat) (k : Nat) :
    FMap.getD (is.foldl (fun m i => FMap.put m (d * 64 + i) (f i)) vr) k 0
      = if d * 64 ≤ k ∧ k - d * 64 ∈ is then f (k - d * 64) else FMap.getD vr k 0 := by
  induction is generalizing vr with
  | nil => simp
  | cons i is ih =>
    rw [List.foldl_cons, ih]
    by_cases hlater : d * 64 ≤ k ∧ k - d * 64 ∈ is
    · rw [if_pos hlater, if_pos ⟨hlater.1, List.mem_cons_of_mem _ hlater.2⟩]
    · rw [if_neg hlater]
      by_cases hk : k = d * 64 + i
      · subst hk
        simp [FMap.getD_put_self]
      · rw [FMap.getD_put_ne _ _ _ _ _ hk, if_neg]
        rintro ⟨hle, hmem⟩
        exact (List.mem_cons.1 hmem).elim (fun he => hk (by omega)) fun h => hlater ⟨hle, h⟩

/-- A form over the lanes of the grant under a mask. -/
theorem Runs.of_lmap {i : Instr} {s : State} {m d : Nat} {f g : Nat → Nat} (h : exec i s = s.lmap m d f)
    (hfg : ∀ i < s.cur.grant, s.maskOn m i = true → f i = g i) : Runs i s (LaneResult s · m d g) := by
  set is := (List.range s.cur.grant).filter (s.maskOn m) with his
  have hmem (i : Nat) : i ∈ is ↔ i < s.cur.grant ∧ s.maskOn m i = true := by simp [is]
  have hend : s.lmap m d f = .next (s.endVec 0 0 [] fun vr => is.foldl (fun x i => FMap.put x (d * 64 + i) (f i)) vr) := by
    simp only [State.lmap, List.foldl_map]; rfl
  obtain ⟨hpc, hvr, hst, hwin, honly, hframe⟩ :=
    VecEnd.of_endVec s 0 0 [] fun vr => is.foldl (fun x i => FMap.put x (d * 64 + i) (f i)) vr
  refine ⟨_, h.trans hend, hpc, fun i hi hm => ?val, fun i hi hoff => ?off, fun k hk => ?others, honly, hwin, fun k hk => ?frame⟩
  case val =>
    rw [State.lane, laneOf, hvr, getD_putLanes, Nat.add_sub_cancel_left, if_pos ⟨Nat.le_add_right _ _, (hmem i).2 ⟨hi, hm⟩⟩]
    exact hfg i hi hm
  case off =>
    rw [State.lane, laneOf, hvr, getD_putLanes, Nat.add_sub_cancel_left, if_neg]
    · rfl
    · rintro ⟨-, hin⟩
      obtain ⟨hlt, hon⟩ := (hmem i).1 hin
      rcases hoff with hle | hm
      · omega
      · rw [hm] at hon; cases hon
  case others =>
    rw [hvr, getD_putLanes, if_neg]
    rintro ⟨hle, hin⟩
    have := ((hmem _).1 hin).1
    omega
  case frame => exact hframe k fun hp => hk (hp.resolve_right fun h => h.1 rfl)

end Sys2Proof.Machine
end

section
/-!
SUPPORT. Elementwise forms (08 R198 to R200, R202) and vector compares (R199).
-/

namespace Sys2Proof.Machine

theorem State.elemFlags_zero (s : State) (wd m : Nat) : (s.elemFlags wd m fun _ => 0) = 0 := by
  simp only [State.elemFlags, Nat.or_zero]
  exact List.foldl_fixed _

/-- An integer elementwise form. -/
theorem Runs.of_viop {i : Instr} {s : State} {w : IW} {m d : Nat} {f g : Nat → Int} (h : exec i s = s.viop w m d f)
    (hfg : f = g) : Runs i s (ElemResult s · (nbits w) m d (fun j => ⟨(g j % 2 ^ nbits w).toNat, 0⟩) 0) := by
  subst hfg
  have hrun := Runs.of_vmap (elemWidth_nbits w) h
  rwa [s.elemFlags_zero] at hrun

/-- A floating-point elementwise form, rounded to odd. -/
theorem Runs.of_vmapOdd {i : Instr} {s : State} {w : FW} {m d : Nat} {r : Nat → Val × Nat}
    (h : exec i s = s.vmap (fwFmt w).width m d fun j => rtoFl (fwFmt w) (r j)) :
    Runs i s (ElemResult s · (fwFmt w).width m d (fun j => (rto (fwFmt w) (r j).1).1)
      (s.elemFlags (fwFmt w).width m fun j => (r j).2 ||| (rto (fwFmt w) (r j).1).2)) := Runs.of_vmap (elemWidth_fwFmt w) h

/-! ### Compares -/

/-- A sum of powers at increasing places has exactly the bits of those places. -/
theorem testBit_sum_pow (p : Nat → Nat) {js : List Nat} (hp : js.Pairwise fun a b => p a < p b) (i : Nat) :
    (js.foldl (fun r j => r + 2 ^ p j) 0).testBit i = true ↔ ∃ j ∈ js, p j = i := by
  suffices h : ∀ r, (∀ j ∈ js, r < 2 ^ p j) →
      ((js.foldl (fun r j => r + 2 ^ p j) r).testBit i = true ↔ r.testBit i = true ∨ ∃ j ∈ js, p j = i) by
    simpa using h 0 fun j _ => Nat.two_pow_pos _
  induction js with
  | nil => simp
  | cons j js ih =>
    intro r hr
    obtain ⟨hj, htail⟩ := List.pairwise_cons.1 hp
    have hlt := hr j List.mem_cons_self
    have hnext : ∀ x ∈ js, r + 2 ^ p j < 2 ^ p x := fun x hx => by
      have := Nat.pow_le_pow_right (n := 2) (by omega) (hj x hx)
      rw [Nat.pow_succ] at this
      omega
    have hbit : (r + 2 ^ p j).testBit i = true ↔ r.testBit i = true ∨ p j = i := by
      have hor : r + 2 ^ p j = 2 ^ p j ||| r := by
        have := Nat.two_pow_add_eq_or_of_lt hlt 1
        rwa [Nat.mul_one, Nat.add_comm] at this
      simp [hor, Nat.testBit_or, Nat.testBit_two_pow, or_comm]
    rw [List.foldl_cons, ih htail _ hnext, hbit]
    simp [or_assoc]

/-- A compare writes the sum of the bits of the lanes whose elements take part and satisfy it. -/
theorem Runs.of_vmask {i : Instr} {s : State} {wd m d k : Nat} {p : Nat → Bool} {c : Nat → Prop} (hd : d < 32) (hk : 0 < k)
    (hwd : wd = 32 * k) (h : exec i s = s.vmask wd m d p) (hp : ∀ j, p j = true ↔ c j) :
    Runs i s fun t => ∃ v : Nat, RegResult s t 4 d v 0
      ∧ (∀ j, v.testBit (k * j) = true ↔ j < s.cur.grant / k ∧ s.maskOn m (k * j) = true ∧ c j)
      ∧ ∀ i, i % k ≠ 0 → v.testBit i = false := by
  subst hwd
  have hlane (j : Nat) : laneIx (32 * k) j = k * j := by
    rw [laneIx, show j * (32 * k) = k * j * 32 by ring, Nat.mul_div_cancel _ (by decide)]
  have hper : perReg (32 * k) s.cur.grant = s.cur.grant / k := by
    rw [perReg, Nat.mul_comm, Nat.mul_div_mul_left _ _ (by decide)]
  have hbit (x : Nat) := testBit_sum_pow (laneIx (32 * k)) (js := (List.range (perReg (32 * k) s.cur.grant)).filter
    fun j => s.maskOn m (laneIx (32 * k) j) && p j) (List.Pairwise.filter _ (List.pairwise_lt_range.imp fun h => by
      rw [hlane, hlane]; exact Nat.mul_lt_mul_of_pos_left h hk)) x
  obtain ⟨t, ht, hres⟩ := Runs.of_put h hd
  refine ⟨t, ht, _, hres, fun j => ?_, fun x hx => Bool.eq_false_iff.2 fun hset => ?_⟩
  · rw [hbit]
    simp only [hlane, hper, List.mem_filter, List.mem_range, Bool.and_eq_true, hp, Nat.mul_right_inj hk.ne']
    exact ⟨fun ⟨_, hx, he⟩ => he ▸ hx, fun hj => ⟨j, hj, rfl⟩⟩
  · obtain ⟨j, -, hj⟩ := (hbit x).1 hset
    rw [hlane] at hj
    exact hx (by rw [← hj, Nat.mul_mod_right])

/-- A compare of elements of one lane each. -/
theorem Runs.of_vmaskInt {i : Instr} {s : State} {iw : IW} {m d : Nat} {p : Nat → Bool} {c : Nat → Prop} (hd : d < 32)
    (hw : nbits iw = 32) (h : exec i s = s.vmask (nbits iw) m d p) (hp : ∀ j, p j = true ↔ c j) :
    Runs i s fun t => ∃ v : Nat, RegResult s t 4 d v 0 ∧ ∀ j, v.testBit j = true ↔ j < s.cur.grant ∧ s.maskOn m j = true ∧ c j := by
  obtain ⟨t, ht, v, hres, hbits, -⟩ := Runs.of_vmask (k := 1) hd Nat.one_pos hw h hp
  simp only [Nat.one_mul, Nat.div_one] at hbits
  exact ⟨t, ht, v, hres, hbits⟩

/-- Settles O30: the elementwise forms end in one map over the elements that take part, and the compares in one sum of
distinct powers of two. -/
theorem vectorIntegerAndCompares : Obligations.VectorIntegerAndCompares := by
  refine ⟨fun s w d a b m => ?_, fun s iw w d a b m hd => ⟨fun hw => ?_, fun hw => ?_⟩⟩
  · refine ⟨Runs.of_viop rfl rfl, Runs.of_viop rfl rfl, Runs.of_viop rfl rfl, Runs.of_viop rfl rfl, Runs.of_viop rfl rfl,
      Runs.of_viop rfl rfl, Runs.of_viop rfl rfl, Runs.of_viop rfl rfl, Runs.of_viop rfl rfl, Runs.of_viop rfl rfl,
      Runs.of_viop rfl rfl, Runs.of_viop rfl rfl, Runs.of_viop rfl (funext fun j => ?_)⟩
    exact shrI_eq _ _
  · exact ⟨Runs.of_vmaskInt hd hw rfl fun _ => decide_eq_true_iff, Runs.of_vmaskInt hd hw rfl fun _ => decide_eq_true_iff,
      Runs.of_vmaskInt hd hw rfl fun _ => decide_eq_true_iff⟩
  · have hk : 0 < (fwFmt w).width / 32 := by rcases hw with rfl | rfl <;> decide
    have hwd : (fwFmt w).width = 32 * ((fwFmt w).width / 32) := by rcases hw with rfl | rfl <;> rfl
    exact ⟨Runs.of_vmask hd hk hwd rfl fun _ => vEq_iff _ _, Runs.of_vmask hd hk hwd rfl fun _ => vLt_iff _ _,
      Runs.of_vmask hd hk hwd rfl fun _ => vLe_iff _ _⟩

/-- Settles O31: each form ends in one map over the elements that take part. -/
theorem vectorFloat : Obligations.VectorFloat := by
  intro s w d a b m rm f n A B odd
  have hfin : exec (.vfin w d a rm m) s = s.vmap n m d fun j =>
      (⟨(fin f (effMode rm s.rm) (s.hashReg (j * n / 32) d) (elemOf s.cur.vr n a j)).1, 0⟩,
        (fin f (effMode rm s.rm) (s.hashReg (j * n / 32) d) (elemOf s.cur.vr n a j)).2) := rfl
  exact ⟨Runs.of_vmapOdd rfl, Runs.of_vmapOdd rfl, Runs.of_vmapOdd rfl, Runs.of_vmapOdd rfl, Runs.of_vmapOdd rfl,
    Runs.of_vmapOdd rfl, Runs.of_vmap (elemWidth_fwFmt w) hfin⟩

end Sys2Proof.Machine
end

section
/-!
SUPPORT. Moves of whole lanes (08 R191, R202, R204, R217).
-/

namespace Sys2Proof.Machine

theorem State.laneOr0_eq (s : State) (v : Nat) (j : Int) :
    s.laneOr0 v j = if 0 ≤ j ∧ j < s.cur.grant then s.lane v j.toNat else 0 := by
  rw [State.laneOr0]
  split
  · rw [if_neg (by omega)]
  · rw [if_pos (by omega)]

/-- The place of a lane among the selected ones is the count of those below it. -/
theorem length_takeWhile_selected {p : Nat → Bool} {g i : Nat} (hi : i < g) (hp : p i = true) :
    (((List.range g).filter p).takeWhile (· != i)).length = (List.range i).countP p := by
  obtain ⟨k, rfl⟩ : ∃ k, g = i + 1 + k := ⟨g - i - 1, by omega⟩
  have hbelow : ∀ x ∈ (List.range i).filter p, (x != i) = true := fun x hx => by
    have := List.mem_range.1 (List.mem_filter.1 hx).1
    exact bne_iff_ne.2 (by omega)
  rw [List.range_add, List.range_succ, List.append_assoc, List.filter_append, List.takeWhile_append_of_pos hbelow,
    List.singleton_append, List.filter_cons_of_pos hp, List.takeWhile_cons_of_neg (by simp), List.append_nil,
    List.countP_eq_length_filter]

theorem exec_vget {s : State} {d a b m : Nat} (h : s.reg b < s.cur.grant) :
    exec (.vget d a b m) s = if s.maskOn m (s.reg b) then s.put 4 d (s.lane a (s.reg b) % 2 ^ 32) (s.lane a (s.reg b) / 2 ^ 32 % 16)
      else .next (s.retire 4) := if_neg (Nat.not_le.2 h)

/-- What `vput` leaves: one lane, when the mask lets it take part. -/
theorem runs_vput {s : State} {d a b m : Nat} (h : s.reg b < s.cur.grant) :
    Runs (.vput d a b m) s fun t => t.pc = (s.pc + 4) % 2 ^ 56 ∧ SameMem s t s.pcSpan ∧ t.withoutResult s = s
      ∧ (s.maskOn m (s.reg b) = true → t.lane d (s.reg b) = s.reg a % 2 ^ 32 + 2 ^ 32 * (s.tb a % 16))
      ∧ ∀ k, (k ≠ d * 64 + s.reg b ∨ s.maskOn m (s.reg b) = false) → FMap.getD t.cur.vr k 0 = FMap.getD s.cur.vr k 0 := by
  set f : FMap Nat → FMap Nat := fun vr =>
    if s.maskOn m (s.reg b) then FMap.put vr (d * 64 + s.reg b) (s.reg a % 2 ^ 32 + 2 ^ 32 * (s.tb a % 16)) else vr
  have hexec : exec (.vput d a b m) s = .next (s.endVec 0 0 [] f) := if_neg (Nat.not_le.2 h)
  obtain ⟨hpc, hvr, -, -, honly, hframe⟩ := VecEnd.of_endVec s 0 0 [] f
  refine ⟨_, hexec, hpc, fun k hk => hframe k fun hp => hk (hp.resolve_right fun h => h.1 rfl), honly, fun hm => ?_, fun k hk => ?_⟩
  · rw [State.lane, laneOf, hvr, show f s.cur.vr = _ from if_pos hm, FMap.getD_put_self]
  · rw [hvr]
    by_cases hm : s.maskOn m (s.reg b) = true
    · rw [show f s.cur.vr = _ from if_pos hm]
      exact FMap.getD_put_ne _ _ _ _ _ (hk.resolve_right (by rw [hm]; exact Bool.noConfusion))
    · rw [show f s.cur.vr = _ from if_neg hm]

/-- What `vnbr` reads when the activation at the place it names moves in step (R217). -/
theorem exec_vnbr {s : State} {d a m o : Nat} {x : Act}
    (hx : ((s.quadActs s.cur).find? fun y =>
      y.core == s.cur.core / 4 * 4 + (s.cur.core % 4 + o) % 4 && y.gang == s.cur.gang && s.wasInStep y) = some x)
    (hstep : s.cur.inStep = true) (hg : s.cur.grant ≤ x.grant) :
    exec (.vnbr d a m o) s = s.lmap m d fun i => laneOf (s.snapVr x) a i := by
  have hexec : exec (.vnbr d a m o) s = execVnbr d a m o s := rfl
  rw [hexec, execVnbr]
  simp only [hx, hstep, Bool.true_and, decide_eq_true hg, if_true]

/-- Settles O33: each form ends in one map over the lanes that take part, or traps on its index. -/
theorem laneMoves : Obligations.LaneMoves := by
  intro s d a b m o hd G idx at_ sel
  have hat (j : Int) : s.laneOr0 a j = at_ j := s.laneOr0_eq a j
  refine ⟨Runs.of_lmap rfl fun i _ _ => hat _, Runs.of_lmap rfl fun i _ _ => hat _, fun hidx => ⟨?_, fun hm => ?_, fun hm => ?_, ?_⟩,
    fun hidx hs => ⟨?_, ?_, ?_⟩, Runs.of_lmap rfl fun _ _ _ => rfl, Runs.of_lmap rfl fun i hi hm => ?_,
    Runs.of_lmap rfl fun _ _ _ => rfl, Runs.of_lmap rfl fun _ _ _ => rfl, Runs.of_lmap rfl fun _ _ _ => rfl,
    Runs.of_lmap rfl fun _ _ _ => rfl, fun x hx hstep hg => Runs.of_lmap (exec_vnbr hx hstep hg) fun _ _ _ => rfl⟩
  · exact Runs.of_lmap (if_neg (Nat.not_le.2 hidx)) fun _ _ _ => rfl
  · exact Runs.of_put ((exec_vget hidx).trans (if_pos hm)) hd
  · exact ⟨_, (exec_vget hidx).trans (if_neg (by rw [hm]; exact Bool.false_ne_true)), Advanced.of_retire s 4⟩
  · exact runs_vput hidx
  · exact Runs.of_trapHere (if_pos hidx) hs
  · exact Runs.of_trapHere (if_pos hidx) hs
  · exact Runs.of_trapHere (if_pos hidx) hs
  · exact congrArg (s.lane a) (length_takeWhile_selected hi hm)

end Sys2Proof.Machine
end

section
/-!
SUPPORT. Long vector forms and vector conversions (08 R201 to R203).
-/

namespace Sys2Proof.Machine

/-- A long form over every element of the grant. -/
theorem Runs.of_vlong {i : Instr} {s : State} {w : FW} {la d : Nat} {r : Nat → Val × Nat} (h : exec i s = s.vlong w la d r) :
    Runs i s (VecResult s · la (fwFmt w).width d
      ((List.range (perReg (fwFmt w).width s.cur.grant)).map fun j => (j, (rto (fwFmt w) (r j).1).1))
      ((List.range (perReg (fwFmt w).width s.cur.grant)).foldl (fun k j => k ||| ((r j).2 ||| (rto (fwFmt w) (r j).1).2)) 0)) := by
  have hput := h
  simp only [State.vlong, List.map_map, List.foldl_map, Function.comp_def] at hput
  exact Runs.of_putVec hput

/-- The elements of a conversion over groups (R203). -/
def State.convLanes (s : State) (ns nt : Nat) : Nat := s.cur.grant * 32 / min ns nt

section Conversions

variable {i : Instr} {s : State} {ns nt m d a : Nat} {f : Nat → Image → Image × Nat} {c : Image → Image × Nat}

/-- A conversion whose widths agree is elementwise under its mask. -/
theorem Runs.of_vconv_same (h : exec i s = s.vconv ns nt m d a f) (hf : f = fun _ => c) (hn : ElemWidth ns) (hw : ns = nt) :
    Runs i s (ElemResult s · nt m d (fun j => (c (elemOf s.cur.vr ns a j)).1) (s.elemFlags nt m fun j => (c (elemOf s.cur.vr ns a j)).2)) := by
  subst hf
  exact Runs.of_vmap (hw ▸ hn) (h.trans (if_pos hw))

/-- A conversion whose widths differ converts the elements of a group that fits at both ends. -/
theorem Runs.of_vconv_groups (h : exec i s = s.vconv ns nt m d a f) (hf : f = fun _ => c) (hw : ns ≠ nt)
    (hsrc : groupBad ns s.cur.grant a (s.convLanes ns nt) = none) (hdst : groupBad nt s.cur.grant d (s.convLanes ns nt) = none) :
    Runs i s (VecResult s · 0 nt d ((List.range (s.convLanes ns nt)).map fun j => (j, (c (groupElem s.cur.vr ns s.cur.grant a j)).1))
      ((List.range (s.convLanes ns nt)).foldl (fun k j => k ||| (c (groupElem s.cur.vr ns s.cur.grant a j)).2) 0)) := by
  subst hf
  have hfits : firstBad [groupBad ns s.cur.grant a (s.convLanes ns nt), groupBad nt s.cur.grant d (s.convLanes ns nt)] = none := by
    rw [hsrc, hdst]; rfl
  rw [State.vconv, if_neg hw] at h
  simp only [State.convLanes] at hfits
  simp only [hfits, List.map_map, List.foldl_map, Function.comp_def] at h
  exact Runs.of_putVec h

/-- One whose source group does not fit traps. -/
theorem Runs.of_vconv_bad {code sub v : Nat} (h : exec i s = s.vconv ns nt m d a f) (hw : ns ≠ nt) (hs : s.cur.shadow = none)
    (hsrc : groupBad ns s.cur.grant a (s.convLanes ns nt) = some (code, sub, v)) : Runs i s (Trapped s · code sub v s.pc) := by
  have hbad : firstBad [groupBad ns s.cur.grant a (s.convLanes ns nt), groupBad nt s.cur.grant d (s.convLanes ns nt)]
      = some (code, sub, v) := by rw [hsrc]; rfl
  rw [State.vconv, if_neg hw] at h
  simp only [State.convLanes] at hbad
  simp only [hbad] at h
  exact Runs.of_trapHere h hs

end Conversions

theorem codeBits_of_range {tgt k : Nat} {lo hi : Int} (hf : fmtOf? tgt = none) (hr : intRange? tgt = some (lo, hi, k)) :
    codeBits tgt = k := by
  rw [codeBits, hf, hr]

/-- Settles O32: the long forms end in one write of a group, and each conversion is elementwise, over groups, or a trap by the
widths and the source group. -/
theorem vectorLongAndConversions : Obligations.VectorLongAndConversions := by
  intro s w iw d a b tgt m la f n g A B long lanes same groups fits bad ofInt toInt
  have hn : ElemWidth n := elemWidth_fwFmt w
  have outcomes {i : Instr} {ns nt : Nat} {c : Image → Image × Nat} (hexec : exec i s = s.vconv ns nt m d a fun _ => c)
      (hns : ElemWidth ns) : (ns = nt → Runs i s (same ns nt c)) ∧ (ns ≠ nt → fits ns nt → Runs i s (groups ns nt c))
        ∧ (ns ≠ nt → ∀ code sub v, bad ns nt code sub v → Runs i s (Trapped s · code sub v s.pc)) :=
    ⟨fun hw => Runs.of_vconv_same hexec rfl hns hw,
      fun hw hfit => Runs.of_vconv_groups hexec rfl hw hfit.1 hfit.2,
      fun hw _ _ _ hbad => Runs.of_vconv_bad hexec hw hbad.1 hbad.2⟩
  refine ⟨Runs.of_vlong rfl, Runs.of_vlong rfl, Runs.of_vlong rfl, fun T hT => ?cvt, fun T hT => ?icvtf, fun lo hi k hr hf => ?fcvti⟩
  case cvt =>
    have hexec : exec (.vcvt w d a tgt m) s = s.vconv n T.width m d a fun _ x => rto T (imgVal f x) := by
      have hdef : exec (.vcvt w d a tgt m) s = execVcvt w d a tgt m s := rfl
      rw [hdef, execVcvt, hT]; rfl
    exact outcomes hexec hn
  case icvtf =>
    have hexec : exec (.vicvtf iw d a tgt m) s = s.vconv (nbits iw) T.width m d a fun _ x => ofInt T x := by
      have hdef : exec (.vicvtf iw d a tgt m) s = execVicvtf iw d a tgt m s := rfl
      rw [hdef, execVicvtf, hT]; rfl
    exact outcomes hexec (elemWidth_nbits iw)
  case fcvti =>
    have hexec : exec (.vfcvti w d a tgt m) s = s.vconv n k m d a fun _ x => toInt lo hi k x := by
      have hdef : exec (.vfcvti w d a tgt m) s = execVfcvti w d a tgt m s := rfl
      rw [hdef, execVfcvti, codeBits_of_range hf hr]
      simp only [s.convInt_of_range hr]
      rfl
    exact outcomes hexec hn

end Sys2Proof.Machine
end

section
/-!
SUPPORT. Reductions, scans, sorts and top-k over groups (08 R205, R206).
-/

namespace Sys2Proof.Machine

/-! ### Control words -/

theorem bit_eq_false_of_lt {v k : Nat} (h : v < 2 ^ k) : bit v k = false := by
  rw [bit_eq_testBit, Nat.testBit_lt_two_pow h]

/-- A count alone is a good control word of the reductions and scans. -/
theorem ctlBad_count {n : Nat} (h1 : 1 ≤ n) (h2 : n ≤ 8191) : n % 2 ^ 14 = n ∧ ctlBad n false false false = false := by
  have hmod : n % 2 ^ 14 = n := Nat.mod_eq_of_lt (by omega)
  have hhigh : n / 2 ^ 24 = 0 := Nat.div_eq_of_lt (by omega)
  have hk : bits n 16 8 = 0 := by rw [bits]; omega
  refine ⟨hmod, ?_⟩
  have h15 := bit_eq_false_of_lt (v := n) (k := 15) (by omega)
  have h14 := bit_eq_false_of_lt (v := n) (k := 14) (by omega)
  simp only [ctlBad, hmod, hhigh, hk, h15, h14]
  simp
  omega

/-- The fields of a control word: the count, DESC, IDX and K - 1. -/
theorem ctlWord_fields {n k c : Nat} {desc idx : Bool} (h : n ≤ 8191) (hk : k < 256)
    (hc : c = n + 2 ^ 14 * (if desc then 1 else 0) + 2 ^ 15 * (if idx then 1 else 0) + 2 ^ 16 * k) :
    c % 2 ^ 14 = n ∧ bit c 14 = desc ∧ bit c 15 = idx ∧ bits c 16 8 = k ∧ c / 2 ^ 24 = 0 := by
  subst hc
  refine ⟨?_, ?_, ?_, ?_, ?_⟩
  · omega
  · cases desc <;> simp [bit] <;> split <;> omega
  · cases idx <;> simp [bit] <;> split <;> omega
  · rw [bits]; split <;> split <;> omega
  · split <;> split <;> omega

/-- A form of major 0x26 whose control word and groups are good. -/
theorem State.withGroup_of_ok {s : State} {b n : Nat} {top idx desc : Bool} {gs : Nat → List (Option (Nat × Nat × Nat))}
    {k : Nat → Out} {l : List (Option (Nat × Nat × Nat))} (hn : s.reg b % 2 ^ 14 = n) (hc : ctlBad (s.reg b) top idx desc = false)
    (hg : firstBad l = none) (hl : gs n = l := by rfl) :
    s.withGroup b top idx desc gs k = k n := by
  subst hn hl
  simp only [State.withGroup, hc, hg]
  rfl

theorem firstBad_single {x : Option (Nat × Nat × Nat)} (h : x = none) : firstBad [x] = none := by rw [h]; rfl

theorem firstBad_pair {x y : Option (Nat × Nat × Nat)} (hx : x = none) (hy : y = none) : firstBad [x, y] = none := by
  rw [hx, hy]; rfl

/-! ### Scans -/

theorem length_scanSum (t : Nat) (l : List Nat) : (scanSum t l).length = l.length := by
  induction l generalizing t with
  | nil => rfl
  | cons x l ih => exact congrArg (· + 1) (ih _)

/-- Each running sum is the sum of the elements up to its place. -/
theorem getElem?_scanSum (t : Nat) (l : List Nat) {i : Nat} (h : i < l.length) :
    (scanSum t l)[i]? = some ((l.take (i + 1)).foldl (· + ·) t) := by
  induction l generalizing t i with
  | nil => exact absurd h (Nat.not_lt_zero i)
  | cons x l ih =>
    cases i with
    | zero => rfl
    | succ i => exact ih (t + x) (Nat.lt_of_succ_lt_succ h)

theorem zip_range_scanSum (n N : Nat) (x : Nat → Nat) :
    (List.range n).zip ((scanSum 0 ((List.range n).map x)).map fun y => (⟨y % 2 ^ N, 0⟩ : Image))
      = (List.range n).map fun i => (i, ⟨(List.range (i + 1)).foldl (fun t i => t + x i) 0 % 2 ^ N, 0⟩) := by
  refine List.ext_getElem? fun i => ?_
  by_cases hi : i < n
  · have hsum := getElem?_scanSum 0 ((List.range n).map x) (i := i) (by simpa using hi)
    rw [← List.map_take, List.take_range, Nat.min_eq_left (Nat.succ_le_of_lt hi), List.foldl_map] at hsum
    simp [List.zip, List.getElem?_zipWith, List.getElem?_map, hsum, hi]
  · rw [List.getElem?_eq_none, List.getElem?_eq_none] <;> simp [length_scanSum] <;> omega

/-! ### Sorts -/

theorem zip_range_take {α : Type} (k : Nat) (l : List α) : (List.range k).zip (l.take k) = (List.range k).zip l := by
  have htake : ((List.range k).zip l).take k = (List.range k).zip l := List.take_of_length_le (by simp)
  rw [← htake, List.zip_eq_zipWith, List.zip_eq_zipWith, List.take_zipWith, List.take_of_length_le (l := List.range k) (by simp)]

/-- The lanes after the first `k` keys of an order are written, and their indices when asked for. -/
def sortedLanes (vr : FMap Nat) (g d k : Nat) (ids : Bool) (r : List (Image × Nat)) : FMap Nat :=
  let v := putGroup vr 32 g d ((List.range k).zip (r.map (·.1)))
  if ids then putGroup v 32 g (d + ceilDiv k g) ((List.range k).zip (r.map fun p => (⟨p.2, 0⟩ : Image))) else v

theorem sortedLanes_take (vr : FMap Nat) (g d k : Nat) (ids : Bool) (r : List (Image × Nat)) :
    sortedLanes vr g d k ids (r.take k) = sortedLanes vr g d k ids r := by
  simp only [sortedLanes, List.map_take, zip_range_take]

/-- A sort writes the lanes of its order, behind its window. -/
theorem Runs.of_putSorted {i : Instr} {s : State} {la d k : Nat} {ids : Bool} {r : List (Image × Nat)}
    (h : exec i s = s.putSorted la d k ids r) :
    Runs i s fun t => t.cur.vr = sortedLanes s.cur.vr s.cur.grant d k ids r ∧ t.pc = (s.pc + 4) % 2 ^ 56 ∧ SameMem s t s.pcSpan
      ∧ t.withoutResult s = s := by
  obtain ⟨hpc, hvr, -, -, honly, hframe⟩ := VecEnd.of_endVec s la 0
    ((List.range ((if ids then 2 else 1) * ceilDiv k s.cur.grant)).map (d + ·))
    fun m => sortedLanes m s.cur.grant d k ids (r.take k)
  exact ⟨_, h, hvr.trans (sortedLanes_take _ _ _ _ _ _), hpc, fun a ha => hframe a fun hp => ha (hp.resolve_right fun h => h.1 rfl),
    honly⟩

/-- A sort or top-k whose control word is good and whose groups fit writes its order. -/
theorem State.sorted_of_ok {s : State} {la d a b n k : Nat} {top desc idx : Bool} {lt : Bool → Image → Image → Bool}
    (hn : s.reg b % 2 ^ 14 = n) (hdesc : bit (s.reg b) 14 = desc) (hidx : (top || bit (s.reg b) 15) = idx)
    (hk : (if top then bits (s.reg b) 16 8 + 1 else n) = k) (hc : ctlBad (s.reg b) top (!top) true = false)
    (hsrc : groupBad 32 s.cur.grant a n = none) (hdst : groupBad 32 s.cur.grant d k = none)
    (hids : idx = true → d + 2 * ceilDiv k s.cur.grant ≤ 32) :
    s.sorted la d a b top lt = s.putSorted la d k idx (keySort (lt desc) (s.group 32 a n)) := by
  subst hdesc hidx hk
  simp only [State.sorted]
  refine State.withGroup_of_ok hn hc ?_
  have hroom : ((top || bit (s.reg b) 15) && decide (31 < d + ceilDiv (if top then bits (s.reg b) 16 8 + 1 else n) s.cur.grant
      + ceilDiv (if top then bits (s.reg b) 16 8 + 1 else n) s.cur.grant - 1)) = false := by
    rw [Bool.and_eq_false_iff, or_iff_not_imp_left, Bool.not_eq_false, decide_eq_false_iff_not]
    intro h
    have := hids h
    omega
  simp only [hsrc, hdst, hroom]
  rfl

/-- Settles O34: with a good control word and groups that fit, each form ends in one write of its result. -/
theorem reductionsAndSorts : Obligations.ReductionsAndSorts := by
  refine ⟨fun s iw w d a b la hd => ?_, fun s iw w d a b la n km1 desc idx => ?_⟩
  · intro n g N f x y sum h1 h2
    obtain ⟨hn, hc⟩ := ctlBad_count h1 h2
    refine ⟨fun ha => Runs.of_putLa ?red hd, fun ha => Runs.of_putFpLa ?fred hd, fun ha hdst => Runs.of_putVec (n := n) ?scan,
      fun ha hdst => Runs.of_putVec (n := n) ?fscan⟩
    case red =>
      have hexec : exec (.vred iw d a b la) s = execVred iw d a b la s := rfl
      rw [hexec, execVred, State.withGroup_of_ok hn hc (firstBad_single ha)]
      simp only [State.group, List.foldl_map]
      rfl
    case fred =>
      have hexec : exec (.vfred w d a b la) s = execVfred w d a b la s := rfl
      rw [hexec, execVfred, State.withGroup_of_ok hn hc (firstBad_single ha)]
      simp only [State.group, List.map_map]
      rfl
    case scan =>
      have hexec : exec (.vscan iw d a b la) s = execVscan iw d a b la s := rfl
      rw [hexec, execVscan, State.withGroup_of_ok hn hc (firstBad_pair ha hdst)]
      simp only [State.group, List.map_map, Function.comp_def, zip_range_scanSum]
      rfl
    case fscan =>
      have hexec : exec (.vfscan w d a b la) s = execVfscan w d a b la s := rfl
      rw [hexec, execVfscan, State.withGroup_of_ok hn hc (firstBad_pair ha hdst)]
      have hgroup : s.group (fwFmt w).width a n = y 0 :: (List.range (n - 1)).map fun i => y (i + 1) := by
        obtain ⟨k, hk⟩ : ∃ k, n = k + 1 := ⟨n - 1, by omega⟩
        rw [hk, State.group, List.range_succ_eq_map, List.map_cons, List.map_map, Nat.add_sub_cancel]
        rfl
      simp only [hgroup]
      rfl
  · intro g c ct keys write h1 h2 ha
    refine ⟨fun hdst hids hb => ?_, fun hdst hids hkn hk hb => ?_⟩
    · obtain ⟨hn, hdesc, hidx, hk0, hhigh⟩ := ctlWord_fields (k := 0) (desc := desc) (idx := idx) h2 (by decide) (hb.trans (Nat.add_zero _).symm)
      have hc : ctlBad (s.reg b) false true true = false := by
        simp [ctlBad, hk0]
        omega
      exact ⟨Runs.of_putSorted (State.sorted_of_ok hn hdesc hidx rfl hc ha hdst hids),
        Runs.of_putSorted (State.sorted_of_ok hn hdesc hidx rfl hc ha hdst hids)⟩
    · obtain ⟨hn, hdesc, hidx, hk0, hhigh⟩ := ctlWord_fields (desc := desc) (idx := false) h2 hk (c := s.reg b)
        (by rw [hb]; simp [ct])
      have hc : ctlBad (s.reg b) true false true = false := by
        simp [ctlBad, hk0, hidx]
        omega
      have hsort := State.sorted_of_ok (la := la) (lt := fpLt) (top := true) hn hdesc rfl (congrArg (· + 1) hk0) hc ha hdst fun _ => hids
      obtain ⟨t, ht, hvr, hrest⟩ := Runs.of_putSorted (i := .vtopk w d a b la) hsort
      exact ⟨t, ht, hvr.trans (sortedLanes_take _ _ _ _ _ _).symm, hrest⟩

end Sys2Proof.Machine
end

section
/-!
SUPPORT. The order of the sorts (08 R206, 02 R54): an insertion behind every key that is not greater is a stable sort for a
strict order that compares keys of a linear order.
-/

namespace Sys2Proof.Machine

/-! ### Insertion -/

/-- A strict order on images that compares keys of a linear order. -/
def ByKey {κ : Type} [LinearOrder κ] (key : Image → κ) (lt : Image → Image → Bool) : Prop := ∀ x y, lt x y = true ↔ key x < key y

/-- The stable order of two keys with their indices. -/
def SortedBefore {κ : Type} [LinearOrder κ] (key : Image → κ) (p q : Image × Nat) : Prop :=
  key p.1 ≤ key q.1 ∧ (key q.1 ≤ key p.1 → p.2 < q.2)

theorem keyInsert_perm (lt : Image → Image → Bool) (x : Image × Nat) (l : List (Image × Nat)) : (keyInsert lt x l).Perm (x :: l) := by
  induction l with
  | nil => rfl
  | cons y ys ih =>
    rw [keyInsert]
    split
    · rfl
    · exact (ih.cons y).trans (.swap x y ys)

section

variable {κ : Type} [LinearOrder κ] {key : Image → κ} {lt : Image → Image → Bool}

/-- Inserting a key whose index is above those of a stably sorted list keeps the list so. -/
theorem pairwise_keyInsert (hlt : ByKey key lt) {x : Image × Nat} {l : List (Image × Nat)} (hl : l.Pairwise (SortedBefore key))
    (hx : ∀ p ∈ l, p.2 < x.2) : (keyInsert lt x l).Pairwise (SortedBefore key) := by
  induction l with
  | nil => exact List.pairwise_singleton _ _
  | cons y ys ih =>
    obtain ⟨hy, hys⟩ := List.pairwise_cons.1 hl
    rw [keyInsert]
    split
    case isTrue hlow =>
      have hlow := (hlt _ _).1 hlow
      refine List.pairwise_cons.2 ⟨fun z hz => ?_, hl⟩
      have hz : key x.1 < key z.1 := by
        rcases List.mem_cons.1 hz with rfl | hz
        · exact hlow
        · exact hlow.trans_le (hy z hz).1
      exact ⟨hz.le, fun h => absurd hz h.not_gt⟩
    case isFalse hlow =>
      have hlow := not_lt.1 (mt (hlt _ _).2 hlow)
      refine List.pairwise_cons.2 ⟨fun z hz => ?_, ih hys fun p hp => hx p (List.mem_cons_of_mem _ hp)⟩
      rcases List.mem_cons.1 ((keyInsert_perm lt x ys).mem_iff.1 hz) with rfl | hz
      · exact ⟨hlow, fun _ => hx y List.mem_cons_self⟩
      · exact hy z hz

/-- Inserting pairs of rising indices, one after another. -/
theorem foldl_keyInsert (hlt : ByKey key lt) {ps : List (Nat × Image)} {ys : List (Image × Nat)}
    (hps : ps.Pairwise fun p q => p.1 < q.1) (hys : ys.Pairwise (SortedBefore key)) (hbelow : ∀ y ∈ ys, ∀ p ∈ ps, y.2 < p.1) :
    (ps.foldl (fun ys p => keyInsert lt (p.2, p.1) ys) ys).Perm (ys ++ ps.map fun p => (p.2, p.1))
      ∧ (ps.foldl (fun ys p => keyInsert lt (p.2, p.1) ys) ys).Pairwise (SortedBefore key) := by
  induction ps generalizing ys with
  | nil => exact ⟨by simp, hys⟩
  | cons p ps ih =>
    obtain ⟨hp, hps⟩ := List.pairwise_cons.1 hps
    have hperm := keyInsert_perm lt (p.2, p.1) ys
    have hnext := pairwise_keyInsert hlt hys (x := (p.2, p.1)) fun y hy => hbelow y hy p List.mem_cons_self
    obtain ⟨hall, hsorted⟩ := ih hps hnext fun y hy q hq => by
      rcases List.mem_cons.1 (hperm.mem_iff.1 hy) with rfl | hy
      · exact hp q hq
      · exact hbelow y hy q (List.mem_cons_of_mem _ hq)
    exact ⟨hall.trans ((hperm.append_right _).trans List.perm_middle.symm), hsorted⟩

/-- The order of the sorts is a stable sort. -/
theorem keySort_spec (hlt : ByKey key lt) (xs : List Image) :
    ((keySort lt xs).map (·.2)).Perm (List.range xs.length) ∧ (∀ p ∈ keySort lt xs, xs[p.2]? = some p.1)
      ∧ (keySort lt xs).Pairwise fun p q => lt q.1 p.1 = false ∧ (lt p.1 q.1 = false → p.2 < q.2) := by
  have hfst : ((List.range xs.length).zip xs).map (·.1) = List.range xs.length := List.map_fst_zip (by simp)
  have hrise : ((List.range xs.length).zip xs).Pairwise fun p q => p.1 < q.1 := by
    rw [← List.pairwise_map (f := fun p : Nat × Image => p.1), hfst]
    exact List.pairwise_lt_range
  obtain ⟨hperm, hsorted⟩ := foldl_keyInsert hlt hrise List.Pairwise.nil fun y hy => absurd hy List.not_mem_nil
  refine ⟨?_, fun p hp => ?_, hsorted.imp fun {p q} hpq => ?_⟩
  · refine (hperm.map _).trans (.of_eq ?_)
    rw [List.nil_append, List.map_map]
    exact hfst
  · obtain ⟨q, hq, rfl⟩ := List.mem_map.1 (hperm.mem_iff.1 hp)
    obtain ⟨i, hi⟩ := List.mem_iff_getElem?.1 hq
    obtain ⟨hfst, hsnd⟩ := List.getElem?_zip_eq_some.1 hi
    obtain ⟨hlen, hidx⟩ := List.getElem?_eq_some_iff.1 hfst
    rw [List.getElem_range] at hidx
    exact hidx ▸ hsnd
  · simp only [← Bool.not_eq_true]
    rw [hlt q.1 p.1, hlt p.1 q.1, not_lt, not_lt]
    exact hpq

end

/-! ### The keys of the two orders -/

/-- The value of a finite image. -/
def Val.toRat : Val → ℚ
  | .fin neg m e => (if neg then -(m : ℚ) else m) * (2 : ℚ) ^ e
  | _ => 0

/-- The place of a value in the total order of R54: negative infinity, the finite values, positive infinity, NaN. -/
def Val.sortKey : Val → Lex (ℕ × ℚ)
  | .inf true => toLex (0, 0)
  | .fin neg m e => toLex (1, (Val.fin neg m e).toRat)
  | .inf false => toLex (2, 0)
  | .nan => toLex (3, 0)

theorem scaled_mul (neg : Bool) (m : Nat) {e e0 : Int} (h : e0 ≤ e) :
    (scaled neg m e e0 : ℚ) * (2 : ℚ) ^ e0 = (Val.fin neg m e).toRat := by
  have hpow : (2 : ℚ) ^ (e - e0).toNat * (2 : ℚ) ^ e0 = (2 : ℚ) ^ e := by
    rw [← zpow_natCast, ← zpow_add₀ two_ne_zero, Int.toNat_of_nonneg (by omega), sub_add_cancel]
  cases neg <;> simp [scaled, Val.toRat, mul_assoc, hpow]

theorem vCmp_fin_ne_gt (n1 n2 : Bool) (m1 m2 : Nat) (e1 e2 : Int) :
    vCmp (.fin n1 m1 e1) (.fin n2 m2 e2) ≠ .gt ↔ (Val.fin n1 m1 e1).toRat ≤ (Val.fin n2 m2 e2).toRat := by
  have hpos : (0 : ℚ) < (2 : ℚ) ^ min e1 e2 := zpow_pos two_pos _
  rw [← scaled_mul n1 m1 (min_le_left e1 e2), ← scaled_mul n2 m2 (min_le_right e1 e2), mul_le_mul_iff_of_pos_right hpos,
    Int.cast_le, vCmp]
  split_ifs with hlt heq
  · simp [hlt.le]
  · simp [heq]
  · simp only [ne_eq, not_true, false_iff]; omega

theorem sortLe_iff (a b : Val) : sortLe a b = true ↔ a.sortKey ≤ b.sortKey := by
  have hfin := vCmp_fin_ne_gt
  rcases a with _ | na | ⟨na, ma, ea⟩ <;> rcases b with _ | nb | ⟨nb, mb, eb⟩
  case fin.fin => simpa [sortLe, Val.isNaN, Val.sortKey, Prod.Lex.toLex_le_toLex] using hfin na nb ma mb ea eb
  case inf.inf => cases na <;> cases nb <;> simp [sortLe, Val.isNaN, Val.sortKey, Prod.Lex.toLex_le_toLex, vCmp]
  case inf.nan | inf.fin => cases na <;> simp [sortLe, Val.isNaN, Val.sortKey, Prod.Lex.toLex_le_toLex, vCmp]
  case nan.inf | fin.inf => cases nb <;> simp [sortLe, Val.isNaN, Val.sortKey, Prod.Lex.toLex_le_toLex, vCmp]
  all_goals simp [sortLe, Val.isNaN, Val.sortKey, Prod.Lex.toLex_le_toLex]

theorem byKey_fpLt : ByKey (fun x => (imgVal fp32 x).sortKey) (fpLt false)
    ∧ ByKey (fun x => OrderDual.toDual (imgVal fp32 x).sortKey) (fpLt true) := by
  constructor <;> intro x y
  · simp [fpLt, ← Bool.not_eq_true, sortLe_iff]
  · simp [fpLt, ← Bool.not_eq_true, sortLe_iff]

/-- The integer that an image holds under the signedness of w. -/
def intKey (w : IW) (i : Image) : Int := if wSigned w then sint i.bits 32 else (i.bits : Int)

theorem byKey_intLt (w : IW) : ByKey (intKey w) (intLt w false) ∧ ByKey (fun x => OrderDual.toDual (intKey w x)) (intLt w true) :=
  ⟨fun _ _ => decide_eq_true_iff, fun _ _ => decide_eq_true_iff⟩

/-- Settles O35: both orders compare keys of a linear order, reversed under DESC. -/
theorem sortOrderIsStable : Obligations.SortOrderIsStable := by
  rintro lt xs (⟨desc, rfl⟩ | ⟨w, desc, rfl⟩)
  · cases desc
    · exact keySort_spec byKey_fpLt.1 xs
    · exact keySort_spec byKey_fpLt.2 xs
  · cases desc
    · exact keySort_spec (byKey_intLt w).1 xs
    · exact keySort_spec (byKey_intLt w).2 xs

end Sys2Proof.Machine
end

section
/-!
SUPPORT. Endings, yields, breakpoints, system calls and failed fetches (10 R273 to R275, R259, 03 R57).
-/

namespace Sys2Proof.Machine

/-! ### What an ending instruction does before the activation ends (R275) -/

section Ending

variable {i : Instr} {s : State}

theorem State.ending_of_late {k : State → Out} {e : Late} {es : List Late} (h : s.cur.late = e :: es) :
    s.ending k = .next ((s.modCur fun a => { a with late := es }).trapHere e.code e.sub e.tval) := by
  have herase : s.cur.late.erase e = es := by rw [h, List.erase_cons_head]
  have hcur : (s.modCur fun a => { a with late := a.late.erase e }) = s.modCur fun a => { a with late := es } :=
    congrArg (fun l => s.setCur { s.cur with late := l }) herase
  rw [State.ending]
  simp only [h, State.raiseLate, hcur]

theorem State.ending_of_waits {k : State → Out} (h : s.cur.late = []) (hw : s.endWaits = true) : s.ending k = .next s := by
  rw [State.ending]
  simp only [h, hw, if_true]

theorem State.ending_of_free {k : State → Out} (h : s.cur.late = []) (hw : s.endWaits = false) : s.ending k = k s := by
  rw [State.ending]
  simp only [h, hw, Bool.false_eq_true, if_false]

/-- The two delays of an ending. -/
theorem delays_of_ending {k : State → Out} (h : exec i s = s.ending k) (hs : s.cur.shadow = none) :
    (s.cur.late = [] → s.endWaits = true → exec i s = .next s)
      ∧ (∀ e es, s.cur.late = e :: es → Runs i s (Trapped (s.modCur fun a => { a with late := es }) · e.code e.sub e.tval s.pc)) :=
  ⟨fun hl hw => h.trans (State.ending_of_waits hl hw),
    fun _ _ hl => ⟨_, h.trans (State.ending_of_late hl), Trapped.of_trapHere _ _ _ _ hs⟩⟩

theorem Runs.of_ending {k : State → Out} {t : State} (h : exec i s = s.ending k) (hk : k s = .next t) (hl : s.cur.late = [])
    (hw : s.endWaits = false) : Runs i s fun u => u = t := ⟨t, h.trans ((State.ending_of_free hl hw).trans hk), rfl⟩

end Ending

theorem exec_halt {s : State} (h : s.cur.orig ≠ 2) : exec .halt s = s.ending fun s => .next (s.endCur false) := if_neg h

theorem exec_hret {s : State} (h : s.cur.orig = 1) : exec .hret s = s.ending fun s => .next (s.endCur false) :=
  if_neg (not_not_intro h)

/-! ### Renegotiation -/

theorem State.renegotiate_of_whole {s : State} (h : s.cur.saved = 0) : s.renegotiate = s := if_pos h

theorem State.renegotiate_saved {s : State} (h : s.cur.saved ≠ 0) :
    s.renegotiate.cur.saved = 0 ∧ s.renegotiate.cur.grant ≤ s.cur.grant := by
  rw [State.renegotiate, if_neg h]
  exact ⟨rfl, (Nat.div_mul_le_self _ 8).trans (min_le_left _ _)⟩

/-! ### Failed fetches -/

theorem State.fetchAt_of_odd {s : State} (h : s.pc % 2 = 1) : s.fetchAt s.pc = .stop (s.trapHere cALIGN 0 s.pc) := by
  have hpc : s.pc % 2 ^ 56 = s.pc := Nat.mod_eq_of_lt (Nat.mod_lt _ (by decide))
  rw [State.fetchAt]
  simp only [hpc, h, if_true]

/-- A fetch from a local window traps (R57). -/
theorem State.fetchAt_of_local {s : State} (h : s.pc % 2 = 0) (hl : bits s.pc 52 4 = 15) :
    s.fetchAt s.pc = .stop (s.trapHere cPRIV 0 s.pc) := by
  have hpc : s.pc % 2 ^ 56 = s.pc := Nat.mod_eq_of_lt (Nat.mod_lt _ (by decide))
  have hhalf : s.fetchHalf s.pc = .stop (s.trapHere cPRIV 0 s.pc) := if_pos hl
  rw [State.fetchAt]
  simp only [hpc, h, hhalf, zero_ne_one, if_false]
  rfl

theorem exec_fetchFault (s : State) : exec .fetchFault s = (s.fetchAt s.pc).halt := rfl

/-- Settles O41: what is unraised or outstanding comes first, and the traps follow from the instruction alone. -/
theorem endingsAndTraps : Obligations.EndingsAndTraps := by
  intro s imm word hs go
  refine ⟨fun ho => Runs.of_ending (exec_halt ho) rfl, fun ho => Runs.of_ending (exec_hret ho) rfl,
    fun ho => delays_of_ending (exec_halt ho) hs, fun ho => delays_of_ending (exec_hret ho) hs,
    fun ho => Runs.of_trapHere (if_pos ho) hs, fun ho => Runs.of_trapHere (if_pos ho) hs, fun ho => Runs.of_trapHere (if_pos ho) hs,
    fun ho hw => ?yield, fun ho hw => ?renegotiate, ⟨_, rfl, Trapped.of_trap s _ _ _ _ hs⟩, ⟨_, rfl, Trapped.of_trap s _ _ _ _ hs⟩,
    Runs.of_trapHere rfl hs, fun h => Runs.of_trapHere ?odd hs, fun h hl => Runs.of_trapHere ?window hs⟩
  case yield =>
    have hexec : exec .yield s = .next ((s.retire 2).yieldPoint).renegotiate := if_neg ho
    have hsame : ((s.retire 2).yieldPoint).renegotiate = (s.retire 2).yieldPoint := State.renegotiate_of_whole hw
    exact ⟨_, hexec.trans (congrArg _ hsame), s.pc_retire 2, fun k hk => s.rd_retire_ne 2 k hk, rfl, rfl⟩
  case renegotiate => exact ⟨_, if_neg ho, rfl, State.renegotiate_saved (s := (s.retire 2).yieldPoint) hw⟩
  case odd => rw [exec_fetchFault, State.fetchAt_of_odd h]; rfl
  case window => rw [exec_fetchFault, State.fetchAt_of_local h hl]; rfl

end Sys2Proof.Machine
end

section
/-!
SUPPORT. The status registers (03 R66, 24 R452).
-/

namespace Sys2Proof.Machine

section StatusRegisters

variable {s : State} {d a n : Nat}

/-! ### Reads -/

theorem exec_mfs_user (hs : s.cur.shadow = none) (hn : n ≤ 0xB) : exec (.mfs d n) s = s.put 4 d (s.sregVal n) 0 :=
  (s.withSreg_user (wordSup 0 d 0 n) n _ hs hn).trans (if_neg (by omega))

theorem exec_mfs_sup (hs : s.cur.shadow = none) (hl : s.cur.level ≠ .user) (h : 0x100 ≤ n) (h2 : n ≤ 0x108) :
    exec (.mfs d n) s = s.put 4 d (s.sregVal n) 0 :=
  (s.withSreg_sup (wordSup 0 d 0 n) n _ hs hl h (.inl h2)).trans (if_neg (by omega))

/-- The CARVE registers are for the control cores. -/
theorem exec_mfs_carve (hs : s.cur.shadow = none) (hl : s.cur.level ≠ .user) (hc : s.cur.onControl = true) (h : 0x110 ≤ n)
    (h2 : n ≤ 0x113) : exec (.mfs d n) s = s.put 4 d (s.sregVal n) 0 :=
  (s.withSreg_sup (wordSup 0 d 0 n) n _ hs hl (by omega) (.inr ⟨h, h2⟩)).trans (if_neg (by simp [hc]))

/-- The registers of the firmware are read at its level. -/
theorem exec_mfs_fw (hs : s.cur.shadow = none) (hl : s.cur.level = .fw) (h : 0x200 ≤ n) (h2 : n ≤ 0x220) :
    exec (.mfs d n) s = s.put 4 d (s.sregVal n) 0 := by
  have hexec : exec (.mfs d n) s = execMfs d n s := rfl
  rw [hexec, execMfs, State.withSreg, sregOf_fw n h h2]
  simp only [hl, beq_self_eq_true, if_true]
  rw [s.privForm_runs _ _ hs (by rw [hl]; exact Level.noConfusion)]
  exact if_neg (by omega)

theorem sregVal_timeline (s : State) {i : Nat} (h : i < 3) : s.sregVal (2 + i) = s.myCore.tl.getD i 0 := by
  interval_cases i <;> rfl

theorem sregVal_scalar (s : State) {i : Nat} (h : i < 4) : s.sregVal (8 + i) = s.myCore.sc.getD i 0 % 2 ^ 32 := by
  interval_cases i <;> rfl

theorem sregVal_carve (s : State) {i : Nat} (h : i < 4) : s.sregVal (0x110 + i) = (s.die i).carve := by
  interval_cases i <;> rfl

theorem sregVal_egress (s : State) {i : Nat} (h : i < 32) : s.sregVal (0x200 + i) = s.myCore.egress.getD i 0 := by
  interval_cases i <;> rfl

/-! ### Writes -/

theorem exec_mts_user (hs : s.cur.shadow = none) (hn : n ≤ 0xB) :
    exec (.mts a n) s = .next ((s.retire 4).writeSreg n (s.reg a)) :=
  (s.withSreg_user (wordSup 1 0 a n) n _ hs hn).trans ((if_neg (by omega)).trans (if_neg (by omega)))

/-- A register of the supervisor's is written on a control core. -/
theorem exec_mts_sup (hs : s.cur.shadow = none) (hl : s.cur.level ≠ .user) (hc : s.cur.onControl = true) (h : 0x100 ≤ n)
    (h2 : n ≤ 0x108 ∨ (0x110 ≤ n ∧ n ≤ 0x113)) :
    exec (.mts a n) s = if n = 0x107 then s.writeQcmd (s.reg a) else .next ((s.retire 4).writeSreg n (s.reg a)) :=
  (s.withSreg_sup (wordSup 1 0 a n) n _ hs hl h h2).trans (if_neg (by simp [hc]))

theorem Runs.of_modMyCore {i : Instr} {f : Core → Core} (h : exec i s = .next ((s.retire 4).modMyCore f)) :
    Runs i s (CoreResult s · (f s.myCore)) := ⟨_, h, CoreResult.of_modCore s f⟩

theorem Runs.of_retire {i : Instr} {k : Nat} (h : exec i s = .next (s.retire k)) : Runs i s (Advanced s · k) :=
  ⟨_, h, Advanced.of_retire s k⟩

/-- A write of a field of the selected context. -/
theorem Runs.of_modCtx {i : Instr} {c : Nat} {f : Ctx → Ctx} (h : exec i s = .next ((s.retire 4).modCtx c f)) :
    Runs i s fun t => t.ctx c = f (s.ctx c) ∧ (∀ j, j ≠ c → t.ctx j = s.ctx j) ∧ t.pc = (s.pc + 4) % 2 ^ 56 ∧ SameMem s t s.pcSpan :=
  ⟨_, h, State.ctx_modCtx _ _ _, fun _ hj => State.ctx_modCtx_ne _ _ _ _ hj, s.pc_retire 4, fun k hk => s.rd_retire_ne 4 k hk⟩

/-- A write of ST[15:0]. -/
theorem Runs.of_writeStatus {i : Instr} {v : Nat} (h : exec i s = .next ((s.retire 4).setWs 0x120 2 (v % 65536))) :
    Runs i s fun t => t.st % 65536 = v % 65536 ∧ t.pc = (s.pc + 4) % 2 ^ 56 ∧ OnlyMem s t
      ∧ SameMem s t fun k => s.pcSpan k ∨ s.flagSpan k := by
  refine ⟨_, h, ?_, ?_, rfl, fun k hk => ?_⟩
  · have hlow := Memory.readN_mod ((s.retire 4).setWs 0x120 2 (v % 65536)).mem (s.cur.wsKey + 0x120) 8 2 (by decide)
    have hset := (s.retire 4).ws_setWs 0x120 2 (v % 65536)
    exact hlow.trans (hset.trans (Nat.mod_mod _ _))
  · have hpc : ((s.retire 4).setWs 0x120 2 (v % 65536)).pc = (s.retire 4).pc := by
      rw [State.pc, State.pc, State.ws_setWs_ne _ _ _ _ _ _ (by decide)]
    exact hpc.trans (s.pc_retire 4)
  · exact ((s.retire 4).rd_setWs_ne _ _ _ k fun hf => hk (.inr hf)).trans (s.rd_retire_ne 4 k fun hp => hk (.inl hp))

theorem writeSreg_scalar (s : State) {i : Nat} (h : i < 4) (v : Nat) :
    s.writeSreg (8 + i) v = s.modMyCore fun k => { k with sc := k.sc.set i (v % 2 ^ 32) } := by
  interval_cases i <;> rfl

theorem writeSreg_readOnly (s : State) {i : Nat} (h : 2 ≤ i) (h2 : i < 8) (v : Nat) : s.writeSreg i v = s := by
  interval_cases i <;> rfl

theorem writeSreg_watchdog (s : State) (v : Nat) : s.writeSreg 0x103 v
    = if 16 ≤ v % 64 ∧ v % 64 ≤ 40 then s.modCtx s.cselCtx fun x => { x with wdog := v % 64 } else s := rfl

theorem writeSreg_slice (s : State) (v : Nat) : s.writeSreg 0x104 v
    = if 12 ≤ v % 64 ∧ v % 64 ≤ 32 then s.modCtx s.cselCtx fun x => { x with slice := v % 64 } else s := rfl

theorem writeSreg_carve (s : State) {i : Nat} (h : i < 4) (v : Nat) : s.writeSreg (0x110 + i) v = s.setCarve i v := by
  interval_cases i <;> rfl

/-! ### Queue commands -/

/-- A write of QCMD: the operation that its field gives. -/
theorem State.writeQcmd_cases (s : State) (v : Nat) :
    (bits v 12 3 = 1 → ∀ r, s.qOpen s.cselCtx (v % 1024) s.cur.die = .ok r →
        s.writeQcmd v = .next ((r.2.setQres s.cselCtx r.1).retire 4))
      ∧ (bits v 12 3 = 2 → s.writeQcmd v
          = .next (((s.qHalt s.cselCtx (v % 1024)).2.setQres s.cselCtx (s.qHalt s.cselCtx (v % 1024)).1).retire 4))
      ∧ (bits v 12 3 = 3 → s.writeQcmd v
          = .next (((s.qResume s.cselCtx (v % 1024)).2.setQres s.cselCtx (s.qResume s.cselCtx (v % 1024)).1).retire 4))
      ∧ (bits v 12 3 = 4 → s.writeQcmd v
          = .next (((s.qClose s.cselCtx (v % 1024)).2.setQres s.cselCtx (s.qClose s.cselCtx (v % 1024)).1).retire 4))
      ∧ (bits v 12 3 = 0 ∨ 4 < bits v 12 3 → s.writeQcmd v = .next (s.retire 4)) := by
  refine ⟨fun h r hr => ?_, fun h => ?_, fun h => ?_, fun h => ?_, fun h => ?_⟩
  · simp only [State.writeQcmd, h, if_true, hr]
  · simp [State.writeQcmd, h]
  · simp [State.writeQcmd, h]
  · simp [State.writeQcmd, h]
  · simp only [State.writeQcmd]
    rw [if_neg (by omega), if_neg (by omega), if_neg (by omega), if_neg (by omega)]

/-! ### Registers that an access may not name -/

theorem encodeWord_mfs {w : Nat} (h : encodeWord (.mfs d n) = some (32, w)) : wordSup 0 d 0 n = w := by
  cases h; simp only [wordSup]; omega

theorem encodeWord_mts {w : Nat} (h : encodeWord (.mts a n) = some (32, w)) : wordSup 1 0 a n = w := by
  cases h; simp only [wordSup]; omega

/-- A register of the supervisor's row is a privileged form. -/
theorem State.withSreg_of_sup (s : State) (w : Nat) (k : Out) (h : 0x100 ≤ n) (h2 : n ≤ 0x108) :
    s.withSreg w n k = s.privForm w k := by
  rw [State.withSreg, sregOf_sup n h (.inl h2)]

theorem State.withSreg_of_reserved (w : Nat) (k : Out) (hs : s.cur.shadow = none) (h : 0xC ≤ n) (h2 : n < 0x100) :
    s.withSreg w n k = .next (s.trapIop w) := by
  rw [State.withSreg, sregOf_reserved n h h2, hs]; rfl

end StatusRegisters

/-- Settles O53, register by register: who may name it, then what it holds or takes. -/
theorem statusRegisters : Obligations.StatusRegisters := by
  intro s u d a n r w hd hs v ctl sup x k reads core ctx none_ q res
  have user {n v : Nat} (hn : n ≤ 0xB) (hv : s.sregVal n = v) : reads n v := Runs.of_put ((exec_mfs_user hs hn).trans (by rw [hv])) hd
  have super {n v : Nat} (hl : sup) (h : 0x100 ≤ n) (h2 : n ≤ 0x108) (hv : s.sregVal n = v) : reads n v :=
    Runs.of_put ((exec_mfs_sup hs hl h h2).trans (by rw [hv])) hd
  have write {n : Nat} {t : State} (hl : sup) (hc : ctl) (h : 0x100 ≤ n) (h2 : n ≤ 0x108 ∨ (0x110 ≤ n ∧ n ≤ 0x113)) (hq : n ≠ 0x107)
      (ht : (s.retire 4).writeSreg n v = t) : exec (.mts a n) s = .next t :=
    (exec_mts_sup hs hl hc h h2).trans ((if_neg hq).trans (congrArg _ ht))
  have queue {o : Out} (hl : sup) (hc : ctl) (ho : s.writeQcmd v = o) : exec (.mts a 0x107) s = o :=
    (exec_mts_sup hs hl hc (by decide) (by decide)).trans ((if_pos rfl).trans ho)
  obtain ⟨hopen, hhalt, hresume, hclose, hnone⟩ := s.writeQcmd_cases v
  refine ⟨user (by decide) rfl, user (by decide) rfl, fun i hi => user (by omega) (sregVal_timeline s hi), user (by decide) rfl,
    user (by decide) rfl, user (by decide) rfl, fun i hi => user (by omega) (sregVal_scalar s hi), fun hl => ?supReads,
    fun hl hc i hi => ?carve, fun hl => ?firmware, Runs.of_writeStatus (exec_mts_user hs (n := 0) (by decide)),
    Runs.of_modMyCore (f := fun k => { k with seed := v % 2 ^ 32 }) (exec_mts_user hs (n := 1) (by decide)), fun i hi => ?scalar, fun i h h2 => ?readOnly, fun hl hc => ?csel,
    fun hl hc => ?context, fun hl hc => ?ranges, fun hl hc => ?queues, fun hl h h2 he => ?mfsUser, fun hl h h2 he => ?mtsUser,
    fun h h2 he => ?reserved⟩
  case supReads =>
    exact ⟨super hl (by decide) (by decide) rfl, super hl (by decide) (by decide) rfl, super hl (by decide) (by decide) rfl,
      super hl (by decide) (by decide) rfl, super hl (by decide) (by decide) rfl, super hl (by decide) (by decide) rfl,
      super hl (by decide) (by decide) rfl, super hl (by decide) (by decide) rfl, super hl (by decide) (by decide) rfl⟩
  case carve => exact Runs.of_put ((exec_mfs_carve hs hl hc (by omega) (by omega)).trans (by rw [sregVal_carve s hi])) hd
  case firmware =>
    exact ⟨fun i hi => Runs.of_put ((exec_mfs_fw hs hl (by omega) (by omega)).trans (by rw [sregVal_egress s hi])) hd,
      Runs.of_put (exec_mfs_fw hs hl (by decide) (by decide)) hd⟩
  case scalar => exact Runs.of_modMyCore ((exec_mts_user hs (by omega)).trans (congrArg _ (writeSreg_scalar _ hi _)))
  case readOnly => exact Runs.of_retire ((exec_mts_user hs (by omega)).trans (congrArg _ (writeSreg_readOnly _ h h2 _)))
  case csel =>
    exact ⟨Runs.of_modMyCore (f := fun k => { k with csel := v % 64 }) (write hl hc (by decide) (by decide) (by decide) rfl),
      Runs.of_retire (write hl hc (by decide) (by decide) (by decide) rfl),
      Runs.of_retire (write hl hc (by decide) (by decide) (by decide) rfl),
      Runs.of_retire (write hl hc (by decide) (by decide) (by decide) rfl)⟩
  case context =>
    exact ⟨fun h h2 => Runs.of_modCtx (write hl hc (by decide) (by decide) (by decide) ((writeSreg_watchdog _ v).trans (if_pos ⟨h, h2⟩))),
      fun h => Runs.of_retire (write hl hc (by decide) (by decide) (by decide) ((writeSreg_watchdog _ v).trans (if_neg (by omega)))),
      fun h h2 => Runs.of_modCtx (write hl hc (by decide) (by decide) (by decide) ((writeSreg_slice _ v).trans (if_pos ⟨h, h2⟩))),
      fun h => Runs.of_retire (write hl hc (by decide) (by decide) (by decide) ((writeSreg_slice _ v).trans (if_neg (by omega)))),
      Runs.of_modCtx (f := fun x => { x with qdesc := v }) (write hl hc (by decide) (by decide) (by decide) rfl)⟩
  case ranges =>
    exact ⟨⟨_, write (n := 0x105) hl hc (by decide) (by decide) (by decide) rfl, rfl⟩,
      fun i hi => ⟨_, write hl hc (by omega) (by omega) (by omega) (writeSreg_carve _ hi v), rfl⟩⟩
  case queues =>
    exact ⟨fun ho hr => ⟨_, queue hl hc (hopen ho _ hr), rfl⟩, fun ho => ⟨_, queue hl hc (hhalt ho), rfl⟩,
      fun ho => ⟨_, queue hl hc (hresume ho), rfl⟩, fun ho => ⟨_, queue hl hc (hclose ho), rfl⟩,
      fun ho => Runs.of_retire (queue hl hc (hnone ho))⟩
  case mfsUser => exact Runs.of_privForm (s.withSreg_of_sup _ _ h h2) (encodeWord_mfs he) hl hs
  case mtsUser => exact Runs.of_privForm (s.withSreg_of_sup _ _ h h2) (encodeWord_mts he) hl hs
  case reserved => exact Runs.of_trapHere ((State.withSreg_of_reserved _ _ hs h h2).trans (by rw [encodeWord_mfs he]; rfl)) hs

end Sys2Proof.Machine
end

section
/-!
SUPPORT. Freezing, thawing and swapping (24 R439 to R447).
-/

namespace Sys2Proof.Machine

/-- An instruction that writes a register at the end of its effect. -/
theorem Runs.of_putFrom {i : Instr} {s u : State} {n d v t : Nat} (h : exec i s = u.put n d v t) (hd : d < 32) :
    Runs i s (RegResult u · n d v t) := by
  rw [Runs, h]; exact RegResult.exists_put u n d v t hd

/-- What `cthaw` leaves of a frozen context. -/
theorem Runs.of_thaw {i : Instr} {s : State} {d v : Nat} {f : Ctx → Ctx} (h : exec i s = (s.modCtx v f).put 4 d 1 0) (hd : d < 32) :
    Runs i s fun t => t.Holds d 1 0 ∧ t.pc = (s.pc + 4) % 2 ^ 56 ∧ t.ctx v = f (s.ctx v) ∧ (∀ j, j ≠ v → t.ctx j = s.ctx j)
      ∧ t.work = s.work ∧ t.acts = s.acts := by
  obtain ⟨t, ht, hpc, hval, honly, -⟩ := Runs.of_putFrom h hd
  obtain ⟨mem, rfl⟩ : ∃ mem, t = (s.modCtx v f).setMem mem := ⟨t.mem, by rw [← honly]; rfl⟩
  exact ⟨_, ht, hval, hpc, State.ctx_modCtx s v f, fun j hj => State.ctx_modCtx_ne s v j f hj, rfl, rfl⟩

section Swaps

variable {s : State} {d a op : Nat} {k : Nat → Nat → Nat × State} {i : Instr}

/-- An operand with a stray bit traps. -/
theorem State.cswap_of_stray (hs : s.cur.shadow = none) (hl : s.cur.level ≠ .user) (hc : s.cur.onControl = true)
    (hv : 2 ^ 52 ≤ s.reg a) : s.cswap op d a k = .next (s.trapHere cRANGE 0 (s.reg a)) :=
  (s.controlForm_runs _ _ hs hl hc).trans (if_pos (.inl (Nat.div_pos hv (by decide)).ne'))

/-- A context number above the limit has status 4. -/
theorem State.cswap_of_limit (hs : s.cur.shadow = none) (hl : s.cur.level ≠ .user) (hc : s.cur.onControl = true)
    (hv : s.reg a < 256) (h64 : 64 ≤ s.reg a) : s.cswap op d a k = s.yieldPoint.put 4 d 4 0 :=
  (s.controlForm_runs _ _ hs hl hc).trans ((if_neg (by omega)).trans (if_pos (by omega)))

/-- Otherwise the operation gives the status. -/
theorem State.cswap_of_word (hs : s.cur.shadow = none) (hl : s.cur.level ≠ .user) (hc : s.cur.onControl = true)
    (hv : s.reg a < 2 ^ 52) (hword : op ≠ 3 → s.reg a < 256) (h64 : s.reg a % 256 < 64) {st : Nat} {u : State}
    (hr : k (s.reg a % 256) (bits (s.reg a) 8 44 * 256) = (st, u)) : s.cswap op d a k = u.yieldPoint.put 4 d st 0 := by
  refine (s.controlForm_runs _ _ hs hl hc).trans ((if_neg ?_).trans ((if_neg (by omega)).trans ?_))
  swap
  · simp only [hr]
  rintro (h | ⟨hop, h⟩)
  · omega
  · have := hword hop
    omega

end Swaps

theorem exec_cswapIn (s : State) (d a : Nat) : exec (.cswapIn d a) s = execCswapIn d a s := rfl
theorem exec_cswapFast (s : State) (d a : Nat) : exec (.cswapFast d a) s = execCswapFast d a s := rfl
theorem exec_cswapOut (s : State) (d a : Nat) : exec (.cswapOut d a) s = execCswapOut d a s := rfl
theorem exec_cswapCreate (s : State) (d a : Nat) : exec (.cswapCreate d a) s = execCswapCreate d a s := rfl
theorem exec_cswapSeal (s : State) (d a : Nat) : exec (.cswapSeal d a) s = execCswapSeal d a s := rfl
theorem exec_cswapReset (s : State) (d a : Nat) : exec (.cswapReset d a) s = execCswapReset d a s := rfl

/-- What every form of `cswap` does. -/
theorem forall_cswap {s : State} {d a : Nat} {P : State → Prop} (h : ∀ i o op k, exec i s = o → o = s.cswap op d a k → Runs i s P) :
    Runs (.cswapIn d a) s P ∧ Runs (.cswapFast d a) s P ∧ Runs (.cswapOut d a) s P ∧ Runs (.cswapCreate d a) s P
      ∧ Runs (.cswapSeal d a) s P ∧ Runs (.cswapReset d a) s P :=
  ⟨h _ _ _ _ (exec_cswapIn s d a) rfl, h _ _ _ _ (exec_cswapFast s d a) rfl, h _ _ _ _ (exec_cswapOut s d a) rfl,
    h _ _ _ _ (exec_cswapCreate s d a) rfl, h _ _ _ _ (exec_cswapSeal s d a) rfl, h _ _ _ _ (exec_cswapReset s d a) rfl⟩

section Statuses

variable {s u : State} {d a st : Nat} {k : Nat → Nat → Nat × State} {i : Instr}

/-- The status and the effect of a form whose operand is a context number alone. -/
theorem Runs.of_cswap {o : Out} {op : Nat} (h : exec i s = o) (ho : o = s.cswap op d a k) (hd : d < 32) (hs : s.cur.shadow = none) (hl : s.cur.level ≠ .user)
    (hc : s.cur.onControl = true) (hw : s.reg a < 64) (hr : k (s.reg a % 256) (bits (s.reg a) 8 44 * 256) = (st, u)) :
    Runs i s fun t => RegResult u.yieldPoint t 4 d st 0 :=
  Runs.of_putFrom ((h.trans ho).trans (State.cswap_of_word hs hl hc (by omega) (fun _ => by omega) (by omega) hr)) hd

/-- The same of `cswap.create`, whose operand also places a descriptor. -/
theorem Runs.of_create {o : Out} (h : exec i s = o) (ho : o = s.cswap 3 d a k) (hd : d < 32) (hs : s.cur.shadow = none) (hl : s.cur.level ≠ .user)
    (hc : s.cur.onControl = true) (hw : s.reg a < 2 ^ 52 ∧ s.reg a % 256 < 64)
    (hr : k (s.reg a % 256) (bits (s.reg a) 8 44 * 256) = (st, u)) : Runs i s fun t => RegResult u.yieldPoint t 4 d st 0 :=
  Runs.of_putFrom ((h.trans ho).trans (State.cswap_of_word hs hl hc hw.1 (fun h3 => absurd rfl h3) hw.2 hr)) hd

end Statuses

/-- Settles O54: the checks of each form, then the operation's status and effect. -/
theorem contextForms : Obligations.ContextForms := by
  intro s d a m hd hs hl v ctl c x pa desc all word ends cw
  refine ⟨fun hv hmay => ?freeze, fun hv => ?freezeRange, fun hv hctl hown => ?freezeDenied, fun hc hv hst => ?thawIdle,
    fun hc hv hst => ?thaw, fun hc hv => ?thawRange, fun hc hv => forall_cswap fun i o op k h ho => ?stray, fun hc h256 h64 => forall_cswap fun i o op k h ho => ?tooLarge,
    fun hc hw hst hb => Runs.of_cswap (exec_cswapIn s d a) rfl hd hs hl hc hw ?swapIn, fun hc hw hst hb => Runs.of_cswap (exec_cswapIn s d a) rfl hd hs hl hc hw ?busy,
    fun hc hw h2 h4 => Runs.of_cswap (exec_cswapIn s d a) rfl hd hs hl hc hw (if_pos ⟨h2, h4⟩),
    fun hc hw hst => ⟨Runs.of_cswap (exec_cswapFast s d a) rfl hd hs hl hc hw (if_neg (not_not_intro hst)), Runs.of_cswap (exec_cswapOut s d a) rfl hd hs hl hc hw (if_neg (not_not_intro hst))⟩,
    fun hc hw hst => ⟨Runs.of_cswap (exec_cswapFast s d a) rfl hd hs hl hc hw (if_pos hst), Runs.of_cswap (exec_cswapOut s d a) rfl hd hs hl hc hw (if_pos hst)⟩,
    fun hc hw hst => Runs.of_create (exec_cswapCreate s d a) rfl hd hs hl hc hw (if_pos hst), fun hc hw hst hp => Runs.of_create (exec_cswapCreate s d a) rfl hd hs hl hc hw ?noMemory,
    fun hc hw hst hp hq hb => Runs.of_create (exec_cswapCreate s d a) rfl hd hs hl hc hw ?badDescriptor, fun hc hw hst hp hq hb => Runs.of_create (exec_cswapCreate s d a) rfl hd hs hl hc hw ?create,
    fun hc hw hst hm => Runs.of_cswap (exec_cswapSeal s d a) rfl hd hs hl hc hw ?sealed, fun hc hw hst hm => Runs.of_cswap (exec_cswapSeal s d a) rfl hd hs hl hc hw ?notSealed,
    fun hc hw hst => Runs.of_cswap (exec_cswapSeal s d a) rfl hd hs hl hc hw (if_pos hst), fun hc hw hst => Runs.of_cswap (exec_cswapReset s d a) rfl hd hs hl hc hw (if_pos hst),
    fun hc hw h0 h6 => Runs.of_cswap (exec_cswapReset s d a) rfl hd hs hl hc hw (if_neg (by tauto))⟩
  case freeze =>
    refine ⟨_, (s.privForm_runs _ _ hs hl).trans ((if_neg (by omega)).trans (if_neg ?_)), rfl⟩
    rw [(s.authority_iff _).2 hmay]; exact Bool.false_ne_true
  case freezeRange => exact Runs.of_trapHere ((s.privForm_runs _ _ hs hl).trans (if_pos (by omega))) hs
  case freezeDenied =>
    refine Runs.of_trapHere ((s.privForm_runs _ _ hs hl).trans ((if_neg (by omega)).trans (if_pos ?_))) hs
    rw [Bool.not_eq_true', ← Bool.not_eq_true, s.authority_iff]
    exact not_or.2 ⟨hctl, hown⟩
  case thawIdle => exact Runs.of_put ((s.controlForm_runs _ _ hs hl hc).trans ((if_neg (by omega)).trans (if_pos hst))) hd
  case thaw =>
    have hexec : exec (.cthaw d a) s = (s.modCtx v fun x => { x with st := x.before }).put 4 d 1 0 :=
      (s.controlForm_runs _ _ hs hl hc).trans ((if_neg (by omega)).trans (if_neg (not_not_intro hst)))
    exact Runs.of_thaw hexec hd
  case thawRange => exact Runs.of_trapHere ((s.controlForm_runs _ _ hs hl hc).trans (if_pos (by omega))) hs
  case stray => exact Runs.of_trapHere ((h.trans ho).trans (State.cswap_of_stray hs hl hc hv)) hs
  case tooLarge => exact Runs.of_putFrom ((h.trans ho).trans (State.cswap_of_limit hs hl hc h256 h64)) hd
  case swapIn => exact (if_neg fun h => hst.elim h.1 h.2).trans (if_neg (Bool.eq_false_iff.1 hb))
  case busy => exact (if_neg fun h => hst.elim h.1 h.2).trans (if_pos hb)
  case noMemory =>
    have hbad : (!physOk pa 256 || s.poisoned pa 256) = true := by rw [hp]; rfl
    exact (if_neg (not_not_intro hst)).trans (if_pos hbad)
  case badDescriptor =>
    have hok : (!physOk pa 256 || s.poisoned pa 256) = false := by rw [hp, hq]; rfl
    exact (if_neg (not_not_intro hst)).trans ((if_neg (Bool.eq_false_iff.1 hok)).trans (if_pos hb))
  case create =>
    have hok : (!physOk pa 256 || s.poisoned pa 256) = false := by rw [hp, hq]; rfl
    exact (if_neg (not_not_intro hst)).trans ((if_neg (Bool.eq_false_iff.1 hok)).trans (if_neg (Bool.eq_false_iff.1 hb)))
  case sealed => exact (if_neg (not_not_intro hst)).trans (by rw [hm])
  case notSealed => exact (if_neg (not_not_intro hst)).trans (by rw [hm])

end Sys2Proof.Machine
end

section
/-!
SUPPORT. The link status instruction and its control forms (26 R455, R468 to R470).
-/

namespace Sys2Proof.Machine

theorem exec_lstatQuiesce (s : State) (d a : Nat) : exec (.lstatQuiesce d a) s = execLstatQuiesce d a s := rfl
theorem exec_lstatResume (s : State) (d a : Nat) : exec (.lstatResume d a) s = execLstatResume d a s := rfl
theorem exec_lstatIsolate (s : State) (d a : Nat) : exec (.lstatIsolate d a) s = execLstatIsolate d a s := rfl
theorem exec_lstatRetrain (s : State) (d a : Nat) : exec (.lstatRetrain d a) s = execLstatRetrain d a s := rfl
theorem exec_lstatRelink (s : State) (d a : Nat) : exec (.lstatRelink d a) s = execLstatRelink d a s := rfl
theorem exec_lstatClr (s : State) (d a : Nat) : exec (.lstatClr d a) s = execLstatClr d a s := rfl
theorem exec_lstatDquiesce (s : State) (d a : Nat) : exec (.lstatDquiesce d a) s = execLstatDquiesce d a s := rfl
theorem exec_lstatDflush (s : State) (d a : Nat) : exec (.lstatDflush d a) s = execLstatDflush d a s := rfl
theorem exec_lstatDreset (s : State) (d a : Nat) : exec (.lstatDreset d a) s = execLstatDreset d a s := rfl
theorem exec_lstatDadmit (s : State) (d a : Nat) : exec (.lstatDadmit d a) s = execLstatDadmit d a s := rfl

section Checks

variable {i : Instr} {o : Out} {s : State} {d a op w : Nat} {die : Bool} {k : Nat → Out}

/-- On a control core above user level the link word is checked first. -/
theorem Runs.of_lstatBad (h : exec i s = o) (ho : o = s.lstatOp d a op die k) (hs : s.cur.shadow = none)
    (hmay : s.cur.onControl = true ∧ s.cur.level ≠ .user) (hbad : linkWordBad (s.reg a) = true) :
    Runs i s (Trapped s · 0x0A 1 (s.reg a) s.pc) := by
  refine Runs.of_trapHere ((h.trans ho).trans ?_) hs
  simp [State.lstatOp, hs, hmay.1, State.privileged, hmay.2, hbad, cRANGE]

/-- A form of another core, or of user level, traps PRIV. -/
theorem Runs.of_lstatPriv (h : exec i s = o) (ho : o = s.lstatOp d a op die k) (hs : s.cur.shadow = none)
    (hmay : ¬ (s.cur.onControl = true ∧ s.cur.level ≠ .user)) (hw : wordLstat d a op = w) : Runs i s (Trapped s · 0x02 0 w s.pc) := by
  subst hw
  refine Runs.of_trapHere ((h.trans ho).trans ?_) hs
  have hno : (!s.cur.onControl || !s.privileged) = true := by
    cases hc : s.cur.onControl <;> simp_all [State.privileged]
  simp only [State.lstatOp, hs, hno]
  rfl

/-- A form of the wrong kind traps IOP. -/
theorem Runs.of_lstatKind (h : exec i s = o) (ho : o = s.lstatOp d a op die k) (hs : s.cur.shadow = none)
    (hmay : s.cur.onControl = true ∧ s.cur.level ≠ .user) (hgood : linkWordBad (s.reg a) = false)
    (hkind : (s.reg a / 256 == 4) ≠ die) (hw : wordLstat d a op = w) : Runs i s (Trapped s · 0x01 0 w s.pc) := by
  subst hw
  refine Runs.of_trapHere ((h.trans ho).trans ?_) hs
  have hne : ((s.reg a / 256 == 4) != die) = true := bne_iff_ne.2 hkind
  simp [State.lstatOp, hs, hmay.1, State.privileged, hmay.2, hgood, hne, State.trapIop, cIOP]

/-- After its checks a form acts. -/
theorem State.lstatOp_runs (hs : s.cur.shadow = none) (hmay : s.cur.onControl = true ∧ s.cur.level ≠ .user)
    (hgood : linkWordBad (s.reg a) = false) (hkind : (s.reg a / 256 == 4) = die) : s.lstatOp d a op die k = k (s.reg a) := by
  have heq : ((s.reg a / 256 == 4) != die) = false := by rw [hkind]; exact bne_self_eq_false _
  simp [State.lstatOp, hs, hmay.1, State.privileged, hmay.2, hgood, heq]

end Checks

theorem State.lstatMove_def (s : State) (d a op : Nat) (from_ : List Nat) (f : Link → Link) :
    s.lstatMove d a op from_ f = s.lstatOp d a op false fun v =>
      if from_.contains (s.link v).st then (s.modLink v f).put 4 d 0 0 else s.put 4 d 1 0 := rfl

theorem State.dieOp_def (s : State) (d a op need : Nat) (k : Nat → Nat × State) :
    s.dieOp d a op need k = s.lstatOp d a op true fun v =>
      if s.cur.cluster ≠ mgmtCluster ∧ s.cur.die = v % 256 then s.put 4 d 3 0
      else if (s.die (v % 256)).dstate ≠ need then s.put 4 d 1 0 else (k (v % 256)).2.put 4 d (k (v % 256)).1 0 := rfl

section Forms

variable {s : State} {d a : Nat} {P : Instr → Prop}

/-- What every form over links does. -/
theorem forall_lstatLinks (h : ∀ i o op k, exec i s = o → o = s.lstatOp d a op false k →
      (∀ w, encodeWord i = some (32, w) → wordLstat d a op = w) → P i) :
    P (.lstatQuiesce d a) ∧ P (.lstatResume d a) ∧ P (.lstatIsolate d a) ∧ P (.lstatRetrain d a) ∧ P (.lstatRelink d a) ∧ P (.lstatClr d a) := by
  refine ⟨h _ _ _ _ (exec_lstatQuiesce s d a) (s.lstatMove_def d a 1 _ _) ?_,
    h _ _ _ _ (exec_lstatResume s d a) (s.lstatMove_def d a 2 _ _) ?_,
    h _ _ _ _ (exec_lstatIsolate s d a) (s.lstatMove_def d a 3 _ _) ?_,
    h _ _ _ _ (exec_lstatRetrain s d a) rfl ?_,
    h _ _ _ _ (exec_lstatRelink s d a) rfl ?_,
    h _ _ _ _ (exec_lstatClr s d a) rfl ?_⟩
  all_goals
    intro w he
    cases he
    simp only [wordLstat, wordSup]
    omega

/-- What every form over dies does. -/
theorem forall_lstatDies (h : ∀ i o op k, exec i s = o → o = s.lstatOp d a op true k →
      (∀ w, encodeWord i = some (32, w) → wordLstat d a op = w) → P i) :
    P (.lstatDquiesce d a) ∧ P (.lstatDflush d a) ∧ P (.lstatDreset d a) ∧ P (.lstatDadmit d a) := by
  refine ⟨h _ _ _ _ (exec_lstatDquiesce s d a) (s.dieOp_def d a 8 0 _) ?_,
    h _ _ _ _ (exec_lstatDflush s d a) (s.dieOp_def d a 9 1 _) ?_,
    h _ _ _ _ (exec_lstatDreset s d a) (s.dieOp_def d a 10 2 _) ?_,
    h _ _ _ _ (exec_lstatDadmit s d a) (s.dieOp_def d a 11 4 _) ?_⟩
  all_goals
    intro w he
    cases he
    simp only [wordLstat, wordSup]
    omega

/-- Each form over dies is a step of the reset from the die's state that it needs. -/
theorem forall_dieOp (h : ∀ i o op need k, exec i s = o → o = s.dieOp d a op need k → P i) :
    P (.lstatDquiesce d a) ∧ P (.lstatDflush d a) ∧ P (.lstatDreset d a) ∧ P (.lstatDadmit d a) :=
  ⟨h _ _ _ _ _ (exec_lstatDquiesce s d a) rfl,
    h _ _ _ _ _ (exec_lstatDflush s d a) rfl,
    h _ _ _ _ _ (exec_lstatDreset s d a) rfl,
    h _ _ _ _ _ (exec_lstatDadmit s d a) rfl⟩

end Forms

/-! ### The forms over links -/

section Links

variable {i : Instr} {o : Out} {s : State} {d a op : Nat}

/-- A form that moves a link from one of some states. -/
theorem Runs.of_lstatMove {from_ : List Nat} {f : Link → Link} (h : exec i s = o) (ho : o = s.lstatMove d a op from_ f) (hd : d < 32)
    (hs : s.cur.shadow = none) (hmay : s.cur.onControl = true ∧ s.cur.level ≠ .user) (hgood : linkWordBad (s.reg a) = false)
    (hkind : s.reg a / 256 ≠ 4) :
    ((s.link (s.reg a)).st ∈ from_ → Runs i s fun t => RegResult (s.modLink (s.reg a) fun _ => f (s.link (s.reg a))) t 4 d 0 0)
      ∧ ((s.link (s.reg a)).st ∉ from_ → Runs i s fun t => RegResult s t 4 d 1 0) := by
  have hrun (k : Nat → Out) : s.lstatOp d a op false k = k (s.reg a) := State.lstatOp_runs hs hmay hgood (beq_eq_false_iff_ne.2 hkind)
  refine ⟨fun hst => Runs.of_putFrom ((h.trans ho).trans ((hrun _).trans (if_pos (List.contains_iff_mem.2 hst)))) hd,
    fun hst => Runs.of_put ((h.trans ho).trans ((hrun _).trans (if_neg (mt List.contains_iff_mem.1 hst)))) hd⟩

/-- A form that starts training waits for its end. -/
theorem Runs.of_lstatTrain {k : Nat → Out} {f : Link → Link} (h : exec i s = o) (ho : o = s.lstatOp d a op false k)
    (hs : s.cur.shadow = none) (hmay : s.cur.onControl = true ∧ s.cur.level ≠ .user) (hgood : linkWordBad (s.reg a) = false)
    (hkind : s.reg a / 256 ≠ 4) (hk : k (s.reg a) = s.lstatTrain d (s.reg a) f) :
    Runs i s fun t => Blocked (s.modLink (s.reg a) fun _ => f (s.link (s.reg a))) t (.link d (s.reg a / 256) (s.reg a % 256)) :=
  ⟨_, (h.trans ho).trans ((State.lstatOp_runs hs hmay hgood (beq_eq_false_iff_ne.2 hkind)).trans hk), Blocked.of_block _ _⟩

/-- One that acts or refuses at once. -/
theorem Runs.of_lstatGives {die : Bool} {k : Nat → Out} {u : State} {st : Nat} (h : exec i s = o) (ho : o = s.lstatOp d a op die k) (hd : d < 32)
    (hs : s.cur.shadow = none) (hmay : s.cur.onControl = true ∧ s.cur.level ≠ .user) (hgood : linkWordBad (s.reg a) = false)
    (hkind : (s.reg a / 256 == 4) = die) (hk : k (s.reg a) = u.put 4 d st 0) : Runs i s fun t => RegResult u t 4 d st 0 :=
  Runs.of_putFrom ((h.trans ho).trans ((State.lstatOp_runs hs hmay hgood hkind).trans hk)) hd

end Links

/-! ### The forms over dies (R470) -/

section Dies

variable {i : Instr} {o : Out} {s : State} {d a op need : Nat} {k : Nat → Nat × State}

/-- The issuer's own die is refused. -/
theorem Runs.of_dieSelf (h : exec i s = o) (ho : o = s.dieOp d a op need k) (hd : d < 32) (hs : s.cur.shadow = none)
    (hmay : s.cur.onControl = true ∧ s.cur.level ≠ .user) (hgood : linkWordBad (s.reg a) = false) (hkind : s.reg a / 256 = 4)
    (hself : s.cur.cluster ≠ mgmtCluster ∧ s.cur.die = s.reg a % 256) : Runs i s fun t => RegResult s t 4 d 3 0 :=
  Runs.of_lstatGives h ho hd hs hmay hgood (beq_iff_eq.2 hkind) (if_pos hself)

/-- A die that is not in the state that the step needs is refused. -/
theorem Runs.of_dieState (h : exec i s = o) (ho : o = s.dieOp d a op need k) (hd : d < 32) (hs : s.cur.shadow = none)
    (hmay : s.cur.onControl = true ∧ s.cur.level ≠ .user) (hgood : linkWordBad (s.reg a) = false) (hkind : s.reg a / 256 = 4)
    (hself : ¬ (s.cur.cluster ≠ mgmtCluster ∧ s.cur.die = s.reg a % 256)) (hneed : (s.die (s.reg a % 256)).dstate ≠ need) :
    Runs i s fun t => RegResult s t 4 d 1 0 :=
  Runs.of_lstatGives h ho hd hs hmay hgood (beq_iff_eq.2 hkind) ((if_neg hself).trans (if_pos hneed))

/-- Otherwise the step gives the status. -/
theorem Runs.of_dieStep {u : State} {st : Nat} (h : exec i s = o) (ho : o = s.dieOp d a op need k) (hd : d < 32) (hs : s.cur.shadow = none)
    (hmay : s.cur.onControl = true ∧ s.cur.level ≠ .user) (hgood : linkWordBad (s.reg a) = false) (hkind : s.reg a / 256 = 4)
    (hself : ¬ (s.cur.cluster ≠ mgmtCluster ∧ s.cur.die = s.reg a % 256)) (hneed : (s.die (s.reg a % 256)).dstate = need)
    (hk : k (s.reg a % 256) = (st, u)) : Runs i s fun t => RegResult u t 4 d st 0 :=
  Runs.of_lstatGives h ho hd hs hmay hgood (beq_iff_eq.2 hkind)
    ((if_neg hself).trans ((if_neg (not_not_intro hneed)).trans (by simp only [hk])))

end Dies

/-! ### The status word -/

theorem exec_lstat {s : State} {d a : Nat} (hs : s.cur.shadow = none) :
    exec (.lstat d a) s = if linkWordBad (s.reg a) then .next (s.trapHere cRANGE 1 (s.reg a)) else s.put 4 d (s.lstatWord (s.reg a)) 0 :=
  if_neg (by simp [hs])

theorem State.lstatWord_of_link (s : State) {v : Nat} (h : v / 256 ≠ 4) :
    s.lstatWord v = (s.link v).st + 16 * (s.link v).mode + 2 ^ 8 * (s.link v).width
      + 2 ^ 16 * (if (s.link v).st = 2 then (s.link v).rate else 0) + 2 ^ 32 * (s.link v).retr + 2 ^ 48 * (s.link v).lost := by
  have hrate : (s.link v).rate * b2n ((s.link v).st == 2) = if (s.link v).st = 2 then (s.link v).rate else 0 := by
    by_cases hst : (s.link v).st = 2 <;> simp [b2n, hst]
  simp only [State.lstatWord, if_neg h, hrate]

theorem State.lstatWord_of_die (s : State) {v : Nat} (h : v / 256 = 4) :
    s.lstatWord v = (s.die (v % 256)).dstate + 256 * (linksOfDie (v % 256)).countP fun l => (s.link l).st == 2 := by
  rw [List.countP_eq_length_filter]
  exact if_pos h

/-- Settles O56: the checks of each form, then its states. -/
theorem linkForms : Obligations.LinkForms := by
  intro s d a w hd hs v l i good may links dies gives moves waits onLink onDie die self acts quiet
  refine ⟨fun hbad => ⟨?statBad, fun hmay => ⟨forall_lstatLinks (s := s) (P := fun j => Runs j s (Trapped s · 0x0A 1 v s.pc)) ?linkBad, forall_lstatDies (s := s) (P := fun j => Runs j s (Trapped s · 0x0A 1 v s.pc)) ?dieBad⟩⟩, fun hgood hkind => ?statLink,
    fun hgood hkind => ?statDie, fun hmay => ⟨forall_lstatLinks (s := s) (P := fun j => encodeWord j = some (32, w) → Runs j s (Trapped s · 0x02 0 w s.pc)) ?linkPriv, forall_lstatDies (s := s) (P := fun j => encodeWord j = some (32, w) → Runs j s (Trapped s · 0x02 0 w s.pc)) ?diePriv⟩,
    fun ⟨hmay, hgood, hkind⟩ => forall_lstatLinks (s := s) (P := fun j => encodeWord j = some (32, w) → Runs j s (Trapped s · 0x01 0 w s.pc)) ?linkKind, fun ⟨hmay, hgood, hkind⟩ => forall_lstatDies (s := s) (P := fun j => encodeWord j = some (32, w) → Runs j s (Trapped s · 0x01 0 w s.pc)) ?dieKind,
    fun ⟨hmay, hgood, hkind⟩ => ?quiesce, fun ⟨hmay, hgood, hkind⟩ => ?resume, fun ⟨hmay, hgood, hkind⟩ => ?isolate,
    fun ⟨hmay, hgood, hkind⟩ => ?clear, fun ⟨hmay, hgood, hkind⟩ => ?retrain, fun ⟨hmay, hgood, hkind⟩ => ?relink,
    fun ⟨hmay, hgood, hkind⟩ hself => forall_dieOp (s := s) (P := fun j => Runs j s (gives 3)) ?own, fun ⟨hmay, hgood, hkind⟩ hself => ?steps⟩
  case statBad => exact Runs.of_trapHere ((exec_lstat hs).trans (if_pos hbad)) hs
  case linkBad => exact fun j o op k h ho _ => Runs.of_lstatBad h ho hs hmay hbad
  case dieBad => exact fun j o op k h ho _ => Runs.of_lstatBad h ho hs hmay hbad
  case statLink =>
    exact Runs.of_put ((exec_lstat hs).trans ((if_neg (Bool.eq_false_iff.1 hgood)).trans (by rw [s.lstatWord_of_link hkind]))) hd
  case statDie =>
    exact Runs.of_put ((exec_lstat hs).trans ((if_neg (Bool.eq_false_iff.1 hgood)).trans (by rw [s.lstatWord_of_die hkind]))) hd
  case linkPriv => exact fun j o op k h ho hw he => Runs.of_lstatPriv h ho hs hmay (hw w he)
  case diePriv => exact fun j o op k h ho hw he => Runs.of_lstatPriv h ho hs hmay (hw w he)
  case linkKind =>
    exact fun j o op k h ho hw he => Runs.of_lstatKind h ho hs hmay hgood (by rw [beq_iff_eq.2 hkind]; exact Bool.noConfusion) (hw w he)
  case dieKind =>
    exact fun j o op k h ho hw he => Runs.of_lstatKind h ho hs hmay hgood (by rw [beq_eq_false_iff_ne.2 hkind]; exact Bool.noConfusion) (hw w he)
  case quiesce =>
    obtain ⟨hmoves, hno⟩ := Runs.of_lstatMove (exec_lstatQuiesce s d a) rfl hd hs hmay hgood hkind
    exact ⟨fun hst => hmoves (List.mem_singleton.2 hst), fun hst => hno (mt List.mem_singleton.1 hst)⟩
  case resume =>
    obtain ⟨hmoves, hno⟩ := Runs.of_lstatMove (exec_lstatResume s d a) rfl hd hs hmay hgood hkind
    exact ⟨fun hst => hmoves (List.mem_singleton.2 hst), fun hst => hno (mt List.mem_singleton.1 hst)⟩
  case isolate =>
    have hmem : l.st ∈ [0, 1, 2, 3, 4, 5] ↔ l.st ≤ 5 := by simp; omega
    obtain ⟨hmoves, hno⟩ := Runs.of_lstatMove (exec_lstatIsolate s d a) rfl hd hs hmay hgood hkind
    exact ⟨fun hst => hmoves (hmem.2 hst), fun hst => hno (mt hmem.1 (Nat.not_le.2 hst))⟩
  case clear => exact Runs.of_lstatGives (exec_lstatClr s d a) rfl hd hs hmay hgood (beq_eq_false_iff_ne.2 hkind) rfl
  case retrain =>
    exact ⟨fun hst => Runs.of_lstatTrain (f := Link.retrain) (exec_lstatRetrain s d a) rfl hs hmay hgood hkind (if_pos hst),
      fun hst => Runs.of_lstatGives (exec_lstatRetrain s d a) rfl hd hs hmay hgood (beq_eq_false_iff_ne.2 hkind) (if_neg hst)⟩
  case relink =>
    have hcan : (l.st = 0 ∨ l.st = 5 ∨ l.st = 6) ∧ (!(v / 256 == 3 && !s.dev.devSet)) = true
        ↔ (l.st = 0 ∨ l.st = 5 ∨ l.st = 6) ∧ (v / 256 = 3 → s.dev.devSet = true) := by
      refine and_congr_right fun _ => ?_
      by_cases h3 : v / 256 = 3 <;> simp [h3]
    intro can
    exact ⟨fun h => Runs.of_lstatTrain (f := fun l => { l with st := 1, fails := if (s.link v).st = 6 then 0 else l.fails })
        (exec_lstatRelink s d a) rfl hs hmay hgood hkind (if_pos (hcan.2 h)),
      fun h => Runs.of_lstatGives (exec_lstatRelink s d a) rfl hd hs hmay hgood (beq_eq_false_iff_ne.2 hkind) (if_neg (mt hcan.1 h))⟩
  case own => exact fun j o op need k h ho => Runs.of_dieSelf h ho hd hs hmay hgood hkind hself
  case steps =>
    refine ⟨fun hst => Runs.of_dieState (exec_lstatDquiesce s d a) rfl hd hs hmay hgood hkind hself hst,
      fun hst => Runs.of_dieState (exec_lstatDflush s d a) rfl hd hs hmay hgood hkind hself hst,
      fun hst => Runs.of_dieState (exec_lstatDreset s d a) rfl hd hs hmay hgood hkind hself hst,
      fun hst => Runs.of_dieState (exec_lstatDadmit s d a) rfl hd hs hmay hgood hkind hself hst,
      fun hst hb => Runs.of_dieStep (exec_lstatDquiesce s d a) rfl hd hs hmay hgood hkind hself hst (if_pos hb),
      fun hst hb => Runs.of_dieStep (exec_lstatDquiesce s d a) rfl hd hs hmay hgood hkind hself hst (if_neg (Bool.eq_false_iff.1 hb)),
      fun hst => Runs.of_dieStep (exec_lstatDflush s d a) rfl hd hs hmay hgood hkind hself hst rfl,
      fun hst => Runs.of_dieStep (exec_lstatDreset s d a) rfl hd hs hmay hgood hkind hself hst rfl,
      fun hst hup => Runs.of_dieStep (exec_lstatDadmit s d a) rfl hd hs hmay hgood hkind hself hst
        (if_pos (List.all_eq_true.2 fun l hl => beq_iff_eq.2 (hup l hl))),
      fun hst hdown => Runs.of_dieStep (exec_lstatDadmit s d a) rfl hd hs hmay hgood hkind hself hst (if_neg fun hall => ?_)⟩
    obtain ⟨l, hl, hne⟩ := hdown
    exact hne (beq_iff_eq.1 (List.all_eq_true.1 hall l hl))

end Sys2Proof.Machine
end

section
/-!
SUPPORT. A turn of a core (03 R57, 10 R257): what each of its premises decides.
-/

namespace Sys2Proof.Machine

theorem wordInstr_of_ok {w : Nat} {i : Instr} (h : decodeWord w = .ok i) : wordInstr w = i := by rw [wordInstr, h]

/-- Without open windows on the core an instruction reads the registers as they are. -/
theorem State.showWins_of_none {s : State} {ck out : Nat} (h : ∀ b ∈ s.allActs, b.coreKey = ck → b.wins = []) :
    s.showWins ck out = ([], s) := by
  have hno : (s.allActs.filter fun a => a.coreKey == ck && !a.wins.isEmpty && (a.id != out || out == 0)) = [] := by
    refine List.filter_eq_nil_iff.2 fun b hb => ?_
    by_cases hck : b.coreKey = ck
    · simp [h b hb hck]
    · simp [hck]
  rw [State.showWins, hno]; rfl

/-- An instruction of an activation that no window and no lane keeps waiting. -/
theorem State.oneWord_of_free {t : State} {w : Nat} {i : Instr} (hlane : t.laneWait w = false)
    (hwins : ∀ b ∈ t.begin.allActs, b.coreKey = t.cur.coreKey → b.wins = []) (hi : decodeWord w = .ok i) :
    t.oneWord w = match exec i t.begin with
      | .next x => .next (t.finish [] i x)
      | o => o := by
  rw [State.oneWord, if_neg (Bool.eq_false_iff.1 hlane)]
  simp only [State.showWins_of_none hwins, wordInstr_of_ok hi] <;> rfl

/-- An activation alone in its gang, without an error to raise, runs the word that it fetches. -/
theorem State.issueCur_of_fetch {s f t : State} {wide : Bool} {w : Nat}
    (hf : f = s.modMyCore fun c => { c with cur := c.cur.set s.cur.pri s.cur.slot }) (hwp : f.cur.wpOk = true)
    (hlate : f.cur.firstLate = none) (hfetch : f.fetchAt f.pc = .ok (wide, w) t) (hbehind : t.cur.behind = false)
    (halone : t.followers t.cur = []) : s.issueCur = t.oneWord w := by
  subst hf
  rw [State.issueCur]
  simp only [hwp, hlate, hfetch, hbehind, halone]
  rfl

theorem State.issueOn_of_pick {s : State} {ck : Nat} {a : Act} (h : s.pick ck = some a) :
    s.issueOn ck = some (s.focusOn a.id).issueCur := by rw [State.issueOn, h]; rfl

/-- Settles O3: the premises decide each test on the way from the plan's turn to the decoded instruction. -/
theorem stepRunsDecoded : Obligations.StepRunsDecoded := by
  intro s t ck ts a wide w i u f hplan hpick hwp hlate hfetch hbehind halone hlane hwins hi
  have hturn : step s = (u.issueOn ck).getD (.next u) := by
    have hstep : step s = s.advance := rfl
    rw [hstep, State.advance, hplan]; rfl
  rw [hturn, State.issueOn_of_pick hpick]
  exact (State.issueCur_of_fetch rfl hwp hlate hfetch hbehind halone).trans (State.oneWord_of_free hlane hwins hi)

end Sys2Proof.Machine
end

section
/-!
SUPPORT. The polynomial unit (08 R218 to R221).
-/

namespace Sys2Proof.Machine

/-- Acting as the issuing activation. -/
theorem State.onAct_self (s : State) (f : State → State) : s.onAct s.cur.id f = f s := if_pos rfl

theorem State.act?_self {s : State} (h : s.cur.live = true) : s.act? s.cur.id = some s.cur := if_pos (by simp [h])

/-! ### Tables (R218, R219) -/

section Tables

variable {s u t : State} {a h n : Nat} {ws : List Nat}

theorem exec_ppload_waits (hal : s.reg a % 2 ^ 56 % 16 = 0) (hq : s.polyOf s.cur.coreKey ≠ []) : exec (.ppload a) s = .next s := by
  refine (if_neg (not_not_intro hal)).trans (if_pos ?_)
  simpa [List.isEmpty_iff] using hq

/-- What `ppload` does once its header and its words are read. -/
theorem exec_ppload_read (hal : s.reg a % 2 ^ 56 % 16 = 0) (hq : s.polyOf s.cur.coreKey = [])
    (hread : s.engRead { s.me with eng := 4, slot := 0 } 2 (s.reg a % 2 ^ 56) 16 = .ok (h, u)) (hh : polyHeader h = some n)
    (hws : u.tableWords { s.me with eng := 4, slot := 0 } (s.reg a % 2 ^ 56 + 16) (5 * n) = .ok (ws, t)) :
    exec (.ppload a) s = if !polyRises (polySegs n ws) then .next (t.trapHere cRANGE 1 (t.reg a))
      else .next ((t.modMyCore fun c => { c with poly := polySegs n ws }).retire 4) := by
  have hexec : exec (.ppload a) s = execPpload a s := rfl
  rw [hexec, execPpload, if_neg (not_not_intro hal), if_neg (by simp [hq])]
  simp only [hread, hh, hws]

end Tables

/-! ### Requests (R220) -/

theorem State.openWinV_mem (s : State) (la : Nat) (vs : List Nat) : (s.openWinV la vs).mem = s.mem := by
  rcases s.openWinV_eq la vs with ⟨-, h⟩ | ⟨-, w, -, h⟩ <;> rw [h]
  rfl

theorem State.openWinV_fields (s : State) (la : Nat) (vs : List Nat) :
    (s.openWinV la vs).cur.wsKey = s.cur.wsKey ∧ (s.openWinV la vs).cur.vr = s.cur.vr ∧ (s.openWinV la vs).clusters = s.clusters := by
  rcases s.openWinV_eq la vs with ⟨-, h⟩ | ⟨-, w, -, h⟩ <;> rw [h]
  · exact ⟨rfl, rfl, rfl⟩
  · exact ⟨rfl, rfl, rfl⟩

/-- A request stands last in the unit's queue with its operands as they are at issue. -/
theorem runs_vpoly {s : State} {d a la : Nat} (htab : (s.core s.cur.coreKey).poly ≠ [])
    (hroom : (s.cluster (s.cur.coreKey / 8)).polyQ.length < 16) :
    Runs (.vpoly d a la) s fun x => ∃ q : PolyReq,
      (x.cluster (s.cur.coreKey / 8)).polyQ = (s.cluster (s.cur.coreKey / 8)).polyQ ++ [q] ∧ q.core = s.cur.coreKey
        ∧ q.act = s.cur.id ∧ q.vd = d ∧ q.lanes = (List.range s.cur.grant).map (s.lane a) ∧ x.cur.vr = s.cur.vr
        ∧ x.pc = (s.pc + 4) % 2 ^ 56 ∧ SameMem s x s.pcSpan := by
  have hno : s.myCore.poly.isEmpty = false := by simpa [State.myCore, List.isEmpty_eq_false_iff] using htab
  set q : PolyReq := { core := s.cur.coreKey, act := s.cur.id, vd := d, lanes := (List.range s.cur.grant).map (s.lane a),
                       pc := s.pc, win := if la = 0 then 0 else s.sched.nextWin + 1 } with hq
  set u := (s.retire 4).openWinV la [d] with hu
  have hexec : exec (.vpoly d a la) s = .next (u.modCluster (s.cur.coreKey / 8) fun c => { c with polyQ := c.polyQ ++ [q] }) :=
    (if_neg (Bool.eq_false_iff.1 hno)).trans (if_neg (Nat.not_le.2 hroom))
  obtain ⟨hkey, hvr, hclusters⟩ := (s.retire 4).openWinV_fields la [d]
  have hmem := (s.retire 4).openWinV_mem la [d]
  refine ⟨_, hexec, q, ?_, rfl, rfl, rfl, rfl, hvr, ?_, fun k hk => ?_⟩
  · rw [State.cluster_modCluster]
    have hcluster : u.cluster (s.cur.coreKey / 8) = s.cluster (s.cur.coreKey / 8) := by rw [State.cluster, hu, hclusters]; rfl
    rw [hcluster]
  · have hpc : u.pc = (s.retire 4).pc := by rw [State.pc, State.pc, State.ws, State.ws, State.rdN, State.rdN, hu, hmem, hkey]
    exact hpc.trans (s.pc_retire 4)
  · have hrd : u.rd k = (s.retire 4).rd k := by rw [State.rd, State.rd, hu, hmem]
    exact hrd.trans (s.rd_retire_ne 4 k hk)

/-! ### The unit (R220, R221) -/

/-- The results of the lanes, written one after another. -/
theorem putCells_eq (vr : FMap Nat) (d : Nat) (ys : List (Image × Nat)) :
    ((List.range ys.length).zip ys).foldl (fun m c => FMap.put m (d * 64 + c.1) (c.2.1.bits + 2 ^ 32 * c.2.1.tail)) vr
      = (List.range ys.length).foldl (fun m i => FMap.put m (d * 64 + i)
          ((ys.getD i (⟨0, 0⟩, 0)).1.bits + 2 ^ 32 * (ys.getD i (⟨0, 0⟩, 0)).1.tail)) vr := by
  have hzip : (List.range ys.length).zip ys = (List.range ys.length).map fun i => (i, ys.getD i (⟨0, 0⟩, 0)) := by
    refine List.ext_getElem (by simp) fun i h1 h2 => ?_
    have hi : i < ys.length := by simpa using h2
    simp [hi]
  rw [hzip, List.foldl_map]

/-- What the unit computes of a lane. -/
def State.polyLane (s : State) (core v : Nat) : Image × Nat := polyEval (s.core core).poly (imgVal fp32 ⟨v % 2 ^ 32, v / 2 ^ 32 % 4⟩)

/-- The unit does a request of the issuing activation whose lanes it still holds. -/
theorem polyDo_of_fits {s : State} {r : PolyReq} (hact : r.act = s.cur.id) (h : r.lanes.length ≤ s.cur.grant) :
    (s.polyDo r s.cur.grant).clusters = s.clusters
      ∧ (∀ i v, r.lanes[i]? = some v → (s.polyDo r s.cur.grant).lane r.vd i
          = (s.polyLane r.core v).1.bits + 2 ^ 32 * (s.polyLane r.core v).1.tail)
      ∧ (∀ k, (k < r.vd * 64 ∨ r.vd * 64 + r.lanes.length ≤ k) →
          FMap.getD (s.polyDo r s.cur.grant).cur.vr k 0 = FMap.getD s.cur.vr k 0)
      ∧ (s.cur.wpOk = true → (s.polyDo r s.cur.grant).st % 65536
          = Nat.lor (s.st % 65536) ((r.lanes.map (s.polyLane r.core)).foldl (fun f z => f ||| z.2) 0) % 65536)
      ∧ SameMem s (s.polyDo r s.cur.grant) s.flagSpan := by
  set ys := r.lanes.map (s.polyLane r.core) with hys
  set fl := ys.foldl (fun f z => f ||| z.2) 0
  set g : FMap Nat → FMap Nat := fun m => ((List.range ys.length).zip ys).foldl
    (fun m c => FMap.put m (r.vd * 64 + c.1) (c.2.1.bits + 2 ^ 32 * c.2.1.tail)) m
  have hlen : ys.length = r.lanes.length := List.length_map _
  have hdo : s.polyDo r s.cur.grant = (s.setVr g).flagAct s.cur.id fl := by
    rw [State.polyDo, if_neg (Nat.not_lt.2 h)]
    simp only [hact, State.onAct_self]
    rfl
  have hflags : ∃ m, s.polyDo r s.cur.grant = (s.setVr g).setMem m
      ∧ (s.cur.wpOk = true → (s.polyDo r s.cur.grant).st % 65536 = Nat.lor (s.st % 65536) fl % 65536)
      ∧ SameMem s (s.polyDo r s.cur.grant) s.flagSpan := by
    rw [hdo, State.flagAct]
    by_cases h0 : fl = 0
    · rw [if_pos h0, h0]
      exact ⟨s.mem, rfl, fun _ => by simp [Nat.lor]; rfl, fun _ _ => rfl⟩
    · have hself : (s.setVr g).onAct s.cur.id (fun s => if s.cur.wpOk then s.orFlags fl else s)
          = if s.cur.wpOk then (s.setVr g).orFlags fl else s.setVr g := (s.setVr g).onAct_self _
      rw [if_neg h0, hself]
      by_cases hwp : s.cur.wpOk = true
      · rw [if_pos hwp]
        obtain ⟨m, hm⟩ := (s.setVr g).orFlags_eq fl
        exact ⟨m, hm, fun _ => (s.setVr g).st_orFlags fl, fun k hk => (s.setVr g).rd_orFlags_ne fl k hk⟩
      · rw [if_neg hwp]
        exact ⟨s.mem, rfl, fun h => absurd h hwp, fun _ _ => rfl⟩
  obtain ⟨m, hm, hst, hframe⟩ := hflags
  have hvr := (congrArg (fun x : State => x.cur.vr) hm).trans (putCells_eq s.cur.vr r.vd ys)
  refine ⟨by rw [hm]; rfl, fun i v hv => ?_, fun k hk => ?_, hst, hframe⟩
  · have hi : i < ys.length := hlen ▸ (List.getElem?_eq_some_iff.1 hv).1
    rw [State.lane, laneOf, hvr, getD_putLanes, Nat.add_sub_cancel_left,
      if_pos ⟨Nat.le_add_right _ _, List.mem_range.2 hi⟩, hys, List.getD_eq_getElem?_getD, List.getElem?_map, hv]
    rfl
  · rw [hvr, getD_putLanes, if_neg]
    rintro ⟨hle, hin⟩
    have := List.mem_range.1 hin
    omega

/-- A request whose activation holds fewer lanes leaves an error unraised. -/
theorem polyDo_of_shrunk {s : State} {r : PolyReq} (hact : r.act = s.cur.id) {g : Nat} (h : g < r.lanes.length) :
    s.polyDo r g = s.modCur fun a => { a with late := a.late ++ [{ code := cVGRANT, sub := 3, tval := r.pc, kind := 3, n := 0 }] } := by
  rw [State.polyDo, if_pos h, State.addLate, hact, State.onAct_self]

theorem cluster_congr {s t : State} (h : t.clusters = s.clusters) (k : Nat) : t.cluster k = s.cluster k := by
  rw [State.cluster, State.cluster, h]

/-- The unit takes the request at the head of its queue. -/
theorem exec_vpolyRequestTake {s : State} {cl : Nat} {r : PolyReq} {rs : List PolyReq} (hq : (s.cluster cl).polyQ = r :: rs)
    (hact : r.act = s.cur.id) (hlive : s.cur.live = true) (hrun : s.running s.cur.ctx = true) :
    exec (.vpolyRequestTake cl) s = .next ((s.modCluster cl fun c => { c with polyQ := rs }).polyDo r s.cur.grant) := by
  have hexec : exec (.vpolyRequestTake cl) s = execVpolyRequestTake cl s := rfl
  rw [hexec, execVpolyRequestTake]
  simp only [hq, hact, State.act?_self hlive, hrun]
  rfl

/-- Settles O37: the load once the table is read, the request's queueing, and the unit's work. -/
theorem polynomialUnit : Obligations.PolynomialUnit := by
  intro s u t d a la cl h n ws r rs ck p w unit tab
  refine ⟨exec_ppload_waits, fun hal hq hread hh hws => ⟨fun hrise => ?load, fun hrise hs => ?refuse⟩,
    fun htab hs => Runs.of_trapHere (if_pos (by simp [State.myCore, ck, htab])) hs,
    fun htab hfull => ?full, runs_vpoly, fun hq hact hlive hrun => ⟨fun hfit => ?take, fun hshrunk => ?squash⟩⟩
  case load =>
    refine ⟨_, (exec_ppload_read hal hq hread hh hws).trans (if_neg (by simp [hrise])), ?_⟩
    exact CoreResult.of_modCore t fun c => { c with poly := polySegs n ws }
  case refuse =>
    exact ⟨_, (exec_ppload_read hal hq hread hh hws).trans (if_pos (by simp [hrise])), Trapped.of_trapHere t _ _ _ hs⟩
  case full =>
    exact (if_neg (by simpa [State.myCore, List.isEmpty_iff] using htab)).trans (if_pos hfull)
  case take =>
    set x := s.modCluster cl fun c => { c with polyQ := rs }
    obtain ⟨hclusters, hlanes, hothers, hst, hframe⟩ := polyDo_of_fits (s := x) hact hfit
    refine ⟨_, exec_vpolyRequestTake hq hact hlive hrun, ?_, hlanes, hothers, hst, hframe⟩
    exact (congrArg Cluster.polyQ (cluster_congr hclusters cl)).trans (congrArg Cluster.polyQ (s.cluster_modCluster cl _))
  case squash =>
    refine ⟨_, (exec_vpolyRequestTake hq hact hlive hrun).trans (congrArg _ (polyDo_of_shrunk
      (s := s.modCluster cl fun c => { c with polyQ := rs }) hact hshrunk)), ?_, rfl, rfl⟩
    exact congrArg Cluster.polyQ (s.cluster_modCluster cl fun c => { c with polyQ := rs })

end Sys2Proof.Machine
end

section
/-!
SUPPORT. A map pointer that changes while its map is read.  Under a loaded table the read of a map may fill, and the fill writes
a heat word (23 R426).  Where the issuer's registers stand in a park record (10 R267) that overlaps that word, the read changes
the register that names the map, and `mstream` reports the address that the register then holds.
-/

namespace Sys2Proof.Machine

/-- A machine one fill before a heat word is written, whose issuer's registers stand below the heat word of page 0, so that x1 is
that word.  A map of one 8-bit integer stands at address 0. -/
def heatMapState : State :=
  { mem := [(0x07, 8), (0x08, 1), (0x24, 1), (0x10000, 1), (0x10001, 0x20), (0x10002, 0x01), (0x12000, 0xEF)]
    cur := { live := true, parked := some (fillWrites - 8) }
    ctxs := [(0, fillCtx)], coh := { fills := [63] } }

/-- The map that `mstream` reads there passes the checks before that of its base, which is not in scratchpad. -/
def mapReadGood : Res (List Nat) → Bool
  | .ok m t => decide (t.cur.shadow = none) && !mapBad m && (mxClass? (mapFmt m)).isSome && !coordsBad 0 m false
      && decide (bits (mapBase m) 48 8 ≠ 0xF1)
  | _ => false

/-- The TVAL word that an instruction leaves. -/
def tvalAfter : Out → Nat
  | .next t => t.ws 0x130 8
  | _ => 0

theorem heatMapState_read : mapReadGood (heatMapState.loadWords (heatMapState.reg 1) 0 8) = true := by decide +kernel

theorem heatMapState_tval : tvalAfter (exec (.mstream 0 1 0 0 0) heatMapState) = 0x100 := by decide +kernel

/-- Refutes O38: in the machine above `mstream` traps TMAP with the address `0x100` that x1 holds once its map is read, and not
with the address 0 that it held before. -/
theorem not_matrixCommands : ¬ Obligations.MatrixCommands := by
  rintro ⟨-, htraps⟩
  have hgood := heatMapState_read
  cases hread : heatMapState.loadWords (heatMapState.reg 1) 0 8 with
  | stop _ => rw [hread] at hgood; cases hgood
  | fault _ => rw [hread] at hgood; cases hgood
  | ok m t =>
    rw [hread] at hgood
    simp only [mapReadGood, Bool.and_eq_true, decide_eq_true_eq, Bool.not_eq_true', Option.isSome_iff_ne_none] at hgood
    obtain ⟨⟨⟨⟨hshadow, hmap⟩, hcls⟩, hcoords⟩, hbase⟩ := hgood
    obtain ⟨-, htraps⟩ := htraps heatMapState t 0 1 0 0 0 m
    obtain ⟨-, -, hbad, -⟩ := htraps hshadow
    obtain ⟨u, hu, htrap⟩ := hbad ⟨⟨by decide, by decide +kernel, by decide, hread⟩, hmap, hcls, hcoords⟩ hbase
    have htval := heatMapState_tval
    rw [hu] at htval
    exact absurd (htrap.val.symm.trans htval) (by decide +kernel)

end Sys2Proof.Machine
end

section
/-!
SUPPORT. The matrix unit (09 R229, R230, R241 to R244, R248): accumulator rows, completions, the arbiter and the refetch.
-/

namespace Sys2Proof.Machine

/-! ### Accumulator rows and the unit's status (R241 to R244) -/

theorem length_drawImages (n : Nat) (s : State) : (State.drawImages s n).1.length = n := by
  induction n generalizing s with
  | zero => rfl
  | succ n ih => simp [State.drawImages, ih]

/-- Drawing images only takes free values. -/
theorem drawImages_state (n : Nat) (s : State) :
    (State.drawImages s n).2 = s.modSched fun z => { z with free := z.free + n } := by
  induction n generalizing s with
  | zero => rfl
  | succ n ih =>
    simp only [State.drawImages, ih]
    simp [State.draw, State.modSched, State.setSched, Nat.add_comm, Nat.add_left_comm]

section Rows

variable {s : State} {d a acc la : Nat}

theorem Runs.mread_range (hx : 16 ≤ s.reg a) (hsh : s.cur.shadow = none) :
    Runs (.mread d a acc la) s (Trapped s · 0x0A 0 (s.reg a) s.pc) :=
  Runs.of_trapHere (if_pos hx) hsh

theorem exec_mread_of_fits (hx : s.reg a < 16) (hg : groupBad 32 s.cur.grant d 64 = none) :
    exec (.mread d a acc la) s =
      let r := if s.myCore.mq.any fun q => q.writesAcc acc then s.drawImages 64
        else ((List.range 64).map fun col => let e := s.myCore.accElem acc (s.reg a) col; ⟨e % 2 ^ 32, e / 2 ^ 32⟩, s)
      r.2.putVec la 32 d 64 ((List.range 64).zip r.1) 0 := by
  refine (if_neg (Nat.not_le.2 hx)).trans ?_
  rw [hg]

theorem Runs.mread_row (hx : s.reg a < 16) (hg : groupBad 32 s.cur.grant d 64 = none)
    (hw : ∀ c ∈ s.myCore.mq, c.writesAcc acc = false) :
    Runs (.mread d a acc la) s (VecResult s · la 32 d ((List.range 64).map fun j =>
      (j, (⟨FMap.getD s.myCore.acc (acc * 1024 + s.reg a * 64 + j) 0 % 2 ^ 32,
            FMap.getD s.myCore.acc (acc * 1024 + s.reg a * 64 + j) 0 / 2 ^ 32⟩ : Image))) 0) := by
  have hno : (s.myCore.mq.any fun q => q.writesAcc acc) = false := by simpa using hw
  refine Runs.of_putVec (n := 64) ((exec_mread_of_fits hx hg).trans ?_)
  rw [hno]
  rfl

theorem Runs.mread_pending (hx : s.reg a < 16) (hg : groupBad 32 s.cur.grant d 64 = none)
    (hw : ∃ c ∈ s.myCore.mq, c.writesAcc acc = true) :
    Runs (.mread d a acc la) s fun t => ∃ (n : Nat) (ys : List Image), ys.length = 64
      ∧ VecResult (s.modSched fun z => { z with free := n }) t la 32 d ((List.range 64).zip ys) 0 := by
  have hyes : (s.myCore.mq.any fun q => q.writesAcc acc) = true := by simpa using hw
  have he : exec (.mread d a acc la) s =
      (s.modSched fun z => { z with free := s.sched.free + 64 }).putVec la 32 d 64 ((List.range 64).zip (s.drawImages 64).1) 0 := by
    refine (exec_mread_of_fits hx hg).trans ?_
    rw [hyes]
    show (s.drawImages 64).2.putVec la 32 d 64 _ 0 = _
    rw [drawImages_state]
    rfl
  obtain ⟨hpc, hvr, hst, hwin, honly, hframe⟩ := VecEnd.of_endVec (s.modSched fun z => { z with free := s.sched.free + 64 }) la 0
    ((List.range (ceilDiv 64 (max 1 (perReg 32 s.cur.grant)))).map (d + ·)) fun m => putGroup m 32 s.cur.grant d
      ((List.range 64).zip (s.drawImages 64).1)
  exact ⟨_, he, _, _, length_drawImages 64 s, hpc, hvr, hst, hwin, honly, fun k hk => hframe k fun hp => hk (hp.imp_right And.right)⟩

theorem Runs.mweight (imm : Nat) (s : State) : Runs (.mweight imm) s (CoreResult s · { s.myCore with weight := imm }) :=
  ⟨_, rfl, CoreResult.of_modCore s fun c => { c with weight := imm }⟩

end Rows

/-! ### Completion (R230) -/

section Completion

variable {s : State} {core : Nat} {c : Cmd} {cs : List Cmd}

/-- The completion of the command `c` at the head of a core's queue, once its run is known. -/
theorem exec_matrixCommandComplete_of_head (hmq : (s.core core).mq = c :: cs) (hgrp : c.grp = none) (hrun : s.running c.ctx = true)
    (htile : c.op = 2 → (s.core core).active.refetch = false ∧ c.prog ≠ 0) (hlost : c.op = 5 → c.lost = none)
    (herr : (s.runMatrix core c).err = none) :
    exec (.matrixCommandComplete core) s =
      let r := s.runMatrix core c
      let c' := { c with prog := if c.op = 2 then c.prog else r.prog, flags := r.flags }
      let t := r.s.modCmd core 1 c.n fun _ => c'
      let a := if c.op = 5 then t.cmdAcked core 1 c.n else (true, t)
      .next (if a.1 then (a.2.endCmd core 1 c' none 0).endVisit core else a.2) := by
  have hgo : (c.grp.isSome || !s.running c.ctx || (s.core core).planeWaits c || (c.op == 2 && c.prog == 0)) = false := by
    by_cases h2 : c.op = 2
    · simp [hgrp, hrun, Core.planeWaits, h2, htile h2]
    · simp [hgrp, hrun, Core.planeWaits, h2]
  have hl : (if c.op = 5 then c.lost else none) = none := by
    by_cases h5 : c.op = 5
    · rw [if_pos h5, hlost h5]
    · rw [if_neg h5]
  show execMatrixCommandComplete core s = _
  unfold execMatrixCommandComplete
  rw [hmq]
  simp only [hgo, hl, herr, Bool.false_eq_true, if_false]

theorem Runs.matrixCommandComplete (hmq : (s.core core).mq = c :: cs) (hgrp : c.grp = none) (hrun : s.running c.ctx = true)
    (htile : c.op = 2 → (s.core core).active.refetch = false ∧ c.prog ≠ 0) (hlost : c.op = 5 → c.lost = none)
    (herr : (s.runMatrix core c).err = none) (hacked : c.op = 5 → (s.runMatrix core c).s.cmdPosted core 1 c.n = false) :
    let c' := { c with prog := if c.op = 2 then c.prog else (s.runMatrix core c).prog, flags := (s.runMatrix core c).flags }
    Runs (.matrixCommandComplete core) s fun t =>
      t = (((s.runMatrix core c).s.modCmd core 1 c.n fun _ => c').endCmd core 1 c' none 0).endVisit core := by
  refine ⟨_, exec_matrixCommandComplete_of_head hmq hgrp hrun htile hlost herr, ?_⟩
  by_cases h5 : c.op = 5
  · have hno : ((s.runMatrix core c).s.modCmd core 1 c.n fun _ =>
        { c with prog := if c.op = 2 then c.prog else (s.runMatrix core c).prog, flags := (s.runMatrix core c).flags }).cmdPosted
          core 1 c.n = false := hacked h5
    simp only [State.cmdAcked, hno, Bool.not_false, if_true, ite_self]
  · simp only [h5, if_false, if_true]

theorem Runs.matrixCommandComplete_lost {va : Nat} (hmq : (s.core core).mq = c :: cs) (hgrp : c.grp = none)
    (hrun : s.running c.ctx = true) (h5 : c.op = 5) (hlost : c.lost = some va) :
    Runs (.matrixCommandComplete core) s fun t =>
      t = ((s.endCmd core 1 c (some (0x0D, 1, va)) 0).cmdFailed core 1 c).endVisit core := by
  have hgo : (c.grp.isSome || !s.running c.ctx || (s.core core).planeWaits c || (c.op == 2 && c.prog == 0)) = false := by
    simp [hgrp, hrun, Core.planeWaits, h5]
  refine ⟨_, ?_, rfl⟩
  show execMatrixCommandComplete core s = _
  unfold execMatrixCommandComplete
  rw [hmq]
  rw [h5] at hgo
  simp only [h5, hgo, hlost, Bool.false_eq_true, if_false, if_true]
  rfl

theorem cores_flagAct_zero (s : State) (id : Nat) : s.flagAct id 0 = s := if_pos rfl

/-- A command that ends without flags and without an error leaves the queue of its core, and its number counts; nothing else
of the core changes. -/
theorem core_endCmd (s : State) (core : Nat) (c : Cmd) (done : Nat) (hsh : c.shadow = none) (hfl : c.flags = 0) :
    (s.endCmd core 1 c none done).core core
      = ((s.core core).setCmds 1 ((s.core core).mq.filter (·.n != c.n))).complete 1 c.n := by
  have hc : (s.endCmd core 1 c none done).cores
      = (s.modCore core fun k => (k.setCmds 1 (k.mq.filter (·.n != c.n))).complete 1 c.n).cores := by
    unfold State.endCmd
    rw [hsh, hfl]
    simp only [cores_flagAct_zero]
    split_ifs <;> rfl
  rw [State.core_congr hc, State.core_modCore]

theorem cores_endVisit (s : State) (core : Nat) : (s.endVisit core).cores = s.cores := by
  unfold State.endVisit
  split_ifs <;> rfl

theorem filter_map_update (l : List Cmd) (n : Nat) (c : Cmd) (hc : c.n = n) :
    (l.map fun x => if x.n = n then c else x).filter (·.n != n) = l.filter (·.n != n) := by
  induction l with
  | nil => rfl
  | cons x l ih =>
    by_cases hx : x.n = n
    · simp [hx, hc, ih]
    · simp [hx, ih]

/-- A completion whose run changes the core by `f`, without a flag, and leaves its queue and timelines. -/
theorem core_matrixCommandComplete {f : Core → Core} (hmq : (s.core core).mq = c :: cs) (hgrp : c.grp = none)
    (hrun : s.running c.ctx = true) (hsh : c.shadow = none) (h2 : c.op ≠ 2) (h5 : c.op ≠ 5)
    (hr : s.runMatrix core c = { s := s.modCore core f, prog := 0, flags := 0, err := none }) (hf : (f (s.core core)).mq = (s.core core).mq) :
    Runs (.matrixCommandComplete core) s fun t =>
      t.core core = ((f (s.core core)).setCmds 1 ((s.core core).mq.filter (·.n != c.n))).complete 1 c.n := by
  obtain ⟨t, he, ht⟩ := Runs.matrixCommandComplete hmq hgrp hrun (absurd · h2) (absurd · h5) (by rw [hr]) (absurd · h5)
  refine ⟨t, he, ?_⟩
  dsimp only at ht ⊢
  rw [ht, State.core_congr (cores_endVisit _ _), core_endCmd _ _ _ _ (by exact hsh) (by rw [hr])]
  simp only [hr, State.modCmd, State.core_modCore]
  have hfil := filter_map_update (s.core core).mq c.n
    { c with prog := if c.op = 2 then c.prog else 0, flags := 0 } rfl
  simp only [Core.setCmds, Core.cmds, hf] at hfil ⊢
  simp only [Nat.one_ne_zero, if_false, if_true, hfil]

end Completion

/-! ### The arbiter (R229) -/

theorem find?_map_eq_findSome? (f : Nat → Nat) (p : Nat → Bool) (l : List Nat) :
    (l.map f).find? p = l.findSome? fun j => if p (f j) then some (f j) else none := by
  induction l with
  | nil => rfl
  | cons x l ih => by_cases hx : p (f x) <;> simp [hx, ih]

section Arbiter

variable {s : State} {cl : Nat}

theorem core_modCmd (s : State) (ck kind n : Nat) (f : Cmd → Cmd) : (s.modCmd ck kind n f).core ck
    = (s.core ck).setCmds kind (((s.core ck).cmds kind).map fun c => if c.n = n then f c else c) := State.core_modCore _ _ _

/-- The state in which the arbiter has granted the array to core `i` of a cluster, for the `n`th tile in a row. -/
def State.granted (s : State) (cl i n : Nat) : State :=
  (s.modCmd (cl * 8 + i) 1 ((((s.core (cl * 8 + i)).mq.head?).map (·.n)).getD 0) fun c => { c with prog := 1 }).modCluster cl
    fun x => { x with lastCore := i, tiles := n }

/-- A tile that the arbiter grants runs from then on. -/
theorem tileRuns_granted {i n : Nat} (hr : s.tileReady (cl * 8 + i) = true) : (s.granted cl i n).tileRuns (cl * 8 + i) = true := by
  have hcore : (s.granted cl i n).core (cl * 8 + i) = (s.core (cl * 8 + i)).setCmds 1 (((s.core (cl * 8 + i)).cmds 1).map fun c =>
      if c.n = (((s.core (cl * 8 + i)).mq.head?).map (·.n)).getD 0 then { c with prog := 1 } else c) := core_modCmd _ _ _ _ _
  unfold State.tileReady at hr
  unfold State.tileRuns
  rw [hcore]
  cases hmq : (s.core (cl * 8 + i)).mq with
  | nil => rw [hmq] at hr; cases hr
  | cons c l =>
    rw [hmq] at hr
    simp_all [Core.setCmds, Core.cmds]

/-- What the clauses say of a granted tile. -/
theorem granted_spec {i n : Nat} (hr : s.tileReady (cl * 8 + i) = true) :
    ((s.granted cl i n).cluster cl).lastCore = i ∧ ((s.granted cl i n).cluster cl).tiles = n
      ∧ (s.granted cl i n).tileRuns (cl * 8 + i) = true := by
  have hcl : (s.granted cl i n).cluster cl = { s.cluster cl with lastCore := i, tiles := n } := State.cluster_modCluster _ _ _
  exact ⟨by rw [hcl], by rw [hcl], tileRuns_granted hr⟩

theorem Runs.arrayGrant_again (hno : ∀ j, j < 8 → s.tileRuns (cl * 8 + j) = false)
    (hr : s.tileReady (cl * 8 + (s.cluster cl).lastCore) = true)
    (hw : (s.cluster cl).tiles < (s.core (cl * 8 + (s.cluster cl).lastCore)).weight) :
    Runs (.arrayGrant cl) s fun t => (t.cluster cl).lastCore = (s.cluster cl).lastCore
      ∧ (t.cluster cl).tiles = (s.cluster cl).tiles + 1 ∧ t.tileRuns (cl * 8 + (s.cluster cl).lastCore) = true := by
  have hany : ((List.range 8).any fun i => s.tileRuns (cl * 8 + i)) = false := by simpa using hno
  have hagain : (s.tileReady (cl * 8 + (s.cluster cl).lastCore)
      && decide ((s.cluster cl).tiles < (s.core (cl * 8 + (s.cluster cl).lastCore)).weight)) = true := by simp [hr, hw]
  refine ⟨s.granted cl (s.cluster cl).lastCore ((s.cluster cl).tiles + 1), ?_, granted_spec hr⟩
  show execArrayGrant cl s = _
  unfold execArrayGrant
  simp only [hany, hagain, Bool.false_eq_true, if_false, if_true]
  rfl

theorem Runs.arrayGrant_next {i : Nat} (hno : ∀ j, j < 8 → s.tileRuns (cl * 8 + j) = false)
    (hw : s.tileReady (cl * 8 + (s.cluster cl).lastCore) = true →
      (s.core (cl * 8 + (s.cluster cl).lastCore)).weight ≤ (s.cluster cl).tiles)
    (hi : (List.range 8).findSome? (fun j => if s.tileReady (cl * 8 + ((s.cluster cl).lastCore + 1 + j) % 8)
      then some (((s.cluster cl).lastCore + 1 + j) % 8) else none) = some i) :
    Runs (.arrayGrant cl) s fun t => (t.cluster cl).lastCore = i ∧ (t.cluster cl).tiles = 1 ∧ t.tileRuns (cl * 8 + i) = true := by
  have hany : ((List.range 8).any fun i => s.tileRuns (cl * 8 + i)) = false := by simpa using hno
  have hagain : (s.tileReady (cl * 8 + (s.cluster cl).lastCore)
      && decide ((s.cluster cl).tiles < (s.core (cl * 8 + (s.cluster cl).lastCore)).weight)) = false := by
    cases h : s.tileReady (cl * 8 + (s.cluster cl).lastCore) with
    | false => rfl
    | true => simpa using hw h
  have hfind : ((List.range 8).map fun j => ((s.cluster cl).lastCore + 1 + j) % 8).find? (fun i => s.tileReady (cl * 8 + i)) = some i := by
    rw [find?_map_eq_findSome?]; exact hi
  refine ⟨s.granted cl i 1, ?_, granted_spec (List.find?_some (p := fun i => s.tileReady (cl * 8 + i)) hfind)⟩
  show execArrayGrant cl s = _
  unfold execArrayGrant
  simp only [hany, hagain, hfind, Bool.false_eq_true, if_false]
  rfl

end Arbiter

/-! ### Refetches (R248) -/

theorem pastMems_eq_nil {s : State} {n : Nat} (h : ∀ p ∈ s.race, p.at_ < n) : s.pastMems n = [] := by
  have : (s.race.filter fun p => decide (n ≤ p.at_)) = [] := by
    simpa [List.filter_eq_nil_iff] using h
  simp [State.pastMems, this]

/-- A refetch against one older content that agrees takes every value as read and draws nothing. -/
theorem mixFetch_of_agrees (s : State) (old m : FMap Nat) (h : ∀ e ∈ m, FMap.getD old e.1 e.2 = e.2) :
    s.mixFetch [old] m = (m, s) := by
  induction m with
  | nil => rfl
  | cons e m ih =>
    obtain ⟨k, v⟩ := e
    have hv : FMap.getD old k v = v := h (k, v) (by simp)
    have hd : [v, v].eraseDups = [v] := by simp [List.eraseDups_cons]
    simp only [State.mixFetch, List.map_cons, List.map_nil, hv, hd, List.length_singleton, le_refl, if_true, Nat.mod_one,
      ih fun e he => h e (by simp [he])]
    rfl

theorem Runs.planeRefetch {s t : State} {core : Nat} {q : Plane} (hre : (s.core core).active.refetch = true)
    (hst : (s.core core).active.state ≠ 0) (hrun : s.running (((s.cluster (core / 8)).owner).getD 0) = true)
    (hpark : ∀ y ∈ (s.ctx (((s.cluster (core / 8)).owner).getD 0)).parked, y.who ≠ 8)
    (hload : s.loadPlane
        { ctx := ((s.cluster (core / 8)).owner).getD 0, die := core / 8192, cluster := core / 8 % 1024, core := core % 8, eng := 2,
          level := (s.core core).active.level } true (s.core core).active.map (s.core core).active.ctl
        (s.core core).active.nibbles = .ok (q, t))
    (hrace : ∀ p ∈ t.race, p.at_ < (s.core core).active.at_)
    (helems : ∀ e ∈ q.elems, FMap.getD (s.core core).active.elems e.1 e.2 = e.2)
    (hscales : ∀ e ∈ q.scales, FMap.getD (s.core core).active.scales e.1 e.2 = e.2)
    (hsel : ∀ e ∈ q.sel, FMap.getD (s.core core).active.sel e.1 e.2 = e.2 ∧ e.2 % 4 < e.2 / 4) :
    Runs (.planeRefetch core 0) s fun u => (u.core core).active = { q with at_ := (s.core core).active.at_ } := by
  have hgo : (!(s.core core).active.refetch || (s.core core).active.state == 0
      || !s.running (((s.cluster (core / 8)).owner).getD 0)
      || ((s.ctx (((s.cluster (core / 8)).owner).getD 0)).parked.any fun x =>
        x.who == 8 && x.id == planeId core (s.core core).active)) = false := by
    simp only [hre, hrun, Bool.not_true, Bool.false_or, Bool.or_false, Bool.or_eq_false_iff, beq_eq_false_iff_ne, ne_eq, hst,
      not_false_eq_true, true_and, List.any_eq_false, Bool.and_eq_true, beq_iff_eq, not_and]
    exact fun y hy h8 => absurd h8 (hpark y hy)
  have hfind : (q.sel.find? fun y => decide (y.2 / 4 ≤ y.2 % 4)) = none := by
    simpa [List.find?_eq_none] using fun a b hb => (hsel (a, b) hb).2
  refine ⟨t.modCore core fun c => c.setPlane 0 { q with at_ := (s.core core).active.at_ }, ?_, ?_⟩
  · show execPlaneRefetch core 0 s = _
    unfold execPlaneRefetch
    simp only [Core.plane, if_true, hgo, Bool.false_eq_true, if_false, hload, State.pastPlanes, pastMems_eq_nil hrace,
      List.filterMap_nil, List.map_cons, List.map_nil, mixFetch_of_agrees _ _ _ helems, mixFetch_of_agrees _ _ _ hscales,
      mixFetch_of_agrees _ _ _ fun e he => (hsel e he).1, hfind]
  · simp [Core.setPlane]

/-- Settles O39, one lemma for each row. -/
theorem matrixUnit : Obligations.MatrixUnit := by
  intro s t d a acc la imm core cl i c cs r q hd
  refine ⟨Runs.mread_range, Runs.mread_row, Runs.mread_pending, Runs.mweight imm s, Runs.of_put rfl hd, ?_, ?_, ?_, ?_,
    Runs.arrayGrant_again, Runs.arrayGrant_next, Runs.planeRefetch⟩
  · rintro ⟨hmq, hgrp, hrun, hsh⟩ h1
    have hr : s.runMatrix core c = ⟨s.modCore core fun k => { k with active := k.shadowP, shadowP := k.active }, 0, 0, none⟩ := by simp [State.runMatrix, h1]
    obtain ⟨u, he, hu⟩ := core_matrixCommandComplete hmq hgrp hrun hsh (by omega) (by omega) hr rfl
    refine ⟨u, he, ?_⟩
    dsimp only
    rw [hu]
    exact ⟨rfl, rfl, rfl, rfl⟩
  · rintro ⟨hmq, hgrp, hrun, hsh⟩ h3
    have hr : s.runMatrix core c = ⟨s.modCore core fun k => { k with acc := k.acc.filter fun e => e.1 / 1024 != c.args.getD 0 0 }, 0, 0, none⟩ := by
      simp [State.runMatrix, h3]
    obtain ⟨u, he, hu⟩ := core_matrixCommandComplete hmq hgrp hrun hsh (by omega) (by omega) hr rfl
    refine ⟨u, he, ?_⟩
    dsimp only
    rw [hu]
    exact ⟨rfl, rfl, rfl, rfl⟩
  · rintro ⟨hmq, hgrp, hrun, -⟩ htile hlost rfl herr
    exact Runs.matrixCommandComplete hmq hgrp hrun (fun h => htile h) hlost herr
  · rintro ⟨hmq, hgrp, hrun, -⟩ h5 va hlost
    exact Runs.matrixCommandComplete_lost hmq hgrp hrun h5 hlost

end Sys2Proof.Machine
end

section
/-!
SUPPORT. Trapped activations: `tret` and `wpset` (24 R451).
-/

namespace Sys2Proof.Machine

section Handles

variable {s : State} {d a w : Nat} {i : Instr} {k : Nat → Out}

theorem Runs.of_withHandle_bad (h : exec i s = s.withHandle w a k) (hs : s.cur.shadow = none) (hl : s.cur.level ≠ .user)
    (hb : handleBad (s.reg a) = true) : Runs i s (Trapped s · 0x0A 0 (s.reg a) s.pc) :=
  Runs.of_trapHere ((h.trans (s.privForm_runs _ _ hs hl)).trans (if_pos hb)) hs

theorem Runs.of_withHandle_other (h : exec i s = s.withHandle w a k) (hs : s.cur.shadow = none) (hl : s.cur.level ≠ .user)
    (hb : handleBad (s.reg a) = false) (hc : s.cur.onControl = false) (hctx : bits (s.reg a) 41 6 ≠ s.cur.ctx) :
    Runs i s (Trapped s · 0x05 0 (s.reg a) s.pc) := by
  have hno : (!s.authority (bits (s.reg a) 41 6)) = true := by simp [State.authority, hc, hctx]
  exact Runs.of_trapHere (((h.trans (s.privForm_runs _ _ hs hl)).trans (if_neg (by simp [hb]))).trans (if_pos hno)) hs

end Handles

/-- A state with a register result over a context's new entry. -/
theorem Runs.of_tretLater {i : Instr} {s : State} {d c : Nat} {e : Nat × Nat}
    (h : exec i s = (s.modCtx c fun y => { y with trets := y.trets ++ [e] }).put 4 d 1 0) (hd : d < 32) :
    Runs i s fun t => t.Holds d 1 0 ∧ t.pc = (s.pc + 4) % 2 ^ 56 ∧ (t.ctx c).trets = (s.ctx c).trets ++ [e] ∧ t.acts = s.acts := by
  obtain ⟨t, ht, hval, hpc, hctx, -, -, hacts⟩ := Runs.of_thaw h hd
  exact ⟨t, ht, hval, hpc, by rw [hctx], hacts⟩

section Named

variable {s : State} {d a imm op : Nat} {x : Act} {out : Bool} {i : Instr}
variable (hs : s.cur.shadow = none) (hl : s.cur.level ≠ .user) (hb : handleBad (s.reg a) = false)
  (ho : s.authority (bits (s.reg a) 41 6) = true)
include hs hl hb ho

/-- `tret` acts on an activation that is not switched out. -/
theorem State.tret_here (ht : s.trapped (s.reg a) = some (x, false))
    (hop : op = 2 → (s.ctx x.ctx).everFrozen = true) :
    s.tret d a op = .next (((s.retire 4).setReg d 1 0).tretOp x.id op) := by
  unfold State.tret
  rw [s.withHandle_runs _ _ _ hs hl hb ho, ht]
  exact (if_neg (by simpa using hop)).trans (if_neg (by decide))

/-- A freeze report of an activation whose context has never been frozen is refused. -/
theorem State.tret_unfrozen (ht : s.trapped (s.reg a) = some (x, out))
    (hf : (s.ctx x.ctx).everFrozen = false) : s.tret d a 2 = s.put 4 d 0 0 := by
  unfold State.tret
  rw [s.withHandle_runs _ _ _ hs hl hb ho, ht]
  exact if_pos ⟨rfl, by simp [hf]⟩

theorem State.tret_none (ht : s.trapped (s.reg a) = none) :
    s.tret d a op = s.put 4 d 0 0 := by
  unfold State.tret
  rw [s.withHandle_runs _ _ _ hs hl hb ho, ht]

/-- `tret` on an activation that is switched out, for which nothing but a freeze report stands. -/
theorem State.tret_out (ht : s.trapped (s.reg a) = some (x, true))
    (hop : op = 2 → (s.ctx x.ctx).everFrozen = true) (hctx : ∀ r ∈ (s.ctx x.ctx).trets, r.1 = x.id → r.2 = 2)
    (hgrp : ∀ g ∈ s.work.groups, ∀ r ∈ g.trets, r.1 = x.id → r.2 = 2) :
    s.tret d a op = if (s.ctx x.ctx).isOut then (s.modCtx x.ctx fun y => { y with trets := y.trets ++ [(x.id, op)] }).put 4 d 1 0
      else (s.tretOp x.id op).put 4 d 1 0 := by
  have hno : ((s.ctx x.ctx).trets ++ s.work.groups.flatMap (·.trets)).any (fun r => r.1 == x.id && r.2 != 2) = false := by
    rw [List.any_eq_false]
    intro r hr
    have : r.1 = x.id → r.2 = 2 := by
      rcases List.mem_append.1 hr with h | h
      · exact hctx r h
      · obtain ⟨g, hg, hrg⟩ := List.mem_flatMap.1 h
        exact hgrp g hg r hrg
    simpa using this
  unfold State.tret
  rw [s.withHandle_runs _ _ _ hs hl hb ho, ht]
  refine (if_neg (by simpa using hop)).trans ((if_pos rfl).trans (if_neg ?_))
  rw [hno]
  decide

theorem Runs.tret_later (he : exec i s = s.tret d a op) (hd : d < 32) (ht : s.trapped (s.reg a) = some (x, true))
    (hctx : ∀ r ∈ (s.ctx x.ctx).trets, r.1 = x.id → r.2 = 2) (hgrp : ∀ g ∈ s.work.groups, ∀ r ∈ g.trets, r.1 = x.id → r.2 = 2)
    (hop : op = 2 → (s.ctx x.ctx).everFrozen = true) :
    Runs i s fun t =>
      ((s.ctx x.ctx).isOut = true → t.Holds d 1 0 ∧ t.pc = (s.pc + 4) % 2 ^ 56
          ∧ (t.ctx x.ctx).trets = (s.ctx x.ctx).trets ++ [(x.id, op)] ∧ t.acts = s.acts)
        ∧ ((s.ctx x.ctx).isOut = false → t = ((s.tretOp x.id op).retire 4).setReg d 1 0) := by
  have h := he.trans (State.tret_out (d := d) hs hl hb ho ht hop hctx hgrp)
  cases hout : (s.ctx x.ctx).isOut with
  | true =>
    obtain ⟨t, e, p⟩ := Runs.of_tretLater (h.trans (if_pos hout)) hd
    exact ⟨t, e, fun _ => p, nofun⟩
  | false => exact ⟨_, h.trans (if_neg (by simp [hout])), nofun, fun _ => rfl⟩

theorem exec_wpset_named (ht : s.trapped (s.reg a) = some (x, out)) :
    exec (.wpset d a imm) s =
      let f := fun (y : Act) => if y.id = x.id then { y with wp := imm * 8 } else y
      if x.parked.isSome then s.put 4 d 0 0
      else if out then (s.mapAway f).put 4 d 1 0
      else .next (((s.retire 4).setReg d 1 0).mapActs f) := by
  show execWpset d a imm s = _
  unfold execWpset
  rw [s.withHandle_runs _ _ _ hs hl hb ho, ht]

end Named

/-- Settles O52, one lemma for each answer of the forms. -/
theorem trapReturn : Obligations.TrapReturn := by
  intro s d a imm x hd hs hl
  have may : (s.cur.onControl = true ∨ bits (s.reg a) 41 6 = s.cur.ctx) → s.authority (bits (s.reg a) 41 6) = true := by
    simp [State.authority]
  have hwp := execWpset.eq_1 d a imm s
  have htret := State.tret.eq_1 s d a
  refine ⟨fun hb => ?_, fun hb hc hctx => ?_, fun ⟨hb, ho⟩ ht => ?_, fun ⟨hb, ho⟩ ht => ?_, fun ⟨hb, ho⟩ ht hctx hgrp => ?_,
    fun ⟨hb, ho⟩ ht => ?_⟩
  · have trap {i : Instr} {w : Nat} {k : Nat → Out} (h : exec i s = s.withHandle w a k) := Runs.of_withHandle_bad h hs hl hb
    exact ⟨trap (htret 0), trap (htret 1), trap (htret 2), trap hwp⟩
  · have trap {i : Instr} {w : Nat} {k : Nat → Out} (h : exec i s = s.withHandle w a k) := Runs.of_withHandle_other h hs hl hb hc hctx
    exact ⟨trap (htret 0), trap (htret 1), trap (htret 2), trap hwp⟩
  · have zero (op : Nat) := State.tret_none (d := d) (op := op) hs hl hb (may ho) ht
    have hwp : exec (.wpset d a imm) s = s.put 4 d 0 0 := by
      show execWpset d a imm s = _
      unfold execWpset
      rw [s.withHandle_runs _ _ _ hs hl hb (may ho), ht]
    exact ⟨Runs.of_put (zero 0) hd, Runs.of_put (zero 1) hd, Runs.of_put (zero 2) hd, Runs.of_put hwp hd⟩
  · have here (op : Nat) := State.tret_here (d := d) (op := op) hs hl hb (may ho) ht
    have hwp := exec_wpset_named (d := d) (imm := imm) hs hl hb (may ho) ht
    exact ⟨⟨_, here 0 nofun, rfl⟩, ⟨_, here 1 nofun, rfl⟩, fun hf => ⟨_, here 2 fun _ => hf, rfl⟩,
      fun hf => Runs.of_put (State.tret_unfrozen hs hl hb (may ho) ht hf) hd,
      fun hp => ⟨_, hwp.trans ((if_neg (by simp [hp])).trans (if_neg (by decide))), rfl⟩,
      fun hp => Runs.of_put (hwp.trans (if_pos hp)) hd⟩
  · exact ⟨Runs.tret_later hs hl hb (may ho) rfl hd ht hctx hgrp nofun, Runs.tret_later hs hl hb (may ho) rfl hd ht hctx hgrp nofun,
      fun hf => Runs.tret_later hs hl hb (may ho) rfl hd ht hctx hgrp fun _ => hf⟩
  · have hwp := exec_wpset_named (d := d) (imm := imm) hs hl hb (may ho) ht
    exact ⟨fun hp => Runs.of_putFrom (hwp.trans ((if_neg (by simp [hp])).trans (if_pos rfl))) hd,
      fun hp => Runs.of_put (hwp.trans (if_pos hp)) hd⟩

end Sys2Proof.Machine
end

section
/-!
SUPPORT. How links move between their states, and what a link that is declared down leaves of itself (26 R457 to R470).
-/

namespace Sys2Proof.Machine

/-! ### What leaves the links as they are -/

/-- What each step of a fold keeps, the fold keeps. -/
theorem State.foldl_keeps {α β : Type} (g : State → β) {f : State → α → State} (h : ∀ t x, g (f t x) = g t) (xs : List α)
    (s : State) : g (xs.foldl f s) = g s := by
  induction xs generalizing s with
  | nil => rfl
  | cons x xs ih => rw [List.foldl_cons, ih, h]

theorem State.links_foldl {α : Type} {f : State → α → State} (h : ∀ t x, (f t x).links = t.links) (xs : List α) (s : State) :
    (xs.foldl f s).links = s.links := State.foldl_keeps State.links h xs s

theorem State.link_congr {s t : State} (h : t.links = s.links) (k : Nat) : t.link k = s.link k := by
  unfold State.link; rw [h]

@[simp] theorem State.links_wrN (s : State) (a n v : Nat) : (s.wrN a n v).links = s.links := rfl
@[simp] theorem State.links_modCur (s : State) (f : Act → Act) : (s.modCur f).links = s.links := rfl
@[simp] theorem State.links_modWork (s : State) (f : Work → Work) : (s.modWork f).links = s.links := rfl
@[simp] theorem State.links_modQueue (s : State) (k : Nat) (f : Queue → Queue) : (s.modQueue k f).links = s.links := rfl
@[simp] theorem State.links_modCtx (s : State) (k : Nat) (f : Ctx → Ctx) : (s.modCtx k f).links = s.links := rfl
@[simp] theorem State.links_modCore (s : State) (k : Nat) (f : Core → Core) : (s.modCore k f).links = s.links := rfl
@[simp] theorem State.links_modCluster (s : State) (k : Nat) (f : Cluster → Cluster) : (s.modCluster k f).links = s.links := rfl
@[simp] theorem State.links_modDev (s : State) (f : Dev → Dev) : (s.modDev f).links = s.links := rfl
@[simp] theorem State.links_modCoh (s : State) (f : Coh → Coh) : (s.modCoh f).links = s.links := rfl
@[simp] theorem State.links_modSched (s : State) (f : Sched → Sched) : (s.modSched f).links = s.links := rfl
@[simp] theorem State.links_mapActs (s : State) (f : Act → Act) : (s.mapActs f).links = s.links := rfl
@[simp] theorem State.links_mapAway (s : State) (f : Act → Act) : (s.mapAway f).links = s.links := rfl
@[simp] theorem State.links_post (s : State) (m : Msg) : (s.post m).links = s.links := rfl
@[simp] theorem State.links_postSup (s : State) (c : Nat) (ws : List Nat) : (s.postSup c ws).links = s.links := rfl
@[simp] theorem State.links_setVr (s : State) (f : FMap Nat → FMap Nat) : (s.setVr f).links = s.links := rfl
@[simp] theorem State.links_setBar (s : State) (k : Nat) (b : Barrier) : (s.setBar k b).links = s.links := rfl

@[simp] theorem State.links_setReg (s : State) (k v t : Nat) : (s.setReg k v t).links = s.links := by
  unfold State.setReg; split_ifs <;> rfl

@[simp] theorem State.links_focusOn (s : State) (id : Nat) : (s.focusOn id).links = s.links := by
  unfold State.focusOn
  refine (apply_ite State.links _ _ _).trans ?_
  cases s.acts.get? id <;> exact ite_self _

theorem State.links_onAct {f : State → State} (h : ∀ t, (f t).links = t.links) (s : State) (id : Nat) :
    (s.onAct id f).links = s.links := by
  unfold State.onAct
  refine (apply_ite State.links _ _ _).trans ?_
  cases s.acts.get? id <;> simp only [h, State.links_focusOn, ite_self]

/-! ### What the end of a shadow leaves as it is -/

/-- The parts of the state below the cores, the contexts and their work: coherence, links, dies, the device, the race record and
the scheduler. -/
def State.fabric (s : State) : Coh × FMap Link × FMap Die × Dev × List Past × Sched :=
  (s.coh, s.links, s.dies, s.dev, s.race, s.sched)

theorem State.fabric_foldl {α : Type} {f : State → α → State} (h : ∀ t x, (f t x).fabric = t.fabric) (xs : List α) (s : State) :
    (xs.foldl f s).fabric = s.fabric := State.foldl_keeps State.fabric h xs s

theorem State.fabric_wrN (s : State) (a n v : Nat) : (s.wrN a n v).fabric = s.fabric := rfl
theorem State.fabric_modCur (s : State) (f : Act → Act) : (s.modCur f).fabric = s.fabric := rfl
theorem State.fabric_modWork (s : State) (f : Work → Work) : (s.modWork f).fabric = s.fabric := rfl
theorem State.fabric_modQueue (s : State) (k : Nat) (f : Queue → Queue) : (s.modQueue k f).fabric = s.fabric := rfl
theorem State.fabric_modCtx (s : State) (k : Nat) (f : Ctx → Ctx) : (s.modCtx k f).fabric = s.fabric := rfl
theorem State.fabric_setActs (s : State) (v : FMap Act) : (s.setActs v).fabric = s.fabric := rfl
theorem State.fabric_setCores (s : State) (v : FMap Core) : (s.setCores v).fabric = s.fabric := rfl
theorem State.fabric_setClusters (s : State) (v : FMap Cluster) : (s.setClusters v).fabric = s.fabric := rfl

/-- What a write to memory keeps, leaving a ready ring keeps. -/
theorem State.ringDrop_keeps {β : Type} (g : State → β) (hm : ∀ t m, g (t.setMem m) = g t) (s : State) (ck i : Nat) :
    g (s.ringDrop ck i) = g s := by
  have hw : ∀ (t : State) (a n v : Nat), g (t.wrN a n v) = g t := fun t a n v => hm t _
  unfold State.ringDrop
  refine (apply_ite g _ _ _).trans ?_
  simp only [hw, State.foldl_keeps g (fun t (p : Nat × Nat) => hw t _ _ _), ite_self]

/-- What a write to memory and the loss of forwards keep, the release of a shadow's records keeps. -/
theorem State.freeShadowRecs_keeps {β : Type} (g : State → β) (hm : ∀ t m, g (t.setMem m) = g t)
    (hc : ∀ (t : State) (c : Nat) (p : Nat × Nat → Bool), g (t.modCtx c fun x => { x with clov := x.clov.filter p }) = g t)
    (s : State) (q : Nat) : g (s.freeShadowRecs q) = g s := by
  have step : ∀ (t : State) (p : Nat × Nat), g ((t.ringDrop p.1 p.2).wrN
      (tcmKey (p.1 / 8192) (p.1 / 8 % 1024) (p.1 % 8) (0x1800 + 64 * p.2 + 12)) 4 0) = g t :=
    fun t p => (hm _ _).trans (State.ringDrop_keeps g hm t _ _)
  unfold State.freeShadowRecs
  refine (apply_ite g _ _ _).trans ?_
  simp only [hc, State.foldl_keeps g step, ite_self]

theorem State.fabric_freeShadowRecs (s : State) (q : Nat) : (s.freeShadowRecs q).fabric = s.fabric :=
  State.freeShadowRecs_keeps State.fabric (fun _ _ => rfl) (fun _ _ _ => rfl) s q

theorem State.fabric_discardShadow (s : State) (q reason : Nat) : (s.discardShadow q reason).fabric = s.fabric := by
  unfold State.discardShadow
  dsimp only
  refine (apply_ite State.fabric _ _ _).trans ?_
  simp only [State.fabric_modWork, State.fabric_setCores]
  split_ifs <;> simp only [State.fabric_modCur, State.fabric_setActs, State.fabric_setClusters, State.fabric_modCtx,
    State.fabric_freeShadowRecs, State.fabric_modQueue]

theorem State.fabric_killShadows (s : State) (p : Queue → Bool) (reason : Nat) : (s.killShadows p reason).fabric = s.fabric :=
  State.fabric_foldl (fun t e => by split_ifs <;> simp only [State.fabric_discardShadow]) _ _

theorem State.fabric_hwWrite (s : State) (k n v : Nat) : (s.hwWrite k n v).fabric = s.fabric := State.fabric_killShadows _ _ _

@[simp] theorem State.links_discardShadow (s : State) (q reason : Nat) : (s.discardShadow q reason).links = s.links :=
  congrArg (·.2.1) (State.fabric_discardShadow s q reason)

@[simp] theorem State.links_killShadows (s : State) (p : Queue → Bool) (reason : Nat) : (s.killShadows p reason).links = s.links :=
  congrArg (·.2.1) (State.fabric_killShadows s p reason)

@[simp] theorem State.links_hwWrite (s : State) (k n v : Nat) : (s.hwWrite k n v).links = s.links :=
  congrArg (·.2.1) (State.fabric_hwWrite s k n v)

@[simp] theorem State.links_log (s : State) (cls sub ctx die link addr : Nat) : (s.log cls sub ctx die link addr).links = s.links := by
  unfold State.log
  dsimp only
  split_ifs <;> simp

@[simp] theorem State.links_putQueueSt (s : State) (q st err : Nat) : (s.putQueueSt q st err).links = s.links := by
  unfold State.putQueueSt
  dsimp only
  split <;> simp

@[simp] theorem State.links_notice (s : State) (c sub tval : Nat) : (s.notice c sub tval).links = s.links := by
  unfold State.notice
  dsimp only
  split_ifs <;> simp

@[simp] theorem State.links_freeze (s : State) (c reason val : Nat) : (s.freeze c reason val).links = s.links := by
  have step : ∀ (t : State) (e : Nat × Queue),
      (if e.2.ctx = c ∧ e.2.st = 1 then t.putQueueSt e.1 2 e.2.err else t).links = t.links := fun t e => by split_ifs <;> simp
  unfold State.freeze
  dsimp only
  split_ifs
  · rfl
  · rw [State.links_notice, State.links_foldl step, State.links_killShadows, State.links_modCtx]

@[simp] theorem State.links_addLate (s : State) (id : Nat) (e : Late) : (s.addLate id e).links = s.links :=
  State.links_onAct (fun t => State.links_modCur t fun a => { a with late := a.late ++ [e] }) s id

@[simp] theorem State.links_flagAct (s : State) (id fl : Nat) : (s.flagAct id fl).links = s.links := by
  unfold State.flagAct
  split_ifs
  · rfl
  · refine State.links_onAct (fun t => ?_) s id
    unfold State.orFlags
    split_ifs <;> rfl

@[simp] theorem State.links_polyDo (s : State) (r : PolyReq) (grant : Nat) : (s.polyDo r grant).links = s.links := by
  unfold State.polyDo
  dsimp only
  split_ifs
  · simp
  · rw [State.links_flagAct, State.links_onAct fun t => State.links_setVr t _]

@[simp] theorem State.links_flushPoly (s : State) (id : Nat) : (s.flushPoly id).links = s.links := by
  unfold State.flushPoly
  cases s.act? id with
  | none => rfl
  | some a =>
    dsimp only
    split_ifs
    · rfl
    · rw [State.links_foldl fun t r => State.links_polyDo t r _, State.links_modCluster]

@[simp] theorem State.links_flushTrapped (s : State) (id : Nat) : (s.flushTrapped id).links = s.links := by
  unfold State.flushTrapped; split_ifs <;> simp

@[simp] theorem State.links_trapMessage (s : State) (cause tval pc : Nat) : (s.trapMessage cause tval pc).links = s.links := by
  unfold State.trapMessage
  dsimp only
  split_ifs <;> simp

@[simp] theorem State.links_trapHere (s : State) (code sub tval : Nat) : (s.trapHere code sub tval).links = s.links := by
  unfold State.trapHere State.trap
  cases s.cur.shadow with
  | none => simp [State.enterTrapWait, State.setWs, State.setPc]
  | some q => simp

/-! ### What a link that is declared down loses (R461, R464, R467) -/

@[simp] theorem State.links_restoreWin (s : State) (w : Win) : (s.restoreWin w).links = s.links :=
  State.links_foldl (fun t r => by split_ifs <;> simp) _ _

@[simp] theorem State.links_loseWrite (s : State) (p : Posted) : (s.loseWrite p).links = s.links := by
  unfold State.loseWrite
  dsimp only
  cases p.cmd with
  | none => split_ifs <;> simp [State.flip]
  | some c => split_ifs <;> simp [State.flip, State.modCmd]

@[simp] theorem State.links_loseReads (s : State) (k : Nat) (a : Act) : (s.loseReads k a).links = s.links := by
  refine State.links_foldl (fun t w => ?_) _ _
  have h : ∀ u : State, ((u.restoreWin w).modCur fun x => { x with wins := x.wins.filter (·.n != w.n) }).links = u.links :=
    fun u => State.links_restoreWin u w
  split_ifs <;> simp [State.links_onAct h]

@[simp] theorem State.links_losePod (s : State) (b sub : Nat) : (s.losePod b sub).links = s.links := by
  unfold State.losePod
  simp only [State.links_setBar, State.links_mapAway, State.links_mapActs]
  refine State.links_foldl (fun t w => ?_) _ _
  rw [State.links_flushTrapped, State.links_onAct fun u => State.links_trapHere u _ _ _]

/-- What a link is when it has been declared down. -/
def Link.declaredDown (l : Link) : Link :=
  { l with st := 0, declared := true, lost := min 65535 (l.lost + l.posted.length), posted := [] }

theorem Link.declaredDown_of_nothing_posted {l : Link} (h : l.posted = []) :
    l.declaredDown = { l with st := 0, declared := true, lost := min 65535 l.lost } := by
  cases l
  subst h
  rfl

/-- The declaration itself, and its record in the error log. -/
def State.declareDown (s : State) (kind idx : Nat) : State :=
  (s.modLink (kind * 256 + idx) Link.declaredDown).log 5 kind 0 0 idx 0

theorem exec_linkDeclaredDown_of_retraining {s : State} {kind idx : Nat} (h : (s.link (kind * 256 + idx)).st = 3) :
    exec (.linkDeclaredDown kind idx) s =
      let u := (s.link (kind * 256 + idx)).posted.foldl State.loseWrite (s.declareDown kind idx)
      let v := if kind = 0 then u else u.allActs.foldl (fun s a => s.loseReads (kind * 256 + idx) a) u
      let w := if kind = 2 then v.poisonPort idx else v
      .next (if kind = 3 then (w.draw.2.podsOver idx).foldl (fun s b => s.losePod b (w.draw.1 % 256)) w.draw.2 else w) :=
  if_neg (not_not_intro h)

theorem links_linkDeclaredDown {s : State} {kind idx : Nat} (h : (s.link (kind * 256 + idx)).st = 3) :
    Runs (.linkDeclaredDown kind idx) s fun t => t.links = (s.modLink (kind * 256 + idx) Link.declaredDown).links := by
  refine ⟨_, exec_linkDeclaredDown_of_retraining h, ?_⟩
  have hdraw : ∀ u : State, u.draw.2.links = u.links := fun _ => rfl
  have hport : ∀ u : State, (u.poisonPort idx).links = u.links := fun _ => rfl
  have hreads : ∀ u : State, (u.allActs.foldl (fun s a => s.loseReads (kind * 256 + idx) a) u).links = u.links :=
    fun u => State.links_foldl (fun t a => State.links_loseReads t _ a) _ u
  have hpods : ∀ u v : State, ((u.podsOver idx).foldl (fun s b => s.losePod b (v.draw.1 % 256)) u).links = u.links :=
    fun u v => State.links_foldl (fun t b => State.links_losePod t b _) _ u
  have hwrites : ((s.link (kind * 256 + idx)).posted.foldl State.loseWrite (s.declareDown kind idx)).links
      = (s.modLink (kind * 256 + idx) Link.declaredDown).links := by
    rw [State.links_foldl State.links_loseWrite, State.declareDown, State.links_log]
  dsimp only
  split_ifs <;> simp only [hpods, hdraw, hport, hreads, hwrites]

/-! ### The moves of a link -/

section Moves

variable {s : State} {i : Instr} {k : Nat} {f : Link → Link}

/-- An event that moves one link. -/
theorem Runs.of_modLink (h : exec i s = .next (s.modLink k f)) :
    Runs i s fun t => t.link k = f (s.link k) ∧ (∀ j, j ≠ k → t.link j = s.link j) ∧ t.setLinks s.links = s :=
  ⟨_, h, State.link_modLink s k f, fun j hj => State.link_modLink_ne s k j f hj, rfl⟩

end Moves

theorem Runs.linkTrained {s : State} {kind idx : Nat} (hi : idx < kindCount kind) (hk : kind < 4)
    (hst : (s.link (kind * 256 + idx)).st = 1 ∨ (s.link (kind * 256 + idx)).st = 3) :
    Runs (.linkTrained kind idx) s fun t => (t.link (kind * 256 + idx)).st = 2 ∧ (t.link (kind * 256 + idx)).fails = 0
      ∧ (t.link (kind * 256 + idx)).posted = (s.link (kind * 256 + idx)).posted
      ∧ (t.link (kind * 256 + idx)).lost = (s.link (kind * 256 + idx)).lost
      ∧ (∀ j, j ≠ kind * 256 + idx → t.link j = s.link j) ∧ t.mem = s.mem := by
  have hbring : exec (.linkTrained kind idx) s = .next (s.bringUp kind (kind * 256 + idx)) :=
    congrArg Host.Outcome.next (if_pos ⟨hi, hk, hst⟩)
  obtain ⟨rate, width, mode, hlinks, hmem⟩ : ∃ rate width mode, (s.bringUp kind (kind * 256 + idx)).links
      = (s.modLink (kind * 256 + idx) fun l => { l with st := 2, fails := 0, declared := false, rate, width, mode }).links
      ∧ (s.bringUp kind (kind * 256 + idx)).mem = s.mem := by
    unfold State.bringUp
    exact ⟨_, _, _, (apply_ite State.links _ _ _).trans (ite_self _), (apply_ite State.mem _ _ _).trans (ite_self _)⟩
  refine ⟨_, hbring, ?_⟩
  simp only [State.link_congr hlinks, State.link_modLink, true_and]
  exact ⟨fun j hj => State.link_modLink_ne s _ j _ hj, hmem⟩

theorem Runs.podBarrierLoss {s : State} {b : Nat} (hb : b < 64) (hw : s.barWaiters (barKey 0 5 0 b) = []) :
    Runs (.podBarrierLoss b) s fun t => t.bar (barKey 0 5 0 b) = {} ∧ ∀ j, j ≠ barKey 0 5 0 b → t.bar j = s.bar j := by
  refine ⟨s.losePod b 3, congrArg Host.Outcome.next (if_pos hb), ?_⟩
  unfold State.losePod
  simp only [hw, List.foldl_nil]
  exact ⟨FMap.getD_put_self _ _ _ _, fun j hj => FMap.getD_put_ne _ _ _ _ _ hj⟩

/-- Settles O57, one lemma for each kind of event. -/
theorem linkEvents : Obligations.LinkEvents := by
  intro s kind idx b die
  refine ⟨Runs.linkTrained, fun h1 h3 => congrArg Host.Outcome.next (if_neg fun h => h.2.2.elim h1 h3),
    fun h1 hf => Runs.of_modLink (i := .linkTrainingTimeout kind idx) (s := s) ((if_neg (not_not_intro h1)).trans (if_neg (Nat.not_le.2 hf))),
    fun h1 hf => ⟨_, (if_neg (not_not_intro h1)).trans (if_pos hf), rfl⟩, fun h1 => if_pos h1,
    fun h2 => ⟨Runs.of_modLink (f := Link.retrain) (congrArg Host.Outcome.next (if_pos h2)),
      Runs.of_modLink (f := Link.retrain) (congrArg Host.Outcome.next (if_pos h2))⟩,
    fun h2 => ⟨congrArg Host.Outcome.next (if_neg h2), congrArg Host.Outcome.next (if_neg h2)⟩,
    fun h0 hd => Runs.of_modLink (i := .linkAutoRetrain kind idx) (s := s) (congrArg Host.Outcome.next (if_pos ⟨h0, hd⟩)),
    fun h => congrArg Host.Outcome.next (if_neg fun hp => h.elim (absurd hp.1) fun hd => absurd hp.2 (by simp [hd])),
    fun h3 => if_pos h3, fun h3 hk hp => ?_, fun h3 => ?_, Runs.podBarrierLoss,
    fun hb => congrArg Host.Outcome.next (if_neg (Nat.not_lt.2 hb)),
    fun h3 => ⟨_, congrArg Host.Outcome.next (if_pos h3), State.die_modDie s die _,
      fun j hj => State.die_modDie_ne s die j _ hj, rfl⟩,
    fun h3 => congrArg Host.Outcome.next (if_neg h3)⟩
  · refine ⟨_, exec_linkDeclaredDown_of_retraining h3, ?_⟩
    subst hk
    simp only [hp, List.foldl_nil, State.declareDown, State.modLink, Link.declaredDown_of_nothing_posted hp]
    rfl
  · obtain ⟨t, ht, hlinks⟩ := links_linkDeclaredDown h3
    refine ⟨t, ht, ?_⟩
    simp only [State.link_congr hlinks, State.link_modLink]
    exact ⟨rfl, rfl, rfl, rfl⟩

end Sys2Proof.Machine
end

section
/-!
SUPPORT. The device: bring-up, the registers of BAR0, power and heat samples, and the DOE mailbox (27 R471 to R478).
-/

namespace Sys2Proof.Machine

/-! ### What a cold reset leaves (R471) -/

/-- Bring-up changes cores, links, free values and the device's own record; of that record neither READY, BOOTERR nor SET. -/
structure BootKeeps (s t : State) : Prop where
  mem : t.mem = s.mem
  cur : t.cur = s.cur
  acts : t.acts = s.acts
  ctxs : t.ctxs = s.ctxs
  work : t.work = s.work
  ready : t.dev.ready = s.dev.ready
  err : t.dev.bootErr = s.dev.bootErr
  devSet : t.dev.devSet = s.dev.devSet
  up : ∀ j, (s.link j).st = 2 → (t.link j).st = 2

namespace BootKeeps

theorem refl (s : State) : BootKeeps s s := ⟨rfl, rfl, rfl, rfl, rfl, rfl, rfl, rfl, fun _ => id⟩

theorem trans {s t u : State} (h : BootKeeps s t) (k : BootKeeps t u) : BootKeeps s u :=
  ⟨k.mem.trans h.mem, k.cur.trans h.cur, k.acts.trans h.acts, k.ctxs.trans h.ctxs, k.work.trans h.work, k.ready.trans h.ready,
    k.err.trans h.err, k.devSet.trans h.devSet, fun j hj => k.up j (h.up j hj)⟩

theorem foldl {α : Type} {f : State → α → State} (h : ∀ s x, BootKeeps s (f s x)) (xs : List α) (s : State) :
    BootKeeps s (xs.foldl f s) := by
  induction xs generalizing s with
  | nil => exact refl s
  | cons x xs ih => exact (h s x).trans (ih _)

theorem modCore (s : State) (k : Nat) (f : Core → Core) : BootKeeps s (s.modCore k f) :=
  ⟨rfl, rfl, rfl, rfl, rfl, rfl, rfl, rfl, fun _ => id⟩

theorem draw (s : State) : BootKeeps s s.draw.2 := ⟨rfl, rfl, rfl, rfl, rfl, rfl, rfl, rfl, fun _ => id⟩

theorem flip (s : State) : BootKeeps s s.flip.2 := ⟨rfl, rfl, rfl, rfl, rfl, rfl, rfl, rfl, fun _ => id⟩

theorem modDev {s : State} {f : Dev → Dev} (hr : (f s.dev).ready = s.dev.ready) (he : (f s.dev).bootErr = s.dev.bootErr)
    (hs : (f s.dev).devSet = s.dev.devSet) : BootKeeps s (s.modDev f) := ⟨rfl, rfl, rfl, rfl, rfl, hr, he, hs, fun _ => id⟩

theorem modLink {s : State} {k : Nat} {f : Link → Link} (h : (s.link k).st = 2 → (f (s.link k)).st = 2) :
    BootKeeps s (s.modLink k f) := by
  refine ⟨rfl, rfl, rfl, rfl, rfl, rfl, rfl, rfl, fun j hj => ?_⟩
  by_cases e : j = k
  · subst e; rw [State.link_modLink]; exact h hj
  · rw [State.link_modLink_ne _ _ _ _ e]; exact hj

end BootKeeps

/-- A link that is brought up is up, and bring-up keeps the rest. -/
theorem bringUp_spec (s : State) (kind k : Nat) : BootKeeps s (s.bringUp kind k) ∧ ((s.bringUp kind k).link k).st = 2 := by
  unfold State.bringUp
  dsimp only
  have h3 := ((BootKeeps.draw s).trans (BootKeeps.draw s.draw.2)).trans (BootKeeps.draw s.draw.2.draw.2)
  have hdev : ∀ (u : State) (f : Dev → Dev), (u.modDev f).link k = u.link k := fun _ _ => rfl
  by_cases h2 : kind = 2
  · rw [if_pos h2]
    refine ⟨(h3.trans (BootKeeps.modLink fun _ => rfl)).trans (BootKeeps.modDev rfl rfl rfl), ?_⟩
    rw [hdev, State.link_modLink]
  · rw [if_neg h2]
    refine ⟨h3.trans (BootKeeps.modLink fun _ => rfl), ?_⟩
    rw [State.link_modLink]

theorem BootKeeps.trainAll (s : State) (kind : Nat) (ks : List Nat) : BootKeeps s (s.trainAll kind ks) :=
  BootKeeps.foldl (fun t _ => (bringUp_spec t kind _).1) ks s

theorem up_trainAll {s : State} {kind i : Nat} {ks : List Nat} (hi : i ∈ ks) :
    ((s.trainAll kind ks).link (kind * 256 + i)).st = 2 := by
  induction ks generalizing s with
  | nil => cases hi
  | cons x ks ih =>
    rcases List.mem_cons.1 hi with rfl | h
    · exact (BootKeeps.trainAll (s.bringUp kind (kind * 256 + i)) kind ks).up _ (bringUp_spec s kind _).2
    · exact ih h

theorem BootKeeps.trainFar (s : State) : BootKeeps s s.trainFar := by
  refine BootKeeps.foldl (fun t i => ?_) _ s
  dsimp only
  split_ifs
  · exact (BootKeeps.flip t).trans (bringUp_spec _ _ _).1
  · exact (BootKeeps.flip t).trans (BootKeeps.modLink id)

theorem BootKeeps.sealEgress (s : State) : BootKeeps s s.sealEgress :=
  have restart (t : State) (d c : Nat) : BootKeeps t (t.restartControl d c) :=
    BootKeeps.foldl (fun u _ => BootKeeps.modCore u _ _) _ t
  (BootKeeps.foldl (fun t d => restart t d ctlCluster) _ s).trans (BootKeeps.foldl (fun t d => restart t d mgmtCluster) _ _)

/-- The state from which bring-up starts. -/
def State.afterReset (s : State) : State := { mem := keepOutside s.mem, sched := { s.sched with snap := [] } }

/-- What step 6 and those before it leave of the machine right after reset. -/
def State.trainedInside (s : State) : State :=
  (s.sealEgress.trainAll 0 (List.range 8)).modDev fun d => { d with heath := heatH, heatf := heatF }

theorem State.link_trainedInside (s : State) (k : Nat) :
    s.trainedInside.link k = (s.sealEgress.trainAll 0 (List.range 8)).link k := State.link_congr (State.links_modDev _ _) k

theorem BootKeeps.trainedInside (s : State) : BootKeeps s s.trainedInside :=
  ((BootKeeps.sealEgress s).trans (BootKeeps.trainAll _ 0 _)).trans (BootKeeps.modDev rfl rfl rfl)

theorem exec_coldReset_zero (s : State) : ∃ (u : State) (f : Dev → Dev),
    exec (.coldReset 0 0) s = .next (u.modDev fun d => { f d with ready := true })
      ∧ BootKeeps (s.afterReset.trainedInside.trainAll 1 [0]) u
      ∧ (∀ d, (f d).bootErr = d.bootErr) ∧ ∀ d, (f d).devSet = d.devSet :=
  ⟨(s.afterReset.trainedInside.trainAll 1 [0]).trainFar.draw.2, fun d =>
    { d with decoders := ((Config.farDecoders (s.afterReset.trainedInside.trainAll 1 [0]).trainFar.draw.1).filter decoderOk).take 16
             uncommitted := Config.farUncommitted (s.afterReset.trainedInside.trainAll 1 [0]).trainFar.draw.1
             persist := (List.range 20).filter Config.portPersistent },
    rfl, (BootKeeps.trainFar _).trans (BootKeeps.draw _), fun _ => rfl, fun _ => rfl⟩

theorem Memory.read_keepOutside_inHbm {m : List Host.Cell} {k : Nat} (h : inHbm k = true) : Memory.read (keepOutside m) k = 0 := by
  refine Memory.read_filter_out m (fun x => inFar x || decide (2 ^ 60 ≤ x ∧ x < 2 ^ 70)) k ?_
  simp only [inHbm, inFar, decide_eq_true_eq, Bool.or_eq_false_iff, decide_eq_false_iff_not] at h ⊢
  omega

theorem Memory.read_keepOutside_inFar {m : List Host.Cell} {k : Nat} (h : inFar k = true) :
    Memory.read (keepOutside m) k = Memory.read m k :=
  Memory.read_filter m (fun x => inFar x || decide (2 ^ 60 ≤ x ∧ x < 2 ^ 70)) k (by simp [h])

theorem Runs.coldReset (s : State) : Runs (.coldReset 0 0) s fun t => t.dev.ready = true ∧ t.dev.bootErr = 0
    ∧ (∀ k, k < 8 → (t.link k).st = 2) ∧ (t.link hostLink).st = 2 ∧ t.allActs = [] ∧ t.ctxs = State.reset.ctxs
    ∧ t.work = State.reset.work ∧ t.dev.devSet = false ∧ (∀ k, inHbm k = true → t.rd k = 0) ∧ ∀ k, inFar k = true → t.rd k = s.rd k := by
  obtain ⟨u, f, hexec, hfar, herr, hset⟩ := exec_coldReset_zero s
  have hhost := BootKeeps.trainAll s.afterReset.trainedInside 1 [0]
  have hall := ((BootKeeps.trainedInside s.afterReset).trans hhost).trans hfar
  have hmem : u.mem = keepOutside s.mem := hall.mem
  have hctxs : u.ctxs = State.reset.ctxs := hall.ctxs
  have hwork : u.work = State.reset.work := hall.work
  have herr0 : u.dev.bootErr = 0 := hall.err
  have hset0 : u.dev.devSet = false := hall.devSet
  have hcur : u.cur = {} := hall.cur
  have hacts : u.acts = [] := hall.acts
  have hup (k : Nat) (h : (s.afterReset.trainedInside.link k).st = 2) : (u.link k).st = 2 := (hhost.trans hfar).up k h
  refine ⟨_, hexec, rfl, ?_, fun k hk => ?_, ?_, ?_, hctxs, hwork, ?_, fun k hk => ?_, fun k hk => ?_⟩
  · exact (herr u.dev).trans herr0
  · refine hup k ?_
    have := up_trainAll (s := s.afterReset.sealEgress) (kind := 0) (List.mem_range.2 hk)
    rwa [Nat.zero_mul, Nat.zero_add, ← State.link_trainedInside] at this
  · exact hfar.up hostLink (up_trainAll (s := s.afterReset.trainedInside) (kind := 1) (List.mem_singleton.2 rfl))
  · show (if u.cur.live then [u.cur] else []) ++ u.acts.vals = []
    rw [hcur, hacts]
    rfl
  · exact (hset u.dev).trans hset0
  · exact (congrArg (Memory.read · k) hmem).trans (Memory.read_keepOutside_inHbm hk)
  · exact (congrArg (Memory.read · k) hmem).trans (Memory.read_keepOutside_inFar hk)

theorem Runs.coldReset_fails {f : Nat × Nat} (hf : f ∈ [(1, 1), (3, 2), (4, 3), (6, 4)]) (s : State) :
    Runs (.coldReset f.1 f.2) s fun t => t.dev.ready = false ∧ t.dev.bootStep = f.1 ∧ t.dev.bootErr = f.2 := by
  have hseal := (BootKeeps.sealEgress s.afterReset).ready
  have hin := (BootKeeps.trainedInside s.afterReset).ready
  simp only [List.mem_cons, List.not_mem_nil, or_false] at hf
  rcases hf with rfl | rfl | rfl | rfl
  · exact ⟨s.afterReset.bootFail 1 1, rfl, rfl, rfl, rfl⟩
  · exact ⟨s.afterReset.sealEgress.bootFail 3 2, rfl, hseal, rfl, rfl⟩
  · exact ⟨s.afterReset.sealEgress.bootFail 4 3, rfl, hseal, rfl, rfl⟩
  · exact ⟨s.afterReset.trainedInside.bootFail 6 4, rfl, hin, rfl, rfl⟩

/-! ### Device registers (R472, R473) -/

/-- Folding a change of one link over distinct links changes each of them once. -/
theorem link_foldl_modLink (g : Nat → Nat) (hg : ∀ i j, g i = g j → i = j) (f : Link → Link) (xs : List Nat) (hx : xs.Nodup)
    (s : State) (i : Nat) : (xs.foldl (fun s i => s.modLink (g i) f) s).link (g i) = if i ∈ xs then f (s.link (g i)) else s.link (g i) := by
  induction xs generalizing s with
  | nil => rfl
  | cons x xs ih =>
    obtain ⟨hnot, hnd⟩ := List.nodup_cons.1 hx
    rw [List.foldl_cons, ih hnd]
    by_cases hi : i = x
    · subst hi
      rw [if_neg hnot, if_pos List.mem_cons_self, State.link_modLink]
    · rw [State.link_modLink_ne _ _ _ _ fun h => hi (hg _ _ h)]
      simp [hi]

theorem dev_foldl_modLink (g : Nat → Nat) (f : Link → Link) (xs : List Nat) (s : State) :
    (xs.foldl (fun s i => s.modLink (g i) f) s).dev = s.dev := by
  induction xs generalizing s with
  | nil => rfl
  | cons x xs ih => rw [List.foldl_cons, ih]; rfl

theorem Runs.devnumWrite {s : State} {v : Nat} (hr : s.dev.ready = true) (hs : s.dev.devSet = false) (hv : v ≤ 431) :
    Runs (.devnumWrite v) s fun t => t.dev = { s.dev with devnum := v, devSet := true }
      ∧ ∀ i, i < 18 → t.link (frerathLink i) = (if (s.link (frerathLink i)).st = 0 then { s.link (frerathLink i) with st := 1 }
          else s.link (frerathLink i)) := by
  have hgo : ¬ (!s.dev.ready || s.dev.devSet || decide (431 < v)) = true := by simp [hr, hs, hv]
  refine ⟨_, congrArg Host.Outcome.next (if_neg hgo), (dev_foldl_modLink _ _ _ _).trans rfl, fun i hi => ?_⟩
  rw [link_foldl_modLink frerathLink (fun i j h => Nat.add_left_cancel h) _ _ List.nodup_range, if_pos (List.mem_range.2 hi)]
  rfl

theorem exec_devnumWrite_refused {s : State} {v : Nat} (h : s.dev.ready = false ∨ s.dev.devSet = true ∨ 431 < v) :
    exec (.devnumWrite v) s = .next s := by
  have hno : (!s.dev.ready || s.dev.devSet || decide (431 < v)) = true := by
    rcases h with h | h | h <;> simp [h]
  exact congrArg Host.Outcome.next (if_pos hno)

section Registers

variable {s : State} {off v : Nat}

theorem exec_registerWrite_ignored (h : (!s.dev.ready || off % 8 != 0) = true) : exec (.registerWrite off v) s = .next s :=
  congrArg Host.Outcome.next (if_pos h)

/-- An event that writes the device's own record. -/
theorem Runs.of_modDev {i : Instr} {f : Dev → Dev} (h : exec i s = .next (s.modDev f)) :
    Runs i s fun t => t.dev = f s.dev ∧ t.setDev s.dev = s := ⟨_, h, rfl, rfl⟩

/-- An aligned write of BAR0 once the device is ready. -/
theorem exec_registerWrite_ready (hr : s.dev.ready = true) (hoff : off % 8 = 0) :
    exec (.registerWrite off v) s = .next (
      if off = 0x10 then s.setDevnum (v % 2 ^ 64)
      else if off = 0x18 then s.modDev fun d => { d with pcap := min 3200 (max 800 (v % 2 ^ 64 % 4096)) }
      else if off = 0x30 then s.modDev fun d => { d with awake := v % 2 ^ 64 }
      else if off = 0x38 then s.hostReplay (bits (v % 2 ^ 64) 32 6) (v % 2 ^ 64) (bit (v % 2 ^ 64) 38)
      else if off = 0x58 then s.modDev fun d => { d with logBase := bits (v % 2 ^ 64) 5 51 * 32 + v % 2 ^ 64 / 2 ^ 56 * 2 ^ 56 }
      else if off = 0x68 then s.modDev fun d => { d with logTail := v % 2 ^ 64 }
      else if off = 0x70 then s.modDev fun d => { d with logDrop := if bit (v % 2 ^ 64) 0 then 0 else d.logDrop }
      else if 0x10000 ≤ off ∧ off < 0x12000 then s.ringDoor ((off - 0x10000) / 8) (v % 2 ^ 64)
      else if 0x20000 ≤ off ∧ off < 0x20000 + 8 * 432 then
        s.modDev fun d => { d with route := d.route.put ((off - 0x20000) / 8) (v % 2 ^ 64 % 2 ^ 18) }
      else if 0x30000 ≤ off ∧ off < 0x30000 + 64 * 432 then
        s.modDev fun d => { d with filter := d.filter.put ((off - 0x30000) / 8) (filterWord (off - 0x30000) (v % 2 ^ 64)) }
      else if 0x40000 ≤ off ∧ off < 0x40000 + 8 * 64 then
        s.modDev fun d => { d with pbroot := d.pbroot.put ((off - 0x40000) / 8) (v % 2 ^ 64 % 512) }
      else s) := congrArg Host.Outcome.next (if_neg (by simp [hr, hoff]))

/-- A write above the single registers goes to the doorbells or to a table. -/
theorem exec_registerWrite_table (hr : s.dev.ready = true) (hoff : off % 8 = 0) (h : 0x10000 ≤ off) :
    exec (.registerWrite off v) s = .next (
      if 0x10000 ≤ off ∧ off < 0x12000 then s.ringDoor ((off - 0x10000) / 8) (v % 2 ^ 64)
      else if 0x20000 ≤ off ∧ off < 0x20000 + 8 * 432 then
        s.modDev fun d => { d with route := d.route.put ((off - 0x20000) / 8) (v % 2 ^ 64 % 2 ^ 18) }
      else if 0x30000 ≤ off ∧ off < 0x30000 + 64 * 432 then
        s.modDev fun d => { d with filter := d.filter.put ((off - 0x30000) / 8) (filterWord (off - 0x30000) (v % 2 ^ 64)) }
      else if 0x40000 ≤ off ∧ off < 0x40000 + 8 * 64 then
        s.modDev fun d => { d with pbroot := d.pbroot.put ((off - 0x40000) / 8) (v % 2 ^ 64 % 512) }
      else s) := by
  rw [exec_registerWrite_ready hr hoff, if_neg (show off ≠ 0x10 by omega), if_neg (show off ≠ 0x18 by omega),
    if_neg (show off ≠ 0x30 by omega), if_neg (show off ≠ 0x38 by omega), if_neg (show off ≠ 0x58 by omega),
    if_neg (show off ≠ 0x68 by omega), if_neg (show off ≠ 0x70 by omega)]

theorem exec_registerWrite_doorbell (hr : s.dev.ready = true) {q : Nat} (hq : q < 1024) :
    exec (.registerWrite (0x10000 + 8 * q) v) s = .next (s.ringDoor q (v % 2 ^ 64)) := by
  rw [exec_registerWrite_table hr (by omega) (by omega), if_pos (by omega), show (0x10000 + 8 * q - 0x10000) / 8 = q by omega]

theorem exec_registerWrite_route (hr : s.dev.ready = true) {i : Nat} (hi : i < 432) :
    exec (.registerWrite (0x20000 + 8 * i) v) s = .next (s.modDev fun d => { d with route := d.route.put i (v % 2 ^ 64 % 2 ^ 18) }) := by
  rw [exec_registerWrite_table hr (by omega) (by omega), if_neg (by omega), if_pos (by omega),
    show (0x20000 + 8 * i - 0x20000) / 8 = i by omega]

theorem exec_registerWrite_pbroot (hr : s.dev.ready = true) {i : Nat} (hi : i < 64) :
    exec (.registerWrite (0x40000 + 8 * i) v) s = .next (s.modDev fun d => { d with pbroot := d.pbroot.put i (v % 2 ^ 64 % 512) }) := by
  rw [exec_registerWrite_table hr (by omega) (by omega), if_neg (by omega), if_neg (by omega), if_neg (by omega), if_pos (by omega),
    show (0x40000 + 8 * i - 0x40000) / 8 = i by omega]

theorem exec_registerWrite_pcap (hr : s.dev.ready = true) : exec (.registerWrite 0x18 v) s =
    .next (s.modDev fun d => { d with pcap := min 3200 (max 800 (v % 2 ^ 64 % 4096)) }) := exec_registerWrite_ready hr rfl

theorem exec_registerWrite_awake (hr : s.dev.ready = true) :
    exec (.registerWrite 0x30 v) s = .next (s.modDev fun d => { d with awake := v % 2 ^ 64 }) := exec_registerWrite_ready hr rfl

theorem exec_registerWrite_logTail (hr : s.dev.ready = true) :
    exec (.registerWrite 0x68 v) s = .next (s.modDev fun d => { d with logTail := v % 2 ^ 64 }) := exec_registerWrite_ready hr rfl

theorem exec_registerWrite_logDrop (hr : s.dev.ready = true) : exec (.registerWrite 0x70 v) s =
    .next (s.modDev fun d => { d with logDrop := if (v % 2 ^ 64).testBit 0 then 0 else d.logDrop }) := by
  rw [← bit_eq_testBit]
  exact exec_registerWrite_ready hr rfl

end Registers

/-! ### Power and heat (R474, R475) -/

/-- Writing an error record changes the log's registers and adds MSI-X messages. -/
theorem dev_log (s : State) (cls sub ctx die link addr : Nat) : ∃ head drop ms,
    (s.log cls sub ctx die link addr).dev = { s.dev with logHead := head, logDrop := drop, msix := ms ++ s.dev.msix } := by
  have hw (k n v : Nat) : (s.hwWrite k n v).dev = s.dev := congrArg (·.2.2.2.1) (State.fabric_hwWrite s k n v)
  unfold State.log
  dsimp only
  split_ifs
  · exact ⟨_, _, [], rfl⟩
  · exact ⟨_, _, [0], rfl⟩
  · refine ⟨s.dev.logHead + 1, s.dev.logDrop, [0], ?_⟩
    simp only [State.modDev, State.setDev_dev, hw]
    rfl

section Samples

variable {s : State} {draw : Nat}

theorem signalFrom_same {d e : Dev} (h1 : d.throt = e.throt) (h2 : d.capped = e.capped) (h3 : d.trip = e.trip) :
    d.signalFrom e = d := if_pos ⟨h1, h2, h3⟩

/-- The device's record after a sample above the cap. -/
def Dev.overCap (d : Dev) (draw : Nat) : Dev :=
  { d with power := draw % 4096, below := 0, clock := max 800 (d.clock - 25), capped := d.capped || !decide (825 ≤ d.clock) }

theorem exec_powerSample_above (h : s.dev.pcap < draw) : exec (.powerSample draw) s =
    .next (if !decide (825 ≤ s.dev.clock) && !s.dev.capped
      then (s.modDev fun _ => (s.dev.overCap draw).signalFrom s.dev).log 7 0 0 0 0 0
      else s.modDev fun _ => (s.dev.overCap draw).signalFrom s.dev) := if_pos h

theorem Runs.powerSample_met (h : s.dev.pcap < draw) (hc : s.dev.capped = true ∨ 825 ≤ s.dev.clock) :
    Runs (.powerSample draw) s fun t => t.dev.clock = max 800 (s.dev.clock - 25) ∧ t.dev.power = draw % 4096
      ∧ t.dev.capped = s.dev.capped ∧ t.setDev s.dev = s := by
  have hcap : (s.dev.overCap draw).capped = s.dev.capped := by
    rcases hc with hc | hc <;> simp [Dev.overCap, hc]
  have hlog : ¬ (!decide (825 ≤ s.dev.clock) && !s.dev.capped) = true := by
    rcases hc with hc | hc <;> simp [hc]
  refine ⟨_, (exec_powerSample_above h).trans (congrArg Host.Outcome.next (if_neg hlog)), ?_⟩
  simp only [signalFrom_same (d := s.dev.overCap draw) (e := s.dev) rfl hcap rfl]
  exact ⟨rfl, rfl, hcap, rfl⟩

theorem Runs.powerSample_capped (h : s.dev.pcap < draw) (hc : s.dev.clock < 825) (hn : s.dev.capped = false) :
    Runs (.powerSample draw) s fun t => t.dev.capped = true ∧ 1 ∈ t.dev.msix := by
  have hlog : (!decide (825 ≤ s.dev.clock) && !s.dev.capped) = true := by simp [hc, hn]
  have hcap : (s.dev.overCap draw).capped = true := by simp [Dev.overCap, hc]
  have hsig : (s.dev.overCap draw).signalFrom s.dev = { s.dev.overCap draw with msix := 1 :: (s.dev.overCap draw).msix } :=
    if_neg fun hp => by simp [hcap, hn] at hp
  refine ⟨_, (exec_powerSample_above h).trans (congrArg Host.Outcome.next (if_pos hlog)), ?_⟩
  rw [hsig]
  obtain ⟨head, drop, ms, hd⟩ := dev_log (s.modDev fun _ => { s.dev.overCap draw with msix := 1 :: (s.dev.overCap draw).msix }) 7 0 0 0 0 0
  dsimp only at hd ⊢
  rw [hd]
  exact ⟨hcap, List.mem_append_right ms List.mem_cons_self⟩

theorem Runs.powerSample_below (h : draw ≤ s.dev.pcap) : Runs (.powerSample draw) s fun t =>
    let n := if draw + 50 ≤ s.dev.pcap then s.dev.below + 1 else 0
    t.dev = { s.dev with power := draw % 4096, below := if 100 ≤ n then 0 else n
                         clock := if 100 ≤ n then min 1900 (s.dev.clock + 25) else s.dev.clock } ∧ t.setDev s.dev = s := by
  refine ⟨_, if_neg (Nat.not_lt.2 h), ?_, rfl⟩
  simp only [State.modDev, State.setDev_dev, decide_eq_true_eq]

/-- The temperature fields of the device's record. -/
def Dev.heat (d : Dev) : Nat × Bool × Bool × Nat := (d.temp, d.throt, d.trip, d.tclock)

theorem heat_log (s : State) (cls sub ctx die link addr : Nat) : (s.log cls sub ctx die link addr).dev.heat = s.dev.heat := by
  obtain ⟨head, drop, ms, h⟩ := dev_log s cls sub ctx die link addr
  rw [h]; rfl

theorem heat_signalFrom (d e : Dev) : (d.signalFrom e).heat = d.heat := by
  unfold Dev.signalFrom; split_ifs <;> rfl

theorem Runs.thermalSample (s : State) (t0 t1 t2 t3 : Nat) : Runs (.thermalSample t0 t1 t2 t3) s fun t =>
    t.dev.temp = max (max t0 t1) (max t2 t3) % 256 ∧ t.dev.throt = decide (100 ≤ max (max t0 t1) (max t2 t3))
      ∧ t.dev.trip = (s.dev.trip || decide (110 ≤ max (max t0 t1) (max t2 t3)))
      ∧ (100 ≤ max (max t0 t1) (max t2 t3) → t.dev.tclock = max 800 (s.dev.tclock - 25)) := by
  generalize hh : max (max t0 t1) (max t2 t3) = hot
  have key : Runs (.thermalSample t0 t1 t2 t3) s fun t => t.dev.heat =
      (hot % 256, decide (100 ≤ hot), (s.dev.trip || decide (110 ≤ hot)),
        if decide (100 ≤ hot) then max 800 (s.dev.tclock - 25)
        else if decide (10 ≤ if hot < 95 then s.dev.cool + 1 else 0) then min 1900 (s.dev.tclock + 25) else s.dev.tclock) := by
    refine ⟨_, rfl, ?_⟩
    rw [hh]
    split_ifs <;> simp only [heat_log, State.modDev, State.setDev_dev, heat_signalFrom] <;> simp_all [Dev.heat]
  obtain ⟨t, ht, hheat⟩ := key
  exact ⟨t, ht, congrArg (·.1) hheat, congrArg (·.2.1) hheat, congrArg (·.2.2.1) hheat,
    fun h => (congrArg (·.2.2.2) hheat).trans (if_pos (decide_eq_true h))⟩

end Samples

/-- Settles O58, one lemma for each row. -/
theorem deviceSteps : Obligations.DeviceSteps := by
  intro s v off draw t0 t1 t2 t3 nonce ctx ty len
  refine ⟨Runs.coldReset s, fun f hf => Runs.coldReset_fails hf s, Runs.devnumWrite, exec_devnumWrite_refused,
    fun hr => exec_registerWrite_ignored (by simp [hr]), fun ho => exec_registerWrite_ignored (by simp [ho]),
    fun hr => Runs.of_modDev (exec_registerWrite_pcap hr), fun hr => Runs.of_modDev (exec_registerWrite_awake hr),
    fun hr => Runs.of_modDev (exec_registerWrite_logTail hr), fun hr => Runs.of_modDev (exec_registerWrite_logDrop hr),
    fun i hi hr => Runs.of_modDev (exec_registerWrite_route hr hi), fun i hi hr => Runs.of_modDev (exec_registerWrite_pbroot hr hi),
    fun q hq hr => ⟨_, exec_registerWrite_doorbell hr hq, rfl⟩,
    Runs.powerSample_met, Runs.powerSample_capped, Runs.powerSample_below, Runs.thermalSample s t0 t1 t2 t3,
    Runs.of_modDev (i := .doeIdent) (s := s) rfl, Runs.of_modDev (i := .doeReport nonce ctx) (s := s) rfl,
    fun h1 h2 => Runs.of_modDev (i := .doeInvalidObject ty len) (s := s) (congrArg Host.Outcome.next (if_neg ?_))⟩
  rintro (⟨rfl, rfl⟩ | ⟨rfl, rfl⟩)
  · exact h1.elim (absurd rfl) (absurd rfl)
  · exact h2.elim (absurd rfl) (absurd rfl)

end Sys2Proof.Machine
end

section
/-!
SUPPORT. The end of a context's reset, the operations on its queues, and the writes of CARVE and SHALLOT (24 R446, 16 R330, 06 R139).
-/

namespace Sys2Proof.Machine

/-! ### What the end of a shadow leaves of a queue and of a context -/

/-- The state and the error code of a queue. -/
def State.queueSt (s : State) (q : Nat) : Nat × Nat := ((s.queue q).st, (s.queue q).err)

/-- The allotment of a context. -/
def State.shallotOf (s : State) (c : Nat) : Nat := (s.ctx c).shallot

theorem queueSt_modQueue {s : State} {q : Nat} {f : Queue → Queue} (h : ∀ x, ((f x).st, (f x).err) = (x.st, x.err)) (j : Nat) :
    (s.modQueue q f).queueSt j = s.queueSt j := by
  unfold State.queueSt
  by_cases e : j = q
  · subst e; rw [State.queue_modQueue]; exact h _
  · rw [State.queue_modQueue_ne _ _ _ _ e]

theorem shallotOf_modCtx {s : State} {c : Nat} {f : Ctx → Ctx} (h : ∀ x, (f x).shallot = x.shallot) (j : Nat) :
    (s.modCtx c f).shallotOf j = s.shallotOf j := by
  unfold State.shallotOf
  by_cases e : j = c
  · subst e; rw [State.ctx_modCtx]; exact h _
  · rw [State.ctx_modCtx_ne _ _ _ _ e]

/-- Discarding a shadow keeps what a projection reads that depends on neither memory nor activations, cores and clusters, and that
the counters, the shadow and the groups of a launch do not touch. -/
theorem State.discardShadow_keeps {β : Type} (g : State → β) (hm : ∀ t m, g (t.setMem m) = g t)
    (hcl : ∀ t v, g (t.setClusters v) = g t) (hco : ∀ t v, g (t.setCores v) = g t) (hac : ∀ t v, g (t.setActs v) = g t)
    (hcu : ∀ t v, g (t.setCur v) = g t)
    (hc : ∀ (t : State) (c : Nat) (p : Nat × Nat → Bool), g (t.modCtx c fun x => { x with clov := x.clov.filter p }) = g t)
    (hd : ∀ (t : State) (c q l : Nat), g (t.modCtx c fun x => x.dropShadow q l) = g t)
    (hq : ∀ (t : State) (q r : Nat), g (t.modQueue q fun x => { (x.count r) with shadow := {} }) = g t)
    (hw : ∀ (t : State) (f : Work → Work), (∀ w, (f w).queues = w.queues) → g (t.modWork f) = g t)
    (s : State) (q reason : Nat) : g (s.discardShadow q reason) = g s := by
  have hmc : ∀ (t : State) (f : Act → Act), g (t.modCur f) = g t := fun t f => hcu t _
  unfold State.discardShadow
  dsimp only
  refine (apply_ite g _ _ _).trans ?_
  refine (if_congr Iff.rfl rfl (Eq.trans (hw _ _ fun w => ?_) ?_)).trans (ite_self (g s))
  · rfl
  · rw [hco, hco]
    split_ifs
    · rw [hmc, hac, hcl, hd, State.freeShadowRecs_keeps g hm hc, hq]
    · rw [hac, hcl, hd, State.freeShadowRecs_keeps g hm hc, hq]

theorem queueSt_modWork {s : State} {f : Work → Work} (h : ∀ w, (f w).queues = w.queues) (j : Nat) :
    (s.modWork f).queueSt j = s.queueSt j := by
  unfold State.queueSt State.queue State.modWork
  rw [State.setWork_work, h]

theorem queueSt_discardShadow (s : State) (q reason j : Nat) : (s.discardShadow q reason).queueSt j = s.queueSt j := by
  refine State.discardShadow_keeps (fun t => t.queueSt j) ?_ ?_ ?_ ?_ ?_ ?_ ?_ ?_ ?_ s q reason
  · exact fun _ _ => rfl
  · exact fun _ _ => rfl
  · exact fun _ _ => rfl
  · exact fun _ _ => rfl
  · exact fun _ _ => rfl
  · exact fun _ _ _ => rfl
  · exact fun _ _ _ _ => rfl
  · exact fun t k r => queueSt_modQueue (s := t) (f := fun x => { (x.count r) with shadow := {} }) (fun _ => rfl) j
  · exact fun _ _ h => queueSt_modWork h j

theorem shallotOf_discardShadow (s : State) (q reason c : Nat) : (s.discardShadow q reason).shallotOf c = s.shallotOf c := by
  refine State.discardShadow_keeps (fun t => t.shallotOf c) ?_ ?_ ?_ ?_ ?_ ?_ ?_ ?_ ?_ s q reason
  · exact fun _ _ => rfl
  · exact fun _ _ => rfl
  · exact fun _ _ => rfl
  · exact fun _ _ => rfl
  · exact fun _ _ => rfl
  · exact fun t k p => shallotOf_modCtx (s := t) (f := fun x => { x with clov := x.clov.filter p }) (fun _ => rfl) c
  · exact fun t k q l => shallotOf_modCtx (s := t) (f := fun x => x.dropShadow q l) (fun _ => rfl) c
  · exact fun _ _ _ => rfl
  · exact fun _ _ _ => rfl

theorem State.killShadows_keeps {β : Type} (g : State → β) (h : ∀ t q r, g (State.discardShadow t q r) = g t) (s : State)
    (p : Queue → Bool) (reason : Nat) : g (s.killShadows p reason) = g s :=
  State.foldl_keeps g (fun t e => by split_ifs <;> simp only [h]) _ _

theorem queueSt_hwWrite (s : State) (k n v j : Nat) : (s.hwWrite k n v).queueSt j = s.queueSt j :=
  State.killShadows_keeps (·.queueSt j) (fun t q r => queueSt_discardShadow t q r j) _ _ _

/-- An open or halted queue gets its new state and error code. -/
theorem queueSt_putQueueSt (s : State) (q st err : Nat) (h : st ≠ 0) : (s.putQueueSt q st err).queueSt q = (st, err) := by
  have hput : ((s.modQueue q fun x => { x with st := st, err := err }).modWork fun w => { w with
      queues := w.queues.mapV fun _ x => if st = 0 ∧ x.waits = some q then { x with waits := none, cancelled := 2 } else x }).queueSt q
        = (st, err) := by
    have hid : ∀ x : Queue, (if st = 0 ∧ x.waits = some q then { x with waits := none, cancelled := 2 } else x) = x :=
      fun x => if_neg fun hp => h hp.1
    simp only [hid]
    unfold State.queueSt State.queue State.modWork State.modQueue State.modWork
    simp [FMap.getD, FMap.get?_mapV]
  unfold State.putQueueSt
  dsimp only
  split
  · exact hput
  · rw [queueSt_hwWrite]; exact hput

/-! ### The operations on queues (R330) -/

section Queues

variable {s u : State} {c q r : Nat}

theorem Runs.of_setQres {i : Instr} {v : Nat} (h : exec i s = .next (s.setQres c v)) : Runs i s fun t =>
    t.ctx c = { s.ctx c with qres := v } ∧ t.work = s.work ∧ t.mem = s.mem := ⟨_, h, State.setQres_spec s c v⟩

theorem exec_qcmdOpen_of_ok (h : s.qOpen c q 0 = .ok (r, u)) : exec (.qcmdOpen c q) s = .next (u.setQres c r) := by
  show Host.Outcome.next (s.qOpenStep c q) = _
  unfold State.qOpenStep
  rw [h]

theorem exec_qcmd_of_empty (h : (s.ctx c).st = 0) : exec (.qcmdOpen c q) s = .next (s.setQres c 4)
    ∧ exec (.qcmdHalt c q) s = .next (s.setQres c 4) ∧ exec (.qcmdResume c q) s = .next (s.setQres c 4)
    ∧ exec (.qcmdClose c q) s = .next (s.setQres c 4) := by
  have hh : s.qHalt c q = (4, s) := if_pos h
  have hr : s.qResume c q = (4, s) := if_pos h
  have hc : s.qClose c q = (4, s) := if_pos h
  refine ⟨exec_qcmdOpen_of_ok (if_pos h), ?_, ?_, ?_⟩
  · show Host.Outcome.next ((s.qHalt c q).2.setQres c (s.qHalt c q).1) = _
    rw [hh]
  · show Host.Outcome.next ((s.qResume c q).2.setQres c (s.qResume c q).1) = _
    rw [hr]
  · show Host.Outcome.next ((s.qClose c q).2.setQres c (s.qClose c q).1) = _
    rw [hc]

theorem exec_qcmdHalt_of {n : Nat} (h : s.qHalt c q = (n, u)) : exec (.qcmdHalt c q) s = .next (u.setQres c n) := by
  show Host.Outcome.next ((s.qHalt c q).2.setQres c (s.qHalt c q).1) = _
  rw [h]

theorem exec_qcmdResume_of {n : Nat} (h : s.qResume c q = (n, u)) : exec (.qcmdResume c q) s = .next (u.setQres c n) := by
  show Host.Outcome.next ((s.qResume c q).2.setQres c (s.qResume c q).1) = _
  rw [h]

theorem exec_qcmdClose_of {n : Nat} (h : s.qClose c q = (n, u)) : exec (.qcmdClose c q) s = .next (u.setQres c n) := by
  show Host.Outcome.next ((s.qClose c q).2.setQres c (s.qClose c q).1) = _
  rw [h]

theorem Runs.qcmdResume (h0 : (s.ctx c).st ≠ 0) (hx : (s.queue q).ctx = c) (h2 : (s.queue q).st = 2) :
    Runs (.qcmdResume c q) s fun t => (t.queue q).st = 1 ∧ (t.queue q).err = 0 ∧ (t.ctx c).qres = 0 := by
  refine ⟨_, exec_qcmdResume_of ((if_neg h0).trans (if_neg fun h => h.elim (absurd hx) (absurd h2))), ?_⟩
  have h := queueSt_putQueueSt (s.modQueue q fun y =>
    { y with stalled := if (s.ctx c).parked.any fun p => p.who == 6 && p.id == q then y.stalled else none }) q 1 0 (by decide)
  exact ⟨congrArg (·.1) h, congrArg (·.2) h, congrArg Ctx.qres (State.ctx_modCtx _ c _)⟩

end Queues

/-! ### CARVE and SHALLOT -/

section Carve

variable {s : State} {die v c : Nat}

theorem exec_carveWrite_ignored (h : 4 ≤ die ∨ 24 < v % 32 ∨ v % 32 = (s.die die).carve ∨ s.dieRuns die = true) :
    exec (.carveWrite die v) s = .next s := by
  by_cases hd : die < 4
  · have hno : 24 < v % 32 ∨ v % 32 = (s.die die).carve ∨ s.dieRuns die = true := h.resolve_left (Nat.not_le.2 hd)
    exact congrArg Host.Outcome.next ((if_pos hd).trans (if_pos hno))
  · exact congrArg Host.Outcome.next (if_neg hd)

theorem Runs.carveWrite (hd : die < 4) (hv : v % 32 ≤ 24) (hne : v % 32 ≠ (s.die die).carve) (hrun : s.dieRuns die = false) :
    Runs (.carveWrite die v) s fun t =>
      let u := s.dropSlices die (min (s.die die).carve (v % 32)) (max (s.die die).carve (v % 32))
      (t.die die).carve = v % 32 ∧ (∀ i, i ≠ die → t.die i = u.die i) ∧ t.coh = u.coh
        ∧ ∀ k, t.rd k = if sramKey die 0 ≤ k ∧ k < sramKey die (2 ^ 26) then 0 else u.rd k := by
  have hgo : ¬ (24 < v % 32 ∨ v % 32 = (s.die die).carve ∨ s.dieRuns die = true) := by
    simp only [not_or]
    exact ⟨by omega, hne, by simp [hrun]⟩
  refine ⟨_, congrArg Host.Outcome.next ((if_pos hd).trans (if_neg hgo)), ?_⟩
  beta_reduce
  intro u
  refine ⟨congrArg Die.carve (State.die_modDie _ die _), fun i hi => State.die_modDie_ne _ die i _ hi, rfl, fun k => ?_⟩
  show Memory.read (Memory.zero u.mem (sramKey die 0) (sramKey die (2 ^ 26))) k = _
  unfold Memory.zero
  split_ifs with hk
  · exact Memory.read_filter_out u.mem (fun a => decide (a < sramKey die 0 ∨ sramKey die (2 ^ 26) ≤ a)) k (decide_eq_false (by omega))
  · exact Memory.read_filter u.mem (fun a => decide (a < sramKey die 0 ∨ sramKey die (2 ^ 26) ≤ a)) k (decide_eq_true (by omega))

/-- Whether a value of SHALLOT is refused. -/
def State.shallotBad (s : State) (c v : Nat) : Prop :=
  ∃ d, d < 4 ∧ (32 < bits v (6 * d) 6
    ∨ 48 < s.ctxs.foldl (fun n e => if e.1 = c then n else n + bits e.2.shallot (6 * d) 6) 0 + bits v (6 * d) 6)

theorem shallotBad_iff : ((List.range 4).any fun d => decide (32 < bits v (6 * d) 6
    ∨ 48 < s.ctxs.foldl (fun n e => if e.1 = c then n else n + bits e.2.shallot (6 * d) 6) 0 + bits v (6 * d) 6)) = true
      ↔ s.shallotBad c v := by
  simp only [List.any_eq_true, List.mem_range, decide_eq_true_eq, State.shallotBad]

theorem exec_shallotWrite_ignored (h : s.shallotBad c v) : exec (.shallotWrite c v) s = .next s :=
  congrArg Host.Outcome.next (if_pos (shallotBad_iff.2 h))

theorem Runs.shallotWrite (h : ¬ s.shallotBad c v) : Runs (.shallotWrite c v) s fun t => (t.ctx c).shallot = v % 2 ^ 24 :=
  ⟨_, congrArg Host.Outcome.next (if_neg fun hp => h (shallotBad_iff.1 hp)),
    (State.killShadows_keeps (·.shallotOf c) (fun t q r => shallotOf_discardShadow t q r c) _ _ _).trans
      (congrArg Ctx.shallot (State.ctx_modCtx s c _))⟩

end Carve

/-- Settles O55, one lemma for each row. -/
theorem contextEvents : Obligations.ContextEvents := by
  intro s u c q v die r
  refine ⟨fun h6 => ⟨_, congrArg Host.Outcome.next (if_pos h6), ?_, fun i hi => ?_, rfl⟩,
    fun h6 => congrArg Host.Outcome.next (if_neg h6), fun _ h => ⟨_, exec_qcmdOpen_of_ok h, ?_⟩,
    fun h0 hx h1 => ⟨_, exec_qcmdHalt_of ((if_neg h0).trans (if_neg fun h => h.elim (absurd hx) (absurd h1))), rfl⟩,
    fun h0 h => ?_, fun h0 => ?_, Runs.qcmdResume, fun h0 h => ?_,
    fun h0 hx hs ht => ⟨_, exec_qcmdClose_of ((if_neg h0).trans (if_neg fun h => h.elim (absurd hx) (Or.rec hs (absurd ht)))), rfl⟩,
    fun h0 h => ?_, Runs.carveWrite, exec_carveWrite_ignored, fun h => Runs.shallotWrite ?_, exec_shallotWrite_ignored⟩
  · show (FMap.getD (s.ctxs.del c) c {}).st = 0
    simp [FMap.getD, FMap.get?_del]
  · show FMap.getD (s.ctxs.del c) i {} = FMap.getD s.ctxs i {}
    simp [FMap.getD, FMap.get?_del, hi]
  · exact ⟨congrArg Ctx.qres (State.ctx_modCtx u c _), rfl, rfl⟩
  · obtain ⟨t, ht, hc, hw, -⟩ := Runs.of_setQres (exec_qcmdHalt_of ((if_neg h0).trans (if_pos h)))
    exact ⟨t, ht, hc, hw⟩
  · obtain ⟨ho, hh, hr, hc⟩ := exec_qcmd_of_empty (q := q) h0
    exact ⟨Runs.of_setQres ho, Runs.of_setQres hh, Runs.of_setQres hr, Runs.of_setQres hc⟩
  · obtain ⟨t, ht, hc, hw, -⟩ := Runs.of_setQres (exec_qcmdResume_of ((if_neg h0).trans (if_pos h)))
    exact ⟨t, ht, hc, hw⟩
  · obtain ⟨t, ht, hc, hw, -⟩ := Runs.of_setQres (exec_qcmdClose_of ((if_neg h0).trans (if_pos h)))
    exact ⟨t, ht, hc, hw⟩
  · rintro ⟨d, hd, hb⟩
    have := h d hd
    dsimp only at this
    omega

end Sys2Proof.Machine
end

section
/-!
SUPPORT. Barriers (13 R302 to R305): the names, the arrivals, the waits and the completion of a phase.
-/

namespace Sys2Proof.Machine

/-! ### Acquires and releases -/

theorem State.releaseTo_eq (s : State) (x sc : Nat) : ∃ r c, s.releaseTo x sc = (s.setRace r).setCoh c := ⟨_, _, rfl⟩

/-- What an acquire leaves: memory, the work, the other activations and the contexts, and of the issuer all but its view. -/
structure AcquireOnly (s t : State) : Prop where
  mem : t.mem = s.mem
  work : t.work = s.work
  cur : t.cur = { s.cur with view := t.cur.view }

theorem AcquireOnly.of_syncAt (s : State) (xs : List (Nat × Nat)) (sc : Nat) : AcquireOnly s (s.syncAt xs sc) := by
  unfold State.syncAt
  dsimp only
  split <;> exact ⟨rfl, rfl, rfl⟩

theorem AcquireOnly.wsKey {s t : State} (h : AcquireOnly s t) : t.cur.wsKey = s.cur.wsKey := by rw [h.cur]; rfl

theorem AcquireOnly.pc {s t : State} (h : AcquireOnly s t) : t.pc = s.pc := State.pc_of_same h.mem h.wsKey

theorem AcquireOnly.holds {s t : State} (h : AcquireOnly s t) {d v tl : Nat} (hs : s.Holds d v tl) : t.Holds d v tl := by
  have hreg (k : Nat) : t.reg k = s.reg k := by unfold State.reg State.ws State.rdN; rw [h.mem, h.wsKey]
  have htb (k : Nat) : t.tb k = s.tb k := by unfold State.tb State.ws State.rdN; rw [h.mem, h.wsKey]
  exact fun hd => by rw [hreg, htb]; exact hs hd

/-! ### Phases -/

theorem State.phaseIfDue_of_not_due {s : State} {key : Nat} (h : (s.bar key).due = false) : s.phaseIfDue key = s :=
  if_neg (by simp [h])

theorem State.bar_setBar (s : State) (k : Nat) (b : Barrier) : (s.setBar k b).bar k = b := FMap.getD_put_self _ _ _ _

theorem State.bar_setBar_ne (s : State) {k j : Nat} (b : Barrier) (h : j ≠ k) : (s.setBar k b).bar j = s.bar j :=
  FMap.getD_put_ne _ _ _ _ _ h

theorem State.bar_congr {s t : State} (h : t.work.barriers = s.work.barriers) (k : Nat) : t.bar k = s.bar k := by
  unfold State.bar; rw [h]

theorem State.work_endBarWait (s : State) (key d phase : Nat) : (s.endBarWait key d phase).work = s.work := by
  have hset : ((s.retire 4).setReg d phase 0).work = s.work := by
    unfold State.setReg
    split <;> rfl
  exact (AcquireOnly.of_syncAt _ _ _).work.trans hset

/-- A phase of a named barrier completes: the barrier is open again, and no other barrier changes. -/
theorem State.barriers_completePhase (s : State) {key : Nat} (hk : key / 2 ^ 35 = 0) : (s.completePhase key).work.barriers
    = (s.setBar key { s.bar key with arrived := 0, phase := ((s.bar key).phase + 1) % 2 ^ 32 }).work.barriers := by
  unfold State.completePhase
  simp only [hk, Nat.zero_ne_one, OfNat.zero_ne_ofNat, if_false]
  refine (congrArg Work.barriers (State.foldl_keeps State.work (fun t x => ?_) _ _)).trans rfl
  exact State.onAct_work t _ fun u => State.work_endBarWait u key _ _

theorem bar_completePhase (s : State) {key : Nat} (hk : key / 2 ^ 35 = 0) :
    (s.completePhase key).bar key = { s.bar key with arrived := 0, phase := ((s.bar key).phase + 1) % 2 ^ 32 }
      ∧ ∀ k, k ≠ key → (s.completePhase key).bar k = s.bar k :=
  ⟨(State.bar_congr (s.barriers_completePhase hk) key).trans (s.bar_setBar key _),
    fun k h => (State.bar_congr (s.barriers_completePhase hk) k).trans (s.bar_setBar_ne _ h)⟩

theorem exec_barrierPhaseComplete_of_due {s : State} {key : Nat}
    (h : (s.bar key).due = true ∨ (barScope key = 5 ∧ (s.bar key).v = true)) :
    exec (.barrierPhaseComplete key) s = .next (s.completePhase key) := by
  by_cases h5 : barScope key = 5 ∧ (s.bar key).v = true
  · exact congrArg Host.Outcome.next (if_pos h5)
  · exact congrArg Host.Outcome.next ((if_neg h5).trans (if_pos (h.resolve_right h5)))

theorem exec_barrierPhaseComplete_stays {s : State} {key : Nat} (hdue : (s.bar key).due = false)
    (hpod : barScope key = 5 → (s.bar key).v = false) : exec (.barrierPhaseComplete key) s = .next s :=
  congrArg Host.Outcome.next ((if_neg fun h => by simp [hpod h.1] at h).trans (State.phaseIfDue_of_not_due hdue))

/-- A phase that has completed is not ahead. -/
theorem phaseAhead_of_done {p t : Nat} (h : phaseDone p t = true) : phaseAhead p t = false := by
  simp only [phaseAhead, phaseDone, decide_eq_true_eq, decide_eq_false_iff_not] at h ⊢
  omega

theorem phaseAhead_self (t : Nat) : phaseAhead t (t % 2 ^ 32) = false := by
  simp only [phaseAhead, phaseDone, decide_eq_false_iff_not]
  omega

theorem phaseDone_self (t : Nat) : phaseDone t (t % 2 ^ 32) = false := by
  simp only [phaseDone, decide_eq_false_iff_not]
  omega

/-! ### The instructions -/

/-- A barrier word that names barrier `key` for the issuer. -/
def State.namesBar (s : State) (w key : Nat) : Prop :=
  bwBad w = false ∧ (bwKind w = 0 → (s.ctx s.cur.ctx).hasBarrier (bwScope w) (bwId w) = true) ∧ s.barOf w = some key

section Forms

variable {s : State} {w key : Nat} {k : Nat → State → Out}

theorem State.withBarrier_named (hs : s.cur.shadow = none) (h : s.namesBar w key) : s.withBarrier w k = k key (s.phaseIfDue key) := by
  obtain ⟨hb, hhas, hof⟩ := h
  have hallot : ¬ (bwKind w = 0 ∧ (!s.myCtx.hasBarrier (bwScope w) (bwId w)) = true) := by
    rintro ⟨h0, hn⟩
    rw [State.myCtx, hhas h0] at hn
    cases hn
  unfold State.withBarrier
  rw [if_neg (by simp [hb]), if_neg (by simp [hs]), if_neg hallot, hof]

theorem State.withBarrier_bad (h : bwBad w = true) : s.withBarrier w k = .next (s.trapHere cRANGE 1 w) := if_pos h

theorem State.unlessNamed_of_noShadow (hs : s.cur.shadow = none) (w : Nat) (o : Out) : s.unlessNamed w o = o := if_neg (by simp [hs])

end Forms

section Instructions

variable {s : State} {d a b na key : Nat}

theorem exec_barr_def (ho : s.cur.orig ≠ 2) (hs : s.cur.shadow = none) : exec (.barr d a na) s =
    s.withBarrier (s.reg a) fun key u =>
      if !(u.bar key).v then .next (u.trapHere cRANGE 3 (s.reg a))
      else if u.cur.arrivals.contains (key, (u.bar key).phase) then .next (u.trapHere cBOVER 0 (s.reg a))
      else if 2 ≤ u.cur.arrivals.length then .next (u.trapHere cRANGE 6 (s.reg a))
      else u.settle (bwScope (s.reg a)) fun z =>
        let v := ((z.setBar key { u.bar key with arrived := (u.bar key).arrived + 1 }).modCur fun c =>
          { c with arrivals := (key, (u.bar key).phase) :: u.cur.arrivals }).releaseTo (ptBar key (u.bar key).phase) (bwScope (s.reg a))
        .next ((if na = 1 then (v.retire 4).setReg d (u.bar key).phase 0
          else v.block (.barrier key (u.bar key).phase d (s.reg a))).phaseIfDue key) :=
  (State.unlessNamed_of_noShadow hs _ _).trans (State.unlessClause_of_ne ho _)

/-- The issuer once it has arrived, and the state in which its arrival counts and is released. -/
def State.arrivedAct (u : State) (w key : Nat) : Act :=
  { (u.settled (bwScope w)).cur with arrivals := (key, (u.bar key).phase) :: u.cur.arrivals }

def State.arrivedAt (u : State) (w key : Nat) : State :=
  (((u.settled (bwScope w)).setBar key { u.bar key with arrived := (u.bar key).arrived + 1 }).modCur fun _ => u.arrivedAct w key).releaseTo
    (ptBar key (u.bar key).phase) (bwScope w)

/-- An arrival at a barrier that takes it. -/
theorem exec_barr_arrives (hs : s.cur.shadow = none) (hn : s.namesBar (s.reg a) key) (ho : s.cur.orig ≠ 2)
    (hv : ((s.phaseIfDue key).bar key).v = true)
    (harr : (s.phaseIfDue key).cur.arrivals.contains (key, ((s.phaseIfDue key).bar key).phase) = false
      ∧ (s.phaseIfDue key).cur.arrivals.length < 2) (hfree : (s.phaseIfDue key).ReleaseFree (bwScope (s.reg a))) :
    exec (.barr d a na) s = .next ((if na = 1
      then (((s.phaseIfDue key).arrivedAt (s.reg a) key).retire 4).setReg d ((s.phaseIfDue key).bar key).phase 0
      else ((s.phaseIfDue key).arrivedAt (s.reg a) key).block (.barrier key ((s.phaseIfDue key).bar key).phase d (s.reg a))).phaseIfDue key) := by
  rw [exec_barr_def ho hs, State.withBarrier_named hs hn, if_neg (by simp [hv]), if_neg (Bool.eq_false_iff.1 harr.1),
    if_neg (Nat.not_le.2 harr.2), State.settle_of_free hfree]
  rfl

/-- What an arrival leaves of the barriers, the other activations, the contexts and memory. -/
theorem arrived_spec (u : State) (w key : Nat) :
    (u.arrivedAt w key).bar key = { u.bar key with arrived := (u.bar key).arrived + 1 }
      ∧ (∀ k, k ≠ key → (u.arrivedAt w key).bar k = u.bar k) ∧ (u.arrivedAt w key).acts = u.acts ∧ (u.arrivedAt w key).ctxs = u.ctxs
      ∧ (u.arrivedAt w key).cur = u.arrivedAct w key ∧ (u.arrivedAt w key).mem = u.mem ∧ (u.arrivedAt w key).dies = u.dies := by
  have hset : (u.settled (bwScope w)).work = u.work ∧ (u.settled (bwScope w)).acts = u.acts
      ∧ (u.settled (bwScope w)).ctxs = u.ctxs ∧ (u.settled (bwScope w)).mem = u.mem ∧ (u.settled (bwScope w)).dies = u.dies := by
    unfold State.settled
    split <;> exact ⟨rfl, rfl, rfl, rfl, rfl⟩
  obtain ⟨hwork, hacts, hctxs, hmem, hdies⟩ := hset
  obtain ⟨r, c, hrel⟩ := State.releaseTo_eq (((u.settled (bwScope w)).setBar key { u.bar key with arrived := (u.bar key).arrived + 1 }).modCur
    fun _ => u.arrivedAct w key) (ptBar key (u.bar key).phase) (bwScope w)
  have harr : u.arrivedAt w key = _ := hrel
  rw [harr]
  refine ⟨State.bar_setBar _ _ _, fun k hk => ?_, hacts, hctxs, rfl, hmem, hdies⟩
  exact (State.bar_setBar_ne _ _ hk).trans (State.bar_congr (by rw [hwork]) k)


/-- A barrier with one more arrival that is still short of its count is not due. -/
theorem due_arrived {x : Barrier} (h : x.arrived + 1 < x.count) : ({ x with arrived := x.arrived + 1 } : Barrier).due = false := by
  simp only [Barrier.due, Bool.and_eq_false_iff, decide_eq_false_iff_not, Nat.not_le]
  exact .inr h

theorem wsKey_arrived (u : State) (w key : Nat) : (u.arrivedAt w key).cur.wsKey = u.cur.wsKey := by
  rw [(arrived_spec u w key).2.2.2.2.1, ← u.settled_wsKey (bwScope w)]
  rfl

/-- What an arrival leaves, whatever it then does to memory and to the issuer. -/
theorem open_arrived {u t : State} {w : Nat} (hu : (u.bar key).arrived + 1 < (u.bar key).count)
    (hwork : t.work = (u.arrivedAt w key).work) (hacts : t.acts = (u.arrivedAt w key).acts) (hctxs : t.ctxs = (u.arrivedAt w key).ctxs) :
    t.phaseIfDue key = t ∧ t.bar key = { u.bar key with arrived := (u.bar key).arrived + 1 } ∧ (∀ k, k ≠ key → t.bar k = u.bar k)
      ∧ t.acts = u.acts ∧ t.ctxs = u.ctxs := by
  obtain ⟨hbar, hbars, ha, hc, -⟩ := arrived_spec u w key
  have hb (k : Nat) : t.bar k = (u.arrivedAt w key).bar k := State.bar_congr (by rw [hwork]) k
  refine ⟨State.phaseIfDue_of_not_due ?_, (hb key).trans hbar, fun k hk => (hb k).trans (hbars k hk), hacts.trans ha, hctxs.trans hc⟩
  rw [hb, hbar]
  exact due_arrived hu

/-- The end of an arrival without a wait that does not complete the phase. -/
theorem barr_open_na (hd : d < 32) {u : State} {w : Nat} (hu : (u.bar key).arrived + 1 < (u.bar key).count) :
    let t := (((u.arrivedAt w key).retire 4).setReg d (u.bar key).phase 0).phaseIfDue key
    (t.bar key = { u.bar key with arrived := (u.bar key).arrived + 1 } ∧ (∀ k, k ≠ key → t.bar k = u.bar k) ∧ t.acts = u.acts
      ∧ t.ctxs = u.ctxs) ∧ t.Holds d (u.bar key).phase 0 ∧ t.cur = u.arrivedAct w key ∧ t.pc = (u.pc + 4) % 2 ^ 56
      ∧ SameMem u t fun k => u.pcSpan k ∨ u.regSpan d k := by
  obtain ⟨-, -, -, -, hcur, hmem, -⟩ := arrived_spec u w key
  have hkey := wsKey_arrived u w key
  obtain ⟨hpc, hval, honly, hframe⟩ := RegResult.of_put (u.arrivedAt w key) 4 d (u.bar key).phase 0 hd
  obtain ⟨m, hm⟩ : ∃ m, ((u.arrivedAt w key).retire 4).setReg d (u.bar key).phase 0 = (u.arrivedAt w key).setMem m := by
    obtain ⟨m, hm⟩ := ((u.arrivedAt w key).retire 4).setReg_eq d (u.bar key).phase 0
    exact ⟨m, hm⟩
  rw [hm] at hpc hval hframe ⊢
  obtain ⟨hnot, hopen⟩ := open_arrived (t := (u.arrivedAt w key).setMem m) hu rfl rfl rfl
  rw [hnot]
  refine ⟨hopen, hval, hcur, hpc.trans (by rw [State.pc_of_same hmem hkey]), fun k hk => (hframe k ?_).trans ?_⟩
  · simpa only [State.pcSpan, State.regSpan, hkey] using hk
  · exact congrArg (Memory.read · k) hmem

/-- The end of an arrival that waits and does not complete the phase. -/
theorem barr_open_wait {u : State} {w : Nat} (hu : (u.bar key).arrived + 1 < (u.bar key).count) :
    let wt : Wait := .barrier key (u.bar key).phase d w
    let t := ((u.arrivedAt w key).block wt).phaseIfDue key
    (t.bar key = { u.bar key with arrived := (u.bar key).arrived + 1 } ∧ (∀ k, k ≠ key → t.bar k = u.bar k) ∧ t.acts = u.acts
      ∧ t.ctxs = u.ctxs) ∧ t.mem = u.mem
      ∧ t.cur = { u.arrivedAct w key with run := .waiting wt, resv := none, wd := u.cycle u.cur.die, atYield := true, wins := [] } := by
  intro wt
  obtain ⟨-, -, -, -, hcur, hmem, hdies⟩ := arrived_spec u w key
  obtain ⟨hnot, hopen⟩ := open_arrived (t := (u.arrivedAt w key).block wt) hu rfl rfl rfl
  rw [hnot]
  refine ⟨hopen, hmem, ?_⟩
  have hcycle : (u.arrivedAt w key).cycle (u.arrivedAt w key).cur.die = u.cycle u.cur.die := by
    have hdie : (u.arrivedAt w key).cur.die = u.cur.die := by
      rw [hcur]
      show (u.settled (bwScope w)).cur.die = u.cur.die
      rw [(u.settled_frame (bwScope w)).2.1]
    unfold State.cycle State.die
    rw [hdies, hdie]
  rw [(Blocked.of_block (u.arrivedAt w key) wt).act, hcycle, hcur]

/-- A token that is not ahead decides whether its phase has completed. -/
theorem State.withToken_named {k : Nat → Nat → Bool → State → Out} (hs : s.cur.shadow = none) (hn : s.namesBar (s.reg a) key)
    (hv : ((s.phaseIfDue key).bar key).v = true)
    (hno : phaseAhead ((s.phaseIfDue key).bar key).phase (s.reg b % 2 ^ 32) = false) :
    s.withToken a b k = k key (s.reg b % 2 ^ 32) (phaseDone ((s.phaseIfDue key).bar key).phase (s.reg b % 2 ^ 32)) (s.phaseIfDue key) := by
  unfold State.withToken
  rw [State.withBarrier_named hs hn, if_neg (by simp [hv]), if_neg (Bool.eq_false_iff.1 hno)]

theorem State.withToken_bad {k : Nat → Nat → Bool → State → Out} (hb : bwBad (s.reg a) = true) :
    s.withToken a b k = .next (s.trapHere cRANGE 1 (s.reg a)) := by
  unfold State.withToken
  exact State.withBarrier_bad hb

theorem exec_bwait_def (ho : s.cur.orig ≠ 2) (hs : s.cur.shadow = none) : exec (.bwait a b) s =
    s.withToken a b fun key t done u =>
      if done then .next ((u.retire 4).barAcquire key t) else .next (u.block (.barrier key t 0 (s.reg a))) :=
  (State.unlessNamed_of_noShadow hs _ _).trans (State.unlessClause_of_ne ho _)

theorem exec_btest_def : exec (.btest d a b) s = s.withToken a b fun key t done u =>
    if done then .next (((u.retire 4).setReg d 1 0).barAcquire key t) else u.put 4 d 0 0 := rfl

/-- The end of a wait for a phase that has completed. -/
theorem Runs.bwait_done (hs : s.cur.shadow = none) (hn : s.namesBar (s.reg a) key) (hv : ((s.phaseIfDue key).bar key).v = true)
    (hdone : phaseDone ((s.phaseIfDue key).bar key).phase (s.reg b % 2 ^ 32) = true) (ho : s.cur.orig ≠ 2) :
    Runs (.bwait a b) s fun t => t.pc = ((s.phaseIfDue key).pc + 4) % 2 ^ 56 ∧ SameMem (s.phaseIfDue key) t (s.phaseIfDue key).pcSpan
      ∧ t.cur = { (s.phaseIfDue key).cur with view := t.cur.view } := by
  refine ⟨((s.phaseIfDue key).retire 4).barAcquire key (s.reg b % 2 ^ 32), ?_, ?_⟩
  · rw [exec_bwait_def ho hs, State.withToken_named hs hn hv (phaseAhead_of_done hdone), hdone]
    rfl
  · generalize s.phaseIfDue key = u
    have h := AcquireOnly.of_syncAt (u.retire 4) [(ptBar key (s.reg b % 2 ^ 32), ptBar key (s.reg b % 2 ^ 32))] (barScope key)
    exact ⟨h.pc.trans (u.pc_retire 4), fun k hk => (congrArg (Memory.read · k) h.mem).trans (u.rd_retire_ne 4 k hk), h.cur⟩

theorem Runs.btest_done (hd : d < 32) (hs : s.cur.shadow = none) (hn : s.namesBar (s.reg a) key)
    (hv : ((s.phaseIfDue key).bar key).v = true)
    (hdone : phaseDone ((s.phaseIfDue key).bar key).phase (s.reg b % 2 ^ 32) = true) :
    Runs (.btest d a b) s fun t => t.pc = ((s.phaseIfDue key).pc + 4) % 2 ^ 56 ∧ t.Holds d 1 0
      ∧ t.cur = { (s.phaseIfDue key).cur with view := t.cur.view }
      ∧ SameMem (s.phaseIfDue key) t fun k => (s.phaseIfDue key).pcSpan k ∨ (s.phaseIfDue key).regSpan d k := by
  refine ⟨(((s.phaseIfDue key).retire 4).setReg d 1 0).barAcquire key (s.reg b % 2 ^ 32), ?_, ?_⟩
  · rw [exec_btest_def, State.withToken_named hs hn hv (phaseAhead_of_done hdone), hdone]
    rfl
  · generalize s.phaseIfDue key = u
    have h := AcquireOnly.of_syncAt ((u.retire 4).setReg d 1 0) [(ptBar key (s.reg b % 2 ^ 32), ptBar key (s.reg b % 2 ^ 32))] (barScope key)
    obtain ⟨hpc, hval, honly, hframe⟩ := RegResult.of_put u 4 d 1 0 hd
    have hcur : ((u.retire 4).setReg d 1 0).cur = u.cur := by
      obtain ⟨m, hm⟩ := (u.retire 4).setReg_eq d 1 0
      rw [hm]
      rfl
    have hview := h.cur
    rw [hcur] at hview
    exact ⟨h.pc.trans hpc, h.holds hval, hview, fun k hk => (congrArg (Memory.read · k) h.mem).trans (hframe k hk)⟩

/-- A wait for the phase that is open. -/
theorem open_token (hs : s.cur.shadow = none) (hn : s.namesBar (s.reg a) key) (hv : ((s.phaseIfDue key).bar key).v = true)
    (hp : ((s.phaseIfDue key).bar key).phase = s.reg b % 2 ^ 32) (k : Nat → Nat → Bool → State → Out) :
    s.withToken a b k = k key (s.reg b % 2 ^ 32) false (s.phaseIfDue key) := by
  have hmod : s.reg b % 2 ^ 32 = s.reg b % 2 ^ 32 % 2 ^ 32 := (Nat.mod_mod _ _).symm
  have hahead := phaseAhead_self (s.reg b % 2 ^ 32)
  have hdone := phaseDone_self (s.reg b % 2 ^ 32)
  rw [← hmod] at hahead hdone
  rw [State.withToken_named hs hn hv (by rw [hp]; exact hahead), hp, hdone]

theorem Runs.binit (hs : s.cur.shadow = none) (hn : s.namesBar (s.reg a) key) (hk : bwKind (s.reg a) = 0)
    (h0 : (s.phaseIfDue key).reg b ≠ 0) (hmax : (s.phaseIfDue key).reg b ≤ barMax (bwScope (s.reg a)))
    (hx : ((s.phaseIfDue key).bar key).arrived = 0) :
    Runs (.binit a b) s fun t =>
      (t.bar key = { (s.phaseIfDue key).bar key with v := true, count := (s.phaseIfDue key).reg b, arrived := 0 }
        ∧ (∀ k, k ≠ key → t.bar k = (s.phaseIfDue key).bar k) ∧ t.acts = (s.phaseIfDue key).acts ∧ t.ctxs = (s.phaseIfDue key).ctxs)
      ∧ t.cur = (s.phaseIfDue key).cur ∧ t.pc = ((s.phaseIfDue key).pc + 4) % 2 ^ 56
      ∧ SameMem (s.phaseIfDue key) t (s.phaseIfDue key).pcSpan := by
  refine ⟨((s.phaseIfDue key).setBar key { (s.phaseIfDue key).bar key with
    v := true, count := (s.phaseIfDue key).reg b, arrived := 0 }).retire 4, ?_, ?_⟩
  · refine (if_neg (by simp [hk])).trans ?_
    rw [State.withBarrier_named hs hn, if_neg (by simp [h0, hmax]), if_neg (by simp [hx])]
  · generalize s.phaseIfDue key = u
    exact ⟨⟨u.bar_setBar key _, fun k hk => u.bar_setBar_ne _ hk, rfl, rfl⟩, rfl, State.pc_retire (u.setBar key _) 4,
      State.rd_retire_ne (u.setBar key _) 4⟩

theorem exec_binit_bad (hb : bwBad (s.reg a) = true) : exec (.binit a b) s = .next (s.trapHere cRANGE 1 (s.reg a)) :=
  (if_neg (by simp [hb])).trans (State.withBarrier_bad hb)

theorem exec_btest_bad (hb : bwBad (s.reg a) = true) : exec (.btest d a b) s = .next (s.trapHere cRANGE 1 (s.reg a)) := by
  rw [exec_btest_def, State.withToken_bad hb]

end Instructions

/-- Settles O43, one lemma for each form. -/
theorem barriers : Obligations.Barriers := by
  intro s d a b key hd hs
  refine ⟨fun hb hk => Runs.of_trapHere (if_pos (by simp [hb, hk])) hs, fun hb => ⟨?_, ?_, fun ho na => ⟨?_, ?_⟩⟩,
    fun hn hk h0 hmax hx => Runs.binit hs hn hk h0 hmax hx, fun hn ho hv harr hfree => ⟨?_, fun na hna => ?_, fun hlt => ⟨?_, fun na hna => ?_⟩⟩,
    fun hn ho hv hin hsh => ?_, fun hn hv hdone => ⟨Runs.bwait_done hs hn hv hdone, Runs.btest_done hd hs hn hv hdone⟩,
    fun hn hv hp => ⟨fun ho => ?_, ?_⟩, exec_barrierPhaseComplete_stays,
    fun h hk => ⟨_, exec_barrierPhaseComplete_of_due h, bar_completePhase s hk⟩⟩
  · exact Runs.of_trapHere (exec_binit_bad hb) hs
  · exact Runs.of_trapHere (exec_btest_bad hb) hs
  · exact Runs.of_trapHere ((exec_barr_def ho hs).trans (State.withBarrier_bad hb)) hs
  · exact Runs.of_trapHere ((exec_bwait_def ho hs).trans (State.withToken_bad hb)) hs
  · exact ⟨_, (exec_barr_arrives hs hn ho hv harr hfree).trans rfl, rfl⟩
  · exact ⟨_, (exec_barr_arrives hs hn ho hv harr hfree).trans (congrArg (fun u : State => Host.Outcome.next (u.phaseIfDue key)) (if_neg hna)), rfl⟩
  · exact ⟨_, (exec_barr_arrives hs hn ho hv harr hfree).trans rfl, barr_open_na hd hlt⟩
  · exact ⟨_, (exec_barr_arrives hs hn ho hv harr hfree).trans (congrArg (fun u : State => Host.Outcome.next (u.phaseIfDue key)) (if_neg hna)), barr_open_wait hlt⟩
  · refine ⟨_, ?_, Trapped.of_trapHere (s.phaseIfDue key) 0x08 0 (s.reg a) hsh⟩
    rw [exec_barr_def ho hs, State.withBarrier_named hs hn, if_neg (by simp [hv]), if_pos hin]
    rfl
  · refine ⟨_, ?_, Blocked.of_block _ _⟩
    rw [exec_bwait_def ho hs, open_token hs hn hv hp]
    rfl
  · refine Runs.of_putFrom ?_ hd
    rw [exec_btest_def, open_token hs hn hv hp]
    rfl

end Sys2Proof.Machine
end

section
/-!
SUPPORT. The slots of a pipe (15 R323 to R326): acquired, released and filled by a copy.
-/

namespace Sys2Proof.Machine

/-- What the end of an acquisition leaves: the value in `d`, the PC past the instruction, and the issuer ready. -/
structure Got (u t : State) (d y : Nat) : Prop where
  val : t.Holds d y 0
  pc : t.pc = (u.pc + 4) % 2 ^ 56
  run : t.cur.run = .ready
  frame : SameMem u t fun k => u.pcSpan k ∨ u.regSpan d k

/-- States that agree on memory and on where the issuer's workspace lies. -/
theorem holds_congr {s t : State} {d v tl : Nat} (hm : t.mem = s.mem) (hk : t.cur.wsKey = s.cur.wsKey) (h : s.Holds d v tl) :
    t.Holds d v tl := by
  have hreg (k : Nat) : t.reg k = s.reg k := by unfold State.reg State.ws State.rdN; rw [hm, hk]
  have htb (k : Nat) : t.tb k = s.tb k := by unfold State.tb State.ws State.rdN; rw [hm, hk]
  exact fun hd => by rw [hreg, htb]; exact h hd

/-- A register result whose issuer is ready, from a state with the memory and the workspace of `u`, is got from `u`. -/
theorem Got.of_result {u v t : State} {d y : Nat} (hd : d < 32) (hm : v.mem = u.mem) (hk : v.cur.wsKey = u.cur.wsKey)
    (ht : t.mem = ((v.retire 4).setReg d y 0).mem) (htk : t.cur.wsKey = ((v.retire 4).setReg d y 0).cur.wsKey) (hrun : t.cur.run = .ready) :
    Got u t d y := by
  obtain ⟨hpc, hval, -, hframe⟩ := RegResult.of_put v 4 d y 0 hd
  refine ⟨holds_congr ht htk hval, ((State.pc_of_same ht htk).trans hpc).trans (by rw [State.pc_of_same hm hk]), hrun, fun k hkk => ?_⟩
  have hread := hframe k (by simpa only [State.pcSpan, State.regSpan, hk] using hkk)
  exact ((congrArg (Memory.read · k) ht).trans hread).trans (congrArg (Memory.read · k) hm)

theorem State.setReg_frame (s : State) (d v t : Nat) : (s.setReg d v t).work = s.work ∧ (s.setReg d v t).cur = s.cur
    ∧ (s.setReg d v t).cores = s.cores := by
  obtain ⟨m, hm⟩ := s.setReg_eq d v t
  rw [hm]
  exact ⟨rfl, rfl, rfl⟩

theorem Got.of_endTake {u : State} {d : Nat} (hd : d < 32) (y : Nat) : Got u (u.endTake d y) d y :=
  Got.of_result hd rfl rfl rfl rfl rfl

theorem work_endTake (u : State) (d y : Nat) : (u.endTake d y).work = u.work := (State.setReg_frame (u.retire 4) d y 0).1

section Checks

variable {s : State} {a key : Nat} {l : LaunchId} {p : Pipe} {fill : Bool}
  {sub : Pipe → Bool → Option (Nat × Nat)} {k : Nat → Pipe → Bool → State → Out}

/-- A thread of one of a pipe's kernels whose word names that pipe (R324). -/
structure State.OfPipe (s : State) (a : Nat) (l : LaunchId) (p : Pipe) : Prop where
  orig : s.cur.orig = 0
  launch : s.cur.launch = some l
  pipe : s.work.pipes.get? (pipeKey l.q l.lseq l.grp (s.reg a % 65536)) = some p
  kern : p.fromK = l.kern ∨ p.toK = l.kern
  word : s.reg a < 65536
  det : s.cur.det = true → l.thr = 0

/-- Such a thread goes on when the check of its form passes. -/
theorem State.withPipe_of (h : s.OfPipe a l p) (hf : fill = true → p.fromK = l.kern) (hsub : sub p (p.fromK == l.kern) = none) :
    s.withPipe a fill sub k = k (pipeKey l.q l.lseq l.grp (s.reg a % 65536)) p (p.fromK == l.kern) s := by
  obtain ⟨horig, hlaunch, hpipe, hkern, hword, hdet⟩ := h
  have hrole : ¬ ((p.fromK ≠ l.kern ∧ p.toK ≠ l.kern) ∨ (fill = true ∧ p.fromK ≠ l.kern)) := by
    rintro (⟨h1, h2⟩ | ⟨h1, h2⟩)
    · exact hkern.elim h1 h2
    · exact h2 (hf h1)
  have hstray : ¬ s.reg a / 65536 ≠ 0 := not_not_intro (Nat.div_eq_of_lt hword)
  have hthr : ¬ (s.cur.det = true ∧ l.thr ≠ 0) := fun hp => hp.2 (hdet hp.1)
  unfold State.withPipe
  simp only [horig, if_true, hlaunch, hpipe, if_neg hrole, if_neg hstray, hsub, if_neg hthr]

/-- It traps when the check of its form refuses. -/
theorem State.withPipe_refused {n t : Nat} (h : s.OfPipe a l p) (hf : fill = true → p.fromK = l.kern)
    (hsub : sub p (p.fromK == l.kern) = some (n, t)) : s.withPipe a fill sub k = .next (s.trapHere cRANGE n t) := by
  obtain ⟨horig, hlaunch, hpipe, hkern, hword, -⟩ := h
  have hrole : ¬ ((p.fromK ≠ l.kern ∧ p.toK ≠ l.kern) ∨ (fill = true ∧ p.fromK ≠ l.kern)) := by
    rintro (⟨h1, h2⟩ | ⟨h1, h2⟩)
    · exact hkern.elim h1 h2
    · exact h2 (hf h1)
  have hstray : ¬ s.reg a / 65536 ≠ 0 := not_not_intro (Nat.div_eq_of_lt hword)
  unfold State.withPipe
  simp only [horig, if_true, hlaunch, hpipe, if_neg hrole, if_neg hstray, hsub]

theorem State.withPipe_outside (h : s.cur.orig ≠ 0) : s.withPipe a fill sub k = .next (s.trapHere cRANGE 1 (s.reg a)) := by
  unfold State.withPipe
  simp only [if_neg h]

end Checks

section Forms

variable {s : State} {d a b q k nw : Nat} {l : LaunchId} {p : Pipe}

/-- Without another waiter, the attempt is the pipe's own. -/
theorem not_queued {u : State} {z : Pipe} {key : Nat} {side : Bool} (h : ∀ x ∈ u.allActs, x.pipeWait z key side = none) (t : Take) :
    (if u.allActs.any fun x => (x.pipeWait z key side).isSome then Take.wait else t) = t := by
  refine if_neg ?_
  rw [Bool.not_eq_true, List.any_eq_false]
  exact fun x hx => by rw [h x hx]; decide

/-- What `pacq` does once the waiters before it are served. -/
def State.pacqFrom (u : State) (d nw key : Nat) (producer : Bool) (z : Pipe) : Take → Out
  | .wait => if nw = 1 then u.put 4 d 0 0 else .next (u.block (.pacq d key u.sched.clock))
  | t => .next (u.pacqGot d key producer z t)

theorem exec_pacq_of (h : s.OfPipe a l p) :
    let key := pipeKey l.q l.lseq l.grp (s.reg a % 65536)
    let z := FMap.getD (s.serve key).work.pipes key {}
    (∀ x ∈ (s.serve key).allActs, x.pipeWait z key (p.fromK == l.kern) = none) →
      exec (.pacq d a nw) s = (s.serve key).pacqFrom d nw key (p.fromK == l.kern) z (z.next (p.fromK == l.kern)) := by
  intro key z halone
  show execPacq d a nw s = _
  unfold execPacq
  rw [State.withPipe_of h (absurd · Bool.false_ne_true) rfl]
  dsimp only
  rw [not_queued halone]
  unfold State.pacqFrom
  cases z.next (p.fromK == l.kern) <;> rfl

/-- What `pfill` does once the waiters before it are served. -/
def State.pfillFrom (u : State) (d q key src n : Nat) (z : Pipe) : Take → Out
  | .wait => .next (u.block (.pfill d key src n q u.sched.clock))
  | t => .next (u.pfillGot d q key src n z t)

theorem exec_pfill_of (h : s.OfPipe a l p) (hf : p.fromK = l.kern) (h0 : s.reg b ≠ 0) (hn : s.reg b ≤ p.slotb) (hab : p.abandoned = false) :
    let key := pipeKey l.q l.lseq l.grp (s.reg a % 65536)
    let z := FMap.getD (s.serve key).work.pipes key {}
    (∀ x ∈ (s.serve key).allActs, x.pipeWait z key true = none) →
      exec (.pfill d a b q) s = (s.serve key).pfillFrom d q key (s.reg d) (s.reg b) z (z.next true) := by
  intro key z halone
  show execPfill d a b q s = _
  unfold execPfill
  dsimp only
  rw [State.withPipe_of h (fun _ => hf) (if_neg (by simp [h0, hn, hab]))]
  rw [not_queued halone]
  unfold State.pfillFrom
  cases z.next true <;> rfl

/-- The copy that `pfill` queues. -/
theorem pfillGot_slot {u : State} {key src n : Nat} {z : Pipe} (hd : d < 32) (hroom : u.myCore.copies.length < 32) :
    let t := u.pfillGot d q key src n z (.slot k)
    ∃ c : Cmd, (t.core u.cur.coreKey).copies = (u.core u.cur.coreKey).copies ++ [c] ∧ c.op = 3 ∧ c.q = q
      ∧ c.args = [z.base + k * z.slotb, src, n, key, k] ∧ Got u t d c.n
      ∧ t.work.pipes = u.work.pipes.put key (z.taken true true) := by
  intro t
  have ht : t = ((u.setPipe key (z.taken true true)).goOn).startFill d q key src n z k := if_neg (Nat.not_le.2 hroom)
  rw [ht]
  obtain ⟨hwork, hcur, hcores⟩ := State.setReg_frame
    ((((u.setPipe key (z.taken true true)).goOn).modMyCore fun x => (x.issue 0).setCmds 0
      (x.copies ++ [((u.setPipe key (z.taken true true)).goOn).newCmd 0 3 q [z.addr k, src, n, key, k]])).retire 4) d
    (((u.setPipe key (z.taken true true)).goOn).newCmd 0 3 q [z.addr k, src, n, key, k]).n 0
  have hcopies (v : State) (f : Core → Core) : ((v.modMyCore f).retire 4).core v.cur.coreKey = f (v.core v.cur.coreKey) :=
    State.core_modCore v _ f
  refine ⟨((u.setPipe key (z.taken true true)).goOn).newCmd 0 3 q [z.addr k, src, n, key, k], ?_, rfl, rfl, rfl,
    Got.of_result (v := ((u.setPipe key (z.taken true true)).goOn).modMyCore fun x => (x.issue 0).setCmds 0
      (x.copies ++ [((u.setPipe key (z.taken true true)).goOn).newCmd 0 3 q [z.addr k, src, n, key, k]])) hd rfl rfl rfl rfl ?_, ?_⟩
  · exact (congrArg Core.copies (State.core_congr hcores _)).trans (congrArg Core.copies (hcopies ((u.setPipe key (z.taken true true)).goOn) _))
  · exact congrArg Act.run hcur
  · exact congrArg Work.pipes hwork

/-- What `pacq` leaves when it takes slot `k`. -/
theorem got_slot (hd : d < 32) (u : State) (key : Nat) (producer : Bool) (z : Pipe) :
    let t := u.pacqGot d key producer z (.slot k)
    (t.Holds d (z.base + k * z.slotb) 0 ∧ t.pc = (u.pc + 4) % 2 ^ 56 ∧ t.cur.run = .ready
      ∧ SameMem u t fun k => u.pcSpan k ∨ u.regSpan d k) ∧ t.work.pipes = u.work.pipes.put key (z.taken producer false) := by
  have h := AcquireOnly.of_syncAt ((u.setPipe key (z.taken producer false)).endTake d (z.addr k)) [(ptSlot key k, ptSlot key k)] 2
  obtain ⟨hval, hpc, hrun, hframe⟩ := Got.of_result (u := u) (v := u.setPipe key (z.taken producer false)) (d := d) (y := z.addr k)
    hd rfl rfl h.mem h.wsKey (congrArg Act.run h.cur)
  exact ⟨⟨hval, hpc, hrun, hframe⟩, congrArg Work.pipes (h.work.trans (work_endTake _ d _))⟩

/-- A release of a slot in the state that the issuer's side leaves. -/
theorem exec_prel_of (h : s.OfPipe a l p) (hk : p.slotAt (s.reg b) = some k)
    (hst : p.st.getD k 0 = if p.fromK == l.kern then 1 else 4) :
    let key := pipeKey l.q l.lseq l.grp (s.reg a % 65536)
    exec (.prel a b) s = .next (((s.setPipe key { p with st := p.st.set k (if p.fromK == l.kern then 3 else 0) }).releaseTo
      (ptSlot key k) 2).retire 4) := by
  intro key
  show execPrel a b s = _
  unfold execPrel
  dsimp only
  rw [State.withPipe_of h (absurd · Bool.false_ne_true) (by simp only [hk, hst, if_true]), hk]
  rfl

end Forms

/-- Settles O45, one lemma for each form. -/
theorem pipes : Obligations.Pipes := by
  intro s d a b q k l p hd
  have of (h : s.cur.orig = 0 ∧ s.cur.launch = some l ∧ s.work.pipes.get? (pipeKey l.q l.lseq l.grp (s.reg a % 65536)) = some p
      ∧ (p.fromK = l.kern ∨ p.toK = l.kern) ∧ s.reg a < 65536 ∧ (s.cur.det = true → l.thr = 0)) : s.OfPipe a l p :=
    ⟨h.1, h.2.1, h.2.2.1, h.2.2.2.1, h.2.2.2.2.1, h.2.2.2.2.2⟩
  refine ⟨fun h ha hz nw => ?_, fun h ha hz nw => ?_, fun h ha hz => ⟨?_, fun nw hnw => ?_⟩, fun h hk hst => ?_, fun h hs hk => ?_,
    fun ho hs => ⟨?_, ?_, fun nw => ?_⟩, ?_, ?_, ?_⟩
  · refine ⟨_, (exec_pacq_of (of h) ha).trans (by rw [hz]; rfl), ?_⟩
    generalize s.serve (pipeKey l.q l.lseq l.grp (s.reg a % 65536)) = u
    exact got_slot hd u _ _ _
  · refine ⟨_, (exec_pacq_of (of h) ha).trans (by rw [hz]; rfl), ?_⟩
    obtain ⟨h1, h2, h3, h4⟩ := Got.of_endTake (u := s.serve (pipeKey l.q l.lseq l.grp (s.reg a % 65536))) hd 0
    exact ⟨⟨h1, h2, h3, h4⟩, work_endTake _ d 0⟩
  · exact Runs.of_putFrom ((exec_pacq_of (of h) ha).trans (by rw [hz]; rfl)) hd
  · exact ⟨_, (exec_pacq_of (of h) ha).trans (by rw [hz]; exact if_neg hnw), Blocked.of_block _ _⟩
  · refine ⟨_, exec_prel_of (of h) hk hst, rfl, rfl, ?_, fun j hj => ?_⟩
    · exact State.pc_retire _ 4
    · exact State.rd_retire_ne _ 4 j hj
  · refine Runs.of_trapHere ((execPrel.eq_1 a b s).trans (State.withPipe_refused (of h) (absurd · Bool.false_ne_true) ?_)) hs
    simp only [hk]
  · exact Runs.of_trapHere ((execPrel.eq_1 a b s).trans (State.withPipe_outside ho)) hs
  · exact Runs.of_trapHere ((execPfill.eq_1 d a b q s).trans (State.withPipe_outside ho)) hs
  · exact Runs.of_trapHere ((execPacq.eq_1 d a nw s).trans (State.withPipe_outside ho)) hs
  · rintro ⟨h, hf, h0, hn, hab, ha⟩ hz hroom
    refine ⟨_, (exec_pfill_of (of h) hf h0 hn hab ha).trans (by rw [hz]; rfl), ?_⟩
    obtain ⟨c, hcs, hop, hq, hargs, ⟨h1, h2, h3, h4⟩, hp⟩ := pfillGot_slot (q := q) (k := k) (key := pipeKey l.q l.lseq l.grp (s.reg a % 65536))
      (src := s.reg d) (n := s.reg b) (z := FMap.getD (s.serve (pipeKey l.q l.lseq l.grp (s.reg a % 65536))).work.pipes (pipeKey l.q l.lseq l.grp (s.reg a % 65536)) {}) hd hroom
    exact ⟨c, hcs, hop, hq, hargs, ⟨h1, h2, h3, h4⟩, hp⟩
  · rintro ⟨h, hf, h0, hn, hab, ha⟩ hz
    exact ⟨_, (exec_pfill_of (of h) hf h0 hn hab ha).trans (by rw [hz]; rfl), Blocked.of_block _ _⟩
  · rintro ⟨h, hf, h0, hn, hab, ha⟩ hz
    refine ⟨_, (exec_pfill_of (of h) hf h0 hn hab ha).trans (by rw [hz]; rfl), ?_⟩
    obtain ⟨h1, h2, h3, h4⟩ := Got.of_endTake (u := s.serve (pipeKey l.q l.lseq l.grp (s.reg a % 65536))) hd 0
    exact ⟨h1, h2, h3, h4⟩

end Sys2Proof.Machine
end

section
/-!
SUPPORT. The forms on a queue of the issuer's own context, and the doorbell (16 R331, R338, 17 R355).
-/

namespace Sys2Proof.Machine

/-- A long-latency instruction that writes its register at the end of its effect. -/
theorem Runs.of_putLaFrom {i : Instr} {s u : State} {la d v t : Nat} (h : exec i s = u.putLa la d v t) (hd : d < 32) :
    Runs i s (LongResult u · la d v t) := by
  rw [Runs, h]; exact LongResult.exists_put u la d v t hd

/-! ### Forms on a queue (R338) -/

section Forms

variable {s t u : State} {d a b la k r : Nat} {x : Queue} {f : Nat → Queue → Out}

theorem State.withQueue_range (h : 2 ^ 10 ≤ s.reg a) : s.withQueue a f = .next (s.trapHere cRANGE 1 (s.reg a)) :=
  if_pos (Nat.div_pos h (by decide)).ne'

/-- A word that names a queue meets the check of its context. -/
theorem State.withQueue_of_get (h : s.reg a < 1024) (hx : s.work.queues.get? (s.reg a) = some x) : s.withQueue a f =
    if x.ctx = s.cur.ctx ∧ !s.cur.onControl then f (s.reg a) x else .next (s.trapHere cPDENY 0 (s.reg a)) := by
  unfold State.withQueue
  dsimp only
  rw [if_neg (not_not_intro (Nat.div_eq_of_lt h)), hx]

theorem State.withQueue_other (h : s.reg a < 1024) (hx : s.work.queues.get? (s.reg a) = some x) (hc : x.ctx ≠ s.cur.ctx) :
    s.withQueue a f = .next (s.trapHere cPDENY 0 (s.reg a)) := by
  rw [State.withQueue_of_get h hx, if_neg fun hp => hc hp.1]

/-- A queue of the issuer's own context, which is not on a control core. -/
def State.ownQueue (s : State) (a : Nat) (x : Queue) : Prop :=
  s.reg a < 1024 ∧ s.work.queues.get? (s.reg a) = some x ∧ x.ctx = s.cur.ctx ∧ s.cur.onControl = false

theorem State.withQueue_own (h : s.ownQueue a x) : s.withQueue a f = f (s.reg a) x := by
  obtain ⟨hv, hx, hc, ho⟩ := h
  rw [State.withQueue_of_get hv hx, if_pos ⟨hc, by simp [ho]⟩]

theorem State.queue_of_own (h : s.ownQueue a x) : s.queue (s.reg a) = x := by
  unfold State.queue FMap.getD
  rw [h.2.1]
  rfl

theorem exec_qlaunch_def (hs : s.cur.shadow = none) : exec (.qlaunch d a b la) s = s.withQueue a fun q x =>
    if !x.dev ∨ x.st ≠ 1 then .next (s.trapHere cRANGE 2 (s.reg a))
    else if s.cur.det ∧ s.cur.launch.isSome ∧ (s.cur.orig ≠ 0 ∨ (s.cur.launch.map fun l => l.grp == 0 && l.thr == 0) ≠ some true) then
      .next (s.trapHere cRANGE 3 (s.reg a))
    else if s.reg b % 128 ≠ 0 then .next (s.trapHere cALIGN 0 (s.reg b))
    else
      (s.loadRec (s.reg b) 0 16).out fun r s =>
        if 2 ^ x.nrec ≤ x.tail - x.head then .next ((s.retire 4).setRegLa la d 0 0)
        else
          let w : Who := { s.me with level := .sup }
          match s.engWrite w 2 (x.ring + 128 * (x.tail % 2 ^ x.nrec)) 128 r with
          | .error e => (s.failAcc (α := Unit) w 4 aWrite e).halt
          | .ok s =>
            let s := (s.releaseTo (ptDoor q (x.tail + 1)) 4).setTail q (x.tail + 1)
            s.settle 4 fun s => .next ((s.retire 4).setRegLa la d (x.tail + 1) 0) := if_neg (by simp [hs])

/-- A queue that takes launches of the issuer (R338). -/
def State.mayLaunch (s : State) (a : Nat) (x : Queue) : Prop :=
  s.ownQueue a x ∧ x.dev = true ∧ x.st = 1
    ∧ (s.cur.det = true → s.cur.launch.isSome = true → s.cur.orig = 0 ∧ ∃ l, s.cur.launch = some l ∧ l.grp = 0 ∧ l.thr = 0)

theorem exec_qlaunch_of_may (hs : s.cur.shadow = none) (h : s.mayLaunch a x) : exec (.qlaunch d a b la) s =
    if s.reg b % 128 ≠ 0 then .next (s.trapHere cALIGN 0 (s.reg b))
    else
      (s.loadRec (s.reg b) 0 16).out fun r s' =>
        if 2 ^ x.nrec ≤ x.tail - x.head then .next ((s'.retire 4).setRegLa la d 0 0)
        else
          let w : Who := { s'.me with level := .sup }
          match s'.engWrite w 2 (x.ring + 128 * (x.tail % 2 ^ x.nrec)) 128 r with
          | .error e => (s'.failAcc (α := Unit) w 4 aWrite e).halt
          | .ok u =>
            let v := (u.releaseTo (ptDoor (s.reg a) (x.tail + 1)) 4).setTail (s.reg a) (x.tail + 1)
            v.settle 4 fun s => .next ((s.retire 4).setRegLa la d (x.tail + 1) 0) := by
  obtain ⟨hown, hdev, hst, hdet⟩ := h
  have hopen : ¬ ((!x.dev) = true ∨ x.st ≠ 1) := by simp [hdev, hst]
  have hleader : ¬ (s.cur.det = true ∧ s.cur.launch.isSome = true
      ∧ (s.cur.orig ≠ 0 ∨ (s.cur.launch.map fun l => l.grp == 0 && l.thr == 0) ≠ some true)) := by
    rintro ⟨h1, h2, h3⟩
    obtain ⟨h0, l, hl, hg, ht⟩ := hdet h1 h2
    rw [hl] at h3
    simp [h0, hg, ht] at h3
  rw [exec_qlaunch_def hs, State.withQueue_own hown, if_neg hopen, if_neg hleader]

/-- The ring is full. -/
theorem Runs.qlaunch_full (hd : d < 32) (hs : s.cur.shadow = none) (h : s.mayLaunch a x) (hal : s.reg b % 128 = 0)
    (hload : s.loadRec (s.reg b) 0 16 = .ok r t) (hfull : 2 ^ x.nrec ≤ x.tail - x.head) :
    Runs (.qlaunch d a b la) s (LongResult t · la d 0 0) := by
  refine Runs.of_putLaFrom ?_ hd
  rw [exec_qlaunch_of_may hs h, if_neg (not_not_intro hal), hload]
  exact if_pos hfull

theorem Runs.qlaunch (hd : d < 32) (hs : s.cur.shadow = none) (h : s.mayLaunch a x) (hal : s.reg b % 128 = 0)
    (hload : s.loadRec (s.reg b) 0 16 = .ok r t) (hroom : x.tail - x.head < 2 ^ x.nrec)
    (hw : t.engWrite { t.me with level := .sup } 2 (x.ring + 128 * (x.tail % 2 ^ x.nrec)) 128 r = .ok u) :
    Runs (.qlaunch d a b la) s
      (LongResult ((u.releaseTo (ptDoor (s.reg a) (x.tail + 1)) 4).setTail (s.reg a) (x.tail + 1)) · la d (x.tail + 1) 0) := by
  refine Runs.of_putLaFrom ?_ hd
  rw [exec_qlaunch_of_may hs h, if_neg (not_not_intro hal), hload]
  refine (if_neg (Nat.not_le.2 hroom)).trans ?_
  dsimp only
  rw [hw]
  exact if_pos (by decide)

/-- A counter is read and cleared. -/
theorem Runs.spstatClr (hd : d < 32) (h : s.ownQueue a x) (hi : s.reg b ≤ 12) :
    Runs (.spstatClr d a b la) s fun t => t.Holds d (x.counters.getD (s.reg b) 0) 0 ∧ t.pc = (s.pc + 4) % 2 ^ 56
      ∧ (∀ k, k < 13 → (t.queue (s.reg a)).counters.getD k 0 = if k = s.reg b then 0 else x.counters.getD k 0)
      ∧ SameMem s t fun k => s.pcSpan k ∨ s.regSpan d k := by
  set f : Queue → Queue := fun y => { y with counters := (List.range 13).map fun k => if k = s.reg b then 0 else y.counters.getD k 0 }
  have hexec : exec (.spstatClr d a b la) s = (s.modQueue (s.reg a) f).putLa la d (x.counters.getD (s.reg b) 0) 0 := by
    refine (execSpstatClr.eq_1 d a b la s).trans ?_
    rw [State.withQueue_own h]
    exact if_neg (Nat.not_lt.2 hi)
  obtain ⟨t, ht, hpc, hval, -, honly, hframe⟩ := Runs.of_putLaFrom hexec hd
  have hwork := congrArg State.work honly
  change t.work = (s.modQueue (s.reg a) f).work at hwork
  have hqueue : t.queue (s.reg a) = f x := by
    rw [← State.queue_of_own h, ← State.queue_modQueue s (s.reg a) f]
    unfold State.queue
    rw [hwork]
  refine ⟨t, ht, hval, hpc, fun k hk => ?_, hframe⟩
  rw [hqueue]
  simp [f, List.getD_eq_getElem?_getD, hk]

end Forms

/-! ### The doorbell (R331) -/

section Doorbell

variable {s : State} {q tail : Nat}

theorem exec_doorbell_ignored (h : (s.queue q).st = 0 ∨ s.dev.ready = false) : exec (.doorbell q tail) s = .next s :=
  congrArg Host.Outcome.next (if_pos (h.imp_right fun hr => by simp [hr]))

theorem exec_doorbell_open (hst : (s.queue q).st ≠ 0) (hr : s.dev.ready = true) : exec (.doorbell q tail) s = .next (
    if (s.queue q).dev then (s.discardShadow q 12).putQueueSt q 2 2
    else if tail < (s.queue q).tail ∨ (s.queue q).head + 2 ^ (s.queue q).nrec < tail then ((s.setTail q tail).discardShadow q 12).putQueueSt q 2 1
    else s.setTail q tail) :=
  congrArg Host.Outcome.next (if_neg fun h => h.elim hst fun hp => by simp [hr] at hp)

/-- A bad doorbell halts its queue. -/
theorem Runs.doorbell_bad (hst : (s.queue q).st ≠ 0) (hr : s.dev.ready = true)
    (hbad : (s.queue q).dev = true ∨ tail < (s.queue q).tail ∨ (s.queue q).head + 2 ^ (s.queue q).nrec < tail) :
    Runs (.doorbell q tail) s fun t => (t.queue q).st = 2 ∧ (t.queue q).err = if (s.queue q).dev then 2 else 1 := by
  have halted (u : State) (e : Nat) : ((u.putQueueSt q 2 e).queue q).st = 2 ∧ ((u.putQueueSt q 2 e).queue q).err = e :=
    have h := queueSt_putQueueSt u q 2 e (by decide)
    ⟨congrArg (·.1) h, congrArg (·.2) h⟩
  refine ⟨_, exec_doorbell_open hst hr, ?_⟩
  cases hdev : (s.queue q).dev with
  | true => exact halted _ 2
  | false =>
    have hout := hbad.resolve_left (by simp [hdev])
    simp only [Bool.false_eq_true, if_false, if_pos hout]
    exact halted _ 1

/-- What a doorbell within its bounds stores before TAIL is written. -/
def State.rung (s : State) (q tail : Nat) : State := s.modQueue q fun y => { y with tail := tail, tailDue := true }

theorem exec_doorbell_good (hst : (s.queue q).st ≠ 0) (hr : s.dev.ready = true) (hdev : (s.queue q).dev = false)
    (hlo : (s.queue q).tail ≤ tail) (hhi : tail ≤ (s.queue q).head + 2 ^ (s.queue q).nrec) :
    exec (.doorbell q tail) s = .next ((s.rung q tail).putTail q) := by
  rw [exec_doorbell_open hst hr, if_neg (by simp [hdev]), if_neg (by omega)]
  rfl

theorem queue_rung : (s.rung q tail).queue q = { s.queue q with tail := tail, tailDue := true } := State.queue_modQueue s q _

theorem putTail_rung_stalled (h : (s.queue q).stalled.isSome = true) : (s.rung q tail).putTail q = s.rung q tail := by
  unfold State.putTail
  rw [queue_rung]
  exact if_pos (by simp [h])

theorem putTail_rung (h : (s.queue q).stalled = none) (he : (s.queue q).st ≠ 2 ∨ (s.queue q).err ≠ 3) : (s.rung q tail).putTail q =
    match (s.rung q tail).qWrite (s.queue q).ctx ((s.queue q).desc + 0x10) 8 tail with
    | .ok s => s.modQueue q fun y => { y with tailDue := false }
    | .error e => (s.rung q tail).queueFail q e := by
  have hgo : ¬ (!({ s.queue q with tail := tail, tailDue := true } : Queue).tailDue
      || (s.queue q).stalled.isSome || ((s.queue q).st == 2 && (s.queue q).err == 3)) = true := by
    rcases he with he | he <;> simp [h, he]
  unfold State.putTail
  rw [queue_rung]
  exact if_neg hgo

end Doorbell

/-- Settles O46, one lemma for each form. -/
theorem queues : Obligations.Queues := by
  intro s t u d a b la tail q r x hd hs
  refine ⟨fun hv => ⟨?_, ?_, ?_, ?_, fun k => ?_⟩, fun hv hx hc => ⟨?_, ?_, ?_, ?_, fun k => ?_⟩, fun h => ⟨?_, ?_, ?_⟩, fun h hi => ⟨?_, ?_⟩,
    fun h hi => ?_, fun h hi => Runs.spstatClr hd h hi, fun h => ?_, fun h hno => ?_, fun h hal => ?_,
    fun h hal hl hf => Runs.qlaunch_full hd hs h hal hl hf, fun h hal hl hf hw => Runs.qlaunch hd hs h hal hl hf hw,
    exec_doorbell_ignored, fun hst hr hdev hlo hhi => ⟨fun hpark => ?_, fun hno he => ⟨fun w hw => ?_, fun e hw => ?_⟩⟩,
    fun hst hr _ hbad => Runs.doorbell_bad hst hr hbad⟩
  · exact Runs.of_trapHere ((exec_qlaunch_def hs).trans (State.withQueue_range hv)) hs
  · exact Runs.of_trapHere ((execSpstat.eq_1 d a b la s).trans (State.withQueue_range hv)) hs
  · exact Runs.of_trapHere ((execSpstatClr.eq_1 d a b la s).trans (State.withQueue_range hv)) hs
  · exact Runs.of_trapHere ((execSpstatSt.eq_1 d a la s).trans (State.withQueue_range hv)) hs
  · exact Runs.of_trapHere ((execQstat.eq_1 d a k la s).trans (State.withQueue_range hv)) hs
  · exact Runs.of_trapHere ((exec_qlaunch_def hs).trans (State.withQueue_other hv hx hc)) hs
  · exact Runs.of_trapHere ((execSpstat.eq_1 d a b la s).trans (State.withQueue_other hv hx hc)) hs
  · exact Runs.of_trapHere ((execSpstatClr.eq_1 d a b la s).trans (State.withQueue_other hv hx hc)) hs
  · exact Runs.of_trapHere ((execSpstatSt.eq_1 d a la s).trans (State.withQueue_other hv hx hc)) hs
  · exact Runs.of_trapHere ((execQstat.eq_1 d a k la s).trans (State.withQueue_other hv hx hc)) hs
  · exact Runs.of_putLa ((execQstat.eq_1 d a 1 la s).trans (State.withQueue_own h)) hd
  · exact Runs.of_putLa ((execQstat.eq_1 d a 2 la s).trans (State.withQueue_own h)) hd
  · exact Runs.of_putLaFrom ((execQstat.eq_1 d a 0 la s).trans (State.withQueue_own h)) hd
  · exact Runs.of_trapHere (((execSpstat.eq_1 d a b la s).trans (State.withQueue_own h)).trans (if_pos hi)) hs
  · exact Runs.of_trapHere (((execSpstatClr.eq_1 d a b la s).trans (State.withQueue_own h)).trans (if_pos hi)) hs
  · exact Runs.of_putLa (((execSpstat.eq_1 d a b la s).trans (State.withQueue_own h)).trans (if_neg (Nat.not_lt.2 hi))) hd
  · exact Runs.of_putLa ((execSpstatSt.eq_1 d a la s).trans (State.withQueue_own h)) hd
  · exact Runs.of_trapHere (((exec_qlaunch_def hs).trans (State.withQueue_own h)).trans (if_pos (by simpa using hno))) hs
  · exact Runs.of_trapHere ((exec_qlaunch_of_may hs h).trans (if_pos hal)) hs
  · exact ⟨_, (exec_doorbell_good hst hr hdev hlo hhi).trans (congrArg Host.Outcome.next (putTail_rung_stalled hpark)), rfl⟩
  · refine ⟨_, (exec_doorbell_good hst hr hdev hlo hhi).trans (congrArg Host.Outcome.next (putTail_rung hno he)), ?_⟩
    have hw' : (s.rung q tail).qWrite (s.queue q).ctx ((s.queue q).desc + 0x10) 8 tail = .ok w := hw
    simp only [hw']
  · refine ⟨_, (exec_doorbell_good hst hr hdev hlo hhi).trans (congrArg Host.Outcome.next (putTail_rung hno he)), ?_⟩
    have hw' : (s.rung q tail).qWrite (s.queue q).ctx ((s.queue q).desc + 0x10) 8 tail = .error e := hw
    simp only [hw']
    rfl

end Sys2Proof.Machine
end

section
/-!
SUPPORT. What an address's translation and the moves of clause records leave of the state, and the clause instructions
(11 R276 to R288).
-/

namespace Sys2Proof.Machine

/-! ### Properties of the state that an answer carries -/

section Both

variable {α : Type} {P : State → Prop} {c : Prop} [Decidable c]

theorem ite_both {s t : State} (hs : P s) (ht : P t) : P (if c then s else t) := by
  split
  · exact hs
  · exact ht

theorem ite_snd_both {x y : α × State} (hx : P x.2) (hy : P y.2) : P (if c then x else y).2 := by
  split
  · exact hx
  · exact hy

end Both

/-! ### Translation -/

/-- A property that the updates of which a translation is made keep: the coherence state, the draws, the writes of the
hardware itself, and the copies of compressed pages. -/
structure KeptByWalk (P : State → Prop) : Prop where
  write : ∀ {s : State} (a n v : Nat), P s → P (s.hwWrite a n v)
  coh : ∀ {s : State} (v : Coh), P s → P (s.setCoh v)
  sched : ∀ {s : State} (v : Sched), P s → P (s.setSched v)
  zero : ∀ {s : State} (lo hi : Nat), P s → P (s.setMem (Memory.zero s.mem lo hi))
  splice : ∀ {s : State} (lo : Nat) (bs : List Nat), P s → P (s.setMem (Memory.splice s.mem lo bs))

namespace KeptByWalk

variable {P : State → Prop} {s : State}

theorem draw (h : KeptByWalk P) (hs : P s) : P s.draw.2 := h.sched _ hs

theorem tlbPut (h : KeptByWalk P) (hs : P s) (k e : Nat) : P (s.tlbPut k e) := by
  unfold State.tlbPut
  dsimp only
  split_ifs
  · exact hs
  · exact h.coh _ hs
  · exact h.coh _ (h.draw hs)

theorem fitPages (h : KeptByWalk P) (hs : P s) (io : Nat) : P (s.fitPages io) := by
  unfold State.fitPages
  dsimp only
  split_ifs
  · exact hs
  · exact h.coh _ (h.zero _ _ (h.draw hs))

theorem notePage (h : KeptByWalk P) (hs : P s) (desc c va : Nat) : P (s.notePage desc c va) := by
  unfold State.notePage
  dsimp only
  split_ifs
  · exact hs
  · exact h.coh _ hs

theorem decompress (h : KeptByWalk P) (hs : P s) {desc io : Nat} {t : State} (ht : s.decompress desc io = some t) : P t := by
  unfold State.decompress at ht
  dsimp only at ht
  split_ifs at ht
  · exact Option.some.inj ht ▸ hs
  · split at ht
    · cases ht
    · split_ifs at ht
      exact Option.some.inj ht ▸ h.coh _ (h.splice _ _ (h.fitPages hs io))

theorem walkGo (h : KeptByWalk P) (die c va : Nat) (fresh : Bool) (need : Nat) :
    ∀ (l n : Nat) {s : State}, P s → P (s.walkGo die c va fresh need l n).2
  | 0, _, _, hs => hs
  | l + 1, n, s, hs => by
    unfold State.walkGo
    dsimp only
    refine ite_snd_both hs (ite_snd_both hs ?_)
    have hpick {b : Prop} [Decidable b] : P (if b then (0, s) else s.draw).2 := ite_snd_both hs (h.draw hs)
    refine ite_snd_both hpick (ite_snd_both hpick ?_)
    have hput {b : Prop} [Decidable b] {t : State} (k e : Nat) (ht : P t) : P (if b then t else t.tlbPut k e) :=
      ite_both ht (h.tlbPut ht k e)
    exact ite_snd_both (hput _ _ hpick) (h.walkGo die c va fresh need l _ (hput _ _ hpick))

theorem touchLeaf (h : KeptByWalk P) (hs : P s) (w : Who) (va acc : Nat) (f : Leaf) : P (s.touchLeaf w va acc f).2 := by
  unfold State.touchLeaf
  dsimp only
  have hupd {t : State} (k a v e : Nat) (ht : P t) : P ((t.hwWrite a 8 v).tlbPut k e) := h.tlbPut (h.write _ _ _ ht) k e
  refine ite_snd_both hs (ite_snd_both (hupd _ _ _ _ hs) ?_)
  have hwalk := h.walkGo w.node w.ctx va true 0 4 (s.ctx w.ctx).root hs
  generalize s.walkGo w.node w.ctx va true 0 4 (s.ctx w.ctx).root = r at hwalk ⊢
  match r, hwalk with
  | (.error e, t), ht => exact ht
  | (.ok f, t), ht => exact ite_snd_both (hupd _ _ _ _ ht) ht

theorem place (h : KeptByWalk P) (hs : P s) (w : Who) (va acc : Nat) (f : Leaf) : P (s.place w va acc f).2 := by
  unfold State.place
  dsimp only
  refine ite_snd_both hs (ite_snd_both hs (ite_snd_both (ite_snd_both hs ?_) (ite_snd_both ?_ (ite_snd_both ?_ (ite_snd_both ?_
    (ite_snd_both hs ?_))))))
  · split
    · exact hs
    · split
      · exact hs
      · next t ht => exact h.notePage (h.decompress hs ht) _ _ _
  · split <;> exact hs
  · split
    · exact hs
    · split <;> exact hs
  · split
    · exact hs
    · split
      · exact hs
      · refine ite_snd_both (h.coh _ hs) (ite_snd_both (h.coh _ hs) ?_)
        split <;> exact h.coh _ hs
  · split
    · exact hs
    · split <;> exact hs

theorem translate (h : KeptByWalk P) (hs : P s) (w : Who) (va size acc : Nat) : P (s.translate w va size acc).2 := by
  unfold State.translate
  dsimp only
  generalize (if w.shadow.isNone = true then 0 else if isWr acc = true then 0xC0 else 0x40) = need
  have hwalk := h.walkGo w.node w.ctx va false need 4 (s.ctx w.ctx).root hs
  generalize s.walkGo w.node w.ctx va false need 4 (s.ctx w.ctx).root = r at hwalk ⊢
  match r, hwalk with
  | (.error e, t), ht => exact ht
  | (.ok f, t), ht =>
    refine ite_snd_both ht (ite_snd_both ht ?_)
    have htouch := h.touchLeaf ht w va acc f
    generalize t.touchLeaf w va acc f = r at htouch ⊢
    match r, htouch with
    | (.error e, u), hu => exact hu
    | (.ok f, u), hu =>
      have hplace := h.place hu w va acc f
      dsimp only
      generalize u.place w va acc f = r at hplace ⊢
      match r, hplace with
      | (.error e, v), hv => exact hv
      | (.ok loc, v), hv => exact hv

end KeptByWalk
/-! ### The issuer's own record, through moves of others -/

/-- The record of the issuing clause. -/
def State.curRec (s : State) : Option Nat := s.cur.clauseRec

theorem State.myRec_eq (s : State) : s.myRec = s.curRec.map fun i => (i, recKeyOf s.cur.coreKey i) := rfl

theorem State.myRec_eq_none {s : State} : s.myRec = none ↔ s.curRec = none := by rw [s.myRec_eq, Option.map_eq_none_iff]

theorem curRec_discardShadow (s : State) (q reason : Nat) : (s.discardShadow q reason).curRec = s.curRec := by
  have hfree (t : State) : (t.freeShadowRecs q).curRec = t.curRec :=
    State.freeShadowRecs_keeps State.curRec (fun _ _ => rfl) (fun _ _ _ => rfl) t q
  unfold State.discardShadow
  dsimp only
  refine (apply_ite State.curRec _ _ _).trans ((if_congr Iff.rfl rfl ?_).trans (ite_self _))
  refine Eq.trans (apply_ite State.curRec _ _ _) ((if_congr Iff.rfl ?_ ?_).trans (ite_self _)) <;> exact hfree _

theorem curRec_hwWrite (s : State) (k n v : Nat) : (s.hwWrite k n v).curRec = s.curRec := by
  exact (State.killShadows_keeps State.curRec curRec_discardShadow _ _ _).trans ((apply_ite Act.clauseRec _ _ _).trans (ite_self _))

theorem KeptByWalk.curRec (o : Option Nat) : KeptByWalk (fun s => s.curRec = o) where
  write := fun a n v hs => (curRec_hwWrite _ a n v).trans hs
  coh := fun _ hs => hs
  sched := fun _ hs => hs
  zero := fun _ _ hs => hs
  splice := fun _ _ hs => hs

theorem curRec_clovKey {s t : State} {c j k : Nat} (h : s.clovKey c j = .ok (k, t)) : t.curRec = s.curRec := by
  have hkeep := (KeptByWalk.curRec s.curRec).translate rfl (devWho c 0) (((s.ctx c).area 0x30).1 + 64 * j) 64 aWrite
  unfold State.clovKey at h
  rcases hr : s.translate (devWho c 0) (((s.ctx c).area 0x30).1 + 64 * j) 64 aWrite with ⟨e | l, u⟩
  · rw [hr] at h
    cases h
  · rw [hr] at h hkeep
    have hu : u = t := congrArg (fun x => x.2) (Except.ok.inj h)
    exact hu ▸ hkeep

theorem curRec_wakeCluster (s : State) (k : Nat) : (s.wakeCluster k).curRec = s.curRec := by
  unfold State.wakeCluster
  split <;> rfl

theorem curRec_enterRing (s : State) (ck i : Nat) : (s.enterRing ck i).curRec = s.curRec := curRec_wakeCluster _ _

theorem curRec_moveIn (s : State) (c ck i : Nat) : (s.moveIn c ck i).curRec = s.curRec := by
  unfold State.moveIn
  dsimp only
  split
  · rfl
  · split
    · rfl
    · next k t ht =>
      have hmoved (u : State) (x y : Nat) (f : Ctx → Ctx) (g : Core → Core) :
          ((((u.movePoint x y).clearPoint x).modCtx c f).modCore ck g).curRec = u.curRec := rfl
      refine (apply_ite State.curRec _ _ _).trans ((if_congr Iff.rfl (curRec_enterRing _ _ _) rfl).trans ((ite_self _).trans ?_))
      refine (hmoved _ _ _ _ _).trans ((curRec_hwWrite _ _ _ _).trans ?_)
      exact curRec_clovKey (t := t) ht

theorem curRec_fillGo (c ck : Nat) : ∀ (n : Nat) (s : State), (s.fillGo c ck n).curRec = s.curRec
  | 0, _ => rfl
  | n + 1, s => by
    unfold State.fillGo
    split
    · rfl
    · split
      · exact (curRec_fillGo c ck n _).trans (curRec_moveIn _ _ _ _)
      · rfl

theorem curRec_fillRecs (s : State) (ck : Nat) : (s.fillRecs ck).curRec = s.curRec := by
  unfold State.fillRecs
  split
  · rfl
  · exact curRec_fillGo _ _ _ _

/-! ### The instructions (R280 to R285) -/

section Forms

variable {s t u : State} {w d a b la i j k addr va : Nat} {ok : Bool} {p : RecPlace}

theorem handlerBad_of_good {h : Nat} (hg : h % 2 = 0 ∧ h < 2 ^ 56) : handlerBad h = false := by
  unfold handlerBad
  simp only [Bool.or_eq_false_iff, beq_eq_false_iff_ne, bne_eq_false_iff_eq]
  omega

/-- The record that `cnew` makes. -/
def State.made (s : State) (ck i h n path root la d : Nat) : State :=
  ((((s.writeRec (recKeyOf ck i) h n 1 path root 0 []).modCore ck fun y => { y with recs := y.recs.put i s.myInfo }).retire 4).setRegLa
    la d (recAddr ck i) 0)

theorem State.inClause_inside {f : Nat → Nat → Out} (hc : s.cur.orig = 2) (hm : s.myRec = some (i, k)) : s.inClause f = f i k := by
  unfold State.inClause
  rw [hm]
  exact if_pos hc

theorem State.inClause_outside {f : Nat → Nat → Out} (h : ¬ (s.cur.orig = 2 ∧ s.myRec.isSome = true)) :
    s.inClause f = .next (s.trapHere cRANGE 2 0) := by
  unfold State.inClause
  split
  · next i k hm => exact if_neg fun hc => h ⟨hc, by rw [hm]; rfl⟩
  · rfl

/-- A decrement that finds its record, or not. -/
theorem exec_cdec_placed (hea : ea (s.reg a) 0 = .ok va) (hok : s.recAddrOk s.me va = .ok true) (hdec : s.decRec s.me va = .ok (ok, u)) :
    exec (.cdec a) s = .next (if ok then u.retire 4
      else (u.retire 4).modCur fun x => { x with late := x.late ++ [{ code := cRANGE, sub := 6, tval := va, kind := 3, n := 0 }] }) := by
  refine (execCdec.eq_1 a s).trans ?_
  rw [hea]
  dsimp only
  rw [hok]
  dsimp only
  rw [hdec]
  exact congrArg Host.Outcome.next (if_congr Iff.rfl rfl ((u.retire 4).onAct_self _))

theorem Runs.cdec_placed (hea : ea (s.reg a) 0 = .ok va) (hok : s.recAddrOk s.me va = .ok true)
    (hdec : s.decRec s.me va = .ok (ok, u)) : Runs (.cdec a) s fun x => x.pc = (u.pc + 4) % 2 ^ 56 ∧ SameMem u x u.pcSpan
      ∧ x.cur = if ok then u.cur else { u.cur with late := u.cur.late ++ [{ code := 0x0A, sub := 6, tval := va, kind := 3, n := 0 }] } := by
  refine ⟨_, exec_cdec_placed hea hok hdec, ?_⟩
  have hframe : SameMem u (u.retire 4) u.pcSpan := u.rd_retire_ne 4
  cases ok with
  | true => exact ⟨u.pc_retire 4, hframe, u.retire_cur 4⟩
  | false =>
    exact ⟨(State.pc_of_same rfl rfl).trans (u.pc_retire 4), hframe, rfl⟩

theorem Runs.cdec_outside (hea : ea (s.reg a) 0 = .ok va) (hok : s.recAddrOk s.me va = .ok false) (hs : s.cur.shadow = none) :
    Runs (.cdec a) s (Trapped s · 0x0A 0 va s.pc) := by
  refine Runs.of_trapHere ((execCdec.eq_1 a s).trans ?_) hs
  rw [hea]
  dsimp only
  rw [hok]
  rfl

/-- A child of record `k` is counted there, after it has been placed. -/
def State.counted (t : State) (k ctl : Nat) : State := t.setCtl k (setBits ctl 4 7 (ctlKids ctl + 1))

variable (hg : s.reg a % 2 = 0 ∧ s.reg a < 2 ^ 56) (hn : 1 ≤ s.reg b ∧ s.reg b < 2 ^ 31)

include hg hn

theorem exec_cnew_outside_full (hm : s.myRec = none)
    (ho : (s.fillRecs s.cur.coreKey).newRoot.2.freeRec s.cur.coreKey = none) :
    exec (.cnew d a b la) s = .next (((s.fillRecs s.cur.coreKey).newRoot.2.retire 4).setRegLa la d 0 0) := by
  have hr : ¬ (s.reg b = 0 ∨ 2 ^ 31 ≤ s.reg b) := by omega
  have hf : (s.fillRecs s.cur.coreKey).myRec = none :=
    State.myRec_eq_none.2 ((curRec_fillRecs _ _).trans (State.myRec_eq_none.1 hm))
  refine (execCnew.eq_1 d a b la s).trans ((if_neg (Bool.eq_false_iff.1 (handlerBad_of_good hg))).trans ((if_neg hr).trans ?_))
  generalize s.fillRecs s.cur.coreKey = f at hf ho ⊢
  dsimp only
  rw [hf]
  dsimp only
  rw [ho]

theorem exec_cnew_outside (hm : s.myRec = none)
    (ho : (s.fillRecs s.cur.coreKey).newRoot.2.freeRec s.cur.coreKey = some i) : exec (.cnew d a b la) s =
      .next ((s.fillRecs s.cur.coreKey).newRoot.2.made s.cur.coreKey i (s.reg a) (s.reg b) 0 (s.fillRecs s.cur.coreKey).newRoot.1 la d) := by
  have hr : ¬ (s.reg b = 0 ∨ 2 ^ 31 ≤ s.reg b) := by omega
  have hf : (s.fillRecs s.cur.coreKey).myRec = none :=
    State.myRec_eq_none.2 ((curRec_fillRecs _ _).trans (State.myRec_eq_none.1 hm))
  refine (execCnew.eq_1 d a b la s).trans ((if_neg (Bool.eq_false_iff.1 (handlerBad_of_good hg))).trans ((if_neg hr).trans ?_))
  generalize s.fillRecs s.cur.coreKey = f at hf ho ⊢
  dsimp only
  rw [hf]
  dsimp only
  rw [ho]
  rfl

theorem exec_cnew_full (hm : (s.fillRecs s.cur.coreKey).myRec = some (i, k))
    (hk : ctlKids ((s.fillRecs s.cur.coreKey).recCtl k) < 64) (hp : (s.fillRecs s.cur.coreKey).recPath k / 2 ^ 60 < 9)
    (ho : (s.fillRecs s.cur.coreKey).freeRec s.cur.coreKey = none) :
    exec (.cnew d a b la) s = (s.fillRecs s.cur.coreKey).putLa la d 0 0 := by
  have hr : ¬ (s.reg b = 0 ∨ 2 ^ 31 ≤ s.reg b) := by omega
  refine (execCnew.eq_1 d a b la s).trans ((if_neg (Bool.eq_false_iff.1 (handlerBad_of_good hg))).trans ((if_neg hr).trans ?_))
  generalize s.fillRecs s.cur.coreKey = f at hm hk hp ho ⊢
  have hmore : ¬ (64 ≤ ctlKids (f.recCtl k) ∨ 9 ≤ f.recPath k / 2 ^ 60) := by omega
  dsimp only
  rw [hm]
  dsimp only
  rw [if_neg hmore, ho]
  dsimp only [Option.isSome]
  rw [if_neg Bool.false_ne_true, ho]
  rfl

theorem exec_cnew_child {v : State} (hm : (s.fillRecs s.cur.coreKey).myRec = some (i, k))
    (hk : ctlKids ((s.fillRecs s.cur.coreKey).recCtl k) < 64) (hp : (s.fillRecs s.cur.coreKey).recPath k / 2 ^ 60 < 9)
    (ho : (s.fillRecs s.cur.coreKey).freeRec s.cur.coreKey = some j)
    (hv : (s.fillRecs s.cur.coreKey).setCtl k
      (setBits ((s.fillRecs s.cur.coreKey).recCtl k) 4 7 (ctlKids ((s.fillRecs s.cur.coreKey).recCtl k) + 1)) = v)
    (hj : v.freeRec s.cur.coreKey = some j) :
    exec (.cnew d a b la) s = .next (v.made s.cur.coreKey j (s.reg a) (s.reg b)
      (childPath ((s.fillRecs s.cur.coreKey).recPath k) (ctlKids ((s.fillRecs s.cur.coreKey).recCtl k))) (v.recRoot k) la d) := by
  have hr : ¬ (s.reg b = 0 ∨ 2 ^ 31 ≤ s.reg b) := by omega
  refine (execCnew.eq_1 d a b la s).trans ((if_neg (Bool.eq_false_iff.1 (handlerBad_of_good hg))).trans ((if_neg hr).trans ?_))
  generalize s.fillRecs s.cur.coreKey = f at hm hk hp ho hv ⊢
  have hmore : ¬ (64 ≤ ctlKids (f.recCtl k) ∨ 9 ≤ f.recPath k / 2 ^ 60) := by omega
  dsimp only
  rw [hm]
  dsimp only
  rw [if_neg hmore, ho]
  dsimp only [Option.isSome]
  rw [if_pos rfl, hv, hj]
  rfl

omit hn

theorem exec_cspawn_alone (hc : s.cur.orig = 2) (hm : s.myRec = some (i, k)) (hk : ctlKids (s.recCtl k) < 64)
    (hp : s.recPath k / 2 ^ 60 < 9) (hh : ctlHold (s.recCtl k) = false)
    (hplace : s.placeRec (s.childCore (childPath (s.recPath k) (ctlKids (s.recCtl k))) (s.recRoot k)) (s.reg a) 0 2
      (childPath (s.recPath k) (ctlKids (s.recCtl k))) (s.recRoot k) 0 ((List.range w).map fun i => s.reg (b + i)) = .ok (some (addr, t))) :
    exec (.cspawn w d a b la) s = .next (((t.counted k (s.recCtl k)).retire 4).setRegLa la d (ctlKids (s.recCtl k)) 0) := by
  have hmore : ¬ (64 ≤ ctlKids (s.recCtl k) ∨ 9 ≤ s.recPath k / 2 ^ 60) := by omega
  refine (execCspawn.eq_1 w d a b la s).trans ((if_neg (Bool.eq_false_iff.1 (handlerBad_of_good hg))).trans ?_)
  refine (State.inClause_inside hc hm).trans ((if_neg hmore).trans ?_)
  dsimp only
  rw [hh, if_neg Bool.false_ne_true, State.findConj, if_pos rfl]
  dsimp only
  rw [hplace]
  rfl

theorem exec_cspawn_held (hc : s.cur.orig = 2) (hm : s.myRec = some (i, k)) (hk : ctlKids (s.recCtl k) < 64)
    (hp : s.recPath k / 2 ^ 60 < 9) (hh : ctlHold (s.recCtl k) = true) (h0 : s.recConj k ≠ 0)
    (hfind : s.findRec s.me (s.recConj k) = .ok (some p, u))
    (hplace : u.placeRec (u.childCore (childPath (s.recPath k) (ctlKids (s.recCtl k))) (s.recRoot k)) (s.reg a) 0 2
      (childPath (s.recPath k) (ctlKids (s.recCtl k))) (s.recRoot k) (s.recConj k)
      ((List.range w).map fun i => u.reg (b + i)) = .ok (some (addr, t))) :
    exec (.cspawn w d a b la) s = .next ((((t.counted k (s.recCtl k)).putRec p 8 4
      ((t.counted k (s.recCtl k)).recCnt p.key + 1)).retire 4).setRegLa la d (ctlKids (s.recCtl k)) 0) := by
  have hmore : ¬ (64 ≤ ctlKids (s.recCtl k) ∨ 9 ≤ s.recPath k / 2 ^ 60) := by omega
  refine (execCspawn.eq_1 w d a b la s).trans ((if_neg (Bool.eq_false_iff.1 (handlerBad_of_good hg))).trans ?_)
  refine (State.inClause_inside hc hm).trans ((if_neg hmore).trans ?_)
  dsimp only
  rw [hh, if_pos rfl, State.findConj, if_neg h0, hfind]
  dsimp only
  rw [hplace]
  rfl

theorem exec_cjoin_placed (hc : s.cur.orig = 2) (hm : s.myRec = some (i, k)) (hh : ctlHold (s.recCtl k) = false)
    (hplace : s.placeRec s.cur.coreKey (s.reg a) 1 (1 + 8 + ctlKids (s.recCtl k) * 2 ^ 11) (s.recPath k) (s.recRoot k) (s.recConj k)
      [0, 0, s.reg b] = .ok (some (addr, t))) :
    exec (.cjoin d a b la) s = .next ((((t.wrN (k + 32) 8 addr).setCtl k (setBits (s.recCtl k) 2 1 1)).retire 4).setRegLa la d addr 0) := by
  refine (execCjoin.eq_1 d a b la s).trans ((if_neg (Bool.eq_false_iff.1 (handlerBad_of_good hg))).trans ?_)
  refine (State.inClause_inside hc hm).trans ((if_neg (Bool.eq_false_iff.1 hh)).trans ?_)
  dsimp only
  rw [hplace]

theorem Runs.clauseForms_outside (ho : ¬ (s.cur.orig = 2 ∧ s.myRec.isSome = true)) (hs : s.cur.shadow = none) :
    Runs (.cspawn w d a b la) s (Trapped s · 0x0A 2 0 s.pc) ∧ Runs (.cjoin d a b la) s (Trapped s · 0x0A 2 0 s.pc)
      ∧ Runs (.cdone a) s (Trapped s · 0x0A 2 0 s.pc) := by
  have hgood := Bool.eq_false_iff.1 (handlerBad_of_good hg)
  exact ⟨Runs.of_trapHere ((execCspawn.eq_1 w d a b la s).trans ((if_neg hgood).trans (State.inClause_outside ho))) hs,
    Runs.of_trapHere ((execCjoin.eq_1 d a b la s).trans ((if_neg hgood).trans (State.inClause_outside ho))) hs,
    Runs.of_trapHere ((execCdone.eq_1 a s).trans (State.inClause_outside ho)) hs⟩

omit hg

theorem exec_cdone_waits (hc : s.cur.orig = 2) (hm : s.myRec = some (i, k)) (hl : s.cur.late = []) (hw : s.endWaits = true) :
    exec (.cdone a) s = .next s :=
  (execCdone.eq_1 a s).trans ((State.inClause_inside hc hm).trans (State.ending_of_waits hl hw))

theorem exec_cdone_alone (hc : s.cur.orig = 2) (hm : s.myRec = some (i, k)) (hl : s.cur.late = []) (hw : s.endWaits = false)
    (h0 : s.recConj k = 0) : exec (.cdone a) s = .next (s.clauseEnd i) :=
  (execCdone.eq_1 a s).trans ((State.inClause_inside hc hm).trans ((State.ending_of_free hl hw).trans (if_pos h0)))

theorem exec_cdone_held (hc : s.cur.orig = 2) (hm : s.myRec = some (i, k)) (hl : s.cur.late = []) (hw : s.endWaits = false)
    (h0 : s.recConj k ≠ 0) (hh : ctlHold (s.recCtl k) = true) (hdec : s.decRec s.me (s.recConj k) = .ok (true, u)) :
    exec (.cdone a) s = .next (u.clauseEnd i) := by
  refine (execCdone.eq_1 a s).trans ((State.inClause_inside hc hm).trans ((State.ending_of_free hl hw).trans ((if_neg h0).trans
    ((if_pos hh).trans ?_))))
  unfold State.doneDec
  rw [hdec]
  rfl

end Forms

/-! ### The start of a clause (R284) -/

theorem FMap.mem_vals_put {α : Type} (k : Nat) (v : α) : ∀ m : FMap α, v ∈ (FMap.put m k v).vals
  | [] => List.mem_singleton.2 rfl
  | (j, w) :: m => by
    unfold FMap.put
    split_ifs
    · exact List.mem_cons_self ..
    · exact List.mem_cons_self ..
    · exact List.mem_cons_of_mem _ (FMap.mem_vals_put k v m)

/-- An activation that goes on living stands among all of them when another one is looked at. -/
theorem State.mem_allActs_focusOn {s : State} (h : s.cur.live = true) (c : Nat) : s.cur ∈ (s.focusOn c).allActs := by
  have hself : s.cur ∈ s.allActs := List.mem_append_left _ (by rw [if_pos h]; exact List.mem_singleton.2 rfl)
  unfold State.focusOn
  split
  · exact hself
  · split
    · exact hself
    · refine List.mem_append_right _ ?_
      simp only [State.setCur_acts, State.setActs_acts]
      exact FMap.mem_vals_put _ _ _

theorem State.cores_focusOn (s : State) (c : Nat) : (s.focusOn c).cores = s.cores := by
  unfold State.focusOn
  split
  · rfl
  · split <;> rfl

theorem State.cur_focusOn {s : State} {a : Act} {id : Nat} (h : s.cur.id ≠ id) (ha : s.acts.get? id = some a) :
    (s.focusOn id).cur = a := by
  unfold State.focusOn
  rw [if_neg h, ha]
  rfl

theorem State.acts_addAct (s : State) (a : Act) :
    (s.addAct a).acts.get? s.sched.nextAct = some { a with id := s.sched.nextAct, live := true, wd := s.cycle a.die } :=
  FMap.get?_put_self _ _ _

theorem l1_syncAt (s : State) (xs : List (Nat × Nat)) (sc : Nat) (h : sc ≠ 0) : ((s.syncAt xs sc).core s.cur.coreKey).l1 = [] := by
  unfold State.syncAt
  dsimp only
  rw [if_neg h]
  exact State.l1_l1Clear _ _

/-- A new activation that acquires at package scope: it lives under its number, and the L1 of its core is empty. -/
theorem State.sync_added (s : State) (a : Act) (xs : List (Nat × Nat)) (h : s.cur.id ≠ s.sched.nextAct) :
    ∃ b ∈ ((s.addAct a).syncAct s.sched.nextAct xs).allActs,
      (∃ l : Nat, ∃ v, b = { a with id := s.sched.nextAct, live := true, wd := l, view := v })
        ∧ (((s.addAct a).syncAct s.sched.nextAct xs).core a.coreKey).l1 = [] := by
  have hget := s.acts_addAct a
  have hne : (s.addAct a).cur.id ≠ s.sched.nextAct := h
  generalize s.sched.nextAct = id at hget hne ⊢
  generalize s.addAct a = u at hget hne ⊢
  have hsync : u.syncAct id xs = ((u.focusOn id).syncAt xs 4).focusOn u.cur.id := by
    unfold State.syncAct State.onAct
    dsimp only
    rw [if_neg hne, hget]
  have hcur := State.cur_focusOn hne hget
  have hacq := AcquireOnly.of_syncAt (u.focusOn id) xs 4
  have hl1 := l1_syncAt (u.focusOn id) xs 4 (by decide)
  rw [hcur] at hl1
  have hat := hacq.cur
  rw [hcur] at hat
  have hlive : ((u.focusOn id).syncAt xs 4).cur.live = true := by rw [hat]
  refine ⟨((u.focusOn id).syncAt xs 4).cur, hsync ▸ State.mem_allActs_focusOn hlive _, ⟨_, _, hat⟩, ?_⟩
  rw [hsync, State.core_congr (State.cores_focusOn _ _)]
  exact hl1

section Start

variable {f : State} {core c slot : Nat}

/-- The record at the head of a core's ready ring. -/
def State.ringRec (f : State) (core : Nat) : Nat :=
  f.rdN (tcmOf core (0x2804 + 2 * (f.rdN (tcmOf core 0x2800) 2 % 64))) 2 % 64

/-- The ring moves past its head. -/
def State.ringPop (f : State) (core : Nat) : State := f.wrN (tcmOf core 0x2800) 2 (f.rdN (tcmOf core 0x2800) 2 + 1)

/-- The activation that a ready record starts. -/
def State.clauseAct (f : State) (core c slot : Nat) : Act :=
  let info := FMap.getD (f.core core).recs (f.ringRec core) {}
  { ctx := c, die := core / 8192, cluster := core / 8 % 1024, core := core % 8, slot := slot, wp := wsOf slot,
    level := startLevel core 0, orig := 2, det := info.det, launch := info.launch, clauseRec := some (f.ringRec core), shadow := info.shadow,
    hasRoot := ((f.ringPop core).setCtl (recKeyOf core (f.ringRec core))
      (setBits ((f.ringPop core).recCtl (recKeyOf core (f.ringRec core))) 0 2 3)).recRoot (recKeyOf core (f.ringRec core)) % 2 ^ 32
        != 0xFFFFFFFF }

theorem State.sched_startWs (s : State) (k pc x1 x2 x3 x4 st : Nat) : (s.startWs k pc x1 x2 x3 x4 st).sched = s.sched := rfl

theorem State.cur_startWs (s : State) (k pc x1 x2 x3 x4 st : Nat) : (s.startWs k pc x1 x2 x3 x4 st).cur = s.cur := rfl

theorem State.startAct_eq (s : State) (a : Act) (pc x1 x2 x3 x4 : Nat) : s.startAct a pc x1 x2 x3 x4
    = (s.startWs (tcmKey a.die a.cluster a.core a.wp) (pc % 2 ^ 56) x1 x2 x3 x4 (stStart a.orig a.det a.pri)).addAct a := rfl

/-- The record at the head of the ring, marked as running. -/
def State.ringRun (f : State) (core : Nat) : State :=
  (f.ringPop core).setCtl (recKeyOf core (f.ringRec core))
    (setBits ((f.ringPop core).recCtl (recKeyOf core (f.ringRec core))) 0 2 3)

/-- The record at the head of the ring starts in the seat. -/
theorem exec_clauseStart_starts {s : State} (hf : s.fillRecs core = f)
    (hown : (if decide (ctlCluster ≤ core / 8 % 1024) = true then some (FMap.getD (f.core core).recs
      (f.rdN (tcmOf core (0x2804 + 2 * (f.rdN (tcmOf core 0x2800) 2 % 64))) 2 % 64) {}).ctx else (f.cluster (core / 8)).owner) = some c) (hseat : f.freeSeat core = some slot)
    (hruns : decide (ctlCluster ≤ core / 8 % 1024) = true ∨ f.running c = true) (hawake : (f.cluster (core / 8)).awake = 1)
    (hring : f.ringCount core ≠ 0) (hbefore : f.beforeRing core = false)
    (hready : ctlState ((f.ringPop core).recCtl (recKeyOf core (f.ringRec core))) = 2) :
    exec (.clauseStart core) s = .next (((f.ringRun core).startAct (f.clauseAct core c slot)
      ((f.ringRun core).rdN (recKeyOf core (f.ringRec core)) 8) (win0 (0x1800 + 64 * f.ringRec core)) 0 0 0).syncAct f.sched.nextAct
        [(ptRec (recKeyOf core (f.ringRec core)), ptRec (recKeyOf core (f.ringRec core)))]) := by
  have hgo : ¬ ((!(decide (ctlCluster ≤ core / 8 % 1024) || f.running c) || (f.cluster (core / 8)).awake != 1 || f.ringCount core == 0
      || f.beforeRing core) = true) := by
    simp only [Bool.or_eq_true, Bool.not_eq_true', Bool.or_eq_false_iff, bne_iff_ne, beq_iff_eq, hawake, hring, hbefore, ne_eq,
      not_true_eq_false, or_false, Bool.false_eq_true]
    rintro ⟨hc, hr⟩
    rcases hruns with h | h
    · rw [hc] at h; cases h
    · rw [hr] at h; cases h
  refine (execClauseStart.eq_1 core s).trans ?_
  rw [hf]
  dsimp only
  rw [hown, hseat]
  dsimp only
  rw [if_neg hgo]
  refine (if_neg (not_not.2 hready)).trans ?_
  rfl

theorem Runs.clauseStart_starts {s : State} (hf : s.fillRecs core = f)
    (hown : (if decide (ctlCluster ≤ core / 8 % 1024) = true then some (FMap.getD (f.core core).recs
      (f.rdN (tcmOf core (0x2804 + 2 * (f.rdN (tcmOf core 0x2800) 2 % 64))) 2 % 64) {}).ctx else (f.cluster (core / 8)).owner) = some c)
    (hseat : f.freeSeat core = some slot)
    (hruns : decide (ctlCluster ≤ core / 8 % 1024) = true ∨ f.running c = true) (hawake : (f.cluster (core / 8)).awake = 1)
    (hid : f.cur.id ≠ f.sched.nextAct) (hring : f.ringCount core ≠ 0) (hbefore : f.beforeRing core = false)
    (hready : ctlState ((f.ringPop core).recCtl (recKeyOf core (f.ringRec core))) = 2) :
    Runs (.clauseStart core) s fun x => ∃ act ∈ x.allActs, act.orig = 2 ∧ act.slot = slot ∧ act.clauseRec = some (f.ringRec core)
      ∧ act.wp = 0x140 * slot ∧ act.ctx = c ∧ act.live = true ∧ act.id = f.sched.nextAct ∧ (x.core core).l1 = [] := by
  refine ⟨_, exec_clauseStart_starts hf hown hseat hruns hawake hring hbefore hready, ?_⟩
  rw [State.startAct_eq]
  have hkey : (f.clauseAct core c slot).coreKey = core := by
    change (core / 8192 * 1024 + core / 8 % 1024) * 8 + core % 8 = core
    omega
  have hadd (u : State) (hsched : u.sched = f.sched) (hcur : u.cur = f.cur) (xs : List (Nat × Nat)) :
      ∃ act ∈ ((u.addAct (f.clauseAct core c slot)).syncAct f.sched.nextAct xs).allActs, act.orig = 2 ∧ act.slot = slot
        ∧ act.clauseRec = some (f.ringRec core) ∧ act.wp = 0x140 * slot ∧ act.ctx = c ∧ act.live = true ∧ act.id = f.sched.nextAct
        ∧ (((u.addAct (f.clauseAct core c slot)).syncAct f.sched.nextAct xs).core core).l1 = [] := by
    obtain ⟨act, hmem, ⟨l, v, rfl⟩, hl1⟩ := u.sync_added (f.clauseAct core c slot) xs (by rw [hsched, hcur]; exact hid)
    rw [hsched, hkey] at hl1
    rw [hsched] at hmem
    exact ⟨_, hmem, rfl, rfl, rfl, rfl, rfl, rfl, rfl, hl1⟩
  have hsched : (f.ringRun core).sched = f.sched := rfl
  have hcur : (f.ringRun core).cur = f.cur := rfl
  exact hadd _ ((State.sched_startWs ..).trans hsched) ((State.cur_startWs ..).trans hcur) _

end Start

/-- Settles O44: a form past its checks gives the state that its table names. -/
theorem clauses : Obligations.Clauses := by
  unfold Obligations.Clauses
  intro s t u w d a b la i j k core slot c addr va ok p hd
  refine ⟨?_, ?_, Runs.cdec_placed, Runs.cdec_outside, ?_, ?_, ?_, ?_, ?_, ?_, ?_, ?_⟩
  case refine_1 =>
    exact fun hg hn hm => ⟨fun ho => ⟨_, exec_cnew_outside hg hn hm ho, rfl⟩, fun ho => ⟨_, exec_cnew_outside_full hg hn hm ho, rfl⟩⟩
  case refine_2 =>
    exact fun hg hn hm hk hp => ⟨fun ho => Runs.of_putLaFrom (exec_cnew_full hg hn hm hk hp ho) hd,
      fun ho hv => ⟨_, exec_cnew_child hg hn hm hk hp ho rfl hv, rfl⟩⟩
  case refine_3 =>
    exact fun hg hc hm hh hplace => ⟨_, exec_cspawn_alone hg hc.1 hc.2 hm.1 hm.2 hh hplace, rfl⟩
  case refine_4 =>
    exact fun hg hc hm hh h0 hfind hplace => ⟨_, exec_cspawn_held hg hc.1 hc.2 hm.1 hm.2 hh h0 hfind hplace, rfl⟩
  case refine_5 => exact fun hg hc hh hplace => ⟨_, exec_cjoin_placed hg hc.1 hc.2 hh hplace, rfl⟩
  case refine_6 => exact fun hg ho hs => Runs.clauseForms_outside hg ho hs
  case refine_7 => exact fun hc hl hw => exec_cdone_waits hc.1 hc.2 hl hw
  case refine_8 => exact fun hc hl hw h0 => ⟨_, exec_cdone_alone hc.1 hc.2 hl hw h0, rfl⟩
  case refine_9 => exact fun hc hl hw h0 hh hdec => ⟨_, exec_cdone_held hc.1 hc.2 hl hw h0 hh hdec, rfl⟩
  case refine_10 =>
    exact fun hown hseat hruns hawake hid hring hbefore hready =>
      Runs.clauseStart_starts rfl hown hseat hruns hawake hid hring hbefore hready

end Sys2Proof.Machine
end

section
/-!
SUPPORT. Sends: the checks of a target word, what a send comes to, and the arrival of a message (10 R258, R262 to R265, 13 R308).
-/

namespace Sys2Proof.Machine

/-! ### The checks of a target word (R263, R264) -/

/-- A target word names a core of this device and a class of messages. -/
def State.knows (s : State) (T : Nat) : Prop := T < 2 ^ 32 ∧ bits T 18 9 = s.dev.devnum ∧ bits T 27 5 < 24

/-- The cluster of a target word is one that the issuer may send to. -/
def State.mayName (s : State) (T : Nat) : Prop :=
  bits T 6 10 < 528 ∧ (s.cur.onControl = true ∨ (s.ctx s.cur.ctx).hasCluster (bits T 16 2) (bits T 6 10) = true)

/-- The core of a target word. -/
def coreOf (T : Nat) : Nat := coreKey (bits T 16 2) (bits T 6 10) (bits T 3 3)

/-- The dispatch entry that a target word names. -/
def State.entryOf (s : State) (T : Nat) : Nat := s.dispatch (coreOf T) (bits T 27 5)

def State.wayTo (s : State) (T : Nat) : Option AErr := s.pathErr s.me.node (bits T 16 2) T

def State.heldAt (s : State) (T : Nat) : Option (LaunchId × Group) :=
  s.holdsFor (s.groupAt (bits T 16 2) (bits T 6 10) (bits T 3 3))

/-- The words of a message (R263). -/
def State.sentWords (s : State) (T : Nat) (pay : List Nat) : List Nat :=
  (bits T 27 5 * 2 ^ 27 + s.dev.devnum * 2 ^ 18 + s.cur.place + pay.length * 2 ^ 32) :: (pay ++ List.replicate (7 - pay.length) 0)

/-- The message that a send makes, before it has a number. -/
def State.sentMsg (s : State) (T : Nat) (pay : List Nat) : Msg :=
  { n := 0, die := bits T 16 2, cluster := bits T 6 10, core := bits T 3 3, cls := bits T 27 5, words := s.sentWords T pay,
    det := s.cur.det && s.cur.launch.isSome,
    ctx := if s.cur.onControl then ((s.cluster (coreOf T / 8)).owner).getD 0 else s.cur.ctx, snd := s.cur.id }

/-- The message that is held, with its key. -/
def State.heldMsg (s : State) (T : Nat) (pay : List Nat) (l : LaunchId) (g : Group) : Msg :=
  { s.sentMsg T pay with lid := launchNo l.q l.lseq, own := g.g == l.grp && g.kern == l.kern,
                         key := (l.groupNo, l.thr, s.sendSeq s.cur), stamp := s.stamp l }

section Plan

variable {s : State} {T : Nat} {pay : List Nat} (hs : s.cur.shadow = none)

include hs

theorem State.planSend_unknown (h : ¬ s.knows T) : s.planSend T pay = .trap cRANGE 0 T := by
  unfold State.planSend
  dsimp only
  rw [hs]
  dsimp only
  rw [if_neg Bool.false_ne_true, if_pos]
  unfold State.knows at h
  omega

theorem State.planSend_outside (hk : s.knows T) (h : ¬ s.mayName T) : s.planSend T pay = .trap cPDENY 0 T := by
  have hk' : ¬ (T / 2 ^ 32 ≠ 0 ∨ bits T 18 9 ≠ s.dev.devnum ∨ 24 ≤ bits T 27 5) := by
    unfold State.knows at hk
    omega
  unfold State.planSend
  dsimp only
  rw [hs]
  dsimp only
  rw [if_neg Bool.false_ne_true, if_neg hk', if_pos]
  unfold State.mayName at h
  by_cases hcl : 528 ≤ bits T 6 10
  · exact .inl hcl
  · have hno := not_or.1 (not_and.1 h (by omega))
    exact .inr ⟨by simpa using hno.1, by simpa [State.myCtx] using hno.2⟩

section Named

variable (hk : s.knows T) (hr : s.mayName T)

include hk hr

/-- The tests that a named target has passed. -/
theorem State.named_tests : ¬ ((match s.cur.shadow with
      | some q => bits T 18 9 != s.dev.devnum || ((s.groupAt (bits T 16 2) (bits T 6 10) (bits T 3 3)).bind (·.shadow)) != some q
      | none => false) = true)
    ∧ ¬ (T / 2 ^ 32 ≠ 0 ∨ bits T 18 9 ≠ s.dev.devnum ∨ 24 ≤ bits T 27 5)
    ∧ ¬ (528 ≤ bits T 6 10 ∨ (!s.cur.onControl) = true ∧ (!s.myCtx.hasCluster (bits T 16 2) (bits T 6 10)) = true) := by
  refine ⟨by rw [hs]; exact Bool.false_ne_true, ?_, ?_⟩
  · unfold State.knows at hk
    omega
  · rintro (h | ⟨h1, h2⟩)
    · exact absurd h (not_le.2 hr.1)
    · simp only [Bool.not_eq_true'] at h1 h2
      rcases hr.2 with h | h
      · rw [h1] at h; cases h
      · exact Bool.false_ne_true (h2.symm.trans h)

theorem State.planSend_away {e : AErr} (hw : s.wayTo T = some e) :
    s.planSend T pay = if (some e : Option AErr) = some .stall then .waits else .dead := by
  obtain ⟨h1, h2, h3⟩ := State.named_tests hs hk hr
  refine (if_neg h1).trans ((if_neg h2).trans ((if_neg h3).trans ((if_pos ?_).trans ?_)))
  · exact (congrArg Option.isSome hw).trans rfl
  · exact congrArg (fun o : Option AErr => if o = some .stall then Sent.waits else .dead) hw

variable (hw : s.wayTo T = none)

include hw

theorem State.planSend_gated (ha : (s.cluster (coreOf T / 8)).awake ≠ 1) : s.planSend T pay = .gated := by
  obtain ⟨h1, h2, h3⟩ := State.named_tests hs hk hr
  have h4 : ¬ ((s.wayTo T).isSome = true) := by rw [hw]; exact Bool.false_ne_true
  exact (if_neg h1).trans ((if_neg h2).trans ((if_neg h3).trans ((if_neg h4).trans (if_pos ha))))

variable (ha : (s.cluster (coreOf T / 8)).awake = 1)

include ha

theorem State.planSend_refused (he : (s.entryOf T).testBit 63 = false) : s.planSend T pay = .refused := by
  obtain ⟨h1, h2, h3⟩ := State.named_tests hs hk hr
  have h4 : ¬ ((s.wayTo T).isSome = true) := by rw [hw]; exact Bool.false_ne_true
  have h5 : (!bit (s.entryOf T) 63) = true := by rw [bit_eq_testBit, he]; rfl
  exact (if_neg h1).trans ((if_neg h2).trans ((if_neg h3).trans ((if_neg h4).trans ((if_neg (not_not.2 ha)).trans (if_pos h5)))))

variable (he : (s.entryOf T).testBit 63 = true)

include he

theorem State.planSend_free (hh : s.heldAt T = none) : s.planSend T pay = if s.roomAt (coreOf T) then .go (s.sentMsg T pay) else .full := by
  obtain ⟨h1, h2, h3⟩ := State.named_tests hs hk hr
  have h4 : ¬ ((s.wayTo T).isSome = true) := by rw [hw]; exact Bool.false_ne_true
  have h5 : ¬ ((!bit (s.entryOf T) 63) = true) := by rw [bit_eq_testBit, he]; exact Bool.false_ne_true
  refine (if_neg h1).trans ((if_neg h2).trans ((if_neg h3).trans ((if_neg h4).trans ((if_neg (not_not.2 ha)).trans ((if_neg h5).trans ?_)))))
  have hh' : s.holdsFor (s.groupAt (bits T 16 2) (bits T 6 10) (bits T 3 3)) = none := hh
  rw [hh']
  rfl

theorem State.planSend_held {l : LaunchId} {g : Group} (hh : s.heldAt T = some (l, g)) : s.planSend T pay =
    if (!(g.g == l.grp && g.kern == l.kern)) = true ∧ ((s.launch? l.q l.lseq).bind (·.lbar)).isNone = true then .trap cRANGE 5 T
    else if ((s.ctx s.cur.ctx).area 0x38).2 / 128 ≤ s.heldCount s.cur.ctx then .trap cRANGE 6 T else .hold (s.heldMsg T pay l g) := by
  obtain ⟨h1, h2, h3⟩ := State.named_tests hs hk hr
  have h4 : ¬ ((s.wayTo T).isSome = true) := by rw [hw]; exact Bool.false_ne_true
  have h5 : ¬ ((!bit (s.entryOf T) 63) = true) := by rw [bit_eq_testBit, he]; exact Bool.false_ne_true
  refine (if_neg h1).trans ((if_neg h2).trans ((if_neg h3).trans ((if_neg h4).trans ((if_neg (not_not.2 ha)).trans ((if_neg h5).trans ?_)))))
  have hh' : s.holdsFor (s.groupAt (bits T 16 2) (bits T 6 10) (bits T 3 3)) = some (l, g) := hh
  rw [hh']
  rfl

theorem State.planSend_hold {l : LaunchId} {g : Group} (hh : s.heldAt T = some (l, g))
    (hown : (g.g = l.grp ∧ g.kern = l.kern) ∨ ((s.launch? l.q l.lseq).bind (·.lbar)).isSome = true)
    (hroom : s.heldCount s.cur.ctx < ((s.ctx s.cur.ctx).area 0x38).2 / 128) :
    s.planSend T pay = .hold (s.heldMsg T pay l g) := by
  refine (State.planSend_held hs hk hr hw ha he hh).trans ((if_neg ?_).trans (if_neg (not_le.2 hroom)))
  rintro ⟨hno, hlbar⟩
  rcases hown with ⟨hg, hkern⟩ | h
  · simp [hg, hkern] at hno
  · rw [Option.isNone_iff_eq_none] at hlbar
    rw [hlbar] at h
    cases h

end Named

/-- Outside a shadow a send is not refused for one. -/
theorem State.planSend_pure : s.planSend T pay ≠ .impure := by
  by_cases hk : s.knows T
  case neg => rw [State.planSend_unknown hs hk]; exact Sent.noConfusion
  by_cases hr : s.mayName T
  case neg => rw [State.planSend_outside hs hk hr]; exact Sent.noConfusion
  rcases hw : s.wayTo T with _ | e
  case some => rw [State.planSend_away hs hk hr hw]; split <;> exact Sent.noConfusion
  by_cases ha : (s.cluster (coreOf T / 8)).awake = 1
  case neg => rw [State.planSend_gated hs hk hr hw ha]; exact Sent.noConfusion
  rcases he : (s.entryOf T).testBit 63 with _ | _
  case false => rw [State.planSend_refused hs hk hr hw ha he]; exact Sent.noConfusion
  rcases hh : s.heldAt T with _ | ⟨l, g⟩
  case none => rw [State.planSend_free hs hk hr hw ha he hh]; split <;> exact Sent.noConfusion
  case some =>
    rw [State.planSend_held hs hk hr hw ha he hh]
    split
    · exact Sent.noConfusion
    · split <;> exact Sent.noConfusion

theorem State.unlessFar_of_alone (k : Out) : s.unlessFar T k = k := by
  unfold State.unlessFar
  split
  · next h => exact absurd h (State.planSend_pure hs)
  · rfl

end Plan

/-! ### What a send comes to (R264) -/

section Sends

variable {s : State} {w d a b la : Nat}

theorem length_payload (s : State) (w b : Nat) : (s.payload w b).length = w := by
  unfold State.payload
  rw [List.length_map, List.length_range]

theorem exec_sendw_clause (hs : s.cur.shadow = none) (ho : s.cur.orig = 2) :
    exec (.sendw w d a b la) s = .next (s.trapHere cRANGE 7 0) :=
  (execSendw.eq_1 w d a b la s).trans ((State.unlessFar_of_alone hs _).trans (if_pos ho))

/-- What a form that sends leaves for what its send comes to: `pause` waits, and `full` is for a target without room. -/
def State.sentOut (s : State) (t la d : Nat) (pause : State → State) (full : State) : Sent → State
  | .trap c sub v => s.trapHere c sub v
  | .impure => s.impure
  | .refused => s.refuse t la
  | .gated => pause (s.wakeTarget t)
  | .full => full
  | .waits => pause s
  | .dead => s.dataErr 4 5 t
  | p => ((s.accept p).retire 4).setRegLa la d 1 0

theorem exec_send_eq : exec (.send w d a b la) s = .next (s.sentOut (s.reg a) la d id ((s.retire 4).setRegLa la d 0 0)
    (s.planSend (s.reg a) (s.payload w b))) := by
  refine (execSend.eq_1 w d a b la s).trans ?_
  generalize s.planSend (s.reg a) (s.payload w b) = p
  cases p <;> rfl

theorem exec_sendw_eq (hs : s.cur.shadow = none) (ho : s.cur.orig ≠ 2) : exec (.sendw w d a b la) s
    = .next (s.sentOut (s.reg a) la d (fun u => u.block (.send d (s.reg a) (s.payload w b) (la != 0)))
        (s.block (.send d (s.reg a) (s.payload w b) (la != 0))) (s.planSend (s.reg a) (s.payload w b))) := by
  refine (execSendw.eq_1 w d a b la s).trans ((State.unlessFar_of_alone hs _).trans ((State.unlessClause_of_ne ho _).trans ?_))
  dsimp only
  generalize s.planSend (s.reg a) (s.payload w b) = p
  cases p <;> rfl

/-- Both forms answer alike to a send that need not wait. -/
theorem sends_alike {t : State} (hs : s.cur.shadow = none)
    (h : ∀ (pause : State → State) (full : State),
      s.sentOut (s.reg a) la d pause full (s.planSend (s.reg a) (s.payload w b)) = t) :
    exec (.send w d a b la) s = .next t ∧ (s.cur.orig ≠ 2 → exec (.sendw w d a b la) s = .next t) :=
  ⟨exec_send_eq.trans (congrArg Host.Outcome.next (h _ _)), fun ho => (exec_sendw_eq hs ho).trans (congrArg Host.Outcome.next (h _ _))⟩

/-- A held send leaves its message with the context, a result of 1, and a send more of its thread. -/
theorem held_keeps (hd : d < 32) {m : Msg} {t : State} (ht : t = ((s.accept (.hold m)).retire 4).setRegLa la d 1 0) :
    t.work = { s.work with nextMsg := s.work.nextMsg + 1 } ∧ t.Holds d 1 0 ∧ t.pc = (s.pc + 4) % 2 ^ 56
      ∧ t.cur.sends = s.cur.sends + 1 ∧ (SameMem s t fun k => s.pcSpan k ∨ s.regSpan d k)
      ∧ (t.ctx s.cur.ctx).heldMsgs = (s.ctx s.cur.ctx).heldMsgs ++ [{ m with n := s.work.nextMsg }] := by
  obtain ⟨r, c, hrel⟩ := State.releaseTo_eq s (ptMsg s.work.nextMsg) 4
  have hacc : s.accept (.hold m) = ((((((s.setRace r).setCoh c).modWork fun w => { w with nextMsg := s.work.nextMsg + 1 }).modCtx s.cur.ctx
      fun x => { x with heldMsgs := x.heldMsgs ++ [{ m with n := s.work.nextMsg }] }).modCur fun a => { a with sends := a.sends + 1 })) := by
    unfold State.accept
    dsimp only
    rw [hrel]
    exact State.onAct_self _ _
  have hctx : (s.accept (.hold m)).ctx s.cur.ctx
      = { s.ctx s.cur.ctx with heldMsgs := (s.ctx s.cur.ctx).heldMsgs ++ [{ m with n := s.work.nextMsg }] } := by
    rw [hacc]
    exact FMap.getD_put_self _ _ _ _
  have hmem : (s.accept (.hold m)).mem = s.mem := by rw [hacc]; rfl
  have hkey : (s.accept (.hold m)).cur.wsKey = s.cur.wsKey := by rw [hacc]; rfl
  have hwork : (s.accept (.hold m)).work = { s.work with nextMsg := s.work.nextMsg + 1 } := by rw [hacc]; rfl
  have hsends : (s.accept (.hold m)).cur.sends = s.cur.sends + 1 := by rw [hacc]; rfl
  generalize s.accept (.hold m) = z at *
  obtain ⟨hpc, hval, hwin, honly, hframe⟩ := LongResult.of_put z la d 1 0 hd
  rw [← ht] at hpc hval honly hframe
  have hcongr {β : Type} (g : State → β) : g (t.withoutResult z) = g z := congrArg g honly
  refine ⟨(hcongr State.work).trans hwork, hval, hpc.trans ?_, (hcongr (·.cur.sends)).trans hsends, fun k hk => ?_, ?_⟩
  · rw [State.pc_of_same hmem hkey]
  · rw [hframe k ?_, State.rd, State.rd, hmem]
    unfold State.pcSpan State.regSpan at *
    rwa [hkey]
  · exact ((congrArg Ctx.heldMsgs (hcongr (·.ctx s.cur.ctx))).trans (congrArg Ctx.heldMsgs hctx))

/-! ### Arrivals (R258) -/

/-- A message that finds its handler and a free entry stands there and is queued. -/
theorem enter_free {m : Msg} {k e : Nat} (hcap : m.cap = false) (hdisp : s.dispatch m.coreKey m.cls = e)
    (he : e.testBit 63 = true) (hpend : (s.core m.coreKey).pend = []) (hfree : (s.core m.coreKey).freeEntry = some k) :
    ((s.enter m).core m.coreKey).queue = (s.core m.coreKey).queue ++ [{ m.take e with entry := k }]
      ∧ ((s.enter m).core m.coreKey).inbound = k :: (s.core m.coreKey).inbound
      ∧ (s.enter m).rdN (tcmOf m.coreKey (0x1000 + 64 * k)) 64 = (m.words.foldr (fun w v => w + 2 ^ 64 * v) 0) % 256 ^ 64 := by
  have hno : ¬ ((!m.cap && !bit (s.dispatch m.coreKey m.cls) 63) = true) := by
    rw [hdisp, bit_eq_testBit, he, hcap]
    exact Bool.false_ne_true
  have hent : s.enter m = (s.wrN (tcmOf m.coreKey (0x1000 + 64 * k)) 64 (m.words.foldr (fun w v => w + 2 ^ 64 * v) 0)).modCore m.coreKey
      fun c => { c with inbound := k :: c.inbound, queue := c.queue ++ [{ m.take e with entry := k }] } := by
    unfold State.enter
    dsimp only
    rw [if_neg hno, hpend, hfree, hcap, hdisp]
    rfl
  rw [hent, State.core_modCore]
  exact ⟨rfl, rfl, Memory.readN_writeN _ _ _ _⟩

theorem exec_arrival_awake {n : Nat} {m : Msg} (hfind : s.work.msgs.find? (·.n == n) = some m) (hmay : s.mayHandle m = true)
    (hbehind : s.msgBehind m = false) (ha : (s.cluster (m.coreKey / 8)).awake = 1) : exec (.messageArrival n) s
      = .next (((s.modWork fun w => { w with msgs := w.msgs.filter (·.n != n) }).enter m).wakeCore m.coreKey) := by
  have hgo : ¬ ((!s.mayHandle m || s.msgBehind m) = true) := by rw [hmay, hbehind]; exact Bool.false_ne_true
  refine (execMessageArrival.eq_1 n s).trans ?_
  rw [hfind]
  exact (if_neg hgo).trans (if_neg (not_not.2 ha))

theorem exec_arrival_gated {n : Nat} {m : Msg} (hfind : s.work.msgs.find? (·.n == n) = some m) (hmay : s.mayHandle m = true)
    (hbehind : s.msgBehind m = false) (ha : (s.cluster (m.coreKey / 8)).awake = 0) : exec (.messageArrival n) s
      = .next (s.modCluster (m.coreKey / 8) fun c => { c with awake := 2 }) := by
  have hgo : ¬ ((!s.mayHandle m || s.msgBehind m) = true) := by rw [hmay, hbehind]; exact Bool.false_ne_true
  refine (execMessageArrival.eq_1 n s).trans ?_
  rw [hfind]
  exact (if_neg hgo).trans ((if_pos (by omega)).trans (congrArg Host.Outcome.next (if_pos ha)))

end Sends

/-- Settles O40: what a send comes to, by the checks of its target word, and how a message enters its core. -/
theorem messages : Obligations.Messages := by
  unfold Obligations.Messages
  intro s w d a b la n k l g m hd hs
  have hlen := length_payload s w b
  have hwords : s.sentWords (s.reg a) (s.payload w b) = (bits (s.reg a) 27 5 * 2 ^ 27 + s.dev.devnum * 2 ^ 18 + s.cur.place + w * 2 ^ 32) ::
      ((List.range w).map (fun i => s.reg (b + i)) ++ List.replicate (7 - w) 0) := by
    unfold State.sentWords
    rw [hlen]
    rfl
  refine ⟨?_, ?_, ?_, ?_, ?_, ?_, ?_, ?_, ?_, ?_, ?_, ?_, ?_⟩
  case refine_1 =>
    rintro ⟨hk, hr, hw, ha, he⟩ hh hroom
    have hplan := (State.planSend_free (pay := s.payload w b) hs hk hr hw ha he hh).trans (if_pos hroom)
    have hmsg : s.sentMsg (s.reg a) (s.payload w b) = { s.sentMsg (s.reg a) (s.payload w b) with
        words := (bits (s.reg a) 27 5 * 2 ^ 27 + s.dev.devnum * 2 ^ 18 + s.cur.place + w * 2 ^ 32) ::
          ((List.range w).map (fun i => s.reg (b + i)) ++ List.replicate (7 - w) 0) } := by
      rw [← hwords]
      rfl
    rw [hmsg] at hplan
    obtain ⟨h1, h2⟩ := sends_alike (d := d) (la := la) hs fun _ _ => by rw [hplan]; rfl
    exact ⟨⟨_, h1, rfl⟩, fun ho => ⟨_, h2 ho, rfl⟩⟩
  case refine_2 =>
    intro he hpend hfree _
    exact enter_free rfl rfl he hpend hfree
  case refine_3 =>
    rintro ⟨hk, hr, hw, ha, he⟩ hh hroom
    have hplan := (State.planSend_free (pay := s.payload w b) hs hk hr hw ha he hh).trans (if_neg (Bool.eq_false_iff.1 hroom))
    refine ⟨Runs.of_putLa (exec_send_eq.trans ?_) hd, fun ho => ⟨_, exec_sendw_eq hs ho, ?_⟩⟩
    · rw [hplan]
      rfl
    · rw [hplan]
      exact Blocked.of_block _ _
  case refine_4 =>
    rintro ⟨hk, hr, hw, ha, he⟩ hh hown hroom
    have hplan := State.planSend_hold (pay := s.payload w b) hs hk hr hw ha he hh hown hroom
    obtain ⟨h1, h2⟩ := sends_alike (d := d) (la := la) hs fun _ _ => by rw [hplan]; rfl
    obtain ⟨hwork, hval, hpc, hsends, hframe, hheld⟩ := held_keeps hd rfl
    exact ⟨⟨_, h1, hwork, hval, hpc, hsends, hframe, _, hheld, hwords, rfl, rfl, rfl, rfl, rfl⟩,
      fun ho => ⟨_, h2 ho, hwork, hval, hpc, hsends, hframe, _, hheld, hwords, rfl, rfl, rfl, rfl, rfl⟩⟩
  case refine_5 =>
    intro hk hr hw ha
    have hplan := State.planSend_gated (pay := s.payload w b) hs hk hr hw ha
    refine ⟨⟨_, exec_send_eq, ?_⟩, fun ho => ⟨_, exec_sendw_eq hs ho, ?_⟩⟩
    · rw [hplan]
      rfl
    · rw [hplan]
      exact Blocked.of_block _ _
  case refine_6 =>
    intro hk
    have hplan := State.planSend_unknown (pay := s.payload w b) hs hk
    obtain ⟨h1, h2⟩ := sends_alike (d := d) (la := la) hs fun _ _ => by rw [hplan]; rfl
    exact ⟨Runs.of_trapHere h1 hs, fun ho => Runs.of_trapHere (h2 ho) hs⟩
  case refine_7 =>
    intro hk hr
    have hplan := State.planSend_outside (pay := s.payload w b) hs hk hr
    obtain ⟨h1, h2⟩ := sends_alike (d := d) (la := la) hs fun _ _ => by rw [hplan]; rfl
    exact ⟨Runs.of_trapHere h1 hs, fun ho => Runs.of_trapHere (h2 ho) hs⟩
  case refine_8 =>
    intro hk hr hw
    have hplan := (State.planSend_away (pay := s.payload w b) hs hk hr hw).trans (if_pos rfl)
    refine ⟨exec_send_eq.trans ?_, fun ho => ⟨_, exec_sendw_eq hs ho, ?_⟩⟩
    · rw [hplan]
      rfl
    · rw [hplan]
      exact Blocked.of_block _ _
  case refine_9 =>
    intro hk hr x hw hx
    have hplan := (State.planSend_away (pay := s.payload w b) hs hk hr hw).trans (if_neg (fun h => hx (Option.some.inj h)))
    obtain ⟨h1, h2⟩ := sends_alike (d := d) (la := la) hs fun _ _ => by rw [hplan]; rfl
    exact ⟨⟨_, h1, rfl⟩, fun ho => ⟨_, h2 ho, rfl⟩⟩
  case refine_10 =>
    intro hk hr hw ha he hla
    have hplan := State.planSend_refused (pay := s.payload w b) hs hk hr hw ha he
    obtain ⟨h1, h2⟩ := sends_alike (d := d) (la := la) hs fun _ _ => by rw [hplan]; exact if_pos hla
    exact ⟨Runs.of_trapHere h1 hs, fun ho => Runs.of_trapHere (h2 ho) hs⟩
  case refine_11 =>
    intro hk hr hw ha he hla
    have hplan := State.planSend_refused (pay := s.payload w b) hs hk hr hw ha he
    obtain ⟨h1, h2⟩ := sends_alike (d := d) (la := la) hs fun _ _ => by rw [hplan]; exact if_neg hla
    exact ⟨⟨_, h1, rfl⟩, fun ho => ⟨_, h2 ho, rfl⟩⟩
  case refine_12 => exact fun ho => Runs.of_trapHere (exec_sendw_clause hs ho) hs
  case refine_13 =>
    exact fun hfind hmay hbehind => ⟨fun ha => ⟨_, exec_arrival_awake hfind hmay hbehind ha, rfl⟩,
      fun ha => ⟨_, exec_arrival_gated hfind hmay hbehind ha, congrArg Cluster.awake (State.cluster_modCluster _ _ _), rfl, rfl⟩⟩

end Sys2Proof.Machine
end

section
/-!
SUPPORT. The index instructions (21 R401, R402, R407): queued behind their checks, and the forms that a run answers.
-/

namespace Sys2Proof.Machine

section Index

variable {s u : State} {d a b q la op al v : Nat}

/-- What keeps an index command from its queue: a full queue, the alignments, and a deterministic launch for an update. -/
theorem issueIdx_stops {i : Instr} (h : exec i s = s.issueIdx d a b q op al) :
    ((op = 0 ∨ s.cur.shadow = none) → 16 ≤ s.myCore.index.length → exec i s = .next s)
      ∧ (s.cur.shadow = none → ¬ 16 ≤ s.myCore.index.length → s.reg a % 2 ^ 56 % 65536 ≠ 0 →
          Runs i s (Trapped s · 0x03 0 (s.reg a % 2 ^ 56) s.pc))
      ∧ (s.cur.shadow = none → ¬ 16 ≤ s.myCore.index.length → s.reg a % 2 ^ 56 % 65536 = 0 → s.reg b % 2 ^ 56 % al ≠ 0 →
          Runs i s (Trapped s · 0x03 0 (s.reg b % 2 ^ 56) s.pc))
      ∧ (s.cur.shadow = none → ¬ 16 ≤ s.myCore.index.length → s.reg a % 2 ^ 56 % 65536 = 0 → s.reg b % 2 ^ 56 % al = 0 → op ≠ 0 →
          (s.cur.det = true ∧ s.cur.launch.isSome = true) → Runs i s (Trapped s · 0x0A 2 (s.reg a) s.pc)) := by
  have hpure (hs : op = 0 ∨ s.cur.shadow = none) : ¬ (s.cur.shadow.isSome = true ∧ op ≠ 0) := by
    rintro ⟨h1, h2⟩
    rcases hs with h | h
    · exact h2 h
    · rw [h] at h1; cases h1
  refine ⟨fun hs hf => ?_, fun hs hf hb => Runs.of_trapHere ?_ hs, fun hs hf hb hr => Runs.of_trapHere ?_ hs,
    fun hs hf hb hr ho hdet => Runs.of_trapHere ?_ hs⟩
  · exact h.trans ((if_neg (hpure hs)).trans (if_pos hf))
  · exact h.trans ((if_neg (hpure (.inr hs))).trans ((if_neg hf).trans (if_pos hb)))
  · exact h.trans ((if_neg (hpure (.inr hs))).trans ((if_neg hf).trans ((if_neg (not_not.2 hb)).trans (if_pos hr))))
  · exact h.trans ((if_neg (hpure (.inr hs))).trans ((if_neg hf).trans ((if_neg (not_not.2 hb)).trans ((if_neg (not_not.2 hr)).trans
      (if_pos ⟨ho, hdet⟩)))))

/-- An index command that passes its checks is queued. -/
theorem Runs.of_issueIdx {i : Instr} (h : exec i s = s.issueIdx d a b q op al) (hd : d < 32)
    (hcan : (op = 0 ∨ s.cur.shadow = none) ∧ ¬ 16 ≤ s.myCore.index.length ∧ s.reg a % 2 ^ 56 % 65536 = 0 ∧ s.reg b % 2 ^ 56 % al = 0
      ∧ (op = 0 ∨ ¬ (s.cur.det = true ∧ s.cur.launch.isSome = true))) :
    Runs i s fun t => ∃ c : Cmd, Queued s t 2 d c ∧ c.op = op ∧ c.args = [s.reg a % 2 ^ 56, s.reg b % 2 ^ 56] ∧ c.q = q
      ∧ c.ctx = s.cur.ctx ∧ c.level = s.cur.level := by
  obtain ⟨hs, hf, hb, hr, hdet⟩ := hcan
  have hpure : ¬ (s.cur.shadow.isSome = true ∧ op ≠ 0) := by
    rintro ⟨h1, h2⟩
    rcases hs with h | h
    · exact h2 h
    · rw [h] at h1; cases h1
  have hfree : ¬ (op ≠ 0 ∧ s.cur.det = true ∧ s.cur.launch.isSome = true) := fun hx => hdet.elim hx.1 fun hn => hn hx.2
  obtain ⟨t, ht, hq⟩ := Queued.of_newCmd s 2 op q d [s.reg a % 2 ^ 56, s.reg b % 2 ^ 56] hd
  exact ⟨t, h.trans ((if_neg hpure).trans ((if_neg hf).trans ((if_neg (not_not.2 hb)).trans ((if_neg (not_not.2 hr)).trans
    ((if_neg hfree).trans ht))))), _, hq, rfl, rfl, rfl, rfl, rfl⟩

/-! ### The forms on a descriptor (R407) -/

theorem State.withBase_aligned (hb : s.reg a % 2 ^ 56 % 65536 = 0) (f : Nat → Out) : s.withBase a f = f (s.reg a % 2 ^ 56) :=
  if_neg (not_not.2 hb)

theorem State.withBase_unaligned (hb : s.reg a % 2 ^ 56 % 65536 ≠ 0) (f : Nat → Out) :
    s.withBase a f = .next (s.trapHere cALIGN 0 (s.reg a % 2 ^ 56)) := if_pos hb

/-- A form whose run gives a value writes it under its window. -/
theorem Runs.of_idxForm {i : Instr} {base : Nat} {p : IM Nat} (h : exec i s = s.idxForm d la base p) (hp : p.run s = .ok (v, u))
    (hd : d < 32) : Runs i s (LongResult u · la d v 0) := by
  refine Runs.of_putLaFrom (h.trans ?_) hd
  unfold State.idxForm
  rw [hp]
  rfl

variable (hs : s.cur.shadow = none)

include hs

theorem State.updates_alone {f : Out} : (if s.cur.shadow.isSome = true then .next s.impure else f) = f :=
  if_neg (by rw [hs]; exact Bool.false_ne_true)

theorem exec_ninit_alone : exec (.ninit d a b la) s = s.withBase a fun base =>
    if s.reg b % 2 ^ 56 % 64 ≠ 0 then .next (s.trapHere cALIGN 0 (s.reg b % 2 ^ 56))
    else s.idxForm d la base (initIx s.cur.ctx { s.me with eng := 3, slot := 0 } base (s.reg b % 2 ^ 56)) :=
  (execNinit.eq_1 d a b la s).trans (State.updates_alone hs)

theorem exec_nsnap_alone : exec (.nsnap d a la) s = s.withBase a fun base => s.idxForm d la base (takeHold s.cur.ctx base) :=
  (execNsnap.eq_1 d a la s).trans (State.updates_alone hs)

theorem exec_nsnapRel_alone : exec (.nsnapRel d a b la) s
    = s.withBase a fun base => s.idxForm d la base (dropHold s.cur.ctx base (s.reg b)) :=
  (execNsnapRel.eq_1 d a b la s).trans (State.updates_alone hs)

theorem exec_nfree_alone : exec (.nfree d a la) s = s.withBase a fun base => s.idxForm d la base (freeIx s.cur.ctx base) :=
  (execNfree.eq_1 d a la s).trans (State.updates_alone hs)

theorem exec_nstat_alone : exec (.nstat d a q la) s = s.withBase a fun base => s.idxForm d la base (statIx s.cur.ctx none base q) :=
  (execNstat.eq_1 d a q la s).trans (by rw [hs])

end Index

/-- Settles O48: the checks of the index commands in their order, and the forms that a run answers. -/
theorem indexInstructions : Obligations.IndexInstructions := by
  unfold Obligations.IndexInstructions
  intro s u d a b q la v hd
  refine ⟨Runs.of_issueIdx rfl hd, Runs.of_issueIdx rfl hd, Runs.of_issueIdx rfl hd, issueIdx_stops rfl, issueIdx_stops rfl,
    issueIdx_stops rfl, ?_, ?_, ?_, ?_, ?_, ?_, ?_⟩
  case refine_1 =>
    rintro ⟨hs, hb⟩ hr hrun
    exact Runs.of_idxForm ((exec_ninit_alone hs).trans ((State.withBase_aligned hb _).trans (if_neg (not_not.2 hr)))) hrun hd
  case refine_2 =>
    rintro ⟨hs, hb⟩ hr
    exact Runs.of_trapHere ((exec_ninit_alone hs).trans ((State.withBase_aligned hb _).trans (if_pos hr))) hs
  case refine_3 =>
    exact fun ⟨hs, hb⟩ hrun => Runs.of_idxForm ((exec_nsnap_alone hs).trans (State.withBase_aligned hb _)) hrun hd
  case refine_4 =>
    exact fun ⟨hs, hb⟩ hrun => Runs.of_idxForm ((exec_nsnapRel_alone hs).trans (State.withBase_aligned hb _)) hrun hd
  case refine_5 =>
    exact fun ⟨hs, hb⟩ hrun => Runs.of_idxForm ((exec_nfree_alone hs).trans (State.withBase_aligned hb _)) hrun hd
  case refine_6 =>
    exact fun ⟨hs, hb⟩ hrun => Runs.of_idxForm ((exec_nstat_alone hs).trans (State.withBase_aligned hb _)) hrun hd
  case refine_7 =>
    intro hs hb
    exact ⟨Runs.of_trapHere ((exec_ninit_alone hs).trans (State.withBase_unaligned hb _)) hs,
      Runs.of_trapHere ((exec_nsnap_alone hs).trans (State.withBase_unaligned hb _)) hs,
      Runs.of_trapHere ((exec_nsnapRel_alone hs).trans (State.withBase_unaligned hb _)) hs,
      Runs.of_trapHere ((exec_nfree_alone hs).trans (State.withBase_unaligned hb _)) hs,
      Runs.of_trapHere ((exec_nstat_alone hs).trans (State.withBase_unaligned hb _)) hs⟩

end Sys2Proof.Machine
end

section
/-!
SUPPORT. The steps of the index engines and of the copy engine (21 R389 to R405, 07 R187).
-/

namespace Sys2Proof.Machine

section Events

variable {s t : State} {core seq ctx base : Nat} {c k : Cmd} {st v : Nat} {args : List Nat} {r : Nat × Nat} {op : IdxOp} {ops : List IdxOp}

/-! ### Acceptance (R389) -/

/-- An update waits for the earlier updates of its core. -/
theorem earlier_updates {cs : List Cmd} (h : ∀ d ∈ cs, d.op ≠ 0 → d.prog = 0 → c.n ≤ d.n) :
    (cs.any fun d => d.op != 0 && d.prog == 0 && decide (d.n < c.n)) = false := by
  rw [List.any_eq_false]
  intro d hd hx
  simp only [Bool.and_eq_true, bne_iff_ne, beq_iff_eq, decide_eq_true_eq] at hx
  exact absurd (h d hd hx.1.1 hx.1.2) (not_le.2 hx.2)

section Accept

variable (hc : s.cmd? core 2 seq = some c) (hgo : c.grp = none ∧ s.running c.ctx = true) (hp : c.prog = 0)
  (hb : c.op ≠ 0 → ∀ d ∈ (s.core core).index, d.op ≠ 0 → d.prog = 0 → c.n ≤ d.n)

include hc hgo hp hb

theorem exec_indexAccept_accepted
    (hrun : (if c.op = 0 then acceptQuery c else acceptUpdate core c (c.op == 1)).run s = .ok (.accepted args, t)) :
    exec (.indexAccept core seq) s = .next (t.modCmd core 2 seq fun _ => { c with prog := 1, args := args }) := by
  have hidle : ¬ ((c.grp.isSome || !s.running c.ctx || c.prog == 1
      || (c.prog == 0 && c.op != 0 && (s.core core).index.any fun d => d.op != 0 && d.prog == 0 && decide (d.n < c.n))) = true) := by
    rw [hgo.1, hgo.2, hp]
    by_cases h0 : c.op = 0
    · rw [h0]; exact Bool.false_ne_true
    · rw [earlier_updates (hb h0)]; simp
  refine (execIndexAccept.eq_1 core seq s).trans ?_
  rw [hc]
  refine (if_neg hidle).trans ((if_neg (by omega)).trans ?_)
  rw [hrun]

theorem exec_indexAccept_refused
    (hrun : (if c.op = 0 then acceptQuery c else acceptUpdate core c (c.op == 1)).run s = .ok (.refused st, t)) :
    exec (.indexAccept core seq) s = .next ((t.modCmd core 2 seq fun _ =>
      { c with prog := 2, args := c.args.take 2 ++ [st, 0] }).finishIdx core { c with prog := 2, args := c.args.take 2 ++ [st, 0] }) := by
  have hidle : ¬ ((c.grp.isSome || !s.running c.ctx || c.prog == 1
      || (c.prog == 0 && c.op != 0 && (s.core core).index.any fun d => d.op != 0 && d.prog == 0 && decide (d.n < c.n))) = true) := by
    rw [hgo.1, hgo.2, hp]
    by_cases h0 : c.op = 0
    · rw [h0]; exact Bool.false_ne_true
    · rw [earlier_updates (hb h0)]; simp
  refine (execIndexAccept.eq_1 core seq s).trans ?_
  rw [hc]
  refine (if_neg hidle).trans ((if_neg (by omega)).trans ?_)
  rw [hrun]

end Accept

theorem exec_indexAccept_behind (hc : s.cmd? core 2 seq = some c)
    (hb : ∃ d ∈ (s.core core).index, d.op ≠ 0 ∧ d.prog = 0 ∧ d.n < c.n) (ho : c.op ≠ 0) (hp : c.prog = 0) :
    exec (.indexAccept core seq) s = .next s := by
  obtain ⟨d, hd, h1, h2, h3⟩ := hb
  have hbefore : ((s.core core).index.any fun d => d.op != 0 && d.prog == 0 && decide (d.n < c.n)) = true :=
    List.any_eq_true.2 ⟨d, hd, by simp [h1, h2, h3]⟩
  refine (execIndexAccept.eq_1 core seq s).trans ?_
  rw [hc]
  refine if_pos ?_
  rw [hbefore, hp]
  simp [ho]

/-! ### Application, queries and reclamation (R391, R396, R400) -/

theorem State.indexes_go (h : (s.ctx ctx).st = 3 ∨ (s.ctx ctx).st = 4) : (!((s.ctx ctx).st == 3 || (s.ctx ctx).st == 4)) = false := by
  rcases h with h | h <;> rw [h] <;> rfl

theorem State.indexes_stop (h3 : (s.ctx ctx).st ≠ 3) (h4 : (s.ctx ctx).st ≠ 4) : (!((s.ctx ctx).st == 3 || (s.ctx ctx).st == 4)) = true := by
  simp [h3, h4]

theorem exec_indexApply_applies (hst : (s.ctx ctx).st = 3 ∨ (s.ctx ctx).st = 4)
    (hops : (FMap.getD (s.ctx ctx).indexes base {}).ops = op :: ops)
    (hcmd : (s.idxCmds ctx).find? (fun c => c.1 == op.core && c.2.n == op.n) = some (core, k))
    (hfree : (FMap.getD (s.ctx ctx).indexes base {}).broken = true ∨ k.grp = none) (hrun : (applyOp ctx base op).run s = .ok (r, t)) :
    exec (.indexApply ctx base) s = .next (t.asSaved ctx op.core fun s => (s.modCmd op.core 2 op.n fun _ =>
      { k with prog := 2, grp := none, args := k.args.take 2 ++ [r.1 * 2 ^ 56 + op.seq, r.2] }).finishIdx op.core
        { k with prog := 2, grp := none, args := k.args.take 2 ++ [r.1 * 2 ^ 56 + op.seq, r.2] }) := by
  refine (execIndexApply.eq_1 ctx base s).trans ?_
  dsimp only
  rw [hops]
  dsimp only
  rw [hcmd, State.indexes_go hst]
  dsimp only
  have hgo : ¬ ((!(FMap.getD (s.ctx ctx).indexes base {}).broken && k.grp.isSome || false) = true) := by
    rcases hfree with h | h <;> rw [h] <;> simp
  rw [if_neg hgo, hrun]

theorem exec_indexApply_stops (h3 : (s.ctx ctx).st ≠ 3) (h4 : (s.ctx ctx).st ≠ 4) : exec (.indexApply ctx base) s = .next s := by
  refine (execIndexApply.eq_1 ctx base s).trans ?_
  dsimp only
  split
  · rfl
  · rw [State.indexes_stop h3 h4, Bool.or_true]
    exact if_pos rfl

theorem exec_indexReclaim_stops (h3 : (s.ctx ctx).st ≠ 3) (h4 : (s.ctx ctx).st ≠ 4) : exec (.indexReclaim ctx base) s = .next s := by
  refine (execIndexReclaim.eq_1 ctx base s).trans (if_pos ?_)
  rw [State.indexes_stop h3 h4]
  rfl

theorem exec_indexReclaim_frees (hst : (s.ctx ctx).st = 3 ∨ (s.ctx ctx).st = 4) (hix : ((s.ctx ctx).indexes.get? base).isSome = true)
    (hrecl : (FMap.getD (s.ctx ctx).indexes base {}).recl = none) (hbr : (FMap.getD (s.ctx ctx).indexes base {}).broken = false)
    (hrun : (reclaim ctx base).run s = .ok ((), t)) : exec (.indexReclaim ctx base) s = .next t := by
  refine (execIndexReclaim.eq_1 ctx base s).trans ((if_neg ?_).trans ?_)
  · rw [State.indexes_go hst, hrecl, hbr, Option.isNone_iff_eq_none.not.2 (Option.isSome_iff_ne_none.1 hix) |> Bool.eq_false_iff.2]
    exact Bool.false_ne_true
  · rw [hrun]

theorem exec_nloadComplete_ends (hc : s.cmd? core 2 seq = some c) (hgo : c.grp = none ∧ s.running c.ctx = true) (ho : c.op = 0)
    (hp : c.prog = 1) (hrun : (runQuery c).run s = .ok (v, t)) : exec (.nloadComplete core seq) s = .next ((t.modCmd core 2 seq fun _ =>
      { c with prog := 2, args := c.args.take 2 ++ [v, 0] }).finishIdx core { c with prog := 2, args := c.args.take 2 ++ [v, 0] }) := by
  have hidle : ¬ ((c.grp.isSome || !s.running c.ctx || c.op != 0 || c.prog != 1) = true) := by
    rw [hgo.1, hgo.2, ho, hp]
    exact Bool.false_ne_true
  refine (execNloadComplete.eq_1 core seq s).trans ?_
  rw [hc]
  refine (if_neg hidle).trans ?_
  rw [hrun]

/-! ### Copies (07 R187) -/

/-- A copy command that does not run: all of it is done or waits for a replay, or its context or its core stands. -/
def State.copyIdle (s : State) (core : Nat) (c : Cmd) : Prop :=
  (c.grp.isSome = true ∧ c.lost = none ∧ c.total ≤ c.prog) ∨ s.running c.ctx = false ∨ (s.core core).frozen = true

theorem State.copyIdle_iff (s : State) (core : Nat) (c : Cmd) : ((c.grp.isSome && c.lost.isNone && decide (c.total ≤ c.prog))
    || !s.running c.ctx || (s.core core).frozen) = true ↔ s.copyIdle core c := by
  unfold State.copyIdle
  simp only [Bool.or_eq_true, Bool.and_eq_true, decide_eq_true_eq, Bool.not_eq_true', Option.isNone_iff_eq_none, or_assoc, and_assoc]

/-- A command with the progress of its run. -/
def Cmd.after (c : Cmd) (m : Run1) : Cmd := { c with prog := m.prog, flags := m.flags, stuck := m.stuck }

variable (hc : s.cmd? core 0 seq = some c)

include hc

theorem exec_copy_idle (hi : s.copyIdle core c) : exec (.copyCommandComplete core seq) s = .next s := by
  refine (execCopyCommandComplete.eq_1 core seq s).trans ?_
  rw [hc]
  exact if_pos ((s.copyIdle_iff core c).2 hi)

theorem exec_copy_lost (hi : ¬ s.copyIdle core c) {va : Nat} (hl : c.lost = some va) :
    exec (.copyCommandComplete core seq) s = .next ((s.endCmd core 0 c (some (0x0D, 1, va)) c.done).cmdFailed core 0 c) := by
  refine (execCopyCommandComplete.eq_1 core seq s).trans ?_
  rw [hc]
  refine (if_neg (mt (s.copyIdle_iff core c).1 hi)).trans ?_
  rw [hl]
  rfl

theorem exec_copy_stuck (hi : ¬ s.copyIdle core c) (hl : c.lost = none) (he : (s.runCopy c).err = none) (hst : (s.runCopy c).stuck ≠ []) :
    exec (.copyCommandComplete core seq) s = .next ((s.runCopy c).s.modCmd core 0 seq fun _ => c.after (s.runCopy c)) := by
  refine (execCopyCommandComplete.eq_1 core seq s).trans ?_
  rw [hc]
  refine (if_neg (mt (s.copyIdle_iff core c).1 hi)).trans ?_
  split
  · next va h => exact absurd (hl.symm.trans h) (Option.some_ne_none va).symm
  dsimp only
  rw [he]
  have hne : (!(s.runCopy c).stuck.isEmpty) = true := by simpa using hst
  exact if_pos hne

theorem exec_copy_ends (hi : ¬ s.copyIdle core c) (hl : c.lost = none) (he : (s.runCopy c).err = none) (hst : (s.runCopy c).stuck = [])
    (hposted : (s.runCopy c).s.cmdPosted core 0 seq = false) : exec (.copyCommandComplete core seq) s
      = .next ((((s.runCopy c).s.modCmd core 0 seq fun _ => c.after (s.runCopy c)).fillSlot c true).endCmd core 0 (c.after (s.runCopy c)) none
          (c.after (s.runCopy c)).done) := by
  have hacked : ((s.runCopy c).s.modCmd core 0 seq fun _ => c.after (s.runCopy c)).cmdAcked core 0 seq
      = (true, (s.runCopy c).s.modCmd core 0 seq fun _ => c.after (s.runCopy c)) :=
    if_pos (by rw [Bool.not_eq_true']; exact hposted)
  refine (execCopyCommandComplete.eq_1 core seq s).trans ?_
  rw [hc]
  refine (if_neg (mt (s.copyIdle_iff core c).1 hi)).trans ?_
  split
  · next va h => exact absurd (hl.symm.trans h) (Option.some_ne_none va).symm
  dsimp only
  rw [he]
  refine (if_neg (by rw [hst]; exact Bool.false_ne_true)).trans ?_
  exact congrArg (fun a : Bool × State => Host.Outcome.next
    (if a.1 = true then (a.2.fillSlot c true).endCmd core 0 (c.after (s.runCopy c)) none (c.after (s.runCopy c)).done else a.2)) hacked

end Events

/-- Settles O49: each step under its condition, and the commands that stay as they are. -/
theorem indexAndCopyEvents : Obligations.IndexAndCopyEvents := by
  unfold Obligations.IndexAndCopyEvents
  intro s t core seq ctx base c k st v args r op ops
  refine ⟨?_, ?_, ?_, ?_, ?_, ?_, ?_, ?_, exec_copy_idle⟩
  case refine_1 =>
    exact fun hc hgo hp hb => ⟨fun hrun => ⟨_, exec_indexAccept_accepted hc hgo hp hb hrun, rfl⟩,
      fun hrun => ⟨_, exec_indexAccept_refused hc hgo hp hb hrun, rfl⟩⟩
  case refine_2 => exact exec_indexAccept_behind
  case refine_3 => exact fun hst hops hcmd hfree hrun => ⟨_, exec_indexApply_applies hst hops hcmd hfree hrun, rfl⟩
  case refine_4 => exact fun h3 h4 => ⟨exec_indexApply_stops h3 h4, exec_indexReclaim_stops h3 h4⟩
  case refine_5 => exact fun hc hgo ho hp hrun => ⟨_, exec_nloadComplete_ends hc hgo ho hp hrun, rfl⟩
  case refine_6 => exact fun hst hix hrecl hbr hrun => ⟨_, exec_indexReclaim_frees hst hix hrecl hbr hrun, rfl⟩
  case refine_7 => exact fun hc hi va hl => ⟨_, exec_copy_lost hc hi hl, rfl⟩
  case refine_8 =>
    exact fun hc hi hl he => ⟨fun hst hposted => ⟨_, exec_copy_ends hc hi hl he hst hposted, rfl⟩,
      fun hst => ⟨_, exec_copy_stuck hc hi hl he hst, rfl⟩⟩

end Sys2Proof.Machine
end

section
/-!
SUPPORT. The steps that take up a launch, place its groups, wake and gate clusters, rotate a position and complete a launch, and
those that start and commit a shadow (12 R292 to R297, 16 R332, R334, 17 R344, R353).
-/

namespace Sys2Proof.Machine

section Steps

variable {s t u : State} {q lseq v c cl pos j n : Nat} {k : Nat × Nat} {l : Launch} {g : Group} {gs : List Group}
  {ps : List (Nat × Nat)} {p : Nat × Nat × Nat × List Nat}

/-! ### Take-up (R332) -/

/-- A queue whose next record may be taken up has nothing begun. -/
theorem idle_of_mayTake (h : s.mayTake q = true) : ¬ (((s.queue q).job.isSome || (s.queue q).tailDue) = true) := by
  intro hx
  have hheld : (!(s.queue q).held) = true := by
    unfold State.mayTake at h
    simp only [Bool.and_eq_true] at h
    exact h.1.1.1.2
  unfold Queue.held at hheld
  rw [Bool.or_assoc, hx, Bool.or_true] at hheld
  exact Bool.false_ne_true hheld

theorem exec_takeUp_closed (hj : (s.queue q).job = none) (ht : (s.queue q).tailDue = false) (hm : s.mayTake q = false) :
    exec (.launchTakeUp q) s = .next s := by
  have hidle : ¬ (((s.queue q).job.isSome || (s.queue q).tailDue) = true) := by rw [hj, ht]; exact Bool.false_ne_true
  exact (execLaunchTakeUp.eq_1 q s).trans ((if_neg hidle).trans (if_pos (by rw [hm]; rfl)))

theorem exec_takeUp_goesOn (hj : (s.queue q).job.isSome = true ∨ (s.queue q).tailDue = true) (hr : s.running (s.queue q).ctx = true) :
    exec (.launchTakeUp q) s = .next (s.runJob q jobFuel) :=
  (execLaunchTakeUp.eq_1 q s).trans ((if_pos (Bool.or_eq_true _ _ ▸ hj)).trans (congrArg Host.Outcome.next (if_pos hr)))

theorem exec_takeUp_cancelled (hm : s.mayTake q = true) (hc : (s.queue q).cancelled ≠ 0) :
    exec (.launchTakeUp q) s = .next (s.takeUp q ((s.queue q).head + 1) (s.queue q).cancelled 0) :=
  (execLaunchTakeUp.eq_1 q s).trans ((if_neg (idle_of_mayTake hm)).trans ((if_neg (by rw [hm]; exact Bool.false_ne_true)).trans (if_pos hc)))

section Record

variable (hm : s.mayTake q = true) (hc : (s.queue q).cancelled = 0)
  (hread : (s.syncDev (s.qWho (s.queue q).ctx).die [(ptDoor q ((s.queue q).head + 1), ptDoor q ((s.queue q).head + 1))]).qRead
    (s.queue q).ctx 0 ((s.queue q).ring + 128 * (((s.queue q).head + 1 - 1) % 2 ^ (s.queue q).nrec) + 12) 20 = .ok (v, u))

include hm hc hread

/-- The record that may be taken up, by its CTL, WAITQ and WAITV. -/
theorem exec_takeUp_read : exec (.launchTakeUp q) s =
    if (lrecOf (2 ^ 96 * v)).bar = true ∧ (s.queue q).tlc + 1 < (s.queue q).head + 1 then .next s
    else if (lrecOf (2 ^ 96 * v)).wait = true ∧ u.waitBad q ((s.queue q).head + 1) (lrecOf (2 ^ 96 * v)) = true then
      .next (u.takeUp q ((s.queue q).head + 1) 2 0)
    else if (lrecOf (2 ^ 96 * v)).wait = true ∧ (u.queue (lrecOf (2 ^ 96 * v)).waitq).tlc < (lrecOf (2 ^ 96 * v)).waitv then
      .next (s.modQueue q fun y => { y with waits := some (lrecOf (2 ^ 96 * v)).waitq })
    else .next (u.takeUp q ((s.queue q).head + 1) 0 (u.queue (lrecOf (2 ^ 96 * v)).waitq).tlc) := by
  refine (execLaunchTakeUp.eq_1 q s).trans ((if_neg (idle_of_mayTake hm)).trans ((if_neg (by rw [hm]; exact Bool.false_ne_true)).trans
    ((if_neg (not_not.2 hc)).trans ?_)))
  rw [hread]

end Record

/-! ### Placement, wakes and gates (R292 to R295) -/

theorem exec_groupPlace_held (hr : s.running c = true) (hh : s.heldGroup c = some (l, gs)) :
    exec (.groupPlace c) s = .next (s.startHeld l gs) := by
  refine (execGroupPlace.eq_1 c s).trans ((if_neg (by rw [hr]; exact Bool.false_ne_true)).trans ?_)
  rw [hh]

theorem exec_groupPlace_offers (hr : s.running c = true) (hh : s.heldGroup c = none) :
    exec (.groupPlace c) s = .next (s.offers c (s.offerOrder c)) := by
  refine (execGroupPlace.eq_1 c s).trans ((if_neg (by rw [hr]; exact Bool.false_ne_true)).trans ?_)
  rw [hh]

theorem exec_wakeBegin_wakes (hr : s.running c = true)
    (hg : (s.ctx c).clusterList.find? (fun k => (s.cluster (clusterKey k.1 k.2)).awake == 0) = some k)
    (hb : ∀ k ∈ (s.ctx c).clusterList, (s.cluster (clusterKey k.1 k.2)).wake293 = false)
    (hw : ∃ q ∈ s.offerOrder c, ∃ l, s.offer q = some l ∧ l.admitted = true ∧ l.cores = false ∧ l.prog = false ∧ l.argsIn = true
      ∧ l.nextSeat (s.ctx c).clusterList (s.occ c false) = none) :
    exec (.wakeBegin c) s = .next (s.modCluster (clusterKey k.1 k.2) fun c => { c with awake := 2, wake293 := true }) := by
  have hbusy : ((s.ctx c).clusterList.any fun k => (s.cluster (clusterKey k.1 k.2)).wake293) = false :=
    List.any_eq_false.2 fun k hk => by rw [hb k hk]; exact Bool.false_ne_true
  refine (execWakeBegin.eq_1 c s).trans ?_
  rw [hg]
  refine congrArg Host.Outcome.next (if_pos ?_)
  rw [hr, hbusy]
  refine List.any_eq_true.2 ?_
  obtain ⟨q, hq, l, ho, ha, hco, hp, hi, hs⟩ := hw
  refine ⟨q, hq, ?_⟩
  rw [ho]
  dsimp only
  rw [ha, hco, hp, hi, hs]
  rfl

theorem exec_clusterAwake_done (ha : (s.cluster cl).awake = 2) :
    exec (.clusterAwake cl) s = .next (s.modCluster cl fun c => { c with awake := 1, wake293 := false }) :=
  (execClusterAwake.eq_1 cl s).trans (congrArg Host.Outcome.next (if_pos ha))

theorem exec_clusterGate_gates (ho : (s.cluster cl).owner = some c) (ha : (s.cluster cl).awake = 1) (hb : bit s.dev.awake c = false)
    (hr : s.running c = true) (hq : s.quiet cl = true) : exec (.clusterGate cl) s = .next (s.modCluster cl fun c => { c with awake := 0 }) := by
  refine (execClusterGate.eq_1 cl s).trans ?_
  rw [ho]
  refine congrArg Host.Outcome.next (if_pos ?_)
  rw [ha, hb, hr, hq]
  rfl

theorem exec_clusterGate_busy (ho : (s.cluster cl).owner = some c) (hq : s.quiet cl = false) : exec (.clusterGate cl) s = .next s := by
  refine (execClusterGate.eq_1 cl s).trans ?_
  rw [ho]
  refine congrArg Host.Outcome.next (if_neg ?_)
  rw [hq, Bool.and_false]
  exact Bool.false_ne_true

/-! ### Rotation (R297) -/

/-- The group whose position turns: of a launch under guaranteed progress, on its position, with a next group to run. -/
structure State.Turns (s : State) (cl pos : Nat) (g : Group) (l : Launch) (j n : Nat) : Prop where
  group : s.work.groups.find? (fun g => (clusterKey g.die g.cluster == cl && g.shadow.isNone && !g.out
    && (g.c0 == pos || decide (g.c0 / 8 = pos / 8 ∧ pos = 0))) && ((s.launch? g.q g.lseq).map (·.prog)) == some true) = some g
  launch : s.launch? g.q g.lseq = some l
  position : (List.range l.positions.length).find? (fun j => l.positions.getD j 0 == g.position) = some j
  next : s.nextGroup l j = some n
  runs : s.running g.ctx = true

/-- The groups that rotate together. -/
def State.members (s : State) (l : Launch) (g : Group) : List Group := (s.groupsOf l g.position).filter fun x => x.g == g.g

/-- Where the images of the groups that rotate go. -/
def State.images (s : State) (l : Launch) (g : Group) : Option (List (Nat × Nat)) :=
  s.imagePlaces g.ctx ((s.work.groups.filter fun x => x.ctx == g.ctx && x.out).map (·.image))
    ((s.members l g).map fun x => imageSize (l.kernels.getD x.kern {}) x (s.groupThreads x))

/-- The state with the groups that rotate swapped out. -/
def State.membersOut (s : State) (l : Launch) (g : Group) (ps : List (Nat × Nat)) : State :=
  ((s.members l g).zip ps).foldl (fun s x => s.swapGroupOut l x.1 x.2) s

section Rotation

variable (ht : s.Turns cl pos g l j n)

include ht

theorem exec_rotation_waits (hr : s.rotatable (s.members l g) = false) : exec (.sliceRotation cl pos) s = .next s := by
  refine (execSliceRotation.eq_1 cl pos s).trans ?_
  dsimp only
  rw [ht.group]
  dsimp only
  rw [ht.launch]
  dsimp only
  rw [ht.position]
  dsimp only
  rw [ht.next]
  refine if_pos ?_
  have hr' : s.rotatable ((s.groupsOf l g.position).filter fun x => x.g == g.g) = false := hr
  rw [hr', Bool.not_false, Bool.or_true]

theorem exec_rotation_full (hr : s.rotatable (s.members l g) = true) (hi : s.images l g = none) :
    exec (.sliceRotation cl pos) s = .next (s.freeze g.ctx 4 0x28) := by
  have hi' : s.imagePlaces g.ctx ((s.work.groups.filter fun x => x.ctx == g.ctx && x.out).map (·.image))
    (((s.groupsOf l g.position).filter fun x => x.g == g.g).map fun x =>
      imageSize (l.kernels.getD x.kern {}) x (s.groupThreads x)) = none := hi
  have hr' : s.rotatable ((s.groupsOf l g.position).filter fun x => x.g == g.g) = true := hr
  refine (execSliceRotation.eq_1 cl pos s).trans ?_
  dsimp only
  rw [ht.group]
  dsimp only
  rw [ht.launch]
  dsimp only
  rw [ht.position]
  dsimp only
  rw [ht.next]
  refine (if_neg (by rw [hr', ht.runs]; exact Bool.false_ne_true)).trans ?_
  rw [hi']

theorem exec_rotation_turns (hr : s.rotatable (s.members l g) = true) (hi : s.images l g = some ps) :
    exec (.sliceRotation cl pos) s = .next (if (s.membersOut l g ps).roomFor ((s.membersOut l g ps).outsOf l j n) = true
      then (s.membersOut l g ps).bringIn l j n else s) := by
  have hi' : s.imagePlaces g.ctx ((s.work.groups.filter fun x => x.ctx == g.ctx && x.out).map (·.image))
    (((s.groupsOf l g.position).filter fun x => x.g == g.g).map fun x =>
      imageSize (l.kernels.getD x.kern {}) x (s.groupThreads x)) = some ps := hi
  have hr' : s.rotatable ((s.groupsOf l g.position).filter fun x => x.g == g.g) = true := hr
  refine (execSliceRotation.eq_1 cl pos s).trans ?_
  dsimp only
  rw [ht.group]
  dsimp only
  rw [ht.launch]
  dsimp only
  rw [ht.position]
  dsimp only
  rw [ht.next]
  refine (if_neg (by rw [hr', ht.runs]; exact Bool.false_ne_true)).trans ?_
  rw [hi']
  rfl

end Rotation

/-! ### Completion (R334) -/

theorem exec_launchComplete_completes (hl : s.launch? q lseq = some l) (hsh : l.shadow = false)
    (hend : l.ng * l.kernels.length ≤ l.ended) (hr : s.running l.ctx = true) (hheld : (s.queue q).held = false)
    (hmsgs : ∀ m ∈ (s.ctx l.ctx).heldMsgs, m.lid ≠ launchNo q lseq)
    (hpend : ∀ y ∈ s.cores, ∀ m ∈ y.2.pend, m.lid ≠ launchNo q lseq) : exec (.launchComplete q lseq) s
      = .next (((s.closeLaunch l.ctx q lseq).modQueue q fun y => if l.partsAt.isEmpty then y else { y with parts := y.parts.put lseq l.partsAt }).beginJob
          q { n := lseq, stage := 4, status := if l.killed then 6 else 0 }) := by
  have hwait : ¬ ((l.shadow || decide (l.ended < l.ng * l.kernels.length) || !s.running l.ctx || (s.queue q).held) = true) := by
    rw [hsh, hr, hheld, decide_eq_false (not_lt.2 hend)]
    exact Bool.false_ne_true
  have hnone {ms : List Msg} (h : ∀ m ∈ ms, m.lid ≠ launchNo q lseq) : (ms.any fun m => m.lid == launchNo q lseq) = false :=
    List.any_eq_false.2 fun m hm => by rw [beq_eq_false_iff_ne.2 (h m hm)]; exact Bool.false_ne_true
  have hcores : (s.cores.any fun c => c.2.pend.any fun m => m.lid == launchNo q lseq) = false :=
    List.any_eq_false.2 fun y hy => by rw [hnone (hpend y hy)]; exact Bool.false_ne_true
  refine (execLaunchComplete.eq_1 q lseq s).trans ?_
  rw [hl]
  exact (if_neg hwait).trans ((if_neg (Bool.eq_false_iff.1 (hnone hmsgs))).trans (if_neg (Bool.eq_false_iff.1 hcores)))

theorem exec_launchComplete_early (hl : s.launch? q lseq = some l) (hend : l.ended < l.ng * l.kernels.length) :
    exec (.launchComplete q lseq) s = .next s := by
  refine (execLaunchComplete.eq_1 q lseq s).trans ?_
  rw [hl]
  refine if_pos ?_
  rw [decide_eq_true hend]
  simp

/-- The completion of a launch answers a next state. -/
theorem exec_launchComplete_next (s : State) (q lseq : Nat) : ∃ t, exec (.launchComplete q lseq) s = .next t := by
  rw [show exec (.launchComplete q lseq) s = _ from execLaunchComplete.eq_1 q lseq s]
  cases s.launch? q lseq with
  | none => exact ⟨_, rfl⟩
  | some l =>
    dsimp only
    split
    · exact ⟨_, rfl⟩
    · split
      · exact ⟨_, rfl⟩
      · split <;> exact ⟨_, rfl⟩

/-! ### Shadows (17 R344, R353) -/

section Shadows

variable (hr : s.running (s.queue q).ctx = true) (hh : (s.queue q).held = false)

include hr hh

theorem shadow_goes : ¬ ((!s.running (s.queue q).ctx || (s.queue q).held) = true) := by
  rw [hr, hh]
  exact Bool.false_ne_true

theorem exec_shadowStart_group (hg : s.nextShadowGroup q = some t) : exec (.shadowStart q) s = .next t := by
  refine (execShadowStart.eq_1 q s).trans ((if_neg (shadow_goes hr hh)).trans ?_)
  rw [hg]

section Predicted

variable (hg : s.nextShadowGroup q = none) (hp : (s.queue q).predicted = some p)
  (hl : ∀ l, s.launch? q (p.2.2.1 - 1) = some l → l.ng ≤ l.placed)

include hg hp hl

/-- A prediction whose launch before it is placed starts as a shadow, or is dropped. -/
theorem exec_shadowStart_predicted {o : Option State} (hs : (s.modQueue q fun y => { y with predicted := none }).startShadow q p = .ok o) :
    exec (.shadowStart q) s = .next (o.getD (s.modQueue q fun y => { y with predicted := none })) := by
  have hplaced : (!(match s.launch? q (p.2.2.1 - 1) with | none => true | some l => decide (l.ng ≤ l.placed))) = false := by
    cases h : s.launch? q (p.2.2.1 - 1) with
    | none => rfl
    | some l => simpa using hl l h
  refine (execShadowStart.eq_1 q s).trans ((if_neg (shadow_goes hr hh)).trans ?_)
  rw [hg]
  dsimp only
  rw [hp]
  refine (if_neg (Bool.eq_false_iff.1 hplaced)).trans ?_
  rw [hs]
  cases o <;> rfl

end Predicted

theorem exec_shadowCommit_commits (h4 : (s.queue q).shadow.st = 4) (hw : s.commitWrites q = .ok u) : exec (.shadowCommit q) s
    = exec (.launchComplete q (s.queue q).shadow.lseq) (((u.modQueue q fun y =>
        { (if (s.queue q).shadow.wasAdopted then (y.count 1).count 2 else y.count 1) with shadow := {} }).leaveShadow q).mapLaunches fun l =>
          if l.q = q ∧ l.lseq = (s.queue q).shadow.lseq then { l with shadow := false, ended := l.ng * l.kernels.length } else l) := by
  have hgo : ¬ ((s.queue q).shadow.st ≠ 4 ∨ (!s.running (s.queue q).ctx) = true ∨ (s.queue q).held = true) := by
    rw [hr, hh, h4]
    simp
  refine (execShadowCommit.eq_1 q s).trans ((if_neg hgo).trans ?_)
  rw [hw]
  rfl

end Shadows

end Steps

/-- Settles O47: each step under its condition, and the steps that change nothing. -/
theorem launchSteps : Obligations.LaunchSteps := by
  unfold Obligations.LaunchSteps
  intro s t u q lseq v c cl pos j n k l g gs ps p
  refine ⟨exec_takeUp_closed, fun hj hr => ⟨_, exec_takeUp_goesOn hj hr, rfl⟩, fun hm hc => ⟨_, exec_takeUp_cancelled hm hc, rfl⟩, ?_,
    fun hr hh => ⟨_, exec_groupPlace_held hr hh, rfl⟩, fun hr hh => ⟨_, exec_groupPlace_offers hr hh, rfl⟩,
    fun hr hg hb hw => ⟨_, exec_wakeBegin_wakes hr hg hb hw, rfl⟩, fun ha => ⟨_, exec_clusterAwake_done ha, rfl⟩,
    fun ho ha hb hr hq => ⟨_, exec_clusterGate_gates ho ha hb hr hq, rfl⟩, exec_clusterGate_busy, ?_, ?_, ?_,
    fun hl hsh hend hr hheld hmsgs hpend => ⟨_, exec_launchComplete_completes hl hsh hend hr hheld hmsgs hpend, rfl⟩,
    exec_launchComplete_early, fun hr hh hg => ⟨_, exec_shadowStart_group hr hh hg, rfl⟩, ?_, ?_⟩
  case refine_1 =>
    intro hm hc hread
    have hexec := exec_takeUp_read hm hc hread
    refine ⟨fun hb ht => hexec.trans (if_pos ⟨hb, ht⟩), fun hb hw hbad => ⟨_, hexec.trans ?_, rfl⟩,
      fun hb hw hbad ht => ⟨_, hexec.trans ?_, rfl⟩, fun hb hw => ⟨_, hexec.trans ?_, rfl⟩⟩
    · exact (if_neg fun h => Bool.false_ne_true (hb.symm.trans h.1)).trans (if_pos ⟨hw, hbad⟩)
    · exact (if_neg fun h => Bool.false_ne_true (hb.symm.trans h.1)).trans
        ((if_neg fun h => Bool.false_ne_true (hbad.symm.trans h.2)).trans (if_pos ⟨hw, ht⟩))
    · exact (if_neg fun h => absurd h.2 (not_lt.2 (hb h.1))).trans ((if_neg fun h => Bool.false_ne_true ((hw h.1).1.symm.trans h.2)).trans
        (if_neg fun h => absurd h.2 (not_lt.2 (hw h.1).2)))
  case refine_2 =>
    rintro ⟨hg, hl, hj, hn, hr⟩ hrot hi
    have hexec := exec_rotation_turns ⟨hg, hl, hj, hn, hr⟩ hrot hi
    exact ⟨fun hroom => ⟨_, hexec.trans (congrArg Host.Outcome.next (if_pos hroom)), rfl⟩,
      fun hroom => hexec.trans (congrArg Host.Outcome.next (if_neg (Bool.eq_false_iff.1 hroom)))⟩
  case refine_3 =>
    rintro ⟨hg, hl, hj, hn, hr⟩ hrot hi
    exact ⟨_, exec_rotation_full ⟨hg, hl, hj, hn, hr⟩ hrot hi, rfl⟩
  case refine_4 =>
    rintro ⟨hg, hl, hj, hn, hr⟩ hrot
    exact exec_rotation_waits ⟨hg, hl, hj, hn, hr⟩ hrot
  case refine_5 =>
    exact fun hr hh hg hp hl => ⟨fun hs => ⟨_, exec_shadowStart_predicted hr hh hg hp hl hs, rfl⟩,
      fun hs => ⟨_, exec_shadowStart_predicted hr hh hg hp hl hs, rfl⟩⟩
  case refine_6 =>
    intro h4 hr hh hw
    obtain ⟨z, hz⟩ := exec_launchComplete_next (((u.modQueue q fun y =>
        { (if (s.queue q).shadow.wasAdopted then (y.count 1).count 2 else y.count 1) with shadow := {} }).leaveShadow q).mapLaunches fun l =>
          if l.q = q ∧ l.lseq = (s.queue q).shadow.lseq then { l with shadow := false, ended := l.ng * l.kernels.length } else l)
      q (s.queue q).shadow.lseq
    exact ⟨z, (exec_shadowCommit_commits hr hh h4 hw).trans hz, hz⟩

end Sys2Proof.Machine
end

section
/-!
SUPPORT. The supervisor's forms over pages, tables and checkpoints (23 R417, R423, R425, R431, R435, 19 R377 to R380).
-/

namespace Sys2Proof.Machine

theorem Res.out_of_ok {α : Type} {r : Res α} {x : α} {t : State} (h : r = .ok x t) (f : α → State → Out) : r.out f = f x t := by rw [h]; rfl

theorem div_two_pow_ne_zero {x n : Nat} (h : 2 ^ n ≤ x) : x / 2 ^ n ≠ 0 := (Nat.div_pos h (Nat.two_pow_pos n)).ne'

section Forms

variable {s t u : State} {d a b k : Nat} {ws : List Nat} {loc : Loc}

theorem State.authority_fails {c : Nat} (h : ¬ (s.cur.onControl = true ∨ c = s.cur.ctx)) : (!s.authority c) = true := by
  rw [Bool.not_eq_true', Bool.eq_false_iff]
  exact mt (s.authority_iff c).1 h

theorem State.authority_holds {c : Nat} (h : s.cur.onControl = true ∨ c = s.cur.ctx) : ¬ ((!s.authority c) = true) := by
  rw [(s.authority_iff c).2 h]
  exact Bool.false_ne_true

/-! ### Forms of any level -/

variable (hs : s.cur.shadow = none)

section AnyLevel

include hs

theorem State.pure_alone (f : Out) : (if s.cur.shadow.isSome = true then .next s.impure else f) = f :=
  if_neg (by rw [hs]; exact Bool.false_ne_true)

theorem exec_l1inv_alone : exec .l1inv s = .next ((s.retire 4).l1Clear s.cur.coreKey) := (execL1inv.eq_1 s).trans (State.pure_alone hs _)

/-- `l2wb` outside a shadow. -/
theorem exec_l2wb_alone : exec (.l2wb d a b) s =
    if s.reg a % 128 ≠ 0 then .next (s.trapHere cALIGN 0 (s.reg a))
    else if s.reg a / 2 ^ 56 ≠ 0 then .next (s.trapHere cRANGE 0 (s.reg a))
    else if s.reg b = 0 ∨ 2 ^ 32 < s.reg b then .next (s.trapHere cRANGE 0 (s.reg b))
    else
      let r := s.writeBack (s.reg b / 65536 + 2) (s.reg a) (s.reg b) 0 false
      if r.2.1 then .next r.2.2.yieldPoint else r.2.2.yieldPoint.put 4 d r.1 0 := (execL2wb.eq_1 d a b s).trans (State.pure_alone hs _)

theorem Runs.l2wb_unaligned (h : s.reg a % 128 ≠ 0) : Runs (.l2wb d a b) s (Trapped s · 0x03 0 (s.reg a) s.pc) :=
  Runs.of_trapHere ((exec_l2wb_alone hs).trans (if_pos h)) hs

theorem Runs.l2wb_far (h : s.reg a % 128 = 0) (hx : 2 ^ 56 ≤ s.reg a) : Runs (.l2wb d a b) s (Trapped s · 0x0A 0 (s.reg a) s.pc) :=
  Runs.of_trapHere ((exec_l2wb_alone hs).trans ((if_neg (not_not.2 h)).trans (if_pos (div_two_pow_ne_zero hx)))) hs

section Aligned

variable (h : s.reg a % 128 = 0) (hx : s.reg a < 2 ^ 56)

include h hx

theorem Runs.l2wb_count (hy : s.reg b = 0 ∨ 2 ^ 32 < s.reg b) : Runs (.l2wb d a b) s (Trapped s · 0x0A 0 (s.reg b) s.pc) :=
  Runs.of_trapHere ((exec_l2wb_alone hs).trans ((if_neg (not_not.2 h)).trans ((if_neg (not_not.2 (Nat.div_eq_of_lt hx))).trans (if_pos hy)))) hs

theorem exec_l2wb_writes (hy : 1 ≤ s.reg b) (hn : s.reg b ≤ 2 ^ 32) : exec (.l2wb d a b) s =
    if (s.writeBack (s.reg b / 65536 + 2) (s.reg a) (s.reg b) 0 false).2.1 = true then
      .next (s.writeBack (s.reg b / 65536 + 2) (s.reg a) (s.reg b) 0 false).2.2.yieldPoint
    else (s.writeBack (s.reg b / 65536 + 2) (s.reg a) (s.reg b) 0 false).2.2.yieldPoint.put 4 d
      (s.writeBack (s.reg b / 65536 + 2) (s.reg a) (s.reg b) 0 false).1 0 :=
  (exec_l2wb_alone hs).trans ((if_neg (not_not.2 h)).trans ((if_neg (not_not.2 (Nat.div_eq_of_lt hx))).trans (if_neg (by omega))))

end Aligned

end AnyLevel

/-! ### Invalidation (R417) -/

variable (hl : s.cur.level ≠ .user)

include hs hl

/-- The bounds of an invalidation by its words. -/
def invLo (x y : Nat) : Nat := if bit y 8 then 0 else bits x 16 40 * 65536
def invHi (x y : Nat) : Nat := if bit y 8 then 2 ^ 56 else bits x 16 40 * 65536 + 2 ^ (16 + x % 64)

/-- Whether the operands of a `tlbinv` name a range and a context. -/
def TlbWords (x y : Nat) : Prop := bits x 6 10 = 0 ∧ x < 2 ^ 56 ∧ x % 64 ≤ 40 ∧ bits x 16 40 % 2 ^ (x % 64) = 0
  ∧ (y.testBit 8 = true → x = 0) ∧ bits y 6 2 = 0 ∧ y < 512

theorem Runs.tlbinv_outside (h : bits (s.reg a) 6 10 ≠ 0 ∨ 2 ^ 56 ≤ s.reg a ∨ 40 < s.reg a % 64) :
    Runs (.tlbinv d a b) s (Trapped s · 0x0A 0 (s.reg a) s.pc) := by
  refine Runs.of_trapHere ((execTlbinv.eq_1 d a b s).trans ((s.privForm_runs _ _ hs hl).trans (if_pos ?_))) hs
  simp only [Bool.or_eq_true, bne_iff_ne, decide_eq_true_eq]
  rcases h with h | h | h
  · exact .inl (.inl (.inl (.inl h)))
  · exact .inl (.inl (.inl (.inr (div_two_pow_ne_zero h))))
  · exact .inl (.inl (.inr h))

/-- `tlbinv` with good operands. -/
theorem exec_tlbinv_good (h : TlbWords (s.reg a) (s.reg b)) : exec (.tlbinv d a b) s =
    if (!s.authority (s.reg b % 64)) = true then .next (s.trapHere cPDENY 0 (s.reg b))
    else if (s.ctx (s.reg b % 64)).st = 0 then s.put 4 d 1 0
    else if s.drainWaits (s.reg b % 64) = true then
      .next ((s.invalidate (s.reg b % 64) (invLo (s.reg a) (s.reg b)) (invHi (s.reg a) (s.reg b))).block
        (.drain d (s.reg b % 64) (invLo (s.reg a) (s.reg b)) (invHi (s.reg a) (s.reg b))))
    else s.yieldPoint.endTlbinv d (s.reg b % 64) (invLo (s.reg a) (s.reg b)) (invHi (s.reg a) (s.reg b)) := by
  obtain ⟨h1, h2, h3, h4, h5, h6, h7⟩ := h
  have hx : ¬ ((bits (s.reg a) 6 10 != 0 || s.reg a / 2 ^ 56 != 0 || decide (40 < s.reg a % 64) || bits (s.reg a) 16 40 % 2 ^ (s.reg a % 64) != 0
      || (bit (s.reg b) 8 && s.reg a != 0)) = true) := by
    rw [h1, h4, Nat.div_eq_of_lt h2, decide_eq_false (not_lt.2 h3), bit_eq_testBit]
    cases hb : (s.reg b).testBit 8 with
    | false => exact Bool.false_ne_true
    | true => rw [h5 hb]; exact Bool.false_ne_true
  have hy : ¬ ((bits (s.reg b) 6 2 != 0 || s.reg b / 512 != 0) = true) := by
    rw [h6, Nat.div_eq_of_lt h7]
    exact Bool.false_ne_true
  exact (execTlbinv.eq_1 d a b s).trans ((s.privForm_runs _ _ hs hl).trans ((if_neg hx).trans (if_neg hy)))

/-! ### Heat (R425, R426) -/

/-- The record of `heatrd` and `heatage` has been read from a good operand, and its fields are in range. -/
structure HeatRead (s : State) (a b : Nat) (ws : List Nat) (t : State) : Prop where
  ctx : s.reg b < 64
  auth : s.cur.onControl = true ∨ s.reg b = s.cur.ctx
  aligned : s.reg a % 32 = 0
  words : s.quietWords (s.reg a) 0 4 = .ok ws t
  page : ws.getD 0 0 % 65536 = 0
  va : ws.getD 0 0 < 2 ^ 56
  some : 1 ≤ ws.getD 1 0
  count : ws.getD 1 0 ≤ 2 ^ 24
  zero : ws.getD 3 0 = 0

omit hs hl in
theorem State.withHeat_read (h : HeatRead s a b ws t) (f : Nat → Nat → Nat → Nat → State → Out) :
    s.withHeat a b f = f (s.reg b) (ws.getD 0 0) (ws.getD 1 0) (ws.getD 2 0) t := by
  obtain ⟨hc, hauth, ha, hw, hp, hv, h1, hn, hz⟩ := h
  have hfields : ¬ (ws.getD 0 0 % 65536 ≠ 0 ∨ ws.getD 0 0 / 2 ^ 56 ≠ 0 ∨ ws.getD 1 0 = 0 ∨ 2 ^ 24 < ws.getD 1 0 ∨ ws.getD 3 0 ≠ 0) := by
    rw [Nat.div_eq_of_lt hv]
    omega
  refine (if_neg (not_not.2 (Nat.div_eq_of_lt hc))).trans ((if_neg (State.authority_holds hauth)).trans ((if_neg (not_not.2 ha)).trans ?_))
  exact (Res.out_of_ok hw _).trans (if_neg hfields)

theorem exec_heatrd_reads (h : HeatRead s a b ws t) (hr : State.heatRead (s.reg b) (ws.getD 0 0) (ws.getD 2 0) (ws.getD 1 0) 0 0 t = .ok (k, u)) :
    exec (.heatrd d a b) s = u.put 4 d k 0 := by
  refine (execHeatrd.eq_1 d a b s).trans ((s.privForm_runs _ _ hs hl).trans ((State.withHeat_read h _).trans ?_))
  rw [hr]

theorem exec_heatage_ages (h : HeatRead s a b ws t) (h0 : ws.getD 2 0 = 0) : exec (.heatage d a b) s =
    (State.heatAge (s.reg b) (ws.getD 0 0) (ws.getD 1 0) 0 0 t).2.put 4 d (State.heatAge (s.reg b) (ws.getD 0 0) (ws.getD 1 0) 0 0 t).1 0 :=
  (execHeatage.eq_1 d a b s).trans ((s.privForm_runs _ _ hs hl).trans ((State.withHeat_read h _).trans (if_neg (not_not.2 h0))))

/-- The context operand of the heat forms and of `ptload` is out of range. -/
theorem Runs.pageCtx_bad (h : 64 ≤ s.reg b) : Runs (.heatrd d a b) s (Trapped s · 0x0A 0 (s.reg b) s.pc)
    ∧ Runs (.heatage d a b) s (Trapped s · 0x0A 0 (s.reg b) s.pc) ∧ Runs (.ptload d a b) s (Trapped s · 0x0A 0 (s.reg b) s.pc) := by
  have hb : s.reg b / 64 ≠ 0 := by omega
  exact ⟨Runs.of_trapHere ((execHeatrd.eq_1 d a b s).trans ((s.privForm_runs _ _ hs hl).trans (if_pos hb))) hs,
    Runs.of_trapHere ((execHeatage.eq_1 d a b s).trans ((s.privForm_runs _ _ hs hl).trans (if_pos hb))) hs,
    Runs.of_trapHere ((execPtload.eq_1 d a b s).trans ((s.privForm_runs _ _ hs hl).trans (if_pos hb))) hs⟩

/-- The context operand of the heat forms and of `ptload` names another context. -/
theorem Runs.pageCtx_denied (hc : s.reg b < 64) (h : ¬ (s.cur.onControl = true ∨ s.reg b = s.cur.ctx)) :
    Runs (.heatrd d a b) s (Trapped s · 0x05 0 (s.reg b) s.pc) ∧ Runs (.heatage d a b) s (Trapped s · 0x05 0 (s.reg b) s.pc)
      ∧ Runs (.ptload d a b) s (Trapped s · 0x05 0 (s.reg b) s.pc) := by
  have hb : ¬ (s.reg b / 64 ≠ 0) := by omega
  have ha := State.authority_fails h
  exact ⟨Runs.of_trapHere ((execHeatrd.eq_1 d a b s).trans ((s.privForm_runs _ _ hs hl).trans ((if_neg hb).trans (if_pos ha)))) hs,
    Runs.of_trapHere ((execHeatage.eq_1 d a b s).trans ((s.privForm_runs _ _ hs hl).trans ((if_neg hb).trans (if_pos ha)))) hs,
    Runs.of_trapHere ((execPtload.eq_1 d a b s).trans ((s.privForm_runs _ _ hs hl).trans ((if_neg hb).trans (if_pos ha)))) hs⟩

/-! ### Replays (R423) -/

theorem exec_pfreplay_alone : exec (.pfreplay d a b) s =
    if s.reg a / 64 ≠ 0 then .next (s.trapHere cRANGE 0 (s.reg a))
    else if s.reg b / 2 ^ 33 ≠ 0 then .next (s.trapHere cRANGE 0 (s.reg b))
    else if (!s.authority (s.reg a)) = true then .next (s.trapHere cPDENY 0 (s.reg a))
    else (s.replayGroup (s.reg a) (s.reg b % 2 ^ 32) (bit (s.reg b) 32)).2.put 4 d
      (s.replayGroup (s.reg a) (s.reg b % 2 ^ 32) (bit (s.reg b) 32)).1 0 :=
  (execPfreplay.eq_1 d a b s).trans (s.privForm_runs _ _ hs hl)

theorem Runs.pfreplay_ctx (h : 64 ≤ s.reg a) : Runs (.pfreplay d a b) s (Trapped s · 0x0A 0 (s.reg a) s.pc) := by
  have ha : s.reg a / 64 ≠ 0 := by omega
  exact Runs.of_trapHere ((exec_pfreplay_alone hs hl).trans (if_pos ha)) hs

section Group

variable (hx : s.reg a < 64)

include hx

theorem Runs.pfreplay_word (h : 2 ^ 33 ≤ s.reg b) : Runs (.pfreplay d a b) s (Trapped s · 0x0A 0 (s.reg b) s.pc) := by
  have ha : ¬ (s.reg a / 64 ≠ 0) := by omega
  exact Runs.of_trapHere ((exec_pfreplay_alone hs hl).trans ((if_neg ha).trans (if_pos (div_two_pow_ne_zero h)))) hs

variable (hy : s.reg b < 2 ^ 33)

include hy

theorem Runs.pfreplay_denied (h : ¬ (s.cur.onControl = true ∨ s.reg a = s.cur.ctx)) :
    Runs (.pfreplay d a b) s (Trapped s · 0x05 0 (s.reg a) s.pc) := by
  have ha : ¬ (s.reg a / 64 ≠ 0) := by omega
  exact Runs.of_trapHere ((exec_pfreplay_alone hs hl).trans ((if_neg ha).trans ((if_neg (not_not.2 (Nat.div_eq_of_lt hy))).trans
    (if_pos (State.authority_fails h))))) hs

theorem exec_pfreplay_replays (h : s.cur.onControl = true ∨ s.reg a = s.cur.ctx) : exec (.pfreplay d a b) s =
    (s.replayGroup (s.reg a) (s.reg b % 2 ^ 32) (bit (s.reg b) 32)).2.put 4 d
      (s.replayGroup (s.reg a) (s.reg b % 2 ^ 32) (bit (s.reg b) 32)).1 0 := by
  have ha : ¬ (s.reg a / 64 ≠ 0) := by omega
  exact (exec_pfreplay_alone hs hl).trans ((if_neg ha).trans ((if_neg (not_not.2 (Nat.div_eq_of_lt hy))).trans
    (if_neg (State.authority_holds h))))

end Group

/-! ### Tables (19 R377, R378) -/

section Table

variable (hy : s.reg b < 64) (hauth : s.cur.onControl = true ∨ s.reg b = s.cur.ctx) (hx : s.reg a % 8 = 0)

include hy hauth hx

theorem exec_ptload_empty (h0 : (s.ctx (s.reg b)).st = 0) : exec (.ptload d a b) s = s.put 4 d 11 0 := by
  have hb : ¬ (s.reg b / 64 ≠ 0) := by omega
  exact (execPtload.eq_1 d a b s).trans ((s.privForm_runs _ _ hs hl).trans ((if_neg hb).trans ((if_neg (State.authority_holds hauth)).trans
    ((if_neg (not_not.2 hx)).trans (if_pos h0)))))

variable (h0 : (s.ctx (s.reg b)).st ≠ 0) (hw : s.loadQuads (s.reg a) 0 2 = .ok ws t)

include h0 hw

theorem exec_ptload_used (hr : ∃ r ∈ (t.ctx (s.reg b)).ranges, 0 < r.2.npg ∧ r.2.pid = (quadBytes ws).getD 0 0) :
    exec (.ptload d a b) s = t.put 4 d 10 0 := by
  have hb : ¬ (s.reg b / 64 ≠ 0) := by omega
  refine (execPtload.eq_1 d a b s).trans ((s.privForm_runs _ _ hs hl).trans ((if_neg hb).trans ((if_neg (State.authority_holds hauth)).trans
    ((if_neg (not_not.2 hx)).trans ((if_neg h0).trans ((Res.out_of_ok hw _).trans (if_pos ?_)))))))
  obtain ⟨r, hm, hn, hp⟩ := hr
  exact List.any_eq_true.2 ⟨r, hm, by simp [hn, hp]⟩

/-- The table that the header, the attributes and the rows describe. -/
def tableOf (ws qs rs : List Nat) : RawTable :=
  let h := fun i => (quadBytes ws).getD i 0
  { id := h 0, ns := h 1, ne := h 2, tb := h 3, nrow := h 4 + 256 * h 5, attrs := (quadBytes qs).take (h 1), rows := rs.map rowOf
    dirty := ((quadBytes ws).drop 6).any (· != 0) || ((quadBytes qs).drop (h 1)).any (· != 0) }

/-- The state with a table put in the place of the one that it replaces, whose copies are recalled. -/
def State.installed (z : State) (y : Nat) (tab : RawTable) : State :=
  (z.recallOwner y tab.id).modCtx y fun c => { c with
    tables := c.tables.put tab.id { attrs := tab.attrs, rows := tab.rows, upd := tab.upd } }

theorem exec_ptload_loads (hr : ∀ r ∈ (t.ctx (s.reg b)).ranges, 0 < r.2.npg → r.2.pid ≠ (quadBytes ws).getD 0 0) {qs rs : List Nat} {v z : State}
    (hq : t.loadQuads (s.reg a) 16 (ceilDiv ((quadBytes ws).getD 1 0) 8) = .ok qs v)
    (hrows : v.loadQuads (s.reg a) (16 + 8 * ceilDiv ((quadBytes ws).getD 1 0) 8 : Nat)
      ((quadBytes ws).getD 4 0 + 256 * (quadBytes ws).getD 5 0) = .ok rs z)
    (hok : (tableOf ws qs rs).verdict = (0, some 0, some 0)) : exec (.ptload d a b) s =
      (z.installed (s.reg b) (tableOf ws qs rs)).put 4 d (2 ^ 32 * b2n (tableOf ws qs rs).upd) 0 := by
  have hb : ¬ (s.reg b / 64 ≠ 0) := by omega
  have hfree : ¬ (((t.ctx (s.reg b)).ranges.any fun r => decide (0 < r.2.npg) && r.2.pid == (quadBytes ws).getD 0 0) = true) := by
    rw [List.any_eq_true]
    rintro ⟨r, hm, hx⟩
    simp only [Bool.and_eq_true, decide_eq_true_eq, beq_iff_eq] at hx
    exact hr r hm hx.1 hx.2
  refine (execPtload.eq_1 d a b s).trans ((s.privForm_runs _ _ hs hl).trans ((if_neg hb).trans ((if_neg (State.authority_holds hauth)).trans
    ((if_neg (not_not.2 hx)).trans ((if_neg h0).trans ((Res.out_of_ok hw _).trans ((if_neg hfree).trans
      ((Res.out_of_ok hq _).trans ((Res.out_of_ok hrows _).trans ?_)))))))))
  have hword : 0 + 256 * 0 + 65536 * 0 + 2 ^ 32 * b2n (true && (tableOf ws qs rs).upd) = 2 ^ 32 * b2n (tableOf ws qs rs).upd := by
    rw [Bool.true_and]
    omega
  refine Eq.trans ?_ (congrArg (fun w => (z.installed (s.reg b) (tableOf ws qs rs)).put 4 d w 0) hword)
  unfold tableOf at hok
  dsimp only at hok ⊢
  rw [hok]
  rfl

end Table

/-! ### Ranges (19 R379, R380) -/

theorem Runs.rngset_bad (h : bits (s.reg a) 6 2 ≠ 0 ∨ 2 ^ 14 ≤ s.reg a) : Runs (.rngset d a b) s (Trapped s · 0x0A 0 (s.reg a) s.pc) := by
  have hx : bits (s.reg a) 6 2 ≠ 0 ∨ s.reg a / 2 ^ 14 ≠ 0 := h.imp_right div_two_pow_ne_zero
  exact Runs.of_trapHere ((execRngset.eq_1 d a b s).trans ((s.privForm_runs _ _ hs hl).trans (if_pos hx))) hs

/-- `rngset` with good operands. -/
theorem exec_rngset_good (h : bits (s.reg a) 6 2 = 0 ∧ s.reg a < 2 ^ 14 ∧ (s.cur.onControl = true ∨ bits (s.reg a) 8 6 = s.cur.ctx)
      ∧ s.reg b % 16 = 0) : exec (.rngset d a b) s =
    if (s.ctx (bits (s.reg a) 8 6)).st = 0 then s.put 4 d 3 0
    else (s.loadQuads (s.reg b) 0 2).out fun ws t =>
      if (t.ctx (bits (s.reg a) 8 6)).rangeStatus (s.reg a % 64) (ws.getD 0 0) (ws.getD 1 0) ≠ 0 then
        t.put 4 d ((t.ctx (bits (s.reg a) 8 6)).rangeStatus (s.reg a % 64) (ws.getD 0 0) (ws.getD 1 0)) 0
      else if t.drainWaits (bits (s.reg a) 8 6) then .next t
      else (t.setRange (bits (s.reg a) 8 6) (s.reg a % 64) (rangeOf (ws.getD 0 0) (ws.getD 1 0))).put 4 d 0 0 := by
  obtain ⟨h1, h2, h3, h4⟩ := h
  have hx : ¬ (bits (s.reg a) 6 2 ≠ 0 ∨ s.reg a / 2 ^ 14 ≠ 0) := by
    rw [h1, Nat.div_eq_of_lt h2]
    simp
  exact (execRngset.eq_1 d a b s).trans ((s.privForm_runs _ _ hs hl).trans ((if_neg hx).trans ((if_neg (State.authority_holds h3)).trans
    (if_neg (not_not.2 h4)))))

/-! ### Checkpoints (R431) -/

section Ckpt

variable (hc : s.cur.onControl = true) (hp : s.reg b % 64 = 0) (hw : s.quietWords (s.reg b) 0 8 = .ok ws t)

include hc hp hw

/-- A checkpoint that starts: its mask, its descriptor, and where its status goes. -/
def State.ckptStarted (z : State) (mask : Nat) (ws : List Nat) (loc : Loc) : State :=
  z.modDev fun v => { v with
    ckpt := some [mask, ws.getD 0 0, ws.getD 1 0, ws.getD 2 0, ws.getD 3 0, loc.key, loc.kind, loc.desc, z.cur.ctx, loc.va]
    ckptMem := z.mem.filter fun c => decide (ws.getD 0 0 ≤ c.1 ∧ c.1 < ws.getD 0 0 + 65536 * (ws.getD 1 0 % 2 ^ 24))
    ckptAt := z.sched.clock }

theorem exec_ckpt_busy (hk : t.dev.ckpt.isSome = true) : exec (.ckpt d a b) s = t.put 4 d 1 0 := by
  have hmine : ¬ ((!s.cur.onControl && setBits (s.reg a) s.cur.ctx 1 0 != 0) = true) := by rw [hc]; exact Bool.false_ne_true
  exact (execCkpt.eq_1 d a b s).trans ((s.privForm_runs _ _ hs hl).trans ((if_neg hmine).trans ((if_neg (not_not.2 hp)).trans
    ((Res.out_of_ok hw _).trans (if_pos hk)))))

variable (hk : t.dev.ckpt = none)

include hk

theorem exec_ckpt_running (hm : ∃ i, i < 64 ∧ (s.reg a).testBit i = true ∧ (t.ctx i).st ≠ 4 ∧ (t.ctx i).st ≠ 5) :
    exec (.ckpt d a b) s = t.put 4 d 2 0 := by
  have hmine : ¬ ((!s.cur.onControl && setBits (s.reg a) s.cur.ctx 1 0 != 0) = true) := by rw [hc]; exact Bool.false_ne_true
  have hidle : ¬ (t.dev.ckpt.isSome = true) := by rw [hk]; exact Bool.false_ne_true
  obtain ⟨i, hi, hbit, h4, h5⟩ := hm
  have hany : ((List.range 64).any fun c => bit (s.reg a) c && (t.ctx c).st != 4 && (t.ctx c).st != 5) = true :=
    List.any_eq_true.2 ⟨i, List.mem_range.2 hi, by simp [bit_eq_testBit, hbit, h4, h5]⟩
  exact (execCkpt.eq_1 d a b s).trans ((s.privForm_runs _ _ hs hl).trans ((if_neg hmine).trans ((if_neg (not_not.2 hp)).trans
    ((Res.out_of_ok hw _).trans ((if_neg hidle).trans (if_pos hany))))))

theorem exec_ckpt_starts (hm : ∀ i, i < 64 → (s.reg a).testBit i = true → (t.ctx i).st = 4 ∨ (t.ctx i).st = 5)
    (hbad : ckptBad (ws.getD 0 0) (ws.getD 1 0) (ws.getD 2 0) (ws.getD 3 0) (ws.getD 6 0) (ws.getD 7 0) = false)
    (hports : ∀ o ∈ t.extentPorts (ws.getD 2 0) (ws.getD 1 0 % 2 ^ 24), ∃ p, o = some p ∧ p ∈ t.dev.persist) {v z : State}
    (hcheck : t.check 4 (s.reg b) 0x20 16 8 aWrite = .ok loc v) (hwrite : v.writeAt v.me loc 16 0 aWrite = .ok z) :
    exec (.ckpt d a b) s = (z.ckptStarted (s.reg a) ws loc).put 4 d 0 0 := by
  have hmine : ¬ ((!s.cur.onControl && setBits (s.reg a) s.cur.ctx 1 0 != 0) = true) := by rw [hc]; exact Bool.false_ne_true
  have hidle : ¬ (t.dev.ckpt.isSome = true) := by rw [hk]; exact Bool.false_ne_true
  have hany : ¬ (((List.range 64).any fun c => bit (s.reg a) c && (t.ctx c).st != 4 && (t.ctx c).st != 5) = true) := by
    rw [List.any_eq_true]
    rintro ⟨i, hi, hx⟩
    simp only [Bool.and_eq_true, bne_iff_ne, bit_eq_testBit] at hx
    exact (hm i (List.mem_range.1 hi) hx.1.1).elim hx.1.2 hx.2
  have hport : ∀ o ∈ t.extentPorts (ws.getD 2 0) (ws.getD 1 0 % 2 ^ 24),
      ¬ ((match o with | none => true | some p => !t.dev.persist.contains p) = true) := by
    intro o ho
    obtain ⟨p, rfl, hp⟩ := hports o ho
    simpa using hp
  refine (execCkpt.eq_1 d a b s).trans ((s.privForm_runs _ _ hs hl).trans ((if_neg hmine).trans ((if_neg (not_not.2 hp)).trans
    ((Res.out_of_ok hw _).trans ((if_neg hidle).trans ((if_neg hany).trans ((if_neg (Bool.eq_false_iff.1 hbad)).trans
      ((if_neg (Bool.eq_false_iff.1 (List.any_eq_false.2 hport))).trans ((Res.out_of_ok hcheck _).trans ?_)))))))))
  rw [hwrite]
  rfl

end Ckpt

end Forms

/-- Settles O50: the checks of each form in their order, and what it leaves past them. -/
theorem pageForms : Obligations.PageForms := by
  unfold Obligations.PageForms
  intro s t u d a b k ws loc hd hs
  refine ⟨?_, ?_, ?_, ?_, fun hl h => Runs.tlbinv_outside hs hl h, ⟨_, exec_l1inv_alone hs, rfl⟩, Runs.l2wb_unaligned hs, Runs.l2wb_far hs,
    Runs.l2wb_count hs, ?_, ?_, ?_, fun hl h => Runs.pageCtx_bad hs hl h, fun hl hc h => Runs.pageCtx_denied hs hl hc h, ?_,
    fun hl h => Runs.pfreplay_ctx hs hl h, fun hl hx h => Runs.pfreplay_word hs hl hx h, fun hl hx hy h => Runs.pfreplay_denied hs hl hx hy h,
    ?_, ?_, ?_, ?_, ?_, ?_, fun hl h => Runs.rngset_bad hs hl h, ?_⟩
  case refine_1 =>
    intro hl hok hauth h0
    exact Runs.of_putFrom ((exec_tlbinv_good hs hl hok).trans ((if_neg (State.authority_holds hauth)).trans (if_pos h0))) hd
  case refine_2 =>
    intro hl hok hauth h0 hw
    refine ⟨_, (exec_tlbinv_good hs hl hok).trans ((if_neg (State.authority_holds hauth)).trans ((if_neg h0).trans (if_pos hw))), ?_⟩
    unfold invLo invHi
    rw [bit_eq_testBit]
    exact Blocked.of_block _ _
  case refine_3 =>
    intro hl hok hauth h0 hw
    have h := (exec_tlbinv_good (d := d) hs hl hok).trans ((if_neg (State.authority_holds hauth)).trans ((if_neg h0).trans
      (if_neg (Bool.eq_false_iff.1 hw))))
    unfold invLo invHi at h
    rw [bit_eq_testBit] at h
    exact Runs.of_putFrom h hd
  case refine_4 =>
    intro hl hok hauth
    exact Runs.of_trapHere ((exec_tlbinv_good hs hl hok).trans (if_pos (State.authority_fails hauth))) hs
  case refine_5 =>
    intro hx hfar hy hn
    have h := exec_l2wb_writes (d := d) hs hx hfar hy hn
    exact ⟨fun hw => ⟨_, h.trans (if_pos hw), rfl⟩, fun hw => Runs.of_putFrom (h.trans (if_neg (Bool.eq_false_iff.1 hw))) hd⟩
  case refine_6 =>
    rintro hl ⟨h1, h2, h3, h4, h5, h6, h7, h8, h9⟩ hr
    exact Runs.of_putFrom (exec_heatrd_reads hs hl ⟨h1, h2, h3, h4, h5, h6, h7, h8, h9⟩ hr) hd
  case refine_7 =>
    rintro hl ⟨h1, h2, h3, h4, h5, h6, h7, h8, h9⟩ h0
    exact Runs.of_putFrom (exec_heatage_ages hs hl ⟨h1, h2, h3, h4, h5, h6, h7, h8, h9⟩ h0) hd
  case refine_8 =>
    exact fun hl hx hy h => Runs.of_putFrom (exec_pfreplay_replays hs hl hx hy h) hd
  case refine_9 =>
    exact fun hl hy hauth hx h0 => Runs.of_putFrom (exec_ptload_empty hs hl hy hauth hx h0) hd
  case refine_10 =>
    exact fun hl hy hauth hx h0 hw hr => Runs.of_putFrom (exec_ptload_used hs hl hy hauth hx h0 hw hr) hd
  case refine_11 =>
    intro hl hy hauth hx h0 hw hr _ _ _ qs rs v z hq hrows _ hok
    exact Runs.of_putFrom (exec_ptload_loads hs hl hy hauth hx h0 hw hr hq hrows hok) hd
  case refine_12 => exact fun hl hok h0 => Runs.of_putFrom ((exec_rngset_good hs hl hok).trans (if_pos h0)) hd
  case refine_13 =>
    intro hl hok h0 hw hst
    exact Runs.of_putFrom ((exec_rngset_good hs hl hok).trans ((if_neg h0).trans ((Res.out_of_ok hw _).trans (if_pos hst)))) hd
  case refine_14 =>
    intro hl hok h0 hw hst hdrain
    exact Runs.of_putFrom ((exec_rngset_good hs hl hok).trans ((if_neg h0).trans ((Res.out_of_ok hw _).trans ((if_neg (not_not.2 hst)).trans
      (if_neg (Bool.eq_false_iff.1 hdrain)))))) hd
  case refine_15 =>
    intro hl hc hp hw
    refine ⟨fun hk => Runs.of_putFrom (exec_ckpt_busy hs hl hc hp hw hk) hd, fun hk hm => Runs.of_putFrom (exec_ckpt_running hs hl hc hp hw hk hm) hd,
      fun hk hm hbad hports v z hcheck hwrite => ?_⟩
    obtain ⟨x, hx, hpc, hval, honly, -⟩ := Runs.of_putFrom (exec_ckpt_starts hs hl hc hp hw hk hm hbad hports hcheck hwrite) hd
    exact ⟨x, hx, hval, hpc, congrArg (fun y : State => y.dev.ckpt) honly⟩

end Sys2Proof.Machine
end

section
/-!
SUPPORT. What a host agent and the device do to pages: ATS, held fault records, replays and checkpoints (23 R418, R422, R423, R432).
-/

namespace Sys2Proof.Machine

section Events

variable {s t : State} {ctx grp page pa perm n stat : Nat} {hs w : List Nat} {rs : List (List Nat)} {loc : Loc}

/-! ### Host pages (R418) -/

/-- The state with a translation that ATS gave. -/
def State.atsPut (s : State) (ctx page pa perm : Nat) : State :=
  s.modCoh fun h => { h with ats := h.ats.put (ctx * 2 ^ 64 + page) (pa, perm % 4) }

theorem exec_atsCompletion_caches (hc : (s.ctx ctx).st ≠ 0) (hl : (s.link hostLink).st = 2) :
    exec (.atsCompletion ctx page pa perm) s = .next (s.atsPut ctx page pa perm) :=
  (execAtsCompletion.eq_1 ctx page pa perm s).trans (congrArg Host.Outcome.next (if_pos ⟨hc, hl⟩))

theorem exec_atsCompletion_dropped (h : (s.ctx ctx).st = 0 ∨ (s.link hostLink).st ≠ 2) :
    exec (.atsCompletion ctx page pa perm) s = .next s :=
  (execAtsCompletion.eq_1 ctx page pa perm s).trans (congrArg Host.Outcome.next (if_neg fun hx => h.elim hx.1 fun hn => hn hx.2))

/-- The state with the translations of a run of host pages dropped, its context drained. -/
def State.atsDropped (s : State) (ctx page n : Nat) : State :=
  ((s.modCoh fun h => { h with ats := h.ats.filter fun p =>
    !(decide (ctx * 2 ^ 64 + page ≤ p.1 ∧ p.1 < ctx * 2 ^ 64 + page + n)) }).drain ctx).l1ClearCtx ctx

theorem exec_atsInvalidation_drops (hd : s.drainWaits ctx = false) :
    exec (.atsInvalidation ctx page n) s = .next (s.atsDropped ctx page n) :=
  (execAtsInvalidation.eq_1 ctx page n s).trans (if_neg (Bool.eq_false_iff.1 hd))

theorem exec_atsInvalidation_waits (hd : s.drainWaits ctx = true) : exec (.atsInvalidation ctx page n) s = .next s :=
  (execAtsInvalidation.eq_1 ctx page n s).trans (if_pos hd)

theorem FMap.get?_none_of_forall {α : Type} {m : FMap α} {k : Nat} (h : ∀ p ∈ m, p.1 ≠ k) : FMap.get? m k = none := by
  induction m with
  | nil => rfl
  | cons p m ih =>
    obtain ⟨j, v⟩ := p
    have hj : j ≠ k := h _ (List.mem_cons_self ..)
    exact (if_neg hj).trans (ih fun p hp => h p (List.mem_cons_of_mem _ hp))

theorem atsDropped_spec (s : State) (ctx page n : Nat) : (s.atsDropped ctx page n).mem = s.mem
    ∧ (∀ p, page ≤ p → p < page + n → FMap.get? (s.atsDropped ctx page n).coh.ats (ctx * 2 ^ 64 + p) = none)
    ∧ ∀ p ∈ (s.atsDropped ctx page n).coh.ats, p ∈ s.coh.ats := by
  refine ⟨rfl, fun p hlo hhi => FMap.get?_none_of_forall fun q hq => ?_, fun q hq => List.mem_of_mem_filter hq⟩
  have hq := (List.mem_filter.1 hq).2
  simp only [Bool.not_eq_true', decide_eq_false_iff_not] at hq
  omega

/-! ### Replays and held records (R422, R423) -/

theorem State.hostReplay_ready (hr : s.dev.ready = true) (c grp : Nat) (cancel : Bool) : s.hostReplay c grp cancel =
    (s.replayGroup (c % 64) (grp % 2 ^ 32) cancel).2.modDev fun d =>
      { d with repres := (s.replayGroup (c % 64) (grp % 2 ^ 32) cancel).1 } :=
  if_neg (by rw [hr]; exact Bool.false_ne_true)

theorem State.hostReplay_early (hr : s.dev.ready = false) (c grp : Nat) (cancel : Bool) : s.hostReplay c grp cancel = s :=
  if_pos (by rw [hr]; rfl)

theorem exec_recheck_empty (h : (s.ctx ctx).held = []) : exec (.faultRingRecheck ctx) s = .next s :=
  (execFaultRingRecheck.eq_1 ctx s).trans (if_pos (by rw [h]; rfl))

theorem exec_recheck_writes (h : (s.ctx ctx).held = hs :: rs)
    (hloc : (s.drainHeld ctx (hs :: rs)).devLoc ctx 0 (bits (((s.drainHeld ctx (hs :: rs)).ctx ctx).word 0x08) 6 50 * 64) 64 aWrite = (some loc, t)) :
    exec (.faultRingRecheck ctx) s = .next (t.devKeep (devWho ctx 0) loc 24 8 (t.ctx ctx).held.length) := by
  refine (execFaultRingRecheck.eq_1 ctx s).trans ((if_neg (by rw [h]; exact Bool.false_ne_true)).trans ?_)
  rw [h]
  dsimp only
  rw [hloc]

/-! ### Checkpoints (R432) -/

theorem exec_checkpoint_idle (h : s.dev.ckpt = none) : exec (.checkpointComplete stat) s = .next s := by
  refine (execCheckpointComplete.eq_1 stat s).trans ?_
  rw [h]

/-- The ports of a far-tier extent are up. -/
theorem State.ports_up {dst np : Nat} (h : ∀ o ∈ s.extentPorts dst np, ∃ p, o = some p ∧ (s.link (farLink p)).st = 2) :
    ((s.extentPorts dst np).any fun o => match o with | none => true | some p => (s.link (farLink p)).st != 2) = false := by
  refine List.any_eq_false.2 ?_
  intro o ho
  obtain ⟨p, rfl, hp⟩ := h o ho
  simp [hp]

section Run

variable (hw : s.dev.ckpt = some w)
  (hup : ∀ o ∈ s.extentPorts (w.getD 3 0) (w.getD 2 0 % 2 ^ 24), ∃ p, o = some p ∧ (s.link (farLink p)).st = 2)

include hw hup

theorem exec_checkpoint_copies
    (hclean : ∀ l ∈ s.coh.poison, ¬ (w.getD 1 0 ≤ l * 128 ∧ l * 128 < w.getD 1 0 + 65536 * (w.getD 2 0 % 2 ^ 24))) :
    exec (.checkpointComplete 1) s = .next (((State.ckptCopy (w.getD 1 0) (w.getD 3 0) (w.getD 4 0) (bit (w.getD 2 0) 63)
      (w.getD 2 0 % 2 ^ 24) 0 0 s).devKeep (devWho (w.getD 8 0) 0) { key := w.getD 5 0, kind := w.getD 6 0, desc := w.getD 7 0, va := w.getD 9 0 }
        0 16 (1 + w.getD 2 0 % 2 ^ 24 * 2 ^ 64)).modDev fun v => { v with ckpt := none, ckptMem := [] }) := by
  have hbad : (s.coh.poison.any fun l => decide (w.getD 1 0 ≤ l * 128 ∧ l * 128 < w.getD 1 0 + 65536 * (w.getD 2 0 % 2 ^ 24))) = false :=
    List.any_eq_false.2 fun l hl => by rw [decide_eq_true_eq]; exact hclean l hl
  have hdown := State.ports_up hup
  refine (execCheckpointComplete.eq_1 1 s).trans ?_
  rw [hw]
  refine if_pos ⟨rfl, ?_, ?_⟩
  · exact congrArg (! ·) hdown
  · exact congrArg (! ·) hbad

theorem exec_checkpoint_stays : exec (.checkpointComplete 2) s = .next s := by
  have hdown := State.ports_up hup
  refine (execCheckpointComplete.eq_1 2 s).trans ?_
  rw [hw]
  refine (if_neg fun h => absurd h.1 (by decide)).trans (if_neg ?_)
  rintro (⟨-, h⟩ | h)
  · exact Bool.false_ne_true (hdown.symm.trans h)
  · exact absurd h (by decide)

end Run

end Events

/-- Settles O51: each step under its condition, and the steps that change nothing. -/
theorem pageEvents : Obligations.PageEvents := by
  unfold Obligations.PageEvents
  intro s t ctx grp page pa perm n stat hs w rs loc
  refine ⟨?_, exec_atsCompletion_dropped, exec_atsInvalidation_waits, fun hd => ⟨_, exec_atsInvalidation_drops hd, atsDropped_spec s ctx page n⟩,
    ?_, ?_, exec_recheck_empty, fun h hloc => ⟨_, exec_recheck_writes h hloc, rfl⟩, exec_checkpoint_idle, ?_, ?_⟩
  case refine_1 =>
    intro hc hl
    exact ⟨_, exec_atsCompletion_caches hc hl, FMap.get?_put_self _ _ _, rfl, rfl, fun k hk => FMap.get?_put_ne _ _ _ _ hk⟩
  case refine_2 =>
    intro hr
    exact ⟨⟨_, execReplay.eq_1 ctx grp s, s.hostReplay_ready hr _ _ _⟩, ⟨_, execReplayCancel.eq_1 ctx grp s, s.hostReplay_ready hr _ _ _⟩⟩
  case refine_3 =>
    intro hr
    exact ⟨(execReplay.eq_1 ctx grp s).trans (congrArg Host.Outcome.next (s.hostReplay_early hr _ _ _)),
      (execReplayCancel.eq_1 ctx grp s).trans (congrArg Host.Outcome.next (s.hostReplay_early hr _ _ _))⟩
  case refine_4 =>
    rintro hw rfl hup hclean
    refine ⟨_, exec_checkpoint_copies hw hup hclean, ?_⟩
    rw [bit_eq_testBit]
  case refine_5 =>
    rintro hw rfl hup
    exact exec_checkpoint_stays hw hup

end Sys2Proof.Machine
end

section
/-!
SUPPORT. What happens to an activation between its instructions (10 R255, R267 to R269, 03 R72, R75, 23 R424), and what a freeze leaves of
a context and of an activation where no shadow runs (24 R447).
-/

namespace Sys2Proof.Machine

/-! ### Writes of the hardware where no shadow runs -/

/-- What an access of the hardware must find so as to leave the issuer as it is: no shadow, and no reservation of the issuer. -/
structure Calm (s : State) : Prop where
  queues : ∀ e ∈ s.work.queues, e.2.shadow.st = 0
  resv : s.cur.resv = none

/-- The fields of a context that a freeze sets. -/
def State.frzPart (s : State) (c : Nat) : Nat × Nat × Nat := ((s.ctx c).st, (s.ctx c).reason, (s.ctx c).frzval)

/-- A step that leaves the issuer and a context's state as they are, and lets the next one do so. -/
structure CalmStep (c : Nat) (s t : State) : Prop where
  cur : t.cur = s.cur
  part : t.frzPart c = s.frzPart c
  calm : Calm t

theorem CalmStep.trans {c : Nat} {s t u : State} (h : CalmStep c s t) (h' : CalmStep c t u) : CalmStep c s u :=
  ⟨h'.cur.trans h.cur, h'.part.trans h.part, h'.calm⟩

theorem CalmStep.refl {c : Nat} {s : State} (h : Calm s) : CalmStep c s s := ⟨rfl, rfl, h⟩

theorem State.frzPart_mapAway (s : State) (f : Act → Act) (c : Nat) : (s.mapAway f).frzPart c = s.frzPart c := by
  unfold State.frzPart
  rw [s.ctx_mapAway f c]

theorem CalmStep.of_kill {s t : State} {c : Nat} (h : CalmStep c s t) (p : Queue → Bool) (r : Nat) : CalmStep c s (t.killShadows p r) := by
  rw [State.killShadows_none t p r h.calm.queues]
  exact h

theorem FMap.mem_of_get? {α : Type} {m : FMap α} {k : Nat} {v : α} (h : FMap.get? m k = some v) : (k, v) ∈ m := by
  induction m with
  | nil => cases h
  | cons p m ih =>
    obtain ⟨j, w⟩ := p
    unfold FMap.get? at h
    split at h
    · next hj => rw [hj, Option.some.inj h]; exact List.mem_cons_self ..
    · exact List.mem_cons_of_mem _ (ih h)

section Writes

variable {s : State} {c : Nat} (h : Calm s)

include h

theorem CalmStep.of_disturb (key n : Nat) : CalmStep c s (s.disturbKey (fun _ => false) key n) := by
  have hcur : (if (s.cur.resv.map fun r => decide (key / 128 ≤ r.line ∧ r.line ≤ (key + n - 1) / 128)) == some true && !false
      then { s.cur with resv := none } else s.cur) = s.cur := by
    rw [h.resv]
    rfl
  unfold State.disturbKey
  refine CalmStep.of_kill ?_ _ _
  exact ⟨hcur, State.frzPart_mapAway (s.mapActs _) _ c, h.queues, (congrArg Act.resv hcur).trans h.resv⟩

theorem CalmStep.of_hwWrite (key n v : Nat) : CalmStep c s (s.hwWrite key n v) := by
  obtain ⟨hcur, hpart, hcalm⟩ := CalmStep.of_disturb (s := s.wrN key n v) (c := c) ⟨h.queues, h.resv⟩ key n
  exact ⟨hcur, hpart, hcalm⟩

theorem CalmStep.of_log (cls sub ctx die link addr : Nat) : CalmStep c s (s.log cls sub ctx die link addr) := by
  unfold State.log
  dsimp only
  split
  · exact CalmStep.refl h
  · split
    · exact ⟨rfl, rfl, h.queues, h.resv⟩
    · obtain ⟨hcur, hpart, hcalm⟩ := CalmStep.of_hwWrite (c := c) h (hostKey (bits s.dev.logBase 5 51 * 32 + 32 * (s.dev.logHead % 2 ^ bits s.dev.logBase 56 8))) 32
        (s.cycle 4 % 2 ^ 64 + 2 ^ 64 * (addr % 2 ^ 64)
          + 2 ^ 128 * ((cls + sub % 256 * 256 + ctx % 64 * 65536 + die % 4 * 2 ^ 22 + link % 256 * 2 ^ 24) % 2 ^ 64))
      exact ⟨hcur, hpart, hcalm.queues, hcalm.resv⟩

theorem shadow_queue (q : Nat) : (s.queue q).shadow.st = 0 := by
  unfold State.queue FMap.getD
  cases hq : FMap.get? s.work.queues q with
  | none => rfl
  | some x => exact h.queues _ (FMap.mem_of_get? hq)

theorem CalmStep.of_putQueueSt (q st err : Nat) : CalmStep c s (s.putQueueSt q st err) := by
  unfold State.putQueueSt
  dsimp only
  have hmod : Calm (s.modQueue q fun x => { x with st := st, err := err }) :=
    ⟨fun e he => (FMap.mem_of_mem_put he).elim (h.queues e) fun heq => by rw [heq]; exact shadow_queue h q, h.resv⟩
  have hmap : Calm ((s.modQueue q fun x => { x with st := st, err := err }).modWork fun w => { w with
      queues := w.queues.mapV fun _ x => if st = 0 ∧ x.waits = some q then { x with waits := none, cancelled := 2 } else x }) := by
    refine ⟨fun e he => ?_, h.resv⟩
    obtain ⟨e', he', rfl⟩ := List.mem_map.1 he
    dsimp only
    split
    · exact hmod.queues e' he'
    · exact hmod.queues e' he'
  split
  · exact ⟨rfl, rfl, hmap⟩
  · next k hk =>
    refine CalmStep.trans ?_ (CalmStep.of_hwWrite hmap k 8 _)
    exact ⟨rfl, rfl, hmap⟩

end Writes

/-- An open queue of a context that freezes halts. -/
def State.haltIn (c : Nat) (s : State) (e : Nat × Queue) : State :=
  if e.2.ctx = c ∧ e.2.st = 1 then s.putQueueSt e.1 2 e.2.err else s

theorem CalmStep.of_halts {c : Nat} : ∀ (es : List (Nat × Queue)) {s : State}, Calm s → CalmStep c s (es.foldl (State.haltIn c) s)
  | [], _, h => CalmStep.refl h
  | e :: es, s, h => by
    have hstep : CalmStep c s (s.haltIn c e) := by
      unfold State.haltIn
      split
      · exact CalmStep.of_putQueueSt h _ _ _
      · exact CalmStep.refl h
    exact hstep.trans (CalmStep.of_halts es hstep.calm)

theorem notice_keeps (s : State) (c sub tval k : Nat) : (s.notice c sub tval).cur = s.cur ∧ (s.notice c sub tval).frzPart k = s.frzPart k := by
  have hpost : (s.postSup c [c * 2 ^ 41, sub * 256, tval, 0, 0, 0, 0, 0]).cur = s.cur
      ∧ (s.postSup c [c * 2 ^ 41, sub * 256, tval, 0, 0, 0, 0, 0]).frzPart k = s.frzPart k := ⟨rfl, rfl⟩
  unfold State.notice
  dsimp only
  split
  · exact hpost
  · exact hpost

/-- The context as a freeze leaves it, before its shadows and queues end. -/
def State.frozen (s : State) (c reason val : Nat) : State :=
  s.modCtx c fun x => { x with before := (s.ctx c).st, st := 5, reason := reason, frzval := val, everFrozen := true }

/-- A freeze of a running context keeps the issuer, and says so in the context. -/
theorem freeze_spec {s : State} (h : Calm s) {c reason val : Nat} (hrun : (s.ctx c).st = 3) :
    (s.freeze c reason val).cur = s.cur ∧ (s.freeze c reason val).frzPart c = (5, reason, val) := by
  have hno : ¬ ((s.ctx c).st = 0 ∨ (s.ctx c).st = 5 ∨ (s.ctx c).st = 6) := by omega
  have hfreeze : s.freeze c reason val
      = (((s.frozen c reason val).killShadows (fun q => q.ctx == c) 9).work.queues.foldl (State.haltIn c)
          ((s.frozen c reason val).killShadows (fun q => q.ctx == c) 9)).notice c 2 reason := if_neg hno
  have hcalm : Calm (s.frozen c reason val) := ⟨h.queues, h.resv⟩
  have hpart : (s.frozen c reason val).frzPart c = (5, reason, val) := by
    rw [State.frozen, State.frzPart, State.ctx_modCtx]
  have hkill := CalmStep.of_kill (CalmStep.refl (c := c) hcalm) (fun q => q.ctx == c) 9
  have hhalt := CalmStep.of_halts (c := c) ((s.frozen c reason val).killShadows (fun q => q.ctx == c) 9).work.queues hkill.calm
  rw [hfreeze]
  generalize ((s.frozen c reason val).killShadows (fun q => q.ctx == c) 9).work.queues.foldl (State.haltIn c)
    ((s.frozen c reason val).killShadows (fun q => q.ctx == c) 9) = z at hhalt ⊢
  obtain ⟨hcur, hpart'⟩ := notice_keeps z c 2 reason c
  exact ⟨hcur.trans ((hkill.trans hhalt).cur.trans rfl), hpart'.trans ((hkill.trans hhalt).part.trans hpart)⟩

/-! ### The watchdog (10 R269) -/

section Issuer

variable {s : State} (hlive : s.cur.live = true) (hrun : s.running s.cur.ctx = true)

include hlive hrun

theorem exec_watchdogExpiry (hready : s.cur.run = .ready) (hslot : s.cur.inSlot = true) (htop : s.isTop s.cur = true)
    (hdue : 2 ^ (s.ctx s.cur.ctx).wdog ≤ s.cycle s.cur.die - s.cur.wd) : exec (.watchdogExpiry s.cur.id) s
      = .next ((if s.cur.wpOk then s.trapHere cWDOG 0 s.cur.lastPc else s.trapWsp).flushPoly s.cur.id) := by
  have hexec : exec (.watchdogExpiry s.cur.id) s = execWatchdogExpiry s.cur.id s := rfl
  rw [hexec, execWatchdogExpiry, State.act?_self hlive]
  refine (if_neg ?_).trans (by rw [State.onAct_self])
  simp [hready, hslot, htop, hrun, Nat.not_lt.2 hdue]

/-! ### Error replies (23 R424) -/

/-- The issuer with its window closed, and without the line that failed. -/
def State.dropWin (s : State) (addr n : Nat) : State := (s.dropLine addr).modCur fun y => { y with wins := y.wins.filter (·.n != n) }

omit hlive hrun in
theorem State.dropLine_keeps {α : Type} {g : State → α} (hg : ∀ f : Core → Core, g (s.modMyCore f) = g s) (va : Nat) :
    g (s.dropLine va) = g s := by
  unfold State.dropLine
  split
  · exact hg _
  · rfl

omit hlive hrun in
theorem State.cur_dropLine (va : Nat) : (s.dropLine va).cur = s.cur := State.dropLine_keeps (fun _ => rfl) va

omit hrun in
/-- What an error reply does to the issuer, whose window had no registers to restore. -/
theorem exec_errorReply_load {n sub addr : Nat} {w : Win} (hw : s.cur.wins.find? (·.n == n) = some w) (hland : w.landed = false)
    (hold : w.old = []) (hs : s.cur.shadow = none) {v : State}
    (hv : (let y := (s.dropLine addr).modCur fun x => { x with
              wins := x.wins.filter (·.n != n)
              late := x.late ++ [{ code := 0x12, sub := sub, tval := w.pc, kind := 3, n := 0 }] }
           if y.cur.run = .ready then (y.raiseLate { code := 0x12, sub := sub, tval := w.pc, kind := 3, n := 0 }).flushPoly s.cur.id else y) = v) :
    exec (.errorReply 0 s.cur.id n sub addr) s = .next ((v.log 1 sub s.cur.ctx s.cur.die 0 addr).freeze s.cur.ctx 2 addr) := by
  have hexec : exec (.errorReply 0 s.cur.id n sub addr) s = execErrorReply 0 s.cur.id n sub addr s := rfl
  have hbind : ((s.act? s.cur.id).bind fun a => (a.wins.find? (·.n == n)).map fun w => (a, w)) = some (s.cur, w) := by
    rw [State.act?_self hlive, Option.bind_some, hw]
    rfl
  have hwin : s.restoreWin w = s := by
    unfold State.restoreWin
    rw [hold]
    rfl
  rw [hexec, execErrorReply, if_pos rfl, hbind]
  dsimp only
  rw [hland, hs, if_neg Bool.false_ne_true]
  dsimp only
  rw [State.onAct_self, hwin, ← hv]
  rfl

theorem runs_errorReply_waiting {n sub addr : Nat} {w : Win} (hw : s.cur.wins.find? (·.n == n) = some w) (hland : w.landed = false)
    (hold : w.old = []) (hno : s.NoShadow) (hr : s.cur.run ≠ .ready) (hres : s.cur.resv = none) :
    Runs (.errorReply 0 s.cur.id n sub addr) s fun t =>
      t.cur = { s.cur with wins := s.cur.wins.filter (·.n != n), late := s.cur.late ++ [{ code := 0x12, sub := sub, tval := w.pc, kind := 3, n := 0 }] }
        ∧ (t.ctx s.cur.ctx).st = 5 ∧ (t.ctx s.cur.ctx).reason = 2 ∧ (t.ctx s.cur.ctx).frzval = addr := by
  obtain ⟨hq, -, hsh⟩ := hno
  set y := (s.dropLine addr).modCur fun x => { x with
              wins := x.wins.filter (·.n != n)
              late := x.late ++ [{ code := 0x12, sub := sub, tval := w.pc, kind := 3, n := 0 }] } with hy
  have hcur : (s.dropLine addr).cur = s.cur := State.cur_dropLine addr
  have hrun' : y.cur.run ≠ .ready := by rw [hy]; exact fun h => hr ((congrArg Act.run hcur).symm.trans h)
  have hcalm : Calm y := by
    refine ⟨?_, (congrArg Act.resv hcur).trans hres⟩
    have hwork : (s.dropLine addr).work = s.work := State.dropLine_keeps (fun _ => rfl) addr
    rw [hy]
    exact fun e he => hq e (hwork ▸ he)
  have hctx : y.frzPart s.cur.ctx = s.frzPart s.cur.ctx := State.dropLine_keeps (g := fun x => x.frzPart s.cur.ctx) (fun _ => rfl) addr
  have hlog := CalmStep.of_log (c := s.cur.ctx) hcalm 1 sub s.cur.ctx s.cur.die 0 addr
  have hst : ((y.log 1 sub s.cur.ctx s.cur.die 0 addr).ctx s.cur.ctx).st = 3 := by
    refine (congrArg (·.1) (hlog.part.trans hctx)).trans ?_
    exact beq_iff_eq.1 hrun
  obtain ⟨hkeep, hpart⟩ := freeze_spec hlog.calm (reason := 2) (val := addr) hst
  refine ⟨_, exec_errorReply_load hlive hw hland hold hsh (if_neg hrun'), (hkeep.trans hlog.cur).trans ?_, ?_⟩
  · rw [hy]
    exact congrArg (fun x : Act => { x with
      wins := x.wins.filter (·.n != n)
      late := x.late ++ [({ code := 0x12, sub := sub, tval := w.pc, kind := 3, n := 0 } : Late)] }) hcur
  · exact ⟨congrArg (·.1) hpart, congrArg (fun x => x.2.1) hpart, congrArg (fun x => x.2.2) hpart⟩

omit hrun in
theorem runs_errorReply_ready {n sub addr : Nat} {w : Win} (hw : s.cur.wins.find? (·.n == n) = some w) (hland : w.landed = false)
    (hold : w.old = []) (hno : s.NoShadow) (hr : s.cur.run = .ready)
    (hlate : ({ code := 0x12, sub := sub, tval := w.pc, kind := 3, n := 0 } : Late) ∉ s.cur.late) :
    Runs (.errorReply 0 s.cur.id n sub addr) s fun t => ∃ u, Trapped (s.dropWin addr n) u 0x12 sub w.pc s.pc
      ∧ t = ((u.flushPoly s.cur.id).log 1 sub s.cur.ctx s.cur.die 0 addr).freeze s.cur.ctx 2 addr := by
  obtain ⟨-, -, hsh⟩ := hno
  have hcur : (s.dropLine addr).cur = s.cur := State.cur_dropLine addr
  have hpc : (s.dropWin addr n).pc = s.pc := by
    have hdrop : (s.dropLine addr).pc = s.pc := State.dropLine_keeps (fun _ => rfl) addr
    exact hdrop
  have hraise : (((s.dropLine addr).modCur fun x => { x with
              wins := x.wins.filter (·.n != n)
              late := x.late ++ [{ code := 0x12, sub := sub, tval := w.pc, kind := 3, n := 0 }] }).modCur fun a => { a with
                late := a.late.erase { code := 0x12, sub := sub, tval := w.pc, kind := 3, n := 0 } }) = s.dropWin addr n := by
    have herase : ((s.dropLine addr).cur.late ++ [({ code := 0x12, sub := sub, tval := w.pc, kind := 3, n := 0 } : Late)]).erase
        { code := 0x12, sub := sub, tval := w.pc, kind := 3, n := 0 } = (s.dropLine addr).cur.late := by
      rw [hcur, List.erase_append_right _ hlate]
      simp
    simp only [State.modCur, State.dropWin, State.setCur, herase]
  have htrap := Trapped.of_trapHere (s.dropWin addr n) 0x12 sub w.pc ((congrArg Act.shadow hcur).trans hsh)
  rw [hpc] at htrap
  refine ⟨_, exec_errorReply_load hlive hw hland hold hsh (if_pos ((congrArg Act.run hcur).trans hr)), _, htrap, ?_⟩
  unfold State.raiseLate
  rw [hraise]

/-! ### The ends of waits (10 R255) -/

theorem exec_waitEnd : exec (.waitEnd s.cur.id) s = .next (s.endWait.flushTrapped s.cur.id) := by
  have hexec : exec (.waitEnd s.cur.id) s = execWaitEnd s.cur.id s := rfl
  rw [hexec, execWaitEnd, State.act?_self hlive]
  refine (if_pos ?_).trans (by rw [State.onAct_self])
  rw [hrun, Bool.true_or]

omit hlive hrun in
theorem flushTrapped_of_live {t : State} (hid : t.cur.id = s.cur.id) (hl : t.cur.live = true) (hr : t.cur.run ≠ .trapWait) :
    t.flushTrapped s.cur.id = t := by
  unfold State.flushTrapped
  rw [← hid, State.act?_self hl]
  exact if_neg fun h => hr (Option.some.inj h)

theorem exec_waitEnd_short {kind n : Nat} (hw : s.cur.run = .waiting (.tl kind n)) (hn : (s.core s.cur.coreKey).tl.getD kind 0 < n) :
    exec (.waitEnd s.cur.id) s = .next s := by
  have hend : s.endWait = s := by
    unfold State.endWait
    rw [hw]
    exact if_pos hn
  rw [exec_waitEnd hlive hrun, hend, flushTrapped_of_live rfl hlive (by rw [hw]; exact fun h => nomatch h)]

theorem runs_waitEnd_reached {kind n : Nat} (hw : s.cur.run = .waiting (.tl kind n)) (hn : n ≤ (s.core s.cur.coreKey).tl.getD kind 0)
    (he : s.cur.errorOf kind n = none) : Runs (.waitEnd s.cur.id) s fun t =>
      t.cur = { s.cur with run := .ready, wd := s.cycle s.cur.die, view := t.cur.view } ∧ t.pc = (s.pc + 4) % 2 ^ 56
        ∧ SameMem s t s.pcSpan ∧ (t.core s.cur.coreKey).l1 = [] := by
  have hend : s.endWait = (s.wake.retire 4).tlAcquire kind n := by
    unfold State.endWait
    rw [hw]
    refine (if_neg (Nat.not_lt.2 hn)).trans ?_
    rw [he]
  have hkeep : ((s.wake.retire 4).tlAcquire kind n).flushTrapped s.cur.id = (s.wake.retire 4).tlAcquire kind n :=
    flushTrapped_of_live rfl hlive Run.noConfusion
  have hexec : exec (.waitEnd s.cur.id) s = .next ((s.wake.retire 4).tlAcquire kind n) := by
    rw [exec_waitEnd hlive hrun, hend, hkeep]
  refine ⟨_, hexec, rfl, s.pc_retire 4, fun k hk => s.rd_retire_ne 4 k hk, ?_⟩
  exact State.l1_l1Clear _ _

end Issuer

/-! ### Parking and resuming (10 R267, R268) -/

section Parking

variable {s t : State} {core : Nat} {a : Act}

theorem exec_activationPark {l va : Nat} {ls : List Nat} {loc : Loc} (hwork : s.waitingWork core = l :: ls)
    (hbest : parkBest (s.allActs.filter (s.parkable core (ls.foldl max l))) = some a) (hfree : (s.parkFree a).head? = some va)
    (hrun : s.running a.ctx = true) (hdev : s.devLoc a.ctx a.die va 0x140 aWrite = (some loc, t)) :
    exec (.activationPark core) s = .next (((((t.copyWs a.wsKey loc.key).modCore core fun c => { c with
        parks := ((t.copyWs a.wsKey loc.key).core core).parks + 1 }).onAct a.id fun z => z.modCur fun x => { x with
        parked := some loc.key
        parkVa := va
        parkOrder := ((t.copyWs a.wsKey loc.key).core core).parks }).relink core a.pri).wakeCore core) := by
  have hexec : exec (.activationPark core) s = execActivationPark core s := rfl
  rw [hexec, execActivationPark, hwork]
  dsimp only
  rw [hbest]
  dsimp only
  rw [hfree]
  dsimp only
  rw [hrun, hdev]
  rfl

theorem exec_activationResume {slot : Nat} (hbest : s.resumeBest core = some a) (hseat : s.freeSeat core = some slot)
    (hrun : s.running a.ctx = true) (hmsg : ∀ m ∈ (s.core core).queue, s.msgReady core m = true → m.pri < a.pri)
    (hring : a.pri = 0 → s.ringCount core = 0) :
    exec (.activationResume core) s
      = .next (((s.copyWs a.wsKey (tcmKey (core / 8192) (core / 8 % 1024) (core % 8) (0x140 * slot))).onAct a.id fun z =>
          (z.modCur fun x => { x with
            parked := none
            parkVa := 0
            slot := slot
            wp := 0x140 * slot
            atYield := false
            wd := z.cycle z.cur.die }).renegotiate).relink core a.pri) := by
  have hexec : exec (.activationResume core) s = execActivationResume core s := rfl
  have hany : ((s.core core).queue.any fun m => s.msgReady core m && decide (a.pri ≤ m.pri)) = false := by
    rw [List.any_eq_false]
    intro m hm h
    obtain ⟨hr, hp⟩ := Bool.and_eq_true_iff.1 h
    exact absurd (hmsg m hm hr) (Nat.not_lt.2 (of_decide_eq_true hp))
  have hidle : ¬ ((!s.running a.ctx || ((s.core core).queue.any fun m => s.msgReady core m && decide (a.pri ≤ m.pri))
      || (a.pri == 0 && s.ringCount core != 0)) = true) := by
    rw [hrun, hany]
    simpa using hring
  rw [hexec, execActivationResume, hbest, hseat]
  exact if_neg hidle

end Parking

/-- Settles O42: each event acts as the activation that it names, here the issuer, once its condition holds. -/
theorem activationEvents : Obligations.ActivationEvents := by
  intro s t core n sub addr kind eng l slot va ls a w c loc
  refine ⟨⟨_, congrArg Host.Outcome.next (State.onAct_self s _), rfl, rfl⟩, fun ⟨hlive, hrun⟩ hready hslot htop hdue hsh => ⟨fun hwp => ?due, fun hwp => ?wsp⟩,
    fun ⟨hlive, hrun⟩ => runs_errorReply_waiting hlive hrun, fun ⟨hlive, _⟩ => runs_errorReply_ready hlive,
    fun hlo hhi hc => ?engine, fun ⟨hlive, hrun⟩ hw => ⟨exec_waitEnd_short hlive hrun hw, runs_waitEnd_reached hlive hrun hw⟩,
    fun ⟨hlive, hrun⟩ => ⟨_, exec_waitEnd hlive hrun, rfl⟩,
    fun hwork hbest hfree hrun hdev => ⟨_, exec_activationPark hwork hbest hfree hrun hdev, rfl⟩,
    fun hbest hseat hrun hmsg hring => ⟨_, exec_activationResume hbest hseat hrun hmsg hring, rfl⟩⟩
  case due =>
    refine ⟨_, exec_watchdogExpiry hlive hrun hready hslot htop hdue, _, Trapped.of_trapHere s 0x0C 0 s.cur.lastPc hsh, ?_⟩
    rw [hwp]
    rfl
  case wsp =>
    refine ⟨_, exec_watchdogExpiry hlive hrun hready hslot htop hdue, ?_⟩
    rw [hwp]
    rfl
  case engine =>
    have hexec : exec (.errorReply eng core n sub addr) s = execErrorReply eng core n sub addr s := rfl
    refine ⟨_, hexec.trans ((if_neg (by omega)).trans ((if_pos hhi).trans ?_)), rfl⟩
    rw [hc]

end Sys2Proof.Machine
end

section
/-!
SUPPORT. Canonical memory (06), as a property of a state and of every kind of answer that holds one. The lemmas below follow the shape of
the model: one for each way in which its functions are put together, and then one for each function that answers a state, named
after it; its proof is the body of the function, read through the lemmas of what it calls.
-/

namespace Sys2Proof.Machine

/-! ### Canonical memory in a state and in what a function answers -/

/-- Memory in its canonical form. -/
def Canon (s : State) : Prop := Memory.wf s.mem = true

/-- What an instruction answers: canonical, when it is a next state. -/
structure CanonOut (o : Out) : Prop where
  next_wf : ∀ {t}, o = .next t → Canon t

/-- What a part of an instruction answers. -/
structure CanonRes {α : Type} (r : Res α) : Prop where
  ok_wf : ∀ {x s}, r = .ok x s → Canon s
  stop_wf : ∀ {s}, r = .stop s → Canon s

/-- What a run of a copy has reached. -/
def CanonRun (r : Run1) : Prop := Canon r.s

/-- What a matrix command's run ends with. -/
def CanonMRun (r : MRun) : Prop := Canon r.s

/-- A property of the value that a check answers, if it answers one. -/
structure Gives {ε α : Type} (P : α → Prop) (r : Except ε α) : Prop where
  ok_has : ∀ {x}, r = .ok x → P x

/-- A property of an optional value, if it stands. -/
structure Maybe {α : Type} (P : α → Prop) (o : Option α) : Prop where
  some_has : ∀ {x}, o = some x → P x

/-- A program of the index engine that keeps memory canonical. -/
structure Keeps {α : Type} (m : IM α) : Prop where
  run_gives : ∀ {s}, Canon s → Gives (fun x => Canon x.2) (m s)

section Shapes

variable {α β ε : Type} {s t : State} {c : Prop} [Decidable c]

theorem ite_has {P : α → Prop} {x y : α} (hx : P x) (hy : P y) : P (if c then x else y) := by
  split
  · exact hx
  · exact hy

theorem Canon.setMem {m : List Host.Cell} (h : Memory.wf m = true) : Canon (s.setMem m) := h

theorem Canon.zeroed {lo hi : Nat} (h : Canon t) : Canon (s.setMem (Memory.zero t.mem lo hi)) := Memory.zero_wf _ _ _ h

theorem Canon.spliced {lo : Nat} {bs : List Nat} (h : Canon t) : Canon (s.setMem (Memory.splice t.mem lo bs)) := Memory.splice_wf _ _ _ h

theorem Canon.written {a n v : Nat} (h : Canon t) : Canon (s.setMem (Memory.writeN t.mem a n v)) := Memory.writeN_wf _ _ _ _ h

theorem Canon.ite (hs : Canon s) (ht : Canon t) : Canon (if c then s else t) := ite_both hs ht

theorem Canon.ite_snd {x y : α × State} (hx : Canon x.2) (hy : Canon y.2) : Canon (if c then x else y).2 := ite_snd_both hx hy

theorem Canon.ite_snd_snd {x y : α × β × State} (hx : Canon x.2.2) (hy : Canon y.2.2) : Canon (if c then x else y).2.2 :=
  ite_has (P := fun x : α × β × State => Canon x.2.2) hx hy

theorem Canon.foldl {f : State → α → State} {l : List α} (hf : ∀ {t x}, Canon t → Canon (f t x)) (h : Canon s) : Canon (l.foldl f s) := by
  induction l generalizing s with
  | nil => exact h
  | cons x l ih => exact ih (hf h)

theorem Canon.foldl_snd {f : β × State → α → β × State} {l : List α} {r : β × State} (hf : ∀ {t x}, Canon t.2 → Canon (f t x).2)
    (h : Canon r.2) : Canon (l.foldl f r).2 := by
  induction l generalizing r with
  | nil => exact h
  | cons x l ih => exact ih (hf h)

theorem Canon.of_snd {r : α × State} {x : α} (e : r = (x, t)) (h : Canon r.2) : Canon t := by
  rw [e] at h
  exact h

theorem Canon.of_fst {r : State × α} {x : α} (e : r = (t, x)) (h : Canon r.1) : Canon t := by
  rw [e] at h
  exact h

theorem Canon.of_snd_snd {r : α × β × State} {x : α} {y : β} (e : r = (x, y, t)) (h : Canon r.2.2) : Canon t := by
  rw [e] at h
  exact h

theorem Canon.of_ok {r : Except ε (α × State)} {x : α} (e : r = .ok (x, t)) (h : Gives (fun x => Canon x.2) r) : Canon t := h.ok_has e

theorem Canon.of_ok_st {r : Except ε State} (e : r = .ok t) (h : Gives Canon r) : Canon t := h.ok_has e

theorem Canon.of_some_st {o : Option State} (e : o = some t) (h : Maybe Canon o) : Canon t := h.some_has e

theorem Canon.of_ok_fst {r : Except ε (State × α)} {x : α} (e : r = .ok (t, x)) (h : Gives (fun x => Canon x.1) r) : Canon t := h.ok_has e

theorem Canon.of_ok_snd {r : Except ε (α × β × State)} {x : α} {y : β} (e : r = .ok (x, y, t)) (h : Gives (fun x => Canon x.2.2) r) :
    Canon t := h.ok_has e

theorem Canon.of_ok_some {r : Except ε (Option State)} (e : r = .ok (some t)) (h : Gives (Maybe Canon) r) : Canon t := (h.ok_has e).some_has rfl

theorem Canon.of_ok_some_snd {r : Except ε (Option (α × State))} {x : α} (e : r = .ok (some (x, t)))
    (h : Gives (Maybe (fun x => Canon x.2)) r) : Canon t := (h.ok_has e).some_has rfl

theorem Canon.of_some {o : Option (α × State)} {x : α} (e : o = some (x, t)) (h : Maybe (fun x => Canon x.2) o) : Canon t := h.some_has e

theorem Canon.of_res {r : Res α} {x : α} (e : r = .ok x t) (h : CanonRes r) : Canon t := h.ok_wf e

theorem Canon.of_stop {r : Res α} (e : r = .stop t) (h : CanonRes r) : Canon t := h.stop_wf e

theorem Canon.of_next {o : Out} (e : o = .next t) (h : CanonOut o) : Canon t := h.next_wf e

theorem Canon.runS {r : Run1} (h : CanonRun r) : Canon r.s := h

theorem Canon.mrunS {r : MRun} (h : CanonMRun r) : Canon r.s := h

theorem Canon.getD {o : Option State} (ho : Maybe Canon o) (h : Canon s) : Canon (o.getD s) := by
  cases o with
  | none => exact h
  | some t => exact ho.some_has rfl

theorem CanonOut.next (h : Canon s) : CanonOut (.next s) := ⟨fun e => Host.Outcome.next.inj e ▸ h⟩
theorem CanonOut.fault {f : Fault} : CanonOut (.fault f) := ⟨fun e => nomatch e⟩
theorem CanonOut.refused {r : Refusal} : CanonOut (.refused r) := ⟨fun e => nomatch e⟩

theorem CanonOut.ite {x y : Out} (hx : CanonOut x) (hy : CanonOut y) : CanonOut (if c then x else y) := ite_has (P := CanonOut) hx hy

theorem CanonOut.getD {o : Option Out} {x : Out} (ho : Maybe CanonOut o) (h : CanonOut x) : CanonOut (o.getD x) := by
  cases o with
  | none => exact h
  | some t => exact ho.some_has rfl

theorem CanonOut.foldl {f : Out → α → Out} {l : List α} {o : Out} (hf : ∀ {o x}, CanonOut o → CanonOut (f o x)) (h : CanonOut o) :
    CanonOut (l.foldl f o) := by
  induction l generalizing o with
  | nil => exact h
  | cons x l ih => exact ih (hf h)

theorem CanonRes.ok {x : α} (h : Canon s) : CanonRes (.ok x s) := ⟨fun e => (Res.ok.inj e).2 ▸ h, (nomatch ·)⟩
theorem CanonRes.stop (h : Canon s) : CanonRes (.stop s : Res α) := ⟨(nomatch ·), fun e => Res.stop.inj e ▸ h⟩
theorem CanonRes.fault {f : Fault} : CanonRes (.fault f : Res α) := ⟨(nomatch ·), (nomatch ·)⟩

theorem CanonRes.ite {x y : Res α} (hx : CanonRes x) (hy : CanonRes y) : CanonRes (if c then x else y) := ite_has (P := CanonRes) hx hy

theorem CanonRun.mk {p fl : Nat} {e : Option (AErr × Nat)} {st : List (Nat × Nat)} (h : Canon s) : CanonRun ⟨s, p, fl, e, st⟩ := h
theorem CanonMRun.mk {p fl : Nat} {e : Option (AErr × Nat)} (h : Canon s) : CanonMRun ⟨s, p, fl, e⟩ := h

theorem CanonRun.ite {x y : Run1} (hx : CanonRun x) (hy : CanonRun y) : CanonRun (if c then x else y) := ite_has (P := CanonRun) hx hy
theorem CanonMRun.ite {x y : MRun} (hx : CanonMRun x) (hy : CanonMRun y) : CanonMRun (if c then x else y) := ite_has (P := CanonMRun) hx hy

section Answers

variable {P : α → Prop}

theorem Gives.ok {x : α} (h : P x) : Gives P (.ok x : Except ε α) := ⟨fun e => Except.ok.inj e ▸ h⟩
theorem Gives.error {e : ε} : Gives P (.error e : Except ε α) := ⟨fun e => nomatch e⟩

theorem Gives.ite {x y : Except ε α} (hx : Gives P x) (hy : Gives P y) : Gives P (if c then x else y) := ite_has (P := Gives P) hx hy

theorem Gives.map {Q : β → Prop} {f : α → β} {r : Except ε α} (hf : ∀ {x}, P x → Q (f x)) (h : Gives P r) : Gives Q (r.map f) := by
  cases r with
  | error e => exact .error
  | ok x => exact .ok (hf (h.ok_has rfl))

theorem Gives.foldl {f : Except ε α → β → Except ε α} {l : List β} {r : Except ε α} (hf : ∀ {t x}, Gives P t → Gives P (f t x))
    (h : Gives P r) : Gives P (l.foldl f r) := by
  induction l generalizing r with
  | nil => exact h
  | cons x l ih => exact ih (hf h)

theorem Maybe.some {x : α} (h : P x) : Maybe P (some x) := ⟨fun e => Option.some.inj e ▸ h⟩
theorem Maybe.none : Maybe P none := ⟨fun e => nomatch e⟩

theorem Maybe.ite {x y : Option α} (hx : Maybe P x) (hy : Maybe P y) : Maybe P (if c then x else y) := ite_has (P := Maybe P) hx hy

theorem Maybe.map {Q : β → Prop} {f : α → β} {o : Option α} (hf : ∀ {x}, P x → Q (f x)) (h : Maybe P o) : Maybe Q (o.map f) := by
  cases o with
  | none => exact .none
  | some x => exact .some (hf (h.some_has rfl))

theorem Maybe.bind {Q : β → Prop} {f : α → Option β} {o : Option α} (hf : ∀ {x}, P x → Maybe Q (f x)) (h : Maybe P o) : Maybe Q (o.bind f) := by
  cases o with
  | none => exact .none
  | some x => exact hf (h.some_has rfl)

end Answers

theorem Gives.run {m : IM α} (hm : Keeps m) (h : Canon s) : Gives (fun x => Canon x.2) (m.run s) := hm.run_gives h

theorem Keeps.pure {x : α} : Keeps (Pure.pure x : IM α) := ⟨fun h => Gives.ok h⟩

theorem Keeps.of {m : IM α} (h : ∀ {s}, Canon s → Gives (fun x => Canon x.2) (m s)) : Keeps m := ⟨h⟩

theorem Keeps.bind {m : IM α} {f : α → IM β} (hm : Keeps m) (hf : ∀ x, Keeps (f x)) : Keeps (m >>= f) := by
  refine ⟨fun {s} h => ?_⟩
  have hrun := hm.run_gives h
  show Gives _ ((m s).bind fun r => f r.1 r.2)
  cases hr : m s with
  | error e => exact .error
  | ok r => exact (hf r.1).run_gives (hrun.ok_has hr)

theorem Keeps.ite {m n : IM α} (hm : Keeps m) (hn : Keeps n) : Keeps (if c then m else n) := by
  split
  · exact hm
  · exact hn

end Shapes

end Sys2Proof.Machine
end

section
/-!
SUPPORT. The state, its named operations, the order of memory, coherence and access (03, 05, 06, 07, 23): each function keeps memory
canonical.
-/

namespace Sys2Proof.Machine

/-! ### Update -/

theorem Canon.setCur {s : State} {v : Act} (h : Canon s) : Canon (s.setCur v) := h
theorem Canon.setActs {s : State} {v : FMap Act} (h : Canon s) : Canon (s.setActs v) := h
theorem Canon.setCores {s : State} {v : FMap Core} (h : Canon s) : Canon (s.setCores v) := h
theorem Canon.setClusters {s : State} {v : FMap Cluster} (h : Canon s) : Canon (s.setClusters v) := h
theorem Canon.setCtxs {s : State} {v : FMap Ctx} (h : Canon s) : Canon (s.setCtxs v) := h
theorem Canon.setWork {s : State} {v : Work} (h : Canon s) : Canon (s.setWork v) := h
theorem Canon.setCoh {s : State} {v : Coh} (h : Canon s) : Canon (s.setCoh v) := h
theorem Canon.setLinks {s : State} {v : FMap Link} (h : Canon s) : Canon (s.setLinks v) := h
theorem Canon.setDies {s : State} {v : FMap Die} (h : Canon s) : Canon (s.setDies v) := h
theorem Canon.setDev {s : State} {v : Dev} (h : Canon s) : Canon (s.setDev v) := h
theorem Canon.setRace {s : State} {v : List Past} (h : Canon s) : Canon (s.setRace v) := h
theorem Canon.setSched {s : State} {v : Sched} (h : Canon s) : Canon (s.setSched v) := h
theorem Canon.modCur {s : State} {f : Act → Act} (h : Canon s) : Canon (s.modCur f) := .setCur h
theorem Canon.modCore {s : State} {k : ℕ} {f : Core → Core} (h : Canon s) : Canon (s.modCore k f) := .setCores h
theorem Canon.modCluster {s : State} {k : ℕ} {f : Cluster → Cluster} (h : Canon s) : Canon (s.modCluster k f) := .setClusters h
theorem Canon.modCtx {s : State} {c : ℕ} {f : Ctx → Ctx} (h : Canon s) : Canon (s.modCtx c f) := .setCtxs h
theorem Canon.modWork {s : State} {f : Work → Work} (h : Canon s) : Canon (s.modWork f) := .setWork h
theorem Canon.modCoh {s : State} {f : Coh → Coh} (h : Canon s) : Canon (s.modCoh f) := .setCoh h
theorem Canon.modDev {s : State} {f : Dev → Dev} (h : Canon s) : Canon (s.modDev f) := .setDev h
theorem Canon.modSched {s : State} {f : Sched → Sched} (h : Canon s) : Canon (s.modSched f) := .setSched h
theorem Canon.modLink {s : State} {k : ℕ} {f : Link → Link} (h : Canon s) : Canon (s.modLink k f) := .setLinks h
theorem Canon.modDie {s : State} {k : ℕ} {f : Die → Die} (h : Canon s) : Canon (s.modDie k f) := .setDies h
theorem Canon.modQueue {s : State} {q : ℕ} {f : Queue → Queue} (h : Canon s) : Canon (s.modQueue q f) := .modWork h

/-! ### Ops -/

theorem CanonRes.bind {α β : Type} {r : Res α} {f : α → State → Res β} (h : CanonRes r) (hf : ∀ {x0 x1}, Canon x1 → CanonRes (f x0 x1)) :
    CanonRes (r.bind f) := by
  unfold Res.bind
  split
  · exact hf <| .of_res rfl h
  · exact .stop <| .of_stop rfl h
  · exact .fault

theorem CanonOut.done {α : Type} {r : Res α} {f : α → State → State} (h : CanonRes r) (hf : ∀ {x0 x1}, Canon x1 → Canon (f x0 x1)) :
    CanonOut (r.done f) := by
  unfold Res.done
  split
  · exact .next <| hf <| .of_res rfl h
  · exact .next <| .of_stop rfl h
  · exact .fault

theorem CanonOut.out {α : Type} {r : Res α} {f : α → State → Out} (h : CanonRes r) (hf : ∀ {x0 x1}, Canon x1 → CanonOut (f x0 x1)) :
    CanonOut (r.out f) := by
  unfold Res.out
  split
  · exact hf <| .of_res rfl h
  · exact .next <| .of_stop rfl h
  · exact .fault

theorem CanonOut.halt {α : Type} {r : Res α} (h : CanonRes r) : CanonOut r.halt := by
  unfold Res.halt
  split
  · exact .next <| .of_res rfl h
  · exact .next <| .of_stop rfl h
  · exact .fault

theorem Canon.wrN {s : State} {a n v : ℕ} (h : Canon s) : Canon (s.wrN a n v) := .setMem <| Memory.writeN_wf _ _ _ _ h
theorem Canon.setWs {s : State} {off n v : ℕ} (h : Canon s) : Canon (s.setWs off n v) := .wrN h
theorem Canon.setReg {s : State} {k v t : ℕ} (h : Canon s) : Canon (s.setReg k v t) := .ite h <| .setWs <| .setWs h
theorem Canon.setPc {s : State} {v : ℕ} (h : Canon s) : Canon (s.setPc v) := .setWs h
theorem Canon.retire {s : State} {n : ℕ} (h : Canon s) : Canon (s.retire n) := .setPc h
theorem Canon.orFlags {s : State} {f : ℕ} (h : Canon s) : Canon (s.orFlags f) := .ite h <| .setWs h
theorem Canon.setStBit {s : State} {k : ℕ} {b : Bool} (h : Canon s) : Canon (s.setStBit k b) := .setWs h
theorem Canon.modMyCore {s : State} {f : Core → Core} (h : Canon s) : Canon (s.modMyCore f) := .modCore h

theorem Canon.focusOn {s : State} {id : ℕ} (h : Canon s) : Canon (s.focusOn id) := by
  refine .ite h ?_
  split
  · exact h
  · exact .setCur <| .setActs h

theorem Canon.onAct {s : State} {id : ℕ} {f : State → State} (h : Canon s) (hf : ∀ {x0}, Canon x0 → Canon (f x0)) : Canon (s.onAct id f) := by
  refine .ite (hf h) ?_
  split
  · exact h
  · exact .focusOn <| hf <| .focusOn h

theorem Canon.mapActs {s : State} {f : Act → Act} (h : Canon s) : Canon (s.mapActs f) := .setActs <| .setCur h
theorem Canon.mapAway {s : State} {f : Act → Act} (h : Canon s) : Canon (s.mapAway f) := .setCtxs <| .modWork h
theorem Canon.draw {s : State} (h : Canon s) : Canon s.draw.2 := .modSched h
theorem Canon.flip {s : State} (h : Canon s) : Canon s.flip.2 := .modSched h
theorem Canon.post {s : State} {m : Msg} (h : Canon s) : Canon (s.post m) := .modWork h
theorem Canon.postSup {s : State} {c : ℕ} {words : List ℕ} (h : Canon s) : Canon (s.postSup c words) := .post h
theorem Canon.notice {s : State} {c sub tval : ℕ} (h : Canon s) : Canon (s.notice c sub tval) := .ite (.modDev <| .postSup h) <| .postSup h
theorem Canon.ringDrop {s : State} {ck i : ℕ} (h : Canon s) : Canon (s.ringDrop ck i) := .ite h <| .wrN <| .foldl (fun h2 => .wrN h2) h

theorem Canon.freeShadowRecs {s : State} {q : ℕ} (h : Canon s) : Canon (s.freeShadowRecs q) := by
  unfold State.freeShadowRecs
  extract_lets +onlyGivenNames _ _ v2
  have h2 : Canon v2 := .foldl (fun h2 => .wrN <| .ringDrop h2) h
  exact .ite h2 <| .modCtx h2

theorem Canon.discardShadow {s : State} {q reason : ℕ} (h : Canon s) : Canon (s.discardShadow q reason) := by
  unfold State.discardShadow
  extract_lets +onlyGivenNames _
  refine .ite h ?_
  extract_lets +onlyGivenNames _ _ _ _ _ v2
  have h2 : Canon v2 := .setClusters <| .modCtx <| .freeShadowRecs <| .modQueue h
  exact .modWork <| .setCores <| .setCores <| .ite (.modCur <| .setActs h2) <| .setActs h2

theorem Canon.shadowAdvance {s : State} {q : ℕ} (h : Canon s) : Canon (s.shadowAdvance q) := .ite (.modQueue h) h

theorem Canon.killShadows {s : State} {p : Queue → Bool} {reason : ℕ} (h : Canon s) : Canon (s.killShadows p reason) :=
  .foldl (fun h2 => .ite (.discardShadow h2) h2) h

theorem Canon.disturbKey {s : State} {own : Act → Bool} {key n : ℕ} (h : Canon s) : Canon (s.disturbKey own key n) :=
  .killShadows <| .mapAway <| .mapActs h

theorem Canon.hwWrite {s : State} {key n v : ℕ} (h : Canon s) : Canon (s.hwWrite key n v) := .disturbKey <| .wrN h

theorem Canon.log {s : State} {cls sub ctx die link addr : ℕ} (h : Canon s) : Canon (s.log cls sub ctx die link addr) :=
  .ite h <| .ite (.modDev h) <| .modDev <| .hwWrite h

theorem Canon.putQueueSt {s : State} {q st err : ℕ} (h : Canon s) : Canon (s.putQueueSt q st err) := by
  unfold State.putQueueSt
  extract_lets +onlyGivenNames _ _ v2
  have h2 : Canon v2 := .modWork <| .modQueue h
  split
  · exact h2
  · exact .hwWrite h2

theorem Canon.haltQueue {s : State} {q err : ℕ} (h : Canon s) : Canon (s.haltQueue q err) := .ite h <| .putQueueSt <| .discardShadow h

theorem Canon.freeze {s : State} {c reason val : ℕ} (h : Canon s) : Canon (s.freeze c reason val) :=
  .ite h <| .notice <| .foldl (fun h2 => .ite (.putQueueSt h2) h2) <| .killShadows <| .modCtx h

theorem Canon.trapMessage {s : State} {cause tval pc : ℕ} (h : Canon s) : Canon (s.trapMessage cause tval pc) := .ite (.post h) <| .postSup h
theorem Canon.enterTrapWait {s : State} (h : Canon s) : Canon s.enterTrapWait := .modCur h
theorem Canon.goOn {s : State} (h : Canon s) : Canon s.goOn := .modCur h

theorem Canon.trap {s : State} {code sub tval pc : ℕ} (h : Canon s) : Canon (s.trap code sub tval pc) := by
  unfold State.trap
  split
  · exact .discardShadow h
  · exact .trapMessage <| .enterTrapWait <| .setPc <| .setWs <| .setWs h

theorem Canon.trapWsp {s : State} (h : Canon s) : Canon s.trapWsp := .trapMessage <| .modCur <| .enterTrapWait h
theorem Canon.trapHere {s : State} {code sub tval : ℕ} (h : Canon s) : Canon (s.trapHere code sub tval) := .trap h
theorem Canon.trapFree {s : State} {code sub : ℕ} (h : Canon s) : Canon (s.trapFree code sub) := .trapHere <| .draw h
theorem Canon.resume {s : State} {id : ℕ} (h : Canon s) : Canon (s.resume id) := .onAct h <| fun h2 => .modCur <| .goOn h2
theorem Canon.trapPriv {s : State} {w : ℕ} (h : Canon s) : Canon (s.trapPriv w) := .trapHere h
theorem Canon.trapIop {s : State} {w : ℕ} (h : Canon s) : Canon (s.trapIop w) := .trapHere h
theorem Canon.yieldPoint {s : State} (h : Canon s) : Canon s.yieldPoint := .modCur h
theorem Canon.block {s : State} {w : Wait} (h : Canon s) : Canon (s.block w) := .modCur <| .yieldPoint h

/-! ### Order -/

theorem Canon.mapRace {s : State} {f : Past → Past} (h : Canon s) : Canon (s.mapRace f) := .setRace h
theorem Canon.mapUpd {s : State} {f : UpdWrite → UpdWrite} (h : Canon s) : Canon (s.mapUpd f) := .modCoh h
theorem Canon.movePoint {s : State} {x y : ℕ} (h : Canon s) : Canon (s.movePoint x y) := .mapUpd <| .mapRace h
theorem Canon.clearPoint {s : State} {x : ℕ} (h : Canon s) : Canon (s.clearPoint x) := .mapUpd <| .mapRace h
theorem Canon.observe {s : State} {xs : List (ℕ × ℕ)} (h : Canon s) : Canon (s.observe xs) := .mapRace h
theorem Canon.cutPoint {s : State} {w : Who} {x : ℕ} {rmw : Bool} (h : Canon s) : Canon (s.cutPoint w x rmw) := .mapUpd <| .mapRace h
theorem Canon.ownCmds {s : State} {p : ℕ → ℕ → Bool} (h : Canon s) : Canon (s.ownCmds p) := .mapUpd h
theorem Canon.l1Clear {s : State} {ck : ℕ} (h : Canon s) : Canon (s.l1Clear ck) := .modCore h
theorem Canon.releaseTo {s : State} {x sc : ℕ} (h : Canon s) : Canon (s.releaseTo x sc) := .mapUpd <| .mapRace h
theorem Canon.releaseCmd {s : State} {ck kind n x sc : ℕ} (h : Canon s) : Canon (s.releaseCmd ck kind n x sc) := .mapUpd <| .mapRace h
theorem Canon.releaseLaunch {s : State} {l : ℕ × ℕ} {x : ℕ} (h : Canon s) : Canon (s.releaseLaunch l x) := .mapUpd <| .mapRace h

theorem Canon.syncAt {s : State} {xs : List (ℕ × ℕ)} {sc : ℕ} (h : Canon s) : Canon (s.syncAt xs sc) := by
  unfold State.syncAt
  extract_lets +onlyGivenNames _ _ _ _ _ _ v2
  have h2 : Canon v2 := .modCoh <| .modCur <| .mapRace <| .observe h
  exact .ite h2 <| .l1Clear h2

theorem Canon.syncAct {s : State} {id : ℕ} {xs : List (ℕ × ℕ)} (h : Canon s) : Canon (s.syncAct id xs) := .onAct h <| fun h2 => .syncAt h2
theorem Canon.syncDev {s : State} {die : ℕ} {xs : List (ℕ × ℕ)} (h : Canon s) : Canon (s.syncDev die xs) := .modCoh h

theorem Canon.syncWord {s : State} {x sc : ℕ} (h : Canon s) : Canon (s.syncWord x sc) := by
  unfold State.syncWord
  dsimp only
  split
  · exact .ite (.syncAt h) <| .syncAt h
  · exact .syncAt h

theorem Canon.takeCmds {s : State} {q : ℕ → ℕ → Bool} (h : Canon s) : Canon (s.takeCmds q) := .modCur <| .ownCmds <| .mapRace h

theorem Canon.fenceOrder {s : State} {sc pred succ : ℕ} (h : Canon s) : Canon (s.fenceOrder sc pred succ) := by
  unfold State.fenceOrder
  extract_lets +onlyGivenNames _ _ _ _ _ _ _ _ _ v2
  have h2 : Canon v2 := .ite (.modCur h) h
  extract_lets +onlyGivenNames v3
  have h3 : Canon v3 := .ite (.mapUpd <| .mapRace h2) h2
  extract_lets +onlyGivenNames v4
  have h4 : Canon v4 := .ite (.modCur <| .mapRace h3) h3
  extract_lets +onlyGivenNames v5
  have h5 : Canon v5 := .ite (.modCur h4) h4
  extract_lets +onlyGivenNames v6
  have h6 : Canon v6 := .ite (.modCur h5) h5
  exact .ite h6 <| .ite (.l1Clear <| .takeCmds h6) <| .takeCmds h6

theorem Canon.tlAcquire {s : State} {kind n : ℕ} (h : Canon s) : Canon (s.tlAcquire kind n) := .l1Clear <| .takeCmds h

/-! ### Coherence -/

theorem Canon.fill {s : State} {die line : ℕ} {write : Bool} (h : Canon s) : Canon (s.fill die line write) := by
  unfold State.fill
  split
  · exact h
  · exact .ite (.wrN <| .modCoh h) <| .modCoh h

theorem Canon.setCopy {s : State} {die line : ℕ} {c : Copy} (h : Canon s) : Canon (s.setCopy die line c) := .modCoh h
theorem Canon.sendCoh {s : State} {m : CohMsg} (h : Canon s) : Canon (s.sendCoh m) := .modCoh h

theorem Canon.present {s : State} {die ev : ℕ} {c : Copy} {m : CohMsg} (h : Canon s) : Canon (s.present die ev c m) := by
  unfold State.present
  extract_lets +onlyGivenNames _ _ _ _ _ _ _ v2
  have h2 : Canon v2 := .ite (.modCoh <| .setCopy h) <| .setCopy h
  exact .modCoh <| .ite (.fill h2) h2

theorem Canon.localAccess {s : State} {m : CohMsg} (h : Canon s) : Canon (s.localAccess m) := by
  unfold State.localAccess
  split
  · exact .ite (.ite (.setCopy h) <| .present h) <| .modCoh h
  · exact .present h

theorem Canon.again {s : State} {die line : ℕ} (h : Canon s) : Canon (s.again die line) := by
  unfold State.again
  split
  · exact h
  · exact .foldl (fun h3 => .localAccess h3) <| .setCopy h

/-! ### Access -/

theorem Canon.makeWay {s : State} {line : ℕ} (h : Canon s) : Canon (s.makeWay line) := by
  unfold State.makeWay
  split
  · exact h
  · exact .ite h <| .modCoh h

theorem Canon.cohAccess {s : State} {w : Who} {loc : Loc} {acc : ℕ} {bytes : List (ℕ × ℕ)} (h : Canon s) :
    Canon (s.cohAccess w loc acc bytes) := by
  unfold State.cohAccess
  refine .ite h ?_
  extract_lets +onlyGivenNames _ _ v2
  have h2 : Canon v2 := .ite (.modCoh h) h
  exact .ite (.sendCoh h2) <| .ite (.sendCoh h2) <| .localAccess h2

theorem Canon.askLine {s : State} {m : CohMsg} (h : Canon s) : Canon (s.askLine m) := .ite (.makeWay h) <| .localAccess h
theorem Canon.tlbPut {s : State} {k e : ℕ} (h : Canon s) : Canon (s.tlbPut k e) := .ite h <| .ite (.modCoh h) <| .modCoh <| .draw h

theorem Canon.walkGo : ∀ {s : State} {die c va : ℕ} {fresh : Bool} {need n k : ℕ}, Canon s → Canon (State.walkGo s die c va fresh need n k).2
  | _, _, _, _, _, _, 0, _, h => h
  | _, _, _, _, _, _, _ + 1, _, h => by
    rw [State.walkGo]
    exact .ite_snd h <| .ite_snd h <| .ite_snd (.ite_snd h <| .draw h) <| .ite_snd (.ite_snd h <| .draw h) <| .ite_snd (.ite (.ite_snd h <|
        .draw h) <| .tlbPut <| .ite_snd h <| .draw h) <| .walkGo <| .ite (.ite_snd h <| .draw h) <| .tlbPut <| .ite_snd h <| .draw h

theorem Canon.touchLeaf {s : State} {w : Who} {va acc : ℕ} {f : Leaf} (h : Canon s) : Canon (s.touchLeaf w va acc f).2 := by
  refine .ite_snd h <| .ite_snd (.tlbPut <| .hwWrite h) ?_
  split
  · next he2 => exact .of_snd he2 (.walkGo h)
  · next he2 => exact .ite_snd (.tlbPut <| .hwWrite <| .of_snd he2 (.walkGo h)) <| .of_snd he2 (.walkGo h)

theorem Canon.fitPages {s : State} {io : ℕ} (h : Canon s) : Canon (s.fitPages io) := .ite h <| .modCoh <| .zeroed <| .draw h
theorem Canon.notePage {s : State} {desc c va : ℕ} (h : Canon s) : Canon (s.notePage desc c va) := .ite h <| .modCoh h

theorem Maybe.decompress {s : State} {desc io : ℕ} (h : Canon s) : Maybe Canon (s.decompress desc io) := by
  refine .ite (.some h) <| .ite .none ?_
  split
  · exact .none
  · exact .ite .none <| .some <| .modCoh <| .spliced <| .fitPages h

theorem Canon.place {s : State} {w : Who} {va acc : ℕ} {f : Leaf} (h : Canon s) : Canon (s.place w va acc f).2 := by
  refine .ite_snd h <| .ite_snd h <| .ite_snd (.ite_snd h ?_) <| .ite_snd ?_ <| .ite_snd ?_ <| .ite_snd ?_ <| .ite_snd h ?_
  · split
    · exact h
    · split
      · exact h
      · next he3 => exact .notePage <| .of_some_st he3 (.decompress h)
  · split
    · exact h
    · exact h
  · split
    · exact h
    · split
      · exact h
      · exact h
  · split
    · exact h
    · dsimp only
      split
      · exact h
      · refine .ite_snd (.modCoh h) <| .ite_snd (.modCoh h) ?_
        split
        · exact h
        · exact h
  · split
    · exact h
    · split
      · exact h
      · exact h

theorem Canon.translate {s : State} {w : Who} {va size acc : ℕ} (h : Canon s) : Canon (s.translate w va size acc).2 := by
  rw [State.translate]
  split
  · next he2 => exact .of_snd he2 (.walkGo h)
  · next he2 =>
      refine .ite_snd (.of_snd he2 (.walkGo h)) <| .ite_snd (.of_snd he2 (.walkGo h)) ?_
      split
      · next he3 => exact .of_snd he3 (.touchLeaf <| .of_snd he2 (.walkGo h))
      · next he3 =>
          split
          · next he4 => exact .of_snd he4 (.place <| .of_snd he3 (.touchLeaf <| .of_snd he2 (.walkGo h)))
          · next he4 => exact .of_snd he4 (.place <| .of_snd he3 (.touchLeaf <| .of_snd he2 (.walkGo h)))

theorem Canon.physical {s : State} {w : Who} {va size acc : ℕ} (h : Canon s) : Canon (s.physical w va size acc).2 := by
  refine .ite_snd h <| .ite_snd ?_ <| .ite_snd ?_ h
  · split
    · exact h
    · exact h
  · split
    · exact h
    · split
      · exact h
      · exact h
      · exact h

theorem Canon.locate {s : State} {w : Who} {va size acc : ℕ} (h : Canon s) : Canon (s.locate w va size acc).2 :=
  .ite_snd h <| .ite_snd (.physical h) <| .translate h

theorem Canon.l1Fill {s : State} {ck line v : ℕ} (h : Canon s) : Canon (s.l1Fill ck line v) := .ite (.modCore h) <| .modCore <| .draw h

theorem Canon.readWord {w : Who} {key n : ℕ} {r : ℕ × State} {word : ℕ} (h : Canon r.2) : Canon (State.readWord w key n r word).2 := by
  unfold State.readWord
  extract_lets +onlyGivenNames _
  refine .ite_snd h ?_
  extract_lets +onlyGivenNames _ _ v2
  have h2 : Canon v2.2 := by
    unfold v2
    exact .ite_snd h <| .draw h
  extract_lets +onlyGivenNames _ _ _ _ _ _ _ _ v3
  have h3 : Canon v3 := .ite (.observe <| .mapRace h2) <| .mapRace h2
  exact .ite (.modCur h3) h3

theorem Canon.readRace {s : State} {w : Who} {key n v : ℕ} (h : Canon s) : Canon (s.readRace w key n v).2 :=
  .ite_snd h <| .foldl_snd (fun h2 => .readWord h2) h

theorem Canon.writeWord {w : Who} {key n : ℕ} {r : ℕ × State} {word : ℕ} (h : Canon r.2) : Canon (State.writeWord w key n r word).2 :=
  .ite_snd h <| .draw h

theorem Canon.writeRace {s : State} {w : Who} {key n v : ℕ} (h : Canon s) : Canon (s.writeRace w key n v).2 :=
  .ite_snd h <| .foldl_snd (fun h2 => .writeWord h2) h

theorem Canon.keepPast {s : State} {w : Who} {mca rmw : Bool} {key n : ℕ} (h : Canon s) : Canon (s.keepPast w mca rmw key n) :=
  .ite h <| .setRace <| .foldl (fun h2 => .cutPoint h2) h

theorem Canon.readLine {s : State} {w : Who} {loc : Loc} {n : ℕ} (h : Canon s) : Canon (s.readLine w loc n).2 := by
  unfold State.readLine
  dsimp only
  split
  · exact .ite_snd (.readRace h) <| .ite h <| .modQueue <| .makeWay h
  · refine .ite_snd (.readRace h) ?_
    split
    · exact .ite_snd (.readRace h) <| .ite_snd (.flip h) <| .readRace <| .l1Fill <| .flip h
    · exact .readRace <| .l1Fill h

theorem Canon.noteRemote {s : State} {w : Who} {loc : Loc} (h : Canon s) : Canon (s.noteRemote w loc) := by
  unfold State.noteRemote
  split
  · exact .modCur h
  · exact h

theorem Canon.readWins {s : State} {w : Who} {loc : Loc} {n v : ℕ} (h : Canon s) : Canon (s.readWins w loc n v).2 :=
  .ite_snd h <| .foldl_snd (fun h2 => .foldl_snd (fun h3 => .foldl_snd (fun h4 => .ite_snd h4 <| .flip h4) h3) h2) h

theorem Canon.readAt {s : State} {w : Who} {loc : Loc} {n : ℕ} (h : Canon s) : Canon (s.readAt w loc n).2 := by
  unfold State.readAt
  extract_lets +onlyGivenNames _ _ v2
  have h2 : Canon v2.2 := by
    unfold v2
    exact .ite_snd (.draw <| .readLine h) <| .readLine h
  extract_lets +onlyGivenNames v3
  have h3 : Canon v3.2 := by
    unfold v3
    exact .ite_snd (.readWins h2) h2
  exact .ite h3 <| .cohAccess <| .noteRemote h3

theorem Canon.catchUp {s : State} {w : Who} {loc : Loc} {n : ℕ} (h : Canon s) : Canon (s.catchUp w loc n) := by
  unfold State.catchUp
  extract_lets +onlyGivenNames _ _ _ _ _ _ v2
  have h2 : Canon v2 := .mapRace <| .ite (.modCoh h) h
  extract_lets +onlyGivenNames _ v3
  have h3 : Canon v3 := .ite (.modCur <| .observe h2) <| .observe h2
  exact .ite (.modCore h3) h3

theorem Canon.readHinted {s : State} {w : Who} {loc : Loc} {n : ℕ} (h : Canon s) : Canon (s.readHinted w loc n).2 := by
  unfold State.readHinted
  refine .ite_snd (.readAt h) ?_
  extract_lets +onlyGivenNames _ _ _ _ v2
  have h2 : Canon v2 := .ite h <| .fill h
  exact .ite_snd (.modCoh h2) <| .draw <| .modCoh h2

theorem Canon.tcmStore : ∀ {s : State} {die cluster core off n k : ℕ}, Canon s → Canon (State.tcmStore s die cluster core off n k)
  | _, _, _, _, _, 0, _, h => h
  | _, _, _, _, _, _ + 1, _, h => by
    unfold State.tcmStore
    exact .tcmStore <| .ite h <| .wrN h

theorem Canon.disturb {s : State} {w : Who} {key n : ℕ} (h : Canon s) : Canon (s.disturb w key n) := .disturbKey h

theorem Canon.disturbLocal {s : State} {w : Who} {die cluster : ℕ} {core : Option ℕ} (h : Canon s) :
    Canon (s.disturbLocal w die cluster core) := by
  refine .ite h ?_
  dsimp only
  split
  · split
    · exact .discardShadow h
    · exact h
  · exact h

theorem Canon.devLoc {s : State} {c die va size acc : ℕ} (h : Canon s) : Canon (s.devLoc c die va size acc).2 := by
  refine .ite_snd h ?_
  split
  · next he2 => exact .of_snd he2 (.translate h)
  · next he2 => exact .of_snd he2 (.translate h)

theorem Canon.writeImage : ∀ {s : State} {c die va n : ℕ}, Canon s → Canon (State.writeImage s c die va n)
  | _, _, _, _, 0, h => h
  | _, _, _, _, _ + 1, h => by
    unfold State.writeImage
    dsimp only
    split
    · next he1 => exact .of_snd he1 (.devLoc h)
    · next he1 => exact .writeImage <| .hwWrite <| .draw <| .of_snd he1 (.devLoc h)

theorem Canon.spill {s : State} {c die off need : ℕ} (h : Canon s) : Canon (s.spill c die off need) :=
  .ite h <| .ite (.freeze h) <| .writeImage h

theorem Maybe.record {s : State} {w : Who} {loc : Loc} {isWrite : Bool} (h : Canon s) : Maybe Canon (s.record w loc isWrite) := by
  unfold State.record
  split
  · exact .some h
  · exact .ite (.some h) <| .ite .none <| .some <| .ite (.spill <| .modCtx h) <| .modCtx h

theorem Canon.growReplicas {s : State} {line : ℕ} (h : Canon s) : Canon (s.growReplicas line) := .modCoh h

theorem Gives.shadowStore {s : State} {w : Who} {q : ℕ} {loc : Loc} {n v : ℕ} (h : Canon s) : Gives Canon (s.shadowStore w q loc n v) :=
  .ite .error <| .ok <| .modQueue h

theorem Canon.keepCode {s : State} {key n : ℕ} {old : ℕ → ℕ} (h : Canon s) : Canon (s.keepCode key n old) := .foldl (fun h2 => .modCoh h2) h
theorem Canon.markForeign {s : State} {w : Who} {loc : Loc} (h : Canon s) : Canon (s.markForeign w loc) := .ite h <| .setCtxs h

theorem Gives.writeComp {s : State} {w : Who} {loc : Loc} {n v acc : ℕ} (h : Canon s) : Gives Canon (s.writeComp w loc n v acc) :=
  .ite .error <| .ok <| .cohAccess <| .disturb <| .markForeign <| .keepCode <| .wrN <| .wrN <| .foldl (fun h2 => .spliced h2) <| .wrN h

theorem Canon.keepUpd {s : State} {w : Who} {loc : Loc} {n v : ℕ} (h : Canon s) : Canon (s.keepUpd w loc n v) := .modCoh h

theorem Canon.patchOwn {s : State} {w : Who} {loc : Loc} {n v : ℕ} (h : Canon s) : Canon (s.patchOwn w loc n v) := by
  unfold State.patchOwn
  extract_lets +onlyGivenNames _ _ v2
  have h2 : Canon v2 := by
    unfold v2
    split
    · exact .modCoh h
    · exact h
  split
  · exact .modCore h2
  · exact h2

theorem Canon.postLink {s : State} {w : Who} {loc : Loc} {n v old : ℕ} (h : Canon s) : Canon (s.postLink w loc n v old) :=
  .ite h <| .ite (.modCur <| .modLink h) <| .mapActs <| .modLink h

theorem Maybe.devPut {s : State} {w : Who} {loc : Loc} {off n v : ℕ} (h : Canon s) : Maybe Canon (s.devPut w loc off n v) := by
  refine .ite ?_ <| .some <| .hwWrite h
  split
  · next he2 => exact .some <| .of_ok_st he2 (.writeComp h)
  · exact .none

theorem Canon.devKeep {s : State} {w : Who} {loc : Loc} {off n v : ℕ} (h : Canon s) : Canon (s.devKeep w loc off n v) := .getD (.devPut h) h

theorem Canon.traceOne {s : State} {w : Who} {die cluster core off size kind : ℕ} (h : Canon s) :
    Canon (s.traceOne w die cluster core off size kind) := by
  refine .ite (.modCore h) ?_
  split
  · next he2 => exact .of_snd he2 (.devLoc <| .modCore h)
  · next he2 =>
      refine .ite (.of_snd he2 (.devLoc <| .modCore h)) <| .ite (.devKeep <| .of_snd he2 (.devLoc <| .modCore h)) <| .ite (.devKeep <|
          .of_snd he2 (.devLoc <| .modCore h)) ?_
      split
      · next he3 => exact .of_snd he3 (.devLoc <| .of_snd he2 (.devLoc <| .modCore h))
      · next he3 =>
          exact .getD (.bind (fun h4 => .devPut h4) <| .devPut <| .of_snd he3 (.devLoc <| .of_snd he2 (.devLoc <| .modCore h))) <|
              .of_snd he3 (.devLoc <| .of_snd he2 (.devLoc <| .modCore h))

theorem Canon.traceGo : ∀ {w : Who} {die cluster core kind n k j : ℕ} {s : State}, Canon s →
    Canon (State.traceGo w die cluster core kind n k j s)
  | _, _, _, _, _, 0, _, _, _, h => h
  | _, _, _, _, _, _ + 1, _, _, _, h => by
    unfold State.traceGo
    exact .ite h <| .traceGo <| .traceOne h

theorem Canon.trace {s : State} {w : Who} {die cluster core off size kind : ℕ} (h : Canon s) :
    Canon (s.trace w die cluster core off size kind) :=
  .traceGo h

theorem Canon.writeLine {s : State} {w : Who} {loc : Loc} {n v acc : ℕ} (h : Canon s) : Canon (s.writeLine w loc n v acc) := by
  unfold State.writeLine
  extract_lets +onlyGivenNames _ _ _ _ v2
  have h2 : Canon v2 := .patchOwn <| .keepCode <| .wrN <| .ite (.keepUpd h) h
  extract_lets +onlyGivenNames v3
  have h3 : Canon v3 := .ite (.growReplicas h2) h2
  extract_lets +onlyGivenNames v4
  have h4 : Canon v4 := .ite (.modCoh h3) h3
  exact .cohAccess <| .disturb <| .markForeign <| .ite h4 <| .postLink h4

theorem Canon.writeLocal {s : State} {w : Who} {loc : Loc} {n v acc : ℕ} (h : Canon s) : Canon (s.writeLocal w loc n v acc) := by
  unfold State.writeLocal
  extract_lets +onlyGivenNames _ _ _
  refine .ite ?_ ?_
  · extract_lets +onlyGivenNames _ v2
    have h2 : Canon v2 := .disturb <| .tcmStore h
    extract_lets +onlyGivenNames v3
    have h3 : Canon v3 := .ite (.modCore h2) <| .trace h2
    exact .ite (.disturbLocal h3) h3
  · extract_lets +onlyGivenNames v2
    have h2 : Canon v2 := .disturb <| .wrN h
    exact .ite (.disturbLocal h2) h2

theorem Gives.writeAt {s : State} {w : Who} {loc : Loc} {n v acc : ℕ} (h : Canon s) : Gives Canon (s.writeAt w loc n v acc) := by
  unfold State.writeAt
  extract_lets +onlyGivenNames _ v2
  have h2 : Canon v2 := .keepPast <| .writeRace h
  refine .ite (.ok <| .writeLocal h2) ?_
  split
  · exact .shadowStore h
  · exact .ite (.writeComp h2) <| .ok <| .writeLine h2

theorem Canon.ringPut {s : State} {c : ℕ} {rec : List ℕ} (h : Canon s) : Canon (s.ringPut c rec) := by
  unfold State.ringPut
  dsimp only
  split
  · next he2 => exact .modCtx <| .of_snd he2 (.devLoc h)
  · next he2 =>
      refine .ite (.devKeep <| .modCtx <| .of_snd he2 (.devLoc h)) ?_
      split
      · next he3 => exact .devKeep <| .modCtx <| .of_snd he3 (.devLoc <| .of_snd he2 (.devLoc h))
      · next he3 =>
          split
          · exact .devKeep <| .modCtx <| .of_snd he3 (.devLoc <| .of_snd he2 (.devLoc h))
          · next he4 =>
              exact .ite (.notice <| .of_some_st he4 (.bind (fun h4 => .devPut h4) <| .devPut <| .of_snd he3 (.devLoc <|
                  .of_snd he2 (.devLoc h)))) <| .of_some_st he4 (.bind (fun h4 => .devPut h4) <| .devPut <| .of_snd he3 (.devLoc <|
                  .of_snd he2 (.devLoc h)))

theorem Canon.faultRecord {s : State} {c : ℕ} {rec : List ℕ} (h : Canon s) : Canon (s.faultRecord c rec) := by
  refine .ite (.ringPut h) ?_
  dsimp only
  split
  · next he2 => exact .of_snd he2 (.devLoc <| .modCtx h)
  · next he2 => exact .devKeep <| .of_snd he2 (.devLoc <| .modCtx h)

theorem Canon.faultRecords : ∀ {s : State} {w : Who} {src grp acc : ℕ} {l : List (ℕ × ℕ × ℕ)} {ms : List ℕ}, Canon s →
    Canon (State.faultRecords s w src grp acc l ms)
  | _, _, _, _, _, [], _, h => h
  | _, _, _, _, _, (_, (_, _)) :: _, _, h => by
    unfold State.faultRecords
    exact .ite (.faultRecords h) <| .faultRecords <| .faultRecord h

theorem Canon.openGroup {s : State} {c : ℕ} (h : Canon s) : Canon (s.openGroup c).2 := .modCtx h

theorem Canon.faultWait {s : State} {w : Who} {acc : ℕ} {fs : List (ℕ × ℕ × ℕ)} (h : Canon s) : Canon (s.faultWait w acc fs) :=
  .modCur <| .yieldPoint <| .modCtx <| .faultRecords <| .openGroup h

theorem Canon.dataErr {s : State} {len sub addr : ℕ} (h : Canon s) : Canon (s.dataErr len sub addr) := by
  unfold State.dataErr
  split
  · exact .discardShadow h
  · exact .freeze <| .log <| .trap <| .modCur h

theorem CanonRes.failAcc {α : Type} {s : State} {w : Who} {len acc : ℕ} {e : AErr} (h : Canon s) :
    CanonRes (s.failAcc w len acc e : Res α) := by
  unfold State.failAcc
  split
  · exact .stop <| .trapHere h
  · split
    · exact .stop <| .discardShadow h
    · exact .ite (.stop h) <| .stop <| .faultWait h
  · exact .stop <| .dataErr h
  · exact .stop h
  · exact .stop <| .askLine h
  · refine .stop ?_
    split
    · exact .discardShadow h
    · exact h
  · exact .fault
  · exact .stop <| .log <| .modCore h

theorem Gives.checkE {s : State} {w : Who} {base : ℕ} {off : ℤ} {size align acc : ℕ} (h : Canon s) : Gives (fun x => Canon x.2)
    (s.checkE w base off size align acc) := by
  unfold State.checkE
  split
  · exact .error
  · refine .ite .error <| .ite .error ?_
    split
    · exact .error
    · next he3 =>
        refine .ite .error <| .ite .error ?_
        split
        · exact .error
        · next he4 => exact .ok <| .of_some_st he4 (.record <| .of_snd he3 (.locate h))

theorem CanonRes.check {s : State} {len base : ℕ} {off : ℤ} {size align acc : ℕ} (h : Canon s) :
    CanonRes (s.check len base off size align acc) := by
  unfold State.check
  split
  · exact .failAcc h
  · next he2 => exact .ok <| .of_ok he2 (.checkE h)

theorem CanonRes.load {s : State} {len base : ℕ} {off : ℤ} {size align : ℕ} (h : Canon s) : CanonRes (s.load len base off size align) :=
  .bind (.check h) <| fun h2 => .ok <| .readAt h2

theorem CanonRes.commit {s : State} {len : ℕ} {loc : Loc} {size v acc fl : ℕ} (h : Canon s) : CanonRes (s.commit len loc size v acc fl) := by
  unfold State.commit
  split
  · exact .failAcc h
  · next he2 => exact .ok <| .of_ok_st he2 (.writeAt <| .orFlags <| .retire h)

theorem CanonRes.store {s : State} {len base : ℕ} {off : ℤ} {size align v fl : ℕ} (h : Canon s) :
    CanonRes (s.store len base off size align v fl) :=
  .bind (.check h) <| fun h2 => .commit h2

theorem Canon.ackPosted {s : State} {p : Posted → Bool} (h : Canon s) : Canon (s.ackPosted p).2 := .mapAway <| .mapActs <| .setLinks h

theorem CanonOut.settle {s : State} {scope : ℕ} {k : State → Out} (h : Canon s) (hk : ∀ {x0}, Canon x0 → CanonOut (k x0)) :
    CanonOut (s.settle scope k) :=
  .ite (hk h) <| .ite (.next h) <| .ite (.next <| .trapHere <| .modCur h) <| hk <| .modCur <| .setLinks h

theorem Canon.openWin {s : State} {la : ℕ} {ds : List ℕ} (h : Canon s) : Canon (s.openWin la ds) := .ite h <| .modCur <| .modSched h
theorem Canon.openWinV {s : State} {la : ℕ} {vs : List ℕ} (h : Canon s) : Canon (s.openWinV la vs) := .ite h <| .modCur <| .modSched h
theorem Canon.setRegLa {s : State} {la d v t : ℕ} (h : Canon s) : Canon (s.setRegLa la d v t) := .setReg <| .openWin h

end Sys2Proof.Machine
end

section
/-!
SUPPORT. Scalar, floating-point and vector instructions, the memory engines and the barriers (05, 07, 08, 13): each function keeps memory
canonical.
-/

namespace Sys2Proof.Machine

/-! ### Operands -/

theorem CanonOut.put {s : State} {n d v t : ℕ} (h : Canon s) : CanonOut (s.put n d v t) := .next <| .setReg <| .retire h
theorem CanonOut.putLa {s : State} {la d v t : ℕ} (h : Canon s) : CanonOut (s.putLa la d v t) := .next <| .setRegLa <| .retire h

/-! ### Flags -/

theorem CanonOut.putFp {s : State} {d : ℕ} {i : Image} {fl : ℕ} (h : Canon s) : CanonOut (s.putFp d i fl) :=
  .next <| .setReg <| .orFlags <| .retire h

theorem CanonOut.putFpLa {s : State} {la d : ℕ} {i : Image} {fl : ℕ} (h : Canon s) : CanonOut (s.putFpLa la d i fl) :=
  .next <| .setRegLa <| .orFlags <| .retire h

/-! ### Atomics -/

theorem Canon.semAt {s : State} {word sem sc : ℕ} (h : Canon s) : Canon (s.semAt word sem sc) := by
  unfold State.semAt
  extract_lets +onlyGivenNames v2
  have h2 : Canon v2 := .ite (.releaseTo h) h
  extract_lets +onlyGivenNames v3
  have h3 : Canon v3 := .ite (.syncWord h2) h2
  exact .ite (.fenceOrder h3) h3

theorem Canon.impure {s : State} (h : Canon s) : Canon s.impure := by
  unfold State.impure
  split
  · exact .discardShadow h
  · exact h

theorem CanonOut.atomic {s : State} {a b wd sem sc la : ℕ} {fl : Bool} {ext : ℕ → ℕ} {f : ℕ → ℕ × ℕ} (h : Canon s) :
    CanonOut (s.atomic a b wd sem sc la fl ext f) := by
  refine .ite (.next <| .impure h) <| .ite (.next <| .trapHere h) <| .ite (.next <| .trapHere h) ?_
  split
  · exact .fault
  · next he2 => exact .next <| .of_stop he2 (.check h)
  · exact .settle h <| fun h3 => .done (.bind (.check h3) <| fun h4 => .bind (.commit <| .catchUp <| .ite_snd (.readLine h4) h4) <|
      fun h5 => .ok <| .semAt h5) <| fun h4 => .setRegLa h4

theorem CanonOut.amo {s : State} {a b wd sem sc la : ℕ} {g : ℕ → ℕ → ℕ → ℕ} (h : Canon s) : CanonOut (s.amo a b wd sem sc la g) := by
  unfold State.amo
  exact .atomic h

theorem CanonOut.execAmoswap {a b wd sem sc la : ℕ} {s : State} (h : Canon s) : CanonOut (execAmoswap a b wd sem sc la s) := .amo h
theorem CanonOut.execAmoadd {a b wd sem sc la : ℕ} {s : State} (h : Canon s) : CanonOut (execAmoadd a b wd sem sc la s) := .amo h
theorem CanonOut.execAmoand {a b wd sem sc la : ℕ} {s : State} (h : Canon s) : CanonOut (execAmoand a b wd sem sc la s) := .amo h
theorem CanonOut.execAmoor {a b wd sem sc la : ℕ} {s : State} (h : Canon s) : CanonOut (execAmoor a b wd sem sc la s) := .amo h
theorem CanonOut.execAmoxor {a b wd sem sc la : ℕ} {s : State} (h : Canon s) : CanonOut (execAmoxor a b wd sem sc la s) := .amo h
theorem CanonOut.execAmomin {a b wd sem sc la : ℕ} {s : State} (h : Canon s) : CanonOut (execAmomin a b wd sem sc la s) := .amo h
theorem CanonOut.execAmomax {a b wd sem sc la : ℕ} {s : State} (h : Canon s) : CanonOut (execAmomax a b wd sem sc la s) := .amo h
theorem CanonOut.execAmominn {a b wd sem sc la : ℕ} {s : State} (h : Canon s) : CanonOut (execAmominn a b wd sem sc la s) := .amo h
theorem CanonOut.execAmomaxn {a b wd sem sc la : ℕ} {s : State} (h : Canon s) : CanonOut (execAmomaxn a b wd sem sc la s) := .amo h
theorem CanonOut.execAmocas {a b wd sem sc la : ℕ} {s : State} (h : Canon s) : CanonOut (execAmocas a b wd sem sc la s) := .amo h

theorem CanonOut.amof {s : State} {a b wd sem sc la : ℕ} {g : Val → Val → Val × ℕ} (h : Canon s) : CanonOut (s.amof a b wd sem sc la g) := by
  unfold State.amof
  exact .atomic h

theorem CanonOut.execAmfadd {a b wd sem sc la : ℕ} {s : State} (h : Canon s) : CanonOut (execAmfadd a b wd sem sc la s) := .amof h
theorem CanonOut.execAmfmin {a b wd sem sc la : ℕ} {s : State} (h : Canon s) : CanonOut (execAmfmin a b wd sem sc la s) := .amof h
theorem CanonOut.execAmfmax {a b wd sem sc la : ℕ} {s : State} (h : Canon s) : CanonOut (execAmfmax a b wd sem sc la s) := .amof h

theorem CanonOut.contribute {s : State} {a wd kind bits_ tail_ : ℕ} (h : Canon s) : CanonOut (s.contribute a wd kind bits_ tail_) := by
  refine .ite (.next <| .impure h) <| .ite (.next <| .trapHere h) <| .ite (.next <| .trapHere h) ?_
  split
  · next he2 => exact .done (.failAcc <| .of_snd he2 (.locate h)) <| fun h3 => h3
  · next he2 =>
      exact .ite (.next <| .trapHere <| .of_snd he2 (.locate h)) <| .next <| .retire <| .cohAccess <| .spill <| .modCtx <| .modCoh <|
          .of_snd he2 (.locate h)

theorem CanonOut.execRadd {a b wd la : ℕ} {s : State} (h : Canon s) : CanonOut (execRadd a b wd la s) := .contribute h
theorem CanonOut.execRaddi {a b wd la : ℕ} {s : State} (h : Canon s) : CanonOut (execRaddi a b wd la s) := .contribute h

theorem Canon.applyContrib {s : State} {ctx : ℕ} {c : Contrib} (h : Canon s) : Canon (s.applyContrib ctx c).2 := by
  unfold State.applyContrib
  dsimp only
  split
  · next he2 => exact .of_ok_st he2 (.writeAt h)
  · exact h

theorem Canon.flushContribs {s : State} {c : ℕ} {p : Contrib → Bool} (h : Canon s) : Canon (s.flushContribs c p).2 :=
  .foldl_snd (fun h2 => .applyContrib h2) <| .modCtx h

theorem CanonOut.execRflush {a sc la : ℕ} {s : State} (h : Canon s) : CanonOut (execRflush a sc la s) :=
  .ite (.next <| .impure h) <| .ite (.next <| .trapHere h) <| .settle h <| fun h2 => .next <| .orFlags <| .retire <| .flushContribs h2

theorem CanonOut.execLdres {a b wd sem sc la : ℕ} {s : State} (h : Canon s) : CanonOut (execLdres a b wd sem sc la s) := by
  unfold Machine.execLdres
  extract_lets +onlyGivenNames _ _
  refine .ite (.next <| .impure h) <| .ite (.next <| .trapHere h) <| .done (.bind (.check h) <| fun h2 => ?_) <| fun h2 => .setRegLa <|
      .retire h2
  extract_lets +onlyGivenNames v3
  have h3 : Canon v3.2 := by
    unfold v3
    exact .ite_snd (.readLine h2) <| .cohAccess <| .catchUp h2
  exact .ok <| .ite (.syncWord <| .modCur h3) <| .modCur h3

theorem CanonOut.execStcond {a b wd sem sc la : ℕ} {s : State} (h : Canon s) : CanonOut (execStcond a b wd sem sc la s) := by
  unfold Machine.execStcond
  extract_lets +onlyGivenNames _ _
  refine .ite (.next <| .impure h) <| .ite (.next <| .trapHere h) ?_
  split
  · exact .fault
  · next he2 => exact .next <| .of_stop he2 (.check h)
  · refine .settle h <| fun h3 => .done (.bind (.check h3) <| fun h4 => ?_) <| fun h4 => .setRegLa h4
    extract_lets +onlyGivenNames _ _
    refine .ite ?_ ?_
    · split
      · next he5 => exact .ok <| .ite (.releaseTo <| .of_res he5 (.commit <| .modCur h4)) <| .of_res he5 (.commit <| .modCur h4)
      · next he5 => exact .stop <| .of_stop he5 (.commit <| .modCur h4)
      · exact .fault
    · extract_lets +onlyGivenNames v5
      have h5 : Canon v5 := .retire <| .modCur h4
      exact .ok <| .ite (.fenceOrder h5) h5

theorem CanonOut.execTrread {d a : ℕ} {s : State} (h : Canon s) : CanonOut (execTrread d a s) := by
  unfold Machine.execTrread
  split
  · next he2 => exact .done (.failAcc <| .of_snd he2 (.locate h)) <| fun h3 => h3
  · next he2 => exact .put <| .of_snd he2 (.locate h)

/-! ### Fence -/

theorem CanonOut.execFence {sc pred succ : ℕ} {s : State} (h : Canon s) : CanonOut (execFence sc pred succ s) := by
  unfold Machine.execFence
  extract_lets +onlyGivenNames _ _
  refine .ite (.next h) <| .settle h <| fun h2 => ?_
  extract_lets +onlyGivenNames v3
  have h3 : Canon v3 := .fenceOrder <| .modCur <| .retire h2
  exact .next <| .ite (.l1Clear h3) h3

theorem Canon.raiseLate {s : State} {e : Late} (h : Canon s) : Canon (s.raiseLate e) := .trapHere <| .modCur h

theorem CanonOut.unlessClause {s : State} {k : Out} (h : Canon s) (h1 : CanonOut k) : CanonOut (s.unlessClause k) :=
  .ite (.next <| .trapHere h) h1

theorem CanonOut.execTlwait {a kind : ℕ} {s : State} (h : Canon s) : CanonOut (execTlwait a kind s) := by
  refine .unlessClause h <| .ite (.next <| .trapHere h) ?_
  split
  · exact .next <| .raiseLate h
  · exact .ite (.next <| .tlAcquire <| .modCur <| .retire h) <| .next <| .block h

theorem CanonOut.execTltest {d a kind : ℕ} {s : State} (h : Canon s) : CanonOut (execTltest d a kind s) := by
  refine .ite (.next <| .trapHere h) <| .ite ?_ <| .put h
  split
  · exact .next <| .raiseLate h
  · exact .next <| .tlAcquire <| .setReg <| .retire h

theorem CanonOut.execHint {k rest : ℕ} {s : State} (h : Canon s) : CanonOut (execHint k rest s) := .next <| .retire h

/-! ### Memory -/

theorem CanonOut.loadInt {s : State} {len base : ℕ} {off : ℤ} {w : IW} {d la : ℕ} (h : Canon s) : CanonOut (s.loadInt len base off w d la) :=
  .done (.load h) <| fun h2 => .setRegLa <| .retire h2

theorem CanonOut.storeInt {s : State} {len base : ℕ} {off : ℤ} {w : IW} {v : ℕ} (h : Canon s) : CanonOut (s.storeInt len base off w v) :=
  .done (.store h) <| fun h2 => h2

theorem CanonOut.execLd {w : IW} {d a off la : ℕ} {s : State} (h : Canon s) : CanonOut (execLd w d a off la s) := .loadInt h

theorem CanonOut.execLda {w : IW} {d a off sc la : ℕ} {s : State} (h : Canon s) : CanonOut (execLda w d a off sc la s) :=
  .done (.bind (.check h) <| fun h2 => .ok <| .syncWord <| .readAt h2) <| fun h2 => .setRegLa <| .retire h2

theorem CanonOut.execSt {w : IW} {a b off hn : ℕ} {s : State} (h : Canon s) : CanonOut (execSt w a b off hn s) := .storeInt h

theorem CanonOut.execStr {w : IW} {a b off sc : ℕ} {s : State} (h : Canon s) : CanonOut (execStr w a b off sc s) := by
  unfold Machine.execStr
  split
  · exact .fault
  · next he2 => exact .next <| .of_stop he2 (.check h)
  · exact .settle h <| fun h3 => .done (.bind (.check h3) <| fun h4 => .bind (.commit h4) <| fun h5 => .ok h5) <| fun h4 => .releaseTo h4

theorem CanonOut.execCLd {d off : ℕ} {s : State} (h : Canon s) : CanonOut (execCLd d off s) := .loadInt h
theorem CanonOut.execCSt {b off : ℕ} {s : State} (h : Canon s) : CanonOut (execCSt b off s) := .storeInt h

theorem CanonOut.execStf {w : FW} {a b off rm : ℕ} {s : State} (h : Canon s) : CanonOut (execStf w a b off rm s) := by
  unfold Machine.execStf
  split
  · exact .done (.store h) <| fun h2 => h2
  · exact .done (.store h) <| fun h2 => h2

theorem CanonOut.execLdx {w : IW} {d a b la : ℕ} {s : State} (h : Canon s) : CanonOut (execLdx w d a b la s) := .loadInt h
theorem CanonOut.execStx {w : IW} {d a b : ℕ} {s : State} (h : Canon s) : CanonOut (execStx w d a b s) := .storeInt h

theorem CanonOut.execLdxr {w : IW} {d a b la : ℕ} {s : State} (h : Canon s) : CanonOut (execLdxr w d a b la s) :=
  .done (.bind (.check h) <| fun h2 => .ok <| .readHinted h2) <| fun h2 => .setRegLa <| .retire h2

theorem CanonRes.loadBytes : ∀ {s : State} {base : ℕ} {off : ℤ} {n : ℕ}, Canon s → CanonRes (State.loadBytes s base off n)
  | _, _, _, 0, h => .ok h
  | _, _, _, _ + 1, h => by
    unfold State.loadBytes
    exact .bind (.load h) <| fun h1 => .bind (.loadBytes h1) <| fun h2 => .ok h2

theorem CanonRes.loadElem {s : State} {base : ℕ} {bo : ℤ} {wb : ℕ} {mx : Bool} (h : Canon s) : CanonRes (s.loadElem base bo wb mx) :=
  .ite (.load h) <| .bind (.loadBytes h) <| fun h2 => .ok h2

theorem Gives.patchWord {s : State} {w : Who} {loc : Loc} {lo n v : ℕ} (h : Canon s) : Gives Canon (s.patchWord w loc lo n v) :=
  .writeAt <| .ite_snd (.readLine h) h

theorem CanonRes.storeBits {s : State} {base ba wb v fl : ℕ} (h : Canon s) : CanonRes (s.storeBits base ba wb v fl) := by
  refine .bind (.check h) <| fun h2 => .ite ?_ <| .bind (.check h2) <| fun h3 => ?_
  · dsimp only
    split
    · exact .failAcc h2
    · next he3 => exact .ok <| .of_ok_st he3 (.patchWord <| .orFlags <| .retire h2)
  · split
    · exact .failAcc h3
    · next he4 =>
        dsimp only
        split
        · exact .failAcc h3
        · next he5 => exact .ok <| .of_ok_st he5 (.patchWord <| .of_ok_st he4 (.patchWord <| .orFlags <| .retire h3))

theorem CanonRes.storeElem {s : State} {base : ℕ} {bo : ℤ} {wb v fl : ℕ} {mx : Bool} (h : Canon s) :
    CanonRes (s.storeElem base bo wb v fl mx) := by
  refine .ite (.store h) ?_
  split
  · exact .stop <| .trapHere h
  · exact .stop <| .trapHere h
  · exact .ite (.store h) <| .storeBits h

theorem CanonOut.execLde {w d a b la : ℕ} {s : State} (h : Canon s) : CanonOut (execLde w d a b la s) := by
  refine .ite (.next <| .trapIop h) <| .ite (.next <| .trapHere h) <| .ite (.done (.load h) <| fun h2 => .setRegLa <| .retire h2) <|
      .ite (.done (.loadElem h) <| fun h2 => .setRegLa <| .retire h2) <| .done (.bind ?_ <| fun h2 => .bind (.loadElem h2) <|
      fun h3 => .ok h3) <| fun h2 => .setRegLa <| .orFlags <| .retire h2
  split
  · exact .load h
  · exact .ok h

theorem CanonOut.execSte {w d a b : ℕ} {s : State} (h : Canon s) : CanonOut (execSte w d a b s) := by
  refine .ite (.next <| .trapIop h) <| .ite (.next <| .trapHere h) <| .ite (.done (.store h) <| fun h2 => h2) <|
      .ite (.done (.storeElem h) <| fun h2 => h2) <| .done (.bind ?_ <| fun h2 => .storeElem h2) <| fun h2 => h2
  split
  · exact .load h
  · exact .ok h

/-! ### Maps -/

theorem CanonRes.loadWords : ∀ {s : State} {base : ℕ} {off : ℤ} {n : ℕ}, Canon s → CanonRes (State.loadWords s base off n)
  | _, _, _, 0, h => .ok h
  | _, _, _, _ + 1, h => by
    unfold State.loadWords
    exact .bind (.loadBytes h) <| fun h1 => .bind (.loadWords h1) <| fun h2 => .ok h2

theorem Gives.engAt {s : State} {w : Who} {va n acc : ℕ} (h : Canon s) : Gives (fun x => Canon x.2) (s.engAt w va n acc) := by
  refine .ite .error ?_
  split
  · exact .error
  · next he2 =>
      refine .ite .error ?_
      split
      · exact .error
      · next he3 => exact .ok <| .of_some_st he3 (.record <| .of_snd he2 (.locate h))

theorem Gives.engRead : ∀ {s : State} {w : Who} {n k j : ℕ}, Canon s → Gives (fun x => Canon x.2) (State.engRead s w n k j)
  | _, _, 0, _, _, h => .ok h
  | _, _, _ + 1, _, _, h => by
    unfold State.engRead
    refine .ite (.ok h) ?_
    dsimp only
    split
    · exact .error
    · next he1 =>
        split
        · exact .error
        · next he2 => exact .ok <| .of_ok he2 (.engRead <| .readAt <| .of_ok he1 (.engAt h))

theorem Gives.engWrite : ∀ {s : State} {w : Who} {n k j i : ℕ}, Canon s → Gives Canon (State.engWrite s w n k j i)
  | _, _, 0, _, _, _, h => .ok h
  | _, _, _ + 1, _, _, _, h => by
    unfold State.engWrite
    refine .ite (.ok h) ?_
    dsimp only
    split
    · exact .error
    · next he1 =>
        split
        · exact .error
        · next he2 => exact .engWrite <| .of_ok_st he2 (.writeAt <| .of_ok he1 (.engAt h))

theorem Gives.engElem {s : State} {w : Who} {ba wb : ℕ} (h : Canon s) : Gives (fun x => Canon x.2) (s.engElem w ba wb) := by
  unfold State.engElem
  split
  · exact .error
  · next he2 => exact .ok <| .of_ok he2 (.engRead h)

theorem Gives.engPatch {s : State} {w : Who} {ba n v : ℕ} (h : Canon s) : Gives Canon (s.engPatch w ba n v) := by
  unfold State.engPatch
  split
  · exact .error
  · next he2 => exact .patchWord <| .of_ok he2 (.engAt h)

theorem Gives.engPutElem {s : State} {w : Who} {ba wb v : ℕ} (h : Canon s) : Gives Canon (s.engPutElem w ba wb v) := by
  refine .ite (.engWrite h) ?_
  dsimp only
  split
  · exact .error
  · next he2 => exact .ite (.ok <| .of_ok_st he2 (.engPatch h)) <| .engPatch <| .of_ok_st he2 (.engPatch h)

theorem Gives.engMapElem {s : State} {w : Who} {m ix : List ℕ} {l0 lx : ℕ} (h : Canon s) : Gives (fun x => Canon x.2)
    (s.engMapElem w m ix l0 lx) := by
  refine .ite (.ok h) ?_
  split
  · exact .error
  · split
    · exact .error
    · next he3 =>
        refine .ite ?_ <| .ok <| .of_ok he3 (.engElem h)
        split
        · exact .error
        · next he4 => exact .ok <| .of_ok he4 (.engRead <| .of_ok he3 (.engElem h))

/-! ### Engine -/

theorem CanonOut.enqueue {s : State} {kind d : ℕ} {c : Cmd} (h : Canon s) : CanonOut (s.enqueue kind d c) :=
  .next <| .setReg <| .retire <| .modMyCore h

theorem Canon.modCmd {s : State} {ck kind n : ℕ} {f : Cmd → Cmd} (h : Canon s) : Canon (s.modCmd ck kind n f) := .modCore h
theorem Canon.addLate {s : State} {id : ℕ} {e : Late} (h : Canon s) : Canon (s.addLate id e) := .onAct h <| fun h2 => .modCur h2
theorem Canon.flagAct {s : State} {id fl : ℕ} (h : Canon s) : Canon (s.flagAct id fl) := .ite h <| .onAct h <| fun h2 => .ite (.orFlags h2) h2

theorem Canon.endCmd {s : State} {ck kind : ℕ} {c : Cmd} {err : Option (ℕ × ℕ × ℕ)} {done : ℕ} (h : Canon s) :
    Canon (s.endCmd ck kind c err done) := by
  unfold State.endCmd
  extract_lets +onlyGivenNames _ _ u late
  have hu : Canon u := .flagAct <| .modCtx <| .modCore h
  split
  · exact .discardShadow hu
  · extract_lets +onlyGivenNames v
    have hv : Canon v := by
      unfold v
      split
      · exact .shadowAdvance hu
      · exact hu
    refine .ite ?_ <| .post <| .releaseCmd hv
    clear_value late
    split
    · exact .addLate hv
    · exact hv

theorem Canon.cmdAcked {s : State} {ck kind n : ℕ} (h : Canon s) : Canon (s.cmdAcked ck kind n).2 :=
  .ite_snd h <| .ite_snd (.flip h) <| .ackPosted <| .flip h

theorem Canon.fillSlot {s : State} {c : Cmd} {ok : Bool} (h : Canon s) : Canon (s.fillSlot c ok) := by
  unfold State.fillSlot
  refine .ite h ?_
  extract_lets +onlyGivenNames _ _
  split
  · exact h
  · extract_lets +onlyGivenNames _ v3
    have h3 : Canon v3 := .ite (.releaseCmd h) h
    exact .ite (.modWork h3) h3

theorem Canon.cmdFailed {s : State} {ck kind : ℕ} {c : Cmd} (h : Canon s) : Canon (s.cmdFailed ck kind c) :=
  .ite h <| .ite (.fillSlot h) <| .ite (.modCore h) h

theorem Canon.loseCmd {s : State} {ck kind : ℕ} {c : Cmd} {done va : ℕ} (h : Canon s) : Canon (s.loseCmd ck kind c done va) :=
  .cmdFailed <| .endCmd h

theorem Canon.failCmd {s : State} {ck kind eng acc : ℕ} {c : Cmd} {done : ℕ} {e : AErr} (h : Canon s) :
    Canon (s.failCmd ck kind eng acc c done e) := by
  unfold State.failCmd
  dsimp only
  split
  · exact .endCmd h
  · split
    · exact .discardShadow h
    · exact .freeze <| .log <| .endCmd h
  · split
    · exact .discardShadow h
    · refine .ite h ?_
      split
      · exact .modCmd <| .modCtx <| .faultRecords h
      · exact .modCmd <| .modCtx <| .faultRecords <| .openGroup h
  · exact h
  · exact .askLine h
  · split
    · exact .discardShadow h
    · exact h
  · exact h
  · exact .log <| .modCore h

/-! ### Fp -/

theorem CanonOut.fpArith {s : State} {w : FW} {d x : ℕ} {r : Val × ℕ} (h : Canon s) : CanonOut (s.fpArith w d x r) := .putFp h
theorem CanonOut.fpLong {s : State} {w : FW} {la d : ℕ} {r : Val × ℕ} (h : Canon s) : CanonOut (s.fpLong w la d r) := .putFpLa h
theorem CanonOut.execFadd {w : FW} {d a b x : ℕ} {s : State} (h : Canon s) : CanonOut (execFadd w d a b x s) := .fpArith h
theorem CanonOut.execFsub {w : FW} {d a b x : ℕ} {s : State} (h : Canon s) : CanonOut (execFsub w d a b x s) := .fpArith h
theorem CanonOut.execFmul {w : FW} {d a b x : ℕ} {s : State} (h : Canon s) : CanonOut (execFmul w d a b x s) := .fpArith h
theorem CanonOut.execFmin {w : FW} {d a b x : ℕ} {s : State} (h : Canon s) : CanonOut (execFmin w d a b x s) := .fpArith h
theorem CanonOut.execFmax {w : FW} {d a b x : ℕ} {s : State} (h : Canon s) : CanonOut (execFmax w d a b x s) := .fpArith h
theorem CanonOut.execFsgn {w : FW} {d a b : ℕ} {s : State} (h : Canon s) : CanonOut (execFsgn w d a b s) := .fpArith h
theorem CanonOut.execFfma {w : FW} {d a b la : ℕ} {s : State} (h : Canon s) : CanonOut (execFfma w d a b la s) := .fpLong h
theorem CanonOut.execFdiv {w : FW} {d a b la : ℕ} {s : State} (h : Canon s) : CanonOut (execFdiv w d a b la s) := .fpLong h
theorem CanonOut.execFsqrt {w : FW} {d a la : ℕ} {s : State} (h : Canon s) : CanonOut (execFsqrt w d a la s) := .fpLong h
theorem CanonOut.execFcvt {w : FW} {d a tgt x : ℕ} {s : State} (h : Canon s) : CanonOut (execFcvt w d a tgt x s) := .putFp h
theorem CanonOut.execFcvti {w : FW} {d a tgt x : ℕ} {s : State} (h : Canon s) : CanonOut (execFcvti w d a tgt x s) := .putFp h
theorem CanonOut.execIcvtf {w : IW} {d a tgt x : ℕ} {s : State} (h : Canon s) : CanonOut (execIcvtf w d a tgt x s) := .putFp h
theorem CanonOut.execFin {w : FW} {d a rm : ℕ} {s : State} (h : Canon s) : CanonOut (execFin w d a rm s) := .putFp h
theorem CanonOut.execFeq {w : FW} {d a b : ℕ} {s : State} (h : Canon s) : CanonOut (execFeq w d a b s) := .put h
theorem CanonOut.execFlt {w : FW} {d a b : ℕ} {s : State} (h : Canon s) : CanonOut (execFlt w d a b s) := .put h
theorem CanonOut.execFle {w : FW} {d a b : ℕ} {s : State} (h : Canon s) : CanonOut (execFle w d a b s) := .put h
theorem CanonOut.execFclass {w : FW} {d a : ℕ} {s : State} (h : Canon s) : CanonOut (execFclass w d a s) := .put h
theorem CanonOut.execTget {d a : ℕ} {s : State} (h : Canon s) : CanonOut (execTget d a s) := .put h
theorem CanonOut.execTset {d a b : ℕ} {s : State} (h : Canon s) : CanonOut (execTset d a b s) := .put h

/-! ### Vector -/

theorem Canon.setVr {s : State} {f : FMap ℕ → FMap ℕ} (h : Canon s) : Canon (s.setVr f) := .modCur h

theorem CanonOut.putVec {s : State} {la wd v n : ℕ} {xs : List (ℕ × Image)} {fl : ℕ} (h : Canon s) : CanonOut (s.putVec la wd v n xs fl) :=
  .next <| .setVr <| .openWinV <| .orFlags <| .retire h

theorem CanonOut.vmap {s : State} {wd m d : ℕ} {f : ℕ → Image × ℕ} (h : Canon s) : CanonOut (s.vmap wd m d f) := .putVec h
theorem CanonOut.lmap {s : State} {m d : ℕ} {f : ℕ → ℕ} (h : Canon s) : CanonOut (s.lmap m d f) := .next <| .setVr <| .retire h

theorem Canon.saveLanes {s : State} {b : Act} {lo hi : ℕ} (h : Canon s) : Canon (s.saveLanes b lo hi) := by
  have hput {t : State} (off n v : ℕ) (ht : Canon t) : Canon (match t.devLoc b.ctx b.die (s.laneArea b + off) n aWrite with
      | (some l, u) => u.devKeep (devWho b.ctx b.die) l 0 n v
      | (none, u) => u) := by
    split
    · next he => exact .devKeep <| .of_snd he (.devLoc ht)
    · next he => exact .of_snd he (.devLoc ht)
  exact .onAct (.foldl (fun h2 => hput _ _ _ <| hput _ _ _ h2) h) fun h2 => .modCur h2

theorem Canon.loadLanes {s : State} {lo hi : ℕ} (h : Canon s) : Canon (s.loadLanes lo hi) := by
  unfold State.loadLanes
  extract_lets +onlyGivenNames _ get
  have hget {t : State} (off n : ℕ) (ht : Canon t) : Canon (get t off n).2 := by
    unfold get
    split
    · next he => exact .of_snd he (.devLoc ht)
    · next he => exact .of_snd he (.devLoc ht)
  refine .ite h <| .foldl (fun h2 => ?_) h
  dsimp only
  split
  · exact .setVr <| hget _ _ <| hget _ _ h2
  · exact hget _ _ <| hget _ _ h2

theorem Canon.takeLanes : ∀ {s : State} {l : List Act} {n : ℕ}, Canon s → Canon (State.takeLanes s l n)
  | _, [], _, h => h
  | _, _ :: _, _, h => by
    unfold State.takeLanes
    exact .takeLanes <| .ite (.onAct h <| fun h1 => .modCur h1) <| .saveLanes <| .onAct h <| fun h1 => .modCur h1

theorem Canon.renegotiate {s : State} (h : Canon s) : Canon s.renegotiate := .ite h <| .modCur <| .ite (.loadLanes h) h

theorem CanonOut.execVclaim {d a imm : ℕ} {s : State} (h : Canon s) : CanonOut (execVclaim d a imm s) :=
  .ite (.put <| .modCur h) <| .put <| .modCur <| .takeLanes h

theorem CanonOut.execVrel {s : State} (h : Canon s) : CanonOut (execVrel s) := .next <| .retire <| .modCur h
theorem CanonOut.execVlen {d a imm : ℕ} {s : State} (h : Canon s) : CanonOut (execVlen d a imm s) := .put h
theorem CanonOut.execVsplat {d a imm : ℕ} {s : State} (h : Canon s) : CanonOut (execVsplat d a imm s) := .ite (.lmap h) <| .lmap h
theorem CanonOut.viop {s : State} {w : IW} {m d : ℕ} {f : ℕ → ℤ} (h : Canon s) : CanonOut (s.viop w m d f) := .vmap h
theorem CanonOut.vmask {s : State} {wd m d : ℕ} {p : ℕ → Bool} (h : Canon s) : CanonOut (s.vmask wd m d p) := .put h
theorem CanonOut.execVadd {w : IW} {d a b m : ℕ} {s : State} (h : Canon s) : CanonOut (execVadd w d a b m s) := .viop h
theorem CanonOut.execVsub {w : IW} {d a b m : ℕ} {s : State} (h : Canon s) : CanonOut (execVsub w d a b m s) := .viop h
theorem CanonOut.execVand {w : IW} {d a b m : ℕ} {s : State} (h : Canon s) : CanonOut (execVand w d a b m s) := .viop h
theorem CanonOut.execVor {w : IW} {d a b m : ℕ} {s : State} (h : Canon s) : CanonOut (execVor w d a b m s) := .viop h
theorem CanonOut.execVxor {w : IW} {d a b m : ℕ} {s : State} (h : Canon s) : CanonOut (execVxor w d a b m s) := .viop h
theorem CanonOut.execVmin {w : IW} {d a b m : ℕ} {s : State} (h : Canon s) : CanonOut (execVmin w d a b m s) := .viop h
theorem CanonOut.execVmax {w : IW} {d a b m : ℕ} {s : State} (h : Canon s) : CanonOut (execVmax w d a b m s) := .viop h
theorem CanonOut.execVadds {w : IW} {d a b m : ℕ} {s : State} (h : Canon s) : CanonOut (execVadds w d a b m s) := .viop h
theorem CanonOut.execVsubs {w : IW} {d a b m : ℕ} {s : State} (h : Canon s) : CanonOut (execVsubs w d a b m s) := .viop h
theorem CanonOut.execVmul {w : IW} {d a b m : ℕ} {s : State} (h : Canon s) : CanonOut (execVmul w d a b m s) := .viop h
theorem CanonOut.execVsll {w : IW} {d a b m : ℕ} {s : State} (h : Canon s) : CanonOut (execVsll w d a b m s) := .viop h
theorem CanonOut.execVsrl {w : IW} {d a b m : ℕ} {s : State} (h : Canon s) : CanonOut (execVsrl w d a b m s) := .viop h
theorem CanonOut.execVsra {w : IW} {d a b m : ℕ} {s : State} (h : Canon s) : CanonOut (execVsra w d a b m s) := .viop h
theorem CanonOut.execVcmpeq {w : IW} {d a b m : ℕ} {s : State} (h : Canon s) : CanonOut (execVcmpeq w d a b m s) := .vmask h
theorem CanonOut.execVcmplt {w : IW} {d a b m : ℕ} {s : State} (h : Canon s) : CanonOut (execVcmplt w d a b m s) := .vmask h
theorem CanonOut.execVcmple {w : IW} {d a b m : ℕ} {s : State} (h : Canon s) : CanonOut (execVcmple w d a b m s) := .vmask h
theorem CanonOut.vlong {s : State} {w : FW} {la d : ℕ} {f : ℕ → Val × ℕ} (h : Canon s) : CanonOut (s.vlong w la d f) := .putVec h
theorem CanonOut.execVfadd {w : FW} {d a b m : ℕ} {s : State} (h : Canon s) : CanonOut (execVfadd w d a b m s) := .vmap h
theorem CanonOut.execVfsub {w : FW} {d a b m : ℕ} {s : State} (h : Canon s) : CanonOut (execVfsub w d a b m s) := .vmap h
theorem CanonOut.execVfmul {w : FW} {d a b m : ℕ} {s : State} (h : Canon s) : CanonOut (execVfmul w d a b m s) := .vmap h
theorem CanonOut.execVfmin {w : FW} {d a b m : ℕ} {s : State} (h : Canon s) : CanonOut (execVfmin w d a b m s) := .vmap h
theorem CanonOut.execVfmax {w : FW} {d a b m : ℕ} {s : State} (h : Canon s) : CanonOut (execVfmax w d a b m s) := .vmap h
theorem CanonOut.execVfsgn {w : FW} {d a b m : ℕ} {s : State} (h : Canon s) : CanonOut (execVfsgn w d a b m s) := .vmap h
theorem CanonOut.execVfeq {w : FW} {d a b m : ℕ} {s : State} (h : Canon s) : CanonOut (execVfeq w d a b m s) := .vmask h
theorem CanonOut.execVflt {w : FW} {d a b m : ℕ} {s : State} (h : Canon s) : CanonOut (execVflt w d a b m s) := .vmask h
theorem CanonOut.execVfle {w : FW} {d a b m : ℕ} {s : State} (h : Canon s) : CanonOut (execVfle w d a b m s) := .vmask h
theorem CanonOut.execVffma {w : FW} {d a b la : ℕ} {s : State} (h : Canon s) : CanonOut (execVffma w d a b la s) := .vlong h
theorem CanonOut.execVfdiv {w : FW} {d a b la : ℕ} {s : State} (h : Canon s) : CanonOut (execVfdiv w d a b la s) := .vlong h
theorem CanonOut.execVfsqrt {w : FW} {d a la : ℕ} {s : State} (h : Canon s) : CanonOut (execVfsqrt w d a la s) := .vlong h

theorem CanonOut.vconv {s : State} {ns nt m d a : ℕ} {f : ℕ → Image → Image × ℕ} (h : Canon s) : CanonOut (s.vconv ns nt m d a f) := by
  refine .ite (.vmap h) ?_
  dsimp only
  split
  · exact .next <| .trapHere h
  · exact .putVec h

theorem CanonOut.execVcvt {w : FW} {d a tgt m : ℕ} {s : State} (h : Canon s) : CanonOut (execVcvt w d a tgt m s) := by
  unfold Machine.execVcvt
  exact .vconv h

theorem CanonOut.execVicvtf {w : IW} {d a tgt m : ℕ} {s : State} (h : Canon s) : CanonOut (execVicvtf w d a tgt m s) := by
  unfold Machine.execVicvtf
  exact .vconv h

theorem CanonOut.execVfcvti {w : FW} {d a tgt m : ℕ} {s : State} (h : Canon s) : CanonOut (execVfcvti w d a tgt m s) := .vconv h
theorem CanonOut.execVfin {w : FW} {d a rm m : ℕ} {s : State} (h : Canon s) : CanonOut (execVfin w d a rm m s) := .vmap h
theorem CanonOut.execVtget {d a m : ℕ} {s : State} (h : Canon s) : CanonOut (execVtget d a m s) := .lmap h
theorem CanonOut.execVtset {d a b m : ℕ} {s : State} (h : Canon s) : CanonOut (execVtset d a b m s) := .lmap h
theorem CanonOut.execVperm {d a b m : ℕ} {s : State} (h : Canon s) : CanonOut (execVperm d a b m s) := .lmap h
theorem CanonOut.execVslide {d a b m : ℕ} {s : State} (h : Canon s) : CanonOut (execVslide d a b m s) := .lmap h

theorem CanonOut.withIndex {s : State} {b : ℕ} {k : ℕ → Out} (h : Canon s) (hk : ∀ {x0}, CanonOut (k x0)) : CanonOut (s.withIndex b k) :=
  .ite (.next <| .trapHere h) hk

theorem CanonOut.execVbcast {d a b m : ℕ} {s : State} (h : Canon s) : CanonOut (execVbcast d a b m s) := .withIndex h <| .lmap h
theorem CanonOut.execVcomp {d a m : ℕ} {s : State} (h : Canon s) : CanonOut (execVcomp d a m s) := .lmap h
theorem CanonOut.execVexpd {d a m : ℕ} {s : State} (h : Canon s) : CanonOut (execVexpd d a m s) := .lmap h

theorem CanonOut.execVget {d a b m : ℕ} {s : State} (h : Canon s) : CanonOut (execVget d a b m s) :=
  .withIndex h <| .ite (.put h) <| .next <| .retire h

theorem CanonOut.execVput {d a b m : ℕ} {s : State} (h : Canon s) : CanonOut (execVput d a b m s) := .withIndex h <| .next <| .setVr <| .retire h

theorem CanonOut.withGroup {s : State} {b : ℕ} {top idx desc : Bool} {gs : ℕ → List (Option (ℕ × ℕ × ℕ))} {k : ℕ → Out} (h : Canon s)
    (hk : ∀ {x0}, CanonOut (k x0)) : CanonOut (s.withGroup b top idx desc gs k) := by
  refine .ite (.next <| .trapHere h) ?_
  split
  · exact .next <| .trapHere h
  · exact hk

theorem CanonOut.execVred {w : IW} {d a b la : ℕ} {s : State} (h : Canon s) : CanonOut (execVred w d a b la s) := .withGroup h <| .putLa h

theorem CanonOut.execVfred {w : FW} {d a b la : ℕ} {s : State} (h : Canon s) : CanonOut (execVfred w d a b la s) := by
  unfold Machine.execVfred
  exact .withGroup h <| .putFpLa h

theorem CanonOut.execVscan {w : IW} {d a b la : ℕ} {s : State} (h : Canon s) : CanonOut (execVscan w d a b la s) := by
  unfold Machine.execVscan
  exact .withGroup h <| .putVec h

theorem CanonOut.execVfscan {w : FW} {d a b la : ℕ} {s : State} (h : Canon s) : CanonOut (execVfscan w d a b la s) := by
  unfold Machine.execVfscan
  refine .withGroup h ?_
  intro _
  split
  · exact .next <| .retire h
  · exact .putVec h

theorem CanonOut.putSorted {s : State} {la d k : ℕ} {idx : Bool} {r : List (Image × ℕ)} (h : Canon s) : CanonOut (s.putSorted la d k idx r) :=
  .next <| .setVr <| .openWinV <| .retire h

theorem CanonOut.sorted {s : State} {la d a b : ℕ} {top : Bool} {lt : Bool → Image → Image → Bool} (h : Canon s) :
    CanonOut (s.sorted la d a b top lt) := by
  unfold State.sorted
  exact .withGroup h <| .putSorted h

theorem CanonOut.execVsort {w : FW} {d a b la : ℕ} {s : State} (h : Canon s) : CanonOut (execVsort w d a b la s) := .sorted h
theorem CanonOut.execVsorti {w : IW} {d a b la : ℕ} {s : State} (h : Canon s) : CanonOut (execVsorti w d a b la s) := .sorted h
theorem CanonOut.execVtopk {w : FW} {d a b la : ℕ} {s : State} (h : Canon s) : CanonOut (execVtopk w d a b la s) := .sorted h

/-! ### Gang -/

theorem Canon.setGangBits {s : State} {gang lead : Bool} (h : Canon s) : Canon (s.setGangBits gang lead) := .setStBit <| .setStBit h
theorem Canon.joinGang {s : State} {g pc : ℕ} (h : Canon s) : Canon (s.joinGang g pc) := .modCur <| .goOn <| .setPc <| .setGangBits h
theorem Canon.outOfGang {s : State} (h : Canon s) : Canon s.outOfGang := .modCur <| .setGangBits <| .ite (.goOn <| .retire h) h

theorem Canon.onActs {s : State} {ids : List ℕ} {f : State → State} (h : Canon s) (hf : ∀ {x0}, Canon x0 → Canon (f x0)) :
    Canon (s.onActs ids f) :=
  .foldl (fun h2 => .onAct h2 <| fun h3 => hf h3) h

theorem Canon.leaveGang {s : State} (h : Canon s) : Canon s.leaveGang := by
  unfold State.leaveGang
  split
  · exact h
  · exact .modWork <| .ite (.onActs (.outOfGang h) <| fun h3 => .outOfGang h3) <| .outOfGang h

theorem CanonOut.execGang {a b : ℕ} {s : State} (h : Canon s) : CanonOut (execGang a b s) := by
  refine .unlessClause h <| .ite (.next <| .trapHere h) <| .ite (.next <| .block h) ?_
  split
  · exact .next h
  · exact .next <| .onActs (.modWork h) <| fun h3 => .joinGang h3

theorem Canon.meet {s : State} {g tag : ℕ} (h : Canon s) : Canon (s.meet g tag) := by
  unfold State.meet
  split
  · exact h
  · exact .foldl (fun h3 => .onAct h3 <| fun h4 => .ite (.setPc h4) <| .ite (.modCur <| .goOn <| .setPc h4) <| .goOn <| .retire h4) <|
      .onAct h <| fun h3 => .goOn <| .setPc h3

theorem CanonOut.execGmeet {a : ℕ} {s : State} (h : Canon s) : CanonOut (execGmeet a s) := by
  refine .unlessClause h ?_
  dsimp only
  split
  · exact .next <| .retire h
  · refine .ite (.ite (.next <| .retire h) <| .next <| .ite (.meet <| .block h) <| .block h) <| .ite (.next <| .retire h) ?_
    split
    · exact .next <| .ite (.meet <| .block h) <| .block h
    · exact .next <| .block h

theorem Canon.remeet {s : State} {g : ℕ} (h : Canon s) : Canon (s.remeet g) := by
  unfold State.remeet
  split
  · exact .ite (.meet h) h
  · exact h

theorem CanonOut.execGleave {s : State} (h : Canon s) : CanonOut (execGleave s) := by
  unfold Machine.execGleave
  extract_lets +onlyGivenNames v2
  have h2 : Canon v2 := .leaveGang <| .retire h
  refine .next ?_
  split
  · exact .remeet h2
  · exact h2

theorem CanonOut.execVnbr {d a m o : ℕ} {s : State} (h : Canon s) : CanonOut (execVnbr d a m o s) := by
  unfold Machine.execVnbr
  dsimp only
  split
  · exact .ite (.lmap h) <| .next <| .trapHere h
  · exact .next <| .trapHere h

/-! ### Slots -/

theorem Canon.startWs {s : State} {key pc x1 x2 x3 x4 st : ℕ} (h : Canon s) : Canon (s.startWs key pc x1 x2 x3 x4 st) :=
  .wrN <| .wrN <| .wrN <| .wrN <| .wrN <| .wrN <| .zeroed h

theorem Canon.addAct {s : State} {a : Act} (h : Canon s) : Canon (s.addAct a) := .modSched <| .setActs h
theorem Canon.startAct {s : State} {a : Act} {pc x1 x2 x3 x4 : ℕ} (h : Canon s) : Canon (s.startAct a pc x1 x2 x3 x4) := .addAct <| .startWs h

theorem Canon.coverSlot {s : State} {ck slot : ℕ} (h : Canon s) : Canon (s.coverSlot ck slot) := by
  unfold State.coverSlot
  split
  · exact h
  · exact .onAct h <| fun h3 => .modCur h3

theorem Canon.startHandler {s : State} {ck slot : ℕ} {m : Msg} (h : Canon s) : Canon (s.startHandler ck slot m) :=
  .syncAct <| .startAct <| .modCore <| .coverSlot h

theorem Canon.startQueued : ∀ {s : State} {ck n : ℕ}, Canon s → Canon (State.startQueued s ck n)
  | _, _, 0, h => h
  | _, _, _ + 1, h => by
    unfold State.startQueued
    split
    · exact h
    · exact .startQueued <| .startHandler h

theorem Canon.wakeCore {s : State} {ck : ℕ} (h : Canon s) : Canon (s.wakeCore ck) := .startQueued h

theorem Canon.enter {s : State} {m : Msg} (h : Canon s) : Canon (s.enter m) := by
  refine .ite (.ite ?_ <| .ite (.log h) h) ?_
  · split
    · exact .addLate h
    · exact h
  · dsimp only
    split
    · exact .modCore h
    · exact .modCore <| .wrN h

theorem Canon.freeInbound {s : State} {ck e : ℕ} (h : Canon s) : Canon (s.freeInbound ck e) := by
  unfold State.freeInbound
  dsimp only
  split
  · exact .modCore h
  · exact .modCore <| .enter <| .modCore <| .modCore h

theorem Canon.wakeCluster {s : State} {kc : ℕ} (h : Canon s) : Canon (s.wakeCluster kc) := .ite (.modCluster h) h

theorem CanonOut.execMessageArrival {n : ℕ} {s : State} (h : Canon s) : CanonOut (execMessageArrival n s) := by
  unfold Machine.execMessageArrival
  split
  · exact .ite (.next h) <| .ite (.next <| .wakeCluster h) <| .next <| .wakeCore <| .enter <| .modWork h
  · split
    · exact .next h
    · exact .next <| .wakeCore <| .wakeCluster h

/-! ### Barrier -/

theorem Canon.setBar {s : State} {k : ℕ} {b : Barrier} (h : Canon s) : Canon (s.setBar k b) := .modWork h
theorem Canon.barAcquire {s : State} {key phase : ℕ} (h : Canon s) : Canon (s.barAcquire key phase) := .syncAt h

theorem Canon.endBarWait {s : State} {key d phase : ℕ} (h : Canon s) : Canon (s.endBarWait key d phase) :=
  .barAcquire <| .goOn <| .setReg <| .retire h

theorem Canon.release {s : State} {c : ℕ} {p : Msg → Bool} (h : Canon s) : Canon (s.release c p) :=
  .foldl (fun h2 => .wakeCore <| .wakeCluster h2) <| .foldl (fun h2 => .enter h2) <| .modCtx h

theorem Canon.mapGroups {s : State} {f : Group → Group} (h : Canon s) : Canon (s.mapGroups f) := .modWork h
theorem Canon.mapLaunches {s : State} {f : Launch → Launch} (h : Canon s) : Canon (s.mapLaunches f) := .modWork h

theorem Canon.bumpGroup {s : State} {key : ℕ} (h : Canon s) : Canon (s.bumpGroup key) := by
  unfold State.bumpGroup
  dsimp only
  split
  · exact h
  · exact .release <| .mapGroups h

theorem Canon.bumpLaunch {s : State} {n : ℕ} (h : Canon s) : Canon (s.bumpLaunch n) := by
  unfold State.bumpLaunch
  split
  · exact h
  · exact .release <| .mapLaunches h

theorem Canon.completePhase {s : State} {key : ℕ} (h : Canon s) : Canon (s.completePhase key) := by
  unfold State.completePhase
  extract_lets +onlyGivenNames _ _ _ _ v2
  have h2 : Canon v2 := .mapAway <| .mapActs <| .setBar h
  exact .foldl (fun h3 => .onAct h3 <| fun h4 => .endBarWait h4) <| .ite (.bumpGroup h2) <| .ite (.bumpLaunch h2) h2

theorem Canon.phaseIfDue {s : State} {key : ℕ} (h : Canon s) : Canon (s.phaseIfDue key) := .ite (.completePhase h) h

theorem CanonOut.execBarrierPhaseComplete {key : ℕ} {s : State} (h : Canon s) : CanonOut (execBarrierPhaseComplete key s) :=
  .next <| .ite (.completePhase h) <| .phaseIfDue h

theorem Canon.dropCount {s : State} {key : ℕ} (h : Canon s) : Canon (s.dropCount key) := by
  unfold State.dropCount
  extract_lets +onlyGivenNames v2
  have h2 : Canon v2 := .phaseIfDue h
  exact .ite (.phaseIfDue <| .setBar h2) h2

theorem CanonOut.withBarrier {s : State} {w : ℕ} {k : ℕ → State → Out} (h : Canon s) (hk : ∀ {x0 x1}, Canon x1 → CanonOut (k x0 x1)) :
    CanonOut (s.withBarrier w k) := by
  refine .ite (.next <| .trapHere h) <| .ite (.next <| .impure h) <| .ite (.next <| .trapHere h) ?_
  split
  · exact .next <| .trapHere h
  · exact hk <| .phaseIfDue h

theorem CanonOut.execBinit {a b : ℕ} {s : State} (h : Canon s) : CanonOut (execBinit a b s) :=
  .ite (.next <| .trapHere h) <| .withBarrier h <| fun h2 => .ite (.next <| .trapHere h2) <| .ite (.next <| .trapHere h2) <| .next <|
    .retire <| .setBar h2

theorem CanonOut.unlessNamed {s : State} {w : ℕ} {k : Out} (h : Canon s) (h1 : CanonOut k) : CanonOut (s.unlessNamed w k) :=
  .ite (.next <| .impure h) h1

theorem CanonOut.execBarr {d a na : ℕ} {s : State} (h : Canon s) : CanonOut (execBarr d a na s) := by
  unfold Machine.execBarr
  refine .unlessNamed h <| .unlessClause h ?_
  extract_lets +onlyGivenNames _
  refine .withBarrier h <| fun h2 => ?_
  extract_lets +onlyGivenNames _ _
  refine .ite (.next <| .trapHere h2) <| .ite (.next <| .trapHere h2) <| .ite (.next <| .trapHere h2) <| .settle h2 <| fun h3 => ?_
  extract_lets +onlyGivenNames v4
  have h4 : Canon v4 := .releaseTo <| .modCur <| .setBar h3
  exact .next <| .phaseIfDue <| .ite (.setReg <| .retire h4) <| .block h4

theorem CanonOut.withToken {s : State} {a b : ℕ} {k : ℕ → ℕ → Bool → State → Out} (h : Canon s)
    (hk : ∀ {x0 x1 x2 x3}, Canon x3 → CanonOut (k x0 x1 x2 x3)) : CanonOut (s.withToken a b k) := by
  unfold State.withToken
  exact .withBarrier h <| fun h2 => .ite (.next <| .trapHere h2) <| .ite (.next <| .trapHere h2) <| hk h2

theorem CanonOut.execBwait {a b : ℕ} {s : State} (h : Canon s) : CanonOut (execBwait a b s) :=
  .unlessNamed h <| .unlessClause h <| .withToken h <| fun h2 => .ite (.next <| .barAcquire <| .retire h2) <| .next <| .block h2

theorem CanonOut.execBtest {d a b : ℕ} {s : State} (h : Canon s) : CanonOut (execBtest d a b s) :=
  .withToken h <| fun h2 => .ite (.next <| .barAcquire <| .setReg <| .retire h2) <| .put h2

/-! ### Poly -/

theorem Gives.tableWords : ∀ {s : State} {w : Who} {va n : ℕ}, Canon s → Gives (fun x => Canon x.2) (State.tableWords s w va n)
  | _, _, _, 0, h => .ok h
  | _, _, _, _ + 1, h => by
    unfold State.tableWords
    split
    · exact .error
    · next he1 =>
        split
        · exact .error
        · next he2 => exact .ok <| .of_ok he2 (.tableWords <| .of_ok he1 (.engRead h))

theorem CanonOut.execPpload {a : ℕ} {s : State} (h : Canon s) : CanonOut (execPpload a s) := by
  refine .ite (.next <| .trapHere h) <| .ite (.next h) ?_
  split
  · exact .halt <| .failAcc h
  · next he2 =>
      split
      · exact .next <| .trapHere <| .of_ok he2 (.engRead h)
      · split
        · exact .halt <| .failAcc <| .of_ok he2 (.engRead h)
        · next he4 =>
            exact .ite (.next <| .trapHere <| .of_ok he4 (.tableWords <| .of_ok he2 (.engRead h))) <| .next <| .retire <| .modMyCore <|
                .of_ok he4 (.tableWords <| .of_ok he2 (.engRead h))

theorem CanonOut.execVpoly {d a la : ℕ} {s : State} (h : Canon s) : CanonOut (execVpoly d a la s) :=
  .ite (.next <| .trapHere h) <| .ite (.next h) <| .next <| .modCluster <| .openWinV <| .retire h

theorem Canon.polyDo {s : State} {r : PolyReq} {grant : ℕ} (h : Canon s) : Canon (s.polyDo r grant) :=
  .ite (.addLate h) <| .flagAct <| .onAct h <| fun h2 => .setVr h2

theorem Canon.flushPoly {s : State} {id : ℕ} (h : Canon s) : Canon (s.flushPoly id) := by
  unfold State.flushPoly
  split
  · exact h
  · exact .ite h <| .foldl (fun h3 => .polyDo h3) <| .modCluster h

theorem Canon.flushTrapped {s : State} {id : ℕ} (h : Canon s) : Canon (s.flushTrapped id) := .ite (.flushPoly h) h

theorem CanonOut.execVpolyRequestTake {cluster : ℕ} {s : State} (h : Canon s) : CanonOut (execVpolyRequestTake cluster s) := by
  unfold Machine.execVpolyRequestTake
  split
  · exact .next h
  · split
    · exact .next <| .modCluster h
    · exact .ite (.next h) <| .next <| .polyDo <| .modCluster h

/-! ### Ending -/

theorem Canon.mapPipes {s : State} {f : ℕ → Pipe → Pipe} (h : Canon s) : Canon (s.mapPipes f) := .modWork h

theorem Canon.groupEnd {s : State} {g : Group} (h : Canon s) : Canon (s.groupEnd g) := by
  unfold State.groupEnd
  extract_lets +onlyGivenNames _ _ _ _ _ v2
  have h2 : Canon v2 := .mapLaunches <| .modWork <| .setBar <| .mapPipes h
  extract_lets +onlyGivenNames _ v3
  have h3 : Canon v3 := .ite (.modWork h2) h2
  split
  · exact .shadowAdvance h3
  · exact h3

theorem Canon.threadEnd {s : State} {l : LaunchId} {killed : Bool} (h : Canon s) : Canon (s.threadEnd l killed) := by
  unfold State.threadEnd
  split
  · exact h
  · extract_lets +onlyGivenNames _ u
    have hu : Canon u := by
      unfold u
      split
      · exact .dropCount <| .dropCount h
      · exact .dropCount h
    exact .ite (.groupEnd <| .mapGroups <| .ite (.mapLaunches hu) hu) <| .mapGroups <| .ite (.mapLaunches hu) hu

theorem Canon.popSlot {s : State} {a : Act} (h : Canon s) : Canon (s.popSlot a) := by
  refine .wakeCore ?_
  split
  · exact .startHandler h
  · split
    · exact .onAct h <| fun h4 => .renegotiate <| .modCur h4
    · exact h

theorem Canon.endCur {s : State} {killed : Bool} (h : Canon s) : Canon (s.endCur killed) := by
  unfold State.endCur
  extract_lets +onlyGivenNames _ _ v2
  have h2 : Canon v2 := .modCur <| .leaveGang h
  extract_lets +onlyGivenNames v3
  have h3 : Canon v3 := by
    unfold v3
    split
    · exact .remeet h2
    · exact h2
  extract_lets +onlyGivenNames v4
  have h4 : Canon v4 := by
    unfold v4
    split
    · exact .freeInbound h3
    · exact h3
  extract_lets +onlyGivenNames v5
  have h5 : Canon v5 := by
    unfold v5
    refine .ite ?_ h4
    split
    · exact .threadEnd h4
    · exact h4
  exact .ite (.wakeCore h5) <| .popSlot h5

theorem CanonOut.ending {s : State} {k : State → Out} (h : Canon s) (hk : ∀ {x0}, Canon x0 → CanonOut (k x0)) : CanonOut (s.ending k) := by
  unfold State.ending
  split
  · exact .next <| .raiseLate h
  · exact .ite (.next h) <| hk h

/-! ### Fetch -/

theorem CanonRes.fetchHalf {s : State} {va : ℕ} (h : Canon s) : CanonRes (s.fetchHalf va) := by
  unfold State.fetchHalf
  extract_lets +onlyGivenNames _
  refine .ite (.stop <| .trapHere h) ?_
  split
  · next he2 => exact .failAcc <| .of_snd he2 (.locate h)
  · next he2 =>
      refine .ite (.failAcc <| .of_snd he2 (.locate h)) <| .ite (.failAcc <| .of_snd he2 (.locate h)) ?_
      extract_lets +onlyGivenNames v3
      have h3 : Canon v3.2 := by
        unfold v3
        exact .ite_snd (.readLine <| .of_snd he2 (.locate h)) <| .of_snd he2 (.locate h)
      split
      · exact .ok h3
      · exact .ok <| .draw h3

theorem CanonRes.fetchAt {s : State} {pc : ℕ} (h : Canon s) : CanonRes (s.fetchAt pc) :=
  .ite (.stop <| .trapHere h) <| .bind (.fetchHalf h) <| fun h2 => .ite (.ok h2) <| .bind (.fetchHalf h2) <| fun h3 => .ok h3

end Sys2Proof.Machine
end

section
/-!
SUPPORT. Threads, clauses, the homes of lines, indexes and pipes (10, 11, 15, 19, 21): each function keeps memory canonical.
-/

namespace Sys2Proof.Machine

/-! ### Thread -/

theorem Canon.accept {s : State} {p : Sent} (h : Canon s) : Canon (s.accept p) := by
  unfold State.accept
  extract_lets +onlyGivenNames _ _ v2
  have h2 : Canon v2 := .modWork <| .releaseTo h
  refine .onAct ?_ <| fun h3 => .modCur h3
  split
  · exact .wakeCore <| .enter h2
  · exact .modCtx h2
  · exact h2

theorem Canon.refuse {s : State} {t la : ℕ} (h : Canon s) : Canon (s.refuse t la) := .ite (.trapHere h) <| .addLate <| .retire h
theorem Canon.wakeTarget {s : State} {t : ℕ} (h : Canon s) : Canon (s.wakeTarget t) := .wakeCluster h

theorem CanonOut.execSend {w d a b la : ℕ} {s : State} (h : Canon s) : CanonOut (execSend w d a b la s) := by
  unfold Machine.execSend
  dsimp only
  split
  · exact .next <| .trapHere h
  · exact .next <| .impure h
  · exact .next <| .refuse h
  · exact .next <| .wakeTarget h
  · exact .next <| .setRegLa <| .retire h
  · exact .next h
  · exact .next <| .dataErr h
  · exact .next <| .setRegLa <| .retire <| .accept h

theorem CanonOut.unlessFar {s : State} {t : ℕ} {k : Out} (h : Canon s) (h1 : CanonOut k) : CanonOut (s.unlessFar t k) := by
  unfold State.unlessFar
  split
  · exact .next <| .impure h
  · exact h1

theorem CanonOut.execSendw {w d a b la : ℕ} {s : State} (h : Canon s) : CanonOut (execSendw w d a b la s) := by
  refine .unlessFar h <| .unlessClause h ?_
  dsimp only
  split
  · exact .next <| .trapHere h
  · exact .next <| .impure h
  · exact .next <| .refuse h
  · exact .next <| .block <| .wakeTarget h
  · exact .next <| .block h
  · exact .next <| .block h
  · exact .next <| .dataErr h
  · exact .next <| .setRegLa <| .retire <| .accept h

theorem Canon.retrySend {s : State} {d t : ℕ} {payload : List ℕ} {late : Bool} (h : Canon s) : Canon (s.retrySend d t payload late) := by
  unfold State.retrySend
  dsimp only
  split
  · exact .trapHere <| .goOn h
  · exact .impure h
  · exact .refuse <| .goOn h
  · exact .wakeTarget h
  · exact h
  · exact h
  · exact .dataErr <| .goOn h
  · exact .setReg <| .retire <| .goOn <| .accept h

theorem CanonOut.execHalt {s : State} (h : Canon s) : CanonOut (execHalt s) :=
  .ite (.next <| .trapHere h) <| .ending h <| fun h2 => .next <| .endCur h2

theorem CanonOut.execHret {s : State} (h : Canon s) : CanonOut (execHret s) :=
  .ite (.next <| .trapHere h) <| .ending h <| fun h2 => .next <| .endCur h2

theorem CanonOut.execNop {s : State} (h : Canon s) : CanonOut (execNop s) := .next <| .retire h

theorem CanonOut.execYield {s : State} (h : Canon s) : CanonOut (execYield s) :=
  .unlessClause h <| .next <| .renegotiate <| .yieldPoint <| .retire h

theorem CanonOut.execBrk {s : State} (h : Canon s) : CanonOut (execBrk s) := .next <| .trap h

theorem Canon.linkParks : ∀ {s : State} {l : List Act}, Canon s → Canon (State.linkParks s l)
  | _, [], h => h
  | _, _ :: [], h => .hwWrite h
  | _, _ :: _ :: _, h => by
    unfold State.linkParks
    exact .linkParks <| .hwWrite h

theorem Canon.relink {s : State} {ck pri : ℕ} (h : Canon s) : Canon (s.relink ck pri) := .linkParks h
theorem Canon.copyWs {s : State} {from_ to_ : ℕ} (h : Canon s) : Canon (s.copyWs from_ to_) := .hwWrite h

theorem CanonOut.execActivationPark {core : ℕ} {s : State} (h : Canon s) : CanonOut (execActivationPark core s) := by
  rw [Machine.execActivationPark]
  split
  · exact .next h
  · split
    · exact .next h
    · split
      · exact .next h
      · refine .ite (.next h) ?_
        split
        · next he5 => exact .next <| .of_snd he5 (.devLoc h)
        · next he5 => exact .next <| .wakeCore <| .relink <| .onAct (.modCore <| .copyWs <| .of_snd he5 (.devLoc h)) <| fun h6 => .modCur h6

theorem CanonOut.execActivationResume {core : ℕ} {s : State} (h : Canon s) : CanonOut (execActivationResume core s) := by
  unfold Machine.execActivationResume
  split
  · exact .ite (.next h) <| .next <| .relink <| .onAct (.copyWs h) <| fun h4 => .renegotiate <| .modCur h4
  · exact .next h

theorem CanonOut.execWatchdogExpiry {act : ℕ} {s : State} (h : Canon s) : CanonOut (execWatchdogExpiry act s) := by
  unfold Machine.execWatchdogExpiry
  split
  · exact .next h
  · exact .ite (.next h) <| .next <| .flushPoly <| .onAct h <| fun h3 => .ite (.trapHere h3) <| .trapWsp h3

theorem CanonOut.execLongLatencyResult {act n : ℕ} {s : State} (h : Canon s) : CanonOut (execLongLatencyResult act n s) :=
  .next <| .onAct h <| fun h2 => .modCur h2

theorem Canon.restoreWin {s : State} {w : Win} (h : Canon s) : Canon (s.restoreWin w) := .foldl (fun h2 => .ite (.setReg h2) <| .setVr h2) h

theorem Canon.dropLine {s : State} {va : ℕ} (h : Canon s) : Canon (s.dropLine va) := by
  unfold State.dropLine
  split
  · exact .modMyCore h
  · exact h

theorem CanonOut.execErrorReply {eng who seq sub addr : ℕ} {s : State} (h : Canon s) : CanonOut (execErrorReply eng who seq sub addr s) := by
  unfold Machine.execErrorReply
  refine .ite ?_ <| .ite ?_ <| .ite (.next <| .onAct h <| fun h2 => .modCur h2) <| .next h
  · split
    · exact .next h
    · refine .ite (.next h) ?_
      split
      · exact .next <| .discardShadow h
      · extract_lets +onlyGivenNames _ _
        refine .next <| .freeze <| .log <| .onAct h <| fun h4 => ?_
        extract_lets +onlyGivenNames v5
        have h5 : Canon v5 := .modCur <| .dropLine <| .restoreWin h4
        exact .ite (.flushPoly <| .raiseLate h5) h5
  · split
    · exact .next h
    · exact .next <| .cmdFailed <| .failCmd h

theorem CanonOut.execIllegalInstruction {word : ℕ} {s : State} (h : Canon s) : CanonOut (execIllegalInstruction word s) := .next <| .trapIop h
theorem CanonOut.execFetchFault {s : State} (h : Canon s) : CanonOut (execFetchFault s) := .halt <| .fetchAt h

/-! ### Clause -/

theorem Canon.setCtl {s : State} {k v : ℕ} (h : Canon s) : Canon (s.setCtl k v) := .wrN h

theorem Canon.writeRec {s : State} {k handler cnt ctl path root conj : ℕ} {args : List ℕ} (h : Canon s) :
    Canon (s.writeRec k handler cnt ctl path root conj args) :=
  .wrN <| .wrN <| .wrN <| .wrN <| .wrN <| .wrN <| .setCtl <| .wrN <| .wrN h

theorem Canon.enterRing {s : State} {ck i : ℕ} (h : Canon s) : Canon (s.enterRing ck i) := .wakeCluster <| .wrN <| .wrN h

theorem Gives.clovKey {s : State} {c j : ℕ} (h : Canon s) : Gives (fun x => Canon x.2) (s.clovKey c j) := by
  rw [State.clovKey]
  split
  · next he2 => exact .ok <| .of_snd he2 (.translate h)
  · exact .error

theorem Gives.findRec {s : State} {w : Who} {va : ℕ} (h : Canon s) : Gives (fun x => Canon x.2) (s.findRec w va) := by
  refine .ite (.ok h) ?_
  dsimp only
  split
  · exact .ok h
  · refine .ite (.ok h) ?_
    split
    · exact .error
    · next he3 => exact .ok <| .of_ok he3 (.clovKey h)

theorem Canon.putRec {s : State} {p : RecPlace} {off n v : ℕ} (h : Canon s) : Canon (s.putRec p off n v) := .ite (.hwWrite h) <| .wrN h

theorem Canon.reachRec {s : State} {w : Who} {p : RecPlace} {off size kind : ℕ} (h : Canon s) : Canon (s.reachRec w p off size kind) := by
  unfold State.reachRec
  refine .ite h ?_
  extract_lets +onlyGivenNames v2
  have h2 : Canon v2 := .wakeCluster h
  exact .ite h2 <| .traceOne h2

theorem Gives.decRec {s : State} {w : Who} {va : ℕ} (h : Canon s) : Gives (fun x => Canon x.2) (s.decRec w va) := by
  unfold State.decRec
  split
  · exact .error
  · next he2 => exact .ok <| .of_ok he2 (.findRec h)
  · next he2 =>
      extract_lets +onlyGivenNames _ _
      refine .ite (.ok <| .reachRec <| .of_ok he2 (.findRec h)) ?_
      extract_lets +onlyGivenNames v3
      have h3 : Canon v3 := .releaseTo <| .reachRec <| .putRec <| .of_ok he2 (.findRec h)
      refine .ite (.ok h3) <| .ok ?_
      split
      · exact .putRec h3
      · exact .enterRing <| .putRec h3

theorem Canon.moveIn {s : State} {c ck i : ℕ} (h : Canon s) : Canon (s.moveIn c ck i) := by
  unfold State.moveIn
  extract_lets +onlyGivenNames _
  split
  · exact h
  · split
    · exact h
    · next he3 =>
        extract_lets +onlyGivenNames _ _ v4
        have h4 : Canon v4 := .modCtx <| .clearPoint <| .movePoint <| .hwWrite <| .wrN <| .of_ok he3 (.clovKey h)
        exact .ite (.enterRing <| .modCore h4) <| .modCore h4

theorem Canon.freeClause {s : State} {c ck i : ℕ} (h : Canon s) : Canon (s.freeClause c ck i) :=
  .moveIn <| .modCtx <| .modCore <| .clearPoint <| .setCtl h

theorem Canon.fillGo : ∀ {s : State} {c ck n : ℕ}, Canon s → Canon (State.fillGo s c ck n)
  | _, _, _, 0, h => h
  | _, _, _, _ + 1, h => by
    unfold State.fillGo
    refine .ite h ?_
    split
    · exact .fillGo <| .moveIn h
    · exact h

theorem Canon.fillRecs {s : State} {ck : ℕ} (h : Canon s) : Canon (s.fillRecs ck) := by
  unfold State.fillRecs
  split
  · exact h
  · exact .fillGo h

theorem Canon.newRoot {s : State} (h : Canon s) : Canon s.newRoot.2 := .ite_snd (.modMyCore h) <| .modCur h

theorem CanonOut.execCnew {d a b la : ℕ} {s : State} (h : Canon s) : CanonOut (execCnew d a b la s) := by
  unfold Machine.execCnew
  extract_lets +onlyGivenNames _ _ _
  refine .ite (.next <| .trapHere h) <| .ite (.next <| .trapHere h) ?_
  extract_lets +onlyGivenNames _ make
  have hmake {t : State} (root path : ℕ) (ht : Canon t) : Canon (make t root path) := by
    unfold make
    dsimp only
    split
    · exact .setRegLa <| .retire ht
    · exact .setRegLa <| .retire <| .modCore <| .writeRec ht
  clear_value make
  split
  · exact .next <| hmake _ _ <| .newRoot <| .fillRecs h
  · refine .ite (.next <| .trapHere <| .fillRecs h) <| .next <| hmake _ _ ?_
    exact .ite (.setCtl <| .fillRecs h) <| .fillRecs h

theorem CanonOut.execCdec {a : ℕ} {s : State} (h : Canon s) : CanonOut (execCdec a s) := by
  unfold Machine.execCdec
  split
  · exact .next <| .trapHere h
  · split
    · exact .halt <| .failAcc h
    · exact .next <| .trapHere h
    · split
      · exact .halt <| .failAcc h
      · next he4 =>
          extract_lets +onlyGivenNames v5
          have h5 : Canon v5 := .retire <| .of_ok he4 (.decRec h)
          exact .next <| .ite h5 <| .addLate h5

theorem Gives.placeRec {s : State} {ck handler cnt ctl path root conj : ℕ} {args : List ℕ} (h : Canon s) :
    Gives (Maybe (fun x => Canon x.2)) (s.placeRec ck handler cnt ctl path root conj args) := by
  unfold State.placeRec
  extract_lets +onlyGivenNames _ _ _
  split
  · extract_lets +onlyGivenNames _ v3
    have h3 : Canon v3 := .releaseTo <| .reachRec <| .modCore <| .writeRec <| .fillRecs h
    exact .ok <| .some <| .ite (.enterRing h3) h3
  · split
    · exact .ok .none
    · split
      · exact .error
      · next he4 => exact .ok <| .some <| .modCtx <| .releaseTo <| .disturbKey <| .writeRec <| .of_ok he4 (.clovKey <| .fillRecs h)

theorem CanonOut.inClause {s : State} {k : ℕ → ℕ → Out} (h : Canon s) (hk : ∀ {x0 x1}, CanonOut (k x0 x1)) : CanonOut (s.inClause k) := by
  unfold State.inClause
  split
  · exact .ite hk <| .next <| .trapHere h
  · exact .next <| .trapHere h

theorem Gives.findConj {s : State} {conj : ℕ} (h : Canon s) : Gives (fun x => Canon x.2) (s.findConj conj) := .ite (.ok h) <| .findRec h

theorem CanonOut.execCspawn {w d a b la : ℕ} {s : State} (h : Canon s) : CanonOut (execCspawn w d a b la s) := by
  unfold Machine.execCspawn
  extract_lets +onlyGivenNames _
  refine .ite (.next <| .trapHere h) <| .inClause h ?_
  intro _ _
  extract_lets +onlyGivenNames _ _ _
  refine .ite (.next <| .trapHere h) ?_
  extract_lets +onlyGivenNames _ _ _
  split
  · exact .halt <| .failAcc h
  · next he2 =>
      split
      · exact .halt <| .failAcc <| .of_ok he2 (.findConj h)
      · exact .next <| .trapHere <| .of_ok he2 (.findConj h)
      · next he3 =>
          extract_lets +onlyGivenNames v4
          have h4 : Canon v4 := .setCtl <| .of_ok_some_snd he3 (.placeRec <| .of_ok he2 (.findConj h))
          refine .next <| .setRegLa <| .retire ?_
          split
          · exact .putRec h4
          · exact h4

theorem CanonOut.execCjoin {d a b la : ℕ} {s : State} (h : Canon s) : CanonOut (execCjoin d a b la s) := by
  refine .ite (.next <| .trapHere h) <| .inClause h <| .ite (.next <| .trapHere h) ?_
  dsimp only
  split
  · exact .halt <| .failAcc h
  · exact .next <| .trapHere h
  · next he2 => exact .next <| .setRegLa <| .retire <| .setCtl <| .wrN <| .of_ok_some_snd he2 (.placeRec h)

theorem Canon.clauseEnd {s : State} {i : ℕ} (h : Canon s) : Canon (s.clauseEnd i) := .freeClause <| .endCur h

theorem CanonOut.doneDec {s : State} {i k conj : ℕ} (h : Canon s) : CanonOut (s.doneDec i k conj) := by
  unfold State.doneDec
  split
  · exact .halt <| .failAcc h
  · next he2 =>
      extract_lets +onlyGivenNames v3
      have h3 : Canon v3 := .of_ok he2 (.decRec h)
      exact .ite (.next <| .clauseEnd h3) <| .next <| .trapHere <| .wrN <| .setCtl h3

theorem CanonOut.execCdone {a : ℕ} {s : State} (h : Canon s) : CanonOut (execCdone a s) := by
  refine .inClause h <| .ending h <| fun h2 => .ite (.next <| .clauseEnd h2) <| .ite (.doneDec h2) ?_
  split
  · exact .halt <| .failAcc h2
  · next he3 => exact .doneDec <| .of_ok he3 (.findRec h2)
  · next he3 =>
      refine .ite (.doneDec <| .of_ok he3 (.findRec h2)) <| .out (.check <| .of_ok he3 (.findRec h2)) <| fun h4 => ?_
      split
      · exact .halt <| .failAcc h4
      · next he5 => exact .doneDec <| .of_ok_st he5 (.writeAt h4)

theorem CanonOut.execClauseStart {core : ℕ} {s : State} (h : Canon s) : CanonOut (execClauseStart core s) := by
  unfold Machine.execClauseStart
  extract_lets +onlyGivenNames _ _ _ _ _ _
  split
  · refine .ite (.next <| .fillRecs h) ?_
    extract_lets +onlyGivenNames v4
    have h4 : Canon v4 := .wrN <| .fillRecs h
    exact .ite (.next h4) <| .next <| .syncAct <| .startAct <| .setCtl h4
  · exact .next <| .fillRecs h

theorem Canon.reportFreeze {s : State} {id : ℕ} (h : Canon s) : Canon (s.reportFreeze id) :=
  .onAct h <| fun h2 => .trapMessage <| .setWs <| .setWs h2

theorem Canon.endKilled {s : State} (h : Canon s) : Canon s.endKilled := by
  refine .ite (.modCur h) ?_
  dsimp only
  split
  · exact .freeClause <| .endCur h
  · exact .endCur h

theorem Canon.killAct {s : State} {id : ℕ} (h : Canon s) : Canon (s.killAct id) := .onAct h <| fun h2 => .endKilled h2

theorem Canon.tretOp {s : State} {id op : ℕ} (h : Canon s) : Canon (s.tretOp id op) :=
  .ite (.modWork h) <| .ite (.resume h) <| .ite (.killAct h) <| .reportFreeze h

/-! ### Home -/

theorem Maybe.takeMsg {s : State} {ev die line : ℕ} (h : Canon s) : Maybe (fun x => Canon x.2) (s.takeMsg ev die line) := by
  unfold State.takeMsg
  split
  · exact .none
  · exact .ite (.some <| .modCoh h) .none

theorem Canon.breakResv {s : State} {die line : ℕ} (h : Canon s) : Canon (s.breakResv die line) := .mapActs h
theorem Canon.wroteBack {s : State} {line : ℕ} (h : Canon s) : Canon (s.wroteBack line) := .ite (.log <| .wrN <| .draw <| .modCoh h) <| .modCoh h

theorem Canon.beginReq {s : State} {m : CohMsg} {sends : List CohMsg} {acks : ℕ} {grant : Option Bool} (h : Canon s) :
    Canon (s.beginReq m sends acks grant) :=
  .modCoh h

theorem Canon.noRequest {s : State} {m : CohMsg} (h : Canon s) : Canon (s.noRequest m) := by
  unfold State.noRequest
  split
  · exact .ite h <| .setCopy h
  · exact h

theorem Canon.serveLine {s : State} {m₀ : CohMsg} (h : Canon s) : Canon (s.serveLine m₀) := by
  refine .ite (.beginReq h) <| .ite (.ite (.noRequest h) <| .fill <| .noRequest h) <| .ite (.modCoh h) <| .ite (.ite (.noRequest h) <|
      .beginReq h) <| .ite ?_ <| .ite (.beginReq h) <| .beginReq h
  split
  · exact .beginReq h
  · exact .beginReq h

theorem Canon.waitWay {s : State} {v : ℕ} {m : CohMsg} (h : Canon s) : Canon (s.waitWay v m) := by
  unfold State.waitWay
  dsimp only
  split
  · exact .modCoh <| .modCoh h
  · exact .modCoh <| .modCoh h

theorem Canon.homeServe {s : State} {m : CohMsg} (h : Canon s) : Canon (s.homeServe m) := by
  unfold State.homeServe
  split
  · exact .waitWay h
  · exact .serveLine <| .modCoh h

theorem Canon.serveWaiter {s : State} {line : ℕ} {m : CohMsg} (h : Canon s) : Canon (s.serveWaiter line m) :=
  .ite (.homeServe h) <| .modCoh <| .homeServe <| .modCoh h

theorem Canon.serveWaiting : ∀ {s : State} {line : ℕ} {l : List CohMsg}, Canon s → Canon (State.serveWaiting s line l)
  | _, _, [], h => h
  | _, _, _ :: _, h => by
    unfold State.serveWaiting
    dsimp only
    split
    · exact .modCoh <| .serveWaiter h
    · exact .serveWaiting <| .serveWaiter h

theorem Canon.leaveLine {s : State} {line : ℕ} {first : List CohMsg} (h : Canon s) : Canon (s.leaveLine line first) := by
  unfold State.leaveLine
  split
  · exact h
  · exact .serveWaiting <| .modCoh h

theorem Canon.endReq {s : State} {line : ℕ} (h : Canon s) : Canon (s.endReq line) := .leaveLine h

theorem Canon.homeArrive {s : State} {m : CohMsg} (h : Canon s) : Canon (s.homeArrive m) := by
  unfold State.homeArrive
  split
  · exact .modCoh h
  · exact .homeServe h

theorem Canon.answer {s : State} {line : ℕ} (h : Canon s) : Canon (s.answer line) := by
  unfold State.answer
  split
  · exact h
  · refine .ite (.modCoh h) ?_
    split
    · exact .modCoh h
    · exact .leaveLine h

theorem Canon.holdLines {s : State} {p : ℕ → Bool} (h : Canon s) : Canon (s.holdLines p).2 := .modCoh h

theorem Canon.freeLines {s : State} {hs : List (ℕ × List CohMsg)} (h : Canon s) : Canon (s.freeLines hs) :=
  .foldl (fun h2 => .foldl (fun h3 => .ite (.homeArrive h3) <| .serveWaiter h3) h2) h

/-! ### Index -/

theorem Keeps.imRead {w : Who} {region : Bool} {va n : ℕ} : Keeps (imRead w region va n) := by
  unfold Machine.imRead
  refine .of fun h1 => ?_
  split
  · exact .error
  · next he2 => exact .ok <| .of_ok he2 (.engRead h1)

theorem Keeps.imWrite {w : Who} {region : Bool} {va n v : ℕ} : Keeps (imWrite w region va n v) := by
  unfold Machine.imWrite
  refine .of fun h1 => ?_
  split
  · exact .error
  · next he2 => exact .ok <| .of_ok_st he2 (.engWrite h1)

theorem Keeps.imCorrupt {α : Type} : Keeps (imCorrupt : IM α) := .of fun _ => .error
theorem Keeps.imMod {f : State → State} (hf : ∀ {x0}, Canon x0 → Canon (f x0)) : Keeps (imMod f) := .of fun h1 => .ok <| hf h1
theorem Keeps.imGet : Keeps (imGet) := .of fun h1 => .ok h1

theorem Keeps.imMap {α β : Type} {f : α → IM β} (hf : ∀ {x}, Keeps (f x)) : ∀ {xs : List α}, Keeps (imMap f xs)
  | [] => .pure
  | _ :: _ => .bind hf fun _ => .bind (.imMap hf) fun _ => .pure

theorem Keeps.ixWho {c : ℕ} {shadow : Option ℕ} {b : ℕ} : Keeps (ixWho c shadow b) := by
  unfold Machine.ixWho
  refine .of fun h1 => ?_
  dsimp only
  split
  · exact .error
  · next he2 => exact .ok <| .of_ok he2 (.engAt h1)

theorem Keeps.get {x : Ix} {off : ℕ} : Keeps (x.get off) := .imRead
theorem Keeps.put {x : Ix} {off v : ℕ} : Keeps (x.put off v) := .imWrite

theorem Keeps.ixOpen {c : ℕ} {shadow : Option ℕ} {b : ℕ} : Keeps (ixOpen c shadow b) :=
  .bind .ixWho <| fun _ => .bind .imRead <| fun _ => .bind .imRead <| fun _ => .bind .imGet <| fun _ => .ite .imCorrupt .pure

theorem Keeps.chain : ∀ {x : Ix} {n k : ℕ}, Keeps (Ix.chain x n k)
  | _, 0, _ => .imCorrupt
  | _, _ + 1, _ => by
    unfold Ix.chain
    exact .ite .imCorrupt <| .bind .imRead <| fun _ => .ite .imCorrupt <| .ite .pure <| .bind .chain <| fun _ => .pure

theorem Keeps.entry {x : Ix} {npool i : ℕ} : Keeps (x.entry npool i) :=
  .bind .imRead <| fun _ => .ite .pure <| .ite .imCorrupt <| .bind (.imMap .chain) <| fun _ => .pure

theorem Keeps.known {x : Ix} : Keeps (x.known) := by
  unfold Ix.known
  refine .bind .imGet <| fun _ => ?_
  split
  · exact .pure
  · exact .bind (.imMap <| .bind .imRead <| fun _ => .ite .pure <| .bind (.imMap .chain) <| fun _ => .pure) <| fun _ => .bind .imRead <|
      fun _ => .pure

theorem Keeps.keep {x : Ix} {k : Index} : Keeps (x.keep k) := .imMod <| fun h1 => .modCtx h1
theorem Keeps.graph {x : Ix} {k : Index} : Keeps (x.graph k) := .bind (.imMap .entry) <| fun _ => .pure
theorem Keeps.clearList {x : Ix} {j : ℕ} : Keeps (x.clearList j) := .imWrite

theorem Keeps.addEdge {x : Ix} {k : Index} {j tgt s : ℕ} : Keeps (x.addEdge k j tgt s) := by
  unfold Ix.addEdge
  refine .bind .chain <| fun _ => ?_
  dsimp only
  split
  · exact .bind (.bind .imWrite <| fun _ => .imWrite) <| fun _ => .pure
  · split
    · exact .bind .clearList <| fun _ => .bind .imWrite <| fun _ => .bind (.bind .imWrite <| fun _ => .imWrite) <| fun _ => .pure
    · exact .pure

theorem Keeps.doLink : ∀ {x : Ix} {s : ℕ} {l : List LinkOp} {b : Bool} {ix : Index}, Keeps (Ix.doLink x s l b ix)
  | _, _, [], _, _ => .pure
  | _, _, (.rem _) :: _, _, _ => by
    unfold Ix.doLink
    exact .bind .imWrite <| fun _ => .doLink
  | _, _, (.add _ _) :: _, _, _ => by
    unfold Ix.doLink
    exact .bind .addEdge <| fun _ => .doLink

theorem Keeps.holds {x : Ix} : Keeps (x.holds) := .bind .imRead <| fun _ => .pure
theorem Keeps.set {x : Ix} {off v : ℕ} : Keeps (x.set off v) := .bind .get <| fun _ => .ite .pure .put

theorem Keeps.refresh {x : Ix} {k : Index} {nlive : Option ℕ} : Keeps (x.refresh k nlive) := by
  unfold Ix.refresh
  refine .bind .get <| fun _ => .bind .get <| fun _ => .bind .holds <| fun _ => .bind .imGet <| fun _ => .bind .get <| fun _ => .bind .set <|
      fun _ => ?_
  dsimp only
  split
  · exact .bind .set <| fun _ => .bind .set <| fun _ => .bind .set <| fun _ => .bind .set <| fun _ => .keep
  · exact .bind .set <| fun _ => .bind .set <| fun _ => .bind .set <| fun _ => .keep

theorem Keeps.readVec {x : Ix} {w : Who} {va : ℕ} : Keeps (x.readVec w va) := .bind .imRead <| fun _ => .pure
theorem Keeps.imDraw : Keeps (imDraw) := .of fun h1 => .ok <| .draw h1

theorem Keeps.ixMeet {c : Cmd} : Keeps (ixMeet c) :=
  .bind .ixOpen <| fun _ => .bind .imGet <| fun _ => .ite .pure <| .bind .imDraw <| fun _ => .pure

theorem Keeps.anyWord {x : Ix} : Keeps (x.anyWord) := .bind .imDraw <| fun _ => .imRead

theorem Keeps.anyResult {x : Ix} {k : ℕ} : Keeps (x.anyResult k) :=
  .bind .imDraw <| fun _ => .bind (.imMap <| .bind .anyWord <| fun _ => .bind .anyWord <| fun _ => .bind .anyWord <| fun _ => .pure) <|
    fun _ => .bind .imDraw <| fun _ => .bind .imDraw <| fun _ => .pure

theorem Keeps.acceptUpdate {ck : ℕ} {c : Cmd} {ins : Bool} : Keeps (acceptUpdate ck c ins) :=
  .bind .imRead <| fun _ => .ite .pure <| .bind .ixMeet <| fun _ => .ite .pure <| .ite .pure <| .ite (.bind .readVec <|
    fun _ => .bind .get <| fun _ => .bind .known <| fun _ => .ite .pure <| .ite .pure <| .ite .pure <| .bind (.imMap .clearList) <|
    fun _ => .ite (.bind .imWrite <| fun _ => .bind .put <| fun _ => .bind .refresh <| fun _ => .pure) <| .bind .put <|
    fun _ => .bind .refresh <| fun _ => .pure) <| .bind .pure <| fun _ => .bind .get <| fun _ => .bind .known <| fun _ => .ite .pure <|
    .ite .pure <| .ite .pure <| .bind (.imMap .clearList) <| fun _ => .ite (.bind .imWrite <| fun _ => .bind .put <|
    fun _ => .bind .refresh <| fun _ => .pure) <| .bind .put <| fun _ => .bind .refresh <| fun _ => .pure

theorem Keeps.acceptQuery {c : Cmd} : Keeps (acceptQuery c) :=
  .bind .imRead <| fun _ => .bind .ixMeet <| fun _ => .ite .pure <| .ite .pure <| .ite .pure <| .bind .get <| fun _ => .bind .holds <|
    fun _ => .ite .pure <| .bind .readVec <| fun _ => .ite .pure .pure

theorem Keeps.writeStat {c : Cmd} : Keeps (writeStat c) := .ite .imWrite <| .ite .imWrite .imWrite

theorem Canon.asSaved {s : State} {c ck : ℕ} {f : State → State} (h : Canon s) (hf : ∀ {x0}, Canon x0 → Canon (f x0)) :
    Canon (s.asSaved c ck f) :=
  .ite (hf h) <| .modCtx <| .setActs <| .modCore <| hf <| .setActs <| .modCore h

theorem Canon.breakIndex {s : State} {c b : ℕ} (h : Canon s) : Canon (s.breakIndex c b) := by
  unfold State.breakIndex
  dsimp only
  split
  · exact .modCtx h
  · next he2 =>
      split
      · exact .of_ok he2 (.engRead <| .modCtx h)
      · next he3 => exact .of_ok_st he3 (.engWrite <| .of_ok he2 (.engRead <| .modCtx h))

theorem Canon.idxFail {s : State} {ck : ℕ} {c : Cmd} {e : IErr} (h : Canon s) : Canon (s.idxFail ck c e) := by
  unfold State.idxFail
  split
  · exact .failCmd h
  · exact .discardShadow h
  · exact .breakIndex h

theorem Keeps.releaseQuery {c b : ℕ} : Keeps (releaseQuery c b) := .bind .ixOpen <| fun _ => .ite (.bind .known <| fun _ => .refresh) .pure

theorem Canon.finishIdx {s : State} {ck : ℕ} {c : Cmd} (h : Canon s) : Canon (s.finishIdx ck c) := by
  unfold State.finishIdx
  split
  · exact .idxFail h
  · next he2 =>
      extract_lets +onlyGivenNames v3
      have h3 : Canon v3.2 := by
        unfold v3
        exact .cmdAcked <| .of_ok he2 (.ite (.ok h) <| .run .writeStat h)
      refine .ite (.modCmd h3) <| .ite (.endCmd h3) ?_
      split
      · next he4 => exact .of_ok he4 (.run .releaseQuery <| .endCmd h3)
      · exact .endCmd h3

theorem CanonOut.execIndexAccept {core seq : ℕ} {s : State} (h : Canon s) : CanonOut (execIndexAccept core seq s) := by
  unfold Machine.execIndexAccept
  split
  · exact .next h
  · refine .ite (.next h) <| .ite (.next ?_) ?_
    · split
      · exact .loseCmd h
      · exact .finishIdx h
    · split
      · exact .next <| .idxFail h
      · next he3 => exact .next <| .finishIdx <| .modCmd <| .of_ok he3 (.run (.ite .acceptQuery .acceptUpdate) h)
      · next he3 => exact .next <| .modCmd <| .of_ok he3 (.run (.ite .acceptQuery .acceptUpdate) h)

theorem Keeps.applyOp {c b : ℕ} {op : IdxOp} : Keeps (applyOp c b op) :=
  .bind .ixOpen <| fun _ => .bind .known <| fun _ => .ite (.bind .keep <| fun _ => .pure) <| .bind .graph <| fun _ => .ite (.bind .doLink <|
    fun _ => .bind .imWrite <| fun _ => .bind .put <| fun _ => .bind .refresh <| fun _ => .pure) <| .bind (.imMap .imWrite) <|
    fun _ => .bind .put <| fun _ => .bind .refresh <| fun _ => .pure

theorem Canon.idxFault {s : State} {ctx base : ℕ} {e : IErr} (h : Canon s) : Canon (s.idxFault ctx base e) := by
  unfold State.idxFault
  split
  · exact .breakIndex h
  · exact .ite h <| .modCtx <| .faultRecords <| .openGroup h
  · exact .freeze <| .log h
  · exact h

theorem CanonOut.execIndexApply {ctx base : ℕ} {s : State} (h : Canon s) : CanonOut (execIndexApply ctx base s) := by
  unfold Machine.execIndexApply
  dsimp only
  split
  · exact .next h
  · refine .ite (.next h) ?_
    split
    · refine .next ?_
      split
      · exact .asSaved h <| fun h5 => .idxFail h5
      · exact .idxFault h
    · next he3 =>
        refine .next ?_
        split
        · exact .of_ok he3 (.run .applyOp h)
        · exact .asSaved (.of_ok he3 (.run .applyOp h)) <| fun h5 => .finishIdx <| .modCmd h5

theorem Keeps.runQuery {c : Cmd} : Keeps (runQuery c) :=
  .bind .ixOpen <| fun _ => .ite .pure <| .bind .known <| fun _ => .bind .graph <| fun _ => .ite (.bind .anyResult <|
    fun _ => .bind .imWrite <| fun _ => .pure) <| .bind .pure <| fun _ => .bind .imWrite <| fun _ => .pure

theorem CanonOut.execNloadComplete {core seq : ℕ} {s : State} (h : Canon s) : CanonOut (execNloadComplete core seq s) := by
  unfold Machine.execNloadComplete
  split
  · exact .next h
  · refine .ite (.next h) ?_
    split
    · exact .next <| .idxFail h
    · next he3 => exact .next <| .finishIdx <| .modCmd <| .of_ok he3 (.run .runQuery h)

theorem Keeps.reclaim {c b : ℕ} : Keeps (reclaim c b) :=
  .bind .ixOpen <| fun _ => .ite .pure <| .bind .known <| fun _ => .bind .refresh <| fun _ => .bind .get <| fun _ => .bind .graph <|
    fun _ => .bind (.imMap <| .bind (.imMap .chain) <| fun _ => .bind .imWrite <| fun _ => .pure) <| fun _ => .bind (.imMap <| .imMap <|
    .bind .chain <| fun _ => .imMap <| .bind (.imMap .imWrite) <| fun _ => .ite .pure .imWrite) <| fun _ => .refresh

theorem CanonOut.execIndexReclaim {ctx base : ℕ} {s : State} (h : Canon s) : CanonOut (execIndexReclaim ctx base s) := by
  refine .ite (.next h) ?_
  split
  · next he2 => exact .next <| .of_ok he2 (.run .reclaim h)
  · exact .next <| .idxFault h

theorem CanonOut.issueIdx {s : State} {d a b q op align : ℕ} (h : Canon s) : CanonOut (s.issueIdx d a b q op align) :=
  .ite (.next <| .impure h) <| .ite (.next h) <| .ite (.next <| .trapHere h) <| .ite (.next <| .trapHere h) <| .ite (.next <| .trapHere h) <|
    .enqueue h

theorem CanonOut.execNload {d a b q la : ℕ} {s : State} (h : Canon s) : CanonOut (execNload d a b q la s) := .issueIdx h
theorem CanonOut.execNstore {d a b q la : ℕ} {s : State} (h : Canon s) : CanonOut (execNstore d a b q la s) := .issueIdx h
theorem CanonOut.execNdel {d a b q la : ℕ} {s : State} (h : Canon s) : CanonOut (execNdel d a b q la s) := .issueIdx h

theorem CanonOut.idxForm {s : State} {d la base : ℕ} {p : IM ℕ} (h : Canon s) (h1 : Keeps p) : CanonOut (s.idxForm d la base p) := by
  unfold State.idxForm
  split
  · next he3 => exact .next <| .setRegLa <| .retire <| .of_ok he3 (.run h1 h)
  · refine .next ?_
    split
    · exact .discardShadow h
    · exact .breakIndex h
  · exact .halt <| .failAcc h

theorem CanonOut.withBase {s : State} {a : ℕ} {k : ℕ → Out} (h : Canon s) (hk : ∀ {x0}, CanonOut (k x0)) : CanonOut (s.withBase a k) :=
  .ite (.next <| .trapHere h) hk

theorem Keeps.ixMapOk {x : Ix} {l : List ℕ} : Keeps (Machine.ixMapOk x l) := by
  induction l with
  | nil => exact .pure
  | cons i l ih =>
    -- The equation lemmas of `ixMapOk` are costly to derive: the call is reduced in place.
    conv => arg 1; whnf
    refine .of fun h => ?_
    extract_lets +onlyGivenNames va
    split
    · next he => exact .ite (.ok <| .of_snd he (.translate h)) .error
    · next he =>
      extract_lets +onlyGivenNames want
      exact .ite (.ok <| .of_snd he (.translate h)) <| .map (fun h3 => h3) <| .run ih <| .of_snd he (.translate h)

theorem Keeps.ixCtl {x : Ix} : Keeps (ixCtl x) := by
  conv => arg 1; whnf
  refine .of fun {s} h => ?_
  have hread := (Keeps.imRead (w := x.w) (region := true) (va := x.b + 0x40) (n := 8)).run_gives h
  split
  · exact .ite (.ok h) .error
  · exact hread

theorem Keeps.initIx {c : ℕ} {w : Who} {b tpl : ℕ} : Keeps (initIx c w b tpl) :=
  .bind .imRead <| fun _ => .ite .pure <| .ite .pure <| .bind .ixCtl <| fun _ => .ite .pure <| .bind .ixMapOk <| fun _ => .ite .pure <|
    .bind .ixWho <| fun _ => .bind .imWrite <| fun _ => .bind .imWrite <| fun _ => .bind .keep <| fun _ => .pure

theorem CanonOut.execNinit {d a b la : ℕ} {s : State} (h : Canon s) : CanonOut (execNinit d a b la s) :=
  .ite (.next <| .impure h) <| .withBase h <| .ite (.next <| .trapHere h) <| .idxForm h .initIx

theorem Keeps.takeHold {c b : ℕ} : Keeps (takeHold c b) := by
  unfold Machine.takeHold
  refine .bind .ixOpen <| fun _ => .ite .pure <| .bind .holds <| fun _ => ?_
  split
  · exact .pure
  · exact .bind .get <| fun _ => .bind .imWrite <| fun _ => .bind .known <| fun _ => .bind .refresh <| fun _ => .pure

theorem CanonOut.execNsnap {d a la : ℕ} {s : State} (h : Canon s) : CanonOut (execNsnap d a la s) :=
  .ite (.next <| .impure h) <| .withBase h <| .idxForm h .takeHold

theorem Keeps.dropHold {c b h : ℕ} : Keeps (dropHold c b h) :=
  .bind .ixOpen <| fun _ => .ite .pure <| .bind .holds <| fun _ => .ite .pure <| .bind .imWrite <| fun _ => .bind .known <|
    fun _ => .bind .refresh <| fun _ => .pure

theorem CanonOut.execNsnapRel {d a b la : ℕ} {s : State} (h : Canon s) : CanonOut (execNsnapRel d a b la s) :=
  .ite (.next <| .impure h) <| .withBase h <| .idxForm h .dropHold

theorem Keeps.dropHolds {c b : ℕ} : Keeps (dropHolds c b) :=
  .bind .ixOpen <| fun _ => .ite .pure <| .bind .imWrite <| fun _ => .bind .known <| fun _ => .refresh

theorem Keeps.freeIx {c b : ℕ} : Keeps (freeIx c b) :=
  .bind .ixOpen <| fun _ => .ite .pure <| .bind .holds <| fun _ => .bind .imGet <| fun _ => .ite .pure <| .bind .get <|
    fun _ => .bind .put <| fun _ => .bind (.imMod <| fun h1 => .modCtx h1) <| fun _ => .pure

theorem CanonOut.execNfree {d a la : ℕ} {s : State} (h : Canon s) : CanonOut (execNfree d a la s) :=
  .ite (.next <| .impure h) <| .withBase h <| .idxForm h .freeIx

theorem Keeps.statIx {c : ℕ} {shadow : Option ℕ} {b q : ℕ} : Keeps (statIx c shadow b q) :=
  .bind .ixOpen <| fun _ => .ite .pure <| .ite .get <| .ite .get <| .ite (.bind .get <| fun _ => .pure) <| .ite .get .get

theorem CanonOut.execNstat {d a q la : ℕ} {s : State} (h : Canon s) : CanonOut (execNstat d a q la s) := .withBase h <| .idxForm h .statIx

/-! ### Pipe -/

theorem Canon.setPipe {s : State} {key : ℕ} {p : Pipe} (h : Canon s) : Canon (s.setPipe key p) := .modWork h

theorem Canon.startFill {s : State} {d q key src count : ℕ} {p : Pipe} {k : ℕ} (h : Canon s) : Canon (s.startFill d q key src count p k) :=
  .setReg <| .retire <| .modMyCore h

theorem Canon.endTake {s : State} {d v : ℕ} (h : Canon s) : Canon (s.endTake d v) := .goOn <| .setReg <| .retire h

theorem Canon.pacqGot : ∀ {s : State} {d key : ℕ} {producer : Bool} {p : Pipe} {tk : Take}, Canon s → Canon (State.pacqGot s d key producer p tk)
  | _, _, _, _, _, .zero, h => .endTake h
  | _, _, _, _, _, .wait, h => h
  | _, _, _, _, _, .slot _, h => .syncAt <| .endTake <| .setPipe h

theorem Canon.pfillGot : ∀ {s : State} {d q key src count : ℕ} {p : Pipe} {tk : Take}, Canon s → Canon (State.pfillGot s d q key src count p tk)
  | _, _, _, _, _, _, _, .zero, h => .endTake h
  | _, _, _, _, _, _, _, .wait, h => h
  | _, _, _, _, _, _, _, .slot _, h => .ite h <| .startFill <| .goOn <| .setPipe h

theorem Canon.serveOne {s : State} {key : ℕ} {producer : Bool} (h : Canon s) : Canon (s.serveOne key producer) := by
  unfold State.serveOne
  split
  · exact h
  · split
    · exact h
    · refine .onAct h <| fun h4 => ?_
      split
      · exact .pacqGot h4
      · exact .pfillGot h4
      · exact h4

theorem Canon.servePipe : ∀ {s : State} {key n : ℕ}, Canon s → Canon (State.servePipe s key n)
  | _, _, 0, h => h
  | _, _, _ + 1, h => by
    unfold State.servePipe
    exact .servePipe <| .serveOne <| .serveOne h

theorem Canon.serve {s : State} {key : ℕ} (h : Canon s) : Canon (s.serve key) := .servePipe h

theorem CanonOut.withPipe {s : State} {a : ℕ} {fill : Bool} {sub34 : Pipe → Bool → Option (ℕ × ℕ)} {k : ℕ → Pipe → Bool → State → Out}
    (h : Canon s) (hk : ∀ {x0 x1 x2 x3}, Canon x3 → CanonOut (k x0 x1 x2 x3)) : CanonOut (s.withPipe a fill sub34 k) := by
  unfold State.withPipe
  dsimp only
  split
  · exact .next <| .trapHere h
  · split
    · exact .next <| .trapHere h
    · refine .ite (.next <| .trapHere h) <| .ite (.next <| .trapHere h) ?_
      split
      · exact .next <| .trapHere h
      · exact .ite (.next <| .trapHere h) <| hk h

theorem CanonOut.execPacq {d a nw : ℕ} {s : State} (h : Canon s) : CanonOut (execPacq d a nw s) := by
  refine .withPipe h <| fun h2 => ?_
  dsimp only
  split
  · exact .ite (.put <| .serve h2) <| .next <| .block <| .serve h2
  · exact .next <| .pacqGot <| .serve h2

theorem CanonOut.execPrel {a b : ℕ} {s : State} (h : Canon s) : CanonOut (execPrel a b s) := by
  unfold Machine.execPrel
  exact .withPipe h <| fun h2 => .next <| .retire <| .releaseTo <| .setPipe h2

theorem CanonOut.execPfill {d a b q : ℕ} {s : State} (h : Canon s) : CanonOut (execPfill d a b q s) := by
  unfold Machine.execPfill
  refine .withPipe h <| fun h2 => ?_
  dsimp only
  split
  · exact .next <| .block <| .serve h2
  · exact .next <| .pfillGot <| .serve h2

/-! ### Kernel -/

theorem Gives.qRead {s : State} {c kind va n : ℕ} (h : Canon s) : Gives (fun x => Canon x.2) (s.qRead c kind va n) := by
  refine .ite .error ?_
  split
  · exact .error
  · next he2 => exact .ok <| .of_ok he2 (.engRead h)

theorem Gives.qWrite {s : State} {c va n v : ℕ} {l : Option LaunchId} (h : Canon s) : Gives Canon (s.qWrite c va n v l) := by
  refine .ite .error ?_
  split
  · exact .error
  · next he2 => exact .ok <| .of_ok_st he2 (.engWrite h)

end Sys2Proof.Machine
end

section
/-!
SUPPORT. Copies, the matrix unit, the placing of groups, shadows, queues and pages (07, 09, 12, 16, 17, 23): each function keeps memory
canonical.
-/

namespace Sys2Proof.Machine

/-! ### Copy -/

theorem Gives.copyUnit {s : State} {w : Who} {dst src off rem : ℕ} (h : Canon s) : Gives (fun x => Canon x.1) (s.copyUnit w dst src off rem) := by
  unfold State.copyUnit
  split
  · exact .error
  · exact .error
  · dsimp only
    split
    · exact .error
    · next he4 =>
        split
        · exact .error
        · next he5 => exact .ok <| .of_ok_st he5 (.engWrite <| .of_ok he4 (.engRead h))

theorem Gives.copyRecord {s : State} {w : Who} {dst src idx recb : ℕ} {stride : ℤ} {p lim : ℕ} (h : Canon s) : Gives (fun x => Canon x.1)
    (s.copyRecord w dst src idx recb stride p lim) := by
  unfold State.copyRecord
  dsimp only
  split
  · exact .error
  · split
    · exact .error
    · next he3 =>
        split
        · exact .error
        · exact .error
        · exact .copyUnit <| .of_ok he3 (.engRead h)

theorem Gives.readBlock : ∀ {s : State} {w : Who} {m : List ℕ} {i0 : ℕ} {rest : List ℕ} {n : ℕ}, Canon s → Gives (fun x => Canon x.2)
    (State.readBlock s w m i0 rest n)
  | _, _, _, _, _, 0, h => .ok h
  | _, _, _, _, _, _ + 1, h => by
    unfold State.readBlock
    split
    · exact .error
    · next he1 =>
        split
        · exact .error
        · next he2 => exact .ok <| .of_ok he2 (.engMapElem <| .of_ok he1 (.readBlock h))
        · next he2 => exact .ok <| .of_ok he2 (.engMapElem <| .of_ok he1 (.readBlock h))

theorem Gives.writeBlock : ∀ {s : State} {w : Who} {m : List ℕ} {i0 : ℕ} {rest : List ℕ} {l : List (ℕ × ℕ)}, Canon s →
    Gives Canon (State.writeBlock s w m i0 rest l)
  | _, _, _, _, _, [], h => .ok h
  | _, _, _, _, _, (_, _) :: _, h => by
    unfold State.writeBlock
    split
    · exact .error
    · split
      · exact .error
      · next he2 => exact .writeBlock <| .of_ok_st he2 (.engPutElem h)

theorem Gives.copyTensor {s : State} {c : Cmd} {w : Who} {dm sm : List ℕ} {m mi p : ℕ} (h : Canon s) : Gives (fun x => Canon x.1)
    (s.copyTensor c w dm sm m mi p) := by
  unfold State.copyTensor
  dsimp only
  split
  · exact .error
  · next he2 =>
      split
      · exact .error
      · next he3 =>
          split
          · exact .ok <| .of_ok_st he3 (.writeBlock <| .of_ok he2 (.readBlock h))
          · split
            · exact .error
            · next he5 => exact .ok <| .of_ok_st he5 (.engWrite <| .of_ok_st he3 (.writeBlock <| .of_ok he2 (.readBlock h)))

theorem Gives.copyStep {c : Cmd} {s : State} {p lim : ℕ} (h : Canon s) : Gives (fun x => Canon x.1) (State.copyStep c s p lim) :=
  .ite (.map (fun h2 => h2) <| .copyTensor h) <| .map (fun h2 => h2) <| .ite (.copyRecord h) <| .copyUnit h

theorem CanonRun.copyRun : ∀ {c : Cmd} {lim n : ℕ} {s : State} {k j : ℕ}, Canon s → CanonRun (State.copyRun c lim n s k j)
  | _, _, 0, _, _, _, h => .mk h
  | _, _, _ + 1, _, _, _, h => by
    unfold State.copyRun
    refine .ite (.mk h) ?_
    split
    · exact .mk h
    · next he1 => exact .copyRun <| .of_ok_fst he1 (.copyStep h)

theorem CanonRun.copyStuck : ∀ {c : Cmd} {l : List (ℕ × ℕ)} {s : State} {n : ℕ}, Canon s → CanonRun (State.copyStuck c l s n)
  | _, [], _, _, h => .mk h
  | _, _ :: _, _, _, h => by
    unfold State.copyStuck
    exact .ite (.mk <| .runS <| .copyRun h) <| .copyStuck <| .runS <| .copyRun h

theorem CanonRun.runCopy {s : State} {c : Cmd} (h : Canon s) : CanonRun (s.runCopy c) := by
  unfold State.runCopy
  extract_lets +onlyGivenNames v2
  have h2 : CanonRun v2 := by
    unfold v2
    exact .ite (.mk h) <| .copyStuck h
  refine .ite (.mk <| .runS h2) ?_
  extract_lets +onlyGivenNames v3
  have h3 : CanonRun v3 := by
    unfold v3
    exact .copyRun <| .runS h2
  split
  · exact .mk <| .runS h3
  · exact .mk <| .runS h3

theorem CanonOut.execCopyCommandComplete {core seq : ℕ} {s : State} (h : Canon s) : CanonOut (execCopyCommandComplete core seq s) := by
  unfold Machine.execCopyCommandComplete
  split
  · exact .next h
  · refine .ite (.next h) ?_
    split
    · exact .next <| .loseCmd h
    · extract_lets +onlyGivenNames _ _ v4
      have h4 : Canon v4 := .modCmd <| .runS <| .runCopy h
      split
      · exact .ite (.next h4) <| .next <| .ite (.endCmd <| .fillSlot <| .cmdAcked h4) <| .cmdAcked h4
      · exact .next <| .cmdFailed <| .failCmd h4

theorem CanonOut.issueCopy {s : State} {d : ℕ} {c : Cmd} {empty : Bool} (h : Canon s) : CanonOut (s.issueCopy d c empty) := by
  refine .ite ?_ <| .enqueue h
  exact .next <| .endCmd <| .setReg <| .retire <| .modMyCore h

theorem CanonOut.execCpy {d a b q la : ℕ} {s : State} (h : Canon s) : CanonOut (execCpy d a b q la s) :=
  .ite (.next h) <| .ite (.next <| .trapHere h) <| .issueCopy h

theorem CanonOut.execCpyt {d a b q la : ℕ} {s : State} (h : Canon s) : CanonOut (execCpyt d a b q la s) := by
  refine .ite (.next h) <| .ite (.next <| .trapHere h) ?_
  split
  · exact .fault
  · next he2 => exact .next <| .of_stop he2 (.bind (.loadWords h) <| fun h2 => .bind (.loadWords h2) <| fun h3 => .ok h3)
  · next he2 =>
      exact .ite (.next <| .trapFree <| .of_res he2 (.bind (.loadWords h) <| fun h2 => .bind (.loadWords h2) <| fun h3 => .ok h3)) <|
          .ite (.next <| .trapFree <| .of_res he2 (.bind (.loadWords h) <| fun h2 => .bind (.loadWords h2) <| fun h3 => .ok h3)) <|
          .issueCopy <| .of_res he2 (.bind (.loadWords h) <| fun h2 => .bind (.loadWords h2) <| fun h3 => .ok h3)

theorem CanonOut.execCpyg {d a b q la : ℕ} {s : State} (h : Canon s) : CanonOut (execCpyg d a b q la s) := by
  refine .ite (.next h) ?_
  split
  · exact .fault
  · next he2 => exact .next <| .of_stop he2 (.bind (.load h) <| fun h2 => .bind (.loadWords h2) <| fun h3 => .ok h3)
  · next he2 =>
      exact .ite (.next <| .trapHere <| .of_res he2 (.bind (.load h) <| fun h2 => .bind (.loadWords h2) <| fun h3 => .ok h3)) <|
          .ite (.next <| .trapHere <| .of_res he2 (.bind (.load h) <| fun h2 => .bind (.loadWords h2) <| fun h3 => .ok h3)) <| .issueCopy <|
          .of_res he2 (.bind (.load h) <| fun h2 => .bind (.loadWords h2) <| fun h3 => .ok h3)

/-! ### Matrix -/

theorem CanonOut.issueMatrix {s : State} {d op : ℕ} {args : List ℕ} (h : Canon s) : CanonOut (s.issueMatrix d op args) := .enqueue h

theorem CanonOut.withMap {s : State} {op ctl a : ℕ} {cls sp : Bool} {k : List ℕ → State → Out} (h : Canon s)
    (hk : ∀ {x0 x1}, Canon x1 → CanonOut (k x0 x1)) : CanonOut (s.withMap op ctl a cls sp k) :=
  .ite (.next <| .trapHere h) <| .ite (.next <| .trapHere h) <| .out (.loadWords h) <| fun h2 => .ite (.next <| .trapHere h2) <|
    .ite (.next <| .trapHere h2) <| .ite (.next <| .trapHere h2) <| hk h2

theorem CanonOut.execMloads {d a b la : ℕ} {s : State} (h : Canon s) : CanonOut (execMloads d a b la s) :=
  .ite (.next h) <| .withMap h <| fun h2 => .issueMatrix <| .modMyCore h2

theorem CanonOut.execMswap {d la : ℕ} {s : State} (h : Canon s) : CanonOut (execMswap d la s) := .ite (.next h) <| .issueMatrix <| .modMyCore h

theorem CanonOut.execMstream {d a b acc la : ℕ} {s : State} (h : Canon s) : CanonOut (execMstream d a b acc la s) :=
  .ite (.next h) <| .withMap h <| fun h2 => .ite (.next <| .trapHere h2) <| .ite (.next <| .trapHere h2) <| .ite (.next <| .trapHere h2) <|
    .ite (.next <| .trapHere h2) <| .ite (.next <| .trapHere h2) <| .issueMatrix h2

theorem CanonOut.execMzero {d acc la : ℕ} {s : State} (h : Canon s) : CanonOut (execMzero d acc la s) := .ite (.next h) <| .issueMatrix h

theorem CanonOut.execMscale {d acc la : ℕ} {s : State} (h : Canon s) : CanonOut (execMscale d acc la s) :=
  .ite (.next h) <| .ite (.next <| .trapHere h) <| .issueMatrix h

theorem CanonOut.execMstore {d a b acc la : ℕ} {s : State} (h : Canon s) : CanonOut (execMstore d a b acc la s) :=
  .ite (.next h) <| .withMap h <| fun h2 => .ite (.next <| .trapHere h2) <| .issueMatrix h2

theorem Canon.drawImages : ∀ {s : State} {n : ℕ}, Canon s → Canon (State.drawImages s n).2
  | _, 0, h => h
  | _, _ + 1, h => by
    unfold State.drawImages
    exact .drawImages <| .draw h

theorem CanonOut.execMread {d a acc la : ℕ} {s : State} (h : Canon s) : CanonOut (execMread d a acc la s) := by
  refine .ite (.next <| .trapHere h) ?_
  split
  · exact .next <| .trapHere h
  · exact .putVec <| .ite_snd (.drawImages h) h

theorem CanonOut.execMweight {imm : ℕ} {s : State} (h : Canon s) : CanonOut (execMweight imm s) := .next <| .retire <| .modMyCore h
theorem CanonOut.execMstat {d : ℕ} {s : State} (h : Canon s) : CanonOut (execMstat d s) := .put h

theorem Gives.readNibble {s : State} {w : Who} {all : Bool} {nib n : ℕ} (h : Canon s) : Gives (fun x => Canon x.2)
    (s.readNibble w all nib n) := by
  unfold State.readNibble
  split
  · exact .error
  · next he2 => exact .ite .error <| .ok <| .of_ok he2 (.engRead h)

theorem Gives.readNibbles : ∀ {w : Who} {all : Bool} {nib half : ℕ} {l : List (ℕ × ℕ)} {s : State}, Canon s → Gives (fun x => Canon x.2)
    (State.readNibbles w all nib half l s)
  | _, _, _, _, [], _, h => .ok h
  | _, _, _, _, (_, _) :: _, _, h => by
    unfold State.readNibbles
    split
    · exact .error
    · next he1 =>
        split
        · exact .error
        · next he2 => exact .ok <| .of_ok he2 (.readNibbles <| .of_ok he1 (.readNibble h))

theorem Gives.readStored : ∀ {w : Who} {m cs : List ℕ} {sp : Bool} {sel : FMap ℕ} {l : List (ℕ × ℕ)} {s : State}, Canon s →
    Gives (fun x => Canon x.2.2) (State.readStored w m cs sp sel l s)
  | _, _, _, _, _, [], _, h => .ok h
  | _, _, _, _, _, (_, _) :: _, _, h => by
    unfold State.readStored
    dsimp only
    split
    · exact .error
    · next he1 => exact .readStored <| .of_ok he1 (.engMapElem h)
    · next he1 =>
        split
        · exact .error
        · next he2 => exact .ok <| .of_ok_snd he2 (.readStored <| .of_ok he1 (.engMapElem h))

theorem Gives.loadPlane {s : State} {w : Who} {all : Bool} {m : List ℕ} {ctl nib : ℕ} (h : Canon s) : Gives (fun x => Canon x.2)
    (s.loadPlane w all m ctl nib) := by
  unfold State.loadPlane
  dsimp only
  split
  · exact .error
  · next he2 =>
      split
      · exact .error
      · next he3 => exact .ok <| .of_ok_snd he3 (.readStored <| .of_ok he2 (.readNibbles h))

theorem Gives.readRow : ∀ {w : Who} {m cs : List ℕ} {r : ℕ} {l : List ℕ} {s : State}, Canon s → Gives (fun x => Canon x.2)
    (State.readRow w m cs r l s)
  | _, _, _, _, [], _, h => .ok h
  | _, _, _, _, _ :: _, _, h => by
    unfold State.readRow
    dsimp only
    split
    · exact .error
    · next he1 => exact .readRow <| .of_ok he1 (.engMapElem h)
    · next he1 =>
        split
        · exact .error
        · next he2 => exact .ok <| .of_ok he2 (.readRow <| .of_ok he1 (.engMapElem h))

theorem Gives.readRows : ∀ {w : Who} {m cs js l : List ℕ} {s : State}, Canon s → Gives (fun x => Canon x.2) (State.readRows w m cs js l s)
  | _, _, _, _, [], _, h => .ok h
  | _, _, _, _, _ :: _, _, h => by
    unfold State.readRows
    split
    · exact .error
    · next he1 =>
        split
        · exact .error
        · next he2 => exact .ok <| .of_ok he2 (.readRows <| .of_ok he1 (.readRow h))

theorem Gives.storeUnit {s : State} {c : Cmd} {w : Who} {m : List ℕ} {ctl mask acc rm u : ℕ} (h : Canon s) : Gives (fun x => Canon x.1)
    (s.storeUnit c w m ctl mask acc rm u) := by
  refine .ite (.ok h) <| .ite (.ok h) ?_
  dsimp only
  split
  · exact .error
  · next he2 =>
      split
      · exact .ok <| .of_ok_st he2 (.writeBlock h)
      · split
        · exact .error
        · next he4 => exact .ok <| .of_ok_st he4 (.engWrite <| .of_ok_st he2 (.writeBlock h))

theorem CanonMRun.storeUnits : ∀ {c : Cmd} {w : Who} {m : List ℕ} {ctl mask acc rm total n : ℕ} {s : State} {k j : ℕ}, Canon s →
    CanonMRun (State.storeUnits c w m ctl mask acc rm total n s k j)
  | _, _, _, _, _, _, _, _, 0, _, _, _, h => .mk h
  | _, _, _, _, _, _, _, _, _ + 1, _, _, _, h => by
    unfold State.storeUnits
    refine .ite (.mk h) ?_
    split
    · exact .mk h
    · next he1 => exact .storeUnits <| .of_ok_fst he1 (.storeUnit h)

theorem CanonMRun.runStream {s : State} {ck : ℕ} {c : Cmd} (h : Canon s) : CanonMRun (s.runStream ck c) := by
  refine .ite (.mk h) <| .ite (.mk h) ?_
  dsimp only
  split
  · exact .mk h
  · next he2 => exact .mk <| .modCore <| .of_ok he2 (.readRows h)

theorem CanonMRun.runMatrix {s : State} {ck : ℕ} {c : Cmd} (h : Canon s) : CanonMRun (s.runMatrix ck c) := by
  refine .ite ?_ <| .ite (.mk <| .modCore h) <| .ite (.runStream h) <| .ite (.mk <| .modCore h) <| .ite (.mk <| .modCore h) <| .storeUnits h
  split
  · exact .mk h
  · next he2 => exact .mk <| .modCore <| .of_ok he2 (.loadPlane h)

theorem Canon.endVisit {s : State} {ck : ℕ} (h : Canon s) : Canon (s.endVisit ck) := .ite h <| .modCluster h

theorem CanonOut.execMatrixCommandComplete {core : ℕ} {s : State} (h : Canon s) : CanonOut (execMatrixCommandComplete core s) := by
  unfold Machine.execMatrixCommandComplete
  split
  · exact .next h
  · refine .ite (.next h) ?_
    split
    · exact .next <| .endVisit <| .loseCmd h
    · extract_lets +onlyGivenNames _ _ _ v4
      have h4 : Canon v4 := .modCmd <| .mrunS <| .runMatrix h
      split
      · extract_lets +onlyGivenNames v6
        have h6 : Canon v6.2 := by
          unfold v6
          exact .ite_snd (.cmdAcked h4) h4
        exact .next <| .ite (.endVisit <| .endCmd h6) h6
      · exact .next <| .endVisit <| .cmdFailed <| .failCmd h4

theorem CanonOut.execArrayGrant {cluster : ℕ} {s : State} (h : Canon s) : CanonOut (execArrayGrant cluster s) := by
  refine .ite (.next h) ?_
  split
  · exact .next h
  · exact .next <| .modCluster <| .modCmd h

theorem Canon.mixFetch : ∀ {s : State} {olds : List (FMap ℕ)} {f : FMap ℕ}, Canon s → Canon (State.mixFetch s olds f).2
  | _, _, [], h => h
  | _, _, (_, _) :: _, h => by
    unfold State.mixFetch
    exact .mixFetch <| .ite_snd h <| .draw h

theorem CanonOut.execPlaneRefetch {core plane : ℕ} {s : State} (h : Canon s) : CanonOut (execPlaneRefetch core plane s) := by
  unfold Machine.execPlaneRefetch
  extract_lets +onlyGivenNames _ _ _
  refine .ite (.next h) ?_
  extract_lets +onlyGivenNames _ _ _
  split
  · next he2 =>
      extract_lets +onlyGivenNames _ _ v3
      have h3 : Canon v3.2 := by
        unfold v3
        exact .mixFetch <| .mixFetch <| .of_ok he2 (.loadPlane h)
      dsimp only
      split
      · exact .next <| .modCore <| .mixFetch h3
      · exact .next <| .modCore <| .mixFetch h3
  · exact .ite (.next h) <| .next <| .modCtx <| .faultRecords <| .openGroup h
  · exact .next <| .freeze <| .log <| .modCore h
  · exact .next <| .modCore h
  · exact .next h
  · exact .next <| .askLine h
  · exact .next h
  · exact .next h
  · exact .next <| .ite h <| .log <| .modCore h

/-! ### Place -/

theorem Gives.writeArg {s : State} {l : Launch} {j : ℕ} (h : Canon s) : Gives Canon (s.writeArg l j) := .qWrite h

theorem Canon.startThreads {s : State} {l : Launch} {g : Group} (h : Canon s) : Canon (s.startThreads l g) :=
  .foldl (fun h2 => .syncAct <| .startAct h2) <| .foldl (fun h2 => .modCore h2) h

theorem Canon.endShadowsAt {s : State} {g : Group} (h : Canon s) : Canon (s.endShadowsAt g) := by
  refine .foldl (fun h2 => ?_) h
  split
  · exact .discardShadow h2
  · exact h2

theorem Canon.placeGroup {s : State} {l : Launch} {g : Group} (h : Canon s) : Canon (s.placeGroup l g) :=
  .foldl (fun h2 => .modCore h2) <| .modWork <| .setBar <| .endShadowsAt h

theorem Canon.startHeld {s : State} {l : Launch} {gs : List Group} (h : Canon s) : Canon (s.startHeld l gs) :=
  .ite (.foldl (fun h2 => .startThreads <| .modWork h2) h) h

theorem Canon.placePipes {s : State} {l : Launch} {g : ℕ} {ps : List (ℕ × ℕ)} (h : Canon s) : Canon (s.placePipes l g ps) :=
  .foldl (fun h2 => .setPipe h2) h

theorem Canon.placeInstance {s : State} {l : Launch} {g : ℕ} {at_ : ℕ × ℕ} {ps : List (ℕ × ℕ)} {pos : ℕ} {shadow : Option ℕ} (h : Canon s) :
    Canon (s.placeInstance l g at_ ps pos shadow) := by
  unfold State.placeInstance
  extract_lets +onlyGivenNames _ _ v2
  have h2 : Canon v2 := .startHeld <| .foldl (fun h2 => .placeGroup h2) <| .placePipes h
  exact .ite h2 <| .mapLaunches h2

theorem Memory.zeros_wf {α : Type} {lo hi : α → ℕ} {rs : List α} {m : List Host.Cell} (h : Memory.wf m = true) :
    Memory.wf (rs.foldl (fun m r => Memory.zero m (lo r) (hi r)) m) = true := by
  induction rs generalizing m with
  | nil => exact h
  | cons r rs ih => exact ih (Memory.zero_wf _ _ _ h)

theorem Canon.clearRanges {s : State} {rs : List (ℕ × ℕ)} (h : Canon s) : Canon (s.clearRanges rs) := .setMem <| Memory.zeros_wf h

theorem Canon.removeActs {s : State} {ids : List ℕ} (h : Canon s) : Canon (s.removeActs ids) := .ite (.modCur <| .setActs h) <| .setActs h

theorem Canon.swapGroupOut {s : State} {l : Launch} {g : Group} {at_ : ℕ × ℕ} (h : Canon s) : Canon (s.swapGroupOut l g at_) :=
  .mapGroups <| .writeImage <| .removeActs h

theorem Canon.clearFor {s : State} {gs : List Group} (h : Canon s) : Canon (s.clearFor gs) := by
  unfold State.clearFor
  extract_lets +onlyGivenNames v2
  have h2 : Canon v2 := .foldl (fun h2 => .endShadowsAt h2) h
  split
  · exact h2
  · refine .ite h2 <| .foldl (fun h3 => ?_) h2
    split
    · exact .discardShadow h3
    · exact h3

theorem Canon.reserveFor {s : State} {g : Group} (h : Canon s) : Canon (s.reserveFor g) := .foldl (fun h2 => .modCore h2) h

theorem Canon.swapGroupIn {s : State} {l : Launch} {g : Group} (h : Canon s) : Canon (s.swapGroupIn l g) :=
  .foldl (fun h2 => .tretOp h2) <| .foldl (fun h2 => .onAct h2 <| fun h3 => .ite (.trapHere h3) <| .goOn h3) <| .mapGroups <| .setBar <|
    .foldl (fun h2 => .modCore h2) <| .foldl (fun h2 => .setActs h2) <| .foldl (fun h2 => .wrN h2) <| .clearRanges <| .endShadowsAt h

theorem Canon.bringIn {s : State} {l : Launch} {j g : ℕ} (h : Canon s) : Canon (s.bringIn l j g) :=
  .ite (.mapLaunches <| .foldl (fun h2 => .swapGroupIn h2) <| .clearFor h) <| .mapLaunches <| .mapLaunches <| .placeInstance h

theorem Canon.givePositions {s : State} {l : Launch} (h : Canon s) : Canon (s.givePositions l) :=
  .foldl (fun h2 => .wakeCluster h2) <| .mapLaunches h

theorem Canon.placeProg {s : State} {l : Launch} (h : Canon s) : Canon (s.placeProg l).2 := by
  unfold State.placeProg
  refine .ite_snd (.givePositions h) ?_
  extract_lets +onlyGivenNames _ _ v2
  have h2 : Canon v2 := .foldl (fun h2 => .ite (.wakeCluster h2) h2) h
  split
  · exact .foldl (fun h4 => .reserveFor h4) h2
  · exact .bringIn h2

theorem Canon.firstOffer {s : State} {l : Launch} (h : Canon s) : Canon (s.firstOffer l) := by
  unfold State.firstOffer
  dsimp only
  split
  · exact h
  · exact .setBar <| .mapLaunches h

theorem Canon.wakeFor {s : State} {l : Launch} (h : Canon s) : Canon (s.wakeFor l) := by
  unfold State.wakeFor
  dsimp only
  split
  · exact h
  · exact .foldl (fun h3 => .wakeCluster h3) h

theorem Canon.placeLaunch {s : State} {l : Launch} (h : Canon s) : Canon (s.placeLaunch l).2 := by
  refine .ite_snd (.firstOffer h) <| .ite_snd (.placeProg h) <| .ite_snd ?_ ?_
  · split
    · exact .foldl (fun h3 => .placeInstance h3) h
    · exact .wakeFor h
  · split
    · exact h
    · exact .placeInstance h

/-! ### Shadow -/

theorem Gives.putRecord {s : State} {q lseq status : ℕ} (h : Canon s) : Gives Canon (s.putRecord q lseq status) :=
  .map (fun h2 => .modQueue h2) <| .qWrite h

theorem Maybe.orderHost {s : State} {q : ℕ} (h : Canon s) : Maybe Canon (s.orderHost q) := .ite .none <| .some <| .ackPosted h

theorem Canon.signal : ∀ {s : State} {q word m n : ℕ}, Canon s → Canon (State.signal s q word m n)
  | _, _, _, _, 0, h => h
  | _, _, _, _, _ + 1, h => by
    unfold State.signal
    exact .signal <| .releaseLaunch <| .releaseLaunch h

theorem Gives.advanceTlc {s : State} {q : ℕ} (h : Canon s) : Gives Canon (s.advanceTlc q) := by
  refine .ite (.ok <| .signal <| .modQueue h) ?_
  split
  · exact .error
  · next he2 => exact .map (fun h3 => .signal <| .modQueue h3) <| .qWrite <| .of_some_st he2 (.ite (.orderHost h) <| .some h)

theorem Canon.closeLaunch {s : State} {c q lseq : ℕ} (h : Canon s) : Canon (s.closeLaunch c q lseq) := by
  unfold State.closeLaunch
  extract_lets +onlyGivenNames _ v2
  have h2 : Canon v2 := .modCtx <| .flushContribs h
  refine .modWork <| .setCores ?_
  split
  · exact .setBar <| .modCoh h2
  · exact .modCoh h2

theorem Gives.startShadow {s : State} {q : ℕ} {p : ℕ × ℕ × ℕ × List ℕ} (h : Canon s) : Gives (Maybe Canon) (s.startShadow q p) := by
  unfold State.startShadow
  extract_lets +onlyGivenNames _ _
  refine .ite (.ok .none) ?_
  split
  · exact .ok .none
  · next he2 =>
      extract_lets +onlyGivenNames _
      refine .ite (.ok .none) ?_
      extract_lets +onlyGivenNames _ _ _
      split
      · exact .ok .none
      · extract_lets +onlyGivenNames _
        refine .ite (.ok .none) ?_
        split
        · extract_lets +onlyGivenNames v5
          have h5 : Canon v5 := .modQueue <| .of_ok he2 (.qRead h)
          split
          · exact .error
          · exact .ok <| .some <| .discardShadow h5
          · exact .ok <| .some <| .discardShadow h5
        · next he4 => exact .ok <| .some <| .foldl (fun h5 => .placeInstance h5) <| .modQueue <| .of_ok_st he4 (.qWrite <| .of_ok he2 (.qRead h))

theorem Maybe.nextShadowGroup {s : State} {q : ℕ} (h : Canon s) : Maybe Canon (s.nextShadowGroup q) := by
  unfold State.nextShadowGroup
  dsimp only
  split
  · exact .none
  · exact .some <| .placeInstance <| .modQueue h

theorem Gives.commitPages : ∀ {w : Who} {l : List (ℕ × ℕ)} {s : State}, Canon s → Gives Canon (State.commitPages w l s)
  | _, [], _, h => .ok h
  | _, (_, _) :: _, _, h => by
    unfold State.commitPages
    split
    · exact .error
    · next he1 => exact .commitPages <| .of_snd he1 (.translate h)

theorem Gives.commitBytes : ∀ {c q lseq : ℕ} {lines : List (ℕ × ℕ × ℕ)} {f : FMap ℕ} {s : State}, Canon s →
    Gives Canon (State.commitBytes c q lseq lines f s)
  | _, _, _, _, [], _, h => .ok h
  | _, _, _, _, (_, _) :: _, _, h => by
    unfold State.commitBytes
    dsimp only
    split
    · exact .commitBytes h
    · split
      · exact .error
      · next he2 =>
          split
          · exact .error
          · next he3 => exact .commitBytes <| .of_ok_st he3 (.writeAt <| .of_snd he2 (.translate h))

theorem Gives.commitWrites {s : State} {q : ℕ} (h : Canon s) : Gives Canon (s.commitWrites q) := by
  unfold State.commitWrites
  dsimp only
  split
  · exact .error
  · next he2 => exact .commitBytes <| .of_ok_st he2 (.commitPages <| .modQueue h)

/-! ### Queue -/

theorem Canon.queueFail {s : State} {q : ℕ} {e : QErr} (h : Canon s) : Canon (s.queueFail q e) := by
  unfold State.queueFail
  dsimp only
  split
  · exact .modQueue <| .modCtx <| .faultRecords <| .openGroup h
  · exact .freeze <| .log h
  · exact .ite (.ite (.haltQueue h) <| .putQueueSt h) <| .modQueue h
  · exact h
  · exact .askLine h
  · exact h
  · exact h
  · exact h

theorem Canon.putTail {s : State} {q : ℕ} (h : Canon s) : Canon (s.putTail q) := by
  refine .ite h ?_
  split
  · next he2 => exact .modQueue <| .of_ok_st he2 (.qWrite h)
  · exact .queueFail h

theorem Canon.setTail {s : State} {q n : ℕ} (h : Canon s) : Canon (s.setTail q n) := .putTail <| .modQueue h

theorem Canon.partsOf {s : State} {x : Queue} {r : LRec} {k : Kernel} (h : Canon s) : Canon (s.partsOf x r k).2 :=
  .ite_snd h <| .ite_snd h <| .flip h

theorem Maybe.makeLaunch {s : State} {q n : ℕ} {r : LRec} {ks : List Kernel} {pipes : List (List ℕ)} (h : Canon s) :
    Maybe (fun x => Canon x.2) (s.makeLaunch q n r ks pipes) := by
  refine ⟨fun hx => ?_⟩
  obtain ⟨ps, -, rfl⟩ := Option.map_eq_some_iff.1 hx
  exact .partsOf h

theorem Canon.meetShadow {s : State} {q n : ℕ} {r : LRec} {status : ℕ} {k : Kernel} (h : Canon s) : Canon (s.meetShadow q n r status k).2 :=
  .ite_snd h <| .ite_snd (.modQueue h) <| .discardShadow h

theorem Canon.learnLaunch {s : State} {q n : ℕ} {r : LRec} {status : ℕ} {k : Kernel} (h : Canon s) : Canon (s.learnLaunch q n r status k) :=
  .ite h <| .modQueue h

theorem Gives.launchFrom {s : State} {q : ℕ} {j : Job} (h : Canon s) : Gives Canon (s.launchFrom q j) := by
  unfold State.launchFrom
  extract_lets +onlyGivenNames _ _
  split
  extract_lets +onlyGivenNames _ _ _ _ made
  have hmade : Maybe (fun x => Canon x.2) made := .ite (.some h) <| .makeLaunch h
  clear_value made
  split
  · exact .error
  · extract_lets +onlyGivenNames _ u
    have hu : Canon u := .learnLaunch <| .meetShadow <| .of_some rfl hmade
    refine .ite (.ok <| .modQueue hu) <| .ite (.ok <| .modQueue <| .modWork hu) <| .ok <| .modQueue ?_
    split
    · exact .givePositions <| .modWork hu
    · exact hu

theorem Gives.jobStep {s : State} {q : ℕ} {j : Job} (h : Canon s) : Gives Canon (s.jobStep q j) := by
  unfold State.jobStep
  extract_lets +onlyGivenNames _ _ v2
  have h2 : Gives Canon v2 := by
    unfold v2
    exact .ok <| .modQueue h
  split
  · exact .map (fun h4 => .modQueue h4) <| .qWrite h
  · exact .ite h2 <| .map (fun h4 => .modQueue h4) <| .qRead <| .syncDev h
  · refine .ite h2 ?_
    split
    · exact .ok <| .modQueue h
    · exact .ite (.ok <| .modQueue h) <| .map (fun h5 => .modQueue h5) <| .qRead <| .syncDev h
  · exact .launchFrom h
  · exact .map (fun h4 => .modQueue h4) <| .putRecord h
  · exact .map (fun h4 => .modQueue h4) <| .advanceTlc h
  · split
    · exact .ok <| .modQueue h
    · exact .ite (.map (fun h5 => .modQueue h5) <| .writeArg h) <| .ok <| .modQueue <| .mapLaunches h

theorem Canon.runJob : ∀ {s : State} {q n : ℕ}, Canon s → Canon (State.runJob s q n)
  | _, _, 0, h => h
  | _, _, _ + 1, h => by
    unfold State.runJob
    dsimp only
    split
    · exact .putTail h
    · refine .ite (.putTail h) ?_
      split
      · next he2 => exact .runJob <| .of_ok_st he2 (.jobStep <| .putTail h)
      · split
        · exact .runJob <| .queueFail <| .putTail h
        · exact .queueFail <| .putTail h

theorem Canon.beginJob {s : State} {q : ℕ} {j : Job} (h : Canon s) : Canon (s.beginJob q j) := .runJob <| .modQueue h
theorem Canon.takeUp {s : State} {q n status seen : ℕ} (h : Canon s) : Canon (s.takeUp q n status seen) := .beginJob <| .modQueue h

theorem CanonOut.execLaunchTakeUp {q : ℕ} {s : State} (h : Canon s) : CanonOut (execLaunchTakeUp q s) := by
  refine .ite (.next <| .ite (.runJob h) h) <| .ite (.next h) <| .ite (.next <| .takeUp h) ?_
  split
  · exact .next <| .queueFail h
  · next he2 =>
      exact .ite (.next h) <| .ite (.next <| .takeUp <| .of_ok he2 (.qRead <| .syncDev h)) <| .ite (.next <| .modQueue h) <| .next <|
          .takeUp <| .of_ok he2 (.qRead <| .syncDev h)

theorem Canon.offers : ∀ {s : State} {c : ℕ} {l : List ℕ}, Canon s → Canon (State.offers s c l)
  | _, _, [], h => h
  | _, _, _ :: _, h => by
    unfold State.offers
    dsimp only
    split
    · exact .offers h
    · exact .ite (.ite (.offers h) <| .beginJob h) <| .ite (.modCtx <| .placeLaunch h) <| .offers <| .placeLaunch h

theorem CanonOut.execGroupPlace {ctx : ℕ} {s : State} (h : Canon s) : CanonOut (execGroupPlace ctx s) := by
  refine .ite (.next h) ?_
  split
  · exact .next <| .startHeld h
  · exact .next <| .offers h

theorem CanonOut.execWakeBegin {ctx : ℕ} {s : State} (h : Canon s) : CanonOut (execWakeBegin ctx s) := by
  unfold Machine.execWakeBegin
  dsimp only
  split
  · exact .next <| .ite (.modCluster h) h
  · exact .next h

theorem CanonOut.execClusterAwake {cluster : ℕ} {s : State} (h : Canon s) : CanonOut (execClusterAwake cluster s) :=
  .next <| .ite (.modCluster h) h

theorem CanonOut.execClusterGate {cluster : ℕ} {s : State} (h : Canon s) : CanonOut (execClusterGate cluster s) := by
  unfold Machine.execClusterGate
  dsimp only
  split
  · exact .next h
  · exact .next <| .ite (.modCluster h) h

theorem CanonOut.execSliceRotation {cluster pos : ℕ} {s : State} (h : Canon s) : CanonOut (execSliceRotation cluster pos s) := by
  unfold Machine.execSliceRotation
  dsimp only
  split
  · exact .next h
  · split
    · exact .next h
    · split
      · exact .next h
      · split
        · exact .next h
        · refine .ite (.next h) ?_
          split
          · exact .next <| .freeze h
          · exact .next <| .ite (.bringIn <| .foldl (fun h7 => .swapGroupOut h7) h) h

theorem CanonOut.execLaunchComplete {q lseq : ℕ} {s : State} (h : Canon s) : CanonOut (execLaunchComplete q lseq s) := by
  unfold Machine.execLaunchComplete
  split
  · exact .next h
  · exact .ite (.next h) <| .ite (.next <| .release h) <| .ite (.next h) <| .next <| .beginJob <| .modQueue <| .closeLaunch h

theorem CanonOut.execShadowStart {q : ℕ} {s : State} (h : Canon s) : CanonOut (execShadowStart q s) := by
  refine .ite (.next h) ?_
  split
  · next he2 => exact .next <| .of_some_st he2 (.nextShadowGroup h)
  · split
    · exact .next h
    · refine .ite (.next h) ?_
      dsimp only
      split
      · exact .next <| .queueFail h
      · exact .next <| .modQueue h
      · next he4 => exact .next <| .of_ok_some he4 (.startShadow <| .modQueue h)

theorem Canon.leaveShadow {s : State} {q : ℕ} (h : Canon s) : Canon (s.leaveShadow q) := .setCtxs <| .setCores <| .mapActs h

theorem CanonOut.execShadowCommit {q : ℕ} {s : State} (h : Canon s) : CanonOut (execShadowCommit q s) := by
  refine .ite (.next h) ?_
  split
  · exact .next h
  · exact .next <| .discardShadow h
  · next he2 => exact .execLaunchComplete <| .mapLaunches <| .leaveShadow <| .modQueue <| .of_ok_st he2 (.commitWrites h)

theorem Canon.ringDoor {s : State} {q tail : ℕ} (h : Canon s) : Canon (s.ringDoor q tail) :=
  .ite h <| .ite (.putQueueSt <| .discardShadow h) <| .ite (.putQueueSt <| .discardShadow <| .setTail h) <| .setTail h

theorem CanonOut.execDoorbell {q tail : ℕ} {s : State} (h : Canon s) : CanonOut (execDoorbell q tail s) := .next <| .ringDoor h

theorem CanonOut.withQueue {s : State} {a : ℕ} {k : ℕ → Queue → Out} (h : Canon s) (hk : ∀ {x0 x1}, CanonOut (k x0 x1)) :
    CanonOut (s.withQueue a k) := by
  refine .ite (.next <| .trapHere h) ?_
  split
  · exact .next <| .trapHere h
  · exact .ite hk <| .next <| .trapHere h

theorem CanonRes.loadRec : ∀ {s : State} {base : ℕ} {off : ℤ} {n : ℕ}, Canon s → CanonRes (State.loadRec s base off n)
  | _, _, _, 0, h => .ok h
  | _, _, _, _ + 1, h => by
    unfold State.loadRec
    exact .bind (.load h) <| fun h1 => .bind (.loadRec h1) <| fun h2 => .ok h2

theorem CanonOut.execQlaunch {d a b la : ℕ} {s : State} (h : Canon s) : CanonOut (execQlaunch d a b la s) := by
  refine .ite (.next <| .impure h) <| .withQueue h <| .ite (.next <| .trapHere h) <| .ite (.next <| .trapHere h) <| .ite (.next <|
      .trapHere h) <| .out (.loadRec h) <| fun h2 => .ite (.next <| .setRegLa <| .retire h2) ?_
  dsimp only
  split
  · exact .halt <| .failAcc h2
  · next he3 => exact .settle (.setTail <| .releaseTo <| .of_ok_st he3 (.engWrite h2)) <| fun h4 => .next <| .setRegLa <| .retire h4

theorem CanonOut.execQstat {d a q la : ℕ} {s : State} (h : Canon s) : CanonOut (execQstat d a q la s) :=
  .withQueue h <| .next <| .setRegLa <| .retire <| .ite (.syncAt h) h

theorem CanonOut.execSpstat {d a b la : ℕ} {s : State} (h : Canon s) : CanonOut (execSpstat d a b la s) :=
  .withQueue h <| .ite (.next <| .trapHere h) <| .next <| .setRegLa <| .retire h

theorem CanonOut.execSpstatClr {d a b la : ℕ} {s : State} (h : Canon s) : CanonOut (execSpstatClr d a b la s) :=
  .withQueue h <| .ite (.next <| .trapHere h) <| .next <| .setRegLa <| .retire <| .modQueue h

theorem CanonOut.execSpstatSt {d a la : ℕ} {s : State} (h : Canon s) : CanonOut (execSpstatSt d a la s) :=
  .withQueue h <| .next <| .setRegLa <| .retire h

/-! ### Page -/

theorem CanonOut.privForm {s : State} {word : ℕ} {k : Out} (h : Canon s) (h1 : CanonOut k) : CanonOut (s.privForm word k) :=
  .ite (.next <| .impure h) <| .ite h1 <| .next <| .trapPriv h

theorem Canon.l1ClearCtx {s : State} {c : ℕ} (h : Canon s) : Canon (s.l1ClearCtx c) := .setCores h

theorem Canon.dropXlat {s : State} {c lo hi : ℕ} (h : Canon s) : Canon (s.dropXlat c lo hi) :=
  .killShadows <| .foldl (fun h2 => .zeroed h2) <| .modCoh h

theorem Canon.drain {s : State} {c : ℕ} (h : Canon s) : Canon (s.drain c) := .mapAway <| .mapActs <| .setLinks h
theorem Canon.invalidate {s : State} {c lo hi : ℕ} (h : Canon s) : Canon (s.invalidate c lo hi) := .l1ClearCtx <| .dropXlat h
theorem CanonOut.endTlbinv {s : State} {d c lo hi : ℕ} (h : Canon s) : CanonOut (s.endTlbinv d c lo hi) := .put <| .drain <| .invalidate h

theorem Canon.endDrainWait {s : State} {d c lo hi : ℕ} (h : Canon s) : Canon (s.endDrainWait d c lo hi) :=
  .ite h <| .setReg <| .retire <| .drain <| .invalidate <| .goOn h

theorem CanonOut.execTlbinv {d a b : ℕ} {s : State} (h : Canon s) : CanonOut (execTlbinv d a b s) :=
  .privForm h <| .ite (.next <| .trapHere h) <| .ite (.next <| .trapHere h) <| .ite (.next <| .trapHere h) <| .ite (.put h) <| .ite (.next <|
    .block <| .invalidate h) <| .endTlbinv <| .yieldPoint h

theorem CanonOut.execL1inv {s : State} (h : Canon s) : CanonOut (execL1inv s) := .ite (.next <| .impure h) <| .next <| .l1Clear <| .retire h

theorem Canon.pageLeaf {s : State} {c va : ℕ} (h : Canon s) : Canon (s.pageLeaf c va).2 := by
  refine .ite_snd h ?_
  split
  · next he2 => exact .of_snd he2 (.walkGo h)
  · next he2 => exact .of_snd he2 (.walkGo h)

theorem Canon.clean {s : State} {lo hi : ℕ} (h : Canon s) : Canon (s.clean lo hi).2 := .modCoh h

theorem Canon.cleanPage {s : State} {f : Leaf} {va m : ℕ} (h : Canon s) : Canon (s.cleanPage f va m).2 :=
  .ite_snd h <| .ite_snd (.clean h) <| .ite_snd (.ackPosted h) <| .ackPosted h

theorem Canon.writeBack : ∀ {s : State} {n k j i : ℕ} {b : Bool}, Canon s → Canon (State.writeBack s n k j i b).2.2
  | _, 0, _, _, _, _, h => h
  | _, _ + 1, _, _, _, _, h => by
    unfold State.writeBack
    refine .ite_snd_snd h <| .writeBack <| .ite_snd_snd (.ite_snd_snd (.clean h) h) ?_
    split
    · next he1 => exact .of_snd he1 (.pageLeaf h)
    · next he1 => exact .cleanPage <| .of_snd he1 (.pageLeaf h)

theorem CanonOut.execL2wb {d a b : ℕ} {s : State} (h : Canon s) : CanonOut (execL2wb d a b s) :=
  .ite (.next <| .impure h) <| .ite (.next <| .trapHere h) <| .ite (.next <| .trapHere h) <| .ite (.next <| .trapHere h) <| .ite (.next <|
    .yieldPoint <| .writeBack h) <| .put <| .yieldPoint <| .writeBack h

theorem Canon.heatAt {s : State} {c va : ℕ} (h : Canon s) : Canon (s.heatAt c va).2 := by
  unfold State.heatAt
  split
  · next he2 => exact .of_snd he2 (.pageLeaf h)
  · next he2 => exact .of_snd he2 (.pageLeaf h)

theorem Gives.storeHalf {s : State} {base : ℕ} {off : ℤ} {v : ℕ} (h : Canon s) : Gives Canon (s.storeHalf base off v) := by
  unfold State.storeHalf
  split
  · exact .error
  · next he2 => exact .writeAt <| .of_ok he2 (.checkE h)

theorem CanonRes.quietWords : ∀ {s : State} {base : ℕ} {off : ℤ} {n : ℕ}, Canon s → CanonRes (State.quietWords s base off n)
  | _, _, _, 0, h => .ok h
  | _, _, _, _ + 1, h => by
    unfold State.quietWords
    dsimp only
    split
    · exact .failAcc h
    · next he1 => exact .bind (.quietWords <| .readAt <| .of_ok he1 (.checkE h)) <| fun h2 => .ok h2

theorem Gives.heatRead : ∀ {c va out n k j : ℕ} {s : State}, Canon s → Gives (fun x => Canon x.2) (State.heatRead c va out n k j s)
  | _, _, _, 0, _, _, _, h => .ok h
  | _, _, _, _ + 1, _, _, _, h => by
    unfold State.heatRead
    dsimp only
    split
    · exact .error
    · next he1 => exact .heatRead <| .of_ok_st he1 (.storeHalf <| .heatAt h)

theorem Canon.heatAge : ∀ {c va n k j : ℕ} {s : State}, Canon s → Canon (State.heatAge c va n k j s).2
  | _, _, 0, _, _, _, h => h
  | _, _, _ + 1, _, _, _, h => by
    unfold State.heatAge
    dsimp only
    split
    · exact .heatAge <| .heatAt h
    · exact .heatAge <| .hwWrite <| .heatAt h

theorem CanonOut.withHeat {s : State} {a b : ℕ} {k : ℕ → ℕ → ℕ → ℕ → State → Out} (h : Canon s)
    (hk : ∀ {x0 x1 x2 x3 x4}, Canon x4 → CanonOut (k x0 x1 x2 x3 x4)) : CanonOut (s.withHeat a b k) :=
  .ite (.next <| .trapHere h) <| .ite (.next <| .trapHere h) <| .ite (.next <| .trapHere h) <| .out (.quietWords h) <|
    fun h2 => .ite (.next <| .trapHere h2) <| hk h2

theorem CanonOut.execHeatrd {d a b : ℕ} {s : State} (h : Canon s) : CanonOut (execHeatrd d a b s) := by
  refine .privForm h <| .withHeat h <| fun h2 => ?_
  split
  · next he3 => exact .put <| .of_ok he3 (.heatRead h2)
  · exact .halt <| .failAcc h2

theorem CanonOut.execHeatage {d a b : ℕ} {s : State} (h : Canon s) : CanonOut (execHeatage d a b s) :=
  .privForm h <| .withHeat h <| fun h2 => .ite (.next <| .trapHere h2) <| .put <| .heatAge h2

theorem Canon.freshPath {s : State} {die c va : ℕ} (h : Canon s) : Canon (s.freshPath die c va) := .modCoh h

theorem Canon.breakAt {s : State} {c va : ℕ} (h : Canon s) : Canon (s.breakAt c va) := by
  unfold State.breakAt
  split
  · exact .breakIndex h
  · exact h

theorem Canon.leaveReplay {s : State} {p : Parked} {cancel : Bool} (h : Canon s) : Canon (s.leaveReplay p cancel) := .modWork h

theorem Canon.replayOne {s : State} {c : ℕ} {p : Parked} (h : Canon s) : Canon (s.replayOne c p) := by
  unfold State.replayOne
  extract_lets +onlyGivenNames _ v2
  have h2 : Canon v2 := .foldl (fun h2 => .freshPath h2) h
  exact .ite (.leaveReplay <| .onAct h2 <| fun h3 => .ite (.goOn h3) h3) <| .ite (.modCmd h2) <| .ite (.modQueue h2) <| .ite (.modCtx h2) h2

theorem Canon.cancelCmd {s : State} {c ck kind n : ℕ} {p : Parked} (h : Canon s) : Canon (s.cancelCmd c ck kind n p) := by
  unfold State.cancelCmd
  split
  · exact h
  · extract_lets +onlyGivenNames _ _ v3
    have h3 : Canon v3 := .cmdFailed <| .endCmd h
    exact .ite (.breakAt h3) h3

theorem Canon.cancelOne {s : State} {c : ℕ} {p : Parked} (h : Canon s) : Canon (s.cancelOne c p) := by
  unfold State.cancelOne
  extract_lets +onlyGivenNames _
  refine .ite ?_ <| .ite (.onAct (.modCtx h) <| fun h2 => .goOn <| .retire h2) <| .ite (.cancelCmd h) <| .ite (.ite (.ite (.haltQueue h) <|
      .putQueueSt h) <| .modQueue h) <| .ite (.modCore h) <| .ite (.breakIndex <| .modCtx h) h
  extract_lets +onlyGivenNames _ v2
  have h2 : Canon v2 := .leaveReplay <| .flushTrapped <| .onAct h <| fun h2 => .ite (.trapHere h2) h2
  exact .ite (.breakAt h2) h2

theorem Canon.applyReplay {s : State} {c grp : ℕ} {cancel : Bool} (h : Canon s) : Canon (s.applyReplay c grp cancel) :=
  .foldl (fun h2 => .ite (.cancelOne h2) <| .replayOne h2) <| .modCtx h

theorem Canon.replayGroup {s : State} {c grp : ℕ} {cancel : Bool} (h : Canon s) : Canon (s.replayGroup c grp cancel).2 :=
  .ite_snd (.ite_snd h <| .modCtx h) <| .applyReplay h

theorem CanonOut.execPfreplay {d a b : ℕ} {s : State} (h : Canon s) : CanonOut (execPfreplay d a b s) :=
  .privForm h <| .ite (.next <| .trapHere h) <| .ite (.next <| .trapHere h) <| .ite (.next <| .trapHere h) <| .put <| .replayGroup h

theorem Canon.hostReplay {s : State} {c grp : ℕ} {cancel : Bool} (h : Canon s) : Canon (s.hostReplay c grp cancel) :=
  .ite h <| .modDev <| .replayGroup h

theorem CanonOut.execReplay {ctx grp : ℕ} {s : State} (h : Canon s) : CanonOut (execReplay ctx grp s) := .next <| .hostReplay h
theorem CanonOut.execReplayCancel {ctx grp : ℕ} {s : State} (h : Canon s) : CanonOut (execReplayCancel ctx grp s) := .next <| .hostReplay h

theorem CanonOut.execAtsCompletion {ctx page pa perm : ℕ} {s : State} (h : Canon s) : CanonOut (execAtsCompletion ctx page pa perm s) :=
  .next <| .ite (.modCoh h) h

theorem CanonOut.execAtsInvalidation {ctx page npages : ℕ} {s : State} (h : Canon s) : CanonOut (execAtsInvalidation ctx page npages s) :=
  .ite (.next h) <| .next <| .l1ClearCtx <| .drain <| .modCoh h

theorem Canon.drainHeld : ∀ {s : State} {c : ℕ} {l : List (List ℕ)}, Canon s → Canon (State.drainHeld s c l)
  | _, _, [], h => .modCtx h
  | _, _, _ :: _, h => by
    unfold State.drainHeld
    exact .ite (.drainHeld <| .ringPut <| .modCtx h) <| .modCtx h

theorem CanonOut.execFaultRingRecheck {ctx : ℕ} {s : State} (h : Canon s) : CanonOut (execFaultRingRecheck ctx s) := by
  refine .ite (.next h) ?_
  split
  · next he2 => exact .next <| .of_snd he2 (.devLoc <| .drainHeld h)
  · next he2 => exact .next <| .devKeep <| .of_snd he2 (.devLoc <| .drainHeld h)

theorem CanonOut.execCkpt {d a b : ℕ} {s : State} (h : Canon s) : CanonOut (execCkpt d a b s) := by
  refine .privForm h <| .ite (.next <| .trapHere h) <| .ite (.next <| .trapHere h) <| .out (.quietWords h) <| fun h2 => .ite (.put h2) <|
      .ite (.put h2) <| .ite (.put h2) <| .ite (.put h2) <| .out (.check h2) <| fun h3 => ?_
  split
  · exact .halt <| .failAcc h3
  · next he4 => exact .put <| .modDev <| .of_ok_st he4 (.writeAt h3)

theorem Canon.ckptPage : ∀ {s : State} {olds : List (List Host.Cell)} {p n : ℕ}, Canon s → Canon (State.ckptPage s olds p n).2
  | _, _, _, 0, h => h
  | _, _, _, _ + 1, h => by
    unfold State.ckptPage
    exact .ckptPage <| .ite_snd h <| .draw h

theorem Canon.ckptCopy : ∀ {src dst map : ℕ} {comp : Bool} {n i sec : ℕ} {s : State}, Canon s → Canon (State.ckptCopy src dst map comp n i sec s)
  | _, _, _, _, 0, _, _, _, h => h
  | src, _, _, _, _ + 1, i, _, s, h => by
    have hpage : Canon (s.ckptPage (s.dev.ckptMem :: s.pastMems s.dev.ckptAt) (src + 65536 * i) 8192).2 := .ckptPage h
    unfold State.ckptCopy
    generalize s.ckptPage (s.dev.ckptMem :: s.pastMems s.dev.ckptAt) (src + 65536 * i) 8192 = page at hpage ⊢
    dsimp only
    exact .ckptCopy <| .hwWrite <| .disturbKey <| .spliced <| .ite_snd hpage <| .draw hpage

theorem CanonOut.execCheckpointComplete {stat : ℕ} {s : State} (h : Canon s) : CanonOut (execCheckpointComplete stat s) := by
  unfold Machine.execCheckpointComplete
  split
  · exact .next h
  · exact .ite (.next <| .modDev <| .devKeep <| .ckptCopy h) <| .ite (.next <| .modDev <| .devKeep <| .ckptCopy <| .draw h) <| .next h

/-! ### Table -/

theorem CanonRes.loadQuads : ∀ {s : State} {base : ℕ} {off : ℤ} {n : ℕ}, Canon s → CanonRes (State.loadQuads s base off n)
  | _, _, _, 0, h => .ok h
  | _, _, _, _ + 1, h => by
    unfold State.loadQuads
    exact .bind (.load h) <| fun h1 => .bind (.loadQuads h1) <| fun h2 => .ok h2

theorem Canon.recallOwner {s : State} {c pid : ℕ} (h : Canon s) : Canon (s.recallOwner c pid) :=
  .freeLines <| .mapActs <| .modCoh <| .holdLines h

theorem CanonOut.execPtload {d a b : ℕ} {s : State} (h : Canon s) : CanonOut (execPtload d a b s) := by
  unfold Machine.execPtload
  refine .privForm h ?_
  extract_lets +onlyGivenNames _ _
  refine .ite (.next <| .trapHere h) <| .ite (.next <| .trapHere h) <| .ite (.next <| .trapHere h) <| .ite (.put h) <| .out (.loadQuads h) <|
      fun h2 => ?_
  extract_lets +onlyGivenNames _ _ _ _
  refine .ite (.put h2) <| .out (.loadQuads h2) <| fun h3 => .out (.loadQuads h3) <| fun h4 => ?_
  extract_lets +onlyGivenNames _ _ _ _ v5
  have h5 : Canon v5.2 := by
    unfold v5
    exact .draw <| .draw h4
  exact .put <| .ite (.modCtx <| .recallOwner <| .ite h4 h5) <| .freeze <| .ite h4 h5

theorem Canon.extentPages : ∀ {s : State} {c base n : ℕ}, Canon s → Canon (State.extentPages s c base n).2
  | _, _, _, 0, h => h
  | _, _, _, _ + 1, h => by
    unfold State.extentPages
    exact .extentPages <| .pageLeaf h

theorem Canon.recallPages {s : State} {ps : List ℕ} (h : Canon s) : Canon (s.recallPages ps) := .killShadows <| .mapActs <| .modCoh h

theorem Canon.setRange {s : State} {c i : ℕ} {new : Range} (h : Canon s) : Canon (s.setRange c i new) := by
  unfold State.setRange
  extract_lets +onlyGivenNames _ _ _ _ v2
  have h2 : Canon v2 := .recallPages <| .holdLines <| .extentPages <| .extentPages h
  exact .freeLines <| .modCtx <| .l1ClearCtx <| .drain <| .dropXlat <| .dropXlat <| .modCtx <| .ite (.flushContribs h2) h2

theorem CanonOut.execRngset {d a b : ℕ} {s : State} (h : Canon s) : CanonOut (execRngset d a b s) :=
  .privForm h <| .ite (.next <| .trapHere h) <| .ite (.next <| .trapHere h) <| .ite (.next <| .trapHere h) <| .ite (.put h) <|
    .out (.loadQuads h) <| fun h2 => .ite (.put h2) <| .ite (.next h2) <| .put <| .setRange h2

end Sys2Proof.Machine
end

section
/-!
SUPPORT. The protocols, contexts, links, the device and what is left of the instructions, up to a step (19, 24, 26, 27): each function
keeps memory canonical.
-/

namespace Sys2Proof.Machine

/-! ### Protocol -/

theorem CanonOut.execReqr {die line : ℕ} {s : State} (h : Canon s) : CanonOut (execReqr die line s) := by
  refine .next ?_
  split
  · exact h
  · next he2 => exact .homeArrive <| .of_some he2 (.takeMsg h)

theorem CanonOut.execReqw {die line : ℕ} {s : State} (h : Canon s) : CanonOut (execReqw die line s) := by
  refine .next ?_
  split
  · exact h
  · next he2 => exact .homeArrive <| .of_some he2 (.takeMsg h)

theorem CanonOut.execWb {die line : ℕ} {s : State} (h : Canon s) : CanonOut (execWb die line s) := by
  unfold Machine.execWb
  refine .next ?_
  split
  · exact h
  · next he2 =>
      extract_lets +onlyGivenNames v3
      have h3 : Canon v3 := .sendCoh <| .wroteBack <| .of_some he2 (.takeMsg h)
      exact .ite (.answer h3) h3

theorem CanonOut.execPush {die line : ℕ} {s : State} (h : Canon s) : CanonOut (execPush die line s) := by
  refine .next ?_
  split
  · exact h
  · next he2 => exact .homeArrive <| .wroteBack <| .of_some he2 (.takeMsg h)

theorem Canon.forwarded {s : State} {die line ev : ℕ} {m : CohMsg} (h : Canon s) : Canon (s.forwarded die line ev m) := by
  unfold State.forwarded
  extract_lets +onlyGivenNames v2
  have h2 : Canon v2 := .ite h <| .breakResv h
  exact .ite (.present h2) <| .sendCoh <| .present h2

theorem CanonOut.execFwdrd {die line : ℕ} {s : State} (h : Canon s) : CanonOut (execFwdrd die line s) := by
  refine .next ?_
  split
  · exact h
  · next he2 => exact .forwarded <| .of_some he2 (.takeMsg h)

theorem CanonOut.execFwdwr {die line : ℕ} {s : State} (h : Canon s) : CanonOut (execFwdwr die line s) := by
  refine .next ?_
  split
  · exact h
  · next he2 => exact .forwarded <| .of_some he2 (.takeMsg h)

theorem CanonOut.execInv {die line : ℕ} {s : State} (h : Canon s) : CanonOut (execInv die line s) := by
  refine .next ?_
  split
  · exact h
  · next he2 => exact .forwarded <| .of_some he2 (.takeMsg h)

theorem Canon.evictEntry {s : State} {line : ℕ} (h : Canon s) : Canon (s.evictEntry line) := by
  unfold State.evictEntry
  extract_lets +onlyGivenNames v2
  have h2 : Canon v2 := .killShadows h
  exact .ite (.answer h2) <| .modCoh h2

theorem CanonOut.execRecall {die line : ℕ} {s : State} (h : Canon s) : CanonOut (execRecall die line s) := by
  refine .next ?_
  split
  · exact h
  · next he2 => exact .ite (.evictEntry <| .of_some he2 (.takeMsg h)) <| .forwarded <| .of_some he2 (.takeMsg h)

theorem CanonOut.execUpdin {die line : ℕ} {s : State} (h : Canon s) : CanonOut (execUpdin die line s) := by
  unfold Machine.execUpdin
  refine .next ?_
  split
  · exact h
  · next he2 =>
      extract_lets +onlyGivenNames v3
      have h3 : Canon v3 := .breakResv <| .of_some he2 (.takeMsg h)
      split
      · exact h3
      · exact .present h3

theorem Canon.replace {s : State} {die line : ℕ} (h : Canon s) : Canon (s.replace die line) := by
  unfold State.replace
  split
  · exact h
  · exact .present h

theorem Canon.fitL2 {s : State} {die line : ℕ} (h : Canon s) : Canon (s.fitL2 die line) := by
  refine .ite h ?_
  split
  · exact h
  · exact .replace <| .draw h

theorem Canon.afterAnswer {s : State} {die line ev : ℕ} {q : CohMsg} (h : Canon s) : Canon (s.afterAnswer die line ev q) := by
  unfold State.afterAnswer
  extract_lets +onlyGivenNames _ v2
  have h2 : Canon v2 := .ite (.present h) h
  exact .ite (.endReq <| .fitL2 <| .again h2) <| .again h2

theorem Canon.arrive {s : State} {die line ev : ℕ} {m : CohMsg} (h : Canon s) : Canon (s.arrive die line ev m) := by
  unfold State.arrive
  split
  · exact h
  · exact .ite (.setCopy h) <| .ite (.ite (.afterAnswer <| .present <| .present h) <| .present h) <| .afterAnswer <| .present h

theorem CanonOut.execData {die line : ℕ} {s : State} (h : Canon s) : CanonOut (execData die line s) := by
  refine .next ?_
  split
  · exact h
  · next he2 => exact .arrive <| .of_some he2 (.takeMsg h)

theorem CanonOut.execDataex {die line : ℕ} {s : State} (h : Canon s) : CanonOut (execDataex die line s) := by
  refine .next ?_
  split
  · exact h
  · next he2 => exact .arrive <| .of_some he2 (.takeMsg h)

theorem Canon.acked {s : State} {line ev : ℕ} (h : Canon s) : Canon (s.acked line ev) := by
  unfold State.acked
  split
  · exact h
  · exact .ite (.leaveLine h) <| .ite (.sendCoh h) <| .ite (.endReq h) <| .answer h

theorem CanonOut.execAck {die line : ℕ} {s : State} (h : Canon s) : CanonOut (execAck die line s) := by
  refine .next ?_
  split
  · exact h
  · next he2 => exact .acked <| .of_some he2 (.takeMsg h)

theorem Canon.told {s : State} {die line ev : ℕ} {m : CohMsg} (h : Canon s) : Canon (s.told die line ev m) := by
  unfold State.told
  split
  · exact h
  · exact .again <| .present h

theorem CanonOut.execWbdone {die line : ℕ} {s : State} (h : Canon s) : CanonOut (execWbdone die line s) := by
  refine .next ?_
  split
  · exact h
  · next he2 => exact .told <| .of_some he2 (.takeMsg h)

theorem CanonOut.execNack {die line : ℕ} {s : State} (h : Canon s) : CanonOut (execNack die line s) := by
  refine .next ?_
  split
  · exact h
  · next he2 => exact .told <| .of_some he2 (.takeMsg h)

theorem CanonOut.execEvi {die line : ℕ} {s : State} (h : Canon s) : CanonOut (execEvi die line s) := .next <| .replace h

/-! ### Swap -/

theorem Canon.outState {o : Out} {s : State} (h : CanonOut o) (h1 : Canon s) : Canon (outState o s) := by
  unfold Machine.outState
  split
  · exact .of_next rfl h
  · exact h1

theorem Canon.haltPart {s : State} {c : ℕ} (h : Canon s) : Canon (s.haltPart c) := by
  refine .setCores <| .modCoh <| .mapRace <| .mapActs <| .killShadows <| .foldl (fun h2 => .foldl (fun h3 => ?_) h2) <|
      .foldl (fun h2 => .foldl (fun h3 => .outState (.execVpolyRequestTake h3) h3) h2) h
  split
  · exact .ite (.outState (.execMatrixCommandComplete h3) h3) h3
  · exact h3

theorem Canon.writeImages {s : State} {x : Ctx} (h : Canon s) : Canon (s.writeImages x) := .foldl (fun h2 => .ite h2 <| .hwWrite <| .draw h2) h

theorem Canon.swapOut {s : State} {c : ℕ} {full : Bool} (h : Canon s) : Canon (s.swapOut c full) := by
  unfold State.swapOut
  extract_lets +onlyGivenNames _ _ _ _ _ _ _ v2
  have h2 : Canon v2 := .setCores <| .removeActs <| .modCtx <| .haltPart h
  exact .ite (.setClusters <| .writeImages <| .modWork h2) <| .modWork h2

theorem Canon.writeTraph {s : State} {c : ℕ} (h : Canon s) : Canon (s.writeTraph c) := .foldl (fun h2 => .foldl (fun h3 => .wrN h3) h2) h

theorem Canon.zeroClusters {s : State} {cls : List (ℕ × ℕ)} (h : Canon s) : Canon (s.zeroClusters cls) :=
  .foldl (fun h2 => .setMem <| Memory.zero_wf _ _ _ <| Memory.zero_wf _ _ _ h2) h

theorem Memory.writes_wf {α : Type} {a : α → ℕ} {b : α → Byte} {xs : List α} {m : List Host.Cell} (h : Memory.wf m = true) :
    Memory.wf (xs.foldl (fun m x => Memory.write m (a x) (b x)) m) = true := by
  induction xs generalizing m with
  | nil => exact h
  | cons x xs ih => exact ih (Memory.write_wf _ _ _ h)

theorem Canon.restore {s : State} {c : ℕ} (h : Canon s) : Canon (s.restore c) :=
  .modCtx <| .modWork <| .setCores <| .setActs <| .setMem <| Memory.writes_wf <| Memory.filter_wf _ _ h

theorem Canon.holdClusters {s : State} {c : ℕ} (h : Canon s) : Canon (s.holdClusters c) := .foldl (fun h2 => .modCluster h2) h

theorem Canon.firstIn {s : State} {c : ℕ} (h : Canon s) : Canon (s.firstIn c) :=
  .foldl (fun h2 => .modCluster h2) <| .setCores <| .zeroClusters h

theorem Canon.swapIn {s : State} {c : ℕ} (h : Canon s) : Canon (s.swapIn c) :=
  .foldl (fun h2 => .tretOp h2) <| .foldl (fun h2 => .applyReplay h2) <| .modCtx <| .writeTraph <| .holdClusters <| .ite (.restore h) <|
    .firstIn h

theorem Canon.dropQueues {s : State} {c : ℕ} (h : Canon s) : Canon (s.dropQueues c) := .modWork <| .foldl (fun h2 => .ite h2 <| .putQueueSt h2) h

theorem Canon.outVal {r : Except IErr (Unit × State)} {s : State} (h : Gives (fun x => Canon x.2) r) (h1 : Canon s) : Canon (outVal r s) := by
  unfold Machine.outVal
  split
  · exact .of_ok rfl h
  · exact h1

theorem Canon.resetCtx {s : State} {c : ℕ} (h : Canon s) : Canon (s.resetCtx c) :=
  .setCtxs <| .foldl (fun h2 => .modCluster h2) <| .setCores <| .zeroClusters <| .modCoh <| .dropXlat <| .recallOwner <| .recallOwner <|
    .modWork <| .dropQueues <| .removeActs <| .foldl (fun h2 => .outVal (.run .dropHolds h2) h2) <| .foldl (fun h2 => .ite h2 <|
    .breakIndex h2) <| .killShadows h

theorem CanonOut.execContextResetDone {ctx : ℕ} {s : State} (h : Canon s) : CanonOut (execContextResetDone ctx s) := .next <| .ite (.setCtxs h) h

theorem Canon.dropSlices {s : State} {die lo hi : ℕ} (h : Canon s) : Canon (s.dropSlices die lo hi) := by
  refine .modCoh <| .foldl (fun h2 => ?_) h
  split
  · exact .setCopy <| .ite (.wroteBack h2) h2
  · exact h2

theorem Canon.setCarve {s : State} {die v : ℕ} (h : Canon s) : Canon (s.setCarve die v) := .ite h <| .modDie <| .zeroed <| .dropSlices h
theorem CanonOut.execCarveWrite {die v : ℕ} {s : State} (h : Canon s) : CanonOut (execCarveWrite die v s) := .next <| .ite (.setCarve h) h
theorem Canon.setShallot {s : State} {c v : ℕ} (h : Canon s) : Canon (s.setShallot c v) := .ite h <| .killShadows <| .modCtx h
theorem CanonOut.execShallotWrite {ctx v : ℕ} {s : State} (h : Canon s) : CanonOut (execShallotWrite ctx v s) := .next <| .setShallot h

/-! ### Context -/

theorem CanonOut.execTrap {imm : ℕ} {s : State} (h : Canon s) : CanonOut (execTrap imm s) := .next <| .trap h

theorem CanonOut.withHandle {s : State} {word a : ℕ} {k : ℕ → Out} (h : Canon s) (hk : ∀ {x0}, CanonOut (k x0)) :
    CanonOut (s.withHandle word a k) :=
  .privForm h <| .ite (.next <| .trapHere h) <| .ite (.next <| .trapHere h) hk

theorem CanonOut.tret {s : State} {d a op : ℕ} (h : Canon s) : CanonOut (s.tret d a op) := by
  refine .withHandle h ?_
  intro _
  split
  · exact .put h
  · exact .ite (.put h) <| .ite (.ite (.put h) <| .ite (.put <| .modCtx h) <| .put <| .tretOp h) <| .next <| .tretOp <| .setReg <| .retire h

theorem CanonOut.execTret {d a : ℕ} {s : State} (h : Canon s) : CanonOut (execTret d a s) := .tret h
theorem CanonOut.execTretKill {d a : ℕ} {s : State} (h : Canon s) : CanonOut (execTretKill d a s) := .tret h
theorem CanonOut.execTretFrz {d a : ℕ} {s : State} (h : Canon s) : CanonOut (execTretFrz d a s) := .tret h

theorem CanonOut.execWpset {d a imm : ℕ} {s : State} (h : Canon s) : CanonOut (execWpset d a imm s) := by
  refine .withHandle h ?_
  intro _
  split
  · exact .put h
  · exact .ite (.put h) <| .ite (.put <| .mapAway h) <| .next <| .mapActs <| .setReg <| .retire h

theorem CanonOut.controlForm {s : State} {word : ℕ} {k : Out} (h : Canon s) (h1 : CanonOut k) : CanonOut (s.controlForm word k) :=
  .privForm h <| .ite h1 <| .next <| .trapPriv h

theorem CanonOut.execCfreeze {d a : ℕ} {s : State} (h : Canon s) : CanonOut (execCfreeze d a s) :=
  .privForm h <| .ite (.next <| .trapHere h) <| .ite (.next <| .trapHere h) <| .next <| .freeze <| .setReg <| .retire <| .yieldPoint h

theorem CanonOut.execCthaw {d a : ℕ} {s : State} (h : Canon s) : CanonOut (execCthaw d a s) :=
  .controlForm h <| .ite (.next <| .trapHere h) <| .ite (.put h) <| .put <| .modCtx h

theorem CanonOut.cswap {s : State} {op d a : ℕ} {k : ℕ → ℕ → ℕ × State} (h : Canon s) (hk : ∀ {x0 x1}, Canon (k x0 x1).2) :
    CanonOut (s.cswap op d a k) :=
  .controlForm h <| .ite (.next <| .trapHere h) <| .ite (.put <| .yieldPoint h) <| .put <| .yieldPoint hk

theorem CanonOut.execCswapIn {d a : ℕ} {s : State} (h : Canon s) : CanonOut (execCswapIn d a s) :=
  .cswap h <| .ite_snd h <| .ite_snd h <| .swapIn h

theorem CanonOut.execCswapFast {d a : ℕ} {s : State} (h : Canon s) : CanonOut (execCswapFast d a s) := by
  have hswap {c : ℕ} : Canon (if (s.ctx c).st ≠ 3 then (1, s) else (0, s.swapOut c false)).2 := by
    split
    · exact h
    · dsimp only
      exact .swapOut h
  exact .cswap h hswap

theorem CanonOut.execCswapOut {d a : ℕ} {s : State} (h : Canon s) : CanonOut (execCswapOut d a s) := by
  have hswap {c : ℕ} : Canon (if (s.ctx c).st ≠ 3 then (1, s) else (0, s.swapOut c true)).2 := by
    split
    · exact h
    · dsimp only
      exact .swapOut h
  exact .cswap h hswap

theorem CanonOut.execCswapCreate {d a : ℕ} {s : State} (h : Canon s) : CanonOut (execCswapCreate d a s) :=
  .cswap h <| .ite_snd h <| .ite_snd h <| .ite_snd h <| .setCtxs <| .draw h

theorem CanonOut.execCswapSeal {d a : ℕ} {s : State} (h : Canon s) : CanonOut (execCswapSeal d a s) := by
  refine .cswap h <| .ite_snd h ?_
  split
  · exact h
  · exact .modCtx h

theorem CanonOut.execCswapReset {d a : ℕ} {s : State} (h : Canon s) : CanonOut (execCswapReset d a s) := .cswap h <| .ite_snd h <| .resetCtx h

theorem Gives.qOpen {s : State} {c q die : ℕ} (h : Canon s) : Gives (fun x => Canon x.2) (s.qOpen c q die) := by
  refine .ite (.ok h) <| .ite (.ok h) <| .ite (.ok h) <| .ite (.ok h) ?_
  split
  · exact .error
  · next he2 => exact .ite (.ok <| .of_ok he2 (.engAt h)) <| .ok <| .putQueueSt <| .modQueue <| .hwWrite <| .of_ok he2 (.engAt h)

theorem Canon.qHalt {s : State} {c q : ℕ} (h : Canon s) : Canon (s.qHalt c q).2 := .ite_snd h <| .ite_snd h <| .haltQueue h
theorem Canon.qResume {s : State} {c q : ℕ} (h : Canon s) : Canon (s.qResume c q).2 := .ite_snd h <| .ite_snd h <| .putQueueSt <| .modQueue h
theorem Canon.qClose {s : State} {c q : ℕ} (h : Canon s) : Canon (s.qClose c q).2 := .ite_snd h <| .ite_snd h <| .putQueueSt <| .discardShadow h
theorem Canon.setQres {s : State} {c v : ℕ} (h : Canon s) : Canon (s.setQres c v) := .modCtx h

theorem Canon.parkQcmd {s : State} {c die id cause level addr : ℕ} (h : Canon s) : Canon (s.parkQcmd c die id cause level addr).2 :=
  .modCtx <| .faultRecords <| .openGroup h

theorem Canon.qOpenStep {s : State} {c q : ℕ} (h : Canon s) : Canon (s.qOpenStep c q) := by
  unfold State.qOpenStep
  split
  · next he2 => exact .setQres <| .of_ok he2 (.qOpen h)
  · exact .ite h <| .parkQcmd h
  · exact .freeze <| .log h
  · exact h

theorem CanonOut.execQcmdOpen {ctx q : ℕ} {s : State} (h : Canon s) : CanonOut (execQcmdOpen ctx q s) := .next <| .qOpenStep h
theorem CanonOut.execQcmdHalt {ctx q : ℕ} {s : State} (h : Canon s) : CanonOut (execQcmdHalt ctx q s) := .next <| .setQres <| .qHalt h
theorem CanonOut.execQcmdResume {ctx q : ℕ} {s : State} (h : Canon s) : CanonOut (execQcmdResume ctx q s) := .next <| .setQres <| .qResume h
theorem CanonOut.execQcmdClose {ctx q : ℕ} {s : State} (h : Canon s) : CanonOut (execQcmdClose ctx q s) := .next <| .setQres <| .qClose h

theorem CanonOut.withSreg {s : State} {word n : ℕ} {k : Out} (h : Canon s) (h1 : CanonOut k) : CanonOut (s.withSreg word n k) := by
  unfold State.withSreg
  dsimp only
  split
  · exact .next <| .ite (.impure h) <| .trapIop h
  · exact .ite (.next <| .impure h) h1
  · exact .privForm h h1
  · exact .privForm h <| .ite h1 <| .next <| .trapPriv h
  · exact .privForm h <| .next <| .ite (.trapPriv h) <| .trapIop h

theorem CanonOut.execMfs {d imm : ℕ} {s : State} (h : Canon s) : CanonOut (execMfs d imm s) :=
  .withSreg h <| .ite (.next <| .trapFree h) <| .put h

theorem CanonOut.writeQcmd {s : State} {v : ℕ} (h : Canon s) : CanonOut (s.writeQcmd v) := by
  refine .ite ?_ <| .ite (.next <| .retire <| .setQres <| .qHalt h) <| .ite (.next <| .retire <| .setQres <| .qResume h) <| .ite (.next <|
      .retire <| .setQres <| .qClose h) <| .next <| .retire h
  split
  · next he2 => exact .next <| .retire <| .setQres <| .of_ok he2 (.qOpen h)
  · exact .next <| .block <| .parkQcmd h
  · exact .next <| .freeze <| .log <| .retire h
  · exact .next h

theorem Canon.writeSreg {s : State} {n v : ℕ} (h : Canon s) : Canon (s.writeSreg n v) :=
  .ite (.setWs h) <| .ite (.modMyCore h) <| .ite (.modMyCore h) <| .ite (.modMyCore h) <| .ite (.ite (.modCtx h) h) <|
    .ite (.ite (.modCtx h) h) <| .ite (.setShallot h) <| .ite (.modCtx h) <| .ite (.setCarve h) h

theorem CanonOut.execMts {a imm : ℕ} {s : State} (h : Canon s) : CanonOut (execMts a imm s) :=
  .withSreg h <| .ite (.next <| .trapFree h) <| .ite (.writeQcmd h) <| .next <| .writeSreg <| .retire h

/-! ### Link -/

theorem Canon.bringUp {s : State} {kind k : ℕ} (h : Canon s) : Canon (s.bringUp kind k) := by
  unfold State.bringUp
  extract_lets +onlyGivenNames _ _ v2
  have h2 : Canon v2.2 := by
    unfold v2
    exact .draw <| .draw <| .draw h
  exact .ite (.modDev <| .modLink h2) <| .modLink h2

theorem CanonOut.execLinkTrained {kind idx : ℕ} {s : State} (h : Canon s) : CanonOut (execLinkTrained kind idx s) := .next <| .ite (.bringUp h) h

theorem CanonOut.execLinkTrainingTimeout {kind idx : ℕ} {s : State} (h : Canon s) : CanonOut (execLinkTrainingTimeout kind idx s) :=
  .ite (.next h) <| .ite (.next <| .log <| .modLink h) <| .next <| .modLink h

theorem CanonOut.execLinkRetryLimit {kind idx : ℕ} {s : State} (h : Canon s) : CanonOut (execLinkRetryLimit kind idx s) :=
  .next <| .ite (.modLink h) h

theorem CanonOut.execRetrainRequest {kind idx : ℕ} {s : State} (h : Canon s) : CanonOut (execRetrainRequest kind idx s) :=
  .next <| .ite (.modLink h) h

theorem CanonOut.execLinkAutoRetrain {kind idx : ℕ} {s : State} (h : Canon s) : CanonOut (execLinkAutoRetrain kind idx s) :=
  .next <| .ite (.modLink h) h

theorem Canon.loseWrite {s : State} {p : Posted} (h : Canon s) : Canon (s.loseWrite p) := by
  unfold State.loseWrite
  extract_lets +onlyGivenNames _ _ _ v2
  have h2 : Canon v2 := .mapAway <| .mapActs <| .ite (.wrN <| .flip h) <| .flip h
  split
  · exact .modCmd h2
  · exact h2

theorem Canon.loseReads {s : State} {k : ℕ} {a : Act} (h : Canon s) : Canon (s.loseReads k a) := by
  unfold State.loseReads
  extract_lets +onlyGivenNames _
  refine .foldl (fun h2 => ?_) h
  extract_lets +onlyGivenNames _ v3
  have h3 : Canon v3 := .onAct h2 <| fun h3 => .modCur <| .restoreWin h3
  exact .ite (.freeze <| .log <| .addLate h3) <| .addLate h3

theorem Canon.poisonPort {s : State} {p : ℕ} (h : Canon s) : Canon (s.poisonPort p) := .modCoh h

theorem Canon.losePod {s : State} {b sub : ℕ} (h : Canon s) : Canon (s.losePod b sub) :=
  .setBar <| .mapAway <| .mapActs <| .foldl (fun h2 => .flushTrapped <| .onAct h2 <| fun h3 => .trapHere h3) h

theorem CanonOut.execLinkDeclaredDown {kind idx : ℕ} {s : State} (h : Canon s) : CanonOut (execLinkDeclaredDown kind idx s) := by
  unfold Machine.execLinkDeclaredDown
  extract_lets +onlyGivenNames _
  refine .ite (.next h) ?_
  extract_lets +onlyGivenNames _ _ _ v2
  have h2 : Canon v2 := .foldl (fun h2 => .loseWrite h2) <| .log <| .modLink h
  extract_lets +onlyGivenNames v3
  have h3 : Canon v3 := .ite h2 <| .foldl (fun h3 => .loseReads h3) h2
  extract_lets +onlyGivenNames v4
  have h4 : Canon v4 := .ite (.poisonPort h3) h3
  exact .next <| .ite (.foldl (fun h5 => .losePod h5) <| .draw h4) h4

theorem CanonOut.execPodBarrierLoss {b : ℕ} {s : State} (h : Canon s) : CanonOut (execPodBarrierLoss b s) := .next <| .ite (.losePod h) h

theorem CanonOut.execLstat {d a : ℕ} {s : State} (h : Canon s) : CanonOut (execLstat d a s) :=
  .ite (.next <| .impure h) <| .ite (.next <| .trapHere h) <| .put h

theorem CanonOut.lstatOp {s : State} {d a op : ℕ} {die : Bool} {k : ℕ → Out} (h : Canon s) (hk : ∀ {x0}, CanonOut (k x0)) :
    CanonOut (s.lstatOp d a op die k) :=
  .ite (.next <| .impure h) <| .ite (.next <| .trapPriv h) <| .ite (.next <| .trapHere h) <| .ite (.next <| .trapIop h) hk

theorem CanonOut.lstatMove {s : State} {d a op : ℕ} {from_ : List ℕ} {f : Link → Link} (h : Canon s) : CanonOut (s.lstatMove d a op from_ f) :=
  .lstatOp h <| .ite (.put <| .modLink h) <| .put h

theorem CanonOut.execLstatQuiesce {d a : ℕ} {s : State} (h : Canon s) : CanonOut (execLstatQuiesce d a s) := .lstatMove h
theorem CanonOut.execLstatResume {d a : ℕ} {s : State} (h : Canon s) : CanonOut (execLstatResume d a s) := .lstatMove h
theorem CanonOut.execLstatIsolate {d a : ℕ} {s : State} (h : Canon s) : CanonOut (execLstatIsolate d a s) := .lstatMove h

theorem CanonOut.lstatTrain {s : State} {d v : ℕ} {f : Link → Link} (h : Canon s) : CanonOut (s.lstatTrain d v f) :=
  .next <| .block <| .modLink h

theorem CanonOut.execLstatRetrain {d a : ℕ} {s : State} (h : Canon s) : CanonOut (execLstatRetrain d a s) :=
  .lstatOp h <| .ite (.lstatTrain h) <| .put h

theorem CanonOut.execLstatRelink {d a : ℕ} {s : State} (h : Canon s) : CanonOut (execLstatRelink d a s) :=
  .lstatOp h <| .ite (.lstatTrain h) <| .put h

theorem CanonOut.execLstatClr {d a : ℕ} {s : State} (h : Canon s) : CanonOut (execLstatClr d a s) := .lstatOp h <| .put <| .modLink h

theorem Canon.endLinkWait {s : State} {d kind idx : ℕ} (h : Canon s) : Canon (s.endLinkWait d kind idx) :=
  .ite h <| .goOn <| .setReg <| .retire h

theorem CanonOut.dieOp {s : State} {d a op need : ℕ} {k : ℕ → ℕ × State} (h : Canon s) (hk : ∀ {x0}, Canon (k x0).2) :
    CanonOut (s.dieOp d a op need k) :=
  .lstatOp h <| .ite (.put h) <| .ite (.put h) <| .put hk

theorem CanonOut.execLstatDquiesce {d a : ℕ} {s : State} (h : Canon s) : CanonOut (execLstatDquiesce d a s) :=
  .dieOp h <| .ite_snd h <| .modDie <| .foldl (fun h2 => .modLink h2) h

theorem Canon.flushDie {s : State} {d : ℕ} (h : Canon s) : Canon (s.flushDie d) :=
  .mapActs <| .modCoh <| .holdLines <| .killShadows <| .killShadows h

theorem CanonOut.execLstatDflush {d a : ℕ} {s : State} (h : Canon s) : CanonOut (execLstatDflush d a s) := .dieOp h <| .modDie <| .flushDie h

theorem Canon.restartControl {s : State} {die cluster : ℕ} (h : Canon s) : Canon (s.restartControl die cluster) :=
  .foldl (fun h2 => .modCore h2) h

theorem Canon.dropTraffic {s : State} {d : ℕ} (h : Canon s) : Canon (s.dropTraffic d) :=
  .foldl (fun h2 => .acked h2) <| .foldl (fun h2 => .leaveLine h2) <| .modCoh h

theorem Canon.resetDie {s : State} {d : ℕ} (h : Canon s) : Canon (s.resetDie d) :=
  .modDie <| .modWork <| .setClusters <| .foldl (fun h2 => .modLink h2) <| .modCoh <| .dropTraffic <| .zeroed <| .restartControl <|
    .setCores <| .removeActs h

theorem CanonOut.execLstatDreset {d a : ℕ} {s : State} (h : Canon s) : CanonOut (execLstatDreset d a s) := .dieOp h <| .resetDie h
theorem CanonOut.execDieResetDone {die : ℕ} {s : State} (h : Canon s) : CanonOut (execDieResetDone die s) := .next <| .ite (.modDie h) h
theorem CanonOut.execLstatDadmit {d a : ℕ} {s : State} (h : Canon s) : CanonOut (execLstatDadmit d a s) := .dieOp h <| .ite_snd (.modDie h) h

/-! ### Device -/

theorem Canon.sealEgress {s : State} (h : Canon s) : Canon s.sealEgress :=
  .foldl (fun h2 => .restartControl h2) <| .foldl (fun h2 => .restartControl h2) h

theorem Canon.trainAll {s : State} {kind : ℕ} {ks : List ℕ} (h : Canon s) : Canon (s.trainAll kind ks) := .foldl (fun h2 => .bringUp h2) h
theorem Canon.trainFar {s : State} (h : Canon s) : Canon s.trainFar := .foldl (fun h2 => .ite (.bringUp <| .flip h2) <| .modLink <| .flip h2) h
theorem Canon.bootFail {s : State} {step code : ℕ} (h : Canon s) : Canon (s.bootFail step code) := .modDev h

theorem Canon.bootRun {s : State} {failStep code : ℕ} (h : Canon s) : Canon (s.bootRun failStep code) := by
  unfold State.bootRun
  refine .ite (.bootFail h) ?_
  extract_lets +onlyGivenNames v2
  have h2 : Canon v2 := .sealEgress h
  refine .ite (.bootFail h2) <| .ite (.bootFail h2) ?_
  extract_lets +onlyGivenNames v3
  have h3 : Canon v3 := .modDev <| .trainAll h2
  exact .ite (.bootFail h3) <| .modDev <| .draw <| .trainFar <| .trainAll h3

theorem CanonOut.execColdReset {failStep code : ℕ} {s : State} (h : Canon s) : CanonOut (execColdReset failStep code s) := by
  have hkept {q : Sched} : Canon { mem := keepOutside s.mem, sched := q } := Memory.filter_wf _ _ h
  exact .next <| .ite (.bootRun hkept) <| .bootRun hkept

theorem Canon.setDevnum {s : State} {v : ℕ} (h : Canon s) : Canon (s.setDevnum v) := .ite h <| .foldl (fun h2 => .modLink h2) <| .modDev h
theorem CanonOut.execDevnumWrite {v : ℕ} {s : State} (h : Canon s) : CanonOut (execDevnumWrite v s) := .next <| .setDevnum h

theorem CanonOut.execRegisterWrite {off v : ℕ} {s : State} (h : Canon s) : CanonOut (execRegisterWrite off v s) :=
  .next <| .ite h <| .ite (.setDevnum h) <| .ite (.modDev h) <| .ite (.modDev h) <| .ite (.hostReplay h) <| .ite (.modDev h) <|
    .ite (.modDev h) <| .ite (.modDev h) <| .ite (.ringDoor h) <| .ite (.modDev h) <| .ite (.modDev h) <| .ite (.modDev h) h

theorem CanonOut.execPowerSample {draw : ℕ} {s : State} (h : Canon s) : CanonOut (execPowerSample draw s) :=
  .ite (.next <| .ite (.log <| .modDev h) <| .modDev h) <| .next <| .modDev h

theorem CanonOut.execThermalSample {t0 t1 t2 t3 : ℕ} {s : State} (h : Canon s) : CanonOut (execThermalSample t0 t1 t2 t3 s) := by
  unfold Machine.execThermalSample
  extract_lets +onlyGivenNames _ _ _ _ _ _ _ v2
  have h2 : Canon v2 := .ite (.log <| .modDev h) <| .modDev h
  exact .next <| .ite (.log h2) h2

theorem CanonOut.execDoeIdent {s : State} (h : Canon s) : CanonOut (execDoeIdent s) := .next <| .modDev h
theorem CanonOut.execDoeReport {nonce ctx : ℕ} {s : State} (h : Canon s) : CanonOut (execDoeReport nonce ctx s) := .next <| .modDev h

theorem CanonOut.execDoeInvalidObject {ty len : ℕ} {s : State} (h : Canon s) : CanonOut (execDoeInvalidObject ty len s) :=
  .next <| .ite h <| .modDev h

/-! ### Scalar -/

theorem CanonOut.execAdd {w : IW} {d a b : ℕ} {s : State} (h : Canon s) : CanonOut (execAdd w d a b s) := .put h
theorem CanonOut.execSub {w : IW} {d a b : ℕ} {s : State} (h : Canon s) : CanonOut (execSub w d a b s) := .put h
theorem CanonOut.execAnd {w : IW} {d a b : ℕ} {s : State} (h : Canon s) : CanonOut (execAnd w d a b s) := .put h
theorem CanonOut.execOr {w : IW} {d a b : ℕ} {s : State} (h : Canon s) : CanonOut (execOr w d a b s) := .put h
theorem CanonOut.execXor {w : IW} {d a b : ℕ} {s : State} (h : Canon s) : CanonOut (execXor w d a b s) := .put h
theorem CanonOut.execAndn {w : IW} {d a b : ℕ} {s : State} (h : Canon s) : CanonOut (execAndn w d a b s) := .put h
theorem CanonOut.execOrn {w : IW} {d a b : ℕ} {s : State} (h : Canon s) : CanonOut (execOrn w d a b s) := .put h
theorem CanonOut.execMin {w : IW} {d a b : ℕ} {s : State} (h : Canon s) : CanonOut (execMin w d a b s) := .put h
theorem CanonOut.execMax {w : IW} {d a b : ℕ} {s : State} (h : Canon s) : CanonOut (execMax w d a b s) := .put h
theorem CanonOut.execMinn {w : IW} {d a b : ℕ} {s : State} (h : Canon s) : CanonOut (execMinn w d a b s) := .put h
theorem CanonOut.execMaxn {w : IW} {d a b : ℕ} {s : State} (h : Canon s) : CanonOut (execMaxn w d a b s) := .put h
theorem CanonOut.execAdds {w : IW} {d a b : ℕ} {s : State} (h : Canon s) : CanonOut (execAdds w d a b s) := .put h
theorem CanonOut.execSubs {w : IW} {d a b : ℕ} {s : State} (h : Canon s) : CanonOut (execSubs w d a b s) := .put h
theorem CanonOut.execAbsd {w : IW} {d a b : ℕ} {s : State} (h : Canon s) : CanonOut (execAbsd w d a b s) := .put h
theorem CanonOut.execAddi {d a imm : ℕ} {s : State} (h : Canon s) : CanonOut (execAddi d a imm s) := .put h
theorem CanonOut.execAndi {d a imm : ℕ} {s : State} (h : Canon s) : CanonOut (execAndi d a imm s) := .put h
theorem CanonOut.execOri {d a imm : ℕ} {s : State} (h : Canon s) : CanonOut (execOri d a imm s) := .put h
theorem CanonOut.execXori {d a imm : ℕ} {s : State} (h : Canon s) : CanonOut (execXori d a imm s) := .put h
theorem CanonOut.execMini {d a imm : ℕ} {s : State} (h : Canon s) : CanonOut (execMini d a imm s) := .put h
theorem CanonOut.execMaxi {d a imm : ℕ} {s : State} (h : Canon s) : CanonOut (execMaxi d a imm s) := .put h
theorem CanonOut.execSll {w : IW} {d a b : ℕ} {s : State} (h : Canon s) : CanonOut (execSll w d a b s) := .put h
theorem CanonOut.execSllImm {w : IW} {d a imm hi : ℕ} {s : State} (h : Canon s) : CanonOut (execSllImm w d a imm hi s) := .put h
theorem CanonOut.execSrl {w : IW} {d a b : ℕ} {s : State} (h : Canon s) : CanonOut (execSrl w d a b s) := .put h
theorem CanonOut.execSrlImm {w : IW} {d a imm hi : ℕ} {s : State} (h : Canon s) : CanonOut (execSrlImm w d a imm hi s) := .put h
theorem CanonOut.execSra {w : IW} {d a b : ℕ} {s : State} (h : Canon s) : CanonOut (execSra w d a b s) := .put h
theorem CanonOut.execSraImm {w : IW} {d a imm hi : ℕ} {s : State} (h : Canon s) : CanonOut (execSraImm w d a imm hi s) := .put h
theorem CanonOut.execRol {w : IW} {d a b : ℕ} {s : State} (h : Canon s) : CanonOut (execRol w d a b s) := .put h
theorem CanonOut.execRolImm {w : IW} {d a imm hi : ℕ} {s : State} (h : Canon s) : CanonOut (execRolImm w d a imm hi s) := .put h
theorem CanonOut.execRor {w : IW} {d a b : ℕ} {s : State} (h : Canon s) : CanonOut (execRor w d a b s) := .put h
theorem CanonOut.execRorImm {w : IW} {d a imm hi : ℕ} {s : State} (h : Canon s) : CanonOut (execRorImm w d a imm hi s) := .put h
theorem CanonOut.execExt {d a b : ℕ} {s : State} (h : Canon s) : CanonOut (execExt d a b s) := .put h
theorem CanonOut.execExtn {d a b : ℕ} {s : State} (h : Canon s) : CanonOut (execExtn d a b s) := .put h
theorem CanonOut.execIns {d a b : ℕ} {s : State} (h : Canon s) : CanonOut (execIns d a b s) := .put h
theorem CanonOut.execClz {w : IW} {d a : ℕ} {s : State} (h : Canon s) : CanonOut (execClz w d a s) := .put h
theorem CanonOut.execCtz {w : IW} {d a : ℕ} {s : State} (h : Canon s) : CanonOut (execCtz w d a s) := .put h
theorem CanonOut.execPop {w : IW} {d a : ℕ} {s : State} (h : Canon s) : CanonOut (execPop w d a s) := .put h
theorem CanonOut.execBrev {w : IW} {d a : ℕ} {s : State} (h : Canon s) : CanonOut (execBrev w d a s) := .put h
theorem CanonOut.execBswap {w : IW} {d a : ℕ} {s : State} (h : Canon s) : CanonOut (execBswap w d a s) := .put h
theorem CanonOut.execCmp {w : IW} {d a b x : ℕ} {s : State} (h : Canon s) : CanonOut (execCmp w d a b x s) := .put h
theorem CanonOut.execCsel {d a b x : ℕ} {s : State} (h : Canon s) : CanonOut (execCsel d a b x s) := .ite (.put h) <| .put h
theorem CanonOut.execMul {w : IW} {d a b la : ℕ} {s : State} (h : Canon s) : CanonOut (execMul w d a b la s) := .putLa h
theorem CanonOut.execMulh {w : IW} {d a b la : ℕ} {s : State} (h : Canon s) : CanonOut (execMulh w d a b la s) := .putLa h
theorem CanonOut.execMulhn {w : IW} {d a b la : ℕ} {s : State} (h : Canon s) : CanonOut (execMulhn w d a b la s) := .putLa h
theorem CanonOut.execDiv {w : IW} {d a b la : ℕ} {s : State} (h : Canon s) : CanonOut (execDiv w d a b la s) := .putLa h
theorem CanonOut.execDivn {w : IW} {d a b la : ℕ} {s : State} (h : Canon s) : CanonOut (execDivn w d a b la s) := .putLa h
theorem CanonOut.execRem {w : IW} {d a b la : ℕ} {s : State} (h : Canon s) : CanonOut (execRem w d a b la s) := .putLa h
theorem CanonOut.execRemn {w : IW} {d a b la : ℕ} {s : State} (h : Canon s) : CanonOut (execRemn w d a b la s) := .putLa h
theorem CanonOut.execLdhi {d imm : ℕ} {s : State} (h : Canon s) : CanonOut (execLdhi d imm s) := .put h
theorem CanonOut.execPcrel {d imm : ℕ} {s : State} (h : Canon s) : CanonOut (execPcrel d imm s) := .put h
theorem CanonOut.execPtag {d a b : ℕ} {s : State} (h : Canon s) : CanonOut (execPtag d a b s) := .put h
theorem CanonOut.padd {s : State} {d a : ℕ} {y : ℤ} (h : Canon s) : CanonOut (s.padd d a y) := .ite (.next <| .trapHere h) <| .put h
theorem CanonOut.execPadd {d a b : ℕ} {s : State} (h : Canon s) : CanonOut (execPadd d a b s) := .padd h
theorem CanonOut.execPsub {d a b : ℕ} {s : State} (h : Canon s) : CanonOut (execPsub d a b s) := .padd h
theorem CanonOut.execPfmt {d a : ℕ} {s : State} (h : Canon s) : CanonOut (execPfmt d a s) := .put h
theorem CanonOut.execPclr {d a : ℕ} {s : State} (h : Canon s) : CanonOut (execPclr d a s) := .put h

theorem CanonOut.branch {s : State} {len : ℕ} {taken : Bool} {target : ℕ} (h : Canon s) : CanonOut (s.branch len taken target) :=
  .next <| .ite (.setPc h) <| .retire h

theorem CanonOut.execBeq {a b imm : ℕ} {s : State} (h : Canon s) : CanonOut (execBeq a b imm s) := .branch h
theorem CanonOut.execBne {a b imm : ℕ} {s : State} (h : Canon s) : CanonOut (execBne a b imm s) := .branch h
theorem CanonOut.execBlt {a b imm : ℕ} {s : State} (h : Canon s) : CanonOut (execBlt a b imm s) := .branch h
theorem CanonOut.execBge {a b imm : ℕ} {s : State} (h : Canon s) : CanonOut (execBge a b imm s) := .branch h
theorem CanonOut.execBltn {a b imm : ℕ} {s : State} (h : Canon s) : CanonOut (execBltn a b imm s) := .branch h
theorem CanonOut.execBgen {a b imm : ℕ} {s : State} (h : Canon s) : CanonOut (execBgen a b imm s) := .branch h
theorem CanonOut.execBbs {a b imm : ℕ} {s : State} (h : Canon s) : CanonOut (execBbs a b imm s) := .branch h
theorem CanonOut.execBbc {a b imm : ℕ} {s : State} (h : Canon s) : CanonOut (execBbc a b imm s) := .branch h
theorem CanonOut.jumpLink {s : State} {len d target : ℕ} (h : Canon s) : CanonOut (s.jumpLink len d target) := .next <| .setPc <| .setReg h
theorem CanonOut.execJl {d imm : ℕ} {s : State} (h : Canon s) : CanonOut (execJl d imm s) := .jumpLink h
theorem CanonOut.execJlr {d a imm : ℕ} {s : State} (h : Canon s) : CanonOut (execJlr d a imm s) := .jumpLink h
theorem CanonOut.execCMv {d src : ℕ} {s : State} (h : Canon s) : CanonOut (execCMv d src s) := .put h
theorem CanonOut.execCAdd {d src : ℕ} {s : State} (h : Canon s) : CanonOut (execCAdd d src s) := .put h
theorem CanonOut.execCSub {d src : ℕ} {s : State} (h : Canon s) : CanonOut (execCSub d src s) := .put h
theorem CanonOut.execCXor {d src : ℕ} {s : State} (h : Canon s) : CanonOut (execCXor d src s) := .put h
theorem CanonOut.execCAddi {d imm : ℕ} {s : State} (h : Canon s) : CanonOut (execCAddi d imm s) := .put h
theorem CanonOut.execCLi {d imm : ℕ} {s : State} (h : Canon s) : CanonOut (execCLi d imm s) := .put h
theorem CanonOut.execCSll {d imm : ℕ} {s : State} (h : Canon s) : CanonOut (execCSll d imm s) := .put h
theorem CanonOut.execCSrl {d imm : ℕ} {s : State} (h : Canon s) : CanonOut (execCSrl d imm s) := .put h
theorem CanonOut.execCSra {d imm : ℕ} {s : State} (h : Canon s) : CanonOut (execCSra d imm s) := .put h
theorem CanonOut.execCAndi {d imm : ℕ} {s : State} (h : Canon s) : CanonOut (execCAndi d imm s) := .put h
theorem CanonOut.execCBz {a imm : ℕ} {s : State} (h : Canon s) : CanonOut (execCBz a imm s) := .branch h
theorem CanonOut.execCBnz {a imm : ℕ} {s : State} (h : Canon s) : CanonOut (execCBnz a imm s) := .branch h
theorem CanonOut.execCJ {imm : ℕ} {s : State} (h : Canon s) : CanonOut (execCJ imm s) := .next <| .setPc h
theorem CanonOut.execCJr {src : ℕ} {s : State} (h : Canon s) : CanonOut (execCJr src s) := .next <| .setPc h
theorem CanonOut.execCJlr {d src : ℕ} {s : State} (h : Canon s) : CanonOut (execCJlr d src s) := .jumpLink h

theorem CanonRes.skipFrom : ∀ {s : State} {n k : ℕ}, Canon s → CanonRes (State.skipFrom s n k)
  | _, 0, _, h => .ok h
  | _, _ + 1, _, h => by
    unfold State.skipFrom
    exact .bind (.fetchAt h) <| fun h1 => .skipFrom h1

theorem CanonOut.execCSk {a cond cnt : ℕ} {s : State} (h : Canon s) : CanonOut (execCSk a cond cnt s) :=
  .ite (.done (.skipFrom h) <| fun h2 => .setPc h2) <| .next <| .retire h

/-! ### VecMem -/

theorem Gives.checkParts : ∀ {s : State} {w : Who} {acc : ℕ} {l : List Part}, Canon s → Gives (fun x => Canon x.2) (State.checkParts s w acc l)
  | _, _, _, [], h => .ok h
  | _, _, _, _ :: _, h => by
    unfold State.checkParts
    split
    · exact .error
    · next he1 =>
        split
        · exact .error
        · next he2 => exact .ok <| .of_ok he2 (.checkParts <| .of_ok he1 (.checkE h))

theorem CanonRes.checkVec {s : State} {acc : ℕ} {ps : List Part} (h : Canon s) : CanonRes (s.checkVec acc ps) := by
  unfold State.checkVec
  dsimp only
  split
  · next he2 => exact .ok <| .of_ok he2 (.checkParts h)
  · split
    · exact .failAcc h
    · exact .stop <| .faultWait h
  · exact .failAcc h

theorem Canon.readParts : ∀ {s : State} {w : Who} {l : List (Loc × Part)}, Canon s → Canon (State.readParts s w l).2
  | _, _, [], h => h
  | _, _, (_, _) :: _, h => by
    unfold State.readParts
    exact .readParts <| .readAt h

theorem Gives.writeParts : ∀ {s : State} {w : Who} {l : List (Loc × ℕ × ℕ)}, Canon s → Gives Canon (State.writeParts s w l)
  | _, _, [], h => .ok h
  | _, _, (_, (_, _)) :: _, h => by
    unfold State.writeParts
    split
    · exact .error
    · next he1 => exact .writeParts <| .of_ok_st he1 (.writeAt h)

theorem CanonOut.storeVec {s : State} {ps : List Part} {vs : List ℕ} {fl : ℕ} (h : Canon s) : CanonOut (s.storeVec ps vs fl) := by
  refine .out (.checkVec h) <| fun h2 => ?_
  split
  · exact .halt <| .failAcc h2
  · next he3 => exact .next <| .of_ok_st he3 (.writeParts <| .orFlags <| .retire h2)

theorem CanonRes.loadVec {s : State} {ps : List Part} (h : Canon s) : CanonRes (s.loadVec ps) :=
  .bind (.checkVec h) <| fun h2 => .ok <| .readParts h2

theorem CanonOut.execVld {w : FW} {d a b la : ℕ} {s : State} (h : Canon s) : CanonOut (execVld w d a b la s) :=
  .out (.loadVec h) <| fun h2 => .putVec h2

theorem CanonOut.execVst {w : FW} {d a b : ℕ} {s : State} (h : Canon s) : CanonOut (execVst w d a b s) := .storeVec h

theorem CanonOut.execVlds {w : FW} {d a b la : ℕ} {s : State} (h : Canon s) : CanonOut (execVlds w d a b la s) :=
  .out (.loadVec h) <| fun h2 => .putVec h2

theorem CanonOut.execVstf {w : FW} {d a rm srcf : ℕ} {s : State} (h : Canon s) : CanonOut (execVstf w d a rm srcf s) := .storeVec h
theorem CanonOut.execVgat {d a b la : ℕ} {s : State} (h : Canon s) : CanonOut (execVgat d a b la s) := .out (.loadVec h) <| fun h2 => .putVec h2
theorem CanonOut.execVsca {d a b : ℕ} {s : State} (h : Canon s) : CanonOut (execVsca d a b s) := .storeVec h

theorem CanonOut.execVldt {d a b la : ℕ} {s : State} (h : Canon s) : CanonOut (execVldt d a b la s) :=
  .ite (.next <| .trapHere h) <| .out (.loadWords h) <| fun h2 => .ite (.next <| .trapFree h2) <| .ite (.next <| .trapHere h2) <|
    .out (.loadVec h2) <| fun h3 => .putVec h3

/-! ### Waiting -/

theorem Canon.wake {s : State} (h : Canon s) : Canon s.wake := .goOn h

theorem Canon.endWait {s : State} (h : Canon s) : Canon s.endWait := by
  unfold State.endWait
  split
  · exact .retrySend h
  · refine .ite h ?_
    split
    · exact .raiseLate <| .wake h
    · exact .tlAcquire <| .retire <| .wake h
  · exact .ite (.endBarWait h) <| .phaseIfDue h
  · exact h
  · split
    · exact .remeet h
    · exact h
  · exact .serve h
  · exact .serve h
  · exact .endLinkWait h
  · exact h
  · exact .endDrainWait h
  · exact .endKilled h
  · exact h
  · exact h
  · exact h

theorem CanonOut.execWaitEnd {act : ℕ} {s : State} (h : Canon s) : CanonOut (execWaitEnd act s) := by
  unfold Machine.execWaitEnd
  split
  · exact .next h
  · exact .ite (.next <| .flushTrapped <| .onAct h <| fun h3 => .endWait h3) <| .next h

/-! ### Dispatch -/

/-- What any instruction, or any step of another agent, answers is canonical. -/
theorem CanonOut.exec {s : State} {i : Instr} (h : Canon s) : CanonOut (exec i s) :=
  match i with
  | .add .. => .execAdd h
  | .sub .. => .execSub h
  | .and .. => .execAnd h
  | .or .. => .execOr h
  | .xor .. => .execXor h
  | .andn .. => .execAndn h
  | .orn .. => .execOrn h
  | .min .. => .execMin h
  | .max .. => .execMax h
  | .minn .. => .execMinn h
  | .maxn .. => .execMaxn h
  | .adds .. => .execAdds h
  | .subs .. => .execSubs h
  | .absd .. => .execAbsd h
  | .addi .. => .execAddi h
  | .andi .. => .execAndi h
  | .ori .. => .execOri h
  | .xori .. => .execXori h
  | .mini .. => .execMini h
  | .maxi .. => .execMaxi h
  | .sll .. => .execSll h
  | .sllImm .. => .execSllImm h
  | .srl .. => .execSrl h
  | .srlImm .. => .execSrlImm h
  | .sra .. => .execSra h
  | .sraImm .. => .execSraImm h
  | .rol .. => .execRol h
  | .rolImm .. => .execRolImm h
  | .ror .. => .execRor h
  | .rorImm .. => .execRorImm h
  | .ext .. => .execExt h
  | .extn .. => .execExtn h
  | .ins .. => .execIns h
  | .clz .. => .execClz h
  | .ctz .. => .execCtz h
  | .pop .. => .execPop h
  | .brev .. => .execBrev h
  | .bswap .. => .execBswap h
  | .cmp .. => .execCmp h
  | .csel .. => .execCsel h
  | .mul .. => .execMul h
  | .mulh .. => .execMulh h
  | .mulhn .. => .execMulhn h
  | .div .. => .execDiv h
  | .divn .. => .execDivn h
  | .rem .. => .execRem h
  | .remn .. => .execRemn h
  | .ldhi .. => .execLdhi h
  | .pcrel .. => .execPcrel h
  | .ptag .. => .execPtag h
  | .padd .. => .execPadd h
  | .psub .. => .execPsub h
  | .pfmt .. => .execPfmt h
  | .pclr .. => .execPclr h
  | .beq .. => .execBeq h
  | .bne .. => .execBne h
  | .blt .. => .execBlt h
  | .bge .. => .execBge h
  | .bltn .. => .execBltn h
  | .bgen .. => .execBgen h
  | .bbs .. => .execBbs h
  | .bbc .. => .execBbc h
  | .jl .. => .execJl h
  | .jlr .. => .execJlr h
  | .cMv .. => .execCMv h
  | .cAdd .. => .execCAdd h
  | .cSub .. => .execCSub h
  | .cXor .. => .execCXor h
  | .cAddi .. => .execCAddi h
  | .cLi .. => .execCLi h
  | .cLd .. => .execCLd h
  | .cSt .. => .execCSt h
  | .cBz .. => .execCBz h
  | .cBnz .. => .execCBnz h
  | .cSk .. => .execCSk h
  | .cSll .. => .execCSll h
  | .cSrl .. => .execCSrl h
  | .cSra .. => .execCSra h
  | .cAndi .. => .execCAndi h
  | .cJ .. => .execCJ h
  | .cJr .. => .execCJr h
  | .cJlr .. => .execCJlr h
  | .fadd .. => .execFadd h
  | .fsub .. => .execFsub h
  | .fmul .. => .execFmul h
  | .fmin .. => .execFmin h
  | .fmax .. => .execFmax h
  | .fsgn .. => .execFsgn h
  | .ffma .. => .execFfma h
  | .fdiv .. => .execFdiv h
  | .fsqrt .. => .execFsqrt h
  | .fcvt .. => .execFcvt h
  | .fcvti .. => .execFcvti h
  | .icvtf .. => .execIcvtf h
  | .fin .. => .execFin h
  | .feq .. => .execFeq h
  | .flt .. => .execFlt h
  | .fle .. => .execFle h
  | .fclass .. => .execFclass h
  | .tget .. => .execTget h
  | .tset .. => .execTset h
  | .ld .. => .execLd h
  | .lda .. => .execLda h
  | .st _ _ _ _ hn => .execSt (hn := hn) h
  | .str .. => .execStr h
  | .stf .. => .execStf h
  | .ldx .. => .execLdx h
  | .stx .. => .execStx h
  | .ldxr .. => .execLdxr h
  | .lde .. => .execLde h
  | .ste .. => .execSte h
  | .amoswap .. => .execAmoswap h
  | .amoadd .. => .execAmoadd h
  | .amoand .. => .execAmoand h
  | .amoor .. => .execAmoor h
  | .amoxor .. => .execAmoxor h
  | .amomin .. => .execAmomin h
  | .amomax .. => .execAmomax h
  | .amominn .. => .execAmominn h
  | .amomaxn .. => .execAmomaxn h
  | .amocas .. => .execAmocas h
  | .amfadd .. => .execAmfadd h
  | .amfmin .. => .execAmfmin h
  | .amfmax .. => .execAmfmax h
  | .radd _ _ _ la => .execRadd (la := la) h
  | .rflush _ _ la => .execRflush (la := la) h
  | .ldres .. => .execLdres h
  | .stcond .. => .execStcond h
  | .raddi _ _ _ la => .execRaddi (la := la) h
  | .fence .. => .execFence h
  | .tlwait .. => .execTlwait h
  | .tltest .. => .execTltest h
  | .hint k rest => .execHint (k := k) (rest := rest) h
  | .cpy _ _ _ _ la => .execCpy (la := la) h
  | .cpyt _ _ _ _ la => .execCpyt (la := la) h
  | .cpyg _ _ _ _ la => .execCpyg (la := la) h
  | .trread .. => .execTrread h
  | .vclaim .. => .execVclaim h
  | .vrel => .execVrel h
  | .vlen .. => .execVlen h
  | .vsplat .. => .execVsplat h
  | .vadd .. => .execVadd h
  | .vsub .. => .execVsub h
  | .vand .. => .execVand h
  | .vor .. => .execVor h
  | .vxor .. => .execVxor h
  | .vmin .. => .execVmin h
  | .vmax .. => .execVmax h
  | .vadds .. => .execVadds h
  | .vsubs .. => .execVsubs h
  | .vmul .. => .execVmul h
  | .vsll .. => .execVsll h
  | .vsrl .. => .execVsrl h
  | .vsra .. => .execVsra h
  | .vcmpeq .. => .execVcmpeq h
  | .vcmplt .. => .execVcmplt h
  | .vcmple .. => .execVcmple h
  | .vfadd .. => .execVfadd h
  | .vfsub .. => .execVfsub h
  | .vfmul .. => .execVfmul h
  | .vfmin .. => .execVfmin h
  | .vfmax .. => .execVfmax h
  | .vfsgn .. => .execVfsgn h
  | .vfeq .. => .execVfeq h
  | .vflt .. => .execVflt h
  | .vfle .. => .execVfle h
  | .vffma .. => .execVffma h
  | .vfdiv .. => .execVfdiv h
  | .vfsqrt .. => .execVfsqrt h
  | .vcvt .. => .execVcvt h
  | .vicvtf .. => .execVicvtf h
  | .vfcvti .. => .execVfcvti h
  | .vfin .. => .execVfin h
  | .vtget .. => .execVtget h
  | .vtset .. => .execVtset h
  | .vperm .. => .execVperm h
  | .vslide .. => .execVslide h
  | .vbcast .. => .execVbcast h
  | .vnbr .. => .execVnbr h
  | .vcomp .. => .execVcomp h
  | .vexpd .. => .execVexpd h
  | .vget .. => .execVget h
  | .vput .. => .execVput h
  | .vred .. => .execVred h
  | .vfred .. => .execVfred h
  | .vscan .. => .execVscan h
  | .vfscan .. => .execVfscan h
  | .vsort w _ _ _ _ => .execVsort (w := w) h
  | .vsorti .. => .execVsorti h
  | .vtopk w _ _ _ _ => .execVtopk (w := w) h
  | .vld .. => .execVld h
  | .vst .. => .execVst h
  | .vlds .. => .execVlds h
  | .vstf .. => .execVstf h
  | .vgat .. => .execVgat h
  | .vsca .. => .execVsca h
  | .vldt .. => .execVldt h
  | .vpoly .. => .execVpoly h
  | .ppload .. => .execPpload h
  | .gang .. => .execGang h
  | .gmeet .. => .execGmeet h
  | .gleave => .execGleave h
  | .mloads _ _ _ la => .execMloads (la := la) h
  | .mswap _ la => .execMswap (la := la) h
  | .mstream _ _ _ _ la => .execMstream (la := la) h
  | .mzero _ _ la => .execMzero (la := la) h
  | .mread .. => .execMread h
  | .mstore _ _ _ _ la => .execMstore (la := la) h
  | .mscale _ _ la => .execMscale (la := la) h
  | .mweight .. => .execMweight h
  | .mstat .. => .execMstat h
  | .send .. => .execSend h
  | .sendw .. => .execSendw h
  | .halt => .execHalt h
  | .nop => .execNop h
  | .yield => .execYield h
  | .brk => .execBrk h
  | .hret => .execHret h
  | .cnew .. => .execCnew h
  | .cdec .. => .execCdec h
  | .cspawn .. => .execCspawn h
  | .cjoin .. => .execCjoin h
  | .cdone .. => .execCdone h
  | .binit .. => .execBinit h
  | .barr .. => .execBarr h
  | .bwait .. => .execBwait h
  | .btest .. => .execBtest h
  | .pacq .. => .execPacq h
  | .prel .. => .execPrel h
  | .pfill .. => .execPfill h
  | .qlaunch .. => .execQlaunch h
  | .qstat .. => .execQstat h
  | .spstat .. => .execSpstat h
  | .spstatClr .. => .execSpstatClr h
  | .spstatSt .. => .execSpstatSt h
  | .nload _ _ _ _ la => .execNload (la := la) h
  | .nstore _ _ _ _ la => .execNstore (la := la) h
  | .ndel _ _ _ _ la => .execNdel (la := la) h
  | .ninit .. => .execNinit h
  | .nsnap .. => .execNsnap h
  | .nsnapRel .. => .execNsnapRel h
  | .nfree .. => .execNfree h
  | .nstat .. => .execNstat h
  | .ptload .. => .execPtload h
  | .rngset .. => .execRngset h
  | .tlbinv .. => .execTlbinv h
  | .l1inv => .execL1inv h
  | .l2wb .. => .execL2wb h
  | .heatrd .. => .execHeatrd h
  | .heatage .. => .execHeatage h
  | .pfreplay .. => .execPfreplay h
  | .ckpt .. => .execCkpt h
  | .trap .. => .execTrap h
  | .tret .. => .execTret h
  | .tretKill .. => .execTretKill h
  | .tretFrz .. => .execTretFrz h
  | .mfs .. => .execMfs h
  | .mts .. => .execMts h
  | .cfreeze .. => .execCfreeze h
  | .cthaw .. => .execCthaw h
  | .cswapIn .. => .execCswapIn h
  | .cswapFast .. => .execCswapFast h
  | .cswapOut .. => .execCswapOut h
  | .cswapCreate .. => .execCswapCreate h
  | .cswapSeal .. => .execCswapSeal h
  | .cswapReset .. => .execCswapReset h
  | .wpset .. => .execWpset h
  | .lstat .. => .execLstat h
  | .lstatQuiesce .. => .execLstatQuiesce h
  | .lstatResume .. => .execLstatResume h
  | .lstatIsolate .. => .execLstatIsolate h
  | .lstatRetrain .. => .execLstatRetrain h
  | .lstatRelink .. => .execLstatRelink h
  | .lstatClr .. => .execLstatClr h
  | .lstatDquiesce .. => .execLstatDquiesce h
  | .lstatDflush .. => .execLstatDflush h
  | .lstatDreset .. => .execLstatDreset h
  | .lstatDadmit .. => .execLstatDadmit h
  | .qcmdOpen .. => .execQcmdOpen h
  | .qcmdHalt .. => .execQcmdHalt h
  | .qcmdResume .. => .execQcmdResume h
  | .qcmdClose .. => .execQcmdClose h
  | .carveWrite .. => .execCarveWrite h
  | .shallotWrite .. => .execShallotWrite h
  | .doorbell .. => .execDoorbell h
  | .devnumWrite .. => .execDevnumWrite h
  | .replay .. => .execReplay h
  | .replayCancel .. => .execReplayCancel h
  | .registerWrite .. => .execRegisterWrite h
  | .doeIdent => .execDoeIdent h
  | .doeReport .. => .execDoeReport h
  | .doeInvalidObject .. => .execDoeInvalidObject h
  | .coldReset .. => .execColdReset h
  | .messageArrival .. => .execMessageArrival h
  | .clauseStart .. => .execClauseStart h
  | .activationPark .. => .execActivationPark h
  | .activationResume .. => .execActivationResume h
  | .waitEnd .. => .execWaitEnd h
  | .watchdogExpiry .. => .execWatchdogExpiry h
  | .longLatencyResult .. => .execLongLatencyResult h
  | .errorReply .. => .execErrorReply h
  | .copyCommandComplete .. => .execCopyCommandComplete h
  | .arrayGrant .. => .execArrayGrant h
  | .matrixCommandComplete .. => .execMatrixCommandComplete h
  | .planeRefetch .. => .execPlaneRefetch h
  | .vpolyRequestTake .. => .execVpolyRequestTake h
  | .barrierPhaseComplete .. => .execBarrierPhaseComplete h
  | .launchTakeUp .. => .execLaunchTakeUp h
  | .groupPlace .. => .execGroupPlace h
  | .wakeBegin .. => .execWakeBegin h
  | .clusterAwake .. => .execClusterAwake h
  | .clusterGate .. => .execClusterGate h
  | .sliceRotation .. => .execSliceRotation h
  | .launchComplete .. => .execLaunchComplete h
  | .shadowStart .. => .execShadowStart h
  | .shadowCommit .. => .execShadowCommit h
  | .reqr .. => .execReqr h
  | .reqw .. => .execReqw h
  | .wb .. => .execWb h
  | .push .. => .execPush h
  | .fwdrd .. => .execFwdrd h
  | .fwdwr .. => .execFwdwr h
  | .inv .. => .execInv h
  | .recall .. => .execRecall h
  | .updin .. => .execUpdin h
  | .data .. => .execData h
  | .dataex .. => .execDataex h
  | .ack .. => .execAck h
  | .wbdone .. => .execWbdone h
  | .nack .. => .execNack h
  | .evi .. => .execEvi h
  | .atsCompletion .. => .execAtsCompletion h
  | .atsInvalidation .. => .execAtsInvalidation h
  | .faultRingRecheck .. => .execFaultRingRecheck h
  | .indexAccept .. => .execIndexAccept h
  | .indexApply .. => .execIndexApply h
  | .nloadComplete .. => .execNloadComplete h
  | .indexReclaim .. => .execIndexReclaim h
  | .checkpointComplete .. => .execCheckpointComplete h
  | .contextResetDone .. => .execContextResetDone h
  | .linkTrained .. => .execLinkTrained h
  | .linkTrainingTimeout .. => .execLinkTrainingTimeout h
  | .linkRetryLimit .. => .execLinkRetryLimit h
  | .retrainRequest .. => .execRetrainRequest h
  | .linkDeclaredDown .. => .execLinkDeclaredDown h
  | .linkAutoRetrain .. => .execLinkAutoRetrain h
  | .podBarrierLoss .. => .execPodBarrierLoss h
  | .dieResetDone .. => .execDieResetDone h
  | .powerSample .. => .execPowerSample h
  | .thermalSample .. => .execThermalSample h
  | .illegalInstruction .. => .execIllegalInstruction h
  | .fetchFault => .execFetchFault h

/-! ### Issue -/

theorem Canon.writeSlot {s : State} {r : ℕ} {v : ℕ × ℕ} (h : Canon s) : Canon (s.writeSlot r v) := .ite (.setReg h) <| .setVr h

theorem Canon.showReg {id : ℕ} {w : Win} {p : List Seen × State} {g : ℕ} (h : Canon p.2) : Canon (showReg id w p g).2 :=
  .foldl_snd (fun h2 => .ite (.onAct h2 <| fun h3 => .writeSlot h3) h2) <| .flip h

theorem Canon.showWins {s : State} {ck out : ℕ} (h : Canon s) : Canon (s.showWins ck out).2 :=
  .foldl_snd (fun h2 => .foldl_snd (fun h3 => .foldl_snd (fun h4 => .showReg h4) h3) h2) h

theorem Canon.hideSeen {n0 : ℕ} {wrote : ℕ → ℕ → Bool} {s : State} {x : Seen} (h : Canon s) : Canon (State.hideSeen n0 wrote s x) := by
  unfold State.hideSeen
  split
  · exact h
  · exact .ite h <| .ite (.onAct h <| fun h3 => .writeSlot h3) <| .onAct (.flip h) <| fun h3 => .modCur <| .ite (.writeSlot h3) h3

theorem Canon.begin {s : State} (h : Canon s) : Canon s.begin := .modCur h

theorem Canon.finish {s0 : State} {seen : List Seen} {i : Instr} {s : State} (h : Canon s) : Canon (s0.finish seen i s) := by
  unfold State.finish
  extract_lets +onlyGivenNames _ _ _ _ v3
  have h3 : Canon v3 := .flushTrapped <| .foldl (fun h3 => .hideSeen h3) h
  exact .ite h3 <| .ite (.modCur h3) <| .ite (.modCur h3) h3

theorem CanonOut.oneWord {s : State} {w : ℕ} (h : Canon s) : CanonOut (s.oneWord w) := by
  unfold State.oneWord
  refine .ite (.next h) ?_
  extract_lets +onlyGivenNames v2
  have h2 : Canon v2.2 := by
    unfold v2
    exact .showWins <| .begin h
  split
  · next he3 => exact .next <| .finish <| .of_next he3 (.exec h2)
  · exact .exec h2

theorem Canon.endFollow {s : State} {f pc next : ℕ} {i : Instr} (h : Canon s) : Canon (s.endFollow f pc next i) :=
  .ite h <| .ite (.ite h <| .modCur h) <| .ite h <| .modCur h

theorem CanonOut.follow {leader pc next w : ℕ} {o : Out} {f : ℕ} (h : CanonOut o) : CanonOut (State.follow leader pc next w o f) := by
  unfold State.follow
  split
  · refine .ite (.next <| .of_next rfl h) ?_
    extract_lets +onlyGivenNames _ v2
    have h2 : Canon v2 := .modMyCore <| .setPc <| .focusOn <| .of_next rfl h
    split
    · exact .next <| .focusOn <| .flushPoly <| .raiseLate h2
    · split
      · next he4 => exact .next <| .focusOn <| .endFollow <| .of_next he4 (.oneWord h2)
      · exact .oneWord h2
  · exact h

theorem Canon.snapDone {s : State} {g : ℕ} (h : Canon s) : Canon (s.snapDone g) := .ite h <| .modSched h

theorem CanonOut.gangWord {s : State} {fs : List Act} {w : ℕ} (h : Canon s) : CanonOut (s.gangWord fs w) := by
  unfold State.gangWord
  extract_lets +onlyGivenNames _ _ _
  split
  · next t he =>
      have ht : CanonOut (.next t) := .next <| .of_next he <| .oneWord <| .modSched h
      extract_lets +onlyGivenNames _ o
      have ho : CanonOut o := .ite (.foldl (fun ho => .follow ho) ht) ht
      clear_value o
      split
      · exact .next <| .snapDone <| .of_next rfl ho
      · exact ho
  · exact .oneWord <| .modSched h

theorem CanonOut.issueCur {s : State} (h : Canon s) : CanonOut s.issueCur := by
  refine .ite (.next <| .flushTrapped <| .trapWsp <| .modMyCore h) ?_
  split
  · exact .next <| .flushPoly <| .raiseLate <| .modMyCore h
  · split
    · next he3 =>
        refine .ite ?_ <| .ite (.oneWord <| .of_res he3 (.fetchAt <| .modMyCore h)) <| .gangWord <| .of_res he3 (.fetchAt <| .modMyCore h)
        split
        · next he4 he5 => exact .next <| .snapDone <| .of_next he4 (.oneWord <| .of_res he3 (.fetchAt <| .modMyCore h))
        · exact .oneWord <| .of_res he3 (.fetchAt <| .modMyCore h)
    · split
      · next he4 => exact .next <| .flushTrapped <| .of_next he4 (.exec <| .modMyCore h)
      · exact .exec <| .modMyCore h

theorem Maybe.issueOn {s : State} {ck : ℕ} (h : Canon s) : Maybe CanonOut (s.issueOn ck) := by
  refine ⟨fun hx => ?_⟩
  obtain ⟨a, -, rfl⟩ := Option.map_eq_some_iff.1 hx
  exact .issueCur <| .focusOn h

/-! ### Schedule -/

theorem Maybe.takeFirst : ∀ {s : State} {l : List Instr}, Canon s → Maybe CanonOut (State.takeFirst s l)
  | _, [], _ => .none
  | _, _ :: _, h => by
    unfold State.takeFirst
    split
    · next he1 => exact .ite (.takeFirst h) <| .some <| .next <| .of_next he1 (.exec h)
    · exact .some <| .exec h

theorem Maybe.agentTurn {s : State} (h : Canon s) : Maybe CanonOut (s.agentTurn) := .takeFirst h

theorem Maybe.coreTurn {s : State} (h : Canon s) : Maybe CanonOut s.coreTurn := by
  refine ⟨fun hx => ?_⟩
  obtain ⟨ck, -, hck⟩ := List.exists_of_findSome?_eq_some hx
  exact (Maybe.issueOn h).some_has hck

theorem Canon.tickDie {s : State} {d : ℕ} (h : Canon s) : Canon (s.tickDie d) := .modDie h
theorem Canon.tick {s : State} (h : Canon s) : Canon s.tick := .foldl (fun h2 => .tickDie h2) <| .modSched h

theorem CanonOut.turn : ∀ {s : State} {tn : Turn}, Canon s → CanonOut (State.turn s tn)
  | _, .event _, h => .ite (.exec h) <| .next h
  | _, .issue _, h => .getD (.issueOn h) <| .next h

theorem Maybe.orElse {α : Type} {P : α → Prop} {o : Option α} {f : Unit → Option α} (ho : Maybe P o) (hf : Maybe P (f ())) :
    Maybe P (o.orElse f) := by
  cases o with
  | none => exact hf
  | some x => exact ho

theorem CanonOut.freeTurn {s : State} (h : Canon s) : CanonOut s.freeTurn :=
  .ite (.getD (.orElse (.coreTurn h) (.agentTurn h)) <| .next h) <| .getD (.orElse (.agentTurn h) (.coreTurn h)) <| .next h

theorem CanonOut.advance {s : State} (h : Canon s) : CanonOut s.advance := by
  unfold State.advance
  split
  · exact .turn <| .modSched <| .tick h
  · exact .freeTurn <| .tick h

/-! ### Step -/

theorem CanonOut.step {s : State} (h : Canon s) : CanonOut (step s) := .advance h

/-- Settles O2: each function of the model that answers a state keeps memory canonical, and a step is one of them. -/
theorem stepKeepsMemoryCanonical : Obligations.StepKeepsMemoryCanonical := fun _ _ h hstep => (CanonOut.step h).next_wf hstep

end Sys2Proof.Machine
end
